-- ==== Sys2Proof/Word.lean ====
section
/-! DEFINITION. The words of the machine and their plainest arithmetic (R6): sizes, bit slices, signed reading. -/

namespace Sys2Proof

/-- A byte of memory (R6). -/
abbrev Byte := BitVec 8

/-- A 32-bit word: an instruction word, a vector register's lane, a location of memory (R6, R215). -/
abbrev Word := BitVec 32

/-- A 64-bit value: a group-wide register, a mask register, an address (R91). -/
abbrev DWord := BitVec 64

/-- One bit per lane; lane l is bit l (R90). -/
abbrev LaneMask := BitVec 64

/-- Bits hi:lo of x as a number (R6). -/
def slice {w : Nat} (x : BitVec w) (hi lo : Nat) : Nat := (x.toNat >>> lo) % 2 ^ (hi + 1 - lo)

/-- x with the n bits from lo replaced by the low n bits of v. -/
def putSlice {w : Nat} (x : BitVec w) (lo n : Nat) (v : Nat) : BitVec w :=
  BitVec.ofNat w (x.toNat % 2 ^ lo + (v % 2 ^ n) <<< lo + (x.toNat >>> (lo + n)) <<< (lo + n))

/-- The low word of a 64-bit value. -/
def lo32 (x : DWord) : Word := x.setWidth 32

/-- The high word of a 64-bit value. -/
def hi32 (x : DWord) : Word := (x >>> 32).setWidth 32

/-- A 64-bit value from its low and its high word (R6). -/
def pair64 (lo hi : Word) : DWord := hi ++ lo

/-- Number of 1 bits among the low n bits. -/
def popBelow {w : Nat} (x : BitVec w) : Nat → Nat
  | 0 => 0
  | n + 1 => popBelow x n + (if x.getLsbD n then 1 else 0)

/-- Number of 1 bits. -/
def popCount {w : Nat} (x : BitVec w) : Nat := popBelow x w

/-- The lanes of a mask in ascending order, among lanes below n. -/
def lanesBelow (m : LaneMask) (n : Nat) : List Nat := (List.range n).filter fun l => m.getLsbD l

/-- The lanes of a mask in ascending order. -/
def lanesOf (m : LaneMask) : List Nat := lanesBelow m 64

/-- The mask with exactly the bits of a list of lanes. -/
def maskOf (ls : List Nat) : LaneMask := ls.foldl (fun m l => m ||| (1#64 <<< l)) 0#64

/-- The mask of the lanes below n: 2^n - 1. -/
def maskBelow (n : Nat) : LaneMask := BitVec.ofNat 64 (2 ^ n - 1)

/-- The lanes below 64 that satisfy f. -/
def maskWhere (f : Nat → Bool) : LaneMask := maskOf ((List.range 64).filter f)

/-- x div y rounded up. -/
def ceilDiv (x y : Nat) : Nat := (x + y - 1) / y

end Sys2Proof
end

