-- ==== Sys2Proof/Machine/Types.lean ====
section
/-! DEFINITION. The fixed sets of names of the manual, and the records that arrive from outside the compute cores. -/

namespace Sys2Proof.Machine

/-- Execution modes (R304). -/
inductive Priv where
  | u | s | h
  deriving DecidableEq, Repr

/-- Code of a mode in PRIVSTAT and in a trap frame (Table 13-2, Table 13-3). -/
def Priv.code : Priv → Nat
  | .u => 0 | .s => 1 | .h => 2

/-- The mode of a code; every code above 1 reads as H. -/
def Priv.ofCode : Nat → Priv
  | 0 => .u | 1 => .s | _ => .h

/-- Cause codes of traps and statuses of futures (R312, Table 13-5). -/
inductive Cause where
  | illegalInstruction | illegalClause | illegalMode | unwaitedRead | emptyRegister
  | returnEmpty | returnOverflow | divergentReturn | illegalLoop | loopOverflow
  | idempotence | arithmetic | privileged | breakpoint
  | translation | protection | rowBounds | indexBypass | duplicateKey | staleHandle
  | integrity | uncorrectable | ownership | migrationRefused | malformedMetadata
  | barrierBroken | misaligned | systemCall | hypercall
  deriving DecidableEq, Repr

/-- The code of a cause (Table 13-5). -/
def Cause.code : Cause → Nat
  | .illegalInstruction => 0x01 | .illegalClause => 0x02 | .illegalMode => 0x03
  | .unwaitedRead => 0x04 | .emptyRegister => 0x05 | .returnEmpty => 0x06
  | .returnOverflow => 0x07 | .divergentReturn => 0x08 | .illegalLoop => 0x09
  | .loopOverflow => 0x0A | .idempotence => 0x0B | .arithmetic => 0x0C
  | .privileged => 0x0D | .breakpoint => 0x0E | .translation => 0x10
  | .protection => 0x11 | .rowBounds => 0x12 | .indexBypass => 0x13
  | .duplicateKey => 0x14 | .staleHandle => 0x15 | .integrity => 0x16
  | .uncorrectable => 0x17 | .ownership => 0x18 | .migrationRefused => 0x19
  | .malformedMetadata => 0x1A | .barrierBroken => 0x1B | .misaligned => 0x1C
  | .systemCall => 0x20 | .hypercall => 0x21

/-- The fourteen element types (R58, Table 3-6). -/
inductive ElemType where
  | i32 | n32 | f32 | bf16x2 | f16x2 | i16x2 | n16x2 | i8x4 | n8x4 | e4m3x4 | e5m2x4 | q4nx8 | i64 | n64
  deriving DecidableEq, Repr

/-- The type of a code; 14 and 15 are illegal (Table 3-6). -/
def ElemType.ofCode : Nat → Option ElemType
  | 0 => some .i32 | 1 => some .n32 | 2 => some .f32 | 3 => some .bf16x2 | 4 => some .f16x2
  | 5 => some .i16x2 | 6 => some .n16x2 | 7 => some .i8x4 | 8 => some .n8x4 | 9 => some .e4m3x4
  | 10 => some .e5m2x4 | 11 => some .q4nx8 | 12 => some .i64 | 13 => some .n64 | _ => none

/-- Rounding modes (R58, R72). -/
inductive Rounding where
  | rne | rtz | rup | rdn
  deriving DecidableEq, Repr

/-- The rounding mode of a code (Table 3-6). -/
def Rounding.ofCode : Nat → Rounding
  | 0 => .rne | 1 => .rtz | 2 => .rup | _ => .rdn

/-- Memory orders (R58). -/
inductive Order where
  | rlx | acq | rel | ar | sc
  deriving DecidableEq, Repr

/-- The order of a code. MEMMODE lets 5 to 7 into no mode register (R59); from an edited frame, flacon or save area they
read as sc (log 45). -/
def Order.ofCode : Nat → Order
  | 0 => .rlx | 1 => .acq | 2 => .rel | 3 => .ar | _ => .sc

/-- Scopes (R217). -/
inductive Scope where
  | blk | clu | pkg | sys | row
  deriving DecidableEq, Repr

/-- The scope of a code. MEMMODE lets 5 to 7 into no mode register (R59); from an edited frame, flacon or save area they
read as row (log 45). -/
def Scope.ofCode : Nat → Scope
  | 0 => .blk | 1 => .clu | 2 => .pkg | 3 => .sys | _ => .row

/-- Access classes (R176, R228, R229). -/
inductive AClass where
  | nrm | vol | inv | strm
  deriving DecidableEq, Repr

/-- The class of a code (Table 3-6). -/
def AClass.ofCode : Nat → AClass
  | 0 => .nrm | 1 => .vol | 2 => .inv | _ => .strm

/-- Atomic operations (R179). -/
inductive AOp where
  | add | min | max | and | or | xor | exch | cas
  deriving DecidableEq, Repr

/-- The atomic operation of a code; 8 to 15 are illegal when used (Table 3-6). -/
def AOp.ofCode : Nat → Option AOp
  | 0 => some .add | 1 => some .min | 2 => some .max | 3 => some .and | 4 => some .or
  | 5 => some .xor | 6 => some .exch | 7 => some .cas | _ => none

/-- A table descriptor (Table 7-2), field by field; reserved holds the OR of every reserved byte. -/
structure TableDesc where
  kind      : Nat
  indexMask : Nat
  uniqueMask : Nat
  tier      : Nat
  payload   : Nat
  node      : Nat
  sec2      : Nat
  sec3      : Nat
  homes     : List Nat
  homeCount : Nat
  capacity  : Nat
  reserved  : Nat
  deriving DecidableEq, Repr

/-- A row image of an executable: the key and the payload words (Table 2-3, R366). -/
structure RowImage where
  key   : Nat
  words : List Word
  deriving DecidableEq, Repr

/-- A table of an executable with its row images. -/
structure ImageTable where
  desc : TableDesc
  rows : List RowImage
  deriving DecidableEq, Repr

/-- A scratch image (R199, Table 2-4): core-in-cluster index, offset and bytes. -/
structure ScratchImage where
  core   : Nat
  offset : Nat
  bytes  : List Byte
  deriving DecidableEq, Repr

/-- An executable image (R41, Table 2-4) as the loader gets it: its bytes, the data words that are to take handles and
addresses (DESIGN CHOICE, log 60), and the places that Kuenrex chooses for it: virtual bases, physical pages and the cluster
map (R42). -/
structure Image where
  bytes      : List Byte
  domain     : Nat
  dataTables : List (Nat × Nat)          -- data offset, table: a word pair to receive a handle (R365)
  dataRecords : List (Nat × Nat)         -- data offset, record: a word pair to receive an address (R40)
  clusterMap : List (Nat × Nat)
  textBase   : Nat
  dataBase   : Nat
  recordBase : Nat
  textPages  : List Nat                  -- physical 64 KiB pages
  dataPages  : List Nat
  recordPages : List Nat
  tableBases : List (Nat × List Nat)     -- virtual base and pages of each table's row store
  deriving DecidableEq, Repr

/-- The sections of an executable image (Table 2-4), read from its bytes. -/
structure Sections where
  text    : List Word
  data    : List Byte
  records : List Byte                    -- 128-byte launch records, one after another
  tables  : List ImageTable
  scratch : List ScratchImage
  relocs  : List (Nat × Nat)             -- the two words of each record (R42)
  deriving DecidableEq, Repr

/-- Registers, tables and control words of the management side that have no behaviour of their own
(R286, R291, R292, R299, R300, R305, R350, R354, R357, R358, R362). -/
inductive MgmtReg where
  | memory (pa : Nat)                     -- one 64-bit word of physical memory (page tables, block table)
  | domainRoot1 (dom : Nat) | domainRoot2 (dom : Nat) | domainKey (dom : Nat)
  | domainCore (dom core : Nat)           -- assigns a core to a domain when the value is not 0 (R264)
  | trapBase (core : Nat) | trapFrame (core : Nat) | hTrapBase (core : Nat)
  | blockTableBase
  | freeSlot (stack cls : Nat)            -- appends a slot to a free list (R292)
  | kuenrexPage                           -- gives Kuenrex a physical 64 KiB page for page tables
  | newKeys (id : Nat)                    -- generates the keys of an identifier (R291)
  | badPage                               -- adds a page to the bad-page list (R299)
  | fuseMinimum (stage : Nat) | fuseRevoke (slot : Nat)
  | route (package : Nat) | port (n : Nat)
  | hostWindowBase (n : Nat) | hostWindowSize (n : Nat) | hostWindowTarget (n : Nat) | hostWindowKey (n : Nat)
  | armTrap | armQueue | armCycleCore | armCycleValue
  | maintenanceWindow
  deriving DecidableEq, Repr

/-- Whose request goes over the links: the package and core, and what translation and sealing use. -/
structure LinkWho where
  package : Nat
  core    : Nat
  domain  : BitVec 16
  keyid   : BitVec 10
  priv    : Priv
  launch  : Nat
  deriving DecidableEq, Repr

/-- A step that a cursor asks of an index in another package (R183, R185): the handle, the place it stands at, and the
end of its range. -/
structure StepAsk where
  handle   : DWord
  floor    : Nat
  hi       : Nat
  position : Option (Nat × Nat)
  ended    : Bool
  deriving DecidableEq, Repr

/-- What a request over the links asks (R354). -/
inductive LinkAsk where
  | table (word mode : Word) (handle : DWord) (lanes : List (Nat × List Word)) -- lanes of a table-space word
  | steps (count : Nat) (lanes : List (Nat × StepAsk))                        -- CSTEP and CSTEPN
  | rows (ref : DWord) (count : Nat)                                           -- words that a gather reads of a block
  | gather (record : List Byte)                                                -- GATH on a table of the receiver
  | promo (ref : DWord)                                                        -- PROMO of a block of the receiver
  | counter (handle : DWord) (sel : Nat)                                       -- PERF of a table of the receiver
  | post (launch : Nat) (value : DWord)                                        -- POST to a launch of the receiver
  | home (domain : BitVec 16) (ref : DWord)                                    -- where the block of a reference lies (R271)
  | slots (domain : BitVec 16) (stack threads : Nat)                           -- continuation slots near a stack (R264)
  | tinv (domain : BitVec 16) (addr : DWord) (second : Bool)                   -- TLB entries to be removed (R317)
  deriving DecidableEq, Repr

/-- What a Dolmond flit carries (R354): a request, the answer to one, lane by lane or whole, continuation slots granted by a
package at a core, the cancellation of a package's PROMO (R295), a flacon, its acknowledgement or the report that its check
failed, continuation slots given back, the exit of threads of a launch of this package (R273), a further 256 bytes of what a
later flit completes, a receiver's call for a replay, and its acknowledgement of flits received. -/
inductive FlitBody where
  | ask (request : Nat) (who : LinkWho) (q : LinkAsk)
  | response (request : Nat) (status : Nat) (words : List Word)
  | results (request : Nat) (lanes : List (Nat × (Nat × List Word)))
  | granted (request package dest threads : Nat)
  | cancel (package request : Nat)
  | flacon (dest : Nat) (intact : Bool) (bytes : List Byte)
  | flaconAck (core slot : Nat) (gen : BitVec 8) (serial : BitVec 16) (lane : Nat) (intact : Bool)
  | slotsBack (dest threads : Nat)
  | threadExit (launch threads : Nat)
  | part
  | replay (seq : Nat)
  | linkAck (seq : Nat)
  deriving DecidableEq, Repr

/-- A Dolmond flit as received: port, sequence number, whether its 32-bit check code is good, contents. -/
structure Flit where
  port : Nat
  seq  : Nat
  good : Bool
  body : FlitBody
  deriving DecidableEq, Repr

end Sys2Proof.Machine
end

