-- ==== Sys2Proof/Syntax.lean ====
section
/-! DEFINITION. The instructions: one constructor per row of the opcode table (R63, Table 3-7), register numbers in
the width of Table 3-3 (a vector pair by half its even register), and the steps that have no encoding. -/

namespace Sys2Proof

/-- The forms of the machine. -/
inductive Instr where
  /-- CLAUSE_HEADER (R46). -/
  | clauseHeader (l : BitVec 8) (w : BitVec 12) (a b : BitVec 4) (n : BitVec 3)
  /-- UNASSIGNED_OPCODE (R64). -/
  | unassignedOpcode (w : BitVec 32)
  /-- NOP (R63). -/
  | nop
  /-- MODE (R57). -/
  | mode (imm : BitVec 16)
  /-- MEMMODE (R218). -/
  | memmode (imm : BitVec 16)
  /-- BRA (R106). -/
  | bra (off : BitVec 24)
  /-- BKZ (R106). -/
  | bkz (d : BitVec 4) (off : BitVec 16)
  /-- BKNZ (R106). -/
  | bknz (d : BitVec 4) (off : BitVec 16)
  /-- BQT (R106). -/
  | bqt (d : BitVec 4) (off : BitVec 16)
  /-- BQF (R106). -/
  | bqf (d : BitVec 4) (off : BitVec 16)
  /-- CALL (R107). -/
  | call (off : BitVec 24)
  /-- CALLG (R107). -/
  | callg (a : BitVec 6)
  /-- JMPG (R106). -/
  | jmpg (a : BitVec 6)
  /-- RET (R107). -/
  | ret
  /-- RETV (R107). -/
  | retv (a : BitVec 8)
  /-- LOOP (R109). -/
  | loop (d : BitVec 6) (off : BitVec 16)
  /-- LEXIT (R111). -/
  | lexit
  /-- EXIT (R112). -/
  | exit
  /-- SREG (R113). -/
  | sreg (d : BitVec 8) (imm : BitVec 16)
  /-- GSREG (R113). -/
  | gsreg (d : BitVec 6) (imm : BitVec 16)
  /-- KFROM (R114). -/
  | kfrom (d : BitVec 4) (a : BitVec 7)
  /-- KAND (R114). -/
  | kand (d : BitVec 4) (a : BitVec 4) (b : BitVec 4)
  /-- KOR (R114). -/
  | kor (d : BitVec 4) (a : BitVec 4) (b : BitVec 4)
  /-- KANDN (R114). -/
  | kandn (d : BitVec 4) (a : BitVec 4) (b : BitVec 4)
  /-- KXOR (R114). -/
  | kxor (d : BitVec 4) (a : BitVec 4) (b : BitVec 4)
  /-- KMOV (R114). -/
  | kmov (d : BitVec 4) (a : BitVec 4)
  /-- KPOP (R114). -/
  | kpop (d : BitVec 6) (a : BitVec 4)
  /-- KTOG (R114). -/
  | ktog (d : BitVec 6) (a : BitVec 4)
  /-- GTOK (R114). -/
  | gtok (d : BitVec 4) (a : BitVec 6)
  /-- PHINT (R321). -/
  | phint (a : BitVec 6) (b : BitVec 6)
  /-- IDEM (R326). -/
  | idem (a : BitVec 6) (b : BitVec 6)
  /-- IDEND (R326). -/
  | idend
  /-- BWPHASE (R287). -/
  | bwphase (n : BitVec 2)
  /-- LAUNCH (R115). -/
  | launch (d : BitVec 6) (a : BitVec 6)
  /-- ADD (R132). -/
  | add (d : BitVec 8) (a : BitVec 8) (b : BitVec 8)
  /-- SUB (R132). -/
  | sub (d : BitVec 8) (a : BitVec 8) (b : BitVec 8)
  /-- MUL (R132). -/
  | mul (d : BitVec 8) (a : BitVec 8) (b : BitVec 8)
  /-- MULH (R132). -/
  | mulh (d : BitVec 8) (a : BitVec 8) (b : BitVec 8)
  /-- MAD (R133). -/
  | mad (d : BitVec 8) (a : BitVec 8) (b : BitVec 8)
  /-- MSB (R133). -/
  | msb (d : BitVec 8) (a : BitVec 8) (b : BitVec 8)
  /-- DIV (R134). -/
  | div (d : BitVec 8) (a : BitVec 8) (b : BitVec 8)
  /-- REM (R132). -/
  | rem (d : BitVec 8) (a : BitVec 8) (b : BitVec 8)
  /-- MIN (R132). -/
  | min (d : BitVec 8) (a : BitVec 8) (b : BitVec 8)
  /-- MAX (R132). -/
  | max (d : BitVec 8) (a : BitVec 8) (b : BitVec 8)
  /-- ABS (R132). -/
  | abs (d : BitVec 8) (a : BitVec 8)
  /-- NEG (R132). -/
  | neg (d : BitVec 8) (a : BitVec 8)
  /-- AND (R135). -/
  | and (d : BitVec 8) (a : BitVec 8) (b : BitVec 8)
  /-- OR (R135). -/
  | or (d : BitVec 8) (a : BitVec 8) (b : BitVec 8)
  /-- XOR (R135). -/
  | xor (d : BitVec 8) (a : BitVec 8) (b : BitVec 8)
  /-- NOT (R135). -/
  | not (d : BitVec 8) (a : BitVec 8)
  /-- SHL (R135). -/
  | shl (d : BitVec 8) (a : BitVec 8) (b : BitVec 8)
  /-- SHR (R135). -/
  | shr (d : BitVec 8) (a : BitVec 8) (b : BitVec 8)
  /-- SAR (R135). -/
  | sar (d : BitVec 8) (a : BitVec 8) (b : BitVec 8)
  /-- ROL (R135). -/
  | rol (d : BitVec 8) (a : BitVec 8) (b : BitVec 8)
  /-- CLZ (R135). -/
  | clz (d : BitVec 8) (a : BitVec 8)
  /-- POP (R135). -/
  | pop (d : BitVec 8) (a : BitVec 8)
  /-- BREV (R135). -/
  | brev (d : BitVec 8) (a : BitVec 8)
  /-- BFE (R136). -/
  | bfe (d : BitVec 8) (a : BitVec 8) (b : BitVec 8)
  /-- BFI (R136). -/
  | bfi (d : BitVec 8) (a : BitVec 8) (b : BitVec 8)
  /-- MOV (R137). -/
  | mov (d : BitVec 8) (a : BitVec 8)
  /-- SEL (R137). -/
  | sel (d : BitVec 8) (a : BitVec 8) (b : BitVec 8)
  /-- LDI (R137). -/
  | ldi (d : BitVec 8) (imm : BitVec 16)
  /-- LDIH (R137). -/
  | ldih (d : BitVec 8) (imm : BitVec 16)
  /-- CVT (R138). -/
  | cvt (d : BitVec 8) (a : BitVec 8) (t : BitVec 4)
  /-- CEQ (R141). -/
  | ceq (d : BitVec 7) (a : BitVec 8) (b : BitVec 8)
  /-- CNE (R141). -/
  | cne (d : BitVec 7) (a : BitVec 8) (b : BitVec 8)
  /-- CLT (R141). -/
  | clt (d : BitVec 7) (a : BitVec 8) (b : BitVec 8)
  /-- CLE (R141). -/
  | cle (d : BitVec 7) (a : BitVec 8) (b : BitVec 8)
  /-- CUN (R141). -/
  | cun (d : BitVec 7) (a : BitVec 8) (b : BitVec 8)
  /-- PAND (R142). -/
  | pand (d : BitVec 7) (a : BitVec 7) (b : BitVec 7)
  /-- POR (R142). -/
  | por (d : BitVec 7) (a : BitVec 7) (b : BitVec 7)
  /-- PXOR (R142). -/
  | pxor (d : BitVec 7) (a : BitVec 7) (b : BitVec 7)
  /-- PNOT (R142). -/
  | pnot (d : BitVec 7) (a : BitVec 7)
  /-- RCP (R143). -/
  | rcp (d : BitVec 8) (a : BitVec 8)
  /-- RSQ (R143). -/
  | rsq (d : BitVec 8) (a : BitVec 8)
  /-- SQRT (R143). -/
  | sqrt (d : BitVec 8) (a : BitVec 8)
  /-- EX2 (R143). -/
  | ex2 (d : BitVec 8) (a : BitVec 8)
  /-- LG2 (R143). -/
  | lg2 (d : BitVec 8) (a : BitVec 8)
  /-- SINPI (R143). -/
  | sinpi (d : BitVec 8) (a : BitVec 8)
  /-- COSPI (R143). -/
  | cospi (d : BitVec 8) (a : BitVec 8)
  /-- RINT (R143). -/
  | rint (d : BitVec 8) (a : BitVec 8)
  /-- SCL (R143). -/
  | scl (d : BitVec 8) (a : BitVec 8) (b : BitVec 8)
  /-- SHFL (R144). -/
  | shfl (d : BitVec 8) (a : BitVec 8) (b : BitVec 8)
  /-- SHFX (R144). -/
  | shfx (d : BitVec 8) (a : BitVec 8) (n : BitVec 6)
  /-- SHUP (R144). -/
  | shup (d : BitVec 8) (a : BitVec 8) (n : BitVec 6)
  /-- SHDN (R144). -/
  | shdn (d : BitVec 8) (a : BitVec 8) (n : BitVec 6)
  /-- BCST (R145). -/
  | bcst (d : BitVec 8) (a : BitVec 8) (b : BitVec 6)
  /-- RADD (R146). -/
  | radd (d : BitVec 6) (a : BitVec 8)
  /-- RMIN (R146). -/
  | rmin (d : BitVec 6) (a : BitVec 8)
  /-- RMAX (R146). -/
  | rmax (d : BitVec 6) (a : BitVec 8)
  /-- CONFL (R147). -/
  | confl (d : BitVec 4) (a : BitVec 8)
  /-- FCLS (R148). -/
  | fcls (d : BitVec 8) (a : BitVec 8)
  /-- CMPRS (R151). -/
  | cmprs (d : BitVec 8) (a : BitVec 8) (b : BitVec 6)
  /-- EXPND (R152). -/
  | expnd (d : BitVec 8) (a : BitVec 8) (b : BitVec 6)
  /-- VTOG (R149). -/
  | vtog (d : BitVec 6) (a : BitVec 8)
  /-- GTOV (R149). -/
  | gtov (d : BitVec 8) (a : BitVec 6)
  /-- GADD (R154). -/
  | gadd (d : BitVec 6) (a : BitVec 6) (b : BitVec 6)
  /-- GSUB (R154). -/
  | gsub (d : BitVec 6) (a : BitVec 6) (b : BitVec 6)
  /-- GMUL (R154). -/
  | gmul (d : BitVec 6) (a : BitVec 6) (b : BitVec 6)
  /-- GAND (R154). -/
  | gand (d : BitVec 6) (a : BitVec 6) (b : BitVec 6)
  /-- GOR (R154). -/
  | gor (d : BitVec 6) (a : BitVec 6) (b : BitVec 6)
  /-- GXOR (R154). -/
  | gxor (d : BitVec 6) (a : BitVec 6) (b : BitVec 6)
  /-- GSHL (R154). -/
  | gshl (d : BitVec 6) (a : BitVec 6) (b : BitVec 6)
  /-- GSHR (R154). -/
  | gshr (d : BitVec 6) (a : BitVec 6) (b : BitVec 6)
  /-- GSAR (R154). -/
  | gsar (d : BitVec 6) (a : BitVec 6) (b : BitVec 6)
  /-- GMOV (R154). -/
  | gmov (d : BitVec 6) (a : BitVec 6)
  /-- GLDI (R155). -/
  | gldi (d : BitVec 6) (imm : BitVec 16)
  /-- GLDIH (R155). -/
  | gldih (d : BitVec 6) (imm : BitVec 16)
  /-- GLDIX (R155). -/
  | gldix (d : BitVec 6) (imm : BitVec 16)
  /-- GLDIY (R155). -/
  | gldiy (d : BitVec 6) (imm : BitVec 16)
  /-- GCEQ (R154). -/
  | gceq (d : BitVec 4) (a : BitVec 6) (b : BitVec 6)
  /-- GCLT (R154). -/
  | gclt (d : BitVec 4) (a : BitVec 6) (b : BitVec 6)
  /-- LKP (R170). -/
  | lkp (d : BitVec 7) (a : BitVec 7) (b : BitVec 6)
  /-- INS (R171). -/
  | ins (d : BitVec 7) (a : BitVec 7) (b : BitVec 6)
  /-- UPS (R171). -/
  | ups (d : BitVec 7) (a : BitVec 7) (b : BitVec 6)
  /-- DEL (R173). -/
  | del (d : BitVec 7) (a : BitVec 7) (b : BitVec 6)
  /-- REKEY (R174). -/
  | rekey (d : BitVec 7) (a : BitVec 7) (b : BitVec 6)
  /-- LD (R176). -/
  | ld (d : BitVec 8) (a : BitVec 7) (off : BitVec 8)
  /-- ST (R177). -/
  | st (d : BitVec 8) (a : BitVec 7) (off : BitVec 8)
  /-- ATOM (R179). -/
  | atom (d : BitVec 8) (a : BitVec 7) (off : BitVec 8)
  /-- LDROW (R181). -/
  | ldrow (d : BitVec 8) (a : BitVec 7) (b : BitVec 6)
  /-- RATOM (R180). -/
  | ratom (d : BitVec 8) (a : BitVec 7) (off : BitVec 8)
  /-- COPEN (R184). -/
  | copen (d : BitVec 8) (a : BitVec 7) (b : BitVec 6)
  /-- CSTEP (R185). -/
  | cstep (d : BitVec 7) (a : BitVec 8)
  /-- CSTEPN (R185). -/
  | cstepn (d : BitVec 7) (a : BitVec 8)
  /-- CSEEK (R187). -/
  | cseek (d : BitVec 8) (a : BitVec 7)
  /-- CCLOSE (R188). -/
  | cclose (a : BitVec 8)
  /-- GATH (R190). -/
  | gath (d : BitVec 6) (a : BitVec 6) (b : BitVec 6)
  /-- PROMO (R295). -/
  | promo (d : BitVec 6) (a : BitVec 6)
  /-- PUBL (R233). -/
  | publ (a : BitVec 6)
  /-- FENCE (R225). -/
  | fence
  /-- SLD (R207). -/
  | sld (d : BitVec 8) (a : BitVec 8) (off : BitVec 8)
  /-- SST (R207). -/
  | sst (d : BitVec 8) (a : BitVec 8) (off : BitVec 8)
  /-- SATOM (R207). -/
  | satom (d : BitVec 8) (a : BitVec 8) (off : BitVec 8)
  /-- CPY (R208). -/
  | cpy (d : BitVec 6) (a : BitVec 6) (b : BitVec 6)
  /-- CPYS (R208). -/
  | cpys (d : BitVec 6) (a : BitVec 6) (b : BitVec 6)
  /-- CPYO (R208). -/
  | cpyo (d : BitVec 6) (a : BitVec 6) (b : BitVec 6)
  /-- CBATCH (R212). -/
  | cbatch (d : BitVec 6)
  /-- CWAIT (R213). -/
  | cwait (a : BitVec 6)
  /-- BGIVE (R201). -/
  | bgive (d : BitVec 6) (row : BitVec 6) (col : BitVec 6)
  /-- BTAKE (R203). -/
  | btake (d : BitVec 6)
  /-- BALLOC (R200). -/
  | balloc (d : BitVec 6) (a : BitVec 6)
  /-- BFREE (R204). -/
  | bfree (a : BitVec 6)
  /-- GANG (R246). -/
  | gang (a : BitVec 6)
  /-- MLDS (R249). -/
  | mlds (d : BitVec 6) (a : BitVec 6) (b : BitVec 6)
  /-- MACT (R250). -/
  | mact
  /-- MMUL (R251). -/
  | mmul (d : BitVec 6) (a : BitVec 6) (b : BitVec 6)
  /-- MMSP (R254). -/
  | mmsp (d : BitVec 6) (a : BitVec 6) (b : BitVec 8)
  /-- MBAND (R252). -/
  | mband (a : BitVec 6) (b : BitVec 6)
  /-- SCACC (R258). -/
  | scacc (d : BitVec 6) (a : BitVec 6)
  /-- MRD (R260). -/
  | mrd (d : BitVec 6) (a : BitVec 6) (b : BitVec 6)
  /-- MCLR (R261). -/
  | mclr (a : BitVec 6)
  /-- MSTEP (R245). -/
  | mstep (d : BitVec 6) (a : BitVec 6)
  /-- GO (R271). -/
  | go (a : BitVec 7) (b : BitVec 6)
  /-- GOM (R271). -/
  | gom (a : BitVec 7) (b : BitVec 6)
  /-- GOTO (R277). -/
  | goto (d : BitVec 6) (row : BitVec 6) (col : BitVec 6) (sel : BitVec 1)
  /-- GOPOL (R276). -/
  | gopol (imm : BitVec 16)
  /-- REJOIN (R278). -/
  | rejoin (imm : BitVec 16)
  /-- BAR (R333). -/
  | bar (n : BitVec 4)
  /-- BARA (R333). -/
  | bara (d : BitVec 6) (a : BitVec 6) (n : BitVec 4)
  /-- BARW (R333). -/
  | barw (a : BitVec 6) (n : BitVec 4)
  /-- BARINIT (R333). -/
  | barinit (a : BitVec 6) (n : BitVec 4)
  /-- FTEST (R344). -/
  | ftest (d : BitVec 4) (a : BitVec 6)
  /-- FWAIT (R344). -/
  | fwait (a : BitVec 6)
  /-- FCANCEL (R344). -/
  | fcancel (a : BitVec 6)
  /-- POST (R347). -/
  | post (a : BitVec 6)
  /-- SYSC (R314). -/
  | sysc (imm : BitVec 16)
  /-- SRET (R315). -/
  | sret
  /-- HCALL (R314). -/
  | hcall (imm : BitVec 16)
  /-- HRET (R315). -/
  | hret
  /-- MFPR (R316). -/
  | mfpr (d : BitVec 6) (imm : BitVec 16)
  /-- MTPR (R316). -/
  | mtpr (d : BitVec 6) (imm : BitVec 16)
  /-- TINV (R317). -/
  | tinv (a : BitVec 6) (sc : BitVec 2)
  /-- CTXSV (R325). -/
  | ctxsv (d : BitVec 6) (a : BitVec 6)
  /-- CTXLD (R325). -/
  | ctxld (d : BitVec 6) (a : BitVec 6)
  /-- PERF (R319). -/
  | perf (d : BitVec 6) (imm : BitVec 16)
  /-- BKPT (R314). -/
  | bkpt (imm : BitVec 16)
  /-- KILL (R318). -/
  | kill (a : BitVec 6)
  /-- DIV_COMPLETE (R134): operation n of core c. -/
  | divComplete (c n : Nat)
  /-- TABLE_OP_COMPLETE (R166): operation n of core c, those of its lanes; cached lets a read of class inv take a row-cache entry (R229). -/
  | tableOpComplete (c n : Nat) (lanes : BitVec 64) (cached : Bool)
  /-- GATH_COMPLETE (R191): future slot f of core c. -/
  | gathComplete (c f : Nat)
  /-- PROMO_COMPLETE (R295): future slot f of core c. -/
  | promoComplete (c f : Nat)
  /-- PUBL_SWAP_OR_RETIRE (R233): the PUBL that slot sl of core c waits in. -/
  | publSwapOrRetire (c sl : Nat)
  /-- SCRATCH_LOAD_COMPLETE (R207): operation n of core c. -/
  | scratchLoadComplete (c n : Nat)
  /-- COPY_COMPLETE (R210): entry n of the copy queue of core c. -/
  | copyComplete (c n : Nat)
  /-- BGIVE_TRANSFER (R201): the BGIVE that slot sl of core c waits in. -/
  | bgiveTransfer (c sl : Nat)
  /-- BFREE_RELEASE (R204): the BFREE that slot sl of core c waits in. -/
  | bfreeRelease (c sl : Nat)
  /-- GRANULE_CLEAR_DONE (R205): every granule of core c being cleared. -/
  | granuleClearDone (c : Nat)
  /-- MLDS_PERFORM (R249): head of the matrix queue of core c. -/
  | mldsPerform (c : Nat)
  /-- MACT_PERFORM (R250): head of the matrix queue of core c. -/
  | mactPerform (c : Nat)
  /-- MMUL_PERFORM (R251): head of the matrix queue of core c, at most that many units. -/
  | mmulPerform (c units : Nat)
  /-- MMSP_PERFORM (R256): as MMUL_PERFORM. -/
  | mmspPerform (c units : Nat)
  /-- MBAND_PERFORM (R252): head of the matrix queue of core c. -/
  | mbandPerform (c : Nat)
  /-- SCACC_PERFORM (R259): as MMUL_PERFORM. -/
  | scaccPerform (c units : Nat)
  /-- MRD_PERFORM (R260): as MMUL_PERFORM. -/
  | mrdPerform (c units : Nat)
  /-- MCLR_PERFORM (R261): head of the matrix queue of core c. -/
  | mclrPerform (c : Nat)
  /-- IMPLICIT_MIGRATION (R276): the clause that slot sl of core c is about to start. -/
  | implicitMigration (c sl : Nat)
  /-- FLACON_SEND (R268): the departure under way in slot sl of core c. -/
  | flaconSend (c sl : Nat)
  /-- FLACON_ARRIVAL (R273): flacon n in transit. -/
  | flaconArrival (n : Nat) (intact : Bool)
  /-- FLACON_ACKNOWLEDGE (R263): acknowledgement n in transit. -/
  | flaconAcknowledge (n : Nat)
  /-- REASSEMBLY_WINDOW_EXPIRY (R273): re-assembly set n of core c. -/
  | reassemblyWindowExpiry (c n : Nat)
  /-- STRAND_FORM (R274): the oldest ready set of core c. -/
  | strandForm (c : Nat)
  /-- TINV_DONE (R317): the TINV that slot sl of core c waits in. -/
  | tinvDone (c sl : Nat)
  /-- TRAP_ENTRY (R309): the imprecise faults met by the strand of slot sl of core c. -/
  | trapEntry (c sl : Nat)
  /-- STARVATION_PROMOTION (R103): the strand of slot sl of core c. -/
  | starvationPromotion (c sl : Nat)
  /-- LAUNCH_SERVICE (R96): the record at va, placed for domain dom or by a party in H mode. -/
  | launchService (dom : BitVec 16) (hyp : Bool) (va : BitVec 64)
  /-- DISPATCH_BLOCK (R99): the next block of the dispatcher. -/
  | dispatchBlock
  /-- LAUNCH_COMPLETE (R98): launch number n. -/
  | launchComplete (n : Nat)
  /-- PREEMPT_REQUEST (R320): a request for slot sl, generation gen, with a physical save area. -/
  | preemptRequest (c sl gen area : Nat)
  /-- FULL_SAVE_TIMEOUT (R322): the request of slot sl of core c. -/
  | fullSaveTimeout (c sl : Nat)
  /-- STRAND_SAVE (R323): the save of slot sl of core c. -/
  | strandSave (c sl : Nat)
  /-- KUENREX_RESTORE (R371): the save area at that physical address, on core c. -/
  | kuenrexRestore (c area : Nat)
  /-- STRAND_RESTORE (R325): the oldest restore request of core c. -/
  | strandRestore (c : Nat)
  /-- PAGE_WALK (R301): address va of domain dom for the TLB of core c. -/
  | pageWalk (c dom : Nat) (va : BitVec 64)
  /-- BANK_RETENTION_ENTRY (R288): bank set b of stack s. -/
  | bankRetentionEntry (s b : Nat)
  /-- BANK_DEEP_POWER_DOWN (R282): bank set b of stack s. -/
  | bankDeepPowerDown (s b : Nat)
  /-- BANK_WAKE_END (R285): bank set b of stack s. -/
  | bankWakeEnd (s b : Nat)
  /-- BANK_MAP_WRITE (R286): map entry b of stack s. -/
  | bankMapWrite (s b : Nat) (v : BitVec 32)
  /-- PACKAGE_PHASE_APPLY (R288): controller of stack s. -/
  | packagePhaseApply (s : Nat)
  /-- COMPACTION_MOVE (R294): global block blk of this package. -/
  | compactionMove (blk : Nat)
  /-- FAULT_QUEUE_REMOVE (R298): the oldest entry. -/
  | faultQueueRemove
  /-- MGMT_REGISTER_WRITE (R286): register r. -/
  | mgmtRegisterWrite (r : Machine.MgmtReg) (v : BitVec 64)
  /-- CORE_CLOCK_STEP (R24): one step of 50 MHz. -/
  | coreClockStep (up : Bool)
  /-- IMAGE_LOAD (R42): that image. -/
  | imageLoad (img : Machine.Image)
  /-- TABLE_CREATE (R157): with the base and the pages that the service chooses. -/
  | tableCreate (dom : Nat) (desc : Machine.TableDesc) (base : Nat) (pages : List Nat)
  /-- TABLE_DESTROY (R160): local table number num. -/
  | tableDestroy (num : Nat)
  /-- TABLE_STORE_RETURN (R160): entry n of the row stores awaiting return. -/
  | tableStoreReturn (n : Nat)
  /-- ROW_STORAGE_FREE (R172): that row storage of local table num. -/
  | rowStorageFree (num row : Nat)
  /-- LINK_FLIT_RECEIVE (R354): that flit. -/
  | linkFlitReceive (f : Machine.Flit)
  /-- LINK_REQUEST_TIMEOUT (R355): outstanding request n. -/
  | linkRequestTimeout (n : Nat)
  /-- HOST_DOORBELL (R357): the mailbox value. -/
  | hostDoorbell (v : BitVec 64)
  /-- FREEZE (R358): a rising edge of the FREEZE pin. -/
  | freeze
  /-- ENFLEURAGE_READOUT (R359): the whole state. -/
  | enfleurageReadout
  /-- RESUME (R361): bit 0 of the freeze control register. -/
  | resume
  /-- RESET (R361): bit 1 of the freeze control register. -/
  | reset
  /-- REFUSED_CLEAR (R361): bit 2 of the freeze control register. -/
  | refusedClear
  /-- PACKAGE_RESET (R349): the package. -/
  | packageReset
  /-- BOOT_STAGE (R349): the stage that boot stands at. -/
  | bootStage
  /-- MAINTENANCE_REPLAN (R362): one core; holds is whether it can still hold 800 MHz. -/
  | maintenanceReplan (core newMillivolt date : Nat) (holds : Bool)
  /-- POWER_STATE_ENTRY_COMPLETE (R284): bank set b of stack s. -/
  | powerStateEntryComplete (s b : Nat)
  /-- CORE_CYCLE_COUNTER_MATCH (R358): the armed counter. -/
  | coreCycleCounterMatch
  /-- HOST_WINDOW_ACCESS (R357): window win at an offset; a read asks for as many bytes. -/
  | hostWindowAccess (win off : Nat) (write : Bool) (bytes : List (BitVec 8))
  /-- GET_VERSION (R353). -/
  | getVersion
  /-- GET_CAPABILITIES (R353). -/
  | getCapabilities
  /-- NEGOTIATE_ALGORITHMS (R353): whether the requester offers ECDSA P-384 with SHA-384. -/
  | negotiateAlgorithms (offersP384 : Bool)
  /-- GET_DIGESTS (R353). -/
  | getDigests
  /-- GET_CERTIFICATE (R353). -/
  | getCertificate (slot : Nat)
  /-- CHALLENGE (R353). -/
  | challenge (nonce : BitVec 256)
  /-- GET_MEASUREMENTS (R353). -/
  | getMeasurements (nonce : BitVec 256)
  deriving DecidableEq, Repr

end Sys2Proof
end

