-- ==== Sys2Proof/WellFormed.lean ====
section
/-! DEFINITION. Well-formed instructions: the limits that Table 3-4, R52, R55 and R65 set on fields beyond their
width. A word whose fields break one raises a trap at issue (R67); a well-formed term is one that decoding answers. -/

namespace Sys2Proof

/-- A place field names a core of the grid (R52). -/
def placeOk (row col : BitVec 6) : Bool := decide (row.toNat ≤ 15) && decide (col.toNat ≤ 19)

/-- PHINT and IDEM read four group-wide registers from field a (R55). -/
def fourOk (a : BitVec 6) : Bool := decide (a.toNat ≤ 60)

/-- An element type code is 0 to 13 (Table 3-4). -/
def typeOk (t : BitVec 4) : Bool := decide (t.toNat ≤ 13)

/-- Selectors of SREG (Table 5-5). -/
def sregOk (sel : BitVec 16) : Bool := decide (sel.toNat ≤ 7)

/-- Selectors of GSREG (Table 5-6). -/
def gsregOk (sel : BitVec 16) : Bool := decide (sel.toNat ≤ 12)

/-- Numbers of privileged registers (R65, Table 13-1). -/
def privRegOk (n : BitVec 16) : Bool :=
  let n := n.toNat
  n == 0 || n == 1 || (16 ≤ n && n ≤ 20) || (32 ≤ n && n ≤ 34)

/-- Policies of GOPOL (R276). -/
def gopolOk (n : BitVec 16) : Bool := decide (n.toNat ≤ 2)

/-- Selectors of PERF (Table 13-8). -/
def perfOk (sel : BitVec 16) : Bool :=
  let s := sel.toNat
  s ≤ 0x0007 || (0x1000 ≤ s && s ≤ 0x103F) || (0x1040 ≤ s && s ≤ 0x1042) || (0x2000 ≤ s && s ≤ 0x2006) ||
  (0x3000 ≤ s && s ≤ 0x3009) || (0x4000 ≤ s && s ≤ 0x4007) || (0x4011 ≤ s && s ≤ 0x401B) ||
  (0x5000 ≤ s && s < 0x5080 && s % 16 ≤ 12) || s == 0x6000 || s == 0x6001 || (0x7000 ≤ s && s ≤ 0x7009)

/-- A flag field of a clause header: f0 to f11, or 15 for none (R46, item 2). -/
def flagFieldOk (x : BitVec 4) : Bool := decide (x.toNat ≤ 11) || x == 15

/-- The two flag fields of a header name different flags (R46, item 6). -/
def flagsDiffer (a b : BitVec 4) : Bool := a == 15 || a != b

/-- The unassigned opcodes (R64). -/
def unassignedOp (op : Nat) : Bool :=
  op == 0x5E || op == 0x5F || op == 0x83 || (0x90 ≤ op && op ≤ 0x9F) || (0xAA ≤ op && op ≤ 0xAF) ||
  (0xB5 ≤ op && op ≤ 0xB7) || 0xCC ≤ op

/-- The checks on one instruction; every form without a line of its own has no limit beyond its fields' widths. -/
def Instr.wf : Instr → Bool
  | .clauseHeader _ _ a b _ => flagFieldOk a && flagFieldOk b && flagsDiffer a b
  | .unassignedOpcode w => unassignedOp (slice w 31 24)
  | .cvt _ _ t => typeOk t
  | .phint a _ => fourOk a
  | .idem a _ => fourOk a
  | .sreg _ n => sregOk n
  | .gsreg _ n => gsregOk n
  | .perf _ n => perfOk n
  | .mfpr _ n => privRegOk n
  | .mtpr _ n => privRegOk n
  | .gopol n => gopolOk n
  | .bgive _ row col => placeOk row col
  | .goto _ row col _ => placeOk row col
  | _ => true

end Sys2Proof
end

