-- ==== Sys2Proof/Decode.lean ====
section
/-! DEFINITION. Decoding and encoding of instruction words and clause headers (R43-R56, Tables 3-1 to 3-4, 3-7). -/

namespace Sys2Proof

/-- Why a word is no instruction: a non-zero reserved field or unused high bit of a register field under an assigned
opcode (R53, R56), or a field outside its stated range (the term is given for the trap that its issue raises). -/
inductive Reject where
  | reserved (op : Nat)
  | illFormed (i : Instr)
  deriving DecidableEq, Repr

/-- A byte whose unused high bits are zero, read in n bits (R53). -/
def low (n : Nat) (x : BitVec 8) : Option (BitVec n) :=
  if x.toNat < 2 ^ n then some (x.setWidth n) else none

/-- An immediate that a table limits to n bits (Table 3-7: BWPHASE 0-3, BAR 0-15). -/
def lowImm (n : Nat) (x : BitVec 16) : Option (BitVec n) :=
  if x.toNat < 2 ^ n then some (x.setWidth n) else none

/-- An even register, as half its number (R53). -/
def pairField (x : BitVec 8) : Option (BitVec 7) :=
  if x.toNat % 2 = 0 then some (x.extractLsb' 1 7) else none

/-- The register field of a pair. -/
def pairByte (x : BitVec 7) : BitVec 8 := x ++ 0#1

/-- A field marked 0 (R56). -/
def zeroField (x : BitVec 8) : Option Unit := if x = 0#8 then some () else none

/-- The selector of BGIVE (R201). -/
def zeroSel (x : BitVec 4) : Option Unit := if x = 0#4 then some () else none

/-- The selector of GOTO: bits 3:1 zero (R277). -/
def lowSel (x : BitVec 4) : Option (BitVec 1) := if x.toNat < 2 then some (x.setWidth 1) else none

/-- R format (R50). -/
def encR (op d a b : BitVec 8) : Word := ((op ++ d) ++ a) ++ b

/-- I format (R50). -/
def encI (op d : BitVec 8) (imm : BitVec 16) : Word := (op ++ d) ++ imm

/-- J format (R50). -/
def encJ (op : BitVec 8) (off : BitVec 24) : Word := op ++ off

/-- C format (R50). -/
def encC (op d : BitVec 8) (row col : BitVec 6) (sel : BitVec 4) : Word := (((op ++ d) ++ row) ++ col) ++ sel

/-- The fields of a word by its opcode (Table 3-7); none is a non-zero reserved field or unused bit. -/
def decodeFields (w : Word) : Nat → Option Instr
  | 0x00 => do zeroField (w.extractLsb' 16 8); zeroField (w.extractLsb' 8 8); zeroField (w.extractLsb' 0 8); return (.nop)
  | 0x01 => do zeroField (w.extractLsb' 16 8); let imm := w.extractLsb' 0 16; return (.mode imm)
  | 0x02 => do zeroField (w.extractLsb' 16 8); let imm := w.extractLsb' 0 16; return (.memmode imm)
  | 0x03 => do let off := w.extractLsb' 0 24; return (.bra off)
  | 0x04 => do let d ← low 4 (w.extractLsb' 16 8); let off := w.extractLsb' 0 16; return (.bkz d off)
  | 0x05 => do let d ← low 4 (w.extractLsb' 16 8); let off := w.extractLsb' 0 16; return (.bknz d off)
  | 0x06 => do let d ← low 4 (w.extractLsb' 16 8); let off := w.extractLsb' 0 16; return (.bqt d off)
  | 0x07 => do let d ← low 4 (w.extractLsb' 16 8); let off := w.extractLsb' 0 16; return (.bqf d off)
  | 0x08 => do let off := w.extractLsb' 0 24; return (.call off)
  | 0x09 => do zeroField (w.extractLsb' 16 8); let a ← low 6 (w.extractLsb' 8 8); zeroField (w.extractLsb' 0 8); return (.callg a)
  | 0x0A => do zeroField (w.extractLsb' 16 8); let a ← low 6 (w.extractLsb' 8 8); zeroField (w.extractLsb' 0 8); return (.jmpg a)
  | 0x0B => do zeroField (w.extractLsb' 16 8); zeroField (w.extractLsb' 8 8); zeroField (w.extractLsb' 0 8); return (.ret)
  | 0x0C => do zeroField (w.extractLsb' 16 8); let a := w.extractLsb' 8 8; zeroField (w.extractLsb' 0 8); return (.retv a)
  | 0x0D => do let d ← low 6 (w.extractLsb' 16 8); let off := w.extractLsb' 0 16; return (.loop d off)
  | 0x0E => do zeroField (w.extractLsb' 16 8); zeroField (w.extractLsb' 8 8); zeroField (w.extractLsb' 0 8); return (.lexit)
  | 0x0F => do zeroField (w.extractLsb' 16 8); zeroField (w.extractLsb' 8 8); zeroField (w.extractLsb' 0 8); return (.exit)
  | 0x10 => do let d := w.extractLsb' 16 8; let imm := w.extractLsb' 0 16; return (.sreg d imm)
  | 0x11 => do let d ← low 6 (w.extractLsb' 16 8); let imm := w.extractLsb' 0 16; return (.gsreg d imm)
  | 0x12 => do let d ← low 4 (w.extractLsb' 16 8); let a ← low 7 (w.extractLsb' 8 8); zeroField (w.extractLsb' 0 8); return (.kfrom d a)
  | 0x13 => do let d ← low 4 (w.extractLsb' 16 8); let a ← low 4 (w.extractLsb' 8 8); let b ← low 4 (w.extractLsb' 0 8); return (.kand d a b)
  | 0x14 => do let d ← low 4 (w.extractLsb' 16 8); let a ← low 4 (w.extractLsb' 8 8); let b ← low 4 (w.extractLsb' 0 8); return (.kor d a b)
  | 0x15 => do let d ← low 4 (w.extractLsb' 16 8); let a ← low 4 (w.extractLsb' 8 8); let b ← low 4 (w.extractLsb' 0 8); return (.kandn d a b)
  | 0x16 => do let d ← low 4 (w.extractLsb' 16 8); let a ← low 4 (w.extractLsb' 8 8); let b ← low 4 (w.extractLsb' 0 8); return (.kxor d a b)
  | 0x17 => do let d ← low 4 (w.extractLsb' 16 8); let a ← low 4 (w.extractLsb' 8 8); zeroField (w.extractLsb' 0 8); return (.kmov d a)
  | 0x18 => do let d ← low 6 (w.extractLsb' 16 8); let a ← low 4 (w.extractLsb' 8 8); zeroField (w.extractLsb' 0 8); return (.kpop d a)
  | 0x19 => do let d ← low 6 (w.extractLsb' 16 8); let a ← low 4 (w.extractLsb' 8 8); zeroField (w.extractLsb' 0 8); return (.ktog d a)
  | 0x1A => do let d ← low 4 (w.extractLsb' 16 8); let a ← low 6 (w.extractLsb' 8 8); zeroField (w.extractLsb' 0 8); return (.gtok d a)
  | 0x1B => do zeroField (w.extractLsb' 16 8); let a ← low 6 (w.extractLsb' 8 8); let b ← low 6 (w.extractLsb' 0 8); return (.phint a b)
  | 0x1C => do zeroField (w.extractLsb' 16 8); let a ← low 6 (w.extractLsb' 8 8); let b ← low 6 (w.extractLsb' 0 8); return (.idem a b)
  | 0x1D => do zeroField (w.extractLsb' 16 8); zeroField (w.extractLsb' 8 8); zeroField (w.extractLsb' 0 8); return (.idend)
  | 0x1E => do zeroField (w.extractLsb' 16 8); let n ← lowImm 2 (w.extractLsb' 0 16); return (.bwphase n)
  | 0x1F => do let d ← low 6 (w.extractLsb' 16 8); let a ← low 6 (w.extractLsb' 8 8); zeroField (w.extractLsb' 0 8); return (.launch d a)
  | 0x20 => do let d := w.extractLsb' 16 8; let a := w.extractLsb' 8 8; let b := w.extractLsb' 0 8; return (.add d a b)
  | 0x21 => do let d := w.extractLsb' 16 8; let a := w.extractLsb' 8 8; let b := w.extractLsb' 0 8; return (.sub d a b)
  | 0x22 => do let d := w.extractLsb' 16 8; let a := w.extractLsb' 8 8; let b := w.extractLsb' 0 8; return (.mul d a b)
  | 0x23 => do let d := w.extractLsb' 16 8; let a := w.extractLsb' 8 8; let b := w.extractLsb' 0 8; return (.mulh d a b)
  | 0x24 => do let d := w.extractLsb' 16 8; let a := w.extractLsb' 8 8; let b := w.extractLsb' 0 8; return (.mad d a b)
  | 0x25 => do let d := w.extractLsb' 16 8; let a := w.extractLsb' 8 8; let b := w.extractLsb' 0 8; return (.msb d a b)
  | 0x26 => do let d := w.extractLsb' 16 8; let a := w.extractLsb' 8 8; let b := w.extractLsb' 0 8; return (.div d a b)
  | 0x27 => do let d := w.extractLsb' 16 8; let a := w.extractLsb' 8 8; let b := w.extractLsb' 0 8; return (.rem d a b)
  | 0x28 => do let d := w.extractLsb' 16 8; let a := w.extractLsb' 8 8; let b := w.extractLsb' 0 8; return (.min d a b)
  | 0x29 => do let d := w.extractLsb' 16 8; let a := w.extractLsb' 8 8; let b := w.extractLsb' 0 8; return (.max d a b)
  | 0x2A => do let d := w.extractLsb' 16 8; let a := w.extractLsb' 8 8; zeroField (w.extractLsb' 0 8); return (.abs d a)
  | 0x2B => do let d := w.extractLsb' 16 8; let a := w.extractLsb' 8 8; zeroField (w.extractLsb' 0 8); return (.neg d a)
  | 0x2C => do let d := w.extractLsb' 16 8; let a := w.extractLsb' 8 8; let b := w.extractLsb' 0 8; return (.and d a b)
  | 0x2D => do let d := w.extractLsb' 16 8; let a := w.extractLsb' 8 8; let b := w.extractLsb' 0 8; return (.or d a b)
  | 0x2E => do let d := w.extractLsb' 16 8; let a := w.extractLsb' 8 8; let b := w.extractLsb' 0 8; return (.xor d a b)
  | 0x2F => do let d := w.extractLsb' 16 8; let a := w.extractLsb' 8 8; zeroField (w.extractLsb' 0 8); return (.not d a)
  | 0x30 => do let d := w.extractLsb' 16 8; let a := w.extractLsb' 8 8; let b := w.extractLsb' 0 8; return (.shl d a b)
  | 0x31 => do let d := w.extractLsb' 16 8; let a := w.extractLsb' 8 8; let b := w.extractLsb' 0 8; return (.shr d a b)
  | 0x32 => do let d := w.extractLsb' 16 8; let a := w.extractLsb' 8 8; let b := w.extractLsb' 0 8; return (.sar d a b)
  | 0x33 => do let d := w.extractLsb' 16 8; let a := w.extractLsb' 8 8; let b := w.extractLsb' 0 8; return (.rol d a b)
  | 0x34 => do let d := w.extractLsb' 16 8; let a := w.extractLsb' 8 8; zeroField (w.extractLsb' 0 8); return (.clz d a)
  | 0x35 => do let d := w.extractLsb' 16 8; let a := w.extractLsb' 8 8; zeroField (w.extractLsb' 0 8); return (.pop d a)
  | 0x36 => do let d := w.extractLsb' 16 8; let a := w.extractLsb' 8 8; zeroField (w.extractLsb' 0 8); return (.brev d a)
  | 0x37 => do let d := w.extractLsb' 16 8; let a := w.extractLsb' 8 8; let b := w.extractLsb' 0 8; return (.bfe d a b)
  | 0x38 => do let d := w.extractLsb' 16 8; let a := w.extractLsb' 8 8; let b := w.extractLsb' 0 8; return (.bfi d a b)
  | 0x39 => do let d := w.extractLsb' 16 8; let a := w.extractLsb' 8 8; zeroField (w.extractLsb' 0 8); return (.mov d a)
  | 0x3A => do let d := w.extractLsb' 16 8; let a := w.extractLsb' 8 8; let b := w.extractLsb' 0 8; return (.sel d a b)
  | 0x3B => do let d := w.extractLsb' 16 8; let imm := w.extractLsb' 0 16; return (.ldi d imm)
  | 0x3C => do let d := w.extractLsb' 16 8; let imm := w.extractLsb' 0 16; return (.ldih d imm)
  | 0x3D => do let d := w.extractLsb' 16 8; let a := w.extractLsb' 8 8; let t ← low 4 (w.extractLsb' 0 8); return (.cvt d a t)
  | 0x3E => do let d ← low 7 (w.extractLsb' 16 8); let a := w.extractLsb' 8 8; let b := w.extractLsb' 0 8; return (.ceq d a b)
  | 0x3F => do let d ← low 7 (w.extractLsb' 16 8); let a := w.extractLsb' 8 8; let b := w.extractLsb' 0 8; return (.cne d a b)
  | 0x40 => do let d ← low 7 (w.extractLsb' 16 8); let a := w.extractLsb' 8 8; let b := w.extractLsb' 0 8; return (.clt d a b)
  | 0x41 => do let d ← low 7 (w.extractLsb' 16 8); let a := w.extractLsb' 8 8; let b := w.extractLsb' 0 8; return (.cle d a b)
  | 0x42 => do let d ← low 7 (w.extractLsb' 16 8); let a := w.extractLsb' 8 8; let b := w.extractLsb' 0 8; return (.cun d a b)
  | 0x43 => do let d ← low 7 (w.extractLsb' 16 8); let a ← low 7 (w.extractLsb' 8 8); let b ← low 7 (w.extractLsb' 0 8); return (.pand d a b)
  | 0x44 => do let d ← low 7 (w.extractLsb' 16 8); let a ← low 7 (w.extractLsb' 8 8); let b ← low 7 (w.extractLsb' 0 8); return (.por d a b)
  | 0x45 => do let d ← low 7 (w.extractLsb' 16 8); let a ← low 7 (w.extractLsb' 8 8); let b ← low 7 (w.extractLsb' 0 8); return (.pxor d a b)
  | 0x46 => do let d ← low 7 (w.extractLsb' 16 8); let a ← low 7 (w.extractLsb' 8 8); zeroField (w.extractLsb' 0 8); return (.pnot d a)
  | 0x47 => do let d := w.extractLsb' 16 8; let a := w.extractLsb' 8 8; zeroField (w.extractLsb' 0 8); return (.rcp d a)
  | 0x48 => do let d := w.extractLsb' 16 8; let a := w.extractLsb' 8 8; zeroField (w.extractLsb' 0 8); return (.rsq d a)
  | 0x49 => do let d := w.extractLsb' 16 8; let a := w.extractLsb' 8 8; zeroField (w.extractLsb' 0 8); return (.sqrt d a)
  | 0x4A => do let d := w.extractLsb' 16 8; let a := w.extractLsb' 8 8; zeroField (w.extractLsb' 0 8); return (.ex2 d a)
  | 0x4B => do let d := w.extractLsb' 16 8; let a := w.extractLsb' 8 8; zeroField (w.extractLsb' 0 8); return (.lg2 d a)
  | 0x4C => do let d := w.extractLsb' 16 8; let a := w.extractLsb' 8 8; zeroField (w.extractLsb' 0 8); return (.sinpi d a)
  | 0x4D => do let d := w.extractLsb' 16 8; let a := w.extractLsb' 8 8; zeroField (w.extractLsb' 0 8); return (.cospi d a)
  | 0x4E => do let d := w.extractLsb' 16 8; let a := w.extractLsb' 8 8; zeroField (w.extractLsb' 0 8); return (.rint d a)
  | 0x4F => do let d := w.extractLsb' 16 8; let a := w.extractLsb' 8 8; let b := w.extractLsb' 0 8; return (.scl d a b)
  | 0x50 => do let d := w.extractLsb' 16 8; let a := w.extractLsb' 8 8; let b := w.extractLsb' 0 8; return (.shfl d a b)
  | 0x51 => do let d := w.extractLsb' 16 8; let a := w.extractLsb' 8 8; let n ← low 6 (w.extractLsb' 0 8); return (.shfx d a n)
  | 0x52 => do let d := w.extractLsb' 16 8; let a := w.extractLsb' 8 8; let n ← low 6 (w.extractLsb' 0 8); return (.shup d a n)
  | 0x53 => do let d := w.extractLsb' 16 8; let a := w.extractLsb' 8 8; let n ← low 6 (w.extractLsb' 0 8); return (.shdn d a n)
  | 0x54 => do let d := w.extractLsb' 16 8; let a := w.extractLsb' 8 8; let b ← low 6 (w.extractLsb' 0 8); return (.bcst d a b)
  | 0x55 => do let d ← low 6 (w.extractLsb' 16 8); let a := w.extractLsb' 8 8; zeroField (w.extractLsb' 0 8); return (.radd d a)
  | 0x56 => do let d ← low 6 (w.extractLsb' 16 8); let a := w.extractLsb' 8 8; zeroField (w.extractLsb' 0 8); return (.rmin d a)
  | 0x57 => do let d ← low 6 (w.extractLsb' 16 8); let a := w.extractLsb' 8 8; zeroField (w.extractLsb' 0 8); return (.rmax d a)
  | 0x58 => do let d ← low 4 (w.extractLsb' 16 8); let a := w.extractLsb' 8 8; zeroField (w.extractLsb' 0 8); return (.confl d a)
  | 0x59 => do let d := w.extractLsb' 16 8; let a := w.extractLsb' 8 8; zeroField (w.extractLsb' 0 8); return (.fcls d a)
  | 0x5A => do let d := w.extractLsb' 16 8; let a := w.extractLsb' 8 8; let b ← low 6 (w.extractLsb' 0 8); return (.cmprs d a b)
  | 0x5B => do let d := w.extractLsb' 16 8; let a := w.extractLsb' 8 8; let b ← low 6 (w.extractLsb' 0 8); return (.expnd d a b)
  | 0x5C => do let d ← low 6 (w.extractLsb' 16 8); let a := w.extractLsb' 8 8; zeroField (w.extractLsb' 0 8); return (.vtog d a)
  | 0x5D => do let d := w.extractLsb' 16 8; let a ← low 6 (w.extractLsb' 8 8); zeroField (w.extractLsb' 0 8); return (.gtov d a)
  | 0x60 => do let d ← low 6 (w.extractLsb' 16 8); let a ← low 6 (w.extractLsb' 8 8); let b ← low 6 (w.extractLsb' 0 8); return (.gadd d a b)
  | 0x61 => do let d ← low 6 (w.extractLsb' 16 8); let a ← low 6 (w.extractLsb' 8 8); let b ← low 6 (w.extractLsb' 0 8); return (.gsub d a b)
  | 0x62 => do let d ← low 6 (w.extractLsb' 16 8); let a ← low 6 (w.extractLsb' 8 8); let b ← low 6 (w.extractLsb' 0 8); return (.gmul d a b)
  | 0x63 => do let d ← low 6 (w.extractLsb' 16 8); let a ← low 6 (w.extractLsb' 8 8); let b ← low 6 (w.extractLsb' 0 8); return (.gand d a b)
  | 0x64 => do let d ← low 6 (w.extractLsb' 16 8); let a ← low 6 (w.extractLsb' 8 8); let b ← low 6 (w.extractLsb' 0 8); return (.gor d a b)
  | 0x65 => do let d ← low 6 (w.extractLsb' 16 8); let a ← low 6 (w.extractLsb' 8 8); let b ← low 6 (w.extractLsb' 0 8); return (.gxor d a b)
  | 0x66 => do let d ← low 6 (w.extractLsb' 16 8); let a ← low 6 (w.extractLsb' 8 8); let b ← low 6 (w.extractLsb' 0 8); return (.gshl d a b)
  | 0x67 => do let d ← low 6 (w.extractLsb' 16 8); let a ← low 6 (w.extractLsb' 8 8); let b ← low 6 (w.extractLsb' 0 8); return (.gshr d a b)
  | 0x68 => do let d ← low 6 (w.extractLsb' 16 8); let a ← low 6 (w.extractLsb' 8 8); let b ← low 6 (w.extractLsb' 0 8); return (.gsar d a b)
  | 0x69 => do let d ← low 6 (w.extractLsb' 16 8); let a ← low 6 (w.extractLsb' 8 8); zeroField (w.extractLsb' 0 8); return (.gmov d a)
  | 0x6A => do let d ← low 6 (w.extractLsb' 16 8); let imm := w.extractLsb' 0 16; return (.gldi d imm)
  | 0x6B => do let d ← low 6 (w.extractLsb' 16 8); let imm := w.extractLsb' 0 16; return (.gldih d imm)
  | 0x6C => do let d ← low 6 (w.extractLsb' 16 8); let imm := w.extractLsb' 0 16; return (.gldix d imm)
  | 0x6D => do let d ← low 6 (w.extractLsb' 16 8); let imm := w.extractLsb' 0 16; return (.gldiy d imm)
  | 0x6E => do let d ← low 4 (w.extractLsb' 16 8); let a ← low 6 (w.extractLsb' 8 8); let b ← low 6 (w.extractLsb' 0 8); return (.gceq d a b)
  | 0x6F => do let d ← low 4 (w.extractLsb' 16 8); let a ← low 6 (w.extractLsb' 8 8); let b ← low 6 (w.extractLsb' 0 8); return (.gclt d a b)
  | 0x70 => do let d ← pairField (w.extractLsb' 16 8); let a ← pairField (w.extractLsb' 8 8); let b ← low 6 (w.extractLsb' 0 8); return (.lkp d a b)
  | 0x71 => do let d ← pairField (w.extractLsb' 16 8); let a ← pairField (w.extractLsb' 8 8); let b ← low 6 (w.extractLsb' 0 8); return (.ins d a b)
  | 0x72 => do let d ← pairField (w.extractLsb' 16 8); let a ← pairField (w.extractLsb' 8 8); let b ← low 6 (w.extractLsb' 0 8); return (.ups d a b)
  | 0x73 => do let d ← pairField (w.extractLsb' 16 8); let a ← pairField (w.extractLsb' 8 8); let b ← low 6 (w.extractLsb' 0 8); return (.del d a b)
  | 0x74 => do let d ← pairField (w.extractLsb' 16 8); let a ← pairField (w.extractLsb' 8 8); let b ← low 6 (w.extractLsb' 0 8); return (.rekey d a b)
  | 0x75 => do let d := w.extractLsb' 16 8; let a ← pairField (w.extractLsb' 8 8); let off := w.extractLsb' 0 8; return (.ld d a off)
  | 0x76 => do let d := w.extractLsb' 16 8; let a ← pairField (w.extractLsb' 8 8); let off := w.extractLsb' 0 8; return (.st d a off)
  | 0x77 => do let d := w.extractLsb' 16 8; let a ← pairField (w.extractLsb' 8 8); let off := w.extractLsb' 0 8; return (.atom d a off)
  | 0x78 => do let d := w.extractLsb' 16 8; let a ← pairField (w.extractLsb' 8 8); let b ← low 6 (w.extractLsb' 0 8); return (.ldrow d a b)
  | 0x79 => do let d := w.extractLsb' 16 8; let a ← pairField (w.extractLsb' 8 8); let off := w.extractLsb' 0 8; return (.ratom d a off)
  | 0x7A => do let d := w.extractLsb' 16 8; let a ← pairField (w.extractLsb' 8 8); let b ← low 6 (w.extractLsb' 0 8); return (.copen d a b)
  | 0x7B => do let d ← pairField (w.extractLsb' 16 8); let a := w.extractLsb' 8 8; zeroField (w.extractLsb' 0 8); return (.cstep d a)
  | 0x7C => do let d ← pairField (w.extractLsb' 16 8); let a := w.extractLsb' 8 8; zeroField (w.extractLsb' 0 8); return (.cstepn d a)
  | 0x7D => do let d := w.extractLsb' 16 8; let a ← pairField (w.extractLsb' 8 8); zeroField (w.extractLsb' 0 8); return (.cseek d a)
  | 0x7E => do zeroField (w.extractLsb' 16 8); let a := w.extractLsb' 8 8; zeroField (w.extractLsb' 0 8); return (.cclose a)
  | 0x7F => do let d ← low 6 (w.extractLsb' 16 8); let a ← low 6 (w.extractLsb' 8 8); let b ← low 6 (w.extractLsb' 0 8); return (.gath d a b)
  | 0x80 => do let d ← low 6 (w.extractLsb' 16 8); let a ← low 6 (w.extractLsb' 8 8); zeroField (w.extractLsb' 0 8); return (.promo d a)
  | 0x81 => do zeroField (w.extractLsb' 16 8); let a ← low 6 (w.extractLsb' 8 8); zeroField (w.extractLsb' 0 8); return (.publ a)
  | 0x82 => do zeroField (w.extractLsb' 16 8); zeroField (w.extractLsb' 8 8); zeroField (w.extractLsb' 0 8); return (.fence)
  | 0x84 => do let d := w.extractLsb' 16 8; let a := w.extractLsb' 8 8; let off := w.extractLsb' 0 8; return (.sld d a off)
  | 0x85 => do let d := w.extractLsb' 16 8; let a := w.extractLsb' 8 8; let off := w.extractLsb' 0 8; return (.sst d a off)
  | 0x86 => do let d := w.extractLsb' 16 8; let a := w.extractLsb' 8 8; let off := w.extractLsb' 0 8; return (.satom d a off)
  | 0x87 => do let d ← low 6 (w.extractLsb' 16 8); let a ← low 6 (w.extractLsb' 8 8); let b ← low 6 (w.extractLsb' 0 8); return (.cpy d a b)
  | 0x88 => do let d ← low 6 (w.extractLsb' 16 8); let a ← low 6 (w.extractLsb' 8 8); let b ← low 6 (w.extractLsb' 0 8); return (.cpys d a b)
  | 0x89 => do let d ← low 6 (w.extractLsb' 16 8); let a ← low 6 (w.extractLsb' 8 8); let b ← low 6 (w.extractLsb' 0 8); return (.cpyo d a b)
  | 0x8A => do let d ← low 6 (w.extractLsb' 16 8); zeroField (w.extractLsb' 8 8); zeroField (w.extractLsb' 0 8); return (.cbatch d)
  | 0x8B => do zeroField (w.extractLsb' 16 8); let a ← low 6 (w.extractLsb' 8 8); zeroField (w.extractLsb' 0 8); return (.cwait a)
  | 0x8C => do let d ← low 6 (w.extractLsb' 16 8); let row := w.extractLsb' 10 6; let col := w.extractLsb' 4 6; zeroSel (w.extractLsb' 0 4); return (.bgive d row col)
  | 0x8D => do let d ← low 6 (w.extractLsb' 16 8); zeroField (w.extractLsb' 8 8); zeroField (w.extractLsb' 0 8); return (.btake d)
  | 0x8E => do let d ← low 6 (w.extractLsb' 16 8); let a ← low 6 (w.extractLsb' 8 8); zeroField (w.extractLsb' 0 8); return (.balloc d a)
  | 0x8F => do zeroField (w.extractLsb' 16 8); let a ← low 6 (w.extractLsb' 8 8); zeroField (w.extractLsb' 0 8); return (.bfree a)
  | 0xA0 => do zeroField (w.extractLsb' 16 8); let a ← low 6 (w.extractLsb' 8 8); zeroField (w.extractLsb' 0 8); return (.gang a)
  | 0xA1 => do let d ← low 6 (w.extractLsb' 16 8); let a ← low 6 (w.extractLsb' 8 8); let b ← low 6 (w.extractLsb' 0 8); return (.mlds d a b)
  | 0xA2 => do zeroField (w.extractLsb' 16 8); zeroField (w.extractLsb' 8 8); zeroField (w.extractLsb' 0 8); return (.mact)
  | 0xA3 => do let d ← low 6 (w.extractLsb' 16 8); let a ← low 6 (w.extractLsb' 8 8); let b ← low 6 (w.extractLsb' 0 8); return (.mmul d a b)
  | 0xA4 => do let d ← low 6 (w.extractLsb' 16 8); let a ← low 6 (w.extractLsb' 8 8); let b := w.extractLsb' 0 8; return (.mmsp d a b)
  | 0xA5 => do zeroField (w.extractLsb' 16 8); let a ← low 6 (w.extractLsb' 8 8); let b ← low 6 (w.extractLsb' 0 8); return (.mband a b)
  | 0xA6 => do let d ← low 6 (w.extractLsb' 16 8); let a ← low 6 (w.extractLsb' 8 8); zeroField (w.extractLsb' 0 8); return (.scacc d a)
  | 0xA7 => do let d ← low 6 (w.extractLsb' 16 8); let a ← low 6 (w.extractLsb' 8 8); let b ← low 6 (w.extractLsb' 0 8); return (.mrd d a b)
  | 0xA8 => do zeroField (w.extractLsb' 16 8); let a ← low 6 (w.extractLsb' 8 8); zeroField (w.extractLsb' 0 8); return (.mclr a)
  | 0xA9 => do let d ← low 6 (w.extractLsb' 16 8); let a ← low 6 (w.extractLsb' 8 8); zeroField (w.extractLsb' 0 8); return (.mstep d a)
  | 0xB0 => do zeroField (w.extractLsb' 16 8); let a ← pairField (w.extractLsb' 8 8); let b ← low 6 (w.extractLsb' 0 8); return (.go a b)
  | 0xB1 => do zeroField (w.extractLsb' 16 8); let a ← pairField (w.extractLsb' 8 8); let b ← low 6 (w.extractLsb' 0 8); return (.gom a b)
  | 0xB2 => do let d ← low 6 (w.extractLsb' 16 8); let row := w.extractLsb' 10 6; let col := w.extractLsb' 4 6; let sel ← lowSel (w.extractLsb' 0 4); return (.goto d row col sel)
  | 0xB3 => do zeroField (w.extractLsb' 16 8); let imm := w.extractLsb' 0 16; return (.gopol imm)
  | 0xB4 => do zeroField (w.extractLsb' 16 8); let imm := w.extractLsb' 0 16; return (.rejoin imm)
  | 0xB8 => do zeroField (w.extractLsb' 16 8); let n ← lowImm 4 (w.extractLsb' 0 16); return (.bar n)
  | 0xB9 => do let d ← low 6 (w.extractLsb' 16 8); let a ← low 6 (w.extractLsb' 8 8); let n ← low 4 (w.extractLsb' 0 8); return (.bara d a n)
  | 0xBA => do zeroField (w.extractLsb' 16 8); let a ← low 6 (w.extractLsb' 8 8); let n ← low 4 (w.extractLsb' 0 8); return (.barw a n)
  | 0xBB => do zeroField (w.extractLsb' 16 8); let a ← low 6 (w.extractLsb' 8 8); let n ← low 4 (w.extractLsb' 0 8); return (.barinit a n)
  | 0xBC => do let d ← low 4 (w.extractLsb' 16 8); let a ← low 6 (w.extractLsb' 8 8); zeroField (w.extractLsb' 0 8); return (.ftest d a)
  | 0xBD => do zeroField (w.extractLsb' 16 8); let a ← low 6 (w.extractLsb' 8 8); zeroField (w.extractLsb' 0 8); return (.fwait a)
  | 0xBE => do zeroField (w.extractLsb' 16 8); let a ← low 6 (w.extractLsb' 8 8); zeroField (w.extractLsb' 0 8); return (.fcancel a)
  | 0xBF => do zeroField (w.extractLsb' 16 8); let a ← low 6 (w.extractLsb' 8 8); zeroField (w.extractLsb' 0 8); return (.post a)
  | 0xC0 => do zeroField (w.extractLsb' 16 8); let imm := w.extractLsb' 0 16; return (.sysc imm)
  | 0xC1 => do zeroField (w.extractLsb' 16 8); zeroField (w.extractLsb' 8 8); zeroField (w.extractLsb' 0 8); return (.sret)
  | 0xC2 => do zeroField (w.extractLsb' 16 8); let imm := w.extractLsb' 0 16; return (.hcall imm)
  | 0xC3 => do zeroField (w.extractLsb' 16 8); zeroField (w.extractLsb' 8 8); zeroField (w.extractLsb' 0 8); return (.hret)
  | 0xC4 => do let d ← low 6 (w.extractLsb' 16 8); let imm := w.extractLsb' 0 16; return (.mfpr d imm)
  | 0xC5 => do let d ← low 6 (w.extractLsb' 16 8); let imm := w.extractLsb' 0 16; return (.mtpr d imm)
  | 0xC6 => do zeroField (w.extractLsb' 16 8); let a ← low 6 (w.extractLsb' 8 8); let sc ← low 2 (w.extractLsb' 0 8); return (.tinv a sc)
  | 0xC7 => do let d ← low 6 (w.extractLsb' 16 8); let a ← low 6 (w.extractLsb' 8 8); zeroField (w.extractLsb' 0 8); return (.ctxsv d a)
  | 0xC8 => do let d ← low 6 (w.extractLsb' 16 8); let a ← low 6 (w.extractLsb' 8 8); zeroField (w.extractLsb' 0 8); return (.ctxld d a)
  | 0xC9 => do let d ← low 6 (w.extractLsb' 16 8); let imm := w.extractLsb' 0 16; return (.perf d imm)
  | 0xCA => do zeroField (w.extractLsb' 16 8); let imm := w.extractLsb' 0 16; return (.bkpt imm)
  | 0xCB => do zeroField (w.extractLsb' 16 8); let a ← low 6 (w.extractLsb' 8 8); zeroField (w.extractLsb' 0 8); return (.kill a)
  | _ => some (.unassignedOpcode w)

/-- The instruction of a word in an instruction position (R50-R56, R64). -/
def decode (w : Word) : Except Reject Instr :=
  match decodeFields w (slice w 31 24) with
  | none => .error (.reserved (slice w 31 24))
  | some i => if i.wf then .ok i else .error (.illFormed i)

/-- The header that a word in a header position holds (R44): whatever its fields, but for bit 0 (R46, item 1). -/
def decodeHeader (w : Word) : Option Instr :=
  if w.getLsbD 0 then none
  else some (.clauseHeader (w.extractLsb' 24 8) (w.extractLsb' 12 12) (w.extractLsb' 8 4) (w.extractLsb' 4 4)
    (w.extractLsb' 1 3))

/-- The word of an encoded form (R50, R44); the steps without an encoding have none. -/
def encode : Instr → Option Word
  | .clauseHeader l w a b n => some (((((l ++ w) ++ a) ++ b) ++ n) ++ 0#1)
  | .unassignedOpcode w => some w
  | .nop => some (encR 0x00#8 0#8 0#8 0#8)
  | .mode imm => some (encI 0x01#8 0#8 imm)
  | .memmode imm => some (encI 0x02#8 0#8 imm)
  | .bra off => some (encJ 0x03#8 off)
  | .bkz d off => some (encI 0x04#8 (d.setWidth 8) off)
  | .bknz d off => some (encI 0x05#8 (d.setWidth 8) off)
  | .bqt d off => some (encI 0x06#8 (d.setWidth 8) off)
  | .bqf d off => some (encI 0x07#8 (d.setWidth 8) off)
  | .call off => some (encJ 0x08#8 off)
  | .callg a => some (encR 0x09#8 0#8 (a.setWidth 8) 0#8)
  | .jmpg a => some (encR 0x0A#8 0#8 (a.setWidth 8) 0#8)
  | .ret => some (encR 0x0B#8 0#8 0#8 0#8)
  | .retv a => some (encR 0x0C#8 0#8 a 0#8)
  | .loop d off => some (encI 0x0D#8 (d.setWidth 8) off)
  | .lexit => some (encR 0x0E#8 0#8 0#8 0#8)
  | .exit => some (encR 0x0F#8 0#8 0#8 0#8)
  | .sreg d imm => some (encI 0x10#8 d imm)
  | .gsreg d imm => some (encI 0x11#8 (d.setWidth 8) imm)
  | .kfrom d a => some (encR 0x12#8 (d.setWidth 8) (a.setWidth 8) 0#8)
  | .kand d a b => some (encR 0x13#8 (d.setWidth 8) (a.setWidth 8) (b.setWidth 8))
  | .kor d a b => some (encR 0x14#8 (d.setWidth 8) (a.setWidth 8) (b.setWidth 8))
  | .kandn d a b => some (encR 0x15#8 (d.setWidth 8) (a.setWidth 8) (b.setWidth 8))
  | .kxor d a b => some (encR 0x16#8 (d.setWidth 8) (a.setWidth 8) (b.setWidth 8))
  | .kmov d a => some (encR 0x17#8 (d.setWidth 8) (a.setWidth 8) 0#8)
  | .kpop d a => some (encR 0x18#8 (d.setWidth 8) (a.setWidth 8) 0#8)
  | .ktog d a => some (encR 0x19#8 (d.setWidth 8) (a.setWidth 8) 0#8)
  | .gtok d a => some (encR 0x1A#8 (d.setWidth 8) (a.setWidth 8) 0#8)
  | .phint a b => some (encR 0x1B#8 0#8 (a.setWidth 8) (b.setWidth 8))
  | .idem a b => some (encR 0x1C#8 0#8 (a.setWidth 8) (b.setWidth 8))
  | .idend => some (encR 0x1D#8 0#8 0#8 0#8)
  | .bwphase n => some (encI 0x1E#8 0#8 (n.setWidth 16))
  | .launch d a => some (encR 0x1F#8 (d.setWidth 8) (a.setWidth 8) 0#8)
  | .add d a b => some (encR 0x20#8 d a b)
  | .sub d a b => some (encR 0x21#8 d a b)
  | .mul d a b => some (encR 0x22#8 d a b)
  | .mulh d a b => some (encR 0x23#8 d a b)
  | .mad d a b => some (encR 0x24#8 d a b)
  | .msb d a b => some (encR 0x25#8 d a b)
  | .div d a b => some (encR 0x26#8 d a b)
  | .rem d a b => some (encR 0x27#8 d a b)
  | .min d a b => some (encR 0x28#8 d a b)
  | .max d a b => some (encR 0x29#8 d a b)
  | .abs d a => some (encR 0x2A#8 d a 0#8)
  | .neg d a => some (encR 0x2B#8 d a 0#8)
  | .and d a b => some (encR 0x2C#8 d a b)
  | .or d a b => some (encR 0x2D#8 d a b)
  | .xor d a b => some (encR 0x2E#8 d a b)
  | .not d a => some (encR 0x2F#8 d a 0#8)
  | .shl d a b => some (encR 0x30#8 d a b)
  | .shr d a b => some (encR 0x31#8 d a b)
  | .sar d a b => some (encR 0x32#8 d a b)
  | .rol d a b => some (encR 0x33#8 d a b)
  | .clz d a => some (encR 0x34#8 d a 0#8)
  | .pop d a => some (encR 0x35#8 d a 0#8)
  | .brev d a => some (encR 0x36#8 d a 0#8)
  | .bfe d a b => some (encR 0x37#8 d a b)
  | .bfi d a b => some (encR 0x38#8 d a b)
  | .mov d a => some (encR 0x39#8 d a 0#8)
  | .sel d a b => some (encR 0x3A#8 d a b)
  | .ldi d imm => some (encI 0x3B#8 d imm)
  | .ldih d imm => some (encI 0x3C#8 d imm)
  | .cvt d a t => some (encR 0x3D#8 d a (t.setWidth 8))
  | .ceq d a b => some (encR 0x3E#8 (d.setWidth 8) a b)
  | .cne d a b => some (encR 0x3F#8 (d.setWidth 8) a b)
  | .clt d a b => some (encR 0x40#8 (d.setWidth 8) a b)
  | .cle d a b => some (encR 0x41#8 (d.setWidth 8) a b)
  | .cun d a b => some (encR 0x42#8 (d.setWidth 8) a b)
  | .pand d a b => some (encR 0x43#8 (d.setWidth 8) (a.setWidth 8) (b.setWidth 8))
  | .por d a b => some (encR 0x44#8 (d.setWidth 8) (a.setWidth 8) (b.setWidth 8))
  | .pxor d a b => some (encR 0x45#8 (d.setWidth 8) (a.setWidth 8) (b.setWidth 8))
  | .pnot d a => some (encR 0x46#8 (d.setWidth 8) (a.setWidth 8) 0#8)
  | .rcp d a => some (encR 0x47#8 d a 0#8)
  | .rsq d a => some (encR 0x48#8 d a 0#8)
  | .sqrt d a => some (encR 0x49#8 d a 0#8)
  | .ex2 d a => some (encR 0x4A#8 d a 0#8)
  | .lg2 d a => some (encR 0x4B#8 d a 0#8)
  | .sinpi d a => some (encR 0x4C#8 d a 0#8)
  | .cospi d a => some (encR 0x4D#8 d a 0#8)
  | .rint d a => some (encR 0x4E#8 d a 0#8)
  | .scl d a b => some (encR 0x4F#8 d a b)
  | .shfl d a b => some (encR 0x50#8 d a b)
  | .shfx d a n => some (encR 0x51#8 d a (n.setWidth 8))
  | .shup d a n => some (encR 0x52#8 d a (n.setWidth 8))
  | .shdn d a n => some (encR 0x53#8 d a (n.setWidth 8))
  | .bcst d a b => some (encR 0x54#8 d a (b.setWidth 8))
  | .radd d a => some (encR 0x55#8 (d.setWidth 8) a 0#8)
  | .rmin d a => some (encR 0x56#8 (d.setWidth 8) a 0#8)
  | .rmax d a => some (encR 0x57#8 (d.setWidth 8) a 0#8)
  | .confl d a => some (encR 0x58#8 (d.setWidth 8) a 0#8)
  | .fcls d a => some (encR 0x59#8 d a 0#8)
  | .cmprs d a b => some (encR 0x5A#8 d a (b.setWidth 8))
  | .expnd d a b => some (encR 0x5B#8 d a (b.setWidth 8))
  | .vtog d a => some (encR 0x5C#8 (d.setWidth 8) a 0#8)
  | .gtov d a => some (encR 0x5D#8 d (a.setWidth 8) 0#8)
  | .gadd d a b => some (encR 0x60#8 (d.setWidth 8) (a.setWidth 8) (b.setWidth 8))
  | .gsub d a b => some (encR 0x61#8 (d.setWidth 8) (a.setWidth 8) (b.setWidth 8))
  | .gmul d a b => some (encR 0x62#8 (d.setWidth 8) (a.setWidth 8) (b.setWidth 8))
  | .gand d a b => some (encR 0x63#8 (d.setWidth 8) (a.setWidth 8) (b.setWidth 8))
  | .gor d a b => some (encR 0x64#8 (d.setWidth 8) (a.setWidth 8) (b.setWidth 8))
  | .gxor d a b => some (encR 0x65#8 (d.setWidth 8) (a.setWidth 8) (b.setWidth 8))
  | .gshl d a b => some (encR 0x66#8 (d.setWidth 8) (a.setWidth 8) (b.setWidth 8))
  | .gshr d a b => some (encR 0x67#8 (d.setWidth 8) (a.setWidth 8) (b.setWidth 8))
  | .gsar d a b => some (encR 0x68#8 (d.setWidth 8) (a.setWidth 8) (b.setWidth 8))
  | .gmov d a => some (encR 0x69#8 (d.setWidth 8) (a.setWidth 8) 0#8)
  | .gldi d imm => some (encI 0x6A#8 (d.setWidth 8) imm)
  | .gldih d imm => some (encI 0x6B#8 (d.setWidth 8) imm)
  | .gldix d imm => some (encI 0x6C#8 (d.setWidth 8) imm)
  | .gldiy d imm => some (encI 0x6D#8 (d.setWidth 8) imm)
  | .gceq d a b => some (encR 0x6E#8 (d.setWidth 8) (a.setWidth 8) (b.setWidth 8))
  | .gclt d a b => some (encR 0x6F#8 (d.setWidth 8) (a.setWidth 8) (b.setWidth 8))
  | .lkp d a b => some (encR 0x70#8 (pairByte d) (pairByte a) (b.setWidth 8))
  | .ins d a b => some (encR 0x71#8 (pairByte d) (pairByte a) (b.setWidth 8))
  | .ups d a b => some (encR 0x72#8 (pairByte d) (pairByte a) (b.setWidth 8))
  | .del d a b => some (encR 0x73#8 (pairByte d) (pairByte a) (b.setWidth 8))
  | .rekey d a b => some (encR 0x74#8 (pairByte d) (pairByte a) (b.setWidth 8))
  | .ld d a off => some (encR 0x75#8 d (pairByte a) off)
  | .st d a off => some (encR 0x76#8 d (pairByte a) off)
  | .atom d a off => some (encR 0x77#8 d (pairByte a) off)
  | .ldrow d a b => some (encR 0x78#8 d (pairByte a) (b.setWidth 8))
  | .ratom d a off => some (encR 0x79#8 d (pairByte a) off)
  | .copen d a b => some (encR 0x7A#8 d (pairByte a) (b.setWidth 8))
  | .cstep d a => some (encR 0x7B#8 (pairByte d) a 0#8)
  | .cstepn d a => some (encR 0x7C#8 (pairByte d) a 0#8)
  | .cseek d a => some (encR 0x7D#8 d (pairByte a) 0#8)
  | .cclose a => some (encR 0x7E#8 0#8 a 0#8)
  | .gath d a b => some (encR 0x7F#8 (d.setWidth 8) (a.setWidth 8) (b.setWidth 8))
  | .promo d a => some (encR 0x80#8 (d.setWidth 8) (a.setWidth 8) 0#8)
  | .publ a => some (encR 0x81#8 0#8 (a.setWidth 8) 0#8)
  | .fence => some (encR 0x82#8 0#8 0#8 0#8)
  | .sld d a off => some (encR 0x84#8 d a off)
  | .sst d a off => some (encR 0x85#8 d a off)
  | .satom d a off => some (encR 0x86#8 d a off)
  | .cpy d a b => some (encR 0x87#8 (d.setWidth 8) (a.setWidth 8) (b.setWidth 8))
  | .cpys d a b => some (encR 0x88#8 (d.setWidth 8) (a.setWidth 8) (b.setWidth 8))
  | .cpyo d a b => some (encR 0x89#8 (d.setWidth 8) (a.setWidth 8) (b.setWidth 8))
  | .cbatch d => some (encR 0x8A#8 (d.setWidth 8) 0#8 0#8)
  | .cwait a => some (encR 0x8B#8 0#8 (a.setWidth 8) 0#8)
  | .bgive d row col => some (encC 0x8C#8 (d.setWidth 8) row col 0#4)
  | .btake d => some (encR 0x8D#8 (d.setWidth 8) 0#8 0#8)
  | .balloc d a => some (encR 0x8E#8 (d.setWidth 8) (a.setWidth 8) 0#8)
  | .bfree a => some (encR 0x8F#8 0#8 (a.setWidth 8) 0#8)
  | .gang a => some (encR 0xA0#8 0#8 (a.setWidth 8) 0#8)
  | .mlds d a b => some (encR 0xA1#8 (d.setWidth 8) (a.setWidth 8) (b.setWidth 8))
  | .mact => some (encR 0xA2#8 0#8 0#8 0#8)
  | .mmul d a b => some (encR 0xA3#8 (d.setWidth 8) (a.setWidth 8) (b.setWidth 8))
  | .mmsp d a b => some (encR 0xA4#8 (d.setWidth 8) (a.setWidth 8) b)
  | .mband a b => some (encR 0xA5#8 0#8 (a.setWidth 8) (b.setWidth 8))
  | .scacc d a => some (encR 0xA6#8 (d.setWidth 8) (a.setWidth 8) 0#8)
  | .mrd d a b => some (encR 0xA7#8 (d.setWidth 8) (a.setWidth 8) (b.setWidth 8))
  | .mclr a => some (encR 0xA8#8 0#8 (a.setWidth 8) 0#8)
  | .mstep d a => some (encR 0xA9#8 (d.setWidth 8) (a.setWidth 8) 0#8)
  | .go a b => some (encR 0xB0#8 0#8 (pairByte a) (b.setWidth 8))
  | .gom a b => some (encR 0xB1#8 0#8 (pairByte a) (b.setWidth 8))
  | .goto d row col sel => some (encC 0xB2#8 (d.setWidth 8) row col (sel.setWidth 4))
  | .gopol imm => some (encI 0xB3#8 0#8 imm)
  | .rejoin imm => some (encI 0xB4#8 0#8 imm)
  | .bar n => some (encI 0xB8#8 0#8 (n.setWidth 16))
  | .bara d a n => some (encR 0xB9#8 (d.setWidth 8) (a.setWidth 8) (n.setWidth 8))
  | .barw a n => some (encR 0xBA#8 0#8 (a.setWidth 8) (n.setWidth 8))
  | .barinit a n => some (encR 0xBB#8 0#8 (a.setWidth 8) (n.setWidth 8))
  | .ftest d a => some (encR 0xBC#8 (d.setWidth 8) (a.setWidth 8) 0#8)
  | .fwait a => some (encR 0xBD#8 0#8 (a.setWidth 8) 0#8)
  | .fcancel a => some (encR 0xBE#8 0#8 (a.setWidth 8) 0#8)
  | .post a => some (encR 0xBF#8 0#8 (a.setWidth 8) 0#8)
  | .sysc imm => some (encI 0xC0#8 0#8 imm)
  | .sret => some (encR 0xC1#8 0#8 0#8 0#8)
  | .hcall imm => some (encI 0xC2#8 0#8 imm)
  | .hret => some (encR 0xC3#8 0#8 0#8 0#8)
  | .mfpr d imm => some (encI 0xC4#8 (d.setWidth 8) imm)
  | .mtpr d imm => some (encI 0xC5#8 (d.setWidth 8) imm)
  | .tinv a sc => some (encR 0xC6#8 0#8 (a.setWidth 8) (sc.setWidth 8))
  | .ctxsv d a => some (encR 0xC7#8 (d.setWidth 8) (a.setWidth 8) 0#8)
  | .ctxld d a => some (encR 0xC8#8 (d.setWidth 8) (a.setWidth 8) 0#8)
  | .perf d imm => some (encI 0xC9#8 (d.setWidth 8) imm)
  | .bkpt imm => some (encI 0xCA#8 0#8 imm)
  | .kill a => some (encR 0xCB#8 0#8 (a.setWidth 8) 0#8)
  | .divComplete .. | .tableOpComplete .. | .gathComplete .. | .promoComplete .. | .publSwapOrRetire .. |
    .scratchLoadComplete .. | .copyComplete .. | .bgiveTransfer .. | .bfreeRelease .. | .granuleClearDone .. |
    .mldsPerform .. | .mactPerform .. | .mmulPerform .. | .mmspPerform .. | .mbandPerform .. | .scaccPerform .. |
    .mrdPerform .. | .mclrPerform .. | .implicitMigration .. | .flaconSend .. | .flaconArrival .. |
    .flaconAcknowledge .. | .reassemblyWindowExpiry .. | .strandForm .. | .tinvDone .. | .trapEntry .. |
    .starvationPromotion .. | .launchService .. | .dispatchBlock | .launchComplete .. | .preemptRequest .. |
    .fullSaveTimeout .. | .strandSave .. | .kuenrexRestore .. | .strandRestore .. | .pageWalk .. |
    .bankRetentionEntry .. | .bankDeepPowerDown .. | .bankWakeEnd .. | .bankMapWrite .. | .packagePhaseApply .. |
    .compactionMove .. | .faultQueueRemove | .mgmtRegisterWrite .. | .coreClockStep .. | .imageLoad .. |
    .tableCreate .. | .tableDestroy .. | .tableStoreReturn .. | .rowStorageFree .. | .linkFlitReceive .. |
    .linkRequestTimeout .. | .hostDoorbell .. | .freeze | .enfleurageReadout | .resume | .reset | .refusedClear |
    .packageReset | .bootStage | .maintenanceReplan .. | .powerStateEntryComplete .. | .coreCycleCounterMatch |
    .hostWindowAccess .. | .getVersion | .getCapabilities | .negotiateAlgorithms .. | .getDigests |
    .getCertificate .. | .challenge .. | .getMeasurements .. => none

/-- The instruction of a row of the opcode table with the given bits. A word is read in an instruction position;
one that no instruction has, but a header may have, is read as a header. -/
def decodeTableWord (nbits w : Nat) : Option Instr :=
  if nbits = 32 then
    match decode (BitVec.ofNat 32 w) with
    | .ok i => some i
    | .error _ =>
      match decodeHeader (BitVec.ofNat 32 w) with
      | some h => if h.wf then some h else none
      | none => none
  else none

/-- Opcodes marked "flag" in Table 3-7: the long-latency operations (R45). -/
def flagOps : List Nat := [0x26, 0x70, 0x71, 0x72, 0x73, 0x74, 0x75, 0x77, 0x78, 0x79, 0x7A, 0x7B, 0x7C, 0x7D, 0x84, 0x86]

/-- Opcodes marked "future" in Table 3-7. -/
def futureOps : List Nat := [0x1F, 0x7F, 0x80, 0xA1, 0xA3, 0xA4, 0xA6, 0xA7, 0xC7, 0xC8]

/-- Opcodes with a vector register, pair or block in field a (Table 3-7; R46, item 8). -/
def vectorAOps : List Nat :=
  [0x0C, 0x20, 0x21, 0x22, 0x23, 0x24, 0x25, 0x26, 0x27, 0x28, 0x29, 0x2A, 0x2B, 0x2C, 0x2D, 0x2E, 0x2F, 0x30, 0x31, 0x32, 0x33, 0x34, 0x35, 0x36, 0x37, 0x38, 0x39, 0x3A, 0x3D, 0x3E, 0x3F, 0x40, 0x41, 0x42, 0x47, 0x48, 0x49, 0x4A, 0x4B, 0x4C, 0x4D, 0x4E, 0x4F, 0x50, 0x51, 0x52, 0x53, 0x54, 0x55, 0x56, 0x57, 0x58, 0x59, 0x5A, 0x5B, 0x5C, 0x70, 0x71, 0x72, 0x73, 0x74, 0x75, 0x76, 0x77, 0x78, 0x79, 0x7A, 0x7B, 0x7C, 0x7D, 0x7E, 0x84, 0x85, 0x86, 0xB0, 0xB1]

/-- Opcodes that stand last in their clause (R46, item 9). -/
def lastOps : List Nat :=
  [0x03, 0x04, 0x05, 0x06, 0x07, 0x08, 0x09, 0x0A, 0x0B, 0x0C, 0x0D, 0x0E, 0x0F, 0xC0, 0xC2, 0xCA]

/-- Lowest mode of an opcode (R66, Table 3-8): 0 U, 1 S, 2 H; MFPR, MTPR and SREG go by their selectors. -/
def opcodeMode (op : Nat) : Nat :=
  if op = 0xC1 ∨ op = 0xC2 ∨ op = 0xC6 ∨ op = 0xC7 ∨ op = 0xC8 ∨ op = 0xCB then 1 else if op = 0xC3 then 2 else 0

end Sys2Proof
end

