-- ==== Sys2Proof/Config.lean ====
section
/-! DEFINITION. What an implementation fixes and the values the manual leaves open. A constant declared opaque
has no body: nothing in Lean can evaluate it, so a claim holds whatever it is. -/

namespace Sys2Proof.Config

/-- FREE VALUE (log 9): which of the two bracketing values a faithfully rounded SINPI or COSPI delivers (R81);
the argument is a counter of State. -/
opaque faithfulUp : Nat → Bool

/-- FREE VALUE (log 12): which of n free row stores an insertion takes (R166, R171); used modulo n. -/
opaque rowChoice : Nat → Nat

/-- FREE VALUE (log 13): which words a GATH cancelled before completion has written (R345): word n of the
destination holds its gathered value when this is true. -/
opaque gathWritten : Nat → Nat → Bool

/-- FREE VALUE (log 5): array cycles that a matrix operation kept the array busy (R262). -/
opaque arrayBusy : Nat → Nat

/-- FREE VALUE (log 35): where the global block numbers begin under which far references name the 16 KiB frames of the row
stores of dense and indexed tables (R162): frame f is block (rowBlockBase + f) mod 2^37. -/
opaque rowBlockBase : Nat

/-- FREE VALUE (log 5): core cycles from a freeze trigger to the stop (Table 15-4). -/
opaque stopCycles : Nat → BitVec 2

/-- FREE VALUE (log 81): the frequency margin that firmware plans from what a core's ring oscillators and path monitors showed
(R362). -/
opaque plannedMargin : Nat → Nat → Nat

/-- FREE VALUE (log 16): the magic of a firmware header (R350). -/
opaque firmwareMagic : Nat

/-- FREE VALUE (log 11): the SHA-384 digest of a text (R350). -/
opaque sha384 : List (BitVec 8) → BitVec 384

/-- FREE VALUE (log 11): whether an ECDSA P-384 signature over a text verifies under a public key (R350). -/
opaque ecdsaVerify : List (BitVec 8) → List (BitVec 8) → List (BitVec 8) → Bool

/-- FREE VALUE (log 11): whether an LMS signature over a text verifies under a public key (R350). -/
opaque lmsVerify : List (BitVec 8) → List (BitVec 8) → List (BitVec 8) → Bool

/-- FREE VALUE (log 11): the compound device identifier derived from an identifier and a measurement (R352). -/
opaque dice : BitVec 384 → BitVec 384 → BitVec 384

/-- FREE VALUE (log 11): the alias key pair on P-384 that stage 2 holds under an identity (R352), by its public key. -/
opaque aliasEcdsa : BitVec 384 → List (BitVec 8)

/-- FREE VALUE (log 11): the LMS alias key that stage 2 holds under an identity (R352), by its public key. -/
opaque aliasLms : BitVec 384 → List (BitVec 8)

/-- FREE VALUE (log 11): the certificate of a public key under an identity (R352). -/
opaque certify : BitVec 384 → List (BitVec 8) → List (BitVec 8)

/-- FREE VALUE (log 11): an ECDSA P-384 signature of a text by the alias key with a public key (R353). -/
opaque ecdsaSign : List (BitVec 8) → List (BitVec 8) → BitVec 768

/-- FREE VALUE (log 11): an LMS signature of a text by the LMS alias key with a public key (R353). -/
opaque lmsSign : List (BitVec 8) → List (BitVec 8) → List (BitVec 8)

/-- The unique device secret in the fuses (R352), readable only by boot stage 0 (log 11). -/
opaque deviceSecret : BitVec 384

/-- What a byte of physical memory that nothing has written reads as. DESIGN CHOICE, unsafe (log 1): the manual
gives HBM no contents after reset. -/
def unwritten : BitVec 8 := 0#8

/-- Cores of a package (R10). -/
def cores : Nat := 320

/-- Fitted capacity of tier 1 in bytes: GH-OL4-M768 (Table 0-1), DESIGN CHOICE of the ordering code (log 14). -/
def tier1Bytes : Nat := 768 * 2 ^ 30

/-- This package's number in its Dolmond domain (R25). DESIGN CHOICE (log 14). -/
def packageNumber : Nat := 0

/-- Packages of the Dolmond domain (R25). DESIGN CHOICE (log 14). -/
def domainPackages : Nat := 1024

end Sys2Proof.Config
end

