-- ==== Sys2Proof/Machine/Float.lean ====
section
/-! DEFINITION. Floating-point formats, exact values and their single rounding (R70-R77, R79, R81, Tables 4-2, 4-5,
4-6). An exact result is held as a magnitude, and delivered once. -/

namespace Sys2Proof.Machine

/-- The flags of Table 4-3: IV 16, DZ 8, OF 4, UF 2, IX 1. -/
abbrev Flags := BitVec 5

/-- Invalid. -/
def fIV : Flags := 16#5
/-- Divide-by-zero. -/
def fDZ : Flags := 8#5
/-- Overflow. -/
def fOF : Flags := 4#5
/-- Underflow. -/
def fUF : Flags := 2#5
/-- Inexact. -/
def fIX : Flags := 1#5

/-- A format (Table 4-2): exponent and mantissa bits, bias, whether it has infinities (E4M3 has none). -/
structure Fmt where
  ebits : Nat
  mbits : Nat
  bias  : Nat
  hasInf : Bool
  deriving DecidableEq, Repr

/-- FP32. -/
def Fmt.f32 : Fmt := ⟨8, 23, 127, true⟩
/-- FP16. -/
def Fmt.f16 : Fmt := ⟨5, 10, 15, true⟩
/-- BF16. -/
def Fmt.bf16 : Fmt := ⟨8, 7, 127, true⟩
/-- E4M3. -/
def Fmt.e4m3 : Fmt := ⟨4, 3, 7, false⟩
/-- E5M2. -/
def Fmt.e5m2 : Fmt := ⟨5, 2, 15, true⟩

/-- Exponent of the smallest normal. -/
def Fmt.emin (f : Fmt) : Int := 1 - f.bias

/-- Exponent of the unit of a subnormal. -/
def Fmt.qmin (f : Fmt) : Int := f.emin - f.mbits

/-- The exponent field of all ones. -/
def Fmt.eones (f : Fmt) : Nat := 2 ^ f.ebits - 1

/-- Encoding of the largest finite magnitude. -/
def Fmt.maxFinite (f : Fmt) : Nat :=
  if f.hasInf then f.eones * 2 ^ f.mbits - 1 else 2 ^ (f.ebits + f.mbits) - 2

/-- Encoding of +infinity, where there is one. -/
def Fmt.inf (f : Fmt) : Nat := f.eones * 2 ^ f.mbits

/-- Canonical NaN (Table 4-2). -/
def Fmt.nan (f : Fmt) : Nat :=
  if f.hasInf then f.eones * 2 ^ f.mbits + 2 ^ (f.mbits - 1) else 2 ^ (f.ebits + f.mbits) - 1

/-- The sign bit. -/
def Fmt.signBit (f : Fmt) : Nat := 2 ^ (f.ebits + f.mbits)

/-- An encoding with a sign. -/
def Fmt.signed (f : Fmt) (neg : Bool) (mag : Nat) : Nat := if neg then f.signBit + mag else mag

/-- A value: a NaN, an infinity, or (-1)^neg m 2^e. -/
inductive FVal where
  | nan (signalling : Bool)
  | inf (neg : Bool)
  | fin (neg : Bool) (m : Nat) (e : Int)
  deriving DecidableEq, Repr

/-- The value of an encoding (R70). -/
def Fmt.value (f : Fmt) (x : Nat) : FVal :=
  let neg := x / f.signBit % 2 == 1
  let ex := x / 2 ^ f.mbits % 2 ^ f.ebits
  let m := x % 2 ^ f.mbits
  if ex = f.eones ∧ f.hasInf then
    (if m = 0 then .inf neg else .nan (m < 2 ^ (f.mbits - 1)))
  else if x % f.signBit = f.nan ∧ ¬ f.hasInf then .nan false
  else if ex = 0 then .fin neg m f.qmin
  else .fin neg (2 ^ f.mbits + m) (f.qmin + (ex - 1 : Nat))

/-- An exact magnitude in [m, m + 1) 2^e; it is m 2^e exactly when sticky is false. With sticky, m has at least two
bits more than the mantissa of the format it is delivered in. -/
structure Mag where
  m      : Nat
  e      : Int
  sticky : Bool
  deriving DecidableEq, Repr

/-- m 2^-s rounded to an integer in a mode, and whether that was inexact (R72). -/
def roundShift (r : Rounding) (neg : Bool) (m : Nat) (s : Int) (sticky : Bool) : Nat × Bool :=
  if s ≤ 0 then
    let n := m <<< (-s).toNat
    let up := sticky && (match r with | .rup => !neg | .rdn => neg | _ => false)
    (if up then n + 1 else n, sticky)
  else
    let k := s.toNat
    let n := m >>> k
    let rem := m % 2 ^ k
    let half := 2 ^ (k - 1)
    let inexact := rem != 0 || sticky
    let up := match r with
      | .rne => decide (rem > half) || (rem == half && (sticky || n % 2 == 1))
      | .rtz => false
      | .rup => inexact && !neg
      | .rdn => inexact && neg
    (if up then n + 1 else n, inexact)

/-- Whether n 2^q is below 2^e. -/
def belowPow (n : Nat) (q e : Int) : Bool :=
  if q ≤ e then decide (n < 2 ^ (e - q).toNat) else n == 0

/-- An infinite result (R72, R75): E4M3 has no infinity. -/
def Fmt.deliverInf (f : Fmt) (sat neg : Bool) (fl : Flags) : Nat × Flags :=
  if f.hasInf then (f.signed neg f.inf, fl)
  else if sat then (f.signed neg f.maxFinite, fl)
  else (f.nan, fl ||| fIV)

/-- A finite result that overflows (R72, R75). -/
def Fmt.deliverOverflow (f : Fmt) (r : Rounding) (sat neg : Bool) : Nat × Flags :=
  if sat then (f.signed neg f.maxFinite, fOF ||| fIX)
  else if !f.hasInf then (f.nan, fIV ||| fIX)
  else
    let toInf := match r with | .rne => true | .rtz => false | .rup => !neg | .rdn => neg
    (f.signed neg (if toInf then f.inf else f.maxFinite), fOF ||| fIX)

/-- The encoding of n 2^q, q at least the unit of a subnormal, n below 2^(mbits+1) or equal to it. -/
def Fmt.encodeMag (f : Fmt) (n : Nat) (q : Int) : Nat :=
  if n < 2 ^ f.mbits then n else ((q - f.qmin).toNat + 1) * 2 ^ f.mbits + (n - 2 ^ f.mbits)

/-- A finite exact result rounded once (R72-R75): its encoding and the flags OF, UF, IX, or IV for E4M3. -/
def Fmt.deliver (f : Fmt) (r : Rounding) (sat neg : Bool) (x : Mag) : Nat × Flags :=
  if x.m = 0 ∧ x.sticky = false then (f.signed neg 0, 0#5)
  else
    let ex : Int := (Nat.log2 x.m : Int) + x.e
    let qU := ex - f.mbits
    let q := if qU < f.qmin then f.qmin else qU
    let (n, inexact) := roundShift r neg x.m (q - x.e) x.sticky
    let (nU, _) := roundShift r neg x.m (qU - x.e) x.sticky
    let enc := f.encodeMag n q
    if enc > f.maxFinite then f.deliverOverflow r sat neg
    else
      let tiny := belowPow nU qU f.emin
      (f.signed neg enc, (if inexact then fIX else 0#5) ||| (if inexact && tiny then fUF else 0#5))

/-- Any exact value delivered: a NaN is canonical (R74). -/
def Fmt.deliverVal (f : Fmt) (r : Rounding) (sat : Bool) : FVal → Nat × Flags
  | .nan s => (f.nan, if s then fIV else 0#5)
  | .inf neg => f.deliverInf sat neg 0#5
  | .fin neg m e => f.deliver r sat neg ⟨m, e, false⟩

/-! ### Arithmetic on values -/

/-- Whether an operand is a NaN. -/
def FVal.isNan : FVal → Bool
  | .nan _ => true
  | _ => false

/-- IV for a signalling NaN operand (R74). -/
def FVal.snan : FVal → Flags
  | .nan true => fIV
  | _ => 0#5

/-- Whether a value is zero. -/
def FVal.isZero : FVal → Bool
  | .fin _ 0 _ => true
  | _ => false

/-- The sign. -/
def FVal.neg : FVal → Bool
  | .nan _ => false
  | .inf n => n
  | .fin n _ _ => n

/-- The value with its sign inverted. -/
def FVal.negate : FVal → FVal
  | .nan s => .nan s
  | .inf n => .inf !n
  | .fin n m e => .fin (!n) m e

/-- m 2^e with a sign, as an integer multiple of 2^q, q not above e. -/
def scaled (neg : Bool) (m : Nat) (e q : Int) : Int :=
  let v : Int := ((m <<< (e - q).toNat : Nat) : Int)
  if neg then -v else v

/-- The exact sum of two finite values; a zero sum has the sign of R73. -/
def sumFin (r : Rounding) (n1 : Bool) (m1 : Nat) (e1 : Int) (n2 : Bool) (m2 : Nat) (e2 : Int) : Bool × Mag :=
  let q := if e1 < e2 then e1 else e2
  let t := scaled n1 m1 e1 q + scaled n2 m2 e2 q
  if t = 0 then ((if m1 = 0 ∧ m2 = 0 ∧ n1 = n2 then n1 else r == .rdn), ⟨0, q, false⟩)
  else (decide (t < 0), ⟨t.natAbs, q, false⟩)

/-- x + y (R72-R75). -/
def Fmt.add (f : Fmt) (r : Rounding) (sat : Bool) (x y : FVal) : Nat × Flags :=
  if x.isNan || y.isNan then (f.nan, x.snan ||| y.snan)
  else match x, y with
    | .inf a, .inf b => if a = b then f.deliverInf sat a 0#5 else (f.nan, fIV)
    | .inf a, _ => f.deliverInf sat a 0#5
    | _, .inf b => f.deliverInf sat b 0#5
    | .fin n1 m1 e1, .fin n2 m2 e2 =>
      let (n, t) := sumFin r n1 m1 e1 n2 m2 e2
      f.deliver r sat n t
    | _, _ => (f.nan, 0#5)

/-- x y. -/
def Fmt.mul (f : Fmt) (r : Rounding) (sat : Bool) (x y : FVal) : Nat × Flags :=
  if x.isNan || y.isNan then (f.nan, x.snan ||| y.snan)
  else match x, y with
    | .fin n1 m1 e1, .fin n2 m2 e2 => f.deliver r sat (n1 != n2) ⟨m1 * m2, e1 + e2, false⟩
    | a, b => if a.isZero || b.isZero then (f.nan, fIV) else f.deliverInf sat (a.neg != b.neg) 0#5

/-- z + x y with one rounding (R133): a product of 0 and infinity raises IV whatever z is. -/
def Fmt.fma (f : Fmt) (r : Rounding) (sat : Bool) (x y z : FVal) : Nat × Flags :=
  let bad := match x, y with
    | .inf _, b => b.isZero
    | a, .inf _ => a.isZero
    | _, _ => false
  if x.isNan || y.isNan || z.isNan || bad then
    (f.nan, x.snan ||| y.snan ||| z.snan ||| (if bad then fIV else 0#5))
  else match x, y, z with
    | .fin n1 m1 e1, .fin n2 m2 e2, .fin n3 m3 e3 =>
      let (n, t) := sumFin r (n1 != n2) (m1 * m2) (e1 + e2) n3 m3 e3
      f.deliver r sat n t
    | .fin _ _ _, .fin _ _ _, c => f.deliverInf sat c.neg 0#5
    | a, b, .inf c => if (a.neg != b.neg) = c then f.deliverInf sat c 0#5 else (f.nan, fIV)
    | a, b, _ => f.deliverInf sat (a.neg != b.neg) 0#5

/-- The exact quotient m1 2^e1 / (m2 2^e2), m2 not 0, to at least p + 3 bits. -/
def quotient (p m1 : Nat) (e1 : Int) (m2 : Nat) (e2 : Int) : Mag :=
  let k := p + 3 + Nat.log2 m2
  ⟨(m1 <<< k) / m2, e1 - e2 - k, (m1 <<< k) % m2 != 0⟩

/-- x / y (R79, R132). -/
def Fmt.div (f : Fmt) (r : Rounding) (sat : Bool) (x y : FVal) : Nat × Flags :=
  if x.isNan || y.isNan then (f.nan, x.snan ||| y.snan)
  else
    let n := x.neg != y.neg
    match x, y with
    | .inf _, .inf _ => (f.nan, fIV)
    | .inf _, _ => f.deliverInf sat n 0#5
    | _, .inf _ => (f.signed n 0, 0#5)
    | .fin _ m1 e1, .fin _ m2 e2 =>
      if m2 = 0 then (if m1 = 0 then (f.nan, fIV) else f.deliverInf sat n fDZ)
      else f.deliver r sat n (quotient (f.mbits + 1) m1 e1 m2 e2)
    | _, _ => (f.nan, 0#5)

/-- The integer square root of n, found bit by bit from bit k - 1 down. -/
def isqrtBits (n : Nat) : Nat → Nat → Nat
  | 0, acc => acc
  | k + 1, acc => if (acc + 2 ^ k) * (acc + 2 ^ k) ≤ n then isqrtBits n k (acc + 2 ^ k) else isqrtBits n k acc

/-- The integer square root. -/
def isqrt (n : Nat) : Nat := isqrtBits n (Nat.log2 n / 2 + 1) 0

/-- The square root of m 2^e, m not 0, to at least p + 3 bits. -/
def sqrtMag (p m : Nat) (e : Int) : Mag :=
  let k := 2 * (p + 3) + (if (e % 2 = 0) then 0 else 1)
  let n := m <<< k
  let s := isqrt n
  ⟨s, (e - k) / 2, s * s != n⟩

/-- SQRT (Table 4-6). -/
def Fmt.sqrt (f : Fmt) (r : Rounding) (sat : Bool) : FVal → Nat × Flags
  | .nan s => (f.nan, if s then fIV else 0#5)
  | .inf n => if n then (f.nan, fIV) else f.deliverInf sat false 0#5
  | .fin n m e =>
    if m = 0 then (f.signed n 0, 0#5) else if n then (f.nan, fIV)
    else f.deliver r sat false (sqrtMag (f.mbits + 1) m e)

/-- RSQ: 1/sqrt x (Table 4-6). The root of floor(2^2k / m') is the floor of the root. -/
def Fmt.rsq (f : Fmt) (r : Rounding) (sat : Bool) : FVal → Nat × Flags
  | .nan s => (f.nan, if s then fIV else 0#5)
  | .inf n => if n then (f.nan, fIV) else (0, 0#5)
  | .fin n m e =>
    if m = 0 then f.deliverInf sat n fDZ else if n then (f.nan, fIV)
    else
      let (m, e) := if e % 2 = 0 then (m, e) else (2 * m, e - 1)
      let k := f.mbits + 4 + Nat.log2 m
      let s := isqrt (2 ^ (2 * k) / m)
      f.deliver r sat false ⟨s, -(e / 2) - k, s * s * m != 2 ^ (2 * k)⟩

/-- RCP (Table 4-6). -/
def Fmt.rcp (f : Fmt) (r : Rounding) (sat : Bool) (x : FVal) : Nat × Flags := f.div r sat (.fin false 1 0) x

/-! ### Powers and logarithms to base 2 -/

/-- The next binary digits of the base-2 logarithm of y, 1 ≤ y < 2, where y lies in [lo, hi] 2^-s: each digit is 1 when
the square reaches 2. None when the bounds do not decide a digit. -/
def logDigits (s : Nat) : Nat → Nat → Nat → Nat → Option Nat
  | 0, _, _, acc => some acc
  | n + 1, lo, hi, acc =>
    let lo2 := (lo * lo) >>> s
    let hi2 := ((hi * hi) >>> s) + 1
    if 2 ^ (s + 1) ≤ lo2 then logDigits s n (lo2 / 2) (hi2 / 2 + 1) (2 * acc + 1)
    else if hi2 < 2 ^ (s + 1) then logDigits s n lo2 hi2 (2 * acc)
    else none

/-- floor(2^d log2(R 2^-p)) for 1 ≤ R 2^-p < 2: by digits, or, where the bounds do not decide, from the power itself
(R81: no result rests on an evaluation of bounded precision; log 10). -/
def logFloor (p R d : Nat) : Nat :=
  let s := p + 2 * d + 64
  match logDigits s d (R <<< (s - p)) (R <<< (s - p)) 0 with
  | some n => n
  | none => Nat.log2 (R ^ 2 ^ d) - p * 2 ^ d

/-- Whether log2(R 2^-p) ≤ F 2^-k, where 1 ≤ R 2^-p < 2 and 0 < F < 2^k, so that the two are never equal unless
R = 2^p. -/
def logLe (p R k F : Nat) : Bool := decide (logFloor p R k < F) || R == 2 ^ p

/-- floor(2^p 2^(F 2^-k)) for 0 < F < 2^k: the greatest R not above the power, found bit by bit below bit p. -/
def powFloor (p k F : Nat) : Nat → Nat → Nat
  | 0, acc => acc
  | b + 1, acc => if logLe p (acc + 2 ^ b) k F then powFloor p k F b (acc + 2 ^ b) else powFloor p k F b acc

/-- EX2 of a finite value (R81). Exponents beyond 2^13 overflow or underflow whatever they are. -/
def Fmt.ex2 (f : Fmt) (r : Rounding) (sat : Bool) : FVal → Nat × Flags
  | .nan s => (f.nan, if s then fIV else 0#5)
  | .inf n => if n then (0, 0#5) else f.deliverInf sat false 0#5
  | .fin n m e =>
    if m = 0 then f.deliver r sat false ⟨1, 0, false⟩
    else if (Nat.log2 m : Int) + e ≥ 13 then
      f.deliver r sat false ⟨1, if n then -8192 else 8192, false⟩
    else
      let k := (-e).toNat
      let x : Int := scaled n m e (-k)
      let t := x / 2 ^ k
      let F := (x % 2 ^ k).toNat
      if F = 0 then f.deliver r sat false ⟨1, t, false⟩
      else
        let p := f.mbits + 3
        f.deliver r sat false ⟨powFloor p k F p (2 ^ p), t - p, true⟩

/-- LG2 (Table 4-6, R81). -/
def Fmt.lg2 (f : Fmt) (r : Rounding) (sat : Bool) : FVal → Nat × Flags
  | .nan s => (f.nan, if s then fIV else 0#5)
  | .inf n => if n then (f.nan, fIV) else f.deliverInf sat false 0#5
  | .fin n m e =>
    if m = 0 then f.deliverInf sat true fDZ else if n then (f.nan, fIV)
    else
      let p := Nat.log2 m
      let ex : Int := p + e
      if m = 2 ^ p then f.deliver r sat (decide (ex < 0)) ⟨ex.natAbs, 0, false⟩
      else
        let d := 2 * (f.mbits + 1) + 8
        let t : Int := ex * 2 ^ d + logFloor p m d
        if 0 ≤ t then f.deliver r sat false ⟨t.natAbs, -d, true⟩
        else f.deliver r sat true ⟨(-t - 1).natAbs, -d, true⟩

/-! ### Sines and cosines of multiples of pi -/

/-- Bounds of a cosine and a sine, in units of 2^-s. -/
structure CosSin where
  clo : Nat
  chi : Nat
  slo : Nat
  shi : Nat
  deriving DecidableEq, Repr

/-- The half angle of an angle in the first quadrant. -/
def halfAngle (s : Nat) (x : CosSin) : CosSin :=
  let clo := isqrt ((2 ^ s + x.clo) <<< (s - 1))
  let chi := isqrt ((2 ^ s + x.chi) <<< (s - 1)) + 1
  ⟨clo, chi, (x.slo <<< s) / (2 * chi), (x.shi <<< s) / (2 * clo) + 1⟩

/-- The sum of two angles that stays in the first quadrant. -/
def addAngle (s : Nat) (x y : CosSin) : CosSin :=
  ⟨(x.clo * y.clo - x.shi * y.shi) >>> s, ((x.chi * y.chi - x.slo * y.slo) >>> s) + 1,
   (x.slo * y.clo + x.clo * y.slo) >>> s, ((x.shi * y.chi + x.chi * y.shi) >>> s) + 1⟩

/-- Bounds for the angle pi F 2^-k, the bits of F taken from bit b - 1 down; the angle at hand is pi 2^(b-k). -/
def cosSinBits (s F : Nat) : Nat → CosSin → CosSin → CosSin
  | 0, _, acc => acc
  | b + 1, ang, acc =>
    let ang := halfAngle s ang
    cosSinBits s F b ang (if F.testBit b then addAngle s acc ang else acc)

/-- Bounds of cos and sin of pi F 2^-k for 0 < F < 2^(k-1), in units of 2^-s: from the right angle, halved. -/
def cosSin (s k F : Nat) : CosSin :=
  cosSinBits s F (k - 1) ⟨0, 0, 2 ^ s, 2 ^ s⟩ ⟨2 ^ s, 2 ^ s, 0, 0⟩

/-- A value between two bounds delivered faithfully (R81): one of the two representable values that bracket it, which of
them being free (log 9); where a representable value lies between the bounds, that one. -/
def Fmt.faithful (f : Fmt) (pick neg : Bool) (lo hi : Nat) (e : Int) : Nat × Flags :=
  let down := f.deliver .rtz false neg ⟨lo, e, true⟩
  let away : Rounding := if neg then .rdn else .rup
  let up := f.deliver away false neg ⟨lo, e, true⟩
  let down' := f.deliver .rtz false neg ⟨hi, e, true⟩
  if down.1 = down'.1 then (if pick then up else down) else down'

/-- sin(pi x), or cos(pi x) when shift is 1 (Table 4-6). -/
def Fmt.sinCosPi (f : Fmt) (pick : Bool) (cos : Bool) : FVal → Nat × Flags
  | .nan s => (f.nan, if s then fIV else 0#5)
  | .inf _ => (f.nan, fIV)
  | .fin n m e =>
    let one := f.bias * 2 ^ f.mbits
    let k := (-e).toNat + 1
    let y := m <<< (e + k).toNat            -- |x| in units of 2^-k
    let quarter := y / 2 ^ (k - 1) % 4      -- half turns of |x|
    let F := y % 2 ^ (k - 1)
    if F = 0 then
      -- Table 4-6: an integer or an integer and a half
      if cos then
        (match quarter with | 0 => (one, 0#5) | 2 => (f.signed true one, 0#5) | _ => (0, 0#5))
      else
        (match quarter with
          | 1 => (f.signed n one, 0#5)
          | 3 => (f.signed (!n) one, 0#5)
          | _ => (f.signed n 0, 0#5))
    else
      let s := 4 * k + f.mbits + 64
      let b := cosSin s k F
      let useCos := if cos then quarter % 2 == 0 else quarter % 2 == 1
      let neg := if cos then quarter == 1 || quarter == 2 else (n != (quarter == 2 || quarter == 3))
      if useCos then f.faithful pick neg b.clo b.chi (-s) else f.faithful pick neg b.slo b.shi (-s)

/-! ### Other operations -/

/-- RINT (R143): an integral value of the same type; IX when it differs. -/
def Fmt.rint (f : Fmt) (r : Rounding) (sat : Bool) : FVal → Nat × Flags
  | .nan s => (f.nan, if s then fIV else 0#5)
  | .inf n => f.deliverInf sat n 0#5
  | .fin n m e =>
    if 0 ≤ e then f.deliver r sat n ⟨m, e, false⟩
    else
      let (k, inexact) := roundShift r n m (-e) false
      ((f.deliver r sat n ⟨k, 0, false⟩).1, if inexact then fIX else 0#5)

/-- SCL (R143): x 2^n; powers beyond 2^12 overflow or underflow whatever they are. -/
def Fmt.scl (f : Fmt) (r : Rounding) (sat : Bool) (x : FVal) (n : Int) : Nat × Flags :=
  match x with
  | .nan s => (f.nan, if s then fIV else 0#5)
  | .inf g => f.deliverInf sat g 0#5
  | .fin g m e =>
    let n := if n < -4096 then -4096 else if n > 4096 then 4096 else n
    f.deliver r sat g ⟨m, e + n, false⟩

/-- Comparison of two values that are not NaNs: less, equal or greater; zeros are equal. -/
def FVal.cmp : FVal → FVal → Ordering
  | .inf a, .inf b => if a = b then .eq else if a then .lt else .gt
  | .inf a, _ => if a then .lt else .gt
  | _, .inf b => if b then .gt else .lt
  | .fin n1 m1 e1, .fin n2 m2 e2 =>
    let q := if e1 < e2 then e1 else e2
    compare (scaled n1 m1 e1 q) (scaled n2 m2 e2 q)
  | _, _ => .eq

/-- Whether x lies below y for MIN and MAX: as compared, and -0 below +0 (R74). -/
def FVal.below (x y : FVal) : Bool :=
  match x.cmp y with
  | .lt => true
  | .gt => false
  | .eq => x.neg && !y.neg

/-- The encoding of a value of its own format, delivered; only NaNs change (R74). -/
def Fmt.same (f : Fmt) (x : FVal) : Nat :=
  match x with
  | .nan _ => f.nan
  | .inf n => f.signed n f.inf
  | .fin n m e => (f.deliver .rtz false n ⟨m, e, false⟩).1

/-- MIN, or MAX when max is set (R74): the numeric operand when exactly one is a NaN. -/
def Fmt.minMax (f : Fmt) (max : Bool) (x y : FVal) : Nat × Flags :=
  let fl := x.snan ||| y.snan
  if x.isNan && y.isNan then (f.nan, fl)
  else if x.isNan then (f.same y, fl)
  else if y.isNan then (f.same x, fl)
  else if max then (f.same (if x.below y then y else x), fl)
  else (f.same (if y.below x then y else x), fl)

/-- The value rounded to an integer in a mode, and whether that was inexact. -/
def roundInt (r : Rounding) (n : Bool) (x : Mag) : Int × Bool :=
  let (k, inexact) := roundShift r n x.m (-x.e) x.sticky
  (if n then -(k : Int) else (k : Int), inexact)

/-- FCLS class codes (R148). -/
def Fmt.classCode (f : Fmt) (x : Nat) : Nat :=
  match f.value x with
  | .nan s => if s then 9 else 8
  | .inf n => if n then 0 else 7
  | .fin n m _ =>
    if m = 0 then (if n then 3 else 4)
    else if m < 2 ^ f.mbits then (if n then 2 else 5) else (if n then 1 else 6)

end Sys2Proof.Machine
end

