-- ==== Sys2Proof/Machine/Elem.lean ====
section
/-! DEFINITION. Elements of packed registers and the element-wise operations (R68, R69, R76, R77, R83, R131-R143). -/

namespace Sys2Proof.Machine

/-- Bits of an element (Table 4-1). -/
def ElemType.width : ElemType → Nat
  | .i32 | .n32 | .f32 => 32
  | .bf16x2 | .f16x2 | .i16x2 | .n16x2 => 16
  | .i8x4 | .n8x4 | .e4m3x4 | .e5m2x4 => 8
  | .q4nx8 => 4
  | .i64 | .n64 => 64

/-- Elements of a register, or of a pair for the 64-bit types. -/
def ElemType.count : ElemType → Nat
  | .i32 | .n32 | .f32 | .i64 | .n64 => 1
  | .bf16x2 | .f16x2 | .i16x2 | .n16x2 => 2
  | .i8x4 | .n8x4 | .e4m3x4 | .e5m2x4 => 4
  | .q4nx8 => 8

/-- The format of a float type. -/
def ElemType.fmt : ElemType → Option Fmt
  | .f32 => some .f32 | .bf16x2 => some .bf16 | .f16x2 => some .f16
  | .e4m3x4 => some .e4m3 | .e5m2x4 => some .e5m2 | _ => none

/-- Whether a type takes a pair (R68). -/
def ElemType.is64 : ElemType → Bool
  | .i64 | .n64 => true
  | _ => false

/-- Signed types (R69). -/
def ElemType.signed : ElemType → Bool
  | .i32 | .i16x2 | .i8x4 | .i64 => true
  | _ => false

/-- Class Int of R130. -/
def ElemType.isInt : ElemType → Bool
  | .i32 | .n32 | .i16x2 | .n16x2 | .i8x4 | .n8x4 | .i64 | .n64 => true
  | _ => false

/-- Class Flt of R130. -/
def ElemType.isFlt : ElemType → Bool
  | .f32 | .bf16x2 | .f16x2 => true
  | _ => false

/-- Class F8 of R130. -/
def ElemType.isF8 : ElemType → Bool
  | .e4m3x4 | .e5m2x4 => true
  | _ => false

/-- What an operation reads of the arithmetic half: type, rounding, saturation. -/
structure Arith where
  t   : ElemType
  r   : Rounding
  sat : Bool
  deriving DecidableEq, Repr

/-- Element i of a value. -/
def elemAt (w x i : Nat) : Nat := (x >>> (w * i)) % 2 ^ w

/-- The elements of a value, element 0 first. -/
def elems (t : ElemType) (x : Nat) : List Nat := (List.range t.count).map (elemAt t.width x)

/-- The value with the given elements. -/
def packElems (w : Nat) : List Nat → Nat
  | [] => 0
  | x :: xs => x % 2 ^ w + (packElems w xs) <<< w

/-- An element read as an integer of its type (R69). -/
def ElemType.int (t : ElemType) (x : Nat) : Int :=
  if t.signed && decide (2 ^ (t.width - 1) ≤ x) then (x : Int) - 2 ^ t.width else x

/-- The least value of an integer type. -/
def ElemType.least (t : ElemType) : Int := if t.signed then -(2 ^ (t.width - 1) : Int) else 0

/-- The greatest value of an integer type. -/
def ElemType.greatest (t : ElemType) : Int :=
  if t.signed then (2 ^ (t.width - 1) : Int) - 1 else (2 ^ t.width : Int) - 1

/-- An integer wrapped to the element (R76). -/
def ElemType.wrap (t : ElemType) (v : Int) : Nat := (v % 2 ^ t.width).toNat

/-- An integer clamped to the type's range (R76). -/
def ElemType.clamp (t : ElemType) (v : Int) : Int :=
  if v < t.least then t.least else if t.greatest < v then t.greatest else v

/-- An exact integer result delivered (R76). -/
def Arith.deliverInt (c : Arith) (v : Int) : Nat := c.t.wrap (if c.sat then c.t.clamp v else v)

/-- An element-wise operation: elements of a, b and d to an element and its flags. -/
abbrev ElemOp := Nat → Nat → Nat → Nat × Flags

/-- An operation applied to every element (R131); the lane's flags are the OR. -/
def mapElems (t : ElemType) (f : ElemOp) (x y z : Nat) : Nat × Flags :=
  let rs := (List.range t.count).map fun i => f (elemAt t.width x i) (elemAt t.width y i) (elemAt t.width z i)
  (packElems t.width (rs.map (·.1)), rs.foldl (fun a p => a ||| p.2) 0#5)

/-! ### Arithmetic (Table 6-4) -/

/-- ADD. -/
def elAdd (c : Arith) : ElemOp := fun x y _ =>
  match c.t.fmt with
  | some f => f.add c.r c.sat (f.value x) (f.value y)
  | none => (c.deliverInt (c.t.int x + c.t.int y), 0#5)

/-- SUB. -/
def elSub (c : Arith) : ElemOp := fun x y _ =>
  match c.t.fmt with
  | some f => f.add c.r c.sat (f.value x) (f.value y).negate
  | none => (c.deliverInt (c.t.int x - c.t.int y), 0#5)

/-- MUL. -/
def elMul (c : Arith) : ElemOp := fun x y _ =>
  match c.t.fmt with
  | some f => f.mul c.r c.sat (f.value x) (f.value y)
  | none => (c.deliverInt (c.t.int x * c.t.int y), 0#5)

/-- MULH: the high half of the product; saturate is ignored. -/
def elMulh (c : Arith) : ElemOp := fun x y _ =>
  (c.t.wrap (c.t.int x * c.t.int y / 2 ^ c.t.width), 0#5)

/-- MAD (R133). -/
def elMad (c : Arith) : ElemOp := fun x y z =>
  match c.t.fmt with
  | some f => f.fma c.r c.sat (f.value x) (f.value y) (f.value z)
  | none => (c.deliverInt (c.t.int z + c.t.int x * c.t.int y), 0#5)

/-- MSB (R133): the first factor negated. -/
def elMsb (c : Arith) : ElemOp := fun x y z =>
  match c.t.fmt with
  | some f => f.fma c.r c.sat (f.value x).negate (f.value y) (f.value z)
  | none => (c.deliverInt (c.t.int z - c.t.int x * c.t.int y), 0#5)

/-- DIV (R134): by zero all ones and DZ. -/
def elDiv (c : Arith) : ElemOp := fun x y _ =>
  match c.t.fmt with
  | some f => f.div c.r c.sat (f.value x) (f.value y)
  | none =>
    if y = 0 then (2 ^ c.t.width - 1, fDZ) else (c.deliverInt (Int.tdiv (c.t.int x) (c.t.int y)), 0#5)

/-- REM (R134): by zero x and DZ. -/
def elRem (c : Arith) : ElemOp := fun x y _ =>
  if y = 0 then (x, fDZ) else (c.t.wrap (Int.tmod (c.t.int x) (c.t.int y)), 0#5)

/-- MIN, or MAX (R74). -/
def elMinMax (max : Bool) (c : Arith) : ElemOp := fun x y _ =>
  match c.t.fmt with
  | some f => f.minMax max (f.value x) (f.value y)
  | none => ((if (if max then decide (c.t.int x < c.t.int y) else decide (c.t.int y < c.t.int x)) then y else x), 0#5)

/-- ABS. -/
def elAbs (c : Arith) : ElemOp := fun x _ _ =>
  match c.t.fmt with
  | some f => if (f.value x).isNan then (f.nan, (f.value x).snan) else (x % f.signBit, 0#5)
  | none => (c.deliverInt (c.t.int x).natAbs, 0#5)

/-- NEG. -/
def elNeg (c : Arith) : ElemOp := fun x _ _ =>
  match c.t.fmt with
  | some f => if (f.value x).isNan then (f.nan, (f.value x).snan) else ((x + f.signBit) % (2 * f.signBit), 0#5)
  | none => (c.deliverInt (0 - c.t.int x), 0#5)

/-! ### Bitwise and shift (Table 6-5) -/

/-- AND. -/
def elAnd (_ : Arith) : ElemOp := fun x y _ => (x &&& y, 0#5)
/-- OR. -/
def elOr (_ : Arith) : ElemOp := fun x y _ => (x ||| y, 0#5)
/-- XOR. -/
def elXor (_ : Arith) : ElemOp := fun x y _ => (x ^^^ y, 0#5)
/-- NOT. -/
def elNot (c : Arith) : ElemOp := fun x _ _ => (2 ^ c.t.width - 1 - x, 0#5)
/-- SHL by b modulo the element width. -/
def elShl (c : Arith) : ElemOp := fun x y _ => ((x <<< (y % c.t.width)) % 2 ^ c.t.width, 0#5)
/-- SHR. -/
def elShr (c : Arith) : ElemOp := fun x y _ => (x >>> (y % c.t.width), 0#5)
/-- SAR: copies of the top bit under i and n types alike. -/
def elSar (c : Arith) : ElemOp := fun x y _ =>
  let w := c.t.width
  let v : Int := if 2 ^ (w - 1) ≤ x then (x : Int) - 2 ^ w else x
  (((v / 2 ^ (y % w)) % 2 ^ w).toNat, 0#5)
/-- ROL. -/
def elRol (c : Arith) : ElemOp := fun x y _ =>
  let w := c.t.width
  let s := y % w
  ((x <<< s) % 2 ^ w + x >>> (w - s), 0#5)
/-- CLZ. -/
def elClz (c : Arith) : ElemOp := fun x _ _ => (if x = 0 then c.t.width else c.t.width - 1 - Nat.log2 x, 0#5)
/-- POP. -/
def elPop (c : Arith) : ElemOp := fun x _ _ => (((List.range c.t.width).filter x.testBit).length, 0#5)
/-- BREV. -/
def elBrev (c : Arith) : ElemOp := fun x _ _ =>
  ((List.range c.t.width).foldl (fun a i => 2 * a + (if x.testBit i then 1 else 0)) 0, 0#5)

/-! ### Bit fields (R136) -/

/-- BFE. -/
def elBfe (c : Arith) : ElemOp := fun x y _ =>
  let o := y % 32
  let m := min (y / 256 % 32) (32 - o)
  if m = 0 then (0, 0#5)
  else
    let f := (x >>> o) % 2 ^ m
    ((if c.t.signed && f.testBit (m - 1) then f + (2 ^ 32 - 2 ^ m) else f), 0#5)

/-- BFI: d's other bits are kept. -/
def elBfi (_ : Arith) : ElemOp := fun x y z =>
  let o := y % 32
  let m := min (y / 256 % 32) (32 - o)
  (z % 2 ^ o + (x % 2 ^ m) <<< o + (z >>> (o + m)) <<< (o + m), 0#5)

/-! ### Comparisons (Table 6-7) -/

/-- The relations of CEQ, CNE, CLT, CLE, CUN. -/
inductive Rel where
  | eq | ne | lt | le | un
  deriving DecidableEq, Repr

/-- Whether a relation holds, and IV (R141). -/
def compareElem (rel : Rel) (t : ElemType) (x y : Nat) : Bool × Flags :=
  match t.fmt with
  | some f =>
    let a := f.value x
    let b := f.value y
    let un := a.isNan || b.isNan
    let fl := a.snan ||| b.snan ||| (if un && (rel == .lt || rel == .le) then fIV else 0#5)
    let c := a.cmp b
    ((match rel with
      | .eq => !un && c == .eq
      | .ne => un || c != .eq
      | .lt => !un && c == .lt
      | .le => !un && c != .gt
      | .un => un), fl)
  | none =>
    ((match rel with
      | .eq => x == y
      | .ne => x != y
      | .lt => decide (t.int x < t.int y)
      | .le => decide (t.int x ≤ t.int y)
      | .un => false), 0#5)

/-! ### Conversion (R138-R140) -/

/-- Levels of Q4N in units of 1/128 (Table 4-4). -/
def q4Levels : List Int := [-128, -89, -67, -51, -38, -27, -13, 0, 10, 21, 32, 44, 58, 75, 97, 128]

/-- The level of a code. -/
def q4Level (code : Nat) : Int := q4Levels.getD code 0

/-- The value of an element of a type, integers included (Table 6-6, first column). -/
def ElemType.value (t : ElemType) (x : Nat) : FVal :=
  match t.fmt with
  | some f => f.value x
  | none =>
    if t = .q4nx8 then .fin (decide (q4Level x < 0)) (q4Level x).natAbs (-7)
    else .fin (decide (t.int x < 0)) (t.int x).natAbs 0

/-- Whether a level, in 128ths, lies below (lt) or above a finite value. -/
def levelCmp (l : Int) (n : Bool) (m : Nat) (e : Int) : Ordering :=
  FVal.cmp (.fin (decide (l < 0)) l.natAbs (-7)) (.fin n m e)

/-- The greatest code whose level is not above a value in range. -/
def codeDown (n : Bool) (m : Nat) (e : Int) : Nat :=
  (List.range 16).foldl (fun a i => if levelCmp (q4Level i) n m e == .gt then a else i) 0

/-- A conversion to a Q4N code (R140). -/
def toQ4 (r : Rounding) : FVal → Nat × Flags
  | .nan _ => (7, fIV)
  | .inf n => (if n then 0 else 15, fIX)
  | .fin n m e =>
    if levelCmp 128 n m e == .lt then (15, fIX)
    else if levelCmp (-128) n m e == .gt then (0, fIX)
    else
      let d := codeDown n m e
      if levelCmp (q4Level d) n m e == .eq then (d, 0#5)
      else
        let u := d + 1
        -- the midpoint of the two levels, in 256ths
        let mid := q4Level d + q4Level u
        let c := match r with
          | .rdn => d
          | .rup => u
          | .rtz => if n then u else d
          | .rne =>
            match FVal.cmp (.fin n m e) (.fin (decide (mid < 0)) mid.natAbs (-8)) with
            | .lt => d
            | .gt => u
            | .eq => if d % 2 = 0 then d else u
        (c, fIX)

/-- A conversion from a float value to an integer type: always clamped (R76). -/
def toInt (r : Rounding) (t : ElemType) : FVal → Nat × Flags
  | .nan _ => (0, fIV)
  | .inf n => (t.wrap (if n then t.least else t.greatest), fIV)
  | .fin n m e =>
    -- a magnitude of 2^70 or more is out of every range
    if m ≠ 0 ∧ (Nat.log2 m : Int) + e ≥ 70 then (t.wrap (if n then t.least else t.greatest), fIV)
    else
      let (v, inexact) := roundInt r n ⟨m, e, false⟩
      if t.clamp v = v then (t.wrap v, if inexact then fIX else 0#5) else (t.wrap (t.clamp v), fIV)

/-- One element converted from type s to type t (Table 6-6). -/
def convertElem (c : Arith) (t : ElemType) (x : Nat) : Nat × Flags :=
  let s := c.t
  if s = t then
    match s.fmt with
    | some f => if (f.value x).isNan then (f.nan, (f.value x).snan) else (x, 0#5)
    | none => (x, 0#5)
  else if t = .q4nx8 then toQ4 c.r (s.value x)
  else match t.fmt with
    | some g => g.deliverVal c.r c.sat (s.value x)
    | none =>
      if s.isInt then
        (t.wrap (if c.sat then t.clamp (s.int x) else s.int x), 0#5)
      else toInt c.r t (s.value x)

/-! ### Atomics (R179, R207) -/

/-- One read-modify-write of a word: the old word, vD and vD+1. The saturate bit is not read and no flag is raised. -/
def atomicWord (op : AOp) (t : ElemType) (r : Rounding) (old d d1 : Word) : Word :=
  let c : Arith := ⟨t, r, false⟩
  let el (f : ElemOp) : Word := BitVec.ofNat 32 (mapElems t f old.toNat d.toNat 0).1
  match op with
  | .add => el (elAdd c)
  | .min => el (elMinMax false c)
  | .max => el (elMinMax true c)
  | .and => old &&& d
  | .or => old ||| d
  | .xor => old ^^^ d
  | .exch => d
  | .cas => if old = d then d1 else old

end Sys2Proof.Machine
end

