-- ==== Sys2Proof/Machine/Assoc.lean ====
section
/-! DEFINITION. Sparse data by number: lists of (number, value) pairs in ascending order. Where the form is canonical,
no listed value equals what an unlisted number reads as, so that equal contents are equal lists. -/

namespace Sys2Proof.Machine

/-- The value at n; d where n is not listed. -/
def Assoc.get {α : Type} (d : α) : List (Nat × α) → Nat → α
  | [], _ => d
  | (k, v) :: t, n => if k = n then v else Assoc.get d t n

/-- The value at n, if listed. -/
def Assoc.find {α : Type} : List (Nat × α) → Nat → Option α
  | [], _ => none
  | (k, v) :: t, n => if k = n then some v else Assoc.find t n

/-- The list with v at n, in its place in the order. -/
def Assoc.set {α : Type} : List (Nat × α) → Nat → α → List (Nat × α)
  | [], n, v => [(n, v)]
  | (k, u) :: t, n, v =>
    if n < k then (n, v) :: (k, u) :: t else if n = k then (n, v) :: t else (k, u) :: Assoc.set t n v

/-- The list without n. -/
def Assoc.erase {α : Type} (m : List (Nat × α)) (n : Nat) : List (Nat × α) := m.filter fun p => p.1 != n

/-- The list with v at n, canonical: the value of an unlisted number is not listed. -/
def Assoc.put {α : Type} [DecidableEq α] (d : α) (m : List (Nat × α)) (n : Nat) (v : α) : List (Nat × α) :=
  if v = d then Assoc.erase m n else Assoc.set m n v

/-- The entries of consecutive values from a on, without those equal to d. -/
def Assoc.run {α : Type} [DecidableEq α] (d : α) : Nat → List α → List (Nat × α)
  | _, [] => []
  | a, v :: vs => if v = d then Assoc.run d (a + 1) vs else (a, v) :: Assoc.run d (a + 1) vs

/-- The list with consecutive values from a on, canonical. -/
def Assoc.splice {α : Type} [DecidableEq α] (d : α) (m : List (Nat × α)) (a : Nat) (vs : List α) : List (Nat × α) :=
  m.filter (fun p => decide (p.1 < a)) ++ Assoc.run d a vs ++
    m.filter (fun p => decide (a + vs.length ≤ p.1))

/-- n consecutive values from a on. -/
def Assoc.read {α : Type} (d : α) (m : List (Nat × α)) (a n : Nat) : List α :=
  (List.range n).map fun i => Assoc.get d m (a + i)

/-- Numbers strictly rise. -/
def Assoc.sorted {α : Type} : List (Nat × α) → Bool
  | [] => true
  | [_] => true
  | (k, _) :: (l, v) :: t => decide (k < l) && Assoc.sorted ((l, v) :: t)

/-- The canonical form. -/
def Assoc.canonical {α : Type} [DecidableEq α] (d : α) (m : List (Nat × α)) : Bool :=
  Assoc.sorted m && m.all fun p => decide (p.2 ≠ d)

end Sys2Proof.Machine
end

