-- ==== Sys2Proof/Machine/State.lean ====
section
/-! DEFINITION. The state of one package as plain data: everything the manual gives the machine, and the model's own
fields `cur`, `agenda`, `fresh`, `round` (said at each). Sparse parts are association lists in ascending order. -/

namespace Sys2Proof.Machine

/-! ### Registers of a strand -/

/-- A vector register of a strand with its shape tag (R119, Table 6-1); an unlisted register is empty. A general
register holds the word of each lane below W. -/
inductive VReg where
  | uniform (u : Word)
  | affine (base stride : Word)
  | general (lanes : List Word)
  deriving DecidableEq, Repr

/-- An entry of the loop stack (R91, R109). -/
structure LoopEntry where
  endAt     : DWord
  body      : DWord
  remaining : DWord
  deriving DecidableEq, Repr

/-- The group-wide state of a strand slot (Table 5-1), which the save engine writes and IDEM records. -/
structure Group where
  g         : List (Nat × DWord)     -- g0-g63; unlisted 0
  q         : BitVec 16              -- q0-q15
  k         : List (Nat × DWord)     -- k0-k15; unlisted 0
  mode      : Word                   -- Table 3-5
  rstack    : List DWord             -- oldest first, at most 32
  lstack    : List LoopEntry         -- outermost first, at most 4
  astat     : BitVec 5               -- Table 4-3
  aten      : BitVec 5
  policy    : Nat                    -- GOPOL, 0-2 (R276)
  window    : BitVec 16              -- re-assembly window, units of 10 ns (R278)
  phase     : Nat                    -- bandwidth phase, 0-3 (R287)
  gang      : DWord                  -- Table 10-2
  batch     : BitVec 32              -- open batch (R212)
  depSerial : BitVec 16              -- departure serial (R267)
  deriving DecidableEq, Repr

/-- The clause being issued: its header, its words, and the next word's index (R43). -/
structure Clause where
  addr   : DWord
  header : Word
  words  : List Word
  idx    : Nat
  deriving DecidableEq, Repr

/-- A continuation (R266, Table 11-1), with the core it is bound for. -/
structure Flacon where
  resume     : DWord
  resumeIdx  : Nat
  rstack     : List DWord
  lstack     : List LoopEntry
  member     : Bool
  policy     : Nat
  width      : Nat
  mode       : Word
  astat      : BitVec 5
  aten       : BitVec 5
  window     : BitVec 16
  nregs      : Nat
  domain     : BitVec 16
  lane       : Nat
  prio       : Nat
  companions : Nat
  slot       : Nat
  gen        : BitVec 8
  serial     : BitVec 16
  core       : Nat
  package    : Nat
  live       : DWord
  workId     : DWord
  lineage    : DWord
  launch     : Nat
  block      : DWord
  empty      : Word
  preds      : Word
  vals       : List (Nat × Word)
  gs         : List (Nat × DWord)
  destPkg    : Nat
  dest       : Nat
  deriving DecidableEq, Repr

/-- A departing lane: its destination package and core, and the live mask. -/
structure Dep where
  lane : Nat
  pkg  : Nat
  core : Nat
  deriving DecidableEq, Repr

/-- A departure under way (R268): its lanes, the live mask, the resume point, and the futures, by slot and serial, whose handles
stood in a selected register when it began. -/
structure Departure where
  deps   : List Dep
  live   : DWord
  taken  : List (Nat × Nat)
  resume : DWord
  idx    : Nat
  stay   : Bool                      -- the destination is a core of the block: members stay members (R275)
  deriving DecidableEq, Repr

/-- A joint matrix instruction in the rendezvous latch (R247): its word, the operand values and the mode it read. -/
structure Joint where
  word : Word
  vals : List DWord
  vecs : List Word
  mode : Word
  deriving DecidableEq, Repr

/-- What a strand that issues nothing waits for. -/
inductive Wait where
  | none
  | bar (n : Nat) (phase : BitVec 32) (lanes : LaneMask)             -- BAR (R333)
  | barw (n : Nat) (phase : BitVec 32) (lanes : LaneMask)            -- BARW (R333)
  | future (slot g : Nat)                                            -- FWAIT (R344)
  | bgive (h : Word) (target : Nat) (full : Bool)                    -- BGIVE (R201); whether a full queue has been counted
  | bfree (h : Word)                                                 -- BFREE (R204)
  | publ (h : Word) (act : Nat)                                      -- PUBL swap 0, retire 2 (R233)
  | tinv (dom : BitVec 16) (addr : DWord) (sc : Nat) (second : Bool) -- TINV (R317)
  | tinvFar (dom : BitVec 16) (addr : DWord) (second : Bool)         -- TINV of the Dolmond domain: requests of other packages
      (requests : List Nat)                                          -- that are not answered (R317)
  | depart (d : Departure)                                           -- GO, GOM, GOTO (R268)
  | implicit                                                         -- clause to be examined under GOPOL (R276)
  | latch (j : Joint)                                                -- gang latch (R247)
  | saving (kind : Nat) (live : BitVec 256) (granules : DWord)       -- save under way (R323), and the barrier, phase and
      (bar : Option (Nat × BitVec 32 × LaneMask))                    -- lanes of a wait that goes on (R322)
  | counter (request g : Nat)                                        -- PERF of another package's table (R319)
  | counted (v : DWord) (g : Nat)                                    -- its answer came in a handler; g[D] gets it at the return
  | trapping                                                         -- a break was delivered; the trap is entered next
  deriving DecidableEq, Repr

/-- A fault met by one lane of an operation: cause and detail (Table 13-2). -/
structure LaneFault where
  lane   : Nat
  cause  : Cause
  detail : Nat
  deriving DecidableEq, Repr

/-- An issued operation that is not complete (R310), with what Table 13-4 captures: the instruction, the mode, the
lanes still to be performed, each lane's operand words, the g values of fields d, a, b. -/
structure Op where
  slot    : Nat
  gen     : BitVec 8
  launch  : Nat
  serial  : Nat                      -- place in the strand's issue order
  instr   : Instr
  mode    : Word
  lanes   : LaneMask                 -- lanes of the operation
  todo    : LaneMask                 -- lanes not yet performed
  vals    : List (Nat × List Word)   -- lane: captured words
  gvals   : List DWord
  flag    : Nat                      -- 0-11, or 15
  uniform : Bool                     -- its sources are uniform: a write of every live lane is uniform (R120, R121)
  flags   : BitVec 5                 -- of DIV, joined to ASTAT when it completes (R79)
  clause  : DWord
  idx     : Nat
  domain  : BitVec 16
  keyid   : BitVec 10
  priv    : Priv
  results : List (Nat × List Word)   -- lane: result words
  gresult : Option DWord
  faults  : List LaneFault
  remote  : List Nat                 -- outstanding requests over the links
  deriving DecidableEq, Repr

/-- A fence (R225), or a POST not performed (R347), that stood among the operations which a frame holds: how many replay
entries lie before it, and the operation. -/
structure HeldNote where
  before : Nat
  op     : Op
  deriving DecidableEq, Repr

/-- An open trap frame as the core knows it: the mask of each replay entry as written at entry (R315), the fences and the
POSTs held among those entries (R225, R347), whether it lies in the H area, and the wait it interrupted (log 15). -/
structure FrameNote where
  masks : List LaneMask
  held  : List HeldNote
  cause : Nat                        -- cause of the lowest trapping lane, for the notice of R307
  hyp   : Bool
  wait  : Wait
  deriving DecidableEq, Repr

/-- A pending pre-emption request (R320): the save area, the domain it is translated in (none: physical), the future
slot of a CTXSV with its core, and the time spent at depth 0 outside a latch (R322). -/
structure Preempt where
  area    : Nat
  domain  : Option (BitVec 16)
  future  : Option (Nat × Nat)
  waited  : Nat
  deriving DecidableEq, Repr

/-- A block of another package of which a departure asks the home (R271): its package and number, the request, and once answered
its home stack, whether a core of the domain is near that and whether its bank set is in deep power-down, or none (R270). -/
structure HomeAsk where
  pkg     : Nat
  block   : Nat
  request : Nat
  answer  : Option (Option (Nat × Bool × Bool))
  deriving DecidableEq, Repr

/-- Continuation slots that a departure asks for near a stack of another package (R264): how many, the request, and once
answered the core, or none. -/
structure SlotAsk where
  pkg     : Nat
  stack   : Nat
  threads : Nat
  request : Nat
  answer  : Option (Option Nat)
  deriving DecidableEq, Repr

/-- What a departure has asked of other packages while its word waits to be decided (R271, R374), and the slots of the origin
core that it keeps meanwhile. -/
structure Inquiry where
  homes : List HomeAsk
  slots : List SlotAsk
  held  : Nat
  deriving DecidableEq, Repr

/-- An open idempotent region (R326). -/
structure Region where
  live     : BitVec 256
  granules : DWord
  clause   : DWord
  idx      : Nat
  group    : Group
  deriving DecidableEq, Repr

/-- A strand in its slot (R91, Table 5-1). -/
structure Strand where
  launch    : Nat
  block     : DWord                  -- block index (R94)
  sindex    : Nat                    -- strand index in block, field 1
  baseId    : DWord                  -- work identifier of lane 0
  lineage   : DWord
  member    : Bool                   -- of its block (R275)
  width     : Nat                    -- W
  nregs     : Nat                    -- N
  prio      : Nat
  codeBase  : DWord                  -- CODEBASE (R107)
  age       : Nat                    -- dispatch order (R101)
  passed    : Nat                    -- core cycles ready and passed over (R103)
  urgent    : Bool                   -- to be selected ahead of older strands (R103)
  pc        : DWord                  -- next clause header
  pcIdx     : Nat                    -- word index at which that clause starts (R49)
  clause    : Option Clause          -- clause being issued
  group     : Group
  gpend     : DWord                  -- pending bits of g registers (R125)
  v         : List (Nat × VReg)      -- unlisted: empty
  vpend     : BitVec 256             -- pending bits of v registers
  p         : List (Nat × LaneMask)  -- predicate i of every lane; unlisted 0
  flags     : BitVec 12              -- f0-f11
  exited    : LaneMask
  departed  : LaneMask
  kept      : List (Nat × List Word) -- word by lane that a register held when its lane exited or departed (R144)
  names     : List (Nat × BitVec 8)  -- slots and generations that it had before saves: its queued work names them (R88)
  issued    : Nat                    -- instructions issued (R311)
  stalled   : Nat                    -- which wait of the next word has been counted (R167, R206, R348); 0: none
  mode      : Priv
  prevMode  : Priv
  depth     : Nat                    -- frames open (R307)
  frames    : List FrameNote         -- innermost first
  trapCause : List (Nat × Word)      -- lane l; unlisted 0
  trapMask  : LaneMask
  domain    : BitVec 16
  keyid     : BitVec 10
  preempt   : Option Preempt
  region    : Option Region
  inquiry   : Option Inquiry         -- what a departure has asked of other packages (R355)
  wait      : Wait
  deriving DecidableEq, Repr

/-! ### Storage and engines of a core -/

/-- A declared published buffer (R232): whether its visible half is the first. -/
structure Publication where
  firstVisible : Bool
  deriving DecidableEq, Repr

/-- A scratch buffer (R194, R195), kept at its home core. holder none: in transit. parked: its granules were released
when the last resident strand of the block on the core was saved (R323). -/
structure Buffer where
  first   : Nat
  count   : Nat
  serial  : Nat
  launch  : Nat
  block   : DWord
  holder  : Option Nat               -- core number
  portion : Bool
  publ    : Option Publication
  parked  : Bool
  deriving DecidableEq, Repr

/-- An entry of a hand-over queue (R201). -/
structure HandOver where
  handle : Word
  launch : Nat
  block  : DWord
  deriving DecidableEq, Repr

/-- The kinds of copy (Table 8-3). -/
inductive CopyKind where
  | toScratch | within | toMemory
  deriving DecidableEq, Repr

/-- A copy in the copy queue (R208): what it moves, for which strand and batch, and whose accesses they are. -/
structure CopyOp where
  kind   : CopyKind
  len    : Nat
  src    : DWord
  dst    : DWord
  slot   : Nat
  gen    : BitVec 8
  launch : Nat
  block  : DWord
  batch  : BitVec 32
  lanes  : LaneMask
  serial : Nat
  instr  : Instr
  clause : DWord
  idx    : Nat
  domain : BitVec 16
  keyid  : BitVec 10
  priv   : Priv
  deriving DecidableEq, Repr

/-- One accumulator (R85): the value in units of 2^-320 and the status of Table 4-7. -/
structure Accum where
  value  : Int
  status : BitVec 5
  deriving DecidableEq, Repr

/-- A weight plane (R237): weight type, K, and K rows of 64 element codes. -/
structure Plane where
  wtype : Option ElemType
  k     : Nat
  rows  : List (List Nat)
  deriving DecidableEq, Repr

/-- A queued matrix operation with the operands read at issue (R240, R230). -/
inductive MatKind where
  | mlds (t : ElemType) (rows : List (List Nat))
  | mact
  | mband (lower upper : Int) (c : Word)
  | mmul (t : ElemType) (base m : Nat) (zero band : Bool) (act : List (List Nat))
  | mmsp (t : ElemType) (base m start : Nat) (zero : Bool) (steps : List Nat)
      (bits : List Word)                        -- bitmap of each column
      (a : List (List (Option Nat)))            -- rows of A; none: absent
      (b : List (List Nat))                     -- for each column, its K elements
  | scacc (pbase dbase m : Nat) (zero : Bool) (codes : List Nat) (supers : List Word)
  | mrd (t : ElemType) (base m : Nat) (clear : Bool) (mode : Word) (dest : Word)
  | mclr (base m : Nat) (rows planes : Bool)
  deriving DecidableEq, Repr

/-- An entry of the matrix queue: its future, the strands whose ASTAT receives its flags, its block, the status a failed
operand gives it, the units done, the flags gathered and the words to be written at completion. -/
structure MatOp where
  kind    : MatKind
  future  : Option Nat
  strands : List (Nat × BitVec 8)
  launch  : Nat
  block   : DWord
  status  : Nat
  units   : Nat
  flags   : BitVec 5
  out     : List Byte                 -- MRD: the rows performed, written at completion
  deriving DecidableEq, Repr

/-- The matrix state of a core (R237, R238). -/
structure Matrix where
  shadow   : Plane
  active   : Plane
  lower    : Int
  upper    : Int
  forced   : Word
  accum    : List (Nat × Accum)       -- unlisted: value 0, status 0
  planes   : Option (Nat × DWord)     -- holder of the plane set: launch, block
  rows     : List (Nat × (Nat × DWord)) -- holder of each held accumulator row
  queue    : List MatOp
  deriving DecidableEq, Repr

/-- Physical memory (R280): bytes, the XOR of each sector's stored check code against that of its bytes (R296), the
poisoned sectors (R297), and the key identifier and key set under which each tier-1 unit of 256 bytes is sealed (R291). -/
structure Mem where
  cells   : List Host.Cell             -- canonical; an unlisted address reads Config.unwritten
  codeErr : List (Nat × BitVec 16)     -- by sector number; unlisted 0
  poison  : List Nat                   -- sector numbers, ascending
  sealed  : List (Nat × Nat)           -- by unit number: key identifier + 1; unlisted: never written
  deriving DecidableEq, Repr

/-- What a gather found for a key: absent, words, or the cause of a failure. -/
inductive Found where
  | absent
  | row (ws : List Word)
  | failed (status : Nat)
  deriving DecidableEq, Repr

/-- What a future's operation is. -/
inductive FutureKind where
  | launch (n : Nat)
  | gath (writes : List (Word × List Byte)) (status : Nat)  -- scratch addresses and bytes to write at completion
  | gathFar (record : List Byte) (dest : Word) (found : List (Nat × Found)) (asked : List (Nat × Nat))
      -- rows of blocks of other packages are awaited: what each key found, and each request with its key
  | gathRemote (record : List Byte) (dest : Word) (request : Nat) (issued : Mem)
      -- issued: memory of this package at issue, for rows of its blocks that the answer names (R230)
  | promo (ref : DWord)
  | matrix
  | ctxsv (slot : Nat) (gen : BitVec 8)
  | ctxld (area : Nat)
  deriving DecidableEq, Repr

/-- An occupied future slot (R339, R340, R245). -/
structure Future where
  serial  : Nat
  kind    : FutureKind
  done    : Bool
  status  : DWord
  binding : List (DWord × Nat)        -- lineage, g register; one for each strand of a gang
  units   : Nat
  cancel  : Bool
  slot    : Nat
  gen     : BitVec 8
  launch  : Nat
  block   : DWord
  domain  : BitVec 16
  priv    : Priv
  keyid   : BitVec 10
  ranges  : List (Bool × (Word × Nat)) -- scratch ranges that the operation names: whether written, address, length (R201)
  entries : Nat                        -- table request entries taken (R167)
  deriving DecidableEq, Repr

/-- An open cursor (R183). position none: at the start of the range or at floor. -/
structure Cursor where
  slot     : Nat
  gen      : BitVec 8
  handle   : DWord
  lo       : Nat
  hi       : Nat
  serial   : Nat
  position : Option (Nat × Nat)       -- last entry returned: key, reference
  floor    : Nat                      -- first key after opening or seeking
  ended    : Bool
  deriving DecidableEq, Repr

/-- A leaf translation in a TLB (R302): stage 2 entries map intermediate addresses. -/
structure TlbEntry where
  domain  : Nat
  stage2  : Bool
  va      : Nat                       -- first address of the page
  size    : Nat
  pa      : Nat
  user    : Bool
  exec    : Bool
  write   : Bool
  ulevel  : Nat                       -- level of the stage-1 leaf
  used    : Bool                      -- lately: the replacement takes one that is not (R302)
  deriving DecidableEq, Repr

/-- Flacons arrived at a core that match (R273): opened at a time, ready when all companions came or the window
closed, which is the time that orders them (R274). -/
structure Assembly where
  flacons : List Flacon
  opened  : Nat
  ready   : Bool
  expired : Bool                      -- made ready by its window
  closed  : Nat                       -- when the window closed
  deriving DecidableEq, Repr

/-- A restore request at a core (R325, R371): area, the domain it is read through (none: physical), future slot, and what
the engine has read of the area: its bytes, or the status of the reading that failed (R230). -/
structure Restore where
  area   : Nat
  domain : Option (BitVec 16)
  future : Option Nat
  bytes  : List Byte
  status : Nat
  deriving DecidableEq, Repr

/-- Events Kuenrex finds in the event queue of a core (R320, R324, R371). -/
inductive KEvent where
  | requestRefused (slot : Nat)
  | saved (slot : Nat) (status : DWord)
  | restored (status : Nat) (identifier : Word)
  deriving DecidableEq, Repr

/-- What stays known of a saved strand beside its area (R323, R337, log 31): whose it is, its place in its block, its
wait at a barrier and whether that broke meanwhile, the handles of the buffers that its save released. -/
structure SavedNote where
  launch   : Nat
  block    : DWord
  lineage  : DWord
  slot     : Nat
  gen      : BitVec 8
  sindex   : Nat
  baseId   : DWord
  member   : Bool
  prio     : Nat
  codeBase : DWord
  domain   : BitVec 16
  keyid    : BitVec 10
  exited   : LaneMask
  departed : LaneMask
  bar      : Option (Nat × BitVec 32 × LaneMask)
  broken   : Bool
  parked   : List Word
  kept     : List (Nat × List Word)
  names    : List (Nat × BitVec 8)
  astat    : BitVec 5                -- flags of queued work since the save (R88)
  deriving DecidableEq, Repr

/-- One compute core. -/
structure CoreSt where
  slots     : List (Nat × Strand)     -- resident strands by slot 0-63
  gens      : List (Nat × BitVec 8)   -- generation of each slot; unlisted 0
  ops       : List Op                 -- in issue order
  scratch   : List (Nat × Byte)       -- unlisted 0
  scratchErr : List (Nat × BitVec 16) -- deviation of the check code of each 32-byte sector; unlisted 0 (R296)
  scratchPoison : List Nat            -- poisoned sectors, ascending (R297)
  buffers   : List Buffer
  allocSer  : Nat
  clearing  : List Nat                -- granules freed and not yet cleared
  handOver  : List HandOver           -- oldest first, at most 64
  copies    : List CopyOp             -- at most 256
  matrix    : Matrix
  futures   : List (Nat × Future)
  futureSer : Nat
  cursors   : List (Nat × Cursor)
  cursorSer : Nat
  origins   : List Flacon             -- origin copies awaiting acknowledgement
  stale     : List Flacon             -- what released continuation slots still hold, newest first (R263)
  reserved  : Nat                     -- continuation slots reserved for flacons under way to this core
  reservedFar : Nat                   -- the same, asked for by other packages
  arrived   : List Assembly           -- those ready first, in the order of their windows' closing
  restores  : List Restore
  tlb       : List TlbEntry           -- newest first, at most 512
  rowCache  : List (Nat × (Nat × Word)) -- entries filled under class inv, at most 64 KiB: launch, (physical address, word)
  trapBase  : DWord
  trapFrame : DWord
  hTrapBase : DWord
  counters  : List (Nat × DWord)      -- by PERF selector, and from 0x10000 those of R348; unlisted 0
  events    : List KEvent
  saved     : List SavedNote          -- strands swapped out of the core and not restored
  deriving DecidableEq, Repr

/-! ### Tables -/

/-- An entry of an index (R164). -/
structure Entry where
  key : Nat
  ref : Nat
  deriving DecidableEq, Repr

/-- An ordered index as a B+ tree (R165): the leaves from left to right, then level by level the separators of each
interior node, from the level above the leaves up to the root. -/
structure Tree where
  leaves : List (List Entry)
  levels : List (List (List Entry))
  deriving DecidableEq, Repr

/-- Whether a row storage is free, holds a live row, or keeps a deleted one while the launches listed run (R172). -/
inductive RowState where
  | free
  | live
  | deleted (running : List Nat)
  deriving DecidableEq, Repr

/-- A row storage of an indexed table (R163). -/
structure Row where
  state   : RowState
  key     : Nat
  version : BitVec 32
  deriving DecidableEq, Repr

/-- A table (R156-R166). -/
structure Table where
  gen      : Nat
  domain   : Nat
  desc     : TableDesc
  base     : Nat                       -- virtual base of the row store
  pages    : List Nat                  -- its physical 64 KiB pages
  rows     : List (Nat × Row)          -- unlisted: free, never used
  hash     : List Entry                -- primary hash index
  prim     : Tree                      -- primary ordered index
  sec2     : Tree
  sec3     : Tree
  counters : List (Nat × DWord)        -- by the index of PERF group 0x7 (R192)
  deriving DecidableEq, Repr

/-- A destroyed table's row store (R160): returned once the launches listed have completed, its range free for reuse
once those running at the return have completed. -/
structure OldStore where
  table    : Table
  num      : Nat
  running  : List Nat
  returned : Bool
  deriving DecidableEq, Repr

/-! ### Launches -/

/-- A launch record (Table 5-2). -/
structure LRec where
  code     : DWord
  param    : DWord
  result   : DWord
  widths   : List Nat
  limits   : List Nat
  scratch  : Nat
  regs     : Nat
  wcode    : Nat
  barriers : Nat
  prio     : Nat
  spread   : Nat
  domain   : BitVec 16
  shift    : Nat
  nsucc    : Nat
  succ     : DWord
  reserved : Nat                       -- OR of the reserved bytes
  deriving DecidableEq, Repr

/-- A barrier of a block (R329). -/
structure Barrier where
  expected : Nat
  arrived  : Nat
  phase    : BitVec 32
  broken   : Bool
  deriving DecidableEq, Repr

/-- A placed block (R99): its cores, its member threads still alive, its barriers. -/
structure Block where
  launch   : Nat
  index    : DWord
  first    : Nat                       -- lowest core number
  ncores   : Nat
  alive    : Nat                       -- member threads neither exited nor killed
  slots    : Nat                       -- barrier slots reserved on each core
  barriers : List Barrier
  deriving DecidableEq, Repr

/-- An accepted launch (R97, R98). -/
structure Launch where
  number    : Nat
  record    : LRec
  va        : Nat
  order     : Nat                      -- place in its queue
  next      : Option (List Nat)        -- coordinates c2-c5 of the next block; none: all placed
  started   : Bool                     -- the result word has been cleared
  threads   : Nat                      -- threads dispatched and neither exited nor killed
  cancelled : Bool
  complete  : Bool
  future    : Option (Nat × Nat)       -- core, slot
  images    : List ScratchImage
  stalls    : Nat                      -- R289
  stallPs   : Nat
  imagesMissed : Nat                   -- R199: images for cores that a block does not occupy
  imagesCut : Nat                      -- R199: images that ran past the end of a portion
  deriving DecidableEq, Repr

/-! ### Memory, banks and the paged store -/

/-- Power states of a bank set (Table 12-2, Table 12-3). -/
inductive PowerState where
  | active | retention | deep | waking
  deriving DecidableEq, Repr

/-- An access held while its bank set wakes (R284): the launch, the lane of an operation by core, slot and serial, and
since when. -/
structure Waiter where
  launch : Nat
  core   : Nat
  slot   : Nat
  serial : Nat
  lane   : Nat
  since  : Nat
  deriving DecidableEq, Repr

/-- A bank set and its map entry (R281-R286). entering: the state shown is still being entered. rewake: a full wake
follows the entry (R284). fromDeep: the wake under way started in deep power-down. -/
structure Bank where
  allocated   : Bool
  deepAllowed : Bool
  state       : PowerState
  entering    : Bool
  rewake      : Bool
  fromDeep    : Bool
  wakes       : BitVec 8               -- wakes by access under R285
  waiters     : List Waiter            -- accesses held at the controller (R284, R289)
  idleFrom    : Nat                    -- picoseconds
  deriving DecidableEq, Repr

/-- A stack's controller and steering unit (R264, R288, R289, R292, R303). -/
structure Stack where
  phase    : Nat
  steer    : Nat                       -- core last chosen
  cache    : List Nat                  -- 32-byte sectors in the stack cache of 48 MiB, newest first (R16)
  free     : List (Nat × List Nat)     -- by size class, tier 0; 4 + class, tier 1
  counters : List (Nat × DWord)        -- k of Table 13-8 group 5; from 0x100 those of R289; unlisted 0
  deriving DecidableEq, Repr

/-- An entry of the fault-address queue (Table 12-6). -/
structure FaultEntry where
  pa     : Nat
  cause  : Nat
  source : Nat
  domain : BitVec 16
  launch : BitVec 32
  deriving DecidableEq, Repr

/-- An entry of the domain table (R300, R305) with the cores assigned to the domain (R264). -/
structure Domain where
  root1 : Nat
  root2 : Nat
  key   : BitVec 10
  cores : List Nat
  deriving DecidableEq, Repr

/-! ### The management side -/

/-- The header of a firmware image (R350), which both signatures cover. -/
structure FwHeader where
  magic    : Nat
  stage    : Nat
  security : BitVec 16
  length   : Nat
  digest   : BitVec 384
  deriving DecidableEq, Repr

/-- A firmware image in flash (R350): header, the public keys of its two signatures, the signatures, contents. -/
structure Firmware where
  header   : FwHeader
  ecdsaKey : List Byte
  lmsKey   : List Byte
  ecdsaSig : List Byte
  lmsSig   : List Byte
  contents : List Byte
  deriving DecidableEq, Repr

/-- A fused key slot (R350): the SHA-384 digests of its ECDSA and its LMS public key, and its revocation bit. -/
structure KeySlot where
  ecdsa   : BitVec 384
  lms     : BitVec 384
  revoked : Bool
  deriving DecidableEq, Repr

/-- The fuses (R350): four key slots, and the minimum security version of each stage. -/
structure Fuses where
  slots    : Vector KeySlot 4
  minimum  : List (Nat × BitVec 16)    -- by stage; unlisted 0
  deriving DecidableEq, Repr

/-- A physically disabled core of a die, and whether it passes (R10, R363). -/
structure SpareCore where
  die    : Nat
  number : Nat
  passes : Bool
  deriving DecidableEq, Repr

/-- A sample of a core's ring oscillators and path monitors, with its date (R362). -/
structure Sample where
  core : Nat
  ring : Nat
  path : Nat
  date : Nat
  deriving DecidableEq, Repr

/-- Boot, trust and the boot flash (R349-R353, R362, R363). -/
structure Boot where
  next      : Nat                      -- stage to run next; 3 when stage 2 is ready
  stage     : Nat                      -- Table 15-2 [15:12]
  keySlot   : Nat                      -- Table 15-2 [11:8]
  code      : Nat                      -- Table 15-2 [7:0]
  flash     : List (Nat × Firmware)    -- by stage
  readable  : Bool                     -- the flash can be read
  trained   : Bool                     -- HBM training succeeds
  badCores  : List Nat                 -- cores of the grid that do not pass at reset
  spares    : List SpareCore           -- the disabled cores of the dies
  coreMap   : List (Nat × Nat)         -- grid core: the disabled core that stands in for it (R10)
  badRows   : List (Nat × List Nat)    -- defective array rows by core
  rowMap    : List (Nat × List (Nat × Nat)) -- by core: defective array row, spare row in its place (R15)
  fuses     : Fuses
  badPages  : List Nat
  withheld  : List Nat                 -- pages withheld from allocation (R299)
  history   : List Sample              -- ageing, oldest first, in the boot flash (R362)
  identity  : BitVec 384               -- compound device identifier of stage 1 or 2, whichever is in control (R352)
  ecdsaAlias : List Byte               -- alias key pair on P-384 of stage 2, by its public key (R352)
  lmsAlias  : List Byte                -- LMS alias key of stage 2
  certs     : List (List Byte)         -- the certificates that stage 1 gave the two
  measures  : List (BitVec 384)        -- measurements of the images booted
  deriving DecidableEq, Repr

/-- A Dolmond port (R354). -/
structure Port where
  up      : Bool
  expect  : Nat                        -- next sequence number to be received
  fails   : Nat                        -- replays asked for one flit in a row
  asked   : Option Nat                 -- a replay is awaited: the last number received since it was asked for
  replays : Nat                        -- replays asked for
  next    : Nat                        -- next sequence number to be sent
  retry   : List (Nat × FlitBody)      -- retry buffer: flits sent and not acknowledged, oldest first
  flight  : Bool                       -- a flit is in flight
  deriving DecidableEq, Repr

/-- A request of this package over the links (R355): when it was sent, to which package, the core and operation that wait
for it. -/
structure Request where
  id   : Nat
  sent : Nat
  pkg  : Nat
  core : Nat
  op   : Nat                           -- serial of the operation, with its slot
  slot : Nat
  deriving DecidableEq, Repr

/-- Threads of a launch of another package that exited, whose exit is not reported yet (R273): core, slot and generation,
lanes, launch. -/
structure ExitNote where
  core   : Nat
  slot   : Nat
  gen    : BitVec 8
  lanes  : LaneMask
  launch : Nat
  deriving DecidableEq, Repr

/-- A PROMO that another package asked for and that is not performed (R295): the request, whose it is, the reference, and
whether it is cancelled (R345). -/
structure PromoAsk where
  request : Nat
  who     : LinkWho
  ref     : DWord
  cancel  : Bool
  deriving DecidableEq, Repr

/-- Links and host (R354-R357). -/
structure Links where
  ports    : List (Nat × Port)
  routes   : List (Nat × Nat)          -- package: port + 1; unlisted 0: no route
  requests : List Request
  nextReq  : Nat
  late     : DWord                     -- late responses dropped
  reports  : List Nat                  -- ports reported down
  out      : List (Nat × Nat × FlitBody) -- flits sent: port, sequence number, contents
  exits    : List ExitNote             -- exits to be reported once the threads' writes are performed
  promos   : List PromoAsk             -- oldest first
  ether    : List Nat                  -- Ethernet ports of the four with a flit in flight (R20, R360)
  pcie     : Bool                      -- a PCIe flit is in flight (R360)
  hostMode : Bool                      -- HOSTMODE strap at reset (R357)
  mailbox  : List DWord                -- host doorbells
  windows  : List (Nat × (Nat × Nat × Nat × Nat)) -- base, size, target physical address, key identifier
  answers  : List (List Byte)          -- bytes read by the host
  deriving DecidableEq, Repr

/-- Answers of the SPDM responder (R353). -/
inductive SpdmAnswer where
  | version (major minor : Nat)
  | capabilities
  | algorithms (p384 : Bool)
  | digests (d : List (BitVec 384))
  | certificate (slot : Nat) (chain : List (List Byte))
  | challengeAuth (signature : BitVec 768)
  | measurements (values : List (BitVec 384)) (signature : BitVec 768) (lms : List Byte)
  | error
  deriving DecidableEq, Repr

/-- A notice to the hypervisor (R307) or a report to Kuenrex (R98, R157, R362, R363). -/
inductive Notice where
  | trapDepth (launch slot : Nat) (gen : BitVec 8) (causes : List Nat)
  | launchRefused (va : DWord) (status : Nat)
  | launchFault (launch cause : Nat)
  | successorRefused (launch status : Nat)
  | tableRefused (reason : Nat)
  | tableCreated (handle : DWord)
  | imageRefused
  | imageLoaded (handles : List DWord)
  | replan (core oldMillivolt newMillivolt date : Nat)
  | degraded (core : Nat)
  | barrier (launch : Nat)
  deriving DecidableEq, Repr

/-- A loaded executable as Kuenrex keeps it (R199): its domain, its launch records' place and its scratch images. -/
structure Program where
  domain  : BitVec 16
  records : Nat
  count   : Nat
  images  : List ScratchImage
  deriving DecidableEq, Repr

/-- Kuenrex and the firmware: notices, ageing, maintenance (R362, R363), SPDM answers, pages for page tables. -/
structure Mgmt where
  notices     : List Notice            -- oldest first
  spdm        : List SpdmAnswer        -- oldest first
  negotiated  : Bool
  spdmVersion : Bool                   -- GET_VERSION answered
  pages       : List Nat               -- physical 64 KiB pages that Kuenrex holds for page tables
  maintenance : Bool                   -- a maintenance window is requested
  window      : Bool                   -- it has started
  millivolt   : List (Nat × Nat)       -- supply voltage by core
  margin      : List (Nat × Nat)       -- frequency margin by core
  sensors     : List (Nat × (Nat × Nat)) -- by core: what its ring oscillators and its path monitors show
  degraded    : List Nat
  programs    : List Program
  deriving DecidableEq, Repr

/-- What enfleurage reads of a frozen package (R359): the stack caches' sectors, the cores with their register pools,
predicates, accumulators, scratchpads, row caches, continuation slots, queues and TLBs, the stacks and bank sets, the
dispatcher, the fault-address queue, the links with their retry buffers, the table engines' tables and counters (R192), the
counters and registers of the package, of its boot, of its management side and of Freeze itself. HBM and the capacity tier are
no part of it. -/
structure ReadOut where
  caches   : List (Nat × List (Nat × List Byte)) -- by stack: sector number, bytes
  cores    : List (Nat × CoreSt)
  stackCtl : List (Nat × Stack)
  banks    : List (Nat × Bank)
  launches : List (Nat × Launch)
  blocks   : List Block
  faultQ   : List FaultEntry
  transit  : List Flacon
  links    : Links
  acks     : List Flacon
  domains  : List (Nat × Domain)
  slate    : List (Nat × Nat)
  cycles   : BitVec 64
  slow     : BitVec 64
  coreMHz  : Nat
  blockBase : Nat
  overflows : BitVec 64
  keyEpoch : List (Nat × Nat)
  pointer  : Nat
  nextLaunch : Nat
  nextAge  : Nat
  tables   : List (Nat × Table)
  tableGens : List (Nat × Nat)
  oldStores : List OldStore
  timePs   : Nat
  boot     : Boot
  mgmt     : Mgmt
  status   : BitVec 32                 -- of Freeze, as the read-out finds it
  control  : BitVec 32
  armedTrap  : Option Nat
  armedQueue : Bool
  armedCore  : Nat
  armedCycle : Option Nat
  deriving DecidableEq, Repr

/-- Freeze and read-out (R358-R361). armedTrap, armedCycle: the chosen cause; core and value. -/
structure Freeze where
  pin        : Bool
  frozen     : Bool
  sameCycle  : Bool                    -- the cycle of the trigger has not ended
  status     : BitVec 32               -- Table 15-4
  control    : BitVec 32               -- Table 15-6 (only REFUSED is held)
  armedTrap  : Option Nat
  armedQueue : Bool
  armedCore  : Nat
  armedCycle : Option Nat
  readouts   : List ReadOut            -- what was read out, oldest first
  resetAsked : Bool
  deriving DecidableEq, Repr

/-- What acts next and what the outside does: the model's own way to name one order of the many that the manual
allows (log 4). -/
inductive Move where
  | issue (core slot : Nat)            -- that strand issues
  | event (i : Instr)                  -- that step takes place
  | tick (cycles : Nat)                -- that many core cycles pass (log 5)
  | pin (high : Bool)                  -- level of the FREEZE pin
  | linkFlight (port : Nat) (on : Bool) -- a Dolmond flit starts or stops being in flight
  | etherFlight (port : Nat) (on : Bool) -- the same of an Ethernet port
  | pcieFlight (on : Bool)             -- the same of the PCIe port
  | sensor (core ring path : Nat)      -- a core's ring oscillators and path monitors show other values
  | sample (core date : Nat)           -- firmware samples them
  | damageScratch (core off : Nat) (code : BitVec 16) -- as damage, of the sector of scratch at an offset
  | damage (pa : Nat) (code : BitVec 16) -- the stored check code of the sector of pa changes by that XOR
  | uncorrectable (pa : Nat)           -- HBM's own correction fails on the sector of pa (R297)
  | corrected (pa : Nat)               -- HBM corrects an error (R297)
  deriving DecidableEq, Repr

/-- The state of a package. -/
structure State where
  cur       : Nat × Nat                -- MODEL'S OWN: core and slot that issue next
  agenda    : List Move                -- MODEL'S OWN: what acts next (log 4)
  fresh     : Nat                      -- MODEL'S OWN: counter that free values are applied to (log 3)
  slate     : List (Nat × Nat)         -- strands selected in this core cycle that have not issued yet (R101)
  round     : Nat                      -- MODEL'S OWN: cycles that have passed in the order without an agenda (log 4)
  timePs    : Nat                      -- elapsed time (log 5)
  cycles    : BitVec 64                -- core cycle counter (Table 5-6)
  coreMHz   : Nat                      -- R24
  slow      : BitVec 64                -- core cycles below 800 MHz (R24)
  cores     : List (Nat × CoreSt)      -- unlisted: a core as reset left it
  mem       : Mem
  tables    : List (Nat × Table)       -- by local number
  tableGens : List (Nat × Nat)         -- generation of each number; unlisted 1 (R158)
  oldStores : List OldStore
  launches  : List (Nat × Launch)      -- by number
  nextLaunch : Nat
  pointer   : Nat                      -- last core used by the dispatcher (R99)
  blocks    : List Block
  nextAge   : Nat                      -- dispatch order of the next strand
  stackCtl  : List (Nat × Stack)
  banks     : List (Nat × Bank)        -- by package bank-set number
  blockBase : Nat                      -- base of the block table (R292)
  faultQ    : List FaultEntry          -- oldest first, at most 1,024
  overflows : BitVec 64
  keyEpoch  : List (Nat × Nat)         -- by key identifier: sets of keys generated since reset (R291)
  domains   : List (Nat × Domain)
  transit   : List Flacon              -- flacons under way
  acks      : List Flacon              -- acknowledgements under way, each with the flacon it is for
  boot      : Boot
  freeze    : Freeze
  links     : Links
  mgmt      : Mgmt
  deriving DecidableEq, Repr

/-! ### Reasons to stop -/

/-- Why a step stops. Every fault of the manual is a trap or a status, which the machine goes on from; the model stops
in one case only. -/
inductive Fault where
  /-- Raised by every encoded instruction executed where the slot in State.cur holds no strand: no word can issue
  there. Safe: the step function never issues a word without a strand. -/
  | noStrand
  deriving DecidableEq, Repr

/-- Why a step is refused. -/
inductive Refusal where
  /-- Raised by an arm of exec whose instruction has no meaning yet. Safe: nothing can be proved of it. -/
  | notModelled (mnemonic : String)
  deriving DecidableEq, Repr

/-- One step's outcome. -/
abbrev Result := Host.Outcome State Fault Refusal

/-! ### Reset -/

/-- A weight plane after reset (R237). -/
def Plane.reset : Plane := { wtype := none, k := 0, rows := [] }

/-- The matrix state after reset (R237). -/
def Matrix.reset : Matrix :=
  { shadow := Plane.reset, active := Plane.reset, lower := -2147483648, upper := 2147483647, forced := 0#32,
    accum := [], planes := none, rows := [], queue := [] }

/-- A core after package reset. -/
def CoreSt.reset : CoreSt :=
  { slots := [], gens := [], ops := [], scratch := [], scratchErr := [], scratchPoison := [], buffers := [],
    allocSer := 0, clearing := [], handOver := [], copies := [], matrix := Matrix.reset, futures := [],
    futureSer := 0, cursors := [], cursorSer := 0, origins := [], stale := [], reserved := 0, reservedFar := 0,
    arrived := [], restores := [], tlb := [], rowCache := [],
    trapBase := 0#64, trapFrame := 0#64, hTrapBase := 0#64, counters := [], events := [], saved := [] }

/-- A bank set after package reset (Table 12-3). -/
def Bank.reset : Bank :=
  { allocated := false, deepAllowed := false, state := .active, entering := false, rewake := false,
    fromDeep := false, wakes := 0#8, waiters := [], idleFrom := 0 }

/-- Physical memory after power-on (log 1). -/
def Mem.reset : Mem := { cells := [], codeErr := [], poison := [], sealed := [] }

/-- A stack after package reset: its steering unit as if it had last chosen its highest-numbered core (R264). -/
def Stack.reset (s : Nat) : Stack :=
  { phase := 0, steer := [39, 119, 79, 159, 199, 279, 239, 319].getD s 0, cache := [], free := [],
    counters := [] }

/-- A Dolmond port after reset, before Kuenrex brings it up. -/
def Port.reset : Port :=
  { up := false, expect := 0, fails := 0, asked := none, replays := 0, next := 0, retry := [], flight := false }

/-- Boot after package reset (Table 15-2); flash, fuses and the outcomes of training and of the core map are what the
outside provides (log 16). -/
def Boot.reset : Boot :=
  { next := 0, stage := 0, keySlot := 15, code := 0x00, flash := [], readable := true, trained := true, badCores := [],
    spares := [], coreMap := [], badRows := [], rowMap := [],
    fuses := { slots := Vector.replicate 4 ⟨0#384, 0#384, false⟩, minimum := [] }, badPages := [], withheld := [],
    history := [], identity := 0#384, ecdsaAlias := [], lmsAlias := [], certs := [], measures := [] }

/-- The debug port after reset (Tables 15-4, 15-6). -/
def Freeze.reset : Freeze :=
  { pin := false, frozen := false, sameCycle := false, status := 0#32, control := 0#32, armedTrap := none,
    armedQueue := false, armedCore := 0, armedCycle := none, readouts := [], resetAsked := false }

/-- Links after reset. -/
def Links.reset : Links :=
  { ports := [], routes := [], requests := [], nextReq := 0, late := 0#64, reports := [], out := [], exits := [], promos := [],
    ether := [], pcie := false, hostMode := false, mailbox := [], windows := [], answers := [] }

/-- The management side after reset. -/
def Mgmt.reset : Mgmt :=
  { notices := [], spdm := [], negotiated := false, spdmVersion := false, pages := [], maintenance := false, window := false,
    millivolt := [], margin := [], sensors := [], degraded := [], programs := [] }

/-- The machine right after package reset (values that the manual does not give: logs 1, 2, 3, 16, 69). -/
def State.reset : State :=
  { cur := (0, 0), agenda := [], fresh := 0, slate := [], round := 0, timePs := 0, cycles := 0#64, coreMHz := 800,
    slow := 0#64, cores := [], mem := Mem.reset, tables := [], tableGens := [], oldStores := [], launches := [],
    nextLaunch := 1,
    pointer := 319, blocks := [], nextAge := 0, stackCtl := [], banks := [], blockBase := 0, faultQ := [],
    overflows := 0#64, keyEpoch := [], domains := [], transit := [], acks := [], boot := Boot.reset,
    freeze := Freeze.reset, links := Links.reset, mgmt := Mgmt.reset }

end Sys2Proof.Machine
end

