-- ==== Sys2Proof/Machine/Regs.lean ====
section
/-! DEFINITION. Access to cores, strands and registers: every read and write of a register goes through here. -/

namespace Sys2Proof.Machine

/-! ### Cores and strands -/

/-- Core c. -/
def State.core (s : State) (c : Nat) : CoreSt := Assoc.get CoreSt.reset s.cores c

/-- Core c replaced. -/
def State.setCore (s : State) (c : Nat) (x : CoreSt) : State := { s with cores := Assoc.set s.cores c x }

/-- Core c changed by f. -/
def State.modCore (s : State) (c : Nat) (f : CoreSt → CoreSt) : State := s.setCore c (f (s.core c))

/-- The strand in a slot, if one is resident. -/
def State.strand? (s : State) (c sl : Nat) : Option Strand := Assoc.find (s.core c).slots sl

/-- The strand of a slot replaced. -/
def State.setStrand (s : State) (c sl : Nat) (st : Strand) : State :=
  s.modCore c fun k => { k with slots := Assoc.set k.slots sl st }

/-- The strand of a slot changed by f, if one is resident. -/
def State.modStrand (s : State) (c sl : Nat) (f : Strand → Strand) : State :=
  match s.strand? c sl with
  | some st => s.setStrand c sl (f st)
  | none => s

/-- The strand that issues. -/
def State.here? (s : State) : Option Strand := s.strand? s.cur.1 s.cur.2

/-- The strand that issues replaced. -/
def State.setHere (s : State) (st : Strand) : State := s.setStrand s.cur.1 s.cur.2 st

/-- The strand that issues changed by f. -/
def State.modHere (s : State) (f : Strand → Strand) : State := s.modStrand s.cur.1 s.cur.2 f

/-- Generation of a slot (R91, R92). -/
def CoreSt.gen (k : CoreSt) (sl : Nat) : BitVec 8 := Assoc.get 0#8 k.gens sl

/-- A counter of a core, by PERF selector (Table 13-8); those of R348 from 0x10000. -/
def CoreSt.counter (k : CoreSt) (sel : Nat) : DWord := Assoc.get 0#64 k.counters sel

/-- A counter raised by n, modulo 2^64. -/
def CoreSt.count (k : CoreSt) (sel : Nat) (n : Nat := 1) : CoreSt :=
  { k with counters := Assoc.put 0#64 k.counters sel (k.counter sel + BitVec.ofNat 64 n) }

/-- A counter of core c raised by n. -/
def State.count (s : State) (c sel : Nat) (n : Nat := 1) : State := s.modCore c fun k => k.count sel n

/-! ### Group-wide registers -/

/-- g[n]. -/
def Group.gr (x : Group) (n : Nat) : DWord := Assoc.get 0#64 x.g n

/-- g[n] := v. -/
def Group.setG (x : Group) (n : Nat) (v : DWord) : Group := { x with g := Assoc.put 0#64 x.g n v }

/-- k[n]. -/
def Group.kr (x : Group) (n : Nat) : DWord := Assoc.get 0#64 x.k n

/-- k[n] := v. -/
def Group.setK (x : Group) (n : Nat) (v : DWord) : Group := { x with k := Assoc.put 0#64 x.k n v }

/-- q[n]. -/
def Group.qr (x : Group) (n : Nat) : Bool := x.q.getLsbD n

/-- q[n] := b. -/
def Group.setQ (x : Group) (n : Nat) (b : Bool) : Group := { x with q := putSlice x.q n 1 (if b then 1 else 0) }

/-- g[n] of a strand. -/
def Strand.gr (st : Strand) (n : Nat) : DWord := st.group.gr n

/-- g[n] := v. -/
def Strand.setG (st : Strand) (n : Nat) (v : DWord) : Strand := { st with group := st.group.setG n v }

/-- k[n] of a strand. -/
def Strand.kr (st : Strand) (n : Nat) : DWord := st.group.kr n

/-- k[n] := v. -/
def Strand.setK (st : Strand) (n : Nat) (v : DWord) : Strand := { st with group := st.group.setK n v }

/-- q[n] := b. -/
def Strand.setQ (st : Strand) (n : Nat) (b : Bool) : Strand := { st with group := st.group.setQ n b }

/-- Predicate n of every lane. -/
def Strand.pr (st : Strand) (n : Nat) : LaneMask := Assoc.get 0#64 st.p n

/-- Predicate n of the lanes in act := their bits of m. -/
def Strand.setP (st : Strand) (n : Nat) (act m : LaneMask) : Strand :=
  { st with p := Assoc.put 0#64 st.p n ((st.pr n &&& ~~~ act) ||| (m &&& act)) }

/-! ### The mode register (Table 3-5) -/

/-- Element type, if its code is legal. -/
def modeType (m : Word) : Option ElemType := ElemType.ofCode (slice m 6 3)
/-- Rounding. -/
def modeRound (m : Word) : Rounding := Rounding.ofCode (slice m 2 1)
/-- Saturation. -/
def modeSat (m : Word) : Bool := m.getLsbD 0
/-- Order. -/
def modeOrder (m : Word) : Order := Order.ofCode (slice m 31 29)
/-- Scope. -/
def modeScope (m : Word) : Scope := Scope.ofCode (slice m 28 26)
/-- Class. -/
def modeClass (m : Word) : AClass := AClass.ofCode (slice m 25 24)
/-- Atomic operation. -/
def modeAOp (m : Word) : Option AOp := AOp.ofCode (slice m 23 20)
/-- Count. -/
def modeCount (m : Word) : Nat := slice m 19 16 + 1
/-- Guard enable. -/
def modeGuard (m : Word) : Bool := m.getLsbD 15
/-- Guard predicate. -/
def modePred (m : Word) : Nat := slice m 14 8
/-- Negate. -/
def modeNeg (m : Word) : Bool := m.getLsbD 7

/-! ### Lanes (R90, R120) -/

/-- Live lanes: below W, neither exited nor departed. -/
def Strand.live (st : Strand) : LaneMask := maskBelow st.width &&& ~~~ st.exited &&& ~~~ st.departed

/-- The lanes in which the guard allows. -/
def Strand.guardMask (st : Strand) : LaneMask :=
  if modeGuard st.group.mode then
    (if modeNeg st.group.mode then ~~~ st.pr (modePred st.group.mode) else st.pr (modePred st.group.mode))
  else ~~~ 0#64

/-- The lanes active apart from the guard (SEL, R62). -/
def Strand.unguarded (st : Strand) : LaneMask := st.kr 0 &&& st.live

/-- The active lanes (R90). -/
def Strand.active (st : Strand) : LaneMask := st.unguarded &&& st.guardMask

/-! ### Vector registers -/

/-- The word of a register's lane (Table 6-1); an empty register has none. -/
def VReg.lane : VReg → Nat → Word
  | .uniform u, _ => u
  | .affine b st, l => b + st * BitVec.ofNat 32 l
  | .general ws, l => ws.getD l 0#32

/-- Register r, if it is not empty. -/
def Strand.vreg? (st : Strand) (r : Nat) : Option VReg := Assoc.find st.v r

/-- The word of lane l of register r; 0 where the register is empty (R121). -/
def Strand.vlane (st : Strand) (r l : Nat) : Word :=
  match st.vreg? r with
  | some x => x.lane l
  | none => 0#32

/-- Lane l of register r, or of the pair r:r+1 under a 64-bit type, as a number. -/
def Strand.vval (st : Strand) (wide : Bool) (r l : Nat) : Nat :=
  if wide then (st.vlane r l).toNat + (st.vlane (r + 1) l).toNat <<< 32 else (st.vlane r l).toNat

/-- Lane l of the pair r:r+1. -/
def Strand.vpair (st : Strand) (r l : Nat) : DWord := pair64 (st.vlane r l) (st.vlane (r + 1) l)

/-- Register r made empty. -/
def Strand.freeV (st : Strand) (r : Nat) : Strand := { st with v := Assoc.erase st.v r }

/-- The word that a general register gives a lane which is not live: the word that the register held when the lane exited
or departed, or 0 (R144). -/
def Strand.keptWord (st : Strand) (r l : Nat) : Word := (Assoc.get [] st.kept r).getD l 0#32

/-- The words of the lanes in m noted as those that every register holds when they exit or depart (R144). -/
def Strand.keepLanes (st : Strand) (m : LaneMask) : Strand :=
  { st with kept := st.v.foldl (fun k x =>
      Assoc.set k x.1 ((List.range st.width).map fun l =>
        if m.getLsbD l then x.2.lane l else (Assoc.get [] k x.1).getD l 0#32)) st.kept }

/-- The lanes in act of register r := f lane. When every live lane is written the register takes the tag given, if one
is; otherwise it is general, and live lanes not written keep their words (R120, R121); lanes that are not live have the
word that R144 gives them. -/
def Strand.writeV (st : Strand) (r : Nat) (act : LaneMask) (tag : Option VReg) (f : Nat → Word) : Strand :=
  let full := st.live &&& ~~~ act == 0#64
  let x : VReg := match full, tag with
    | true, some t => t
    | _, _ => .general ((List.range st.width).map fun l =>
        if act.getLsbD l then f l else if st.live.getLsbD l then st.vlane r l else st.keptWord r l)
  { st with v := Assoc.set st.v r x }

/-- As writeV, for a register or, under a 64-bit type, the pair r:r+1; tags for the low and the high register. -/
def Strand.writeVal (st : Strand) (wide : Bool) (r : Nat) (act : LaneMask) (tag tag1 : Option VReg) (f : Nat → Nat) :
    Strand :=
  let st := st.writeV r act tag fun l => BitVec.ofNat 32 (f l)
  if wide then st.writeV (r + 1) act tag1 fun l => BitVec.ofNat 32 (f l >>> 32) else st

/-- The value of a uniform register. -/
def Strand.uniform? (st : Strand) (r : Nat) : Option Word :=
  match st.vreg? r with
  | some (.uniform u) => some u
  | _ => none

/-- Whether registers r to r + n - 1 are all uniform. -/
def Strand.allUniform (st : Strand) (r n : Nat) : Bool := (List.range n).all fun i => (st.uniform? (r + i)).isSome

/-- Pending bits of v registers set or cleared (R125). -/
def Strand.pendV (st : Strand) (rs : List Nat) (b : Bool) : Strand :=
  { st with vpend := rs.foldl (fun m r => putSlice m r 1 (if b then 1 else 0)) st.vpend }

/-- Pending bit of a g register set or cleared. -/
def Strand.pendG (st : Strand) (r : Nat) (b : Bool) : Strand :=
  { st with gpend := putSlice st.gpend r 1 (if b then 1 else 0) }

/-- A completion flag set or cleared; 15 names none (R45). -/
def Strand.setFlag (st : Strand) (f : Nat) (b : Bool) : Strand :=
  if f < 12 then { st with flags := putSlice st.flags f 1 (if b then 1 else 0) } else st

/-! ### Kuenrex -/

/-- Whether Kuenrex runs: boot has finished stage 2 (R349, Table 15-1). -/
def State.kuenrex (s : State) : Bool := s.boot.next == 3

/-! ### Launches of other packages (R273) -/

/-- Launches of one package have numbers below this (DESIGN CHOICE, log 31). -/
def launchSpan : Nat := 2 ^ 48

/-- The package whose launch a name is. -/
def launchOwner (n : Nat) : Nat := if n < launchSpan then Config.packageNumber else n / launchSpan - 1

/-- The number that the launch of a name has in its package. -/
def launchNumber (n : Nat) : Nat := n % launchSpan

/-- The name here of a launch that another package names n: a launch of that package by its number, a launch of a third one, or
of this one, by its owner too. -/
def launchName (pkg n : Nat) : Nat :=
  let owner := if n < launchSpan then pkg else n / launchSpan - 1
  if owner = Config.packageNumber then launchNumber n else launchSpan * (1 + owner) + launchNumber n

/-- Whether a launch is one of this package. -/
def launchOwn (n : Nat) : Bool := decide (n < launchSpan)

/-! ### Place (R11, R99) -/

/-- Number of the core at (row, col): 8 × cluster + core-in-cluster. -/
def coreAt (row col : Nat) : Nat := 8 * (10 * (row / 4) + col / 2) + (row % 4) * 2 + col % 2

/-- Row of a core. -/
def coreRow (c : Nat) : Nat := 4 * (c / 8 / 10) + c % 8 / 2

/-- Column of a core. -/
def coreCol (c : Nat) : Nat := 2 * (c / 8 % 10) + c % 2

/-- Cluster of a core. -/
def coreCluster (c : Nat) : Nat := c / 8

/-- Near stack of a core (Table 1-1). -/
def coreStack (c : Nat) : Nat :=
  let row := coreRow c
  let col := coreCol c
  2 * (2 * (if row ≥ 8 then 1 else 0) + (if col ≥ 10 then 1 else 0)) + (if row % 8 ≥ 4 then 1 else 0)

end Sys2Proof.Machine
end

