-- ==== Sys2Proof/Machine/Flits.lean ====
section
/-! DEFINITION. What this package sends over the Dolmond links: flits by the route to a package, requests, reports of threads
that exit (R273, R354, R355). -/

namespace Sys2Proof.Machine

/-- Port n. -/
def State.port (s : State) (n : Nat) : Port := Assoc.get Port.reset s.links.ports n

/-- Port n replaced. -/
def State.putPort (s : State) (n : Nat) (p : Port) : State :=
  { s with links := { s.links with ports := Assoc.set s.links.ports n p } }

/-- Bytes of a lane with its words in a request or an answer. -/
def laneBytes (ws : List Word) : Nat := 8 + 4 * ws.length

/-- Bytes of what a request asks. -/
def LinkAsk.size : LinkAsk → Nat
  | .table _ _ _ lanes => 16 + (lanes.map fun x => laneBytes x.2).sum
  | .steps _ lanes => 8 + 48 * lanes.length
  | .gather record => 8 + record.length
  | _ => 16

/-- Bytes of what is sent; a head of 32 bytes says what it is and for whom (DESIGN CHOICE, log 61). -/
def FlitBody.size : FlitBody → Nat
  | .ask _ _ q => 32 + q.size
  | .response _ _ ws => 32 + 4 * ws.length
  | .results _ lanes => 32 + (lanes.map fun x => laneBytes x.2.2).sum
  | .flacon _ _ bytes => 32 + bytes.length
  | _ => 32

/-- The flits that carry what is sent, of 256 bytes each (R354): the last one completes it. -/
def FlitBody.flits (b : FlitBody) : List FlitBody := List.replicate ((b.size - 1) / 256) .part ++ [b]

/-- A flit sent on port n under its next sequence number; it stays in the retry buffer until it is acknowledged. A port that
is down sends nothing (R354). -/
def State.sendFlit (s : State) (n : Nat) (b : FlitBody) : State :=
  let p := s.port n
  if p.up then
    let s := s.putPort n { p with next := p.next + 1, retry := p.retry ++ [(p.next, b)] }
    { s with links := { s.links with out := s.links.out ++ [(n, p.next, b)] } }
  else s

/-- What is sent on port n, flit by flit. -/
def State.sendPort (s : State) (n : Nat) (b : FlitBody) : State := b.flits.foldl (fun s x => s.sendFlit n x) s

/-- A flit sent to a package by its route; without a route nothing is sent (R354, R364). -/
def State.sendTo (s : State) (pkg : Nat) (b : FlitBody) : State :=
  match Assoc.get 0 s.links.routes pkg with
  | 0 => s
  | n + 1 => s.sendPort n b

/-- A request put on the list of those outstanding, for an operation of core c by its serial and slot (R355). -/
def State.openRequest (s : State) (pkg c op slot : Nat) : State × Nat :=
  let n := s.links.nextReq
  ({ s with links := { s.links with
      nextReq := n + 1
      requests := s.links.requests ++ [⟨n, s.timePs, pkg, c, op, slot⟩] } }, n)

/-- A request sent to a package, and its number. -/
def State.ask (s : State) (pkg c op slot : Nat) (who : LinkWho) (q : LinkAsk) : State × Nat :=
  match s.openRequest pkg c op slot with
  | (s, n) => (s.sendTo pkg (.ask n who q), n)

/-- Whether a request has been sent. -/
def Links.sent (x : Links) (n : Nat) : Bool := x.out.any fun f => match f.2.2 with
  | .ask m _ _ => m == n
  | _ => false

/-- Whether an exit can be reported: no write of its threads is still to be performed (R273). -/
def State.exitReady (s : State) (x : ExitNote) : Bool :=
  ((s.core x.core).ops.all fun o => !(o.slot == x.slot && o.gen == x.gen) || o.todo &&& x.lanes == 0#64) &&
  (s.core x.core).copies.all fun q => !(q.slot == x.slot && q.gen == x.gen)

/-- The exits of threads of launches of other packages that can be reported are sent to those packages (R273). -/
def State.reportExits (s : State) : State :=
  let ready := s.links.exits.filter s.exitReady
  let s := { s with links := { s.links with exits := s.links.exits.filter fun x => !s.exitReady x } }
  ready.foldl (fun s x => s.sendTo (launchOwner x.launch) (.threadExit (launchNumber x.launch) (popCount x.lanes))) s

end Sys2Proof.Machine
end

