-- ==== Sys2Proof/Machine/Memory.lean ====
section
/-! DEFINITION. Physical memory, bank sets, check codes and poison, tier-1 sealing, translation, blocks of the paged
store, and the fault-address queue (R280-R302). Every byte of memory is read and written through here. -/

namespace Sys2Proof.Machine

/-! ### Bytes and words -/

/-- Bytes of a number, little-endian (R6). -/
def bytesOf : Nat → Nat → List Byte
  | 0, _ => []
  | n + 1, v => BitVec.ofNat 8 v :: bytesOf n (v / 256)

/-- The number of little-endian bytes. -/
def natOf : List Byte → Nat
  | [] => 0
  | b :: bs => b.toNat + 256 * natOf bs

/-- The word of the first four bytes. -/
def wordOf (bs : List Byte) : Word := BitVec.ofNat 32 (natOf (bs.take 4))

/-- n words of bytes. -/
def wordsOf (n : Nat) (bs : List Byte) : List Word := (List.range n).map fun i => wordOf (bs.drop (4 * i))

/-- Bytes of words. -/
def bytesOfWords (ws : List Word) : List Byte := ws.flatMap fun w => bytesOf 4 w.toNat

/-! ### Raw physical memory (Table 12-1) -/

/-- The tier of a physical address, if it is backed (R280). -/
def tierOf (pa : Nat) : Option Nat :=
  if pa < 2 ^ 39 then some 0
  else if 2 ^ 40 ≤ pa ∧ pa < 2 ^ 40 + Config.tier1Bytes then some 1 else none

/-- The reporting source of a physical address (Table 12-6): its stack or its capacity controller. -/
def sourceOf (pa : Nat) : Nat := if pa < 2 ^ 39 then pa / 2 ^ 36 else 8 + (pa - 2 ^ 40) / 4096 % 6

/-- Byte at pa. -/
def Mem.byte (m : Mem) (pa : Nat) : Byte := Assoc.get Config.unwritten m.cells pa

/-- n bytes from pa on. -/
def Mem.bytes (m : Mem) (pa n : Nat) : List Byte := Assoc.read Config.unwritten m.cells pa n

/-- The bytes from pa on replaced: the one operation that changes bytes of memory. -/
def Mem.poke (m : Mem) (pa : Nat) (bs : List Byte) : Mem :=
  { m with cells := Assoc.splice Config.unwritten m.cells pa bs }

/-- The form of memory: rising addresses, no entry that an unlisted address would read as. -/
def Mem.wf (m : Mem) : Bool := Assoc.canonical Config.unwritten m.cells

/-- One bit of the CRC of R296: the register shifted left, the polynomial 0x8BB7 joined when the bits that meet differ. -/
def crcBit (r : BitVec 16) (b : Bool) : BitVec 16 := if (r.getLsbD 15 != b) then (r <<< 1) ^^^ 0x8BB7#16 else r <<< 1

/-- The check code of bytes (R296): CRC-16 with polynomial 0x8BB7, initial value 0, no reflection, ascending addresses. -/
def crc16 (bs : List Byte) : BitVec 16 :=
  bs.foldl (fun r b => (List.range 8).foldl (fun r i => crcBit r (b.getLsbD (7 - i))) r) 0#16

/-- The check code that is stored beside sector n: that of its bytes, but for its deviation (R296). -/
def Mem.storedCode (m : Mem) (n : Nat) : BitVec 16 := crc16 (m.bytes (32 * n) 32) ^^^ Assoc.get 0#16 m.codeErr n

/-- A sector as it lies: bytes, deviation of its check code, poison. -/
structure Sector where
  bytes   : List Byte
  codeErr : BitVec 16
  poison  : Bool
  deriving DecidableEq, Repr

/-- The zero sector (R285). -/
def Sector.zero : Sector := ⟨List.replicate 32 0#8, 0#16, false⟩

/-- The sector of number n. -/
def Mem.sector (m : Mem) (n : Nat) : Sector :=
  ⟨m.bytes (32 * n) 32, Assoc.get 0#16 m.codeErr n, m.poison.contains n⟩

/-- A number put in an ascending list. -/
def insertNat (n : Nat) : List Nat → List Nat
  | [] => [n]
  | x :: xs => if n < x then n :: x :: xs else if n = x then x :: xs else x :: insertNat n xs

/-- The poison of sector n set or cleared. -/
def Mem.setPoison (m : Mem) (n : Nat) (b : Bool) : Mem :=
  { m with poison := if b then insertNat n m.poison else m.poison.filter (· != n) }

/-- The sector of pa poisoned, as a copy carries poison to it (R297). -/
def Mem.poisonAt (m : Mem) (pa : Nat) : Mem :=
  { m.setPoison (pa / 32) true with codeErr := Assoc.erase m.codeErr (pa / 32) }

/-- The check code of sector n made good. -/
def Mem.newCode (m : Mem) (n : Nat) : Mem := { m with codeErr := Assoc.erase m.codeErr n }

/-- Sector n replaced, with its check code and poison. -/
def Mem.putSector (m : Mem) (n : Nat) (x : Sector) : Mem :=
  let m := (m.poke (32 * n) x.bytes).setPoison n x.poison
  { m with codeErr := Assoc.put 0#16 m.codeErr n x.codeErr }

/-! ### Stacks and bank sets (R281-R289) -/

/-- Stack n. -/
def State.stackOf (s : State) (n : Nat) : Stack :=
  match Assoc.find s.stackCtl n with
  | some x => x
  | none => Stack.reset n

/-- Stack n changed. -/
def State.modStack (s : State) (n : Nat) (f : Stack → Stack) : State :=
  { s with stackCtl := Assoc.set s.stackCtl n (f (s.stackOf n)) }

/-- A controller counter raised. From 0x100: 0 entries into retention, 1 into deep power-down, 2 wakes from retention,
3 wakes from deep power-down, 4 accesses that stalled (R289). -/
def State.countStack (s : State) (n k : Nat) : State :=
  s.modStack n fun x => { x with counters := Assoc.put 0#64 x.counters k (Assoc.get 0#64 x.counters k + 1#64) }

/-- Bank set b. -/
def State.bank (s : State) (b : Nat) : Bank := Assoc.get Bank.reset s.banks b

/-- Bank set b replaced. -/
def State.setBank (s : State) (b : Nat) (x : Bank) : State := { s with banks := Assoc.set s.banks b x }

/-- A bank set whose data is lost reads zero, with good codes and no poison (R285). -/
def Mem.clearBank (m : Mem) (b : Nat) : Mem :=
  { m with
    cells := m.cells.filter (fun c => c.1 / 2 ^ 30 != b)
    codeErr := m.codeErr.filter (fun c => c.1 / 2 ^ 25 != b)
    poison := m.poison.filter (fun n => n / 2 ^ 25 != b) }

/-- The stall of one access added to its launch (R289). -/
def State.addStall (s : State) (x : Waiter) : State :=
  match Assoc.find s.launches x.launch with
  | some l =>
    let l := { l with stalls := l.stalls + 1, stallPs := l.stallPs + (s.timePs - x.since) }
    { s with launches := Assoc.set s.launches x.launch l }
  | none => s

/-- The end of a wake of bank set b (R283, R285): active, idle from now; the stalls of the accesses held end. -/
def State.bankWoken (s : State) (b : Nat) (deep : Bool) : State :=
  let x := s.bank b
  let s := if deep then { s with mem := s.mem.clearBank b } else s
  let s := s.setBank b { x with
    state := .active, entering := false, rewake := false, fromDeep := false, waiters := [], idleFrom := s.timePs }
  x.waiters.foldl State.addStall (s.countStack (b / 64) (if deep then 0x103 else 0x102))

/-- A wake of an unallocated bank set by an access is counted (R285). -/
def Bank.countWake (x : Bank) : Bank :=
  if x.allocated then x else { x with wakes := if x.wakes = 255#8 then x.wakes else x.wakes + 1#8 }

/-- Sectors of a stack cache: 48 MiB (R16). -/
def cacheSectors : Nat := 1572864

/-- A sector that an access reached stands in its stack's cache (R16, R359); which sectors do is no part of the
architecture (R283; log 72). -/
def State.cacheSector (s : State) (pa : Nat) : State :=
  s.modStack (pa / 2 ^ 36) fun x => { x with cache := (pa / 32 :: x.cache.erase (pa / 32)).take cacheSectors }

/-- An access that is served at once reaches the DRAM of pa: its bank set is active and idle from now (R283, R284); an entry
into retention is abandoned, and a bank set asleep is woken first (log 17); a wake that something has asked for already is
counted once. -/
def State.touch (s : State) (pa : Nat) : State :=
  if 2 ^ 39 ≤ pa then s
  else
    let s := s.cacheSector pa
    let b := pa / 2 ^ 30
    let x := s.bank b
    match x.state with
    | .active => s.setBank b { x with idleFrom := s.timePs }
    | .retention =>
      if x.entering then s.setBank b { x with state := .active, entering := false, idleFrom := s.timePs }
      else s.bankWoken b false
    | .deep => (s.setBank b (if x.rewake then x else x.countWake)).bankWoken b true
    | .waking => s.bankWoken b x.fromDeep

/-- Whether an access to pa stalls (R284). -/
def State.asleep (s : State) (pa : Nat) : Bool :=
  decide (pa < 2 ^ 39) &&
  (match (s.bank (pa / 2 ^ 30)).state, (s.bank (pa / 2 ^ 30)).entering with
   | .active, _ => false
   | .retention, b => !b
   | _, _ => true)

/-! ### Freeze triggers and the fault-address queue (R298, R358) -/

/-- Whether a Dolmond, Ethernet or PCIe flit is in flight (R360). -/
def Links.flight (x : Links) : Bool := x.ports.any (fun p => p.2.flight) || !x.ether.isEmpty || x.pcie

/-- Bits 8 and 9 of the freeze status register as the links are now (Table 15-4): a link flit is in flight, and resume is
allowed, as no flit is (R360). -/
def State.flightBits (s : State) : Nat := (if s.links.flight then 1 else 2)

/-- The package freezes, with its source recorded (R358). Of two triggers of one cycle the lower source stands; a frozen
package ignores a later one. -/
def State.freezeBy (s : State) (source : Nat) : State :=
  if s.freeze.frozen then
    if s.freeze.sameCycle && decide (source < slice s.freeze.status 2 0) then
      { s with freeze := { s.freeze with status := putSlice s.freeze.status 0 3 source } }
    else s
  else
    let stop := 64 * (Config.stopCycles s.fresh).toNat + 0x100 * s.flightBits
    { s with
      freeze := { s.freeze with frozen := true, sameCycle := true, status := BitVec.ofNat 32 (source + stop) }
      fresh := s.fresh + 1 }

/-- The clocks stop at the end of the cycle of the trigger: the status register tells of the flits that are then in flight
(R358-R360). -/
def State.stopClocks (s : State) : State :=
  if s.freeze.frozen && s.freeze.sameCycle then
    { s with freeze := { s.freeze with sameCycle := false, status := putSlice s.freeze.status 8 2 s.flightBits } }
  else s

/-- Who an access is made for: what the reports of Table 12-6 name, and what translation and sealing use. -/
structure Who where
  core   : Nat
  domain : BitVec 16
  keyid  : BitVec 10
  priv   : Priv
  launch : Nat
  deriving DecidableEq, Repr

/-- No consumer (Table 12-6). -/
def Who.nobody : Who := ⟨0, 0xFFFF#16, 0#10, .h, 0⟩

/-- The strand in a slot of core c, as a consumer. -/
def Strand.who (st : Strand) (c : Nat) : Who := ⟨c, st.domain, st.keyid, st.mode, st.launch⟩

/-- An entry is posted (R298), which may stop the clocks (R358); a full queue drops it and counts. -/
def State.postFault (s : State) (e : FaultEntry) : State :=
  if s.faultQ.length < 1024 then
    let s := { s with faultQ := s.faultQ ++ [e] }
    if s.freeze.armedQueue then s.freezeBy 3 else s
  else { s with overflows := s.overflows + 1#64 }

/-- An entry on a physical address (Table 12-6). -/
def State.post (s : State) (w : Who) (pa : Nat) (cause : Nat) : State :=
  s.postFault ⟨pa / 32 * 32, cause, sourceOf pa, w.domain, BitVec.ofNat 32 w.launch⟩

/-- The reports that an access added are given another source (Table 12-6: 14 link, 15 host, 16 compaction). -/
def State.fromSource (before after : State) (n : Nat) : State :=
  let k := before.faultQ.length
  { after with faultQ := after.faultQ.take k ++ (after.faultQ.drop k).map fun e => { e with source := n } }

/-! ### Checked physical accesses (R291, R296, R297) -/

/-- A failure of an access: cause and detail of TRAPCAUSE (Table 13-2). -/
abbrev Fail := Cause × Nat

/-- What a key identifier seals with: the identifier and its set of keys (R291). -/
def State.sealOf (s : State) (k : BitVec 10) : Nat := 1 + k.toNat + 1024 * Assoc.get 0 s.keyEpoch k.toNat

/-- Whether the tier-1 unit of pa reads under a consumer's key: it was sealed with that key and key set. A unit that nothing
has sealed reads under no key (log 11). -/
def State.unitOk (s : State) (w : Who) (pa : Nat) : Bool :=
  pa < 2 ^ 40 || Assoc.get 0 s.mem.sealed (pa / 256) == s.sealOf w.keyid

/-- An access of a consumer is served at once at pa; where its bank set is asleep the stall is counted at the controller and
for its launch (R284, R289; log 17). -/
def State.serve (s : State) (w : Who) (pa : Nat) : State :=
  if s.asleep pa then ((s.countStack (pa / 2 ^ 36) 0x104).addStall ⟨w.launch, w.core, 0, 0, 0, s.timePs⟩).touch pa
  else s.touch pa

/-- Whether sector n can be consumed: its unit reads under the key, it has no poison, its code is that of its bytes. -/
def State.sectorGood (s : State) (w : Who) (n : Nat) : Bool :=
  s.unitOk w (32 * n) && !s.mem.poison.contains n && Assoc.get 0#16 s.mem.codeErr n == 0#16

/-- Consumption of sector n (R296, R297): none when it is good, else the cause. A mismatch poisons the sector. -/
def State.consume (s : State) (w : Who) (n : Nat) : State × Option Cause :=
  let s := s.serve w (32 * n)
  if !s.unitOk w (32 * n) then (s.post w (32 * n) 0x16, some .integrity)
  else if s.mem.poison.contains n then (s.post w (32 * n) 0x17, some .uncorrectable)
  else if Assoc.get 0#16 s.mem.codeErr n ≠ 0#16 then
    (({ s with mem := s.mem.setPoison n true }).post w (32 * n) 0x16, some .integrity)
  else (s, none)

/-- Sectors consumed in ascending order; the first failure. -/
def State.consumeAll (w : Who) : List Nat → State → State × Option Cause
  | [], s => (s, none)
  | n :: ns, s =>
    match s.consume w n with
    | (s, some c) => ((State.consumeAll w ns s).1, some c)
    | (s, none) => State.consumeAll w ns s

/-- The sectors of n bytes from pa on. -/
def sectorsOf (pa n : Nat) : List Nat :=
  if n = 0 then [] else (List.range ((pa + n - 1) / 32 - pa / 32 + 1)).map (· + pa / 32)

/-- A read of n bytes at pa. -/
def State.readPhys (s : State) (w : Who) (pa n : Nat) : State × Except Fail (List Byte) :=
  match State.consumeAll w (sectorsOf pa n) s with
  | (s, some c) => (s, .error (c, 0))
  | (s, none) => (s, .ok (s.mem.bytes pa n))

/-- A write of bytes that lie in sector n. A write of the whole sector makes a new code and clears poison; a part is
merged with a good sector, and not performed on another (R296, R297). -/
def State.writeSector (s : State) (w : Who) (n : Nat) (pa : Nat) (bs : List Byte) : State × Option Cause :=
  if bs.length = 32 then
    let s := s.serve w pa
    ({ s with mem := ((s.mem.poke pa bs).setPoison n false).newCode n }, none)
  else
    match s.consume w n with
    | (s, some c) => (s, some c)
    | (s, none) => ({ s with mem := s.mem.poke pa bs }, none)

/-- A write sector by sector; the first failure, with its address. Sectors that fail are not written, the others are. -/
def State.writeSectors (w : Who) : Nat → Nat → List Byte → State → State × Option (Cause × Nat)
  | 0, _, _, s => (s, none)
  | fuel + 1, pa, bs, s =>
    if bs.isEmpty then (s, none)
    else
      let k := 32 - pa % 32
      match s.writeSector w (pa / 32) pa (bs.take k) with
      | (s, some c) => ((State.writeSectors w fuel (pa + k) (bs.drop k) s).1, some (c, pa))
      | (s, none) => State.writeSectors w fuel (pa + k) (bs.drop k) s

/-- A write within one tier-1 unit of 256 bytes: a whole unit is sealed anew, a part needs a unit that reads under
the writer's key (R291). Tier 0 has no units. -/
def State.writeUnit (s : State) (w : Who) (pa : Nat) (bs : List Byte) : State × Option (Cause × Nat) :=
  if 2 ^ 40 ≤ pa then
    if bs.length = 256 then
      State.writeSectors w 9 pa bs
        { s with mem := { s.mem with sealed := Assoc.set s.mem.sealed (pa / 256) (s.sealOf w.keyid) } }
    else if s.unitOk w pa then State.writeSectors w 9 pa bs s
    else (s.post w pa 0x16, some (.integrity, pa))
  else State.writeSectors w 9 pa bs s

/-- A write unit by unit. -/
def State.writeUnits (w : Who) : Nat → Nat → List Byte → State → State × Option (Cause × Nat)
  | 0, _, _, s => (s, none)
  | fuel + 1, pa, bs, s =>
    if bs.isEmpty then (s, none)
    else
      let k := 256 - pa % 256
      match s.writeUnit w pa (bs.take k) with
      | (s, some c) => ((State.writeUnits w fuel (pa + k) (bs.drop k) s).1, some c)
      | (s, none) => State.writeUnits w fuel (pa + k) (bs.drop k) s

/-- A write of bytes at pa; the first failure, with its address. -/
def State.writeAt (s : State) (w : Who) (pa : Nat) (bs : List Byte) : State × Option (Cause × Nat) :=
  State.writeUnits w (bs.length / 256 + 2) pa bs s

/-- A write of bytes at pa. -/
def State.writePhys (s : State) (w : Who) (pa : Nat) (bs : List Byte) : State × Except Fail Unit :=
  match s.writeAt w pa bs with
  | (s, some c) => (s, .error (c.1, 0))
  | (s, none) => (s, .ok ())

/-! ### Translation (R300-R302) -/

/-- What an access does. -/
inductive Access where
  | read | write | exec
  deriving DecidableEq, Repr

/-- The detail of a translation or protection fault: stage and level (Table 13-2, bits 8 and 10:9 from bit 8 on). -/
def walkDetail (stage2 : Bool) (level : Nat) : Nat := (if stage2 then 1 else 0) + 2 * level

/-- First address bit below a level's index: 39, 30, 21, 16. -/
def levelShift : Nat → Nat
  | 0 => 39 | 1 => 30 | 2 => 21 | _ => 16

/-- Index of an address at a level: 13, 9, 9 and 5 bits. -/
def levelIndex (va : Nat) : Nat → Nat
  | 0 => va / 2 ^ 39 % 2 ^ 13
  | 1 => va / 2 ^ 30 % 2 ^ 9
  | 2 => va / 2 ^ 21 % 2 ^ 9
  | _ => va / 2 ^ 16 % 2 ^ 5

/-- One level of the walk on an entry (R301): none descends, else the leaf or the fault. -/
def checkEntry (e : Nat) (level : Nat) : Except Unit (Option Unit) :=
  let bit (i : Nat) : Bool := e.testBit i
  let tier := e / 64 % 4
  let addr := e / 4096 % 2 ^ 40 * 4096
  if !bit 0 then .error ()
  else if e / 2 ^ 52 ≠ 0 ∨ e / 256 % 16 ≠ 0 ∨ bit 5 then .error ()
  else if (level = 0 ∧ bit 1) ∨ (level = 3 ∧ !bit 1) then .error ()
  else if bit 1 then
    if addr % 2 ^ levelShift level ≠ 0 then .error ()
    else if tierOf addr ≠ some tier then .error ()
    else .ok (some ())
  else if tier ≠ 0 then .error () else .ok none

/-- The walk from a table at a level down, with the levels left (R300); entries are read as the accesses they are. -/
def State.walkFrom (w : Who) (domain va : Nat) (stage2 : Bool) : Nat → Nat → Nat → State → State × Except Fail TlbEntry
  | 0, level, _, s => (s, .error (.translation, walkDetail stage2 level))
  | fuel + 1, level, table, s =>
    match s.readPhys w (table + 8 * levelIndex va level) 8 with
    | (s, .error f) => (s, .error f)
    | (s, .ok bs) =>
      let e := natOf bs
      let addr := e / 4096 % 2 ^ 40 * 4096
      match checkEntry e level with
      | .error () => (s, .error (.translation, walkDetail stage2 level))
      | .ok none => State.walkFrom w domain va stage2 fuel (level + 1) addr s
      | .ok (some ()) =>
        let size := 2 ^ levelShift level
        (s, .ok ⟨domain, stage2, va / size * size, size, addr, e.testBit 4, e.testBit 3, e.testBit 2, level, true⟩)

/-- The domain table's entry (R300); a domain without one has roots 0. -/
def State.domainEntry (s : State) (d : Nat) : Domain := Assoc.get ⟨0, 0, 0#10, []⟩ s.domains d

/-- Whether a TLB entry translates an address. -/
def TlbEntry.covers (t : TlbEntry) (domain : Nat) (stage2 : Bool) (va : Nat) : Bool :=
  t.domain == domain && t.stage2 == stage2 && t.va ≤ va && va < t.va + t.size

/-- A TLB in which entry t has been used last: once every entry of a full TLB counts as used, only t does, and the others may be
replaced again (R302: pseudo-least-recently-used; which form of it, DESIGN CHOICE, log 18). -/
def settleUse (t : TlbEntry) (xs : List TlbEntry) : List TlbEntry :=
  if 512 ≤ xs.length ∧ xs.all TlbEntry.used then xs.map fun u => { u with used := decide (u = t) } else xs

/-- An entry of the TLB is used. -/
def CoreSt.useTlb (k : CoreSt) (t : TlbEntry) : CoreSt :=
  if t.used then k
  else
    let u := { t with used := true }
    { k with tlb := settleUse u (k.tlb.map fun x => if x = t then u else x) }

/-- An entry, used just now, put in a TLB of 512 (R302): where it is full it takes the place of the oldest that is not used. -/
def CoreSt.fillTlb (k : CoreSt) (t : TlbEntry) : CoreSt :=
  let kept := if k.tlb.length < 512 then k.tlb else (k.tlb.reverse.eraseP fun u => !u.used).reverse.take 511
  { k with tlb := settleUse t (t :: kept) }

/-- One stage of the translation for the TLB of core c: the entry of the TLB, or that of a walk, which fills it and is
counted (R302, R303). -/
def State.stage (s : State) (w : Who) (root : Nat) (stage2 : Bool) (va : Nat) : State × Except Fail TlbEntry :=
  match (s.core w.core).tlb.find? fun t => t.covers w.domain.toNat stage2 va with
  | some t => (if t.used then s else s.modCore w.core fun k => k.useTlb t, .ok t)
  | none =>
    match State.walkFrom w w.domain.toNat va stage2 4 0 root (s.countStack (coreStack w.core) 12) with
    | (s, .error f) => (s, .error f)
    | (s, .ok t) => (s.modCore w.core fun k => k.fillTlb t, .ok t)

/-- Whether a leaf forbids an access (R301). -/
def TlbEntry.forbids (t : TlbEntry) (w : Who) (a : Access) : Bool :=
  (a == .write && !t.write) || (a == .exec && !t.exec) || (w.priv == .u && !t.user)

/-- The physical address of a virtual address for an access (R300, R301). Tables of stage 1 lie at physical addresses
(log 19). -/
def State.translate (s : State) (w : Who) (va : Nat) (a : Access) : State × Except Fail Nat :=
  if 2 ^ 52 ≤ va then (s, .error (.translation, 0))
  else
    let d := s.domainEntry w.domain.toNat
    match s.stage w d.root1 false va with
    | (s, .error f) => (s, .error f)
    | (s, .ok t) =>
      if t.forbids w a then (s, .error (.protection, walkDetail false t.ulevel))
      else
        let pa := t.pa + (va - t.va)
        if d.root2 = 0 then
          if (tierOf pa).isSome then (s, .ok pa) else (s, .error (.translation, walkDetail false t.ulevel))
        else
          match s.stage w d.root2 true pa with
          | (s, .error f) => (s, .error f)
          | (s, .ok u) =>
            if u.forbids w a then (s, .error (.protection, walkDetail true u.ulevel))
            else
              let pa := u.pa + (pa - u.va)
              if (tierOf pa).isSome then (s, .ok pa) else (s, .error (.translation, walkDetail true u.ulevel))

/-- A read of n bytes within one page at a virtual address. -/
def State.readPage (s : State) (w : Who) (va n : Nat) (a : Access := .read) : State × Except Fail (List Byte) :=
  match s.translate w va a with
  | (s, .error f) => (s, .error f)
  | (s, .ok pa) => s.readPhys w pa n

/-- A read of n bytes, page by page of 64 KiB. -/
def State.readVirt (w : Who) (a : Access) : Nat → Nat → Nat → State → State × Except Fail (List Byte)
  | 0, _, _, s => (s, .ok [])
  | fuel + 1, va, n, s =>
    if n = 0 then (s, .ok [])
    else
      let k := min n (65536 - va % 65536)
      match s.readPage w va k a with
      | (s, .error f) => (s, .error f)
      | (s, .ok bs) =>
        match State.readVirt w a fuel (va + k) (n - k) s with
        | (s, .error f) => (s, .error f)
        | (s, .ok cs) => (s, .ok (bs ++ cs))

/-- A read of n bytes at a virtual address. -/
def State.readV (s : State) (w : Who) (va n : Nat) (a : Access := .read) : State × Except Fail (List Byte) :=
  State.readVirt w a (n / 65536 + 2) va n s

/-- A write, page by page of 64 KiB; the failing address with the fault (R324). -/
def State.writeVirt (w : Who) : Nat → Nat → List Byte → State → State × Except (Fail × Nat) Unit
  | 0, _, _, s => (s, .ok ())
  | fuel + 1, va, bs, s =>
    if bs.isEmpty then (s, .ok ())
    else
      let k := 65536 - va % 65536
      match s.translate w va .write with
      | (s, .error f) => (s, .error (f, va))
      | (s, .ok pa) =>
        match s.writeAt w pa (bs.take k) with
        | (s, some (f, at_)) => (s, .error ((f, 0), va + (at_ - pa)))
        | (s, none) => State.writeVirt w fuel (va + k) (bs.drop k) s

/-- A write of bytes at a virtual address. -/
def State.writeV (s : State) (w : Who) (va : Nat) (bs : List Byte) : State × Except (Fail × Nat) Unit :=
  State.writeVirt w (bs.length / 65536 + 2) va bs s

/-! ### Row stores (R162, R163, R175) -/

/-- The physical address of a byte of a row store. -/
def Table.pa (t : Table) (off : Nat) : Nat := t.pages.getD (off / 65536) 0 * 65536 + off % 65536

/-- Where a physical address lies in a row store: the table's local number, and of a destroyed table its place among the old
stores, which count while they are not returned (R160). -/
structure StorePlace where
  old   : Option Nat
  num   : Nat
  table : Table
  off   : Nat
  deriving DecidableEq, Repr

/-- The place of a page in a list of pages. -/
def pageIndex (p : Nat) (ps : List Nat) : Option Nat := ps.findIdx? (· == p)

/-- The first of a list of stores that holds a page: its name, and the page's place in it. -/
def findStore {α : Type} (p : Nat) : List (α × Table) → Option (α × Table × Nat)
  | [] => none
  | (n, t) :: xs =>
    match pageIndex p t.pages with
    | some i => some (n, t, i)
    | none => findStore p xs

/-- The row store that holds a physical address. -/
def State.storeAt (s : State) (pa : Nat) : Option StorePlace :=
  let olds := (s.oldStores.zipIdx.filter fun x => !x.1.returned).map fun x => ((x.2, x.1.num), x.1.table)
  match findStore (pa / 65536) s.tables with
  | some (n, t, i) => some ⟨none, n, t, i * 65536 + pa % 65536⟩
  | none =>
    match findStore (pa / 65536) olds with
    | some ((o, n), t, i) => some ⟨some o, n, t, i * 65536 + pa % 65536⟩
    | none => none

/-- Whether a store has rows with bounds (R175). -/
def StorePlace.hasRows (x : StorePlace) : Bool := x.table.desc.kind == 1 || x.table.desc.kind == 2

/-! ### Blocks of the paged store (R292, R293) -/

/-- An entry of the block table (Table 12-5). -/
structure BlockEntry where
  valid : Bool
  tier  : Nat
  cls   : Nat
  slot  : Nat
  deriving DecidableEq, Repr

/-- The entry that the block table holds for global block n. -/
def State.blockEntry (s : State) (n : Nat) : BlockEntry :=
  let e := natOf (s.mem.bytes (s.blockBase + 8 * n) 8)
  ⟨e.testBit 63, e / 2 ^ 62 % 2, e / 2 ^ 60 % 4, e / 2 ^ 12 % 2 ^ 36 * 4096⟩

/-- The 16 KiB frame of physical memory that a global block number names among those of row stores (R162; log 35). -/
def rowFrame (n : Nat) : Nat := (n + (2 ^ 37 - Config.rowBlockBase % 2 ^ 37)) % 2 ^ 37

/-- The global block number of a frame of a row store. -/
def rowBlock (f : Nat) : Nat := (Config.rowBlockBase + f) % 2 ^ 37

/-- The entry of global block n that an access finds: that of the block table, else that of a frame of a row store with rows,
which stays where it is (R162; log 35). -/
def State.entryOf (s : State) (n : Nat) : BlockEntry :=
  let pa := 16384 * rowFrame n
  if (s.blockEntry n).valid then s.blockEntry n
  else match s.storeAt pa with
    | some p => if p.hasRows then ⟨true, if pa < 2 ^ 39 then 0 else 1, 3, pa⟩ else s.blockEntry n
    | none => s.blockEntry n

/-- The sector in which the entry of global block n lies. -/
def State.entrySector (s : State) (n : Nat) : Nat := (s.blockBase + 8 * n) / 32

/-- The entry of global block n as an engine reads it: its sector is consumed, and an entry that is not valid is
*translation* (R292, R296). -/
def State.readEntry (s : State) (w : Who) (n : Nat) : State × Except Fail BlockEntry :=
  match s.consume w (s.entrySector n) with
  | (s, some c) => (s, .error (c, 0))
  | (s, none) => if (s.blockEntry n).valid then (s, .ok (s.blockEntry n)) else (s, .error (.translation, 0))

/-- The entry of global block n that an access finds, read in the same way. -/
def State.findBlock (s : State) (w : Who) (n : Nat) : State × Except Fail BlockEntry :=
  match s.consume w (s.entrySector n) with
  | (s, some c) => (s, .error (c, 0))
  | (s, none) => if (s.entryOf n).valid then (s, .ok (s.entryOf n)) else (s, .error (.translation, 0))

/-- The 64 bits of an entry. -/
def BlockEntry.code (e : BlockEntry) : Nat :=
  (if e.valid then 2 ^ 63 else 0) + e.tier * 2 ^ 62 + e.cls * 2 ^ 60 + e.slot

/-- Entry n written at one instant; the step that writes it has read it, and so checked its sector. -/
def State.setBlockEntry (s : State) (n : Nat) (e : BlockEntry) : State :=
  { s with mem := s.mem.poke (s.blockBase + 8 * n) (bytesOf 8 e.code) }

/-- The owning stack of a block (R162). -/
def BlockEntry.stack (e : BlockEntry) (n : Nat) : Nat := if e.tier = 0 then e.slot / 2 ^ 36 % 8 else n % 8

/-- Sectors of the slot of a block. -/
def BlockEntry.sectors (e : BlockEntry) : Nat := 128 * (e.cls + 1)

/-- The map of a packed block: its 64 bytes as bits. -/
def State.blockMap (s : State) (e : BlockEntry) : Nat := natOf (s.mem.bytes e.slot 64)

/-- The sectors of the map that place sector i of a block: the first, and from sector 256 on the second (R293). -/
def BlockEntry.mapSectors (e : BlockEntry) (i : Nat) : List Nat :=
  if e.cls = 3 then [] else if i < 256 then [e.slot / 32] else [e.slot / 32, e.slot / 32 + 1]

/-- Number of 1 bits of x below n. -/
def onesBelow (x : Nat) : Nat → Nat
  | 0 => 0
  | n + 1 => onesBelow x n + (if x.testBit n then 1 else 0)

/-- The physical sector number of sector i of a block; none: a sector not held, which reads zero (R293). -/
def State.blockSector (s : State) (e : BlockEntry) (i : Nat) : Option Nat :=
  if e.cls = 3 then some (e.slot / 32 + i)
  else
    let m := s.blockMap e
    if m.testBit i then some (e.slot / 32 + 2 + onesBelow m i) else none

/-- The sectors of a block as they lie. -/
def State.blockSectors (s : State) (e : BlockEntry) : List Sector :=
  (List.range 512).map fun i =>
    match s.blockSector e i with
    | some n => s.mem.sector n
    | none => Sector.zero

/-- Whether a sector must be held. -/
def Sector.held (x : Sector) : Bool := decide (x ≠ Sector.zero)

/-- Number of held sectors. -/
def heldCount (xs : List Sector) : Nat := (xs.filter Sector.held).length

/-- The class a block with z held sectors fits (R293). -/
def classFor (z : Nat) : Nat :=
  if 64 + 32 * z ≤ 4096 then 0 else if 64 + 32 * z ≤ 8192 then 1 else if 64 + 32 * z ≤ 12288 then 2 else 3

/-- Sectors put in consecutive places. -/
def Mem.putSectors (m : Mem) : Nat → List Sector → Mem
  | _, [] => m
  | n, x :: xs => (m.putSector n x).putSectors (n + 1) xs

/-- The bits of a map as a number. -/
def mapBits : List Sector → Nat
  | [] => 0
  | x :: xs => (if x.held then 1 else 0) + 2 * mapBits xs

/-- A block's sectors in the form of a class: whole, or its map and the held ones (R293). -/
def packSectors (cls : Nat) (xs : List Sector) : List Sector :=
  if cls = 3 then xs
  else
    let bits := bytesOf 64 (mapBits xs)
    ⟨bits.take 32, 0#16, false⟩ :: ⟨bits.drop 32, 0#16, false⟩ :: xs.filter Sector.held

/-- Sectors made whole tier-1 units of eight, with zeros behind them (DESIGN CHOICE, log 63). -/
def wholeUnits (xs : List Sector) : List Sector := xs ++ List.replicate ((8 - xs.length % 8) % 8) Sector.zero

/-- An access of a consumer to the slot of a block is served at once, at the bank sets of both its ends. -/
def State.serveSlot (s : State) (w : Who) (e : BlockEntry) : State :=
  (s.serve w e.slot).serve w (e.slot + 32 * e.sectors - 1)

/-- Sectors laid in a slot from its first on, for a consumer; its bank sets are active first (log 17). In tier 1 the units
written, and no other, are sealed with a key. -/
def State.laySlot (s : State) (w : Who) (e : BlockEntry) (key : Nat) (xs : List Sector) : State :=
  let s := s.serveSlot w e
  if e.tier = 1 then
    let xs := wholeUnits xs
    let m := s.mem.putSectors (e.slot / 32) xs
    { s with mem := { m with
      sealed := (List.range (xs.length / 8)).foldl (fun q i => Assoc.set q (e.slot / 256 + i) key) m.sealed } }
  else { s with mem := s.mem.putSectors (e.slot / 32) xs }

/-- Sectors of the slot of a block that are in use: its map and those held, or all of them (R293). -/
def State.usedCount (s : State) (e : BlockEntry) : Nat :=
  if e.cls = 3 then 512 else min e.sectors (2 + onesBelow (s.blockMap e) 512)

/-- The free slots of a class: of tier 0, or of tier 1 (R292). -/
def Stack.slots (x : Stack) (tier cls : Nat) : List Nat := Assoc.get [] x.free (4 * tier + cls)

/-- A free list replaced. -/
def Stack.setSlots (x : Stack) (tier cls : Nat) (l : List Nat) : Stack :=
  { x with free := Assoc.put [] x.free (4 * tier + cls) l }

/-- The block moves: the sectors given are laid in the first free slot of a class, the entry changes at one instant, and the
old slot returns to its list; none without a free slot (R293-R295). -/
def State.moveBlock (s : State) (w : Who) (n : Nat) (e : BlockEntry) (st tier cls : Nat) (key : Nat)
    (xs : List Sector) : Option State :=
  match (s.stackOf st).slots tier cls with
  | [] => none
  | slot :: rest =>
    let s := s.modStack st fun x => x.setSlots tier cls rest
    let e' : BlockEntry := ⟨true, tier, cls, slot⟩
    let s := (s.laySlot w e' key xs).setBlockEntry n e'
    some (s.modStack (e.stack n) fun x => x.setSlots e.tier e.cls (x.slots e.tier e.cls ++ [e.slot]))

/-- A read of bytes within one sector of block n at an offset. -/
def State.readBlock (s : State) (w : Who) (n off len : Nat) : State × Except Fail (List Byte) :=
  match s.findBlock w n with
  | (s, .error f) => (s, .error f)
  | (s, .ok e) =>
    match State.consumeAll w (e.mapSectors (off / 32)) s with
    | (s, some c) => (s, .error (c, 0))
    | (s, none) =>
      match s.blockSector e (off / 32) with
      | none => (s, .ok (List.replicate len 0#8))
      | some k => s.readPhys w (32 * k + off % 32) len

/-- The first unit in use of a tier-1 slot that does not read under a consumer's key. -/
def State.sealedOtherwise (s : State) (w : Who) (e : BlockEntry) : Option Nat :=
  if e.tier = 1 then ((List.range (ceilDiv (s.usedCount e) 8)).map fun i => e.slot + 256 * i).find? fun pa => !s.unitOk w pa
  else none

/-- A packed block laid anew, because the sectors that it holds change: both sectors of its map, and in tier 1 every unit in
use of its slot, are checked first. It stays in its slot, or moves to one of the class that it has outgrown its own for. -/
def State.repack (s : State) (w : Who) (n : Nat) (e : BlockEntry) (i : Nat) (new : List Byte) :
    Option (State × Except Fail Unit) :=
  match State.consumeAll w (e.mapSectors 511) s with
  | (s, some c) => some (s, .error (c, 0))
  | (s, none) =>
    match s.sealedOtherwise w e with
    | some pa => some (s.post w pa 0x16, .error (.integrity, 0))
    | none =>
      let s := s.serveSlot w e
      let xs := (s.blockSectors e).set i ⟨new, 0#16, false⟩
      let cls := classFor (heldCount xs)
      let key := s.sealOf w.keyid
      if cls ≤ e.cls then some (s.laySlot w e key (packSectors e.cls xs), .ok ())
      else
        match (s.countStack (e.stack n) 11).moveBlock w n e (e.stack n) e.tier cls key (packSectors cls xs) with
        | some s => some (s, .ok ())
        | none => none

/-- A write of bytes within one sector of block n at an offset. none: the block outgrows its class and no slot of the
needed class is free, so the write waits (log 21). -/
def State.writeBlock (s : State) (w : Who) (n off : Nat) (bs : List Byte) : Option (State × Except Fail Unit) :=
  match s.findBlock w n with
  | (s, .error f) => some (s, .error f)
  | (s, .ok e) =>
    if e.cls = 3 then some (s.writePhys w (e.slot + off) bs)
    else
      match State.consumeAll w (e.mapSectors (off / 32)) s with
      | (s, some c) => some (s, .error (c, 0))
      | (s, none) =>
        match s.blockSector e (off / 32) with
        | some k =>
          if bs.length = 32 then
            if bs = Sector.zero.bytes then s.repack w n e (off / 32) bs else some (s.writePhys w (32 * k) bs)
          else
            (match s.consume w k with
             | (s, some c) => some (s, .error (c, 0))
             | (s, none) =>
               let old := s.mem.bytes (32 * k) 32
               let new := old.take (off % 32) ++ bs ++ old.drop (off % 32 + bs.length)
               if new = Sector.zero.bytes then s.repack w n e (off / 32) new
               else some (s.writePhys w (32 * k + off % 32) bs))
        | none =>
          let new := List.replicate (off % 32) 0#8 ++ bs ++ List.replicate (32 - off % 32 - bs.length) 0#8
          if new = Sector.zero.bytes then some (s, .ok ()) else s.repack w n e (off / 32) new

end Sys2Proof.Machine
end

