-- ==== Sys2Proof/Machine/Tables.lean ====
section
/-! DEFINITION. Tables as data: handles, row references, row stores, ordered indexes as B+ trees, and the index
operations of an engine on one key (R156-R174). -/

namespace Sys2Proof.Machine

/-! ### Entry order and B+ trees (R164, R165) -/

/-- Entry order. -/
def Entry.lt (x y : Entry) : Bool := decide (x.key < y.key) || (x.key == y.key && decide (x.ref < y.ref))

/-- An entry put in a list in entry order. -/
def insertEntry (e : Entry) : List Entry → List Entry
  | [] => [e]
  | x :: xs => if e.lt x then e :: x :: xs else x :: insertEntry e xs

/-- Node splits, merges and redistributions of an operation (R192). -/
structure Tally where
  splits : Nat
  merges : Nat
  shifts : Nat
  deriving DecidableEq, Repr

/-- Sum of two tallies. -/
def Tally.plus (x y : Tally) : Tally := ⟨x.splits + y.splits, x.merges + y.merges, x.shifts + y.shifts⟩

/-- The node and the place in it of child i of a level; a node of n separators has n + 1 children. -/
def locate : List (List Entry) → Nat → Nat × Nat
  | [], _ => (0, 0)
  | x :: xs, i =>
    if i ≤ x.length then (0, i)
    else
      let r := locate xs (i - (x.length + 1))
      (r.1 + 1, r.2)

/-- The first child of node n of a level. -/
def firstChild : List (List Entry) → Nat → Nat
  | [], _ => 0
  | _, 0 => 0
  | x :: xs, n + 1 => x.length + 1 + firstChild xs n

/-- The leaf in which an entry lies or belongs: descent from the root; a separator is the least of its right side. -/
def descend (e : Entry) : List (List (List Entry)) → Nat → Nat
  | [], i => i
  | nodes :: down, i =>
    let node := nodes.getD i []
    descend e down (firstChild nodes i + (node.filter fun x => !e.lt x).length)

/-- Two members of a list in place of member i. -/
def splitAt2 {α : Type} (xs : List α) (i : Nat) (a b : α) : List α := xs.take i ++ [a, b] ++ xs.drop (i + 1)

/-- One member in place of members i and i + 1. -/
def mergeAt {α : Type} (xs : List α) (i : Nat) (a : α) : List α := xs.take i ++ [a] ++ xs.drop (i + 2)

/-- A separator enters the levels above the child that split (R165, interior split). -/
def insertSep (c : Nat) : List (List (List Entry)) → Nat → Entry → List (List (List Entry)) × Nat
  | [], _, sep => ([[[sep]]], 0)
  | nodes :: up, i, sep =>
    let (n, k) := locate nodes i
    let old := nodes.getD n []
    let node := old.take k ++ sep :: old.drop k
    if node.length ≤ c then (nodes.set n node :: up, 0)
    else
      let r := insertSep c up n (node.getD (c / 2) sep)
      (splitAt2 nodes n (node.take (c / 2)) (node.drop (c / 2 + 1)) :: r.1, r.2 + 1)

/-- Insertion of an entry (R165). -/
def Tree.insert (c : Nat) (t : Tree) (e : Entry) : Tree × Tally :=
  let leaves := if t.leaves.isEmpty then [[]] else t.leaves
  let i := descend e t.levels.reverse 0
  let leaf := insertEntry e (leaves.getD i [])
  if leaf.length ≤ c then (⟨leaves.set i leaf, t.levels⟩, ⟨0, 0, 0⟩)
  else
    let h := (c + 2) / 2
    let right := leaf.drop h
    let r := insertSep c t.levels i (right.headD e)
    (⟨splitAt2 leaves i (leaf.take h) right, r.1⟩, ⟨r.2 + 1, 0, 0⟩)

/-- Repair of node n of a level after it lost a separator (R165: merge, redistribution, root). -/
def fixUp (c : Nat) : List (List (List Entry)) → List (List Entry) → Nat → List (List (List Entry)) × Tally
  | [], nodes, _ => (if nodes == [[]] then [] else [nodes], ⟨0, 0, 0⟩)
  | par :: up, nodes, n =>
    let node := nodes.getD n []
    if c / 2 ≤ node.length then (nodes :: par :: up, ⟨0, 0, 0⟩)
    else
      let (pn, k) := locate par n
      let pnode := par.getD pn []
      let right := decide (k < pnode.length)
      let j := if right then n else n - 1
      let sp := if right then k else k - 1
      let l := nodes.getD j []
      let all := l ++ pnode.getD sp ⟨0, 0⟩ :: nodes.getD (j + 1) []
      if all.length ≤ c then
        let r := fixUp c up (par.set pn (pnode.eraseIdx sp)) pn
        (mergeAt nodes j all :: r.1, Tally.plus ⟨0, 1, 0⟩ r.2)
      else
        let need := c / 2 - node.length
        let len := if right then l.length + need else l.length - need
        let nodes := (nodes.set j (all.take len)).set (j + 1) (all.drop (len + 1))
        (nodes :: par.set pn (pnode.set sp (all.getD len ⟨0, 0⟩)) :: up, ⟨0, 0, 1⟩)

/-- Deletion of an entry (R165). -/
def Tree.delete (c : Nat) (t : Tree) (e : Entry) : Tree × Tally :=
  let i := descend e t.levels.reverse 0
  let leaf := (t.leaves.getD i []).filter (· != e)
  let leaves := t.leaves.set i leaf
  match t.levels with
  | [] => (⟨leaves, []⟩, ⟨0, 0, 0⟩)
  | par :: up =>
    if c / 2 ≤ leaf.length then (⟨leaves, t.levels⟩, ⟨0, 0, 0⟩)
    else
      let (pn, k) := locate par i
      let pnode := par.getD pn []
      let right := decide (k < pnode.length)
      let j := if right then i else i - 1
      let sp := if right then k else k - 1
      let l := leaves.getD j []
      let r := leaves.getD (j + 1) []
      if l.length + r.length ≤ c then
        let q := fixUp c up (par.set pn (pnode.eraseIdx sp)) pn
        (⟨mergeAt leaves j (l ++ r), q.1⟩, Tally.plus ⟨0, 1, 0⟩ q.2)
      else
        let need := c / 2 - leaf.length
        let len := if right then l.length + need else l.length - need
        let r' := (l ++ r).drop len
        (⟨(leaves.set j ((l ++ r).take len)).set (j + 1) r', par.set pn (pnode.set sp (r'.headD e)) :: up⟩, ⟨0, 0, 1⟩)

/-- The entries of a tree in entry order. -/
def Tree.entries (t : Tree) : List Entry := t.leaves.flatten

/-! ### Handles and references (R158-R162) -/

/-- Package of a handle (Table 7-3). -/
def hPackage (h : DWord) : Nat := slice h 63 54
/-- Local number of a handle. -/
def hNumber (h : DWord) : Nat := slice h 53 32
/-- Index selector of a handle. -/
def hSelector (h : DWord) : Nat := slice h 31 24
/-- Generation of a handle. -/
def hGeneration (h : DWord) : Nat := slice h 23 0

/-- A handle of Table 7-3. -/
def makeHandle (package number selector gen : Nat) : DWord :=
  BitVec.ofNat 64 (package * 2 ^ 54 + number * 2 ^ 32 + selector * 2 ^ 24 + gen)

/-- Node capacity c (R165). -/
def Table.nodeCap (t : Table) : Nat := if t.desc.node = 0 then 255 else t.desc.node

/-- Row capacity (Table 7-2). -/
def Table.rowCap (t : Table) : Nat := if t.desc.capacity = 0 then 65536 else t.desc.capacity

/-- Whether a table has index i. -/
def Table.hasIndex (t : Table) (i : Nat) : Bool := decide (i < 4) && t.desc.indexMask.testBit i

/-- Whether index i is unique. -/
def Table.isUnique (t : Table) (i : Nat) : Bool := t.desc.uniqueMask.testBit i

/-- Whether a kind takes an operation (Table 7-1): point lookups and gathers every kind but raw, all others indexed. -/
def kindTakes (kind : Nat) (lookup : Bool) : Bool := kind == 2 || (lookup && (kind == 1 || kind == 3))

/-- Whether a handle names a package of the domain other than this one (R159). -/
def hRemote (h : DWord) : Bool := hPackage h != Config.packageNumber && decide (hPackage h < Config.domainPackages)

/-- The table that a handle of this package makes usable for an operation (R159). -/
def State.usable (s : State) (h : DWord) (lookup : Bool) : Option Table :=
  if hPackage h ≠ Config.packageNumber ∨ hNumber h = 0 ∨ 65535 < hNumber h then none
  else match Assoc.find s.tables (hNumber h) with
    | none => none
    | some t =>
      let sel := if t.desc.kind = 2 then t.hasIndex (hSelector h) else hSelector h == 0
      if t.gen = hGeneration h && sel && kindTakes t.desc.kind lookup then some t else none

/-! ### Row stores (R162, R163, R175) -/

/-- The row of a place. -/
def StorePlace.row (x : StorePlace) : Nat := x.off / x.table.desc.payload

/-- Whether n bytes from a place on lie within its row (R175). -/
def StorePlace.inRow (x : StorePlace) (n : Nat) : Bool :=
  decide (x.off % x.table.desc.payload + n ≤ x.table.desc.payload) && decide (x.row < x.table.rowCap)

/-- Row r of a table. -/
def Table.rowAt (t : Table) (r : Nat) : Row := Assoc.get ⟨.free, 0, 0#32⟩ t.rows r

/-- The words of secondary fields of an indexed table: their offsets (R163). -/
def Table.secondaryWords (t : Table) : List Nat :=
  if t.desc.kind = 2 then
    (if t.hasIndex 2 then [t.desc.sec2, t.desc.sec2 + 1] else []) ++
    (if t.hasIndex 3 then [t.desc.sec3, t.desc.sec3 + 1] else [])
  else []

/-- Whether n words from a place on reach a secondary field of an indexed row (R177); a destroyed table has no index. -/
def StorePlace.hitsField (x : StorePlace) (n : Nat) : Bool :=
  let w := x.off % x.table.desc.payload / 4
  x.old.isNone && x.table.secondaryWords.any fun f => decide (w ≤ f) && decide (f < w + n)

/-- Table number n changed. -/
def State.modTable (s : State) (n : Nat) (f : Table → Table) : State :=
  match Assoc.find s.tables n with
  | some t => { s with tables := Assoc.set s.tables n (f t) }
  | none => s

/-- A row of a table with n added to its version; rows of other kinds, and free storage, have none (R163). -/
def Table.bump (t : Table) (r n : Nat) : Table :=
  if t.desc.kind = 2 && (t.rowAt r).state != .free then
    let x := t.rowAt r
    { t with rows := Assoc.set t.rows r { x with version := x.version + BitVec.ofNat 32 n } }
  else t

/-- The version of the row of a place raised by n. -/
def State.bumpAt (s : State) (x : StorePlace) (n : Nat) : State :=
  match x.old with
  | some i =>
    { s with oldStores := s.oldStores.zipIdx.map fun o =>
        if o.2 = i then { o.1 with table := o.1.table.bump x.row n } else o.1 }
  | none => s.modTable x.num fun t => t.bump x.row n

/-- A counter of the table's index home engine raised (Table 13-8, group 0x7; R192). -/
def Table.count (t : Table) (k : Nat) (n : Nat := 1) : Table :=
  if n = 0 then t
  else { t with counters := Assoc.put 0#64 t.counters k (Assoc.get 0#64 t.counters k + BitVec.ofNat 64 n) }

/-- A tally added to the counters of splits, merges and redistributions. -/
def Table.tally (t : Table) (x : Tally) : Table := ((t.count 7 x.splits).count 8 x.merges).count 9 x.shifts

/-! ### Index operations on one key -/

/-- The entries of index i in entry order. -/
def Table.index (t : Table) (i : Nat) : List Entry :=
  match i with
  | 0 => t.hash
  | 1 => t.prim.entries
  | 2 => t.sec2.entries
  | _ => t.sec3.entries

/-- First entry of a key. -/
def firstOf (key : Nat) (es : List Entry) : Option Entry := es.find? fun e => e.key == key

/-- The primary index that finds rows by key. -/
def Table.primary (t : Table) : List Entry := if t.hasIndex 0 then t.hash else t.prim.entries

/-- An entry added to index i, with the counters of its splits. -/
def Table.addEntry (t : Table) (i : Nat) (e : Entry) : Table :=
  if !t.hasIndex i then t
  else match i with
    | 0 => { t with hash := insertEntry e t.hash }
    | 1 => let r := t.prim.insert t.nodeCap e; ({ t with prim := r.1 }).tally r.2
    | 2 => let r := t.sec2.insert t.nodeCap e; ({ t with sec2 := r.1 }).tally r.2
    | _ => let r := t.sec3.insert t.nodeCap e; ({ t with sec3 := r.1 }).tally r.2

/-- The entry of a reference taken out of index i. -/
def Table.dropRef (t : Table) (i ref : Nat) : Table :=
  if !t.hasIndex i then t
  else match (t.index i).find? fun e => e.ref == ref with
    | none => t
    | some e =>
      match i with
      | 0 => { t with hash := t.hash.filter (· != e) }
      | 1 => let r := t.prim.delete t.nodeCap e; ({ t with prim := r.1 }).tally r.2
      | 2 => let r := t.sec2.delete t.nodeCap e; ({ t with sec2 := r.1 }).tally r.2
      | _ => let r := t.sec3.delete t.nodeCap e; ({ t with sec3 := r.1 }).tally r.2

/-- The near reference of row r. -/
def Table.refOf (t : Table) (r : Nat) : Nat := t.base + r * t.desc.payload

/-- The row of a near reference to word 0 of a row of the table. -/
def Table.rowOfRef (t : Table) (ref : Nat) : Option Nat :=
  if ref < t.base ∨ (ref - t.base) % t.desc.payload ≠ 0 ∨ t.rowCap ≤ (ref - t.base) / t.desc.payload then none
  else some ((ref - t.base) / t.desc.payload)

/-- The field value at a word offset of a payload (R163). -/
def fieldOf (o : Nat) (ws : List Word) : Nat := (ws.getD o 0#32).toNat + (ws.getD (o + 1) 0#32).toNat * 2 ^ 32

/-- Whether a unique secondary index other than for the row at ref would hold a value twice (R171). -/
def Table.secondaryClash (t : Table) (ref : Option Nat) (ws : List Word) : Bool :=
  let clash (i o : Nat) : Bool :=
    t.hasIndex i && t.isUnique i && (t.index i).any fun e => e.key == fieldOf o ws && some e.ref != ref
  clash 2 t.desc.sec2 || clash 3 t.desc.sec3

/-- A free row storage (R166, R171): the one that the free value names, if it is free, else the lowest (log 12). -/
def Table.freeRow (t : Table) (fresh : Nat) : Option Nat :=
  let free (r : Nat) : Bool := (t.rowAt r).state == .free
  let r := Config.rowChoice fresh % t.rowCap
  if free r then some r else (List.range t.rowCap).find? free

/-- The launches whose threads or operations a core holds, among them those of other packages: of its strands, of those saved
there, of flacons that have arrived, of operations not performed. -/
def CoreSt.launches (k : CoreSt) : List Nat :=
  k.slots.map (fun x => x.2.launch) ++ k.saved.map SavedNote.launch ++
  k.arrived.flatMap (fun a => a.flacons.map fun f => launchName f.package f.launch) ++
  (k.ops.filter fun o => o.todo != 0#64).map Op.launch

/-- Launches of other packages whose threads are here or under way within this package: they are running here (DEDUCED,
log 93). -/
def State.guests (s : State) : List Nat :=
  (((s.cores.flatMap fun k => k.2.launches) ++ s.transit.map fun f => launchName f.package f.launch).filter fun n =>
    !launchOwn n).dedup

/-- The launches that are running (R160, R172): accepted and not complete, or of another package with threads here. -/
def State.running (s : State) : List Nat := (s.launches.filter fun l => !l.2.complete).map (·.1) ++ s.guests

/-- Sectors of words written one after another from an offset of a row store; the first failure. Those that fail are not
written. -/
def State.writeRowFrom (w : Who) (t : Table) : Nat → Nat → List Word → State → State × Option Cause
  | 0, _, _, s => (s, none)
  | n + 1, off, ws, s =>
    match s.writePhys w (t.pa off) (bytesOfWords (ws.take 8)) with
    | (s, .error f) => ((State.writeRowFrom w t n (off + 32) (ws.drop 8) s).1, some f.1)
    | (s, .ok ()) => State.writeRowFrom w t n (off + 32) (ws.drop 8) s

/-- The payload words written over row r of a table, as a whole row (R171); the first failure. -/
def State.writeRow (s : State) (w : Who) (t : Table) (r : Nat) (ws : List Word) : State × Option Cause :=
  State.writeRowFrom w t (t.desc.payload / 32) (r * t.desc.payload) ws s

/-- A payload of P bytes: the words given, zeros after (R171). Words given beyond the payload are dropped (log 73). -/
def Table.payloadOf (t : Table) (ws : List Word) : List Word :=
  (List.range (t.desc.payload / 4)).map fun i => ws.getD i 0#32

/-- What an index operation answers for one lane: the reference written, *duplicate key*, or the failure of the write of a
row (R291). -/
inductive IndexOut where
  | ref (r : Nat)
  | duplicate
  | failed (c : Cause)
  deriving DecidableEq, Repr

/-- LKP on one key, without a paged table's first stage (R170). -/
def Table.lookup (t : Table) (sel key : Nat) : Nat :=
  if t.desc.kind = 1 then (if key < t.rowCap then t.refOf key else 0)
  else match firstOf key (t.index sel) with
    | some e => e.ref
    | none => 0

/-- UPS on a row that exists (R171). Where the row cannot be written no index, no version and no counter changes. An entry is
taken out and put in again even where its key stays (R165; DESIGN CHOICE, log 97). -/
def State.replaceRow (s : State) (w : Who) (num : Nat) (t : Table) (ref : Nat) (ws : List Word) : State × IndexOut :=
  let ws := t.payloadOf ws
  let r := (t.rowOfRef ref).getD 0
  if t.secondaryClash (some ref) ws then (s.modTable num fun t => t.count 6, .duplicate)
  else match s.writeRow w t r ws with
    | (s, some c) => (s, .failed c)
    | (s, none) =>
      let t := (t.dropRef 2 ref).addEntry 2 ⟨fieldOf t.desc.sec2 ws, ref⟩
      let t := (t.dropRef 3 ref).addEntry 3 ⟨fieldOf t.desc.sec3 ws, ref⟩
      let t := (t.bump r 1).count 2
      (s.modTable num fun _ => t, .ref ref)

/-- INS, or UPS that inserts (R171). Where the row cannot be written nothing is inserted. -/
def State.insertRow (s : State) (w : Who) (num : Nat) (t : Table) (key : Nat) (ws : List Word) : State × IndexOut :=
  let ws := t.payloadOf ws
  let clash := (t.isUnique 0 || t.isUnique 1) && (firstOf key t.primary).isSome
  if clash || t.secondaryClash none ws then (s.modTable num fun t => t.count 6, .duplicate)
  else match t.freeRow s.fresh with
    | none => (s.modTable num fun t => t.count 5, .ref 0)
    | some r =>
      match { s with fresh := s.fresh + 1 }.writeRow w t r ws with
      | (s, some c) => (s, .failed c)
      | (s, none) =>
        let ref := t.refOf r
        let x : Row := ⟨.live, key, (t.rowAt r).version + 1#32⟩
        let t := { t with rows := Assoc.set t.rows r x }
        let t := ((t.addEntry 0 ⟨key, ref⟩).addEntry 1 ⟨key, ref⟩).addEntry 2 ⟨fieldOf t.desc.sec2 ws, ref⟩
        let t := (t.addEntry 3 ⟨fieldOf t.desc.sec3 ws, ref⟩).count 1
        (s.modTable num fun _ => t, .ref ref)

/-- INS or UPS on one key (R171). -/
def State.insertKey (s : State) (w : Who) (num : Nat) (t : Table) (ups : Bool) (key : Nat) (ws : List Word) :
    State × IndexOut :=
  match ups, firstOf key t.primary with
  | true, some e => s.replaceRow w num t e.ref ws
  | _, _ => s.insertRow w num t key ws

/-- DEL on one key (R173); the storage keeps the row while the launches now running run (R172). -/
def State.deleteKey (s : State) (num : Nat) (t : Table) (sel key : Nat) : State × Nat :=
  match firstOf key (t.index sel) with
  | none => (s, 0)
  | some e =>
    let r := (t.rowOfRef e.ref).getD 0
    let t := (((t.dropRef 0 e.ref).dropRef 1 e.ref).dropRef 2 e.ref).dropRef 3 e.ref
    let x := t.rowAt r
    let t := { t with rows := Assoc.set t.rows r ⟨.deleted s.running, x.key, x.version + 1#32⟩ }
    (s.modTable num fun _ => t.count 3, e.ref)

/-- REKEY of one row (R174); its entries are taken out and put in again even where the key stays (R165; DESIGN CHOICE,
log 97). -/
def State.rekeyRow (s : State) (num : Nat) (t : Table) (ref key : Nat) : State × IndexOut :=
  match t.rowOfRef ref with
  | none => (s.modTable num fun t => t.count 5, .ref 0)
  | some r =>
    if (t.rowAt r).state != .live then (s.modTable num fun t => t.count 5, .ref 0)
    else if (t.isUnique 0 || t.isUnique 1) && t.primary.any (fun e => e.key == key && e.ref != ref) then
      (s.modTable num fun t => t.count 6, .duplicate)
    else
      let x := t.rowAt r
      let t := ((t.dropRef 0 ref).addEntry 0 ⟨key, ref⟩)
      let t := ((t.dropRef 1 ref).addEntry 1 ⟨key, ref⟩)
      let t := { t with rows := Assoc.set t.rows r { x with key := key, version := x.version + 1#32 } }
      (s.modTable num fun _ => t.count 4, .ref ref)

/-- The entries a step of a cursor passes (R186): after the last returned, or from the floor on, up to hi. -/
def cursorNext (c : Cursor) (es : List Entry) : List Entry :=
  es.filter fun e =>
    decide (e.key ≤ c.hi) &&
    (match c.position with
     | some (k, r) => Entry.lt ⟨k, r⟩ e
     | none => decide (c.floor ≤ e.key))

end Sys2Proof.Machine
end

