-- ==== Sys2Proof/Machine/Scratch.lean ====
section
/-! DEFINITION. Scratch addresses, buffers and their published halves (R193-R205, R232), and future slots with their
bindings (R339-R346). -/

namespace Sys2Proof.Machine

/-! ### Buffers -/

/-- Bytes of a granule (R193). -/
def granuleBytes : Nat := 5120

/-- Bytes of a core's scratch. -/
def scratchBytes : Nat := 327680

/-- The handle of a buffer homed on core c (Table 8-2). -/
def Buffer.handle (b : Buffer) (c : Nat) : Word :=
  BitVec.ofNat 32 (b.first * 2 ^ 26 + (b.count - 1) * 2 ^ 20 + c % 8 * 2 ^ 17 + b.serial)

/-- The home core of a handle, in the cluster of core c. -/
def handleHome (c : Nat) (h : Word) : Nat := 8 * (c / 8) + slice h 19 17

/-- The live buffer that a handle names in the cluster of core c (R195). -/
def State.buffer? (s : State) (c : Nat) (h : Word) : Option Buffer :=
  (s.core (handleHome c h)).buffers.find? fun b => b.handle (handleHome c h) == h

/-- Whether a buffer is held by core c for a block (R195). -/
def Buffer.heldFor (b : Buffer) (c launch : Nat) (block : DWord) : Bool :=
  b.holder == some c && b.launch == launch && b.block == block && !b.parked

/-- The buffer of a handle that core c holds for the block of a strand that is its member. -/
def State.heldBuffer (s : State) (c : Nat) (st : Strand) (h : Word) : Option Buffer :=
  match s.buffer? c h with
  | some b => if st.member && b.heldFor c st.launch st.block then some b else none
  | none => none

/-- Whether a buffer covers granule j. -/
def Buffer.covers (b : Buffer) (j : Nat) : Bool := !b.parked && decide (b.first ≤ j) && decide (j < b.first + b.count)

/-- Whether a granule of a core is free (R200, R205). -/
def CoreSt.granuleFree (k : CoreSt) (j : Nat) : Bool :=
  decide (j < 64) && !k.clearing.contains j && !k.buffers.any fun b => b.covers j

/-- The lowest-numbered run of n free granules (R100, R200). -/
def CoreSt.freeRun (k : CoreSt) (n : Nat) : Option Nat :=
  (List.range (65 - n)).find? fun f => (List.range n).all fun i => k.granuleFree (f + i)

/-- The next allocation serial (R195). -/
def nextSerial (x : Nat) : Nat := if x = 131071 then 1 else x + 1

/-- A buffer replaced, by its serial and first granule. -/
def CoreSt.setBuffer (k : CoreSt) (b : Buffer) : CoreSt :=
  { k with buffers := k.buffers.map fun x => if x.serial = b.serial ∧ x.first = b.first then b else x }

/-- The bytes of a buffer cleared, its granules to be cleared before reuse, and the buffer gone (R204, R205). -/
def CoreSt.dropBuffer (k : CoreSt) (b : Buffer) : CoreSt :=
  { k with
    buffers := k.buffers.filter fun x => !(x.serial == b.serial && x.first == b.first)
    clearing := if b.parked then k.clearing
      else k.clearing ++ (List.range b.count).map (· + b.first) }

/-! ### Access (R196, R232) -/

/-- The core that a scratch address names for a strand of core c (R193). -/
def scratchCore (c : Nat) (x : Nat) : Nat := if x.testBit 23 then c else 8 * (c / 8) + x / 2 ^ 20 % 8

/-- The cores of the cluster of a core. -/
def clusterOf (c : Nat) : List Nat := (List.range 8).map (· + 8 * (c / 8))

/-- Whether a scratch range, named from core c, meets a buffer homed on a core. -/
def Buffer.meets (b : Buffer) (home c x len : Nat) : Bool :=
  scratchCore c x == home && decide (x % 2 ^ 20 < (b.first + b.count) * granuleBytes) &&
  decide (b.first * granuleBytes < x % 2 ^ 20 + len)

/-- The buffer that n bytes at a scratch address lie in, if R196 permits the access: the addressed core and it. -/
def State.scratchAt (s : State) (c launch : Nat) (block : DWord) (member : Bool) (x n : Nat) : Option (Nat × Buffer) :=
  let off := x % 2 ^ 20
  if x / 2 ^ 24 ≠ 0 ∨ scratchBytes ≤ off ∨ !member then none
  else
    let k := scratchCore c x
    match (s.core k).buffers.find? fun b => b.covers (off / granuleBytes) with
    | none => none
    | some b =>
      let top := granuleBytes * (match b.publ with
        | some _ => b.first + b.count / 2
        | none => b.first + b.count)
      if b.heldFor c launch block && decide (off + n ≤ top) then some (k, b) else none

/-- The physical offset behind an offset of a buffer: the visible half, or the shadow for an engine's write (R232). -/
def Buffer.place (b : Buffer) (shadow : Bool) (off : Nat) : Nat :=
  match b.publ with
  | none => off
  | some p => if p.firstVisible = shadow then off + granuleBytes * (b.count / 2) else off

/-- Bytes of scratch of core k at a physical offset. -/
def State.scratchBytesAt (s : State) (k off n : Nat) : List Byte := Assoc.read 0#8 (s.core k).scratch off n

/-- Bytes of scratch of core k replaced. -/
def State.pokeScratch (s : State) (k off : Nat) (bs : List Byte) : State :=
  s.modCore k fun x => { x with scratch := Assoc.splice 0#8 x.scratch off bs }

/-! ### Check codes and poison in scratch (R296, R297) -/

/-- Sector n of scratch has a good code and no poison from now on. -/
def CoreSt.cleanSector (k : CoreSt) (n : Nat) : CoreSt :=
  { k with scratchErr := Assoc.erase k.scratchErr n, scratchPoison := k.scratchPoison.filter (· != n) }

/-- Sector n of scratch is poisoned. -/
def CoreSt.poisonSector (k : CoreSt) (n : Nat) : CoreSt :=
  { k with scratchErr := Assoc.erase k.scratchErr n, scratchPoison := insertNat n k.scratchPoison }

/-- Why sector n of scratch cannot be read; none where its code is good and it has no poison. -/
def CoreSt.badSector (k : CoreSt) (n : Nat) : Option Cause :=
  if k.scratchPoison.contains n then some .uncorrectable
  else if Assoc.get 0#16 k.scratchErr n ≠ 0#16 then some .integrity else none

/-- Consumption of sector n of scratch: a mismatch poisons it. Scratch has no physical address, so no entry is posted
(log 57). -/
def CoreSt.consumeSector (k : CoreSt) (n : Nat) : CoreSt := if (k.badSector n).isSome then k.poisonSector n else k

/-- Why n bytes of scratch at an offset cannot be read: the cause of their first sector that fails. -/
def CoreSt.badRange (k : CoreSt) (off n : Nat) : Option Cause := (sectorsOf off n).findSome? k.badSector

/-- The sectors of n bytes of scratch consumed. -/
def State.consumeScratch (s : State) (k off n : Nat) : State :=
  s.modCore k fun x => (sectorsOf off n).foldl CoreSt.consumeSector x

/-- A read of n bytes of scratch of core k at a physical offset. -/
def State.readScratchAt (s : State) (k off n : Nat) : State × Except Fail (List Byte) :=
  match (s.core k).badRange off n with
  | some c => (s.consumeScratch k off n, .error (c, 0))
  | none => (s, .ok (s.scratchBytesAt k off n))

/-- A write of bytes that lie in one sector of scratch: a whole sector is made anew, a part is merged with a good sector
only. -/
def State.writeScratchSector (s : State) (k off : Nat) (bs : List Byte) : State × Option Cause :=
  if bs.length = 32 then ((s.pokeScratch k off bs).modCore k fun x => x.cleanSector (off / 32), none)
  else match (s.core k).badSector (off / 32) with
    | some c => (s.consumeScratch k off 1, some c)
    | none => (s.pokeScratch k off bs, none)

/-- A write to scratch of core k at a physical offset, sector by sector; the first failure. Sectors that fail are not
written, the others are. -/
def State.writeScratchFrom (k : Nat) : Nat → Nat → List Byte → State → State × Option Cause
  | 0, _, _, s => (s, none)
  | fuel + 1, off, bs, s =>
    if bs.isEmpty then (s, none)
    else
      let n := 32 - off % 32
      match s.writeScratchSector k off (bs.take n) with
      | (s, some c) => ((State.writeScratchFrom k fuel (off + n) (bs.drop n) s).1, some c)
      | (s, none) => State.writeScratchFrom k fuel (off + n) (bs.drop n) s

/-- A write of bytes to scratch of core k at a physical offset. -/
def State.writeScratchAt (s : State) (k off : Nat) (bs : List Byte) : State × Option Cause :=
  State.writeScratchFrom k (bs.length / 32 + 2) off bs s

/-- The sectors of n bytes of scratch poisoned. -/
def State.poisonScratch (s : State) (k off n : Nat) : State :=
  s.modCore k fun x => (sectorsOf off n).foldl CoreSt.poisonSector x

/-- A granule of scratch zero, with good codes and no poison (R205). -/
def CoreSt.clearGranule (k : CoreSt) (g : Nat) : CoreSt :=
  { k with scratch := k.scratch.filter fun x => x.1 / granuleBytes != g
           scratchErr := k.scratchErr.filter fun x => 32 * x.1 / granuleBytes != g
           scratchPoison := k.scratchPoison.filter fun n => 32 * n / granuleBytes != g }

/-- Words written one after another to scratch of core k, each an access of its own (R215); all are tried, the first failure
stands. -/
def State.writeScratchWords (k : Nat) : Nat → List Word → State → State × Option Cause
  | _, [], s => (s, none)
  | off, w :: ws, s =>
    match s.writeScratchAt k off (bytesOf 4 w.toNat) with
    | (s, some c) => ((State.writeScratchWords k (off + 4) ws s).1, some c)
    | (s, none) => State.writeScratchWords k (off + 4) ws s

/-! ### Reads and writes of engines -/

/-- A read of n bytes at a scratch address, if R196 permits it and the sectors are good; else the status. -/
def State.readScratch (s : State) (c launch : Nat) (block : DWord) (member : Bool) (x n : Nat) : Except Nat (List Byte) :=
  match s.scratchAt c launch block member x n with
  | some (k, b) =>
    (match (s.core k).badRange (b.place false (x % 2 ^ 20)) n with
     | some cause => .error cause.code
     | none => .ok (s.scratchBytesAt k (b.place false (x % 2 ^ 20)) n))
  | none => .error 0x18

/-- The sectors that an engine read at a scratch address consumed. -/
def State.markScratch (s : State) (c launch : Nat) (block : DWord) (x n : Nat) : State :=
  match s.scratchAt c launch block true x n with
  | some (k, b) => s.consumeScratch k (b.place false (x % 2 ^ 20)) n
  | none => s

/-- A write at a scratch address, to the shadow half where an engine writes; not performed where R196 forbids it. Where it lies is
judged as it is written, also for one that was in flight when PUBL declared its buffer (R232; DESIGN CHOICE, log 109). -/
def State.writeScratch (s : State) (c launch : Nat) (block : DWord) (shadow : Bool) (x : Nat) (bs : List Byte) :
    State × Option Cause :=
  match s.scratchAt c launch block true x bs.length with
  | some (k, b) => s.writeScratchAt k (b.place shadow (x % 2 ^ 20)) bs
  | none => (s, none)

/-! ### Future slots (R339-R346) -/

/-- A future handle (Table 14-3). -/
def futureHandle (serial core slot : Nat) : DWord := BitVec.ofNat 64 (serial * 2 ^ 32 + core * 2 ^ 8 + slot)

/-- The slot of the future that a value names on core c (R339). -/
def State.named? (s : State) (c : Nat) (v : DWord) : Option (Nat × Future) :=
  if slice v 31 17 ≠ 0 ∨ slice v 16 8 ≠ c then none
  else match Assoc.find (s.core c).futures (slice v 7 0) with
    | some f => if f.serial = slice v 63 32 then some (slice v 7 0, f) else none
    | none => none

/-- A free future slot, the lowest (log 23). -/
def CoreSt.freeFuture (k : CoreSt) : Option Nat :=
  (List.range 256).find? fun i => (Assoc.find k.futures i).isNone

/-- The next future serial: 0 is skipped (R339). -/
def nextFuture (x : Nat) : Nat := if x = 2 ^ 32 - 1 then 1 else x + 1

/-- Whether a wait is on a future slot. -/
def Wait.onFuture (w : Wait) (slot : Nat) : Bool :=
  match w with
  | .future i _ => i == slot
  | _ => false

/-- The registers of group-wide state that a departure takes along (R266). -/
def Departure.registers (d : Departure) : List Nat := (List.range 16).filter fun g => d.live.getLsbD (48 + g)

/-- Whether a wait is that of a departure which takes along the status of a future: its handle stood in a selected register when
the departure began, whatever a handler has made of that register since, or stands there now (R268, R346). -/
def Wait.carries (w : Wait) (st : Strand) (slot serial : Nat) : Bool :=
  match w with
  | .depart d => d.taken.contains (slot, serial) ||
      d.registers.any fun g => slice (st.gr g) 7 0 == slot && slice (st.gr g) 63 32 == serial
  | _ => false

/-- Whether a wait needs the status of a future: that of FWAIT, or of a departure that takes its handle along. -/
def Wait.needs (w : Wait) (st : Strand) (slot serial : Nat) : Bool := w.onFuture slot || w.carries st slot serial

/-- Whether a strand of the core waits for the future of a slot, or did so when a trap interrupted it. -/
def CoreSt.awaited (k : CoreSt) (slot serial : Nat) : Bool :=
  k.slots.any fun x => x.2.wait.needs x.2 slot serial || x.2.frames.any fun n => n.wait.needs x.2 slot serial

/-- A slot is released once complete, unbound and not waited on (R343). -/
def CoreSt.reap (k : CoreSt) (slot : Nat) : CoreSt :=
  match Assoc.find k.futures slot with
  | some f => if f.done && f.binding.isEmpty && !k.awaited slot f.serial then { k with futures := Assoc.erase k.futures slot } else k
  | none => k

/-- Every slot that nothing holds any longer is released. -/
def CoreSt.reapAll (k : CoreSt) : CoreSt := (k.futures.map (·.1)).foldl CoreSt.reap k

/-- The slot bound to a register of a lineage (R340). -/
def CoreSt.boundTo (k : CoreSt) (lineage : DWord) (g : Nat) : Option (Nat × Future) :=
  k.futures.find? fun x => x.2.binding.contains (lineage, g)

/-- The binding of a register ends (R340). -/
def CoreSt.unbind (k : CoreSt) (lineage : DWord) (g : Nat) : CoreSt :=
  match k.boundTo lineage g with
  | some (i, f) => { k with futures := Assoc.set k.futures i { f with binding := f.binding.erase (lineage, g) } }.reap i
  | none => k

/-- A strand of a lineage is gone: the bindings of the lineage end where no thread of it is left on the core (R340, R346), and
the slots that only that strand waited for are released (R343). -/
def CoreSt.unbindLineage (k : CoreSt) (lineage : DWord) : CoreSt :=
  if k.slots.any (fun x => x.2.lineage == lineage) || k.saved.any (fun x => x.lineage == lineage) then k.reapAll
  else
    let k : CoreSt := { k with futures := k.futures.map fun x =>
      (x.1, { x.2 with binding := x.2.binding.filter fun b => b.1 != lineage }) }
    k.reapAll

/-- The status word given to every strand that waits on a slot in FWAIT; a bound register's binding ends (R344). -/
def CoreSt.wakeWaiters (k : CoreSt) (slot : Nat) (status : DWord) : CoreSt :=
  k.slots.foldl (fun k x =>
    match x.2.wait with
    | .future i g =>
      if i = slot then
        { k with slots := Assoc.set k.slots x.1 { (x.2.setG g status) with wait := .none } }.unbind x.2.lineage g
      else k
    | _ => k) k

/-- The operation of a slot completes with a status word (R341, R343). -/
def CoreSt.completeFuture (k : CoreSt) (slot : Nat) (status : DWord) : CoreSt :=
  match Assoc.find k.futures slot with
  | none => k
  | some f =>
    if f.done then k
    else
      let k := { k with futures := Assoc.set k.futures slot { f with done := true, status := status } }
      (k.wakeWaiters slot status).reap slot

/-- As CoreSt.completeFuture, on core c. -/
def State.completeFuture (s : State) (c slot : Nat) (status : Nat) : State :=
  s.modCore c fun k => k.completeFuture slot (BitVec.ofNat 64 status)

end Sys2Proof.Machine
end

