-- ==== Sys2Proof/Machine/Operands.lean ====
section
/-! DEFINITION. The operand forms: which registers each word reads and writes (Table 3-7, R54), the blocks of the
table-space and scratch instructions and what they capture at issue (Table 13-4), and their addresses (R175, R207). -/

namespace Sys2Proof.Machine

/-- n registers from r on. -/
def regs (r n : Nat) : List Nat := (List.range n).map (· + r)

/-- A register, or under a 64-bit type the pair. -/
def regsT (wide : Bool) (r : Nat) : List Nat := if wide then [r, r + 1] else [r]

/-- What a word needs of registers: vectors read through field a and through other fields, vectors written, registers
that must be even, group-wide registers read and written, and vectors named that are not read. -/
structure Use where
  aRegs : List Nat := []
  reads : List Nat := []
  dests : List Nat := []
  even  : List Nat := []
  gRead : List Nat := []
  gDest : List Nat := []
  named : List Nat := []
  deriving DecidableEq, Repr

/-- The register use of the long-latency operations of table space and scratch, and of ST and SST, under a mode. -/
def opUse (i : Instr) (m : Word) : Use :=
  let n := modeCount m
  let cas := modeAOp m == some .cas
  match i with
  | .lkp d a b => { aRegs := regs (2 * a.toNat) 2, dests := regs (2 * d.toNat) 2, gRead := [b.toNat] }
  | .ins d a b => { aRegs := regs (2 * a.toNat) (2 + n), dests := regs (2 * d.toNat) 2, gRead := [b.toNat] }
  | .ups d a b => { aRegs := regs (2 * a.toNat) (2 + n), dests := regs (2 * d.toNat) 2, gRead := [b.toNat] }
  | .del d a b => { aRegs := regs (2 * a.toNat) 2, dests := regs (2 * d.toNat) 2, gRead := [b.toNat] }
  | .rekey d a b =>
    { aRegs := regs (2 * a.toNat) 2, reads := regs (2 * d.toNat) 2, dests := regs (2 * d.toNat) 2, gRead := [b.toNat] }
  | .ld d a _ => { aRegs := regs (2 * a.toNat) 2, dests := regs d.toNat n }
  | .st d a _ => { aRegs := regs (2 * a.toNat) 2, reads := regs d.toNat n }
  | .atom d a _ =>
    { aRegs := regs (2 * a.toNat) 2, reads := regs d.toNat (if cas then 2 else 1), dests := [d.toNat],
      even := if cas then [d.toNat] else [] }
  | .ldrow d a b => { aRegs := regs (2 * a.toNat) 2, dests := [d.toNat], gRead := [b.toNat], gDest := [b.toNat] }
  | .ratom d a _ => { aRegs := regs (2 * a.toNat) 2, reads := [d.toNat], dests := [d.toNat] }
  | .copen d a b => { aRegs := regs (2 * a.toNat) 4, dests := [d.toNat], gRead := [b.toNat] }
  | .cstep d a => { aRegs := [a.toNat], dests := regs (2 * d.toNat) 4 }
  | .cstepn d a => { aRegs := [a.toNat], dests := regs (2 * d.toNat) (2 + 2 * n) }
  | .cseek d a => { aRegs := regs (2 * a.toNat) 2, reads := [d.toNat], dests := [d.toNat] }
  | .div d a b =>
    let wide := (modeType m).any ElemType.is64
    { aRegs := regsT wide a.toNat, reads := regsT wide b.toNat, dests := regsT wide d.toNat,
      even := if wide then [d.toNat, a.toNat, b.toNat] else [] }
  | .sld d a _ => { aRegs := [a.toNat], dests := regs d.toNat n }
  | .sst d a _ => { aRegs := [a.toNat], reads := regs d.toNat n }
  | .satom d a _ =>
    { aRegs := [a.toNat], reads := regs d.toNat (if cas then 2 else 1), dests := [d.toNat],
      even := if cas then [d.toNat] else [] }
  | _ => {}

/-- The captured words of a lane: field a before field d (Table 13-4). -/
def captureLane (st : Strand) (u : Use) (l : Nat) : List Word := (u.aRegs ++ u.reads).map fun r => st.vlane r l

/-- The g values of fields d, a and b (Table 13-4): only field b names a g register in these instructions. -/
def captureG (st : Strand) (u : Use) : List DWord := [0#64, 0#64, (u.gRead.map st.gr).headD 0#64]

/-! ### What an operation is -/

/-- Instructions of the scratch group that are accesses. -/
def isScratchOp : Instr → Bool
  | .sld .. | .sst .. | .satom .. => true
  | _ => false

/-- Index operations on a table through a handle or a cursor. -/
def isIndexOp : Instr → Bool
  | .lkp .. | .ins .. | .ups .. | .del .. | .rekey .. | .copen .. | .cstep .. | .cstepn .. | .cseek .. => true
  | _ => false

/-- Operations whose accesses include no read (R220). -/
def isPureWrite : Instr → Bool
  | .st .. | .sst .. => true
  | _ => false

/-- Operations whose accesses include no write. -/
def isPureRead : Instr → Bool
  | .lkp .. | .copen .. | .cstep .. | .cstepn .. | .cseek .. | .ld .. | .ldrow .. | .sld .. => true
  | _ => false

/-- Words of an operation's captured values that form its reference or address: 2, or 1 in scratch. -/
def addrWords (i : Instr) : Nat := if isScratchOp i then 1 else 2

/-- The captured words of a lane of an operation. -/
def Op.words (o : Op) (l : Nat) : List Word := Assoc.get [] o.vals l

/-- The captured pair at place n of a lane. -/
def Op.pair (o : Op) (l n : Nat) : Nat := ((o.words l).getD n 0#32).toNat + ((o.words l).getD (n + 1) 0#32).toNat * 2 ^ 32

/-- The byte offset field of a load, store or atomic. -/
def offsetOf : Instr → Nat
  | .ld _ _ off | .st _ _ off | .atom _ _ off | .ratom _ _ off | .sld _ _ off | .sst _ _ off | .satom _ _ off => 4 * off.toNat
  | _ => 0

/-- Words accessed in a lane (R175, R207). -/
def wordCount (i : Instr) (m : Word) : Nat :=
  match i with
  | .ld .. | .st .. | .sld .. | .sst .. => modeCount m
  | _ => 1

/-- The start word of LDROW and RATOM (R180, R181). -/
def Op.startWord (o : Op) : Nat :=
  match o.instr with
  | .ldrow .. => slice (o.gvals.getD 2 0#64) 39 32
  | i => offsetOf i / 4

/-- The byte address x of a lane (R175): for whole-row operations that of the lowest-numbered lane's reference. -/
def Op.addr (o : Op) (l : Nat) : Nat :=
  match o.instr with
  | .ldrow .. | .ratom .. => o.pair ((lanesOf o.lanes).headD 0) 0
  | i =>
    if isScratchOp i then ((o.words l).getD 0 0#32).toNat + offsetOf i
    else (o.pair l 0 + offsetOf i) % 2 ^ 64

/-- The data words captured in a lane, after the address. -/
def Op.data (o : Op) (l : Nat) : List Word := (o.words l).drop (addrWords o.instr)

/-- Whether a reference is far (Table 7-4). -/
def isFar (x : Nat) : Bool := x.testBit 63
/-- Package of a far reference. -/
def farPackage (x : Nat) : Nat := x / 2 ^ 53 % 2 ^ 10
/-- Tier of a far reference. -/
def farTier (x : Nat) : Nat := x / 2 ^ 51 % 4
/-- Global block number of a far reference. -/
def farBlock (x : Nat) : Nat := x / 2 ^ 14 % 2 ^ 37
/-- Byte offset of a far reference. -/
def farOffset (x : Nat) : Nat := x % 2 ^ 14

/-- Whether a reference reaches another package of the domain. -/
def refRemote (x : Nat) : Bool :=
  isFar x && farTier x != 3 && farPackage x != Config.packageNumber && decide (farPackage x < Config.domainPackages)

/-- Orders that acquire. -/
def Order.acquires : Order → Bool
  | .acq | .ar | .sc => true
  | _ => false

/-- Orders that release. -/
def Order.releases : Order → Bool
  | .rel | .ar | .sc => true
  | _ => false

/-- The order that an operation is under: scratch accesses and POST read none (Table 9-2, R347). -/
def Op.order (o : Op) : Order :=
  match o.instr with
  | .sld .. | .sst .. | .satom .. | .post .. => .rlx
  | _ => modeOrder o.mode

/-- The class of an operation's accesses. -/
def Op.aclass (o : Op) : AClass :=
  match o.instr with
  | .post .. => .vol
  | .ld .. | .ldrow .. | .st .. | .atom .. | .ratom .. => modeClass o.mode
  | _ => .nrm

/-- The scope of an operation. -/
def Op.scope (o : Op) : Scope :=
  match o.instr with
  | .post .. => .pkg
  | i => if isScratchOp i then .clu else modeScope o.mode

/-- The ranges of bytes that the lanes of a scratch access reach: core, address, length. -/
def Op.ranges (o : Op) (lanes : LaneMask) : List (Option Nat × Nat × Nat) :=
  match o.instr with
  | .sld .. | .sst .. | .satom .. =>
    (lanesOf lanes).map fun l =>
      let x := o.addr l
      (some (if x.testBit 23 then 8 else x / 2 ^ 20 % 8), x % 2 ^ 20, 4 * wordCount o.instr o.mode)
  | _ => []

/-- Whether two lists of ranges meet; scratch core 8 stands for the issuing core. -/
def rangesMeet (c : Nat) (xs ys : List (Option Nat × Nat × Nat)) : Bool :=
  let core (k : Option Nat) : Option Nat := k.map fun n => if n = 8 then c % 8 else n
  xs.any fun x => ys.any fun y =>
    core x.1 == core y.1 && decide (x.2.1 < y.2.1 + y.2.2) && decide (y.2.1 < x.2.1 + x.2.2)

end Sys2Proof.Machine
end

