-- ==== Sys2Proof/Machine/Order.lean ====
section
/-! DEFINITION. Which operations of a strand may be performed before older ones (R166, R220-R228, R310). An operation
stands in the list of its core from issue until it is complete; a fence stands there until every older one is. -/

namespace Sys2Proof.Machine

/-- Whose accesses an operation makes. -/
def Op.who (o : Op) (c : Nat) : Who := ⟨c, o.domain, o.keyid, o.priv, o.launch⟩

/-- Whether two operations are of one strand. -/
def Op.sameStrand (x y : Op) : Bool := x.slot == y.slot && x.gen == y.gen

/-- The valid cursor that a handle names for the strand of an operation (R183). -/
def CoreSt.cursor? (k : CoreSt) (slot : Nat) (gen : BitVec 8) (h : Word) : Option (Nat × Cursor) :=
  if slice h 15 9 ≠ 0 then none
  else match Assoc.find k.cursors (slice h 8 0) with
    | some x => if x.serial = slice h 31 16 ∧ x.slot = slot ∧ x.gen = gen then some (slice h 8 0, x) else none
    | none => none

/-- The handle that an index operation of a lane uses: captured, or that of its cursor. -/
def State.laneHandle (s : State) (c : Nat) (o : Op) (l : Nat) : DWord :=
  let viaCursor (h : Word) : DWord := match (s.core c).cursor? o.slot o.gen h with
    | some (_, x) => x.handle
    | none => 0#64
  match o.instr with
  | .cstep .. | .cstepn .. => viaCursor ((o.words l).getD 0 0#32)
  | .cseek .. => viaCursor ((o.words l).getD 2 0#32)
  | _ => o.gvals.getD 2 0#64

/-- The package to which a lane of an operation goes over the links, if it goes to one (R159, R183, R347, R354). The launch
of a strand that came from another package is named by that package and its number there (log 31). -/
def State.lanePackage (s : State) (c : Nat) (o : Op) (l : Nat) : Option Nat :=
  match o.instr with
  | .ld .. | .st .. | .atom .. => if refRemote (o.addr l) then some (farPackage (o.addr l)) else none
  | .post .. => if launchOwn o.launch then none else some (launchOwner o.launch)
  | i =>
    if isIndexOp i && hRemote (s.laneHandle c o l) then some (hPackage (s.laneHandle c o l)) else none

/-- The lanes still to be performed that go over the links. -/
def State.remoteMask (s : State) (c : Nat) (o : Op) : LaneMask :=
  o.todo &&& maskWhere fun l => (s.lanePackage c o l).isSome

/-- The physical address behind a reference: of a near one where it translates, of a far one where this package holds its block
whole (R161, R162, R293). -/
def State.physOf (s : State) (w : Who) (x : Nat) : Option Nat :=
  if isFar x then
    let e := s.entryOf (farBlock x)
    if farTier x = 3 ∨ farPackage x ≠ Config.packageNumber ∨ !e.valid ∨ e.cls ≠ 3 then none else some (e.slot + farOffset x)
  else if x / 2 ^ 52 ≠ 0 then none
  else match (s.translate w x .read).2 with
    | .ok pa => some pa
    | .error _ => none

/-- The place in a row store of a reference, if it leads to one. -/
def State.placeOf (s : State) (w : Who) (x : Nat) : Option StorePlace := (s.physOf w x).bind s.storeAt

/-- A far reference without its tier, which steers no access (R290). -/
def farName (x : Nat) : Nat := x / 2 ^ 53 * 2 ^ 53 + x % 2 ^ 51

/-- The location of the word at a reference: two references that reach one word have one location. Where nothing is known of
what is behind it, the reference stands for it. -/
def State.wordRange (s : State) (w : Who) (x : Nat) : Option Nat × Nat × Nat :=
  match s.physOf w x with
  | some pa => (none, pa, 4)
  | none => if isFar x then (some 10, farName x, 4) else (some 9, x, 4)

/-- The references of the words that a lane of a row access reaches. -/
def Op.wordRefs (o : Op) (l : Nat) : List Nat :=
  match o.instr with
  | .ld .. | .st .. | .atom .. => (List.range (wordCount o.instr o.mode)).map fun i => o.addr l + 4 * i
  | .post .. => [o.pair l 0, o.pair l 0 + 4]
  | .ldrow .. | .ratom .. => [o.addr l + 4 * (o.startWord + l)]
  | _ => []

/-- The locations that lanes of an operation reach: spaces 0 to 8 are scratch, none is memory. -/
def State.opRanges (s : State) (c : Nat) (o : Op) (lanes : LaneMask) : List (Option Nat × Nat × Nat) :=
  if isScratchOp o.instr then o.ranges lanes
  else (lanesOf lanes).flatMap fun l => (o.wordRefs l).map (s.wordRange (o.who c))

/-- The home of a tier-1 page: the first home stack of the table whose row store holds it, else the near stack of the
core that uses the reference (R162). -/
def State.tier1Home (s : State) (c pa : Nat) : Nat :=
  match s.storeAt pa with
  | some x => x.table.desc.homes.headD 0
  | none => coreStack c

/-- The home of a reference (R162): a stack, 1000 + package in another package, or none. A page that forbids the strand's read
counts as one that cannot be translated (R270; DESIGN CHOICE, log 102). -/
def State.homeOf (s : State) (w : Who) (x : Nat) : Option Nat :=
  if isFar x then
    if farPackage x ≠ Config.packageNumber then some (1000 + farPackage x)
    else
      let e := s.entryOf (farBlock x)
      if e.valid then some (e.stack (farBlock x)) else none
  else match (s.translate w x .read).2 with
    | .ok pa => some (if pa < 2 ^ 39 then pa / 2 ^ 36 else s.tier1Home w.core pa)
    | .error _ => none

/-- The engines to which lanes of an operation go: stacks, 1000 + package, 2000 + core for scratch. -/
def State.opEngines (s : State) (c : Nat) (o : Op) : List Nat :=
  (lanesOf o.lanes).filterMap fun l =>
    if isScratchOp o.instr then some (2000 + scratchCore c (o.addr l))
    else if isIndexOp o.instr then
      let h := s.laneHandle c o l
      if hRemote h then some (1000 + hPackage h)
      else (Assoc.find s.tables (hNumber h)).map fun t => t.desc.homes.headD 0
    else s.homeOf (o.who c) (o.addr l)

/-- The entries that a step of a cursor asks for (R185, R186). -/
def stepCount (i : Instr) (m : Word) : Nat :=
  match i with
  | .cstepn .. => modeCount m
  | _ => 1

/-- The near form of a reference, far or near, to a row of table number n of this package (R162). -/
def State.nearRef (s : State) (n x : Nat) : Nat :=
  match (if isFar x then s.placeOf Who.nobody x else none) with
  | some p => if p.old.isNone && p.num == n then p.table.base + p.off else x
  | none => x

/-- The rows that an index operation of a lane would return or change now: table and near reference (R168, R226). -/
def State.indexRows (s : State) (c : Nat) (o : Op) (l : Nat) : List (Nat × Nat) :=
  let h := s.laneHandle c o l
  match (if isIndexOp o.instr then Assoc.find s.tables (hNumber h) else none) with
  | none => []
  | some t =>
    let found (e : Option Entry) : List Nat := (e.map Entry.ref).toList
    let refs := match o.instr with
      | .lkp .. => [t.lookup (hSelector h) (o.pair l 0)]
      | .ups .. => found (firstOf (o.pair l 0) t.primary)
      | .del .. => found (firstOf (o.pair l 0) (t.index (hSelector h)))
      | .rekey .. => [s.nearRef (hNumber h) (o.pair l 0)]
      | .cstep .. | .cstepn .. =>
        (match (s.core c).cursor? o.slot o.gen ((o.words l).getD 0 0#32) with
         | some (_, x) => ((cursorNext x (t.index (hSelector h))).take (stepCount o.instr o.mode)).map Entry.ref
         | none => [])
      | _ => []
    refs.map fun r => (hNumber h, r)

/-- The row of a dense or indexed table that a lane of a row access reaches: table and near reference. -/
def State.laneRow (s : State) (c : Nat) (o : Op) (l : Nat) : Option (Nat × Nat) :=
  match s.placeOf (o.who c) (o.addr l) with
  | some p => if p.hasRows && p.old.isNone then some (p.num, p.table.refOf p.row) else none
  | none => none

/-- Whether an index operation may reach the row of a lane of a row access: it would return or change it, or it inserts and
the row's storage is free. -/
def State.meetsRow (s : State) (c : Nat) (x : Op) (lanes : LaneMask) (r : Nat × Nat) : Bool :=
  (lanesOf lanes).any fun l =>
    (s.indexRows c x l).contains r ||
    (match x.instr, Assoc.find s.tables r.1 with
     | .ins .., some t | .ups .., some t =>
       hNumber (s.laneHandle c x l) == r.1 && (t.rowOfRef r.2).any fun n => (t.rowAt n).state == .free
     | _, _ => false)

/-- Whether operations x and y, of lanes given, reach one row, one of them as an index operation (R220, R226). A lookup
or a step reads no word of the row that it returns, and reaches it at row scope only. -/
def State.rowsMeet (s : State) (c : Nat) (x : Op) (xl : LaneMask) (y : Op) (yl : LaneMask) : Bool :=
  let reaches (o : Op) : Bool := !isPureRead o.instr || o.scope == .row
  let rows (o : Op) (ls : LaneMask) : List (Nat × Nat) :=
    if isIndexOp o.instr || isScratchOp o.instr then [] else (lanesOf ls).filterMap (s.laneRow c o)
  if isIndexOp x.instr then
    reaches x && ((rows y yl).any (s.meetsRow c x xl) ||
      (isIndexOp y.instr && (lanesOf yl).any fun l => (s.indexRows c y l).any (s.meetsRow c x xl)))
  else isIndexOp y.instr && (rows x xl).any (s.meetsRow c y yl)

/-- The scope of a lane: at row scope an address in no row of a dense or indexed table is at sys (R227). -/
def State.laneScope (s : State) (c : Nat) (o : Op) (l : Nat) : Scope :=
  if o.scope == .row && !isIndexOp o.instr && (s.laneRow c o l).isNone then .sys else o.scope

/-- The scopes of an operation's lanes at which its order field orders anything: at row scope it adds nothing (R226). -/
def State.opScopes (s : State) (c : Nat) (o : Op) : List Scope :=
  ((lanesOf o.lanes).map (s.laneScope c o)).filter (· != .row)

/-- Whether a fence keeps a later operation behind an earlier pure write (Table 9-3). -/
def fenceHolds (f : Op) (x : Op) : Bool :=
  match modeOrder f.mode with
  | .rlx | .acq => false
  | .rel | .ar => !isPureRead x.instr
  | .sc => true

/-- Whether operation x may be performed while the older operation y of its strand, with lanes still to be performed,
waits (R166, R197, R220, R221, R224, R226, R228): only an older store may be passed, by accesses elsewhere; a scratch access
passes no other. between: the fences issued between the two. -/
def State.mayPass (s : State) (c : Nat) (x y : Op) (between : List Op) : Bool :=
  isPureWrite y.instr && !between.any (fun f => fenceHolds f x) &&
  !(isScratchOp x.instr && isScratchOp y.instr) &&
  !(x.order.releases && !isPureRead x.instr && !(s.opScopes c x).isEmpty) &&
  !(x.order == .sc && y.order == .sc && (s.opScopes c x).any fun e => (s.opScopes c y).contains e) &&
  !(x.aclass == .vol && y.aclass == .vol) &&
  !rangesMeet c (s.opRanges c x x.lanes) (s.opRanges c y y.todo) &&
  !s.rowsMeet c x x.lanes y y.todo &&
  !(s.opEngines c x).any (fun e => (s.opEngines c y).contains e)

/-- Whether an operation is a POST. -/
def isPost : Instr → Bool
  | .post .. => true
  | _ => false

/-- Whether an older operation that faulted keeps x from being performed (R310): a later access to the same location,
one behind an acquire, and a POST behind a vol access (R347). -/
def State.heldBehind (s : State) (c : Nat) (x y : Op) : Bool :=
  let lanes := y.todo ||| maskOf (y.faults.map (·.lane))
  (y.order.acquires && !isPureWrite y.instr && !(s.opScopes c y).isEmpty) ||
  (isPost x.instr && y.aclass == .vol) ||
  rangesMeet c (s.opRanges c x x.lanes) (s.opRanges c y lanes) || s.rowsMeet c x x.lanes y lanes

/-- Operations whose lanes are performed at one instant or not at all (R180, R181). -/
def isUnit : Instr → Bool
  | .ratom .. | .ldrow .. => true
  | _ => false

/-- Whether x, standing after the operations of a list, may be performed now. -/
def State.eligibleIn (s : State) (c : Nat) (x : Op) : List Op → Bool
  | [] => true
  | y :: ys =>
    (if !y.sameStrand x then true
     else if y.instr == .fence then true
     else if y.faults.isEmpty then
       y.todo == 0#64 || s.mayPass c x y (ys.filter fun f => f.sameStrand x && f.instr == .fence)
     else !s.heldBehind c x y && (y.todo == 0#64 || isUnit y.instr ||
       s.mayPass c x y (ys.filter fun f => f.sameStrand x && f.instr == .fence))) &&
    s.eligibleIn c x ys

/-- Whether a gather of a strand still reads rows, which it does as of its issue (R230): what the strand issued since waits for
it (R220, R221). -/
def CoreSt.gathers (k : CoreSt) (slot : Nat) (gen : BitVec 8) : Bool :=
  k.futures.any fun f => !f.2.done && f.2.slot == slot && f.2.gen == gen && (match f.2.kind with
    | .gathFar .. | .gathRemote .. => true
    | _ => false)

/-- Whether an operation waits for a gather of its strand. A gather is issued once the accesses before it are performed. -/
def State.heldByGather (s : State) (c : Nat) (x : Op) : Bool := (s.core c).gathers x.slot x.gen

/-- Whether operation n of core c may be performed now. -/
def State.eligible (s : State) (c n : Nat) : Bool :=
  match (s.core c).ops[n]? with
  | some x => !s.heldByGather c x && s.eligibleIn c x ((s.core c).ops.take n)
  | none => false

/-- The operations of a strand that are not complete. -/
def CoreSt.strandOps (k : CoreSt) (slot : Nat) : List Op := k.ops.filter fun o => o.slot == slot && o.gen == k.gen slot

/-- Whether every earlier access of a strand is performed (R221, R230, R234): no operation of it has lanes to perform, none
faulted, and no gather of it still reads rows. -/
def State.accessesDone (s : State) (c sl : Nat) : Bool :=
  (((s.core c).strandOps sl).all fun o => o.todo == 0#64 && o.faults.isEmpty) && !(s.core c).gathers sl ((s.core c).gen sl)

/-- Whether the writes of some lanes of a strand are performed (R268): no operation of it that writes has such a lane to
perform, and none faulted in one. -/
def State.writesDone (s : State) (c sl : Nat) (lanes : LaneMask) : Bool :=
  ((s.core c).strandOps sl).all fun o =>
    isPureRead o.instr || o.instr == .fence ||
    ((o.todo ||| maskOf (o.faults.map (·.lane))) &&& lanes == 0#64)

/-- Fences with no older operation of their strand left are taken out. -/
def sweepFences : List Op → List Op → List Op
  | _, [] => []
  | seen, o :: os =>
    if o.instr == .fence && !seen.any (fun y => y.sameStrand o) then sweepFences seen os
    else o :: sweepFences (o :: seen) os

/-- Operation n taken out of the list. -/
def CoreSt.removeOp (k : CoreSt) (n : Nat) : CoreSt := { k with ops := sweepFences [] (k.ops.eraseIdx n) }

/-- Operation n replaced. -/
def CoreSt.setOp (k : CoreSt) (n : Nat) (o : Op) : CoreSt := { k with ops := k.ops.set n o }

end Sys2Proof.Machine
end

