-- ==== Sys2Proof/Machine/Engine.lean ====
section
/-! DEFINITION. Performing operations: the lanes of loads, stores, atomics, whole-row operations, index operations,
cursors and scratch accesses, and the completion that writes their results (R45, R125, R128, R166-R188, R207). -/

namespace Sys2Proof.Machine

/-! ### Single accesses -/

/-- What a write gives: it is done, a failure, or nothing yet (its block waits for a slot, log 21). -/
inductive Got (α : Type) where
  | ok (x : α)
  | fail (f : Fail)
  | hold
  deriving DecidableEq, Repr

/-- The waiter that a lane of an operation is. -/
def Op.waiter (o : Op) (c l : Nat) (s : State) : Waiter := ⟨o.launch, c, o.slot, o.serial, l, s.timePs⟩

/-- Whether two waiters are one access. -/
def Waiter.same (x y : Waiter) : Bool :=
  x.core == y.core && x.slot == y.slot && x.serial == y.serial && x.lane == y.lane

/-- A bank set at which an access waits (R284, R285): asleep it begins to wake, during an entry into deep power-down a full
wake is to follow it. A wake that an access causes is counted once. -/
def Bank.wakeFor (k : Bank) : Bank :=
  match k.state, k.entering with
  | .retention, _ => { k with state := .waking, fromDeep := false }
  | .deep, true => if k.rewake then k else { k with rewake := true }.countWake
  | .deep, false => { k with state := .waking, fromDeep := true }.countWake
  | _, _ => k

/-- An access arrives at the bank set of pa: whether it can be performed. Where the bank set is asleep or waking the access
is held, which is counted when it first is (R282, R284, R285, R289). -/
def State.arrive (s : State) (pa : Nat) (x : Waiter) : State × Bool :=
  if s.asleep pa then
    let b := pa / 2 ^ 30
    let k := s.bank b
    if k.waiters.any x.same then (s, false)
    else ((s.setBank b { k.wakeFor with waiters := k.waiters ++ [x] }).countStack (b / 64) 0x104, false)
  else (s, true)

/-- An access arrives at every bank set that it needs: whether all serve it. -/
def State.arriveAll (x : Waiter) : List Nat → State → State × Bool
  | [], s => (s, true)
  | pa :: pas, s =>
    match s.arrive pa x with
    | (s, b) => ((State.arriveAll x pas s).1, b && (State.arriveAll x pas s).2)

/-- An inv read's entry in the row cache, which it may take (R229). -/
def State.cachedWord (s : State) (c : Nat) (o : Op) (cached : Bool) (pa : Nat) : Option Word :=
  if o.aclass == .inv && cached then
    ((s.core c).rowCache.find? fun r => r.1 == o.launch && r.2.1 == pa).map fun r => r.2.2
  else none

/-- The physical addresses at whose bank sets an access to the word at a reference arrives: none where it faults, goes to
another package or is served by the row cache; both ends of the slot of a block. -/
def State.bankPlaces (s : State) (c : Nat) (o : Op) (cached : Bool) (x : Nat) : List Nat :=
  if isFar x then
    let e := s.entryOf (farBlock x)
    if farTier x = 3 ∨ farPackage x ≠ Config.packageNumber ∨ !e.valid then [] else [e.slot, e.slot + 32 * e.sectors - 1]
  else match (s.translate (o.who c) x .read).2 with
    | .ok pa => if (s.cachedWord c o cached pa).isSome then [] else [pa]
    | .error _ => []

/-- The references of the first and the last word that a lane of a row access reaches. -/
def Op.laneEnds (o : Op) (l : Nat) : List Nat :=
  match o.instr with
  | .ld .. | .st .. | .atom .. => [o.addr l, o.addr l + 4 * (wordCount o.instr o.mode - 1)]
  | .post .. => [o.pair l 0, o.pair l 0 + 4]
  | .ldrow .. | .ratom .. => [o.addr l + 4 * (o.startWord + l)]
  | _ => []

/-- The bank sets at which an access is held wake for it at once; its stalls end, and are not counted again. -/
def State.rouseAll (x : Waiter) : List Nat → State → State
  | [], s => s
  | pa :: pas, s =>
    let b := pa / 2 ^ 30
    let k := s.bank b
    State.rouseAll x pas (if k.waiters.any x.same then s.bankWoken b (k.state == .deep || k.fromDeep) else s)

/-- Whether a lane can be performed: every bank set that it needs serves it. Where one does not, the lane is held with none
of its effect (R284). With sync every access is served at once, one that is held already too (log 17). -/
def State.arriveLane (s : State) (c : Nat) (o : Op) (sync cached : Bool) (l : Nat) : State × Bool :=
  let places := (o.laneEnds l).flatMap (s.bankPlaces c o cached)
  if sync then (State.rouseAll (o.waiter c l s) places s, true)
  else State.arriveAll (o.waiter c l s) places s

/-- A near reference that names no word (R161). -/
def badNear (x : Nat) : Bool := decide (x / 2 ^ 52 ≠ 0) || x == 0

/-- A far reference that names no block of this package (R161). -/
def badFar (x : Nat) : Bool := farTier x == 3 || farPackage x != Config.packageNumber

/-- The word at a reference (R161, R175, R290). cached: an inv read takes the row-cache entry of its launch, if there
is one; one that does not fills it (R229). The cache holds 64 KiB (R13). -/
def State.loadWord (s : State) (c : Nat) (o : Op) (cached : Bool) (x : Nat) : State × Except Fail Word :=
  let w := o.who c
  if isFar x then
    if badFar x then (s, .error (.translation, 0))
    else match s.readBlock w (farBlock x) (farOffset x) 4 with
      | (s, .error f) => (s, .error f)
      | (s, .ok bs) => (s, .ok (wordOf bs))
  else if badNear x then (s, .error (.translation, 0))
  else match s.translate w x .read with
    | (s, .error f) => (s, .error f)
    | (s, .ok pa) =>
      match s.cachedWord c o cached pa with
      | some v => (s, .ok v)
      | none =>
        match s.readPhys w pa 4 with
        | (s, .error f) => (s, .error f)
        | (s, .ok bs) =>
          let v := wordOf bs
          (if o.aclass == .inv then
             s.modCore c fun k => { k with rowCache := ((o.launch, (pa, v)) :: k.rowCache).take 16384 }
           else s, .ok v)

/-- A word written at a reference. -/
def State.storeWord (s : State) (c : Nat) (o : Op) (x : Nat) (v : Word) : State × Got Unit :=
  let w := o.who c
  if isFar x then
    if badFar x then (s, .fail (.translation, 0))
    else match s.writeBlock w (farBlock x) (farOffset x) (bytesOf 4 v.toNat) with
      | none => (s, .hold)
      | some (s, .error f) => (s, .fail f)
      | some (s, .ok ()) => (s, .ok ())
  else if badNear x then (s, .fail (.translation, 0))
  else match s.translate w x .write with
    | (s, .error f) => (s, .fail f)
    | (s, .ok pa) =>
      match s.writePhys w pa (bytesOf 4 v.toNat) with
      | (s, .error f) => (s, .fail f)
      | (s, .ok ()) => (s, .ok ())

/-! ### Lanes of the row accesses -/

/-- What performing one lane gives. -/
inductive LaneOut where
  | done (ws : List Word)
  | fault (f : Fail)
  | hold
  deriving DecidableEq, Repr

/-- n words from a reference on, in order; the first failure stands (R176). -/
def State.loadWords (c : Nat) (o : Op) (cached : Bool) : Nat → Nat → State → State × LaneOut
  | 0, _, s => (s, .done [])
  | n + 1, x, s =>
    match s.loadWord c o cached x with
    | (s, .error f) => (s, .fault f)
    | (s, .ok v) =>
      match State.loadWords c o cached n (x + 4) s with
      | (s, .done vs) => (s, .done (v :: vs))
      | (s, r) => (s, r)

/-- Words written from a reference on; all are tried, the first failure stands (R178). -/
def State.storeWords (c : Nat) (o : Op) : Nat → List Word → State → State × LaneOut
  | _, [], s => (s, .done [])
  | x, v :: vs, s =>
    match s.storeWord c o x v with
    | (s, .hold) => (s, .hold)
    | (s, .fail f) => ((State.storeWords c o (x + 4) vs s).1, .fault f)
    | (s, .ok ()) => State.storeWords c o (x + 4) vs s

/-- Whether two places lie in one row of one store. -/
def StorePlace.sameRow (x y : StorePlace) : Bool := x.old == y.old && x.num == y.num && x.row == y.row

/-- The places in row stores of the words of a lane. -/
def State.lanePlaces (s : State) (c : Nat) (o : Op) (l : Nat) : List StorePlace :=
  (o.wordRefs l).filterMap (s.placeOf (o.who c))

/-- One place in each row that places lie in. -/
def rowsOf (ps : List StorePlace) : List StorePlace :=
  ps.foldl (fun rs p => if rs.any p.sameRow then rs else rs ++ [p]) []

/-- ST in one lane (R177): a secondary field that one of its words reaches keeps it from being performed; the version of each
row that it reaches rises (R163). -/
def State.performSt (s : State) (c : Nat) (o : Op) (l : Nat) : State × LaneOut :=
  let ps := s.lanePlaces c o l
  if ps.any fun p => p.hitsField 1 then (s, .fault (.indexBypass, 0))
  else match State.storeWords c o (o.addr l) (o.data l) s with
    | (s, .done _) => ((rowsOf ps).foldl (fun s p => s.bumpAt p 1) s, .done [])
    | r => r

/-- Whether an atomic operation is arithmetic under a type; the others do not read it (R179). -/
def AOp.typed : AOp → Bool
  | .add | .min | .max => true
  | _ => false

/-- The new word of a read-modify-write in a lane (R179, R207). -/
def Op.newWord (o : Op) (l : Nat) (old : Word) : Word :=
  let d := o.data l
  match modeAOp o.mode with
  | some op =>
    if op.typed && (modeType o.mode).isNone then old
    else atomicWord op ((modeType o.mode).getD .i32) (modeRound o.mode) old (d.getD 0 0#32) (d.getD 1 0#32)
  | none => old

/-- ATOM in one lane (R179). -/
def State.performAtom (s : State) (c : Nat) (o : Op) (l : Nat) : State × LaneOut :=
  let x := o.addr l
  let p := s.placeOf (o.who c) x
  if (p.map fun p => p.hitsField 1) == some true then (s, .fault (.indexBypass, 0))
  else match s.loadWord c o false x with
    | (s, .error f) => (s, .fault f)
    | (s, .ok old) =>
      match State.storeWords c o x [o.newWord l old] s with
      | (s, .done _) => (match p with
        | some p => s.bumpAt p 1
        | none => s, .done [old])
      | r => r

/-- POST: an atomic OR of 64 bits at pkg scope and class vol (R347). -/
def State.performPost (s : State) (c : Nat) (o : Op) (l : Nat) : State × LaneOut :=
  let x := o.pair l 0
  match State.loadWords c o false 2 x s with
  | (s, .done ws) =>
    State.storeWords c o x
      [ws.getD 0 0#32 ||| (o.words l).getD 2 0#32, ws.getD 1 0#32 ||| (o.words l).getD 3 0#32] s
  | r => r

/-! ### Index operations of a lane (R170-R174) -/

/-- A reference as two result words. -/
def refWords (r : Nat) : List Word := [BitVec.ofNat 32 r, BitVec.ofNat 32 (r / 2 ^ 32)]

/-- An index result as a lane's outcome. -/
def IndexOut.lane : IndexOut → LaneOut
  | .ref r => .done (refWords r)
  | .duplicate => .fault (.duplicateKey, 0)
  | .failed c => .fault (c, 0)

/-- A row that is found answered by the reference that named it (R174). -/
def IndexOut.naming (x : Nat) : IndexOut → IndexOut
  | .ref r => .ref (if r = 0 then 0 else x)
  | r => r

/-- The far reference of the first-stage table of a paged table, or 0 (R156, R170): entry key of its store (log 24). -/
def State.firstStage (s : State) (w : Who) (t : Table) (key : Nat) : State × Except Fail Nat :=
  if key < t.rowCap then
    match s.readPhys w (t.pa (8 * key)) 8 with
    | (s, .error f) => (s, .error f)
    | (s, .ok bs) => (s, .ok (natOf bs))
  else (s, .ok 0)

/-- LKP in a lane. It counts as a lookup performed on a table of any kind, also where the read of a first stage fails (R192;
DESIGN CHOICE, log 95). -/
def State.performLkp (s : State) (c : Nat) (o : Op) (l : Nat) : State × LaneOut :=
  let h := o.gvals.getD 2 0#64
  match s.usable h true with
  | none => (s, .fault (.staleHandle, 0))
  | some t =>
    let key := o.pair l 0
    let s := s.modTable (hNumber h) fun t => t.count 0
    if t.desc.kind = 3 then
      match s.firstStage (o.who c) t key with
      | (s, .error f) => (s, .fault f)
      | (s, .ok r) => (s, .done (refWords r))
    else (s, .done (refWords (t.lookup (hSelector h) key)))

/-- INS, UPS, DEL and REKEY in a lane. The engine has accepted a lane when it is performed: one still to be performed when its
table is destroyed finds the handle stale (R160; DESIGN CHOICE, log 96). -/
def State.performIndex (s : State) (c : Nat) (o : Op) (l : Nat) : State × LaneOut :=
  let h := o.gvals.getD 2 0#64
  match s.usable h false with
  | none => (s, .fault (.staleHandle, 0))
  | some t =>
    let w := o.who c
    let n := hNumber h
    match o.instr with
    | .ins .. => let r := s.insertKey w n t false (o.pair l 0) (o.data l); (r.1, r.2.lane)
    | .ups .. => let r := s.insertKey w n t true (o.pair l 0) (o.data l); (r.1, r.2.lane)
    | .del .. => let r := s.deleteKey n t (hSelector h) (o.pair l 0); (r.1, .done (refWords r.2))
    | _ =>
      let r := s.rekeyRow n t (s.nearRef n (o.pair l 0)) (o.pair l 2)
      (r.1, (r.2.naming (o.pair l 0)).lane)

/-! ### Cursors (R183-R187) -/

/-- A free cursor slot, the lowest (log 23). -/
def CoreSt.freeCursor (k : CoreSt) : Option Nat := (List.range 512).find? fun i => (Assoc.find k.cursors i).isNone

/-- COPEN in a lane (R184). The serials of R183 are counted per core (log 80). Once the strand has left its slot no cursor is
opened, as its cursors are closed (R183). -/
def State.performCopen (s : State) (c : Nat) (o : Op) (l : Nat) : State × LaneOut :=
  let h := o.gvals.getD 2 0#64
  if hSelector h = 0 ∨ (!hRemote h && (s.usable h false).isNone) then (s, .fault (.staleHandle, 0))
  else
    let k := s.core c
    let refused := o.results.any fun r => r.1 < l && r.2 == [0#32]
    if k.gen o.slot ≠ o.gen then (s, .done [0#32])
    else match (if refused then none else k.freeCursor) with
    | none => (if refused then s else s.count c 0x1041, .done [0#32])
    | some i =>
      let serial := if k.cursorSer = 65535 then 1 else k.cursorSer + 1
      let x : Cursor := ⟨o.slot, o.gen, h, o.pair l 0, o.pair l 2, serial, none, o.pair l 0, false⟩
      (s.modCore c fun k => { k with cursorSer := serial, cursors := Assoc.set k.cursors i x },
       .done [BitVec.ofNat 32 (serial * 2 ^ 16 + i)])

/-- A cursor after a step of at most n entries that returned some (R185, R186). -/
def Cursor.stepped (x : Cursor) (es : List Entry) (n : Nat) : Cursor :=
  { x with
    ended := x.ended || decide (es.length < n)
    position := match es.getLast? with
      | some e => some (e.key, e.ref)
      | none => x.position }

/-- A step of at most n entries by the cursor of a handle (R185, R186): the entries returned. -/
def State.stepCursor (s : State) (c : Nat) (o : Op) (h : Word) (n : Nat) : State × Except Fail (List Entry) :=
  match (s.core c).cursor? o.slot o.gen h with
  | none => (s, .error (.staleHandle, 0))
  | some (i, x) =>
    match s.usable x.handle false with
    | none => (s, .error (.staleHandle, 0))
    | some t =>
      let es := if x.ended then [] else (cursorNext x (t.index (hSelector x.handle))).take n
      (s.modCore c fun k => { k with cursors := Assoc.set k.cursors i (x.stepped es n) }, .ok es)

/-- The words of CSTEP for the entries that a step returned. -/
def cstepWords : List Entry → List Word
  | [] => List.replicate 4 0#32
  | e :: _ => refWords e.ref ++ refWords e.key

/-- The words of CSTEPN for n rows. -/
def cstepnWords (n : Nat) (es : List Entry) : List Word :=
  [BitVec.ofNat 32 es.length, 0#32] ++ es.flatMap (fun e => refWords e.ref) ++
    List.replicate (2 * (n - es.length)) 0#32

/-- CSTEP in a lane. -/
def State.performCstep (s : State) (c : Nat) (o : Op) (l : Nat) : State × LaneOut :=
  let h := (o.words l).getD 0 0#32
  if h = 0#32 then (s, .done (List.replicate 4 0#32))
  else match s.stepCursor c o h 1 with
    | (s, .error f) => (s, .fault f)
    | (s, .ok es) => (s, .done (cstepWords es))

/-- CSTEPN in a lane. -/
def State.performCstepn (s : State) (c : Nat) (o : Op) (l : Nat) : State × LaneOut :=
  let n := modeCount o.mode
  let h := (o.words l).getD 0 0#32
  if h = 0#32 then (s, .done (cstepnWords n []))
  else match s.stepCursor c o h n with
    | (s, .error f) => (s, .fault f)
    | (s, .ok es) =>
      (s, .done (cstepnWords n es))

/-- Lane l of the handle register of a CSEEK on an invalid handle is 0 (R187). -/
def State.zeroCursor (s : State) (c : Nat) (o : Op) (l : Nat) : State :=
  match o.instr with
  | .cseek d _ =>
    if (s.core c).gen o.slot = o.gen then
      s.modStrand c o.slot fun st => if st.live.getLsbD l then st.writeV d.toNat (1#64 <<< l) none fun _ => 0#32 else st
    else s
  | _ => s

/-- A cursor repositioned to a key (R187). -/
def Cursor.sought (x : Cursor) (key : Nat) : Cursor := { x with ended := false, position := none, floor := max key x.lo }

/-- CSEEK in a lane (R187): an invalid handle makes vD 0 although the lane faults. -/
def State.performCseek (s : State) (c : Nat) (o : Op) (l : Nat) : State × LaneOut :=
  let h := (o.words l).getD 2 0#32
  if h = 0#32 then (s, .done [0#32])
  else match (s.core c).cursor? o.slot o.gen h with
    | none => (s.zeroCursor c o l, .fault (.staleHandle, 0))
    | some (i, x) =>
      if !hRemote x.handle && (s.usable x.handle false).isNone then (s, .fault (.staleHandle, 0))
      else (s.modCore c fun k => { k with cursors := Assoc.set k.cursors i (x.sought (o.pair l 0)) }, .done [h])

/-! ### Scratch accesses of a lane (R207) -/

/-- Words of scratch at an address whose access R196 permitted at issue. -/
def State.scratchPlace (s : State) (c x : Nat) : Nat × Nat :=
  let k := scratchCore c x
  let off := x % 2 ^ 20
  match (s.core k).buffers.find? fun b => b.covers (off / granuleBytes) with
  | some b => (k, b.place false off)
  | none => (k, off)

/-- SLD, SST or SATOM in a lane; a sector that cannot be consumed is the lane's fault (R296, R297). Each word of SST is an access
of its own, as one of ST is (R215). -/
def State.performScratch (s : State) (c : Nat) (o : Op) (l : Nat) : State × LaneOut :=
  let (k, off) := s.scratchPlace c (o.addr l)
  let write (s : State) (bs : List Byte) (ws : List Word) : State × LaneOut :=
    match s.writeScratchAt k off bs with
    | (s, some cause) => (s, .fault (cause, 0))
    | (s, none) => (s, .done ws)
  match o.instr with
  | .sst .. =>
    (match State.writeScratchWords k off (o.data l) s with
     | (s, some cause) => (s, .fault (cause, 0))
     | (s, none) => (s, .done []))
  | _ =>
    match s.readScratchAt k off (4 * wordCount o.instr o.mode) with
    | (s, .error f) => (s, .fault f)
    | (s, .ok bs) =>
      match o.instr with
      | .satom .. => write s (bytesOf 4 (o.newWord l (wordOf bs)).toNat) [wordOf bs]
      | _ => (s, .done (wordsOf (modeCount o.mode) bs))

/-! ### Whole-row operations (R180, R181) -/

/-- Whether every lane of a unit can be performed. -/
def State.arriveUnit (c : Nat) (o : Op) (sync cached : Bool) : List Nat → State → State × Bool
  | [], s => (s, true)
  | l :: ls, s =>
    match s.arriveLane c o sync cached l with
    | (s, b) => ((State.arriveUnit c o sync cached ls s).1, b && (State.arriveUnit c o sync cached ls s).2)

/-- The words of the lanes of a unit, in ascending lane order; the first failures stand. -/
def State.rowWords (c : Nat) (o : Op) (cached : Bool) : List Nat → State → State × List (Nat × LaneOut)
  | [], s => (s, [])
  | l :: ls, s =>
    match State.loadWords c o cached 1 (o.addr l + 4 * (o.startWord + l)) s with
    | (s, r) =>
      match State.rowWords c o cached ls s with
      | (s, rs) => (s, (l, r) :: rs)

/-- The lanes of a list of outcomes that faulted. -/
def laneFaults : List (Nat × LaneOut) → List LaneFault
  | [] => []
  | (l, .fault (cause, d)) :: rs => ⟨l, cause, d⟩ :: laneFaults rs
  | _ :: rs => laneFaults rs

/-- The lanes of a list of outcomes with results. -/
def laneResults : List (Nat × LaneOut) → List (Nat × List Word)
  | [] => []
  | (l, .done ws) :: rs => (l, ws) :: laneResults rs
  | _ :: rs => laneResults rs

/-- Whether LDROW returned a version below its floor (R181). -/
def staleRead (p : StorePlace) (v floor : BitVec 32) : Bool :=
  p.table.desc.kind == 2 && decide (2 ^ 31 ≤ (v - floor).toNat)

/-- LDROW, as one unit; the lanes of faulting words stay out of it, and it has then not completed (R182). -/
def State.performLdrow (s : State) (c : Nat) (o : Op) (sync cached : Bool) : State × Op :=
  match State.arriveUnit c o sync cached (lanesOf o.todo) s with
  | (s, false) => (s, o)
  | (s, true) =>
    match State.rowWords c o cached (lanesOf o.todo) s with
    | (s, rs) =>
      let p := s.placeOf (o.who c) (o.addr 0)
      let v : BitVec 32 := match p with
        | some p => if p.table.desc.kind = 2 then (p.table.rowAt p.row).version else 0#32
        | none => 0#32
      let s := match p with
        | some p =>
          if staleRead p v (lo32 (o.gvals.getD 2 0#64)) && (laneFaults rs).isEmpty then s.count c (0x1000 + p.num % 64) else s
        | none => s
      (s, { o with todo := 0#64, results := o.results ++ laneResults rs, faults := o.faults ++ laneFaults rs,
                   gresult := some (v.setWidth 64) })

/-- The sums of RATOM written over the words of its lanes (R180). -/
def State.rowSums (c : Nat) (o : Op) : List (Nat × List Word) → State → State × List (Nat × LaneOut)
  | [], s => (s, [])
  | (l, ws) :: rs, s =>
    match State.storeWords c o (o.addr l + 4 * (o.startWord + l)) [o.newWord l (ws.getD 0 0#32)] s with
    | (s, r) =>
      match State.rowSums c o rs s with
      | (s, outs) => (s, (l, r) :: outs)

/-- The lanes of RATOM whose word may not be written: in a secondary field (R180), or on a page that forbids it. -/
def State.rowBars (s : State) (c : Nat) (o : Op) (p : Option StorePlace) : List LaneFault :=
  (lanesOf o.todo).filterMap fun l =>
    if (p.map fun p => ({ p with off := p.off + 4 * (o.startWord + l) }).hitsField 1) == some true then
      some ⟨l, .indexBypass, 0⟩
    else match (s.translate (o.who c) (o.addr l + 4 * (o.startWord + l)) .write).2 with
      | .error f => some ⟨l, f.1, f.2⟩
      | .ok _ => none

/-- RATOM, as one unit: where a lane faults no word of the row is written (log 25), and it is not tried again before its
replay. -/
def State.performRatom (s : State) (c : Nat) (o : Op) (sync : Bool) : State × Op :=
  let p := s.placeOf (o.who c) (o.addr 0)
  let bars := s.rowBars c o p
  if !o.faults.isEmpty then (s, o)
  else if !bars.isEmpty then (s, { o with faults := o.faults ++ bars })
  else match State.arriveUnit c o sync false (lanesOf o.todo) s with
    | (s, false) => (s, o)
    | (s, true) =>
      match State.rowWords c o false (lanesOf o.todo) s with
      | (s, rs) =>
        if !(laneFaults rs).isEmpty then (s, { o with faults := o.faults ++ laneFaults rs })
        else match State.rowSums c o (laneResults rs) s with
          | (s, outs) =>
            (match p with
              | some p => s.bumpAt p 1
              | none => s,
             { o with todo := 0#64, results := o.results ++ laneResults rs, faults := o.faults ++ laneFaults outs })

/-! ### Performing lanes -/

/-- One lane of an operation performed. -/
def State.performLane (s : State) (c : Nat) (o : Op) (cached : Bool) (l : Nat) : State × LaneOut :=
  match o.instr with
  | .lkp .. => s.performLkp c o l
  | .ins .. | .ups .. | .del .. | .rekey .. => s.performIndex c o l
  | .ld .. => State.loadWords c o cached (modeCount o.mode) (o.addr l) s
  | .st .. => s.performSt c o l
  | .atom .. => s.performAtom c o l
  | .copen .. => s.performCopen c o l
  | .cstep .. => s.performCstep c o l
  | .cstepn .. => s.performCstepn c o l
  | .cseek .. => s.performCseek c o l
  | .post .. => s.performPost c o l
  | .sld .. | .sst .. | .satom .. => s.performScratch c o l
  | _ => (s, .done [])

/-- A lane of an operation is performed, or faulted: a fault of POST is every active lane's (R347). -/
def Op.laneDone (o : Op) (l : Nat) : LaneOut → Op
  | .hold => o
  | .done ws => { o with todo := o.todo &&& ~~~ (1#64 <<< l), results := o.results ++ [(l, ws)] }
  | .fault (k, d) =>
    let ls := match o.instr with
      | .post .. => lanesOf o.lanes
      | _ => [l]
    { o with todo := o.todo &&& ~~~ (1#64 <<< l), faults := o.faults ++ ls.map fun i => ⟨i, k, d⟩ }

/-- Whether a lane waits for lower ones of a mask: not in a load, nor in a store to other words (R166, R177, R179, R220). The same
word may be named by different references (R290). -/
def State.laneWaits (s : State) (c : Nat) (o : Op) (l : Nat) (below : LaneMask) : Bool :=
  below != 0#64 && match o.instr with
    | .ld .. => false
    | .st .. => rangesMeet c (s.opRanges c o (1#64 <<< l)) (s.opRanges c o below)
    | _ => true

/-- Lanes performed in ascending order; a lane that is held has none of its effect, and later lanes wait for it as
State.laneWaits says. -/
def State.performLanes (c : Nat) (sync cached : Bool) : List Nat → State → Op → State × Op
  | [], s, o => (s, o)
  | l :: ls, s, o =>
    if s.laneWaits c o l (o.todo &&& maskBelow l &&& ~~~ s.remoteMask c o) then State.performLanes c sync cached ls s o
    else match s.arriveLane c o sync cached l with
      | (s, false) => State.performLanes c sync cached ls s o
      | (s, true) =>
        match s.performLane c o cached l with
        | (_, .hold) => State.performLanes c sync cached ls s o
        | (s', r) => State.performLanes c sync cached ls s' (o.laneDone l r)

/-- The lanes of a mask of an operation performed; a unit and a uniform load are performed whole. Lanes that go over the
links are not. -/
def State.performOp (s : State) (c : Nat) (o : Op) (sync cached : Bool) (lanes : LaneMask) : State × Op :=
  match o.instr with
  | .ldrow .. => s.performLdrow c o sync cached
  | .ratom .. => s.performRatom c o sync
  | .fence => (s, { o with todo := 0#64 })
  | _ => State.performLanes c sync cached
      (lanesOf ((if o.uniform then o.todo else o.todo &&& lanes) &&& ~~~ s.remoteMask c o)) s o

/-! ### Completion (R45, R120, R121, R125, R128) -/

/-- The mask of the lanes with results. -/
def Op.written (o : Op) : LaneMask := maskOf (o.results.map (·.1))

/-- Registers written from the results of an operation: destination i takes word i of each live lane that has results. The
tag is decided now (R121). -/
def writeResults (o : Op) (st : Strand) : Strand :=
  let act := o.written &&& st.live
  if act == 0#64 then st
  else (opUse o.instr o.mode).dests.zipIdx.foldl (fun st d =>
    let f := fun l => (Assoc.get [] o.results l).getD d.2 0#32
    st.writeV d.1 act (if o.uniform then some (.uniform (f ((lanesOf act).headD 0))) else none) f) st

/-- Whether an operation has a result to return. -/
def Op.returns (o : Op) : Bool := !(opUse o.instr o.mode).dests.isEmpty

/-- The results of an operation given to the strand of its slot (R128): registers, g[B] of LDROW, and the flags of DIV (R79). -/
def State.deliver (s : State) (c : Nat) (o : Op) : State :=
  match s.strand? c o.slot with
  | none => s
  | some st =>
    let st := writeResults o st
    let st := match (opUse o.instr o.mode).gDest, o.gresult with
      | [g], some v => st.setG g v
      | _, _ => st
    s.setStrand c o.slot { st with group := { st.group with astat := st.group.astat ||| o.flags } }

/-- The pending bits of an operation's destinations set or cleared (R125). -/
def pendOp (o : Op) (b : Bool) (st : Strand) : Strand :=
  let u := opUse o.instr o.mode
  u.gDest.foldl (fun st g => st.pendG g b) (st.pendV u.dests b)

/-- Operation n of core c is complete: results and flags written, pending bits cleared, flag set; under another generation the
result is dropped and counted (R128). -/
def State.finishOp (s : State) (c n : Nat) (o : Op) : State :=
  let s := s.modCore c fun k => k.removeOp n
  if (s.core c).gen o.slot = o.gen then
    (s.deliver c o).modStrand c o.slot fun st => (pendOp o false st).setFlag o.flag true
  else if o.returns then s.count c 0x0002 else s

/-- An operation whose strand is gone: its faults are dropped (R128), and a unit that faulted, which would be tried again by
the strand's replay only, is done (R180). -/
def Op.abandoned (o : Op) : Op :=
  { o with faults := [], todo := if isUnit o.instr && !o.faults.isEmpty then 0#64 else o.todo }

/-- Operation n of core c with what its performing left: complete, or still in the list. A fault under another
generation raises no trap (R128). -/
def State.settleOp (s : State) (c n : Nat) (o : Op) : State :=
  let o := if (s.core c).gen o.slot = o.gen then o else o.abandoned
  (if o.todo == 0#64 && o.faults.isEmpty then s.finishOp c n o
   else s.modCore c fun k => k.setOp n o).reportExits

/-- Lanes of operation n of core c performed, if it may be performed now. -/
def State.performAt (s : State) (c n : Nat) (sync cached : Bool) (lanes : LaneMask) : State :=
  match (s.core c).ops[n]? with
  | none => s
  | some o =>
    if o.todo == 0#64 || !s.eligible c n then s
    else
      match s.performOp c o sync cached lanes with
      | (s, o) => s.settleOp c n o

end Sys2Proof.Machine
end

