-- ==== Sys2Proof/Machine/Life.lean ====
section
/-! DEFINITION. How threads, strands and blocks end: barriers and their breaks, the gang latch, the release of a slot,
the end of a block (R92, R205, R239, R248, R318, R329-R338). -/

namespace Sys2Proof.Machine

/-! ### Blocks and barriers -/

/-- The block of a launch and index that is placed in this package. -/
def State.block? (s : State) (launch : Nat) (index : DWord) : Option Block :=
  s.blocks.find? fun b => b.launch == launch && b.index == index

/-- A block replaced. -/
def State.setBlock (s : State) (b : Block) : State :=
  { s with blocks := s.blocks.map fun x => if x.launch = b.launch ∧ x.index = b.index then b else x }

/-- Whether a core is one that a block occupies. -/
def Block.occupies (b : Block) (c : Nat) : Bool := decide (b.first ≤ c) && decide (c < b.first + b.ncores)

/-- Whether a strand is a member of a block. -/
def Block.hasStrand (b : Block) (st : Strand) : Bool := st.member && st.launch == b.launch && st.block == b.index

/-- Whether a saved strand is a member of a block. -/
def Block.hasNote (b : Block) (x : SavedNote) : Bool := x.member && x.launch == b.launch && x.block == b.index

/-- Every saved strand of a block changed by f. -/
def State.mapSaved (s : State) (b : Block) (f : SavedNote → SavedNote) : State :=
  { s with cores := s.cores.map fun k =>
    (k.1, { k.2 with saved := k.2.saved.map fun x => if b.hasNote x then f x else x }) }

/-- Every strand of a core changed by f. -/
def CoreSt.mapStrands (k : CoreSt) (f : Nat → Strand → Strand) : CoreSt :=
  { k with slots := k.slots.map fun x => (x.1, f x.1 x.2) }

/-- Every strand changed by f. -/
def State.mapStrands (s : State) (f : Nat → Nat → Strand → Strand) : State :=
  { s with cores := s.cores.map fun x => (x.1, x.2.mapStrands (f x.1)) }

/-- Every strand that satisfies a test: core, slot, strand. -/
def State.strandsWhere (s : State) (f : Strand → Bool) : List (Nat × Nat × Strand) :=
  s.cores.flatMap fun k => (k.2.slots.filter fun x => f x.2).map fun x => (k.1, x.1, x.2)

/-- Whether a wait at barrier n is over in phase P (R333). -/
def Wait.passed (w : Wait) (n : Nat) (phase : BitVec 32) : Bool :=
  match w with
  | .bar m p _ => m == n && phase != p
  | .barw m p _ => m == n && decide (1 ≤ (phase - p).toNat) && decide ((phase - p).toNat ≤ 2 ^ 31 - 1)
  | .saving _ _ _ (some (m, p, _)) => m == n && decide (1 ≤ (phase - p).toNat) && decide ((phase - p).toNat ≤ 2 ^ 31 - 1)
  | _ => false

/-- A wait at a barrier that is over: nothing, or the save under way (R322). -/
def Wait.left (w : Wait) : Wait :=
  match w with
  | .saving kind live granules _ => .saving kind live granules Option.none
  | _ => .none

/-- Whether a wait is for the completion of phase P of barrier n. -/
def Wait.awaits (w : Wait) (n : Nat) (phase : BitVec 32) : Bool :=
  match w with
  | .bar m p _ | .barw m p _ => m == n && p == phase
  | .saving _ _ _ (some (m, p, _)) => m == n && p == phase
  | _ => false

/-- Whether a saved strand waits for the completion of phase P of barrier n. -/
def SavedNote.awaits (x : SavedNote) (n : Nat) (phase : BitVec 32) : Bool :=
  match x.bar with
  | some (m, p, _) => m == n && p == phase && !x.broken
  | none => false

/-- A saved strand after an event at barrier n, now in phase P (R338). -/
def SavedNote.release (n : Nat) (phase : BitVec 32) (x : SavedNote) : SavedNote :=
  if !x.broken && (Wait.saving 0 0#256 0#64 x.bar).passed n phase then { x with bar := none } else x

/-- One event at a barrier (R330): f changes it, and a phase completes when A ≥ E and someone arrived or waits.
Every strand whose wait is over goes on. Phases completed are counted at the barrier's core (R348). -/
def State.barrierEvent (s : State) (blk : Block) (n : Nat) (f : Barrier → Barrier) : State :=
  match blk.barriers[n]? with
  | none => s
  | some b =>
    let b := f b
    let waiting := !(s.strandsWhere fun st => blk.hasStrand st && st.wait.awaits n b.phase).isEmpty ||
      s.cores.any fun k => k.2.saved.any fun x => blk.hasNote x && x.awaits n b.phase
    let full := decide (b.expected ≤ b.arrived) && (decide (0 < b.arrived) || waiting)
    let b := if full then { b with phase := b.phase + 1#32, arrived := 0 } else b
    let s := s.setBlock { blk with barriers := blk.barriers.set n b }
    let s := if full then s.count blk.first 0x10000 else s
    (s.mapSaved blk (SavedNote.release n b.phase)).mapStrands fun _ _ st =>
      if blk.hasStrand st && st.wait.passed n b.phase then { st with wait := st.wait.left } else st

/-- One event at barrier n of the block of a launch and index. -/
def State.atBarrier (s : State) (launch : Nat) (index : DWord) (n : Nat) (f : Barrier → Barrier) : State :=
  match s.block? launch index with
  | some b => s.barrierEvent b n f
  | none => s

/-- One thread less is expected at every barrier of a block (R336). -/
def State.reduceExpected (s : State) (launch : Nat) (index : DWord) : State :=
  match s.block? launch index with
  | none => s
  | some b => (List.range b.barriers.length).foldl
      (fun s n => s.atBarrier launch index n fun x => { x with expected := x.expected - 1 }) s

/-- As often as threads leave, one event each (R336). -/
def State.reduceBy (launch : Nat) (index : DWord) : Nat → State → State
  | 0, s => s
  | n + 1, s => State.reduceBy launch index n (s.reduceExpected launch index)

/-! ### Breaks -/

/-- A break delivered to the strand of a slot (R248, R337): *barrier broken* in the lanes given, with a skid of 0; the
strand issues nothing before the trap is entered. -/
def State.breakStrand (s : State) (c sl : Nat) (lanes : LaneMask) : State :=
  match s.strand? c sl with
  | none => s
  | some st =>
    let o : Op :=
      { slot := sl, gen := (s.core c).gen sl, launch := st.launch, serial := st.issued, instr := .bar 0#4,
        mode := st.group.mode, lanes := lanes, todo := 0#64, vals := [], gvals := [], flag := 15, uniform := false, flags := 0#5,
        clause := st.pc, idx := st.pcIdx, domain := st.domain, keyid := st.keyid, priv := st.mode, results := [],
        gresult := none, faults := (lanesOf lanes).map (fun l => ⟨l, .barrierBroken, 0⟩), remote := [] }
    (s.setStrand c sl { st with wait := .trapping }).modCore c fun k => { k with ops := k.ops ++ [o] }

/-- The lanes that were active at a strand's wait for a barrier. -/
def Wait.barrierLanes : Wait → Option LaneMask
  | .bar _ _ m | .barw _ _ m => some m
  | .saving _ _ _ (some (_, _, m)) => some m
  | _ => Option.none

/-- Every barrier of a block is broken, and every strand waiting at one raises *barrier broken* (R337). Those not broken before
are counted (R348). -/
def State.breakBlock (s : State) (launch : Nat) (index : DWord) : State :=
  match s.block? launch index with
  | none => s
  | some b =>
    let s := s.setBlock { b with barriers := b.barriers.map fun x => { x with broken := true } }
    let s := s.mapSaved b fun x => if x.bar.isSome then { x with broken := true } else x
    let s := s.count b.first 0x10001 (b.barriers.filter fun x => !x.broken).length
    (s.strandsWhere fun st => b.hasStrand st && st.wait.barrierLanes.isSome).foldl
      (fun s x => s.breakStrand x.1 x.2.1 (x.2.2.wait.barrierLanes.getD 0#64)) s

/-- The entries of a gang register (Table 10-2). -/
def gangList (g : DWord) : List Nat := (List.range (slice g 2 0)).map fun i => slice g (6 * i + 8) (6 * i + 3)

/-- Whether a strand waits in the gang latch. -/
def Strand.inLatch (st : Strand) : Bool :=
  match st.wait with
  | .latch _ => true
  | _ => false

/-- Every strand of core c that waits in the latch on a list that names a slot raises *barrier broken*, and the barriers
of the blocks of broken members break (R248, R337). Each list is one gang, counted once (R262). -/
def State.breakGang (s : State) (c sl : Nat) : State :=
  let ws := (s.core c).slots.filter fun x => x.2.inLatch && (gangList x.2.group.gang).contains sl
  ws.foldl (fun s x =>
    let s := s.breakStrand c x.1 x.2.live
    if x.2.member then s.breakBlock x.2.launch x.2.block else s)
    (s.count c 0x3006 (ws.map fun x => gangList x.2.group.gang).dedup.length)

/-! ### Ends -/

/-- The strand of core c that work issued in a slot under a generation belongs to: that slot's, else one that was saved since
and stands elsewhere (R88). -/
def CoreSt.strandOf (k : CoreSt) (sl : Nat) (gen : BitVec 8) : Option (Nat × Strand) :=
  match k.slots.find? fun x => x.1 == sl && k.gen sl == gen with
  | some x => some x
  | none => k.slots.find? fun x => x.2.names.contains (sl, gen)

/-- Whether queued matrix work names a slot and generation as its issuer's. -/
def CoreSt.queueNames (k : CoreSt) (n : Nat × BitVec 8) : Bool := k.matrix.queue.any fun q => q.strands.contains n

/-- The slots and generations that no queued matrix work names are forgotten. -/
def CoreSt.pruneNames (k : CoreSt) : CoreSt :=
  { k with
    slots := k.slots.map fun x => (x.1, { x.2 with names := x.2.names.filter k.queueNames })
    saved := k.saved.map fun x => { x with names := x.names.filter k.queueNames } }

/-- The faults of a gone strand are dropped: an operation goes when no lane of it is left to be performed, and a unit that
faulted goes whole (R92, R128, R180). -/
def CoreSt.dropFaulted (k : CoreSt) (sl : Nat) : CoreSt :=
  let mine (o : Op) : Bool := o.slot == sl && o.gen == k.gen sl && !o.faults.isEmpty
  { k with ops := (k.ops.map fun o => if mine o then (o.abandoned, true) else (o, false)).filterMap fun x =>
      if x.2 && x.1.todo == 0#64 then none else some x.1 }

/-- Whether a new strand may take a slot: it is empty, and no result issued under the generation that the strand would take
is in flight (R128), nor queued matrix work (R88). -/
def CoreSt.slotFree (k : CoreSt) (sl : Nat) : Bool :=
  (Assoc.find k.slots sl).isNone && !(k.ops.any fun o => o.slot == sl && o.gen == k.gen sl && o.returns) &&
  !k.queueNames (sl, k.gen sl)

/-- The slots that a new strand may take, ascending. -/
def CoreSt.freeSlots (k : CoreSt) : List Nat := (List.range 64).filter k.slotFree

/-- The matrix parts of a block on core c are released once the block has ended and none of its operations is queued
(R239). -/
def State.releaseMatrix (s : State) (c launch : Nat) (index : DWord) : State :=
  let m := (s.core c).matrix
  if (s.block? launch index).isSome || m.queue.any (fun q => q.launch == launch && q.block == index) then s
  else
    let mine := (m.rows.filter fun r => r.2.1 == launch && r.2.2 == index).map (·.1)
    let m : Matrix := { m with
      rows := m.rows.filter fun r => !mine.contains r.1
      accum := m.accum.filter fun a => !mine.contains (a.1 / 64) }
    let m : Matrix := if m.planes = some (launch, index) then
        { m with planes := none, shadow := Plane.reset, active := Plane.reset, lower := -2147483648,
                 upper := 2147483647, forced := 0#32 }
      else m
    s.modCore c fun k => { k with matrix := m }

/-- The buffers, queue entries and matrix parts of a block on core c freed (R205). -/
def State.freeBlockOn (s : State) (launch : Nat) (index : DWord) (c : Nat) : State :=
  let s := s.modCore c fun k =>
    let mine := k.buffers.filter fun b => b.launch == launch && b.block == index
    let k := mine.foldl CoreSt.dropBuffer k
    { k with handOver := k.handOver.filter fun h => !(h.launch == launch && h.block == index) }
  s.releaseMatrix c launch index

/-- Whether a scratch write of a strand of a block to some of its buffers is still to be performed (R92). -/
def State.storing (s : State) (b : Block) (p : Buffer → Bool) : Bool :=
  (clusterOf b.first).any fun c => (s.core c).ops.any fun o =>
    isScratchOp o.instr && !isPureRead o.instr && o.launch == b.launch &&
    (lanesOf o.todo).any fun l =>
      (s.scratchAt c b.launch b.index true (o.addr l) (4 * wordCount o.instr o.mode)).any fun y => p y.2

/-- A block ends when every thread of it has exited or been killed, and its copies have completed (R205, R214); its scratch
writes too (R92; DEDUCED, log 83). -/
def State.endBlockIfDone (s : State) (launch : Nat) (index : DWord) : State :=
  match s.block? launch index with
  | none => s
  | some b =>
    let copying := (List.range b.ncores).any fun i =>
      (s.core (b.first + i)).copies.any fun q => q.launch == launch && q.block == index
    if b.alive ≠ 0 ∨ copying ∨ s.storing b fun _ => true then s
    else
      let s := { s with blocks := s.blocks.filter fun x => !(x.launch == launch && x.index == index) }
      (List.range b.ncores).foldl (fun s i => s.freeBlockOn launch index (b.first + i)) s

/-- The blocks of a launch end that are done. -/
def State.endBlocks (s : State) (launch : Nat) : State :=
  (s.blocks.filter fun b => b.launch == launch && b.alive == 0).foldl (fun s b => s.endBlockIfDone b.launch b.index) s

/-- The threads of a mask of a strand in a slot end: fewer in the launch, and in the block when they were members; those of
another package's launch report their exit there once their writes are performed (R273). -/
def State.threadsEnd (s : State) (c sl : Nat) (st : Strand) (m : LaneMask) : State :=
  let n := popCount m
  let s := if launchOwn st.launch then
      match Assoc.find s.launches st.launch with
      | some l => { s with launches := Assoc.set s.launches st.launch { l with threads := l.threads - n } }
      | none => s
    else if m == 0#64 then s
    else
      let x : ExitNote := ⟨c, sl, (s.core c).gen sl, m, st.launch⟩
      { s with links := { s.links with exits := s.links.exits ++ [x] } }.reportExits
  if st.member then
    match s.block? st.launch st.block with
    | some b => s.setBlock { b with alive := b.alive - n }
    | none => s
  else s

/-- The departure that a wait stands for. -/
def Wait.departure? : Wait → Option Departure
  | .depart d => some d
  | _ => Option.none

/-- The departures of a strand whose flacons are not sent: that it waits for, and those which a trap interrupted. -/
def Strand.departures (st : Strand) : List Departure :=
  (st.wait :: st.frames.map FrameNote.wait).filterMap Wait.departure?

/-- The destination slots reserved by a departure given back, here or in another package. -/
def State.unreserve (s : State) (d : Departure) : State :=
  d.deps.foldl (fun s x =>
    if x.pkg = Config.packageNumber then s.modCore x.core fun k => { k with reserved := k.reserved - 1 }
    else s.sendTo x.pkg (.slotsBack x.core 1)) s

/-- What a departure has asked of other packages is given up (R355): slots that they granted go back. -/
def State.dropInquiry (s : State) (c sl : Nat) : State :=
  match (s.strand? c sl).bind Strand.inquiry with
  | none => s
  | some q =>
    let s := s.modStrand c sl fun st => { st with inquiry := none }
    q.slots.foldl (fun s a => match a.answer with
      | some (some k) => s.sendTo a.pkg (.slotsBack k a.threads)
      | _ => s) s

/-- What a pending pre-emption request ends with when its strand is gone (Table 13-10). -/
def State.dropRequest (s : State) (c sl : Nat) (p : Preempt) : State :=
  match p.future with
  | some (k, f) => s.completeFuture k f 0x3E
  | none => s.modCore c fun k => { k with events := k.events ++ [.requestRefused sl] }

/-- A slot is released (R92): its generation moves on, its cursors close, a gang waiting on it breaks, bindings of its
lineage end when no strand of it is left on the core. -/
def State.releaseSlot (s : State) (c sl : Nat) : State :=
  match s.strand? c sl with
  | none => s
  | some st =>
    let s := st.departures.foldl State.unreserve (s.dropInquiry c sl)
    let s := match st.preempt with
      | some p => s.dropRequest c sl p
      | none => s
    let s := s.modCore c fun k =>
      let g := k.gen sl
      let k := k.dropFaulted sl
      let k := { k with
        slots := Assoc.erase k.slots sl
        gens := Assoc.put 0#8 k.gens sl (g + 1#8)
        cursors := k.cursors.filter fun x => !(x.2.slot == sl && x.2.gen == g) }
      k.unbindLineage st.lineage
    s.breakGang c sl

/-- A strand is killed (R318): the barriers of its block break, its frames are abandoned, its slot is released. -/
def State.killStrand (s : State) (c sl : Nat) : State :=
  match s.strand? c sl with
  | none => s
  | some st =>
    let s := if st.member then s.breakBlock st.launch st.block else s
    let s := s.threadsEnd c sl st st.live
    let s := s.releaseSlot c sl
    if st.member then s.endBlockIfDone st.launch st.block else s

/-- The threads of a mask exit (R112, R336): their registers keep their words (R144); the barriers of the block expect
fewer; the strand ends with its last live thread, whatever frame is open (R369). -/
def State.exitLanes (s : State) (c sl : Nat) (m : LaneMask) : State :=
  match s.strand? c sl with
  | none => s
  | some st =>
    let m := m &&& st.live
    let n := popCount m
    let s := s.setStrand c sl { st.keepLanes m with exited := st.exited ||| m }
    let s := s.threadsEnd c sl st m
    let s := if st.member then State.reduceBy st.launch st.block n s else s
    let s := if st.live &&& ~~~ m == 0#64 then s.releaseSlot c sl else s
    if st.member then s.endBlockIfDone st.launch st.block else s

end Sys2Proof.Machine
end

