-- ==== Sys2Proof/Machine/Ops.lean ====
section
/-! DEFINITION. Taking a trap and returning from one (R304-R315), the checks of a word at issue in their order (R67,
R313), and the one path by which every word issues: checks, effect, last-read marks, completion of the clause. -/

namespace Sys2Proof.Machine

/-! ### Position in the code (R43, R110, R311) -/

/-- Where the strand stands: the clause and word that issue next. -/
def Strand.point (st : Strand) : DWord × Nat :=
  match st.clause with
  | some k => (k.addr, k.idx)
  | none => (st.pc, st.pcIdx)

/-- The header that follows a clause. -/
def Clause.next (k : Clause) : DWord := k.addr + BitVec.ofNat 64 (4 * (k.words.length + 1))

/-- The header that follows the clause being issued. -/
def Strand.after (st : Strand) : DWord :=
  match st.clause with
  | some k => k.next
  | none => st.pc

/-- The strand at a header. -/
def Strand.goto (st : Strand) (pc : DWord) : Strand := { st with clause := none, pc := pc, pcIdx := 0 }

/-- The loop check on falling through from a clause (R110), on the stack with its top first. -/
def loopCheck (addr after : DWord) : List LoopEntry → DWord × List LoopEntry
  | [] => (after, [])
  | e :: es =>
    if e.endAt ≠ addr then (after, e :: es)
    else if e.remaining - 1#64 ≠ 0#64 then (e.body, { e with remaining := e.remaining - 1#64 } :: es)
    else loopCheck addr after es

/-- The strand falls through from the last word of its clause. -/
def Strand.fallThrough (st : Strand) : Strand :=
  match st.clause with
  | none => st
  | some k =>
    let r := loopCheck k.addr k.next st.group.lstack.reverse
    { st with group := { st.group with lstack := r.2.reverse } }.goto r.1

/-- How a word leaves the strand: at the next word, at a header, or where its effect put it. -/
inductive Flow where
  | seq
  | jump (pc : DWord)
  | stay
  deriving DecidableEq, Repr

/-- A strand at its turn: it is passed over no more (R103). -/
def Strand.atTurn (st : Strand) : Strand := { st with passed := 0, urgent := false }

/-- The word is done: one instruction more has issued, which ends the count of cycles passed over (R103), and the strand stands
at what follows. -/
def Strand.retire (st : Strand) (f : Flow) : Strand :=
  let st := { st with issued := st.issued + 1, stalled := 0, passed := 0, urgent := false }
  match f, st.clause with
  | .seq, some k =>
    if k.idx + 1 < k.words.length then { st with clause := some { k with idx := k.idx + 1 } } else st.fallThrough
  | .jump pc, _ => st.goto pc
  | _, _ => st

/-! ### Settling (R309, R310) -/

/-- Operation n of core c settled if it is of the strand of a slot: performed where it can be. A fence stays while an older
operation of the strand does. -/
def State.settleAt (s : State) (c sl n : Nat) : State :=
  match (s.core c).ops[n]? with
  | none => s
  | some o =>
    if !(o.slot == sl && o.gen == (s.core c).gen sl) then s
    else if o.instr == .fence then s
    else if o.todo == 0#64 && o.faults.isEmpty then s.finishOp c n o
    else s.performAt c n true false (~~~ 0#64)

/-- Every operation from n on settled; the fuel is the length of the list. -/
def State.settleFrom (c sl : Nat) : Nat → Nat → State → State
  | 0, _, s => s
  | fuel + 1, n, s =>
    let s' := s.settleAt c sl n
    if (s'.core c).ops.length < (s.core c).ops.length then State.settleFrom c sl fuel n s'
    else State.settleFrom c sl fuel (n + 1) s'

/-- Every operation of a strand settled. -/
def State.settle (s : State) (c sl : Nat) : State := State.settleFrom c sl (s.core c).ops.length 0 s

/-- Whether settling leaves a strand an operation that only a response from another package can complete: one asked for, one
that nothing older keeps from being asked for, or one that a gather holds back. -/
def State.awaitsLink (s : State) (c sl : Nat) : Bool :=
  let t := s.settle c sl
  (t.core c).ops.zipIdx.any fun x =>
    x.1.slot == sl && x.1.gen == (t.core c).gen sl &&
    (t.heldByGather c x.1 || (t.remoteMask c x.1 != 0#64 && (!x.1.remote.isEmpty || t.eligible c x.2)))

/-- Whether an operation becomes a replay entry: one of the table-space or scratch group (R310). -/
def isReplayed : Instr → Bool
  | .lkp .. | .ins .. | .ups .. | .del .. | .rekey .. | .ld .. | .st .. | .atom .. | .ldrow .. | .ratom ..
  | .copen .. | .cstep .. | .cstepn .. | .cseek .. | .sld .. | .sst .. | .satom .. => true
  | _ => false

/-! ### Frames (Tables 13-2 to 13-4) -/

/-- TRAPCAUSE of a lane (Table 13-2). -/
def causeWord (entry skid detail code : Nat) : Word :=
  BitVec.ofNat 32 (entry * 2 ^ 24 + skid * 2 ^ 16 + detail * 2 ^ 8 + code)

/-- The fields of TRAPCAUSE in a word that software may have written: its reserved bits read as zero (R306, R7). -/
def causeFields (x : Word) : Word := x &&& 0x1F0FFFFF#32

/-- The lane mask of a replay entry: the faulting lanes, and those not performed. -/
def Op.entryMask (o : Op) : LaneMask := o.todo ||| maskOf (o.faults.map (·.lane))

/-- A replay entry (Table 13-4): 64 + 64 × 72 bytes. -/
def Op.entryBytes (o : Op) : List Byte :=
  let head :=
    bytesOf 4 ((encode o.instr).getD 0#32).toNat ++ bytesOf 4 o.mode.toNat ++ bytesOf 8 o.entryMask.toNat ++
    (List.range 3).flatMap (fun i => bytesOf 8 (o.gvals.getD i 0#64).toNat) ++
    bytesOf 1 o.flag ++ bytesOf 1 (if o.faults.isEmpty then 2 else 1) ++
    bytesOf 1 ((o.faults.map fun f => f.cause.code).headD 0) ++ bytesOf 1 o.idx ++ bytesOf 4 0 ++
    bytesOf 8 o.clause.toNat ++ bytesOf 8 0
  head ++ (List.range 64).flatMap fun l => (List.range 18).flatMap fun i => bytesOf 4 ((o.words l).getD i 0#32).toNat

/-- The header of a trap frame (Table 13-3): 512 bytes. -/
def frameBytes (st : Strand) (resume : DWord × Nat) (entries depth service : Nat) (lanes : LaneMask)
    (causes : List (Nat × Word)) : List Byte :=
  bytesOf 8 resume.1.toNat ++ bytesOf 1 resume.2 ++ bytesOf 1 entries ++ bytesOf 1 st.mode.code ++ bytesOf 1 depth ++
  bytesOf 2 service ++ bytesOf 2 0 ++
  (List.range 4).flatMap (fun i => bytesOf 8 (st.kr i).toNat) ++
  (List.range 4).flatMap (fun i => bytesOf 8 (st.gr (60 + i)).toNat) ++
  bytesOf 4 st.group.mode.toNat ++ bytesOf 1 st.group.astat.toNat ++ bytesOf 1 st.group.aten.toNat ++
  bytesOf 1 st.group.rstack.length ++ bytesOf 1 st.group.lstack.length ++ bytesOf 8 lanes.toNat ++
  (List.range 64).flatMap (fun l => bytesOf 4 (Assoc.get 0#32 causes l).toNat) ++ List.replicate 160 0#8

/-- Bytes of a frame (R308). -/
def frameSize : Nat := 75264

/-- The address of the frame of a slot at a depth, in the S area or the H area (R308). -/
def CoreSt.frameAt (k : CoreSt) (hyp : Bool) (sl depth : Nat) : Nat :=
  if hyp then k.hTrapBase.toNat + 1048576 + (3 * sl + depth - 1) * frameSize
  else k.trapFrame.toNat + (2 * sl + depth - 1) * frameSize

/-- The causes of the lanes at entry (R310, R311): the oldest fault of an operation in the lane, else the precise trap. -/
def trapCauses (st : Strand) (ops : List Op) (precise : List LaneFault) : List (Nat × Word) :=
  let entries := ops.filter fun o => isReplayed o.instr
  (List.range 64).filterMap fun l =>
    match ops.find? fun o => o.faults.any fun f => f.lane == l with
    | some o =>
      match o.faults.find? fun f => f.lane == l with
      | some f =>
        let entry := match entries.findIdx? (· == o) with
          | some i => i
          | none => 31
        let skid := match o.instr with
          | .bar .. => 0
          | _ => min 15 (st.issued - o.serial - 1)
        some (l, causeWord entry skid f.detail f.cause.code)
      | none => none
    | none =>
      match precise.find? fun f => f.lane == l with
      | some f => some (l, causeWord 31 0 f.detail f.cause.code)
      | none => none

/-- Every cause of a list replaced by the fault of the frame's own write, with bit 15 set (R308). -/
def frameFaulted (f : Fail) (causes : List (Nat × Word)) : List (Nat × Word) :=
  causes.map fun x => (x.1, causeWord (slice x.2 28 24) (slice x.2 19 16) (f.2 % 128 + 128) f.1.code)

/-- A notice for the hypervisor, and the strand killed (R307). -/
def State.trapKill (s : State) (c sl : Nat) (st : Strand) (cause : Nat) : State :=
  let n : Notice := .trapDepth st.launch sl ((s.core c).gen sl) (st.frames.reverse.map (·.cause) ++ [cause])
  { s with mgmt := { s.mgmt with notices := s.mgmt.notices ++ [n] } }.killStrand c sl

/-- Whether an operation is kept beside the replay entries: a fence, or a POST that is not performed (log 74). -/
def Op.kept (o : Op) : Bool := o.instr == .fence || (isPost o.instr && o.todo != 0#64 && o.faults.isEmpty)

/-- The operations of a strand that are kept beside the replay entries, each with the entries before it, of which some are
counted already. -/
def heldNotes : Nat → List Op → List HeldNote
  | _, [] => []
  | n, o :: os => if o.kept then ⟨n, o⟩ :: heldNotes n os else heldNotes (if isReplayed o.instr then n + 1 else n) os

/-- The strand as the handler finds it (R309, items 4 to 7). -/
def enterHandler (st : Strand) (k : CoreSt) (hyp : Bool) (causes : List (Nat × Word)) (entries : List Op)
    (held : List HeldNote) : Strand :=
  let lanes := maskOf (causes.map (·.1))
  let note : FrameNote :=
    { masks := entries.map Op.entryMask, held := held, cause := slice ((causes.map (·.2)).headD 0#32) 7 0,
      hyp := hyp, wait := if st.wait = .trapping then .none else st.wait }
  let st := { st with
    trapCause := causes, trapMask := lanes, prevMode := st.mode, mode := if hyp then .h else .s,
    depth := st.depth + 1, frames := note :: st.frames, region := none, wait := .none, stalled := 0,
    group := { st.group with mode := 0#32, aten := 0#5 } }
  ((st.setK 0 lanes)).goto (if hyp then k.hTrapBase else k.trapBase)

/-- The write of a frame and its replay entries through the translation of the entered mode (R308). -/
def State.writeFrame (s : State) (c sl : Nat) (st : Strand) (hyp : Bool) (resume : DWord × Nat) (service : Nat)
    (causes : List (Nat × Word)) (entries : List Op) : State × Except (Fail × Nat) Unit :=
  let w : Who := ⟨c, st.domain, st.keyid, if hyp then .h else .s, st.launch⟩
  let lanes := maskOf (causes.map (·.1))
  s.writeV w ((s.core c).frameAt hyp sl (st.depth + 1))
    (frameBytes st resume entries.length (st.depth + 1) service lanes causes ++ entries.flatMap Op.entryBytes)

/-- The results of the lanes that an operation completed before it became a replay entry (R169, R310), as those lanes
hold them in the handler (log 71). -/
def keepResults (o : Op) (st : Strand) : Strand := writeResults { o with uniform := false } st

/-- The strand enters its handler: its operations leave the core's list, being in the frame; the lanes that they
completed hold their results. The fences and POSTs among the entries are kept for the replay (R225, R347), and what a
departure has asked of other packages is given up (log 35). -/
def State.entered (s : State) (c sl : Nat) (st : Strand) (hyp : Bool) (causes : List (Nat × Word)) (entries : List Op)
    (held : List HeldNote) : State :=
  let armed := match s.freeze.armedTrap with
    | some code => causes.any fun x => slice x.2 7 0 == code
    | none => false
  let st := ((s.core c).strandOps sl).foldl (fun x o => keepResults o x) st
  let s := (s.modCore c fun k => { k with ops := k.ops.filter fun o => !(o.slot == sl && o.gen == k.gen sl) }).count c 0x0003
  let s := (s.dropInquiry c sl).setStrand c sl { enterHandler st (s.core c) hyp causes entries held with inquiry := none }
  if armed then s.freezeBy 2 else s

/-- A frame written for settled operations, by H where R307 says so, and the handler entered. -/
def State.openFrame (s : State) (c sl : Nat) (st : Strand) (causes : List (Nat × Word)) (entries : List Op)
    (held : List HeldNote) (resume : DWord × Nat) (service : Nat) (hcall : Bool) : State :=
  let code := slice ((causes.map (·.2)).headD 0#32) 7 0
  let second := causes.any fun x =>
    (slice x.2 7 0 == Cause.translation.code || slice x.2 7 0 == Cause.protection.code) && x.2.getLsbD 8
  if st.depth = 3 then s.trapKill c sl st code
  else if hcall || second || st.depth + 1 == 3 then
    match s.writeFrame c sl st true resume service causes entries with
    | (s, .error _) => s.trapKill c sl st code
    | (s, .ok ()) => s.entered c sl st true causes entries held
  else
    match s.writeFrame c sl st false resume service causes entries with
    | (s, .ok ()) => s.entered c sl st false causes entries held
    | (s, .error (f, _)) =>
      let causes := frameFaulted f causes
      match s.writeFrame c sl st true resume service causes entries with
      | (s, .error _) => s.trapKill c sl st f.1.code
      | (s, .ok ()) => s.entered c sl st true causes entries held

/-- Whether a word names the plane set or accumulator rows: a matrix instruction other than GANG and MSTEP. -/
def namesParts (w : Word) : Bool :=
  match decode w with
  | .ok (.mlds ..) | .ok .mact | .ok (.mmul ..) | .ok (.mmsp ..) | .ok (.mband ..) | .ok (.scacc ..) | .ok (.mrd ..)
  | .ok (.mclr ..) => true
  | _ => false

/-- Precise *ownership* and *malformed metadata* faults counted: those on the plane set or rows (R262), and the other ownership
faults (R206; DEDUCED, log 44). -/
def State.countTrap (s : State) (c : Nat) (st : Strand) (fs : List LaneFault) : State :=
  let parts := match st.clause with
    | some k => namesParts (k.words.getD k.idx 0#32)
    | none => false
  if fs.any fun f => f.cause == .ownership then s.count c (if parts then 0x3005 else 0x2002)
  else if fs.any fun f => f.cause == .malformedMetadata then s.count c 0x3004
  else s

/-- TAKING A TRAP (R307-R311), for the strand of a slot of core c: its operations are settled, the precise faults given
join those of its operations, the frame is written and the handler entered. resume is the point of a precise trap. -/
def State.takeTrap (s : State) (c sl : Nat) (precise : List LaneFault) (resume : DWord × Nat) (service : Nat := 0)
    (hcall : Bool := false) : State :=
  let s := s.settle c sl
  match s.strand? c sl with
  | none => s
  | some st =>
    let ops := (s.core c).strandOps sl
    let causes := trapCauses st ops precise
    if causes.isEmpty then s
    else
      let s := s.countTrap c st precise
      s.openFrame c sl st causes (ops.filter fun o => isReplayed o.instr) (heldNotes 0 ops) resume service hcall

/-! ### The word at issue -/

/-- One fault in each lane of a mask. -/
def faultIn (m : LaneMask) (k : Cause) (detail : Nat := 0) : List LaneFault := (lanesOf m).map fun l => ⟨l, k, detail⟩

/-- The lanes that an instruction-wide trap is delivered to: the active lanes, or with none the live ones (log 8). -/
def Strand.trapLanes (st : Strand) : LaneMask := if st.active == 0#64 then st.live else st.active

/-- A precise trap of the word that issues: it takes no effect and is the resume point (R311), and the strand has had its turn. It
waits for responses from other packages that settling needs. -/
def State.trapWord (s : State) (st : Strand) (fs : List LaneFault) : State :=
  if s.awaitsLink s.cur.1 s.cur.2 then s else (s.modHere Strand.atTurn).takeTrap s.cur.1 s.cur.2 fs st.point

/-- The lowest mode of a privileged register (Table 13-2). -/
def specialMode (n : Nat) : Nat := if 16 ≤ n ∧ n ≤ 20 then 1 else if 32 ≤ n ∧ n ≤ 34 then 2 else 0

/-- The lowest mode of an instruction (R66, Table 3-8). -/
def minMode : Instr → Nat
  | .sret | .hcall _ | .tinv _ _ | .ctxsv _ _ | .ctxld _ _ | .kill _ => 1
  | .hret => 2
  | .mfpr _ n | .mtpr _ n => specialMode n.toNat
  | .sreg _ n => if n.toNat = 7 then 1 else 0
  | _ => 0

/-- Every register that a word names or reaches lies below N and 256, and where it must be even it is (R54). -/
def Use.fits (u : Use) (n : Nat) : Bool :=
  (u.aRegs ++ u.reads ++ u.dests ++ u.named).all (fun r => decide (r < n) && decide (r < 256)) && u.even.all (fun r => r % 2 == 0)

/-- The checks of R67 on a word, in their order; types is the check of step 4. -/
def checkWord (st : Strand) (i : Instr) (u : Use) (types : Bool) : Option Cause :=
  if st.mode.code < minMode i then some .privileged
  else if (match i with
    | .cvt _ _ t => !typeOk t
    | _ => false) then some .illegalMode
  else if !i.wf || !u.fits st.nregs then some .illegalInstruction
  else if !types then some .illegalMode
  else none

/-- Step 5 of Table 13-6 (R122, R126, R127). -/
def checkRegs (st : Strand) (u : Use) : Option Cause :=
  if (u.aRegs ++ u.reads ++ u.dests).any (fun r => st.vpend.getLsbD r) || (u.gRead ++ u.gDest).any (fun g => st.gpend.getLsbD g)
  then some .unwaitedRead
  else if (u.aRegs ++ u.reads).any fun r => (st.vreg? r).isNone then some .emptyRegister
  else none

/-- Step 6 (R327): a vector register of the live-in set of an open region is written. -/
def checkIdem (st : Strand) (u : Use) : Bool :=
  match st.region with
  | some r => u.dests.any fun d => r.live.getLsbD d
  | none => false

/-- Whether a granule of the issuing core is in the live-in set of an open region (R327). -/
def Strand.idemGranule (st : Strand) (g : Nat) : Bool :=
  match st.region with
  | some r => r.granules.getLsbD g
  | none => false

/-- Whether n bytes at a scratch address of a strand of core c reach a live-in granule of its core (R327). -/
def Strand.idemRange (st : Strand) (c x n : Nat) : Bool :=
  scratchCore c x == c && (List.range (ceilDiv n 4)).any fun i => st.idemGranule ((x % 2 ^ 20 + 4 * i) / granuleBytes)

/-- The first step that fails. -/
def firstFault : List (List LaneFault) → List LaneFault
  | [] => []
  | fs :: rest => if fs.isEmpty then firstFault rest else fs

/-- The first bound register of a list: its slot and future (R342). -/
def firstBound (k : CoreSt) (lineage : DWord) : List Nat → Option (Nat × Nat × Future)
  | [] => none
  | g :: gs =>
    match k.boundTo lineage g with
    | some (i, f) => some (g, i, f)
    | none => firstBound k lineage gs

/-- The statuses of complete futures delivered to bound registers that are read; none: a read must wait (R342). -/
def State.deliverBound (s : State) (lineage : DWord) : List Nat → Option State
  | [] => some s
  | g :: gs =>
    match (s.core s.cur.1).boundTo lineage g with
    | none => s.deliverBound lineage gs
    | some (_, f) =>
      if f.done then
        ((s.modHere fun st => st.setG g f.status).modCore s.cur.1 fun k => k.unbind lineage g).deliverBound lineage gs
      else none

/-- What a word brings to its issue, beside its register use. -/
structure Form where
  /-- It accepts the modes it reads (step 4 of R67). -/
  types  : Bool := true
  /-- It takes effect whatever lanes are active (R122). -/
  always : Bool := false
  /-- A read of a bound register waits (R342). -/
  waits  : Bool := true
  /-- It ends an open idempotent region (R327). -/
  ends   : Bool := false
  /-- No check follows those of R67 (R344). -/
  quiet  : Bool := false
  /-- Precise traps go to every live lane (R241). -/
  whole  : Bool := false
  /-- The guard is no condition for its lanes to be active: SEL (R62). -/
  noGuard : Bool := false
  /-- Its effect ends the binding of g[D] where it writes it: a matrix word may write nothing (R247, R340). -/
  late : Bool := false
  deriving DecidableEq, Repr

/-- The lanes that the traps of a word of some form go to. -/
def Form.lanes (f : Form) (st : Strand) : LaneMask :=
  if f.whole then st.live else if f.noGuard && st.unguarded != 0#64 then st.unguarded else st.trapLanes

/-- Whether the clause marks the word as the last read of field a (R44, R123). -/
def Strand.marked (st : Strand) : Bool :=
  match st.clause with
  | some k => (slice k.header 31 24).testBit k.idx
  | none => false

/-- The registers of field a freed, if marked. -/
def Strand.freeMarked (st : Strand) (u : Use) : Strand := if st.marked then u.aRegs.foldl Strand.freeV st else st

/-- The strand ready to be written: marked registers freed, an ended region closed (R123, R327). -/
def Strand.ready (st : Strand) (u : Use) (f : Form) : Strand :=
  let st := st.freeMarked u
  if f.ends then { st with region := none } else st

/-- The bindings of written registers end (R340). -/
def State.unbindDests (s : State) (lineage : DWord) (gs : List Nat) : State :=
  gs.foldl (fun s g => s.modCore s.cur.1 fun k => k.unbind lineage g) s

/-- The group-wide registers whose bindings end as the word takes effect. -/
def Form.ended (f : Form) (u : Use) : List Nat := if f.late then [] else u.gDest

/-- The word has taken effect: the strand, if it is still there, goes on. -/
def State.retireWord (s : State) (f : Flow) : State := s.modHere fun st => st.retire f

/-- What the effect of a word gives: the state and where the strand goes, or that the word is not ready (R101), with
what changes in the state before it. -/
abbrev Effect := Strand → State → Except (State → State) (State × Flow)

/-- THE ISSUE OF A WORD. The checks of R67, then, unless it needs an active lane and has none, the wait for bound
registers, the checks of Table 13-6 with the word's own in order, and its effect. The effect is given the strand as it
was read and the state in which marked registers are free. idle is what happens without an active lane. -/
def issue (i : Instr) (u : Use) (f : Form) (checks : Strand → State → List (List LaneFault)) (eff : Effect)
    (idle : State → State) (s : State) : Result :=
  match s.here? with
  | none => .fault .noStrand
  | some st =>
    let lanes := f.lanes st
    match checkWord st i u f.types with
    | some k => .next (s.trapWord st (faultIn lanes k))
    | none =>
      if !f.always && st.active == 0#64 then .next ((idle s).retireWord .seq)
      else
        match (if f.waits then s.deliverBound st.lineage u.gRead else some s) with
        | none => .next s
        | some s1 =>
          match s1.here? with
          | none => .fault .noStrand
          | some st1 =>
            match (if f.quiet then none else checkRegs st1 u) with
            | some k => .next (s1.trapWord st1 (faultIn lanes k))
            | none =>
              if checkIdem st1 u then .next (s1.trapWord st1 (faultIn lanes .idempotence))
              else
                let fs := firstFault (checks st1 s1)
                if !fs.isEmpty then .next (s1.trapWord st1 fs)
                else
                  match eff st1 ((s1.unbindDests st1.lineage (f.ended u)).setHere (st1.ready u f)) with
                  | .error stall => .next (stall s)
                  | .ok (s2, fl) => .next (s2.retireWord fl)

/-! ### Room (R167, R208, R310, R339) -/

/-- Whether the strand has 16 instructions of the table-space and scratch groups that are not performed (R310). -/
def CoreSt.queueFull (k : CoreSt) (sl : Nat) : Bool :=
  decide (16 ≤ ((k.strandOps sl).filter fun o => isReplayed o.instr && (o.todo != 0#64 || !o.faults.isEmpty)).length)

/-- Whether an operation takes table request entries: one of the chapter of table space (R167). -/
def isTableOp (i : Instr) : Bool := isReplayed i && !isScratchOp i

/-- Table request entries in use (R167): of operations, and of gathers. -/
def CoreSt.requests (k : CoreSt) : Nat :=
  (k.ops.filter fun o => isTableOp o.instr).foldl (fun n o => n + popCount o.todo) 0 +
  k.futures.foldl (fun n f => if f.2.done then n else n + f.2.entries) 0

/-- A stall that is counted once for the word (R167, R206, R348): kind tells the waits apart. A wait that another one interrupts and
that begins again counts again (DESIGN CHOICE, log 106). -/
def State.countStall (s : State) (kind sel : Nat) : State :=
  match s.here? with
  | some st => if st.stalled = kind then s else (s.setHere { st with stalled := kind }).count s.cur.1 sel
  | none => s

/-- What a word takes room in as it issues: the strand's 16 operations, the table request entries, the future slots or the copy
queue of its core. -/
inductive Need where
  | operation
  | entries
  | future
  | copy
  deriving DecidableEq, Repr

/-- Whether there is no room of a kind for a word of the strand that issues, which has its bound registers delivered and its
bindings ended; and how that wait is counted (R167, R206, R348). -/
def State.lacks (s : State) (st : Strand) : Need → Option (State → State)
  | .operation => if (s.core s.cur.1).queueFull s.cur.2 then some id else none
  | .entries =>
    if 2048 < (s.core s.cur.1).requests + popCount st.active then some fun s => s.countStall 1 0x1042 else none
  | .future => if (s.core s.cur.1).freeFuture.isNone then some fun s => s.countStall 3 0x10003 else none
  | .copy => if 256 ≤ (s.core s.cur.1).copies.length then some fun s => s.countStall 2 0x2006 else none

/-- The first kind of room that is lacking to a word of the strand that issues. A word that waits for a bound register is not
counted. -/
def State.noRoom (s : State) (needs : List Need) (u : Use) (f : Form) (st : Strand) : Option (State → State) :=
  if !f.always && st.active == 0#64 then none
  else
    match s.deliverBound st.lineage u.gRead with
    | some t => needs.findSome? ((t.unbindDests st.lineage u.gDest).lacks st)
    | none => (needs.findSome? ((s.unbindDests st.lineage u.gDest).lacks st)).map fun _ => id

/-- A word that takes room issues. While there is none it is not ready, and raises nothing (R167, R208, R310, R339). -/
def issueIn (needs : List Need) (i : Instr) (u : Use) (f : Form) (checks : Strand → State → List (List LaneFault))
    (eff : Effect) (idle : State → State) (s : State) : Result :=
  match (s.here?.bind fun st => s.noRoom needs u f st) with
  | some stall => .next (stall s)
  | none => issue i u f checks eff idle s

/-- An effect on the strand alone: what it reads, then the strand it writes. -/
def onStrand (f : Strand → Strand → Strand) : Effect := fun st s => .ok (s.modHere (f st), .seq)

/-- No checks of its own. -/
def noChecks : Strand → State → List (List LaneFault) := fun _ _ => []

/-- The mode word that the strand that issues has; 0 without one. -/
def State.modeWord (s : State) : Word :=
  match s.here? with
  | some st => st.group.mode
  | none => 0#32

/-! ### Issue of long-latency operations (R45, R125, R167, R310) -/

/-- The flag that a long-latency word of the clause owns (R45, R49): field A for the first of the clause, else field B. -/
def Strand.ownFlag (st : Strand) : Nat :=
  match st.clause with
  | none => 15
  | some k =>
    let earlier := (k.words.take k.idx).any fun w => flagOps.contains (slice w 31 24)
    if earlier then slice k.header 7 4 else slice k.header 11 8

/-- Whether an instruction takes a flag (Table 3-7). -/
def takesFlag : Instr → Bool
  | .st .. | .sst .. | .post .. | .fence => false
  | _ => true

/-- The operation that a word becomes: its captured operands and fields (R61, Table 13-4), and whether its sources are uniform
(R120, R176). -/
def newOp (i : Instr) (st : Strand) (sl : Nat) (gen : BitVec 8) : Op :=
  let u := opUse i st.group.mode
  let uniform := match i with
    | .ld .. | .sld .. => u.aRegs.all fun r => (st.uniform? r).isSome
    | .div .. => (u.aRegs ++ u.reads).all fun r => (st.uniform? r).isSome
    | _ => false
  { slot := sl, gen := gen, launch := st.launch, serial := st.issued, instr := i, mode := st.group.mode,
    lanes := st.active, todo := st.active, vals := (lanesOf st.active).map fun l => (l, captureLane st u l),
    gvals := captureG st u, flag := if takesFlag i then st.ownFlag else 15, uniform := uniform,
    flags := 0#5, clause := st.point.1, idx := st.point.2, domain := st.domain, keyid := st.keyid, priv := st.mode,
    results := [], gresult := none, faults := [], remote := [] }

/-- An operation joins the list of the core: its flag is cleared, its destinations are pending (R45, R125). -/
def State.startOp (s : State) (c : Nat) (o : Op) : State :=
  (s.modStrand c o.slot fun st => (pendOp o true st).setFlag o.flag false).modCore c fun k => { k with ops := k.ops ++ [o] }

/-- The modes that an operation accepts (R59, R168, R179, R207, R219). -/
def opModeOk (i : Instr) (m : Word) : Bool :=
  let readOk := modeOrder m != .rel
  let notInv := modeClass m != .inv
  let aop := match modeAOp m with
    | none => false
    | some .add | some .min | some .max =>
      (match modeType m with
       | some .i32 | some .n32 | some .f32 | some .bf16x2 | some .f16x2 => true
       | _ => false)
    | some _ => true
  match i with
  | .lkp .. | .copen .. | .cstep .. | .cseek .. | .ld .. | .ldrow .. => readOk
  | .cstepn .. => readOk && decide (modeCount m ≤ 4)
  | .ins .. | .ups .. | .del .. | .rekey .. => notInv
  | .st .. => notInv && modeOrder m != .acq
  | .atom .. => notInv && aop
  | .ratom .. => notInv && modeAOp m == some .add && (modeType m == some .f32 || modeType m == some .bf16x2)
  | .satom .. => aop
  | _ => true

/-- The lanes of an operation that satisfy a test, each with a fault. -/
def Op.faultWhere (o : Op) (k : Cause) (f : Nat → Bool) : List LaneFault :=
  ((lanesOf o.lanes).filter f).map fun l => ⟨l, k, 0⟩

/-- Whether a lane's access runs out of its row or block (R175). -/
def State.outOfRow (s : State) (c : Nat) (o : Op) (l : Nat) : Bool :=
  let x := o.addr l
  let n := 4 * wordCount o.instr o.mode
  if isFar x then decide (16384 < farOffset x + n)
  else match s.placeOf (o.who c) x with
    | some p => p.hasRows && !p.inRow n
    | none => false

/-- The row bounds of a whole-row operation (R180, R181): a reference that names no row's word 0 fails every lane, a
word beyond the row its own lane. A reference that does not translate faults when the row is read. -/
def State.rowFaults (s : State) (c : Nat) (o : Op) : List LaneFault :=
  let x := o.addr 0
  if isFar x then o.faultWhere .rowBounds fun _ => true
  else if x / 2 ^ 52 ≠ 0 ∨ x = 0 then []
  else match (s.translate (o.who c) x .read).2 with
    | .error _ => []
    | .ok _ =>
      match s.placeOf (o.who c) x with
      | some p =>
        if !p.hasRows || p.off % p.table.desc.payload != 0 || !p.inRow 4 then o.faultWhere .rowBounds fun _ => true
        else o.faultWhere .rowBounds fun l => decide (p.table.desc.payload / 4 ≤ o.startWord + l)
      | none => o.faultWhere .rowBounds fun _ => true

/-- Whether a lane's scratch access is not permitted (R196, R207). -/
def State.notOwned (s : State) (c : Nat) (st : Strand) (o : Op) (l : Nat) : Bool :=
  let x := o.addr l
  decide (2 ^ 32 ≤ x) || (s.scratchAt c st.launch st.block st.member x (4 * wordCount o.instr o.mode)).isNone

/-- Whether the scratch write of a lane reaches a live-in granule of the issuing core (R327). -/
def opIdem (c : Nat) (st : Strand) (o : Op) (l : Nat) : Bool :=
  match o.instr with
  | .sst .. | .satom .. => st.idemRange c (o.addr l) (4 * wordCount o.instr o.mode)
  | _ => false

/-- The precise checks of an operation on its captured operands (steps 6 to 8 of Table 13-6). -/
def opChecks (c : Nat) (st : Strand) (o : Op) (s : State) : List (List LaneFault) :=
  match o.instr with
  | .ld .. | .st .. | .atom .. =>
    [o.faultWhere .misaligned fun l => o.addr l % 4 != 0, o.faultWhere .rowBounds (s.outOfRow c o)]
  | .ldrow .. | .ratom .. => [s.rowFaults c o]
  | .sld .. | .sst .. | .satom .. =>
    [o.faultWhere .idempotence (opIdem c st o), o.faultWhere .misaligned fun l => o.addr l % 4 != 0,
     o.faultWhere .ownership (s.notOwned c st o)]
  | _ => []

/-- Whether an operation ends an open idempotent region (R327): atomics, vol accesses, releasing writes. -/
def opEnds (i : Instr) (m : Word) : Bool :=
  let vol := modeClass m == .vol
  match i with
  | .atom .. | .ratom .. | .satom .. | .post .. => true
  | .ld .. | .ldrow .. => vol
  | .st .. => vol || (modeOrder m).releases
  | .ins .. | .ups .. | .del .. | .rekey .. => (modeOrder m).releases
  | _ => false

/-- A scratch operation is performed at issue when the order lets it be (R101, R197, R220). -/
def State.performScratchNow (s : State) (c : Nat) : State :=
  let n := (s.core c).ops.length - 1
  match (s.core c).ops[n]? with
  | none => s
  | some o =>
    if !isScratchOp o.instr || !s.eligible c n then s
    else
      match s.performOp c o true false (~~~ 0#64) with
      | (s, o) => if o.returns then s.modCore c fun k => k.setOp n o else s.settleOp c n o

/-- The room that a word of the table-space or scratch group takes (R167, R310). -/
def opNeeds (i : Instr) : List Need := if isTableOp i then [.operation, .entries] else [.operation]

/-- A word of the table-space or scratch group issues (R167, R310): it waits for room, joins the list, and a scratch
access is performed at once where it may be. -/
def execOp (i : Instr) (s : State) : Result :=
  match s.here? with
  | none => .fault .noStrand
  | some st =>
    let c := s.cur.1
    let sl := s.cur.2
    let m := st.group.mode
    issueIn (opNeeds i) i (opUse i m) { types := opModeOk i m, ends := opEnds i m }
      (fun st s => opChecks c st (newOp i st sl ((s.core c).gen sl)) s)
      (fun st s => .ok ((s.startOp c (newOp i st sl ((s.core c).gen sl))).performScratchNow c, .seq))
      (fun s => if takesFlag i then s.modHere fun st => st.setFlag st.ownFlag true else s)
      s

/-! ### Returning from a trap (R315) -/

/-- A replay entry read back from the frame; the captured words are as many as its word takes. The entry does not say whether
the sources were uniform, so a load replayed whole leaves general registers (DESIGN CHOICE, log 89). -/
def entryOp (st : Strand) (sl : Nat) (gen : BitVec 8) (bs : List Byte) : Op :=
  let at8 (o n : Nat) : Nat := natOf ((bs.drop o).take n)
  let i := match decode (BitVec.ofNat 32 (at8 0 4)) with
    | .ok i => i
    | .error _ => .unassignedOpcode (BitVec.ofNat 32 (at8 0 4))
  let m : Word := BitVec.ofNat 32 (at8 4 4)
  let u := opUse i m
  let n := u.aRegs.length + u.reads.length
  let lanes : LaneMask := st.live &&& BitVec.ofNat 64 (at8 8 8)
  { slot := sl, gen := gen, launch := st.launch, serial := st.issued, instr := i, mode := m, lanes := lanes,
    todo := lanes, vals := (lanesOf lanes).map fun l => (l, wordsOf n (bs.drop (64 + 72 * l))),
    gvals := (List.range 3).map fun k => BitVec.ofNat 64 (at8 (16 + 8 * k) 8), flag := at8 40 1,
    uniform := false, flags := 0#5, clause := BitVec.ofNat 64 (at8 48 8), idx := at8 43 1, domain := st.domain,
    keyid := st.keyid, priv := st.mode, results := [], gresult := none, faults := [], remote := [] }

/-- The precise checks of a replayed entry (R315). -/
def replayFaults (s : State) (c : Nat) (st : Strand) (o : Op) : List LaneFault :=
  if !isReplayed o.instr then faultIn o.lanes .illegalInstruction
  else match checkWord st o.instr (opUse o.instr o.mode) (opModeOk o.instr o.mode) with
    | some k => faultIn o.lanes k
    | none => firstFault (opChecks c st o s)

/-- The destinations of discarded lanes receive 0; an entry discarded whole gives its group-wide destination 0 (R169). -/
def discardLanes (o : Op) (gone : LaneMask) (whole : Bool) (st : Strand) : Strand :=
  let u := opUse o.instr o.mode
  let st := if gone == 0#64 then st else u.dests.foldl (fun st d => st.writeV d gone none fun _ => 0#32) st
  if whole then (u.gDest.foldl (fun st g => st.setG g 0#64) (pendOp o false st)).setFlag o.flag true else st

/-- The fences and POSTs kept after n replay entries take their place again behind the operations of the strand (R225, R347);
a fence with none before it is done. -/
def State.putHeld (s : State) (c sl n : Nat) (held : List HeldNote) : State :=
  (held.filter fun f => f.before == n).foldl (fun s f =>
    match s.strand? c sl with
    | some st =>
      if f.op.instr == .fence && ((s.core c).strandOps sl).isEmpty then s
      else s.modCore c fun k => { k with ops := k.ops ++ [{ f.op with serial := st.issued }] }
    | none => s) s

/-- Replay of the entries of a frame in order, from entry n on, with their masks as written at entry and the fences and
POSTs among them, whatever request entries are free (DESIGN CHOICE, log 91). The second result is the entry that fails a
precise check, with its number and faults, and those after it. -/
def State.replay (c sl : Nat) (held : List HeldNote) :
    Nat → List (Op × LaneMask) → State → State × Option (Nat × Op × List Op)
  | n, [], s => (s.putHeld c sl n held, none)
  | n, (o, old) :: rest, s =>
    match s.strand? c sl with
    | none => (s, none)
    | some st =>
      let s := s.putHeld c sl n held
      let gone := st.live &&& old &&& ~~~ o.lanes
      if o.lanes == 0#64 then State.replay c sl held (n + 1) rest (s.modStrand c sl (discardLanes o gone true))
      else
        let fs := replayFaults s c st o
        if fs.isEmpty then
          let s := (s.modStrand c sl (discardLanes o gone false)).startOp c o
          State.replay c sl held (n + 1) rest (s.performScratchNow c)
        else
          let s := s.modStrand c sl (discardLanes o gone false)
          let s := rest.foldl (fun s x =>
            s.modStrand c sl (discardLanes x.1 (st.live &&& x.2 &&& ~~~ x.1.lanes) false)) s
          (s, some (n, { o with faults := fs }, rest.map (·.1)))

/-- The wait of a strand of a slot at a barrier, where it may be over by now, or broken. -/
def State.recheckBarrier (s : State) (c sl n : Nat) (w : Wait) (lanes : LaneMask) : State :=
  match (s.strand? c sl).bind fun st => (s.block? st.launch st.block).bind fun b => b.barriers[n]? with
  | some x =>
    if x.broken then s.breakStrand c sl lanes
    else if w.passed n x.phase then s.modStrand c sl fun st => { st with wait := w.left } else s
  | none => s

/-- What a save under way is without the request that asked for it: the wait at the barrier, or none (R325). -/
def Wait.unsaved : Wait → Wait
  | .saving _ _ _ (some (n, p, m)) => .barw n p m
  | .saving _ _ _ Option.none => .none
  | w => w

/-- The wait that a trap interrupted is taken up again (log 15): it may be over by now. A save whose request was withdrawn in
the handler is not begun again (R325), and an answer that came for PERF is written (R319). -/
def State.resumeWait (s : State) (c sl : Nat) (w : Wait) : State :=
  let w := match s.strand? c sl with
    | some st => if st.preempt.isNone then w.unsaved else w
    | none => w
  let s := s.modStrand c sl fun st => { st with wait := w }
  match w, s.strand? c sl with
  | .bar n _ lanes, some _ | .barw n _ lanes, some _ | .saving _ _ _ (some (n, _, lanes)), some _ =>
    s.recheckBarrier c sl n w lanes
  | .counted v g, some st => s.setStrand c sl { st.setG g v with wait := .none }
  | .future i g, some st =>
    (match Assoc.find (s.core c).futures i with
     | some f =>
       if f.done then
         (s.setStrand c sl { (st.setG g f.status) with wait := .none }).modCore c fun k => (k.unbind st.lineage g).reap i
       else s
     | none => s)
  | _, _ => s

/-- The strand as SRET leaves it, from the bytes of its frame and of the frame at the new depth (none at depth 0). -/
def returned (st : Strand) (bs : List Byte) (under : Option (List Byte)) : Strand :=
  let at8 (bs : List Byte) (o n : Nat) : Nat := natOf ((bs.drop o).take n)
  let v (o n : Nat) : Nat := at8 bs o n
  let up := under.getD []
  let st := (List.range 4).foldl (fun st i => st.setK i (BitVec.ofNat 64 (v (16 + 8 * i) 8))) st
  let st := (List.range 4).foldl (fun st i => st.setG (60 + i) (BitVec.ofNat 64 (v (48 + 8 * i) 8))) st
  { st with
    group := { st.group with
      mode := BitVec.ofNat 32 (v 80 4), astat := BitVec.ofNat 5 (v 84 1), aten := BitVec.ofNat 5 (v 85 1),
      rstack := st.group.rstack.take (v 86 1), lstack := st.group.lstack.take (v 87 1) }
    mode := Priv.ofCode (v 10 1), prevMode := Priv.ofCode (at8 up 10 1), depth := st.depth - 1,
    frames := st.frames.tail, trapMask := BitVec.ofNat 64 (at8 up 88 8),
    trapCause := (List.range 64).filterMap fun l =>
      let x := causeFields (BitVec.ofNat 32 (at8 up (96 + 4 * l) 4))
      if x = 0#32 then none else some (l, x)
    clause := none, pc := BitVec.ofNat 64 (v 0 8), pcIdx := v 8 1 % 8 }

/-- A frame read back: its header, and as many replay entries as the header says. -/
def State.readFrame (s : State) (w : Who) (addr : Nat) : State × Except Fail (List Byte) :=
  match s.readV w addr 512 with
  | (s, .error f) => (s, .error f)
  | (s, .ok bs) =>
    match s.readV w (addr + 512) (4672 * min 16 (natOf ((bs.drop 9).take 1))) with
    | (s, .error f) => (s, .error f)
    | (s, .ok es) => (s, .ok (bs ++ es))

/-- The causes of a frame that opens because a replayed entry fails a precise check: those of the operations replayed
before it, and in the other lanes its own (R315). -/
def replayCauses (st : Strand) (before : List Op) (o : Op) : List (Nat × Word) :=
  let older := trapCauses st before []
  let entries := (before.filter fun x => isReplayed x.instr).length
  older ++ (lanesOf (maskOf (o.faults.map (·.lane)))).filterMap fun l =>
    if older.any fun y => y.1 == l then none
    else (o.faults.find? fun f => f.lane == l).map fun f => (l, causeWord entries 0 f.detail f.cause.code)

/-- RETURNING FROM A TRAP (R315), once no operation of the strand is in flight. With no frame open it is privileged. A frame
that cannot be read raises its fault in the active lanes (log 26). The write of g60 to g63 ends their bindings (R340); the wait
that the trap interrupted is the strand's again before that, so that what it needs of a future stays (R343, R346). -/
def State.returnTrap (s : State) (st : Strand) : State :=
  let c := s.cur.1
  let sl := s.cur.2
  let k := s.core c
  let w := st.who c
  match st.frames with
  | [] => s.trapWord st (faultIn st.trapLanes .privileged)
  | note :: older =>
    match s.readFrame w (k.frameAt note.hyp sl st.depth) with
    | (s, .error f) => s.trapWord st (faultIn st.trapLanes f.1 f.2)
    | (s, .ok bs) =>
      let under := match older with
        | [] => (s, Except.ok (none : Option (List Byte)))
        | o :: _ => match s.readV w (k.frameAt o.hyp sl (st.depth - 1)) 512 with
          | (s, .ok b) => (s, .ok (some b))
          | (s, .error f) => (s, .error f)
      match under with
      | (s, .error f) => s.trapWord st (faultIn st.trapLanes f.1 f.2)
      | (s, .ok up) =>
        let st' := returned st bs up
        let n := min 16 (natOf ((bs.drop 9).take 1))
        let entries := (List.range n).map fun i =>
          (entryOp st' sl (k.gen sl) (bs.drop (512 + 4672 * i)), note.masks.getD i 0#64)
        let s := [60, 61, 62, 63].foldl (fun s g => s.modCore c fun k => k.unbind st.lineage g)
          (s.setStrand c sl { st' with wait := note.wait })
        match State.replay c sl note.held 0 entries s with
        | (s, none) => if note.wait = .none then s else s.resumeWait c sl note.wait
        | (s, some (m, o, rest)) =>
          let s := s.settle c sl
          match s.strand? c sl with
          | none => s
          | some st =>
            let ops := (s.core c).strandOps sl
            let before := ops.filter fun x => isReplayed x.instr
            let later := (note.held.filter fun f => decide (m < f.before)).map fun f =>
              { f with before := before.length + (f.before - m) }
            let causes := replayCauses st ops o
            (s.countTrap c st o.faults).openFrame c sl { st with wait := note.wait } causes (before ++ o :: rest)
              (heldNotes 0 ops ++ later) (st.pc, st.pcIdx) 0 false

end Sys2Proof.Machine
end

