-- ==== Sys2Proof/Machine/Flags.lean ====
section
/-! DEFINITION. The arithmetic flags of lanes: what they raise in ASTAT and which of them trap (R78-R80), and the shape
tags of results (R120). Every vector instruction that computes goes through `vec`. -/

namespace Sys2Proof.Machine

/-- The OR of flags. -/
def orFlags (fs : List Flags) : Flags := fs.foldl (· ||| ·) 0#5

/-- Flags joined to ASTAT (R79). -/
def Strand.raise (st : Strand) (f : Flags) : Strand :=
  { st with group := { st.group with astat := st.group.astat ||| f } }

/-- The lanes that raise a flag ATEN enables: *arithmetic*, with every flag the lane would have raised (R80). -/
def arithFaults (st : Strand) (fs : List (Nat × Flags)) : List LaneFault :=
  (fs.filter fun x => x.2 &&& st.group.aten != 0#5).map fun x => ⟨x.1, .arithmetic, x.2.toNat⟩

/-- What a lane computes: the words of the destinations in order, and its flags. -/
abbrev LaneFn := Strand → Nat → List Word × Flags

/-- The results of the active lanes. -/
def laneResultsOf (f : LaneFn) (st : Strand) : List (Nat × (List Word × Flags)) :=
  (lanesOf st.active).map fun l => (l, f st l)

/-- The flags of the active lanes. -/
def laneFlagsOf (f : LaneFn) (st : Strand) : List (Nat × Flags) := (laneResultsOf f st).map fun x => (x.1, x.2.2)

/-- Whether every vector source of a word is uniform. -/
def Strand.sourcesUniform (st : Strand) (u : Use) : Bool :=
  !(u.aRegs ++ u.reads).isEmpty && (u.aRegs ++ u.reads).all fun r => (st.uniform? r).isSome

/-- Destination registers written with the words of the lanes in a mask; a tag for each where one is given (R120). -/
def writeAll (mask : LaneMask) (rs : List (Nat × List Word)) (tags : List (Option VReg)) (ds : List Nat) (st : Strand) :
    Strand :=
  ds.zipIdx.foldl (fun st d =>
    st.writeV d.1 mask (tags.getD d.2 none) fun l => (Assoc.get [] rs l).getD d.2 0#32) st

/-- The tags of a result whose sources are all uniform: uniform, with the words of the first lane (R120). -/
def uniformTags (n : Nat) (rs : List (Nat × List Word)) : List (Option VReg) :=
  (List.range n).map fun i => some (.uniform (((rs.map (·.2)).headD []).getD i 0#32))

/-- The effect of a vector computation: destinations, tags, ASTAT. special gives tags by a rule of Table 6-2 ahead of
the rule of uniform sources. -/
def vecEffect (u : Use) (special : Strand → Option (List (Option VReg))) (f : LaneFn) (old st : Strand) : Strand :=
  let all := laneResultsOf f old
  let rs := all.map fun x => (x.1, x.2.1)
  let tags := match special old with
    | some ts => ts
    | none => if old.sourcesUniform u then uniformTags u.dests.length rs else []
  (writeAll old.active rs tags u.dests st).raise (orFlags (all.map (·.2.2)))

/-- A vector computation at issue (R129, R131): the flags decide *arithmetic* before anything is written. -/
def vec (i : Instr) (u : Use) (types : Bool) (special : Strand → Option (List (Option VReg))) (f : LaneFn) (s : State) :
    Result :=
  issue i u { types := types } (fun st _ => [arithFaults st (laneFlagsOf f st)]) (onStrand (vecEffect u special f)) id s

/-- No tag by a special rule. -/
def plain : Strand → Option (List (Option VReg)) := fun _ => none

/-- A value of a type as words: one, or two of a pair. -/
def valueWords (wide : Bool) (v : Nat) : List Word :=
  if wide then [BitVec.ofNat 32 v, BitVec.ofNat 32 (v / 2 ^ 32)] else [BitVec.ofNat 32 v]

/-- The arithmetic half of a mode word with a legal type; the type i32 stands in where the code is none. -/
def arithOf (m : Word) : Arith := ⟨(modeType m).getD .i32, modeRound m, modeSat m⟩

/-- Whether the type of a mode word is of a class. -/
def typeIs (m : Word) (f : ElemType → Bool) : Bool := (modeType m).any f

/-- Whether the type of a mode word takes pairs. -/
def isWide (m : Word) : Bool := typeIs m ElemType.is64

/-- The registers of an element-wise word: d from a, and b where it reads one, and d where it reads that too (R54, R129). -/
def elemUse (m : Word) (d a : Nat) (b : Option Nat) (readD : Bool) : Use :=
  let w := isWide m
  { aRegs := regsT w a,
    reads := (match b with
      | some b => regsT w b
      | none => []) ++ if readD then regsT w d else [],
    dests := regsT w d,
    even := if w then [d, a] ++ b.toList else [] }

/-- An element-wise operation in a lane (R131). -/
def elemLane (el : Arith → ElemOp) (d a : Nat) (b : Option Nat) (readD : Bool) : LaneFn := fun st l =>
  let m := st.group.mode
  let w := isWide m
  let c := arithOf m
  let y := match b with
    | some b => st.vval w b l
    | none => 0
  let r := mapElems c.t (el c) (st.vval w a l) y (if readD then st.vval w d l else 0)
  (valueWords w r.1, r.2)

/-- An element-wise word (R129-R131). -/
def elemWord (i : Instr) (types : ElemType → Bool) (el : Arith → ElemOp) (d a : Nat) (b : Option Nat) (readD : Bool)
    (special : Strand → Option (List (Option VReg))) (s : State) : Result :=
  let m := s.modeWord
  vec i (elemUse m d a b readD) (typeIs m types) special (elemLane el d a b readD) s

end Sys2Proof.Machine
end

