-- ==== Sys2Proof/Machine/Arith.lean ====
section
/-! DEFINITION. Vector arithmetic, opcodes 0x20 to 0x2B (R132-R134). -/

namespace Sys2Proof.Machine

/-- Types of ADD and the others (Table 6-3): Int, Flt, F8. -/
def typesNum (t : ElemType) : Bool := t.isInt || t.isFlt || t.isF8

/-- Types of DIV. -/
def typesDiv (t : ElemType) : Bool := t.isInt || t.isFlt

/-- An affine operand of a register: a uniform one has stride 0. -/
def affineOf : Option VReg → Option (Word × Word × Bool)
  | some (.affine b s) => some (b, s, true)
  | some (.uniform u) => some (u, 0#32, false)
  | _ => none

/-- The tag of an affine and a uniform operand, under i32 or n32 with saturate clear (R120, Table 6-2): bases and
strides of a and b in, base and stride out. -/
def affineTag (a b : Nat) (f : Word → Word → Word → Word → Word × Word) (st : Strand) : Option (List (Option VReg)) :=
  let m := st.group.mode
  if typeIs m (fun t => t == .i32 || t == .n32) && !modeSat m then
    match affineOf (st.vreg? a), affineOf (st.vreg? b) with
    | some (x, s, p), some (y, t, q) =>
      if p != q then
        let r := f x s y t
        some [some (.affine r.1 r.2)]
      else none
    | _, _ => none
  else none

/-- ADD (R132). -/
def execAdd (d a b : BitVec 8) (s : State) : Result :=
  elemWord (.add d a b) typesNum elAdd d.toNat a.toNat (some b.toNat) false
    (affineTag a.toNat b.toNat fun x s y t => (x + y, s + t)) s

/-- SUB (R132). -/
def execSub (d a b : BitVec 8) (s : State) : Result :=
  elemWord (.sub d a b) typesNum elSub d.toNat a.toNat (some b.toNat) false
    (affineTag a.toNat b.toNat fun x s y t => (x - y, s - t)) s

/-- MUL (R132). -/
def execMul (d a b : BitVec 8) (s : State) : Result :=
  elemWord (.mul d a b) typesNum elMul d.toNat a.toNat (some b.toNat) false
    (affineTag a.toNat b.toNat fun x s y t => (x * y, s * y + x * t)) s

/-- MULH (R132). -/
def execMulh (d a b : BitVec 8) (s : State) : Result :=
  elemWord (.mulh d a b) ElemType.isInt elMulh d.toNat a.toNat (some b.toNat) false plain s

/-- MAD (R133). -/
def execMad (d a b : BitVec 8) (s : State) : Result :=
  elemWord (.mad d a b) typesNum elMad d.toNat a.toNat (some b.toNat) true plain s

/-- MSB (R133). -/
def execMsb (d a b : BitVec 8) (s : State) : Result :=
  elemWord (.msb d a b) typesNum elMsb d.toNat a.toNat (some b.toNat) true plain s

/-- The operation that DIV becomes, its results and flags computed at issue (R79, R134). -/
def divOp (i : Instr) (f : LaneFn) (st : Strand) (sl : Nat) (gen : BitVec 8) : Op :=
  { newOp i st sl gen with todo := 0#64, results := (laneResultsOf f st).map fun x => (x.1, x.2.1)
                           flags := orFlags ((laneFlagsOf f st).map (·.2)) }

/-- DIV (R134): long-latency; flags and traps are decided at issue, the result is written and the flags join ASTAT at
completion. -/
def execDiv (d a b : BitVec 8) (s : State) : Result :=
  let m := s.modeWord
  let i : Instr := .div d a b
  let f := elemLane elDiv d.toNat a.toNat (some b.toNat) false
  issue i (opUse i m) { types := typeIs m typesDiv } (fun st _ => [arithFaults st (laneFlagsOf f st)])
    (fun st s =>
      let o := divOp i f st s.cur.2 ((s.core s.cur.1).gen s.cur.2)
      .ok (s.startOp s.cur.1 o, .seq))
    (fun s => s.modHere fun st => st.setFlag st.ownFlag true) s

/-- DIV_COMPLETE (R134): operation n of core c, a division, writes its result. -/
def execDivComplete (c n : Nat) (s : State) : Result :=
  match (s.core c).ops[n]? with
  | some o =>
    (match o.instr with
     | .div .. => .next (s.finishOp c n o)
     | _ => .next s)
  | none => .next s

/-- REM (R134). -/
def execRem (d a b : BitVec 8) (s : State) : Result :=
  elemWord (.rem d a b) ElemType.isInt elRem d.toNat a.toNat (some b.toNat) false plain s

/-- MIN (R132). -/
def execMin (d a b : BitVec 8) (s : State) : Result :=
  elemWord (.min d a b) typesNum (elMinMax false) d.toNat a.toNat (some b.toNat) false plain s

/-- MAX (R132). -/
def execMax (d a b : BitVec 8) (s : State) : Result :=
  elemWord (.max d a b) typesNum (elMinMax true) d.toNat a.toNat (some b.toNat) false plain s

/-- ABS (R132). -/
def execAbs (d a : BitVec 8) (s : State) : Result :=
  elemWord (.abs d a) typesNum elAbs d.toNat a.toNat none false plain s

/-- NEG (R132). -/
def execNeg (d a : BitVec 8) (s : State) : Result :=
  elemWord (.neg d a) typesNum elNeg d.toNat a.toNat none false plain s

end Sys2Proof.Machine
end

