-- ==== Sys2Proof/Machine/Copies.lean ====
section
/-! DEFINITION. Copies and their batches (R208-R214). -/

namespace Sys2Proof.Machine

/-- Whether a scratch address of a group-wide register passes the check of a copy (R196, R209). -/
def State.copyRangeOk (s : State) (c : Nat) (st : Strand) (x : DWord) (len : Nat) : Bool :=
  if len = 0 then decide (x.toNat < 2 ^ 24) && decide (x.toNat % 2 ^ 20 < scratchBytes)
  else (s.scratchAt c st.launch st.block st.member x.toNat len).isSome

/-- Whether n bytes at a scratch address of a strand of core c, as many as they are, reach a live-in granule of its core. -/
def Strand.idemSpan (st : Strand) (c x n : Nat) : Bool :=
  decide (0 < n) && scratchCore c x == c &&
  (List.range 64).any fun g => st.idemGranule g && decide (x % 2 ^ 20 < (g + 1) * granuleBytes) &&
    decide (g * granuleBytes < x % 2 ^ 20 + n)

/-- A copy at issue (R208, R209): g[D] bytes from g[A] to g[B], once the copy queue has room. -/
def copyWord (i : Instr) (kind : CopyKind) (d a b : BitVec 6) (s : State) : Result :=
  let len (st : Strand) : Nat := (st.gr d.toNat).toNat
  issueIn [.copy] i { gRead := [d.toNat, a.toNat, b.toNat] } {}
    (fun st s =>
      let c := s.cur.1
      let bad (k : Cause) (t : Bool) : List LaneFault := if t then faultIn st.active k else []
      let src := kind == .toScratch || s.copyRangeOk c st (st.gr a.toNat) (len st)
      let dst := kind == .toMemory || s.copyRangeOk c st (st.gr b.toNat) (len st)
      [bad .idempotence (kind != .toMemory && st.idemSpan c (st.gr b.toNat).toNat (len st)),
       bad .misaligned (len st % 4 != 0 || (st.gr a.toNat).toNat % 4 != 0 || (st.gr b.toNat).toNat % 4 != 0),
       bad .ownership (decide (scratchBytes < len st)), bad .ownership (!src || !dst)])
    (fun st s =>
      let c := s.cur.1
      let q : CopyOp :=
        { kind := kind, len := len st, src := st.gr a.toNat, dst := st.gr b.toNat, slot := s.cur.2,
          gen := (s.core c).gen s.cur.2, launch := st.launch, block := st.block, batch := st.group.batch,
          lanes := st.active, serial := st.issued, instr := i, clause := st.point.1, idx := st.point.2,
          domain := st.domain, keyid := st.keyid, priv := st.mode }
      .ok ((s.modCore c fun k => { k with copies := k.copies ++ [q] }).count c 0x2004, .seq)) id s

/-- CPY (R208). -/
def execCpy (d a b : BitVec 6) (s : State) : Result := copyWord (.cpy d a b) .toScratch d a b s
/-- CPYS (R208). -/
def execCpys (d a b : BitVec 6) (s : State) : Result := copyWord (.cpys d a b) .within d a b s
/-- CPYO (R208). -/
def execCpyo (d a b : BitVec 6) (s : State) : Result := copyWord (.cpyo d a b) .toMemory d a b s

/-- CBATCH (R212). -/
def execCbatch (d : BitVec 6) (s : State) : Result :=
  issue (.cbatch d) { gDest := [d.toNat] } {} noChecks
    (onStrand fun old st =>
      let st := st.setG d.toNat (old.group.batch.setWidth 64)
      { st with group := { st.group with batch := old.group.batch + 1#32 } }) id s

/-- Whether CWAIT on n must wait for a copy of the strand (R213): one of a closed batch up to n. -/
def copyAwaited (st : Strand) (sl : Nat) (gen : BitVec 8) (n : BitVec 32) (q : CopyOp) : Bool :=
  q.slot == sl && q.gen == gen && q.batch != st.group.batch && decide ((n - q.batch).toNat < 2 ^ 31)

/-- CWAIT (R213): not ready while a covered batch has not completed. -/
def execCwait (a : BitVec 6) (s : State) : Result :=
  issue (.cwait a) { gRead := [a.toNat] } {} noChecks
    (fun st s =>
      let c := s.cur.1
      let k := s.core c
      if k.copies.any (copyAwaited st s.cur.2 (k.gen s.cur.2) (lo32 (st.gr a.toNat))) then .error id
      else .ok (s, .seq)) id s

/-! ### Performing a copy (R210, R211) -/

/-- Whose accesses a copy makes. -/
def CopyOp.who (q : CopyOp) (c : Nat) : Who := ⟨c, q.domain, q.keyid, q.priv, q.launch⟩

/-- What a copy has met so far: the first fault, bytes moved, and the rows that it wrote. -/
structure CopyTally where
  fault : Option Fail
  moved : Nat
  rows  : List StorePlace
  deriving DecidableEq, Repr

/-- A sector that failed. The first cause is the one that the copy delivers in all its lanes (R210; DESIGN CHOICE, log 107). -/
def CopyTally.failed (x : CopyTally) (f : Fail) : CopyTally := { x with fault := some (x.fault.getD f) }

/-- A sector that was moved, in a row of a store where it lies in one; a row counts once. -/
def CopyTally.wrote (x : CopyTally) (n : Nat) (place : Option StorePlace) : CopyTally :=
  let known (p : StorePlace) : Bool := x.rows.any fun y => y.old == p.old && y.num == p.num && y.row == p.row
  { x with moved := x.moved + n
           rows := x.rows ++ (place.filter fun p => !known p).toList }

/-- Whether a read failed because its sector is poisoned, or is from now on: a copy carries that to its destination
(R297). -/
def Cause.poisons : Cause → Bool
  | .integrity | .uncorrectable => true
  | _ => false

/-- CPY: sectors of the virtual side read and written to scratch of core k from an offset on; one that fails is not moved,
and poison is carried (R210, R297). -/
def copyIn (w : Who) (k : Nat) : Nat → Nat → Nat → Nat → CopyTally → State → State × CopyTally
  | 0, _, _, _, x, s => (s, x)
  | fuel + 1, va, off, len, x, s =>
    if len = 0 then (s, x)
    else
      let n := min len (32 - va % 32)
      match s.readPage w va n with
      | (s, .error f) =>
        copyIn w k fuel (va + n) (off + n) (len - n) (x.failed f) (if f.1.poisons then s.poisonScratch k off n else s)
      | (s, .ok bs) =>
        match s.writeScratchAt k off bs with
        | (s, some cause) => copyIn w k fuel (va + n) (off + n) (len - n) (x.failed (cause, 0)) s
        | (s, none) => copyIn w k fuel (va + n) (off + n) (len - n) (x.wrote n none) s

/-- The sector of pa poisoned by an access of a consumer that carries poison (R284, R297). -/
def State.poisonMem (s : State) (w : Who) (pa : Nat) : State :=
  let s := s.serve w pa
  { s with mem := s.mem.poisonAt pa }

/-- A sector of CPYO: n bytes of scratch of core k at an offset written at a virtual address. -/
def copySector (w : Who) (k off va n : Nat) (x : CopyTally) (s : State) : State × CopyTally :=
  match s.translate w va .write with
  | (s, .error f) => (s, x.failed f)
  | (s, .ok pa) =>
    let place := s.storeAt pa
    if (place.map fun p => p.hitsField (n / 4)) == some true then (s, x.failed (.indexBypass, 0))
    else match s.readScratchAt k off n with
      | (s, .error f) => (s.poisonMem w pa, x.failed f)
      | (s, .ok bs) =>
        match s.writePhys w pa bs with
        | (s, .error f) => (s, x.failed f)
        | (s, .ok ()) => (s, x.wrote n place)

/-- CPYO: sectors of the virtual side written from scratch of core k from an offset on. -/
def copyOut (w : Who) (k : Nat) : Nat → Nat → Nat → Nat → CopyTally → State → State × CopyTally
  | 0, _, _, _, x, s => (s, x)
  | fuel + 1, va, off, len, x, s =>
    if len = 0 then (s, x)
    else
      let n := min len (32 - va % 32)
      match copySector w k off va n x s with
      | (s, x) => copyOut w k fuel (va + n) (off + n) (len - n) x s

/-- CPYS, its source read: for each sector of the destination its offset, its length and what the source gives. -/
def copyRead (k : Nat) : Nat → Nat → Nat → Nat → State → State × List (Nat × Nat × Except Fail (List Byte))
  | 0, _, _, _, s => (s, [])
  | fuel + 1, src, dst, len, s =>
    if len = 0 then (s, [])
    else
      let n := min len (32 - dst % 32)
      match s.readScratchAt k src n with
      | (s, r) =>
        match copyRead k fuel (src + n) (dst + n) (len - n) s with
        | (s, rs) => (s, (dst, n, r) :: rs)

/-- CPYS, its destination written on core k. -/
def copyWrite (k : Nat) : List (Nat × Nat × Except Fail (List Byte)) → CopyTally → State → State × CopyTally
  | [], x, s => (s, x)
  | (dst, n, .error f) :: rs, x, s => copyWrite k rs (x.failed f) (s.poisonScratch k dst n)
  | (dst, n, .ok bs) :: rs, x, s =>
    match s.writeScratchAt k dst bs with
    | (s, some cause) => copyWrite k rs (x.failed (cause, 0)) s
    | (s, none) => copyWrite k rs (x.wrote n none) s

/-- The bytes of a copy moved, through the visible halves of its buffers, each of which lies in one place. -/
def State.moveCopy (s : State) (c : Nat) (q : CopyOp) : State × CopyTally :=
  let src := s.scratchPlace c q.src.toNat
  let dst := s.scratchPlace c q.dst.toNat
  let fuel := q.len / 32 + 2
  let x : CopyTally := ⟨none, 0, []⟩
  match q.kind with
  | .toScratch => copyIn (q.who c) dst.1 fuel q.src.toNat dst.2 q.len x s
  | .within =>
    match copyRead src.1 fuel src.2 dst.2 q.len s with
    | (s, rs) => copyWrite dst.1 rs x s
  | .toMemory =>
    match copyOut (q.who c) src.1 fuel q.dst.toNat src.2 q.len x s with
    | (s, x) => (x.rows.foldl (fun s p => s.bumpAt p 1) s, x)

/-- The fault of a copy joins the strand's operations: it is delivered to the lanes active at its issue (R210). -/
def State.copyFault (s : State) (c : Nat) (q : CopyOp) (f : Fail) : State :=
  let o : Op :=
    { slot := q.slot, gen := q.gen, launch := q.launch, serial := q.serial, instr := q.instr, mode := 0#32,
      lanes := q.lanes, todo := 0#64, vals := [], gvals := [], flag := 15, uniform := false, flags := 0#5, clause := q.clause,
      idx := q.idx, domain := q.domain, keyid := q.keyid, priv := q.priv, results := [], gresult := none,
      faults := faultIn q.lanes f.1 f.2, remote := [] }
  if (s.core c).gen q.slot = q.gen then s.modCore c fun k => { k with ops := k.ops ++ [o] } else s

/-- COPY_COMPLETE (R210): entry n of the copy queue of core c moves its bytes and leaves the queue; the bytes moved are
counted (R206). -/
def execCopyComplete (c n : Nat) (s : State) : Result :=
  match (s.core c).copies[n]? with
  | none => .next s
  | some q =>
    match s.moveCopy c q with
    | (s, x) =>
      let s := (s.modCore c fun k => { k with copies := k.copies.eraseIdx n }).count c 0x2005 x.moved
      let s := match x.fault with
        | some f => s.copyFault c q f
        | none => s
      .next (s.reportExits.endBlockIfDone q.launch q.block)

end Sys2Proof.Machine
end

