-- ==== Sys2Proof/Machine/Futures.lean ====
section
/-! DEFINITION. Futures: taking a slot at issue, FTEST, FWAIT, FCANCEL (R339-R346); LAUNCH at issue (R115, R116) with the
checks of a launch record (R95, R96) and the launch queues (R97). -/

namespace Sys2Proof.Machine

/-! ### Taking a slot (R339, R340) -/

/-- An operation of kind k takes the lowest free slot of the issuing core; g[d] receives and binds the handle. The slot
holds the scratch ranges that the operation names and the table request entries that it takes. -/
def State.takeFuture (s : State) (st : Strand) (d : Nat) (k : FutureKind) (ranges : List (Bool × (Word × Nat)))
    (entries : Nat) : Option (State × Nat) :=
  let c := s.cur.1
  match (s.core c).freeFuture with
  | none => none
  | some i =>
    let serial := nextFuture (s.core c).futureSer
    let f : Future :=
      { serial := serial, kind := k, done := false, status := 0#64, binding := [(st.lineage, d)], units := 0,
        cancel := false, slot := s.cur.2, gen := (s.core c).gen s.cur.2, launch := st.launch, block := st.block,
        domain := st.domain, priv := st.mode, keyid := st.keyid, ranges := ranges, entries := entries }
    let s := s.modCore c fun x => { x with futureSer := serial, futures := Assoc.set x.futures i f }
    some (s.modHere fun x => x.setG d (futureHandle serial c i), i)

/-- An effect that takes a future first; without a free slot the word is not ready, which is counted (R339, R348). -/
def withFuture (d : Nat) (k : Strand → State → FutureKind) (eff : Nat → Strand → State → State)
    (ranges : Strand → List (Bool × (Word × Nat)) := fun _ => []) (entries : Strand → Nat := fun _ => 0) : Effect :=
    fun st s =>
  match s.takeFuture st d (k st s) (ranges st) (entries st) with
  | none => .error fun s => s.countStall 3 0x10003
  | some (s, i) => .ok (eff i st s, .seq)

/-! ### FTEST, FWAIT, FCANCEL (R344) -/

/-- FTEST. -/
def execFtest (d : BitVec 4) (a : BitVec 6) (s : State) : Result :=
  issue (.ftest d a) { gRead := [a.toNat] } { waits := false, quiet := true } noChecks
    (fun st s =>
      let b := match s.named? s.cur.1 (st.gr a.toNat) with
        | none => true
        | some (_, f) => f.done
      .ok (s.modHere fun x => x.setQ d.toNat b, .seq)) id s

/-- FWAIT: the strand goes on once the operation is complete and g[A] holds its status. -/
def execFwait (a : BitVec 6) (s : State) : Result :=
  issue (.fwait a) { gRead := [a.toNat] } { waits := false, quiet := true } noChecks
    (fun st s =>
      let c := s.cur.1
      match s.named? c (st.gr a.toNat) with
      | none => .ok ((s.modHere fun x => x.setG a.toNat 0x3E#64).modCore c fun k => k.unbind st.lineage a.toNat, .seq)
      | some (i, f) =>
        if f.done then
          .ok ((s.modHere fun x => x.setG a.toNat f.status).modCore c fun k => (k.unbind st.lineage a.toNat).reap i, .seq)
        else .ok (s.modHere fun x => { x with wait := .future i a.toNat }, .seq)) id s

/-- A strand whose pre-emption request is withdrawn: a save that a trap interrupted is not taken up again, not even for a later
request, which waits anew for its PHINT or its time (R322, R325). -/
def Strand.withdrawn (st : Strand) : Strand :=
  { st with preempt := none, frames := st.frames.map fun n => { n with wait := n.wait.unsaved } }

/-- A cancellation asked of the operation of slot i of core c (R345): a launch places no more blocks (R116), a request of
CTXSV whose save has not begun is withdrawn (R325), a gather, promotion or matrix operation is marked; the package that
performs a promotion is told, or where the request never left for it nothing moves (R295, log 35). -/
def State.cancelFuture (s : State) (c i : Nat) (f : Future) : State :=
  match f.kind with
  | .launch n =>
    (match Assoc.find s.launches n with
     | some l => { s with launches := Assoc.set s.launches n { l with cancelled := true } }
     | none => s)
  | .ctxsv slot gen =>
    (match s.strand? c slot with
     | some x =>
       let saving := match x.wait with
         | .saving .. => true
         | _ => false
       let mine := match x.preempt with
         | some p => p.future == some (c, i)
         | none => false
       if (s.core c).gen slot == gen && mine && !saving then
         (s.setStrand c slot x.withdrawn).completeFuture c i 0x3F
       else s
     | none => s)
  | .ctxld _ => s
  | .promo ref =>
    let s := s.modCore c fun k => { k with futures := Assoc.set k.futures i { f with cancel := true } }
    if refRemote ref.toNat then
      (match s.links.requests.find? fun r => r.core == c && r.op == f.serial && r.slot == 256 + i with
       | some r =>
         if s.links.sent r.id then s.sendTo r.pkg (.cancel Config.packageNumber r.id)
         else { s with links := { s.links with requests := s.links.requests.filter fun x => x.id != r.id } }.completeFuture
           c i 0x3F
       | none => s)
    else s
  | _ => s.modCore c fun k => { k with futures := Assoc.set k.futures i { f with cancel := true } }

/-- FCANCEL. -/
def execFcancel (a : BitVec 6) (s : State) : Result :=
  issue (.fcancel a) { gRead := [a.toNat] } { waits := false, quiet := true } noChecks
    (fun st s =>
      let c := s.cur.1
      match s.named? c (st.gr a.toNat) with
      | none => .ok (s, .seq)
      | some (i, f) => .ok (if f.done then s else (s.count c 0x10004).cancelFuture c i f, .seq)) id s

/-! ### Launch records (R93-R97, Table 5-2) -/

/-- A launch record from its 128 bytes. -/
def LRec.ofBytes (bs : List Byte) : LRec :=
  let v (o n : Nat) : Nat := natOf ((bs.drop o).take n)
  { code := BitVec.ofNat 64 (v 0 8), param := BitVec.ofNat 64 (v 8 8), result := BitVec.ofNat 64 (v 16 8),
    widths := (List.range 6).map fun i => v (24 + i) 1, limits := (List.range 6).map fun i => v (32 + 8 * i) 8 + 1,
    scratch := v 80 4, regs := v 84 2, wcode := v 86 1, barriers := v 87 1, prio := v 88 1, spread := v 89 1,
    domain := BitVec.ofNat 16 (v 90 2), shift := v 92 1, nsucc := v 93 1, succ := BitVec.ofNat 64 (v 96 8),
    reserved := v 30 2 + v 94 2 + v 104 24 }

/-- W of a record. -/
def LRec.width (r : LRec) : Nat := 8 * 2 ^ r.wcode

/-- Limit of field i. -/
def LRec.limit (r : LRec) (i : Nat) : Nat := r.limits.getD i 1

/-- Width of field i. -/
def LRec.fieldWidth (r : LRec) (i : Nat) : Nat := r.widths.getD i 0

/-- Strands on each of c cores (R99). -/
def LRec.portion (r : LRec) (c i : Nat) : Nat :=
  if i < r.limit 1 % c then r.limit 1 / c + 1 else r.limit 1 / c

/-- Granules of a core's portion of the initial scratch (R100). -/
def LRec.granules (r : LRec) (c : Nat) : Nat := ceilDiv r.scratch (c * granuleBytes)

/-- When the window of a set closes (R273): opened and the length that its flacons carry. -/
def Assembly.closes (a : Assembly) : Nat := a.opened + (a.flacons.head?.map fun f => f.window.toNat * 10000).getD 0

/-- Whether the window of a set has closed. One of length 0 stays open for the time at which it opened (R278). -/
def Assembly.due (a : Assembly) (now : Nat) : Bool := decide (a.opened < now) && decide (a.closes ≤ now)

/-- Whether a core fits a portion of m strands of a record, one of c (R100). A set that is whole, or whose window has closed,
goes first (R274). -/
def State.fits (s : State) (k : Nat) (r : LRec) (c m : Nat) : Bool :=
  let x := s.core k
  let threads := x.slots.foldl (fun n y => n + y.2.width) 0
  let words := x.slots.foldl (fun n y => n + y.2.width * y.2.nregs) 0
  let barriers := (s.blocks.filter fun b => b.occupies k).foldl (fun n b => n + b.slots) 0
  let g := r.granules c
  decide (m ≤ x.freeSlots.length) && !x.arrived.any (fun a => a.ready || a.due s.timePs) && decide (threads + m * r.width ≤ 4096) &&
  decide (words + m * r.width * r.regs ≤ 196608) && decide (barriers + r.barriers ≤ 16) &&
  (decide (g = 0) || (decide (g ≤ 64) && (x.freeRun g).isSome))

/-- Whether a portion fits an empty core. -/
def LRec.fitsEmpty (r : LRec) (c i : Nat) : Bool :=
  let m := r.portion c i
  decide (m ≤ 64) && decide (m * r.width ≤ 4096) && decide (m * r.width * r.regs ≤ 196608) &&
  decide (r.barriers ≤ 16) && decide (r.granules c ≤ 64)

/-- Every field within Table 5-2 and R93, apart from addresses and domain, and a block that fits 8 empty cores (R96). -/
def LRec.legal (r : LRec) : Bool :=
  let w (i : Nat) : Nat := r.fieldWidth i
  decide (r.wcode ≤ 3) && r.reserved == 0 && decide (r.scratch ≤ 2621440) &&
  decide (8 ≤ r.regs) && decide (r.regs ≤ 256) && decide (r.regs % 8 = 0) && decide (r.barriers ≤ 16) &&
  decide (r.prio ≤ 7) && decide (1 ≤ r.spread) && decide (r.spread ≤ 8) && decide (r.shift ≤ 61) &&
  decide (r.nsucc ≤ 8) &&
  decide (w 0 + w 1 + w 2 + w 3 + w 4 + w 5 ≤ 64) && decide (2 ^ w 0 = r.width) && decide (r.limit 0 = r.width) &&
  decide (w 0 + w 1 ≤ 15) && (List.range 6).all (fun i => decide (r.limit i ≤ 2 ^ w i)) &&
  (List.range 8).all (fun i => r.fitsEmpty 8 i)

/-- Whether a field address is misaligned (R96). -/
def LRec.misaligned (r : LRec) : Bool :=
  r.code.toNat % 4 != 0 || r.result.toNat % 8 != 0 || (r.nsucc != 0 && r.succ.toNat % 8 != 0)

/-- The status that refuses a record; 0: accepted (R96, Table 5-3). -/
def LRec.refusal (r : LRec) (domain : BitVec 16) (hyp : Bool) : Nat :=
  if !hyp && r.domain != domain then 0x11
  else if r.misaligned then 0x1C
  else if !r.legal then 0x3E
  else 0

/-- The scratch images of the executable that holds a launch record (R199); none for a record made otherwise. -/
def State.imagesOf (s : State) (dom : BitVec 16) (va : Nat) : List ScratchImage :=
  match s.mgmt.programs.find? fun p => p.domain == dom && decide (p.records ≤ va) && decide (va < p.records + 128 * p.count) with
  | some p => p.images
  | none => []

/-- An accepted record joins the tail of the queue of its priority (R97). -/
def State.acceptLaunch (s : State) (r : LRec) (va : Nat) (future : Option (Nat × Nat)) : State :=
  let l : Launch :=
    { number := s.nextLaunch, record := r, va := va, order := s.nextLaunch, next := some [0, 0, 0, 0], started := false,
      threads := 0, cancelled := false, complete := false, future := future, images := s.imagesOf r.domain va,
      stalls := 0, stallPs := 0, imagesMissed := 0, imagesCut := 0 }
  { s with launches := Assoc.set s.launches s.nextLaunch l, nextLaunch := s.nextLaunch + 1 }

/-- A record read at va and checked: the record, or the status that refuses it (R96). Table 5-3 names no status of a record
that a protection fault keeps from being read, nor of one that cannot be consumed: the former reports 0x10 as a record that
could not be translated, the latter its cause (log 56). -/
def State.readRecord (s : State) (w : Who) (va : Nat) (hyp : Bool) : State × Except Nat LRec :=
  if va % 128 ≠ 0 then (s, .error 0x1C)
  else
    match s.readV w va 128 with
    | (s, .error f) =>
      (s, .error (match f.1 with
        | .translation | .protection => 0x10
        | k => k.code))
    | (s, .ok bs) =>
      let r := LRec.ofBytes bs
      let k := r.refusal w.domain hyp
      if k = 0 then (s, .ok r) else (s, .error k)

/-- Whether a maintenance window is open: it has started and is not ended, or it is requested and every launch on the package
has completed, with no thread of another package's left (R362; DEDUCED, log 84). -/
def State.windowOpen (s : State) : Bool := s.mgmt.window || (s.mgmt.maintenance && s.running.isEmpty)

/-- LAUNCH (R115): the record is read at issue, once the strand's earlier accesses are performed (log 28). In a maintenance
window it waits (R362, log 84). -/
def execLaunch (d a : BitVec 6) (s : State) : Result :=
  issueIn [.future] (.launch d a) { gRead := [a.toNat], gDest := [d.toNat] } { ends := true } noChecks
    (fun st s =>
      if !s.accessesDone s.cur.1 s.cur.2 || s.windowOpen then .error id
      else
        (withFuture d.toNat (fun _ s => .launch s.nextLaunch)
          (fun i st s =>
            let c := s.cur.1
            match s.readRecord (st.who c) (st.gr a.toNat).toNat (st.mode == .h) with
            | (s, .error status) => s.completeFuture c i status
            | (s, .ok r) => s.acceptLaunch r (st.gr a.toNat).toNat (some (c, i)))) st s) id s

end Sys2Proof.Machine
end

