-- ==== Sys2Proof/Machine/Matrix.lean ====
section
/-! DEFINITION. The matrix instructions at issue: checks, holders, gangs, the matrix queue (R237-R262). -/

namespace Sys2Proof.Machine

/-! ### Parts and their holders (R238) -/

/-- Rows base div 64 to base div 64 + m - 1. -/
def matRows (base m : Nat) : List Nat := (List.range m).map (· + base / 64)

/-- Whether a base and a row count are within their limits (Table 10-4). -/
def spanOk (base m : Nat) : Bool := base % 64 == 0 && decide (1 ≤ m) && decide (m ≤ 128) && decide (base + 64 * m ≤ 8192)

/-- The parts that an instruction names: the plane set, accumulator rows. -/
structure Parts where
  plane : Bool
  rows  : List Nat
  deriving DecidableEq, Repr

/-- The parts that a queued operation names. -/
def MatKind.parts : MatKind → Parts
  | .mlds .. | .mact | .mband .. => ⟨true, []⟩
  | .mmul _ base m _ _ _ => ⟨true, matRows base m⟩
  | .mmsp _ base m _ _ _ _ _ _ => ⟨false, matRows base m⟩
  | .scacc p d m _ _ _ => ⟨false, matRows p m ++ matRows d m⟩
  | .mrd _ base m _ _ _ => ⟨false, matRows base m⟩
  | .mclr base m _ planes => ⟨planes, matRows base m⟩

/-- The units that count as completed before the first one of an operation: of an MMSP those before its start step, so that the count
of an operation that was stopped and reissued goes on, and can be a start step again (R245, R257; DEDUCED, log 86). -/
def MatKind.unitsBefore : MatKind → Nat
  | .mmsp _ _ _ start _ steps _ _ _ => min start steps.length
  | _ => 0

/-- The units that the future of a queue entry counts (R244, R245). -/
def MatOp.counted (q : MatOp) : Nat := q.kind.unitsBefore + q.units

/-- The future of slot i counts some units. -/
def CoreSt.countUnits (k : CoreSt) (i n : Nat) : CoreSt :=
  match Assoc.find k.futures i with
  | some f => { k with futures := Assoc.set k.futures i { f with units := n } }
  | none => k

/-- Whether another block holds a part. -/
def Matrix.otherHolds (m : Matrix) (st : Strand) (p : Parts) : Bool :=
  let me := (st.launch, st.block)
  (p.plane && m.planes.isSome && m.planes != some me) ||
  p.rows.any fun r => match Assoc.find m.rows r with
    | some h => h != me
    | none => false

/-- The issuing block becomes the holder of the parts named. -/
def Matrix.claim (m : Matrix) (st : Strand) (p : Parts) : Matrix :=
  let me := (st.launch, st.block)
  { m with planes := if p.plane then some me else m.planes
           rows := p.rows.foldl (fun rs r => Assoc.set rs r me) m.rows }

/-! ### The planes as the queue will present them (R242) -/

/-- Type and K of the shadow and the active plane; none: not known yet. -/
abbrev PlaneView := Option (Option ElemType × Nat)

/-- The planes behind a queued operation. -/
def planeStep (x : PlaneView × PlaneView) (q : MatOp) : PlaneView × PlaneView :=
  match q.kind with
  | .mlds .. => if q.status = 0 then (none, x.2) else x
  | .mact => (x.2, x.1)
  | .mclr _ _ _ true => (some (none, 0), some (none, 0))
  | _ => x

/-- The active plane that an operation joining the queue now will see. -/
def Matrix.activeAhead (m : Matrix) : PlaneView :=
  (m.queue.foldl planeStep (some (m.shadow.wtype, m.shadow.k), some (m.active.wtype, m.active.k))).2

/-! ### Scratch operands (R243, Table 10-1) -/

/-- Several ranges of n bytes read at issue through visible halves: all of them permitted, or 0x18; good, or the status of
the first that is not. Table 10-1 gives no order among them (DESIGN CHOICE, log 110). -/
def State.operands (s : State) (c : Nat) (st : Strand) (n : Nat) (xs : List Nat) : Except Nat (List (List Byte)) :=
  if n = 0 then .ok (xs.map fun _ => [])
  else if xs.any fun x => (s.scratchAt c st.launch st.block st.member x n).isNone then .error 0x18
  else xs.foldr (fun x r =>
    match s.readScratch c st.launch st.block st.member x n with
    | .error k => .error k
    | .ok bs => r.map fun rest => bs :: rest) (.ok [])

/-- n bytes at a scratch address read at issue, or the status of the failure. -/
def State.operand (s : State) (c : Nat) (st : Strand) (x n : Nat) : Except Nat (List Byte) :=
  (s.operands c st n [x]).map fun r => r.headD []

/-- Ranges of n bytes that an operation reads. -/
def readsOf (n : Nat) (xs : List Nat) : List (Bool × (Word × Nat)) :=
  if n = 0 then [] else xs.map fun x => (false, BitVec.ofNat 32 x, n)

/-- The sectors of the ranges that an operation read at issue are consumed. -/
def State.markReads (s : State) (c : Nat) (st : Strand) (rs : List (Bool × (Word × Nat))) : State :=
  rs.foldl (fun s r => if r.1 then s else s.markScratch c st.launch st.block r.2.1.toNat r.2.2) s

/-- n element codes of w bits from bytes (R83, Table 4-1). -/
def codesOf (w n : Nat) (bs : List Byte) : List Nat :=
  let x := natOf bs
  (List.range n).map (elemAt w x)

/-- 16-bit float types. -/
def is16 : ElemType → Bool
  | .bf16x2 | .f16x2 => true
  | _ => false

/-- 8-bit types. -/
def is8 : ElemType → Bool
  | .e4m3x4 | .e5m2x4 | .i8x4 | .n8x4 => true
  | _ => false

/-! ### Gangs (R246-R248) -/

/-- Strands in the list of a gang register. -/
def Strand.gangCount (st : Strand) : Nat := slice st.group.gang 2 0

/-- Whether a gang register value is legal for the strand of a slot (R246). -/
def gangOk (sl : Nat) (g : DWord) : Bool :=
  let n := slice g 2 0
  let es := gangList g
  n != 1 && n != 7 && g.toNat / 2 ^ (3 + 6 * n) == 0 && decide es.Nodup && (n == 0 || es.contains sl)

/-- GANG. -/
def execGang (a : BitVec 6) (s : State) : Result :=
  issue (.gang a) { gRead := [a.toNat] } { always := true, whole := true }
    (fun st s =>
      [if gangOk s.cur.2 (st.gr a.toNat) then [] else faultIn st.live .illegalInstruction,
       if st.member then [] else faultIn st.live .ownership])
    (onStrand fun old st => { st with group := { st.group with gang := old.gr a.toNat } }) id s

/-- Whether every listed slot holds a strand of the issuing block with the issuer's gang register (R247). -/
def CoreSt.gangWhole (k : CoreSt) (st : Strand) : Bool :=
  st.member && (gangList st.group.gang).all fun sl =>
    match Assoc.find k.slots sl with
    | some x => x.member && x.launch == st.launch && x.block == st.block && x.group.gang == st.group.gang
    | none => false

/-- *Barrier broken* in the issuer and every strand that waits on its list; the barriers of their blocks break. -/
def State.breakJoint (s : State) (c sl : Nat) (st : Strand) : State :=
  let ws := (s.core c).slots.filter fun x => x.2.inLatch && x.2.group.gang == st.group.gang
  ((sl, st) :: ws).foldl (fun s x =>
    let s := s.breakStrand c x.1 x.2.live
    if x.2.member then s.breakBlock x.2.launch x.2.block else s) (s.count c 0x3006)

/-- The joint instruction that a strand of the latch waits with. -/
def Strand.joint? (st : Strand) : Option Joint :=
  match st.wait with
  | .latch j => some j
  | _ => none

/-- Whether two joint instructions agree: opcode, operand values, mode fields (R247). -/
def Joint.agrees (x y : Joint) : Bool :=
  slice x.word 31 24 == slice y.word 31 24 && x.vals == y.vals && x.vecs == y.vecs && x.mode == y.mode

/-! ### Issue (R240-R243) -/

/-- What a matrix instruction brings to its issue. -/
structure MatForm where
  /-- Fields outside their limits. -/
  illegal : Strand → Bool
  /-- A type that is not accepted with the planes as they will stand. -/
  badType : Strand → State → Bool
  /-- The parts named. -/
  parts : Strand → Parts
  /-- Parts that must be held already (R261). -/
  must : Strand → Parts := fun _ => ⟨false, []⟩
  /-- Metadata that fails validation. -/
  malformed : Strand → State → Bool := fun _ _ => false
  /-- Not ready: the plane is not known. -/
  hold : State → Bool := fun _ => false
  /-- Bytes written into a live-in granule of an open region (R327). -/
  idem : Strand → State → Bool := fun _ _ => false
  /-- The scratch ranges named: whether written, address, length (R201, R230). -/
  ranges : Strand → State → List (Bool × (Word × Nat)) := fun _ _ => []
  /-- The operation and the status that a failed operand gives it. -/
  build : Strand → State → MatKind × Nat
  /-- The register that receives the future. -/
  dest : Option Nat := none
  /-- Vector operand words and mode fields read (R247). -/
  vecs : Strand → List Word := fun _ => []
  mode : Strand → Word := fun _ => 0#32

/-- Whether the issuing block holds every part of a set. -/
def Matrix.holds (m : Matrix) (st : Strand) (p : Parts) : Bool :=
  let me := (st.launch, st.block)
  (!p.plane || m.planes == some me) && p.rows.all fun r => Assoc.find m.rows r == some me

/-- The operation joins the queue once; handles go to each strand listed, which goes on (R240, R247). others: the other
strands of the gang with their joint instructions. -/
def State.joinQueue (s : State) (st : Strand) (f : MatForm) (i : Instr) (others : List (Nat × Joint)) :
    Except (State → State) (State × Flow) :=
  let c := s.cur.1
  let (kind, status) := f.build st s
  let ranges := f.ranges st s
  let gens := ((s.cur.2 :: others.map (·.1)).map fun sl => (sl, (s.core c).gen sl))
  let add (s : State) (future : Option Nat) : State :=
    let q : MatOp := ⟨kind, future, gens, st.launch, st.block, status, 0, 0#5, []⟩
    let s := s.modCore c fun k =>
      let m := k.matrix.claim st kind.parts
      let k := { k with matrix := { m with queue := m.queue ++ [q] } }
      match future with
      | some i => k.countUnits i q.counted
      | none => k
    let s := s.markReads c st ranges
    others.foldl (fun s x => s.modStrand c x.1 fun y => { y with wait := .none }.retire .seq) s
  match f.dest with
  | none => .ok (add s none, .seq)
  | some d =>
    match (s.unbindDests st.lineage [d]).takeFuture st d .matrix ranges 0 with
    | none => .error fun s => s.countStall 3 0x10003
    | some (s, n) =>
      let s := others.foldl (fun s x =>
        let d := slice x.2.word 21 16
        match s.strand? c x.1 with
        | none => s
        | some y =>
          let s := s.modCore c fun k => k.unbind y.lineage d
          let s := s.setStrand c x.1 (y.setG d ((s.here?.map fun z => z.gr (match i with
            | .mlds e _ _ | .mmul e _ _ | .mmsp e _ _ | .scacc e _ | .mrd e _ _ => e.toNat
            | _ => 0)).getD 0#64))
          s.modCore c fun k => { k with futures := match Assoc.find k.futures n with
            | some fu => Assoc.set k.futures n { fu with binding := fu.binding ++ [(y.lineage, d)] }
            | none => k.futures }) s
      .ok (add s (some n), .seq)

/-- The rendezvous latch (R247). -/
def State.rendezvous (s : State) (st : Strand) (f : MatForm) (i : Instr) (j : Joint) :
    Except (State → State) (State × Flow) :=
  let c := s.cur.1
  let k := s.core c
  if !k.gangWhole st then .ok (s.breakJoint c s.cur.2 st, .stay)
  else
    let rest := (gangList st.group.gang).filter (· != s.cur.2)
    let waiting := rest.filterMap fun sl => match Assoc.find k.slots sl with
      | some x => x.joint?.map fun j => (sl, j)
      | none => none
    if waiting.length < rest.length then .ok (s.modHere fun x => { x with wait := .latch j }, .stay)
    else if waiting.all fun x => x.2.agrees j then s.joinQueue st f i waiting
    else if (s.cur.2 :: rest).any fun sl => s.awaitsLink c sl then .error id
    else
      .ok (waiting.foldl (fun s x =>
        match s.strand? c x.1 with
        | none => s
        | some y => (s.setStrand c x.1 { y with wait := .none }).takeTrap c x.1 (faultIn y.live .illegalInstruction) y.point)
        (s.takeTrap c s.cur.2 (faultIn st.live .illegalInstruction) st.point), .stay)

/-- Whether a matrix instruction of the strand that issues would join the queue now: it is of no gang, or every other strand
of its whole gang waits in the latch (R247). -/
def State.joinsNow (s : State) : Bool :=
  match s.here? with
  | none => false
  | some st => decide (st.gangCount < 2) || (s.core s.cur.1).gangWhole st &&
      ((gangList st.group.gang).filter (· != s.cur.2)).all fun sl =>
      match Assoc.find (s.core s.cur.1).slots sl with
      | some x => x.joint?.isSome
      | none => false

/-- A matrix instruction at issue, once for the strand whatever lanes are active (R241), with the checks of R242. While the
planes that it will see are not known, the checks from the type on are not made, and it is not ready. An instruction that
reads scratch waits for the strand's earlier accesses, as do the checks of what it reads (R230, log 28). -/
def matWord (i : Instr) (u : Use) (f : MatForm) (s : State) : Result :=
  issueIn (if f.dest.isSome && s.joinsNow then [.future] else []) i u { always := true, whole := true, late := true }
    (fun st s =>
      let m := (s.core s.cur.1).matrix
      let bad (k : Cause) (b : Bool) : List LaneFault := if b then faultIn st.live k else []
      [bad .idempotence (f.idem st s), bad .illegalInstruction (f.illegal st), bad .illegalMode (f.badType st s),
       bad .ownership (!f.hold s && (!st.member || m.otherHolds st (f.parts st) || !m.holds st (f.must st))),
       bad .malformedMetadata (!f.hold s && s.accessesDone s.cur.1 s.cur.2 && f.malformed st s)])
    (fun st s =>
      if f.hold s then .error id
      else if f.dest.isSome && !s.accessesDone s.cur.1 s.cur.2 then .error id
      else if st.gangCount < 2 then s.joinQueue st f i []
      else
        let vals := u.gRead.map st.gr
        s.rendezvous st f i ⟨(encode i).getD 0#32, vals, f.vecs st, f.mode st⟩) id s

/-- The type of the mode register, as every legal mode has one. -/
def Strand.mtype (st : Strand) : ElemType := (modeType st.group.mode).getD .i32

/-- The type field of the mode register. -/
def typeField (st : Strand) : Word := st.group.mode &&& 0x78#32

/-! ### Weights (R249, R250) -/

/-- Whether a type is one of weights (Table 10-3). -/
def isWeight (t : ElemType) : Bool := is16 t || is8 t || t == .q4nx8

/-- Bytes of a weight row. -/
def weightRow (t : ElemType) : Nat := 8 * t.width

/-- MLDS. A type outside Table 10-3 has the limit of 128 rows in the check of the count, which comes before that of the type
(R249; DESIGN CHOICE, log 111). -/
def execMlds (d a b : BitVec 6) (s : State) : Result :=
  matWord (.mlds d a b) { gRead := [a.toNat, b.toNat], gDest := [d.toNat] }
    { illegal := fun st =>
        let k := (st.gr b.toNat).toNat
        decide (k = 0) || decide ((if is16 st.mtype then 64 else 128) < k)
      badType := fun st _ => !isWeight st.mtype
      parts := fun _ => ⟨true, []⟩
      build := fun st s =>
        let t := st.mtype
        let k := (st.gr b.toNat).toNat
        let x := (lo32 (st.gr a.toNat)).toNat
        if x % 4 ≠ 0 then (.mlds t [], 0x1C)
        else match s.operand s.cur.1 st x (k * weightRow t) with
          | .error e => (.mlds t [], e)
          | .ok bs => (.mlds t ((List.range k).map fun i =>
              codesOf t.width 64 ((bs.drop (i * weightRow t)).take (weightRow t))), 0)
      ranges := fun st _ =>
        let x := (lo32 (st.gr a.toNat)).toNat
        if x % 4 ≠ 0 then [] else readsOf ((st.gr b.toNat).toNat * weightRow st.mtype) [x]
      dest := some d.toNat
      mode := typeField } s

/-- MACT. -/
def execMact (s : State) : Result :=
  matWord .mact {}
    { illegal := fun _ => false, badType := fun _ _ => false, parts := fun _ => ⟨true, []⟩, build := fun _ _ => (.mact, 0) } s

/-! ### Dense multiplication and the band (R251, R252) -/

/-- Table 10-5. -/
def pairOk (w : Option ElemType) (k : Nat) (t : ElemType) : Bool :=
  (is16 t || is8 t) &&
  (match w with
   | none => k == 0
   | some .q4nx8 => is8 t || decide (k ≤ 64)
   | some w => (is16 w && is16 t) || (is8 w && is8 t))

/-- MMUL. -/
def execMmul (d a b : BitVec 6) (s : State) : Result :=
  let base (st : Strand) : Nat := slice (st.gr d.toNat) 12 0
  let m (st : Strand) : Nat := slice (st.gr d.toNat) 20 13
  let stride (st : Strand) : Nat := (st.gr b.toNat).toNat
  matWord (.mmul d a b) { gRead := [d.toNat, a.toNat, b.toNat], gDest := [d.toNat] }
    { illegal := fun st => slice (st.gr d.toNat) 63 23 != 0 || !spanOk (base st) (m st) || decide (327680 < stride st)
      badType := fun st s => match (s.core s.cur.1).matrix.activeAhead with
        | some (w, k) => !pairOk w k st.mtype
        | none => !(is16 st.mtype || is8 st.mtype)
      parts := fun st => ⟨true, matRows (base st) (m st)⟩
      hold := fun s => ((s.core s.cur.1).matrix.activeAhead).isNone
      build := fun st s =>
        let t := st.mtype
        let k := match (s.core s.cur.1).matrix.activeAhead with
          | some (_, k) => k
          | none => 0
        let x := (lo32 (st.gr a.toNat)).toNat
        let g := st.gr d.toNat
        let op (act : List (List Nat)) : MatKind := .mmul t (base st) (m st) (g.getLsbD 21) (g.getLsbD 22) act
        if x % 4 ≠ 0 ∨ stride st % 4 ≠ 0 then (op [], 0x1C)
        else match s.operands s.cur.1 st (k * t.width / 8) ((List.range (m st)).map fun r => x + r * stride st) with
          | .error e => (op [], e)
          | .ok rows => (op (rows.map (codesOf t.width k)), 0)
      ranges := fun st s =>
        let x := (lo32 (st.gr a.toNat)).toNat
        if x % 4 ≠ 0 ∨ stride st % 4 ≠ 0 then []
        else readsOf (((s.core s.cur.1).matrix.activeAhead.map (·.2)).getD 0 * st.mtype.width / 8)
          ((List.range (m st)).map fun r => x + r * stride st)
      dest := some d.toNat
      mode := typeField } s

/-- MBAND. -/
def execMband (a b : BitVec 6) (s : State) : Result :=
  matWord (.mband a b) { gRead := [a.toNat, b.toNat] }
    { illegal := fun st => hi32 (st.gr b.toNat) != 0#32
      badType := fun _ _ => false
      parts := fun _ => ⟨true, []⟩
      build := fun st _ =>
        (.mband (lo32 (st.gr a.toNat)).toInt (hi32 (st.gr a.toNat)).toInt (lo32 (st.gr b.toNat)), 0) } s

/-! ### Sparse outer products (R254-R256) -/

/-- Columns of an MMSP: the bitmap of lane n, 0 from the width on. -/
def Strand.bitmaps (st : Strand) (b : Nat) : List Word :=
  (List.range 64).map fun n => if n < st.width then st.vlane b n else 0#32

/-- The operand record (Table 10-7). -/
structure SparseRec where
  a      : Nat
  bitmap : Nat
  b      : Nat
  k      : Nat
  dens   : Nat
  deriving DecidableEq, Repr

/-- The record at a scratch address, or the status of its failure. Table 10-1 names 0x1C for an address that is no multiple of
4; one that is no multiple of 8, as R254 wants it, gets the same (DESIGN CHOICE, log 85). -/
def State.sparseRec (s : State) (st : Strand) (x : Nat) : Except Nat SparseRec :=
  if x % 8 ≠ 0 then .error 0x1C
  else match s.operand s.cur.1 st x 16 with
    | .error e => .error e
    | .ok bs =>
      let v (o n : Nat) : Nat := natOf ((bs.drop o).take n)
      .ok ⟨v 0 4, v 4 4, v 8 4, v 12 2, v 14 2⟩

/-- Set bits of group g of a bitmap below bit k. -/
def groupBelow (x : Word) (g k : Nat) : Nat :=
  ((List.range 8).filter fun i => decide (8 * g + i < k) && x.getLsbD (8 * g + i)).length

/-- R255. -/
def SparseRec.bad (r : SparseRec) (cols : List Word) : Bool :=
  decide (r.k = 0) || decide (32 < r.k) || decide (r.dens = 0) || decide (8 < r.dens) ||
  cols.any fun x => x.toNat / 2 ^ r.k != 0 || (List.range 4).any fun g => decide (r.dens < groupBelow x g 32)

/-- The element slots of B that column n fills, each with its k (R256); unused slots are not read (log 33). -/
def SparseRec.slots (r : SparseRec) (n : Nat) (x : Word) : List (Nat × Nat) :=
  ((List.range r.k).filter x.getLsbD).map fun k => (k, (n * ceilDiv r.k 8 + k / 8) * r.dens + groupBelow x (k / 8) k)

/-- The column n of B: for each k its element where the bitmap has it. -/
def State.sparseCol (s : State) (st : Strand) (t : ElemType) (r : SparseRec) (n : Nat) (x : Word) : Except Nat (List Nat) :=
  let es := t.width / 8
  let used := r.slots n x
  match s.operands s.cur.1 st es (used.map fun p => r.b + p.2 * es) with
  | .error e => .error e
  | .ok bs => .ok ((List.range r.k).map fun k =>
      match used.findIdx? (·.1 == k) with
      | some i => natOf (bs.getD i [])
      | none => 0)

/-- Every column. -/
def State.sparseCols (s : State) (st : Strand) (t : ElemType) (r : SparseRec) : List (Nat × Word) → Except Nat (List (List Nat))
  | [] => .ok []
  | (n, x) :: rest =>
    match s.sparseCol st t r n x with
    | .error e => .error e
    | .ok c =>
      match State.sparseCols s st t r rest with
      | .error e => .error e
      | .ok cs => .ok (c :: cs)

/-- The rows of A with absent elements taken out, and the words of its bitmap. -/
def State.sparseRows (s : State) (st : Strand) (t : ElemType) (r : SparseRec) (m : Nat) :
    Except Nat (List (List (Option Nat)) × Option (List Word)) :=
  let c := s.cur.1
  let es := t.width / 8
  let pitch := ceilDiv (r.k * es) 4 * 4
  if r.a % 4 ≠ 0 ∨ r.bitmap % 4 ≠ 0 ∨ r.b % 4 ≠ 0 then .error 0x1C
  else match s.operands c st (r.k * es) ((List.range m).map fun i => r.a + i * pitch) with
    | .error e => .error e
    | .ok rows =>
      let codes := rows.map (codesOf t.width r.k)
      if r.bitmap = 0 then .ok (codes.map fun row => row.map some, none)
      else match s.operand c st r.bitmap (4 * m) with
        | .error e => .error e
        | .ok bs =>
          let words := wordsOf m bs
          .ok (codes.zipIdx.map fun x => x.1.zipIdx.map fun y =>
            if (words.getD x.2 0#32).getLsbD y.2 then some y.1 else none, some words)

/-- The scratch ranges that an MMSP reads beside its record: rows of A, its bitmap, the used slots of B. -/
def SparseRec.reads (r : SparseRec) (t : ElemType) (m : Nat) (cols : List Word) : List (Bool × (Word × Nat)) :=
  let es := t.width / 8
  if r.a % 4 ≠ 0 ∨ r.bitmap % 4 ≠ 0 ∨ r.b % 4 ≠ 0 then []
  else
    readsOf (r.k * es) ((List.range m).map fun i => r.a + i * (ceilDiv (r.k * es) 4 * 4)) ++
    (if r.bitmap = 0 then [] else readsOf (4 * m) [r.bitmap]) ++
    readsOf es (cols.zipIdx.flatMap fun x => (r.slots x.2 x.1).map fun p => r.b + p.2 * es)

/-- The steps: every k set in some column and, with a bitmap of A, in some word of it. -/
def sparseSteps (k : Nat) (cols : List Word) (abits : Option (List Word)) : List Nat :=
  (List.range k).filter fun i => cols.any (fun x => x.getLsbD i) && (match abits with
    | none => true
    | some ws => ws.any fun w => w.getLsbD i)

/-- MMSP. -/
def execMmsp (d a : BitVec 6) (b : BitVec 8) (s : State) : Result :=
  let base (st : Strand) : Nat := slice (st.gr d.toNat) 12 0
  let m (st : Strand) : Nat := slice (st.gr d.toNat) 20 13
  let rec? (st : Strand) (s : State) := s.sparseRec st (lo32 (st.gr a.toNat)).toNat
  matWord (.mmsp d a b) { reads := [b.toNat], gRead := [d.toNat, a.toNat], gDest := [d.toNat] }
    { illegal := fun st => slice (st.gr d.toNat) 31 22 != 0 || !spanOk (base st) (m st)
      badType := fun st _ => !(is16 st.mtype || is8 st.mtype)
      parts := fun st => ⟨false, matRows (base st) (m st)⟩
      malformed := fun st s => match rec? st s with
        | .ok r => r.bad (st.bitmaps b.toNat)
        | .error _ => false
      build := fun st s =>
        let t := st.mtype
        let cols := st.bitmaps b.toNat
        let start := slice (st.gr d.toNat) 63 32
        let op (steps : List Nat) (rows : List (List (Option Nat))) (bs : List (List Nat)) : MatKind :=
          .mmsp t (base st) (m st) start ((st.gr d.toNat).getLsbD 21) steps cols rows bs
        match rec? st s with
        | .error e => (op [] [] [], e)
        | .ok r =>
          match s.sparseRows st t r (m st) with
          | .error e => (op [] [] [], e)
          | .ok (rows, abits) =>
            match s.sparseCols st t r (cols.zipIdx.map fun x => (x.2, x.1)) with
            | .error e => (op [] [] [], e)
            | .ok bs => (op (sparseSteps r.k cols abits) rows bs, 0)
      ranges := fun st s =>
        let x := (lo32 (st.gr a.toNat)).toNat
        if x % 8 ≠ 0 then []
        else readsOf 16 [x] ++ (match rec? st s with
          | .ok r => r.reads st.mtype (m st) (st.bitmaps b.toNat)
          | .error _ => [])
      dest := some d.toNat
      vecs := fun st => st.bitmaps b.toNat
      mode := typeField } s

/-! ### Scales, read-out, clearing (R258-R261) -/

/-- SCACC. -/
def execScacc (d a : BitVec 6) (s : State) : Result :=
  let base (st : Strand) : Nat := slice (st.gr d.toNat) 12 0
  let pbase (st : Strand) : Nat := slice (st.gr d.toNat) 44 32
  let m (st : Strand) : Nat := slice (st.gr d.toNat) 20 13
  matWord (.scacc d a) { gRead := [d.toNat, a.toNat], gDest := [d.toNat] }
    { illegal := fun st =>
        slice (st.gr d.toNat) 63 45 != 0 || slice (st.gr d.toNat) 31 22 != 0 || !spanOk (base st) (m st) ||
        !spanOk (pbase st) (m st) || (matRows (base st) (m st)).any fun r => (matRows (pbase st) (m st)).contains r
      badType := fun _ _ => false
      parts := fun st => ⟨false, matRows (pbase st) (m st) ++ matRows (base st) (m st)⟩
      build := fun st s =>
        let x := (lo32 (st.gr a.toNat)).toNat
        let op (codes : List Nat) (supers : List Word) : MatKind :=
          .scacc (pbase st) (base st) (m st) ((st.gr d.toNat).getLsbD 21) codes supers
        if x % 4 ≠ 0 then (op [] [], 0x1C)
        else match s.operand s.cur.1 st x 320 with
          | .error e => (op [] [], e)
          | .ok bs => (op (codesOf 8 64 (bs.take 64)) (wordsOf 64 (bs.drop 64)), 0)
      ranges := fun st _ =>
        let x := (lo32 (st.gr a.toNat)).toNat
        if x % 4 ≠ 0 then [] else readsOf 320 [x]
      dest := some d.toNat } s

/-- The types of a read-out (R260). -/
def isReadOut : ElemType → Bool
  | .i64 | .n64 | .q4nx8 => false
  | _ => true

/-- MRD. -/
def execMrd (d a b : BitVec 6) (s : State) : Result :=
  let base (st : Strand) : Nat := slice (st.gr a.toNat) 12 0
  let m (st : Strand) : Nat := slice (st.gr a.toNat) 20 13
  let dst (st : Strand) : Nat := (lo32 (st.gr b.toNat)).toNat
  let len (st : Strand) : Nat := m st * 8 * st.mtype.width
  matWord (.mrd d a b) { gRead := [a.toNat, b.toNat], gDest := [d.toNat] }
    { idem := fun st s => st.idemSpan s.cur.1 (dst st) (len st)
      illegal := fun st => slice (st.gr a.toNat) 63 22 != 0 || !spanOk (base st) (m st)
      badType := fun st _ => !isReadOut st.mtype
      parts := fun st => ⟨false, matRows (base st) (m st)⟩
      build := fun st s =>
        let x := dst st
        let status :=
          if x % 4 ≠ 0 then 0x1C
          else if (s.scratchAt s.cur.1 st.launch st.block st.member x (len st)).isNone then 0x18 else 0
        (.mrd st.mtype (base st) (m st) ((st.gr a.toNat).getLsbD 21) st.group.mode (BitVec.ofNat 32 x), status)
      ranges := fun st _ => [(true, BitVec.ofNat 32 (dst st), len st)]
      dest := some d.toNat
      mode := fun st => st.group.mode &&& 0x7F#32 } s

/-- MCLR. -/
def execMclr (a : BitVec 6) (s : State) : Result :=
  let base (st : Strand) : Nat := slice (st.gr a.toNat) 12 0
  let m (st : Strand) : Nat := slice (st.gr a.toNat) 20 13
  matWord (.mclr a) { gRead := [a.toNat] }
    { illegal := fun st => slice (st.gr a.toNat) 63 23 != 0 || !spanOk (base st) (m st)
      badType := fun _ _ => false
      parts := fun st => ⟨(st.gr a.toNat).getLsbD 22, matRows (base st) (m st)⟩
      must := fun st => ⟨(st.gr a.toNat).getLsbD 22, if (st.gr a.toNat).getLsbD 21 then matRows (base st) (m st) else []⟩
      build := fun st _ =>
        let g := st.gr a.toNat
        (.mclr (base st) (m st) (g.getLsbD 21) (g.getLsbD 22), 0) } s

/-- What MSTEP gives: the units of the matrix operation that a register names, or all ones (R245). -/
def State.unitsOf (s : State) (c : Nat) (v : DWord) : DWord :=
  match s.named? c v with
  | some (_, f) => if f.kind = .matrix then BitVec.ofNat 64 f.units else ~~~ 0#64
  | none => ~~~ 0#64

/-- MSTEP (R245): the operation is looked at before the write of g[D] ends a binding. -/
def execMstep (d a : BitVec 6) (s : State) : Result :=
  let v (st : Strand) : DWord := s.unitsOf s.cur.1 (st.gr a.toNat)
  issue (.mstep d a) { gRead := [a.toNat], gDest := [d.toNat] } { always := true, whole := true, waits := false }
    (fun st _ => [if st.member then [] else faultIn st.live .ownership])
    (onStrand fun old st => st.setG d.toNat (v old)) id s

end Sys2Proof.Machine
end

