-- ==== Sys2Proof/Machine/Gather.lean ====
section
/-! DEFINITION. GATH and PROMO, with the steps that complete them (R189-R191, R295). -/

namespace Sys2Proof.Machine

/-! ### The gather record (R189) -/

/-- A gather request record (Table 7-6). -/
structure GathRec where
  n        : Nat
  first    : Nat
  words    : Nat
  handle   : DWord
  presence : Word
  reserved : Nat
  keys     : List Nat
  deriving DecidableEq, Repr

/-- Its 24 bytes, and the keys. -/
def GathRec.ofBytes (head keys : List Byte) : GathRec :=
  let v (o n : Nat) : Nat := natOf ((head.drop o).take n)
  { n := v 0 4, first := v 4 2, words := v 6 2, handle := BitVec.ofNat 64 (v 8 8), presence := BitVec.ofNat 32 (v 16 4),
    reserved := v 20 4, keys := (List.range (v 0 4)).map fun i => natOf ((keys.drop (8 * i)).take 8) }

/-- Whether n, f, m and the reserved field lie within Table 7-6. -/
def GathRec.legal (r : GathRec) : Bool :=
  decide (1 ≤ r.n) && decide (r.n ≤ 4096) && decide (r.first ≤ 255) && decide (1 ≤ r.words) && decide (r.words ≤ 256) &&
  r.reserved == 0

/-- Whether the record names a presence map. -/
def GathRec.mapped (r : GathRec) : Bool := r.presence != 0xFFFFFFFF#32

/-- Whether an engine may write n bytes at a scratch address. -/
def State.engineMayWrite (s : State) (c : Nat) (st : Strand) (x n : Nat) : Bool :=
  (s.scratchAt c st.launch st.block st.member x n).isSome

/-- The record that a GATH reads at issue, or the status that refuses it (Table 7-7; the order is the model's, log 32). Its
destination and its map are its to write. -/
def State.gathRecord (s : State) (c : Nat) (st : Strand) (x dest : Nat) : Except Nat GathRec :=
  if x % 8 ≠ 0 ∨ dest % 4 ≠ 0 then .error 0x1C
  else match s.operand c st x 24 with
    | .error k => .error k
    | .ok head =>
      if !(GathRec.ofBytes head []).legal then .error 0x3E
      else
        let n := (GathRec.ofBytes head []).n
        match s.operand c st (x + 24) (8 * n) with
        | .error k => .error k
        | .ok keys =>
          let r := GathRec.ofBytes head keys
          if !s.engineMayWrite c st dest (4 * r.words * n) ∨
              (r.mapped ∧ !s.engineMayWrite c st r.presence.toNat (ceilDiv n 8)) then .error 0x18
          else .ok r

/-- The scratch ranges that a GATH names: of its record, and once that is read of its destination and its map (R201). -/
def State.gathRanges (s : State) (c : Nat) (st : Strand) (x dest : Nat) : List (Bool × (Word × Nat)) :=
  if x % 8 ≠ 0 then []
  else match s.gathRecord c st x dest with
    | .error _ => readsOf 24 [x]
    | .ok r => readsOf (24 + 8 * r.n) [x] ++ (true, BitVec.ofNat 32 dest, 4 * r.words * r.n) ::
        (if r.mapped then [(true, r.presence, ceilDiv r.n 8)] else [])

/-! ### Reading rows (R190) -/

/-- A request over the links for the future of slot i of core c: its number (R355). -/
def State.askFor (s : State) (c i : Nat) (w : Who) (pkg : Nat) (q : LinkAsk) : State × Nat :=
  let serial := match Assoc.find (s.core c).futures i with
    | some f => f.serial
    | none => 0
  s.ask pkg c serial (256 + i) ⟨Config.packageNumber, c, w.domain, w.keyid, w.priv, w.launch⟩ q

/-- Words of a block of the paged store, one after another. -/
def State.blockWords (w : Who) (blk : Nat) : Nat → Nat → State → State × Except Fail (List Word)
  | 0, _, s => (s, .ok [])
  | n + 1, off, s =>
    match s.readBlock w blk off 4 with
    | (s, .error f) => (s, .error f)
    | (s, .ok bs) =>
      match State.blockWords w blk n (off + 4) s with
      | (s, .error f) => (s, .error f)
      | (s, .ok ws) => (s, .ok (wordOf bs :: ws))

/-- What a read of memory finds at this time: bank sets whose data is lost read zero (R285). -/
def State.readable (s : State) : Mem :=
  s.banks.foldl (fun m b => if b.2.state == .deep || (b.2.state == .waking && b.2.fromDeep) then m.clearBank b.1 else m) s.mem

/-- Memory with the poison that reads of an earlier state of it made, where the sector is still damaged. -/
def Mem.joinPoison (m before after : Mem) : Mem :=
  (after.poison.filter fun n => !before.poison.contains n && Assoc.get 0#16 m.codeErr n != 0#16).foldl
    (fun m n => m.setPoison n true) m

/-- Reads made as of an earlier time, whose memory is given (R230): they find its values, and their faults are reported. -/
def State.asOf {α : Type} (s : State) (m : Mem) (f : State → State × α) : State × α :=
  let r := f { s with mem := m, banks := [] }
  ({ r.1 with mem := s.mem.joinPoison m r.1.mem, banks := s.banks }, r.2)

/-- n bytes of the row store of a table from an offset on, page by page of 64 KiB. -/
def State.readStore (w : Who) (t : Table) : Nat → Nat → Nat → State → State × Except Fail (List Byte)
  | 0, _, _, s => (s, .ok [])
  | fuel + 1, off, n, s =>
    let k := min n (65536 - off % 65536)
    match s.readPhys w (t.pa off) k with
    | (s, .error f) => (s, .error f)
    | (s, .ok bs) =>
      if n = k then (s, .ok bs)
      else match State.readStore w t fuel (off + k) (n - k) s with
        | (s, .error f) => (s, .error f)
        | (s, .ok cs) => (s, .ok (bs ++ cs))

/-- Words f to f + m - 1 of the row at a near reference of a table. -/
def State.nearRow (s : State) (w : Who) (t : Table) (ref f m : Nat) : State × Found :=
  match State.readStore w t 2 (ref - t.base + 4 * f) (4 * m) s with
  | (s, .error x) => (s, .failed x.1.code)
  | (s, .ok bs) => (s, .row (wordsOf m bs))

/-- What a gather has found by key, its requests to other packages with the keys that wait for each, and the references that it
has read, each with the first key that had it. -/
structure Gathered where
  found : List (Nat × Found)
  asked : List (Nat × Nat)
  refs  : List (Nat × Nat) := []
  deriving DecidableEq, Repr

/-- Whether a key has been looked up. -/
def Gathered.has (g : Gathered) (key : Nat) : Bool := (Assoc.find g.found key).isSome || g.asked.any fun a => a.2 == key

/-- What a key found. -/
def Gathered.put (g : Gathered) (key : Nat) (x : Found) : Gathered := { g with found := Assoc.set g.found key x }

/-- A key whose reference was read for an earlier key gets what that key found, or waits for the same request: each distinct
row is read once. -/
def Gathered.share (g : Gathered) (key first : Nat) : Gathered :=
  match Assoc.find g.found first with
  | some x => g.put key x
  | none => { g with asked := g.asked ++ ((g.asked.filter fun a => a.2 == first).map fun a => (a.1, key)) }

/-- A reference without what does not tell rows apart: the tier of a far one (R290). -/
def rowName (x : Nat) : Nat := if isFar x then farName x else x

/-- A row read for a key by its reference, unless an earlier key had that. -/
def State.rowOnce (s : State) (key ref : Nat) (g : Gathered) (read : Gathered → State → State × Gathered) :
    State × Gathered :=
  match g.refs.find? fun x => x.1 == rowName ref with
  | some x => (s, g.share key x.2)
  | none => read { g with refs := g.refs ++ [(rowName ref, key)] } s

/-- The place in a row store with rows that a far reference of this package names, whatever block table there is (R162). -/
def State.nearForm (s : State) (x : Nat) : Option StorePlace :=
  if !isFar x || (s.blockEntry (farBlock x)).valid then none
  else match s.placeOf Who.nobody x with
    | some p => if p.hasRows then some p else none
    | none => none

/-- Words m from word f on at a far reference to a block of this package. A row of a dense or indexed table is read on where its
row store goes on (R162). -/
def State.farWords (s : State) (w : Who) (ref f m : Nat) : State × Found :=
  match s.nearForm ref with
  | some p => s.nearRow w p.table (p.table.base + p.off) f m
  | none =>
    match State.blockWords w (farBlock ref) m (farOffset ref + 4 * f) s with
    | (s, .error x) => (s, .failed x.1.code)
    | (s, .ok ws) => (s, .row ws)

/-- Words m from word f on at a far reference: of a block of this package at once, of another's over the links, for the future
of slot i of core c (R355). Table 7-7 has no status for words beyond the end of the 16 KiB of a block: they are read on from
there, and none for a reference of tier 3, which fails as *translation*, as one whose block table entry is not valid does
(DESIGN CHOICE, log 90). -/
def State.farRow (s : State) (c i : Nat) (w : Who) (key ref f m : Nat) (g : Gathered) : State × Gathered :=
  if farTier ref = 3 then (s, g.put key (.failed 0x10))
  else if farPackage ref ≠ Config.packageNumber then
    match s.askFor c i w (farPackage ref) (.rows (BitVec.ofNat 64 (ref + 4 * f)) m) with
    | (s, n) => (s, { g with asked := g.asked ++ [(n, key)] })
  else match s.farWords w ref f m with
    | (s, x) => (s, g.put key x)

/-- The reference that a key has in a table, 0 if it is absent (R170). -/
def State.gathRef (s : State) (w : Who) (t : Table) (sel key : Nat) : State × Except Fail Nat :=
  if t.desc.kind = 3 then s.firstStage w t key else (s, .ok (t.lookup sel key))

/-- Each distinct key looked up and read once, in order of first appearance. Each counts as a lookup performed (R192; DESIGN
CHOICE, log 95). -/
def State.gathKeys (c i : Nat) (w : Who) (r : GathRec) : List Nat → Gathered → State → State × Gathered
  | [], g, s => (s, g)
  | key :: ks, g, s =>
    if g.has key then State.gathKeys c i w r ks g s
    else
      let s := s.modTable (hNumber r.handle) fun t => t.count 0
      match Assoc.find s.tables (hNumber r.handle) with
      | none => (s, g)
      | some t =>
        match s.gathRef w t (hSelector r.handle) key with
        | (s, .error f) => State.gathKeys c i w r ks (g.put key (.failed f.1.code)) s
        | (s, .ok ref) =>
          if ref = 0 then State.gathKeys c i w r ks (g.put key .absent) s
          else
            match s.rowOnce key ref g fun g s =>
                if isFar ref then s.farRow c i w key ref r.first r.words g
                else match s.nearRow w t ref r.first r.words with
                  | (s, x) => (s, g.put key x) with
            | (s, g) => State.gathKeys c i w r ks g s

/-- Bits packed eight to a byte, low bit first. -/
def packBits : List Bool → List Byte
  | a :: b :: c :: d :: e :: f :: g :: h :: rest =>
    BitVec.ofNat 8 ([a, b, c, d, e, f, g, h].foldr (fun x n => (if x then 1 else 0) + 2 * n) 0) :: packBits rest
  | [] => []
  | xs => [BitVec.ofNat 8 (xs.foldr (fun x n => (if x then 1 else 0) + 2 * n) 0)]

/-- What a gather writes, and its status: the code of the first failing slot. -/
def gathResult (r : GathRec) (dest : Word) (found : List (Nat × Found)) : List (Word × List Byte) × Nat :=
  let slots := r.keys.map fun k => (Assoc.find found k).getD .absent
  let bytes := slots.flatMap fun x => match x with
    | .row ws => bytesOfWords ws
    | _ => List.replicate (4 * r.words) 0#8
  let present := slots.map fun x => match x with
    | .row _ => true
    | _ => false
  let status := slots.findSome? fun x => match x with
    | .failed k => some k
    | _ => none
  ((dest, bytes) :: (if r.mapped then [(r.presence, packBits present)] else []), status.getD 0)

/-! ### GATH -/

/-- Whether a GATH would write a live-in granule, once its record can be read (R327). -/
def State.gathIdem (s : State) (st : Strand) (x dest : Nat) : Bool :=
  s.accessesDone s.cur.1 s.cur.2 &&
  (match s.gathRecord s.cur.1 st x dest with
   | .error _ => false
   | .ok r => st.idemSpan s.cur.1 dest (4 * r.words * r.n) ||
       (r.mapped && st.idemSpan s.cur.1 r.presence.toNat (ceilDiv r.n 8)))

/-- The kind of a future changed. -/
def State.setKind (s : State) (c i : Nat) (kind : FutureKind) : State :=
  s.modCore c fun k => match Assoc.find k.futures i with
    | some f => { k with futures := Assoc.set k.futures i { f with kind := kind } }
    | none => k

/-- A gather that has found what it could: it waits for rows of other packages, or for its step that completes it. -/
def State.gathWaits (s : State) (c i : Nat) (record : List Byte) (dest : Word) (g : Gathered) : State :=
  if g.asked.isEmpty then
    let r := gathResult (GathRec.ofBytes (record.take 24) (record.drop 24)) dest g.found
    s.setKind c i (.gath r.1 r.2)
  else s.setKind c i (.gathFar record dest g.found g.asked)

/-- A gather worked out at issue (R230): the table is looked up here, or at its package. -/
def State.gather (s : State) (c i : Nat) (st : Strand) (x : Nat) (r : GathRec) (dest : Word) : State :=
  let record := ((s.operand c st x (24 + 8 * r.n)).toOption).getD []
  if hRemote r.handle then
    match s.askFor c i (st.who c) (hPackage r.handle) (.gather record) with
    | (s, n) => s.setKind c i (.gathRemote record dest n s.readable)
  else match s.usable r.handle true with
    | none => s.setKind c i (.gath [] 0x15)
    | some t =>
      if t.desc.payload / 4 < r.first + r.words then s.setKind c i (.gath [] 0x3E)
      else match State.gathKeys c i (st.who c) r r.keys ⟨[], [], []⟩ s with
        | (s, g) => s.gathWaits c i record dest g

/-- GATH (R190): the record and the rows are read at issue, after the strand's earlier accesses (log 28). It takes a table
request entry for each active lane (R167). Bits 63:32 of g[A] and g[B] are ignored (DESIGN CHOICE, log 78). -/
def execGath (d a b : BitVec 6) (s : State) : Result :=
  let x (st : Strand) : Nat := (lo32 (st.gr a.toNat)).toNat
  let dest (st : Strand) : Word := lo32 (st.gr b.toNat)
  issueIn [.entries, .future] (.gath d a b) { gRead := [a.toNat, b.toNat], gDest := [d.toNat] } {}
    (fun st s => [if s.gathIdem st (x st) (dest st).toNat then faultIn st.active .idempotence else []])
    (fun st s =>
      let c := s.cur.1
      if !s.accessesDone c s.cur.2 then .error id
      else
        (withFuture d.toNat (fun _ _ => .gath [] 0)
          (fun i st s =>
            match s.gathRecord c st (x st) (dest st).toNat with
            | .error k => (s.markReads c st (s.gathRanges c st (x st) (dest st).toNat)).setKind c i (.gath [] k)
            | .ok r => s.gather c i st (x st) r (dest st))
          (ranges := fun st => s.gathRanges c st (x st) (dest st).toNat)
          (entries := fun st => popCount st.active)) st s) id s

/-- The words of a write of a cancelled gather that have been written (R345): each one old or gathered. -/
def State.writeSome (s : State) (c : Nat) (f : Future) (x : Word) : Nat → List Byte → State
  | _, [] => s
  | n, b0 :: b1 :: b2 :: b3 :: rest =>
    let s := if Config.gathWritten s.fresh n then
        (s.writeScratch c f.launch f.block true (x.toNat + 4 * n) [b0, b1, b2, b3]).1 else s
    State.writeSome s c f x (n + 1) rest
  | n, bs =>
    if Config.gathWritten s.fresh n then (s.writeScratch c f.launch f.block true (x.toNat + 4 * n) bs).1 else s

/-- The writes of a gather performed; the code of the first that failed, where part of a sector that cannot be read is
written (R297). -/
def State.gathWrite (c : Nat) (f : Future) : List (Word × List Byte) → State → State × Option Cause
  | [], s => (s, none)
  | x :: xs, s =>
    match s.writeScratch c f.launch f.block true x.1.toNat x.2 with
    | (s, some k) => ((State.gathWrite c f xs s).1, some k)
    | (s, none) => State.gathWrite c f xs s

/-- GATH_COMPLETE (R191, R231): the writes are performed and the future completes. -/
def execGathComplete (c i : Nat) (s : State) : Result :=
  match Assoc.find (s.core c).futures i with
  | none => .next s
  | some f =>
    match f.kind with
    | .gath writes status =>
      if f.done then .next s
      else if f.cancel then
        let s := writes.foldl (fun s x =>
          let s := State.writeSome s c f x.1 0 x.2
          { s with fresh := s.fresh + 1 }) s
        .next (s.completeFuture c i 0x3F)
      else match State.gathWrite c f writes s with
        | (s, k) => .next (s.completeFuture c i (if status = 0 then (k.map Cause.code).getD 0 else status))
    | .gathFar .. | .gathRemote .. => .next (if f.cancel && !f.done then s.completeFuture c i 0x3F else s)
    | _ => .next s

/-! ### PROMO (R295) -/

/-- PROMO: a block of another package is asked for over the links. -/
def execPromo (d a : BitVec 6) (s : State) : Result :=
  issueIn [.future] (.promo d a) { gRead := [a.toNat], gDest := [d.toNat] } {} noChecks
    (withFuture d.toNat (fun st _ => .promo (st.gr a.toNat))
      (fun i st s =>
        let ref := st.gr a.toNat
        if refRemote ref.toNat then (s.askFor s.cur.1 i (st.who s.cur.1) (farPackage ref.toNat) (.promo ref)).1 else s)) id s

/-- The references of the first-stage table of a paged table (log 24). -/
def State.stageRefs (s : State) (t : Table) : List Nat :=
  (List.range (min t.rowCap (8192 * t.pages.length))).map fun k => natOf (s.mem.bytes (t.pa (8 * k)) 8)

/-- Whether a block belongs to another protection domain: some paged table of another domain holds a reference to it and
none of the domain does (log 36). -/
def State.blockForeign (s : State) (dom : BitVec 16) (blk : Nat) : Bool :=
  let names (t : Table) : Bool := t.desc.kind == 3 && (s.stageRefs t).any fun x =>
    isFar x && farPackage x == Config.packageNumber && farBlock x == blk
  s.tables.any (fun t => t.2.domain != dom.toNat && names t.2) && !s.tables.any (fun t => t.2.domain == dom.toNat && names t.2)

/-- The stack with the most free slots of a class; the lowest on a tie. -/
def State.roomiest (s : State) (cls : Nat) : Nat :=
  (List.range 8).foldl (fun b i =>
    if ((s.stackOf b).slots 0 cls).length < ((s.stackOf i).slots 0 cls).length then i else b) 0

/-- Sector n copied by a promotion (R296, R297): one that fails its check is poisoned at the destination, and reported; poison
already set is carried. -/
def State.copySector (s : State) (w : Who) (n : Nat) : State × Sector × Bool :=
  let s := s.serve w (32 * n)
  let x := s.mem.sector n
  if x.poison then (s, { x with codeErr := 0#16 }, false)
  else if s.sectorGood w n then (s, x, false)
  else (s.post w (32 * n) 0x16, { x with codeErr := 0#16, poison := true }, true)

/-- The sectors of a list copied; whether one failed. -/
def State.copySectors (w : Who) : List Nat → State → State × List Sector × Bool
  | [], s => (s, [], false)
  | n :: rest, s =>
    match s.copySector w n with
    | (s, y, b) =>
      match State.copySectors w rest s with
      | (s, ys, b') => (s, y :: ys, b || b')

/-- The sectors of the slot of a block that are in use: its map and those held, or all of them (R293). -/
def State.usedSectors (s : State) (e : BlockEntry) : List Nat :=
  (List.range (s.usedCount e)).map (· + e.slot / 32)

/-- The status of a PROMO of a block of this package, with the state it leaves and the stack that counts it. The slot is
copied as it lies. An entry that fails its check is 0x16 (log 20). -/
def State.promote (s : State) (w : Who) (ref : Nat) (cancel : Bool) : State × Nat × Nat :=
  let near := coreStack w.core
  if !isFar ref ∨ farTier ref = 3 ∨ farPackage ref ≠ Config.packageNumber then (s, 0x10, near)
  else
    let n := farBlock ref
    match s.readEntry w n with
    | (s, .error f) => (s, if f.1 = .translation then 0x10 else 0x16, near)
    | (s, .ok e) =>
      let own := e.stack n
      if s.blockForeign w.domain n then (s, 0x11, own)
      else if e.tier = 0 then (s, 0, own)
      else if cancel then (s, 0x3F, own)
      else
        let st := s.roomiest e.cls
        if ((s.stackOf st).slots 0 e.cls).isEmpty then (s, 0x3D, own)
        else
          match State.copySectors w (s.usedSectors e) s with
          | (s, xs, bad) =>
            match s.moveBlock w n e st 0 e.cls (s.sealOf w.keyid) xs with
            | some s => (s, if bad then 0x16 else 0, st)
            | none => (s, 0x3D, own)

/-- The counter of a PROMO status (Table 13-8, group 5). -/
def promoCounter (status : Nat) : Nat :=
  match status with
  | 0 => 4
  | 0x10 => 5
  | 0x11 => 6
  | 0x16 => 7
  | 0x3D => 8
  | _ => 9

/-- Who a request of another package is made for here: its launch as it is named here (log 31). Its accesses use the TLB of
core 0 (log 35). -/
def LinkWho.who (w : LinkWho) : Who := ⟨0, w.domain, w.keyid, w.priv, launchName w.package w.launch⟩

/-- A promotion that another package asked for is performed and answered (R295); its faults are reported with source 14. -/
def State.promoFor (s : State) (i : Nat) (x : PromoAsk) : State :=
  let s := { s with links := { s.links with promos := s.links.promos.eraseIdx i } }
  match s.promote x.who.who x.ref.toNat x.cancel with
  | (t, status, st) =>
    (s.fromSource (t.countStack st (promoCounter status)) 14).sendTo x.who.package (.response x.request status [])

/-- PROMO_COMPLETE: the promotion of a future of this package is performed at one instant; at 320, past the cores, one that
another package asked for. -/
def execPromoComplete (c i : Nat) (s : State) : Result :=
  if c = Config.cores then
    match s.links.promos[i]? with
    | none => .next s
    | some x => .next (s.promoFor i x)
  else match Assoc.find (s.core c).futures i with
  | none => .next s
  | some f =>
    match f.kind with
    | .promo ref =>
      if f.done ∨ refRemote ref.toNat then .next s
      else
        match s.promote ⟨c, f.domain, f.keyid, f.priv, f.launch⟩ ref.toNat f.cancel with
        | (s, status, st) => .next ((s.countStack st (promoCounter status)).completeFuture c i status)
    | _ => .next s

end Sys2Proof.Machine
end

