-- ==== Sys2Proof/Machine/Banks.lean ====
section
/-! DEFINITION. The steps of the memory side: page walks, power states of the bank sets, the controllers' map, the package
phase, compaction, the fault-address queue, the core clock (R24, R282-R288, R294, R298, R300-R302). -/

namespace Sys2Proof.Machine

/-! ### Translation (R300-R302) -/

/-- PAGE_WALK: a miss of core c on an address of a domain is walked, and what the walk finds fills the TLB. -/
def execPageWalk (c dom : Nat) (va : BitVec 64) (s : State) : Result :=
  if Config.cores ≤ c ∨ 2 ^ 52 ≤ va.toNat then .next s
  else
    let d := s.domainEntry dom
    let w : Who := ⟨c, BitVec.ofNat 16 dom, d.key, .h, 0⟩
    match s.stage w d.root1 false va.toNat with
    | (s, .error _) => .next s
    | (s, .ok t) => if d.root2 = 0 then .next s else .next (s.stage w d.root2 true (t.pa + (va.toNat - t.va))).1

/-! ### Power states (Table 12-2) -/

/-- The number of bank set b of stack st. -/
def bankNumber (st b : Nat) : Nat := 64 * st + b

/-- Whether a stack and a bank set of it exist. -/
def bankOk (st b : Nat) : Bool := decide (st < 8) && decide (b < 64)

/-- Idle time after which an allocated bank set may enter retention, in picoseconds (Table 12-4); none: it stays active. -/
def idleThreshold (phase : Nat) : Option Nat :=
  match phase with
  | 0 => some 20000000
  | 1 => some 200000000
  | _ => none

/-- BANK_RETENTION_ENTRY (R284, R288). The entry is counted as it starts, also one that an access then abandons (R289; DESIGN
CHOICE, log 103). -/
def execBankRetentionEntry (st b : Nat) (s : State) : Result :=
  let n := bankNumber st b
  let x := s.bank n
  let due : Bool := match idleThreshold (s.stackOf st).phase with
    | some t => decide (x.idleFrom + t ≤ s.timePs)
    | none => false
  if bankOk st b && x.allocated && x.state == .active && due then
    .next ((s.setBank n { x with state := .retention, entering := true }).countStack st 0x100)
  else .next s

/-- BANK_DEEP_POWER_DOWN (R282): unallocated, allowed, and without an access for 100 us. -/
def execBankDeepPowerDown (st b : Nat) (s : State) : Result :=
  let n := bankNumber st b
  let x := s.bank n
  let still : Bool := x.state == .active || (x.state == .retention && !x.entering)
  if bankOk st b && !x.allocated && x.deepAllowed && still && decide (x.idleFrom + 100000000 ≤ s.timePs) then
    .next ((s.setBank n { x with state := .deep, entering := true }).countStack st 0x101)
  else .next s

/-- POWER_STATE_ENTRY_COMPLETE (R284): the entry ends; after an entry into deep power-down that something asked to wake,
the full wake follows. -/
def execPowerStateEntryComplete (st b : Nat) (s : State) : Result :=
  let n := bankNumber st b
  let x := s.bank n
  if !bankOk st b || !x.entering then .next s
  else if x.state == .deep && x.rewake then
    .next (s.setBank n { x with state := .waking, entering := false, rewake := false, fromDeep := true })
  else .next (s.setBank n { x with entering := false })

/-- BANK_WAKE_END (R283, R285). -/
def execBankWakeEnd (st b : Nat) (s : State) : Result :=
  let n := bankNumber st b
  let x := s.bank n
  if bankOk st b && x.state == .waking then .next (s.bankWoken n x.fromDeep) else .next s

/-- Code of a power state (Table 12-3). -/
def PowerState.code : PowerState → Nat
  | .active => 0 | .retention => 1 | .deep => 2 | .waking => 3

/-- The map entry of bank set n (Table 12-3). -/
def State.mapEntry (s : State) (n : Nat) : BitVec 32 :=
  let x := s.bank n
  let idle : Nat := min 65535 ((s.timePs - x.idleFrom) / 1000000)
  BitVec.ofNat 32 ((if x.allocated then 2 ^ 31 else 0) + (if x.deepAllowed then 2 ^ 30 else 0) + x.state.code * 2 ^ 28 +
    x.wakes.toNat * 2 ^ 16 + idle)

/-- BANK_MAP_WRITE (R286): the RW bits are written, 1s clear wake-count bits; setting the allocated bit of a bank set in
deep power-down starts its wake, or asks for one after its entry (R284). The management firmware runs by then (R349). -/
def execBankMapWrite (st b : Nat) (v : BitVec 32) (s : State) : Result :=
  let n := bankNumber st b
  let x := s.bank n
  let set := v.getLsbD 31
  let x' := { x with
    allocated := set
    deepAllowed := v.getLsbD 30
    wakes := x.wakes &&& ~~~ (BitVec.ofNat 8 (slice v 23 16)) }
  let x' := if set && x.state == .deep then
      (if x.entering then { x' with rewake := true } else { x' with state := .waking, fromDeep := true })
    else x'
  if s.kuenrex && bankOk st b then .next (s.setBank n x') else .next s

/-! ### The package phase (R288) -/

/-- The greatest phase of the strands of a core; 0 without one. -/
def CoreSt.phase (k : CoreSt) : Nat := k.slots.foldl (fun m x => max m x.2.group.phase) 0

/-- The package phase. -/
def State.packagePhase (s : State) : Nat := s.cores.foldl (fun m k => max m k.2.phase) 0

/-- An allocated bank set in retention starts to wake. -/
def Bank.rouse (x : Bank) : Bank :=
  if x.allocated && x.state == .retention then { x with state := .waking, entering := false, fromDeep := false } else x

/-- PACKAGE_PHASE_APPLY: the controller of a stack takes up the package phase; burst wakes what is in retention. -/
def execPackagePhaseApply (st : Nat) (s : State) : Result :=
  if 8 ≤ st then .next s
  else
    let ph := s.packagePhase
    let s := s.modStack st fun x => { x with phase := ph }
    if ph = 3 then .next { s with banks := s.banks.map fun x => (x.1, if x.1 / 64 = st then x.2.rouse else x.2) }
    else .next s

/-! ### Compaction (R294) -/

/-- A sector as a move lays it: one whose code fails is poisoned, poison already set is carried (R296, R297). -/
def Sector.carried (x : Sector) : Sector := if x.codeErr = 0#16 then x else { x with codeErr := 0#16, poison := true }

/-- The compaction engine as a consumer: no launch, and in tier 1 the key that the slot is sealed with. -/
def State.mover (s : State) (e : BlockEntry) : Who :=
  { Who.nobody with keyid := BitVec.ofNat 10 (Assoc.get 0 s.mem.sealed (e.slot / 256) - 1) }

/-- The sectors of the map and the data of a block that a move reads, and the block laid in a free slot of the smaller class
that it fits, on the same stack. A sector that fails while it is copied is reported and poisoned. -/
def State.compact (s : State) (blk : Nat) (e : BlockEntry) : State :=
  let w := s.mover e
  match State.consumeAll w (e.mapSectors 511) s with
  | (s1, some _) => s.fromSource s1 16
  | (s1, none) =>
    let s1 := s1.serveSlot w e
    let xs := s1.blockSectors e
    let cls := classFor (heldCount xs)
    if e.cls ≤ cls || ((s1.stackOf (e.stack blk)).slots e.tier cls).isEmpty || (s1.sealedOtherwise w e).isSome then s
    else
      let places := ((List.range 512).filterMap (s1.blockSector e)).filter fun n =>
        !s1.mem.poison.contains n && Assoc.get 0#16 s1.mem.codeErr n != 0#16
      let s2 := places.foldl (fun t n => t.post Who.nobody (32 * n) 0x16) s1
      let key := Assoc.get 0 s.mem.sealed (e.slot / 256)
      match (s.fromSource s2 16).moveBlock w blk e (e.stack blk) e.tier cls key (packSectors cls (xs.map Sector.carried)) with
      | some t => t.countStack (e.stack blk) 10
      | none => s

/-- COMPACTION_MOVE: one block. Where its entry or its map cannot be read nothing moves. -/
def execCompactionMove (blk : Nat) (s : State) : Result :=
  match s.readEntry Who.nobody blk with
  | (t, .error _) => .next (s.fromSource t 16)
  | (t, .ok e) => .next (t.compact blk e)

/-! ### Reports and the clock -/

/-- FAULT_QUEUE_REMOVE (R298), by Kuenrex (R349). -/
def execFaultQueueRemove (s : State) : Result := .next (if s.kuenrex then { s with faultQ := s.faultQ.tail } else s)

/-- CORE_CLOCK_STEP (R24): 50 MHz, between 400 and 800 MHz. -/
def execCoreClockStep (up : Bool) (s : State) : Result :=
  .next { s with coreMHz := if up then min 800 (s.coreMHz + 50) else max 400 (s.coreMHz - 50) }

end Sys2Proof.Machine
end

