-- ==== Sys2Proof/Machine/Bitwise.lean ====
section
/-! DEFINITION. Bitwise, shift and bit-field operations, opcodes 0x2C to 0x38 (R135, R136). -/

namespace Sys2Proof.Machine

/-- Types of BFE and BFI. -/
def typesWord (t : ElemType) : Bool := t == .i32 || t == .n32

/-- Shift amounts under a 64-bit type are bits 5:0 of the pair b, which the element-wise reading takes modulo 64. -/
def shiftWord (i : Instr) (el : Arith → ElemOp) (d a b : BitVec 8) (s : State) : Result :=
  elemWord i ElemType.isInt el d.toNat a.toNat (some b.toNat) false plain s

/-- AND (R135). -/
def execAnd (d a b : BitVec 8) (s : State) : Result := shiftWord (.and d a b) elAnd d a b s
/-- OR (R135). -/
def execOr (d a b : BitVec 8) (s : State) : Result := shiftWord (.or d a b) elOr d a b s
/-- XOR (R135). -/
def execXor (d a b : BitVec 8) (s : State) : Result := shiftWord (.xor d a b) elXor d a b s
/-- SHL (R135). -/
def execShl (d a b : BitVec 8) (s : State) : Result := shiftWord (.shl d a b) elShl d a b s
/-- SHR (R135). -/
def execShr (d a b : BitVec 8) (s : State) : Result := shiftWord (.shr d a b) elShr d a b s
/-- SAR (R135). -/
def execSar (d a b : BitVec 8) (s : State) : Result := shiftWord (.sar d a b) elSar d a b s
/-- ROL (R135). -/
def execRol (d a b : BitVec 8) (s : State) : Result := shiftWord (.rol d a b) elRol d a b s

/-- NOT (R135). -/
def execNot (d a : BitVec 8) (s : State) : Result :=
  elemWord (.not d a) ElemType.isInt elNot d.toNat a.toNat none false plain s
/-- CLZ (R135). -/
def execClz (d a : BitVec 8) (s : State) : Result :=
  elemWord (.clz d a) ElemType.isInt elClz d.toNat a.toNat none false plain s
/-- POP (R135). -/
def execPop (d a : BitVec 8) (s : State) : Result :=
  elemWord (.pop d a) ElemType.isInt elPop d.toNat a.toNat none false plain s
/-- BREV (R135). -/
def execBrev (d a : BitVec 8) (s : State) : Result :=
  elemWord (.brev d a) ElemType.isInt elBrev d.toNat a.toNat none false plain s

/-- BFE (R136). -/
def execBfe (d a b : BitVec 8) (s : State) : Result :=
  elemWord (.bfe d a b) typesWord elBfe d.toNat a.toNat (some b.toNat) false plain s
/-- BFI (R136): d's other bits are kept, so d is read. -/
def execBfi (d a b : BitVec 8) (s : State) : Result :=
  elemWord (.bfi d a b) typesWord elBfi d.toNat a.toNat (some b.toNat) true plain s

end Sys2Proof.Machine
end

