-- ==== Sys2Proof/Machine/Buffers.lean ====
section
/-! DEFINITION. Buffers: BALLOC, BGIVE, BTAKE, BFREE and PUBL, with the steps that end their waits (R198-R205, R232,
R233). -/

namespace Sys2Proof.Machine

/-- Whether an engine operation in flight on core c names a buffer, to read or to write it (R201, R204, R233). -/
def CoreSt.engineNames (k : CoreSt) (home c : Nat) (b : Buffer) : Bool :=
  k.futures.any fun f => !f.2.done && f.2.ranges.any fun r => b.meets home c r.2.1.toNat r.2.2

/-- Whether a scratch access, copy or engine operation issued on core c names a buffer and is in flight (R201). -/
def CoreSt.names (k : CoreSt) (home c : Nat) (b : Buffer) : Bool :=
  (k.ops.any fun o => isScratchOp o.instr && (lanesOf o.lanes).any fun l =>
    b.meets home c (o.addr l) (4 * wordCount o.instr o.mode)) ||
  (k.copies.any fun q =>
    (q.kind != .toScratch && b.meets home c q.src.toNat q.len) || (q.kind != .toMemory && b.meets home c q.dst.toNat q.len)) ||
  k.engineNames home c b

/-- Whether a buffer is named by anything in flight in its cluster. -/
def State.bufferBusy (s : State) (home : Nat) (b : Buffer) : Bool :=
  (clusterOf home).any fun c => (s.core c).names home c b

/-- BALLOC (R200). -/
def execBalloc (d a : BitVec 6) (s : State) : Result :=
  issue (.balloc d a) { gRead := [a.toNat], gDest := [d.toNat] } { ends := true } noChecks
    (fun st s =>
      let c := s.cur.1
      let k := s.core c
      let n := (st.gr a.toNat).toNat
      let give (s : State) (h : DWord) := s.modHere fun x => x.setG d.toNat h
      let refuse := give (s.count c 0x2001) 0#64
      .ok ((if !st.member then refuse
        else if n = 0 then
          match k.buffers.find? fun b => b.portion && b.launch == st.launch && b.block == st.block with
          | some b => give s ((b.handle c).setWidth 64)
          | none => give s 0#64
        else if 64 < n then refuse
        else match k.freeRun n with
          | none => refuse
          | some f =>
            let serial := nextSerial k.allocSer
            let b : Buffer := ⟨f, n, serial, st.launch, st.block, some c, false, none, false⟩
            give (s.modCore c fun k => { k with buffers := k.buffers ++ [b], allocSer := serial })
              ((b.handle c).setWidth 64)), .seq)) id s

/-- Whether core t holds a strand of a block. -/
def State.holdsStrand (s : State) (t launch : Nat) (block : DWord) : Bool :=
  (s.core t).slots.any fun x => x.2.member && x.2.launch == launch && x.2.block == block

/-- BGIVE at issue (R201): the traps, then the wait for its transfer. -/
def execBgive (d row col : BitVec 6) (s : State) : Result :=
  let t := coreAt row.toNat col.toNat
  issue (.bgive d row col) { gRead := [d.toNat] } { ends := true }
    (fun st s =>
      let c := s.cur.1
      let bad (x : Bool) : List LaneFault := if x then faultIn st.active .ownership else []
      match s.heldBuffer c st (lo32 (st.gr d.toNat)) with
      | none => [bad true]
      | some b => [bad (b.publ.isSome || t / 8 != c / 8 || !s.holdsStrand t st.launch st.block)])
    (fun st s =>
      let full := decide ((s.core t).handOver.length = 64)
      let s := if full then s.count s.cur.1 0x2003 else s
      .ok (s.modHere fun x => { x with wait := .bgive (lo32 (st.gr d.toNat)) t full }, .seq)) id s

/-- The buffer of a handle in a cluster changed. -/
def State.modBuffer (s : State) (c : Nat) (h : Word) (f : Buffer → Buffer) : State :=
  match s.buffer? c h with
  | some b => s.modCore (handleHome c h) fun k => k.setBuffer (f b)
  | none => s

/-- The strand of a slot waits no more. -/
def State.endWait (s : State) (c sl : Nat) : State := s.modStrand c sl fun st => { st with wait := .none }

/-- BGIVE_TRANSFER (R201, R202, R235): once nothing in flight names the buffer, the strand's accesses are performed and
the target's queue has room, nobody holds the buffer and its handle joins the queue. A wait on a full queue is counted
once (R206). Where another strand has freed the buffer meanwhile the wait ends with nothing given (DESIGN CHOICE, log 108). -/
def execBgiveTransfer (c sl : Nat) (s : State) : Result :=
  match s.strand? c sl with
  | none => .next s
  | some st =>
    match st.wait with
    | .bgive h t counted =>
      (match s.buffer? c h with
       | none => .next (s.endWait c sl)
       | some b =>
         let full := decide (64 ≤ (s.core t).handOver.length)
         if full && !counted then
           .next ((s.count c 0x2003).modStrand c sl fun st => { st with wait := .bgive h t true })
         else if s.bufferBusy (handleHome c h) b || !s.accessesDone c sl || full then .next s
         else
           let s := s.modBuffer c h fun b => { b with holder := none }
           let s := s.modCore t fun k => { k with handOver := k.handOver ++ [⟨h, st.launch, st.block⟩] }
           .next (s.endWait c sl))
    | _ => .next s

/-- BTAKE (R203). -/
def execBtake (d : BitVec 6) (s : State) : Result :=
  issue (.btake d) { gDest := [d.toNat] } { ends := true } noChecks
    (fun st s =>
      let c := s.cur.1
      let q := (s.core c).handOver
      match q.findIdx? fun h => st.member && h.launch == st.launch && h.block == st.block with
      | none => .ok (s.modHere fun x => x.setG d.toNat 0#64, .seq)
      | some i =>
        let h := (q.getD i ⟨0#32, 0, 0#64⟩).handle
        let s := s.modCore c fun k => { k with handOver := k.handOver.eraseIdx i }
        let s := s.modBuffer c h fun b => { b with holder := some c }
        .ok (s.modHere fun x => x.setG d.toNat (h.setWidth 64), .seq)) id s

/-- BFREE at issue (R204). -/
def execBfree (a : BitVec 6) (s : State) : Result :=
  issue (.bfree a) { gRead := [a.toNat] } { ends := true }
    (fun st s => [if (s.heldBuffer s.cur.1 st (lo32 (st.gr a.toNat))).isNone then faultIn st.active .ownership else []])
    (fun st s => .ok (s.modHere fun x => { x with wait := .bfree (lo32 (st.gr a.toNat)) }, .seq)) id s

/-- BFREE_RELEASE (R204, R205): once nothing in flight names the buffer it is gone; its granules are to be cleared. -/
def execBfreeRelease (c sl : Nat) (s : State) : Result :=
  match s.strand? c sl with
  | none => .next s
  | some st =>
    match st.wait with
    | .bfree h =>
      (match s.buffer? c h with
       | none => .next (s.endWait c sl)
       | some b =>
         if s.bufferBusy (handleHome c h) b then .next s
         else .next ((s.modCore (handleHome c h) fun k => k.dropBuffer b).endWait c sl))
    | _ => .next s

/-- GRANULE_CLEAR_DONE (R205): the granules being cleared are zero and free. -/
def execGranuleClearDone (c : Nat) (s : State) : Result :=
  .next (s.modCore c fun k => { k.clearing.foldl CoreSt.clearGranule k with clearing := [] })

/-! ### Published buffers (R232, R233) -/

/-- Publication entries in use on a core: declared buffers that it holds. -/
def State.published (s : State) (c : Nat) : Nat :=
  (clusterOf c).foldl (fun n k =>
    n + ((s.core k).buffers.filter fun b => b.publ.isSome && b.holder == some c).length) 0

/-- PUBL at issue (R233): declaring is done at once, a swap or a retirement waits. -/
def execPubl (a : BitVec 6) (s : State) : Result :=
  issue (.publ a) { gRead := [a.toNat] }
    { types := (match modeScope s.modeWord with
        | .row => false
        | _ => true), ends := true }
    (fun st s =>
      let g := st.gr a.toNat
      let act := slice g 33 32
      let bad (k : Cause) (x : Bool) : List LaneFault := if x then faultIn st.active k else []
      match s.heldBuffer s.cur.1 st (lo32 g) with
      | none => [bad .illegalInstruction (slice g 63 34 != 0 || act == 3), bad .ownership true]
      | some b =>
        [bad .illegalInstruction (slice g 63 34 != 0 || act == 3),
         bad .ownership (if act = 1 then b.publ.isSome || b.count % 2 != 0 || decide (8 ≤ s.published s.cur.1)
           else b.publ.isNone)])
    (fun st s =>
      let g := st.gr a.toNat
      if slice g 33 32 = 1 then
        .ok (s.modBuffer s.cur.1 (lo32 g) fun b => { b with publ := some ⟨true⟩ }, .seq)
      else .ok (s.modHere fun x => { x with wait := .publ (lo32 g) (slice g 33 32) }, .seq)) id s

/-- The halves of a run of values exchanged. -/
def swapRun {α : Type} [DecidableEq α] (d : α) (m : List (Nat × α)) (base half : Nat) : List (Nat × α) :=
  Assoc.splice d m base (Assoc.read d m (base + half) half ++ Assoc.read d m base half)

/-- The halves of a buffer exchanged, with their check codes and poison, so that offsets keep what they reached (R233,
retire). -/
def CoreSt.swapHalves (k : CoreSt) (b : Buffer) : CoreSt :=
  let half := granuleBytes * (b.count / 2)
  let base := granuleBytes * b.first
  let other (n : Nat) : Nat :=
    if 32 * n < base ∨ base + 2 * half ≤ 32 * n then n else if 32 * n < base + half then n + half / 32 else n - half / 32
  { k with
    scratch := swapRun 0#8 k.scratch base half
    scratchErr := swapRun 0#16 k.scratchErr (base / 32) (half / 32)
    scratchPoison := (k.scratchPoison.map other).foldr insertNat [] }

/-- PUBL_SWAP_OR_RETIRE (R233): once no engine operation in flight names the buffer, and for a swap every earlier access of the
strand is performed. -/
def execPublSwapOrRetire (c sl : Nat) (s : State) : Result :=
  match s.strand? c sl with
  | none => .next s
  | some st =>
    match st.wait with
    | .publ h act =>
      (match s.buffer? c h with
       | none => .next (s.endWait c sl)
       | some b =>
         let home := handleHome c h
         match b.publ with
         | none => .next (s.endWait c sl)
         | some p =>
           if (clusterOf home).any (fun k => (s.core k).engineNames home k b) || (act == 0 && !s.accessesDone c sl) then .next s
           else if act = 0 then
             .next ((s.modBuffer c h fun b => { b with publ := some ⟨!p.firstVisible⟩ }).endWait c sl)
           else
             let s := if p.firstVisible then s
               else s.modCore home fun k => k.swapHalves b
             .next ((s.modBuffer c h fun b => { b with publ := none }).endWait c sl))
    | _ => .next s

end Sys2Proof.Machine
end

