-- ==== Sys2Proof/Machine/Compare.lean ====
section
/-! DEFINITION. Comparisons and predicates, opcodes 0x3E to 0x46 (R141, R142). -/

namespace Sys2Proof.Machine

/-- Types of CEQ, CNE, CLT and CLE (Table 6-3). -/
def typesCmp (t : ElemType) : Bool := t == .i32 || t == .n32 || t == .f32 || t == .i64 || t == .n64

/-- The relation in a lane, with its flags. -/
def cmpLane (rel : Rel) (a b : Nat) (st : Strand) (l : Nat) : Bool × Flags :=
  let w := isWide st.group.mode
  compareElem rel (arithOf st.group.mode).t (st.vval w a l) (st.vval w b l)

/-- The active lanes with the relation and its flags. -/
def cmpLanes (rel : Rel) (a b : Nat) (st : Strand) : List (Nat × (Bool × Flags)) :=
  (lanesOf st.active).map fun l => (l, cmpLane rel a b st l)

/-- A comparison (R141). -/
def compareWord (i : Instr) (types : ElemType → Bool) (rel : Rel) (d a b : Nat) (s : State) : Result :=
  let w := isWide s.modeWord
  let u : Use := { aRegs := regsT w a, reads := regsT w b, even := if w then [a, b] else [] }
  issue i u { types := typeIs s.modeWord types }
    (fun st _ => [arithFaults st ((cmpLanes rel a b st).map fun x => (x.1, x.2.2))])
    (onStrand fun old st =>
      let rs := cmpLanes rel a b old
      (st.setP d old.active (maskOf ((rs.filter fun x => x.2.1).map (·.1)))).raise (orFlags (rs.map fun x => x.2.2)))
    id s

/-- CEQ (R141). -/
def execCeq (d : BitVec 7) (a b : BitVec 8) (s : State) : Result :=
  compareWord (.ceq d a b) typesCmp .eq d.toNat a.toNat b.toNat s
/-- CNE (R141). -/
def execCne (d : BitVec 7) (a b : BitVec 8) (s : State) : Result :=
  compareWord (.cne d a b) typesCmp .ne d.toNat a.toNat b.toNat s
/-- CLT (R141). -/
def execClt (d : BitVec 7) (a b : BitVec 8) (s : State) : Result :=
  compareWord (.clt d a b) typesCmp .lt d.toNat a.toNat b.toNat s
/-- CLE (R141). -/
def execCle (d : BitVec 7) (a b : BitVec 8) (s : State) : Result :=
  compareWord (.cle d a b) typesCmp .le d.toNat a.toNat b.toNat s
/-- CUN (R141). -/
def execCun (d : BitVec 7) (a b : BitVec 8) (s : State) : Result :=
  compareWord (.cun d a b) (fun t => t == .f32) .un d.toNat a.toNat b.toNat s

/-- A predicate instruction (R142): predicates of the active lanes. -/
def predWord (i : Instr) (d : Nat) (f : Strand → LaneMask) (s : State) : Result :=
  issue i {} {} noChecks (onStrand fun old st => st.setP d old.active (f old)) id s

/-- PAND (R142). -/
def execPand (d a b : BitVec 7) (s : State) : Result :=
  predWord (.pand d a b) d.toNat (fun st => st.pr a.toNat &&& st.pr b.toNat) s
/-- POR (R142). -/
def execPor (d a b : BitVec 7) (s : State) : Result :=
  predWord (.por d a b) d.toNat (fun st => st.pr a.toNat ||| st.pr b.toNat) s
/-- PXOR (R142). -/
def execPxor (d a b : BitVec 7) (s : State) : Result :=
  predWord (.pxor d a b) d.toNat (fun st => st.pr a.toNat ^^^ st.pr b.toNat) s
/-- PNOT (R142). -/
def execPnot (d a : BitVec 7) (s : State) : Result :=
  predWord (.pnot d a) d.toNat (fun st => ~~~ st.pr a.toNat) s

end Sys2Proof.Machine
end

