-- ==== Sys2Proof/Machine/Move.lean ====
section
/-! DEFINITION. Moves, immediates, selection and conversion, opcodes 0x39 to 0x3D (R137-R140). -/

namespace Sys2Proof.Machine

/-- The words of registers in a lane. -/
def wordsIn (st : Strand) (rs : List Nat) (l : Nat) : List Word := rs.map fun r => st.vlane r l

/-- The tag of a register for the result of its move: a general one gives no more than the words of the lanes written. -/
def Strand.tagOf (st : Strand) (r : Nat) : Option VReg :=
  match st.vreg? r with
  | some (.general _) | none => none
  | some t => some t

/-- The tags of registers, each for the result of its move. -/
def tagsOf (st : Strand) (rs : List Nat) : List (Option VReg) := rs.map st.tagOf

/-- MOV (R137): the result takes the tag of a. -/
def execMov (d a : BitVec 8) (s : State) : Result :=
  let w := isWide s.modeWord
  let u := elemUse s.modeWord d.toNat a.toNat none false
  vec (.mov d a) u (modeType s.modeWord).isSome (fun st => some (tagsOf st (regsT w a.toNat)))
    (fun st l => (wordsIn st (regsT w a.toNat) l, 0#5)) s

/-- The effect of SEL: every lane active apart from the guard takes a where the guard allows, else b (R62, R137). -/
def selEffect (u : Use) (w : Bool) (a b : Nat) (old st : Strand) : Strand :=
  let rs := (lanesOf old.unguarded).map fun l =>
    (l, wordsIn old (regsT w (if old.guardMask.getLsbD l then a else b)) l)
  let tags := if !modeGuard old.group.mode && old.sourcesUniform u then uniformTags u.dests.length rs else []
  writeAll old.unguarded rs tags u.dests st

/-- SEL (R137): the guard chooses and suppresses no write, so it acts when any lane is active apart from the guard. -/
def execSel (d a b : BitVec 8) (s : State) : Result :=
  let w := isWide s.modeWord
  let u := elemUse s.modeWord d.toNat a.toNat (some b.toNat) false
  let idle := match s.here? with
    | some st => st.unguarded == 0#64
    | none => true
  let f : Form := { types := (modeType s.modeWord).isSome, always := !idle, noGuard := true }
  issue (.sel d a b) u f noChecks (onStrand (selEffect u w a.toNat b.toNat)) id s

/-- LDI (R137). -/
def execLdi (d : BitVec 8) (imm : BitVec 16) (s : State) : Result :=
  let v : Word := imm.signExtend 32
  vec (.ldi d imm) { dests := [d.toNat] } true (fun _ => some [some (.uniform v)]) (fun _ _ => ([v], 0#5)) s

/-- LDIH (R137): d is read for its low half. -/
def execLdih (d : BitVec 8) (imm : BitVec 16) (s : State) : Result :=
  vec (.ldih d imm) { reads := [d.toNat], dests := [d.toNat] } true plain
    (fun st l => ([imm ++ (st.vlane d.toNat l).setWidth 16], 0#5)) s

/-- Elements per register of a type, in halves: the 64-bit types count one half (R138). -/
def halfCount (t : ElemType) : Nat := if t.is64 then 1 else 2 * t.count

/-- Registers that a type takes for E elements, E in halves (R138). -/
def blockOf (t : ElemType) (e : Nat) : Nat := e / halfCount t

/-- The greater of the element counts of two types, in halves: at least one element, a pair on each side, between two
64-bit types. -/
def cvtElems (s t : ElemType) : Nat := max 2 (max (halfCount s) (halfCount t))

/-- The bits of a block of registers in a lane. -/
def blockBits (st : Strand) (a n l : Nat) : Nat := (regs a n).foldr (fun r v => (st.vlane r l).toNat + v * 2 ^ 32) 0

/-- Words of a block's bits. -/
def bitsWords (n v : Nat) : List Word := (List.range n).map fun i => BitVec.ofNat 32 (v >>> (32 * i))

/-- CVT in a lane: element j of the source block to element j of the destination block (R138). -/
def cvtLane (t : ElemType) (a : Nat) : LaneFn := fun st l =>
  let c := arithOf st.group.mode
  let e := cvtElems c.t t
  let x := blockBits st a (blockOf c.t e) l
  let rs := (List.range (e / 2)).map fun j => convertElem c t (elemAt c.t.width x j)
  (bitsWords (blockOf t e) (packElems t.width (rs.map (·.1))), orFlags (rs.map (·.2)))

/-- CVT (R138-R140). -/
def execCvt (d a : BitVec 8) (t : BitVec 4) (s : State) : Result :=
  let src := (arithOf s.modeWord).t
  let dst := (ElemType.ofCode t.toNat).getD .i32
  let e := cvtElems src dst
  let u : Use :=
    { aRegs := regs a.toNat (blockOf src e), dests := regs d.toNat (blockOf dst e),
      even := (if src.is64 then [a.toNat] else []) ++ if dst.is64 then [d.toNat] else [] }
  vec (.cvt d a t) u (modeType s.modeWord).isSome plain (cvtLane dst a.toNat) s

end Sys2Proof.Machine
end

