-- ==== Sys2Proof/Machine/Compress.lean ====
section
/-! DEFINITION. Compression, opcodes 0x5A and 0x5B (R150-R152). -/

namespace Sys2Proof.Machine

/-- Types of CMPRS and EXPND (Table 6-3). -/
def typesCompress (t : ElemType) : Bool := !t.is64 && t != .q4nx8

/-- Elements of a group G (Table 6-8). -/
def ctlGroup (g : DWord) : Nat := if slice g 1 0 = 0 then 8 else 16
/-- k of a control word. -/
def ctlK (g : DWord) : Nat := slice g 12 8
/-- Whether every non-zero element is kept. -/
def ctlAll (g : DWord) : Bool := g.getLsbD 16

/-- A control word within its limits (R150). A k above G is out of them also where it is ignored (log 68). -/
def ctlOk (g : DWord) : Bool :=
  slice g 63 17 == 0 && slice g 15 13 == 0 && slice g 7 2 == 0 && decide (slice g 1 0 < 2) &&
  decide (ctlK g ≤ ctlGroup g)

/-- Packed registers P. -/
def packedRegs (t : ElemType) (g : DWord) : Nat :=
  if ctlAll g then ctlGroup g / t.count else ceilDiv (ctlK g) t.count

/-- Elements of a block in a lane. -/
def blockElems (t : ElemType) (st : Strand) (a n l : Nat) : List Nat :=
  (regs a n).flatMap fun r => elems t (st.vlane r l).toNat

/-- The rank of an element's magnitude (R151): exact, a NaN above every number. -/
def magnitude (t : ElemType) (x : Nat) : Nat :=
  match t.fmt with
  | some f => if (f.value x).isNan then 2 ^ 40 else x % f.signBit
  | none => (t.int x).natAbs

/-- Whether an element is zero. -/
def isZeroElem (t : ElemType) (x : Nat) : Bool :=
  match t.fmt with
  | some f => x % f.signBit == 0
  | none => x == 0

/-- The indices kept (R151): those of the k greatest magnitudes, ties to the lower index, or of every non-zero one. -/
def kept (t : ElemType) (g : DWord) (xs : List Nat) : List Nat :=
  let n := xs.length
  if ctlAll g then (List.range n).filter fun j => !isZeroElem t (xs.getD j 0)
  else (List.range n).filter fun j =>
    let mj := magnitude t (xs.getD j 0)
    decide (((List.range n).filter fun i =>
      let mi := magnitude t (xs.getD i 0)
      decide (mj < mi) || (mi == mj && decide (i < j))).length < ctlK g)

/-- Elements packed into n registers. -/
def packRegs (t : ElemType) (n : Nat) (xs : List Nat) : List Word :=
  (List.range n).map fun i =>
    BitVec.ofNat 32 (packElems t.width ((List.range t.count).map fun k => xs.getD (i * t.count + k) 0))

/-- CMPRS in a lane (R151). -/
def cmprsLane (a : Nat) (g : DWord) : LaneFn := fun st l =>
  let t := (arithOf st.group.mode).t
  let xs := blockElems t st a (ctlGroup g / t.count) l
  let js := kept t g xs
  (BitVec.ofNat 32 (js.foldl (fun m j => m + 2 ^ j) 0) :: packRegs t (packedRegs t g) (js.map fun j => xs.getD j 0), 0#5)

/-- The elements of EXPND (R152): bits of the map taken in order, up to k' packed elements. -/
def expand (bits limit : Nat) (packed : List Nat) : List Nat → Nat → List Nat
  | [], _ => []
  | j :: js, c =>
    if bits.testBit j && decide (c < limit) then packed.getD c 0 :: expand bits limit packed js (c + 1)
    else 0 :: expand bits limit packed js c

/-- EXPND in a lane (R152). -/
def expndLane (a : Nat) (g : DWord) : LaneFn := fun st l =>
  let t := (arithOf st.group.mode).t
  let packed := blockElems t st (a + 1) (packedRegs t g) l
  let limit := if ctlAll g then ctlGroup g else ctlK g
  (packRegs t (ctlGroup g / t.count)
    (expand (st.vlane a l).toNat limit packed (List.range (ctlGroup g)) 0), 0#5)

/-- Registers that an element block takes under a type, from its count of registers of single elements: pairs under the 64-bit
types (R54; log 68). -/
def blockRegs (t : ElemType) (r n : Nat) : List Nat := regs r (if t.is64 then 2 * n else n)

/-- A compression word (R150). Its extents depend on the control word and on the type, one that it does not accept too (R54,
R67). Where the control word is not known or not within its limits, the registers reached are those of fields a and d alone;
they are checked ahead of it (R313; log 68). -/
def compressWord (i : Instr) (d a b : Nat) (u : ElemType → DWord → Use) (f : DWord → LaneFn) (s : State) : Result :=
  match s.here? with
  | none => .fault .noStrand
  | some st0 =>
    let k := s.core s.cur.1
    let g := match k.boundTo st0.lineage b with
      | some (_, x) => if x.done then x.status else st0.gr b
      | none => st0.gr b
    let waiting := (match k.boundTo st0.lineage b with
      | some (_, x) => !x.done
      | none => false) || st0.gpend.getLsbD b
    let t := (modeType st0.group.mode).getD .i32
    let known := (modeType st0.group.mode).isSome && !waiting && st0.active != 0#64 && ctlOk g
    let use := { (if !known then { aRegs := blockRegs t a 1, dests := blockRegs t d 1 } else u t g) with
      gRead := [b], even := if t.is64 then [a, d] else [] }
    issue i use { types := typeIs st0.group.mode typesCompress }
      (fun st _ => [if ctlOk (st.gr b) then [] else faultIn st.active .illegalInstruction])
      (onStrand fun old st => vecEffect use plain (f (old.gr b)) old st) id s

/-- CMPRS (R151). -/
def execCmprs (d a : BitVec 8) (b : BitVec 6) (s : State) : Result :=
  compressWord (.cmprs d a b) d.toNat a.toNat b.toNat
    (fun t g => { aRegs := blockRegs t a.toNat (ctlGroup g / t.count), dests := blockRegs t d.toNat (1 + packedRegs t g) })
    (fun g => cmprsLane a.toNat g) s

/-- EXPND (R152). -/
def execExpnd (d a : BitVec 8) (b : BitVec 6) (s : State) : Result :=
  compressWord (.expnd d a b) d.toNat a.toNat b.toNat
    (fun t g => { aRegs := blockRegs t a.toNat (1 + packedRegs t g), dests := blockRegs t d.toNat (ctlGroup g / t.count) })
    (fun g => expndLane a.toNat g) s

end Sys2Proof.Machine
end

