-- ==== Sys2Proof/Machine/Control.lean ====
section
/-! DEFINITION. Clause headers and control: NOP, MODE, MEMMODE, branches, calls, loops, EXIT, selectors (R43-R49, R57-R60,
R64, R106-R113). -/

namespace Sys2Proof.Machine

/-! ### The clause header (R43-R49) -/

/-- Fetch of n words at an address (R301): each as an execute access of the strand. -/
def fetchWords (w : Who) : Nat → DWord → State → State × Except Fail (List Word)
  | 0, _, s => (s, .ok [])
  | n + 1, a, s =>
    match s.readPage w a.toNat 4 .exec with
    | (s, .error f) => (s, .error f)
    | (s, .ok bs) =>
      match fetchWords w n (a + 4#64) s with
      | (s, .error f) => (s, .error f)
      | (s, .ok ws) => (s, .ok (wordOf bs :: ws))

/-- The opcode of a word. -/
def opOf (w : Word) : Nat := slice w 31 24

/-- Words of a clause that are long-latency (R45). -/
def longOps (ws : List Word) : Nat := (ws.filter fun w => flagOps.contains (opOf w)).length

/-- The rules of R46 on a header and its words. -/
def clauseLegal (h : Word) (ws : List Word) : Bool :=
  let a := slice h 11 8
  let b := slice h 7 4
  let n := ws.length
  let long := longOps ws
  let l := slice h 31 24
  !h.getLsbD 0 &&
  !(12 ≤ a && a ≤ 14) && !(12 ≤ b && b ≤ 14) &&
  long ≤ 2 &&
  !(a == 15 && 1 ≤ long) && !(b == 15 && long == 2) &&
  !(a != 15 && long == 0) && !(b != 15 && long < 2) &&
  !(a == b && a != 15) &&
  (List.range 8).all (fun i => !l.testBit i || match ws[i]? with
    | some w => vectorAOps.contains (opOf w)
    | none => false) &&
  ws.zipIdx.all (fun x => !lastOps.contains (opOf x.1) || x.2 + 1 == n)

/-- Whether every flag of the wait mask is set (R44). -/
def waitDone (h : Word) (flags : BitVec 12) : Bool :=
  (List.range 12).all fun k => !(slice h 23 12).testBit k || flags.getLsbD k

/-- The word of a clause header. -/
def headerWord (l : BitVec 8) (w : BitVec 12) (a b : BitVec 4) (n : BitVec 3) : Word := ((((l ++ w) ++ a) ++ b) ++ n) ++ 0#1

/-- The first word after MODE and MEMMODE words that a policy of GOPOL examines (R276): LD, ST, ATOM, LDROW, RATOM. -/
def policyWord : List Word → Bool
  | [] => false
  | w :: ws =>
    if opOf w = 0x01 ∨ opOf w = 0x02 then policyWord ws
    else [0x75, 0x76, 0x77, 0x78, 0x79].contains (opOf w)

/-- A header read by a strand that stands at one (R46, R47): the clause is fetched and validated, and its words issue once
the wait mask is satisfied. A fault of the fetch of its words is a trap at the header, also of a header that is illegal by
itself (log 75); an illegal clause traps before any word. A header at an address that is not a multiple of 4 is *misaligned*
(log 27). A clause that is resumed within is not examined for implicit migration (R276; DESIGN CHOICE, log 113). -/
def openClause (h : Word) (st : Strand) (s : State) : State :=
  let c := s.cur.1
  let sl := s.cur.2
  let n := slice h 3 1 + 1
  match fetchWords (st.who c) n (st.pc + 4#64) s with
  | (s, .error f) => if s.awaitsLink c sl then s else s.takeTrap c sl (faultIn st.trapLanes f.1 f.2) (st.pc, st.pcIdx)
  | (s, .ok ws) =>
    if !clauseLegal h ws then
      if s.awaitsLink c sl then s else s.takeTrap c sl (faultIn st.trapLanes .illegalClause) (st.pc, st.pcIdx)
    else if !waitDone h st.flags then s
    else if ws.length ≤ st.pcIdx then (s.setHere (st.goto (st.pc + BitVec.ofNat 64 (4 * (n + 1)))))
    else
      let k : Clause := ⟨st.pc, h, ws, st.pcIdx⟩
      let examine := st.group.policy != 0 && st.pcIdx == 0 && policyWord ws
      let st := { st with clause := some k, wait := if examine then .implicit else .none }
      (s.setHere st).count c 0x0001

/-- CLAUSE_HEADER (R46): a strand that stands at a header opens the clause; with a clause open there is no header to
read. -/
def execClauseHeader (l : BitVec 8) (w : BitVec 12) (a b : BitVec 4) (n : BitVec 3) (s : State) : Result :=
  match s.here? with
  | none => .fault .noStrand
  | some st =>
    match st.clause with
    | some _ => .next s
    | none => .next (openClause (headerWord l w a b n) st s)

/-- A header fetched at the program counter: as CLAUSE_HEADER, whatever the word holds (R48). -/
def fetchClause (s : State) : State :=
  match s.here? with
  | none => s
  | some st =>
    let c := s.cur.1
    if st.pc.toNat % 4 ≠ 0 then
      if s.awaitsLink c s.cur.2 then s else s.takeTrap c s.cur.2 (faultIn st.trapLanes .misaligned) (st.pc, st.pcIdx)
    else match s.readPage (st.who c) st.pc.toNat 4 .exec with
      | (s, .error f) =>
        if s.awaitsLink c s.cur.2 then s else s.takeTrap c s.cur.2 (faultIn st.trapLanes f.1 f.2) (st.pc, st.pcIdx)
      | (s, .ok bs) => openClause (wordOf bs) st s

/-- UNASSIGNED_OPCODE (R64). -/
def execUnassignedOpcode (_w : BitVec 32) (s : State) : Result :=
  match s.here? with
  | none => .fault .noStrand
  | some st => .next (s.trapWord st (faultIn st.trapLanes .illegalInstruction))

/-- The lowest mode of a word whose reserved fields are not zero: that of its opcode, and of the register that MFPR and MTPR
name (R66). -/
def wordMode (w : Word) : Nat :=
  if slice w 31 24 = 0xC4 ∨ slice w 31 24 = 0xC5 then specialMode (slice w 15 0) else opcodeMode (slice w 31 24)

/-- A word with a reserved field or an unused bit that is not zero (R53, R56): *illegal instruction* at issue, after the
check of its mode (R67). -/
def refuseWord (w : Word) (s : State) : Result :=
  match s.here? with
  | none => .fault .noStrand
  | some st =>
    .next (s.trapWord st (faultIn st.trapLanes (if st.mode.code < wordMode w then .privileged else .illegalInstruction)))

/-! ### NOP and the mode register (R57-R60, R218) -/

/-- NOP. -/
def execNop (s : State) : Result := issue .nop {} { always := true } noChecks (onStrand fun _ st => st) id s

/-- MODE (R57, R59). -/
def execMode (imm : BitVec 16) (s : State) : Result :=
  issue (.mode imm) {} { always := true, types := decide (slice imm 6 3 ≤ 13) } noChecks
    (onStrand fun _ st => { st with group := { st.group with mode := putSlice st.group.mode 0 16 imm.toNat } }) id s

/-- MEMMODE (R218, R59). -/
def execMemmode (imm : BitVec 16) (s : State) : Result :=
  issue (.memmode imm) {} { always := true, types := decide (slice imm 15 13 ≤ 4) && decide (slice imm 12 10 ≤ 4) } noChecks
    (onStrand fun _ st => { st with group := { st.group with mode := putSlice st.group.mode 16 16 imm.toNat } }) id s

/-! ### Branches and jumps (R106) -/

/-- here + 4 × a signed offset (R51). -/
def Strand.target (st : Strand) (off : Int) : DWord := st.point.1 + BitVec.ofInt 64 (4 * off)

/-- A transfer to a target, or *misaligned* (R106). -/
def branchWord (i : Instr) (u : Use) (tgt : Strand → Option DWord) (s : State) : Result :=
  issue i u { always := true }
    (fun st _ => [match tgt st with
      | some t => if t.toNat % 4 ≠ 0 then faultIn st.trapLanes .misaligned else []
      | none => []])
    (fun st s => .ok (s, match tgt st with
      | some t => .jump t
      | none => .jump st.after)) id s

/-- BRA (R106). -/
def execBra (off : BitVec 24) (s : State) : Result := branchWord (.bra off) {} (fun st => some (st.target off.toInt)) s

/-- k[D] below W is zero. -/
def Strand.kZero (st : Strand) (d : Nat) : Bool := st.kr d &&& maskBelow st.width == 0#64

/-- BKZ (R106). -/
def execBkz (d : BitVec 4) (off : BitVec 16) (s : State) : Result :=
  branchWord (.bkz d off) {} (fun st => if st.kZero d.toNat then some (st.target off.toInt) else none) s
/-- BKNZ (R106). -/
def execBknz (d : BitVec 4) (off : BitVec 16) (s : State) : Result :=
  branchWord (.bknz d off) {} (fun st => if st.kZero d.toNat then none else some (st.target off.toInt)) s
/-- BQT (R106). -/
def execBqt (d : BitVec 4) (off : BitVec 16) (s : State) : Result :=
  branchWord (.bqt d off) {} (fun st => if st.group.qr d.toNat then some (st.target off.toInt) else none) s
/-- BQF (R106). -/
def execBqf (d : BitVec 4) (off : BitVec 16) (s : State) : Result :=
  branchWord (.bqf d off) {} (fun st => if st.group.qr d.toNat then none else some (st.target off.toInt)) s
/-- JMPG (R106). -/
def execJmpg (a : BitVec 6) (s : State) : Result :=
  branchWord (.jmpg a) { gRead := [a.toNat] } (fun st => some (st.gr a.toNat)) s

/-! ### Calls and returns (R107) -/

/-- A call: *misaligned* before *return stack overflow*, then push and transfer. -/
def callWord (i : Instr) (u : Use) (tgt : Strand → DWord) (s : State) : Result :=
  issue i u { always := true }
    (fun st _ => [if (tgt st).toNat % 4 ≠ 0 then faultIn st.trapLanes .misaligned else [],
                  if st.group.rstack.length = 32 then faultIn st.trapLanes .returnOverflow else []])
    (fun st s => .ok (s.modHere fun x => { x with group := { x.group with rstack := x.group.rstack ++ [st.after] } },
      .jump (tgt st))) id s

/-- CALL (R107). -/
def execCall (off : BitVec 24) (s : State) : Result := callWord (.call off) {} (fun st => st.target off.toInt) s
/-- CALLG (R107). -/
def execCallg (a : BitVec 6) (s : State) : Result :=
  callWord (.callg a) { gRead := [a.toNat] } (fun st => st.gr a.toNat) s

/-- RET (R107). -/
def execRet (s : State) : Result :=
  issue .ret {} { always := true }
    (fun st _ => [if st.group.rstack.isEmpty then faultIn st.trapLanes .returnEmpty else []])
    (fun st s => .ok (s.modHere fun x => { x with group := { x.group with rstack := x.group.rstack.dropLast } },
      .jump (st.group.rstack.getLast?.getD st.after))) id s

/-- The target of RETV in a lane: CODEBASE + n32. -/
def Strand.retvTarget (st : Strand) (a l : Nat) : DWord := st.codeBase + (st.vlane a l).setWidth 64

/-- RETV (R107): with no active lane *divergent return*, without a read of its operand (R122), which is yet checked to name a
register (R54, R67). -/
def execRetv (a : BitVec 8) (s : State) : Result :=
  let idle := match s.here? with
    | some st => st.active == 0#64
    | none => true
  issue (.retv a) (if idle then { named := [a.toNat] } else { aRegs := [a.toNat] }) { always := true }
    (fun st _ =>
      let r := a.toNat
      let ls := lanesOf st.active
      [(ls.filter fun l => (st.retvTarget r l).toNat % 4 ≠ 0).map fun l => ⟨l, .misaligned, 0⟩,
       if ls.isEmpty || ls.any (fun l => st.vlane r l != st.vlane r (ls.headD 0))
       then faultIn st.trapLanes .divergentReturn else []])
    (fun st s => .ok (s, .jump (st.retvTarget a.toNat ((lanesOf st.active).headD 0)))) id s

/-! ### Hardware loops (R109-R111) -/

/-- The end clause of a loop, fetched: its header's follower, or the fault of the fetch. -/
def endClause (w : Who) (a : DWord) (s : State) : State × Except Fail (DWord × List Word) :=
  match fetchWords w 1 a s with
  | (s, .error f) => (s, .error f)
  | (s, .ok hs) =>
    let n := slice (hs.headD 0#32) 3 1 + 1
    match fetchWords w n (a + 4#64) s with
    | (s, .error f) => (s, .error f)
    | (s, .ok ws) => (s, .ok (a + BitVec.ofNat 64 (4 * (n + 1)), ws))

/-- LOOP (R109). -/
def execLoop (d : BitVec 6) (off : BitVec 16) (s : State) : Result :=
  let fetch (st : Strand) (s : State) := endClause (st.who s.cur.1) (st.target off.toInt) s
  issue (.loop d off) { gRead := [d.toNat] } { always := true }
    (fun st s =>
      let bad := faultIn st.trapLanes .illegalLoop
      if off.toInt ≤ 0 then [bad]
      else match (fetch st s).2 with
        | .error f => [faultIn st.trapLanes f.1 f.2]
        | .ok (_, ws) =>
          [if ws.any (fun w => lastOps.contains (opOf w)) then bad else [],
           if st.gr d.toNat != 0#64 && st.group.lstack.length == 4 then faultIn st.trapLanes .loopOverflow else []])
    (fun st s =>
      match fetch st s with
      | (s, .error _) => .ok (s, .jump st.after)
      | (s, .ok (follow, _)) =>
        if st.gr d.toNat = 0#64 then .ok (s, .jump follow)
        else
          let e : LoopEntry := ⟨st.target off.toInt, st.after, st.gr d.toNat⟩
          .ok (s.modHere fun x => { x with group := { x.group with lstack := x.group.lstack ++ [e] } }, .jump st.after))
    id s

/-- LEXIT (R111): the header that follows the innermost entry's end clause is found by fetching that clause's header. Where it
cannot be fetched LEXIT raises that fault (DESIGN CHOICE, log 88). -/
def execLexit (s : State) : Result :=
  let top (st : Strand) : Option LoopEntry := st.group.lstack.getLast?
  let fetch (st : Strand) (e : LoopEntry) (s : State) := fetchWords (st.who s.cur.1) 1 e.endAt s
  issue .lexit {} { always := true }
    (fun st s => [match top st with
      | none => faultIn st.trapLanes .illegalLoop
      | some e => match (fetch st e s).2 with
        | .error f => faultIn st.trapLanes f.1 f.2
        | .ok _ => []])
    (fun st s =>
      match top st with
      | none => .ok (s, .jump st.after)
      | some e =>
        let r := fetch st e s
        let h := match r.2 with
          | .ok hs => hs.headD 0#32
          | .error _ => 0#32
        .ok (r.1.modHere fun x => { x with group := { x.group with lstack := x.group.lstack.dropLast } },
          .jump (e.endAt + BitVec.ofNat 64 (4 * (slice h 3 1 + 2)))))
    id s

/-! ### EXIT and selectors (R112, R113) -/

/-- EXIT (R112): it ends an open region (R327); the strand goes on at the header that follows. -/
def execExit (s : State) : Result :=
  issue .exit {} { ends := true } noChecks
    (fun st s => .ok (s.exitLanes s.cur.1 s.cur.2 st.active, .jump st.after)) id s

/-- The value of SREG in a lane (Table 5-5). -/
def sregValue (c : Nat) (st : Strand) (sel l : Nat) : Word :=
  let id := st.baseId + BitVec.ofNat 64 l
  match sel with
  | 0 => BitVec.ofNat 32 l
  | 1 => lo32 id
  | 2 => hi32 id
  | 3 => BitVec.ofNat 32 st.sindex
  | 4 => BitVec.ofNat 32 (coreRow c)
  | 5 => BitVec.ofNat 32 (coreCol c)
  | 6 => lo32 st.lineage
  | _ => Assoc.get 0#32 st.trapCause l

/-- SREG (R113), with the tags of Table 5-5. -/
def execSreg (d : BitVec 8) (imm : BitVec 16) (s : State) : Result :=
  let sel := imm.toNat
  issue (.sreg d imm) { dests := [d.toNat] } {} noChecks
    (fun st s =>
      let c := s.cur.1
      let tag := match sel with
        | 0 => some (VReg.affine 0#32 1#32)
        | 1 | 7 => none
        | _ => some (.uniform (sregValue c st sel 0))
      .ok (s.modHere fun x => x.writeV d.toNat st.active tag fun l => sregValue c st sel l, .seq)) id s

/-- PRIVSTAT (Table 13-2). -/
def Strand.privstat (st : Strand) : DWord :=
  BitVec.ofNat 64 (st.mode.code + 4 * st.prevMode.code + 16 * st.depth + (if st.region.isSome then 64 else 0) +
    (if st.preempt.isSome then 128 else 0))

/-- The value of GSREG (Table 5-6). -/
def gsregValue (s : State) (st : Strand) (sel : Nat) : DWord :=
  let c := s.cur.1
  match sel with
  | 0 => st.baseId
  | 1 => st.block
  | 2 => BitVec.ofNat 64 (launchNumber st.launch)
  | 3 => BitVec.ofNat 64 (c % 8 * 2 ^ 12 + c / 8 * 2 ^ 6)
  | 4 => BitVec.ofNat 64 (s.cur.2 * 2 ^ 8 + ((s.core c).gen s.cur.2).toNat)
  | 5 => st.lineage
  | 6 => s.cycles
  | 7 => st.point.1
  | 8 => st.domain.setWidth 64
  | 9 => BitVec.ofNat 64 st.width
  | 10 => st.live
  | 11 => match st.group.lstack.getLast? with
    | some e => e.remaining
    | none => 0#64
  | _ => BitVec.ofNat 64 st.group.rstack.length

/-- GSREG (R113). -/
def execGsreg (d : BitVec 6) (imm : BitVec 16) (s : State) : Result :=
  issue (.gsreg d imm) { gDest := [d.toNat] } { always := true } noChecks
    (fun st s => .ok (s.modHere fun x => x.setG d.toNat (gsregValue s st imm.toNat), .seq)) id s

end Sys2Proof.Machine
end

