-- ==== Sys2Proof/Machine/Group.lean ====
section
/-! DEFINITION. Group-wide arithmetic, opcodes 0x60 to 0x6F (R153-R155). -/

namespace Sys2Proof.Machine

/-- Types of the group-wide instructions (R153). -/
def typesGroup (t : ElemType) : Bool := t == .i32 || t == .n32 || t == .i64 || t == .n64

/-- An operand as read under a type: bits 31:0 under the 32-bit types. -/
def groupOperand (t : ElemType) (x : DWord) : Nat := x.toNat % 2 ^ t.width

/-- A result of the type's width as written: sign-extended under i32, zero-extended under n32. -/
def groupResult (t : ElemType) (v : Nat) : DWord :=
  if t = .i32 ∧ 2 ^ 31 ≤ v then BitVec.ofNat 64 (v + (2 ^ 64 - 2 ^ 32)) else BitVec.ofNat 64 v

/-- A group-wide operation on two operands through the element-wise operation of its type; no flag is raised. -/
def groupOp (el : Arith → ElemOp) (clamps : Bool) (m : Word) (x y : DWord) : DWord :=
  let c := arithOf m
  let c := if clamps then c else { c with sat := false }
  groupResult c.t (el c (groupOperand c.t x) (groupOperand c.t y) 0).1

/-- A group-wide word on two registers (R153, R154). -/
def groupWord (i : Instr) (el : Arith → ElemOp) (clamps : Bool) (d a b : BitVec 6) (s : State) : Result :=
  issue i { gRead := [a.toNat, b.toNat], gDest := [d.toNat] }
    { types := typeIs s.modeWord typesGroup, always := true } noChecks
    (onStrand fun old st =>
      st.setG d.toNat (groupOp el clamps old.group.mode (old.gr a.toNat) (old.gr b.toNat))) id s

/-- GADD (R154). -/
def execGadd (d a b : BitVec 6) (s : State) : Result := groupWord (.gadd d a b) elAdd true d a b s
/-- GSUB (R154). -/
def execGsub (d a b : BitVec 6) (s : State) : Result := groupWord (.gsub d a b) elSub true d a b s
/-- GMUL (R154). -/
def execGmul (d a b : BitVec 6) (s : State) : Result := groupWord (.gmul d a b) elMul true d a b s
/-- GAND (R154). -/
def execGand (d a b : BitVec 6) (s : State) : Result := groupWord (.gand d a b) elAnd true d a b s
/-- GOR (R154). -/
def execGor (d a b : BitVec 6) (s : State) : Result := groupWord (.gor d a b) elOr true d a b s
/-- GXOR (R154). -/
def execGxor (d a b : BitVec 6) (s : State) : Result := groupWord (.gxor d a b) elXor true d a b s
/-- GSHL (R154). -/
def execGshl (d a b : BitVec 6) (s : State) : Result := groupWord (.gshl d a b) elShl false d a b s
/-- GSHR (R154). -/
def execGshr (d a b : BitVec 6) (s : State) : Result := groupWord (.gshr d a b) elShr false d a b s
/-- GSAR (R154). -/
def execGsar (d a b : BitVec 6) (s : State) : Result := groupWord (.gsar d a b) elSar false d a b s

/-- GMOV (R154): a handle is copied without waiting (R342), and the type is not read (R153). -/
def execGmov (d a : BitVec 6) (s : State) : Result :=
  issue (.gmov d a) { gRead := [a.toNat], gDest := [d.toNat] } { always := true, waits := false } noChecks
    (onStrand fun old st => st.setG d.toNat (old.gr a.toNat)) id s

/-- GLDI (R155). -/
def execGldi (d : BitVec 6) (imm : BitVec 16) (s : State) : Result :=
  issue (.gldi d imm) { gDest := [d.toNat] } { always := true } noChecks
    (onStrand fun _ st => st.setG d.toNat (imm.signExtend 64)) id s

/-- GLDIH, GLDIX, GLDIY: 16 bits of g[D] set, the others kept, so g[D] is read (R155). -/
def groupPart (i : Instr) (lo : Nat) (d : BitVec 6) (imm : BitVec 16) (s : State) : Result :=
  issue i { gRead := [d.toNat], gDest := [d.toNat] } { always := true } noChecks
    (onStrand fun old st => st.setG d.toNat (putSlice (old.gr d.toNat) lo 16 imm.toNat)) id s

/-- GLDIH (R155). -/
def execGldih (d : BitVec 6) (imm : BitVec 16) (s : State) : Result := groupPart (.gldih d imm) 16 d imm s
/-- GLDIX (R155). -/
def execGldix (d : BitVec 6) (imm : BitVec 16) (s : State) : Result := groupPart (.gldix d imm) 32 d imm s
/-- GLDIY (R155). -/
def execGldiy (d : BitVec 6) (imm : BitVec 16) (s : State) : Result := groupPart (.gldiy d imm) 48 d imm s

/-- A group-wide comparison into q[D] (R154). -/
def groupCompare (i : Instr) (rel : Rel) (d : BitVec 4) (a b : BitVec 6) (s : State) : Result :=
  issue i { gRead := [a.toNat, b.toNat] } { types := typeIs s.modeWord typesGroup, always := true } noChecks
    (onStrand fun old st =>
      let t := (arithOf old.group.mode).t
      st.setQ d.toNat (compareElem rel t (groupOperand t (old.gr a.toNat)) (groupOperand t (old.gr b.toNat))).1) id s

/-- GCEQ (R154). -/
def execGceq (d : BitVec 4) (a b : BitVec 6) (s : State) : Result := groupCompare (.gceq d a b) .eq d a b s
/-- GCLT (R154). -/
def execGclt (d : BitVec 4) (a b : BitVec 6) (s : State) : Result := groupCompare (.gclt d a b) .lt d a b s

end Sys2Proof.Machine
end

