-- ==== Sys2Proof/Machine/Lanes.lean ====
section
/-! DEFINITION. Cross-lane operations, opcodes 0x50 to 0x58, 0x5C and 0x5D (R82, R144-R147, R149). -/

namespace Sys2Proof.Machine

/-- A shuffle (R144): each active lane takes a of lane m, or its own where m is no lane below W. -/
def shuffleWord (i : Instr) (u : Use) (a : Nat) (m : Strand → Nat → Option Nat) (s : State) : Result :=
  let w := isWide s.modeWord
  vec i u (modeType s.modeWord).isSome plain
    (fun st l =>
      let from_ := match m st l with
        | some k => if k < st.width then k else l
        | none => l
      (wordsIn st (regsT w a) from_, 0#5)) s

/-- SHFL (R144): the source lane is the lane's own b, or the low word of its pair. -/
def execShfl (d a b : BitVec 8) (s : State) : Result :=
  shuffleWord (.shfl d a b) (elemUse s.modeWord d.toNat a.toNat (some b.toNat) false) a.toNat
    (fun st l => some (st.vlane b.toNat l).toNat) s

/-- SHFX (R144). -/
def execShfx (d a : BitVec 8) (n : BitVec 6) (s : State) : Result :=
  shuffleWord (.shfx d a n) (elemUse s.modeWord d.toNat a.toNat none false) a.toNat (fun _ l => some (l ^^^ n.toNat)) s

/-- SHUP (R144). -/
def execShup (d a : BitVec 8) (n : BitVec 6) (s : State) : Result :=
  shuffleWord (.shup d a n) (elemUse s.modeWord d.toNat a.toNat none false) a.toNat
    (fun _ l => if l < n.toNat then none else some (l - n.toNat)) s

/-- SHDN (R144). -/
def execShdn (d a : BitVec 8) (n : BitVec 6) (s : State) : Result :=
  shuffleWord (.shdn d a n) (elemUse s.modeWord d.toNat a.toNat none false) a.toNat (fun _ l => some (l + n.toNat)) s

/-- BCST (R145). -/
def execBcst (d a : BitVec 8) (b : BitVec 6) (s : State) : Result :=
  let w := isWide s.modeWord
  let rs := regsT w a.toNat
  let u := { elemUse s.modeWord d.toNat a.toNat none false with gRead := [b.toNat] }
  let lane (st : Strand) : Option Nat :=
    if (st.gr b.toNat).toNat < st.width then some (st.gr b.toNat).toNat else none
  vec (.bcst d a b) u (modeType s.modeWord).isSome
    (fun st => match lane st with
      | some k => some ((wordsIn st rs k).map fun x => some (.uniform x))
      | none => some (tagsOf st rs))
    (fun st l => (wordsIn st rs ((lane st).getD l), 0#5)) s

/-! ### Reductions (R82, R146) -/

/-- One level of the tree: nodes 2i and 2i + 1 combined, with flags. -/
def pairUp (f : Nat → Nat → Nat × Flags) : List (Option Nat × Flags) → List (Option Nat × Flags)
  | (x, p) :: (y, q) :: rest =>
    (match x, y with
      | some v, some u => let r := f v u; (some r.1, p ||| q ||| r.2)
      | some v, none => (some v, p ||| q)
      | none, z => (z, p ||| q)) :: pairUp f rest
  | rest => rest

/-- n levels of the tree. -/
def treeUp (f : Nat → Nat → Nat × Flags) : Nat → List (Option Nat × Flags) → List (Option Nat × Flags)
  | 0, xs => xs
  | n + 1, xs => treeUp f n (pairUp f xs)

/-- The reduction of a over the active lanes: the root, none without an active lane, and every flag raised. -/
def reduceLanes (el : Arith → ElemOp) (a : Nat) (st : Strand) : Option Nat × Flags :=
  let c := arithOf st.group.mode
  let leaf (l : Nat) : Option Nat × Flags :=
    (if st.active.getLsbD l then some (st.vval c.t.is64 a l) else none, 0#5)
  (treeUp (fun x y => mapElems c.t (el c) x y 0) 6 ((List.range st.width).map leaf)).headD (none, 0#5)

/-- Copies of an element in every place of a value. -/
def splat (t : ElemType) (x : Nat) : Nat := packElems t.width (List.replicate t.count x)

/-- What RMIN, or RMAX, gives without an active lane (R82). -/
def emptyExtreme (max : Bool) (t : ElemType) : Nat :=
  let neg (f : Fmt) (x : Nat) : Nat := if max then f.signBit + x else x
  splat t (match t.fmt with
    | some f => if t = .e4m3x4 then neg f 0x7E else neg f f.inf
    | none => t.wrap (if max then t.least else t.greatest))

/-- A reduction into g[D] (R146). -/
def reduceWord (i : Instr) (el : Arith → ElemOp) (empty : ElemType → Nat) (d a : Nat) (s : State) : Result :=
  let w := isWide s.modeWord
  let t := (arithOf s.modeWord).t
  let types := typeIs s.modeWord fun t => t.isInt || t.isFlt || t.isF8
  issue i { aRegs := regsT w a, even := if w then [a] else [], gDest := [d] } { types := types }
    (fun st _ =>
      let f := (reduceLanes el a st).2
      [if f &&& st.group.aten != 0#5 then faultIn st.active .arithmetic f.toNat else []])
    (onStrand fun old st =>
      let r := reduceLanes el a old
      (st.setG d (BitVec.ofNat 64 (r.1.getD 0))).raise r.2)
    (fun s => match s.here? with
      | some st => (s.unbindDests st.lineage [d]).modHere fun st => st.setG d (BitVec.ofNat 64 (empty t))
      | none => s) s

/-- RADD (R146). -/
def execRadd (d : BitVec 6) (a : BitVec 8) (s : State) : Result :=
  reduceWord (.radd d a) elAdd (fun _ => 0) d.toNat a.toNat s
/-- RMIN (R146). -/
def execRmin (d : BitVec 6) (a : BitVec 8) (s : State) : Result :=
  reduceWord (.rmin d a) (elMinMax false) (emptyExtreme false) d.toNat a.toNat s
/-- RMAX (R146). -/
def execRmax (d : BitVec 6) (a : BitVec 8) (s : State) : Result :=
  reduceWord (.rmax d a) (elMinMax true) (emptyExtreme true) d.toNat a.toNat s

/-- The lanes with a lower active lane of the same pattern (R147). -/
def conflicts (st : Strand) (a : Nat) : LaneMask :=
  let w := isWide st.group.mode
  maskOf ((lanesOf st.active).filter fun l =>
    (lanesOf (st.active &&& maskBelow l)).any fun m => st.vval w a m == st.vval w a l)

/-- CONFL (R147). -/
def execConfl (d : BitVec 4) (a : BitVec 8) (s : State) : Result :=
  let w := isWide s.modeWord
  issue (.confl d a) { aRegs := regsT w a.toNat, even := if w then [a.toNat] else [] }
    { types := (modeType s.modeWord).isSome } noChecks
    (onStrand fun old st => st.setK d.toNat (conflicts old a.toNat)) id s

/-- VTOG (R149): a of the lowest-numbered active lane. -/
def execVtog (d : BitVec 6) (a : BitVec 8) (s : State) : Result :=
  let w := isWide s.modeWord
  issue (.vtog d a) { aRegs := regsT w a.toNat, even := if w then [a.toNat] else [], gDest := [d.toNat] }
    { types := (modeType s.modeWord).isSome } noChecks
    (onStrand fun old st => st.setG d.toNat (BitVec.ofNat 64 (old.vval w a.toNat ((lanesOf old.active).headD 0)))) id s

/-- GTOV (R149). -/
def execGtov (d : BitVec 8) (a : BitVec 6) (s : State) : Result :=
  let w := isWide s.modeWord
  let val (st : Strand) : List Word := valueWords w (st.gr a.toNat).toNat
  vec (.gtov d a) { dests := regsT w d.toNat, even := if w then [d.toNat] else [], gRead := [a.toNat] }
    (modeType s.modeWord).isSome (fun st => some ((val st).map fun x => some (.uniform x)))
    (fun st _ => (val st, 0#5)) s

end Sys2Proof.Machine
end

