-- ==== Sys2Proof/Machine/Launches.lean ====
section
/-! DEFINITION. BWPHASE, and the steps of the command processors and the dispatcher: the placing of launches, the dispatch
of blocks, the completion of launches, starvation (R96-R104, R199, R287). -/

namespace Sys2Proof.Machine

/-- BWPHASE (R287). -/
def execBwphase (n : BitVec 2) (s : State) : Result :=
  issue (.bwphase n) {} {} noChecks (onStrand fun _ st => { st with group := { st.group with phase := n.toNat } }) id s

/-- STARVATION_PROMOTION (R103): a strand passed over for 64 core cycles is selected ahead of older ones. -/
def execStarvationPromotion (c sl : Nat) (s : State) : Result :=
  .next (s.modStrand c sl fun st => if 64 ≤ st.passed then { st with urgent := true } else st)

/-! ### The command processors (R96, R98) -/

/-- An access made beside the cores: it uses and fills no core's TLB. -/
def State.apart {α : Type} (s : State) (f : State → State × α) : State × α :=
  let r := f (s.modCore 0 fun k => { k with tlb := [] })
  ({ r.1 with cores := s.cores }, r.2)

/-- The command processor as a party that accesses memory for a launch (log 38). -/
def State.commandWho (s : State) (dom : BitVec 16) (launch : Nat) : Who :=
  ⟨0, dom, (s.domainEntry dom.toNat).key, .s, launch⟩

/-- A notice for Kuenrex. -/
def State.notify (s : State) (n : Notice) : State := { s with mgmt := { s.mgmt with notices := s.mgmt.notices ++ [n] } }

/-- LAUNCH_SERVICE (R96): Kuenrex places the record at va for a domain, or for a party in H mode; it places none in a
maintenance window (R362). -/
def execLaunchService (dom : BitVec 16) (hyp : Bool) (va : BitVec 64) (s : State) : Result :=
  if !s.kuenrex || s.windowOpen then .next s
  else
    match s.apart fun s => s.readRecord (s.commandWho dom 0) va.toNat hyp with
    | (s, .error k) => .next (s.notify (.launchRefused va k))
    | (s, .ok r) => .next (s.acceptLaunch r va.toNat none)

/-! ### Dispatch (R94, R97-R100, Table 5-1) -/

/-- The stall times of a launch's accesses in nanoseconds, as Kuenrex reads them (R289). -/
def Launch.stallNs (l : Launch) : Nat := l.stallPs / 1000

/-- Whether a launch has blocks still to dispatch. -/
def Launch.waiting (l : Launch) : Bool := l.next.isSome && !l.cancelled

/-- The launch whose block is considered: the oldest of the highest priority (R97). -/
def firstLaunch : List (Nat × Launch) → Option Launch
  | [] => none
  | (_, l) :: ls =>
    match firstLaunch ls with
    | none => if l.waiting then some l else none
    | some m =>
      if l.waiting && (decide (m.record.prio < l.record.prio) ||
        (m.record.prio == l.record.prio && decide (l.order < m.order))) then some l else some m

/-- The index of the block at coordinates c2 to c5 (R94). -/
def LRec.blockIndex (r : LRec) (cs : List Nat) : Nat :=
  cs.getD 0 0 + cs.getD 1 0 * 2 ^ r.fieldWidth 2 + cs.getD 2 0 * 2 ^ (r.fieldWidth 2 + r.fieldWidth 3) +
  cs.getD 3 0 * 2 ^ (r.fieldWidth 2 + r.fieldWidth 3 + r.fieldWidth 4)

/-- The coordinates that follow, the first varying fastest; none after the last. -/
def nextCoords : List Nat → List Nat → Option (List Nat)
  | c :: cs, lim :: lims =>
    if c + 1 < lim then some ((c + 1) :: cs) else (nextCoords cs lims).map fun r => 0 :: r
  | _, _ => none

/-- Threads of a block. -/
def LRec.threads (r : LRec) : Nat := r.width * r.limit 1

/-- The least number of cores of a block (R99). -/
def LRec.minCores (r : LRec) : Nat := max r.spread (ceilDiv r.threads 4096)

/-- Whether c cores from a core on fit their portions. -/
def State.fitsOn (s : State) (r : LRec) (first c : Nat) : Bool :=
  (List.range c).all fun i => s.fits (first + i) r c (r.portion c i)

/-- The first place of a block: its first core and number of cores (R99). -/
def State.findPlace (s : State) (r : LRec) : Option (Nat × Nat) :=
  (List.range Config.cores).findSome? fun j =>
    let k := (s.pointer + 1 + j) % Config.cores
    ((List.range 9).find? fun c => decide (r.minCores ≤ c) && decide (c ≤ 8 - k % 8) && s.fitsOn r k c).map fun c => (k, c)

/-- The group-wide state at dispatch (Table 5-1, R212, R278, R287). -/
def Group.dispatched (param : DWord) (w : Nat) : Group :=
  { g := Assoc.put 0#64 [] 0 param, q := 0#16, k := [(0, maskBelow w)], mode := 0#32, rstack := [], lstack := [],
    astat := 0#5, aten := 0#5, policy := 0, window := 200#16, phase := 1, gang := 0#64, batch := 1#32, depSerial := 0#16 }

/-- A strand at dispatch: strand i of the block of an index (R91, R94, R113, R304, R305). -/
def Strand.dispatched (r : LRec) (launch : Nat) (index : Nat) (i age : Nat) (key : BitVec 10) : Strand :=
  { launch := launch, block := BitVec.ofNat 64 index, sindex := i,
    baseId := BitVec.ofNat 64 (i * 2 ^ r.fieldWidth 0 + index * 2 ^ (r.fieldWidth 0 + r.fieldWidth 1)),
    lineage := BitVec.ofNat 64 (launch * 2 ^ 16 + index % 2 ^ 10 * 2 ^ 6 + i % 2 ^ 6), member := true,
    width := r.width, nregs := r.regs, prio := r.prio, codeBase := r.code &&& 0xFFFFFFFF00000000#64, age := age,
    passed := 0, urgent := false, pc := r.code, pcIdx := 0, clause := none,
    group := Group.dispatched r.param r.width, gpend := 0#64, v := [], vpend := 0#256, p := [], flags := 0xFFF#12,
    exited := 0#64, departed := 0#64, kept := [], names := [], issued := 0, stalled := 0,
    mode := .u, prevMode := .u, depth := 0, frames := [],
    trapCause := [], trapMask := 0#64, domain := r.domain, keyid := key, preempt := none, region := none,
    inquiry := none, wait := .none }

/-- A strand takes the lowest free slot of core c (R128; log 23). -/
def State.seat (s : State) (c : Nat) (st : Strand) : State :=
  let sl := (s.core c).freeSlots.headD 0
  { s.setStrand c sl st with nextAge := s.nextAge + 1 }

/-- The scratch images of a launch copied into one block's portion of core c of a block, g granules from f on. -/
def CoreSt.placeImages (k : CoreSt) (c f g : Nat) (xs : List ScratchImage) : CoreSt :=
  xs.foldl (fun k x =>
    if x.core = c % 8 then
      let bytes := x.bytes.take (granuleBytes * g - x.offset)
      { k with scratch := Assoc.splice 0#8 k.scratch (granuleBytes * f + x.offset) bytes }
    else k) k

/-- The portion of a block on core c: a buffer of g granules, with the launch's images (R100, R195, R199). Where the core
holds no strand (m = 0) its handle stands in the hand-over queue of core c0, the block's first (R198; log 70). -/
def State.givePortion (s : State) (c0 c g m : Nat) (l : Launch) (index : Nat) : State :=
  if g = 0 then s
  else
    let k := s.core c
    let f := (k.freeRun g).getD 0
    let serial := nextSerial k.allocSer
    let b : Buffer :=
      ⟨f, g, serial, l.number, BitVec.ofNat 64 index, if m = 0 then none else some c, true, none, false⟩
    let k := { k with buffers := k.buffers ++ [b], allocSer := serial }
    let s := s.setCore c (k.placeImages c f g l.images)
    if m = 0 then
      s.modCore c0 fun q => { q with handOver := q.handOver ++ [⟨b.handle c, l.number, BitVec.ofNat 64 index⟩] }
    else s

/-- One core of a block from core c0 on: its portion and its strands, with the strand index of the first. -/
def State.fillCore (s : State) (c0 c g m first : Nat) (l : Launch) (index : Nat) : State :=
  let key := (s.domainEntry l.record.domain.toNat).key
  (List.range m).foldl (fun s i => s.seat c (Strand.dispatched l.record l.number index (first + i) s.nextAge key))
    (s.givePortion c0 c g m l index)

/-- The cores of a block filled in order. -/
def State.fillCores (c0 c : Nat) (l : Launch) (index : Nat) : List Nat → Nat → State → State
  | [], _, s => s
  | i :: is, first, s =>
    let m := l.record.portion c i
    State.fillCores c0 c l index is (first + m) (s.fillCore c0 (c0 + i) (l.record.granules c) m first l index)

/-- The write of 0 to the result word before the first block (R98). -/
def State.clearResult (s : State) (l : Launch) : State :=
  if l.started || l.record.result == 0#64 then s
  else
    match s.apart fun s => s.writeV (s.commandWho l.record.domain l.number) l.record.result.toNat (bytesOf 8 0) with
    | (s, .ok ()) => s
    | (s, .error (f, _)) => s.notify (.launchFault l.number f.1.code)

/-- The images that a block on c cores from c0 on does not take whole: those for other cores, and those cut (R199). -/
def imageEvents (c0 c g : Nat) (xs : List ScratchImage) : Nat × Nat :=
  let on (x : ScratchImage) : Bool := decide (c0 % 8 ≤ x.core) && decide (x.core < c0 % 8 + c)
  ((xs.filter fun x => !on x).length,
   (xs.filter fun x => on x && decide (granuleBytes * g < x.offset + x.bytes.length)).length)

/-- A block placed on c cores from c0 on (R97-R100, R329). -/
def State.placeBlock (s : State) (l : Launch) (cs : List Nat) (c0 c : Nat) : State :=
  let r := l.record
  let index := r.blockIndex cs
  let s := s.clearResult l
  let bar : Barrier := ⟨r.threads, 0, 0#32, false⟩
  let b : Block := ⟨l.number, BitVec.ofNat 64 index, c0, c, r.threads, r.barriers, List.replicate r.barriers bar⟩
  let ev := imageEvents c0 c (r.granules c) l.images
  let l := (Assoc.find s.launches l.number).getD l
  let l' := { l with
    next := nextCoords cs ((List.range 4).map fun i => r.limit (i + 2))
    started := true
    threads := l.threads + r.threads
    imagesMissed := l.imagesMissed + ev.1
    imagesCut := l.imagesCut + ev.2 }
  let s := { s with
    launches := Assoc.set s.launches l.number l'
    blocks := s.blocks ++ [b]
    pointer := c0 + c - 1 }
  State.fillCores c0 c l index (List.range c) 0 s

/-- DISPATCH_BLOCK (R97, R99): the next block of the launch considered is placed where it fits. -/
def execDispatchBlock (s : State) : Result :=
  match firstLaunch s.launches with
  | none => .next s
  | some l =>
    match l.next, s.findPlace l.record with
    | some cs, some (c0, c) => .next (s.placeBlock l cs c0 c)
    | _, _ => .next s

/-! ### Completion (R98, R116) -/

/-- Whether something that the threads of a launch issued is not done on a core: a future, an operation, a copy, a queued
matrix operation. -/
def CoreSt.busyFor (k : CoreSt) (n : Nat) : Bool :=
  (k.futures.any fun f => f.2.launch == n && !f.2.done) || (k.ops.any fun o => o.launch == n && o.todo != 0#64) ||
  (k.copies.any fun q => q.launch == n) || k.matrix.queue.any fun q => q.launch == n

/-- Whether a launch is complete under R98. -/
def State.launchDone (s : State) (l : Launch) : Bool :=
  (l.next.isNone || l.cancelled) && l.threads == 0 && !s.cores.any fun k => k.2.busyFor l.number

/-- The successor that the result word chooses, placed (R98). -/
def State.placeSuccessor (s : State) (l : Launch) : State :=
  let r := l.record
  let w := s.commandWho r.domain l.number
  let result : State × Except Fail Nat :=
    if r.result = 0#64 then (s, .ok 0)
    else match s.apart fun s => s.readV w r.result.toNat 8 with
      | (s, .ok bs) => (s, .ok (natOf bs))
      | (s, .error f) => (s, .error f)
  match result with
  | (s, .error f) => s.notify (.launchFault l.number f.1.code)
  | (s, .ok v) =>
    let j := v / 2 ^ r.shift % 8
    if r.nsucc ≤ j then s
    else match s.apart fun s => s.readV w (r.succ.toNat + 8 * j) 8 with
      | (s, .error f) => s.notify (.launchFault l.number f.1.code)
      | (s, .ok bs) =>
        if natOf bs = 0 then s
        else match s.apart fun s => s.readRecord w (natOf bs) false with
          | (s, .error k) => s.notify (.successorRefused l.number k)
          | (s, .ok x) => s.acceptLaunch x (natOf bs) none

/-- LAUNCH_COMPLETE (R98, R116): the launch is complete, its successor placed unless it was cancelled, its future done. -/
def execLaunchComplete (n : Nat) (s : State) : Result :=
  match Assoc.find s.launches n with
  | none => .next s
  | some l =>
    if l.complete || !s.launchDone l then .next s
    else
      let s := { s with launches := Assoc.set s.launches n { l with complete := true } }
      let s := if l.cancelled then s else s.placeSuccessor l
      .next (match l.future with
        | some (c, i) => s.completeFuture c i (if l.cancelled then 0x3F else 0)
        | none => s)

end Sys2Proof.Machine
end

