-- ==== Sys2Proof/Machine/Privilege.lean ====
section
/-! DEFINITION. The trapping instructions, the returns, privileged registers, TINV, KILL, PERF and TRAP_ENTRY (R304-R319). -/

namespace Sys2Proof.Machine

/-! ### Entering and leaving on purpose (R314, R315) -/

/-- Whether a strand has an operation that met a fault. -/
def State.hasFaults (s : State) (c sl : Nat) : Bool := ((s.core c).strandOps sl).any fun o => !o.faults.isEmpty

/-- SYSC, HCALL and BKPT (R314): the active lanes trap, and the strand resumes at the header that follows the clause. A
fault that settling shows in an older operation is taken first, and the word issues again after it (log 29). -/
def trapInstr (i : Instr) (k : Cause) (service : Nat) (hcall : Bool) (s : State) : Result :=
  issue i {} { ends := true } noChecks
    (fun st s =>
      let c := s.cur.1
      let sl := s.cur.2
      if s.awaitsLink c sl then .error id
      else
        let s := s.settle c sl
        if s.hasFaults c sl then .ok (s.takeTrap c sl [] st.point, .stay)
        else .ok (s.takeTrap c sl (faultIn st.active k) (st.after, 0) service hcall, .stay)) id s

/-- SYSC. -/
def execSysc (imm : BitVec 16) (s : State) : Result := trapInstr (.sysc imm) .systemCall imm.toNat false s
/-- HCALL: taken by H (R307). -/
def execHcall (imm : BitVec 16) (s : State) : Result := trapInstr (.hcall imm) .hypercall imm.toNat true s
/-- BKPT. -/
def execBkpt (imm : BitVec 16) (s : State) : Result := trapInstr (.bkpt imm) .breakpoint imm.toNat false s

/-- SRET and HRET (R315): they wait until no operation of the strand is in flight; with no frame open there is none to wait
for, and they are privileged. -/
def returnWord (i : Instr) (s : State) : Result :=
  issue i {} { always := true } noChecks
    (fun st s =>
      if !st.frames.isEmpty && !((s.core s.cur.1).strandOps s.cur.2).isEmpty then .error id else .ok (s.returnTrap st, .stay)) id s

/-- SRET. -/
def execSret (s : State) : Result := returnWord .sret s
/-- HRET. -/
def execHret (s : State) : Result := returnWord .hret s

/-- TRAP_ENTRY (R309): the strand of a slot enters its handler for faults that its operations met, at the next word that
has not issued. A strand in a gang latch waits for the latch first. -/
def execTrapEntry (c sl : Nat) (s : State) : Result :=
  match s.strand? c sl with
  | none => .next s
  | some st =>
    if !s.hasFaults c sl || s.awaitsLink c sl || st.inLatch then .next s
    else .next (s.takeTrap c sl [] st.point)

/-! ### Privileged registers (R305, R306, R316) -/

/-- TRAPCAUSE as MFPR reads it: that of the lowest lane in TRAPMASK. -/
def Strand.firstCause (st : Strand) : DWord :=
  match lanesOf st.trapMask with
  | [] => 0#64
  | l :: _ => (Assoc.get 0#32 st.trapCause l).setWidth 64

/-- The value of a privileged register. -/
def privValue (k : CoreSt) (st : Strand) (n : Nat) : DWord :=
  match n with
  | 0 => st.group.astat.setWidth 64
  | 1 => st.group.aten.setWidth 64
  | 16 => k.trapBase
  | 17 => st.firstCause
  | 18 => k.trapFrame
  | 19 => st.trapMask
  | 20 => st.privstat
  | 32 => k.hTrapBase
  | 33 => st.domain.setWidth 64
  | _ => st.keyid.setWidth 64

/-- MFPR. -/
def execMfpr (d : BitVec 6) (imm : BitVec 16) (s : State) : Result :=
  issue (.mfpr d imm) { gDest := [d.toNat] } {} noChecks
    (fun st s => .ok (s.modHere fun x => x.setG d.toNat (privValue (s.core s.cur.1) st imm.toNat), .seq)) id s

/-- The bits hi:lo of a value in their place, other bits 0. -/
def field64 (x : DWord) (hi lo : Nat) : DWord := BitVec.ofNat 64 (slice x hi lo * 2 ^ lo)

/-- A privileged register of core c and a strand written (Table 13-2). -/
def State.setPriv (s : State) (c sl n : Nat) (x : DWord) : State :=
  match n with
  | 0 => s.modStrand c sl fun st => { st with group := { st.group with astat := x.setWidth 5 } }
  | 1 => s.modStrand c sl fun st => { st with group := { st.group with aten := x.setWidth 5 } }
  | 16 => s.modCore c fun k => { k with trapBase := field64 x 51 2 }
  | 18 => s.modCore c fun k => { k with trapFrame := field64 x 51 8 }
  | 32 => s.modCore c fun k => { k with hTrapBase := field64 x 51 20 }
  | 33 => s.modStrand c sl fun st => { st with domain := x.setWidth 16 }
  | 34 => s.modStrand c sl fun st => { st with keyid := x.setWidth 10 }
  | _ => s

/-- MTPR. -/
def execMtpr (d : BitVec 6) (imm : BitVec 16) (s : State) : Result :=
  issue (.mtpr d imm) { gRead := [d.toNat] } {} noChecks
    (fun st s => .ok (s.setPriv s.cur.1 s.cur.2 imm.toNat (st.gr d.toNat), .seq)) id s

/-! ### TINV (R317) -/

/-- TINV: the strand waits until the entries are gone. -/
def execTinv (a : BitVec 6) (sc : BitVec 2) (s : State) : Result :=
  issue (.tinv a sc) { gRead := [a.toNat] } {} noChecks
    (fun st s => .ok (s.modHere fun x =>
      { x with wait := .tinv st.domain (st.gr a.toNat) sc.toNat (st.mode == .h) }, .seq)) id s

/-- The cores of this package that a TINV reaches: the block's, the cluster's, all; a strand of no block reaches its own core as its
block's (log 30). -/
def State.tinvCores (s : State) (c : Nat) (st : Strand) (sc : Nat) : List Nat :=
  match sc with
  | 0 => (match (if st.member then s.block? st.launch st.block else none) with
    | some b => (List.range b.ncores).map (· + b.first)
    | none => [c])
  | 1 => (List.range 8).map (· + 8 * (c / 8))
  | _ => List.range Config.cores

/-- Whether a TINV removes an entry. -/
def TlbEntry.removed (t : TlbEntry) (dom : BitVec 16) (addr : DWord) (second : Bool) : Bool :=
  t.domain == dom.toNat && (!t.stage2 || second) &&
  (addr == ~~~ 0#64 || (decide (t.va ≤ addr.toNat) && decide (addr.toNat < t.va + t.size)))

/-- The entries that a TINV removes are gone at the cores of a list, at one instant. -/
def State.dropEntries (s : State) (cores : List Nat) (dom : BitVec 16) (addr : DWord) (second : Bool) : State :=
  ((s.cores.map fun k => k.1).filter fun k => cores.contains k).foldl (fun s k => s.modCore k fun x =>
    { x with tlb := x.tlb.filter fun t => !t.removed dom addr second }) s

/-- The other packages of the Dolmond domain: those that a route leads to (DESIGN CHOICE, log 35). -/
def State.otherPackages (s : State) : List Nat :=
  (s.links.routes.filter fun r => r.2 != 0 && r.1 != Config.packageNumber).map (·.1)

/-- Other packages are asked to remove the entries of a TINV (R317), and the strand waits for their answers (R355). -/
def State.askTinv (s : State) (c sl : Nat) (st : Strand) (dom : BitVec 16) (addr : DWord) (second : Bool) (pkgs : List Nat) :
    State :=
  let r := pkgs.foldl (fun (r : State × List Nat) pkg =>
    match r.1.ask pkg c st.issued sl ⟨Config.packageNumber, c, st.domain, st.keyid, st.mode, st.launch⟩
      (.tinv dom addr second) with
    | (s, n) => (s, r.2 ++ [n])) (s, [])
  r.1.modStrand c sl fun x => { x with wait := .tinvFar dom addr second r.2 }

/-- TINV_DONE: once the strand's earlier writes are performed, and with a scope of the domain once every other package of it has
answered that the entries are gone there, they are gone at every core reached, at one instant, and the strand goes on. -/
def execTinvDone (c sl : Nat) (s : State) : Result :=
  match s.strand? c sl with
  | none => .next s
  | some st =>
    let done (cores : List Nat) (dom : BitVec 16) (addr : DWord) (second : Bool) : Result :=
      .next ((s.dropEntries cores dom addr second).modStrand c sl fun x => { x with wait := .none })
    match st.wait with
    | .tinv dom addr sc second =>
      if !s.accessesDone c sl then .next s
      else if sc = 3 ∧ !s.otherPackages.isEmpty then .next (s.askTinv c sl st dom addr second s.otherPackages)
      else done (s.tinvCores c st sc) dom addr second
    | .tinvFar dom addr second [] => done (s.tinvCores c st 3) dom addr second
    | _ => .next s

/-! ### KILL (R318) -/

/-- KILL. -/
def execKill (a : BitVec 6) (s : State) : Result :=
  issue (.kill a) { gRead := [a.toNat] } {}
    (fun st _ => [if slice (st.gr a.toNat) 63 14 ≠ 0 then faultIn st.trapLanes .illegalInstruction else []])
    (fun st s =>
      let c := s.cur.1
      let g := st.gr a.toNat
      let sl := slice g 13 8
      match s.strand? c sl with
      | none => .ok (s, .seq)
      | some x =>
        if (s.core c).gen sl ≠ g.setWidth 8 ∨ (st.mode = .s ∧ x.domain ≠ st.domain) then .ok (s, .seq)
        else .ok (s.killStrand c sl, .seq)) id s

/-! ### PERF (R319) -/

/-- Continuation slots in use on a core (R263): origin copies, the origin slots of departures whose flacons are not sent, and
the slots of flacons on the way to the core or held there, and those that a departure under decision keeps (log 35). -/
def State.contSlots (s : State) (c : Nat) : Nat :=
  let k := s.core c
  let kept (st : Strand) : Nat := match st.inquiry with
    | some q => q.held
    | none => 0
  let leaving := k.slots.foldl (fun n x => x.2.departures.foldl (fun n d => n + d.deps.length) (n + kept x.2)) 0
  k.origins.length + leaving + k.reserved + k.reservedFar + k.arrived.foldl (fun n a => n + a.flacons.length) 0

/-- The counters of R348 as Kuenrex reads them through the control registers of a core: 0 barrier phases completed, 1
barriers broken, 2 future slots in use at the moment of reading, 3 issues that waited for a future slot, 4 FCANCEL requests. -/
def CoreSt.syncCounter (k : CoreSt) (i : Nat) : DWord :=
  if i = 2 then BitVec.ofNat 64 k.futures.length else k.counter (0x10000 + i)

/-- The counter of a selector outside group 7 (Table 13-8). The holder of a plane set that no block holds reads as 0 (DESIGN
CHOICE, log 100). -/
def perfValue (s : State) (c sel : Nat) : DWord :=
  let k := s.core c
  if sel = 0x0000 then s.cycles
  else if sel = 0x1040 then BitVec.ofNat 64 k.cursors.length
  else if sel = 0x2000 then BitVec.ofNat 64 ((List.range 64).filter k.granuleFree).length
  else if sel = 0x3007 then BitVec.ofNat 64 k.matrix.rows.length
  else if sel = 0x3008 then (match k.matrix.planes with
    | some (l, _) => BitVec.ofNat 64 (launchNumber l)
    | none => 0#64)
  else if sel = 0x3009 then (match k.matrix.planes with
    | some (_, b) => b
    | none => 0#64)
  else if sel = 0x4007 then BitVec.ofNat 64 (s.contSlots c)
  else if 0x5000 ≤ sel ∧ sel < 0x6000 then
    let x := s.stackOf (sel % 256 / 16)
    let i := sel % 16
    if i < 4 then BitVec.ofNat 64 (x.slots 0 i).length else Assoc.get 0#64 x.counters i
  else if sel = 0x6000 then s.overflows
  else if sel = 0x6001 then s.slow
  else k.counter sel

/-- PERF. Group 7 asks the engine of the table's package: a handle of another package makes the strand wait for the
answer over the links (R159, R192). -/
def execPerf (d : BitVec 6) (imm : BitVec 16) (s : State) : Result :=
  let sel := imm.toNat
  let seven : Bool := decide (0x7000 ≤ sel)
  issue (.perf d imm) { gRead := if seven then [d.toNat] else [], gDest := [d.toNat] } {} noChecks
    (fun st s =>
      let c := s.cur.1
      let h := st.gr d.toNat
      let give (v : DWord) (s : State) := s.modHere fun x => x.setG d.toNat v
      if !seven then .ok (give (perfValue s c sel) s, .seq)
      else if hRemote h then
        match s.ask (hPackage h) c st.issued s.cur.2 ⟨Config.packageNumber, c, st.domain, st.keyid, st.mode, st.launch⟩
          (.counter h (sel % 4096)) with
        | (s, n) => .ok (s.modHere fun x => { x with wait := .counter n d.toNat }, .seq)
      else match s.usable h true with
        | none => .ok (give (~~~ 0#64) s, .seq)
        | some t => .ok (give (Assoc.get 0#64 t.counters (sel % 4096)) s, .seq)) id s

end Sys2Proof.Machine
end

