-- ==== Sys2Proof/Machine/Migrate.lean ====
section
/-! DEFINITION. Migration: GO, GOM, GOTO, GOPOL, REJOIN, implicit migration, and the steps of departure, arrival and
re-assembly (R263-R278, R374). -/

namespace Sys2Proof.Machine

/-! ### Flacons (R265, R266) -/

/-- Registers a live mask selects among bits lo to lo + n - 1. -/
def selected (live : DWord) (lo n : Nat) : List Nat := (List.range n).filter fun i => live.getLsbD (lo + i)

/-- Size of a flacon (R266). -/
def flaconSize (loops returns : Nat) (live : DWord) : Nat :=
  80 + 24 * loops + 8 * returns + 8 + 4 * (selected live 0 32).length + 8 * (selected live 48 16).length

/-- Size of a flacon as it stands. -/
def Flacon.size (f : Flacon) : Nat := flaconSize f.lstack.length f.rstack.length f.live

/-- A flacon laid out (Table 11-1). -/
def Flacon.bytes (f : Flacon) : List Byte :=
  let w := Nat.log2 (f.width / 8)
  bytesOf 8 f.resume.toNat ++ bytesOf 1 f.resumeIdx ++ bytesOf 1 f.rstack.length ++ bytesOf 1 f.lstack.length ++
  bytesOf 1 ((if f.member then 128 else 0) + 4 * f.policy + w) ++ bytesOf 4 f.mode.toNat ++
  bytesOf 1 f.astat.toNat ++ bytesOf 1 f.aten.toNat ++ bytesOf 2 f.window.toNat ++ bytesOf 2 f.nregs ++
  bytesOf 2 f.domain.toNat ++ bytesOf 1 f.lane ++ bytesOf 1 f.prio ++ bytesOf 1 f.companions ++ bytesOf 1 f.slot ++
  bytesOf 1 f.gen.toNat ++ bytesOf 1 0 ++ bytesOf 2 f.serial.toNat ++ bytesOf 2 f.core ++ bytesOf 2 f.package ++
  bytesOf 4 f.size ++ bytesOf 8 f.live.toNat ++ bytesOf 8 f.workId.toNat ++ bytesOf 8 f.lineage.toNat ++
  bytesOf 8 f.launch ++ bytesOf 8 f.block.toNat ++
  f.lstack.flatMap (fun e => bytesOf 8 e.endAt.toNat ++ bytesOf 8 e.body.toNat ++ bytesOf 8 e.remaining.toNat) ++
  f.rstack.flatMap (fun a => bytesOf 8 a.toNat) ++ bytesOf 4 f.empty.toNat ++ bytesOf 4 f.preds.toNat ++
  (selected f.live 0 32).flatMap (fun r => bytesOf 4 (Assoc.get 0#32 f.vals r).toNat) ++
  (selected f.live 48 16).flatMap (fun g => bytesOf 8 (Assoc.get 0#64 f.gs g).toNat)

/-- A flacon read from its bytes, for a destination core of this package. -/
def Flacon.ofBytes (bs : List Byte) (dest : Nat) : Flacon :=
  let v (o n : Nat) : Nat := natOf ((bs.drop o).take n)
  let d (o : Nat) : DWord := BitVec.ofNat 64 (v o 8)
  let loops := v 10 1
  let rets := v 9 1
  let live := d 40
  let tail := 80 + 24 * loops + 8 * rets
  let vs := selected live 0 32
  { resume := d 0, resumeIdx := v 8 1, rstack := (List.range rets).map (fun i => d (80 + 24 * loops + 8 * i)),
    lstack := (List.range loops).map (fun i => ⟨d (80 + 24 * i), d (88 + 24 * i), d (96 + 24 * i)⟩),
    member := (v 11 1).testBit 7, policy := v 11 1 / 4 % 4, width := 8 * 2 ^ (v 11 1 % 4),
    mode := BitVec.ofNat 32 (v 12 4), astat := BitVec.ofNat 5 (v 16 1), aten := BitVec.ofNat 5 (v 17 1),
    window := BitVec.ofNat 16 (v 18 2), nregs := v 20 2, domain := BitVec.ofNat 16 (v 22 2), lane := v 24 1,
    prio := v 25 1, companions := v 26 1, slot := v 27 1, gen := BitVec.ofNat 8 (v 28 1),
    serial := BitVec.ofNat 16 (v 30 2), core := v 32 2, package := v 34 2, live := live, workId := d 48, lineage := d 56,
    launch := v 64 8, block := d 72, empty := BitVec.ofNat 32 (v tail 4), preds := BitVec.ofNat 32 (v (tail + 4) 4),
    vals := vs.zipIdx.map (fun x => (x.1, BitVec.ofNat 32 (v (tail + 8 + 4 * x.2) 4))),
    gs := (selected live 48 16).zipIdx.map (fun x => (x.1, d (tail + 8 + 4 * vs.length + 8 * x.2))),
    destPkg := Config.packageNumber, dest := dest }

/-- The future whose handle stands in a register, in the bound register or in a copy, with its slot (R268). -/
def CoreSt.carriedAt? (k : CoreSt) (c : Nat) (st : Strand) (g : Nat) : Option (Nat × Future) :=
  match k.boundTo st.lineage g with
  | some x => some x
  | none =>
    let v := st.gr g
    if slice v 31 17 ≠ 0 ∨ slice v 16 8 ≠ c then none
    else ((Assoc.find k.futures (slice v 7 0)).filter fun f => f.serial == slice v 63 32).map fun f => (slice v 7 0, f)

/-- That future. -/
def CoreSt.carried? (k : CoreSt) (c : Nat) (st : Strand) (g : Nat) : Option Future := (k.carriedAt? c st g).map (·.2)

/-- The futures whose handles stand in the registers that a live mask selects, by slot and serial. -/
def CoreSt.takenBy (k : CoreSt) (c : Nat) (st : Strand) (live : DWord) : List (Nat × Nat) :=
  (selected live 48 16).filterMap fun g => (k.carriedAt? c st g).map fun x => (x.1, x.2.serial)

/-- What a flacon carries of a register: the status of the future whose handle stands there, else its value. -/
def CoreSt.carried (k : CoreSt) (c : Nat) (st : Strand) (g : Nat) : DWord :=
  match k.carried? c st g with
  | some f => f.status
  | none => st.gr g

/-- The flacon of a lane of a strand (R266, R268). The loop stack is that of the strand when the flacon is sent: where the
departing word is the last of a loop's end clause it is as R110 has left it, counted down or popped, while the thread resumes
at the next header, as R267 says (DESIGN CHOICE, log 79). -/
def laneFlacon (k : CoreSt) (c sl : Nat) (st : Strand) (d : Departure) (x : Dep) : Flacon :=
  let l := x.lane
  { resume := d.resume, resumeIdx := d.idx, rstack := st.group.rstack, lstack := st.group.lstack, member := d.stay,
    policy := st.group.policy, width := st.width, mode := st.group.mode, astat := st.group.astat,
    aten := st.group.aten, window := st.group.window, nregs := st.nregs, domain := st.domain, lane := l,
    prio := st.prio, companions := (d.deps.filter fun y => y.pkg == x.pkg && y.core == x.core).length, slot := sl,
    gen := k.gen sl, serial := st.group.depSerial, core := c, package := Config.packageNumber, live := d.live,
    workId := st.baseId + BitVec.ofNat 64 l, lineage := st.lineage, launch := st.launch, block := st.block,
    empty := (selected d.live 0 32).foldl (fun m r => if (st.vreg? r).isNone then m ||| (1#32 <<< r) else m) 0#32,
    preds := (selected d.live 32 16).foldl (fun m i => if (st.pr i).getLsbD l then m ||| (1#32 <<< i) else m) 0#32,
    vals := (selected d.live 0 32).map (fun r => (r, st.vlane r l)),
    gs := (selected d.live 48 16).map (fun g => (g, k.carried c st g)), destPkg := x.pkg, dest := x.core }

/-! ### Refusals (R270, R374) -/

/-- Where a lane would go: nowhere, unknown, a stack of this package, a stack of another package with whether a core of the
domain is near it and whether the row's bank set is in deep power-down, a named core. -/
inductive Bound where
  | stays
  | unknown
  | stack (n : Nat)
  | remote (pkg stack : Nat) (near deep : Bool)
  | core (n : Nat)
  deriving DecidableEq, Repr

/-- Whether the home of a reference is asked of another package (R271). -/
def asksHome (x : Nat) : Bool :=
  isFar x && farTier x != 3 && farPackage x != Config.packageNumber && decide (farPackage x < Config.domainPackages)

/-- What a departure has asked of other packages. -/
def Strand.asked (st : Strand) : Inquiry := st.inquiry.getD ⟨[], [], 0⟩

/-- What another package has answered of the home of a reference. -/
def Strand.farHome (st : Strand) (x : Nat) : Option (Option (Nat × Bool × Bool)) :=
  (st.asked.homes.find? fun a => a.pkg == farPackage x && a.block == farBlock x).bind HomeAsk.answer

/-- What a stack of another package has answered of slots for a number of threads. -/
def Strand.farSlots (st : Strand) (pkg stack n : Nat) : Option (Option Nat) :=
  (st.asked.slots.find? fun a => a.pkg == pkg && a.stack == stack && a.threads == n).bind SlotAsk.answer

/-- Whether the issuing core holds a scratch buffer of the strand's block. -/
def State.holdsScratch (s : State) (c : Nat) (st : Strand) : Bool :=
  st.member && ((List.range 8).map (· + 8 * (c / 8))).any fun k =>
    (s.core k).buffers.any fun b => b.heldFor c st.launch st.block

/-- Candidates of a domain near a stack (R264). -/
def State.nearCores (s : State) (dom : BitVec 16) (stack : Nat) : List Nat :=
  (List.range Config.cores).filter fun k => (s.domainEntry dom.toNat).cores.contains k && coreStack k == stack

/-- Whether the bank set behind a reference is in deep power-down. -/
def State.inDeep (s : State) (w : Who) (x : Nat) : Bool :=
  let pa := if isFar x then
      (let e := s.entryOf (farBlock x)
       if e.valid && e.tier == 0 then some e.slot else none)
    else match (s.translate w x .read).2 with
      | .ok pa => if pa < 2 ^ 39 then some pa else none
      | .error _ => none
  match pa with
  | some a => (s.bank (a / 2 ^ 30)).state == .deep
  | none => false

/-- The reason of Table 11-2, from 2 on, that refuses a lane bound somewhere; 0: none. -/
def State.refusal (s : State) (c : Nat) (st : Strand) (b : Bound) (ref : Nat) (live : DWord) (flagged : Bool) : Nat :=
  let blk := if st.member then s.block? st.launch st.block else none
  let keeps := match b, blk with
    | .core k, some x => x.occupies k
    | _, _ => false
  let noCore := match b with
    | .stack h => (s.nearCores st.domain h).isEmpty
    | .remote _ _ near _ => !near
    | .core k => !(s.domainEntry st.domain.toNat).cores.contains k
    | _ => false
  let outside := match b, blk with
    | .core k, some x => k / 8 == x.first / 8 && !x.occupies k
    | _, _ => false
  let deep := match b with
    | .stack _ => s.inDeep (st.who c) ref
    | .remote _ _ _ deep => deep
    | _ => false
  if noCore then 2
  else if deep then 3
  else if s.holdsScratch c st && !keeps then 4
  else if 2 ≤ slice st.group.gang 2 0 then 5
  else if 512 < flaconSize st.group.lstack.length st.group.rstack.length live then 6
  else if b = .unknown then 7
  else if st.mode ≠ .u then 8
  else if outside then 9
  else if flagged && st.flags != 0xFFF#12 then 10 else 0

/-- What becomes of a lane: refused for a reason, or bound for a package and core. -/
inductive Fate where
  | refused (reason : Nat)
  | departs (pkg core : Nat)
  deriving DecidableEq, Repr

/-- Free continuation slots of a core. -/
def State.freeConts (s : State) (c : Nat) : Nat := 256 - s.contSlots c

/-- The cores from the one after the steering unit's last choice on, wrapping (R264). -/
def fromAfter (last : Nat) (ks : List Nat) : List Nat :=
  ks.filter (fun k => decide (last < k)) ++ ks.filter (fun k => decide (k ≤ last))

/-- The core that takes n threads of a strand bound for a place; none: no candidate has the slots. Slots of another package
are those that it has granted (log 35). -/
def State.destination (s : State) (st : Strand) (b : Bound) (n : Nat) : Option (Nat × Nat) :=
  match b with
  | .stack h =>
    ((fromAfter (s.stackOf h).steer (s.nearCores st.domain h)).find? fun k => decide (n ≤ s.freeConts k)).map
      fun k => (Config.packageNumber, k)
  | .core k => if n ≤ s.freeConts k then some (Config.packageNumber, k) else none
  | .remote p h _ _ => ((st.farSlots p h n).getD none).map fun k => (p, k)
  | _ => none

/-- The first two steps of R374 on the lanes that would depart, in ascending order: each with its reason, 0 where it has an
origin slot. Those that the departure keeps already are its own. -/
def State.firstSteps (s : State) (c : Nat) (st : Strand) (live : DWord) (flagged : Bool) (ls : List (Nat × Bound × Nat)) :
    List (Nat × Bound × Nat) :=
  let step1 := ls.map fun x => (x.1, x.2.1, s.refusal c st x.2.1 x.2.2 live flagged)
  let kept := ((step1.filter fun x => x.2.2 == 0).map (·.1)).take (s.freeConts c + st.asked.held)
  step1.map fun x => (x.1, x.2.1, if x.2.2 == 0 && !kept.contains x.1 then 1 else x.2.2)

/-- The threads that the first two steps have left for a place. -/
def boundFor (xs : List (Nat × Bound × Nat)) (b : Bound) : Nat := (xs.filter fun y => y.2.2 == 0 && y.2.1 == b).length

/-- The third step of R374. -/
def State.decideFates (s : State) (c : Nat) (st : Strand) (live : DWord) (flagged : Bool) (ls : List (Nat × Bound × Nat)) :
    List (Nat × Bound × Fate) :=
  let xs := s.firstSteps c st live flagged ls
  xs.map fun x =>
    (x.1, x.2.1,
      if x.2.2 ≠ 0 then .refused x.2.2
      else match s.destination st x.2.1 (boundFor xs x.2.1) with
        | some (p, k) => .departs p k
        | none => .refused 1)

/-- The stacks of other packages that slots are wanted of: package, stack, threads. -/
def wanted (xs : List (Nat × Bound × Nat)) : List (Nat × Nat × Nat) :=
  ((xs.filter fun x => x.2.2 == 0).filterMap fun x => match x.2.1 with
    | .remote p h _ _ => some (p, h, boundFor xs x.2.1)
    | _ => none).dedup

/-- Whether every home that a departure asks for is known. -/
def Strand.homesKnown (st : Strand) (ls : List (Nat × Bound × Nat)) : Bool :=
  ls.all fun x => !asksHome x.2.2 || (st.farHome x.2.2).isSome

/-- What becomes of the lanes that would depart; none: other packages have not answered yet. -/
def State.fates? (s : State) (c : Nat) (st : Strand) (live : DWord) (flagged : Bool) (ls : List (Nat × Bound × Nat)) :
    Option (List (Nat × Bound × Fate)) :=
  if st.homesKnown ls &&
      (wanted (s.firstSteps c st live flagged ls)).all fun x => (st.farSlots x.1 x.2.1 x.2.2).isSome then
    some (s.decideFates c st live flagged ls)
  else none

/-- A request of a departure over the links: kind 64 for a home, 128 for slots (R355). -/
def State.askDeparture (s : State) (c sl kind op : Nat) (st : Strand) (pkg : Nat) (q : LinkAsk) : State × Nat :=
  s.ask pkg c op (kind + sl) ⟨Config.packageNumber, c, st.domain, st.keyid, st.mode, st.launch⟩ q

/-- Other packages are asked for the homes of references; once these are known, for slots, while the departure keeps its slots
of the origin core (R271, R374, R355; log 35). -/
def State.inquire (s : State) (c sl : Nat) (live : DWord) (flagged : Bool) (ls : List (Nat × Bound × Nat)) : State :=
  match s.strand? c sl with
  | none => s
  | some st =>
    let q := st.asked
    if !st.homesKnown ls then
      let xs := ((ls.filter fun x => asksHome x.2.2).map fun x => (farPackage x.2.2, farBlock x.2.2, x.2.2)).filter fun x =>
        !q.homes.any fun a => a.pkg == x.1 && a.block == x.2.1
      xs.foldl (fun s x =>
        if ((s.strand? c sl).map fun y => y.asked.homes.any fun a => a.pkg == x.1 && a.block == x.2.1) == some true then s
        else match s.askDeparture c sl 64 0 st x.1 (.home st.domain (BitVec.ofNat 64 x.2.2)) with
          | (s, n) => s.modStrand c sl fun y =>
            { y with inquiry := some { y.asked with homes := y.asked.homes ++ [⟨x.1, x.2.1, n, none⟩] } }) s
    else
      let xs := s.firstSteps c st live flagged ls
      let new := (wanted xs).filter fun x => !q.slots.any fun a => a.pkg == x.1 && a.stack == x.2.1 && a.threads == x.2.2
      let s := s.modStrand c sl fun y =>
        { y with inquiry := some { y.asked with held := (xs.filter fun x => x.2.2 == 0).length } }
      new.foldl (fun s x =>
        match s.askDeparture c sl 128 x.2.2 st x.1 (.slots st.domain x.2.1 x.2.2) with
        | (s, n) => s.modStrand c sl fun y =>
          { y with inquiry := some { y.asked with slots := y.asked.slots ++ [⟨x.1, x.2.1, x.2.2, n, none⟩] } }) s

/-! ### Departure (R268, R269) -/

/-- The lanes that depart. -/
def departing (fs : List (Nat × Bound × Fate)) : List Dep :=
  fs.filterMap fun x => match x.2.2 with
    | .departs p k => some ⟨x.1, p, k⟩
    | .refused _ => none

/-- The refused lanes with their reasons. -/
def refusedLanes (fs : List (Nat × Bound × Fate)) : List (Nat × Nat) :=
  fs.filterMap fun x => match x.2.2 with
    | .refused r => some (x.1, r)
    | .departs .. => none

/-- Slots that other packages granted and lanes take are the departure's; the others go back. -/
def State.takeGranted (s : State) (c sl : Nat) (fs : List (Nat × Bound × Fate)) : State :=
  let taken (a : SlotAsk) : Bool := (fs.filter fun x => match x.2.1, x.2.2 with
    | .remote p h _ _, .departs .. => p == a.pkg && h == a.stack
    | _, _ => false).length == a.threads
  (s.modStrand c sl fun st =>
    { st with inquiry := st.inquiry.map fun q => { q with slots := q.slots.filter fun a => !taken a } }).dropInquiry c sl

/-- The departure begins: refusals are counted, steering units move, slots are reserved, and the strand waits. -/
def State.beginDeparture (s : State) (c sl : Nat) (fs : List (Nat × Bound × Fate)) (live resume : DWord) (idx : Nat)
    (stay : Bool) : State :=
  let s := (refusedLanes fs).foldl (fun s x => s.count c (0x4010 + x.2)) s
  let s := s.takeGranted c sl fs
  let ds := departing fs
  if ds.isEmpty then s
  else
    let s := fs.foldl (fun s x => match x.2.1, x.2.2 with
      | .stack h, .departs _ k => s.modStack h fun y => { y with steer := k }
      | _, _ => s) s
    let s := ds.foldl (fun s x =>
      if x.pkg = Config.packageNumber then s.modCore x.core fun k => { k with reserved := k.reserved + 1 } else s) s
    let s := if s.writesDone c sl (maskOf (ds.map (·.lane))) then s else s.count c 0x4005
    s.modStrand c sl fun st =>
      { st with wait := .depart ⟨ds, live, (s.core c).takenBy c st live, resume, idx, stay⟩, region := none }

/-- The point after the word that issues (R267). -/
def Strand.nextPoint (st : Strand) : DWord × Nat :=
  match st.clause with
  | some k => if k.idx + 1 < k.words.length then (k.addr, k.idx + 1) else (k.next, 0)
  | none => (st.pc, 0)

/-- The live mask selects a register at or above N (R265). -/
def Strand.selectsBeyond (st : Strand) (live : DWord) : Bool := (selected live 0 32).any fun r => decide (st.nregs ≤ r)

/-- The block table entries that references of a list name are read (R271, R296). -/
def State.readHomes (s : State) (w : Who) (xs : List Nat) : State :=
  xs.foldl (fun s x =>
    if isFar x && farTier x != 3 && farPackage x == Config.packageNumber then (s.findBlock w (farBlock x)).1 else s) s

/-- GO, GOM and GOTO: *unwaited read* while a flag is clear (R268), then the checks, the fates, once other packages have
answered what they are asked, and the departure. -/
def departWord (i : Instr) (u : Use) (live : Strand → DWord) (trap : Bool)
    (lanes : Strand → State → List (Nat × Bound × Nat)) (stay : Strand → State → Bool) (s : State) : Result :=
  let unwaited := match s.here? with
    | some st => (checkWord st i u true).isNone && st.active != 0#64 && st.flags != 0xFFF#12
    | none => false
  match s.here?, unwaited with
  | some st, true => .next (s.trapWord st (faultIn st.active .unwaitedRead))
  | _, _ =>
    let fates (st : Strand) (s : State) := s.fates? s.cur.1 st (live st) false (lanes st s)
    issue i u {}
      (fun st s =>
        [if st.selectsBeyond (live st) then faultIn st.active .illegalInstruction else [],
         if trap then (refusedLanes ((fates st s).getD [])).map fun x => ⟨x.1, .migrationRefused, x.2⟩ else []])
      (fun st s =>
        match fates st s with
        | none => .error fun s => s.inquire s.cur.1 s.cur.2 (live st) false (lanes st s)
        | some fs =>
          let read := s.readHomes (st.who s.cur.1) ((lanes st s).map fun x => x.2.2)
          .ok (read.beginDeparture s.cur.1 s.cur.2 fs (live st) st.nextPoint.1 st.nextPoint.2 (stay st s), .seq))
      id s

/-- Where the reference of a lane sends it (R271): nowhere known where the block table entry cannot be read (R270), or while its
package has not answered. -/
def State.boundOf (s : State) (c : Nat) (st : Strand) (x : Nat) : Bound :=
  if x = 0 ∨ (isFar x ∧ farTier x = 3) ∨ (!isFar x ∧ x / 2 ^ 52 ≠ 0) then .unknown
  else if isFar x && farPackage x != Config.packageNumber then
    match st.farHome x with
    | some (some (h, near, deep)) => .remote (farPackage x) h near deep
    | _ => .unknown
  else if isFar x && !s.sectorGood (st.who c) (s.entrySector (farBlock x)) then .unknown
  else match s.homeOf (st.who c) x with
    | none => .unknown
    | some h => if h = coreStack c then .stays else .stack h

/-- The active lanes that would leave by the references in a register pair. -/
def goLanes (r : Nat) (st : Strand) (s : State) : List (Nat × Bound × Nat) :=
  ((lanesOf st.active).map fun l =>
    (l, s.boundOf s.cur.1 st (st.vpair r l).toNat, (st.vpair r l).toNat)).filter fun x => x.2.1 != .stays

/-- GO (R271). -/
def execGo (a : BitVec 7) (b : BitVec 6) (s : State) : Result :=
  let r := 2 * a.toNat
  departWord (.go a b) { aRegs := [r, r + 1], gRead := [b.toNat] } (fun st => st.gr b.toNat) false (goLanes r)
    (fun _ _ => false) s

/-- GOM (R271). -/
def execGom (a : BitVec 7) (b : BitVec 6) (s : State) : Result :=
  let r := 2 * a.toNat
  departWord (.gom a b) { aRegs := [r, r + 1], gRead := [b.toNat] } (fun st => st.gr b.toNat) true (goLanes r)
    (fun _ _ => false) s

/-- GOTO (R277): when the named core is the issuing one nothing moves. -/
def execGoto (d row col : BitVec 6) (sel : BitVec 1) (s : State) : Result :=
  let k := coreAt row.toNat col.toNat
  departWord (.goto d row col sel) { gRead := [d.toNat] } (fun st => st.gr d.toNat) (sel == 1#1)
    (fun st s => if k = s.cur.1 then [] else (lanesOf st.active).map fun l => (l, .core k, 0))
    (fun st s => match (if st.member then s.block? st.launch st.block else none) with
      | some b => b.occupies k
      | none => false) s

/-- GOPOL (R276). -/
def execGopol (imm : BitVec 16) (s : State) : Result :=
  issue (.gopol imm) {} {} noChecks (onStrand fun _ st => { st with group := { st.group with policy := imm.toNat } }) id s

/-- REJOIN (R278). -/
def execRejoin (imm : BitVec 16) (s : State) : Result :=
  issue (.rejoin imm) {} {} noChecks (onStrand fun _ st => { st with group := { st.group with window := imm } }) id s

/-! ### Implicit migration (R276) -/

/-- The mode register after the MODE and MEMMODE words that open a clause, and the first other word. A word that raises *illegal
mode* leaves the register as it was (R59). -/
def leadingModes (m : Word) : List Word → Word × Option Word
  | [] => (m, none)
  | w :: ws =>
    if slice w 31 24 = 0x01 then leadingModes (if slice w 6 3 ≤ 13 then putSlice m 0 16 (slice w 15 0) else m) ws
    else if slice w 31 24 = 0x02 then
      leadingModes (if slice w 15 13 ≤ 4 ∧ slice w 12 10 ≤ 4 then putSlice m 16 16 (slice w 15 0) else m) ws
    else (m, some w)

/-- The lane whose reference a lane of the access w uses: its own, but for LDROW and RATOM, which read that of the lowest active
lane only (R180, R181). -/
def refLane (w : Word) (act : LaneMask) (l : Nat) : Nat :=
  if slice w 31 24 = 0x78 ∨ slice w 31 24 = 0x79 then (lanesOf act).headD l else l

/-- The active lanes that implicit migration would send away from a clause, by the references of its access (R276). -/
def State.implicitLanes (s : State) (c : Nat) (st : Strand) (words : List Word) : List (Nat × Bound × Nat) :=
  let (m, w) := leadingModes st.group.mode words
  let w := w.getD 0#32
  let act := { st with group := { st.group with mode := m } }.active
  ((lanesOf act).map fun l =>
    let x := (st.vpair (slice w 15 8) (refLane w act l)).toNat
    (l, s.boundOf c st x, x)).filter fun x => x.2.1 != .stays && (st.group.policy == 2 || isFar x.2.2)

/-- IMPLICIT_MIGRATION: the clause that a strand is about to start is examined; qualifying lanes depart with all their
registers, refused lanes and those that stay execute it. The strand waits for what other packages are asked. -/
def execImplicitMigration (c sl : Nat) (s : State) : Result :=
  match s.strand? c sl with
  | none => .next s
  | some st =>
    match st.wait, st.clause with
    | .implicit, some k =>
      let lanes := s.implicitLanes c st k.words
      let live : DWord := ~~~ 0#64 &&& ~~~ (maskBelow 32 &&& ~~~ maskBelow st.nregs)
      match s.fates? c st live true lanes with
      | none => .next (s.inquire c sl live true lanes)
      | some fs =>
      let s := (s.readHomes (st.who c) (lanes.map fun x => x.2.2)).modStrand c sl fun x => { x with wait := .none }
      .next (s.beginDeparture c sl fs live k.addr 0 false)
    | .implicit, none => .next (s.modStrand c sl fun x => { x with wait := .none })
    | _, _ => .next s

/-! ### Sending (R236, R268, R269) -/

/-- Whether every future in a selected register is complete. -/
def CoreSt.carriedDone (k : CoreSt) (c : Nat) (st : Strand) (live : DWord) : Bool :=
  (selected live 48 16).all fun g => match k.carried? c st g with
    | some f => f.done
    | none => true

/-- Continuation slots hold what they held until they are filled again, the one released first before the others (R263;
DESIGN CHOICE, log 92). -/
def CoreSt.trimStale (k : CoreSt) : CoreSt :=
  { k with stale := k.stale.take (256 - k.origins.length - k.arrived.foldl (fun n a => n + a.flacons.length) 0) }

/-- A flacon sent to another package by its route, and the request whose answer is the acknowledgement (R355). -/
def State.sendFar (s : State) (f : Flacon) : State :=
  (s.openRequest f.destPkg f.core (64 * f.serial.toNat + f.lane) (512 + 64 * f.gen.toNat + f.slot)).1.sendTo f.destPkg
    (.flacon f.dest true f.bytes)

/-- The lanes of a departure that are still live, and the rest of it: their threads exited meanwhile (R269). -/
def Departure.part (d : Departure) (live : LaneMask) : Departure × Departure :=
  ({ d with deps := d.deps.filter fun x => live.getLsbD x.lane }, { d with deps := d.deps.filter fun x => !live.getLsbD x.lane })

/-- The flacons of a departure leave, each with the departure serial as this departure has raised it (R267; DESIGN CHOICE,
log 94); its lanes are departed, and have left the block unless they stay in it. -/
def State.sendFlacons (s : State) (c sl : Nat) (st : Strand) (d : Departure) : State :=
  let gone := maskOf (d.deps.map (·.lane))
  let st := { st.keepLanes gone with wait := .none, group := { st.group with depSerial := st.group.depSerial + 1#16 } }
  let fs := d.deps.map fun x => laneFlacon (s.core c) c sl st d x
  let n := fs.length
  let near := fs.filter fun f => f.destPkg == Config.packageNumber
  let far := fs.filter fun f => f.destPkg != Config.packageNumber
  let s := s.setStrand c sl { st with departed := st.departed ||| gone }
  let s := s.modCore c fun k => { k with origins := k.origins ++ fs }.trimStale
  let s := { s with transit := s.transit ++ near }
  let s := far.foldl State.sendFar s
  let s := s.modCore c CoreSt.reapAll
  let s := (s.count c 0x4000 n).count c 0x4002 (fs.foldl (fun (m : Nat) (f : Flacon) => m + f.size) 0)
  let leaves := st.member && !d.stay
  let s := if leaves then
      match s.block? st.launch st.block with
      | some b => State.reduceBy st.launch st.block n (s.setBlock { b with alive := b.alive - n })
      | none => s
    else s
  let s := if st.live &&& ~~~ gone == 0#64 then s.releaseSlot c sl else s
  if leaves then s.endBlockIfDone st.launch st.block else s

/-- FLACON_SEND: once the writes of the departing threads are performed, no gather of the strand still reads, its copies are
done and the futures carried complete, the flacons leave. A thread that exited meanwhile, in the handler of a trap, does not depart. -/
def execFlaconSend (c sl : Nat) (s : State) : Result :=
  match s.strand? c sl with
  | none => .next s
  | some st =>
    match st.wait with
    | .depart d =>
      let k := s.core c
      let s := s.unreserve (d.part st.live).2
      let d := (d.part st.live).1
      if d.deps.isEmpty then .next ((s.setStrand c sl { st with wait := .none }).modCore c CoreSt.reapAll)
      else if !s.writesDone c sl (maskOf (d.deps.map (·.lane))) || k.copies.any (fun q => q.slot == sl && q.gen == k.gen sl) ||
          k.gathers sl (k.gen sl) || !k.carriedDone c st d.live then
        .next (s.setStrand c sl { st with wait := .depart d })
      else .next (s.sendFlacons c sl st d)
    | _ => .next s

/-! ### Arrival (R272, R273) -/

/-- Whether two flacons are of one departure. -/
def Flacon.matchesOf (x y : Flacon) : Bool :=
  x.package == y.package && x.core == y.core && x.slot == y.slot && x.gen == y.gen && x.serial == y.serial

/-- A ready set put among the ready ones in the order of their windows' closing, after those of the same time (R274). -/
def putReady (a : Assembly) : List Assembly → List Assembly
  | [] => [a]
  | x :: xs => if x.ready && decide (x.closed ≤ a.closed) then x :: putReady a xs else a :: x :: xs

/-- Set i is ready at a time: it joins the ready ones. -/
def closeSet (xs : List Assembly) (i : Nat) (expired : Bool) (time : Nat) : List Assembly :=
  match xs[i]? with
  | none => xs
  | some a => putReady { a with ready := true, expired := expired, closed := time } (xs.eraseIdx i)

/-- The first set whose window has closed is made ready, up to a number of them. -/
def closeDue (now : Nat) : Nat → List Assembly → List Assembly
  | 0, xs => xs
  | n + 1, xs =>
    match xs.findIdx? fun a => !a.ready && a.due now with
    | some i => closeDue now n (closeSet xs i true ((xs[i]?.map Assembly.closes).getD 0))
    | none => xs

/-- A flacon joins the set of its departure whose window is open, or opens one; a set is ready when all companions have come. -/
def CoreSt.receive (k : CoreSt) (now : Nat) (f : Flacon) : CoreSt :=
  let full (a : Assembly) : Bool := match a.flacons with
    | [] => false
    | x :: _ => decide (x.companions ≤ a.flacons.length)
  let i := match k.arrived.findIdx? fun a => !a.ready && !a.due now && a.flacons.any fun y => y.matchesOf f with
    | some i => i
    | none => k.arrived.length
  let xs := match k.arrived[i]? with
    | some a => k.arrived.set i { a with flacons := a.flacons ++ [f] }
    | none => k.arrived ++ [⟨[f], now, false, false, 0⟩]
  { k with arrived := if (xs[i]?.map full) == some true then closeSet xs i false now else xs }.trimStale

/-- The origin's copy of a flacon given up (R263); its slot is not cleared. -/
def CoreSt.dropOrigin (k : CoreSt) (f : Flacon) : CoreSt :=
  { k with origins := k.origins.erase f, stale := if k.origins.contains f then f :: k.stale else k.stale }

/-- FLACON_ARRIVAL: flacon n in transit reaches its core. One whose check fails is re-assembled on its origin core. -/
def execFlaconArrival (n : Nat) (intact : Bool) (s : State) : Result :=
  match s.transit[n]? with
  | none => .next s
  | some f =>
    let s := { s with transit := s.transit.eraseIdx n }
    let s := s.modCore f.dest fun k => { k with reserved := k.reserved - 1 }
    if intact then
      let s := s.modCore f.dest fun k => (k.receive s.timePs f).count 0x4001
      .next { s with acks := s.acks ++ [f] }
    else .next (s.modCore f.core fun k => ((k.dropOrigin f).receive s.timePs f).count 0x401B)

/-- FLACON_ACKNOWLEDGE (R263): the origin gives up its copy. -/
def execFlaconAcknowledge (n : Nat) (s : State) : Result :=
  match s.acks[n]? with
  | none => .next s
  | some f => .next ({ s with acks := s.acks.eraseIdx n }.modCore f.core fun k => k.dropOrigin f)

/-- REASSEMBLY_WINDOW_EXPIRY: set n of a core is ready when its window has closed. -/
def execReassemblyWindowExpiry (c n : Nat) (s : State) : Result :=
  match (s.core c).arrived[n]? with
  | none => .next s
  | some a =>
    if a.ready || !a.due s.timePs then .next s
    else .next (s.modCore c fun k => { k with arrived := closeSet k.arrived n true a.closes })

/-! ### Forming a strand (R274, Table 11-3) -/

/-- The flacon of the lowest lane. -/
def lowestFlacon : List Flacon → Option Flacon
  | [] => none
  | f :: fs => match lowestFlacon fs with
    | some g => if g.lane < f.lane then some g else some f
    | none => some f

/-- The strand index of a thread, from the widths of its launch, or from its lineage (log 37). -/
def State.strandIndex (s : State) (f : Flacon) : Nat :=
  let n := launchName f.package f.launch
  match (if launchOwn n then Assoc.find s.launches n else none) with
  | some l => f.workId.toNat / 2 ^ (l.record.widths.getD 0 0) % 2 ^ (l.record.widths.getD 1 0)
  | none => f.lineage.toNat % 64

/-- The strand formed of flacons (Table 11-3). Its departure serial is that of a strand at dispatch (R267; DESIGN CHOICE,
log 101), and it is the youngest strand of the package (R101; DESIGN CHOICE, log 104). -/
def State.formed (s : State) (fs : List Flacon) (f : Flacon) : Strand :=
  let lanes := maskOf (fs.map (·.lane))
  let word (r l : Nat) : Word := match fs.find? fun x => x.lane == l with
    | some x => Assoc.get 0#32 x.vals r
    | none => 0#32
  let regs := (selected f.live 0 32).filter fun r => !f.empty.getLsbD r
  let pred (i : Nat) : LaneMask := maskOf ((fs.filter fun x => x.preds.getLsbD i).map (·.lane))
  let group : Group :=
    { g := Assoc.run 0#64 0 ((List.range 16).map fun i => Assoc.get 0#64 f.gs i), q := 0#16,
      k := Assoc.put 0#64 [] 0 lanes, mode := f.mode, rstack := f.rstack, lstack := f.lstack,
      astat := fs.foldl (fun m x => m ||| x.astat) 0#5, aten := fs.foldl (fun m x => m ||| x.aten) 0#5,
      policy := f.policy, window := f.window, phase := 1, gang := 0#64, batch := 1#32, depSerial := 0#16 }
  { launch := launchName f.package f.launch,
    block := f.block,
    sindex := s.strandIndex f, baseId := f.workId - BitVec.ofNat 64 f.lane, lineage := f.lineage,
    member := f.member && f.package == Config.packageNumber, width := f.width, nregs := f.nregs, prio := f.prio,
    codeBase := f.resume &&& 0xFFFFFFFF00000000#64, age := s.nextAge, passed := 0, urgent := false, pc := f.resume,
    pcIdx := f.resumeIdx % 8, clause := none, group := group, gpend := 0#64,
    v := regs.map (fun r => (r, .general ((List.range f.width).map (word r)))), vpend := 0#256,
    p := Assoc.run 0#64 0 ((List.range 16).map pred), flags := 0xFFF#12, exited := 0#64,
    departed := maskBelow f.width &&& ~~~ lanes, kept := [], names := [], issued := 0, stalled := 0,
    mode := .u, prevMode := .u, depth := 0,
    frames := [], trapCause := [], trapMask := 0#64, domain := f.domain,
    keyid := (s.domainEntry f.domain.toNat).key, preempt := none, region := none, inquiry := none,
    wait := .none }

/-- Whether a core has room for a strand of w threads and n registers without barriers or scratch (R100, R128, R274). -/
def CoreSt.roomFor (k : CoreSt) (w n : Nat) : Bool :=
  !k.freeSlots.isEmpty && decide (k.slots.foldl (fun m y => m + y.2.width) 0 + w ≤ 4096) &&
  decide (k.slots.foldl (fun m y => m + y.2.width * y.2.nregs) 0 + w * n ≤ 196608)

/-- STRAND_FORM: the set whose window closed first becomes a strand in the lowest free slot, when the core has room. Its
continuation slots are released, and not cleared (R263). -/
def execStrandForm (c : Nat) (s : State) : Result :=
  let s := s.modCore c fun k => { k with arrived := closeDue s.timePs k.arrived.length k.arrived }
  match (s.core c).arrived with
  | [] => .next s
  | a :: rest =>
    match lowestFlacon a.flacons with
    | none => .next (s.modCore c fun k => { k with arrived := rest })
    | some f =>
      if !a.ready || !(s.core c).roomFor f.width f.nregs then .next s
      else
        let sl := (s.core c).freeSlots.headD 0
        let st := s.formed a.flacons f
        let s := (s.modCore c fun k => { k with arrived := rest, stale := a.flacons ++ k.stale }).setStrand c sl st
        let s := { s with nextAge := s.nextAge + 1 }.count c 0x4003
        .next (if a.expired then s.count c 0x4004 else s)

end Sys2Proof.Machine
end

