-- ==== Sys2Proof/Machine/Service.lean ====
section
/-! DEFINITION. Kuenrex's services: pages, tables, executable images, the registers of the management side, maintenance
(R41, R42, R156-R160, R172, R286, R291, R292, R299, R300, R305, R350, R362-R368). -/

namespace Sys2Proof.Machine

/-! ### Pages (R300) -/

/-- A page of 64 KiB. -/
def pageBytes : Nat := 65536

/-- A physical page made zero, with good codes and no poison, and in tier 1 sealed with a key (log 39). -/
def State.freshPage (s : State) (key : BitVec 10) (p : Nat) : State :=
  let s := s.serve Who.nobody (p * pageBytes)
  let m := s.mem
  let m : Mem := { m with
    cells := m.cells.filter fun x => x.1 / pageBytes != p
    codeErr := m.codeErr.filter fun x => x.1 / 2048 != p
    poison := m.poison.filter fun n => n / 2048 != p }
  let m : Mem := if 2 ^ 40 ≤ p * pageBytes then
      let k := s.sealOf key
      { m with sealed := (List.range 256).foldl (fun q i => Assoc.set q (256 * p + i) k) m.sealed }
    else m
  { s with mem := m }

/-- Pages made zero and filled with bytes in order. -/
def State.fillPages (key : BitVec 10) : List Nat → List Byte → State → State
  | [], _, s => s
  | p :: ps, bs, s =>
    let s := s.freshPage key p
    let s := { s with mem := s.mem.poke (p * pageBytes) (bs.take pageBytes) }
    State.fillPages key ps (bs.drop pageBytes) s

/-- An entry of a page table (Table 12-7). -/
def pteWord (pa tier : Nat) (leaf user exec write : Bool) : Nat :=
  1 + (if leaf then 2 else 0) + (if write then 4 else 0) + (if exec then 8 else 0) + (if user then 16 else 0) +
  64 * tier + pa

/-- A page that Kuenrex holds becomes a page table. -/
def State.takeTable (s : State) : Option (State × Nat) :=
  match s.mgmt.pages with
  | [] => none
  | p :: ps => some ({ s with mgmt := { s.mgmt with pages := ps } }.freshPage 0#10 p, p * pageBytes)

/-- An entry of a page table written by Kuenrex, a part of a sector that must be good (R296); none where it is not. -/
def State.putEntry (s : State) (pa e : Nat) : Option State :=
  match s.writePhys Who.nobody pa (bytesOf 8 e) with
  | (s, .ok ()) => some s
  | (_, .error _) => none

/-- The level-3 table for an address below a table at a level, made where it is missing; none: a leaf stands in the way, an
entry cannot be read, or no page is left. -/
def State.reachTable (va : Nat) : Nat → Nat → Nat → State → Option (State × Nat)
  | 0, _, table, s => some (s, table)
  | fuel + 1, level, table, s =>
    let pa := table + 8 * levelIndex va level
    match s.readPhys Who.nobody pa 8 with
    | (_, .error _) => none
    | (s, .ok bs) =>
      let e := natOf bs
      if e.testBit 0 then
        if e.testBit 1 then none else State.reachTable va fuel (level + 1) (e / 4096 % 2 ^ 40 * 4096) s
      else match s.takeTable with
        | none => none
        | some (s, t) =>
          match s.putEntry pa (pteWord t 0 false false false false) with
          | none => none
          | some s => State.reachTable va fuel (level + 1) t s

/-- The stage-1 root of a domain, made where it is 0. -/
def State.rootOf (s : State) (dom : Nat) : Option (State × Nat) :=
  let d := s.domainEntry dom
  if d.root1 ≠ 0 then some (s, d.root1)
  else match s.takeTable with
    | none => none
    | some (s, t) => some ({ s with domains := Assoc.set s.domains dom { d with root1 := t } }, t)

/-- The leaf entry of one page of a domain written; its stage-1 tables lie at physical addresses (log 19). -/
def State.putLeaf (s : State) (dom va e : Nat) : Option State :=
  match s.rootOf dom with
  | none => none
  | some (s, root) =>
    match State.reachTable va 3 0 root s with
    | none => none
    | some (s, t) => s.putEntry (t + 8 * levelIndex va 3) e

/-- Pages mapped one after another from a virtual address on. -/
def State.mapPages (dom : Nat) (exec write : Bool) : Nat → List Nat → State → Option State
  | _, [], s => some s
  | va, p :: ps, s =>
    let pa := p * pageBytes
    match s.putLeaf dom va (pteWord pa ((tierOf pa).getD 0) true true exec write) with
    | none => none
    | some s => State.mapPages dom exec write (va + pageBytes) ps s

/-- Pages unmapped from a virtual address on; the TLBs forget them. -/
def State.unmapPages (s : State) (dom va n : Nat) : State :=
  let s := (List.range n).foldl (fun s i => (s.putLeaf dom (va + pageBytes * i) 0).getD s) s
  let gone (t : TlbEntry) : Bool :=
    t.domain == dom && !t.stage2 && decide (t.va < va + pageBytes * n) && decide (va < t.va + t.size)
  { s with cores := s.cores.map fun k => (k.1, { k.2 with tlb := k.2.tlb.filter fun t => !gone t }) }

/-- Whether places chosen for n bytes are fit for use: a page-aligned range inside the address space, and as many
distinct, backed pages that are not withheld. -/
def State.placesOk (s : State) (base : Nat) (pages : List Nat) (n : Nat) : Bool :=
  decide (0 < base) && base % pageBytes == 0 && decide (base + pageBytes * pages.length ≤ 2 ^ 52) &&
  pages.length == ceilDiv n pageBytes &&
  pages.all (fun p => (tierOf (p * pageBytes)).isSome && !s.boot.withheld.contains p) && decide pages.Nodup

/-! ### Tables (R156-R160, R172, R368) -/

/-- The homes a descriptor uses. -/
def TableDesc.used (d : TableDesc) : List Nat := d.homes.take d.homeCount

/-- The limits of Table 7-2. -/
def TableDesc.legal (d : TableDesc) : Bool :=
  let sec (i o : Nat) : Bool := !d.indexMask.testBit i || (o % 2 == 0 && decide (o + 2 ≤ d.payload / 4))
  decide (d.kind ≤ 3) && decide (d.indexMask < 16) &&
  (if d.kind = 2 then d.indexMask.testBit 0 || d.indexMask.testBit 1 else d.indexMask == 0) &&
  (List.range 8).all (fun i => !d.uniqueMask.testBit i || d.indexMask.testBit i) && decide (d.uniqueMask < 256) &&
  (!(d.indexMask.testBit 0 && d.indexMask.testBit 1) || d.uniqueMask.testBit 0 == d.uniqueMask.testBit 1) &&
  decide (d.tier ≤ 1) && (d.kind != 3 || d.tier == 0) &&
  decide (32 ≤ d.payload) && decide (d.payload ≤ 1024) && d.payload % 32 == 0 &&
  (d.node == 0 || (decide (4 ≤ d.node) && decide (d.node ≤ 255))) && sec 2 d.sec2 && sec 3 d.sec3 &&
  decide (1 ≤ d.homeCount) && decide (d.homeCount ≤ 8) && d.used.all (fun h => decide (h ≤ 7)) && decide d.used.Nodup &&
  d.used.length == d.homeCount && decide (d.capacity ≤ 2 ^ 32) && d.reserved == 0

/-- Rows that a table has room for (Table 7-2). -/
def TableDesc.rowCount (d : TableDesc) : Nat := if d.capacity = 0 then 65536 else d.capacity

/-- The stack that a tier-0 page lies on. -/
def pageStack (p : Nat) : Nat := p / 2 ^ 20

/-- Whether the pages of a row store keep R166: those of tier 0 lie on stacks of the home list, and the two pages of a row that
runs from one into the next lie on one stack. -/
def TableDesc.homesOk (d : TableDesc) (pages : List Nat) : Bool :=
  d.tier == 1 ||
  (pages.all (fun p => d.used.contains (pageStack p)) &&
   (d.kind == 0 || d.kind == 3 || (pages.zip pages.tail).zipIdx.all fun x =>
     pageBytes * (x.2 + 1) % d.payload == 0 || decide (d.rowCount * d.payload ≤ pageBytes * (x.2 + 1)) ||
     pageStack x.1.1 == pageStack x.1.2))

/-- Bytes of the row store of a table; a paged table's holds its first-stage table (log 24). -/
def TableDesc.storeBytes (d : TableDesc) : Nat :=
  if d.kind = 3 then 8 * d.rowCount else d.rowCount * d.payload

/-- Whether two ranges of pages meet. -/
def pagesMeet (a n b m : Nat) : Bool := decide (a < b + pageBytes * m) && decide (b < a + pageBytes * n)

/-- Whether a place is that of a row store, of a table or of a destroyed one whose range is not free yet (R160). -/
def State.storeTaken (s : State) (dom base : Nat) (pages : List Nat) : Bool :=
  let stores : List (Table × Bool) := s.tables.map (fun t => (t.2, false)) ++ s.oldStores.map fun o => (o.table, o.returned)
  stores.any fun t =>
    (t.1.domain == dom && pagesMeet base pages.length t.1.base t.1.pages.length) ||
    (!t.2 && pages.any fun p => t.1.pages.contains p)

/-- The lowest local number that names no table (R368). -/
def State.freeNumber (s : State) : Option Nat :=
  (List.range 65535).findSome? fun i => if (Assoc.find s.tables (i + 1)).isNone then some (i + 1) else none

/-- The selector of a table's first index (R157). -/
def Table.firstIndex (t : Table) : Nat := if t.desc.kind = 2 && !t.hasIndex 0 then 1 else 0

/-- Generation of a table number (R158). -/
def State.tableGen (s : State) (n : Nat) : Nat := Assoc.get 1 s.tableGens n

/-- A table made by the service: its number, or the reason for a refusal: 1 a field outside its limits, 2 a tier that is
not fitted, 3 no number, store or range (R157). -/
def State.makeTable (s : State) (dom : Nat) (d : TableDesc) (base : Nat) (pages : List Nat) : State × Except Nat Nat :=
  if !d.legal then (s, .error 1)
  else if d.tier = 1 ∧ Config.tier1Bytes = 0 then (s, .error 2)
  else if !s.placesOk base pages d.storeBytes || s.storeTaken dom base pages ||
      pages.any (fun p => tierOf (p * pageBytes) != some d.tier) || !d.homesOk pages then (s, .error 3)
  else match s.freeNumber with
    | none => (s, .error 3)
    | some n =>
      match State.mapPages dom false true base pages s with
      | none => (s, .error 3)
      | some s =>
        let key := (s.domainEntry dom).key
        let s := State.fillPages key pages [] s
        let t : Table :=
          { gen := s.tableGen n, domain := dom, desc := d, base := base, pages := pages, rows := [], hash := [],
            prim := ⟨[], []⟩, sec2 := ⟨[], []⟩, sec3 := ⟨[], []⟩, counters := [] }
        ({ s with tables := Assoc.set s.tables n t }, .ok n)

/-- The handle of a table's first index (R157); 0 where there is no such table. -/
def State.handleOf (s : State) (n : Nat) : DWord :=
  match Assoc.find s.tables n with
  | some t => makeHandle Config.packageNumber n t.firstIndex t.gen
  | none => 0#64

/-- TABLE_CREATE (R157). -/
def execTableCreate (dom : Nat) (desc : TableDesc) (base : Nat) (pages : List Nat) (s : State) : Result :=
  if !s.kuenrex then .next s
  else
    match s.makeTable dom desc base pages with
    | (s, .error k) => .next (s.notify (.tableRefused k))
    | (s, .ok n) => .next (s.notify (.tableCreated (s.handleOf n)))

/-- The generation that follows (R158). -/
def nextGen (g : Nat) : Nat := if (g + 1) % 2 ^ 24 = 0 then 1 else (g + 1) % 2 ^ 24

/-- A table destroyed (R160): its row store waits for the launches now running. -/
def State.destroyTable (s : State) (n : Nat) : State :=
  match Assoc.find s.tables n with
  | none => s
  | some t =>
    { s with
      tables := Assoc.erase s.tables n
      tableGens := Assoc.set s.tableGens n (nextGen (s.tableGen n))
      oldStores := s.oldStores ++ [⟨t, n, s.running, false⟩] }

/-- TABLE_DESTROY (R160). -/
def execTableDestroy (num : Nat) (s : State) : Result := if s.kuenrex then .next (s.destroyTable num) else .next s

/-- Whether none of a list of launches runs. -/
def State.allDone (s : State) (ls : List Nat) : Bool := ls.all fun n => !s.running.contains n

/-- TABLE_STORE_RETURN (R160): the store goes back to the supervisor and its range is unmapped; later its range is free. -/
def execTableStoreReturn (n : Nat) (s : State) : Result :=
  match s.oldStores[n]? with
  | none => .next s
  | some o =>
    if !s.allDone o.running then .next s
    else if o.returned then .next { s with oldStores := s.oldStores.eraseIdx n }
    else
      let s := s.unmapPages o.table.domain o.table.base o.table.pages.length
      let o' : OldStore := { o with running := s.running, returned := true }
      .next { s with oldStores := s.oldStores.set n o' }

/-- ROW_STORAGE_FREE (R172): the storage of a deleted row is free once the launches then running have completed. -/
def execRowStorageFree (num row : Nat) (s : State) : Result :=
  .next (s.modTable num fun t =>
    let x := t.rowAt row
    match x.state with
    | .deleted ls => if s.allDone ls then { t with rows := Assoc.set t.rows row { x with state := .free } } else t
    | _ => t)

/-! ### Executable images (R41, R42, R365, R366) -/

/-- A little-endian field of an image. -/
def fieldAt (bs : List Byte) (off n : Nat) : Nat := natOf ((bs.drop off).take n)

/-- The offsets and lengths of the six sections after the header: two words each, from byte 8 on (Table 2-4; log 60). -/
def sectionPlaces (bs : List Byte) : List (Nat × Nat) :=
  (List.range 6).map fun i => (fieldAt bs (8 + 8 * i) 4, fieldAt bs (12 + 8 * i) 4)

/-- Whether sections stand in order from a byte on, each aligned to 4,096 bytes, within n bytes (R41). -/
def sectionsInOrder (n : Nat) : Nat → List (Nat × Nat) → Bool
  | _, [] => true
  | at_, x :: xs => x.1 % 4096 == 0 && decide (at_ ≤ x.1) && decide (x.1 + x.2 ≤ n) && sectionsInOrder n (x.1 + x.2) xs

/-- A table descriptor (Table 7-2). -/
def TableDesc.ofBytes (bs : List Byte) : TableDesc :=
  let v := fieldAt bs
  { kind := v 0 1, indexMask := v 1 1, uniqueMask := v 2 1, tier := v 3 1, payload := v 4 2, node := v 6 2, sec2 := v 8 2,
    sec3 := v 10 2, homes := (List.range 8).map fun i => v (16 + i) 1, homeCount := v 12 1, capacity := v 24 8,
    reserved := v 13 3 + v 32 32 }

/-- n row images of a payload: the key in 8 bytes, then the payload words (log 60). -/
def rowImages (payload : Nat) : Nat → List Byte → List RowImage
  | 0, _ => []
  | n + 1, bs => ⟨fieldAt bs 0 8, wordsOf (payload / 4) (bs.drop 8)⟩ :: rowImages payload n (bs.drop (8 + payload))

/-- The tables of a section: for each its descriptor, the number of its row images, and those (log 60); none where the section
ends within one. -/
def imageTables : Nat → List Byte → Option (List ImageTable)
  | 0, bs => if bs.isEmpty then some [] else none
  | fuel + 1, bs =>
    if bs.isEmpty then some []
    else
      let d := TableDesc.ofBytes bs
      let n := fieldAt bs 64 4
      let size := 68 + n * (8 + d.payload)
      if bs.length < size then none
      else (imageTables fuel (bs.drop size)).map fun ts => ⟨d, rowImages d.payload n (bs.drop 68)⟩ :: ts

/-- The scratch images of a section (Table 2-4): of each its core in the cluster, its offset and its length in 4 bytes each,
then its bytes, with no padding between two (DESIGN CHOICE, log 60). -/
def scratchImages : Nat → List Byte → Option (List ScratchImage)
  | 0, bs => if bs.isEmpty then some [] else none
  | fuel + 1, bs =>
    if bs.isEmpty then some []
    else
      let n := fieldAt bs 8 4
      if bs.length < 12 + n then none
      else (scratchImages fuel (bs.drop (12 + n))).map fun xs =>
        ⟨fieldAt bs 0 4, fieldAt bs 4 4, (bs.drop 12).take n⟩ :: xs

/-- The sections of an image (R41, Table 2-4); none where its magic or its format version is another, a section is out of
place, or ends within a record (DESIGN CHOICE, log 60: the loader refuses such an image). -/
def Image.sections (x : Image) : Option Sections :=
  let bs := x.bytes
  let ps := sectionPlaces bs
  let part (i : Nat) : List Byte := match ps[i]? with
    | some p => (bs.drop p.1).take p.2
    | none => []
  let whole (i k : Nat) : Bool := (part i).length % k == 0
  if bs.length < 56 ∨ fieldAt bs 0 4 ≠ 0x4F4C3458 ∨ fieldAt bs 4 4 ≠ 1 ∨ !sectionsInOrder bs.length 56 ps ∨
      !whole 0 4 ∨ !whole 2 128 ∨ !whole 5 8 then none
  else match imageTables (part 3).length (part 3), scratchImages (part 4).length (part 4) with
    | some ts, some xs => some
      { text := wordsOf ((part 0).length / 4) (part 0), data := part 1, records := part 2, tables := ts, scratch := xs,
        relocs := (List.range ((part 5).length / 8)).map fun i =>
          (fieldAt (part 5) (8 * i) 4, fieldAt (part 5) (8 * i + 4) 4) }
    | _, _ => none

/-- Word positions of a text that hold instructions: every word that is not a clause header. A word of zeros where a header would
stand is padding of `.align`, as no header is zero (R46, rule 6; Table 2-3; DEDUCED, log 60). -/
def instrSlots : Nat → Nat → List Word → List Nat
  | 0, _, _ => []
  | _ + 1, _, [] => []
  | fuel + 1, at_, h :: ws =>
    let n := if h = 0#32 then 0 else slice h 3 1 + 1
    ((List.range (ws.take n).length).map fun i => at_ + 1 + i) ++ instrSlots fuel (at_ + 1 + n) (ws.drop n)

/-- Whether a word names a core: BGIVE or GOTO. -/
def isPlaceWord (w : Word) : Bool := slice w 31 24 == 0x8C || slice w 31 24 == 0xB2

/-- Row and column fields of a C-format word (R50). -/
def placeOf (w : Word) : Nat × Nat := (slice w 15 10, slice w 9 4)

/-- The word with its place on another cluster (R42). -/
def relocated (m : List (Nat × Nat)) (w : Word) : Word :=
  let (row, col) := placeOf w
  let k := coreAt row col
  let c := Assoc.get (k / 8) m (k / 8)
  let i := k % 8
  putSlice (putSlice w 10 6 (4 * (c / 10) + i / 2)) 4 6 (2 * (c % 10) + i % 2)

/-- Whether the relocation records of an image are those of its place words (R42). A cluster map that names a cluster which
does not exist refuses the image too, and so does a record of kind 1 whose second word has another bit set (DESIGN CHOICE,
log 60). -/
def Sections.relocsOk (x : Sections) (clusterMap : List (Nat × Nat)) : Bool :=
  let slots := instrSlots (x.text.length + 1) 0 x.text
  let places := slots.filter fun i => isPlaceWord (x.text.getD i 0#32)
  let offs := x.relocs.map (·.1)
  decide offs.Nodup && x.relocs.all (fun r => r.1 % 4 == 0 && r.2 == 1 && places.contains (r.1 / 4)) &&
  places.all (fun i => offs.contains (4 * i)) &&
  places.all (fun i => let p := placeOf (x.text.getD i 0#32); decide (p.1 ≤ 15) && decide (p.2 ≤ 19)) &&
  clusterMap.all fun c => decide (c.1 < 40) && decide (c.2 < 40)

/-- The text with every place word rewritten. -/
def Sections.relocate (x : Sections) (clusterMap : List (Nat × Nat)) : List Word :=
  x.relocs.foldl (fun ws r => ws.set (r.1 / 4) (relocated clusterMap (ws.getD (r.1 / 4) 0#32))) x.text

/-- Bytes of a number put at an offset. -/
def patch (bs : List Byte) (off v : Nat) : List Byte := bs.take off ++ bytesOf 8 v ++ bs.drop (off + 8)

/-- One row image of a table put in (R366): an insertion at the table's engine, or a dense row written; false: refused. -/
def State.loadRow (s : State) (n : Nat) (r : RowImage) : State × Bool :=
  match Assoc.find s.tables n with
  | none => (s, false)
  | some t =>
    let w : Who := ⟨0, BitVec.ofNat 16 t.domain, (s.domainEntry t.domain).key, .s, 0⟩
    if t.desc.kind = 2 then
      match s.insertKey w n t false r.key r.words with
      | (s, .ref ref) => (s, ref != 0)
      | (s, _) => (s, false)
    else if t.desc.kind = 1 && decide (r.key < t.rowCap) then
      match s.writeRow w t r.key (t.payloadOf r.words) with
      | (s, c) => (s, c.isNone)
    else (s, false)

/-- Row images put in, in order, until one is refused. -/
def State.loadRows (n : Nat) : List RowImage → State → State × Bool
  | [], s => (s, true)
  | r :: rs, s =>
    match s.loadRow n r with
    | (s, true) => State.loadRows n rs s
    | (s, false) => (s, false)

/-- The tables of an image created and filled in order: their numbers, and whether all were accepted. -/
def State.loadTables (dom : Nat) : List (ImageTable × (Nat × List Nat)) → List Nat → State → State × List Nat × Bool
  | [], ns, s => (s, ns, true)
  | (x, base, pages) :: rest, ns, s =>
    match s.makeTable dom x.desc base pages with
    | (s, .error _) => (s, ns, false)
    | (s, .ok n) =>
      match State.loadRows n x.rows s with
      | (s, false) => (s, ns ++ [n], false)
      | (s, true) => State.loadTables dom rest (ns ++ [n]) s

/-- A section of an image: placed at a base, its pages filled and mapped. -/
def State.placeSection (s : State) (dom base : Nat) (pages : List Nat) (exec write : Bool) (bs : List Byte) : Option State :=
  if bs.isEmpty && pages.isEmpty then some s
  else if !s.placesOk base pages bs.length || s.storeTaken dom base pages then none
  else match State.mapPages dom exec write base pages s with
    | none => none
    | some s => some (State.fillPages (s.domainEntry dom).key pages bs s)

/-- The sections of an image placed, with handles and addresses filled in (R40, R365) where the loader is told: no section of
Table 2-4 lists the places, which come beside the bytes and are not checked (DESIGN CHOICE, log 60). Text pages may be
executed and not written, pages of data and of launch records written and not executed, all of them in U mode (DESIGN
CHOICE, log 60). -/
def State.placeImage (s : State) (x : Image) (p : Sections) (handles : List DWord) : Option State :=
  let data := x.dataTables.foldl (fun bs d => patch bs d.1 (handles.getD d.2 0#64).toNat) p.data
  let data := x.dataRecords.foldl (fun bs d => patch bs d.1 (x.recordBase + 128 * d.2)) data
  let oneRegion : Bool := x.textBase / 2 ^ 32 == (x.textBase + 4 * p.text.length - 1) / 2 ^ 32
  if !oneRegion || !decide (x.textPages ++ x.dataPages ++ x.recordPages).Nodup then none
  else match s.placeSection x.domain x.textBase x.textPages true false (bytesOfWords (p.relocate x.clusterMap)) with
    | none => none
    | some s =>
      match s.placeSection x.domain x.dataBase x.dataPages false true data with
      | none => none
      | some s => s.placeSection x.domain x.recordBase x.recordPages false true p.records

/-- An image read from its sections is loaded, or refused; a refused image's tables are destroyed. -/
def State.loadSections (s : State) (img : Image) (p : Sections) : State :=
  if !p.relocsOk img.clusterMap || p.tables.length != img.tableBases.length then s.notify .imageRefused
  else
    match State.loadTables img.domain (p.tables.zip img.tableBases) [] s with
    | (s, ns, false) => (ns.foldl State.destroyTable s).notify .imageRefused
    | (s, ns, true) =>
      let handles := ns.map s.handleOf
      match s.placeImage img p handles with
      | none => (ns.foldl State.destroyTable s).notify .imageRefused
      | some s =>
        let x : Program := ⟨BitVec.ofNat 16 img.domain, img.recordBase, p.records.length / 128, p.scratch⟩
        { s with mgmt := { s.mgmt with programs := s.mgmt.programs ++ [x] } }.notify (.imageLoaded handles)

/-- IMAGE_LOAD (R42). -/
def execImageLoad (img : Image) (s : State) : Result :=
  if !s.kuenrex then .next s
  else match img.sections with
    | none => .next (s.notify .imageRefused)
    | some p => .next (s.loadSections img p)

/-! ### Registers of the management side -/

/-- The domain table entry of a domain changed. -/
def State.modDomain (s : State) (dom : Nat) (f : Domain → Domain) : State :=
  { s with domains := Assoc.set s.domains dom (f (s.domainEntry dom)) }

/-- A window on device memory changed: base, size, target, key identifier. -/
def State.modWindow (s : State) (n : Nat) (f : Nat × Nat × Nat × Nat → Nat × Nat × Nat × Nat) : State :=
  { s with links := { s.links with windows := Assoc.set s.links.windows n (f (Assoc.get (0, 0, 0, 0) s.links.windows n)) } }

/-- A Dolmond port taken down and reported, or brought up by Kuenrex (R354). -/
def State.setPort (s : State) (n : Nat) (up : Bool) : State :=
  if n < 16 then s.putPort n (if up then { Port.reset with up := true } else { s.port n with up := false }) else s

/-- The pages that a slot of a size class lies in. -/
def slotPages (slot cls : Nat) : List Nat :=
  (List.range ((slot + 4096 * (cls + 1) - 1) / pageBytes - slot / pageBytes + 1)).map (· + slot / pageBytes)

/-- A key slot whose keys are no longer accepted (R350). -/
def KeySlot.revoke (k : KeySlot) : KeySlot := { k with revoked := true }

/-- The fused minimum of a stage raised, never lowered (R350). -/
def Fuses.raise (f : Fuses) (stage : Nat) (v : BitVec 16) : Fuses :=
  { f with minimum := Assoc.set f.minimum stage (if (Assoc.get 0#16 f.minimum stage).toNat < v.toNat then v
      else Assoc.get 0#16 f.minimum stage) }

/-- One 64-bit word of physical memory written by the management cores. -/
def State.writeMemory (s : State) (pa : Nat) (v : DWord) : State :=
  if pa % 8 = 0 ∧ (tierOf pa).isSome then (s.writePhys Who.nobody pa (bytesOf 8 v.toNat)).1 else s

/-- MGMT_REGISTER_WRITE: Kuenrex writes once stage 2 is ready (R349). A fused minimum only rises (R350), a withheld page is not
given out (R299). -/
def execMgmtRegisterWrite (r : MgmtReg) (v : BitVec 64) (s : State) : Result :=
  let n := v.toNat
  if !s.kuenrex then .next s
  else match r with
  | .memory pa => .next (s.writeMemory pa v)
  | .domainRoot1 dom => .next (s.modDomain dom fun d => { d with root1 := n })
  | .domainRoot2 dom => .next (s.modDomain dom fun d => { d with root2 := n })
  | .domainKey dom => .next (s.modDomain dom fun d => { d with key := v.setWidth 10 })
  | .domainCore dom core => .next (s.modDomain dom fun d =>
      { d with cores := if n = 0 then d.cores.filter (· != core) else insertNat core d.cores })
  | .trapBase core => .next (s.modCore core fun k => { k with trapBase := field64 v 51 2 })
  | .trapFrame core => .next (s.modCore core fun k => { k with trapFrame := field64 v 51 8 })
  | .hTrapBase core => .next (s.modCore core fun k => { k with hTrapBase := field64 v 51 20 })
  | .blockTableBase => .next { s with blockBase := n }
  | .freeSlot stack cls =>
    if n % 4096 = 0 ∧ stack < 8 ∧ cls < 8 ∧ (slotPages n (cls % 4)).all (fun p => !s.boot.withheld.contains p) then
      .next (s.modStack stack fun x => x.setSlots (cls / 4) (cls % 4) (x.slots (cls / 4) (cls % 4) ++ [n]))
    else .next s
  | .kuenrexPage =>
    if s.boot.withheld.contains n then .next s
    else .next { s with mgmt := { s.mgmt with pages := s.mgmt.pages ++ [n] } }
  | .newKeys id => .next { s with keyEpoch := Assoc.set s.keyEpoch id (Assoc.get 0 s.keyEpoch id + 1) }
  | .badPage => .next { s with boot := { s.boot with badPages := insertNat n s.boot.badPages } }
  | .fuseMinimum stage => .next { s with boot := { s.boot with fuses := s.boot.fuses.raise stage (v.setWidth 16) } }
  | .fuseRevoke slot =>
    let xs := s.boot.fuses.slots
    let f : Fuses := { s.boot.fuses with slots := xs.set! slot ((xs[slot]?.map KeySlot.revoke).getD ⟨0#384, 0#384, true⟩) }
    .next { s with boot := { s.boot with fuses := f } }
  | .route package => .next { s with links := { s.links with routes := Assoc.put 0 s.links.routes package n } }
  | .port i => .next (s.setPort i (n != 0))
  | .hostWindowBase i => .next (s.modWindow i fun w => (n, w.2))
  | .hostWindowSize i => .next (s.modWindow i fun w => (w.1, n, w.2.2))
  | .hostWindowTarget i => .next (s.modWindow i fun w => (w.1, w.2.1, n, w.2.2.2))
  | .hostWindowKey i => .next (s.modWindow i fun w => (w.1, w.2.1, w.2.2.1, n))
  | .armTrap => .next { s with freeze := { s.freeze with armedTrap := if n < 256 then some n else none } }
  | .armQueue => .next { s with freeze := { s.freeze with armedQueue := n != 0 } }
  | .armCycleCore =>
    .next { s with freeze := { s.freeze with
      armedCore := n
      armedCycle := if n < Config.cores then s.freeze.armedCycle else none } }
  | .armCycleValue => .next { s with freeze := { s.freeze with armedCycle := some n } }
  | .maintenanceWindow =>
    .next { s with mgmt := { s.mgmt with maintenance := n != 0, window := s.mgmt.window && n != 0 } }

/-- The frequency margin that firmware plans for a core from its latest sample (R362; a free value, log 81). -/
def State.plannedMargin (s : State) (core : Nat) : Nat :=
  match (s.boot.history.filter fun x => x.core == core).getLast? with
  | some x => Config.plannedMargin x.ring x.path
  | none => Config.plannedMargin 0 0

/-- MAINTENANCE_REPLAN (R362, R363): within an open window, which starts with it at the latest, a core's voltage and
frequency margin are planned anew and reported; one that can no longer hold 800 MHz is degraded. -/
def execMaintenanceReplan (core newMillivolt date : Nat) (holds : Bool) (s : State) : Result :=
  if !s.kuenrex || !s.windowOpen || decide (Config.cores ≤ core) then .next s
  else
    let old := Assoc.get 0 s.mgmt.millivolt core
    let s := s.notify (.replan core old newMillivolt date)
    let s := { s with mgmt := { s.mgmt with
      window := true
      millivolt := Assoc.set s.mgmt.millivolt core newMillivolt
      margin := Assoc.set s.mgmt.margin core (s.plannedMargin core) } }
    if holds then .next s
    else .next ({ s with mgmt := { s.mgmt with degraded := insertNat core s.mgmt.degraded } }.notify (.degraded core))

/-- The ring oscillators and path monitors of a core show other values: what ageing does (R362). -/
def State.setSensor (s : State) (core ring path : Nat) : State :=
  { s with mgmt := { s.mgmt with sensors := Assoc.set s.mgmt.sensors core (ring, path) } }

/-- Firmware, once it runs (R349), samples a core's oscillators and monitors; the history stands in the boot flash (R362). -/
def State.sample (s : State) (core date : Nat) : State :=
  let v := Assoc.get (0, 0) s.mgmt.sensors core
  if s.kuenrex then { s with boot := { s.boot with history := s.boot.history ++ [⟨core, v.1, v.2, date⟩] } } else s

end Sys2Proof.Machine
end

