-- ==== Sys2Proof/Machine/Table.lean ====
section
/-! DEFINITION. The instructions of table space and scratch that become operations, CCLOSE, POST and FENCE, and the
steps that perform operations (R166-R188, R207, R225, R347). -/

namespace Sys2Proof.Machine

/-- LKP (R170). -/
def execLkp (d a : BitVec 7) (b : BitVec 6) (s : State) : Result := execOp (.lkp d a b) s
/-- INS (R171). -/
def execIns (d a : BitVec 7) (b : BitVec 6) (s : State) : Result := execOp (.ins d a b) s
/-- UPS (R171). -/
def execUps (d a : BitVec 7) (b : BitVec 6) (s : State) : Result := execOp (.ups d a b) s
/-- DEL (R173). -/
def execDel (d a : BitVec 7) (b : BitVec 6) (s : State) : Result := execOp (.del d a b) s
/-- REKEY (R174). -/
def execRekey (d a : BitVec 7) (b : BitVec 6) (s : State) : Result := execOp (.rekey d a b) s
/-- LD (R176). -/
def execLd (d : BitVec 8) (a : BitVec 7) (off : BitVec 8) (s : State) : Result := execOp (.ld d a off) s
/-- ST (R177). -/
def execSt (d : BitVec 8) (a : BitVec 7) (off : BitVec 8) (s : State) : Result := execOp (.st d a off) s
/-- ATOM (R179). -/
def execAtom (d : BitVec 8) (a : BitVec 7) (off : BitVec 8) (s : State) : Result := execOp (.atom d a off) s
/-- LDROW (R181). -/
def execLdrow (d : BitVec 8) (a : BitVec 7) (b : BitVec 6) (s : State) : Result := execOp (.ldrow d a b) s
/-- RATOM (R180). -/
def execRatom (d : BitVec 8) (a : BitVec 7) (off : BitVec 8) (s : State) : Result := execOp (.ratom d a off) s
/-- COPEN (R184). -/
def execCopen (d : BitVec 8) (a : BitVec 7) (b : BitVec 6) (s : State) : Result := execOp (.copen d a b) s
/-- CSTEP (R185). -/
def execCstep (d : BitVec 7) (a : BitVec 8) (s : State) : Result := execOp (.cstep d a) s
/-- CSTEPN (R185). -/
def execCstepn (d : BitVec 7) (a : BitVec 8) (s : State) : Result := execOp (.cstepn d a) s
/-- CSEEK (R187). -/
def execCseek (d : BitVec 8) (a : BitVec 7) (s : State) : Result := execOp (.cseek d a) s
/-- SLD (R207). -/
def execSld (d a off : BitVec 8) (s : State) : Result := execOp (.sld d a off) s
/-- SST (R207). -/
def execSst (d a off : BitVec 8) (s : State) : Result := execOp (.sst d a off) s
/-- SATOM (R207). -/
def execSatom (d a off : BitVec 8) (s : State) : Result := execOp (.satom d a off) s

/-- CCLOSE (R188): valid handles of the active lanes free their slots at issue. As nothing of it returns later it takes no
table request entry (R167; DESIGN CHOICE, log 98). A step of a cursor that is still in flight then finds its handle stale (DESIGN
CHOICE, log 105). -/
def execCclose (a : BitVec 8) (s : State) : Result :=
  issue (.cclose a) { aRegs := [a.toNat] } {} noChecks
    (fun st s =>
      let c := s.cur.1
      .ok ((lanesOf st.active).foldl (fun s l =>
        match (s.core c).cursor? s.cur.2 ((s.core c).gen s.cur.2) (st.vlane a.toNat l) with
        | some (i, _) => s.modCore c fun k => { k with cursors := Assoc.erase k.cursors i }
        | none => s) s, .seq)) id s

/-- FENCE (R225): it stands in the strand's order until every older operation is performed; rlx has no effect. -/
def execFence (s : State) : Result :=
  issue .fence {}
    { types := (match modeScope s.modeWord with
        | .row => false
        | _ => true),
      ends := (modeOrder s.modeWord).releases }
    noChecks
    (fun st s =>
      let c := s.cur.1
      let o := { newOp .fence st s.cur.2 ((s.core c).gen s.cur.2) with todo := 0#64 }
      .ok (if ((s.core c).strandOps s.cur.2).isEmpty || modeOrder st.group.mode == .rlx then s
        else s.modCore c fun k => { k with ops := k.ops ++ [o] }, .seq)) id s

/-- POST (R347): without a result word it has no effect; else it joins the strand's operations, once for the strand. The
result word of another package's launch is known to that package. -/
def execPost (a : BitVec 6) (s : State) : Result :=
  issue (.post a) { gRead := [a.toNat] } { ends := true } noChecks
    (fun st s =>
      let c := s.cur.1
      let addr := match Assoc.find s.launches st.launch with
        | some l => l.record.result
        | none => 0#64
      if addr = 0#64 ∧ launchOwn st.launch then .ok (s, .seq)
      else
        let l := (lanesOf st.active).headD 0
        let v := st.gr a.toNat
        let o := { newOp (.post a) st s.cur.2 ((s.core c).gen s.cur.2) with
          todo := 1#64 <<< l, vals := [(l, [lo32 addr, hi32 addr, lo32 v, hi32 v])] }
        .ok (s.modCore c fun k => { k with ops := k.ops ++ [o] }, .seq)) id s

/-! ### Steps that perform and complete operations -/

/-- Whose request an operation's is over the links. -/
def Op.linkWho (o : Op) (c : Nat) : LinkWho := ⟨Config.packageNumber, c, o.domain, o.keyid, o.priv, o.launch⟩

/-- The cursor handle that a lane of CSTEP, CSTEPN or CSEEK names. -/
def Op.cursorWord (o : Op) (l : Nat) : Word :=
  match o.instr with
  | .cseek .. => (o.words l).getD 2 0#32
  | _ => (o.words l).getD 0 0#32

/-- Whether a lane steps a cursor that a lower lane, still to be performed, steps before it: its step goes on from where that one
ends (R186). -/
def Op.stepsAfter (o : Op) (l : Nat) : Bool :=
  (match o.instr with
    | .cstep .. | .cstepn .. | .cseek .. => true
    | _ => false) && (lanesOf (o.todo &&& maskBelow l)).any fun k => o.cursorWord k == o.cursorWord l

/-- What a lane of an operation asks of the index of its cursor. -/
def State.stepAsk (s : State) (c : Nat) (o : Op) (l : Nat) : Option (Nat × StepAsk) :=
  ((s.core c).cursor? o.slot o.gen (o.cursorWord l)).map fun x => (l, ⟨x.2.handle, x.2.floor, x.2.hi, x.2.position, x.2.ended⟩)

/-- What lanes of an operation ask of another package (R159, R183, R354): a seek asks for no entry, only whether the table
stands. -/
def State.laneAsk (s : State) (c : Nat) (o : Op) (ls : List Nat) : LinkAsk :=
  match o.instr with
  | .post .. =>
    let ws := o.words (ls.headD 0)
    .post (launchNumber o.launch) (pair64 (ws.getD 2 0#32) (ws.getD 3 0#32))
  | .cstep .. => .steps 1 (ls.filterMap (s.stepAsk c o))
  | .cstepn .. => .steps (modeCount o.mode) (ls.filterMap (s.stepAsk c o))
  | .cseek .. => .steps 0 (ls.filterMap (s.stepAsk c o))
  | i => .table ((encode i).getD 0#32) o.mode (o.gvals.getD 2 0#64) (ls.map fun l => (l, o.words l))

/-- The lanes of an operation that go to a package now: of those that step one cursor, the lowest. -/
def State.lanesTo (s : State) (c : Nat) (o : Op) (pkg : Nat) : List Nat :=
  (lanesOf o.todo).filter fun l => s.lanePackage c o l == some pkg && !o.stepsAfter l

/-- The requests of operation n of core c over the links, one to each package that its lanes go to now; those that step a cursor
after others are asked for once these are answered. -/
def State.sendOp (s : State) (c n : Nat) (o : Op) : State :=
  let pkgs := ((lanesOf o.todo).filterMap (s.lanePackage c o)).dedup
  let r := pkgs.foldl (fun (r : State × List Nat) pkg =>
    match r.1.ask pkg c o.serial o.slot (o.linkWho c) (s.laneAsk c o (s.lanesTo c o pkg)) with
    | (s, id) => (s, r.2 ++ [id])) (s, [])
  r.1.modCore c fun k => k.setOp n { o with remote := r.2 }

/-- TABLE_OP_COMPLETE (R166): lanes of operation n of core c are performed at their engines, if the order lets them be
(R220); lanes of other packages then go over the links, one request to each package. When every lane is done the operation
returns. -/
def execTableOpComplete (c n : Nat) (lanes : LaneMask) (cached : Bool) (s : State) : Result :=
  match (s.core c).ops[n]? with
  | none => .next s
  | some o =>
    if isScratchOp o.instr || o.todo == 0#64 || !s.eligible c n then .next s
    else if o.todo &&& ~~~ s.remoteMask c o == 0#64 then .next (if o.remote.isEmpty then s.sendOp c n o else s)
    else
      match s.performOp c o false cached lanes with
      | (s, o) => .next (s.settleOp c n o)

/-- SCRATCH_LOAD_COMPLETE (R207): operation n of core c, a scratch access, is performed if it has not been, and
returns. A block that waited for it ends (R205). -/
def execScratchLoadComplete (c n : Nat) (s : State) : Result :=
  match (s.core c).ops[n]? with
  | none => .next s
  | some o =>
    if !isScratchOp o.instr then .next s
    else if o.todo == 0#64 then .next (s.settleOp c n o)
    else .next ((s.performAt c n true false (~~~ 0#64)).endBlocks o.launch)

end Sys2Proof.Machine
end

