-- ==== Sys2Proof/Machine/Links.lean ====
section
/-! DEFINITION. Dolmond links and the host: answers to requests of this package and the requests of others, flits with their
replays, flacons, time-outs, doorbells, windows (R159, R272, R273, R354-R357). -/

namespace Sys2Proof.Machine

/-! ### Answers to requests of this package -/

/-- A request taken off the list of those outstanding. -/
def State.closeRequest (s : State) (n : Nat) : State :=
  { s with links := { s.links with requests := s.links.requests.filter fun r => r.id != n } }

/-- The cause that a status names. -/
def causeOf (status : Nat) : Cause :=
  match status with
  | 0x10 => .translation
  | 0x11 => .protection
  | 0x12 => .rowBounds
  | 0x13 => .indexBypass
  | 0x14 => .duplicateKey
  | 0x15 => .staleHandle
  | 0x17 => .uncorrectable
  | 0x18 => .ownership
  | 0x1C => .misaligned
  | _ => .integrity

/-- The entries that the words of an answer to a step give: reference and key. -/
def entriesOf : List Word → List Entry
  | a :: b :: c :: d :: rest => ⟨(pair64 c d).toNat, (pair64 a b).toNat⟩ :: entriesOf rest
  | _ => []

/-- A step of the cursor that a lane names, by the entries that the index's package returned (R185, R186). -/
def State.stepAnswered (s : State) (c : Nat) (o : Op) (l : Nat) (es : List Entry) : State × LaneOut :=
  let n := stepCount o.instr o.mode
  match (s.core c).cursor? o.slot o.gen ((o.words l).getD 0 0#32) with
  | none => (s, .fault (.staleHandle, 0))
  | some (i, x) =>
    (s.modCore c fun k => { k with cursors := Assoc.set k.cursors i (x.stepped es n) },
     .done (match o.instr with
       | .cstepn .. => cstepnWords n es
       | _ => cstepWords es))

/-- What the answer of another package gives a lane: its fault, or its result. A cursor is opened and repositioned here, where
it lives, once its index is known to stand (R183, R184, R187). -/
def State.laneAnswered (s : State) (c : Nat) (o : Op) (l status : Nat) (ws : List Word) : State × LaneOut :=
  if status ≠ 0 then (s, .fault (causeOf status, 0))
  else match o.instr with
    | .copen .. => s.performCopen c o l
    | .cseek .. => s.performCseek c o l
    | .cstep .. | .cstepn .. => s.stepAnswered c o l (entriesOf ws)
    | _ => (s, .done ws)

/-- The answer to a request of operation n of core c, lane by lane. -/
def State.answerOp (s : State) (c n : Nat) (r : Request) (outs : List (Nat × (Nat × List Word))) : State :=
  match (s.core c).ops[n]? with
  | none => s
  | some o =>
    let x := outs.foldl (fun (x : State × Op) y =>
      if x.2.todo.getLsbD y.1 then
        match x.1.laneAnswered c x.2 y.1 y.2.1 y.2.2 with
        | (s, out) => (s, x.2.laneDone y.1 out)
      else x) (s, { o with remote := o.remote.erase r.id })
    x.1.settleOp c n x.2

/-- The fault of a PERF or TINV whose answer does not come: the wait ends and the fault joins the strand's operations. -/
def State.faultWait (s : State) (c sl : Nat) (st : Strand) (k : Cause) : State :=
  let o : Op :=
    { slot := sl, gen := (s.core c).gen sl, launch := st.launch, serial := st.issued, instr := .perf 0#6 0#16,
      mode := st.group.mode, lanes := st.active, todo := 0#64, vals := [], gvals := [], flag := 15, uniform := false,
      flags := 0#5, clause := st.pc, idx := st.pcIdx, domain := st.domain, keyid := st.keyid, priv := st.mode,
      results := [], gresult := none, faults := (lanesOf st.trapLanes).map (fun l => ⟨l, k, 0⟩), remote := [] }
  (s.setStrand c sl { st with wait := .none }).modCore c fun k => { k with ops := k.ops ++ [o] }

/-- What an answer to a PERF gives: the counter, all ones for an unusable handle; none for a fault. -/
def counterOf (status : Nat) (ws : List Word) : Option DWord :=
  if status = 0 then some (pair64 (ws.getD 0 0#32) (ws.getD 1 0#32)) else if status = 0x15 then some (~~~ 0#64) else none

/-- Whether the wait that a frame interrupted is for the counter that a request asks for. -/
def FrameNote.awaits (f : FrameNote) (n : Nat) : Bool :=
  match f.wait with
  | .counter m _ => m == n
  | _ => false

/-- That wait once the answer has come in the handler: the return writes it (R319). -/
def FrameNote.counted (n : Nat) (v : DWord) (f : FrameNote) : FrameNote :=
  match f.wait with
  | .counter m g => if m = n then { f with wait := .counted v g } else f
  | _ => f

/-- An answer to a PERF that the strand of a slot waits for, or waited for when a trap interrupted it: the counter, or the
fault. -/
def State.answerCounter (s : State) (c sl n : Nat) (status : Nat) (ws : List Word) : State :=
  match s.strand? c sl with
  | none => s
  | some st =>
    match st.wait with
    | .counter m g =>
      if m ≠ n then s
      else match counterOf status ws with
        | some v => s.setStrand c sl { st.setG g v with wait := .none }
        | none => s.faultWait c sl st (causeOf status)
    | _ =>
      match counterOf status ws with
      | some v => s.setStrand c sl { st with frames := st.frames.map (FrameNote.counted n v) }
      | none =>
        if st.frames.any fun f => f.awaits n then
          (s.faultWait c sl st (causeOf status)).modStrand c sl fun x =>
            { x with wait := st.wait, frames := st.frames.map fun f => if f.awaits n then { f with wait := .none } else f }
        else s

/-- What a wait for the answers to a TINV is for, where a request is one of them (R317). -/
def Wait.tinvAsked (n : Nat) : Wait → Option (BitVec 16 × DWord × Bool)
  | .tinvFar dom addr second rs => if rs.contains n then Option.some (dom, addr, second) else Option.none
  | _ => Option.none

/-- That wait with the request answered. -/
def Wait.tinvAnswered (n : Nat) : Wait → Wait
  | .tinvFar dom addr second rs => .tinvFar dom addr second (rs.erase n)
  | w => w

/-- The TINV of the strand of a slot that waits for a request, or did so when a trap interrupted it. -/
def State.tinvOf (s : State) (c sl n : Nat) : Option (BitVec 16 × DWord × Bool) :=
  (s.strand? c sl).bind fun st => (st.wait :: st.frames.map FrameNote.wait).findSome? (Wait.tinvAsked n)

/-- The answer of another package to a TINV: the entries are gone there. A request that is not answered is a fault, and the entries
go here without waiting longer (R355; DESIGN CHOICE, log 62). -/
def State.answerTinv (s : State) (c sl n status : Nat) (asked : BitVec 16 × DWord × Bool) : State :=
  match s.strand? c sl with
  | none => s
  | some st =>
    if status = 0 then
      s.setStrand c sl { st with
        wait := st.wait.tinvAnswered n
        frames := st.frames.map fun f => { f with wait := f.wait.tinvAnswered n } }
    else
      let t := (s.dropEntries (List.range Config.cores) asked.1 asked.2.1 asked.2.2).faultWait c sl st (causeOf status)
      if (st.wait.tinvAsked n).isSome then t
      else t.modStrand c sl fun x =>
        { x with
          wait := st.wait
          frames := st.frames.map fun f => if (f.wait.tinvAsked n).isSome then { f with wait := .none } else f }

/-- The status that stands for a far reference whose row lies in a third package, in the answer to a gather. -/
def farStatus : Nat := 0x100

/-- What the answer to a gather gives for each distinct key, in order; rows of blocks elsewhere are asked for in turn. -/
def State.gatherAnswered (c i : Nat) (w : Who) (r : GathRec) :
    List (Nat × (Nat × List Word)) → Gathered → State → State × Gathered
  | [], g, s => (s, g)
  | (key, status, ws) :: rest, g, s =>
    if status = farStatus then
      let ref := (pair64 (ws.getD 0 0#32) (ws.getD 1 0#32)).toNat
      match s.rowOnce key ref g fun g s => s.farRow c i w key ref r.first r.words g with
      | (s, g) => State.gatherAnswered c i w r rest g s
    else
      let x : Found := if status ≠ 0 then .failed status else if ws.isEmpty then .absent else .row ws
      State.gatherAnswered c i w r rest (g.put key x) s

/-- An answer to the operation of a future: a gather then completes in its own step, a promotion at once. Rows of blocks of this
package that the answer to a gather names are read as they were at its issue (R230). -/
def State.answerFuture (s : State) (c i : Nat) (r : Request) (status : Nat) (ws : List Word)
    (outs : List (Nat × (Nat × List Word))) : State :=
  match Assoc.find (s.core c).futures i with
  | none => s
  | some f =>
    if f.serial ≠ r.op ∨ f.done then s
    else match f.kind with
      | .gathRemote record dest _ issued =>
        if status ≠ 0 then s.setKind c i (.gath [] status)
        else
          let q := GathRec.ofBytes (record.take 24) (record.drop 24)
          let keys := q.keys.dedup
          match s.asOf issued (State.gatherAnswered c i ⟨c, f.domain, f.keyid, f.priv, f.launch⟩ q
              (outs.map fun x => (keys.getD x.1 0, x.2)) ⟨[], [], []⟩) with
          | (s, g) => s.gathWaits c i record dest g
      | .gathFar record dest found asked =>
        (match asked.find? fun a => a.1 == r.id with
         | some a =>
           let x : Found := if status = 0 then .row ws else .failed status
           s.gathWaits c i record dest ⟨(asked.filter fun b => b.1 == a.1).foldl (fun m b => Assoc.set m b.2 x) found,
             asked.filter fun b => b.1 != r.id, []⟩
         | none => s)
      | .promo _ => s.completeFuture c i status
      | _ => s

/-- The origin's copy of a flacon that a request stands for. -/
def CoreSt.originOf (k : CoreSt) (r : Request) : Option Flacon :=
  k.origins.find? fun f => f.lane == r.op % 64 && f.serial.toNat == r.op / 64 && 512 + 64 * f.gen.toNat + f.slot == r.slot

/-- A flacon returned to its origin: the thread is re-assembled there from the copy (R272, reason 11). -/
def State.returnFlacon (s : State) (f : Flacon) : State :=
  s.modCore f.core fun k => ((k.dropOrigin f).receive s.timePs f).count 0x401B

/-- What another package answers of the home of a reference: its stack, whether a core of the domain is near it and whether the
bank set is in deep power-down; none where it is not known there, or no answer comes (R270, reason 7). -/
def State.answerHome (s : State) (r : Request) (status : Nat) (ws : List Word) : State :=
  let x := if status = 0 then some ((ws.getD 0 0#32).toNat, ws.getD 1 0#32 != 0#32, ws.getD 2 0#32 != 0#32) else none
  s.modStrand r.core (r.slot % 64) fun st =>
    { st with inquiry := st.inquiry.map fun q =>
        { q with homes := q.homes.map fun a => if a.request = r.id then { a with answer := some x } else a } }

/-- What a stack of another package answers of slots: the core, or none, as where no answer comes (R270, reason 1). Slots that
no departure waits for any more go back. -/
def State.answerSlots (s : State) (r : Request) (k : Option Nat) : State :=
  if ((s.strand? r.core (r.slot % 64)).bind Strand.inquiry).any fun q => q.slots.any fun a => a.request == r.id then
    s.modStrand r.core (r.slot % 64) fun st =>
      { st with inquiry := st.inquiry.map fun q =>
          { q with slots := q.slots.map fun a => if a.request = r.id then { a with answer := some k } else a } }
  else match k with
    | some k => s.sendTo r.pkg (.slotsBack k r.op)
    | none => s

/-- The outcome of a request, whole or lane by lane, for whatever waits for it (R355). -/
def State.answer (s : State) (r : Request) (status : Nat) (ws : List Word) (outs : List (Nat × (Nat × List Word))) : State :=
  if 512 ≤ r.slot then
    match (s.core r.core).originOf r with
    | some f => if status = 0 then s.modCore r.core fun k => k.dropOrigin f else s.returnFlacon f
    | none => s
  else if 256 ≤ r.slot then s.answerFuture r.core (r.slot - 256) r status ws outs
  else if 128 ≤ r.slot then s.answerSlots r none
  else if 64 ≤ r.slot then s.answerHome r status ws
  else
    match (s.core r.core).ops.findIdx? fun o => o.remote.contains r.id with
    | some n =>
      let whole := match (s.core r.core).ops[n]? with
        | some o => (s.lanesTo r.core o r.pkg).map fun l => (l, status, ws)
        | none => []
      s.answerOp r.core n r (if outs.isEmpty then whole else outs)
    | none =>
      match s.tinvOf r.core r.slot r.id with
      | some asked => s.answerTinv r.core r.slot r.id status asked
      | none => s.answerCounter r.core r.slot r.id status ws

/-- How long a request waits for its response: 1 ms (R355). -/
def linkTimeout : Nat := 1000000000

/-- The request that a response answers, of those that satisfy a test; none for a late response: 1 ms after the request was
sent there is no response any more, whether its timeout has taken place yet or not (R355). -/
def State.awaiting (s : State) (p : Request → Bool) : Option Request :=
  s.links.requests.find? fun r => p r && decide (s.timePs < r.sent + linkTimeout)

/-- A late response is dropped and counted (R355). -/
def State.countLate (s : State) : State := { s with links := { s.links with late := s.links.late + 1#64 } }

/-- A response: to an outstanding request, or late. -/
def State.takeResponse (s : State) (n status : Nat) (ws : List Word) (outs : List (Nat × (Nat × List Word))) : State :=
  match s.awaiting fun r => r.id == n with
  | some r => (s.closeRequest n).answer r status ws outs
  | none => s.countLate

/-- Continuation slots granted by a package at a core; where the request has timed out they go back, and the response is counted
as late (R355). -/
def State.takeGrant (s : State) (n pkg dest threads : Nat) : State :=
  match s.awaiting fun r => r.id == n with
  | some r => (s.closeRequest n).answerSlots r (some dest)
  | none => s.countLate.sendTo pkg (.slotsBack dest threads)

/-- The domain and the launch that a request is made for. -/
def State.requestFor (s : State) (r : Request) : BitVec 16 × Nat :=
  match (s.core r.core).ops.find? fun o => o.remote.contains r.id with
  | some o => (o.domain, o.launch)
  | none =>
    match (if 256 ≤ r.slot then Assoc.find (s.core r.core).futures (r.slot - 256) else none) with
    | some f => (f.domain, f.launch)
    | none => match (if r.slot < 256 then s.strand? r.core (r.slot % 64) else none), (s.core r.core).originOf r with
      | _, some f => (f.domain, f.launch)
      | some st, none => (st.domain, st.launch)
      | none, none => (0xFFFF#16, 0)

/-- LINK_REQUEST_TIMEOUT (R355): a request without a response for 1 ms completes as *integrity*; source 14 reports it. -/
def execLinkRequestTimeout (n : Nat) (s : State) : Result :=
  match s.links.requests.find? fun r => r.id == n with
  | none => .next s
  | some r =>
    if s.timePs < r.sent + linkTimeout then .next s
    else
      let who := s.requestFor r
      let s := s.postFault ⟨0, 0x16, 14, who.1, BitVec.ofNat 32 who.2⟩
      .next ((s.closeRequest n).answer r 0x16 [] [])

/-! ### Requests of other packages (R159, R161, R162, R354) -/

/-- The far form of a reference to a row of a table (R162), in the table's tier; the block numbers of row stores are the
packages' own (log 35). -/
def Table.farForm (t : Table) (ref : Nat) : Nat :=
  if ref = 0 ∨ isFar ref then ref
  else
    let pa := t.pa (ref - t.base)
    2 ^ 63 + Config.packageNumber * 2 ^ 53 + t.desc.tier * 2 ^ 51 + rowBlock (pa / 2 ^ 14) * 2 ^ 14 + pa % 2 ^ 14

/-- The operation that lanes of a request ask for. -/
def LinkWho.op (w : LinkWho) (i : Instr) (mode : Word) (handle : DWord) (lanes : List (Nat × List Word)) : Op :=
  let m := maskOf (lanes.map (·.1))
  { slot := 64, gen := 0#8, launch := w.who.launch, serial := 0, instr := i, mode := mode, lanes := m, todo := m,
    vals := lanes, gvals := [0#64, 0#64, handle], flag := 15, uniform := false, flags := 0#5, clause := 0#64, idx := 0,
    domain := w.domain, keyid := w.keyid, priv := w.priv, results := [], gresult := none, faults := [], remote := [] }

/-- The status and the words that a lane's outcome answers; a reference is answered in far form. -/
def State.laneReply (s : State) (o : Op) : LaneOut → Nat × List Word
  | .hold => (0x16, [])
  | .fault f => (f.1.code, [])
  | .done ws =>
    match isIndexOp o.instr, Assoc.find s.tables (hNumber (o.gvals.getD 2 0#64)) with
    | true, some t => (0, refWords (t.farForm (pair64 (ws.getD 0 0#32) (ws.getD 1 0#32)).toNat))
    | _, _ => (0, ws)

/-- Lanes of a table request performed in ascending order at this package's engines. -/
def State.serveLanes (o : Op) : List Nat → State → State × List (Nat × (Nat × List Word))
  | [], s => (s, [])
  | l :: ls, s =>
    match s.performLane 0 o false l with
    | (s, out) =>
      match State.serveLanes o ls s with
      | (s, outs) => (s, (l, s.laneReply o out) :: outs)

/-- A COPEN of another package: whether its index stands (R184). -/
def State.serveOpen (s : State) (handle : DWord) (ls : List Nat) : List (Nat × (Nat × List Word)) :=
  let status := if hSelector handle = 0 || (s.usable handle false).isNone then 0x15 else 0
  ls.map fun l => (l, status, [])

/-- A step of a cursor of another package over an index of this one (R185, R186). -/
def State.serveStep (s : State) (n : Nat) (a : StepAsk) : Nat × List Word :=
  match s.usable a.handle false with
  | none => (0x15, [])
  | some t =>
    let near := s.nearRef (hNumber a.handle)
    let x : Cursor := ⟨0, 0#8, a.handle, 0, a.hi, 0, a.position.map fun p => (p.1, near p.2), a.floor, a.ended⟩
    let es := if a.ended then [] else (cursorNext x (t.index (hSelector a.handle))).take n
    (0, es.flatMap fun e => refWords (t.farForm e.ref) ++ refWords e.key)

/-- The status and the words that stand for what a key found, in an answer. -/
def Found.reply : Found → Nat × List Word
  | .absent => (0, [])
  | .row ws => (0, ws)
  | .failed k => (k, [])

/-- The row of a key for a gather of another package: its status and words, or the reference of a row of a third package. -/
def State.serveRow (s : State) (w : Who) (r : GathRec) (t : Table) (ref : Nat) : State × (Nat × List Word) :=
  if isFar ref then
    if farTier ref = 3 then (s, (0x10, []))
    else if farPackage ref ≠ Config.packageNumber then (s, (farStatus, refWords ref))
    else match s.farWords w ref r.first r.words with
      | (s, x) => (s, x.reply)
  else match s.nearRow w t ref r.first r.words with
    | (s, x) => (s, x.reply)

/-- A gather of another package on a table of this one (R190): for each distinct key in order. Each distinct row is read once:
seen holds the references read so far, with their answers. -/
def State.serveGather (w : Who) (r : GathRec) (t : Table) :
    Nat → List Nat → List (Nat × (Nat × List Word)) → State → State × List (Nat × (Nat × List Word))
  | _, [], _, s => (s, [])
  | n, key :: ks, seen, s =>
    let s := s.modTable (hNumber r.handle) fun t => t.count 0
    let out : State × (Nat × List Word) × List (Nat × (Nat × List Word)) :=
      match s.gathRef w t (hSelector r.handle) key with
      | (s, .error f) => (s, (f.1.code, []), seen)
      | (s, .ok ref) =>
        if ref = 0 then (s, (0, []), seen)
        else match seen.find? fun x => x.1 == rowName ref with
          | some x => (s, x.2, seen)
          | none => match s.serveRow w r t ref with
            | (s, x) => (s, x, seen ++ [(rowName ref, x)])
    match State.serveGather w r t (n + 1) ks out.2.2 out.1 with
    | (s, outs) => (s, (n, out.2.1) :: outs)

/-- The POST of a thread that has gone to another package: its launch's result word here (R347). -/
def State.servePost (s : State) (w : LinkWho) (launch : Nat) (v : DWord) : State × Nat :=
  match Assoc.find s.launches launch with
  | none => (s, 0)
  | some l =>
    let a := l.record.result
    if a = 0#64 then (s, 0)
    else
      let d := l.record.domain
      let o := { w.op (.post 0#6) 0#32 0#64 [(0, [lo32 a, hi32 a, lo32 v, hi32 v])] with
        domain := d, keyid := (s.domainEntry d.toNat).key, launch := launch }
      match s.performPost 0 o 0 with
      | (s, .done _) => (s, 0)
      | (s, .fault f) => (s, f.1.code)
      | (s, .hold) => (s, 0x16)

/-- Continuation slots that a departure of another package asks for near a stack of this one: the core, or a refusal (R264). -/
def State.serveSlots (s : State) (dom : BitVec 16) (stack n : Nat) : State × Option Nat :=
  match (fromAfter (s.stackOf stack).steer (s.nearCores dom stack)).find? fun k => decide (n ≤ s.freeConts k) with
  | some k =>
    ((s.modStack stack fun y => { y with steer := k }).modCore k fun x => { x with reservedFar := x.reservedFar + n }, some k)
  | none => (s, none)

/-- Where a reference of another package leads in this one: the physical address behind it, and its home stack (R162, R271);
none where its block table entry is not valid or cannot be read. -/
def State.placeHome (s : State) (w : Who) (ref : Nat) : State × Option (Nat × Nat) :=
  match s.findBlock w (farBlock ref) with
  | (s, .error _) => (s, none)
  | (s, .ok e) => (s, some (e.slot, e.stack (farBlock ref)))

/-- The home of a reference as this package answers it (R264, R271): its stack, whether a core of the domain is near that,
whether the bank set is in deep power-down. -/
def State.serveHome (s : State) (n : Nat) (w : Who) (dom : BitVec 16) (ref : Nat) : State × FlitBody :=
  let bit (b : Bool) : Word := if b then 1#32 else 0#32
  match s.placeHome w ref with
  | (s, none) => (s, .response n 0x10 [])
  | (s, some (pa, h)) =>
    (s, .response n 0 [BitVec.ofNat 32 h, bit !(s.nearCores dom h).isEmpty,
      bit (decide (pa < 2 ^ 39) && (s.bank (pa / 2 ^ 30)).state == .deep)])

/-- A request of another package performed, and its answer; none of a PROMO, which waits for its own step (R295). -/
def State.serve? (s : State) (n : Nat) (w : LinkWho) (q : LinkAsk) : State × Option FlitBody :=
  match q with
  | .table word mode handle lanes =>
    (match decode word with
     | .error _ => (s, some (.response n 0x16 []))
     | .ok i =>
       match i with
       | .copen .. => (s, some (.results n (s.serveOpen handle (lanes.map (·.1)))))
       | _ =>
         match State.serveLanes (w.op i mode handle lanes) (lanes.map (·.1)) s with
         | (s, outs) => (s, some (.results n outs)))
  | .steps count lanes => (s, some (.results n (lanes.map fun x => (x.1, s.serveStep count x.2))))
  | .rows ref count =>
    (match s.farWords w.who ref.toNat 0 count with
     | (s, x) => (s, some (.response n x.reply.1 x.reply.2)))
  | .gather record =>
    let r := GathRec.ofBytes (record.take 24) (record.drop 24)
    (match s.usable r.handle true with
     | none => (s, some (.response n 0x15 []))
     | some t =>
       if t.desc.payload / 4 < r.first + r.words then (s, some (.response n 0x3E []))
       else match State.serveGather w.who r t 0 r.keys.dedup [] s with
         | (s, outs) => (s, some (.results n outs)))
  | .promo ref => ({ s with links := { s.links with promos := s.links.promos ++ [⟨n, w, ref, false⟩] } }, none)
  | .counter h sel =>
    (match s.usable h true with
     | none => (s, some (.response n 0x15 []))
     | some t => (s, some (.response n 0 (refWords (Assoc.get 0#64 t.counters sel).toNat))))
  | .post launch v =>
    (match s.servePost w launch v with
     | (s, status) => (s, some (.response n status [])))
  | .tinv dom addr second => (s.dropEntries (List.range Config.cores) dom addr second, some (.response n 0 []))
  | .home dom ref =>
    (match s.serveHome n w.who dom ref.toNat with
     | (s, b) => (s, some b))
  | .slots dom stack threads =>
    match s.serveSlots dom stack threads with
    | (s, some k) => (s, some (.granted n Config.packageNumber k threads))
    | (s, none) => (s, some (.response n 1 []))

/-- A request of another package: it is performed, its faults are reported with source 14, and it is answered. -/
def State.serveAsk (s : State) (n : Nat) (w : LinkWho) (q : LinkAsk) : State :=
  match s.serve? n w q with
  | (t, some b) => (s.fromSource t 14).sendTo w.package b
  | (t, none) => t

/-! ### Flits (R272, R354) -/

/-- A flacon of another package: it takes a slot reserved for it, or a free one; one that is damaged, or finds no slot, is
reported back to its origin (R263, R272). -/
def State.takeFlacon (s : State) (dest : Nat) (intact : Bool) (bs : List Byte) : State :=
  let f := Flacon.ofBytes bs dest
  let ack (ok : Bool) : FlitBody := .flaconAck f.core f.slot f.gen f.serial f.lane ok
  if Config.cores ≤ dest then s.sendTo f.package (ack false)
  else
    let held := decide (0 < (s.core dest).reservedFar)
    let t := s.modCore dest fun k => { k with reservedFar := k.reservedFar - 1 }
    if !intact || !(held || decide (0 < s.freeConts dest)) then t.sendTo f.package (ack false)
    else (t.modCore dest fun k => (k.receive s.timePs f).count 0x4001).sendTo f.package (ack true)

/-- An acknowledgement of a flacon that this package sent, or the report that it was not used. -/
def State.takeFlaconAck (s : State) (core slot : Nat) (gen : BitVec 8) (serial : BitVec 16) (lane : Nat) (intact : Bool) : State :=
  match s.awaiting fun r =>
      r.core == core && r.op == 64 * serial.toNat + lane && r.slot == 512 + 64 * gen.toNat + slot with
  | some r => (s.closeRequest r.id).answer r (if intact then 0 else 0x16) [] []
  | none => s.countLate

/-- What a flit brings. -/
def State.takeBody (s : State) (b : FlitBody) : State :=
  match b with
  | .ask n w q => s.serveAsk n w q
  | .response n status ws => s.takeResponse n status ws []
  | .results n outs => s.takeResponse n 0 [] outs
  | .granted n pkg dest threads => s.takeGrant n pkg dest threads
  | .cancel pkg n => { s with links := { s.links with promos := s.links.promos.map fun x =>
      if x.who.package = pkg ∧ x.request = n then { x with cancel := true } else x } }
  | .flacon dest intact bytes => s.takeFlacon dest intact bytes
  | .flaconAck core slot gen serial lane intact => s.takeFlaconAck core slot gen serial lane intact
  | .slotsBack dest threads => s.modCore dest fun k => { k with reservedFar := k.reservedFar - threads }
  | .threadExit launch threads =>
    (match Assoc.find s.launches launch with
     | some l => { s with launches := Assoc.set s.launches launch { l with threads := l.threads - threads } }
     | none => s)
  | .part | .replay _ | .linkAck _ => s

/-- A call for a replay or an acknowledgement, which carries no sequence number of its own. -/
def State.control (s : State) (port : Nat) (b : FlitBody) : State :=
  { s with links := { s.links with out := s.links.out ++ [(port, (s.port port).next, b)] } }

/-- The sender's side of a port (R354): flits acknowledged leave the retry buffer, those from a number on are sent again. -/
def State.takeControl (s : State) (port : Nat) : FlitBody → State
  | .replay seq =>
    let again := ((s.port port).retry.filter fun x => decide (seq ≤ x.1)).map fun x => (port, x.1, x.2)
    { s with links := { s.links with out := s.links.out ++ again } }
  | .linkAck seq => s.putPort port { s.port port with retry := (s.port port).retry.filter fun x => decide (seq < x.1) }
  | _ => s

/-- Whether a flit is the link's own. -/
def FlitBody.isControl : FlitBody → Bool
  | .replay _ | .linkAck _ => true
  | _ => false

/-- A call for a replay of the next flit that a port expects, after one with a number; the seventeenth in a row for one flit,
after sixteen replays that failed, takes the port down and is reported (log 61). -/
def State.askReplay (s : State) (port seq : Nat) : State :=
  let p := s.port port
  if p.fails = 16 then
    let s := s.putPort port { p with up := false, fails := 0, asked := none }
    { s with links := { s.links with reports := s.links.reports ++ [port] } }
  else
    (s.putPort port { p with fails := p.fails + 1, asked := some seq, replays := p.replays + 1 }).control port (.replay p.expect)

/-- LINK_FLIT_RECEIVE (R354): a bad check code or a gap asks for a replay. While a replay is awaited the flits in flight behind
the one that failed pass; a number that does not rise is of the replay, and the flit that should have come has failed again. A
flit received before is dropped. A port that is down receives nothing. -/
def execLinkFlitReceive (f : Flit) (s : State) : Result :=
  let p := s.port f.port
  if !p.up then .next s
  else if f.good && f.body.isControl then .next (s.takeControl f.port f.body)
  else if f.good && f.seq == p.expect then
    .next (((s.putPort f.port { p with expect := p.expect + 1, fails := 0, asked := none }).control f.port
      (.linkAck f.seq)).takeBody f.body)
  else if f.good && decide (f.seq < p.expect) then .next s
  else match p.asked with
    | none => .next (s.askReplay f.port f.seq)
    | some last =>
      if f.seq = p.expect ∨ f.seq ≤ last then .next (s.askReplay f.port f.seq)
      else .next (s.putPort f.port { p with asked := some f.seq })

/-! ### The host (R357) -/

/-- HOST_DOORBELL: with the strap high at reset the port is an endpoint, whose doorbell and mailbox reach Kuenrex. -/
def execHostDoorbell (v : BitVec 64) (s : State) : Result :=
  if s.links.hostMode then .next { s with links := { s.links with mailbox := s.links.mailbox ++ [v] } } else .next s

/-- HOST_WINDOW_ACCESS: a host's access within a window that Kuenrex mapped, in tier 1 under the key identifier that Kuenrex
gave the window (log 38); codes are made and checked on the way. -/
def execHostWindowAccess (win off : Nat) (write : Bool) (bytes : List (BitVec 8)) (s : State) : Result :=
  match Assoc.find s.links.windows win with
  | none => .next s
  | some (_, size, target, key) =>
    let pa := target + off
    let n := bytes.length
    let w : Who := { Who.nobody with keyid := BitVec.ofNat 10 key }
    if !s.links.hostMode || decide (size < off + n) || (tierOf pa).isNone || (tierOf (pa + n - 1)).isNone then .next s
    else if write then .next (s.fromSource (s.writePhys w pa bytes).1 15)
    else
      let r := s.readPhys w pa n
      let got := match r.2 with
        | .ok bs => bs
        | .error _ => List.replicate n 0#8
      let s := s.fromSource r.1 15
      .next { s with links := { s.links with answers := s.links.answers ++ [got] } }

end Sys2Proof.Machine
end

