-- ==== Sys2Proof/Machine/Mask.lean ====
section
/-! DEFINITION. Mask instructions, opcodes 0x12 to 0x1A (R114). -/

namespace Sys2Proof.Machine

/-- A mask instruction on k registers, whatever lanes are active (R114, R122). -/
def maskWord (i : Instr) (d : BitVec 4) (f : Strand → DWord) (s : State) : Result :=
  issue i {} { always := true } noChecks (onStrand fun old st => st.setK d.toNat (f old)) id s

/-- KFROM (R114): the active lanes whose predicate is 1. It depends on the active set (R122). -/
def execKfrom (d : BitVec 4) (a : BitVec 7) (s : State) : Result :=
  maskWord (.kfrom d a) d (fun st => st.active &&& st.pr a.toNat) s

/-- KAND (R114). -/
def execKand (d a b : BitVec 4) (s : State) : Result :=
  maskWord (.kand d a b) d (fun st => st.kr a.toNat &&& st.kr b.toNat) s
/-- KOR (R114). -/
def execKor (d a b : BitVec 4) (s : State) : Result :=
  maskWord (.kor d a b) d (fun st => st.kr a.toNat ||| st.kr b.toNat) s
/-- KANDN (R114). -/
def execKandn (d a b : BitVec 4) (s : State) : Result :=
  maskWord (.kandn d a b) d (fun st => st.kr a.toNat &&& ~~~ st.kr b.toNat) s
/-- KXOR (R114). -/
def execKxor (d a b : BitVec 4) (s : State) : Result :=
  maskWord (.kxor d a b) d (fun st => st.kr a.toNat ^^^ st.kr b.toNat) s
/-- KMOV (R114). -/
def execKmov (d a : BitVec 4) (s : State) : Result := maskWord (.kmov d a) d (fun st => st.kr a.toNat) s

/-- KPOP (R114). -/
def execKpop (d : BitVec 6) (a : BitVec 4) (s : State) : Result :=
  issue (.kpop d a) { gDest := [d.toNat] } { always := true } noChecks
    (onStrand fun old st => st.setG d.toNat (BitVec.ofNat 64 (popCount (old.kr a.toNat)))) id s
/-- KTOG (R114). -/
def execKtog (d : BitVec 6) (a : BitVec 4) (s : State) : Result :=
  issue (.ktog d a) { gDest := [d.toNat] } { always := true } noChecks
    (onStrand fun old st => st.setG d.toNat (old.kr a.toNat)) id s
/-- GTOK (R114). -/
def execGtok (d : BitVec 4) (a : BitVec 6) (s : State) : Result :=
  issue (.gtok d a) { gRead := [a.toNat] } { always := true } noChecks
    (onStrand fun old st => st.setK d.toNat (old.gr a.toNat)) id s

end Sys2Proof.Machine
end

