-- ==== Sys2Proof/Machine/MatrixRun.lean ====
section
/-! DEFINITION. The matrix queue at work: exact accumulation, and the steps that perform its head (R85-R89, R237-R261). -/

namespace Sys2Proof.Machine

/-! ### Accumulators (R85-R87) -/

/-- Accumulator j. -/
def Matrix.acc (m : Matrix) (j : Nat) : Accum := Assoc.get ⟨0, 0#5⟩ m.accum j

/-- Accumulator j replaced. -/
def Matrix.setAcc (m : Matrix) (j : Nat) (a : Accum) : Matrix := { m with accum := Assoc.put ⟨0, 0#5⟩ m.accum j a }

/-- A status bit set (Table 4-7). -/
def Accum.mark (a : Accum) (b : BitVec 5) : Accum := { a with status := a.status ||| b }

/-- A value in units of 2^-320 added; a sum out of range is clamped, with OVR (R87). -/
def Accum.addUnits (a : Accum) (v : Int) : Accum :=
  let x := a.value + v
  if x ≤ -(2 ^ 639) then { a with value := -(2 ^ 639), status := a.status ||| 8#5 }
  else if 2 ^ 639 ≤ x then { a with value := 2 ^ 639 - 1, status := a.status ||| 8#5 }
  else { a with value := x }

/-- An exact product added (R86): bits below 2^-320 are cut toward minus infinity, with TRC. -/
def Accum.add (a : Accum) : FVal → Accum
  | .nan _ => a.mark 4#5
  | .inf neg => a.mark (if neg then 2#5 else 1#5)
  | .fin neg m e =>
    let v : Int := if neg then -(m : Int) else m
    if 0 ≤ e + 320 then a.addUnits (v * 2 ^ (e + 320).toNat)
    else
      let d : Int := 2 ^ (-(e + 320)).toNat
      let a := if v % d = 0 then a else a.mark 16#5
      a.addUnits (v / d)

/-- The exact product of two values (R86). -/
def FVal.mulExact : FVal → FVal → FVal
  | .nan _, _ | _, .nan _ => .nan false
  | .inf a, .inf b => .inf (a != b)
  | .inf a, .fin b m _ | .fin b m _, .inf a => if m = 0 then .nan false else .inf (a != b)
  | .fin a m e, .fin b n f => .fin (a != b) (m * n) (e + f)

/-- Products added in order. -/
def Accum.addAll (a : Accum) (ps : List FVal) : Accum := ps.foldl Accum.add a

/-! ### Completion (R231, R243, R244) -/

/-- The future of a queue entry. -/
def CoreSt.matFuture (k : CoreSt) (q : MatOp) : Option Future := q.future.bind fun i => Assoc.find k.futures i

/-- Whether a queue entry has been cancelled (R244). -/
def CoreSt.matCancelled (k : CoreSt) (q : MatOp) : Bool :=
  match k.matFuture q with
  | some f => f.cancel
  | none => false

/-- Flags joined to those that wait for a saved strand. -/
def SavedNote.orFlags (n : SavedNote) (f : Flags) : SavedNote := { n with astat := n.astat ||| f }

/-- Flags of an MRD into ASTAT of the strands that issued it (R88, R247), which may have been saved and restored since; for
one that is saved they wait in its note. -/
def State.orAstat (s : State) (c : Nat) (q : MatOp) : State :=
  q.strands.foldl (fun s x =>
    match (s.core c).strandOf x.1 x.2 with
    | some (sl, _) =>
      s.modStrand c sl fun st => { st with group := { st.group with astat := st.group.astat ||| q.flags } }
    | none => s.modCore c fun k =>
      { k with saved := k.saved.map fun n => if n.names.contains x = true then n.orFlags q.flags else n }) s

/-- The rows of an MRD written to scratch; the cause where part of a sector that cannot be read is written (R297). -/
def State.matWrite (s : State) (c : Nat) (q : MatOp) : State × Option Cause :=
  match q.kind with
  | .mrd _ _ _ _ _ dest => if q.out.isEmpty then (s, none) else s.writeScratch c q.launch q.block true dest.toNat q.out
  | _ => (s, none)

/-- Whether the sub-tile (i, j) of an MMUL lies wholly outside the band (R253). -/
def Matrix.tileSkipped (m : Matrix) (i j : Nat) : Bool :=
  let least : Int := 16 * (j : Int) - 16 * (i : Int) - 15
  let most : Int := 16 * (j : Int) - 16 * (i : Int) + 15
  decide (most < m.lower) || decide (m.upper < least) || decide (m.upper < m.lower)

/-- Sub-tiles of an MMUL of n rows that are skipped (R253). -/
def Matrix.skipped (m : Matrix) (n : Nat) : Nat :=
  ((List.range (ceilDiv n 16)).flatMap fun i => (List.range 4).filter fun j => m.tileSkipped i j).length

/-- Array cycles that the first units of an operation took: a row of an MMUL takes a quarter of one in each of its four
sub-tiles that is not skipped, up to a whole cycle at its end (R251, R253; DEDUCED, log 87), a step of an MMSP of M rows
ceil(M / 64) (R256). The other kinds leave it open (log 5). -/
def MatKind.cycles (k : MatKind) (m : Matrix) (units fresh : Nat) : Nat :=
  match k with
  | .mmul _ _ _ _ band _ =>
    ceilDiv ((List.range units).map fun r => ((List.range 4).filter fun j => !(band && m.tileSkipped (r / 16) j)).length).sum 4
  | .mmsp _ _ rows .. => units * ceilDiv rows 64
  | _ => Config.arrayBusy fresh

/-- The head of the queue is done with a status: it leaves the queue, its rows are written to scratch, its flags go to
ASTAT, its future completes; parts of an ended block are released (R239). It counts as performed where its status is 0: one that
is cancelled after some units does not (R262; DESIGN CHOICE, log 99). -/
def State.matDone (s : State) (c : Nat) (q : MatOp) (status : Nat) : State :=
  let cycles := q.kind.cycles (s.core c).matrix q.units s.fresh
  let s := s.modCore c fun k => { k with matrix := { k.matrix with queue := k.matrix.queue.tail } }
  let r := s.matWrite c q
  let status := match r.2 with
    | some k => k.code
    | none => status
  let s := (r.1.orAstat c q).modCore c CoreSt.pruneNames
  let s := if status = 0 then s.count c 0x3000 else s
  let s := s.count c 0x3001 cycles
  let s := { s with fresh := s.fresh + 1 }
  let s := match q.future with
    | some i => s.completeFuture c i status
    | none => s
  s.releaseMatrix c q.launch q.block

/-- The matrix state and the head after a unit; the future counts it (R245). -/
def State.matUnit (s : State) (c : Nat) (q : MatOp) (m : Matrix) : State :=
  s.modCore c fun k =>
    let k := { k with matrix := { m with queue := q :: m.queue.tail } }
    match q.future with
    | some i => k.countUnits i q.counted
    | none => k

/-- One unit of an operation, how many it has, and what a cancelled one still does before its first unit. -/
structure UnitOf where
  total : Nat
  run   : Matrix → MatOp → Matrix × MatOp
  first : Matrix → Matrix := id

/-- At most n units of the head; at its end, at a cancellation, or with a failed operand it completes. The fuel n counts
units. -/
def State.matRun (c : Nat) (u : MatKind → Option UnitOf) : Nat → State → State
  | 0, s => s
  | n + 1, s =>
    match (s.core c).matrix.queue with
    | [] => s
    | q :: _ =>
      match u q.kind with
      | none => s
      | some x =>
        if q.status ≠ 0 then s.matDone c q q.status
        else if (s.core c).matCancelled q then
          let s := if q.units = 0 then s.modCore c fun k => { k with matrix := x.first k.matrix } else s
          s.matDone c q 0x3F
        else if x.total ≤ q.units then s.matDone c q 0
        else
          let (m, q') := x.run (s.core c).matrix q
          let q' := { q' with units := q.units + 1 }
          let s := s.matUnit c q' m
          if x.total ≤ q'.units then s.matDone c q' 0 else State.matRun c u n s

/-! ### Loads, exchange, band, clearing (R249-R252, R261) -/

/-- MLDS_PERFORM: one unit, the whole load. -/
def execMldsPerform (c : Nat) (s : State) : Result :=
  .next (State.matRun c (fun k => match k with
    | .mlds t rows => some ⟨1, fun m q => ({ m with shadow := ⟨some t, rows.length, rows⟩ }, q), id⟩
    | _ => none) 1 s)

/-- MACT_PERFORM. -/
def execMactPerform (c : Nat) (s : State) : Result :=
  .next (State.matRun c (fun k => match k with
    | .mact => some ⟨1, fun m q => ({ m with shadow := m.active, active := m.shadow }, q), id⟩
    | _ => none) 1 s)

/-- MBAND_PERFORM. -/
def execMbandPerform (c : Nat) (s : State) : Result :=
  .next (State.matRun c (fun k => match k with
    | .mband lower upper x => some ⟨1, fun m q => ({ m with lower := lower, upper := upper, forced := x }, q), id⟩
    | _ => none) 1 s)

/-- The plane set as a release leaves it (R237). -/
def Matrix.resetPlanes (m : Matrix) : Matrix :=
  { m with shadow := Plane.reset, active := Plane.reset, lower := -2147483648, upper := 2147483647, forced := 0#32 }

/-- MCLR in queue order; a part that a later operation of the block in the queue names stays held by it (log 34). -/
def Matrix.clear (m : Matrix) (q : MatOp) (base n : Nat) (rows planes : Bool) : Matrix :=
  let mine := matRows base n
  let later := m.queue.tail.filter fun x => x.launch == q.launch && x.block == q.block
  let m := { m with accum := m.accum.filter fun a => !mine.contains (a.1 / 64) }
  let m := if rows then
      { m with rows := m.rows.filter fun r =>
          !mine.contains r.1 || later.any fun x => x.kind.parts.rows.contains r.1 }
    else m
  if planes then { m.resetPlanes with planes := if later.any (fun x => x.kind.parts.plane) then m.planes else none }
  else m

/-- MCLR_PERFORM. -/
def execMclrPerform (c : Nat) (s : State) : Result :=
  .next (State.matRun c (fun k => match k with
    | .mclr base n rows planes => some ⟨1, fun m q => (m.clear q base n rows planes, q), id⟩
    | _ => none) 1 s)

/-! ### Multiplication (R251, R253) -/

/-- Whether element (r, n) lies inside the band. -/
def Matrix.inBand (m : Matrix) (r n : Nat) : Bool :=
  decide (m.lower ≤ (n : Int) - r) && decide ((n : Int) - r ≤ m.upper)

/-- Row r of an MMUL. -/
def Matrix.mulRow (m : Matrix) (t : ElemType) (base r : Nat) (zero band : Bool) (act : List Nat) : Matrix :=
  let w := m.active.wtype.getD .i8x4
  (List.range 64).foldl (fun x n =>
    let j := base + 64 * r + n
    let a : Accum := if zero then ⟨0, 0#5⟩ else x.acc j
    let a := if band && !m.inBand r n then a.add (Fmt.f32.value m.forced.toNat)
      else a.addAll ((act.zip m.active.rows).map fun p => (t.value p.1).mulExact (w.value (p.2.getD n 0)))
    x.setAcc j a) m

/-- MMUL_PERFORM: a unit is a row; sub-tiles skipped are counted with the first, all of them, whether its rows are all done or
not (R262; DESIGN CHOICE, log 112). -/
def execMmulPerform (c units : Nat) (s : State) : Result :=
  let first := match (s.core c).matrix.queue with
    | q :: _ => (match q.kind with
      | .mmul _ _ n _ true _ =>
        if q.units = 0 ∧ q.status = 0 ∧ units ≠ 0 ∧ !(s.core c).matCancelled q then (s.core c).matrix.skipped n else 0
      | _ => 0)
    | [] => 0
  let s := if first = 0 then s else s.count c 0x3002 first
  .next (State.matRun c (fun k => match k with
    | .mmul t base n zero band act => some ⟨n, fun m q => (m.mulRow t base q.units zero band (act.getD q.units []), q), id⟩
    | _ => none) units s)

/-- One step of an MMSP: bit k of each column with the rows of A (R256). -/
def Matrix.outer (m : Matrix) (t : ElemType) (base rows k : Nat) (bits : List Word) (a : List (List (Option Nat)))
    (b : List (List Nat)) : Matrix :=
  (List.range rows).foldl (fun m r =>
    match (a.getD r []).getD k none with
    | none => m
    | some x => (List.range 64).foldl (fun m n =>
        if (bits.getD n 0#32).getLsbD k then
          let j := base + 64 * r + n
          m.setAcc j ((m.acc j).add ((t.value x).mulExact (t.value ((b.getD n []).getD k 0))))
        else m) m) m

/-- The accumulators of rows cleared. -/
def Matrix.clearRows (m : Matrix) (base n : Nat) : Matrix :=
  { m with accum := m.accum.filter fun a => !(matRows base n).contains (a.1 / 64) }

/-- MMSP_PERFORM: a unit is a step, and the future counts from the start step on (DEDUCED, log 86); zero
first is applied with the first step of a new operation, or where it is stopped before that step, so that a reissue from
step 0 goes on from cleared sums (R257, log 77). -/
def execMmspPerform (c units : Nat) (s : State) : Result :=
  let before := match (s.core c).matrix.queue with
    | q :: _ => q.units
    | [] => 0
  let len := (s.core c).matrix.queue.length
  let r := State.matRun c (fun k => match k with
    | .mmsp t base rows start zero steps bits a b =>
      let clear (m : Matrix) : Matrix := if start = 0 ∧ zero ∧ !steps.isEmpty then m.clearRows base rows else m
      some ⟨steps.length - start, fun m q =>
        let m := if q.units = 0 then clear m else m
        (m.outer t base rows (steps.getD (start + q.units) 0) bits a b, q), clear⟩
    | _ => none) units s
  let done := match (s.core c).matrix.queue with
    | q :: _ => (match q.kind with
      | .mmsp _ _ _ start _ steps _ _ _ =>
        if q.status ≠ 0 ∨ (s.core c).matCancelled q then 0
        else if (r.core c).matrix.queue.length < len then steps.length - start - before
        else (match (r.core c).matrix.queue with
          | q' :: _ => q'.units - before
          | [] => 0)
      | _ => 0)
    | [] => 0
  .next (if done = 0 then r else r.count c 0x3003 done)

/-! ### Scales and read-out (R259, R260) -/

/-- Row r of an SCACC. -/
def Matrix.scaleRow (m : Matrix) (pbase dbase r : Nat) (zero : Bool) (codes : List Nat) (supers : List Word) : Matrix :=
  (List.range 64).foldl (fun m n =>
    let p := m.acc (pbase + 64 * r + n)
    let j := dbase + 64 * r + n
    let d : Accum := if zero then ⟨0, 0#5⟩ else m.acc j
    let scale := (Fmt.f32.value (supers.getD n 0#32).toNat).mulExact (.fin false (codes.getD n 0 + 1) (-8))
    let d := (d.add (FVal.mulExact (.fin (decide (p.value < 0)) p.value.natAbs (-320)) scale)).mark p.status
    (m.setAcc j d).setAcc (pbase + 64 * r + n) ⟨0, 0#5⟩) m

/-- SCACC_PERFORM: a unit is a row. -/
def execScaccPerform (c units : Nat) (s : State) : Result :=
  .next (State.matRun c (fun k => match k with
    | .scacc p d n zero codes supers => some ⟨n, fun m q => (m.scaleRow p d q.units zero codes supers, q), id⟩
    | _ => none) units s)

/-- An accumulator read out (R88, Table 4-8). -/
def Accum.readOut (a : Accum) (t : ElemType) (mode : Word) : Nat × Flags :=
  let v : FVal :=
    if a.status.getLsbD 2 || (a.status.getLsbD 0 && a.status.getLsbD 1) then .nan true
    else if a.status.getLsbD 0 then .inf false
    else if a.status.getLsbD 1 then .inf true
    else .fin (decide (a.value < 0)) a.value.natAbs (-320)
  let r := match t.fmt with
    | some f => f.deliverVal (modeRound mode) (modeSat mode) v
    | none => toInt (modeRound mode) t v
  (r.1, r.2 ||| (if a.status.getLsbD 4 then fIX else 0#5))

/-- Row r of an MRD: its bytes, the flags, the accumulators after it. -/
def Matrix.readRow (m : Matrix) (t : ElemType) (base r : Nat) (clear : Bool) (mode : Word) : Matrix × List Byte × Flags :=
  (List.range 64).foldl (fun x n =>
    let j := base + 64 * r + n
    let o := (x.1.acc j).readOut t mode
    (if clear then x.1.setAcc j ⟨0, 0#5⟩ else x.1, x.2.1 ++ bytesOf (t.width / 8) o.1, x.2.2 ||| o.2)) (m, [], 0#5)

/-- MRD_PERFORM: a unit is a row; scratch is written at completion. -/
def execMrdPerform (c units : Nat) (s : State) : Result :=
  .next (State.matRun c (fun k => match k with
    | .mrd t base n clear mode _ => some ⟨n, fun m q =>
        let r := m.readRow t base q.units clear mode
        (r.1, { q with out := q.out ++ r.2.1, flags := q.flags ||| r.2.2 }), id⟩
    | _ => none) units s)

end Sys2Proof.Machine
end

