-- ==== Sys2Proof/Machine/Save.lean ====
section
/-! DEFINITION. Pre-emption: PHINT, IDEM, IDEND, CTXSV, CTXLD, and the steps of the save engine (R320-R328, R371). -/

namespace Sys2Proof.Machine

/-! ### Live sets (R321, R326) -/

/-- The 256-bit mask of g[a] to g[a+3]. -/
def Strand.liveMask (st : Strand) (a : Nat) : BitVec 256 := st.gr (a + 3) ++ st.gr (a + 2) ++ st.gr (a + 1) ++ st.gr a

/-- A bit for a register at or above N is *illegal instruction*. -/
def liveChecks (a : Nat) : Strand → State → List (List LaneFault) := fun st _ =>
  [if (st.liveMask a).toNat / 2 ^ st.nregs ≠ 0 then faultIn st.trapLanes .illegalInstruction else []]

/-- The group-wide registers that PHINT and IDEM read. -/
def liveUse (a b : BitVec 6) : Use := { gRead := [a.toNat, a.toNat + 1, a.toNat + 2, a.toNat + 3, b.toNat] }

/-- PHINT (R321): a pending request is served here, unless a frame is open (R322). -/
def execPhint (a b : BitVec 6) (s : State) : Result :=
  issue (.phint a b) (liveUse a b) { always := true } (liveChecks a.toNat)
    (onStrand fun old st =>
      if st.preempt.isSome && st.depth == 0 then
        { st with wait := .saving 0 (old.liveMask a.toNat) (old.gr b.toNat) none }
      else st) id s

/-- IDEM (R326). -/
def execIdem (a b : BitVec 6) (s : State) : Result :=
  issue (.idem a b) (liveUse a b) { always := true } (liveChecks a.toNat)
    (onStrand fun old st =>
      { st with region := some ⟨old.liveMask a.toNat, old.gr b.toNat, old.point.1, old.point.2, old.group⟩ }) id s

/-- IDEND (R326). -/
def execIdend (s : State) : Result :=
  issue .idend {} { always := true } noChecks (onStrand fun _ st => { st with region := none }) id s

/-! ### Requests (R320, R322, R325) -/

/-- CTXSV (R325, Table 13-10). -/
def execCtxsv (d a : BitVec 6) (s : State) : Result :=
  issueIn [.future] (.ctxsv d a) { gRead := [a.toNat], gDest := [d.toNat] } {}
    (fun st _ => [if slice (st.gr a.toNat) 63 52 ≠ 0 then faultIn st.active .illegalInstruction else []])
    (withFuture d.toNat (fun st _ => .ctxsv (slice (st.gr a.toNat) 13 8) ((st.gr a.toNat).setWidth 8))
      (fun i st s =>
        let c := s.cur.1
        let g := st.gr a.toNat
        let sl := slice g 13 8
        match s.strand? c sl with
        | none => s.completeFuture c i 0x3E
        | some x =>
          if (s.core c).gen sl ≠ g.setWidth 8 ∨ sl = s.cur.2 ∨ x.domain ≠ st.domain ∨ x.preempt.isSome then
            s.completeFuture c i 0x3E
          else s.setStrand c sl { x with preempt := some ⟨slice g 51 14 * 2 ^ 14, some st.domain, some (c, i), 0⟩ })) id s

/-- PREEMPT_REQUEST (R320): from the management cores, with a physical area, once Kuenrex runs (R349). -/
def execPreemptRequest (c sl gen area : Nat) (s : State) : Result :=
  let refuse := s.modCore c fun k => { k with events := k.events ++ [.requestRefused sl] }
  match s.strand? c sl with
  | none => .next (if s.kuenrex then refuse else s)
  | some x =>
    if !s.kuenrex then .next s
    else if ((s.core c).gen sl).toNat ≠ gen ∨ x.preempt.isSome then .next refuse
    else .next (s.setStrand c sl { x with preempt := some ⟨area, none, none, 0⟩ })

/-- The handles of the buffers that core c holds for a block, with their home cores (R323). -/
def State.heldHandles (s : State) (c launch : Nat) (block : DWord) : List Word :=
  ((List.range 8).map (· + 8 * (c / 8))).flatMap fun k =>
    ((s.core k).buffers.filter fun b => b.holder == some c && b.launch == launch && b.block == block).map fun b => b.handle k

/-- The granules of core c that buffers it holds for a block cover. -/
def State.heldGranules (s : State) (c launch : Nat) (block : DWord) : DWord :=
  maskOf (((s.core c).buffers.filter fun b => b.heldFor c launch block).flatMap fun b =>
    (List.range b.count).map (· + b.first))

/-- FULL_SAVE_TIMEOUT (R322): a strand in U mode whose request has waited 100 us is saved in full at its next word; its
wait at a barrier goes on. -/
def execFullSaveTimeout (c sl : Nat) (s : State) : Result :=
  match s.strand? c sl with
  | none => .next s
  | some st =>
    match st.preempt with
    | none => .next s
    | some p =>
      let granules : DWord := if st.member then s.heldGranules c st.launch st.block else 0#64
      let start (bar : Option (Nat × BitVec 32 × LaneMask)) : State :=
        s.setStrand c sl { st with wait := .saving 1 (BitVec.ofNat 256 (2 ^ st.nregs - 1)) granules bar }
      if p.waited < 100000000 ∨ st.mode ≠ .u ∨ st.depth ≠ 0 then .next s
      else match st.wait with
        | .none => .next (start none)
        | .bar n ph m | .barw n ph m => .next (start (some (n, ph, m)))
        | _ => .next s

/-! ### The save area (Table 13-9) -/

/-- Tag code of a register (Table 6-1). -/
def tagCode : Option VReg → Nat
  | none => 0
  | some (.uniform _) => 1
  | some (.affine ..) => 2
  | some (.general _) => 3

/-- The words that are saved of a register. -/
def savedWords (w : Nat) : Option VReg → List Word
  | none => []
  | some (.uniform u) => [u]
  | some (.affine b st) => [b, st]
  | some (.general ws) => (List.range w).map fun l => ws.getD l 0#32

/-- n list elements as numbers of k bytes, padded with zero. -/
def padBytes (n k : Nat) (xs : List Nat) : List Byte := (List.range n).flatMap fun i => bytesOf k (xs.getD i 0)

/-- Bytes padded with zero to a multiple of 256. -/
def pad256 (bs : List Byte) : List Byte := bs ++ List.replicate ((256 - bs.length % 256) % 256) 0#8

/-- What a save writes of a strand: kind, live set, resume point and group-wide state. -/
structure SaveSet where
  kind     : Nat
  live     : BitVec 256
  granules : DWord
  resume   : DWord × Nat
  group    : Group
  bar      : Option (Nat × BitVec 32 × LaneMask)
  deriving DecidableEq, Repr

/-- What is saved: with a region open, its live-in set and the state at IDEM (R328). -/
def Strand.saveSet (st : Strand) (kind : Nat) (live : BitVec 256) (granules : DWord)
    (bar : Option (Nat × BitVec 32 × LaneMask)) : SaveSet :=
  match st.region with
  | some r => ⟨2, r.live, r.granules, (r.clause, r.idx), r.group, none⟩
  | none => ⟨kind, live, granules, st.point, st.group, bar⟩

/-- The bytes of a save area. The size counts every byte written, padding only before granules (Table 20-4); the identifier
is 0 until a restore. -/
def saveBytes (k : CoreSt) (c sl : Nat) (st : Strand) (x : SaveSet) (handles : List Word) : List Byte :=
  let g := x.group
  let live (r : Nat) : Option VReg := if x.live.getLsbD r then st.vreg? r else none
  let tags := (List.range 256).foldl (fun n r => n + tagCode (live r) * 4 ^ r) 0
  let bar := match x.bar with
    | some (n, p, _) => (n, p.toNat)
    | none => (0xFF, 0)
  let header (size : Nat) : List Byte :=
    bytesOf 4 size ++ bytesOf 1 x.kind ++ bytesOf 1 (Nat.log2 (st.width / 8)) ++ bytesOf 2 st.nregs ++
    bytesOf 8 x.resume.1.toNat ++ bytesOf 1 x.resume.2 ++ bytesOf 1 g.rstack.length ++ bytesOf 1 g.lstack.length ++
    bytesOf 1 g.phase ++ bytesOf 4 g.mode.toNat ++ bytesOf 1 g.astat.toNat ++ bytesOf 1 g.aten.toNat ++
    bytesOf 1 g.policy ++ bytesOf 1 0 ++ bytesOf 2 g.window.toNat ++ bytesOf 2 g.depSerial.toNat ++
    bytesOf 8 (launchNumber st.launch) ++ bytesOf 8 st.block.toNat ++ bytesOf 8 st.lineage.toNat ++ bytesOf 4 g.batch.toNat ++
    bytesOf 2 c ++ bytesOf 1 sl ++ bytesOf 1 (k.gen sl).toNat ++
    bytesOf 8 g.gang.toNat ++ bytesOf 8 st.live.toNat ++
    bytesOf 1 bar.1 ++ bytesOf 7 0 ++ bytesOf 8 bar.2 ++ bytesOf 8 0 ++
    bytesOf 8 x.granules.toNat ++ bytesOf 32 x.live.toNat ++ bytesOf 64 tags ++ bytesOf 16 0 ++
    padBytes 64 8 ((List.range 64).map fun i => (g.gr i).toNat) ++ bytesOf 2 g.q.toNat ++ bytesOf 6 0 ++
    padBytes 16 8 ((List.range 16).map fun i => (g.kr i).toNat) ++ padBytes 32 8 (g.rstack.map BitVec.toNat) ++
    padBytes 12 8 (g.lstack.flatMap fun e => [e.endAt.toNat, e.body.toNat, e.remaining.toNat]) ++
    padBytes 64 4 (handles.map BitVec.toNat) ++ List.replicate 56 0#8
  let preds := (List.range st.width).flatMap fun l =>
    bytesOf 16 ((List.range 128).foldl (fun n i => if (st.pr i).getLsbD l then n + 2 ^ i else n) 0)
  let regs := (List.range 256).flatMap fun r => bytesOfWords (savedWords st.width (live r))
  let grans := (lanesOf x.granules).flatMap fun j => Assoc.read 0#8 k.scratch (j * granuleBytes) granuleBytes
  let whole (size : Nat) : List Byte :=
    if grans.isEmpty then header size ++ preds ++ regs else pad256 (header size ++ preds ++ regs) ++ grans
  whole (whole 0).length

/-- Whose accesses the save engine makes for a request: the supervisor's that placed it, under its domain and key, or those
of the management cores at physical addresses, the same at a save and at a restore (R320, R371; log 76). -/
def State.engineWho (s : State) (c : Nat) (domain : Option (BitVec 16)) (future : Option Nat) (launch : Nat) : Who :=
  let dom := domain.getD 0xFFFF#16
  let key := match future.bind fun i => Assoc.find (s.core c).futures i with
    | some f => f.keyid
    | none => (s.domainEntry dom.toNat).key
  ⟨c, dom, key, .s, launch⟩

/-- A write of the save engine at a virtual or physical address; the failing address with a fault (R320, R324). -/
def State.engineWrite (s : State) (w : Who) (domain : Option (BitVec 16)) (addr : Nat) (bs : List Byte) :
    State × Except (Fail × Nat) Unit :=
  match domain with
  | some _ => s.writeV w addr bs
  | none =>
    if tierOf addr = none ∨ tierOf (addr + bs.length - 1) = none then (s, .error ((.translation, 0), addr))
    else match s.writeAt w addr bs with
      | (s, some (k, pa)) => (s, .error ((k, 0), pa))
      | (s, none) => (s, .ok ())

/-- A read of the save engine. -/
def State.engineRead (s : State) (w : Who) (domain : Option (BitVec 16)) (addr n : Nat) :
    State × Except Fail (List Byte) :=
  match domain with
  | some _ => s.readV w addr n
  | none =>
    if tierOf addr = none ∨ tierOf (addr + n - 1) = none then (s, .error (.translation, 0)) else s.readPhys w addr n

/-! ### STRAND_SAVE (R323, R324) -/

/-- The answer to a request: the status of its future, or an event for Kuenrex. -/
def State.answerSave (s : State) (c sl : Nat) (p : Preempt) (status : Nat) : State :=
  match p.future with
  | some (k, i) => s.completeFuture k i status
  | none => s.modCore c fun k => { k with events := k.events ++ [.saved sl (BitVec.ofNat 64 status)] }

/-- The MMSPs of a saved strand that stand in the matrix queue are to stop at a unit boundary, as FCANCEL stops them (R257). -/
def State.stopMmsp (s : State) (c sl : Nat) (gen : BitVec 8) : State :=
  let mine (q : MatOp) : Bool :=
    (match q.kind with
      | .mmsp .. => true
      | _ => false) && q.strands.contains (sl, gen)
  s.modCore c fun k => (k.matrix.queue.filter mine).foldl (fun k q =>
    match q.future.bind fun i => (Assoc.find k.futures i).map fun f => (i, f) with
    | some (i, f) => { k with futures := Assoc.set k.futures i { f with cancel := true } }
    | none => k) k

/-- The buffers of a block on core c are released once no strand of the block is resident there: granules are cleared,
handles stay live. Those released now. -/
def State.parkBuffers (s : State) (c launch : Nat) (block : DWord) : State × List Word :=
  if (s.core c).slots.any fun x => x.2.member && x.2.launch == launch && x.2.block == block then (s, [])
  else
    let bs := (s.core c).buffers.filter fun b => b.heldFor c launch block
    (bs.foldl (fun s b => s.modCore c fun k =>
        { k.setBuffer { b with parked := true } with
          clearing := k.clearing ++ (List.range b.count).map (· + b.first) }) s,
     bs.map fun b => b.handle c)

/-- Whether the save of a strand must wait for a gather of it that still reads (R230), or for copies (R214, R323): its own, and, where its save releases the buffers of its
block on core c, those that another strand of the block issued there, and the block's scratch writes to them (R92; log 83). -/
def State.saveWaits (s : State) (c sl : Nat) (st : Strand) : Bool :=
  let k := s.core c
  let alone := st.member && !k.slots.any fun x =>
    x.1 != sl && x.2.member && x.2.launch == st.launch && x.2.block == st.block
  k.gathers sl (k.gen sl) || (k.copies.any fun q => (q.slot == sl && q.gen == k.gen sl) || (alone && q.launch == st.launch && q.block == st.block)) ||
  (alone && (s.block? st.launch st.block).any fun b => s.storing b fun y => y.heldFor c st.launch st.block)

/-- The strand of a slot leaves its slot, saved: its registers and cursors go, its threads stay counted. What a departure has
asked of other packages is given up. -/
def State.swapOut (s : State) (c sl : Nat) (st : Strand) (bar : Option (Nat × BitVec 32 × LaneMask)) : State :=
  let g := (s.core c).gen sl
  let s := (s.dropInquiry c sl).stopMmsp c sl g
  let s := s.modCore c fun k => { k with
    slots := Assoc.erase k.slots sl
    gens := Assoc.put 0#8 k.gens sl (g + 1#8)
    cursors := k.cursors.filter fun x => !(x.2.slot == sl && x.2.gen == g) }
  let r := if st.member then s.parkBuffers c st.launch st.block else (s, [])
  let note : SavedNote :=
    { launch := st.launch, block := st.block, lineage := st.lineage, slot := sl, gen := g, sindex := st.sindex,
      baseId := st.baseId, member := st.member, prio := st.prio, codeBase := st.codeBase, domain := st.domain,
      keyid := st.keyid, exited := st.exited, departed := st.departed, bar := bar, broken := false, parked := r.2,
      kept := st.kept, names := st.names ++ [(sl, g)], astat := 0#5 }
  r.1.modCore c fun k => { k with saved := k.saved ++ [note] }.pruneNames

/-- STRAND_SAVE: once no operation and no copy of the strand is in flight its area is written and its slot released; a
faulting write leaves the strand where it is, and so does a granule that cannot be consumed (log 57). -/
def execStrandSave (c sl : Nat) (s : State) : Result :=
  match s.strand? c sl with
  | none => .next s
  | some st =>
    match st.wait, st.preempt with
    | .saving kind live granules bar, some p =>
      if !((s.core c).strandOps sl).isEmpty || s.saveWaits c sl st then .next s
      else
        let x := st.saveSet kind live granules bar
        let handles := if st.member then s.heldHandles c st.launch st.block else []
        let w := s.engineWho c p.domain (p.future.map (·.2)) st.launch
        let fail (s : State) (k : Cause) (at_ : Nat) : Result :=
          let wait : Wait := match bar with
            | some (n, ph, m) => .barw n ph m
            | none => .none
          let s := (s.setStrand c sl { st with wait := wait, preempt := none }).count c 0x0007
          .next (s.answerSave c sl p (0x3C + k.code * 256 + at_ % 2 ^ 52 / 16 * 65536))
        match (lanesOf x.granules).findSome? fun j => (s.core c).badRange (j * granuleBytes) granuleBytes with
        | some k => fail s k 0
        | none =>
          match s.engineWrite w p.domain p.area (saveBytes (s.core c) c sl st x handles) with
          | (s, .error (f, va)) => fail s f.1 va
          | (s, .ok ()) =>
            let s := s.count c (if x.kind = 2 then 0x0006 else if x.kind = 1 then 0x0005 else 0x0004)
            .next ((s.swapOut c sl st x.bar).answerSave c sl p 0)
    | _, _ => .next s

/-! ### STRAND_RESTORE (R325, R371) -/

/-- The answer to a restore: the status of its future, or an event for Kuenrex. -/
def State.answerRestore (s : State) (c : Nat) (r : Restore) (status : Nat) (ident : Word) : State :=
  match r.future with
  | some i => s.completeFuture c i status
  | none => s.modCore c fun k => { k with events := k.events ++ [.restored status ident] }

/-- A field of an area. -/
def areaAt (bs : List Byte) (o n : Nat) : Nat := natOf ((bs.drop o).take n)

/-- The registers read back with their tags, from the words that follow the predicates. -/
def readRegs (w tags : Nat) : List Nat → List Word → List (Nat × VReg)
  | [], _ => []
  | r :: rs, ws =>
    match tags / 4 ^ r % 4 with
    | 0 => readRegs w tags rs ws
    | 1 => (r, .uniform (ws.getD 0 0#32)) :: readRegs w tags rs (ws.drop 1)
    | 2 => (r, .affine (ws.getD 0 0#32) (ws.getD 1 0#32)) :: readRegs w tags rs (ws.drop 2)
    | _ => (r, .general (ws.take w)) :: readRegs w tags rs (ws.drop w)

/-- Words that the tags of an area account for. -/
def areaWords (w tags : Nat) : Nat :=
  (List.range 256).foldl (fun n r => n + (match tags / 4 ^ r % 4 with
    | 0 => 0
    | 1 => 1
    | 2 => 2
    | _ => w)) 0

/-- Numbers of k bytes each, as non-zero entries of a register file. -/
def readFile (bs : List Byte) (n : Nat) : List (Nat × DWord) :=
  Assoc.run 0#64 0 ((List.range n).map fun i => BitVec.ofNat 64 (areaAt bs (8 * i) 8))

/-- The group-wide state of an area. -/
def areaGroup (bs : List Byte) : Group :=
  { g := readFile (bs.drop 224) 64, q := BitVec.ofNat 16 (areaAt bs 736 2), k := readFile (bs.drop 744) 16,
    mode := BitVec.ofNat 32 (areaAt bs 20 4),
    rstack := (List.range (areaAt bs 17 1)).map fun i => BitVec.ofNat 64 (areaAt bs (872 + 8 * i) 8),
    lstack := (List.range (areaAt bs 18 1)).map fun i =>
      ⟨BitVec.ofNat 64 (areaAt bs (1128 + 24 * i) 8), BitVec.ofNat 64 (areaAt bs (1136 + 24 * i) 8),
       BitVec.ofNat 64 (areaAt bs (1144 + 24 * i) 8)⟩,
    astat := BitVec.ofNat 5 (areaAt bs 24 1), aten := BitVec.ofNat 5 (areaAt bs 25 1), policy := areaAt bs 26 1,
    window := BitVec.ofNat 16 (areaAt bs 28 2), phase := areaAt bs 19 1, gang := BitVec.ofNat 64 (areaAt bs 64 8),
    batch := BitVec.ofNat 32 (areaAt bs 56 4), depSerial := BitVec.ofNat 16 (areaAt bs 30 2) }

/-- Predicates of an area: predicate i of every thread. -/
def areaPreds (bs : List Byte) (w : Nat) : List (Nat × LaneMask) :=
  Assoc.run 0#64 0 ((List.range 128).map fun i =>
    maskOf ((List.range w).filter fun l => (areaAt bs (1536 + 16 * l) 16).testBit i))

/-- The note of the saved strand that an area names. -/
def CoreSt.noteOf (k : CoreSt) (bs : List Byte) : Option SavedNote :=
  k.saved.find? fun x => launchNumber x.launch == areaAt bs 32 8 && x.block.toNat == areaAt bs 40 8 &&
    x.lineage.toNat == areaAt bs 48 8 && x.slot == areaAt bs 62 1 && x.gen.toNat == areaAt bs 63 1

/-- Whether a header can be that of a save area (Table 13-9). -/
def areaShape (bs : List Byte) : Bool :=
  let n := areaAt bs 6 2
  decide (areaAt bs 4 1 ≤ 2) && decide (areaAt bs 5 1 ≤ 3) && decide (8 ≤ n) && decide (n ≤ 256) && decide (n % 8 = 0) &&
  decide (areaAt bs 16 1 ≤ 7) && decide (areaAt bs 17 1 ≤ 32) && decide (areaAt bs 18 1 ≤ 4) &&
  decide (areaAt bs 19 1 ≤ 3) && decide (areaAt bs 26 1 ≤ 2) && areaAt bs 112 32 / 2 ^ n == 0

/-- Whether a header can be that of a saved strand's area: the live mask is its. -/
def areaLegal (bs : List Byte) (x : SavedNote) : Bool :=
  areaShape bs &&
  BitVec.ofNat 64 (areaAt bs 72 8) == maskBelow (8 * 2 ^ areaAt bs 5 1) &&& ~~~ x.exited &&& ~~~ x.departed

/-- Where the granules of an area start. -/
def areaGranules (bs : List Byte) : Nat :=
  let w := 8 * 2 ^ areaAt bs 5 1
  (1536 + 16 * w + 4 * areaWords w (areaAt bs 144 64) + 255) / 256 * 256

/-- The granule mask of an area. -/
def areaMask (bs : List Byte) : DWord := BitVec.ofNat 64 (areaAt bs 104 8)

/-- A restore request joins the core's, the area read at that instant (R230): its bytes, or the status of the reading that
failed; of an area whose header is malformed no more than the header. -/
def State.queueRestore (s : State) (c area : Nat) (domain : Option (BitVec 16)) (future : Option Nat) : State :=
  let w := s.engineWho c domain future 0
  let join (s : State) (bs : List Byte) (status : Nat) : State :=
    s.modCore c fun k => { k with restores := k.restores ++ [⟨area, domain, future, bs, status⟩] }
  match s.engineRead w domain area 1536 with
  | (s, .error f) => join s [] f.1.code
  | (s, .ok head) =>
    if areaShape head then
      match s.engineRead w domain area (areaGranules head + granuleBytes * popCount (areaMask head)) with
      | (s, .error f) => join s [] f.1.code
      | (s, .ok bs) => join s bs 0
    else join s head 0

/-- CTXLD (R325): the area is read at issue, after the strand's earlier accesses (R230, log 28). -/
def execCtxld (d a : BitVec 6) (s : State) : Result :=
  issueIn [.future] (.ctxld d a) { gRead := [a.toNat], gDest := [d.toNat] } {}
    (fun st _ => [if slice (st.gr a.toNat) 63 52 ≠ 0 then faultIn st.active .illegalInstruction else []])
    (fun st s =>
      if !s.accessesDone s.cur.1 s.cur.2 then .error id
      else
        (withFuture d.toNat (fun st _ => .ctxld (slice (st.gr a.toNat) 51 14 * 2 ^ 14))
          (fun i st s => s.queueRestore s.cur.1 (slice (st.gr a.toNat) 51 14 * 2 ^ 14) (some st.domain) (some i))) st s) id s

/-- KUENREX_RESTORE (R371): a restore with a physical area, once Kuenrex runs (R349). -/
def execKuenrexRestore (c area : Nat) (s : State) : Result :=
  .next (if s.kuenrex then s.queueRestore c area none none else s)

/-- Whether the strand of an area has room on core c, apart from barrier slots, which its block keeps (R100). -/
def State.restoreFits (s : State) (c w n : Nat) : Bool :=
  let k := s.core c
  !k.freeSlots.isEmpty && decide (k.slots.foldl (fun m y => m + y.2.width) 0 + w ≤ 4096) &&
  decide (k.slots.foldl (fun m y => m + y.2.width * y.2.nregs) 0 + w * n ≤ 196608)

/-- The parked buffers of a block on core c. -/
def CoreSt.parkedOf (k : CoreSt) (c : Nat) (x : SavedNote) : List Buffer :=
  k.buffers.filter fun b => b.parked && b.holder == some c && b.launch == x.launch && b.block == x.block && x.member

/-- Whether every granule of a parked buffer can be had again. -/
def CoreSt.unparkable (k : CoreSt) (b : Buffer) : Bool :=
  (List.range b.count).all fun i => !k.buffers.any fun y => y.covers (b.first + i)

/-- Parked buffers get their granules back, zero. -/
def CoreSt.unpark (k : CoreSt) (bs : List Buffer) : CoreSt :=
  bs.foldl (fun k b =>
    let mine := (List.range b.count).map (· + b.first)
    let k := mine.foldl CoreSt.clearGranule (k.setBuffer { b with parked := false })
    { k with clearing := k.clearing.filter fun j => !mine.contains j }) k

/-- The strand rebuilt from its area (R325), with the flags that its queued work raised meanwhile (R88). -/
def restored (bs : List Byte) (x : SavedNote) (age : Nat) (barrier : Option (Nat × BitVec 32 × LaneMask)) : Strand :=
  let w := 8 * 2 ^ areaAt bs 5 1
  let n := areaAt bs 6 2
  let tags := areaAt bs 144 64
  let words := wordsOf (areaWords w tags) (bs.drop (1536 + 16 * w))
  { launch := x.launch, block := x.block, sindex := x.sindex, baseId := x.baseId, lineage := x.lineage,
    member := x.member, width := w, nregs := n, prio := x.prio, codeBase := x.codeBase, age := age, passed := 0,
    urgent := false, pc := BitVec.ofNat 64 (areaAt bs 8 8), pcIdx := areaAt bs 16 1, clause := none,
    group := { areaGroup bs with astat := (areaGroup bs).astat ||| x.astat }, gpend := 0#64,
    v := readRegs w tags (List.range n) words, vpend := 0#256,
    p := areaPreds bs w, flags := 0xFFF#12, exited := x.exited, departed := x.departed,
    kept := x.kept, names := x.names, issued := 0, stalled := 0,
    mode := .u, prevMode := .u, depth := 0, frames := [], trapCause := [], trapMask := 0#64, domain := x.domain,
    keyid := x.keyid, preempt := none, region := none, inquiry := none,
    wait := match barrier with
      | some (b, p, m) => .barw b p m
      | none => .none }

/-- The live granules of an area that lie in buffers of a list, written back (R325). -/
def putGranules (bs : List Byte) (start : Nat) (bufs : List Buffer) : Nat → List Nat → CoreSt → CoreSt
  | _, [], k => k
  | i, j :: js, k =>
    let part := (bs.drop (start + i * granuleBytes)).take granuleBytes
    let x := k.clearGranule j
    let k := if bufs.any fun b => b.covers j then { x with scratch := Assoc.splice 0#8 x.scratch (j * granuleBytes) part }
      else k
    putGranules bs start bufs (i + 1) js k

/-- Whether the launch of a saved strand has ended; one of another package's is not known to. -/
def State.launchEnded (s : State) (n : Nat) : Bool :=
  launchOwn n && (match Assoc.find s.launches n with
    | some l => l.complete
    | none => true)

/-- A saved strand put in slot sl of core c from the bytes of its area: its buffers, its registers and its wait. It is the youngest
strand of the package from then on (R101; DESIGN CHOICE, log 104). -/
def State.reseat (s : State) (c sl : Nat) (x : SavedNote) (bs : List Byte) : State :=
  let k := s.core c
  let parked := k.parkedOf c x
  let own := k.buffers.filter fun b => x.parked.contains (b.handle c)
  let bufs := (parked ++ own).map fun b => { b with parked := false }
  let s := s.modCore c fun k =>
    let k := { k.unpark parked with saved := k.saved.filter fun y => y != x }
    putGranules bs (areaGranules bs) bufs 0 (lanesOf (areaMask bs)) k
  let s := { s.setStrand c sl (restored bs x s.nextAge x.bar) with nextAge := s.nextAge + 1 }
  match x.bar, x.broken with
  | some (_, _, m), true => s.breakStrand c sl m
  | _, _ => s

/-- STRAND_RESTORE: the oldest restore request of a core. -/
def execStrandRestore (c : Nat) (s : State) : Result :=
  match (s.core c).restores with
  | [] => .next s
  | r :: rest =>
    let s := s.modCore c fun k => { k with restores := rest }
    let done (s : State) (status : Nat) (ident : Word) : Result := .next (s.answerRestore c r status ident)
    if r.status ≠ 0 then done s r.status 0#32
    else match (s.core c).noteOf r.bytes with
      | none => done s 0x3E 0#32
      | some x =>
        let k := s.core c
        if areaAt r.bytes 60 2 ≠ c ∨ !areaLegal r.bytes x ∨ s.launchEnded x.launch then done s 0x3E 0#32
        else if !s.restoreFits c (8 * 2 ^ areaAt r.bytes 5 1) (areaAt r.bytes 6 2) ||
            (k.parkedOf c x).any (fun b => !k.unparkable b) then done s 0x3D 0#32
        else
          let sl := k.freeSlots.headD 0
          let ident := c * 2 ^ 16 + sl * 2 ^ 8 + (k.gen sl).toNat
          match s.engineWrite (s.engineWho c r.domain r.future 0) r.domain (r.area + 96) (bytesOf 8 ident) with
          | (s, .error (f, _)) => done s f.1.code 0#32
          | (s, .ok ()) => done (s.reseat c sl x r.bytes) 0 (BitVec.ofNat 32 ident)

end Sys2Proof.Machine
end

