-- ==== Sys2Proof/Machine/Special.lean ====
section
/-! DEFINITION. Special functions, rounding and scaling, classification, opcodes 0x47 to 0x4F and 0x59 (R143, R148). -/

namespace Sys2Proof.Machine

/-- Types of RINT, SCL and FCLS. -/
def typesFloat (t : ElemType) : Bool := t.isFlt || t.isF8

/-- A float function as an element-wise operation; a type without a format does not come here. -/
def elFloat (f : Fmt → Rounding → Bool → FVal → Nat × Flags) (c : Arith) : ElemOp := fun x _ _ =>
  match c.t.fmt with
  | some g => f g c.r c.sat (g.value x)
  | none => (x, 0#5)

/-- A special function of a (R143). -/
def floatWord (i : Instr) (types : ElemType → Bool) (f : Fmt → Rounding → Bool → FVal → Nat × Flags) (d a : BitVec 8)
    (s : State) : Result :=
  elemWord i types (elFloat f) d.toNat a.toNat none false plain s

/-- RCP (R143). -/
def execRcp (d a : BitVec 8) (s : State) : Result := floatWord (.rcp d a) ElemType.isFlt Fmt.rcp d a s
/-- RSQ (R143). -/
def execRsq (d a : BitVec 8) (s : State) : Result := floatWord (.rsq d a) ElemType.isFlt Fmt.rsq d a s
/-- SQRT (R143). -/
def execSqrt (d a : BitVec 8) (s : State) : Result := floatWord (.sqrt d a) ElemType.isFlt Fmt.sqrt d a s
/-- EX2 (R143). -/
def execEx2 (d a : BitVec 8) (s : State) : Result := floatWord (.ex2 d a) ElemType.isFlt Fmt.ex2 d a s
/-- LG2 (R143). -/
def execLg2 (d a : BitVec 8) (s : State) : Result := floatWord (.lg2 d a) ElemType.isFlt Fmt.lg2 d a s

/-- The counter of free values moves past those that a word may have taken (log 3): one for each element of 64 lanes. -/
def State.spend (s : State) : State := { s with fresh := s.fresh + 512 }

/-- SINPI or COSPI in a lane: which bracketing value each element takes is free (R81, log 9). -/
def sinCosLane (cos : Bool) (fresh a : Nat) : LaneFn := fun st l =>
  let c := arithOf st.group.mode
  match c.t.fmt with
  | none => ([st.vlane a l], 0#5)
  | some f =>
    let first := if (st.uniform? a).isSome then 0 else l
    let rs := (List.range c.t.count).map fun i =>
      f.sinCosPi (Config.faithfulUp (fresh + 8 * first + i)) cos (f.value (elemAt c.t.width (st.vlane a l).toNat i))
    ([BitVec.ofNat 32 (packElems c.t.width (rs.map (·.1)))], orFlags (rs.map (·.2)))

/-- SINPI and COSPI (R143). -/
def sinCosWord (i : Instr) (cos : Bool) (d a : BitVec 8) (s : State) : Result :=
  let u := elemUse s.modeWord d.toNat a.toNat none false
  let f := sinCosLane cos s.fresh a.toNat
  issue i u { types := typeIs s.modeWord ElemType.isFlt } (fun st _ => [arithFaults st (laneFlagsOf f st)])
    (fun st s => .ok (s.spend.modHere (vecEffect u plain f st), .seq)) id s

/-- SINPI (R143). -/
def execSinpi (d a : BitVec 8) (s : State) : Result := sinCosWord (.sinpi d a) false d a s
/-- COSPI (R143). -/
def execCospi (d a : BitVec 8) (s : State) : Result := sinCosWord (.cospi d a) true d a s

/-- RINT (R143). -/
def execRint (d a : BitVec 8) (s : State) : Result := floatWord (.rint d a) typesFloat Fmt.rint d a s

/-- SCL on an element: the count is the element of b as a signed integer of the element width (R143). -/
def elScl (c : Arith) : ElemOp := fun x y _ =>
  match c.t.fmt with
  | some g =>
    let n : Int := if y.testBit (c.t.width - 1) then (y : Int) - 2 ^ c.t.width else y
    g.scl c.r c.sat (g.value x) n
  | none => (x, 0#5)

/-- SCL (R143). -/
def execScl (d a b : BitVec 8) (s : State) : Result :=
  elemWord (.scl d a b) typesFloat elScl d.toNat a.toNat (some b.toNat) false plain s

/-- FCLS on an element (R148). -/
def elFcls (c : Arith) : ElemOp := fun x _ _ =>
  match c.t.fmt with
  | some g => (g.classCode x, 0#5)
  | none => (x, 0#5)

/-- FCLS (R148). -/
def execFcls (d a : BitVec 8) (s : State) : Result :=
  elemWord (.fcls d a) typesFloat elFcls d.toNat a.toNat none false plain s

end Sys2Proof.Machine
end

