-- ==== Sys2Proof/Machine/Sync.lean ====
section
/-! DEFINITION. The barrier instructions (R329-R335). -/

namespace Sys2Proof.Machine

/-- The block of a member strand, and the state of its barrier n, if the block has one (R331, R275). -/
def State.barrierOf (s : State) (st : Strand) (n : Nat) : Option (Block × Barrier) :=
  if !st.member then none
  else match s.block? st.launch st.block with
    | none => none
    | some b => match b.barriers[n]? with
      | some x => some (b, x)
      | none => none

/-- The checks of a barrier word (R331, R313): the number, then a count, then a break. -/
def barrierChecks (n : Nat) (brk : Bool) (count : Strand → Bool) : Strand → State → List (List LaneFault) := fun st s =>
  match s.barrierOf st n with
  | none => [faultIn st.active .illegalInstruction]
  | some (_, x) =>
    [if count st then [] else faultIn st.active .illegalInstruction,
     if brk && x.broken then faultIn st.active .barrierBroken else []]

/-- The phase of a barrier of the strand's block. -/
def State.phaseOf (s : State) (st : Strand) (n : Nat) : BitVec 32 :=
  match s.barrierOf st n with
  | some (_, x) => x.phase
  | none => 0#32

/-- BAR (R333, R334): an arrival, which is a release and so follows the strand's earlier accesses; then the wait. -/
def execBar (n : BitVec 4) (s : State) : Result :=
  issue (.bar n) {} {} (barrierChecks n.toNat true fun _ => true)
    (fun st s =>
      if !s.accessesDone s.cur.1 s.cur.2 then .error id
      else
        let s := s.modHere fun x => { x with wait := .bar n.toNat (s.phaseOf st n.toNat) st.active }
        .ok (s.atBarrier st.launch st.block n.toNat
          fun b => { b with arrived := b.arrived + popCount st.active }, .seq)) id s

/-- BARA (R333, R334). -/
def execBara (d a : BitVec 6) (n : BitVec 4) (s : State) : Result :=
  let count (st : Strand) : Nat := (st.gr a.toNat).toNat
  issue (.bara d a n) { gRead := [a.toNat], gDest := [d.toNat] } {}
    (barrierChecks n.toNat true fun st => decide (count st ≤ 32768))
    (fun st s =>
      if count st ≠ 0 ∧ !s.accessesDone s.cur.1 s.cur.2 then .error id
      else
        let s := s.modHere fun x => x.setG d.toNat ((s.phaseOf st n.toNat).setWidth 64)
        .ok (if count st = 0 then s
          else s.atBarrier st.launch st.block n.toNat fun b => { b with arrived := b.arrived + count st }, .seq)) id s

/-- BARW (R333). -/
def execBarw (a : BitVec 6) (n : BitVec 4) (s : State) : Result :=
  issue (.barw a n) { gRead := [a.toNat] } {} (barrierChecks n.toNat true fun _ => true)
    (fun st s =>
      let w : Wait := .barw n.toNat (lo32 (st.gr a.toNat)) st.active
      .ok (if w.passed n.toNat (s.phaseOf st n.toNat) then s else s.modHere fun x => { x with wait := w }, .seq)) id s

/-- BARINIT (R333). -/
def execBarinit (a : BitVec 6) (n : BitVec 4) (s : State) : Result :=
  let e (st : Strand) : Nat := (st.gr a.toNat).toNat
  issue (.barinit a n) { gRead := [a.toNat] } {}
    (barrierChecks n.toNat false fun st => decide (1 ≤ e st) && decide (e st ≤ 32768))
    (fun st s =>
      .ok (s.atBarrier st.launch st.block n.toNat fun b =>
        { b with expected := e st, broken := false, arrived := if b.broken then 0 else b.arrived }, .seq)) id s

end Sys2Proof.Machine
end

