-- ==== Sys2Proof/Machine/System.lean ====
section
/-! DEFINITION. Freeze and read-out, package reset, the boot chain, and attestation (R349-R353, R358-R361). -/

namespace Sys2Proof.Machine

/-! ### Freeze (R358-R361) -/

/-- The level of the FREEZE pin; a rising edge freezes the package. -/
def State.setPin (s : State) (high : Bool) : State :=
  let rising := high && !s.freeze.pin
  let s := { s with freeze := { s.freeze with pin := high } }
  if rising then s.freezeBy 1 else s

/-- FREEZE: a rising edge of the pin. -/
def execFreeze (s : State) : Result := .next (s.setPin true)

/-- CORE_CYCLE_COUNTER_MATCH (R358, source 4). -/
def execCoreCycleCounterMatch (s : State) : Result :=
  if s.freeze.armedCycle = some s.cycles.toNat then .next (s.freezeBy 4) else .next s

/-- A core as it is read out: memory of the package is no part of it. -/
def CoreSt.shown (k : CoreSt) : CoreSt :=
  { k with futures := k.futures.map fun f => match f.2.kind with
    | .gathRemote record dest request _ => (f.1, { f.2 with kind := .gathRemote record dest request Mem.reset })
    | _ => f }

/-- What enfleurage reads of the package (R359): everything but HBM and the capacity tier, the boot flash, and which array rows are
defective and replaced, which no readable state shows (R15). -/
def State.readOut (s : State) : ReadOut :=
  { caches := s.stackCtl.map fun x => (x.1, x.2.cache.map fun n => (n, s.mem.bytes (32 * n) 32))
    cores := s.cores.map fun k => (k.1, k.2.shown), stackCtl := s.stackCtl, banks := s.banks, launches := s.launches, blocks := s.blocks,
    faultQ := s.faultQ, transit := s.transit, links := s.links, acks := s.acks, domains := s.domains, slate := s.slate,
    cycles := s.cycles, slow := s.slow, coreMHz := s.coreMHz, blockBase := s.blockBase, overflows := s.overflows,
    keyEpoch := s.keyEpoch, pointer := s.pointer, nextLaunch := s.nextLaunch, nextAge := s.nextAge,
    tables := s.tables, tableGens := s.tableGens, oldStores := s.oldStores, timePs := s.timePs,
    boot := { s.boot with flash := [], history := [], badRows := [], rowMap := [] }, mgmt := s.mgmt, status := s.freeze.status,
    control := s.freeze.control, armedTrap := s.freeze.armedTrap, armedQueue := s.freeze.armedQueue,
    armedCore := s.freeze.armedCore, armedCycle := s.freeze.armedCycle }

/-- ENFLEURAGE_READOUT (R359): the state of a frozen package is read without being changed. -/
def execEnfleurageReadout (s : State) : Result :=
  let s := s.stopClocks
  if s.freeze.frozen then .next { s with freeze := { s.freeze with readouts := s.freeze.readouts ++ [s.readOut] } } else .next s

/-- RESUME (R361): allowed when no flit was in flight at the stop and the pin is low; else REFUSED is set. -/
def execResume (s : State) : Result :=
  let s := s.stopClocks
  let z := s.freeze
  if z.frozen && z.status.getLsbD 9 && !z.pin then
    .next { s with freeze := { z with frozen := false, sameCycle := false, status := 0#32 } }
  else .next { s with freeze := { z with control := z.control ||| 4#32 } }

/-- RESET (R361): a package reset is asked for. -/
def execReset (s : State) : Result := .next { s with freeze := { s.freeze with resetAsked := true } }

/-- REFUSED_CLEAR (Table 15-6, W1C). -/
def execRefusedClear (s : State) : Result :=
  .next { s with freeze := { s.freeze with control := s.freeze.control &&& ~~~ 4#32 } }

/-! ### Reset and boot (R349-R352, R363) -/

/-- The die of a core (R11). -/
def coreDie (c : Nat) : Nat := coreStack c / 2

/-- The spare cores after a reset: one that has stood in for a core reported degraded does not pass again (R363). -/
def Boot.sparesLeft (b : Boot) (degraded : List Nat) : List SpareCore :=
  b.spares.map fun x =>
    if b.coreMap.any fun m => degraded.contains m.1 && m.2 == x.number && coreDie m.1 == x.die then { x with passes := false }
    else x

/-- PACKAGE_RESET: every field as State.reset has it, but for the boot flash, fuses, what the outside provides, straps, pins,
what was read out, what management knows of the cores' ageing, and the model's own fields. -/
def execPackageReset (s : State) : Result :=
  let r := State.reset
  .next { r with
    cur := s.cur, agenda := s.agenda, fresh := s.fresh, round := s.round
    boot := { r.boot with
      flash := s.boot.flash, readable := s.boot.readable, trained := s.boot.trained, badCores := s.boot.badCores
      spares := s.boot.sparesLeft s.mgmt.degraded, badRows := s.boot.badRows, fuses := s.boot.fuses, badPages := s.boot.badPages
      history := s.boot.history }
    freeze := { r.freeze with pin := s.freeze.pin, readouts := s.freeze.readouts }
    links := { r.links with hostMode := s.links.hostMode }
    mgmt := { r.mgmt with
      millivolt := s.mgmt.millivolt, margin := s.mgmt.margin, sensors := s.mgmt.sensors, degraded := s.mgmt.degraded } }

/-- Boot stops at its stage with a code (R349, R351): an image that does not verify leaves no slot that verified it; after
another failure the slot of the last image stands. -/
def Boot.stop (b : Boot) (code : Nat) : Boot := { b with code := code, keySlot := if code ≤ 0x85 then 15 else b.keySlot }

/-- The bytes of a firmware header, which both signatures cover (log 16). -/
def FwHeader.bytes (h : FwHeader) : List Byte :=
  bytesOf 4 h.magic ++ bytesOf 2 h.stage ++ bytesOf 2 h.security.toNat ++ bytesOf 8 h.length ++ bytesOf 48 h.digest.toNat

/-- Whether the ECDSA signature of an image verifies under a fused key slot that is not revoked and holds its key's digest. -/
def KeySlot.ecdsaOk (k : KeySlot) (fw : Firmware) : Bool :=
  !k.revoked && k.ecdsa == Config.sha384 fw.ecdsaKey && Config.ecdsaVerify fw.ecdsaKey fw.header.bytes fw.ecdsaSig

/-- Whether both signatures of an image verify under a fused key slot (R350). -/
def KeySlot.accepts (k : KeySlot) (fw : Firmware) : Bool :=
  k.ecdsaOk fw && k.lms == Config.sha384 fw.lmsKey && Config.lmsVerify fw.lmsKey fw.header.bytes fw.lmsSig

/-- The image of a stage verified (R350): its key slot, or the code that refuses it (Table 15-2). -/
def Boot.verify (b : Boot) (stage : Nat) : Except Nat (Nat × Firmware) :=
  if !b.readable then .error 0x80
  else match Assoc.find b.flash stage with
    | none => .error 0x80
    | some fw =>
      let h := fw.header
      let slots := b.fuses.slots.toList
      if h.magic ≠ Config.firmwareMagic ∨ h.stage ≠ stage ∨ h.length ≠ fw.contents.length then .error 0x81
      else if !slots.any fun k => k.ecdsaOk fw then .error 0x82
      else match slots.findIdx? fun k => k.accepts fw with
        | none => .error 0x83
        | some i =>
          if Config.sha384 fw.contents ≠ h.digest then .error 0x84
          else if h.security.toNat < (Assoc.get 0#16 b.fuses.minimum stage).toNat then .error 0x85
          else .ok (i, fw)

/-- The keys that stage 1 certifies for stage 2 under its own identity, before it clears that (R352). -/
def Boot.certify (b : Boot) (identity : BitVec 384) : Boot :=
  let e := Config.aliasEcdsa identity
  let l := Config.aliasLms identity
  { b with ecdsaAlias := e, lmsAlias := l, certs := [Config.certify b.identity e, Config.certify b.identity l] }

/-- The bytes of an image, which are measured (R352): its header, its signatures with their keys, its contents. -/
def Firmware.bytes (f : Firmware) : List Byte :=
  f.header.bytes ++ f.ecdsaKey ++ f.ecdsaSig ++ f.lmsKey ++ f.lmsSig ++ f.contents

/-- The identity from which the stage in control derives that of the next: the device secret, which only stage 0 reads, or its own
(R352). -/
def Boot.ownIdentity (b : Boot) : BitVec 384 := if b.next = 0 then Config.deviceSecret else b.identity

/-- The next stage gets control: the identity derived for it replaces the one of the stage before (R352). -/
def Boot.pass (b : Boot) (stage : Nat) : Boot :=
  match b.verify stage with
  | .error k => b.stop k
  | .ok (i, fw) =>
    let m := Config.sha384 fw.bytes
    let next := Config.dice b.ownIdentity m
    let b := if stage = 2 then b.certify next else b
    { b with next := stage, stage := stage, keySlot := i, identity := next, measures := b.measures ++ [m] }

/-- Whether an array has more defective rows than spare ones (R15): such a core is taken as one that does not pass (DESIGN
CHOICE, log 16). -/
def Boot.rowsFail (b : Boot) (c : Nat) : Bool := decide (4 < (Assoc.get [] b.badRows c).length)

/-- The disabled cores that stand in for cores of the grid, each of the same die and used once (R10, R363); none: too few. -/
def standIns : List Nat → List SpareCore → Option (List (Nat × Nat))
  | [], _ => some []
  | c :: cs, xs =>
    match xs.find? fun x => x.passes && x.die == coreDie c with
    | none => none
    | some x => (standIns cs (xs.filter fun y => !(y.die == x.die && y.number == x.number))).map fun m => (c, x.number) :: m

/-- The core map and the array-row spares applied (R10, R15, R363): a core of the grid that does not pass, that was reported as
degraded, or whose array has too many defective rows is replaced. Spare row i takes the place of defective row i as listed
(DESIGN CHOICE, log 16). -/
def Boot.mapCores (b : Boot) (degraded : List Nat) : Option Boot :=
  let bad := (List.range Config.cores).filter fun c => b.badCores.contains c || degraded.contains c || b.rowsFail c
  (standIns bad b.spares).map fun m => { b with
    badCores := bad
    coreMap := m
    rowMap := (b.badRows.filter fun x => !bad.contains x.1).map fun x => (x.1, x.2.zipIdx) }

/-- BOOT_STAGE (R349): stage 0 verifies stage 1; stage 1 trains the memories, applies the core map and the array-row spares,
withholds the listed pages and verifies stage 2; stage 2 brings up the ports and is ready. A stage that failed is not tried
again. -/
def execBootStage (s : State) : Result :=
  let b := s.boot
  if 0x80 ≤ b.code then .next s
  else match b.next with
    | 0 => .next { s with boot := b.pass 1 }
    | 1 =>
      if !b.trained then .next { s with boot := b.stop 0x86 }
      else match b.mapCores s.mgmt.degraded with
        | none => .next { s with boot := b.stop 0x87 }
        | some b => .next { s with boot := { b with withheld := b.badPages }.pass 2, mgmt := { s.mgmt with degraded := [] } }
    | 2 =>
      let ports := (List.range 16).map fun i => (i, { Port.reset with up := true })
      .next { s with boot := { b with next := 3, code := 0x01 }, links := { s.links with ports := ports } }
    | _ => .next s

/-- The BOOTFAIL pin (R351). -/
def Boot.fails (b : Boot) : Bool := decide (0x80 ≤ b.code) && decide (b.code ≤ 0xFF)

/-- The boot status register (Table 15-2). -/
def Boot.status (b : Boot) : BitVec 32 := BitVec.ofNat 32 (b.stage * 2 ^ 12 + b.keySlot * 2 ^ 8 + b.code)

/-! ### Attestation (R353) -/

/-- An answer of the responder. -/
def State.spdm (s : State) (a : SpdmAnswer) : State := { s with mgmt := { s.mgmt with spdm := s.mgmt.spdm ++ [a] } }

/-- A request answered by Kuenrex, or with an error where the requests before it are missing (log 40). -/
def answerSpdm (ok : State → Bool) (f : State → State) (s : State) : Result :=
  if !s.kuenrex then .next s else if ok s then .next (f s) else .next (s.spdm .error)

/-- The text that a report is signed over: the nonce and the measurements. -/
def Boot.transcript (b : Boot) (nonce : BitVec 256) : List Byte :=
  bytesOf 32 nonce.toNat ++ b.measures.flatMap fun m => bytesOf 48 m.toNat

/-- GET_VERSION: SPDM 1.2. -/
def execGetVersion (s : State) : Result :=
  answerSpdm (fun _ => true)
    (fun s => { s with mgmt := { s.mgmt with spdmVersion := true, negotiated := false } }.spdm (.version 1 2)) s

/-- GET_CAPABILITIES. -/
def execGetCapabilities (s : State) : Result :=
  answerSpdm (fun s => s.mgmt.spdmVersion) (fun s => s.spdm .capabilities) s

/-- NEGOTIATE_ALGORITHMS: ECDSA P-384 with SHA-384 or nothing. -/
def execNegotiateAlgorithms (offersP384 : Bool) (s : State) : Result :=
  answerSpdm (fun s => s.mgmt.spdmVersion)
    (fun s => { s with mgmt := { s.mgmt with negotiated := offersP384 } }.spdm (.algorithms offersP384)) s

/-- GET_DIGESTS: of the one certificate chain. -/
def execGetDigests (s : State) : Result :=
  answerSpdm (fun s => s.mgmt.negotiated) (fun s => s.spdm (.digests [Config.sha384 s.boot.certs.flatten])) s

/-- GET_CERTIFICATE: the certificates that stage 1 gave the alias keys (R352); only slot 0 holds a chain (log 40). -/
def execGetCertificate (slot : Nat) (s : State) : Result :=
  answerSpdm (fun s => s.mgmt.negotiated && slot == 0) (fun s => s.spdm (.certificate slot s.boot.certs)) s

/-- CHALLENGE: signed by the alias key. -/
def execChallenge (nonce : BitVec 256) (s : State) : Result :=
  answerSpdm (fun s => s.mgmt.negotiated)
    (fun s => s.spdm (.challengeAuth (Config.ecdsaSign s.boot.ecdsaAlias (s.boot.transcript nonce)))) s

/-- GET_MEASUREMENTS: signed by the alias key, with the signature of the LMS alias key over the same transcript. -/
def execGetMeasurements (nonce : BitVec 256) (s : State) : Result :=
  answerSpdm (fun s => s.mgmt.negotiated)
    (fun s =>
      let t := s.boot.transcript nonce
      s.spdm (.measurements s.boot.measures (Config.ecdsaSign s.boot.ecdsaAlias t) (Config.lmsSign s.boot.lmsAlias t))) s

end Sys2Proof.Machine
end

