-- ==== Sys2Proof/Machine/Dispatch.lean ====
section
/-! DEFINITION. What each instruction and each step does: one arm per constructor, each a call of its meaning. -/

namespace Sys2Proof.Machine

/-- The meaning of an instruction or step. -/
def exec (i : Instr) (s : State) : Host.Outcome State Fault Refusal :=
  match i with
  | .clauseHeader l w a b n => Sys2Proof.Machine.execClauseHeader l w a b n s
  | .unassignedOpcode w => Sys2Proof.Machine.execUnassignedOpcode w s
  | .nop => Sys2Proof.Machine.execNop s
  | .mode imm => Sys2Proof.Machine.execMode imm s
  | .memmode imm => Sys2Proof.Machine.execMemmode imm s
  | .bra off => Sys2Proof.Machine.execBra off s
  | .bkz d off => Sys2Proof.Machine.execBkz d off s
  | .bknz d off => Sys2Proof.Machine.execBknz d off s
  | .bqt d off => Sys2Proof.Machine.execBqt d off s
  | .bqf d off => Sys2Proof.Machine.execBqf d off s
  | .call off => Sys2Proof.Machine.execCall off s
  | .callg a => Sys2Proof.Machine.execCallg a s
  | .jmpg a => Sys2Proof.Machine.execJmpg a s
  | .ret => Sys2Proof.Machine.execRet s
  | .retv a => Sys2Proof.Machine.execRetv a s
  | .loop d off => Sys2Proof.Machine.execLoop d off s
  | .lexit => Sys2Proof.Machine.execLexit s
  | .exit => Sys2Proof.Machine.execExit s
  | .sreg d imm => Sys2Proof.Machine.execSreg d imm s
  | .gsreg d imm => Sys2Proof.Machine.execGsreg d imm s
  | .kfrom d a => Sys2Proof.Machine.execKfrom d a s
  | .kand d a b => Sys2Proof.Machine.execKand d a b s
  | .kor d a b => Sys2Proof.Machine.execKor d a b s
  | .kandn d a b => Sys2Proof.Machine.execKandn d a b s
  | .kxor d a b => Sys2Proof.Machine.execKxor d a b s
  | .kmov d a => Sys2Proof.Machine.execKmov d a s
  | .kpop d a => Sys2Proof.Machine.execKpop d a s
  | .ktog d a => Sys2Proof.Machine.execKtog d a s
  | .gtok d a => Sys2Proof.Machine.execGtok d a s
  | .phint a b => Sys2Proof.Machine.execPhint a b s
  | .idem a b => Sys2Proof.Machine.execIdem a b s
  | .idend => Sys2Proof.Machine.execIdend s
  | .bwphase n => Sys2Proof.Machine.execBwphase n s
  | .launch d a => Sys2Proof.Machine.execLaunch d a s
  | .add d a b => Sys2Proof.Machine.execAdd d a b s
  | .sub d a b => Sys2Proof.Machine.execSub d a b s
  | .mul d a b => Sys2Proof.Machine.execMul d a b s
  | .mulh d a b => Sys2Proof.Machine.execMulh d a b s
  | .mad d a b => Sys2Proof.Machine.execMad d a b s
  | .msb d a b => Sys2Proof.Machine.execMsb d a b s
  | .div d a b => Sys2Proof.Machine.execDiv d a b s
  | .rem d a b => Sys2Proof.Machine.execRem d a b s
  | .min d a b => Sys2Proof.Machine.execMin d a b s
  | .max d a b => Sys2Proof.Machine.execMax d a b s
  | .abs d a => Sys2Proof.Machine.execAbs d a s
  | .neg d a => Sys2Proof.Machine.execNeg d a s
  | .and d a b => Sys2Proof.Machine.execAnd d a b s
  | .or d a b => Sys2Proof.Machine.execOr d a b s
  | .xor d a b => Sys2Proof.Machine.execXor d a b s
  | .not d a => Sys2Proof.Machine.execNot d a s
  | .shl d a b => Sys2Proof.Machine.execShl d a b s
  | .shr d a b => Sys2Proof.Machine.execShr d a b s
  | .sar d a b => Sys2Proof.Machine.execSar d a b s
  | .rol d a b => Sys2Proof.Machine.execRol d a b s
  | .clz d a => Sys2Proof.Machine.execClz d a s
  | .pop d a => Sys2Proof.Machine.execPop d a s
  | .brev d a => Sys2Proof.Machine.execBrev d a s
  | .bfe d a b => Sys2Proof.Machine.execBfe d a b s
  | .bfi d a b => Sys2Proof.Machine.execBfi d a b s
  | .mov d a => Sys2Proof.Machine.execMov d a s
  | .sel d a b => Sys2Proof.Machine.execSel d a b s
  | .ldi d imm => Sys2Proof.Machine.execLdi d imm s
  | .ldih d imm => Sys2Proof.Machine.execLdih d imm s
  | .cvt d a t => Sys2Proof.Machine.execCvt d a t s
  | .ceq d a b => Sys2Proof.Machine.execCeq d a b s
  | .cne d a b => Sys2Proof.Machine.execCne d a b s
  | .clt d a b => Sys2Proof.Machine.execClt d a b s
  | .cle d a b => Sys2Proof.Machine.execCle d a b s
  | .cun d a b => Sys2Proof.Machine.execCun d a b s
  | .pand d a b => Sys2Proof.Machine.execPand d a b s
  | .por d a b => Sys2Proof.Machine.execPor d a b s
  | .pxor d a b => Sys2Proof.Machine.execPxor d a b s
  | .pnot d a => Sys2Proof.Machine.execPnot d a s
  | .rcp d a => Sys2Proof.Machine.execRcp d a s
  | .rsq d a => Sys2Proof.Machine.execRsq d a s
  | .sqrt d a => Sys2Proof.Machine.execSqrt d a s
  | .ex2 d a => Sys2Proof.Machine.execEx2 d a s
  | .lg2 d a => Sys2Proof.Machine.execLg2 d a s
  | .sinpi d a => Sys2Proof.Machine.execSinpi d a s
  | .cospi d a => Sys2Proof.Machine.execCospi d a s
  | .rint d a => Sys2Proof.Machine.execRint d a s
  | .scl d a b => Sys2Proof.Machine.execScl d a b s
  | .shfl d a b => Sys2Proof.Machine.execShfl d a b s
  | .shfx d a n => Sys2Proof.Machine.execShfx d a n s
  | .shup d a n => Sys2Proof.Machine.execShup d a n s
  | .shdn d a n => Sys2Proof.Machine.execShdn d a n s
  | .bcst d a b => Sys2Proof.Machine.execBcst d a b s
  | .radd d a => Sys2Proof.Machine.execRadd d a s
  | .rmin d a => Sys2Proof.Machine.execRmin d a s
  | .rmax d a => Sys2Proof.Machine.execRmax d a s
  | .confl d a => Sys2Proof.Machine.execConfl d a s
  | .fcls d a => Sys2Proof.Machine.execFcls d a s
  | .cmprs d a b => Sys2Proof.Machine.execCmprs d a b s
  | .expnd d a b => Sys2Proof.Machine.execExpnd d a b s
  | .vtog d a => Sys2Proof.Machine.execVtog d a s
  | .gtov d a => Sys2Proof.Machine.execGtov d a s
  | .gadd d a b => Sys2Proof.Machine.execGadd d a b s
  | .gsub d a b => Sys2Proof.Machine.execGsub d a b s
  | .gmul d a b => Sys2Proof.Machine.execGmul d a b s
  | .gand d a b => Sys2Proof.Machine.execGand d a b s
  | .gor d a b => Sys2Proof.Machine.execGor d a b s
  | .gxor d a b => Sys2Proof.Machine.execGxor d a b s
  | .gshl d a b => Sys2Proof.Machine.execGshl d a b s
  | .gshr d a b => Sys2Proof.Machine.execGshr d a b s
  | .gsar d a b => Sys2Proof.Machine.execGsar d a b s
  | .gmov d a => Sys2Proof.Machine.execGmov d a s
  | .gldi d imm => Sys2Proof.Machine.execGldi d imm s
  | .gldih d imm => Sys2Proof.Machine.execGldih d imm s
  | .gldix d imm => Sys2Proof.Machine.execGldix d imm s
  | .gldiy d imm => Sys2Proof.Machine.execGldiy d imm s
  | .gceq d a b => Sys2Proof.Machine.execGceq d a b s
  | .gclt d a b => Sys2Proof.Machine.execGclt d a b s
  | .lkp d a b => Sys2Proof.Machine.execLkp d a b s
  | .ins d a b => Sys2Proof.Machine.execIns d a b s
  | .ups d a b => Sys2Proof.Machine.execUps d a b s
  | .del d a b => Sys2Proof.Machine.execDel d a b s
  | .rekey d a b => Sys2Proof.Machine.execRekey d a b s
  | .ld d a off => Sys2Proof.Machine.execLd d a off s
  | .st d a off => Sys2Proof.Machine.execSt d a off s
  | .atom d a off => Sys2Proof.Machine.execAtom d a off s
  | .ldrow d a b => Sys2Proof.Machine.execLdrow d a b s
  | .ratom d a off => Sys2Proof.Machine.execRatom d a off s
  | .copen d a b => Sys2Proof.Machine.execCopen d a b s
  | .cstep d a => Sys2Proof.Machine.execCstep d a s
  | .cstepn d a => Sys2Proof.Machine.execCstepn d a s
  | .cseek d a => Sys2Proof.Machine.execCseek d a s
  | .cclose a => Sys2Proof.Machine.execCclose a s
  | .gath d a b => Sys2Proof.Machine.execGath d a b s
  | .promo d a => Sys2Proof.Machine.execPromo d a s
  | .publ a => Sys2Proof.Machine.execPubl a s
  | .fence => Sys2Proof.Machine.execFence s
  | .sld d a off => Sys2Proof.Machine.execSld d a off s
  | .sst d a off => Sys2Proof.Machine.execSst d a off s
  | .satom d a off => Sys2Proof.Machine.execSatom d a off s
  | .cpy d a b => Sys2Proof.Machine.execCpy d a b s
  | .cpys d a b => Sys2Proof.Machine.execCpys d a b s
  | .cpyo d a b => Sys2Proof.Machine.execCpyo d a b s
  | .cbatch d => Sys2Proof.Machine.execCbatch d s
  | .cwait a => Sys2Proof.Machine.execCwait a s
  | .bgive d row col => Sys2Proof.Machine.execBgive d row col s
  | .btake d => Sys2Proof.Machine.execBtake d s
  | .balloc d a => Sys2Proof.Machine.execBalloc d a s
  | .bfree a => Sys2Proof.Machine.execBfree a s
  | .gang a => Sys2Proof.Machine.execGang a s
  | .mlds d a b => Sys2Proof.Machine.execMlds d a b s
  | .mact => Sys2Proof.Machine.execMact s
  | .mmul d a b => Sys2Proof.Machine.execMmul d a b s
  | .mmsp d a b => Sys2Proof.Machine.execMmsp d a b s
  | .mband a b => Sys2Proof.Machine.execMband a b s
  | .scacc d a => Sys2Proof.Machine.execScacc d a s
  | .mrd d a b => Sys2Proof.Machine.execMrd d a b s
  | .mclr a => Sys2Proof.Machine.execMclr a s
  | .mstep d a => Sys2Proof.Machine.execMstep d a s
  | .go a b => Sys2Proof.Machine.execGo a b s
  | .gom a b => Sys2Proof.Machine.execGom a b s
  | .goto d row col sel => Sys2Proof.Machine.execGoto d row col sel s
  | .gopol imm => Sys2Proof.Machine.execGopol imm s
  | .rejoin imm => Sys2Proof.Machine.execRejoin imm s
  | .bar n => Sys2Proof.Machine.execBar n s
  | .bara d a n => Sys2Proof.Machine.execBara d a n s
  | .barw a n => Sys2Proof.Machine.execBarw a n s
  | .barinit a n => Sys2Proof.Machine.execBarinit a n s
  | .ftest d a => Sys2Proof.Machine.execFtest d a s
  | .fwait a => Sys2Proof.Machine.execFwait a s
  | .fcancel a => Sys2Proof.Machine.execFcancel a s
  | .post a => Sys2Proof.Machine.execPost a s
  | .sysc imm => Sys2Proof.Machine.execSysc imm s
  | .sret => Sys2Proof.Machine.execSret s
  | .hcall imm => Sys2Proof.Machine.execHcall imm s
  | .hret => Sys2Proof.Machine.execHret s
  | .mfpr d imm => Sys2Proof.Machine.execMfpr d imm s
  | .mtpr d imm => Sys2Proof.Machine.execMtpr d imm s
  | .tinv a sc => Sys2Proof.Machine.execTinv a sc s
  | .ctxsv d a => Sys2Proof.Machine.execCtxsv d a s
  | .ctxld d a => Sys2Proof.Machine.execCtxld d a s
  | .perf d imm => Sys2Proof.Machine.execPerf d imm s
  | .bkpt imm => Sys2Proof.Machine.execBkpt imm s
  | .kill a => Sys2Proof.Machine.execKill a s
  | .divComplete c n => Sys2Proof.Machine.execDivComplete c n s
  | .tableOpComplete c n lanes cached => Sys2Proof.Machine.execTableOpComplete c n lanes cached s
  | .gathComplete c f => Sys2Proof.Machine.execGathComplete c f s
  | .promoComplete c f => Sys2Proof.Machine.execPromoComplete c f s
  | .publSwapOrRetire c sl => Sys2Proof.Machine.execPublSwapOrRetire c sl s
  | .scratchLoadComplete c n => Sys2Proof.Machine.execScratchLoadComplete c n s
  | .copyComplete c n => Sys2Proof.Machine.execCopyComplete c n s
  | .bgiveTransfer c sl => Sys2Proof.Machine.execBgiveTransfer c sl s
  | .bfreeRelease c sl => Sys2Proof.Machine.execBfreeRelease c sl s
  | .granuleClearDone c => Sys2Proof.Machine.execGranuleClearDone c s
  | .mldsPerform c => Sys2Proof.Machine.execMldsPerform c s
  | .mactPerform c => Sys2Proof.Machine.execMactPerform c s
  | .mmulPerform c units => Sys2Proof.Machine.execMmulPerform c units s
  | .mmspPerform c units => Sys2Proof.Machine.execMmspPerform c units s
  | .mbandPerform c => Sys2Proof.Machine.execMbandPerform c s
  | .scaccPerform c units => Sys2Proof.Machine.execScaccPerform c units s
  | .mrdPerform c units => Sys2Proof.Machine.execMrdPerform c units s
  | .mclrPerform c => Sys2Proof.Machine.execMclrPerform c s
  | .implicitMigration c sl => Sys2Proof.Machine.execImplicitMigration c sl s
  | .flaconSend c sl => Sys2Proof.Machine.execFlaconSend c sl s
  | .flaconArrival n intact => Sys2Proof.Machine.execFlaconArrival n intact s
  | .flaconAcknowledge n => Sys2Proof.Machine.execFlaconAcknowledge n s
  | .reassemblyWindowExpiry c n => Sys2Proof.Machine.execReassemblyWindowExpiry c n s
  | .strandForm c => Sys2Proof.Machine.execStrandForm c s
  | .tinvDone c sl => Sys2Proof.Machine.execTinvDone c sl s
  | .trapEntry c sl => Sys2Proof.Machine.execTrapEntry c sl s
  | .starvationPromotion c sl => Sys2Proof.Machine.execStarvationPromotion c sl s
  | .launchService dom hyp va => Sys2Proof.Machine.execLaunchService dom hyp va s
  | .dispatchBlock => Sys2Proof.Machine.execDispatchBlock s
  | .launchComplete n => Sys2Proof.Machine.execLaunchComplete n s
  | .preemptRequest c sl gen area => Sys2Proof.Machine.execPreemptRequest c sl gen area s
  | .fullSaveTimeout c sl => Sys2Proof.Machine.execFullSaveTimeout c sl s
  | .strandSave c sl => Sys2Proof.Machine.execStrandSave c sl s
  | .kuenrexRestore c area => Sys2Proof.Machine.execKuenrexRestore c area s
  | .strandRestore c => Sys2Proof.Machine.execStrandRestore c s
  | .pageWalk c dom va => Sys2Proof.Machine.execPageWalk c dom va s
  | .bankRetentionEntry st b => Sys2Proof.Machine.execBankRetentionEntry st b s
  | .bankDeepPowerDown st b => Sys2Proof.Machine.execBankDeepPowerDown st b s
  | .bankWakeEnd st b => Sys2Proof.Machine.execBankWakeEnd st b s
  | .bankMapWrite st b v => Sys2Proof.Machine.execBankMapWrite st b v s
  | .packagePhaseApply st => Sys2Proof.Machine.execPackagePhaseApply st s
  | .compactionMove blk => Sys2Proof.Machine.execCompactionMove blk s
  | .faultQueueRemove => Sys2Proof.Machine.execFaultQueueRemove s
  | .mgmtRegisterWrite r v => Sys2Proof.Machine.execMgmtRegisterWrite r v s
  | .coreClockStep up => Sys2Proof.Machine.execCoreClockStep up s
  | .imageLoad img => Sys2Proof.Machine.execImageLoad img s
  | .tableCreate dom desc base pages => Sys2Proof.Machine.execTableCreate dom desc base pages s
  | .tableDestroy num => Sys2Proof.Machine.execTableDestroy num s
  | .tableStoreReturn n => Sys2Proof.Machine.execTableStoreReturn n s
  | .rowStorageFree num row => Sys2Proof.Machine.execRowStorageFree num row s
  | .linkFlitReceive f => Sys2Proof.Machine.execLinkFlitReceive f s
  | .linkRequestTimeout n => Sys2Proof.Machine.execLinkRequestTimeout n s
  | .hostDoorbell v => Sys2Proof.Machine.execHostDoorbell v s
  | .freeze => Sys2Proof.Machine.execFreeze s
  | .enfleurageReadout => Sys2Proof.Machine.execEnfleurageReadout s
  | .resume => Sys2Proof.Machine.execResume s
  | .reset => Sys2Proof.Machine.execReset s
  | .refusedClear => Sys2Proof.Machine.execRefusedClear s
  | .packageReset => Sys2Proof.Machine.execPackageReset s
  | .bootStage => Sys2Proof.Machine.execBootStage s
  | .maintenanceReplan core newMillivolt date holds => Sys2Proof.Machine.execMaintenanceReplan core newMillivolt date holds s
  | .getVersion => Sys2Proof.Machine.execGetVersion s
  | .getCapabilities => Sys2Proof.Machine.execGetCapabilities s
  | .negotiateAlgorithms offersP384 => Sys2Proof.Machine.execNegotiateAlgorithms offersP384 s
  | .getDigests => Sys2Proof.Machine.execGetDigests s
  | .getCertificate slot => Sys2Proof.Machine.execGetCertificate slot s
  | .challenge nonce => Sys2Proof.Machine.execChallenge nonce s
  | .getMeasurements nonce => Sys2Proof.Machine.execGetMeasurements nonce s
  | .powerStateEntryComplete st b => Sys2Proof.Machine.execPowerStateEntryComplete st b s
  | .coreCycleCounterMatch => Sys2Proof.Machine.execCoreCycleCounterMatch s
  | .hostWindowAccess win off write bytes => Sys2Proof.Machine.execHostWindowAccess win off write bytes s

end Sys2Proof.Machine
end

