-- ==== Sys2Proof/Machine/Schedule.lean ====
section
/-! DEFINITION. What a step is made of: the word that a strand issues, the passing of time, the moves of the agenda, and the
order that the model takes where the agenda names none (R101-R104; logs 4, 5). -/

namespace Sys2Proof.Machine

/-! ### Issue (R43-R49, R101) -/

/-- The strand that issues next issues the next word of its clause; one that stands at a header reads it. -/
def issueNext (s : State) : Result :=
  match s.here? with
  | none => .next s
  | some st =>
    match st.clause with
    | none => .next (fetchClause s)
    | some k =>
      let w := k.words.getD k.idx 0#32
      match decode w with
      | .ok i => exec i s
      | .error (.reserved _) => refuseWord w s
      | .error (.illFormed i) => exec i s

/-- Whether a strand waits for nothing. -/
def Strand.free (st : Strand) : Bool := st.wait == .none

/-- The strand of a slot issues, if it may; one for which an earlier strand of the cycle has left no room stays at its word, and no
other takes its place (R101; DESIGN CHOICE, log 82). -/
def State.issueAt (s : State) (c sl : Nat) : Result :=
  let s := { s with cur := (c, sl) }
  match s.here? with
  | some st => if st.free then issueNext s else .next s
  | none => .next s

/-! ### Selection (R101, R103) -/

/-- A strand but for its waits so far: for its turn, and for a resource. -/
def Strand.unwaited (st : Strand) : Strand := { st with passed := 0, urgent := false, stalled := 0 }

/-- Whether a strand is as it was, but for those waits. -/
def sameStrand (st : Strand) : Option Strand → Bool
  | some x => x.issued == st.issued && decide (x.unwaited = st.unwaited)
  | none => false

/-- A strand of a slot that stands at a header reads it. -/
def State.fetchAt (s : State) (c sl : Nat) : State := { (fetchClause { s with cur := (c, sl) }) with cur := s.cur }

/-- Whether the strand of a slot starts a clause: it stands at a header and waits for nothing, and the wait mask is satisfied, or
the header or its clause raises a trap (R44, R47). -/
def State.starts (s : State) (c sl : Nat) : Bool :=
  match s.strand? c sl with
  | none => false
  | some st => st.free && st.clause.isNone && !s.hasFaults c sl && !sameStrand st ((s.fetchAt c sl).strand? c sl)

/-- Every strand that starts a clause does so. It takes no issue slot, as no word issues (R101; DESIGN CHOICE, log 82). -/
def State.startAll (s : State) : State :=
  (s.cores.flatMap fun k => k.2.slots.map fun x => (k.1, x.1)).foldl
    (fun s x => if s.starts x.1 x.2 then s.fetchAt x.1 x.2 else s) s

/-- Whether the strand of a slot is ready: its clause is open, so its wait mask was satisfied; it waits for nothing, met no
fault, and its next word would issue, no future read and no stalled resource blocking it (R101). -/
def State.ready (s : State) (c sl : Nat) : Bool :=
  match s.strand? c sl with
  | none => false
  | some st =>
    st.free && st.clause.isSome && !s.hasFaults c sl && match s.issueAt c sl with
      | .next t => !sameStrand st (t.strand? c sl)
      | _ => false

/-- The wait of a strand whose next word a stalled resource blocks is counted, once for the word (R167, R206, R348). -/
def State.countBlocked (s : State) (c sl : Nat) : State :=
  match s.strand? c sl with
  | none => s
  | some st =>
    if !st.free || st.clause.isNone || s.hasFaults c sl || s.ready c sl then s
    else match s.issueAt c sl with
      | .next t => { t with cur := s.cur }
      | _ => s

/-- The same of every strand. -/
def State.countBlockedAll (s : State) : State :=
  (s.cores.flatMap fun k => k.2.slots.map fun x => (k.1, x.1)).foldl (fun s x => s.countBlocked x.1 x.2) s

/-- Whether a strand goes ahead of older ones (R103). -/
def Strand.overdue (st : Strand) : Bool := st.urgent || decide (64 ≤ st.passed)

/-- Whether a quarter selects one strand rather than another: the older one, after those that have waited too long. Of several
of these the oldest goes first, and the others wait longer (DESIGN CHOICE, log 82). -/
def Strand.ahead (a b : Strand) : Bool := if a.overdue == b.overdue then decide (a.age ≤ b.age) else a.overdue

/-- The strand that a quarter selects among its ready ones. -/
def selectFirst : List (Nat × Strand) → Option (Nat × Strand)
  | [] => none
  | x :: xs =>
    match selectFirst xs with
    | some y => if x.2.ahead y.2 then some x else some y
    | none => some x

/-- Whether a strand may be packed with the one selected: the same launch, program counter and mode value. -/
def Strand.packsWith (a b : Strand) : Bool :=
  a.launch == b.launch && a.point == b.point && a.group.mode == b.group.mode

/-- The slots of ready strands that join the one selected, in slot order, while the lanes that are left hold them. -/
def packSlots (x : Nat × Strand) : Nat → List (Nat × Strand) → List Nat
  | _, [] => []
  | room, y :: ys =>
    if y.1 ≠ x.1 ∧ y.2.packsWith x.2 ∧ y.2.width ≤ room then y.1 :: packSlots x (room - y.2.width) ys
    else packSlots x room ys

/-- The slots for which a quarter issues in a cycle, of its ready strands: at most 128 lanes. -/
def quarterSlots (xs : List (Nat × Strand)) : List Nat :=
  match selectFirst xs with
  | some x => x.1 :: packSlots x (128 - x.2.width) xs
  | none => []

/-- The strands of every core that issue in a cycle, quarter 0 first. Which are ready is judged for all quarters at once, before any
issues: where two are selected for the last of a resource, the later one's slot is lost (R101; DESIGN CHOICE, log 82). -/
def State.selection (s : State) : List (Nat × Nat) :=
  s.cores.flatMap fun k =>
    let xs := k.2.slots.filter fun x => s.ready k.1 x.1
    [0, 1, 2, 3].flatMap fun q => (quarterSlots (xs.filter fun x => x.1 % 4 == q)).map fun sl => (k.1, sl)

/-- The strand of a slot issues if it is the next of its core among those selected. -/
def State.issueMove (s : State) (c sl : Nat) : Result :=
  if (s.slate.find? fun x => x.1 == c) = some (c, sl) then { s with slate := s.slate.erase (c, sl) }.issueAt c sl
  else .next s

/-! ### Time (R24, R103, R322; log 5) -/

/-- Core cycles that pass before an armed counter stops the clocks (R358, source 4). -/
def State.cyclesAllowed (s : State) (n : Nat) : Nat × Bool :=
  match s.freeze.armedCycle with
  | some v => if s.cycles.toNat < v ∧ v ≤ s.cycles.toNat + n then (v - s.cycles.toNat, true) else (n, false)
  | none => (n, false)

/-- A strand after some picoseconds. -/
def Strand.waited (st : Strand) (ps : Nat) : Strand :=
  match st.preempt with
  | some p =>
    if st.depth = 0 ∧ !st.inLatch then { st with preempt := some { p with waited := p.waited + ps } } else st
  | none => st

/-- Of n core cycles from a time on, which take some picoseconds, those that begin once a set is whole or its window has closed. -/
def Assembly.waits (a : Assembly) (now n ps : Nat) : Nat := n - ceilDiv ((a.closed - now) * n) ps

/-- A core after some core cycles from a time on: the cycles in which a re-assembly set, whole or with its window closed, has no
room are counted (R274, R279, selector 0x4006). -/
def CoreSt.waited (k : CoreSt) (now n ps : Nat) : CoreSt :=
  let k := k.mapStrands fun _ st => st.waited ps
  match closeDue (now + ps) k.arrived.length k.arrived with
  | a :: _ =>
    (match lowestFlacon a.flacons with
     | some f => if a.ready && !k.roomFor f.width f.nregs then k.count 0x4006 (a.waits now n ps) else k
     | none => k)
  | [] => k

/-- n core cycles pass, unless an armed counter stops the clocks first. -/
def State.tick (s : State) (n : Nat) : State :=
  let (n, stop) := s.cyclesAllowed n
  let ps := n * 1000000 / s.coreMHz
  let t := { s with
    timePs := s.timePs + ps
    cycles := s.cycles + BitVec.ofNat 64 n
    slow := if s.coreMHz < 800 then s.slow + BitVec.ofNat 64 n else s.slow
    cores := s.cores.map fun k => (k.1, k.2.waited s.timePs n ps) }
  if stop then t.freezeBy 4 else t

/-- The quarters select the strands of a cycle. Every other strand that is ready is passed over for it: its count goes up, and
is kept while it is not ready (R103; DESIGN CHOICE, log 82). -/
def State.select (s : State) : State :=
  let xs := s.selection
  let skipped (c sl : Nat) : Bool := s.ready c sl && !xs.contains (c, sl)
  { s.mapStrands fun c sl st => if skipped c sl then { st with passed := st.passed + 1 } else st with slate := xs }

/-- The cycle ends once every strand selected for it has issued; strands start clauses, and the quarters select anew. With no
strand ready or starting, n cycles pass before that. -/
def State.endCycle (s : State) (n : Nat) : State :=
  let busy := s.cores.any fun k => k.2.slots.any fun x => s.ready k.1 x.1 || s.starts k.1 x.1
  if !s.slate.isEmpty then s else (s.tick (if busy then min n 1 else n)).startAll.countBlockedAll.select

/-! ### Memory errors (R296, R297) -/

/-- The stored check code of the sector of an address changes. -/
def State.damage (s : State) (pa : Nat) (code : BitVec 16) : State :=
  let n := pa / 32
  { s with mem := { s.mem with codeErr := Assoc.put 0#16 s.mem.codeErr n (Assoc.get 0#16 s.mem.codeErr n ^^^ code) } }

/-- An error that HBM corrects is counted for its bank set and reported with cause 0x00. -/
def State.corrected (s : State) (pa : Nat) : State :=
  (s.countStack (pa / 2 ^ 36) (0x200 + pa / 2 ^ 30 % 64)).post Who.nobody pa 0x00

/-- The stored check code of the sector of scratch at an offset of core c changes. -/
def State.damageScratch (s : State) (c off : Nat) (code : BitVec 16) : State :=
  s.modCore c fun k =>
    { k with scratchErr := Assoc.put 0#16 k.scratchErr (off / 32) (Assoc.get 0#16 k.scratchErr (off / 32) ^^^ code) }

/-! ### Flits in flight (R360) -/

/-- A flit of a Dolmond port starts or stops being in flight. -/
def State.setFlight (s : State) (port : Nat) (on : Bool) : State := s.putPort port { s.port port with flight := on }

/-- The same of one of the four Ethernet ports. -/
def State.setEther (s : State) (port : Nat) (on : Bool) : State :=
  let xs := s.links.ether.filter (· != port)
  { s with links := { s.links with ether := if on && decide (port < 4) then port :: xs else xs } }

/-- The same of the PCIe port. -/
def State.setPcie (s : State) (on : Bool) : State := { s with links := { s.links with pcie := on } }

/-! ### Moves -/

/-- Whether a step has no word: it takes place of itself. -/
def isEvent (i : Instr) : Bool := (encode i).isNone

/-- One move of the agenda. -/
def State.move (s : State) (m : Move) : Result :=
  match m with
  | .issue c sl => s.issueMove c sl
  | .event i => if isEvent i then exec i s else .next s
  | .tick n => .next (s.endCycle n)
  | .pin high => .next (s.setPin high)
  | .linkFlight port on => .next (s.setFlight port on)
  | .etherFlight port on => .next (s.setEther port on)
  | .pcieFlight on => .next (s.setPcie on)
  | .sensor core ring path => .next (s.setSensor core ring path)
  | .sample core date => .next (s.sample core date)
  | .damageScratch core off code => .next (s.damageScratch core off code)
  | .damage pa code => .next (s.damage pa code)
  | .uncorrectable pa => .next { s with mem := s.mem.setPoison (pa / 32) true }
  | .corrected pa => .next (s.corrected pa)

/-- Moves that reach a package whose clocks stand (R358-R361). -/
def Move.reachesFrozen : Move → Bool
  | .pin _ | .event .freeze | .event .enfleurageReadout | .event .resume | .event .reset | .event .refusedClear
  | .event .packageReset => true
  | _ => false

/-! ### The order without an agenda (log 4) -/

/-- The steps that a strand's wait, or its faults, call for. -/
def Strand.steps (c sl : Nat) (st : Strand) : List Instr :=
  .starvationPromotion c sl :: .trapEntry c sl :: match st.wait with
    | .bgive .. => [.bgiveTransfer c sl]
    | .bfree _ => [.bfreeRelease c sl]
    | .publ .. => [.publSwapOrRetire c sl]
    | .tinv .. | .tinvFar .. => [.tinvDone c sl]
    | .depart _ => [.flaconSend c sl]
    | .implicit => [.implicitMigration c sl]
    | .saving .. => [.strandSave c sl]
    | _ => []

/-- The step that completes operation n of a core. -/
def Op.step (c n : Nat) (o : Op) : Instr :=
  match o.instr with
  | .div .. => .divComplete c n
  | .sld .. | .sst .. | .satom .. => .scratchLoadComplete c n
  | _ => .tableOpComplete c n (~~~ 0#64) false

/-- The step that performs a queued matrix operation, whole. -/
def MatKind.step (c : Nat) : MatKind → Instr
  | .mlds .. => .mldsPerform c
  | .mact => .mactPerform c
  | .mband .. => .mbandPerform c
  | .mmul .. => .mmulPerform c 65536
  | .mmsp .. => .mmspPerform c 65536
  | .scacc .. => .scaccPerform c 65536
  | .mrd .. => .mrdPerform c 65536
  | .mclr .. => .mclrPerform c

/-- The step that completes the operation of a future slot. -/
def FutureKind.steps (c i : Nat) : FutureKind → List Instr
  | .gath .. | .gathFar .. | .gathRemote .. => [.gathComplete c i]
  | .promo _ => [.promoComplete c i]
  | _ => []

/-- The steps that a core has before it. -/
def CoreSt.steps (k : CoreSt) (c : Nat) : List Instr :=
  k.slots.flatMap (fun x => x.2.steps c x.1) ++ k.ops.zipIdx.map (fun o => o.1.step c o.2) ++
  (if k.copies.isEmpty then [] else [.copyComplete c 0]) ++ (k.matrix.queue.take 1).map (fun q => q.kind.step c) ++
  k.futures.flatMap (fun f => if f.2.done then [] else f.2.kind.steps c f.1) ++
  (if k.clearing.isEmpty then [] else [.granuleClearDone c]) ++ (if k.arrived.isEmpty then [] else [.strandForm c]) ++
  (if k.restores.isEmpty then [] else [.strandRestore c]) ++
  k.arrived.zipIdx.map (fun a => .reassemblyWindowExpiry c a.2) ++
  k.slots.flatMap fun x => if x.2.preempt.isSome then [.fullSaveTimeout c x.1] else []

/-- The steps that may be enabled, in the order in which the model tries them. -/
def State.steps (s : State) : List Instr :=
  (if s.freeze.resetAsked then [.packageReset] else []) ++ s.cores.flatMap (fun k => k.2.steps k.1) ++
  s.banks.flatMap (fun b => [.bankWakeEnd (b.1 / 64) (b.1 % 64), .powerStateEntryComplete (b.1 / 64) (b.1 % 64),
    .bankRetentionEntry (b.1 / 64) (b.1 % 64), .bankDeepPowerDown (b.1 / 64) (b.1 % 64)]) ++
  (((List.range 8).filter fun i => (s.stackOf i).phase != s.packagePhase).map .packagePhaseApply) ++
  (if s.transit.isEmpty then [] else [.flaconArrival 0 true]) ++ (if s.acks.isEmpty then [] else [.flaconAcknowledge 0]) ++
  s.links.requests.map (fun r => .linkRequestTimeout r.id) ++
  s.links.promos.zipIdx.map (fun x => .promoComplete Config.cores x.2) ++
  s.tables.flatMap (fun t => t.2.rows.filterMap fun r => match r.2.state with
    | .deleted _ => some (.rowStorageFree t.1 r.1)
    | _ => none) ++
  (List.range s.oldStores.length).map .tableStoreReturn ++
  s.launches.flatMap (fun l => if l.2.complete then [] else [.launchComplete l.1]) ++ [.dispatchBlock]

/-- What a step gives, if it changes anything. -/
def State.effectOf (s : State) (i : Instr) : Option State :=
  match exec i s with
  | .next t => if t = s then none else some t
  | _ => none

/-- The steps that may be enabled, from another one on in each round, so that none is passed over for ever. -/
def State.stepsInTurn (s : State) : List Instr :=
  let xs := s.steps
  xs.drop (s.round % xs.length) ++ xs.take (s.round % xs.length)

/-- What engines, controllers and the dispatcher do in a cycle without an agenda: the first step that changes anything. With
none, 800 cycles pass where no strand is ready. -/
def State.others (s : State) : State :=
  match s.stepsInTurn.findSome? s.effectOf with
  | some t => { t with round := t.round + 1 }.endCycle 1
  | none => { s with round := s.round + 1 }.endCycle 800

/-- A step without an agenda: the next strand selected in this cycle issues; after the last, the others act and the cycle
ends. -/
def State.default (s : State) : Result :=
  match s.slate with
  | x :: rest => { s with slate := rest }.issueAt x.1 x.2
  | [] => .next s.others

/-- A step of a package whose clocks stand: the reset asked for takes place, or the cycle of the trigger ends, once the strands
selected for it have issued. -/
def State.standing (s : State) : Result :=
  if s.freeze.resetAsked then execPackageReset s
  else if s.freeze.sameCycle && !s.slate.isEmpty then s.default
  else .next s.stopClocks

/-- The end of a cycle in a package whose clocks stand: after the cycle of the trigger no other begins. -/
def State.endFrozen (s : State) : State := if s.slate.isEmpty then s.stopClocks else s

/-- One step: the head of the agenda, or the model's own order. In a package whose clocks stand the cycle of the trigger ends
as any other (R358); after it the package takes only what reaches it from outside. -/
def State.run (s : State) : Result :=
  match s.agenda with
  | m :: rest =>
    let s := { s with agenda := rest }
    if !s.freeze.frozen || m.reachesFrozen then s.move m
    else if !s.freeze.sameCycle then .next s
    else match m with
      | .tick _ => .next s.endFrozen
      | _ => s.move m
  | [] => if s.freeze.frozen then s.standing else s.default

/-! ### A word where the next step fetches it -/

/-- The launch record of the strand that runs it: one strand of 8 threads with every register and barrier. -/
def guestRecord : LRec :=
  { code := 0x10000#64, param := 0#64, result := 0#64, widths := [3, 0, 0, 0, 0, 0], limits := [8, 1, 1, 1, 1, 1],
    scratch := 0, regs := 256, wcode := 0, barriers := 16, prio := 0, spread := 1, domain := 0#16, shift := 0, nsucc := 0,
    succ := 0#64, reserved := 0 }

/-- Its launch. -/
def guestLaunch : Launch :=
  { number := 0, record := guestRecord, va := 0, order := 0, next := none, started := true, threads := 8,
    cancelled := false, complete := false, future := none, images := [], stalls := 0, stallPs := 0, imagesMissed := 0,
    imagesCut := 0 }

/-- Its block. -/
def guestBlock : Block := ⟨0, 0#64, 0, 1, 8, 16, List.replicate 16 ⟨8, 0, 0#32, false⟩⟩

/-- The header of a clause of one word. -/
def guestHeader (w : Word) : Word :=
  headerWord 0#8 0#12 (if flagOps.contains (opOf w) then 0#4 else 15#4) 15#4 0#3

/-- The strand, standing at the word, or at a header where the word is one. -/
def guestStrand (isHeader : Bool) (w : Word) : Strand :=
  let st := Strand.dispatched guestRecord 0 0 0 0 0#10
  if isHeader then st else { st with clause := some ⟨0x10000#64, guestHeader w, [w], 0⟩ }

/-- Whether a word is read as a header: no instruction has it, and a header may. -/
def headerOnly (w : Word) : Bool :=
  match decode w with
  | .ok _ => false
  | .error _ => (decodeHeader w).isSome

/-- A word placed for strand 0 of core 0, resident alone in its slot: the code page at its translation in the TLB, and the
clause as fetched. -/
def State.seatWord (s : State) (w : Word) : State :=
  let h := headerOnly w
  let t : TlbEntry := ⟨0, false, 0x10000, 65536, 0x10000, true, true, false, 3, true⟩
  let code := if h then [w] else [guestHeader w, w]
  let s := s.modCore 0 fun k => { k with slots := Assoc.set k.slots 0 (guestStrand h w), tlb := t :: k.tlb }
  { s with
    cur := (0, 0), agenda := [], slate := [(0, 0)]
    mem := s.mem.poke 0x10000 (bytesOfWords code)
    launches := Assoc.set s.launches 0 guestLaunch
    blocks := guestBlock :: s.blocks.filter fun b => !(b.launch == 0 && b.index == 0#64)
    nextLaunch := max s.nextLaunch 1
    freeze := { s.freeze with frozen := false, resetAsked := false } }

end Sys2Proof.Machine
end

