-- ==== Sys2Proof/Machine/Step.lean ====
section
/-! DEFINITION. One step of the machine, and a word placed where the next step fetches it. -/

namespace Sys2Proof.Machine

/-- One step. -/
def step (s : State) : Host.Outcome State Fault Refusal := s.run

/-- The state with the word w placed so that the next step issues it: a resident strand stands at it (log 41). Every row of
the opcode table with a word has 32 bits. -/
def State.withFetchWord (s : State) (_nbits w : Nat) : State := s.seatWord (BitVec.ofNat 32 w)

end Sys2Proof.Machine
end

