-- ==== Sys2Proof/Laws/PerInstr.lean ====
section
/-! SUPPORT. Decoding reads back what encoding wrote: one lemma per constructor of Instr, for every value of its fields. -/

namespace Sys2Proof.Laws

/-! ### The fields of an encoded word -/

theorem toNat_join {m n : Nat} (x : BitVec m) (y : BitVec n) : (x ++ y).toNat = x.toNat * 2 ^ n + y.toNat := by
  rw [BitVec.toNat_append, ← Nat.shiftLeft_add_eq_or_of_lt y.isLt, Nat.shiftLeft_eq]

theorem slice_op (w : Word) : slice w 31 24 = (w.extractLsb' 24 8).toNat := by
  simp [slice, BitVec.extractLsb'_toNat]

theorem encR_op (op d a b : BitVec 8) : (encR op d a b).extractLsb' 24 8 = op := by
  apply BitVec.eq_of_toNat_eq
  simp only [BitVec.extractLsb'_toNat, encR, toNat_join, Nat.shiftRight_eq_div_pow]
  have := op.isLt; have := d.isLt; have := a.isLt; have := b.isLt
  omega

theorem encR_d (op d a b : BitVec 8) : (encR op d a b).extractLsb' 16 8 = d := by
  apply BitVec.eq_of_toNat_eq
  simp only [BitVec.extractLsb'_toNat, encR, toNat_join, Nat.shiftRight_eq_div_pow]
  have := op.isLt; have := d.isLt; have := a.isLt; have := b.isLt
  omega

theorem encR_a (op d a b : BitVec 8) : (encR op d a b).extractLsb' 8 8 = a := by
  apply BitVec.eq_of_toNat_eq
  simp only [BitVec.extractLsb'_toNat, encR, toNat_join, Nat.shiftRight_eq_div_pow]
  have := op.isLt; have := d.isLt; have := a.isLt; have := b.isLt
  omega

theorem encR_b (op d a b : BitVec 8) : (encR op d a b).extractLsb' 0 8 = b := by
  apply BitVec.eq_of_toNat_eq
  simp only [BitVec.extractLsb'_toNat, encR, toNat_join, Nat.shiftRight_eq_div_pow]
  have := op.isLt; have := d.isLt; have := a.isLt; have := b.isLt
  omega

theorem encI_op (op d : BitVec 8) (imm : BitVec 16) : (encI op d imm).extractLsb' 24 8 = op := by
  apply BitVec.eq_of_toNat_eq
  simp only [BitVec.extractLsb'_toNat, encI, toNat_join, Nat.shiftRight_eq_div_pow]
  have := op.isLt; have := d.isLt; have := imm.isLt
  omega

theorem encI_d (op d : BitVec 8) (imm : BitVec 16) : (encI op d imm).extractLsb' 16 8 = d := by
  apply BitVec.eq_of_toNat_eq
  simp only [BitVec.extractLsb'_toNat, encI, toNat_join, Nat.shiftRight_eq_div_pow]
  have := op.isLt; have := d.isLt; have := imm.isLt
  omega

theorem encI_imm (op d : BitVec 8) (imm : BitVec 16) : (encI op d imm).extractLsb' 0 16 = imm := by
  apply BitVec.eq_of_toNat_eq
  simp only [BitVec.extractLsb'_toNat, encI, toNat_join, Nat.shiftRight_eq_div_pow]
  have := op.isLt; have := d.isLt; have := imm.isLt
  omega

theorem encJ_op (op : BitVec 8) (off : BitVec 24) : (encJ op off).extractLsb' 24 8 = op := by
  apply BitVec.eq_of_toNat_eq
  simp only [BitVec.extractLsb'_toNat, encJ, toNat_join, Nat.shiftRight_eq_div_pow]
  have := op.isLt; have := off.isLt
  omega

theorem encJ_off (op : BitVec 8) (off : BitVec 24) : (encJ op off).extractLsb' 0 24 = off := by
  apply BitVec.eq_of_toNat_eq
  simp only [BitVec.extractLsb'_toNat, encJ, toNat_join, Nat.shiftRight_eq_div_pow]
  have := op.isLt; have := off.isLt
  omega

theorem encC_op (op d : BitVec 8) (row col : BitVec 6) (sel : BitVec 4) : (encC op d row col sel).extractLsb' 24 8 = op := by
  apply BitVec.eq_of_toNat_eq
  simp only [BitVec.extractLsb'_toNat, encC, toNat_join, Nat.shiftRight_eq_div_pow]
  have := op.isLt; have := d.isLt; have := row.isLt; have := col.isLt; have := sel.isLt
  omega

theorem encC_d (op d : BitVec 8) (row col : BitVec 6) (sel : BitVec 4) : (encC op d row col sel).extractLsb' 16 8 = d := by
  apply BitVec.eq_of_toNat_eq
  simp only [BitVec.extractLsb'_toNat, encC, toNat_join, Nat.shiftRight_eq_div_pow]
  have := op.isLt; have := d.isLt; have := row.isLt; have := col.isLt; have := sel.isLt
  omega

theorem encC_row (op d : BitVec 8) (row col : BitVec 6) (sel : BitVec 4) : (encC op d row col sel).extractLsb' 10 6 = row := by
  apply BitVec.eq_of_toNat_eq
  simp only [BitVec.extractLsb'_toNat, encC, toNat_join, Nat.shiftRight_eq_div_pow]
  have := op.isLt; have := d.isLt; have := row.isLt; have := col.isLt; have := sel.isLt
  omega

theorem encC_col (op d : BitVec 8) (row col : BitVec 6) (sel : BitVec 4) : (encC op d row col sel).extractLsb' 4 6 = col := by
  apply BitVec.eq_of_toNat_eq
  simp only [BitVec.extractLsb'_toNat, encC, toNat_join, Nat.shiftRight_eq_div_pow]
  have := op.isLt; have := d.isLt; have := row.isLt; have := col.isLt; have := sel.isLt
  omega

theorem encC_sel (op d : BitVec 8) (row col : BitVec 6) (sel : BitVec 4) : (encC op d row col sel).extractLsb' 0 4 = sel := by
  apply BitVec.eq_of_toNat_eq
  simp only [BitVec.extractLsb'_toNat, encC, toNat_join, Nat.shiftRight_eq_div_pow]
  have := op.isLt; have := d.isLt; have := row.isLt; have := col.isLt; have := sel.isLt
  omega

theorem low_widen {n : Nat} (h : n ≤ 8) (x : BitVec n) : low n (x.setWidth 8) = some x := by
  have h8 : x.toNat < 2 ^ 8 := Nat.lt_of_lt_of_le x.isLt (Nat.pow_le_pow_right (by decide) h)
  unfold low
  rw [if_pos (by rw [BitVec.toNat_setWidth, Nat.mod_eq_of_lt h8]; exact x.isLt)]
  congr 1
  apply BitVec.eq_of_toNat_eq
  rw [BitVec.toNat_setWidth, BitVec.toNat_setWidth, Nat.mod_eq_of_lt h8, Nat.mod_eq_of_lt x.isLt]

theorem low2 (x : BitVec 2) : low 2 (x.setWidth 8) = some x := low_widen (by decide) x
theorem low4 (x : BitVec 4) : low 4 (x.setWidth 8) = some x := low_widen (by decide) x
theorem low6 (x : BitVec 6) : low 6 (x.setWidth 8) = some x := low_widen (by decide) x
theorem low7 (x : BitVec 7) : low 7 (x.setWidth 8) = some x := low_widen (by decide) x

theorem lowImm_widen {n : Nat} (h : n ≤ 16) (x : BitVec n) : lowImm n (x.setWidth 16) = some x := by
  have h16 : x.toNat < 2 ^ 16 := Nat.lt_of_lt_of_le x.isLt (Nat.pow_le_pow_right (by decide) h)
  unfold lowImm
  rw [if_pos (by rw [BitVec.toNat_setWidth, Nat.mod_eq_of_lt h16]; exact x.isLt)]
  congr 1
  apply BitVec.eq_of_toNat_eq
  rw [BitVec.toNat_setWidth, BitVec.toNat_setWidth, Nat.mod_eq_of_lt h16, Nat.mod_eq_of_lt x.isLt]

theorem lowImm2 (x : BitVec 2) : lowImm 2 (x.setWidth 16) = some x := lowImm_widen (by decide) x
theorem lowImm4 (x : BitVec 4) : lowImm 4 (x.setWidth 16) = some x := lowImm_widen (by decide) x

theorem pair_read (x : BitVec 7) : pairField (pairByte x) = some x := by revert x; decide

theorem lowSel_read (x : BitVec 1) : lowSel (x.setWidth 4) = some x := by revert x; decide

/-- A word whose fields give a well-formed instruction decodes to it. -/
theorem decode_of {w : Word} {i : Instr} (op : BitVec 8) (ho : w.extractLsb' 24 8 = op)
    (hf : decodeFields w op.toNat = some i) (hw : i.wf = true) : decode w = .ok i := by
  unfold decode
  rw [slice_op, ho, hf]
  simp [hw]

theorem unassigned_fields (w : Word) (n : Nat) (h : n < 256) (hu : unassignedOp n = true) :
    decodeFields w n = some (.unassignedOpcode w) := by
  interval_cases n <;> first | rfl | exact absurd hu (by decide)

/-! ### One lemma per constructor -/

namespace Encoding

/-- The instruction that a word in the place of i reads as: a header in a header position, else an instruction. -/
def readBack (i : Instr) (w : Word) : Option Instr :=
  match i with
  | .clauseHeader _ _ _ _ _ => decodeHeader w
  | _ => (decode w).toOption

/-- The word of a well-formed instruction is read back as that instruction. -/
def Statement (i : Instr) : Prop := ∀ w : Word, i.wf = true → encode i = some w → readBack i w = some i

theorem of_decode {i : Instr} {w : Word} (h : decode w = .ok i) : (decode w).toOption = some i := by
  rw [h]
  rfl

theorem clauseHeader (l : BitVec 8) (w : BitVec 12) (a b : BitVec 4) (n : BitVec 3) :
    Statement (.clauseHeader l w a b n) := by
  intro x _ h
  cases h
  have hl := l.isLt
  have hw := w.isLt
  have ha := a.isLt
  have hb := b.isLt
  have hn := n.isLt
  have h0 : (((((l ++ w) ++ a) ++ b) ++ n) ++ 0#1).getLsbD 0 = false := by
    rw [BitVec.getLsbD, toNat_join, Nat.testBit_zero, decide_eq_false_iff_not]
    simp only [BitVec.toNat_ofNat]
    omega
  show decodeHeader _ = _
  unfold decodeHeader
  rw [if_neg (by rw [h0]; decide)]
  congr 2 <;> apply BitVec.eq_of_toNat_eq <;>
    simp only [BitVec.extractLsb'_toNat, toNat_join, Nat.shiftRight_eq_div_pow, BitVec.toNat_ofNat] <;> omega

theorem unassignedOpcode (x : BitVec 32) : Statement (.unassignedOpcode x) := by
  intro w hw h
  cases h
  refine of_decode ?_
  unfold decode
  have hlt : slice x 31 24 < 256 := by
    rw [slice_op]
    exact (x.extractLsb' 24 8).isLt
  have hu : unassignedOp (slice x 31 24) = true := hw
  rw [unassigned_fields x _ hlt hu]
  simp [hw]

theorem nop : Statement (.nop) := by
  intro w _ h
  cases h
  rfl

theorem mode (imm : BitVec 16) : Statement (.mode imm) := by
  intro w hw h
  cases h
  refine of_decode (decode_of 0x01#8 (encI_op _ _ _) ?_ hw)
  change Option.bind _ _ = _
  simp only [encI_d, encI_imm]
  rfl

theorem memmode (imm : BitVec 16) : Statement (.memmode imm) := by
  intro w hw h
  cases h
  refine of_decode (decode_of 0x02#8 (encI_op _ _ _) ?_ hw)
  change Option.bind _ _ = _
  simp only [encI_d, encI_imm]
  rfl

theorem bra (off : BitVec 24) : Statement (.bra off) := by
  intro w hw h
  cases h
  refine of_decode (decode_of 0x03#8 (encJ_op _ _) ?_ hw)
  change some _ = _
  simp only [encJ_off]

theorem bkz (d : BitVec 4) (off : BitVec 16) : Statement (.bkz d off) := by
  intro w hw h
  cases h
  refine of_decode (decode_of 0x04#8 (encI_op _ _ _) ?_ hw)
  change Option.bind _ _ = _
  simp only [encI_d, encI_imm, low4]
  rfl

theorem bknz (d : BitVec 4) (off : BitVec 16) : Statement (.bknz d off) := by
  intro w hw h
  cases h
  refine of_decode (decode_of 0x05#8 (encI_op _ _ _) ?_ hw)
  change Option.bind _ _ = _
  simp only [encI_d, encI_imm, low4]
  rfl

theorem bqt (d : BitVec 4) (off : BitVec 16) : Statement (.bqt d off) := by
  intro w hw h
  cases h
  refine of_decode (decode_of 0x06#8 (encI_op _ _ _) ?_ hw)
  change Option.bind _ _ = _
  simp only [encI_d, encI_imm, low4]
  rfl

theorem bqf (d : BitVec 4) (off : BitVec 16) : Statement (.bqf d off) := by
  intro w hw h
  cases h
  refine of_decode (decode_of 0x07#8 (encI_op _ _ _) ?_ hw)
  change Option.bind _ _ = _
  simp only [encI_d, encI_imm, low4]
  rfl

theorem call (off : BitVec 24) : Statement (.call off) := by
  intro w hw h
  cases h
  refine of_decode (decode_of 0x08#8 (encJ_op _ _) ?_ hw)
  change some _ = _
  simp only [encJ_off]

theorem callg (a : BitVec 6) : Statement (.callg a) := by
  intro w hw h
  cases h
  refine of_decode (decode_of 0x09#8 (encR_op _ _ _ _) ?_ hw)
  change Option.bind _ _ = _
  simp only [encR_d, encR_a, encR_b, low6]
  rfl

theorem jmpg (a : BitVec 6) : Statement (.jmpg a) := by
  intro w hw h
  cases h
  refine of_decode (decode_of 0x0A#8 (encR_op _ _ _ _) ?_ hw)
  change Option.bind _ _ = _
  simp only [encR_d, encR_a, encR_b, low6]
  rfl

theorem ret : Statement (.ret) := by
  intro w _ h
  cases h
  rfl

theorem retv (a : BitVec 8) : Statement (.retv a) := by
  intro w hw h
  cases h
  refine of_decode (decode_of 0x0C#8 (encR_op _ _ _ _) ?_ hw)
  change Option.bind _ _ = _
  simp only [encR_d, encR_a, encR_b]
  rfl

theorem loop (d : BitVec 6) (off : BitVec 16) : Statement (.loop d off) := by
  intro w hw h
  cases h
  refine of_decode (decode_of 0x0D#8 (encI_op _ _ _) ?_ hw)
  change Option.bind _ _ = _
  simp only [encI_d, encI_imm, low6]
  rfl

theorem lexit : Statement (.lexit) := by
  intro w _ h
  cases h
  rfl

theorem exit : Statement (.exit) := by
  intro w _ h
  cases h
  rfl

theorem sreg (d : BitVec 8) (imm : BitVec 16) : Statement (.sreg d imm) := by
  intro w hw h
  cases h
  refine of_decode (decode_of 0x10#8 (encI_op _ _ _) ?_ hw)
  change some _ = _
  simp only [encI_d, encI_imm]

theorem gsreg (d : BitVec 6) (imm : BitVec 16) : Statement (.gsreg d imm) := by
  intro w hw h
  cases h
  refine of_decode (decode_of 0x11#8 (encI_op _ _ _) ?_ hw)
  change Option.bind _ _ = _
  simp only [encI_d, encI_imm, low6]
  rfl

theorem kfrom (d : BitVec 4) (a : BitVec 7) : Statement (.kfrom d a) := by
  intro w hw h
  cases h
  refine of_decode (decode_of 0x12#8 (encR_op _ _ _ _) ?_ hw)
  change Option.bind _ _ = _
  simp only [encR_d, encR_a, encR_b, low4, low7]
  rfl

theorem kand (d : BitVec 4) (a : BitVec 4) (b : BitVec 4) : Statement (.kand d a b) := by
  intro w hw h
  cases h
  refine of_decode (decode_of 0x13#8 (encR_op _ _ _ _) ?_ hw)
  change Option.bind _ _ = _
  simp only [encR_d, encR_a, encR_b, low4]
  rfl

theorem kor (d : BitVec 4) (a : BitVec 4) (b : BitVec 4) : Statement (.kor d a b) := by
  intro w hw h
  cases h
  refine of_decode (decode_of 0x14#8 (encR_op _ _ _ _) ?_ hw)
  change Option.bind _ _ = _
  simp only [encR_d, encR_a, encR_b, low4]
  rfl

theorem kandn (d : BitVec 4) (a : BitVec 4) (b : BitVec 4) : Statement (.kandn d a b) := by
  intro w hw h
  cases h
  refine of_decode (decode_of 0x15#8 (encR_op _ _ _ _) ?_ hw)
  change Option.bind _ _ = _
  simp only [encR_d, encR_a, encR_b, low4]
  rfl

theorem kxor (d : BitVec 4) (a : BitVec 4) (b : BitVec 4) : Statement (.kxor d a b) := by
  intro w hw h
  cases h
  refine of_decode (decode_of 0x16#8 (encR_op _ _ _ _) ?_ hw)
  change Option.bind _ _ = _
  simp only [encR_d, encR_a, encR_b, low4]
  rfl

theorem kmov (d : BitVec 4) (a : BitVec 4) : Statement (.kmov d a) := by
  intro w hw h
  cases h
  refine of_decode (decode_of 0x17#8 (encR_op _ _ _ _) ?_ hw)
  change Option.bind _ _ = _
  simp only [encR_d, encR_a, encR_b, low4]
  rfl

theorem kpop (d : BitVec 6) (a : BitVec 4) : Statement (.kpop d a) := by
  intro w hw h
  cases h
  refine of_decode (decode_of 0x18#8 (encR_op _ _ _ _) ?_ hw)
  change Option.bind _ _ = _
  simp only [encR_d, encR_a, encR_b, low4, low6]
  rfl

theorem ktog (d : BitVec 6) (a : BitVec 4) : Statement (.ktog d a) := by
  intro w hw h
  cases h
  refine of_decode (decode_of 0x19#8 (encR_op _ _ _ _) ?_ hw)
  change Option.bind _ _ = _
  simp only [encR_d, encR_a, encR_b, low4, low6]
  rfl

theorem gtok (d : BitVec 4) (a : BitVec 6) : Statement (.gtok d a) := by
  intro w hw h
  cases h
  refine of_decode (decode_of 0x1A#8 (encR_op _ _ _ _) ?_ hw)
  change Option.bind _ _ = _
  simp only [encR_d, encR_a, encR_b, low4, low6]
  rfl

theorem phint (a : BitVec 6) (b : BitVec 6) : Statement (.phint a b) := by
  intro w hw h
  cases h
  refine of_decode (decode_of 0x1B#8 (encR_op _ _ _ _) ?_ hw)
  change Option.bind _ _ = _
  simp only [encR_d, encR_a, encR_b, low6]
  rfl

theorem idem (a : BitVec 6) (b : BitVec 6) : Statement (.idem a b) := by
  intro w hw h
  cases h
  refine of_decode (decode_of 0x1C#8 (encR_op _ _ _ _) ?_ hw)
  change Option.bind _ _ = _
  simp only [encR_d, encR_a, encR_b, low6]
  rfl

theorem idend : Statement (.idend) := by
  intro w _ h
  cases h
  rfl

theorem bwphase (n : BitVec 2) : Statement (.bwphase n) := by
  intro w hw h
  cases h
  refine of_decode (decode_of 0x1E#8 (encI_op _ _ _) ?_ hw)
  change Option.bind _ _ = _
  simp only [encI_d, encI_imm, lowImm2]
  rfl

theorem launch (d : BitVec 6) (a : BitVec 6) : Statement (.launch d a) := by
  intro w hw h
  cases h
  refine of_decode (decode_of 0x1F#8 (encR_op _ _ _ _) ?_ hw)
  change Option.bind _ _ = _
  simp only [encR_d, encR_a, encR_b, low6]
  rfl

theorem add (d : BitVec 8) (a : BitVec 8) (b : BitVec 8) : Statement (.add d a b) := by
  intro w hw h
  cases h
  refine of_decode (decode_of 0x20#8 (encR_op _ _ _ _) ?_ hw)
  change some _ = _
  simp only [encR_d, encR_a, encR_b]

theorem sub (d : BitVec 8) (a : BitVec 8) (b : BitVec 8) : Statement (.sub d a b) := by
  intro w hw h
  cases h
  refine of_decode (decode_of 0x21#8 (encR_op _ _ _ _) ?_ hw)
  change some _ = _
  simp only [encR_d, encR_a, encR_b]

theorem mul (d : BitVec 8) (a : BitVec 8) (b : BitVec 8) : Statement (.mul d a b) := by
  intro w hw h
  cases h
  refine of_decode (decode_of 0x22#8 (encR_op _ _ _ _) ?_ hw)
  change some _ = _
  simp only [encR_d, encR_a, encR_b]

theorem mulh (d : BitVec 8) (a : BitVec 8) (b : BitVec 8) : Statement (.mulh d a b) := by
  intro w hw h
  cases h
  refine of_decode (decode_of 0x23#8 (encR_op _ _ _ _) ?_ hw)
  change some _ = _
  simp only [encR_d, encR_a, encR_b]

theorem mad (d : BitVec 8) (a : BitVec 8) (b : BitVec 8) : Statement (.mad d a b) := by
  intro w hw h
  cases h
  refine of_decode (decode_of 0x24#8 (encR_op _ _ _ _) ?_ hw)
  change some _ = _
  simp only [encR_d, encR_a, encR_b]

theorem msb (d : BitVec 8) (a : BitVec 8) (b : BitVec 8) : Statement (.msb d a b) := by
  intro w hw h
  cases h
  refine of_decode (decode_of 0x25#8 (encR_op _ _ _ _) ?_ hw)
  change some _ = _
  simp only [encR_d, encR_a, encR_b]

theorem div (d : BitVec 8) (a : BitVec 8) (b : BitVec 8) : Statement (.div d a b) := by
  intro w hw h
  cases h
  refine of_decode (decode_of 0x26#8 (encR_op _ _ _ _) ?_ hw)
  change some _ = _
  simp only [encR_d, encR_a, encR_b]

theorem rem (d : BitVec 8) (a : BitVec 8) (b : BitVec 8) : Statement (.rem d a b) := by
  intro w hw h
  cases h
  refine of_decode (decode_of 0x27#8 (encR_op _ _ _ _) ?_ hw)
  change some _ = _
  simp only [encR_d, encR_a, encR_b]

theorem min (d : BitVec 8) (a : BitVec 8) (b : BitVec 8) : Statement (.min d a b) := by
  intro w hw h
  cases h
  refine of_decode (decode_of 0x28#8 (encR_op _ _ _ _) ?_ hw)
  change some _ = _
  simp only [encR_d, encR_a, encR_b]

theorem max (d : BitVec 8) (a : BitVec 8) (b : BitVec 8) : Statement (.max d a b) := by
  intro w hw h
  cases h
  refine of_decode (decode_of 0x29#8 (encR_op _ _ _ _) ?_ hw)
  change some _ = _
  simp only [encR_d, encR_a, encR_b]

theorem abs (d : BitVec 8) (a : BitVec 8) : Statement (.abs d a) := by
  intro w hw h
  cases h
  refine of_decode (decode_of 0x2A#8 (encR_op _ _ _ _) ?_ hw)
  change Option.bind _ _ = _
  simp only [encR_d, encR_a, encR_b]
  rfl

theorem neg (d : BitVec 8) (a : BitVec 8) : Statement (.neg d a) := by
  intro w hw h
  cases h
  refine of_decode (decode_of 0x2B#8 (encR_op _ _ _ _) ?_ hw)
  change Option.bind _ _ = _
  simp only [encR_d, encR_a, encR_b]
  rfl

theorem and (d : BitVec 8) (a : BitVec 8) (b : BitVec 8) : Statement (.and d a b) := by
  intro w hw h
  cases h
  refine of_decode (decode_of 0x2C#8 (encR_op _ _ _ _) ?_ hw)
  change some _ = _
  simp only [encR_d, encR_a, encR_b]

theorem or (d : BitVec 8) (a : BitVec 8) (b : BitVec 8) : Statement (.or d a b) := by
  intro w hw h
  cases h
  refine of_decode (decode_of 0x2D#8 (encR_op _ _ _ _) ?_ hw)
  change some _ = _
  simp only [encR_d, encR_a, encR_b]

theorem xor (d : BitVec 8) (a : BitVec 8) (b : BitVec 8) : Statement (.xor d a b) := by
  intro w hw h
  cases h
  refine of_decode (decode_of 0x2E#8 (encR_op _ _ _ _) ?_ hw)
  change some _ = _
  simp only [encR_d, encR_a, encR_b]

theorem not (d : BitVec 8) (a : BitVec 8) : Statement (.not d a) := by
  intro w hw h
  cases h
  refine of_decode (decode_of 0x2F#8 (encR_op _ _ _ _) ?_ hw)
  change Option.bind _ _ = _
  simp only [encR_d, encR_a, encR_b]
  rfl

theorem shl (d : BitVec 8) (a : BitVec 8) (b : BitVec 8) : Statement (.shl d a b) := by
  intro w hw h
  cases h
  refine of_decode (decode_of 0x30#8 (encR_op _ _ _ _) ?_ hw)
  change some _ = _
  simp only [encR_d, encR_a, encR_b]

theorem shr (d : BitVec 8) (a : BitVec 8) (b : BitVec 8) : Statement (.shr d a b) := by
  intro w hw h
  cases h
  refine of_decode (decode_of 0x31#8 (encR_op _ _ _ _) ?_ hw)
  change some _ = _
  simp only [encR_d, encR_a, encR_b]

theorem sar (d : BitVec 8) (a : BitVec 8) (b : BitVec 8) : Statement (.sar d a b) := by
  intro w hw h
  cases h
  refine of_decode (decode_of 0x32#8 (encR_op _ _ _ _) ?_ hw)
  change some _ = _
  simp only [encR_d, encR_a, encR_b]

theorem rol (d : BitVec 8) (a : BitVec 8) (b : BitVec 8) : Statement (.rol d a b) := by
  intro w hw h
  cases h
  refine of_decode (decode_of 0x33#8 (encR_op _ _ _ _) ?_ hw)
  change some _ = _
  simp only [encR_d, encR_a, encR_b]

theorem clz (d : BitVec 8) (a : BitVec 8) : Statement (.clz d a) := by
  intro w hw h
  cases h
  refine of_decode (decode_of 0x34#8 (encR_op _ _ _ _) ?_ hw)
  change Option.bind _ _ = _
  simp only [encR_d, encR_a, encR_b]
  rfl

theorem pop (d : BitVec 8) (a : BitVec 8) : Statement (.pop d a) := by
  intro w hw h
  cases h
  refine of_decode (decode_of 0x35#8 (encR_op _ _ _ _) ?_ hw)
  change Option.bind _ _ = _
  simp only [encR_d, encR_a, encR_b]
  rfl

theorem brev (d : BitVec 8) (a : BitVec 8) : Statement (.brev d a) := by
  intro w hw h
  cases h
  refine of_decode (decode_of 0x36#8 (encR_op _ _ _ _) ?_ hw)
  change Option.bind _ _ = _
  simp only [encR_d, encR_a, encR_b]
  rfl

theorem bfe (d : BitVec 8) (a : BitVec 8) (b : BitVec 8) : Statement (.bfe d a b) := by
  intro w hw h
  cases h
  refine of_decode (decode_of 0x37#8 (encR_op _ _ _ _) ?_ hw)
  change some _ = _
  simp only [encR_d, encR_a, encR_b]

theorem bfi (d : BitVec 8) (a : BitVec 8) (b : BitVec 8) : Statement (.bfi d a b) := by
  intro w hw h
  cases h
  refine of_decode (decode_of 0x38#8 (encR_op _ _ _ _) ?_ hw)
  change some _ = _
  simp only [encR_d, encR_a, encR_b]

theorem mov (d : BitVec 8) (a : BitVec 8) : Statement (.mov d a) := by
  intro w hw h
  cases h
  refine of_decode (decode_of 0x39#8 (encR_op _ _ _ _) ?_ hw)
  change Option.bind _ _ = _
  simp only [encR_d, encR_a, encR_b]
  rfl

theorem sel (d : BitVec 8) (a : BitVec 8) (b : BitVec 8) : Statement (.sel d a b) := by
  intro w hw h
  cases h
  refine of_decode (decode_of 0x3A#8 (encR_op _ _ _ _) ?_ hw)
  change some _ = _
  simp only [encR_d, encR_a, encR_b]

theorem ldi (d : BitVec 8) (imm : BitVec 16) : Statement (.ldi d imm) := by
  intro w hw h
  cases h
  refine of_decode (decode_of 0x3B#8 (encI_op _ _ _) ?_ hw)
  change some _ = _
  simp only [encI_d, encI_imm]

theorem ldih (d : BitVec 8) (imm : BitVec 16) : Statement (.ldih d imm) := by
  intro w hw h
  cases h
  refine of_decode (decode_of 0x3C#8 (encI_op _ _ _) ?_ hw)
  change some _ = _
  simp only [encI_d, encI_imm]

theorem cvt (d : BitVec 8) (a : BitVec 8) (t : BitVec 4) : Statement (.cvt d a t) := by
  intro w hw h
  cases h
  refine of_decode (decode_of 0x3D#8 (encR_op _ _ _ _) ?_ hw)
  change Option.bind _ _ = _
  simp only [encR_d, encR_a, encR_b, low4]
  rfl

theorem ceq (d : BitVec 7) (a : BitVec 8) (b : BitVec 8) : Statement (.ceq d a b) := by
  intro w hw h
  cases h
  refine of_decode (decode_of 0x3E#8 (encR_op _ _ _ _) ?_ hw)
  change Option.bind _ _ = _
  simp only [encR_d, encR_a, encR_b, low7]
  rfl

theorem cne (d : BitVec 7) (a : BitVec 8) (b : BitVec 8) : Statement (.cne d a b) := by
  intro w hw h
  cases h
  refine of_decode (decode_of 0x3F#8 (encR_op _ _ _ _) ?_ hw)
  change Option.bind _ _ = _
  simp only [encR_d, encR_a, encR_b, low7]
  rfl

theorem clt (d : BitVec 7) (a : BitVec 8) (b : BitVec 8) : Statement (.clt d a b) := by
  intro w hw h
  cases h
  refine of_decode (decode_of 0x40#8 (encR_op _ _ _ _) ?_ hw)
  change Option.bind _ _ = _
  simp only [encR_d, encR_a, encR_b, low7]
  rfl

theorem cle (d : BitVec 7) (a : BitVec 8) (b : BitVec 8) : Statement (.cle d a b) := by
  intro w hw h
  cases h
  refine of_decode (decode_of 0x41#8 (encR_op _ _ _ _) ?_ hw)
  change Option.bind _ _ = _
  simp only [encR_d, encR_a, encR_b, low7]
  rfl

theorem cun (d : BitVec 7) (a : BitVec 8) (b : BitVec 8) : Statement (.cun d a b) := by
  intro w hw h
  cases h
  refine of_decode (decode_of 0x42#8 (encR_op _ _ _ _) ?_ hw)
  change Option.bind _ _ = _
  simp only [encR_d, encR_a, encR_b, low7]
  rfl

theorem pand (d : BitVec 7) (a : BitVec 7) (b : BitVec 7) : Statement (.pand d a b) := by
  intro w hw h
  cases h
  refine of_decode (decode_of 0x43#8 (encR_op _ _ _ _) ?_ hw)
  change Option.bind _ _ = _
  simp only [encR_d, encR_a, encR_b, low7]
  rfl

theorem por (d : BitVec 7) (a : BitVec 7) (b : BitVec 7) : Statement (.por d a b) := by
  intro w hw h
  cases h
  refine of_decode (decode_of 0x44#8 (encR_op _ _ _ _) ?_ hw)
  change Option.bind _ _ = _
  simp only [encR_d, encR_a, encR_b, low7]
  rfl

theorem pxor (d : BitVec 7) (a : BitVec 7) (b : BitVec 7) : Statement (.pxor d a b) := by
  intro w hw h
  cases h
  refine of_decode (decode_of 0x45#8 (encR_op _ _ _ _) ?_ hw)
  change Option.bind _ _ = _
  simp only [encR_d, encR_a, encR_b, low7]
  rfl

theorem pnot (d : BitVec 7) (a : BitVec 7) : Statement (.pnot d a) := by
  intro w hw h
  cases h
  refine of_decode (decode_of 0x46#8 (encR_op _ _ _ _) ?_ hw)
  change Option.bind _ _ = _
  simp only [encR_d, encR_a, encR_b, low7]
  rfl

theorem rcp (d : BitVec 8) (a : BitVec 8) : Statement (.rcp d a) := by
  intro w hw h
  cases h
  refine of_decode (decode_of 0x47#8 (encR_op _ _ _ _) ?_ hw)
  change Option.bind _ _ = _
  simp only [encR_d, encR_a, encR_b]
  rfl

theorem rsq (d : BitVec 8) (a : BitVec 8) : Statement (.rsq d a) := by
  intro w hw h
  cases h
  refine of_decode (decode_of 0x48#8 (encR_op _ _ _ _) ?_ hw)
  change Option.bind _ _ = _
  simp only [encR_d, encR_a, encR_b]
  rfl

theorem sqrt (d : BitVec 8) (a : BitVec 8) : Statement (.sqrt d a) := by
  intro w hw h
  cases h
  refine of_decode (decode_of 0x49#8 (encR_op _ _ _ _) ?_ hw)
  change Option.bind _ _ = _
  simp only [encR_d, encR_a, encR_b]
  rfl

theorem ex2 (d : BitVec 8) (a : BitVec 8) : Statement (.ex2 d a) := by
  intro w hw h
  cases h
  refine of_decode (decode_of 0x4A#8 (encR_op _ _ _ _) ?_ hw)
  change Option.bind _ _ = _
  simp only [encR_d, encR_a, encR_b]
  rfl

theorem lg2 (d : BitVec 8) (a : BitVec 8) : Statement (.lg2 d a) := by
  intro w hw h
  cases h
  refine of_decode (decode_of 0x4B#8 (encR_op _ _ _ _) ?_ hw)
  change Option.bind _ _ = _
  simp only [encR_d, encR_a, encR_b]
  rfl

theorem sinpi (d : BitVec 8) (a : BitVec 8) : Statement (.sinpi d a) := by
  intro w hw h
  cases h
  refine of_decode (decode_of 0x4C#8 (encR_op _ _ _ _) ?_ hw)
  change Option.bind _ _ = _
  simp only [encR_d, encR_a, encR_b]
  rfl

theorem cospi (d : BitVec 8) (a : BitVec 8) : Statement (.cospi d a) := by
  intro w hw h
  cases h
  refine of_decode (decode_of 0x4D#8 (encR_op _ _ _ _) ?_ hw)
  change Option.bind _ _ = _
  simp only [encR_d, encR_a, encR_b]
  rfl

theorem rint (d : BitVec 8) (a : BitVec 8) : Statement (.rint d a) := by
  intro w hw h
  cases h
  refine of_decode (decode_of 0x4E#8 (encR_op _ _ _ _) ?_ hw)
  change Option.bind _ _ = _
  simp only [encR_d, encR_a, encR_b]
  rfl

theorem scl (d : BitVec 8) (a : BitVec 8) (b : BitVec 8) : Statement (.scl d a b) := by
  intro w hw h
  cases h
  refine of_decode (decode_of 0x4F#8 (encR_op _ _ _ _) ?_ hw)
  change some _ = _
  simp only [encR_d, encR_a, encR_b]

theorem shfl (d : BitVec 8) (a : BitVec 8) (b : BitVec 8) : Statement (.shfl d a b) := by
  intro w hw h
  cases h
  refine of_decode (decode_of 0x50#8 (encR_op _ _ _ _) ?_ hw)
  change some _ = _
  simp only [encR_d, encR_a, encR_b]

theorem shfx (d : BitVec 8) (a : BitVec 8) (n : BitVec 6) : Statement (.shfx d a n) := by
  intro w hw h
  cases h
  refine of_decode (decode_of 0x51#8 (encR_op _ _ _ _) ?_ hw)
  change Option.bind _ _ = _
  simp only [encR_d, encR_a, encR_b, low6]
  rfl

theorem shup (d : BitVec 8) (a : BitVec 8) (n : BitVec 6) : Statement (.shup d a n) := by
  intro w hw h
  cases h
  refine of_decode (decode_of 0x52#8 (encR_op _ _ _ _) ?_ hw)
  change Option.bind _ _ = _
  simp only [encR_d, encR_a, encR_b, low6]
  rfl

theorem shdn (d : BitVec 8) (a : BitVec 8) (n : BitVec 6) : Statement (.shdn d a n) := by
  intro w hw h
  cases h
  refine of_decode (decode_of 0x53#8 (encR_op _ _ _ _) ?_ hw)
  change Option.bind _ _ = _
  simp only [encR_d, encR_a, encR_b, low6]
  rfl

theorem bcst (d : BitVec 8) (a : BitVec 8) (b : BitVec 6) : Statement (.bcst d a b) := by
  intro w hw h
  cases h
  refine of_decode (decode_of 0x54#8 (encR_op _ _ _ _) ?_ hw)
  change Option.bind _ _ = _
  simp only [encR_d, encR_a, encR_b, low6]
  rfl

theorem radd (d : BitVec 6) (a : BitVec 8) : Statement (.radd d a) := by
  intro w hw h
  cases h
  refine of_decode (decode_of 0x55#8 (encR_op _ _ _ _) ?_ hw)
  change Option.bind _ _ = _
  simp only [encR_d, encR_a, encR_b, low6]
  rfl

theorem rmin (d : BitVec 6) (a : BitVec 8) : Statement (.rmin d a) := by
  intro w hw h
  cases h
  refine of_decode (decode_of 0x56#8 (encR_op _ _ _ _) ?_ hw)
  change Option.bind _ _ = _
  simp only [encR_d, encR_a, encR_b, low6]
  rfl

theorem rmax (d : BitVec 6) (a : BitVec 8) : Statement (.rmax d a) := by
  intro w hw h
  cases h
  refine of_decode (decode_of 0x57#8 (encR_op _ _ _ _) ?_ hw)
  change Option.bind _ _ = _
  simp only [encR_d, encR_a, encR_b, low6]
  rfl

theorem confl (d : BitVec 4) (a : BitVec 8) : Statement (.confl d a) := by
  intro w hw h
  cases h
  refine of_decode (decode_of 0x58#8 (encR_op _ _ _ _) ?_ hw)
  change Option.bind _ _ = _
  simp only [encR_d, encR_a, encR_b, low4]
  rfl

theorem fcls (d : BitVec 8) (a : BitVec 8) : Statement (.fcls d a) := by
  intro w hw h
  cases h
  refine of_decode (decode_of 0x59#8 (encR_op _ _ _ _) ?_ hw)
  change Option.bind _ _ = _
  simp only [encR_d, encR_a, encR_b]
  rfl

theorem cmprs (d : BitVec 8) (a : BitVec 8) (b : BitVec 6) : Statement (.cmprs d a b) := by
  intro w hw h
  cases h
  refine of_decode (decode_of 0x5A#8 (encR_op _ _ _ _) ?_ hw)
  change Option.bind _ _ = _
  simp only [encR_d, encR_a, encR_b, low6]
  rfl

theorem expnd (d : BitVec 8) (a : BitVec 8) (b : BitVec 6) : Statement (.expnd d a b) := by
  intro w hw h
  cases h
  refine of_decode (decode_of 0x5B#8 (encR_op _ _ _ _) ?_ hw)
  change Option.bind _ _ = _
  simp only [encR_d, encR_a, encR_b, low6]
  rfl

theorem vtog (d : BitVec 6) (a : BitVec 8) : Statement (.vtog d a) := by
  intro w hw h
  cases h
  refine of_decode (decode_of 0x5C#8 (encR_op _ _ _ _) ?_ hw)
  change Option.bind _ _ = _
  simp only [encR_d, encR_a, encR_b, low6]
  rfl

theorem gtov (d : BitVec 8) (a : BitVec 6) : Statement (.gtov d a) := by
  intro w hw h
  cases h
  refine of_decode (decode_of 0x5D#8 (encR_op _ _ _ _) ?_ hw)
  change Option.bind _ _ = _
  simp only [encR_d, encR_a, encR_b, low6]
  rfl

theorem gadd (d : BitVec 6) (a : BitVec 6) (b : BitVec 6) : Statement (.gadd d a b) := by
  intro w hw h
  cases h
  refine of_decode (decode_of 0x60#8 (encR_op _ _ _ _) ?_ hw)
  change Option.bind _ _ = _
  simp only [encR_d, encR_a, encR_b, low6]
  rfl

theorem gsub (d : BitVec 6) (a : BitVec 6) (b : BitVec 6) : Statement (.gsub d a b) := by
  intro w hw h
  cases h
  refine of_decode (decode_of 0x61#8 (encR_op _ _ _ _) ?_ hw)
  change Option.bind _ _ = _
  simp only [encR_d, encR_a, encR_b, low6]
  rfl

theorem gmul (d : BitVec 6) (a : BitVec 6) (b : BitVec 6) : Statement (.gmul d a b) := by
  intro w hw h
  cases h
  refine of_decode (decode_of 0x62#8 (encR_op _ _ _ _) ?_ hw)
  change Option.bind _ _ = _
  simp only [encR_d, encR_a, encR_b, low6]
  rfl

theorem gand (d : BitVec 6) (a : BitVec 6) (b : BitVec 6) : Statement (.gand d a b) := by
  intro w hw h
  cases h
  refine of_decode (decode_of 0x63#8 (encR_op _ _ _ _) ?_ hw)
  change Option.bind _ _ = _
  simp only [encR_d, encR_a, encR_b, low6]
  rfl

theorem gor (d : BitVec 6) (a : BitVec 6) (b : BitVec 6) : Statement (.gor d a b) := by
  intro w hw h
  cases h
  refine of_decode (decode_of 0x64#8 (encR_op _ _ _ _) ?_ hw)
  change Option.bind _ _ = _
  simp only [encR_d, encR_a, encR_b, low6]
  rfl

theorem gxor (d : BitVec 6) (a : BitVec 6) (b : BitVec 6) : Statement (.gxor d a b) := by
  intro w hw h
  cases h
  refine of_decode (decode_of 0x65#8 (encR_op _ _ _ _) ?_ hw)
  change Option.bind _ _ = _
  simp only [encR_d, encR_a, encR_b, low6]
  rfl

theorem gshl (d : BitVec 6) (a : BitVec 6) (b : BitVec 6) : Statement (.gshl d a b) := by
  intro w hw h
  cases h
  refine of_decode (decode_of 0x66#8 (encR_op _ _ _ _) ?_ hw)
  change Option.bind _ _ = _
  simp only [encR_d, encR_a, encR_b, low6]
  rfl

theorem gshr (d : BitVec 6) (a : BitVec 6) (b : BitVec 6) : Statement (.gshr d a b) := by
  intro w hw h
  cases h
  refine of_decode (decode_of 0x67#8 (encR_op _ _ _ _) ?_ hw)
  change Option.bind _ _ = _
  simp only [encR_d, encR_a, encR_b, low6]
  rfl

theorem gsar (d : BitVec 6) (a : BitVec 6) (b : BitVec 6) : Statement (.gsar d a b) := by
  intro w hw h
  cases h
  refine of_decode (decode_of 0x68#8 (encR_op _ _ _ _) ?_ hw)
  change Option.bind _ _ = _
  simp only [encR_d, encR_a, encR_b, low6]
  rfl

theorem gmov (d : BitVec 6) (a : BitVec 6) : Statement (.gmov d a) := by
  intro w hw h
  cases h
  refine of_decode (decode_of 0x69#8 (encR_op _ _ _ _) ?_ hw)
  change Option.bind _ _ = _
  simp only [encR_d, encR_a, encR_b, low6]
  rfl

theorem gldi (d : BitVec 6) (imm : BitVec 16) : Statement (.gldi d imm) := by
  intro w hw h
  cases h
  refine of_decode (decode_of 0x6A#8 (encI_op _ _ _) ?_ hw)
  change Option.bind _ _ = _
  simp only [encI_d, encI_imm, low6]
  rfl

theorem gldih (d : BitVec 6) (imm : BitVec 16) : Statement (.gldih d imm) := by
  intro w hw h
  cases h
  refine of_decode (decode_of 0x6B#8 (encI_op _ _ _) ?_ hw)
  change Option.bind _ _ = _
  simp only [encI_d, encI_imm, low6]
  rfl

theorem gldix (d : BitVec 6) (imm : BitVec 16) : Statement (.gldix d imm) := by
  intro w hw h
  cases h
  refine of_decode (decode_of 0x6C#8 (encI_op _ _ _) ?_ hw)
  change Option.bind _ _ = _
  simp only [encI_d, encI_imm, low6]
  rfl

theorem gldiy (d : BitVec 6) (imm : BitVec 16) : Statement (.gldiy d imm) := by
  intro w hw h
  cases h
  refine of_decode (decode_of 0x6D#8 (encI_op _ _ _) ?_ hw)
  change Option.bind _ _ = _
  simp only [encI_d, encI_imm, low6]
  rfl

theorem gceq (d : BitVec 4) (a : BitVec 6) (b : BitVec 6) : Statement (.gceq d a b) := by
  intro w hw h
  cases h
  refine of_decode (decode_of 0x6E#8 (encR_op _ _ _ _) ?_ hw)
  change Option.bind _ _ = _
  simp only [encR_d, encR_a, encR_b, low4, low6]
  rfl

theorem gclt (d : BitVec 4) (a : BitVec 6) (b : BitVec 6) : Statement (.gclt d a b) := by
  intro w hw h
  cases h
  refine of_decode (decode_of 0x6F#8 (encR_op _ _ _ _) ?_ hw)
  change Option.bind _ _ = _
  simp only [encR_d, encR_a, encR_b, low4, low6]
  rfl

theorem lkp (d : BitVec 7) (a : BitVec 7) (b : BitVec 6) : Statement (.lkp d a b) := by
  intro w hw h
  cases h
  refine of_decode (decode_of 0x70#8 (encR_op _ _ _ _) ?_ hw)
  change Option.bind _ _ = _
  simp only [encR_d, encR_a, encR_b, low6, pair_read]
  rfl

theorem ins (d : BitVec 7) (a : BitVec 7) (b : BitVec 6) : Statement (.ins d a b) := by
  intro w hw h
  cases h
  refine of_decode (decode_of 0x71#8 (encR_op _ _ _ _) ?_ hw)
  change Option.bind _ _ = _
  simp only [encR_d, encR_a, encR_b, low6, pair_read]
  rfl

theorem ups (d : BitVec 7) (a : BitVec 7) (b : BitVec 6) : Statement (.ups d a b) := by
  intro w hw h
  cases h
  refine of_decode (decode_of 0x72#8 (encR_op _ _ _ _) ?_ hw)
  change Option.bind _ _ = _
  simp only [encR_d, encR_a, encR_b, low6, pair_read]
  rfl

theorem del (d : BitVec 7) (a : BitVec 7) (b : BitVec 6) : Statement (.del d a b) := by
  intro w hw h
  cases h
  refine of_decode (decode_of 0x73#8 (encR_op _ _ _ _) ?_ hw)
  change Option.bind _ _ = _
  simp only [encR_d, encR_a, encR_b, low6, pair_read]
  rfl

theorem rekey (d : BitVec 7) (a : BitVec 7) (b : BitVec 6) : Statement (.rekey d a b) := by
  intro w hw h
  cases h
  refine of_decode (decode_of 0x74#8 (encR_op _ _ _ _) ?_ hw)
  change Option.bind _ _ = _
  simp only [encR_d, encR_a, encR_b, low6, pair_read]
  rfl

theorem ld (d : BitVec 8) (a : BitVec 7) (off : BitVec 8) : Statement (.ld d a off) := by
  intro w hw h
  cases h
  refine of_decode (decode_of 0x75#8 (encR_op _ _ _ _) ?_ hw)
  change Option.bind _ _ = _
  simp only [encR_d, encR_a, encR_b, pair_read]
  rfl

theorem st (d : BitVec 8) (a : BitVec 7) (off : BitVec 8) : Statement (.st d a off) := by
  intro w hw h
  cases h
  refine of_decode (decode_of 0x76#8 (encR_op _ _ _ _) ?_ hw)
  change Option.bind _ _ = _
  simp only [encR_d, encR_a, encR_b, pair_read]
  rfl

theorem atom (d : BitVec 8) (a : BitVec 7) (off : BitVec 8) : Statement (.atom d a off) := by
  intro w hw h
  cases h
  refine of_decode (decode_of 0x77#8 (encR_op _ _ _ _) ?_ hw)
  change Option.bind _ _ = _
  simp only [encR_d, encR_a, encR_b, pair_read]
  rfl

theorem ldrow (d : BitVec 8) (a : BitVec 7) (b : BitVec 6) : Statement (.ldrow d a b) := by
  intro w hw h
  cases h
  refine of_decode (decode_of 0x78#8 (encR_op _ _ _ _) ?_ hw)
  change Option.bind _ _ = _
  simp only [encR_d, encR_a, encR_b, low6, pair_read]
  rfl

theorem ratom (d : BitVec 8) (a : BitVec 7) (off : BitVec 8) : Statement (.ratom d a off) := by
  intro w hw h
  cases h
  refine of_decode (decode_of 0x79#8 (encR_op _ _ _ _) ?_ hw)
  change Option.bind _ _ = _
  simp only [encR_d, encR_a, encR_b, pair_read]
  rfl

theorem copen (d : BitVec 8) (a : BitVec 7) (b : BitVec 6) : Statement (.copen d a b) := by
  intro w hw h
  cases h
  refine of_decode (decode_of 0x7A#8 (encR_op _ _ _ _) ?_ hw)
  change Option.bind _ _ = _
  simp only [encR_d, encR_a, encR_b, low6, pair_read]
  rfl

theorem cstep (d : BitVec 7) (a : BitVec 8) : Statement (.cstep d a) := by
  intro w hw h
  cases h
  refine of_decode (decode_of 0x7B#8 (encR_op _ _ _ _) ?_ hw)
  change Option.bind _ _ = _
  simp only [encR_d, encR_a, encR_b, pair_read]
  rfl

theorem cstepn (d : BitVec 7) (a : BitVec 8) : Statement (.cstepn d a) := by
  intro w hw h
  cases h
  refine of_decode (decode_of 0x7C#8 (encR_op _ _ _ _) ?_ hw)
  change Option.bind _ _ = _
  simp only [encR_d, encR_a, encR_b, pair_read]
  rfl

theorem cseek (d : BitVec 8) (a : BitVec 7) : Statement (.cseek d a) := by
  intro w hw h
  cases h
  refine of_decode (decode_of 0x7D#8 (encR_op _ _ _ _) ?_ hw)
  change Option.bind _ _ = _
  simp only [encR_d, encR_a, encR_b, pair_read]
  rfl

theorem cclose (a : BitVec 8) : Statement (.cclose a) := by
  intro w hw h
  cases h
  refine of_decode (decode_of 0x7E#8 (encR_op _ _ _ _) ?_ hw)
  change Option.bind _ _ = _
  simp only [encR_d, encR_a, encR_b]
  rfl

theorem gath (d : BitVec 6) (a : BitVec 6) (b : BitVec 6) : Statement (.gath d a b) := by
  intro w hw h
  cases h
  refine of_decode (decode_of 0x7F#8 (encR_op _ _ _ _) ?_ hw)
  change Option.bind _ _ = _
  simp only [encR_d, encR_a, encR_b, low6]
  rfl

theorem promo (d : BitVec 6) (a : BitVec 6) : Statement (.promo d a) := by
  intro w hw h
  cases h
  refine of_decode (decode_of 0x80#8 (encR_op _ _ _ _) ?_ hw)
  change Option.bind _ _ = _
  simp only [encR_d, encR_a, encR_b, low6]
  rfl

theorem publ (a : BitVec 6) : Statement (.publ a) := by
  intro w hw h
  cases h
  refine of_decode (decode_of 0x81#8 (encR_op _ _ _ _) ?_ hw)
  change Option.bind _ _ = _
  simp only [encR_d, encR_a, encR_b, low6]
  rfl

theorem fence : Statement (.fence) := by
  intro w _ h
  cases h
  rfl

theorem sld (d : BitVec 8) (a : BitVec 8) (off : BitVec 8) : Statement (.sld d a off) := by
  intro w hw h
  cases h
  refine of_decode (decode_of 0x84#8 (encR_op _ _ _ _) ?_ hw)
  change some _ = _
  simp only [encR_d, encR_a, encR_b]

theorem sst (d : BitVec 8) (a : BitVec 8) (off : BitVec 8) : Statement (.sst d a off) := by
  intro w hw h
  cases h
  refine of_decode (decode_of 0x85#8 (encR_op _ _ _ _) ?_ hw)
  change some _ = _
  simp only [encR_d, encR_a, encR_b]

theorem satom (d : BitVec 8) (a : BitVec 8) (off : BitVec 8) : Statement (.satom d a off) := by
  intro w hw h
  cases h
  refine of_decode (decode_of 0x86#8 (encR_op _ _ _ _) ?_ hw)
  change some _ = _
  simp only [encR_d, encR_a, encR_b]

theorem cpy (d : BitVec 6) (a : BitVec 6) (b : BitVec 6) : Statement (.cpy d a b) := by
  intro w hw h
  cases h
  refine of_decode (decode_of 0x87#8 (encR_op _ _ _ _) ?_ hw)
  change Option.bind _ _ = _
  simp only [encR_d, encR_a, encR_b, low6]
  rfl

theorem cpys (d : BitVec 6) (a : BitVec 6) (b : BitVec 6) : Statement (.cpys d a b) := by
  intro w hw h
  cases h
  refine of_decode (decode_of 0x88#8 (encR_op _ _ _ _) ?_ hw)
  change Option.bind _ _ = _
  simp only [encR_d, encR_a, encR_b, low6]
  rfl

theorem cpyo (d : BitVec 6) (a : BitVec 6) (b : BitVec 6) : Statement (.cpyo d a b) := by
  intro w hw h
  cases h
  refine of_decode (decode_of 0x89#8 (encR_op _ _ _ _) ?_ hw)
  change Option.bind _ _ = _
  simp only [encR_d, encR_a, encR_b, low6]
  rfl

theorem cbatch (d : BitVec 6) : Statement (.cbatch d) := by
  intro w hw h
  cases h
  refine of_decode (decode_of 0x8A#8 (encR_op _ _ _ _) ?_ hw)
  change Option.bind _ _ = _
  simp only [encR_d, encR_a, encR_b, low6]
  rfl

theorem cwait (a : BitVec 6) : Statement (.cwait a) := by
  intro w hw h
  cases h
  refine of_decode (decode_of 0x8B#8 (encR_op _ _ _ _) ?_ hw)
  change Option.bind _ _ = _
  simp only [encR_d, encR_a, encR_b, low6]
  rfl

theorem bgive (d : BitVec 6) (row : BitVec 6) (col : BitVec 6) : Statement (.bgive d row col) := by
  intro w hw h
  cases h
  refine of_decode (decode_of 0x8C#8 (encC_op _ _ _ _ _) ?_ hw)
  change Option.bind _ _ = _
  simp only [encC_d, encC_row, encC_col, encC_sel, low6]
  rfl

theorem btake (d : BitVec 6) : Statement (.btake d) := by
  intro w hw h
  cases h
  refine of_decode (decode_of 0x8D#8 (encR_op _ _ _ _) ?_ hw)
  change Option.bind _ _ = _
  simp only [encR_d, encR_a, encR_b, low6]
  rfl

theorem balloc (d : BitVec 6) (a : BitVec 6) : Statement (.balloc d a) := by
  intro w hw h
  cases h
  refine of_decode (decode_of 0x8E#8 (encR_op _ _ _ _) ?_ hw)
  change Option.bind _ _ = _
  simp only [encR_d, encR_a, encR_b, low6]
  rfl

theorem bfree (a : BitVec 6) : Statement (.bfree a) := by
  intro w hw h
  cases h
  refine of_decode (decode_of 0x8F#8 (encR_op _ _ _ _) ?_ hw)
  change Option.bind _ _ = _
  simp only [encR_d, encR_a, encR_b, low6]
  rfl

theorem gang (a : BitVec 6) : Statement (.gang a) := by
  intro w hw h
  cases h
  refine of_decode (decode_of 0xA0#8 (encR_op _ _ _ _) ?_ hw)
  change Option.bind _ _ = _
  simp only [encR_d, encR_a, encR_b, low6]
  rfl

theorem mlds (d : BitVec 6) (a : BitVec 6) (b : BitVec 6) : Statement (.mlds d a b) := by
  intro w hw h
  cases h
  refine of_decode (decode_of 0xA1#8 (encR_op _ _ _ _) ?_ hw)
  change Option.bind _ _ = _
  simp only [encR_d, encR_a, encR_b, low6]
  rfl

theorem mact : Statement (.mact) := by
  intro w _ h
  cases h
  rfl

theorem mmul (d : BitVec 6) (a : BitVec 6) (b : BitVec 6) : Statement (.mmul d a b) := by
  intro w hw h
  cases h
  refine of_decode (decode_of 0xA3#8 (encR_op _ _ _ _) ?_ hw)
  change Option.bind _ _ = _
  simp only [encR_d, encR_a, encR_b, low6]
  rfl

theorem mmsp (d : BitVec 6) (a : BitVec 6) (b : BitVec 8) : Statement (.mmsp d a b) := by
  intro w hw h
  cases h
  refine of_decode (decode_of 0xA4#8 (encR_op _ _ _ _) ?_ hw)
  change Option.bind _ _ = _
  simp only [encR_d, encR_a, encR_b, low6]
  rfl

theorem mband (a : BitVec 6) (b : BitVec 6) : Statement (.mband a b) := by
  intro w hw h
  cases h
  refine of_decode (decode_of 0xA5#8 (encR_op _ _ _ _) ?_ hw)
  change Option.bind _ _ = _
  simp only [encR_d, encR_a, encR_b, low6]
  rfl

theorem scacc (d : BitVec 6) (a : BitVec 6) : Statement (.scacc d a) := by
  intro w hw h
  cases h
  refine of_decode (decode_of 0xA6#8 (encR_op _ _ _ _) ?_ hw)
  change Option.bind _ _ = _
  simp only [encR_d, encR_a, encR_b, low6]
  rfl

theorem mrd (d : BitVec 6) (a : BitVec 6) (b : BitVec 6) : Statement (.mrd d a b) := by
  intro w hw h
  cases h
  refine of_decode (decode_of 0xA7#8 (encR_op _ _ _ _) ?_ hw)
  change Option.bind _ _ = _
  simp only [encR_d, encR_a, encR_b, low6]
  rfl

theorem mclr (a : BitVec 6) : Statement (.mclr a) := by
  intro w hw h
  cases h
  refine of_decode (decode_of 0xA8#8 (encR_op _ _ _ _) ?_ hw)
  change Option.bind _ _ = _
  simp only [encR_d, encR_a, encR_b, low6]
  rfl

theorem mstep (d : BitVec 6) (a : BitVec 6) : Statement (.mstep d a) := by
  intro w hw h
  cases h
  refine of_decode (decode_of 0xA9#8 (encR_op _ _ _ _) ?_ hw)
  change Option.bind _ _ = _
  simp only [encR_d, encR_a, encR_b, low6]
  rfl

theorem go (a : BitVec 7) (b : BitVec 6) : Statement (.go a b) := by
  intro w hw h
  cases h
  refine of_decode (decode_of 0xB0#8 (encR_op _ _ _ _) ?_ hw)
  change Option.bind _ _ = _
  simp only [encR_d, encR_a, encR_b, low6, pair_read]
  rfl

theorem gom (a : BitVec 7) (b : BitVec 6) : Statement (.gom a b) := by
  intro w hw h
  cases h
  refine of_decode (decode_of 0xB1#8 (encR_op _ _ _ _) ?_ hw)
  change Option.bind _ _ = _
  simp only [encR_d, encR_a, encR_b, low6, pair_read]
  rfl

theorem goto (d : BitVec 6) (row : BitVec 6) (col : BitVec 6) (sel : BitVec 1) : Statement (.goto d row col sel) := by
  intro w hw h
  cases h
  refine of_decode (decode_of 0xB2#8 (encC_op _ _ _ _ _) ?_ hw)
  change Option.bind _ _ = _
  simp only [encC_d, encC_row, encC_col, encC_sel, low6, lowSel_read]
  rfl

theorem gopol (imm : BitVec 16) : Statement (.gopol imm) := by
  intro w hw h
  cases h
  refine of_decode (decode_of 0xB3#8 (encI_op _ _ _) ?_ hw)
  change Option.bind _ _ = _
  simp only [encI_d, encI_imm]
  rfl

theorem rejoin (imm : BitVec 16) : Statement (.rejoin imm) := by
  intro w hw h
  cases h
  refine of_decode (decode_of 0xB4#8 (encI_op _ _ _) ?_ hw)
  change Option.bind _ _ = _
  simp only [encI_d, encI_imm]
  rfl

theorem bar (n : BitVec 4) : Statement (.bar n) := by
  intro w hw h
  cases h
  refine of_decode (decode_of 0xB8#8 (encI_op _ _ _) ?_ hw)
  change Option.bind _ _ = _
  simp only [encI_d, encI_imm, lowImm4]
  rfl

theorem bara (d : BitVec 6) (a : BitVec 6) (n : BitVec 4) : Statement (.bara d a n) := by
  intro w hw h
  cases h
  refine of_decode (decode_of 0xB9#8 (encR_op _ _ _ _) ?_ hw)
  change Option.bind _ _ = _
  simp only [encR_d, encR_a, encR_b, low4, low6]
  rfl

theorem barw (a : BitVec 6) (n : BitVec 4) : Statement (.barw a n) := by
  intro w hw h
  cases h
  refine of_decode (decode_of 0xBA#8 (encR_op _ _ _ _) ?_ hw)
  change Option.bind _ _ = _
  simp only [encR_d, encR_a, encR_b, low4, low6]
  rfl

theorem barinit (a : BitVec 6) (n : BitVec 4) : Statement (.barinit a n) := by
  intro w hw h
  cases h
  refine of_decode (decode_of 0xBB#8 (encR_op _ _ _ _) ?_ hw)
  change Option.bind _ _ = _
  simp only [encR_d, encR_a, encR_b, low4, low6]
  rfl

theorem ftest (d : BitVec 4) (a : BitVec 6) : Statement (.ftest d a) := by
  intro w hw h
  cases h
  refine of_decode (decode_of 0xBC#8 (encR_op _ _ _ _) ?_ hw)
  change Option.bind _ _ = _
  simp only [encR_d, encR_a, encR_b, low4, low6]
  rfl

theorem fwait (a : BitVec 6) : Statement (.fwait a) := by
  intro w hw h
  cases h
  refine of_decode (decode_of 0xBD#8 (encR_op _ _ _ _) ?_ hw)
  change Option.bind _ _ = _
  simp only [encR_d, encR_a, encR_b, low6]
  rfl

theorem fcancel (a : BitVec 6) : Statement (.fcancel a) := by
  intro w hw h
  cases h
  refine of_decode (decode_of 0xBE#8 (encR_op _ _ _ _) ?_ hw)
  change Option.bind _ _ = _
  simp only [encR_d, encR_a, encR_b, low6]
  rfl

theorem post (a : BitVec 6) : Statement (.post a) := by
  intro w hw h
  cases h
  refine of_decode (decode_of 0xBF#8 (encR_op _ _ _ _) ?_ hw)
  change Option.bind _ _ = _
  simp only [encR_d, encR_a, encR_b, low6]
  rfl

theorem sysc (imm : BitVec 16) : Statement (.sysc imm) := by
  intro w hw h
  cases h
  refine of_decode (decode_of 0xC0#8 (encI_op _ _ _) ?_ hw)
  change Option.bind _ _ = _
  simp only [encI_d, encI_imm]
  rfl

theorem sret : Statement (.sret) := by
  intro w _ h
  cases h
  rfl

theorem hcall (imm : BitVec 16) : Statement (.hcall imm) := by
  intro w hw h
  cases h
  refine of_decode (decode_of 0xC2#8 (encI_op _ _ _) ?_ hw)
  change Option.bind _ _ = _
  simp only [encI_d, encI_imm]
  rfl

theorem hret : Statement (.hret) := by
  intro w _ h
  cases h
  rfl

theorem mfpr (d : BitVec 6) (imm : BitVec 16) : Statement (.mfpr d imm) := by
  intro w hw h
  cases h
  refine of_decode (decode_of 0xC4#8 (encI_op _ _ _) ?_ hw)
  change Option.bind _ _ = _
  simp only [encI_d, encI_imm, low6]
  rfl

theorem mtpr (d : BitVec 6) (imm : BitVec 16) : Statement (.mtpr d imm) := by
  intro w hw h
  cases h
  refine of_decode (decode_of 0xC5#8 (encI_op _ _ _) ?_ hw)
  change Option.bind _ _ = _
  simp only [encI_d, encI_imm, low6]
  rfl

theorem tinv (a : BitVec 6) (sc : BitVec 2) : Statement (.tinv a sc) := by
  intro w hw h
  cases h
  refine of_decode (decode_of 0xC6#8 (encR_op _ _ _ _) ?_ hw)
  change Option.bind _ _ = _
  simp only [encR_d, encR_a, encR_b, low2, low6]
  rfl

theorem ctxsv (d : BitVec 6) (a : BitVec 6) : Statement (.ctxsv d a) := by
  intro w hw h
  cases h
  refine of_decode (decode_of 0xC7#8 (encR_op _ _ _ _) ?_ hw)
  change Option.bind _ _ = _
  simp only [encR_d, encR_a, encR_b, low6]
  rfl

theorem ctxld (d : BitVec 6) (a : BitVec 6) : Statement (.ctxld d a) := by
  intro w hw h
  cases h
  refine of_decode (decode_of 0xC8#8 (encR_op _ _ _ _) ?_ hw)
  change Option.bind _ _ = _
  simp only [encR_d, encR_a, encR_b, low6]
  rfl

theorem perf (d : BitVec 6) (imm : BitVec 16) : Statement (.perf d imm) := by
  intro w hw h
  cases h
  refine of_decode (decode_of 0xC9#8 (encI_op _ _ _) ?_ hw)
  change Option.bind _ _ = _
  simp only [encI_d, encI_imm, low6]
  rfl

theorem bkpt (imm : BitVec 16) : Statement (.bkpt imm) := by
  intro w hw h
  cases h
  refine of_decode (decode_of 0xCA#8 (encI_op _ _ _) ?_ hw)
  change Option.bind _ _ = _
  simp only [encI_d, encI_imm]
  rfl

theorem kill (a : BitVec 6) : Statement (.kill a) := by
  intro w hw h
  cases h
  refine of_decode (decode_of 0xCB#8 (encR_op _ _ _ _) ?_ hw)
  change Option.bind _ _ = _
  simp only [encR_d, encR_a, encR_b, low6]
  rfl

theorem divComplete (c n : Nat) : Statement (.divComplete c n) := by
  intro w _ h
  cases h

theorem tableOpComplete (c n : Nat) (lanes : BitVec 64) (cached : Bool) : Statement (.tableOpComplete c n lanes cached) := by
  intro w _ h
  cases h

theorem gathComplete (c f : Nat) : Statement (.gathComplete c f) := by
  intro w _ h
  cases h

theorem promoComplete (c f : Nat) : Statement (.promoComplete c f) := by
  intro w _ h
  cases h

theorem publSwapOrRetire (c sl : Nat) : Statement (.publSwapOrRetire c sl) := by
  intro w _ h
  cases h

theorem scratchLoadComplete (c n : Nat) : Statement (.scratchLoadComplete c n) := by
  intro w _ h
  cases h

theorem copyComplete (c n : Nat) : Statement (.copyComplete c n) := by
  intro w _ h
  cases h

theorem bgiveTransfer (c sl : Nat) : Statement (.bgiveTransfer c sl) := by
  intro w _ h
  cases h

theorem bfreeRelease (c sl : Nat) : Statement (.bfreeRelease c sl) := by
  intro w _ h
  cases h

theorem granuleClearDone (c : Nat) : Statement (.granuleClearDone c) := by
  intro w _ h
  cases h

theorem mldsPerform (c : Nat) : Statement (.mldsPerform c) := by
  intro w _ h
  cases h

theorem mactPerform (c : Nat) : Statement (.mactPerform c) := by
  intro w _ h
  cases h

theorem mmulPerform (c units : Nat) : Statement (.mmulPerform c units) := by
  intro w _ h
  cases h

theorem mmspPerform (c units : Nat) : Statement (.mmspPerform c units) := by
  intro w _ h
  cases h

theorem mbandPerform (c : Nat) : Statement (.mbandPerform c) := by
  intro w _ h
  cases h

theorem scaccPerform (c units : Nat) : Statement (.scaccPerform c units) := by
  intro w _ h
  cases h

theorem mrdPerform (c units : Nat) : Statement (.mrdPerform c units) := by
  intro w _ h
  cases h

theorem mclrPerform (c : Nat) : Statement (.mclrPerform c) := by
  intro w _ h
  cases h

theorem implicitMigration (c sl : Nat) : Statement (.implicitMigration c sl) := by
  intro w _ h
  cases h

theorem flaconSend (c sl : Nat) : Statement (.flaconSend c sl) := by
  intro w _ h
  cases h

theorem flaconArrival (n : Nat) (intact : Bool) : Statement (.flaconArrival n intact) := by
  intro w _ h
  cases h

theorem flaconAcknowledge (n : Nat) : Statement (.flaconAcknowledge n) := by
  intro w _ h
  cases h

theorem reassemblyWindowExpiry (c n : Nat) : Statement (.reassemblyWindowExpiry c n) := by
  intro w _ h
  cases h

theorem strandForm (c : Nat) : Statement (.strandForm c) := by
  intro w _ h
  cases h

theorem tinvDone (c sl : Nat) : Statement (.tinvDone c sl) := by
  intro w _ h
  cases h

theorem trapEntry (c sl : Nat) : Statement (.trapEntry c sl) := by
  intro w _ h
  cases h

theorem starvationPromotion (c sl : Nat) : Statement (.starvationPromotion c sl) := by
  intro w _ h
  cases h

theorem launchService (dom : BitVec 16) (hyp : Bool) (va : BitVec 64) : Statement (.launchService dom hyp va) := by
  intro w _ h
  cases h

theorem dispatchBlock : Statement (.dispatchBlock) := by
  intro w _ h
  cases h

theorem launchComplete (n : Nat) : Statement (.launchComplete n) := by
  intro w _ h
  cases h

theorem preemptRequest (c sl gen area : Nat) : Statement (.preemptRequest c sl gen area) := by
  intro w _ h
  cases h

theorem fullSaveTimeout (c sl : Nat) : Statement (.fullSaveTimeout c sl) := by
  intro w _ h
  cases h

theorem strandSave (c sl : Nat) : Statement (.strandSave c sl) := by
  intro w _ h
  cases h

theorem kuenrexRestore (c area : Nat) : Statement (.kuenrexRestore c area) := by
  intro w _ h
  cases h

theorem strandRestore (c : Nat) : Statement (.strandRestore c) := by
  intro w _ h
  cases h

theorem pageWalk (c dom : Nat) (va : BitVec 64) : Statement (.pageWalk c dom va) := by
  intro w _ h
  cases h

theorem bankRetentionEntry (s b : Nat) : Statement (.bankRetentionEntry s b) := by
  intro w _ h
  cases h

theorem bankDeepPowerDown (s b : Nat) : Statement (.bankDeepPowerDown s b) := by
  intro w _ h
  cases h

theorem bankWakeEnd (s b : Nat) : Statement (.bankWakeEnd s b) := by
  intro w _ h
  cases h

theorem bankMapWrite (s b : Nat) (v : BitVec 32) : Statement (.bankMapWrite s b v) := by
  intro w _ h
  cases h

theorem packagePhaseApply (s : Nat) : Statement (.packagePhaseApply s) := by
  intro w _ h
  cases h

theorem compactionMove (blk : Nat) : Statement (.compactionMove blk) := by
  intro w _ h
  cases h

theorem faultQueueRemove : Statement (.faultQueueRemove) := by
  intro w _ h
  cases h

theorem mgmtRegisterWrite (r : Machine.MgmtReg) (v : BitVec 64) : Statement (.mgmtRegisterWrite r v) := by
  intro w _ h
  cases h

theorem coreClockStep (up : Bool) : Statement (.coreClockStep up) := by
  intro w _ h
  cases h

theorem imageLoad (img : Machine.Image) : Statement (.imageLoad img) := by
  intro w _ h
  cases h

theorem tableCreate (dom : Nat) (desc : Machine.TableDesc) (base : Nat) (pages : List Nat) : Statement (.tableCreate dom desc base pages) := by
  intro w _ h
  cases h

theorem tableDestroy (num : Nat) : Statement (.tableDestroy num) := by
  intro w _ h
  cases h

theorem tableStoreReturn (n : Nat) : Statement (.tableStoreReturn n) := by
  intro w _ h
  cases h

theorem rowStorageFree (num row : Nat) : Statement (.rowStorageFree num row) := by
  intro w _ h
  cases h

theorem linkFlitReceive (f : Machine.Flit) : Statement (.linkFlitReceive f) := by
  intro w _ h
  cases h

theorem linkRequestTimeout (n : Nat) : Statement (.linkRequestTimeout n) := by
  intro w _ h
  cases h

theorem hostDoorbell (v : BitVec 64) : Statement (.hostDoorbell v) := by
  intro w _ h
  cases h

theorem freeze : Statement (.freeze) := by
  intro w _ h
  cases h

theorem enfleurageReadout : Statement (.enfleurageReadout) := by
  intro w _ h
  cases h

theorem resume : Statement (.resume) := by
  intro w _ h
  cases h

theorem reset : Statement (.reset) := by
  intro w _ h
  cases h

theorem refusedClear : Statement (.refusedClear) := by
  intro w _ h
  cases h

theorem packageReset : Statement (.packageReset) := by
  intro w _ h
  cases h

theorem bootStage : Statement (.bootStage) := by
  intro w _ h
  cases h

theorem maintenanceReplan (core newMillivolt date : Nat) (holds : Bool) : Statement (.maintenanceReplan core newMillivolt date holds) := by
  intro w _ h
  cases h

theorem powerStateEntryComplete (s b : Nat) : Statement (.powerStateEntryComplete s b) := by
  intro w _ h
  cases h

theorem coreCycleCounterMatch : Statement (.coreCycleCounterMatch) := by
  intro w _ h
  cases h

theorem hostWindowAccess (win off : Nat) (write : Bool) (bytes : List (BitVec 8)) : Statement (.hostWindowAccess win off write bytes) := by
  intro w _ h
  cases h

theorem getVersion : Statement (.getVersion) := by
  intro w _ h
  cases h

theorem getCapabilities : Statement (.getCapabilities) := by
  intro w _ h
  cases h

theorem negotiateAlgorithms (offersP384 : Bool) : Statement (.negotiateAlgorithms offersP384) := by
  intro w _ h
  cases h

theorem getDigests : Statement (.getDigests) := by
  intro w _ h
  cases h

theorem getCertificate (slot : Nat) : Statement (.getCertificate slot) := by
  intro w _ h
  cases h

theorem challenge (nonce : BitVec 256) : Statement (.challenge nonce) := by
  intro w _ h
  cases h

theorem getMeasurements (nonce : BitVec 256) : Statement (.getMeasurements nonce) := by
  intro w _ h
  cases h

end Encoding

end Sys2Proof.Laws
end

