-- ==== Sys2Proof/Safety.lean ====
section
/-! DEFINITION. What a safe run is, and the conditions on a state and operands under which a word takes its effect (R67,
R122): the terms in which statements are made. -/

namespace Sys2Proof.Machine

/-- A run of n steps is safe: every one of them answers a next state. -/
def State.safeFor : Nat → State → Prop
  | 0, _ => True
  | n + 1, s => ∃ t, step s = .next t ∧ t.safeFor n

/-- Nothing stands in the way of word i of the strand st that issues: it passes the checks of R67, it has an active lane or
needs none, no register it reads is bound to a future, no register it names is pending or empty unless it makes no such
check, and it writes no register of an open region's live-in set. u is its register use, f its form. -/
structure Ready (i : Instr) (u : Use) (f : Form) (st : Strand) (s : State) : Prop where
  here    : s.here? = some st
  check   : checkWord st i u f.types = none
  active  : f.always = true ∨ st.active ≠ 0#64
  unbound : f.waits = true → ∀ g ∈ u.gRead, (s.core s.cur.1).boundTo st.lineage g = none
  regs    : f.quiet = true ∨ checkRegs st u = none
  idem    : checkIdem st u = false

/-- A state before the effect of a ready word: the bindings of its group-wide destinations ended, but where its effect does that,
marked registers freed, an open region closed if the word ends it. -/
def State.before (s : State) (u : Use) (f : Form) (st : Strand) : State :=
  (s.unbindDests st.lineage (f.ended u)).setHere (st.ready u f)

/-- A word of the strand st done whose only effect is on the strand: the strand x goes on at the next word. -/
def State.goesOn (s : State) (u : Use) (st x : Strand) : State :=
  (s.unbindDests st.lineage u.gDest).setHere (x.retire .seq)

/-- A word of the strand st done that transfers: the strand x stands at the header at t. -/
def State.jumpsTo (s : State) (u : Use) (st x : Strand) (t : DWord) : State :=
  (s.unbindDests st.lineage u.gDest).setHere (x.retire (.jump t))

/-- The registers of a strand that a word may change: those it writes, and those of field a that its clause marks as
last read (R123). -/
def Strand.touched (st : Strand) (u : Use) (r : Nat) : Prop := r ∈ u.dests ∨ (st.marked = true ∧ r ∈ u.aRegs)

/-- The operation that a word of the strand st would become. -/
def State.newOpHere (s : State) (i : Instr) (st : Strand) : Op := newOp i st s.cur.2 ((s.core s.cur.1).gen s.cur.2)

/-- A word of the table-space or scratch group issues: it is ready in its modes, no lane fails a check of its operands,
the strand has fewer than 16 such instructions that are not performed, and the core has table request entries for its
lanes (R67, R167, R310). -/
structure OpReady (i : Instr) (st : Strand) (s : State) : Prop where
  ready  : Ready i (opUse i st.group.mode)
    { types := opModeOk i st.group.mode, ends := opEnds i st.group.mode } st s
  active : st.active ≠ 0#64
  checks : firstFault (opChecks s.cur.1 st (s.newOpHere i st) s) = []
  room   : (s.core s.cur.1).queueFull s.cur.2 = false
  space  : isScratchOp i = true ∨ ((s.before (opUse i st.group.mode)
    { types := opModeOk i st.group.mode, ends := opEnds i st.group.mode } st).core s.cur.1).requests + popCount st.active ≤ 2048

/-- What a strand is while its new operation o is in flight: the destinations pending, the flag clear, and nothing else
of it changed but registers that its clause marks as last read. -/
def Strand.inFlight (st x : Strand) (o : Op) : Prop :=
  let u := opUse o.instr o.mode
  (∀ r, r < 256 → x.vpend.getLsbD r = (st.vpend.getLsbD r || u.dests.contains r)) ∧
  (∀ g, g < 64 → x.gpend.getLsbD g = (st.gpend.getLsbD g || u.gDest.contains g)) ∧
  (∀ f, f < 12 → x.flags.getLsbD f = (st.flags.getLsbD f && f != o.flag)) ∧
  (∀ n, ¬ (st.marked = true ∧ n ∈ u.aRegs) → x.vreg? n = st.vreg? n) ∧
  x.group = st.group ∧ x.p = st.p ∧ x.width = st.width ∧ x.live = st.live

/-- The scratch bytes that a lane of a scratch access reaches: core and first offset. -/
def State.scratchOf (s : State) (i : Instr) (st : Strand) (l : Nat) : Nat × Nat :=
  s.scratchPlace s.cur.1 ((s.newOpHere i st).addr l)

/-- What the return of operation o makes of the strand st: each destination receives its word of each lane with a result,
no destination is pending, the flag is set, the flags of a division join ASTAT, and nothing else is changed (R45, R79, R125). -/
def Strand.returnedOp (st x : Strand) (o : Op) : Prop :=
  let u := opUse o.instr o.mode
  (∀ (k r l : Nat), u.dests[k]? = some r → l < 64 → st.live.getLsbD l = true →
    x.vlane r l = if o.written.getLsbD l then (Assoc.get [] o.results l).getD k 0#32 else st.vlane r l) ∧
  (∀ r, r ∉ u.dests → x.vreg? r = st.vreg? r) ∧
  (∀ r, r < 256 → x.vpend.getLsbD r = (st.vpend.getLsbD r && !u.dests.contains r)) ∧
  (∀ f, f < 12 → x.flags.getLsbD f = (st.flags.getLsbD f || f == o.flag)) ∧
  (∀ g, g ∉ u.gDest → x.gr g = st.gr g) ∧
  (∀ g v, u.gDest = [g] → o.gresult = some v → x.gr g = v) ∧
  x.p = st.p ∧ x.group = { st.group with g := x.group.g, astat := st.group.astat ||| o.flags }

/-- What entering a handler makes of the strand st: its mode S, or H, with the mode it left in PREVMODE, one frame more, the
trapping lanes in TRAPMASK and k0, the mode register and ATEN 0, no open region, and the strand at TRAPBASE, or HTRAPBASE;
its other registers are as they were (R309, items 4 to 7). -/
def Strand.inHandler (st x : Strand) (k : CoreSt) (hyp : Bool) (lanes : LaneMask) : Prop :=
  x.mode = (if hyp then .h else .s) ∧ x.prevMode = st.mode ∧ x.depth = st.depth + 1 ∧ x.trapMask = lanes ∧
  x.kr 0 = lanes ∧ x.group.mode = 0#32 ∧ x.group.aten = 0#5 ∧ x.region = none ∧ x.wait = .none ∧ x.clause = none ∧
  x.pc = (if hyp then k.hTrapBase else k.trapBase) ∧ x.pcIdx = 0 ∧
  (∀ n, n ≠ 0 → x.kr n = st.kr n) ∧ x.group.g = st.group.g ∧ x.group.q = st.group.q ∧
  x.group.rstack = st.group.rstack ∧ x.group.lstack = st.group.lstack ∧ x.group.astat = st.group.astat ∧
  x.v = st.v ∧ x.vpend = st.vpend ∧ x.p = st.p ∧ x.flags = st.flags ∧ x.exited = st.exited ∧ x.departed = st.departed

/-- The causes that a frame holds for a word that traps in every active lane with a cause. -/
def wordCauses (st : Strand) (k : Cause) : List (Nat × Word) := (lanesOf st.active).map fun l => (l, causeWord 31 0 0 k.code)

/-- The state before SYSC, HCALL or BKPT writes its frame, whose resume point is the next header. -/
def State.frameFor (s : State) (st : Strand) (hyp : Bool) (service : Nat) (k : Cause) : State × Except (Fail × Nat) Unit :=
  (s.before {} { ends := true } st).writeFrame s.cur.1 s.cur.2 { st with region := none } hyp (st.after, 0) service
    (wordCauses st k) []

/-- Slot i of core c holds the future of an operation in flight of kind k, bound to register d of the strand st, which has
its handle (R339, R340). -/
def State.hasFuture (t : State) (st : Strand) (c i d : Nat) (k : FutureKind) : Prop :=
  ∃ f x, Assoc.find (t.core c).futures i = some f ∧ f.kind = k ∧ f.done = false ∧ f.binding = [(st.lineage, d)] ∧
    t.here? = some x ∧ x.gr d = futureHandle f.serial c i

/-- Nothing of a state but one core differs in another, but for cores: memory, tables, launches and blocks. -/
def State.sameOutside (s t : State) (c : Nat) : Prop :=
  t.mem = s.mem ∧ t.tables = s.tables ∧ t.launches = s.launches ∧ t.blocks = s.blocks ∧ ∀ k, k ≠ c → t.core k = s.core k

/-- A barrier after n more arrivals: its phase is complete when as many have arrived as are expected (R330). -/
def Barrier.arrivedBy (x : Barrier) (n : Nat) : Barrier :=
  if x.expected ≤ x.arrived + n then { x with phase := x.phase + 1#32, arrived := 0 } else { x with arrived := x.arrived + n }

/-- The state in which an operation with a future has taken its slot i, with the scratch ranges that it names and the table
request entries that it takes. -/
def State.taking (s s1 : State) (u : Use) (f : Form) (st : Strand) (d i : Nat) (k : FutureKind)
    (ranges : List (Bool × (Word × Nat))) (entries : Nat) : Prop :=
  (s.before u f st).takeFuture st d k ranges entries = some (s1, i)

/-- Whether g[D] bytes from g[A] to g[B] may be copied: multiples of 4, at most a core's scratch, and both scratch ranges
within buffers that the strand's block holds (R196, R209). -/
def State.mayCopy (s : State) (st : Strand) (kind : CopyKind) (d a b : Nat) : Prop :=
  let len := (st.gr d).toNat
  len % 4 = 0 ∧ (st.gr a).toNat % 4 = 0 ∧ (st.gr b).toNat % 4 = 0 ∧ len ≤ 327680 ∧
  (kind = .toScratch ∨ s.copyRangeOk s.cur.1 st (st.gr a) len = true) ∧
  (kind = .toMemory ∨ s.copyRangeOk s.cur.1 st (st.gr b) len = true)

/-- A matrix word issues alone: it is ready, the strand is a member in no gang, no other block holds a part that it names,
and, where it returns a future, its strand's accesses are performed and a slot is free (R238, R240, R242). -/
structure MatReady (i : Instr) (u : Use) (p : Parts) (future : Bool) (st : Strand) (s : State) : Prop where
  ready  : Ready i u { always := true, whole := true } st s
  member : st.member = true
  alone  : st.gangCount < 2
  parts  : (s.core s.cur.1).matrix.otherHolds st p = false
  done   : future = true → s.accessesDone s.cur.1 s.cur.2 = true
  slot   : future = true → ((s.before u {} st).core s.cur.1).freeFuture ≠ none

/-- From s to t an operation of a kind, with the status of its operands, has joined the matrix queue at its end: its block
holds its parts, its future is bound to the register given, and planes, accumulators, scratch and memory are as they
were; other cores too, unless a sector of their scratch that it read was found bad (R238, R240). -/
def State.joined (s t : State) (st : Strand) (kind : MatKind) (status : Nat) (d : Option Nat) : Prop :=
  let c := s.cur.1
  ∃ q, (t.core c).matrix.queue = (s.core c).matrix.queue ++ [q] ∧ q.kind = kind ∧ q.status = status ∧ q.units = 0 ∧
    q.launch = st.launch ∧ q.block = st.block ∧ (t.core c).matrix.holds st kind.parts = true ∧
    (t.core c).matrix.accum = (s.core c).matrix.accum ∧ (t.core c).matrix.shadow = (s.core c).matrix.shadow ∧
    (t.core c).matrix.active = (s.core c).matrix.active ∧ (∀ k, (t.core k).scratch = (s.core k).scratch) ∧
    t.mem = s.mem ∧ t.tables = s.tables ∧ t.launches = s.launches ∧ t.blocks = s.blocks ∧
    (status = 0 → ∀ k, k ≠ c → t.core k = s.core k) ∧
    ∀ r, d = some r → ∃ i, q.future = some i ∧ t.hasFuture st c i r .matrix

/-- The head of the matrix queue of core c, not failed and not cancelled, of a block that has not ended. -/
structure Heads (s : State) (c : Nat) (q : MatOp) (rest : List MatOp) : Prop where
  queue  : (s.core c).matrix.queue = q :: rest
  sound  : q.status = 0
  going  : (s.core c).matCancelled q = false
  placed : (s.block? q.launch q.block).isSome = true

/-- The step that does one unit of an operation at the head of the matrix queue of core c. -/
def MatKind.perform (k : MatKind) (c : Nat) : Instr :=
  match k with
  | .mlds .. => .mldsPerform c
  | .mact => .mactPerform c
  | .mband .. => .mbandPerform c
  | .mmul .. => .mmulPerform c 1
  | .mmsp .. => .mmspPerform c 1
  | .scacc .. => .scaccPerform c 1
  | .mrd .. => .mrdPerform c 1
  | .mclr .. => .mclrPerform c

/-- From s to t the operation q at the head of the matrix queue of core c is done with a status: it has left the queue, what the
array holds is otherwise as in m, memory is as it was, and its future, still bound and not waited on, is complete with that
status and its units (R231, R243-R245). -/
def State.headEnds (s t : State) (c : Nat) (q : MatOp) (rest : List MatOp) (m : Matrix) (units : Future → Nat)
    (status : Nat) : Prop :=
  (t.core c).matrix = { m with queue := rest } ∧ t.mem = s.mem ∧
  ∀ i f, q.future = some i → Assoc.find (s.core c).futures i = some f → f.done = false → f.binding ≠ [] →
    (s.core c).awaited i f.serial = false → Assoc.find (t.core c).futures i =
      some { f with units := units f, done := true, status := BitVec.ofNat 64 status }

/-- From s to t bytes stand in the scratch of core k from an offset on, and no other byte of any scratchpad is changed. -/
def State.scratchWritten (s t : State) (k off : Nat) (bs : List Byte) : Prop :=
  (∀ a, Assoc.get 0#8 (t.core k).scratch a =
    if off ≤ a ∧ a < off + bs.length then bs.getD (a - off) 0#8 else Assoc.get 0#8 (s.core k).scratch a) ∧
  ∀ j, j ≠ k → (t.core j).scratch = (s.core j).scratch

/-- From s to t each strand that issued the operation q and still stands in its slot has flags joined to its ASTAT (R88, R247). -/
def State.flagsJoined (s t : State) (c : Nat) (q : MatOp) (f : Flags) : Prop :=
  ∀ sl st, (sl, (s.core c).gen sl) ∈ q.strands → s.strand? c sl = some st →
    ∃ x, t.strand? c sl = some x ∧ x.group.astat = st.group.astat ||| f

/-- The lanes that GO, GOM or GOTO would send away, where to and by which reference (R271, R277). -/
def State.leaving (s : State) (i : Instr) (st : Strand) : List (Nat × Bound × Nat) :=
  match i with
  | .go a _ | .gom a _ => goLanes (2 * a.toNat) st s
  | .goto _ row col _ =>
    if coreAt row.toNat col.toNat = s.cur.1 then []
    else (lanesOf st.active).map fun l => (l, .core (coreAt row.toNat col.toNat), 0)
  | _ => []

/-- What becomes of those lanes, with a live mask (R374); none while another package has not answered what is asked of it
(R271, R355; log 35). -/
def State.fatesOf (s : State) (i : Instr) (st : Strand) (live : DWord) : Option (List (Nat × Bound × Fate)) :=
  s.fates? s.cur.1 st live false (s.leaving i st)

/-- The references by which GO or GOM would send lanes away. -/
def State.refsOf (s : State) (i : Instr) (st : Strand) : List Nat :=
  match i with
  | .go a _ | .gom a _ => (goLanes (2 * a.toNat) st s).map fun x => x.2.2
  | _ => []

/-- Every register of a strand, as a live mask (R276). -/
def Strand.whole (st : Strand) : DWord := ~~~ 0#64 &&& ~~~ (maskBelow 32 &&& ~~~ maskBelow st.nregs)

/-- The lanes that implicit migration would send away from the strand st that is about to start clause k: those active under
its leading modes whose references, in the register pair that its first other word names, leave the core and qualify under
the policy (R276). LDROW and RATOM read the pair of the lowest active lane, whichever lane it is for (R180, R181). -/
def State.implicitLeaving (s : State) (c : Nat) (st : Strand) (k : Clause) : List (Nat × Bound × Nat) :=
  let x := leadingModes st.group.mode k.words
  let w := x.2.getD 0#32
  let act := ({ st with group := { st.group with mode := x.1 } } : Strand).active
  let ref (l : Nat) : Nat :=
    (st.vpair (slice w 15 8) (if slice w 31 24 = 0x78 ∨ slice w 31 24 = 0x79 then (lanesOf act).headD l else l)).toNat
  ((lanesOf act).map fun l => (l, s.boundOf c st (ref l), ref l)).filter fun y =>
    y.2.1 != .stays && (st.group.policy == 2 || isFar y.2.2)

/-- An access of who w to the word at reference x reaches the physical address pa at once: its sector can be consumed, and
either x is near and translates by an entry of its core's TLB that was used lately, which changes nothing (log 18), or x is far, the access is a read, and its block of this package
holds the sector, the entry and the map of the block being good (R161, R175, R290, R292, R293). -/
def State.reaches (s : State) (w : Who) (a : Access) (x pa : Nat) : Prop :=
  pa % 4 = 0 ∧ s.sectorGood w (pa / 32) = true ∧
  ((isFar x = false ∧ badNear x = false ∧ s.translate w x a = (s, .ok pa)) ∨
   (isFar x = true ∧ badFar x = false ∧ a = .read ∧ (s.entryOf (farBlock x)).valid = true ∧
     (∀ n ∈ s.entrySector (farBlock x) :: (s.entryOf (farBlock x)).mapSectors (farOffset x / 32),
       s.sectorGood w n = true) ∧
     ∃ k, s.blockSector (s.entryOf (farBlock x)) (farOffset x / 32) = some k ∧ pa = 32 * k + farOffset x % 32))

/-- The word at a physical address. -/
def Mem.word (m : Mem) (pa : Nat) : Word := wordOf (m.bytes pa 4)

/-- Memory with words stored at physical addresses, one after another. -/
def Mem.storeAll (m : Mem) (ws : List (Nat × Word)) : Mem := ws.foldl (fun m x => m.poke x.1 (bytesOf 4 x.2.toNat)) m

/-- Operation n of core c is o, no lane of it has been performed, its order lets it be, none of its lanes goes to another
package, and every bank set serves at once. -/
structure MayPerform (s : State) (c n : Nat) (o : Op) : Prop where
  op       : (s.core c).ops[n]? = some o
  lanes    : o.todo ≠ 0#64
  whole    : o.faults = [] ∧ o.results = []
  eligible : s.eligible c n = true
  here     : s.remoteMask c o = 0#64
  awake    : ∀ b, (s.bank b).state = .active

/-- The step that performs every lane of operation n of core c takes s to t, and returns it: it leaves the list of the core,
and its strand, if the slot still holds that strand, has the results of o1. -/
def State.performsTo (s : State) (c n : Nat) (cached : Bool) (o1 : Op) (t : State) : Prop :=
  exec (.tableOpComplete c n (~~~ 0#64) cached) s = .next t ∧ (t.core c).ops = ((s.core c).removeOp n).ops ∧
  ((s.core c).gen o1.slot = o1.gen → ∀ st, s.strand? c o1.slot = some st →
    ∃ x, t.strand? c o1.slot = some x ∧ st.returnedOp x o1)

/-- From s to t the rows of a list of places have one version more for each time that they stand in it, but for free rows and
those of other kinds, and nothing else of a table's rows is changed (R163). -/
def State.versionsRise (s t : State) (rows : List StorePlace) : Prop :=
  ∀ num x, Assoc.find s.tables num = some x → ∃ y, Assoc.find t.tables num = some y ∧
    ∀ r, let n := if x.desc.kind = 2 ∧ (x.rowAt r).state ≠ .free
        then (rows.filter fun p => p.old.isNone && p.num == num && p.row == r).length else 0
      y.rowAt r = { x.rowAt r with version := (x.rowAt r).version + BitVec.ofNat 32 n }

/-- The whole of the trees of a table's ordered indexes is one leaf each. -/
def Table.oneLeaf (t : Table) : Prop :=
  ∀ x ∈ [t.prim, t.sec2, t.sec3], x.levels = [] ∧ x.leaves.length ≤ 1

/-- The key under which index i of a table has a row of primary key key and payload ws. -/
def Table.keyIn (t : Table) (i key : Nat) (ws : List Word) : Nat :=
  if i = 2 then fieldOf t.desc.sec2 ws else if i = 3 then fieldOf t.desc.sec3 ws else key

/-- The entries of index i but for the first with a reference. -/
def Table.without (t : Table) (i ref : Nat) : List Entry :=
  match (t.index i).find? fun e => e.ref == ref with
  | some e => (t.index i).filter (· != e)
  | none => t.index i

/-! ### Rational values of floating-point elements (R70-R76) -/

/-- The number that a finite value is; 0 for the others. -/
def FVal.rat : FVal → Rat
  | .fin n m e => (if n then -1 else 1) * m * (2 : Rat) ^ e
  | _ => 0

/-- Whether a value is finite. -/
def FVal.isFin : FVal → Bool
  | .fin .. => true
  | _ => false

/-- An encoding and flags are the exact number v rounded once in a mode. A finite result is the representable number that the
mode asks for, and IX is raised where it is not v itself; an infinity stands only beyond every finite number, with OF and
IX, and a format with infinities gives no NaN (R72, R75, Table 4-5). -/
def Fmt.rounds (f : Fmt) (r : Rounding) (v : Rat) (p : Nat × Flags) : Prop :=
  let z := (f.value p.1).rat
  ((f.value p.1).isFin = true →
    (p.2.getLsbD 0 = true ↔ z ≠ v) ∧
    ∀ y, (f.value y).isFin = true → match r with
      | .rne => |z - v| < |(f.value y).rat - v| ∨
          (|z - v| = |(f.value y).rat - v| ∧ ((f.value y).rat = z ∨ p.1 % 2 = 0))
      | .rtz => |z| ≤ |v| ∧ 0 ≤ z * v ∧ (|(f.value y).rat| ≤ |v| → 0 ≤ (f.value y).rat * v → |(f.value y).rat| ≤ |z|)
      | .rup => v ≤ z ∧ (v ≤ (f.value y).rat → z ≤ (f.value y).rat)
      | .rdn => z ≤ v ∧ ((f.value y).rat ≤ v → (f.value y).rat ≤ z)) ∧
  (∀ g, f.value p.1 = .inf g → p.2 = fOF ||| fIX ∧
    ∀ y, (f.value y).isFin = true → if g then v < (f.value y).rat else (f.value y).rat < v) ∧
  (f.hasInf = true → (f.value p.1).isNan = false)

/-- An integer is the number v rounded in a mode. -/
def intRounds (r : Rounding) (v : Rat) (k : Int) : Prop :=
  match r with
  | .rne => |(k : Rat) - v| < 1 / 2 ∨ (|(k : Rat) - v| = 1 / 2 ∧ k % 2 = 0)
  | .rtz => |(k : Rat)| ≤ |v| ∧ |v| < |(k : Rat)| + 1 ∧ 0 ≤ (k : Rat) * v
  | .rup => v ≤ k ∧ (k : Rat) < v + 1
  | .rdn => (k : Rat) ≤ v ∧ v < k + 1

end Sys2Proof.Machine
end

