-- ==== Sys2Proof/Certificates/Slice0/Obligations.lean ====
section
/-! DEFINITION. What is to be proved of the model: statements from the numbered rules of the specification. -/

open Sys2Proof Sys2Proof.Machine

/-! ### Terms -/

/-- What a group-wide word on two registers does: g[D] receives f of g[A] and g[B] under the mode, nothing else of the
strand is written, and no flag is raised. -/
def GroupRuns (i : BitVec 6 → BitVec 6 → BitVec 6 → Instr) (f : Word → DWord → DWord → DWord) : Prop :=
  ∀ (s : State) (st : Strand) (d a b : BitVec 6),
    Ready (i d a b) { gRead := [a.toNat, b.toNat], gDest := [d.toNat] }
      { types := typeIs st.group.mode typesGroup, always := true } st s →
    exec (i d a b) s = .next (s.goesOn { gRead := [a.toNat, b.toNat], gDest := [d.toNat] } st
      (st.setG d.toNat (f st.group.mode (st.gr a.toNat) (st.gr b.toNat))))

/-- What a branch does, cond being its condition and tgt its target: where the condition does not hold the strand goes on
at the next header, whatever the target; where it holds, at the target; a target that is no multiple of 4 is
*misaligned*, and no transfer is made. -/
def BranchRuns (i : Instr) (u : Use) (cond : Strand → Prop) (tgt : Strand → DWord) : Prop :=
  ∀ (s : State) (st : Strand), Ready i u { always := true } st s →
    (¬ cond st → exec i s = .next (s.jumpsTo u st st st.after)) ∧
    (cond st → (tgt st).toNat % 4 = 0 → exec i s = .next (s.jumpsTo u st st (tgt st))) ∧
    (cond st → (tgt st).toNat % 4 ≠ 0 → st.trapLanes ≠ 0#64 →
      exec i s = .next (s.trapWord st (faultIn st.trapLanes .misaligned)))

/-- The strand with an entry pushed on its return stack. -/
def pushReturn (st : Strand) (x : DWord) : Strand :=
  { st with group := { st.group with rstack := st.group.rstack ++ [x] } }

/-- What an element-wise word does with registers d, a and, where it has one, b: each active lane of d receives f of the
lane's elements, the lanes' flags join ASTAT, and nothing else of the strand changes: not the lanes of d that are live and
not active, not another register unless its clause marks it as last read, not another group-wide register (R79, R120,
R123, R129, R131). -/
def ElementRuns (i : Instr) (types : ElemType → Bool) (f : Arith → ElemOp) (d a : Nat) (b : Option Nat) (readD : Bool) :
    Prop :=
  ∀ (s : State) (st : Strand),
    Ready i (elemUse st.group.mode d a b readD) { types := typeIs st.group.mode types } st s → st.active ≠ 0#64 →
    let w := isWide st.group.mode
    let c := arithOf st.group.mode
    let u := elemUse st.group.mode d a b readD
    let r (l : Nat) : Nat × Flags := mapElems c.t (f c) (st.vval w a l)
      (match b with
        | some b => st.vval w b l
        | none => 0) (if readD then st.vval w d l else 0)
    (∀ l ∈ lanesOf st.active, (r l).2 &&& st.group.aten = 0#5) →
    ∃ x : Strand, exec i s = .next (s.goesOn u st x) ∧
      (∀ l ∈ lanesOf st.active, x.vlane d l = BitVec.ofNat 32 (r l).1) ∧
      (w = true → ∀ l ∈ lanesOf st.active, x.vlane (d + 1) l = BitVec.ofNat 32 ((r l).1 / 2 ^ 32)) ∧
      (∀ l, l < st.width → st.live.getLsbD l = true → st.active.getLsbD l = false →
        ¬ (st.marked = true ∧ d ∈ u.aRegs) → x.vlane d l = st.vlane d l) ∧
      (∀ n, ¬ st.touched u n → x.vreg? n = st.vreg? n) ∧
      x.group = { st.group with astat := (st.group.astat ||| orFlags ((lanesOf st.active).map fun l => (r l).2)) } ∧
      x = { st with v := x.v, group := x.group }

/-- The same word when a lane raises a flag that ATEN enables: *arithmetic* in just those lanes, each with all its flags as
the detail, and nothing is written (R80). -/
def ElementTraps (i : Instr) (types : ElemType → Bool) (f : Arith → ElemOp) (d a : Nat) (b : Option Nat) (readD : Bool) :
    Prop :=
  ∀ (s : State) (st : Strand),
    Ready i (elemUse st.group.mode d a b readD) { types := typeIs st.group.mode types } st s → st.active ≠ 0#64 →
    let w := isWide st.group.mode
    let c := arithOf st.group.mode
    let r (l : Nat) : Flags := (mapElems c.t (f c) (st.vval w a l)
      (match b with
        | some b => st.vval w b l
        | none => 0) (if readD then st.vval w d l else 0)).2
    (∃ l ∈ lanesOf st.active, r l &&& st.group.aten ≠ 0#5) →
    exec i s = .next (s.trapWord st (((lanesOf st.active).filter fun l => r l &&& st.group.aten != 0#5).map
      fun l => ⟨l, .arithmetic, (r l).toNat⟩))

/-- Both: an element-wise word whose operation may raise a flag (R79, R80). -/
def ElementWord (i : Instr) (types : ElemType → Bool) (f : Arith → ElemOp) (d a : Nat) (b : Option Nat) (readD : Bool) :
    Prop :=
  ElementRuns i types f d a b readD ∧ ElementTraps i types f d a b readD

/-- What a word does that names a register which a long-latency word has yet to write, or reads an empty one: it traps in the
lanes of its form, with *unwaited read* or *empty register*, and takes no effect; u is its register use, f its form, needs the room that it takes, which
there is (R310). -/
def NotReadyTraps (i : Instr) (u : Word → Use) (f : Word → Form) (needs : List Need := []) : Prop :=
  ∀ (s : State) (st : Strand) (k : Cause),
    let m := st.group.mode
    s.here? = some st → checkWord st i (u m) (f m).types = none → ((f m).always = true ∨ st.active ≠ 0#64) →
    (∀ g ∈ (u m).gRead, (s.core s.cur.1).boundTo st.lineage g = none) → s.noRoom needs (u m) (f m) st = none →
    checkRegs st (u m) = some k → exec i s = .next (s.trapWord st (faultIn ((f m).lanes st) k))

/-- What a word does that gives each active lane a list of words in registers ds, raising no flag: every active lane of the
registers receives its words, the other live lanes and the other registers stay as they are, and so does everything
else of the strand (R120, R129). -/
def WordsRun (i : Instr) (u : Use) (types : Bool) (f : Strand → Nat → List Word) (st : Strand) (s : State) : Prop :=
  Ready i u { types := types } st s → st.active ≠ 0#64 →
    ∃ x : Strand, exec i s = .next (s.goesOn u st x) ∧
      (∀ l ∈ lanesOf st.active, ∀ k n, u.dests[k]? = some n → x.vlane n l = (f st l).getD k 0#32) ∧
      (∀ n ∈ u.dests, ∀ l, l < st.width → st.live.getLsbD l = true → st.active.getLsbD l = false →
        ¬ (st.marked = true ∧ n ∈ u.aRegs) → x.vlane n l = st.vlane n l) ∧
      (∀ n, ¬ st.touched u n → x.vreg? n = st.vreg? n) ∧ x = { st with v := x.v }

/-- What a comparison does: p[D] of each active lane becomes the relation of its elements, the other lanes of p[D] and every
other register keep their values, and the flags join ASTAT; where a lane raises a flag that ATEN enables it is *arithmetic*
in just those lanes, and nothing is written (R80, R141). -/
def CompareRuns (i : Instr) (types : ElemType → Bool) (rel : Rel) (d a b : Nat) : Prop :=
  ∀ (s : State) (st : Strand),
    let w := isWide st.group.mode
    let u : Use := { aRegs := regsT w a, reads := regsT w b, even := if w then [a, b] else [] }
    let r (l : Nat) : Bool × Flags := compareElem rel (arithOf st.group.mode).t (st.vval w a l) (st.vval w b l)
    Ready i u { types := typeIs st.group.mode types } st s → st.active ≠ 0#64 →
    ((∀ l ∈ lanesOf st.active, (r l).2 &&& st.group.aten = 0#5) →
      ∃ x : Strand, exec i s = .next (s.goesOn u st x) ∧
        (∀ l, l < 64 → (x.pr d).getLsbD l = if st.active.getLsbD l then (r l).1 else (st.pr d).getLsbD l) ∧
        (∀ n, n ≠ d → x.pr n = st.pr n) ∧
        (∀ n, ¬ (st.marked = true ∧ n ∈ u.aRegs) → x.vreg? n = st.vreg? n) ∧
        x.group = { st.group with astat := (st.group.astat ||| orFlags ((lanesOf st.active).map fun l => (r l).2)) } ∧
        x = { st with v := x.v, p := x.p, group := x.group }) ∧
    ((∃ l ∈ lanesOf st.active, (r l).2 &&& st.group.aten ≠ 0#5) →
      exec i s = .next (s.trapWord st (((lanesOf st.active).filter fun l => (r l).2 &&& st.group.aten != 0#5).map
        fun l => ⟨l, .arithmetic, (r l).2.toNat⟩)))

/-! ### Statements -/

/-- The word of every well-formed instruction, with every value of its fields, is read back as that instruction (R44,
R50-R53). -/
def Obligations.EncodeDecodeAgree : Prop :=  ∀ i : Instr, Sys2Proof.Laws.Encoding.Statement i

/-- Decoding drops no bit: a word that decodes is the word of the instruction it decodes to, and a header that is read is
the header's word, so that no two words are one instruction. -/
def Obligations.DecodeKeepsEveryBit : Prop :=
  (∀ (w : Word) (i : Instr), decode w = .ok i → encode i = some w) ∧
  (∀ (w : Word) (i : Instr), decodeHeader w = some i → encode i = some w)

/-- Words written out bit by bit from Tables 3-2 to 3-7: a header, an R word, an I word, a J word, a C word, a word with a
pair, an unassigned opcode, and a word with an unused bit set, which no instruction has. -/
def Obligations.DecodeOfWrittenWords : Prop :=
  decodeHeader 0b00000001_000000000010_0000_1111_101_0#32 = some (.clauseHeader 0x01 0x002 0 15 5) ∧
  decode 0b00100000_00000011_00000001_00000010#32 = .ok (.add 3 1 2) ∧
  decode 0b00111011_00000111_1111111111111110#32 = .ok (.ldi 7 0xFFFE) ∧
  decode 0b00000011_111111111111111111111111#32 = .ok (.bra 0xFFFFFF) ∧
  decode 0b10001100_00000101_001111_010011_0000#32 = .ok (.bgive 5 15 19) ∧
  decode 0b01110101_00000100_00000110_00000001#32 = .ok (.ld 4 3 1) ∧
  decode 0b01011110_00000000_00000000_00000000#32 = .ok (.unassignedOpcode 0x5E000000) ∧
  decode 0b00010011_00010000_00000000_00000000#32 = .error (.reserved 0x13)

/-- A step of the agenda at which the strand selected next on its core issues is the meaning of the word decoded at its place
in the clause, at the state in which that strand is the one that issues and is selected no more (log 4 names the agenda;
R43, R67, R101).
A word that no instruction has is refused in its own bits, and one whose fields are out of their range has the meaning of its
instruction, which refuses it (R53, R67).
A selected strand that stands at a header opens its clause: the step reads and checks the header, whatever word it is
(R43, R46, R48). -/
def Obligations.StepRunsTheDecodedWord : Prop :=
  (∀ (s : State) (c sl : Nat) (rest : List Move) (st : Strand) (k : Clause) (i : Instr),
     s.agenda = .issue c sl :: rest → s.freeze.frozen = false → (s.slate.find? fun x => x.1 == c) = some (c, sl) →
     s.strand? c sl = some st → st.wait = .none →
     st.clause = some k → decode (k.words.getD k.idx 0#32) = .ok i →
     step s = exec i { s with agenda := rest, slate := s.slate.erase (c, sl), cur := (c, sl) }) ∧
  (∀ (s : State) (c sl : Nat) (rest : List Move) (st : Strand) (k : Clause),
     let w := k.words.getD k.idx 0#32
     let u : State := { s with agenda := rest, slate := s.slate.erase (c, sl), cur := (c, sl) }
     s.agenda = .issue c sl :: rest → s.freeze.frozen = false → (s.slate.find? fun x => x.1 == c) = some (c, sl) →
     s.strand? c sl = some st → st.wait = .none → st.clause = some k →
     (∀ n, decode w = .error (.reserved n) → step s = refuseWord w u) ∧
     (∀ i, decode w = .error (.illFormed i) → step s = exec i u)) ∧
  (∀ (s : State) (c sl : Nat) (rest : List Move) (st : Strand),
     s.agenda = .issue c sl :: rest → s.freeze.frozen = false → (s.slate.find? fun x => x.1 == c) = some (c, sl) →
     s.strand? c sl = some st → st.wait = .none → st.clause = none →
     step s = .next (fetchClause { s with agenda := rest, slate := s.slate.erase (c, sl), cur := (c, sl) }))

/-- Without an agenda the first of the strands selected for the cycle issues the word decoded at its place, and the step is
that word's meaning. When all have issued, the step is that of the engines and controllers, or time passes; then each strand
that stands at a header whose wait mask is satisfied opens its clause, without an issue slot, and the quarters select anew
among strands with an open clause (log 4: the order among cores is the model's choice; log 82: so is the time of opening).
An instruction that is placed with withFetchWord is the one that the very next step runs, for every word that decodes:
the step is its meaning at the placed state, in which the strand placed has been selected (log 41 says how a program comes
to run from reset).
While the clocks are stopped the cycle in which the trigger came ends as any other, and a move of time ends it: no time
passes. The status register then tells of the flits in flight at that stop, and keeps its other bits (Table 15-4, R359,
R360). After it no move but those that reach a frozen package changes anything: the step takes the move off the agenda and
does no more (R358, R360).
Among the ready strands of a quarter one is selected that is older than the others, those passed over for 64 cycles
first, and it comes first. Those that join it are of its launch and stand at its program counter with its mode value, and
all together have at most 128 lanes (R101, R103). At each selection a strand that is ready and not selected counts as passed
over once more; the count is kept while it is not ready, and of several strands that have waited too long the oldest goes
first. It ends when a word of the strand issues or takes its trap: a selected word that is blocked keeps it (log 82). -/
def Obligations.StepOrder : Prop :=
  ((∀ (s : State) (c sl : Nat) (rest : List (Nat × Nat)) (st : Strand) (k : Clause) (i : Instr),
     s.agenda = [] → s.freeze.frozen = false → s.slate = (c, sl) :: rest → s.strand? c sl = some st → st.wait = .none →
     st.clause = some k → decode (k.words.getD k.idx 0#32) = .ok i →
     step s = exec i { s with slate := rest, cur := (c, sl) }) ∧
   (∀ s : State, s.agenda = [] → s.freeze.frozen = false → s.slate = [] → ∃ (u : State) (n : Nat),
     (u = s ∨ ∃ i ∈ s.steps, exec i s = .next u) ∧ 1 ≤ n ∧
     step s = .next (({ u with round := u.round + 1 } : State).endCycle n)) ∧
   (∀ (s : State) (n : Nat), s.slate ≠ [] → s.endCycle n = s) ∧
   (∀ (s : State) (n : Nat), s.slate = [] → ∃ m, m ≤ n ∧
     s.endCycle n = (s.tick m).startAll.countBlockedAll.select ∧
     ((∃ k ∈ s.cores, ∃ x ∈ k.2.slots, s.ready k.1 x.1 = true ∨ s.starts k.1 x.1 = true) → m ≤ 1)) ∧
   (∀ (s : State) (c sl : Nat), s.ready c sl = true → ∃ st k, s.strand? c sl = some st ∧ st.wait = .none ∧
     st.clause = some k) ∧
   (∀ (s : State) (c sl : Nat), s.starts c sl = true → ∃ st, s.strand? c sl = some st ∧ st.wait = .none ∧
     st.clause = none ∧ (s.fetchAt c sl).strand? c sl ≠ some st)) ∧
  (∀ (w : Nat) (i : Instr), decode (BitVec.ofNat 32 w) = .ok i →
     step (State.reset.withFetchWord 32 w) = exec i { State.reset.withFetchWord 32 w with slate := [] }) ∧
  (∀ (s : State) (m : Move) (rest : List Move), s.freeze.frozen = true → s.agenda = m :: rest →
     m.reachesFrozen = false →
     (s.freeze.sameCycle = false → step s = .next { s with agenda := rest }) ∧
     (s.freeze.sameCycle = true → (∀ n, m ≠ .tick n) → step s = ({ s with agenda := rest } : State).move m) ∧
     (∀ n, s.freeze.sameCycle = true → s.slate = [] → m = .tick n →
       ∃ v, step s = .next { s with agenda := rest, freeze := { s.freeze with sameCycle := false, status := v } } ∧
         (∀ i, i ≠ 8 → i ≠ 9 → v.getLsbD i = s.freeze.status.getLsbD i) ∧
         v.getLsbD 8 = s.links.flight ∧ v.getLsbD 9 = !s.links.flight)) ∧
  ((∀ (xs : List (Nat × Strand)), xs ≠ [] → (xs.map (·.1)).Nodup → (∀ y ∈ xs, y.2.width ≤ 64) →
     ∃ x ∈ xs, (quarterSlots xs).head? = some x.1 ∧ (quarterSlots xs).Nodup ∧
       (∀ y ∈ xs, x.2.overdue = false → y.2.overdue = false ∧ x.2.age ≤ y.2.age) ∧
       (∀ y ∈ xs, x.2.overdue = true → y.2.overdue = true → x.2.age ≤ y.2.age) ∧
       (∀ sl ∈ quarterSlots xs, ∃ y ∈ xs, y.1 = sl ∧ (y = x ∨ y.2.launch = x.2.launch ∧ y.2.point = x.2.point ∧
         y.2.group.mode = x.2.group.mode)) ∧
       ((xs.filter fun y => (quarterSlots xs).contains y.1).map fun y => y.2.width).sum ≤ 128) ∧
   (∀ (s : State) (c sl : Nat) (st : Strand), s.strand? c sl = some st → s.select.slate = s.selection ∧
     s.select.strand? c sl = some { st with passed := st.passed +
       (if s.ready c sl = true ∧ (c, sl) ∉ s.selection then 1 else 0) }) ∧
   (∀ (st : Strand) (ps : Nat), (st.waited ps).passed = st.passed) ∧
   (∀ (st : Strand), st.overdue = true ↔ st.urgent = true ∨ 64 ≤ st.passed) ∧
   (∀ (st : Strand) (f : Flow), (st.retire f).passed = 0 ∧ (st.retire f).urgent = false) ∧
   (∀ (s : State) (st : Strand) (fs : List LaneFault), s.awaitsLink s.cur.1 s.cur.2 = false →
     s.trapWord st fs = (s.modHere fun x => { x with passed := 0, urgent := false }).takeTrap s.cur.1 s.cur.2 fs st.point))

/-- The state after reset: every core empty, no memory listed and memory in its canonical form, no table, launch or block,
no translation, the core clock at 800 MHz, the clocks running, stage 0 next to run, the boot status register as Table 15-2
gives it, and every bank set active and not allocated (Tables 12-3, 15-2). What the manual does not give is in log 2, and
what a byte of memory that nothing has written reads as in log 1. -/
def Obligations.ResetState : Prop :=
  (∀ c sl, State.reset.strand? c sl = none) ∧ (∀ c, State.reset.core c = CoreSt.reset) ∧
  State.reset.mem.wf = true ∧ (∀ a, State.reset.mem.byte a = Config.unwritten) ∧
  State.reset.tables = [] ∧ State.reset.launches = [] ∧ State.reset.blocks = [] ∧
  State.reset.coreMHz = 800 ∧ State.reset.cycles = 0#64 ∧ State.reset.freeze.frozen = false ∧
  State.reset.boot.next = 0 ∧ State.reset.boot.keySlot = 15 ∧ State.reset.boot.code = 0 ∧
  (∀ b, State.reset.bank b = Bank.reset) ∧ Bank.reset.state = .active ∧ Bank.reset.allocated = false

/-- Memory keeps its canonical form in every step: addresses rise and no entry is what an unlisted address reads as. -/
def Obligations.MemoryKeepsItsForm : Prop :=
  ∀ s t : State, s.mem.wf = true → step s = .next t → t.mem.wf = true

/-- NOP changes nothing but the strand's place; MODE writes bits 15:0 and MEMMODE bits 31:16 of the mode register and keep
the others, whatever lanes are active, and no other register (R57, R58, R218).
A MODE word with an element type code above 13, and a MEMMODE word with an order or scope code above 4, trap with
*illegal mode* and write nothing, with no active lane in the live lanes (R59, R67; log 8). -/
def Obligations.ModeWords : Prop :=
  ((∀ (s : State) (st : Strand), Ready .nop {} { always := true } st s → exec .nop s = .next (s.goesOn {} st st)) ∧
   (∀ (s : State) (st : Strand) (imm : BitVec 16),
     Ready (.mode imm) {} { always := true, types := decide (slice imm 6 3 ≤ 13) } st s →
     ∃ m : Word, exec (.mode imm) s = .next (s.goesOn {} st { st with group := { st.group with mode := m } }) ∧
       m.extractLsb' 0 16 = imm ∧ m.extractLsb' 16 16 = st.group.mode.extractLsb' 16 16) ∧
   (∀ (s : State) (st : Strand) (imm : BitVec 16),
     Ready (.memmode imm) {}
       { always := true, types := decide (slice imm 15 13 ≤ 4) && decide (slice imm 12 10 ≤ 4) } st s →
     ∃ m : Word, exec (.memmode imm) s = .next (s.goesOn {} st { st with group := { st.group with mode := m } }) ∧
       m.extractLsb' 16 16 = imm ∧ m.extractLsb' 0 16 = st.group.mode.extractLsb' 0 16)) ∧
  ((∀ (s : State) (st : Strand) (imm : BitVec 16), s.here? = some st → 13 < slice imm 6 3 →
     exec (.mode imm) s = .next (s.trapWord st (faultIn st.trapLanes .illegalMode))) ∧
   (∀ (s : State) (st : Strand) (imm : BitVec 16), s.here? = some st → (4 < slice imm 15 13 ∨ 4 < slice imm 12 10) →
     exec (.memmode imm) s = .next (s.trapWord st (faultIn st.trapLanes .illegalMode))))

/-- The mask instructions give k[D], or g[D], the value of their operation on k registers, predicates or g registers, and
write nothing else; but for KFROM they do not read the active set (R114, R122).
The words of the mask instructions are opcode<<24 | D<<16 | A<<8 | B (R114). -/
def Obligations.MaskWords : Prop :=
  (∀ (s : State) (st : Strand),
     (∀ d a, Ready (.kfrom d a) {} { always := true } st s →
       exec (.kfrom d a) s = .next (s.goesOn {} st (st.setK d.toNat (st.active &&& st.pr a.toNat)))) ∧
     (∀ d a b, Ready (.kand d a b) {} { always := true } st s →
       exec (.kand d a b) s = .next (s.goesOn {} st (st.setK d.toNat (st.kr a.toNat &&& st.kr b.toNat)))) ∧
     (∀ d a b, Ready (.kor d a b) {} { always := true } st s →
       exec (.kor d a b) s = .next (s.goesOn {} st (st.setK d.toNat (st.kr a.toNat ||| st.kr b.toNat)))) ∧
     (∀ d a b, Ready (.kandn d a b) {} { always := true } st s →
       exec (.kandn d a b) s = .next (s.goesOn {} st (st.setK d.toNat (st.kr a.toNat &&& ~~~ st.kr b.toNat)))) ∧
     (∀ d a b, Ready (.kxor d a b) {} { always := true } st s →
       exec (.kxor d a b) s = .next (s.goesOn {} st (st.setK d.toNat (st.kr a.toNat ^^^ st.kr b.toNat)))) ∧
     (∀ d a, Ready (.kmov d a) {} { always := true } st s →
       exec (.kmov d a) s = .next (s.goesOn {} st (st.setK d.toNat (st.kr a.toNat)))) ∧
     (∀ d a, Ready (.kpop d a) { gDest := [d.toNat] } { always := true } st s →
       exec (.kpop d a) s = .next (s.goesOn { gDest := [d.toNat] } st
         (st.setG d.toNat (BitVec.ofNat 64 (popCount (st.kr a.toNat)))))) ∧
     (∀ d a, Ready (.ktog d a) { gDest := [d.toNat] } { always := true } st s →
       exec (.ktog d a) s = .next (s.goesOn { gDest := [d.toNat] } st (st.setG d.toNat (st.kr a.toNat)))) ∧
     (∀ d a, Ready (.gtok d a) { gRead := [a.toNat] } { always := true } st s →
       exec (.gtok d a) s = .next (s.goesOn { gRead := [a.toNat] } st (st.setK d.toNat (st.gr a.toNat))))) ∧
  (∀ (d a b : BitVec 4) (p : BitVec 7) (g : BitVec 6),
     let w (op d a b : Word) : Option Word := some (op <<< 24 ||| d <<< 16 ||| a <<< 8 ||| b)
     let D := d.setWidth 32
     let A := a.setWidth 32
     let B := b.setWidth 32
     encode (.kfrom d p) = w 0x12 D (p.setWidth 32) 0 ∧ encode (.kand d a b) = w 0x13 D A B ∧
     encode (.kor d a b) = w 0x14 D A B ∧ encode (.kandn d a b) = w 0x15 D A B ∧ encode (.kxor d a b) = w 0x16 D A B ∧
     encode (.kmov d a) = w 0x17 D A 0 ∧ encode (.kpop g a) = w 0x18 (g.setWidth 32) A 0 ∧
     encode (.ktog g a) = w 0x19 (g.setWidth 32) A 0 ∧ encode (.gtok d g) = w 0x1A D (g.setWidth 32) 0)

/-- GADD to GSAR under i64 and n64 with saturate clear: sums, differences and products modulo 2^64, bitwise results, and
shifts by bits 5:0 of g[B], under every one of the four types the value of the element operation on bits of the type's
width, extended as the type says (R153, R154).
Under i32 a group-wide result is the sign-extended 32-bit result, under n32 the zero-extended one (R153).
GMOV copies g[A], a handle without waiting for it; GLDI sign-extends its immediate; GLDIH, GLDIX and GLDIY set bits
31:16, 47:32 and 63:48 of g[D] and keep its others (R155, R342).
The words of the four immediates are opcode<<24 | D<<16 | imm16; a pending bit on g[D] is *unwaited read*, with no active
lane in the live lanes (log 8); and the sum of the constant 0x0123456789ABCDEF with itself under i32 is 0x13579BDE, and
-2^31 with saturate set (R155).
GCEQ and GCLT write q[D] with the relation of g[A] and g[B] read under the type, and no other q (R154). -/
def Obligations.GroupWords : Prop :=
  ((GroupRuns .gadd (groupOp elAdd true) ∧ GroupRuns .gsub (groupOp elSub true) ∧ GroupRuns .gmul (groupOp elMul true) ∧
    GroupRuns .gand (groupOp elAnd true) ∧ GroupRuns .gor (groupOp elOr true) ∧ GroupRuns .gxor (groupOp elXor true) ∧
    GroupRuns .gshl (groupOp elShl false) ∧ GroupRuns .gshr (groupOp elShr false) ∧ GroupRuns .gsar (groupOp elSar false) ∧
    ∀ (m : Word) (x y : DWord), (modeType m = some .i64 ∨ modeType m = some .n64) → modeSat m = false →
      groupOp elAdd true m x y = x + y ∧ groupOp elSub true m x y = x - y ∧ groupOp elMul true m x y = x * y ∧
      groupOp elAnd true m x y = x &&& y ∧ groupOp elOr true m x y = x ||| y ∧ groupOp elXor true m x y = x ^^^ y ∧
      groupOp elShl false m x y = x <<< (y.toNat % 64) ∧ groupOp elShr false m x y = x >>> (y.toNat % 64) ∧
      groupOp elSar false m x y = x.sshiftRight (y.toNat % 64)) ∧
   (∀ (m : Word) (x y : DWord), modeSat m = false →
      (modeType m = some .i32 →
        groupOp elAdd true m x y = (lo32 x + lo32 y).signExtend 64 ∧
        groupOp elSub true m x y = (lo32 x - lo32 y).signExtend 64 ∧
        groupOp elMul true m x y = (lo32 x * lo32 y).signExtend 64) ∧
      (modeType m = some .n32 →
        groupOp elAdd true m x y = (lo32 x + lo32 y).setWidth 64 ∧
        groupOp elSub true m x y = (lo32 x - lo32 y).setWidth 64 ∧
        groupOp elMul true m x y = (lo32 x * lo32 y).setWidth 64))) ∧
  (((∀ (s : State) (st : Strand) (d a : BitVec 6),
      Ready (.gmov d a) { gRead := [a.toNat], gDest := [d.toNat] } { always := true, waits := false } st s →
      exec (.gmov d a) s = .next (s.goesOn { gRead := [a.toNat], gDest := [d.toNat] } st
        (st.setG d.toNat (st.gr a.toNat)))) ∧
    (∀ (s : State) (st : Strand) (d : BitVec 6) (imm : BitVec 16),
      Ready (.gldi d imm) { gDest := [d.toNat] } { always := true } st s →
      exec (.gldi d imm) s = .next (s.goesOn { gDest := [d.toNat] } st (st.setG d.toNat (imm.signExtend 64)))) ∧
    (∀ (s : State) (st : Strand) (d : BitVec 6) (imm : BitVec 16) (i : Instr) (lo : Nat),
      (i = .gldih d imm ∧ lo = 16) ∨ (i = .gldix d imm ∧ lo = 32) ∨ (i = .gldiy d imm ∧ lo = 48) →
      Ready i { gRead := [d.toNat], gDest := [d.toNat] } { always := true } st s →
      ∃ v : DWord, exec i s = .next (s.goesOn { gRead := [d.toNat], gDest := [d.toNat] } st (st.setG d.toNat v)) ∧
        v.extractLsb' lo 16 = imm ∧ ∀ n, n < lo ∨ lo + 16 ≤ n → v.getLsbD n = (st.gr d.toNat).getLsbD n)) ∧
   ((∀ (d : BitVec 6) (imm : BitVec 16),
      let w (op : Word) : Option Word := some (op <<< 24 ||| d.setWidth 32 <<< 16 ||| imm.setWidth 32)
      encode (.gldi d imm) = w 0x6A ∧ encode (.gldih d imm) = w 0x6B ∧ encode (.gldix d imm) = w 0x6C ∧
      encode (.gldiy d imm) = w 0x6D) ∧
    (∀ (s : State) (st : Strand) (d : BitVec 6) (imm : BitVec 16) (i : Instr),
      (i = .gldi d imm ∨ i = .gldih d imm ∨ i = .gldix d imm ∨ i = .gldiy d imm) → s.here? = some st →
      (s.core s.cur.1).boundTo st.lineage d.toNat = none → st.gpend.getLsbD d.toNat = true →
      exec i s = .next (s.trapWord st (faultIn st.trapLanes .unwaitedRead))) ∧
    groupOp elAdd true 0#32 0x0123456789ABCDEF#64 0x0123456789ABCDEF#64 = 0x0000000013579BDE#64 ∧
    groupOp elAdd true 1#32 0x0123456789ABCDEF#64 0x0123456789ABCDEF#64 = 0xFFFFFFFF80000000#64) ∧
   (∀ (s : State) (st : Strand) (d : BitVec 4) (a b : BitVec 6) (i : Instr) (rel : Rel),
      (i = .gceq d a b ∧ rel = .eq) ∨ (i = .gclt d a b ∧ rel = .lt) →
      Ready i { gRead := [a.toNat, b.toNat] } { types := typeIs st.group.mode typesGroup, always := true } st s →
      exec i s = .next (s.goesOn { gRead := [a.toNat, b.toNat] } st (st.setQ d.toNat
        (compareElem rel (arithOf st.group.mode).t (groupOperand (arithOf st.group.mode).t (st.gr a.toNat))
          (groupOperand (arithOf st.group.mode).t (st.gr b.toNat))).1)) ∧
      ∀ n, n < 16 → n ≠ d.toNat → (st.setQ d.toNat (compareElem rel (arithOf st.group.mode).t
        (groupOperand (arithOf st.group.mode).t (st.gr a.toNat))
        (groupOperand (arithOf st.group.mode).t (st.gr b.toNat))).1).group.qr n = st.group.qr n))

/-- A transfer leaves the strand at the header at its target, with the word counted, and nothing of its registers,
stacks or predicates changed (R106).
Branches go to the clause address plus four times the signed offset when their condition holds: BRA always, BKZ and
BKNZ by k[D] below W, BQT and BQF by q[D]; JMPG goes to g[A]; a target that is no multiple of 4 is *misaligned*, with no
active lane in the live lanes (R106, Table 5-4; log 8). -/
def Obligations.ControlTransfer : Prop :=
  (∀ (st : Strand) (t : DWord), (st.retire (.jump t)).clause = none ∧ (st.retire (.jump t)).pc = t ∧
     (st.retire (.jump t)).pcIdx = 0 ∧ (st.retire (.jump t)).issued = st.issued + 1 ∧
     (st.retire (.jump t)).group = st.group ∧ (st.retire (.jump t)).v = st.v ∧ (st.retire (.jump t)).p = st.p ∧
     (st.retire (.jump t)).flags = st.flags) ∧
  ((∀ off, BranchRuns (.bra off) {} (fun _ => True) (fun st => st.point.1 + BitVec.ofInt 64 (4 * off.toInt))) ∧
   (∀ d off, BranchRuns (.bkz d off) {} (fun st => st.kr d.toNat &&& maskBelow st.width = 0#64)
     (fun st => st.point.1 + BitVec.ofInt 64 (4 * off.toInt))) ∧
   (∀ d off, BranchRuns (.bknz d off) {} (fun st => st.kr d.toNat &&& maskBelow st.width ≠ 0#64)
     (fun st => st.point.1 + BitVec.ofInt 64 (4 * off.toInt))) ∧
   (∀ d off, BranchRuns (.bqt d off) {} (fun st => st.group.qr d.toNat = true)
     (fun st => st.point.1 + BitVec.ofInt 64 (4 * off.toInt))) ∧
   (∀ d off, BranchRuns (.bqf d off) {} (fun st => st.group.qr d.toNat = false)
     (fun st => st.point.1 + BitVec.ofInt 64 (4 * off.toInt))) ∧
   (∀ a, BranchRuns (.jmpg a) { gRead := [a.toNat] } (fun _ => True) (fun st => st.gr a.toNat)))

/-- CALL and CALLG push the header that follows and transfer; a target of CALLG that is no multiple of 4 is *misaligned* before
the push, whatever the stack holds; RET transfers to the youngest entry and pops it. With 32
entries a call is *return stack overflow*, with none a return is *return stack empty*, and nothing is pushed or popped
(R107). A trap with no active lane goes to the live lanes (log 8).
RETV is *misaligned* in each active lane whose target, CODEBASE plus its zero-extended word, is no multiple of 4, whatever the
others hold. It transfers to that target when the active lanes all hold one value; two lanes with different values, and no
active lane, are *divergent return* (R107, R122). Its operand register is freed where its clause
marks it; without an active lane it is not read. A trap with no active lane goes to the live lanes (log 8). -/
def Obligations.CallsAndReturns : Prop :=
  (∀ (s : State) (st : Strand),
     (∀ (i : Instr) (u : Use) (t : DWord),
       (∃ off, i = .call off ∧ u = {} ∧ t = st.point.1 + BitVec.ofInt 64 (4 * off.toInt)) ∨
         (∃ a, i = .callg a ∧ u = { gRead := [a.toNat] } ∧ t = st.gr a.toNat) →
       Ready i u { always := true } st s →
       (t.toNat % 4 = 0 →
         (st.group.rstack.length ≠ 32 → exec i s = .next (s.jumpsTo u st (pushReturn st st.after) t)) ∧
         (st.group.rstack.length = 32 → st.trapLanes ≠ 0#64 →
           exec i s = .next (s.trapWord st (faultIn st.trapLanes .returnOverflow)))) ∧
       (t.toNat % 4 ≠ 0 → st.trapLanes ≠ 0#64 →
         exec i s = .next (s.trapWord st (faultIn st.trapLanes .misaligned)))) ∧
     (∀ older x, Ready .ret {} { always := true } st s → st.group.rstack = older ++ [x] →
       exec .ret s = .next (s.jumpsTo {} st { st with group := { st.group with rstack := older } } x)) ∧
     (Ready .ret {} { always := true } st s → st.group.rstack = [] → st.trapLanes ≠ 0#64 →
       exec .ret s = .next (s.trapWord st (faultIn st.trapLanes .returnEmpty)))) ∧
  (∀ (s : State) (st : Strand) (a : BitVec 8),
     (st.active ≠ 0#64 → Ready (.retv a) { aRegs := [a.toNat] } { always := true } st s →
       let bad := (lanesOf st.active).filter fun l => (st.codeBase + (st.vlane a.toNat l).setWidth 64).toNat % 4 != 0
       (bad ≠ [] → exec (.retv a) s = .next (s.trapWord st (bad.map fun l => ⟨l, .misaligned, 0⟩))) ∧
       (bad = [] → ∀ x : Word, (∀ l ∈ lanesOf st.active, st.vlane a.toNat l = x) →
         exec (.retv a) s = .next (s.jumpsTo { aRegs := [a.toNat] } st (st.freeMarked { aRegs := [a.toNat] })
           (st.codeBase + x.setWidth 64))) ∧
       (bad = [] → ∀ l ∈ lanesOf st.active, ∀ k ∈ lanesOf st.active, st.vlane a.toNat l ≠ st.vlane a.toNat k →
         exec (.retv a) s = .next (s.trapWord st (faultIn st.active .divergentReturn)))) ∧
     (st.active = 0#64 → st.live ≠ 0#64 → Ready (.retv a) { named := [a.toNat] } { always := true } st s →
       exec (.retv a) s = .next (s.trapWord st (faultIn st.live .divergentReturn))))

/-- LOOP with a zero count skips its body; with another it pushes an entry and goes on at the body, its first clause being
the next header. The end clause is found by fetching it, which may fill the TLB of the core. An offset that is not above 0,
and an end clause with a word that may not stand in it, are *illegal loop*; a fifth entry is *loop stack overflow*; a fault of
the fetch is LOOP's; nothing is pushed then (R109; a trap with no active lane goes to the live lanes, log 8).
LEXIT pops the innermost entry and goes on after its end clause; that it fetches the header of that clause, to learn its
length, is the model's choice (log 88: R111 names no fetch). Without an entry it is *illegal loop* (R111; log 8 as before).
At the end of a clause an entry whose end clause it is counts down: while passes remain the body begins again, at the
last the entry is popped and the next entry is looked at; an entry of another clause stops the look (R110). -/
def Obligations.Loops : Prop :=
  (∀ (s s2 : State) (st : Strand) (d : BitVec 6) (off : BitVec 16) (follow : DWord) (ws : List Word),
     Ready (.loop d off) { gRead := [d.toNat] } { always := true } st s → 0 < off.toInt →
     endClause (st.who s.cur.1) (st.target off.toInt) (s.before { gRead := [d.toNat] } { always := true } st)
       = (s2, .ok (follow, ws)) →
     endClause (st.who s.cur.1) (st.target off.toInt) s = (s2, .ok (follow, ws)) →
     (ws.all fun w => !lastOps.contains (opOf w)) = true →
     (st.gr d.toNat = 0#64 → exec (.loop d off) s = .next (s2.retireWord (.jump follow))) ∧
     (st.gr d.toNat ≠ 0#64 → st.group.lstack.length ≠ 4 →
       exec (.loop d off) s = .next ((s2.modHere fun x => { x with group := { x.group with
         lstack := x.group.lstack ++ [⟨st.target off.toInt, st.after, st.gr d.toNat⟩] } }).retireWord (.jump st.after)))) ∧
  (∀ (s : State) (st : Strand) (d : BitVec 6) (off : BitVec 16),
     Ready (.loop d off) { gRead := [d.toNat] } { always := true } st s → st.trapLanes ≠ 0#64 →
     (off.toInt ≤ 0 → exec (.loop d off) s = .next (s.trapWord st (faultIn st.trapLanes .illegalLoop))) ∧
     (∀ f, 0 < off.toInt → (endClause (st.who s.cur.1) (st.target off.toInt) s).2 = .error f →
       exec (.loop d off) s = .next (s.trapWord st (faultIn st.trapLanes f.1 f.2))) ∧
     (∀ follow ws, 0 < off.toInt → (endClause (st.who s.cur.1) (st.target off.toInt) s).2 = .ok (follow, ws) →
       ((∃ w ∈ ws, opOf w ∈ lastOps) →
         exec (.loop d off) s = .next (s.trapWord st (faultIn st.trapLanes .illegalLoop))) ∧
       ((∀ w ∈ ws, opOf w ∉ lastOps) → st.gr d.toNat ≠ 0#64 → st.group.lstack.length = 4 →
         exec (.loop d off) s = .next (s.trapWord st (faultIn st.trapLanes .loopOverflow))))) ∧
  (∀ (s : State) (st : Strand), Ready .lexit {} { always := true } st s →
     (∀ (s2 : State) (older : List LoopEntry) (e : LoopEntry) (h : Word),
       st.group.lstack = older ++ [e] → fetchWords (st.who s.cur.1) 1 e.endAt s = (s2, .ok [h]) →
       fetchWords (st.who s.cur.1) 1 e.endAt (s.before {} { always := true } st) = (s2, .ok [h]) →
       exec .lexit s = .next ((s2.modHere fun x => { x with group := { x.group with lstack := x.group.lstack.dropLast } })
         |>.retireWord (.jump (e.endAt + BitVec.ofNat 64 (4 * (slice h 3 1 + 2)))))) ∧
     (st.group.lstack = [] → st.trapLanes ≠ 0#64 →
       exec .lexit s = .next (s.trapWord st (faultIn st.trapLanes .illegalLoop)))) ∧
  (∀ (a f : DWord) (e : LoopEntry) (es : List LoopEntry),
     loopCheck a f [] = (f, []) ∧
     (e.endAt ≠ a → loopCheck a f (e :: es) = (f, e :: es)) ∧
     (e.endAt = a → e.remaining ≠ 1#64 →
       loopCheck a f (e :: es) = (e.body, { e with remaining := e.remaining - 1#64 } :: es)) ∧
     (e.endAt = a → e.remaining = 1#64 → loopCheck a f (e :: es) = loopCheck a f es))

/-- EXIT ends the active threads: they leave the live ones, memory is as it was, and the launch has as many threads fewer.
While live lanes are left the strand goes on with them at the next header; with its last thread the strand ends: its slot is
empty and of the next generation (R92, R112). Every other strand that waits at no barrier, in no gang latch and on no future
is as it was. -/
def Obligations.ExitEndsTheActiveThreads : Prop :=
  ∀ (s : State) (st : Strand), Ready .exit {} { ends := true } st s → st.active ≠ 0#64 →
    ∃ t : State, exec .exit s = .next t ∧ t.mem = s.mem ∧
      (st.live &&& ~~~ st.active ≠ 0#64 → ∃ x, t.here? = some x ∧ x.exited = st.exited ||| st.active ∧
        x.live = st.live &&& ~~~ st.active ∧ x.region = none ∧
        (st.wait = .none → x.wait = .none) ∧ x.clause = none ∧ x.pc = st.after ∧
        x.group = st.group ∧ x.v = st.v ∧ x.p = st.p ∧ x.flags = st.flags) ∧
      (st.live &&& ~~~ st.active = 0#64 → t.strand? s.cur.1 s.cur.2 = none ∧
        (t.core s.cur.1).gen s.cur.2 = (s.core s.cur.1).gen s.cur.2 + 1#8) ∧
      (∀ l, launchOwn st.launch = true → Assoc.find s.launches st.launch = some l →
        Assoc.find t.launches st.launch = some { l with threads := l.threads - popCount st.active }) ∧
      (∀ c sl y, ¬ (c = s.cur.1 ∧ sl = s.cur.2) → s.strand? c sl = some y → y.wait.barrierLanes = none →
        y.inLatch = false → (∀ i g, y.wait ≠ .future i g) → t.strand? c sl = some y)

/-- SREG gives each active lane its lane index, the low and high words of its work identifier, the strand's index in its
block, the row and column of the core, the low word of the lineage tag or the lane's trap cause; where every live lane is
written the first is affine with base 0 and stride 1, the lane-independent ones are uniform, the others general (R113, Table
5-5; R11). GSREG gives g[D] the group-wide value (Table 5-6). Nothing else is written. -/
def Obligations.Selectors : Prop :=
  ∀ (s : State) (st : Strand),
    (∀ d imm, Ready (.sreg d imm) { dests := [d.toNat] } {} st s → st.active ≠ 0#64 →
      ∃ (v : Nat → Word) (tag : Option VReg), exec (.sreg d imm) s = .next (s.goesOn { dests := [d.toNat] } st
          (st.writeV d.toNat st.active tag v)) ∧
        (imm = 0 → tag = some (.affine 0#32 1#32) ∧ ∀ l, v l = BitVec.ofNat 32 l) ∧
        (imm = 1 → tag = none ∧ ∀ l, v l = lo32 (st.baseId + BitVec.ofNat 64 l)) ∧
        (imm = 2 → tag = some (.uniform (v 0)) ∧ ∀ l, v l = hi32 (st.baseId + BitVec.ofNat 64 l)) ∧
        (imm = 3 → tag = some (.uniform (v 0)) ∧ ∀ l, v l = BitVec.ofNat 32 st.sindex) ∧
        (imm = 4 ∨ imm = 5 → tag = some (.uniform (v 0)) ∧ (s.cur.1 < 320 → ∃ row col, row < 16 ∧ col < 20 ∧
          s.cur.1 = 8 * (10 * (row / 4) + col / 2) + (row % 4) * 2 + col % 2 ∧
          ∀ l, v l = BitVec.ofNat 32 (if imm = 4 then row else col))) ∧
        (imm = 6 → tag = some (.uniform (v 0)) ∧ ∀ l, v l = lo32 st.lineage) ∧
        (imm = 7 → tag = none ∧ ∀ l, v l = Assoc.get 0#32 st.trapCause l)) ∧
    (∀ d imm, Ready (.gsreg d imm) { gDest := [d.toNat] } { always := true } st s →
      ∃ v, exec (.gsreg d imm) s = .next (s.goesOn { gDest := [d.toNat] } st (st.setG d.toNat v)) ∧
        (imm = 0 → v = st.baseId) ∧ (imm = 1 → v = st.block) ∧ (imm = 2 → v = BitVec.ofNat 64 (launchNumber st.launch)) ∧
        (imm = 3 → v.toNat = s.cur.1 % 8 * 2 ^ 12 + s.cur.1 / 8 * 2 ^ 6 ∨ 320 ≤ s.cur.1) ∧
        (imm = 4 → v.toNat = s.cur.2 * 2 ^ 8 + ((s.core s.cur.1).gen s.cur.2).toNat ∨ 64 ≤ s.cur.2) ∧
        (imm = 5 → v = st.lineage) ∧ (imm = 6 → v = s.cycles) ∧ (imm = 7 → v = st.point.1) ∧
        (imm = 8 → v = st.domain.setWidth 64) ∧ (imm = 9 → v = BitVec.ofNat 64 st.width) ∧ (imm = 10 → v = st.live) ∧
        (imm = 11 → v = match st.group.lstack.getLast? with
          | some e => e.remaining
          | none => 0#64) ∧
        (imm = 12 → v = BitVec.ofNat 64 st.group.rstack.length) ∧ imm.toNat ≤ 12)

/-- ADD, SUB, MUL, MULH, MAD, MSB, REM, MIN, MAX, ABS and NEG: the operations of Table 6-4 on the types of Table 6-3, in
each element of each active lane, with their frame (R131-R134).
AND, OR, XOR, NOT, SHL, SHR, SAR, ROL, CLZ, POP, BREV, BFE and BFI: the operations of Table 6-5 and R136, with their
frame (R135, R136).
RCP, RSQ, SQRT, EX2, LG2, RINT, SCL and FCLS: the functions of R143 and R148 in each element, with their frame.
Each of these that may raise a flag traps precisely: where a lane would raise a flag that ATEN enables it is *arithmetic* in
just those lanes, and nothing is written (R80). -/
def Obligations.VectorOperations : Prop :=
  (∀ d a b : BitVec 8,
     ElementWord (.add d a b) typesNum elAdd d.toNat a.toNat (some b.toNat) false ∧
     ElementWord (.sub d a b) typesNum elSub d.toNat a.toNat (some b.toNat) false ∧
     ElementWord (.mul d a b) typesNum elMul d.toNat a.toNat (some b.toNat) false ∧
     ElementRuns (.mulh d a b) ElemType.isInt elMulh d.toNat a.toNat (some b.toNat) false ∧
     ElementWord (.mad d a b) typesNum elMad d.toNat a.toNat (some b.toNat) true ∧
     ElementWord (.msb d a b) typesNum elMsb d.toNat a.toNat (some b.toNat) true ∧
     ElementWord (.rem d a b) ElemType.isInt elRem d.toNat a.toNat (some b.toNat) false ∧
     ElementWord (.min d a b) typesNum (elMinMax false) d.toNat a.toNat (some b.toNat) false ∧
     ElementWord (.max d a b) typesNum (elMinMax true) d.toNat a.toNat (some b.toNat) false ∧
     ElementWord (.abs d a) typesNum elAbs d.toNat a.toNat none false ∧
     ElementWord (.neg d a) typesNum elNeg d.toNat a.toNat none false) ∧
  (∀ d a b : BitVec 8,
     ElementRuns (.and d a b) ElemType.isInt elAnd d.toNat a.toNat (some b.toNat) false ∧
     ElementRuns (.or d a b) ElemType.isInt elOr d.toNat a.toNat (some b.toNat) false ∧
     ElementRuns (.xor d a b) ElemType.isInt elXor d.toNat a.toNat (some b.toNat) false ∧
     ElementRuns (.not d a) ElemType.isInt elNot d.toNat a.toNat none false ∧
     ElementRuns (.shl d a b) ElemType.isInt elShl d.toNat a.toNat (some b.toNat) false ∧
     ElementRuns (.shr d a b) ElemType.isInt elShr d.toNat a.toNat (some b.toNat) false ∧
     ElementRuns (.sar d a b) ElemType.isInt elSar d.toNat a.toNat (some b.toNat) false ∧
     ElementRuns (.rol d a b) ElemType.isInt elRol d.toNat a.toNat (some b.toNat) false ∧
     ElementRuns (.clz d a) ElemType.isInt elClz d.toNat a.toNat none false ∧
     ElementRuns (.pop d a) ElemType.isInt elPop d.toNat a.toNat none false ∧
     ElementRuns (.brev d a) ElemType.isInt elBrev d.toNat a.toNat none false ∧
     ElementRuns (.bfe d a b) typesWord elBfe d.toNat a.toNat (some b.toNat) false ∧
     ElementRuns (.bfi d a b) typesWord elBfi d.toNat a.toNat (some b.toNat) true) ∧
  (∀ d a b : BitVec 8,
     ElementWord (.rcp d a) ElemType.isFlt (elFloat Fmt.rcp) d.toNat a.toNat none false ∧
     ElementWord (.rsq d a) ElemType.isFlt (elFloat Fmt.rsq) d.toNat a.toNat none false ∧
     ElementWord (.sqrt d a) ElemType.isFlt (elFloat Fmt.sqrt) d.toNat a.toNat none false ∧
     ElementWord (.ex2 d a) ElemType.isFlt (elFloat Fmt.ex2) d.toNat a.toNat none false ∧
     ElementWord (.lg2 d a) ElemType.isFlt (elFloat Fmt.lg2) d.toNat a.toNat none false ∧
     ElementWord (.rint d a) typesFloat (elFloat Fmt.rint) d.toNat a.toNat none false ∧
     ElementWord (.scl d a b) typesFloat elScl d.toNat a.toNat (some b.toNat) false ∧
     ElementRuns (.fcls d a) typesFloat elFcls d.toNat a.toNat none false)

/-- What an element of i32 and n32 becomes: sums, differences and products modulo 2^32, clamped where saturate is set;
the high half of the signed and unsigned product; quotients truncated with x and all ones for a zero divisor; the
signed and unsigned lesser and greater; the bitwise operations and shifts by b modulo 32 (R76, R132-R135).
Signs and NaNs under f32: NEG of a number inverts bit 31 and ABS clears it, and neither raises a flag; of a NaN each
gives the canonical NaN 0x7FC00000, with IV where the NaN signals (R132, Table 4-5).
Values of the floating-point types, f32 and the packed ones: the sum, difference, product, fused product and sum, and quotient
of finite elements is the exact one rounded once in the rounding mode; with saturate set an overflow is the largest finite
value. A NaN operand gives the NaN of the type, and IV where it signals; so do the sum of opposite infinities and the product
of zero and an infinity, with IV. The relations are those of the numbers (R72, R74, R75, R131-R133, Tables 4-5, 6-7).
A conversion between two floating-point types, or from an integer or a Q4N level, is the value rounded once; to an integer it
is the value rounded to an integer, clamped, 0 for a NaN; between integers it wraps or clamps (R139, Table 6-6). -/
def Obligations.ElementValues : Prop :=
  (∀ (r : Rounding) (x y z : Word),
     let un (f : Arith → ElemOp) (t : ElemType) (sat : Bool) : Nat :=
       (mapElems t (f ⟨t, r, sat⟩) x.toNat y.toNat z.toNat).1
     let clamp (v : Int) : Nat := (BitVec.ofInt 32 (max (-2 ^ 31) (min (2 ^ 31 - 1) v))).toNat
     (∀ t, t = .i32 ∨ t = .n32 →
       un elAdd t false = (x + y).toNat ∧ un elSub t false = (x - y).toNat ∧ un elMul t false = (x * y).toNat ∧
       un elMad t false = (z + x * y).toNat ∧ un elMsb t false = (z - x * y).toNat ∧ un elNeg t false = (-x).toNat ∧
       un elAnd t false = (x &&& y).toNat ∧ un elOr t false = (x ||| y).toNat ∧ un elXor t false = (x ^^^ y).toNat ∧
       un elNot t false = (~~~ x).toNat ∧ un elShl t false = (x <<< (y.toNat % 32)).toNat ∧
       un elShr t false = (x >>> (y.toNat % 32)).toNat ∧ un elSar t false = (x.sshiftRight (y.toNat % 32)).toNat ∧
       un elRol t false = (x.rotateLeft (y.toNat % 32)).toNat ∧ un elPop t false = popCount x) ∧
     un elMulh .n32 false = x.toNat * y.toNat / 2 ^ 32 ∧
     un elMulh .i32 false = (BitVec.ofInt 32 (x.toInt * y.toInt / 2 ^ 32)).toNat ∧
     un elAdd .n32 true = min (x.toNat + y.toNat) (2 ^ 32 - 1) ∧
     un elSub .n32 true = x.toNat - y.toNat ∧ un elMul .n32 true = min (x.toNat * y.toNat) (2 ^ 32 - 1) ∧
     un elAdd .i32 true = clamp (x.toInt + y.toInt) ∧ un elSub .i32 true = clamp (x.toInt - y.toInt) ∧
     un elMul .i32 true = clamp (x.toInt * y.toInt) ∧ un elMad .i32 true = clamp (z.toInt + x.toInt * y.toInt) ∧
     un elNeg .i32 true = clamp (-x.toInt) ∧
     un (elMinMax false) .n32 false = min x.toNat y.toNat ∧ un (elMinMax true) .n32 false = max x.toNat y.toNat ∧
     un (elMinMax false) .i32 false = (if x.toInt ≤ y.toInt then x else y).toNat ∧
     un (elMinMax true) .i32 false = (if x.toInt < y.toInt then y else x).toNat ∧
     (y ≠ 0#32 → un elDiv .n32 false = x.toNat / y.toNat ∧ un elRem .n32 false = x.toNat % y.toNat ∧
       un elDiv .i32 false = (BitVec.ofInt 32 (x.toInt.tdiv y.toInt)).toNat ∧
       un elRem .i32 false = (BitVec.ofInt 32 (x.toInt.tmod y.toInt)).toNat) ∧
     (y = 0#32 → un elDiv .n32 false = 2 ^ 32 - 1 ∧ un elRem .n32 false = x.toNat ∧
       un elDiv .i32 false = 2 ^ 32 - 1 ∧ un elRem .i32 false = x.toNat)) ∧
  (∀ (r : Rounding) (sat : Bool) (x : Word),
     (¬ (2139095040 < x.toNat % 2 ^ 31) →
       mapElems .f32 (elNeg ⟨.f32, r, sat⟩) x.toNat 0 0 = ((x ^^^ 0x80000000#32).toNat, 0#5) ∧
       mapElems .f32 (elAbs ⟨.f32, r, sat⟩) x.toNat 0 0 = ((x &&& 0x7FFFFFFF#32).toNat, 0#5)) ∧
     (2139095040 < x.toNat % 2 ^ 31 →
       (mapElems .f32 (elNeg ⟨.f32, r, sat⟩) x.toNat 0 0).1 = 0x7FC00000 ∧
       (mapElems .f32 (elAbs ⟨.f32, r, sat⟩) x.toNat 0 0).1 = 0x7FC00000 ∧
       ((mapElems .f32 (elNeg ⟨.f32, r, sat⟩) x.toNat 0 0).2 = if x.getLsbD 22 then 0#5 else fIV) ∧
       ((mapElems .f32 (elAbs ⟨.f32, r, sat⟩) x.toNat 0 0).2 = if x.getLsbD 22 then 0#5 else fIV))) ∧
  (∀ (t : ElemType) (f : Fmt) (r : Rounding) (x y z : Nat), t.fmt = some f →
     let a := (f.value x).rat
     let b := (f.value y).rat
     let c := (f.value z).rat
     let op (el : Arith → ElemOp) (sat : Bool) : Nat × Flags := el ⟨t, r, sat⟩ x y z
     let rel (k : Rel) : Bool × Flags := compareElem k t x y
     let sn : Flags := (f.value x).snan ||| (f.value y).snan
     ((f.value x).isFin = true → (f.value y).isFin = true → (f.value z).isFin = true →
       f.rounds r (a + b) (op elAdd false) ∧ f.rounds r (a - b) (op elSub false) ∧ f.rounds r (a * b) (op elMul false) ∧
       f.rounds r (c + a * b) (op elMad false) ∧ f.rounds r (c - a * b) (op elMsb false) ∧
       (b ≠ 0 → f.rounds r (a / b) (op elDiv false)) ∧ (a ≠ 0 → f.rounds r (1 / a) (op (elFloat Fmt.rcp) false)) ∧
       (f.hasInf = true → ∀ el ∈ [elAdd, elSub, elMul, elMad, elMsb], op el true =
         match f.value (op el false).1 with
         | .inf g => (f.signed g f.maxFinite, fOF ||| fIX)
         | _ => op el false) ∧
       rel .eq = (decide (a = b), 0#5) ∧ rel .ne = (decide (a ≠ b), 0#5) ∧ rel .lt = (decide (a < b), 0#5) ∧
       rel .le = (decide (a ≤ b), 0#5) ∧ rel .un = (false, 0#5)) ∧
     ((f.value x).isNan = true ∨ (f.value y).isNan = true →
       (∀ el ∈ [elAdd, elSub, elMul, elDiv], op el false = (f.nan, sn)) ∧
       rel .eq = (false, sn) ∧ rel .ne = (true, sn) ∧ rel .un = (true, sn) ∧ rel .lt = (false, fIV) ∧
       rel .le = (false, fIV)) ∧
     (∀ g h, f.value x = .inf g → f.value y = .inf h →
       op elAdd false = (if g = h then (f.signed g f.inf, 0#5) else (f.nan, fIV)) ∧
       op elSub false = (if g = h then (f.nan, fIV) else (f.signed g f.inf, 0#5)) ∧
       op elMul false = (f.signed (g != h) f.inf, 0#5)) ∧
     (∀ g h m e, f.value x = .inf g → f.value y = .fin h m e →
       op elAdd false = (f.signed g f.inf, 0#5) ∧
       op elMul false = if m = 0 then (f.nan, fIV) else (f.signed (g != h) f.inf, 0#5))) ∧
  (∀ (s t : ElemType) (r : Rounding) (sat : Bool) (x : Nat), s ≠ t →
     let y := convertElem ⟨s, r, sat⟩ t x
     (∀ g, t.fmt = some g → sat = false →
       (∀ f, s.fmt = some f → (f.value x).isFin = true → g.rounds r (f.value x).rat y) ∧
       (∀ f, s.fmt = some f → (f.value x).isNan = true → y = (g.nan, (f.value x).snan)) ∧
       (s.isInt = true → g.rounds r (s.int x) y) ∧ (s = .q4nx8 → g.rounds r ((q4Level x : Rat) / 128) y)) ∧
     (t.isInt = true →
       (∀ f, s.fmt = some f → (f.value x).isFin = true → ∃ k, intRounds r (f.value x).rat k ∧
         y = (t.wrap (t.clamp k), if t.clamp k ≠ k then fIV else if (k : Rat) = (f.value x).rat then 0#5 else fIX)) ∧
       (∀ f, s.fmt = some f → (f.value x).isNan = true → y = (0, fIV)) ∧
       (s.isInt = true → y = (t.wrap (if sat then t.clamp (s.int x) else s.int x), 0#5))))

/-- A register write reaches the lanes it names and no others: a lane that is written and below W reads the word given,
a live lane that is not written keeps its word, a lane that exited or departed has the word that it had then, every other
register is as it was (R120, R121, R144).
A word whose clause marks it as the last read of its field a frees those registers: they are empty afterwards unless
the word writes them, and every read of an empty register traps (R44, R123, R126). -/
def Obligations.RegisterWritesAndLastReads : Prop :=
  (∀ (st : Strand) (r : Nat) (act : LaneMask) (f : Nat → Word),
     (∀ l, l < st.width → act.getLsbD l = true → (st.writeV r act none f).vlane r l = f l) ∧
     (∀ l, l < st.width → act.getLsbD l = false → st.live.getLsbD l = true →
       (st.writeV r act none f).vlane r l = st.vlane r l) ∧
     (∀ l, l < st.width → act.getLsbD l = false → st.live.getLsbD l = false →
       (st.writeV r act none f).vlane r l = st.keptWord r l) ∧
     (∀ (m : LaneMask) l, l < st.width → Assoc.sorted st.v = true → (st.vreg? r).isSome = true →
       (st.keepLanes m).keptWord r l = if m.getLsbD l then st.vlane r l else st.keptWord r l) ∧
     (∀ n l, n ≠ r → (st.writeV r act none f).vlane n l = st.vlane n l) ∧
     (∀ (t : VReg) l, st.live &&& ~~~ act = 0#64 → (st.writeV r act (some t) f).vlane r l = t.lane l) ∧
     (∀ n, n ≠ r → (st.freeV r).vreg? n = st.vreg? n) ∧ (st.freeV r).vreg? r = none) ∧
  ((∀ (st : Strand) (u : Use) (n : Nat), st.marked = true → n ∈ u.aRegs → (st.freeMarked u).vreg? n = none) ∧
   (∀ (st : Strand) (u : Use) (n : Nat), ¬ (st.marked = true ∧ n ∈ u.aRegs) →
     (st.freeMarked u).vreg? n = st.vreg? n) ∧
   (∀ (st : Strand) (u : Use) (n : Nat), n ∈ u.aRegs ++ u.reads → st.vreg? n = none →
     checkRegs st u = some .emptyRegister ∨ checkRegs st u = some .unwaitedRead))

/-- With no active lane a vector or predicate word is done without effect: ADD, MOV, PAND and SST change nothing but the
strand's place, and LD besides sets the completion flag that it owns (R45, R122, R129).
A word that names a register which a long-latency word has yet to write traps with *unwaited read* and takes no effect;
one that reads an empty register with *empty register* (R126, R127). Stated of the words of table space and scratch, of
the vector words on two and on three registers, of MOV and of comparisons, and of the group-wide words. -/
def Obligations.RegistersNotReady : Prop :=
  (∀ (s : State) (st : Strand), s.here? = some st → st.active = 0#64 →
     (∀ d a b, checkWord st (.add d a b) (elemUse st.group.mode d.toNat a.toNat (some b.toNat) false)
         (typeIs st.group.mode typesNum) = none →
       exec (.add d a b) s = .next (s.setHere (st.retire .seq))) ∧
     (∀ d a, checkWord st (.mov d a) (elemUse st.group.mode d.toNat a.toNat none false)
         (modeType st.group.mode).isSome = none →
       exec (.mov d a) s = .next (s.setHere (st.retire .seq))) ∧
     (∀ d a b, checkWord st (.pand d a b) {} true = none →
       exec (.pand d a b) s = .next (s.setHere (st.retire .seq))) ∧
     (∀ d a off, checkWord st (.sst d a off) (opUse (.sst d a off) st.group.mode) true = none →
       exec (.sst d a off) s = .next (s.setHere (st.retire .seq))) ∧
     (∀ d a off, checkWord st (.ld d a off) (opUse (.ld d a off) st.group.mode)
         (opModeOk (.ld d a off) st.group.mode) = none →
       exec (.ld d a off) s = .next (s.setHere ((st.setFlag st.ownFlag true).retire .seq)))) ∧
  ((∀ (st : Strand) (u : Use) (k : Cause), checkRegs st u = some k →
     (k = .unwaitedRead ∨ k = .emptyRegister) ∧
     (k = .unwaitedRead ↔ (∃ n ∈ u.aRegs ++ u.reads ++ u.dests, st.vpend.getLsbD n = true) ∨
       ∃ g ∈ u.gRead ++ u.gDest, st.gpend.getLsbD g = true) ∧
     (k = .emptyRegister → ∃ n ∈ u.aRegs ++ u.reads, st.vreg? n = none)) ∧
   (∀ i, isReplayed i = true → NotReadyTraps i (opUse i) (fun m => { types := opModeOk i m, ends := opEnds i m })
     (opNeeds i)) ∧
   (∀ (d a b : BitVec 8) (i : Instr) (types : ElemType → Bool),
     (i = .add d a b ∨ i = .sub d a b ∨ i = .mul d a b ∨ i = .min d a b ∨ i = .max d a b) ∧ types = typesNum ∨
       (i = .mulh d a b ∨ i = .rem d a b ∨ i = .and d a b ∨ i = .or d a b ∨ i = .xor d a b ∨ i = .shl d a b ∨
         i = .shr d a b ∨ i = .sar d a b ∨ i = .rol d a b) ∧ types = ElemType.isInt ∨
       i = .bfe d a b ∧ types = typesWord ∨ i = .scl d a b ∧ types = typesFloat →
     NotReadyTraps i (fun m => elemUse m d.toNat a.toNat (some b.toNat) false) (fun m => { types := typeIs m types })) ∧
   (∀ (d a b : BitVec 8) (i : Instr) (types : ElemType → Bool),
     (i = .mad d a b ∨ i = .msb d a b) ∧ types = typesNum ∨ i = .bfi d a b ∧ types = typesWord →
     NotReadyTraps i (fun m => elemUse m d.toNat a.toNat (some b.toNat) true) (fun m => { types := typeIs m types })) ∧
   (∀ (d a : BitVec 8) (i : Instr) (types : ElemType → Bool),
     (i = .abs d a ∨ i = .neg d a) ∧ types = typesNum ∨
       (i = .not d a ∨ i = .clz d a ∨ i = .pop d a ∨ i = .brev d a) ∧ types = ElemType.isInt ∨
       (i = .rcp d a ∨ i = .rsq d a ∨ i = .sqrt d a ∨ i = .ex2 d a ∨ i = .lg2 d a ∨ i = .sinpi d a ∨ i = .cospi d a) ∧
         types = ElemType.isFlt ∨ (i = .rint d a ∨ i = .fcls d a) ∧ types = typesFloat →
     NotReadyTraps i (fun m => elemUse m d.toNat a.toNat none false) (fun m => { types := typeIs m types })) ∧
   (∀ d a : BitVec 8, NotReadyTraps (.mov d a) (fun m => elemUse m d.toNat a.toNat none false)
     (fun m => { types := (modeType m).isSome })) ∧
   (∀ (d : BitVec 7) (a b : BitVec 8) (i : Instr) (types : ElemType → Bool),
     (i = .ceq d a b ∨ i = .cne d a b ∨ i = .clt d a b ∨ i = .cle d a b) ∧ types = typesCmp ∨
       i = .cun d a b ∧ types = (fun t => t == .f32) →
     NotReadyTraps i (fun m => { aRegs := regsT (isWide m) a.toNat, reads := regsT (isWide m) b.toNat, even := (if isWide m then
       [a.toNat, b.toNat] else []) }) (fun m => { types := typeIs m types })) ∧
   (∀ (d a b : BitVec 6) (i : Instr),
     (i = .gadd d a b ∨ i = .gsub d a b ∨ i = .gmul d a b ∨ i = .gand d a b ∨ i = .gor d a b ∨ i = .gxor d a b ∨
       i = .gshl d a b ∨ i = .gshr d a b ∨ i = .gsar d a b) →
     NotReadyTraps i (fun _ => { gRead := [a.toNat, b.toNat], gDest := [d.toNat] })
       (fun m => { types := typeIs m typesGroup, always := true })))

/-- MOV copies a and its tag, 64 bits under a 64-bit type; LDI gives its immediate sign-extended; LDIH sets bits 31:16 and
keeps bits 15:0 of d (R137).
After MOV of a full live set d holds what a held, under a 32-bit type: a uniform or affine a with its shape tag; of a
general a the word of each live lane, and d is general (R120, Table 6-2).
SEL writes every lane that would be active with the guard disabled: a where the guard allows, else b, 64 bits under a
64-bit type; the other live lanes and the other registers stay as they are (R62, R137).
CVT: each active lane of the destination block receives the elements of the source block, converted, and the flags join
ASTAT; where a lane would raise an enabled flag it is *arithmetic* in just those lanes, and nothing is written (R80, R138,
R139). -/
def Obligations.VectorMoves : Prop :=
  (∀ (s : State) (st : Strand) (d a : BitVec 8) (imm : BitVec 16),
     WordsRun (.mov d a) (elemUse st.group.mode d.toNat a.toNat none false) (modeType st.group.mode).isSome
       (fun st l => wordsIn st (regsT (isWide st.group.mode) a.toNat) l) st s ∧
     WordsRun (.ldi d imm) { dests := [d.toNat] } true (fun _ _ => [imm.signExtend 32]) st s ∧
     WordsRun (.ldih d imm) { reads := [d.toNat], dests := [d.toNat] } true
       (fun st l => [imm ++ (st.vlane d.toNat l).setWidth 16]) st s) ∧
  (∀ (s : State) (st : Strand) (d a : BitVec 8) (x : VReg),
     Ready (.mov d a) (elemUse st.group.mode d.toNat a.toNat none false) { types := (modeType st.group.mode).isSome } st s →
     isWide st.group.mode = false → st.active ≠ 0#64 → st.live &&& ~~~ st.active = 0#64 → st.vreg? a.toNat = some x →
     ∃ y : Strand, exec (.mov d a) s =
       .next (s.goesOn (elemUse st.group.mode d.toNat a.toNat none false) st y) ∧
       ((∀ ws, x ≠ .general ws) → y.vreg? d.toNat = some x) ∧
       (∀ ws, x = .general ws → (∃ vs, y.vreg? d.toNat = some (.general vs)) ∧
         ∀ l, l < st.width → st.live.getLsbD l = true → y.vlane d.toNat l = x.lane l)) ∧
  (∀ (s : State) (st : Strand) (d a b : BitVec 8),
     let u := elemUse st.group.mode d.toNat a.toNat (some b.toNat) false
     Ready (.sel d a b) u { types := (modeType st.group.mode).isSome, always := true, noGuard := true } st s →
     st.unguarded ≠ 0#64 →
     ∃ x : Strand, exec (.sel d a b) s = .next (s.goesOn u st x) ∧
       (∀ l ∈ lanesOf st.unguarded, ∀ k, k < (if isWide st.group.mode then 2 else 1) → x.vlane (d.toNat + k) l =
         if st.guardMask.getLsbD l then st.vlane (a.toNat + k) l else st.vlane (b.toNat + k) l) ∧
       (∀ n ∈ u.dests, ∀ l, l < st.width → st.live.getLsbD l = true → st.unguarded.getLsbD l = false →
         ¬ (st.marked = true ∧ n ∈ u.aRegs) → x.vlane n l = st.vlane n l) ∧
       (∀ n, ¬ st.touched u n → x.vreg? n = st.vreg? n) ∧ x = { st with v := x.v }) ∧
  (∀ (s : State) (st : Strand) (d a : BitVec 8) (t : BitVec 4) (dst : ElemType),
     ElemType.ofCode t.toNat = some dst →
     let c := arithOf st.group.mode
     let e := cvtElems c.t dst
     let u : Use :=
       { aRegs := regs a.toNat (blockOf c.t e), dests := regs d.toNat (blockOf dst e),
         even := (if c.t.is64 then [a.toNat] else []) ++ if dst.is64 then [d.toNat] else [] }
     Ready (.cvt d a t) u { types := (modeType st.group.mode).isSome } st s → st.active ≠ 0#64 →
     let fl (l : Nat) : Flags := (cvtLane dst a.toNat st l).2
     ((∀ l ∈ lanesOf st.active, fl l &&& st.group.aten = 0#5) →
       ∃ x : Strand, exec (.cvt d a t) s = .next (s.goesOn u st x) ∧
         (∀ l ∈ lanesOf st.active, ∀ k, k < blockOf dst e →
           x.vlane (k + d.toNat) l = (cvtLane dst a.toNat st l).1.getD k 0#32) ∧
         (∀ n, ¬ st.touched u n → x.vreg? n = st.vreg? n) ∧
         x.group = { st.group with astat := (st.group.astat ||| orFlags ((lanesOf st.active).map fl)) } ∧
         x = { st with v := x.v, group := x.group }) ∧
     ((∃ l ∈ lanesOf st.active, fl l &&& st.group.aten ≠ 0#5) →
       exec (.cvt d a t) s = .next (s.trapWord st (((lanesOf st.active).filter fun l => fl l &&& st.group.aten != 0#5).map
         fun l => ⟨l, .arithmetic, (fl l).toNat⟩))))

/-- CEQ, CNE, CLT, CLE and CUN (R141, Table 6-7).
PAND, POR, PXOR and PNOT write the predicate of the active lanes and no other (R142).
The words of the predicate instructions are opcode<<24 | D<<16 | A<<8 | B with bit 7 of each field zero, and field b of
PNOT zero: any other word under these opcodes is no instruction (R142). -/
def Obligations.ComparisonsAndPredicates : Prop :=
  (∀ (d : BitVec 7) (a b : BitVec 8),
     CompareRuns (.ceq d a b) typesCmp .eq d.toNat a.toNat b.toNat ∧
     CompareRuns (.cne d a b) typesCmp .ne d.toNat a.toNat b.toNat ∧
     CompareRuns (.clt d a b) typesCmp .lt d.toNat a.toNat b.toNat ∧
     CompareRuns (.cle d a b) typesCmp .le d.toNat a.toNat b.toNat ∧
     CompareRuns (.cun d a b) (fun t => t == .f32) .un d.toNat a.toNat b.toNat) ∧
  (∀ (s : State) (st : Strand) (d a b : BitVec 7) (i : Instr) (m : LaneMask), st.active ≠ 0#64 →
     (i = .pand d a b ∧ m = st.pr a.toNat &&& st.pr b.toNat) ∨ (i = .por d a b ∧ m = st.pr a.toNat ||| st.pr b.toNat) ∨
       (i = .pxor d a b ∧ m = st.pr a.toNat ^^^ st.pr b.toNat) ∨ (i = .pnot d a ∧ m = ~~~ st.pr a.toNat) →
     Ready i {} {} st s →
     ∃ x : Strand, exec i s = .next (s.goesOn {} st x) ∧
       x.pr d.toNat = (st.pr d.toNat &&& ~~~ st.active) ||| (m &&& st.active) ∧
       (∀ n, n ≠ d.toNat → x.pr n = st.pr n) ∧ x = { st with p := x.p }) ∧
  ((∀ d a b : BitVec 7,
     let w (op b : Word) : Option Word := some (op <<< 24 ||| d.setWidth 32 <<< 16 ||| a.setWidth 32 <<< 8 ||| b)
     encode (.pand d a b) = w 0x43 (b.setWidth 32) ∧ encode (.por d a b) = w 0x44 (b.setWidth 32) ∧
     encode (.pxor d a b) = w 0x45 (b.setWidth 32) ∧ encode (.pnot d a) = w 0x46 0) ∧
   (∀ w : Word, 0x43 ≤ opOf w → opOf w ≤ 0x46 →
     (w.getLsbD 23 = true ∨ w.getLsbD 15 = true ∨ w.getLsbD 7 = true ∨ (opOf w = 0x46 ∧ w.extractLsb' 0 8 ≠ 0#8)) →
     decode w = .error (.reserved (opOf w))))

/-- SINPI and COSPI give each element of each active lane the sine or cosine of pi times it, as one of the two values that
bracket the exact one: which of them is a free value, and the counter of free values moves on (R81, R143, log 9; what the
two values are is the statement SineBounds). -/
def Obligations.SinesAndCosines : Prop :=
  ∀ (s : State) (st : Strand) (d a : BitVec 8) (i : Instr) (cos : Bool) (f : Fmt),
    (i = .sinpi d a ∧ cos = false) ∨ (i = .cospi d a ∧ cos = true) →
    let t := (arithOf st.group.mode).t
    let u := elemUse st.group.mode d.toNat a.toNat none false
    t.fmt = some f →
    Ready i u { types := typeIs st.group.mode ElemType.isFlt } st s → st.active ≠ 0#64 →
    ∃ pick : Nat → Nat → Bool,
      let r (l j : Nat) : Nat × Flags := f.sinCosPi (pick l j) cos (f.value (elemAt t.width (st.vlane a.toNat l).toNat j))
      let flags (l : Nat) : Flags := orFlags ((List.range t.count).map fun j => (r l j).2)
      ((∀ l ∈ lanesOf st.active, flags l &&& st.group.aten = 0#5) →
        ∃ x : Strand, exec i s = .next (({ s with fresh := s.fresh + 512 } : State).goesOn u st x) ∧
          (∀ l ∈ lanesOf st.active, ∀ j < t.count, elemAt t.width (x.vlane d.toNat l).toNat j = (r l j).1 % 2 ^ t.width) ∧
          (∀ n, ¬ st.touched u n → x.vreg? n = st.vreg? n) ∧
          x.group = { st.group with astat := (st.group.astat ||| orFlags ((lanesOf st.active).map flags)) } ∧
          x = { st with v := x.v, group := x.group }) ∧
      ((∃ l ∈ lanesOf st.active, flags l &&& st.group.aten ≠ 0#5) →
        exec i s = .next (s.trapWord st (((lanesOf st.active).filter fun l => flags l &&& st.group.aten != 0#5).map
          fun l => ⟨l, .arithmetic, (flags l).toNat⟩)))

/-- What SINPI and COSPI deliver for a finite operand x in f32, FP16 or BF16: exactly the sine or cosine of pi x where 2x is
an integer, with no flag, a zero with the sign of Table 4-6; elsewhere a value adjacent to the exact one, so that no
representable value lies strictly between them, with IX, with UF only where the exact value is below the least normal one, and
always where it is below half of that, and with no other flag. A NaN and an infinity give the NaN, with IV where the operand
is an infinity or signals (R72, R81, R143, Table 4-6). -/
def Obligations.SineBounds : Prop :=
  ∀ (f : Fmt) (pick cos : Bool), f = Fmt.f32 ∨ f = Fmt.f16 ∨ f = Fmt.bf16 →
    (∀ g, f.sinCosPi pick cos (.inf g) = (f.nan, fIV) ∧
      f.sinCosPi pick cos (.nan g) = (f.nan, if g then fIV else 0#5)) ∧
    ∀ (n : Bool) (m : Nat) (e : Int),
      let x : ℝ := ((FVal.fin n m e).rat : ℝ)
      let exact : ℝ := if cos then Real.cos (Real.pi * x) else Real.sin (Real.pi * x)
      let r := f.sinCosPi pick cos (.fin n m e)
      let z : ℝ := ((f.value r.1).rat : ℝ)
      (f.value r.1).isFin = true ∧
      ((∃ k : ℤ, 2 * x = k) → z = exact ∧ r.2 = 0#5 ∧ (z = 0 → (f.value r.1).neg = (!cos && n))) ∧
      ((∀ k : ℤ, 2 * x ≠ k) →
        (∀ y, (f.value y).isFin = true → let v : ℝ := ((f.value y).rat : ℝ); ¬ (z < v ∧ v < exact) ∧ ¬ (exact < v ∧ v < z)) ∧
        (r.2 = fIX ∨ r.2 = fIX ||| fUF) ∧ (r.2 = fIX ||| fUF → |exact| < (2 : ℝ) ^ f.emin) ∧
        (|exact| < (2 : ℝ) ^ (f.emin - 1) → r.2 = fIX ||| fUF))

/-- SHFL, SHFX, SHUP and SHDN: each active lane receives the a of the lane that its b, the XOR, the difference or the sum
names, active or not, and its own where that is no lane below W (R144).
BCST gives every active lane the a of the lane that g[B] names, or its own where g[B] names no lane below W; GTOV gives
every active lane g[A]; VTOG gives g[D] the a of the lowest active lane (R145, R149). -/
def Obligations.LaneMoves : Prop :=
  (∀ (s : State) (st : Strand) (d a b : BitVec 8) (n : BitVec 6),
     let m := st.group.mode
     let src (k : Option Nat) (l : Nat) : Nat := match k with
       | some k => if k < st.width then k else l
       | none => l
     let ws (l : Nat) : List Word := wordsIn st (regsT (isWide m) a.toNat) l
     WordsRun (.shfl d a b) (elemUse m d.toNat a.toNat (some b.toNat) false) (modeType m).isSome
       (fun st l => ws (src (some (st.vlane b.toNat l).toNat) l)) st s ∧
     WordsRun (.shfx d a n) (elemUse m d.toNat a.toNat none false) (modeType m).isSome
       (fun _ l => ws (src (some (l ^^^ n.toNat)) l)) st s ∧
     WordsRun (.shup d a n) (elemUse m d.toNat a.toNat none false) (modeType m).isSome
       (fun _ l => ws (src (if l < n.toNat then none else some (l - n.toNat)) l)) st s ∧
     WordsRun (.shdn d a n) (elemUse m d.toNat a.toNat none false) (modeType m).isSome
       (fun _ l => ws (src (some (l + n.toNat)) l)) st s) ∧
  (∀ (s : State) (st : Strand),
     let m := st.group.mode
     (∀ (d a : BitVec 8) (b : BitVec 6),
       WordsRun (.bcst d a b) { elemUse m d.toNat a.toNat none false with gRead := [b.toNat] } (modeType m).isSome
         (fun st l => wordsIn st (regsT (isWide m) a.toNat)
           (if (st.gr b.toNat).toNat < st.width then (st.gr b.toNat).toNat else l)) st s) ∧
     (∀ (d : BitVec 8) (a : BitVec 6),
       WordsRun (.gtov d a)
         { dests := regsT (isWide m) d.toNat, even := if isWide m then [d.toNat] else [], gRead := [a.toNat] }
         (modeType m).isSome
         (fun st _ => if isWide m then [lo32 (st.gr a.toNat), hi32 (st.gr a.toNat)] else [lo32 (st.gr a.toNat)]) st s) ∧
     (∀ (d : BitVec 6) (a : BitVec 8),
       let u : Use :=
         { aRegs := regsT (isWide m) a.toNat, even := if isWide m then [a.toNat] else [], gDest := [d.toNat] }
       Ready (.vtog d a) u { types := (modeType m).isSome } st s → st.active ≠ 0#64 →
       ∃ l, st.active.getLsbD l = true ∧ (∀ k, k < l → st.active.getLsbD k = false) ∧
         exec (.vtog d a) s = .next (s.goesOn u st ((st.freeMarked u).setG d.toNat
           (BitVec.ofNat 64 (st.vval (isWide m) a.toNat l))))))

/-- RADD, RMIN and RMAX give g[D] the root of the tree of R82 over the active lanes, and its flags join ASTAT; with no
active lane g[D] is 0, or the identity of the extreme; an enabled flag at any step of the tree is *arithmetic* in every
active lane, with all the flags of the tree, and nothing is written (R80, R82, R146).
The tree of R82 of eight lanes of 32-bit words, all active: pairs, then pairs of pairs, then the two halves.
CONFL gives k[D] the active lanes that have a lower active lane with the same pattern (R147).
The word of CONFL is 0x58<<24 | D<<16 | A<<8 (R147). -/
def Obligations.ReductionsAndConflicts : Prop :=
  (∀ (s : State) (st : Strand) (d : BitVec 6) (a : BitVec 8) (i : Instr) (el : Arith → ElemOp) (empty : ElemType → Nat),
     (i = .radd d a ∧ el = elAdd ∧ empty = fun _ => 0) ∨
       (i = .rmin d a ∧ el = elMinMax false ∧ empty = emptyExtreme false) ∨
       (i = .rmax d a ∧ el = elMinMax true ∧ empty = emptyExtreme true) →
     let m := st.group.mode
     let u : Use :=
       { aRegs := regsT (isWide m) a.toNat, even := if isWide m then [a.toNat] else [], gDest := [d.toNat] }
     let types := typeIs m fun t => t.isInt || t.isFlt || t.isF8
     (Ready i u { types := types } st s → st.active ≠ 0#64 → (reduceLanes el a.toNat st).2 &&& st.group.aten = 0#5 →
       exec i s = .next (s.goesOn u st (((st.freeMarked u).setG d.toNat
         (BitVec.ofNat 64 ((reduceLanes el a.toNat st).1.getD 0))).raise (reduceLanes el a.toNat st).2))) ∧
     (Ready i u { types := types } st s → st.active ≠ 0#64 → (reduceLanes el a.toNat st).2 &&& st.group.aten ≠ 0#5 →
       exec i s = .next (s.trapWord st (faultIn st.active .arithmetic (reduceLanes el a.toNat st).2.toNat))) ∧
     (s.here? = some st → checkWord st i u types = none → st.active = 0#64 →
       exec i s = .next (s.goesOn { gDest := [d.toNat] } st (st.setG d.toNat (BitVec.ofNat 64 (empty (arithOf m).t)))))) ∧
  (∀ (f : Nat → Nat → Nat × Flags) (a b c d e g h i : Nat),
     let leaf (x : Nat) : Option Nat × Flags := (some x, 0#5)
     let v (x y : Nat) : Nat := (f x y).1
     ((treeUp f 6 [leaf a, leaf b, leaf c, leaf d, leaf e, leaf g, leaf h, leaf i]).map (·.1)) =
       [some (v (v (v a b) (v c d)) (v (v e g) (v h i)))]) ∧
  (∀ (s : State) (st : Strand) (d : BitVec 4) (a : BitVec 8),
     let w := isWide st.group.mode
     let u : Use := { aRegs := regsT w a.toNat, even := if w then [a.toNat] else [] }
     Ready (.confl d a) u { types := (modeType st.group.mode).isSome } st s → st.active ≠ 0#64 →
     ∃ m : LaneMask, exec (.confl d a) s = .next (s.goesOn u st ((st.freeMarked u).setK d.toNat m)) ∧
       ∀ l, l < 64 → (m.getLsbD l = true ↔ st.active.getLsbD l = true ∧
         ∃ k, k < l ∧ st.active.getLsbD k = true ∧ st.vval w a.toNat k = st.vval w a.toNat l)) ∧
  (∀ (d : BitVec 4) (a : BitVec 8),
     encode (.confl d a) = some (0x58#32 <<< 24 ||| d.setWidth 32 <<< 16 ||| a.setWidth 32 <<< 8))

/-- CMPRS and EXPND under a control word within its limits: each active lane of the destination block receives the map and
the packed elements, or the expanded elements (R150-R152).
Under a control word outside its limits both trap with *illegal instruction* in the active lanes and write nothing (R150);
k above the group size is outside also where bit 16 is 1, and the registers looked at before are those of fields a and d alone
(log 68). -/
def Obligations.Compression : Prop :=
  (∀ (s : State) (st : Strand) (d a : BitVec 8) (b : BitVec 6) (i : Instr), i = .cmprs d a b ∨ i = .expnd d a b →
    Ready i { aRegs := regs a.toNat 1, dests := regs d.toNat 1, gRead := [b.toNat] }
      { types := typeIs st.group.mode typesCompress } st s → st.active ≠ 0#64 →
    (ctlOk (st.gr b.toNat) = false ↔ 8 * (1 + slice (st.gr b.toNat) 1 0) < slice (st.gr b.toNat) 12 8 ∨
      1 < slice (st.gr b.toNat) 1 0 ∨ slice (st.gr b.toNat) 7 2 ≠ 0 ∨ slice (st.gr b.toNat) 15 13 ≠ 0 ∨
      slice (st.gr b.toNat) 63 17 ≠ 0) ∧
    (ctlOk (st.gr b.toNat) = false → exec i s = .next (s.trapWord st (faultIn st.active .illegalInstruction)))) ∧
  ∀ (s : State) (st : Strand) (d a : BitVec 8) (b : BitVec 6),
    let t := (arithOf st.group.mode).t
    let g := st.gr b.toNat
    ctlOk g = true → st.gpend.getLsbD b.toNat = false → typeIs st.group.mode typesCompress = true →
    (s.core s.cur.1).boundTo st.lineage b.toNat = none →
    WordsRun (.cmprs d a b)
      { aRegs := regs a.toNat (ctlGroup g / t.count), dests := regs d.toNat (1 + packedRegs t g), gRead := [b.toNat] }
      true (fun st l => (cmprsLane a.toNat g st l).1) st s ∧
    WordsRun (.expnd d a b)
      { aRegs := regs a.toNat (1 + packedRegs t g), dests := regs d.toNat (ctlGroup g / t.count), gRead := [b.toNat] }
      true (fun st l => (expndLane a.toNat g st l).1) st s

/-- LKP, INS, UPS, DEL, REKEY, LD, ST, ATOM, LDROW, RATOM, COPEN, CSTEP, CSTEPN and CSEEK join the operations of the core
with the operands they captured: their destinations are pending and their flag is clear until they return. Memory and
every other core are as they were (R45, R61, R125).
While 16 operations of the strand are not performed no further one issues and none raises anything, whatever checks it
would fail (R310). One that finds too few table request entries waits too, and its wait is counted once (R167). -/
def Obligations.TableOperationsIssue : Prop :=
  (∀ (s : State) (st : Strand) (i : Instr), isReplayed i = true → isScratchOp i = false → OpReady i st s →
    ∃ (t : State) (x : Strand), exec i s = .next t ∧ t.here? = some (x.retire .seq) ∧
      (t.core s.cur.1).ops = (s.core s.cur.1).ops ++ [s.newOpHere i st] ∧ st.inFlight x (s.newOpHere i st) ∧
      t.mem = s.mem ∧ (∀ c, c ≠ s.cur.1 → t.core c = s.core c) ∧
      (t.core s.cur.1).scratch = (s.core s.cur.1).scratch) ∧
  (∀ (s : State) (st : Strand) (i : Instr), isReplayed i = true → s.here? = some st → st.active ≠ 0#64 →
    ((s.core s.cur.1).queueFull s.cur.2 = true → exec i s = .next s) ∧
    ((s.core s.cur.1).queueFull s.cur.2 = false → isScratchOp i = false →
      (∀ g ∈ (opUse i st.group.mode).gRead, (s.core s.cur.1).boundTo st.lineage g = none) →
      2048 < ((s.unbindDests st.lineage (opUse i st.group.mode).gDest).core s.cur.1).requests + popCount st.active →
      exec i s = .next (s.countStall 1 0x1042)))

/-- SLD, SST and SATOM of a strand with no older operation, and no gather that still reads (R230), are performed at issue, where the sectors that they reach are
good. SLD captures the words of each lane; SST stores each lane's words, the lanes in ascending order; SATOM of one lane
stores the new word and captures the old. Scratch bytes that no lane stores to, and memory, are as they were (R197, R207).
A lane of SLD or SATOM that consumes a poisoned or mismatching sector faults, *uncorrectable* or *integrity*, and scratch
keeps its bytes; so does a lane of SST all of whose words lie in such a sector, also where they are the whole of it, as each
word is an access of its own (R215, R296, R297). -/
def Obligations.ScratchAccesses : Prop :=
  ∀ (s : State) (st : Strand) (i : Instr), isScratchOp i = true → OpReady i st s →
    (s.core s.cur.1).strandOps s.cur.2 = [] → (s.core s.cur.1).gathers s.cur.2 ((s.core s.cur.1).gen s.cur.2) = false →
    let o := s.newOpHere i st
    let n := 4 * wordCount i st.group.mode
    let bad (l : Nat) : Option Cause := (s.core (s.scratchOf i st l).1).badRange (s.scratchOf i st l).2 n
    ((∀ l ∈ lanesOf st.active, bad l = none) → ∃ t : State, exec i s = .next t ∧ t.mem = s.mem ∧
      (∀ k a, (∀ l ∈ lanesOf st.active, (isPureRead i = true) ∨ (s.scratchOf i st l).1 ≠ k ∨
          a < (s.scratchOf i st l).2 ∨ (s.scratchOf i st l).2 + n ≤ a) →
        Assoc.get 0#8 (t.core k).scratch a = Assoc.get 0#8 (s.core k).scratch a) ∧
      (∀ d a off, i = .sld d a off → ∃ o', (t.core s.cur.1).ops = (s.core s.cur.1).ops ++ [o'] ∧
        o' = { o with todo := 0#64, results := (lanesOf st.active).map fun l =>
          (l, wordsOf (modeCount st.group.mode) (s.scratchBytesAt (s.scratchOf i st l).1 (s.scratchOf i st l).2 n)) }) ∧
      (∀ d a off, i = .sst d a off → ∀ k, (t.core k).scratch = (((lanesOf st.active).foldl (fun y l =>
        y.pokeScratch (s.scratchOf i st l).1 (s.scratchOf i st l).2 (bytesOfWords (o.data l))) s).core k).scratch) ∧
      (∀ d a off l, i = .satom d a off → lanesOf st.active = [l] →
        let k := (s.scratchOf i st l).1
        let x := (s.scratchOf i st l).2
        let old := wordOf (s.scratchBytesAt k x 4)
        (t.core s.cur.1).ops = (s.core s.cur.1).ops ++ [{ o with todo := 0#64, results := [(l, [old])] }] ∧
        (t.core k).scratch = ((s.pokeScratch k x (bytesOf 4 (o.newWord l old).toNat)).core k).scratch)) ∧
    (∀ l c d a off, i = .sld d a off ∨ i = .satom d a off → lanesOf st.active = [l] → bad l = some c →
      ∃ t : State, exec i s = .next t ∧ t.mem = s.mem ∧ (∀ k, (t.core k).scratch = (s.core k).scratch) ∧
        (t.core s.cur.1).ops = (s.core s.cur.1).ops ++ [{ o with todo := 0#64, faults := [⟨l, c, 0⟩] }]) ∧
    (∀ l c d a off, i = .sst d a off → lanesOf st.active = [l] →
      (s.core (s.scratchOf i st l).1).badSector ((s.scratchOf i st l).2 / 32) = some c →
      (s.scratchOf i st l).2 % 32 + n ≤ 32 →
      ∃ t : State, exec i s = .next t ∧ t.mem = s.mem ∧ (∀ k, (t.core k).scratch = (s.core k).scratch) ∧
        ∃ f, (t.core s.cur.1).ops = (s.core s.cur.1).ops ++ [{ o with todo := 0#64, faults := [⟨l, f, 0⟩] }] ∧ f = c)

/-- DIV decides its flags at issue, and joins the operations of the core with its results and flags: the results are
written and the flags join ASTAT when it returns (R79, R134, R45). Where a lane raises a flag that ATEN enables it traps at
issue with *arithmetic* in just those lanes, each with all its flags as the detail, and nothing is written (R80).
An operation that is complete returns: DIV_COMPLETE, SCRATCH_LOAD_COMPLETE of a performed access, and
TABLE_OP_COMPLETE of one whose performing leaves no lane and no fault. It leaves the list of its core; a uniform load has
one word in all its lanes. When its slot has moved to another generation the result is dropped, and counted in selector
0x0002 (R45, R125, R128, R166, R176). -/
def Obligations.DivisionAndReturns : Prop :=
  (∀ (s : State) (st : Strand) (d a b : BitVec 8),
     let i : Instr := .div d a b
     let f := elemLane elDiv d.toNat a.toNat (some b.toNat) false
     let o := { s.newOpHere i st with
       todo := 0#64, results := (lanesOf st.active).map fun l => (l, (f st l).1)
       flags := orFlags ((lanesOf st.active).map fun l => (f st l).2) }
     Ready i (opUse i st.group.mode) { types := typeIs st.group.mode typesDiv } st s → st.active ≠ 0#64 →
     ((∀ l ∈ lanesOf st.active, (f st l).2 &&& st.group.aten = 0#5) →
       ∃ (t : State) (x : Strand), exec i s = .next t ∧ t.here? = some (x.retire .seq) ∧
         (t.core s.cur.1).ops = (s.core s.cur.1).ops ++ [o] ∧ st.inFlight x o ∧ t.mem = s.mem) ∧
     ((∃ l ∈ lanesOf st.active, (f st l).2 &&& st.group.aten ≠ 0#5) →
       exec i s = .next (s.trapWord st (((lanesOf st.active).filter fun l => (f st l).2 &&& st.group.aten != 0#5).map
         fun l => ⟨l, .arithmetic, (f st l).2.toNat⟩)))) ∧
  (∀ (s s1 : State) (c n : Nat) (o o1 : Op) (i : Instr), (s.core c).ops[n]? = some o →
     ((∃ d a b, o.instr = .div d a b) ∧ i = .divComplete c n ∧ s1 = s ∧ o1 = o) ∨
     (isScratchOp o.instr = true ∧ o.todo = 0#64 ∧ o.faults = [] ∧ i = .scratchLoadComplete c n ∧ s1 = s ∧ o1 = o) ∨
     (∃ lanes cached, isReplayed o.instr = true ∧ isScratchOp o.instr = false ∧ o.todo ≠ 0#64 ∧ s.eligible c n = true ∧
       s.remoteMask c o = 0#64 ∧ i = .tableOpComplete c n lanes cached ∧ s.performOp c o false cached lanes = (s1, o1) ∧
       o1.todo = 0#64 ∧ o1.faults = [] ∧ (s1.core c).ops = (s.core c).ops ∧ o1.slot = o.slot ∧ o1.gen = o.gen) →
     (o1.uniform = true → ∀ l l', o1.written.getLsbD l = true → o1.written.getLsbD l' = true →
       Assoc.get [] o1.results l = Assoc.get [] o1.results l') →
     ∃ t : State, exec i s = .next t ∧ (t.core c).ops = ((s1.core c).removeOp n).ops ∧ t.mem = s1.mem ∧
       ((s1.core c).gen o1.slot = o1.gen → ∀ st, s1.strand? c o1.slot = some st →
         ∃ x, t.strand? c o1.slot = some x ∧ st.returnedOp x o1) ∧
       ((s1.core c).gen o1.slot ≠ o1.gen → (opUse o1.instr o1.mode).dests ≠ [] →
         (t.core c).counter 0x0002 = (s1.core c).counter 0x0002 + 1#64 ∧ (t.core c).slots = (s1.core c).slots))

/-- What the lanes of a table-space access do when they are performed, with every lane of this package, words that are reached
and no secondary field met. LD gives each lane the words of memory at its reference and the three words after it, as many as it
asks for, and changes no byte; ST stores each lane's words at its own reference, the lanes in ascending order; ATOM gives each
lane the old word at its reference and stores the new one; LDROW gives the words of its row from the start word on, and the
row's version in g[B], and counts a stale read; RATOM gives the old words of the row and stores their sums. Every other byte is
as it was; the version of a row rises by one for each lane of ST and ATOM that writes to it, and once for RATOM (R163,
R175-R177, R179-R181).
A lane that would store a word, be it the first or a later one, into a secondary field is *index bypass*, and its words are
not written; a RATOM with such a lane writes no word of the row (R177, R179, R180).
Through a far reference the word is that of the block's sector, and zero where the block does not hold the sector; a word
stored in a sector that the block holds, and that does not become zero, is stored there, and nothing else changes; the far
form of a row leads to the row's own store (R162, R175, R293; log 35 for the number of its block). -/
def Obligations.PerformedAccesses : Prop :=
  (∀ (s : State) (c n : Nat) (o : Op) (cached : Bool) (pa : Nat → Nat → Nat), MayPerform s c n o →
     let w := o.who c
     let ls := lanesOf o.todo
     let whole : Op := { o with todo := 0#64 }
     let rows := ls.filterMap fun l => s.placeOf w (o.addr l)
     (∀ d a off, o.instr = .ld d a off → o.aclass ≠ .inv ∨ cached = false →
       (∀ l ∈ ls, ∀ i < modeCount o.mode, s.reaches w .read (o.addr l + 4 * i) (pa l i)) →
       (o.uniform = true → ∀ l k i, pa l i = pa k i) →
       ∃ t, s.performsTo c n cached { whole with
         results := ls.map fun l => (l, (List.range (modeCount o.mode)).map fun i => s.mem.word (pa l i)) } t ∧
         t.mem = s.mem ∧ t.tables = s.tables) ∧
     (∀ d a off, o.instr = .st d a off → (∀ l ∈ ls, (o.data l).length = modeCount o.mode) →
      (∀ l ∈ ls, ∀ p ∈ s.lanePlaces c o l, p.hitsField 1 = false) →
       (∀ l ∈ ls, ∀ i < (o.data l).length, s.reaches w .write (o.addr l + 4 * i) (pa l i)) →
       let stores := ls.flatMap fun l => (o.data l).zipIdx.map fun x => (pa l x.2, x.1)
       ∃ t, s.performsTo c n cached { whole with results := ls.map fun l => (l, []) } t ∧
         t.mem = s.mem.storeAll stores ∧ s.versionsRise t (ls.flatMap fun l => rowsOf (s.lanePlaces c o l)) ∧
         ∀ a, (∀ x ∈ stores, a < x.1 ∨ x.1 + 4 ≤ a) → t.mem.byte a = s.mem.byte a) ∧
     (∀ d a off, o.instr = .atom d a off → o.uniform = false →
       (∀ p ∈ rows, p.hitsField 1 = false) →
       (∀ l ∈ ls, s.reaches w .read (o.addr l) (pa l 0) ∧ s.reaches w .write (o.addr l) (pa l 0)) →
       let r := ls.foldl (fun (r : Mem × List (Nat × List Word)) l =>
         (r.1.storeAll [(pa l 0, o.newWord l (r.1.word (pa l 0)))], r.2 ++ [(l, [r.1.word (pa l 0)])])) (s.mem, [])
       ∃ t, s.performsTo c n cached { whole with results := r.2 } t ∧ t.mem = r.1 ∧ s.versionsRise t rows ∧
         ∀ a, (∀ l ∈ ls, a < pa l 0 ∨ pa l 0 + 4 ≤ a) → t.mem.byte a = s.mem.byte a) ∧
     (∀ d a b, o.instr = .ldrow d a b → o.uniform = false → o.aclass ≠ .inv ∨ cached = false →
       (∀ l ∈ ls, s.reaches w .read (o.addr l + 4 * (o.startWord + l)) (pa l 0)) →
       ∀ p, s.placeOf w (o.addr 0) = some p →
       let v : BitVec 32 := if p.table.desc.kind = 2 then (p.table.rowAt p.row).version else 0#32
       ∃ t, s.performsTo c n cached { whole with
         results := ls.map fun l => (l, [s.mem.word (pa l 0)]), gresult := some (v.setWidth 64) } t ∧
         t.mem = s.mem ∧ t.tables = s.tables ∧
         (t.core c).counter (0x1000 + p.num % 64) = (s.core c).counter (0x1000 + p.num % 64) +
           if p.table.desc.kind = 2 ∧ 2 ^ 31 ≤ (v - lo32 (o.gvals.getD 2 0#64)).toNat then 1#64 else 0#64) ∧
     (∀ d a off, o.instr = .ratom d a off → o.uniform = false → s.rowBars c o (s.placeOf w (o.addr 0)) = [] →
       (∀ l ∈ ls, s.reaches w .read (o.addr l + 4 * (o.startWord + l)) (pa l 0) ∧
         s.reaches w .write (o.addr l + 4 * (o.startWord + l)) (pa l 0)) →
       let stores := ls.map fun l => (pa l 0, o.newWord l (s.mem.word (pa l 0)))
       ∃ t, s.performsTo c n cached { whole with results := ls.map fun l => (l, [s.mem.word (pa l 0)]) } t ∧
         t.mem = s.mem.storeAll stores ∧ s.versionsRise t (s.placeOf w (o.addr 0)).toList ∧
         ∀ a, (∀ l ∈ ls, a < pa l 0 ∨ pa l 0 + 4 ≤ a) → t.mem.byte a = s.mem.byte a)) ∧
  (∀ (s : State) (c : Nat) (o : Op) (cached : Bool) (l : Nat), (∃ d a off, o.instr = .st d a off) →
     (∃ p ∈ s.lanePlaces c o l, p.hitsField 1 = true) →
     s.performLane c o cached l = (s, .fault (.indexBypass, 0))) ∧
  (∀ (s : State) (c : Nat) (o : Op) (cached : Bool) (l : Nat) (p : StorePlace), s.placeOf (o.who c) (o.addr l) = some p →
     (∀ d a off, o.instr = .atom d a off → p.hitsField 1 = true →
       s.performLane c o cached l = (s, .fault (.indexBypass, 0))) ∧
     (∀ d a off k, o.instr = .ratom d a off → o.faults = [] → k < 64 → o.todo.getLsbD k = true →
       ({ p with off := p.off + 4 * (o.startWord + k) } : StorePlace).hitsField 1 = true →
       ∃ x, s.performOp c o false cached (~~~ 0#64) = (s, x) ∧ x.todo = o.todo ∧ ⟨k, .indexBypass, 0⟩ ∈ x.faults)) ∧
  (∀ (s : State) (c : Nat) (o : Op) (cached : Bool) (x : Nat), isFar x = true → badFar x = false →
     (∀ b, (s.bank b).state = .active) →
     let w := o.who c
     let e := s.entryOf (farBlock x)
     e.valid = true →
     (∀ n ∈ s.entrySector (farBlock x) :: e.mapSectors (farOffset x / 32), s.sectorGood w n = true) →
     (s.blockSector e (farOffset x / 32) = none → ∃ t, s.loadWord c o cached x = (t, .ok 0#32) ∧ t.mem = s.mem) ∧
     (∀ k, s.blockSector e (farOffset x / 32) = some k → s.sectorGood w k = true → x % 4 = 0 →
       (∃ t, s.loadWord c o cached x = (t, .ok (s.mem.word (32 * k + farOffset x % 32))) ∧ t.mem = s.mem) ∧
       ∀ v : Word, let m := s.mem.storeAll [(32 * k + farOffset x % 32, v)]
         e.cls = 3 ∨ m.bytes (32 * k) 32 ≠ Sector.zero.bytes →
         ∃ t, s.storeWord c o x v = (t, .ok ()) ∧ t.mem = m))

/-- LKP of an indexed table finds the reference of the first entry of its key in the index that the handle selects, and
0 when there is none; the lookup is counted at the table and changes nothing else of it (R170).
Under a handle that names no usable table, LKP and every other index operation meets *stale handle* in the lane and
changes nothing (R159). -/
def Obligations.TableLookups : Prop :=
  (∀ (s : State) (c : Nat) (o : Op) (l : Nat) (t : Table),
     let h := o.gvals.getD 2 0#64
     s.usable h true = some t → t.desc.kind = 2 →
     (s.performLkp c o l).2 = .done (refWords (match (t.index (hSelector h)).find? fun e => e.key == o.pair l 0 with
       | some e => e.ref
       | none => 0)) ∧
     (s.performLkp c o l).1.mem = s.mem ∧
     Assoc.find (s.performLkp c o l).1.tables (hNumber h) = some (t.count 0)) ∧
  (∀ (s : State) (c : Nat) (o : Op) (l : Nat),
     let h := o.gvals.getD 2 0#64
     (s.usable h true = none → s.performLkp c o l = (s, .fault (.staleHandle, 0))) ∧
     (s.usable h false = none → s.performIndex c o l = (s, .fault (.staleHandle, 0))))

/-- An index operation or a cursor word of one lane is performed in one step, its lane done or faulted.
INS, where the key and the secondary fields clash with no unique index and the table has free storage, writes the payload
there, zeros after the words given and none of the words beyond it (the latter is the model's choice, log 73), makes the row live with its key and the version after the storage's last one, adds its entry
to every index, in entry order, and answers its reference; UPS of a key that exists replaces the payload and the secondary
entries, and the version rises; a clash is *duplicate key*, and a full table answers 0, with rows and indexes as they were
(R163, R171). DEL takes the row of the first entry of the key out of every index, the storage being kept for the launches
then running (log 93), and its version rises; REKEY moves the primary entries of a live row, which its reference may name in
its far form (R162), to the new key, and its version rises (R172-R174). The clauses on whole indexes are of tables whose
trees are one leaf each, and leave trees of several leaves out; of any tree it is said that an insertion adds its entry and
takes none away (R165).
COPEN takes the lowest free slot (log 23) for a cursor over the range and gives its handle, or 0 where none is free or its
strand has left its slot; CSTEP and
CSTEPN give the next entries of the range after the last one returned, with zeros for those that are missing, and the end
stays the end; CSEEK sets the cursor to the greater of the key and the range's start; an invalid handle is *stale handle*
and the handle 0 does nothing (R183-R187). -/
def Obligations.IndexAndCursorOperations : Prop :=
  (∀ (s : State) (c n : Nat) (o : Op) (l : Nat) (cached : Bool), MayPerform s c n o → isIndexOp o.instr = true → l < 64 →
     o.todo = 1#64 <<< l →
     exec (.tableOpComplete c n (~~~ 0#64) cached) s =
       .next ((s.performLane c o cached l).1.settleOp c n (o.laneDone l (s.performLane c o cached l).2))) ∧
  (∀ (s : State) (c : Nat) (o : Op) (l : Nat) (cached : Bool) (x : Table),
     let h := o.gvals.getD 2 0#64
     let n := hNumber h
     let key := o.pair l 0
     let ws := x.payloadOf (o.data l)
     let prim := x.primary.find? fun e => e.key == key
     let dup := (x.isUnique 0 || x.isUnique 1) && prim.isSome
     let p := s.performLane c o cached l
     let same (y : Table) : Prop := y.rows = x.rows ∧ ∀ i, y.index i = x.index i
     s.usable h false = some x → x.oneLeaf →
     (ws.length = x.desc.payload / 4 ∧ ∀ i, ws.getD i 0#32 = if i < x.desc.payload / 4 then (o.data l).getD i 0#32 else 0#32) ∧
     (∀ d a b, o.instr = .ins d a b ∨ o.instr = .ups d a b ∧ prim = none →
       (∀ r s1, dup = false → x.secondaryClash none ws = false → x.freeRow s.fresh = some r →
         ({ s with fresh := s.fresh + 1 } : State).writeRow (o.who c) x r ws = (s1, none) →
         p.2 = .done (refWords (x.refOf r)) ∧ p.1.mem = s1.mem ∧ ∃ y, Assoc.find p.1.tables n = some y ∧
           y.rowAt r = ⟨.live, key, (x.rowAt r).version + 1#32⟩ ∧ (∀ k, k ≠ r → y.rowAt k = x.rowAt k) ∧
           ∀ i < 4, y.index i = if x.hasIndex i then insertEntry ⟨x.keyIn i key ws, x.refOf r⟩ (x.index i) else x.index i) ∧
       (dup = true ∨ x.secondaryClash none ws = true → p.2 = .fault (.duplicateKey, 0) ∧ p.1.mem = s.mem ∧
         ∃ y, Assoc.find p.1.tables n = some y ∧ same y) ∧
       (dup = false → x.secondaryClash none ws = false → x.freeRow s.fresh = none →
         p.2 = .done (refWords 0) ∧ p.1.mem = s.mem ∧ ∃ y, Assoc.find p.1.tables n = some y ∧ same y ∧
           Assoc.get 0#64 y.counters 5 = Assoc.get 0#64 x.counters 5 + 1#64)) ∧
     (∀ d a b e r, o.instr = .ups d a b → prim = some e → x.rowOfRef e.ref = some r →
       (x.secondaryClash (some e.ref) ws = true → p.2 = .fault (.duplicateKey, 0) ∧ p.1.mem = s.mem ∧
         ∃ y, Assoc.find p.1.tables n = some y ∧ same y) ∧
       (∀ s1, x.secondaryClash (some e.ref) ws = false → (x.rowAt r).state = .live →
         s.writeRow (o.who c) x r ws = (s1, none) →
         p.2 = .done (refWords e.ref) ∧ p.1.mem = s1.mem ∧ ∃ y, Assoc.find p.1.tables n = some y ∧
           y.rowAt r = { x.rowAt r with version := (x.rowAt r).version + 1#32 } ∧ (∀ k, k ≠ r → y.rowAt k = x.rowAt k) ∧
           ∀ i < 4, y.index i = if x.hasIndex i && decide (2 ≤ i) then insertEntry ⟨x.keyIn i key ws, e.ref⟩ (x.without i e.ref)
             else x.index i)) ∧
     (∀ d a b, o.instr = .del d a b →
       ((x.index (hSelector h)).find? (fun e => e.key == key) = none → p = (s, .done (refWords 0))) ∧
       (∀ e r, (x.index (hSelector h)).find? (fun e => e.key == key) = some e → x.rowOfRef e.ref = some r →
         p.2 = .done (refWords e.ref) ∧ p.1.mem = s.mem ∧ ∃ y, Assoc.find p.1.tables n = some y ∧
           y.rowAt r = ⟨.deleted s.running, (x.rowAt r).key, (x.rowAt r).version + 1#32⟩ ∧
           (∀ k, k ≠ r → y.rowAt k = x.rowAt k) ∧
           ∀ i < 4, y.index i = if x.hasIndex i then x.without i e.ref else x.index i)) ∧
     (∀ d a b, o.instr = .rekey d a b →
       let new := o.pair l 2
       let near := s.nearRef n key
       (isFar key = false → near = key) ∧
       (∀ r, x.rowOfRef near = some r → (x.rowAt r).state = .live →
         ((x.isUnique 0 || x.isUnique 1) && x.primary.any (fun e => e.key == new && e.ref != near)) = false →
         p.2 = .done (refWords (if near = 0 then 0 else key)) ∧ p.1.mem = s.mem ∧ ∃ y, Assoc.find p.1.tables n = some y ∧
           y.rowAt r = ⟨.live, new, (x.rowAt r).version + 1#32⟩ ∧ (∀ k, k ≠ r → y.rowAt k = x.rowAt k) ∧
           ∀ i < 4, y.index i = if x.hasIndex i && decide (i < 2) then insertEntry ⟨new, near⟩ (x.without i near)
             else x.index i) ∧
       (x.rowOfRef near = none → p.2 = .done (refWords 0) ∧ p.1.mem = s.mem ∧ ∃ y, Assoc.find p.1.tables n = some y ∧
         same y) ∧
       (∀ r, x.rowOfRef near = some r → (x.rowAt r).state = .live →
         ((x.isUnique 0 || x.isUnique 1) && x.primary.any (fun e => e.key == new && e.ref != near)) = true →
         p.2 = .fault (.duplicateKey, 0) ∧ p.1.mem = s.mem ∧ ∃ y, Assoc.find p.1.tables n = some y ∧ same y))) ∧
  (∀ (cap : Nat) (x : Tree) (e : Entry), descend e x.levels.reverse 0 < max 1 x.leaves.length →
     ∀ y, y ∈ (x.insert cap e).1.entries ↔ y = e ∨ y ∈ x.entries) ∧
  (∀ (s : State) (c : Nat) (o : Op) (l : Nat) (cached : Bool),
     let p := s.performLane c o cached l
     let k := s.core c
     (∀ d a b, o.instr = .copen d a b →
       let h := o.gvals.getD 2 0#64
       (hSelector h = 0 ∨ hRemote h = false ∧ s.usable h false = none → p = (s, .fault (.staleHandle, 0))) ∧
       (hSelector h ≠ 0 → hRemote h = true ∨ (s.usable h false).isSome = true → k.gen o.slot ≠ o.gen →
         p = (s, .done [0#32])) ∧
       (hSelector h ≠ 0 → hRemote h = true ∨ (s.usable h false).isSome = true → k.gen o.slot = o.gen →
         (∀ r ∈ o.results, r.2 ≠ [0#32]) →
         (∀ i, k.freeCursor = some i → ∃ serial, 1 ≤ serial ∧ serial ≤ max 65535 (k.cursorSer + 1) ∧
           p.2 = .done [BitVec.ofNat 32 (serial * 2 ^ 16 + i)] ∧ Assoc.find (p.1.core c).cursors i =
             some ⟨o.slot, o.gen, h, o.pair l 0, o.pair l 2, serial, none, o.pair l 0, false⟩ ∧ p.1.mem = s.mem) ∧
         (k.freeCursor = none → p.2 = .done [0#32] ∧
           (p.1.core c).counter 0x1041 = k.counter 0x1041 + 1#64 ∧ (p.1.core c).cursors = k.cursors))) ∧
     (∀ d a (count : Nat), o.instr = .cstep d a ∧ count = 1 ∨ o.instr = .cstepn d a ∧ count = modeCount o.mode →
       let h := (o.words l).getD 0 0#32
       let words (es : List Entry) : List Word :=
         if o.instr = .cstep d a then (match es with
           | e :: _ => refWords e.ref ++ refWords e.key
           | [] => List.replicate 4 0#32)
         else BitVec.ofNat 32 es.length :: 0#32 :: (es.flatMap fun e => refWords e.ref) ++
           List.replicate (2 * (count - es.length)) 0#32
       (h = 0#32 → p = (s, .done (words []))) ∧
       (h ≠ 0#32 → k.cursor? o.slot o.gen h = none → p = (s, .fault (.staleHandle, 0))) ∧
       (∀ i x, h ≠ 0#32 → k.cursor? o.slot o.gen h = some (i, x) →
         (s.usable x.handle false = none → p = (s, .fault (.staleHandle, 0))) ∧
         (∀ t, s.usable x.handle false = some t →
           let es : List Entry := if x.ended then [] else ((t.index (hSelector x.handle)).filter fun e =>
             decide (e.key ≤ x.hi) && match x.position with
               | some y => decide (y.1 < e.key) || (y.1 == e.key && decide (y.2 < e.ref))
               | none => decide (x.floor ≤ e.key)).take count
           p.2 = .done (words es) ∧ p.1.mem = s.mem ∧ p.1.tables = s.tables ∧
             Assoc.find (p.1.core c).cursors i = some { x with
               ended := x.ended || decide (es.length < count)
               position := match es.getLast? with
                 | some e => some (e.key, e.ref)
                 | none => x.position }))) ∧
     (∀ d a, o.instr = .cseek d a →
       let h := (o.words l).getD 2 0#32
       (h = 0#32 → p = (s, .done [0#32])) ∧
       (h ≠ 0#32 → k.cursor? o.slot o.gen h = none → p.2 = .fault (.staleHandle, 0) ∧
         (k.gen o.slot = o.gen → ∀ st, s.strand? c o.slot = some st → st.live.getLsbD l = true → l < st.width →
           ∃ x, p.1.strand? c o.slot = some x ∧ x.vlane d.toNat l = 0#32)) ∧
       (∀ i x, h ≠ 0#32 → k.cursor? o.slot o.gen h = some (i, x) →
         hRemote x.handle = true ∨ (s.usable x.handle false).isSome = true →
         p.2 = .done [h] ∧ Assoc.find (p.1.core c).cursors i =
           some { x with ended := false, position := none, floor := max (o.pair l 0) x.lo })))

/-- A write of bytes at a physical address while every bank set is active changes no byte but those it is given, and where
it meets no fault it stores them all (R282, R296, R297). -/
def Obligations.PhysicalWriteFrame : Prop :=
  ∀ (s : State) (w : Who) (pa : Nat) (bs : List Byte), (∀ b, (s.bank b).state = .active) →
    (∀ a, a < pa ∨ pa + bs.length ≤ a → (s.writePhys w pa bs).1.mem.byte a = s.mem.byte a) ∧
    ((s.writePhys w pa bs).2 = .ok () → ∀ i, i < bs.length →
      (s.writePhys w pa bs).1.mem.byte (pa + i) = bs.getD i 0#8)

/-- A word below its mode traps with *privileged instruction* in the lanes of an instruction-wide trap, before any other
check, and takes no effect: SRET, HCALL, TINV, CTXSV, CTXLD and KILL below S, HRET below H, MFPR and MTPR of a register
of S or H below it, and SREG of the trap cause below S (R66, R67). CTXSV and CTXLD are not ready while no future is free,
and then raise nothing (R339).
An instruction-wide trap with no active lane goes to the live lanes (log 8).
UNASSIGNED_OPCODE traps with *illegal instruction*. A word with a reserved field or an unused bit set traps with it too,
after the check of the mode of its opcode, and of the register that MFPR or MTPR names, which comes first (R53, R56, R64,
R66, R67).
A lane of LD, ST, ATOM, SLD, SST or SATOM whose address is no multiple of 4 is *misaligned*: where there is room for the word (R167, R310) it traps in
exactly those lanes, ahead of every other check of its operands, and takes no effect (R175, R207, R313). Ahead of it comes
*idempotence*, in exactly the lanes of SST and SATOM whose write reaches a granule of an open region's live-in set
(R313, R327). -/
def Obligations.IllegalWordsTrap : Prop :=
  (∀ (s : State) (st : Strand) (i : Instr), s.here? = some st → st.mode.code < minMode i →
     (∀ d a, i = .ctxsv d a ∨ i = .ctxld d a →
       s.noRoom [.future] { gRead := [a.toNat], gDest := [d.toNat] } {} st = none) →
     exec i s = .next (s.trapWord st (faultIn st.trapLanes .privileged))) ∧
  (∀ (s : State) (st : Strand), s.here? = some st →
     (∀ w, exec (.unassignedOpcode w) s = .next (s.trapWord st (faultIn st.trapLanes .illegalInstruction))) ∧
     (∀ w, wordMode w ≤ st.mode.code → refuseWord w s = .next (s.trapWord st (faultIn st.trapLanes .illegalInstruction))) ∧
     (∀ w, st.mode.code < wordMode w → refuseWord w s = .next (s.trapWord st (faultIn st.trapLanes .privileged))) ∧
     (∀ w : Word, w.extractLsb' 24 8 = 0xC4#8 ∨ w.extractLsb' 24 8 = 0xC5#8 →
       wordMode w = specialMode (w.extractLsb' 0 16).toNat)) ∧
  (∀ (s : State) (st : Strand) (i : Instr) (d a off : BitVec 8) (p : BitVec 7),
     (i = .ld d p off ∨ i = .st d p off ∨ i = .atom d p off ∨ i = .sld d a off ∨ i = .sst d a off ∨ i = .satom d a off) →
     Ready i (opUse i st.group.mode)
       { types := opModeOk i st.group.mode, ends := opEnds i st.group.mode } st s → st.active ≠ 0#64 →
     s.noRoom (opNeeds i) (opUse i st.group.mode)
       { types := opModeOk i st.group.mode, ends := opEnds i st.group.mode } st = none →
     let idem := (lanesOf st.active).filter fun l => opIdem s.cur.1 st (s.newOpHere i st) l
     let bad := (lanesOf st.active).filter fun l => (s.newOpHere i st).addr l % 4 != 0
     (idem = [] → bad ≠ [] → exec i s = .next (s.trapWord st (bad.map fun l => ⟨l, .misaligned, 0⟩))) ∧
     (idem ≠ [] → exec i s = .next (s.trapWord st (idem.map fun l => ⟨l, .idempotence, 0⟩))))

/-- A clause of up to eight words is illegal exactly when one of the nine points of R46 holds: bit 0 of the header; a flag
field of 12 to 14; more than two long-latency words; a flag missing for a long-latency word; a flag without one; one flag
twice; a last-read mark beyond the clause; a mark on a word without a vector field a; a word that must be the last and is
not.
CLAUSE_HEADER: a legal clause whose wait mask is satisfied is open, at the word at which it starts, and counted; the
registers of the strand are as they were (R43, R44, R46). An illegal one traps with *illegal clause* at its header before
any of its words, with no active lane in the live lanes (R47; log 8). -/
def Obligations.ClauseOpens : Prop :=
  (∀ (h : Word) (ws : List Word), ws.length ≤ 8 →
     let a := (h.extractLsb' 8 4).toNat
     let b := (h.extractLsb' 4 4).toNat
     let long := (ws.filter fun w => flagOps.contains (opOf w)).length
     clauseLegal h ws = false ↔
       h.getLsbD 0 = true ∨ (12 ≤ a ∧ a ≤ 14 ∨ 12 ≤ b ∧ b ≤ 14) ∨ 2 < long ∨
       (a = 15 ∧ 1 ≤ long ∨ b = 15 ∧ long = 2) ∨ (a ≠ 15 ∧ long = 0 ∨ b ≠ 15 ∧ long < 2) ∨ (a = b ∧ a ≠ 15) ∨
       (∃ i, i < 8 ∧ h.getLsbD (24 + i) = true ∧ ws.length ≤ i) ∨
       (∃ i w, h.getLsbD (24 + i) = true ∧ ws[i]? = some w ∧ opOf w ∉ vectorAOps) ∨
       (∃ i w, ws[i]? = some w ∧ opOf w ∈ lastOps ∧ i + 1 ≠ ws.length)) ∧
  (∀ (s s1 : State) (st : Strand) (l : BitVec 8) (w : BitVec 12) (a b : BitVec 4) (n : BitVec 3) (ws : List Word),
     s.here? = some st → st.clause = none →
     fetchWords (st.who s.cur.1) (n.toNat + 1) (st.pc + 4#64) s = (s1, .ok ws) →
     (clauseLegal (headerWord l w a b n) ws = true → waitDone (headerWord l w a b n) st.flags = true →
       st.pcIdx < ws.length → ∃ t x, exec (.clauseHeader l w a b n) s = .next t ∧ t.here? = some x ∧
         x.clause = some ⟨st.pc, headerWord l w a b n, ws, st.pcIdx⟩ ∧
         x = { st with clause := x.clause, wait := x.wait } ∧
         (t.core s.cur.1).counter 0x0001 = (s1.core s.cur.1).counter 0x0001 + 1#64) ∧
     (clauseLegal (headerWord l w a b n) ws = false → s1.awaitsLink s.cur.1 s.cur.2 = false →
       exec (.clauseHeader l w a b n) s =
         .next (s1.takeTrap s.cur.1 s.cur.2 (faultIn st.trapLanes .illegalClause) (st.pc, st.pcIdx))))

/-- SYSC and BKPT enter the S handler, and HCALL the H handler, in every active lane, once the strand has no operation in
flight and its frame can be written; a strand with two frames open enters H (R307, R309, R314).
TRAP_ENTRY: the strand whose one operation met a fault enters the S handler in the lanes that faulted, the lanes that
the operation completed hold its results within the handler (log 71), and it is no more in the list of the core: it stands
in the frame (R169, R309, R310). -/
def Obligations.HandlersEntered : Prop :=
  (∀ (s s2 : State) (st : Strand) (imm : BitVec 16) (i : Instr) (k : Cause) (hyp : Bool),
     (i = .sysc imm ∧ k = .systemCall ∧ hyp = decide (st.depth = 2)) ∨
       (i = .bkpt imm ∧ k = .breakpoint ∧ hyp = decide (st.depth = 2)) ∨ (i = .hcall imm ∧ k = .hypercall ∧ hyp = true) →
     Ready i {} { ends := true } st s → st.active ≠ 0#64 → (s.core s.cur.1).strandOps s.cur.2 = [] → st.depth < 3 →
     s.frameFor st hyp imm.toNat k = (s2, .ok ()) →
     ∃ t x, exec i s = .next t ∧ t.here? = some x ∧ st.inHandler x (s.core s.cur.1) hyp st.active ∧
       x.trapCause = wordCauses st k) ∧
  (∀ (s s2 : State) (c sl : Nat) (st : Strand) (o : Op),
     s.strand? c sl = some st → (s.core c).ops = [o] → o.slot = sl → o.gen = (s.core c).gen sl → o.faults ≠ [] →
     o.todo = 0#64 → isReplayed o.instr = true → st.inLatch = false → st.depth ≤ 1 → s.awaitsLink c sl = false →
     (∀ f ∈ o.faults, f.lane < 64 ∧ f.detail % 2 = 0) →
     s.writeFrame c sl st false st.point 0 (trapCauses st [o] []) [o] = (s2, .ok ()) →
     ∃ t x, exec (.trapEntry c sl) s = .next t ∧ t.strand? c sl = some x ∧
       x.pc = (s.core c).trapBase ∧ x.mode = .s ∧ x.prevMode = st.mode ∧ x.depth = st.depth + 1 ∧
       x.trapMask = maskOf (o.faults.map (·.lane)) ∧ x.v = (keepResults o st).v ∧ (t.core c).ops = [])

/-- A frame holds the resume point, the entries, the mode and the depth at their offsets, and a return from it gives back
what entry replaced: k0 to k3, g60 to g63, the mode register, ASTAT and ATEN, the mode, and the resume point (R308, R315,
Table 13-3).
SRET and HRET with no operation in flight and a readable frame without replay entries: the strand stands at the frame's
resume point in the frame's mode; at depth 1 no frame is open and no lane is in TRAPMASK, and above it the frame below gives
back TRAPMASK and the mode before. With no frame open they trap with *privileged instruction*, with no active lane in the
live lanes (R315; log 8). -/
def Obligations.ReturnsFromHandlers : Prop :=
  (∀ (st : Strand) (k : CoreSt) (hyp : Bool) (resume : DWord × Nat) (entries service : Nat) (causes : List (Nat × Word)),
     resume.2 < 8 → entries < 32 → st.depth < 3 → service < 65536 → st.group.rstack.length ≤ 32 →
     st.group.lstack.length ≤ 4 →
     let bs := frameBytes st resume entries (st.depth + 1) service (maskOf (causes.map (·.1))) causes
     let x := returned (enterHandler st k hyp causes [] []) bs none
     bs.length = 512 ∧ natOf (bs.take 8) = resume.1.toNat ∧ natOf ((bs.drop 8).take 1) = resume.2 ∧
     natOf ((bs.drop 9).take 1) = entries ∧ natOf ((bs.drop 12).take 2) = service ∧
     x.pc = resume.1 ∧ x.pcIdx = resume.2 ∧ x.mode = st.mode ∧ x.depth = st.depth ∧
     (∀ i, i < 4 → x.kr i = st.kr i ∧ x.gr (60 + i) = st.gr (60 + i)) ∧
     x.group.mode = st.group.mode ∧ x.group.astat = st.group.astat ∧ x.group.aten = st.group.aten ∧
     x.group.rstack = st.group.rstack ∧ x.group.lstack = st.group.lstack) ∧
  (∀ (s s1 : State) (st : Strand) (i : Instr) (note : FrameNote) (bs : List Byte),
     (i = .sret ∨ i = .hret) → Ready i {} { always := true } st s →
     ((s.core s.cur.1).strandOps s.cur.2 = [] → st.frames = [note] → note.wait = .none →
       (s.before {} { always := true } st).readFrame (st.who s.cur.1)
         ((s.core s.cur.1).frameAt note.hyp s.cur.2 st.depth) = (s1, .ok bs) → natOf ((bs.drop 9).take 1) = 0 →
       ∃ t x, exec i s = .next t ∧ t.here? = some x ∧ x.pc = BitVec.ofNat 64 (natOf (bs.take 8)) ∧
         x.mode = Priv.ofCode (natOf ((bs.drop 10).take 1)) ∧ x.depth = st.depth - 1 ∧ x.frames = [] ∧
         x.trapMask = 0#64 ∧ x.clause = none ∧ x.v = st.v ∧ x.p = st.p ∧ x.flags = st.flags) ∧
     (∀ (s2 : State) (o : FrameNote) (older : List FrameNote) (up : List Byte), (s.core s.cur.1).strandOps s.cur.2 = [] →
       st.frames = note :: o :: older → note.wait = .none →
       (s.before {} { always := true } st).readFrame (st.who s.cur.1)
         ((s.core s.cur.1).frameAt note.hyp s.cur.2 st.depth) = (s1, .ok bs) → natOf ((bs.drop 9).take 1) = 0 →
       s1.readV (st.who s.cur.1) ((s.core s.cur.1).frameAt o.hyp s.cur.2 (st.depth - 1)) 512 = (s2, .ok up) →
       ∃ t x, exec i s = .next t ∧ t.here? = some x ∧ x.pc = BitVec.ofNat 64 (natOf (bs.take 8)) ∧
         x.mode = Priv.ofCode (natOf ((bs.drop 10).take 1)) ∧ x.prevMode = Priv.ofCode (natOf ((up.drop 10).take 1)) ∧
         x.depth = st.depth - 1 ∧ x.frames = o :: older ∧ x.trapMask = BitVec.ofNat 64 (natOf ((up.drop 88).take 8)) ∧
         x.clause = none ∧ x.v = st.v ∧ x.p = st.p ∧ x.flags = st.flags) ∧
     (st.frames = [] → exec i s = .next (((s.before {} { always := true } st).trapWord st
       (faultIn st.trapLanes .privileged)).retireWord .stay)))

/-- MFPR gives g[D] the value of the privileged register, and writes nothing else. MTPR writes the register from g[D], so
that a read gives the bits that the register has: 5 of ASTAT and ATEN, 16 of DOMAIN, 10 of KEYID, 51:2 of TRAPBASE, 51:8
of TRAPFRAME, 51:20 of HTRAPBASE. TRAPCAUSE reads as that of the lowest lane in TRAPMASK, and as 0 without one; TRAPMASK as its
lanes; PRIVSTAT as the mode, the mode before, the depth, whether a region is open and whether a request is pending. A write
of these three has no effect (R305, R306, R316, Table 13-2). -/
def Obligations.PrivilegedRegisters : Prop :=
  ∀ (s : State) (st : Strand) (d : BitVec 6) (imm : BitVec 16), st.active ≠ 0#64 →
    (Ready (.mfpr d imm) { gDest := [d.toNat] } {} st s →
      exec (.mfpr d imm) s = .next (s.goesOn { gDest := [d.toNat] } st
        (st.setG d.toNat (privValue (s.core s.cur.1) st imm.toNat)))) ∧
    (let v := privValue (s.core s.cur.1) st imm.toNat
     let k := s.core s.cur.1
     (imm = 0 → v = st.group.astat.setWidth 64) ∧ (imm = 1 → v = st.group.aten.setWidth 64) ∧ (imm = 16 → v = k.trapBase) ∧
     (imm = 17 → (st.trapMask = 0#64 → v = 0#64) ∧ ∀ l, st.trapMask.getLsbD l = true →
       (∀ j < l, st.trapMask.getLsbD j = false) → v = (Assoc.get 0#32 st.trapCause l).setWidth 64) ∧
     (imm = 18 → v = k.trapFrame) ∧ (imm = 19 → v = st.trapMask) ∧
     (imm = 20 → st.depth ≤ 3 → v.toNat < 256 ∧ v.toNat % 4 = st.mode.code ∧ v.toNat / 4 % 4 = st.prevMode.code ∧
       v.toNat / 16 % 4 = st.depth ∧ v.getLsbD 6 = st.region.isSome ∧ v.getLsbD 7 = st.preempt.isSome) ∧
     (imm = 32 → v = k.hTrapBase) ∧ (imm = 33 → v = st.domain.setWidth 64) ∧ (imm = 34 → v = st.keyid.setWidth 64)) ∧
    (imm = 17 ∨ imm = 19 ∨ imm = 20 → Ready (.mtpr d imm) { gRead := [d.toNat] } {} st s →
      exec (.mtpr d imm) s = .next (s.goesOn { gRead := [d.toNat] } st st)) ∧
    (Ready (.mtpr d imm) { gRead := [d.toNat] } {} st s →
      ∃ t x, exec (.mtpr d imm) s = .next t ∧ t.here? = some (x.retire .seq) ∧
        x.group.g = st.group.g ∧ x.group.k = st.group.k ∧ x.v = st.v ∧ x.p = st.p ∧ t.mem = s.mem ∧
        (imm = 0 → privValue (t.core s.cur.1) x 0 = ((st.gr d.toNat).extractLsb' 0 5).setWidth 64) ∧
        (imm = 1 → privValue (t.core s.cur.1) x 1 = ((st.gr d.toNat).extractLsb' 0 5).setWidth 64) ∧
        (imm = 16 → privValue (t.core s.cur.1) x 16 = st.gr d.toNat &&& 0x000FFFFFFFFFFFFC#64) ∧
        (imm = 18 → privValue (t.core s.cur.1) x 18 = st.gr d.toNat &&& 0x000FFFFFFFFFFF00#64) ∧
        (imm = 32 → privValue (t.core s.cur.1) x 32 = st.gr d.toNat &&& 0x000FFFFFFFF00000#64) ∧
        (imm = 33 → privValue (t.core s.cur.1) x 33 = ((st.gr d.toNat).extractLsb' 0 16).setWidth 64) ∧
        (imm = 34 → privValue (t.core s.cur.1) x 34 = ((st.gr d.toNat).extractLsb' 0 10).setWidth 64))

/-- PHINT with no request pending, or within a handler, has no effect; with one it begins a save of the registers of its
live mask. IDEM opens a region with its live-in set, its place and the group-wide state; IDEND closes it. BWPHASE, GOPOL
and REJOIN write their fields. None writes anything else (R276, R278, R287, R321, R322, R326). -/
def Obligations.HintsRegionsAndPolicies : Prop :=
  ∀ (s : State) (st : Strand),
    (∀ a b, Ready (.phint a b) (liveUse a b) { always := true } st s → (st.liveMask a.toNat).toNat < 2 ^ st.nregs →
      exec (.phint a b) s = .next (s.goesOn (liveUse a b) st
        (if st.preempt.isSome = true ∧ st.depth = 0 then
          { st with wait := .saving 0 (st.liveMask a.toNat) (st.gr b.toNat) none } else st))) ∧
    (∀ a b, Ready (.idem a b) (liveUse a b) { always := true } st s → (st.liveMask a.toNat).toNat < 2 ^ st.nregs →
      exec (.idem a b) s = .next (s.goesOn (liveUse a b) st { st with
        region := some ⟨st.liveMask a.toNat, st.gr b.toNat, st.point.1, st.point.2, st.group⟩ })) ∧
    (Ready .idend {} { always := true } st s → exec .idend s = .next (s.goesOn {} st { st with region := none })) ∧
    (∀ n, st.active ≠ 0#64 → Ready (.bwphase n) {} {} st s →
      exec (.bwphase n) s = .next (s.goesOn {} st { st with group := { st.group with phase := n.toNat } })) ∧
    (∀ imm, st.active ≠ 0#64 → Ready (.gopol imm) {} {} st s →
      exec (.gopol imm) s = .next (s.goesOn {} st { st with group := { st.group with policy := imm.toNat } })) ∧
    (∀ imm, st.active ≠ 0#64 → Ready (.rejoin imm) {} {} st s →
      exec (.rejoin imm) s = .next (s.goesOn {} st { st with group := { st.group with window := imm } }))

/-- TINV makes the strand wait; TINV_DONE, once its accesses are performed, takes the entries that it names out of the TLB
of every core that it reaches, at one instant and out of no other, and the strand waits no more (R317; the cores
that it reaches without a block, log 30). With the scope of the Dolmond domain it first asks every other package that a route
leads to, and the entries go here, and the strand on, once all have answered (that these packages are the domain's is the choice
of log 35).
KILL of a strand that g[A] names, of the killer's domain below H, ends it: its slot is empty and of the next
generation. A value that names no such strand has no effect, nor, below H, has one that names a strand of another domain; a
value with a bit above 13 set is *illegal instruction* (R318, R92).
PERF gives g[D] the counter of its selector, for every selector of Table 13-8: 0 the core cycles; 0x1040 the cursors
open; 0x2000 the free granules; 0x3007 the rows held, 0x3008 and 0x3009 the launch and the block of the holder of the plane set (R262), and 0 where no
block holds that (the model's choice: DESIGN CHOICE, log 100); 0x4007 the continuation slots in use; in group 5 the free slots of tier 0 (log 53) and the counters of a stack; 0x6000 and 0x6001 the dropped
reports and the slow cycles; in group 7 the table's counter, or all ones for a handle that names no table of this package;
every other selector the core's own counter (R319, Table 13-8). -/
def Obligations.SystemWords : Prop :=
  (∀ (s : State) (st : Strand),
     (∀ a sc, st.active ≠ 0#64 → Ready (.tinv a sc) { gRead := [a.toNat] } {} st s →
       exec (.tinv a sc) s = .next (s.goesOn { gRead := [a.toNat] } st
         { st with wait := .tinv st.domain (st.gr a.toNat) sc.toNat (st.mode == .h) })) ∧
     (∀ c sl dom addr sc second, s.strand? c sl = some st → st.wait = .tinv dom addr sc second →
       s.accessesDone c sl = true → sc ≠ 3 ∨ s.otherPackages = [] → ∃ t, exec (.tinvDone c sl) s = .next t ∧
         t.strand? c sl = some { st with wait := .none } ∧ t.mem = s.mem ∧
         ∀ k, (t.core k).tlb = if k ∈ s.tinvCores c st sc
           then (s.core k).tlb.filter fun e => !e.removed dom addr second else (s.core k).tlb) ∧
     (∀ c sl dom addr second, s.strand? c sl = some st → st.wait = .tinv dom addr 3 second →
       s.accessesDone c sl = true → s.otherPackages ≠ [] → ∃ (t : State) (rs : List Nat), exec (.tinvDone c sl) s = .next t ∧
         t.strand? c sl = some { st with wait := .tinvFar dom addr second rs } ∧ t.mem = s.mem ∧
         (∀ k, (t.core k).tlb = (s.core k).tlb) ∧ rs.length = s.otherPackages.length ∧
         ∀ (n pkg : Nat), s.otherPackages[n]? = some pkg → ∃ r ∈ t.links.requests, rs[n]? = some r.id ∧ r.pkg = pkg ∧
           r.core = c ∧ r.slot = sl ∧ r.sent = s.timePs) ∧
     (∀ c sl dom addr second rs, s.strand? c sl = some st → st.wait = .tinvFar dom addr second rs →
       (rs ≠ [] → exec (.tinvDone c sl) s = .next s) ∧
       (rs = [] → ∃ t, exec (.tinvDone c sl) s = .next t ∧ t.strand? c sl = some { st with wait := .none } ∧ t.mem = s.mem ∧
         ∀ k, (t.core k).tlb = if k < Config.cores
           then (s.core k).tlb.filter fun e => !e.removed dom addr second else (s.core k).tlb))) ∧
  (∀ (s : State) (st : Strand) (a : BitVec 6), st.active ≠ 0#64 → Ready (.kill a) { gRead := [a.toNat] } {} st s →
     let g := st.gr a.toNat
     let c := s.cur.1
     (slice g 63 14 ≠ 0 → exec (.kill a) s = .next (s.trapWord st (faultIn st.active .illegalInstruction))) ∧
     (slice g 63 14 = 0 → ∀ x, s.strand? c (slice g 13 8) = some x → st.mode = .s → x.domain ≠ st.domain →
       exec (.kill a) s = .next (s.goesOn { gRead := [a.toNat] } st st)) ∧
     (slice g 63 14 = 0 → ∀ x, s.strand? c (slice g 13 8) = some x → (s.core c).gen (slice g 13 8) = g.setWidth 8 →
       (st.mode = .s → x.domain = st.domain) →
       ∃ t, exec (.kill a) s = .next t ∧ t.strand? c (slice g 13 8) = none ∧
         (t.core c).gen (slice g 13 8) = (s.core c).gen (slice g 13 8) + 1#8 ∧ t.mem = s.mem) ∧
     (slice g 63 14 = 0 → s.strand? c (slice g 13 8) = none ∨ (s.core c).gen (slice g 13 8) ≠ g.setWidth 8 →
       exec (.kill a) s = .next (s.goesOn { gRead := [a.toNat] } st st))) ∧
  (∀ (s : State) (st : Strand) (d : BitVec 6) (imm : BitVec 16), st.active ≠ 0#64 →
     let n := imm.toNat
     let k := s.core s.cur.1
     (n < 0x7000 → Ready (.perf d imm) { gDest := [d.toNat] } {} st s →
       ∃ v, exec (.perf d imm) s = .next (s.goesOn { gDest := [d.toNat] } st (st.setG d.toNat v)) ∧
         (n = 0x0000 → v = s.cycles) ∧
         (1 ≤ n ∧ n ≤ 0x103F ∨ n = 0x1041 ∨ n = 0x1042 ∨ 0x2001 ≤ n ∧ n ≤ 0x3006 ∨ 0x4000 ≤ n ∧ n ≤ 0x4006 ∨
           0x4011 ≤ n ∧ n ≤ 0x401B → v = k.counter n) ∧
         (n = 0x1040 → v = BitVec.ofNat 64 k.cursors.length) ∧
         (n = 0x2000 → v = BitVec.ofNat 64 ((List.range 64).filter k.granuleFree).length) ∧
         (n = 0x3007 → v = BitVec.ofNat 64 k.matrix.rows.length) ∧
         (∀ x, k.matrix.planes = some x → (n = 0x3008 → v = BitVec.ofNat 64 (launchNumber x.1)) ∧ (n = 0x3009 → v = x.2)) ∧
         (k.matrix.planes = none → n = 0x3008 ∨ n = 0x3009 → v = 0#64) ∧
         (n = 0x4007 → v = BitVec.ofNat 64 (s.contSlots s.cur.1)) ∧
         (∀ j i, j < 8 → i ≤ 12 → n = 0x5000 + 16 * j + i → v =
           if i < 4 then BitVec.ofNat 64 ((s.stackOf j).slots 0 i).length else Assoc.get 0#64 (s.stackOf j).counters i) ∧
         (n = 0x6000 → v = s.overflows) ∧ (n = 0x6001 → v = s.slow)) ∧
     (0x7000 ≤ n → Ready (.perf d imm) { gRead := [d.toNat], gDest := [d.toNat] } {} st s →
       hRemote (st.gr d.toNat) = false →
       exec (.perf d imm) s = .next (s.goesOn { gRead := [d.toNat], gDest := [d.toNat] } st (st.setG d.toNat
         (match s.usable (st.gr d.toNat) true with
         | none => ~~~ 0#64
         | some t => Assoc.get 0#64 t.counters (n % 4096))))))

/-- BAR arrives with its active threads and waits unless that completes the phase. BARA arrives with g[A] threads, gives
g[D] the phase in which it arrived, and does not wait. BARW goes on where the phase of g[A] is complete, and else waits.
BARINIT sets the expected count, which may complete the phase, and mends a broken barrier (R330, R333).
A barrier word without a barrier of its number traps with *illegal instruction*; BAR, BARA and BARW at a broken barrier
trap with *barrier broken*; none of them arrives (R331, R337). -/
def Obligations.BarrierWords : Prop :=
  (∀ (s : State) (st : Strand) (n : BitVec 4) (b : Block) (x : Barrier), st.active ≠ 0#64 →
     s.barrierOf st n.toNat = some (b, x) →
     (Ready (.bar n) {} {} st s → x.broken = false → s.accessesDone s.cur.1 s.cur.2 = true →
       ∃ t y b', exec (.bar n) s = .next t ∧ t.here? = some y ∧ t.mem = s.mem ∧
         t.barrierOf st n.toNat = some (b', x.arrivedBy (popCount st.active)) ∧
         y = { st.retire .seq with wait :=
           if x.expected ≤ x.arrived + popCount st.active then .none else .bar n.toNat x.phase st.active }) ∧
     (∀ d a : BitVec 6, Ready (.bara d a n) { gRead := [a.toNat], gDest := [d.toNat] } {} st s → x.broken = false →
       s.accessesDone s.cur.1 s.cur.2 = true → (st.gr a.toNat).toNat ≤ 32768 →
       ∃ t y b', exec (.bara d a n) s = .next t ∧ t.here? = some y ∧ t.mem = s.mem ∧
         y.group = (st.setG d.toNat (x.phase.setWidth 64) |>.retire .seq).group ∧
         t.barrierOf st n.toNat = some (b',
           if st.gr a.toNat = 0#64 then x else x.arrivedBy (st.gr a.toNat).toNat)) ∧
     (∀ a : BitVec 6, Ready (.barw a n) { gRead := [a.toNat] } {} st s → x.broken = false →
       exec (.barw a n) s = .next (s.goesOn { gRead := [a.toNat] } st
         (if 1 ≤ (x.phase - lo32 (st.gr a.toNat)).toNat ∧ (x.phase - lo32 (st.gr a.toNat)).toNat ≤ 2 ^ 31 - 1 then st
         else { st with wait := .barw n.toNat (lo32 (st.gr a.toNat)) st.active }))) ∧
     (∀ a : BitVec 6, Ready (.barinit a n) { gRead := [a.toNat] } {} st s → 1 ≤ (st.gr a.toNat).toNat →
       (st.gr a.toNat).toNat ≤ 32768 →
       ∃ t b', exec (.barinit a n) s = .next t ∧ t.mem = s.mem ∧
         t.barrierOf st n.toNat = some (b',
           ({ x with expected := (st.gr a.toNat).toNat, broken := false, arrived := if x.broken then 0 else x.arrived }
             : Barrier).arrivedBy 0))) ∧
  (∀ (s : State) (st : Strand) (n : BitVec 4) (d a : BitVec 6) (i : Instr) (u : Use), st.active ≠ 0#64 →
     (i = .bar n ∧ u = {}) ∨ (i = .bara d a n ∧ u = { gRead := [a.toNat], gDest := [d.toNat] }) ∨
       (i = .barw a n ∧ u = { gRead := [a.toNat] }) ∨ (i = .barinit a n ∧ u = { gRead := [a.toNat] }) →
     Ready i u {} st s →
     (s.barrierOf st n.toNat = none → exec i s = .next (s.trapWord st (faultIn st.active .illegalInstruction))) ∧
     (∀ b x, s.barrierOf st n.toNat = some (b, x) → x.broken = true → i ≠ .barinit a n →
       (i = .bara d a n → (st.gr a.toNat).toNat ≤ 32768) →
       exec i s = .next (s.trapWord st (faultIn st.active .barrierBroken))))

/-- FTEST writes whether the operation of g[A] is complete, a value that names none counting as complete. FWAIT gives g[A]
the status of a complete one, 0x3E where it names none, and else waits. FCANCEL marks the operation, or its launch, as
cancelled, withdraws a request of CTXSV whose save has not begun, which completes with 0x3F, with a save that a trap has
interrupted, and has no effect on a complete
one; a promotion at another package is cancelled there, or, where the request has not left for it, completes with 0x3F (R295;
log 35). A pending g[A] is no trap (R344, R345). -/
def Obligations.FutureWords : Prop :=
  ∀ (s : State) (st : Strand) (a : BitVec 6), st.active ≠ 0#64 →
    let form : Form := { waits := false, quiet := true }
    (∀ d : BitVec 4, Ready (.ftest d a) { gRead := [a.toNat] } form st s →
      exec (.ftest d a) s = .next (s.goesOn { gRead := [a.toNat] } st (st.setQ d.toNat
        (match s.named? s.cur.1 (st.gr a.toNat) with
        | none => true
        | some x => x.2.done)))) ∧
    (Ready (.fwait a) { gRead := [a.toNat] } form st s →
      (s.named? s.cur.1 (st.gr a.toNat) = none → ∃ t, exec (.fwait a) s = .next t ∧
        t.here? = some ((st.setG a.toNat 0x3E#64).retire .seq)) ∧
      (∀ i f, s.named? s.cur.1 (st.gr a.toNat) = some (i, f) → f.done = true → ∃ t, exec (.fwait a) s = .next t ∧
        t.here? = some ((st.setG a.toNat f.status).retire .seq)) ∧
      (∀ i f, s.named? s.cur.1 (st.gr a.toNat) = some (i, f) → f.done = false →
        exec (.fwait a) s = .next (s.goesOn { gRead := [a.toNat] } st { st with wait := .future i a.toNat }))) ∧
    (Ready (.fcancel a) { gRead := [a.toNat] } form st s →
      (∀ x, s.named? s.cur.1 (st.gr a.toNat) = x → (x.map fun y => y.2.done) ≠ some false →
        exec (.fcancel a) s = .next (s.goesOn { gRead := [a.toNat] } st st)) ∧
      (∀ i f, s.named? s.cur.1 (st.gr a.toNat) = some (i, f) → f.done = false →
        ((f.kind = .matrix ∨ (∃ r, f.kind = .promo r ∧ refRemote r.toNat = false) ∨ (∃ ws k, f.kind = .gath ws k) ∨
            (∃ r x n m, f.kind = .gathRemote r x n m) ∨ ∃ r x g q, f.kind = .gathFar r x g q) →
          ∃ t, exec (.fcancel a) s = .next t ∧ t.here? = some (st.retire .seq) ∧
            Assoc.find (t.core s.cur.1).futures i = some { f with cancel := true }) ∧
        (∀ ref r, f.kind = .promo ref → refRemote ref.toNat = true →
          (s.links.requests.find? fun r => r.core == s.cur.1 && r.op == f.serial && r.slot == 256 + i) = some r →
          (s.links.sent r.id = true → ∃ t, exec (.fcancel a) s = .next t ∧ t.here? = some (st.retire .seq) ∧
            Assoc.find (t.core s.cur.1).futures i = some { f with cancel := true } ∧
            t.links = (s.sendTo r.pkg (.cancel Config.packageNumber r.id)).links) ∧
          (s.links.sent r.id = false → f.binding ≠ [] → (s.core s.cur.1).awaited i f.serial = false →
            ∃ t, exec (.fcancel a) s = .next t ∧ (∀ x ∈ t.links.requests, x.id ≠ r.id) ∧
              Assoc.find (t.core s.cur.1).futures i = some { f with cancel := true, done := true, status := 0x3F#64 })) ∧
        (∀ n l, f.kind = .launch n → Assoc.find s.launches n = some l →
          ∃ t, exec (.fcancel a) s = .next t ∧ t.here? = some (st.retire .seq) ∧
            Assoc.find t.launches n = some { l with cancelled := true }) ∧
        (∀ sl x p, f.kind = .ctxsv sl ((s.core s.cur.1).gen sl) → sl ≠ s.cur.2 → s.strand? s.cur.1 sl = some x →
          x.preempt = some p → p.future = some (s.cur.1, i) → x.wait = .none → f.binding ≠ [] →
          (s.core s.cur.1).awaited i f.serial = false →
          ∃ t, exec (.fcancel a) s = .next t ∧ t.strand? s.cur.1 sl = some x.withdrawn ∧
            x.withdrawn = { x with preempt := none, frames := x.frames.map fun n => { n with wait := n.wait.unsaved } } ∧
            Assoc.find (t.core s.cur.1).futures i = some { f with done := true, status := 0x3F#64 })))

/-- LAUNCH takes a future and, with an accepted record, adds a launch of that record to the queues, not started; a refused
record completes the future with its status; in an open maintenance window LAUNCH waits (R362; log 84). GATH takes a future
and a table request entry for each active lane, and works out what it will write; bits 31:0 of g[A] and g[B] name its record
and its destination (log 78). PROMO leaves its work to its own step. CTXLD reads its area and leaves the rest to its own
step; CTXSV places its request at the strand it names, and completes with 0x3E for a strand that has one (R97, R115, R167,
R190, R230, R295, R320, R325).
GATH_COMPLETE performs the writes of a gather and completes its future with its status, or that of the first write that
met a sector it could not merge with (log 57). PROMO_COMPLETE completes with 0x10 for a reference that is not far, with 0
for a block in tier 0, which stays where it is, and with 0x3D for one in another tier when no stack has a slot of its class.
Where the stack with the most free slots has one, the sectors of the block are copied to it as they lie, the entry names it
in tier 0 at one instant, the old slot is free again, and the status is 0, or 0x16 where a sector could not be read and is
poison at its new place (R191, R231, R295-R297). A future that a register is bound to stays, with its status, until the
register is read. -/
def Obligations.OperationsWithFutures : Prop :=
  (∀ (s s1 s2 : State) (st : Strand) (d a b : BitVec 6) (i : Nat), st.active ≠ 0#64 →
     let c := s.cur.1
     let u : Use := { gRead := [a.toNat], gDest := [d.toNat] }
     (Ready (.launch d a) u { ends := true } st s → s.noRoom [.future] u { ends := true } st = none → s.windowOpen = true →
       exec (.launch d a) s = .next s) ∧
     (∀ r, Ready (.launch d a) u { ends := true } st s → s.accessesDone c s.cur.2 = true → s.windowOpen = false →
       s.taking s1 u { ends := true } st d.toNat i (.launch s.nextLaunch) [] 0 →
       s1.readRecord (st.who c) (st.gr a.toNat).toNat (st.mode == .h) = (s2, .ok r) →
       ∃ t l, exec (.launch d a) s = .next t ∧ Assoc.find t.launches s2.nextLaunch = some l ∧ l.record = r ∧
         l.started = false ∧ l.threads = 0 ∧ l.complete = false ∧ l.future = some (c, i) ∧
         t.nextLaunch = s2.nextLaunch + 1) ∧
     (∀ k, Ready (.launch d a) u { ends := true } st s → s.accessesDone c s.cur.2 = true → s.windowOpen = false →
       s.taking s1 u { ends := true } st d.toNat i (.launch s.nextLaunch) [] 0 →
       s1.readRecord (st.who c) (st.gr a.toNat).toNat (st.mode == .h) = (s2, .error k) →
       exec (.launch d a) s = .next ((s2.completeFuture c i k).retireWord .seq)) ∧
     (∀ r, let u : Use := { gRead := [a.toNat, b.toNat], gDest := [d.toNat] }
       let x := (lo32 (st.gr a.toNat)).toNat
       let dest := lo32 (st.gr b.toNat)
       let y := s.before u {} st
       Ready (.gath d a b) u {} st s → s.gathIdem st x dest.toNat = false → s.accessesDone c s.cur.2 = true →
       (y.core c).requests + popCount st.active ≤ 2048 →
       s.taking s1 u {} st d.toNat i (.gath [] 0) (y.gathRanges c st x dest.toNat) (popCount st.active) →
       (s1.gathRecord c st x dest.toNat = .ok r →
         exec (.gath d a b) s = .next ((s1.gather c i st x r dest).retireWord .seq)) ∧
       (∀ k, s1.gathRecord c st x dest.toNat = .error k →
         ∃ t f, exec (.gath d a b) s = .next t ∧ Assoc.find (t.core c).futures i = some f ∧ f.kind = .gath [] k ∧
           f.done = false ∧ f.entries = popCount st.active)) ∧
     (Ready (.promo d a) u {} st s → s.taking s1 u {} st d.toNat i (.promo (st.gr a.toNat)) [] 0 →
       refRemote (st.gr a.toNat).toNat = false →
       ∃ t, exec (.promo d a) s = .next t ∧ t.hasFuture st c i d.toNat (.promo (st.gr a.toNat)) ∧ t.mem = s.mem) ∧
     (let area := slice (st.gr a.toNat) 51 14 * 2 ^ 14;
       Ready (.ctxld d a) u {} st s → s.accessesDone c s.cur.2 = true → slice (st.gr a.toNat) 63 52 = 0 →
       s.taking s1 u {} st d.toNat i (.ctxld area) [] 0 →
       exec (.ctxld d a) s = .next ((s1.queueRestore c area (some st.domain) (some i)).retireWord .seq) ∧
       ∃ t x, exec (.ctxld d a) s = .next t ∧ t.hasFuture st c i d.toNat (.ctxld area) ∧
         (t.core c).restores = (s.core c).restores ++ [x] ∧ x.area = area ∧ x.domain = some st.domain ∧ x.future = some i) ∧
     (∀ x, Ready (.ctxsv d a) u {} st s → slice (st.gr a.toNat) 63 52 = 0 →
       s.taking s1 u {} st d.toNat i (.ctxsv (slice (st.gr a.toNat) 13 8) ((st.gr a.toNat).setWidth 8)) [] 0 →
       slice (st.gr a.toNat) 13 8 ≠ s.cur.2 → s.strand? c (slice (st.gr a.toNat) 13 8) = some x →
       (s.core c).gen (slice (st.gr a.toNat) 13 8) = (st.gr a.toNat).setWidth 8 → x.domain = st.domain →
       (x.preempt = none → ∃ t, exec (.ctxsv d a) s = .next t ∧ t.strand? c (slice (st.gr a.toNat) 13 8) =
         some { x with preempt := some ⟨slice (st.gr a.toNat) 51 14 * 2 ^ 14, some st.domain, some (c, i), 0⟩ }) ∧
       (x.preempt ≠ none → exec (.ctxsv d a) s = .next ((s1.completeFuture c i 0x3E).retireWord .seq)))) ∧
  (∀ (s : State) (c i : Nat) (f : Future), Assoc.find (s.core c).futures i = some f → f.done = false → f.cancel = false →
     f.binding ≠ [] → (s.core c).awaited i f.serial = false →
     (∀ writes status s' k, f.kind = .gath writes status → State.gathWrite c f writes s = (s', k) →
       let code : Nat := if status = 0 then (k.map Cause.code).getD 0 else status;
       ∃ t, exec (.gathComplete c i) s = .next t ∧
       Assoc.find (t.core c).futures i = some { f with done := true, status := BitVec.ofNat 64 code } ∧
       t.mem = s.mem ∧ ∀ n, (t.core n).scratch = (s'.core n).scratch) ∧
     (∀ ref, f.kind = .promo ref → c ≠ Config.cores → isFar ref.toNat = false → ∃ t, exec (.promoComplete c i) s = .next t ∧
       Assoc.find (t.core c).futures i = some { f with done := true, status := 0x10#64 } ∧ t.mem = s.mem) ∧
     (∀ ref s' e, f.kind = .promo ref → c ≠ Config.cores → isFar ref.toNat = true → farTier ref.toNat ≠ 3 →
       farPackage ref.toNat = Config.packageNumber →
       s.readEntry ⟨c, f.domain, f.keyid, f.priv, f.launch⟩ (farBlock ref.toNat) = (s', .ok e) →
       s'.blockForeign f.domain (farBlock ref.toNat) = false →
       (e.tier = 0 → ∃ t, exec (.promoComplete c i) s = .next t ∧
         Assoc.find (t.core c).futures i = some { f with done := true, status := 0#64 } ∧ t.mem = s'.mem) ∧
       (e.tier ≠ 0 → ((s'.stackOf (s'.roomiest e.cls)).slots 0 e.cls) = [] → ∃ t, exec (.promoComplete c i) s = .next t ∧
         Assoc.find (t.core c).futures i = some { f with done := true, status := 0x3D#64 } ∧ t.mem = s'.mem) ∧
       (∀ slot rest s1 xs bad, e.tier ≠ 0 →
         let n := farBlock ref.toNat
         let st := s'.roomiest e.cls
         (s'.stackOf st).slots 0 e.cls = slot :: rest → slot % 4096 = 0 → slot < 2 ^ 39 →
         State.copySectors ⟨c, f.domain, f.keyid, f.priv, f.launch⟩ (s'.usedSectors e) s' = (s1, xs, bad) →
         ∃ t, exec (.promoComplete c i) s = .next t ∧ t.blockBase = s.blockBase ∧
           Assoc.find (t.core c).futures i = some { f with done := true, status := if bad then 0x16#64 else 0#64 } ∧
           t.blockEntry n = ⟨true, 0, e.cls, slot⟩ ∧ (t.stackOf st).slots 0 e.cls = rest ∧
           (t.stackOf (e.stack n)).slots e.tier e.cls = (s'.stackOf (e.stack n)).slots e.tier e.cls ++ [e.slot] ∧
           ∀ k y, xs[k]? = some y → slot / 32 + k ≠ s'.entrySector n → t.mem.sector (slot / 32 + k) = y)))

/-- FENCE joins the strand's operations, unless its order is rlx or nothing older is in flight, when it has no effect; POST
joins them with the address of the launch's result word and g[A] for one lane, or has no effect without a result word; the
result word of another package's launch is known there, so POST joins all the same (logs 31, 35);
CCLOSE frees exactly the cursors that valid handles of active lanes name. None touches memory or a register (R188, R225,
R347). -/
def Obligations.FencePostAndClose : Prop :=
  ∀ (s : State) (st : Strand), st.active ≠ 0#64 →
    let c := s.cur.1
    let ends := (modeOrder st.group.mode).releases
    (Ready .fence {} { types := modeScope st.group.mode != .row, ends := ends } st s → ∃ t, exec .fence s = .next t ∧
      t.here? = some ((if ends then { st with region := none } else st).retire .seq) ∧ s.sameOutside t c ∧
      (t.core c).ops = if (s.core c).strandOps s.cur.2 = [] ∨ modeOrder st.group.mode = .rlx then (s.core c).ops
        else (s.core c).ops ++ [{ s.newOpHere .fence st with todo := 0#64 }]) ∧
    (∀ a, Ready (.post a) { gRead := [a.toNat] } { ends := true } st s → ∃ t, exec (.post a) s = .next t ∧
      t.here? = some ({ st with region := none }.retire .seq) ∧ s.sameOutside t c ∧
      ∀ addr, addr = (match Assoc.find s.launches st.launch with
        | some l => l.record.result
        | none => 0#64) →
      (addr = 0#64 ∧ launchOwn st.launch = true → (t.core c).ops = (s.core c).ops) ∧
      (addr ≠ 0#64 ∨ launchOwn st.launch = false → ∃ o, (t.core c).ops = (s.core c).ops ++ [o] ∧ popCount o.todo = 1 ∧ o.lanes = st.active ∧
        ∀ l, o.todo.getLsbD l = true → l < 64 → o.pair l 0 = addr.toNat ∧ o.pair l 2 = (st.gr a.toNat).toNat)) ∧
    (∀ a : BitVec 8, Ready (.cclose a) { aRegs := [a.toNat] } {} st s → ∃ t, exec (.cclose a) s = .next t ∧
      t.here? = some ((st.freeMarked { aRegs := [a.toNat] }).retire .seq) ∧ s.sameOutside t c ∧
      ∀ i, Assoc.find (t.core c).cursors i =
        if (lanesOf st.active).any (fun l => ((s.core c).cursor? s.cur.2 ((s.core c).gen s.cur.2)
            (st.vlane a.toNat l)).map (·.1) == some i) then none
        else Assoc.find (s.core c).cursors i)

/-- CPY, CPYS and CPYO join the copy queue, in the open batch, when it has fewer than 256 entries; with 256 the word is not
ready, which is counted once, and nothing moves. CBATCH gives the number of the open batch and opens the next; CWAIT goes on
when no copy of a closed batch up to g[A] is in the queue, and else is not ready (R206, R208, R209, R212, R213).
COPY_COMPLETE takes the entry out of the queue and counts the bytes moved; a fault that the copy met is delivered to the
lanes that were active at its issue, if its strand is there. A copy within scratch of good sectors stores the bytes of its
source at its destination, whatever the two overlap, and no byte of memory (R206, R210, R211). -/
def Obligations.Copies : Prop :=
  (∀ (s : State) (st : Strand), st.active ≠ 0#64 →
     let c := s.cur.1
     (∀ (d a b : BitVec 6) (i : Instr) (kind : CopyKind),
       (i = .cpy d a b ∧ kind = .toScratch) ∨ (i = .cpys d a b ∧ kind = .within) ∨ (i = .cpyo d a b ∧ kind = .toMemory) →
       Ready i { gRead := [d.toNat, a.toNat, b.toNat] } {} st s → s.mayCopy st kind d.toNat a.toNat b.toNat →
       (kind = .toMemory ∨ st.idemSpan c (st.gr b.toNat).toNat (st.gr d.toNat).toNat = false) →
       ((s.core c).copies.length < 256 → ∃ t q, exec i s = .next t ∧ t.here? = some (st.retire .seq) ∧ s.sameOutside t c ∧
         (t.core c).copies = (s.core c).copies ++ [q] ∧ q.kind = kind ∧ q.len = (st.gr d.toNat).toNat ∧
         q.src = st.gr a.toNat ∧ q.dst = st.gr b.toNat ∧ q.batch = st.group.batch ∧ q.slot = s.cur.2 ∧
         q.gen = (s.core c).gen s.cur.2 ∧ q.lanes = st.active ∧ (t.core c).scratch = (s.core c).scratch ∧
         (t.core c).counter 0x2004 = (s.core c).counter 0x2004 + 1#64) ∧
       (256 ≤ (s.core c).copies.length → ∃ t, exec i s = .next t ∧ t.here? = some { st with stalled := 2 } ∧
         s.sameOutside t c ∧ (t.core c).copies = (s.core c).copies ∧ (t.core c).scratch = (s.core c).scratch ∧
         (t.core c).counter 0x2006 = if st.stalled = 2 then (s.core c).counter 0x2006
           else (s.core c).counter 0x2006 + 1#64)) ∧
     (∀ d : BitVec 6, Ready (.cbatch d) { gDest := [d.toNat] } {} st s →
       exec (.cbatch d) s = .next (s.goesOn { gDest := [d.toNat] } st
         (let x := st.setG d.toNat (st.group.batch.setWidth 64)
          { x with group := { x.group with batch := st.group.batch + 1#32 } }))) ∧
     (∀ a : BitVec 6, Ready (.cwait a) { gRead := [a.toNat] } {} st s →
       exec (.cwait a) s = .next (if ∃ q ∈ (s.core c).copies, q.slot = s.cur.2 ∧ q.gen = (s.core c).gen s.cur.2 ∧
           q.batch ≠ st.group.batch ∧ (lo32 (st.gr a.toNat) - q.batch).toNat < 2 ^ 31 then s
         else s.goesOn { gRead := [a.toNat] } st st))) ∧
  (∀ (s s1 : State) (c n : Nat) (q : CopyOp) (x : CopyTally), (s.core c).copies[n]? = some q → s.moveCopy c q = (s1, x) →
     ∃ t, exec (.copyComplete c n) s = .next t ∧ (t.core c).copies = (s1.core c).copies.eraseIdx n ∧ t.mem = s1.mem ∧
       (t.core c).counter 0x2005 = (s1.core c).counter 0x2005 + BitVec.ofNat 64 x.moved ∧
       (∀ k, (t.core k).scratch = (s1.core k).scratch) ∧
       (x.fault = none → (t.core c).ops = (s1.core c).ops) ∧
       (∀ f, x.fault = some f → (s1.core c).gen q.slot = q.gen → ∃ o, (t.core c).ops = (s1.core c).ops ++ [o] ∧
         o.slot = q.slot ∧ o.gen = q.gen ∧ o.todo = 0#64 ∧ o.faults = faultIn q.lanes f.1 f.2) ∧
       (q.kind = .within → t.mem = s.mem ∧
         let src := s.scratchPlace c q.src.toNat
         let dst := s.scratchPlace c q.dst.toNat
         ((s.core src.1).badRange src.2 q.len = none → (s.core dst.1).badRange dst.2 q.len = none →
           x.fault = none ∧ x.moved = q.len ∧
           ∀ k a, Assoc.get 0#8 (t.core k).scratch a = if k = dst.1 ∧ dst.2 ≤ a ∧ a < dst.2 + q.len
             then Assoc.get 0#8 (s.core src.1).scratch (src.2 + (a - dst.2)) else Assoc.get 0#8 (s.core k).scratch a)))

/-- BALLOC gives a member the lowest run of g[A] free granules of its core as a buffer that the core holds; for 0 the handle
of its block's portion on the core, or 0 where it has none; and 0, counted, where it can give none (R200).
BGIVE, BFREE and a PUBL that swaps or retires make the strand wait with the handle of a buffer that its core holds for
its block; a PUBL that declares takes effect at once. BTAKE takes the oldest handle queued for its block and its core
becomes the holder, or gives 0. Under a handle that names no such buffer BGIVE and BFREE trap with *ownership*, BGIVE also for
a published buffer, a core of another cluster and one without a strand of the block; a BGIVE that finds the queue of its target
full is counted once, at issue (log 48) (R201-R204, R206, R233). -/
def Obligations.BufferWords : Prop :=
  (∀ (s : State) (st : Strand) (d a : BitVec 6), st.active ≠ 0#64 →
     let c := s.cur.1
     let n := (st.gr a.toNat).toNat
     let st' : Strand := { st with region := none }
     Ready (.balloc d a) { gRead := [a.toNat], gDest := [d.toNat] } { ends := true } st s →
     (∀ f, st.member = true → 1 ≤ n → n ≤ 64 → (s.core c).freeRun n = some f →
       ∃ t b, exec (.balloc d a) s = .next t ∧ (t.core c).buffers = (s.core c).buffers ++ [b] ∧ b.first = f ∧ b.count = n ∧
         b.holder = some c ∧ b.launch = st.launch ∧ b.block = st.block ∧ b.publ = none ∧
         t.here? = some ((st'.setG d.toNat ((b.handle c).setWidth 64)).retire .seq) ∧ s.sameOutside t c) ∧
     (st.member = true → n = 0 →
       exec (.balloc d a) s = .next (s.goesOn { gRead := [a.toNat], gDest := [d.toNat] } st (st'.setG d.toNat
         (match (s.core c).buffers.find? fun b => b.portion && b.launch == st.launch && b.block == st.block with
         | some b => (b.handle c).setWidth 64
         | none => 0#64)))) ∧
     (st.member = false ∨ 64 < n ∨ (1 ≤ n ∧ (s.core c).freeRun n = none) →
       ∃ t, exec (.balloc d a) s = .next t ∧ t.here? = some ((st'.setG d.toNat 0#64).retire .seq) ∧
         (t.core c).buffers = (s.core c).buffers ∧
         (t.core c).counter 0x2001 = (s.core c).counter 0x2001 + 1#64 ∧ s.sameOutside t c)) ∧
  (∀ (s : State) (st : Strand), st.active ≠ 0#64 →
     let c := s.cur.1
     let st' : Strand := { st with region := none }
     (∀ (d row col : BitVec 6) (b : Buffer), Ready (.bgive d row col) { gRead := [d.toNat] } { ends := true } st s →
       s.heldBuffer c st (lo32 (st.gr d.toNat)) = some b → b.publ = none →
       coreAt row.toNat col.toNat / 8 = c / 8 → s.holdsStrand (coreAt row.toNat col.toNat) st.launch st.block = true →
       ∃ t full, exec (.bgive d row col) s = .next t ∧ s.mem = t.mem ∧
         full = decide ((s.core (coreAt row.toNat col.toNat)).handOver.length = 64) ∧
         t.here? = some ({ st' with wait := .bgive (lo32 (st.gr d.toNat)) (coreAt row.toNat col.toNat) full }.retire .seq) ∧
         (t.core c).counter 0x2003 = (s.core c).counter 0x2003 + (if full then 1#64 else 0#64)) ∧
     (∀ (d row col : BitVec 6), Ready (.bgive d row col) { gRead := [d.toNat] } { ends := true } st s →
       (∀ b, s.heldBuffer c st (lo32 (st.gr d.toNat)) = some b → b.publ ≠ none ∨
         coreAt row.toNat col.toNat / 8 ≠ c / 8 ∨ s.holdsStrand (coreAt row.toNat col.toNat) st.launch st.block = false) →
       exec (.bgive d row col) s = .next (s.trapWord st (faultIn st.active .ownership))) ∧
     (∀ (a : BitVec 6), Ready (.bfree a) { gRead := [a.toNat] } { ends := true } st s →
       (s.heldBuffer c st (lo32 (st.gr a.toNat)) ≠ none →
         exec (.bfree a) s = .next (s.goesOn { gRead := [a.toNat] } st
           { st' with wait := .bfree (lo32 (st.gr a.toNat)) })) ∧
       (s.heldBuffer c st (lo32 (st.gr a.toNat)) = none →
         exec (.bfree a) s = .next (s.trapWord st (faultIn st.active .ownership)))) ∧
     (∀ (a : BitVec 6) (b : Buffer), Ready (.publ a) { gRead := [a.toNat] }
         { types := modeScope st.group.mode != .row, ends := true } st s →
       s.heldBuffer c st (lo32 (st.gr a.toNat)) = some b → slice (st.gr a.toNat) 63 34 = 0 →
       (slice (st.gr a.toNat) 33 32 = 1 → b.publ = none → b.count % 2 = 0 → s.published c < 8 →
         ∃ t, exec (.publ a) s = .next t ∧ t.here? = some (st'.retire .seq) ∧
           t.buffer? c (lo32 (st.gr a.toNat)) = some { b with publ := some ⟨true⟩ }) ∧
       (slice (st.gr a.toNat) 33 32 = 0 ∨ slice (st.gr a.toNat) 33 32 = 2 → b.publ ≠ none →
         exec (.publ a) s = .next (s.goesOn { gRead := [a.toNat] } st
           { st' with wait := .publ (lo32 (st.gr a.toNat)) (slice (st.gr a.toNat) 33 32) }))) ∧
     (∀ d : BitVec 6, Ready (.btake d) { gDest := [d.toNat] } { ends := true } st s →
       (∀ older h rest b, (s.core c).handOver = older ++ h :: rest →
         (∀ x ∈ older, ¬ (x.launch = st.launch ∧ x.block = st.block)) → st.member = true → h.launch = st.launch →
         h.block = st.block → s.buffer? c h.handle = some b →
         ∃ t, exec (.btake d) s = .next t ∧ t.here? = some ((st'.setG d.toNat (h.handle.setWidth 64)).retire .seq) ∧
           (t.core c).handOver = older ++ rest ∧ t.buffer? c h.handle = some { b with holder := some c }) ∧
       ((∀ x ∈ (s.core c).handOver, ¬ (st.member = true ∧ x.launch = st.launch ∧ x.block = st.block)) →
         exec (.btake d) s = .next (s.goesOn { gDest := [d.toNat] } st (st'.setG d.toNat 0#64)))))

/-- BGIVE_TRANSFER, once nothing in flight names the buffer, puts its handle at the end of the target's queue, and nobody
holds it; BFREE_RELEASE takes the buffer away, its granules to be cleared; GRANULE_CLEAR_DONE makes them zero;
PUBL_SWAP_OR_RETIRE exchanges the visible half, or ends the publication. The strand then waits no more. After a swap every
offset of the buffer reaches what the half that was not visible held; after a retirement offsets of the first half reach what
the visible half held, and those of the second half what the other did. No other byte of any scratchpad is changed (R201,
R202, R204, R205, R232, R233). -/
def Obligations.BufferSteps : Prop :=
  ∀ (s : State) (c sl : Nat) (st : Strand) (h : Word) (b : Buffer),
    s.strand? c sl = some st → s.buffer? c h = some b →
    (∀ t k, st.wait = .bgive h t k → s.bufferBusy (handleHome c h) b = false → s.accessesDone c sl = true →
      (s.core t).handOver.length < 64 →
      ∃ x, exec (.bgiveTransfer c sl) s = .next x ∧ x.buffer? c h = some { b with holder := none } ∧
        (x.core t).handOver = (s.core t).handOver ++ [⟨h, st.launch, st.block⟩] ∧
        x.strand? c sl = some { st with wait := .none } ∧ x.mem = s.mem) ∧
    (st.wait = .bfree h → s.bufferBusy (handleHome c h) b = false →
      (∀ y ∈ (s.core (handleHome c h)).buffers, y.handle (handleHome c h) = h → y.serial = b.serial ∧ y.first = b.first) →
      ∃ x, exec (.bfreeRelease c sl) s = .next x ∧ x.buffer? c h = none ∧
        (x.core (handleHome c h)).clearing = (s.core (handleHome c h)).clearing ++
          (if b.parked then [] else (List.range b.count).map (· + b.first)) ∧
        x.strand? c sl = some { st with wait := .none } ∧ x.mem = s.mem) ∧
    (∀ act p, st.wait = .publ h act → b.publ = some p →
      ((clusterOf (handleHome c h)).any fun k => (s.core k).engineNames (handleHome c h) k b) = false →
      (act = 0 → s.accessesDone c sl = true) →
      ∃ x, exec (.publSwapOrRetire c sl) s = .next x ∧ x.strand? c sl = some { st with wait := .none } ∧
        x.buffer? c h = some { b with publ := if act = 0 then some ⟨!p.firstVisible⟩ else none } ∧ x.mem = s.mem ∧
        let home := handleHome c h
        let lo := granuleBytes * b.first
        let half := granuleBytes * (b.count / 2)
        let byte (y : State) (a : Nat) : Byte := Assoc.get 0#8 (y.core home).scratch a
        (∀ b', x.buffer? c h = some b' → ∀ off, lo ≤ off → off < lo + half →
          byte x (b'.place false off) = byte s (b.place (act == 0) off) ∧
          (act = 0 → byte x (b'.place true off) = byte s (b.place false off)) ∧
          (act ≠ 0 → byte x (b'.place false (off + half)) = byte s (b.place true off))) ∧
        (∀ a, a < lo ∨ lo + 2 * half ≤ a → byte x a = byte s a) ∧
        ∀ k, k ≠ home → (x.core k).scratch = (s.core k).scratch) ∧
    ∃ x, exec (.granuleClearDone c) s = .next x ∧ (x.core c).clearing = [] ∧ x.mem = s.mem ∧
      ∀ a, Assoc.get 0#8 (x.core c).scratch a =
        if a / granuleBytes ∈ (s.core c).clearing then 0#8 else Assoc.get 0#8 (s.core c).scratch a

/-- GANG writes a legal value to the gang register; MSTEP gives the units performed by a matrix operation, or all ones for
a value that names none. MLDS, MACT, MMUL, MBAND, SCACC, MRD and MCLR join the matrix queue with the operands that they read
at issue; an operand that fails gives its status and the operation joins all the same (R240-R246, R249-R252, R258-R261).
MMSP joins the matrix queue with the steps, bitmaps and elements that its record and its bitmap register name, and traps
with *malformed metadata* where they are not valid (R254-R256). -/
def Obligations.MatrixWords : Prop :=
  (∀ (s : State) (st : Strand) (d a b : BitVec 6),
     let t := st.mtype
     let gd := st.gr d.toNat
     let ga := st.gr a.toNat
     let gb := st.gr b.toNat
     (Ready (.gang a) { gRead := [a.toNat] } { always := true, whole := true } st s → gangOk s.cur.2 ga = true →
       st.member = true →
       exec (.gang a) s = .next (s.goesOn { gRead := [a.toNat] } st { st with group := { st.group with gang := ga } })) ∧
     (Ready (.mstep d a) { gRead := [a.toNat], gDest := [d.toNat] } { always := true, whole := true, waits := false } st s →
       st.member = true →
       exec (.mstep d a) s = .next (s.goesOn { gRead := [a.toNat], gDest := [d.toNat] } st (st.setG d.toNat
         (match s.named? s.cur.1 ga with
         | some x => if x.2.kind = .matrix then BitVec.ofNat 64 x.2.units else ~~~ 0#64
         | none => ~~~ 0#64)))) ∧
     (MatReady (.mlds d a b) { gRead := [a.toNat, b.toNat], gDest := [d.toNat] } ⟨true, []⟩ true st s →
       isWeight t = true → 1 ≤ gb.toNat → gb.toNat ≤ (if is16 t then 64 else 128) → (lo32 ga).toNat % 4 = 0 →
       (∀ bs, s.operand s.cur.1 st (lo32 ga).toNat (gb.toNat * weightRow t) = .ok bs →
         ∃ x, exec (.mlds d a b) s = .next x ∧ s.joined x st (.mlds t ((List.range gb.toNat).map fun i =>
           codesOf t.width 64 ((bs.drop (i * weightRow t)).take (weightRow t)))) 0 (some d.toNat)) ∧
       (∀ e, s.operand s.cur.1 st (lo32 ga).toNat (gb.toNat * weightRow t) = .error e →
         ∃ x, exec (.mlds d a b) s = .next x ∧ s.joined x st (.mlds t []) e (some d.toNat))) ∧
     (MatReady .mact {} ⟨true, []⟩ false st s → ∃ x, exec .mact s = .next x ∧ s.joined x st .mact 0 none) ∧
     (MatReady (.mband a b) { gRead := [a.toNat, b.toNat] } ⟨true, []⟩ false st s → hi32 gb = 0#32 →
       ∃ x, exec (.mband a b) s = .next x ∧
         s.joined x st (.mband (lo32 ga).toInt (hi32 ga).toInt (lo32 gb)) 0 none) ∧
     (∀ w k rows, MatReady (.mmul d a b) { gRead := [d.toNat, a.toNat, b.toNat], gDest := [d.toNat] }
         ⟨true, matRows (slice gd 12 0) (slice gd 20 13)⟩ true st s →
       slice gd 63 23 = 0 → spanOk (slice gd 12 0) (slice gd 20 13) = true → gb.toNat ≤ 327680 →
       (s.core s.cur.1).matrix.activeAhead = some (w, k) → pairOk w k t = true → (lo32 ga).toNat % 4 = 0 →
       gb.toNat % 4 = 0 →
       s.operands s.cur.1 st (k * t.width / 8) ((List.range (slice gd 20 13)).map fun r => (lo32 ga).toNat + r * gb.toNat)
         = .ok rows →
       ∃ x, exec (.mmul d a b) s = .next x ∧ s.joined x st (.mmul t (slice gd 12 0) (slice gd 20 13) (gd.getLsbD 21)
         (gd.getLsbD 22) (rows.map (codesOf t.width k))) 0 (some d.toNat)) ∧
     (∀ bs, MatReady (.scacc d a) { gRead := [d.toNat, a.toNat], gDest := [d.toNat] }
         ⟨false, matRows (slice gd 44 32) (slice gd 20 13) ++ matRows (slice gd 12 0) (slice gd 20 13)⟩ true st s →
       slice gd 63 45 = 0 → slice gd 31 22 = 0 → spanOk (slice gd 12 0) (slice gd 20 13) = true →
       spanOk (slice gd 44 32) (slice gd 20 13) = true →
       (∀ r ∈ matRows (slice gd 12 0) (slice gd 20 13), r ∉ matRows (slice gd 44 32) (slice gd 20 13)) →
       (lo32 ga).toNat % 4 = 0 → s.operand s.cur.1 st (lo32 ga).toNat 320 = .ok bs →
       ∃ x, exec (.scacc d a) s = .next x ∧ s.joined x st (.scacc (slice gd 44 32) (slice gd 12 0) (slice gd 20 13)
         (gd.getLsbD 21) (codesOf 8 64 (bs.take 64)) (wordsOf 64 (bs.drop 64))) 0 (some d.toNat)) ∧
     (MatReady (.mrd d a b) { gRead := [a.toNat, b.toNat], gDest := [d.toNat] }
         ⟨false, matRows (slice ga 12 0) (slice ga 20 13)⟩ true st s →
       slice ga 63 22 = 0 → spanOk (slice ga 12 0) (slice ga 20 13) = true → isReadOut t = true →
       (lo32 gb).toNat % 4 = 0 →
       s.scratchAt s.cur.1 st.launch st.block true (lo32 gb).toNat (slice ga 20 13 * 8 * t.width) ≠ none →
       st.idemSpan s.cur.1 (lo32 gb).toNat (slice ga 20 13 * 8 * t.width) = false →
       ∃ x, exec (.mrd d a b) s = .next x ∧ s.joined x st (.mrd t (slice ga 12 0) (slice ga 20 13) (ga.getLsbD 21)
         st.group.mode (lo32 gb)) 0 (some d.toNat)) ∧
     (MatReady (.mclr a) { gRead := [a.toNat] } ⟨ga.getLsbD 22, matRows (slice ga 12 0) (slice ga 20 13)⟩ false st s →
       slice ga 63 23 = 0 → spanOk (slice ga 12 0) (slice ga 20 13) = true →
       (s.core s.cur.1).matrix.holds st
         ⟨ga.getLsbD 22, if ga.getLsbD 21 then matRows (slice ga 12 0) (slice ga 20 13) else []⟩ = true →
       ∃ x, exec (.mclr a) s = .next x ∧
         s.joined x st (.mclr (slice ga 12 0) (slice ga 20 13) (ga.getLsbD 21) (ga.getLsbD 22)) 0 none)) ∧
  (∀ (s : State) (st : Strand) (d a : BitVec 6) (b : BitVec 8) (r : SparseRec),
     let t := st.mtype
     let gd := st.gr d.toNat
     let m := slice gd 20 13
     let cols := st.bitmaps b.toNat
     MatReady (.mmsp d a b) { reads := [b.toNat], gRead := [d.toNat, a.toNat], gDest := [d.toNat] }
       ⟨false, matRows (slice gd 12 0) m⟩ true st s →
     slice gd 31 22 = 0 → spanOk (slice gd 12 0) m = true → (is16 t || is8 t) = true →
     s.sparseRec st (lo32 (st.gr a.toNat)).toNat = .ok r →
     (∀ rows abits bs, r.bad cols = false → s.sparseRows st t r m = .ok (rows, abits) →
       s.sparseCols st t r (cols.zipIdx.map fun x => (x.2, x.1)) = .ok bs →
       ∃ x, exec (.mmsp d a b) s = .next x ∧ s.joined x st (.mmsp t (slice gd 12 0) m (slice gd 63 32) (gd.getLsbD 21)
         (sparseSteps r.k cols abits) cols rows bs) 0 (some d.toNat)) ∧
     (r.bad cols = true → exec (.mmsp d a b) s = .next (s.trapWord st (faultIn st.live .malformedMetadata))))

/-- MLDS_PERFORM loads the shadow plane, MACT_PERFORM exchanges the planes, MBAND_PERFORM sets the band and MCLR_PERFORM
clears accumulators and releases parts. MMUL_PERFORM, MMSP_PERFORM, SCACC_PERFORM and MRD_PERFORM do one unit, a row or a
step, and stay at the head, with the unit counted, while units are left. The last unit, or the one there is, completes: the
operation leaves the queue and its future is done with 0 and its units; the rows of MRD are then written to scratch, its flags
join ASTAT. The units that a future counts are the rows or steps done; those of an MMSP are counted from its start step on, so that
the count can be the start step of the next reissue (R245, R257; DEDUCED, log 86). A head whose operand failed does nothing and completes with the status of that; one that was cancelled does no
further unit and completes with 0x3F, the rows that MRD has read written (a new MMSP stopped before its first step clears
first: DESIGN CHOICE, log 77). Memory is as it was, and scratch but for MRD's rows (R231, R240, R243-R245, R249-R261).
What rows and steps do to accumulators. A row of MMUL gives each of its 64 the exact sum of its products over K, added to what
it held unless zero first; outside the band the forced value is added instead. A step of MMSP adds the product of each element
of A with each of B that has one. A row of SCACC adds the scaled partial sum and clears that. A row of MRD gives the 64
elements in order and clears its accumulators where asked. None of them changes another accumulator, a plane, the band or a holder
(R86, R251, R252, R256, R259, R260). MCLR clears the value and the status of the accumulators of its rows and no other; with bit 21
these rows have no holder any more, and with bit 22 the planes and the band are as after reset and the plane set has no holder
(R237, R261), but that a part that a later operation of the block in the queue names stays held (DESIGN CHOICE, log 34). The first
step of an MMSP with zero first clears the accumulators of its rows and no other (R256). -/
def Obligations.MatrixSteps : Prop :=
  (∀ (s : State) (c : Nat) (q : MatOp) (rest : List MatOp), Heads s c q rest →
     let m := (s.core c).matrix
     let step := q.kind.perform c
     let more : List MatOp := { q with units := q.units + 1 } :: rest
     let gives (x : Matrix) : Prop := ∃ t, exec step s = .next t ∧ (t.core c).matrix = x ∧ t.mem = s.mem ∧
       (t.core c).scratch = (s.core c).scratch ∧
       ∀ i f, q.future = some i → Assoc.find (s.core c).futures i = some f →
         Assoc.find (t.core c).futures i = some { f with units := q.counted + 1 }
     let ends (x : Matrix) : Prop := ∃ t, exec step s = .next t ∧ s.headEnds t c q rest x (fun _ => q.counted + 1) 0 ∧
       ∀ k, (t.core k).scratch = (s.core k).scratch
     (∀ t base n start zero steps bits ea eb, q.kind = .mmsp t base n start zero steps bits ea eb →
       q.counted = min start steps.length + q.units) ∧
     ((∀ t base n start zero steps bits ea eb, q.kind ≠ .mmsp t base n start zero steps bits ea eb) → q.counted = q.units) ∧
     (∀ t rows, q.kind = .mlds t rows → q.units = 0 → ends { m with shadow := ⟨some t, rows.length, rows⟩ }) ∧
     (q.kind = .mact → q.units = 0 → ends { m with shadow := m.active, active := m.shadow }) ∧
     (∀ lower upper x, q.kind = .mband lower upper x → q.units = 0 →
       ends { m with lower := lower, upper := upper, forced := x }) ∧
     (∀ base n rows planes, q.kind = .mclr base n rows planes → q.units = 0 → ends (m.clear q base n rows planes)) ∧
     (∀ t base n zero band act, q.kind = .mmul t base n zero band act →
       let x := m.mulRow t base q.units zero band (act.getD q.units [])
       (q.units + 1 < n → gives { x with queue := more }) ∧ (q.units + 1 = n → ends x)) ∧
     (∀ t base n start zero steps bits ea eb, q.kind = .mmsp t base n start zero steps bits ea eb →
       let x := (if start = 0 ∧ zero = true ∧ q.units = 0 then m.clearRows base n else m).outer t base n
         (steps.getD (start + q.units) 0) bits ea eb
       (q.units + 1 < steps.length - start → gives { x with queue := more }) ∧
       (q.units + 1 = steps.length - start → ends x) ∧
       (steps.length - start = 0 → ∃ u, exec step s = .next u ∧ s.headEnds u c q rest m (fun f => f.units) 0)) ∧
     (∀ p dbase n zero codes supers, q.kind = .scacc p dbase n zero codes supers →
       let x := m.scaleRow p dbase q.units zero codes supers
       (q.units + 1 < n → gives { x with queue := more }) ∧ (q.units + 1 = n → ends x)) ∧
     (∀ t base n clear mode dest, q.kind = .mrd t base n clear mode dest →
       let r := m.readRow t base q.units clear mode
       let bs := q.out ++ r.2.1
       let fl := q.flags ||| r.2.2
       (q.units + 1 < n →
         gives { r.1 with queue := { q with units := q.units + 1, out := bs, flags := fl } :: rest }) ∧
       ∀ k b, q.units + 1 = n → s.scratchAt c q.launch q.block true dest.toNat bs.length = some (k, b) →
         (s.core k).badRange (b.place true (dest.toNat % 2 ^ 20)) bs.length = none →
         ∃ u, exec step s = .next u ∧ s.headEnds u c q rest r.1 (fun _ => q.counted + 1) 0 ∧
           s.scratchWritten u k (b.place true (dest.toNat % 2 ^ 20)) bs ∧ s.flagsJoined u c q fl)) ∧
  (∀ (s : State) (c : Nat) (q : MatOp) (rest : List MatOp), (s.core c).matrix.queue = q :: rest →
     (s.block? q.launch q.block).isSome = true →
     let m := (s.core c).matrix
     let step := q.kind.perform c
     (q.status ≠ 0 → q.out = [] → ∃ u, exec step s = .next u ∧
       s.headEnds u c q rest m (fun f => f.units) q.status ∧ ∀ k, (u.core k).scratch = (s.core k).scratch) ∧
     (q.status = 0 → (s.core c).matCancelled q = true →
       (∀ t base n start zero steps bits ea eb, q.kind = .mmsp t base n start zero steps bits ea eb → ∃ u,
         exec step s = .next u ∧ s.headEnds u c q rest
           (if start = 0 ∧ zero = true ∧ q.units = 0 ∧ steps ≠ [] then m.clearRows base n else m) (fun f => f.units) 0x3F ∧
         ∀ k, (u.core k).scratch = (s.core k).scratch) ∧
       ((∀ t base n start zero steps bits ea eb, q.kind ≠ .mmsp t base n start zero steps bits ea eb) → q.out = [] → ∃ u,
         exec step s = .next u ∧ s.headEnds u c q rest m (fun f => f.units) 0x3F ∧
         ∀ k, (u.core k).scratch = (s.core k).scratch) ∧
       ∀ t base n clear mode dest k b, q.kind = .mrd t base n clear mode dest → q.out ≠ [] →
         s.scratchAt c q.launch q.block true dest.toNat q.out.length = some (k, b) →
         (s.core k).badRange (b.place true (dest.toNat % 2 ^ 20)) q.out.length = none →
         ∃ u, exec step s = .next u ∧ s.headEnds u c q rest m (fun f => f.units) 0x3F ∧
           s.scratchWritten u k (b.place true (dest.toNat % 2 ^ 20)) q.out ∧ s.flagsJoined u c q q.flags)) ∧
  (∀ (m : Matrix) (t : ElemType) (base r : Nat),
     (∀ zero band act n, n < 64 →
       (m.mulRow t base r zero band act).acc (base + 64 * r + n) =
         (let a : Accum := if zero then ⟨0, 0#5⟩ else m.acc (base + 64 * r + n)
          if band ∧ m.inBand r n = false then a.add (Fmt.f32.value m.forced.toNat)
          else a.addAll ((act.zip m.active.rows).map fun p =>
            (t.value p.1).mulExact ((m.active.wtype.getD .i8x4).value (p.2.getD n 0))))) ∧
     (∀ zero band act j, j < base + 64 * r ∨ base + 64 * r + 64 ≤ j →
       (m.mulRow t base r zero band act).acc j = m.acc j) ∧
     (∀ rows k bits ea eb n, r < rows → n < 64 →
       (m.outer t base rows k bits ea eb).acc (base + 64 * r + n) =
         match (ea.getD r []).getD k none with
         | some x => if (bits.getD n 0#32).getLsbD k then
             (m.acc (base + 64 * r + n)).add ((t.value x).mulExact (t.value ((eb.getD n []).getD k 0)))
           else m.acc (base + 64 * r + n)
         | none => m.acc (base + 64 * r + n)) ∧
     (∀ rows k bits ea eb j, j < base ∨ base + 64 * rows ≤ j → (m.outer t base rows k bits ea eb).acc j = m.acc j) ∧
     (∀ p zero codes supers j, (j < p + 64 * r ∨ p + 64 * r + 64 ≤ j) → (j < base + 64 * r ∨ base + 64 * r + 64 ≤ j) →
       (m.scaleRow p base r zero codes supers).acc j = m.acc j) ∧
     (∀ (x : Matrix), ((∃ zero band act, x = m.mulRow t base r zero band act) ∨
         (∃ rows k bits ea eb, x = m.outer t base rows k bits ea eb) ∨
         (∃ p zero codes supers, x = m.scaleRow p base r zero codes supers) ∨
         (∃ clear mode, x = (m.readRow t base r clear mode).1) ∨ ∃ n, x = m.clearRows base n) →
       { x with accum := m.accum } = m) ∧
     (∀ n j, (m.clearRows base n).acc j =
       if base / 64 ≤ j / 64 ∧ j / 64 < base / 64 + n then ⟨0, 0#5⟩ else m.acc j) ∧
     (∀ q rest n rows planes, m.queue = q :: rest →
       let x := m.clear q base n rows planes
       let names (part : Parts → Prop) : Prop :=
         ∃ y ∈ rest, y.launch = q.launch ∧ y.block = q.block ∧ part y.kind.parts
       (∀ j, x.acc j = if base / 64 ≤ j / 64 ∧ j / 64 < base / 64 + n then ⟨0, 0#5⟩ else m.acc j) ∧
       (∀ i, rows = true → base / 64 ≤ i → i < base / 64 + n → ¬ names (fun p => i ∈ p.rows) → Assoc.find x.rows i = none) ∧
       (∀ i, (rows = false ∨ i < base / 64 ∨ base / 64 + n ≤ i ∨ names fun p => i ∈ p.rows) →
         Assoc.find x.rows i = Assoc.find m.rows i) ∧
       (planes = true → x.shadow = Plane.reset ∧ x.active = Plane.reset ∧ x.lower = -2147483648 ∧ x.upper = 2147483647 ∧
         x.forced = 0#32 ∧ (¬ names (fun p => p.plane = true) → x.planes = none) ∧
         (names (fun p => p.plane = true) → x.planes = m.planes)) ∧
       (planes = false → x.shadow = m.shadow ∧ x.active = m.active ∧ x.lower = m.lower ∧ x.upper = m.upper ∧
         x.forced = m.forced ∧ x.planes = m.planes) ∧
       x.queue = m.queue) ∧
     (∀ p zero codes supers n, n < 64 → p + 64 ≤ base ∨ base + 64 ≤ p →
       let x := m.scaleRow p base r zero codes supers
       let v := m.acc (p + 64 * r + n)
       x.acc (p + 64 * r + n) = ⟨0, 0#5⟩ ∧ x.acc (base + 64 * r + n) =
         (((if zero then ⟨0, 0#5⟩ else m.acc (base + 64 * r + n) : Accum).add
           (FVal.mulExact (.fin (decide (v.value < 0)) v.value.natAbs (-320)) ((Fmt.f32.value (supers.getD n 0#32).toNat).mulExact
             (.fin false (codes.getD n 0 + 1) (-8))))).mark v.status)) ∧
     (∀ clear mode, (m.readRow t base r clear mode).2.1 = (List.range 64).flatMap fun n =>
       bytesOf (t.width / 8) ((m.acc (base + 64 * r + n)).readOut t mode).1) ∧
     (∀ clear mode j, (m.readRow t base r clear mode).1.acc j =
       if clear ∧ base + 64 * r ≤ j ∧ j < base + 64 * r + 64 then ⟨0, 0#5⟩ else m.acc j))

/-- GO, GOM and GOTO with every flag set and a live mask of registers below N: while another package has not answered what is
asked of it, the strand asks and stays at the word (log 35). Then, where no lane is refused, or GO and GOTO count refusals
only, the lanes that go are named in the strand's wait with the live mask, the futures whose handles stand in the registers it
selects, and the point that follows, and where none goes the strand goes on; of memory nothing changes but what reading block table entries does. A refused lane of GOM, or of GOTO with its
trap bit, is *migration refused* with its reason, and none moves. A clear flag is *unwaited read* (R265, R267, R268, R271,
R277, R374). -/
def Obligations.MigrationWords : Prop :=
  ∀ (s : State) (st : Strand) (i : Instr) (u : Use) (live : DWord) (trap : Bool),
    (∃ (a : BitVec 7) (b : BitVec 6), (i = .go a b ∧ trap = false ∨ i = .gom a b ∧ trap = true) ∧ live = st.gr b.toNat ∧
      u = { aRegs := [2 * a.toNat, 2 * a.toNat + 1], gRead := [b.toNat] }) ∨
    (∃ (d row col : BitVec 6) (sel : BitVec 1), i = .goto d row col sel ∧ trap = (sel == 1#1) ∧ live = st.gr d.toNat ∧
      u = { gRead := [d.toNat] }) →
    Ready i u {} st s → st.active ≠ 0#64 →
    (st.flags ≠ 0xFFF#12 → exec i s = .next (s.trapWord st (faultIn st.active .unwaitedRead))) ∧
    (st.flags = 0xFFF#12 → st.selectsBeyond live = false →
      let y := s.before u {} st
      let refused := refusedLanes ((s.fatesOf i st live).getD [])
      (trap = true → refused ≠ [] → exec i s = .next (s.trapWord st
        (refused.map fun x => ⟨x.1, .migrationRefused, x.2⟩))) ∧
      (trap = false ∨ refused = [] → y.fatesOf i st live = none →
        exec i s = .next (s.inquire s.cur.1 s.cur.2 live false (s.leaving i st))) ∧
      (∀ fs, trap = false ∨ refused = [] → y.fatesOf i st live = some fs →
        let mem := (y.readHomes (st.who s.cur.1) (y.refsOf i st)).mem
        (departing fs = [] → ∃ t, exec i s = .next t ∧
          t.here? = some ({ st.freeMarked u with inquiry := none }.retire .seq) ∧ t.mem = mem) ∧
        (departing fs ≠ [] → ∃ (t : State) (x : Strand) (stay : Bool), exec i s = .next t ∧ t.here? = some (x.retire .seq) ∧
          t.mem = mem ∧ x.region = none ∧
          x.wait = .depart ⟨departing fs, live, (t.core s.cur.1).takenBy s.cur.1 st live, st.nextPoint.1, st.nextPoint.2, stay⟩ ∧
          x = { st.freeMarked u with region := x.region, wait := x.wait, inquiry := none })))

/-- IMPLICIT_MIGRATION of a clause from which no lane leaves lets it execute; the lanes that leave are named in the strand's
wait with every register and the clause itself as the point to resume at; while another package has not answered, the strand
asks it and waits (log 35). FLACON_SEND, once the writes of the departing
threads and the strand's copies are done and the futures carried complete, sends one flacon for each departing lane, which is
departed; the strand waits no more, and ends with its last live lane; the origin keeps copies. With no departing thread left
it waits no more, the slots given back. FLACON_ARRIVAL gives an intact flacon to its destination, which acknowledges it, and
one that is not to its origin. FLACON_ACKNOWLEDGE gives up the copy. REASSEMBLY_WINDOW_EXPIRY makes a set ready whose window
has closed (R263, R268, R269, R272, R273, R276).
STRAND_FORM: of the sets that are ready, or whose windows have closed, the one that closed first becomes a strand in a free
slot when the core has room. Its live lanes are those of its flacons, which k0 holds; it stands at their resume point with
their mode, stacks, policy, window and lineage; the registers of the live mask hold, in each lane, what its flacon carried, and
no other register holds anything; p0 to p15 are as each carried them, g0 to g15 as the lowest lane did, every other predicate
and group-wide register is 0, and ASTAT and ATEN are the OR of those carried. A thread has the work identifier that its flacon
carried (R78, R273, R274, Table 11-3). -/
def Obligations.Migration : Prop :=
  (∀ (s : State) (c sl : Nat) (st : Strand),
     (∀ k, s.strand? c sl = some st → st.wait = .implicit → st.clause = some k →
       let leaving := s.implicitLeaving c st k
       (s.fates? c st st.whole true leaving = none →
         exec (.implicitMigration c sl) s = .next (s.inquire c sl st.whole true leaving)) ∧
       ∀ fs, s.fates? c st st.whole true leaving = some fs →
       (departing fs = [] → ∃ t, exec (.implicitMigration c sl) s = .next t ∧
         t.strand? c sl = some { st with wait := .none, inquiry := none } ∧ t.transit = s.transit) ∧
       (departing fs ≠ [] → ∃ (t : State) (x : Strand) (d : Departure), exec (.implicitMigration c sl) s = .next t ∧
         t.strand? c sl = some x ∧ x = { st with region := none, wait := .depart d, inquiry := none } ∧ d.deps = departing fs ∧
         d.resume = k.addr ∧ d.idx = 0 ∧ d.stay = false ∧ d.taken = (t.core c).takenBy c st d.live ∧
         (∀ i, i < 64 → d.live.getLsbD i = (decide (32 ≤ i) || decide (i < st.nregs))))) ∧
     (∀ d, s.strand? c sl = some st → st.wait = .depart d → (d.part st.live).1.deps = [] →
       exec (.flaconSend c sl) s =
         .next (((s.unreserve (d.part st.live).2).setStrand c sl { st with wait := .none }).modCore c CoreSt.reapAll)) ∧
     (∀ d, s.strand? c sl = some st → st.wait = .depart d → d.deps ≠ [] →
       s.writesDone c sl (maskOf (d.deps.map (·.lane))) = true →
       ((s.core c).copies.any fun q => q.slot == sl && q.gen == (s.core c).gen sl) = false →
       (s.core c).gathers sl ((s.core c).gen sl) = false → (s.core c).carriedDone c st d.live = true →
       (∀ x ∈ d.deps, x.pkg = Config.packageNumber ∧ st.live.getLsbD x.lane = true) →
       let gone := maskOf (d.deps.map (·.lane))
       ∃ (t : State) (fs : List Flacon), exec (.flaconSend c sl) s = .next t ∧ fs.length = d.deps.length ∧
         (∀ (n : Nat) (y : Dep) (f : Flacon), d.deps[n]? = some y → fs[n]? = some f → f.lane = y.lane ∧ f.dest = y.core ∧
           f.resume = d.resume ∧ f.live = d.live ∧ f.lineage = st.lineage ∧
           f.workId = st.baseId + BitVec.ofNat 64 y.lane) ∧
         t.transit = s.transit ++ fs ∧ (t.core c).origins = (s.core c).origins ++ fs ∧ t.mem = s.mem ∧
         (st.live &&& ~~~ gone ≠ 0#64 → ∃ x, t.strand? c sl = some x ∧ x.wait = .none ∧
           x.departed = st.departed ||| gone ∧ x.group.depSerial = st.group.depSerial + 1#16 ∧ x.v = st.v) ∧
         (st.live &&& ~~~ gone = 0#64 → t.strand? c sl = none ∧ (t.core c).gen sl = (s.core c).gen sl + 1#8)) ∧
     (∀ (n : Nat) f, s.transit[n]? = some f →
       (∃ t, exec (.flaconArrival n true) s = .next t ∧ t.transit = s.transit.eraseIdx n ∧ t.acks = s.acks ++ [f] ∧
         (t.core f.dest).arrived = ((s.core f.dest).receive s.timePs f).arrived ∧
         (t.core f.dest).reserved = (s.core f.dest).reserved - 1) ∧
       (∃ t, exec (.flaconArrival n false) s = .next t ∧ t.transit = s.transit.eraseIdx n ∧ t.acks = s.acks ∧
         (t.core f.core).arrived = ((s.core f.core).receive s.timePs f).arrived ∧
         (t.core f.core).origins = (s.core f.core).origins.erase f)) ∧
     (∀ (n : Nat) f, s.acks[n]? = some f → ∃ t, exec (.flaconAcknowledge n) s = .next t ∧ t.acks = s.acks.eraseIdx n ∧
       (t.core f.core).origins = (s.core f.core).origins.erase f) ∧
     (∀ (n : Nat) a, (s.core c).arrived[n]? = some a → a.ready = false → a.opened < s.timePs → a.closes ≤ s.timePs →
       ∃ t, exec (.reassemblyWindowExpiry c n) s = .next t ∧
         { a with ready := true, expired := true, closed := a.closes } ∈ (t.core c).arrived ∧
         (t.core c).arrived.length = (s.core c).arrived.length)) ∧
  (∀ (s : State) (c : Nat) (a : Assembly) (rest : List Assembly) (f : Flacon),
     closeDue s.timePs (s.core c).arrived.length (s.core c).arrived = a :: rest → a.ready = true → lowestFlacon a.flacons = some f →
     (s.core c).roomFor f.width f.nregs = true → (∀ y ∈ a.flacons, y.lane < f.width) → f.width ≤ 64 →
     (a.flacons.map (·.lane)).Nodup →
     ∃ (t : State) (x : Strand) (sl : Nat), exec (.strandForm c) s = .next t ∧ s.strand? c sl = none ∧ t.strand? c sl = some x ∧ sl < 64 ∧
       (t.core c).arrived = rest ∧ t.mem = s.mem ∧
       x.live = maskOf (a.flacons.map (·.lane)) ∧ x.active = (if modeGuard f.mode then x.active else x.live) ∧
       x.pc = f.resume ∧ x.clause = none ∧ x.mode = .u ∧ x.group.mode = f.mode ∧ x.group.rstack = f.rstack ∧
       x.group.lstack = f.lstack ∧ x.lineage = f.lineage ∧ x.nregs = f.nregs ∧ x.flags = 0xFFF#12 ∧
       x.group.policy = f.policy ∧ x.group.window = f.window ∧ x.group.gang = 0#64 ∧ x.group.batch = 1#32 ∧
       x.width = f.width ∧ x.vpend = 0#256 ∧ x.gpend = 0#64 ∧
       (∀ y ∈ a.flacons, ∀ r, f.live.getLsbD r = true → r < 32 → f.empty.getLsbD r = false →
         x.vlane r y.lane = Assoc.get 0#32 y.vals r) ∧
       (∀ r, 32 ≤ r ∨ f.live.getLsbD r = false ∨ f.empty.getLsbD r = true → x.vreg? r = none) ∧
       (∀ y ∈ a.flacons, ∀ i, (x.pr i).getLsbD y.lane = (decide (i < 16) && y.preds.getLsbD i)) ∧
       (∀ i, x.gr i = if i < 16 then Assoc.get 0#64 f.gs i else 0#64) ∧
       (∀ i, x.kr i = if i = 0 then x.live else 0#64) ∧ x.group.q = 0#16 ∧
       (∀ b, x.group.astat.getLsbD b = a.flacons.any fun y => y.astat.getLsbD b) ∧
       (∀ b, x.group.aten.getLsbD b = a.flacons.any fun y => y.aten.getLsbD b) ∧
       (∀ y ∈ a.flacons, y.workId - BitVec.ofNat 64 y.lane = f.workId - BitVec.ofNat 64 f.lane →
         x.baseId + BitVec.ofNat 64 y.lane = y.workId))

/-- LAUNCH_SERVICE reads and checks the record: an accepted one is a launch at the end of its queue with the number that
follows, before its first block; a refused one is told with its status and makes no launch (R96, R97). The record is read under
the domain's key and apart from every TLB, so that no core changes (log 38). That the service has no effect before stage 2 of the
boot chain is ready is the model's choice (DESIGN CHOICE, log 60), and that it has none in a maintenance window, and when that
is open, is inferred from R362 (DEDUCED, logs 67 and 84).
DISPATCH_BLOCK places the next block of the launch whose turn it is on the first place that takes it: the block is
added with its expected threads at every barrier, the dispatcher's pointer is its last core, no strand that was resident
is displaced, and as many strands join as the block has. Where nothing fits, nothing changes (R97, R99, R100).
LAUNCH_COMPLETE of a launch with no block left, no thread alive and nothing in flight: it is complete, a future of it
has status 0, or 0x3F once it was cancelled, when no successor is looked for. STARVATION_PROMOTION: a strand passed over
for 64 core cycles is urgent (R98, R103, R116). -/
def Obligations.Launches : Prop :=
  (∀ (s : State) (dom : BitVec 16) (hyp : Bool) (va : DWord), s.kuenrex = false ∨ s.windowOpen = true →
     exec (.launchService dom hyp va) s = .next s) ∧
  (∀ (s s1 : State) (dom : BitVec 16) (hyp : Bool) (va : DWord), s.kuenrex = true → s.windowOpen = false →
     (∀ r, s.apart (fun x => x.readRecord (x.commandWho dom 0) va.toNat hyp) = (s1, .ok r) →
       ∃ t l, exec (.launchService dom hyp va) s = .next t ∧ Assoc.find t.launches s1.nextLaunch = some l ∧
         l.record = r ∧ l.order = s1.nextLaunch ∧ l.next = some [0, 0, 0, 0] ∧ l.threads = 0 ∧ l.complete = false ∧
         l.cancelled = false ∧ l.future = none ∧ t.nextLaunch = s1.nextLaunch + 1 ∧ t.blocks = s1.blocks ∧
         t.mem = s1.mem ∧ t.cores = s.cores) ∧
     (∀ k, s.apart (fun x => x.readRecord (x.commandWho dom 0) va.toNat hyp) = (s1, .error k) →
       exec (.launchService dom hyp va) s = .next (s1.notify (.launchRefused va k)))) ∧
  (∀ (s : State) (l : Launch) (cs : List Nat), firstLaunch s.launches = some l → l.next = some cs →
     (s.findPlace l.record = none → exec .dispatchBlock s = .next s) ∧
     (∀ c0 c l1, s.findPlace l.record = some (c0, c) → Assoc.find (s.clearResult l).launches l.number = some l1 →
       ∃ (t : State) (b : Block) (x : Launch),
       exec .dispatchBlock s = .next t ∧ t.blocks = (s.clearResult l).blocks ++ [b] ∧ b.launch = l.number ∧ b.first = c0 ∧ b.ncores = c ∧
       b.index = BitVec.ofNat 64 (l.record.blockIndex cs) ∧ b.alive = l.record.threads ∧
       b.barriers = List.replicate l.record.barriers ⟨l.record.threads, 0, 0#32, false⟩ ∧
       Assoc.find t.launches l.number = some x ∧ x.threads = l1.threads + l.record.threads ∧ x.record = l1.record ∧
       x.next = nextCoords cs ((List.range 4).map fun i => l.record.limit (i + 2)) ∧ t.pointer = c0 + c - 1 ∧
       t.nextAge = (s.clearResult l).nextAge + ((List.range c).map (l.record.portion c)).sum ∧
       ∀ k sl st, s.strand? k sl = some st → t.strand? k sl = some st)) ∧
  (∀ (s : State),
     (∀ n l, Assoc.find s.launches n = some l → l.complete = false → s.launchDone l = true →
       l.cancelled = true ∨ (l.record.result = 0#64 ∧ l.record.nsucc = 0) →
       exec (.launchComplete n) s = .next
         (let t := { s with launches := Assoc.set s.launches n { l with complete := true } }
          match l.future with
          | some (c, i) => t.completeFuture c i (if l.cancelled then 0x3F else 0)
          | none => t)) ∧
     (∀ n l, Assoc.find s.launches n = some l → s.launchDone l = false → exec (.launchComplete n) s = .next s) ∧
     (∀ c sl st, s.strand? c sl = some st → exec (.starvationPromotion c sl) s =
       .next (s.setStrand c sl (if 64 ≤ st.passed then { st with urgent := true } else st))))

/-- PREEMPT_REQUEST marks the strand of a slot and generation, or tells the event queue that it names none or one already
asked, which stays as it is; before Kuenrex runs it and KUENREX_RESTORE do nothing (R349). FULL_SAVE_TIMEOUT begins a full
save of a strand in U mode that was asked 100 us ago, wherever it issues or waits at a barrier, whose wait goes on (R320,
R322).
STRAND_SAVE, once the strand has no operation in flight and waits for no copy: where its area is written the slot is empty
and of the next generation, what must be kept of the strand is noted and the request is answered with 0; where a granule
cannot be consumed or a write fails the strand stays, waits no more and is asked no more, and the answer names the cause and
the address (R323, R324; the granule, log 57; the note beside the area, log 31; whose accesses the engine makes, log 76).
KUENREX_RESTORE reads the area and asks for a restore from its bytes, or with the status of the reading that failed.
STRAND_RESTORE of an area that names a saved strand of the core and fits it: a strand stands in a free slot, rebuilt from
the area and the note, the note is gone, and the request is answered with its identifier; an area that names no saved
strand is answered with 0x3E, one for which the core has no room with 0x3D, and nothing is restored (R325, R371; 0x3E
without a note, log 31; the lowest free slot, log 23). -/
def Obligations.SavesAndRestores : Prop :=
  (∀ (s : State) (c sl : Nat),
     (s.kuenrex = false → ∀ gen area, exec (.preemptRequest c sl gen area) s = .next s) ∧
     (∀ st gen area, s.kuenrex = true → s.strand? c sl = some st → ((s.core c).gen sl).toNat = gen → st.preempt = none →
       exec (.preemptRequest c sl gen area) s =
         .next (s.setStrand c sl { st with preempt := some ⟨area, none, none, 0⟩ })) ∧
     (∀ gen area, s.kuenrex = true → s.strand? c sl = none ∨ ((s.core c).gen sl).toNat ≠ gen ∨
         (∃ st p, s.strand? c sl = some st ∧ st.preempt = some p) →
       ∃ t, exec (.preemptRequest c sl gen area) s = .next t ∧
         (t.core c).events = (s.core c).events ++ [.requestRefused sl] ∧ t.strand? c sl = s.strand? c sl) ∧
     (∀ st p, s.strand? c sl = some st → st.preempt = some p → 100000000 ≤ p.waited → st.mode = .u → st.depth = 0 →
       let g := if st.member then s.heldGranules c st.launch st.block else 0#64
       let all : BitVec 256 := BitVec.ofNat 256 (2 ^ st.nregs - 1)
       (st.wait = .none → exec (.fullSaveTimeout c sl) s =
         .next (s.setStrand c sl { st with wait := .saving 1 all g none })) ∧
       ∀ n ph m, st.wait = .bar n ph m ∨ st.wait = .barw n ph m → exec (.fullSaveTimeout c sl) s =
         .next (s.setStrand c sl { st with wait := .saving 1 all g (some (n, ph, m)) }))) ∧
  (∀ (s : State) (c sl : Nat) (st : Strand) (kind : Nat) (live : BitVec 256) (gran : DWord)
     (bar : Option (Nat × BitVec 32 × LaneMask)) (p : Preempt),
     s.strand? c sl = some st → st.wait = .saving kind live gran bar → st.preempt = some p →
     (s.core c).strandOps sl = [] → s.saveWaits c sl st = false →
     let x := st.saveSet kind live gran bar
     let w := s.engineWho c p.domain (p.future.map (·.2)) st.launch
     let hs := if st.member then s.heldHandles c st.launch st.block else []
     let bytes := saveBytes (s.core c) c sl st x hs
     let bad := (lanesOf x.granules).findSome? fun j => (s.core c).badRange (j * granuleBytes) granuleBytes
     let stays (s1 : State) (code place : Nat) := ∃ t : State, exec (.strandSave c sl) s =
         .next (t.answerSave c sl p (0x3C + code * 256 + place % 2 ^ 52 / 16 * 65536)) ∧ t.mem = s1.mem ∧
       t.strand? c sl = some { st with
         preempt := none
         wait := match bar with
           | some (n, ph, m) => .barw n ph m
           | none => .none }
     (∀ s1, bad = none → s.engineWrite w p.domain p.area bytes = (s1, .ok ()) → ∃ (t : State) (n : SavedNote),
       exec (.strandSave c sl) s = .next (t.answerSave c sl p 0) ∧ t.strand? c sl = none ∧
       (t.core c).gen sl = (s1.core c).gen sl + 1#8 ∧ t.mem = s1.mem ∧ n ∈ (t.core c).saved ∧ n.launch = st.launch ∧
       n.block = st.block ∧ n.lineage = st.lineage ∧ n.slot = sl ∧ n.gen = (s1.core c).gen sl ∧ n.exited = st.exited ∧
       n.departed = st.departed ∧ n.bar = x.bar ∧ n.broken = false) ∧
     (∀ k, bad = some k → stays s k.code 0) ∧
     (∀ s1 f va, bad = none → s.engineWrite w p.domain p.area bytes = (s1, .error (f, va)) → stays s1 f.1.code va)) ∧
  (∀ (s : State) (c : Nat),
     (s.kuenrex = false → ∀ area, exec (.kuenrexRestore c area) s = .next s) ∧
     (∀ area, s.kuenrex = true →
       let w := s.engineWho c none none 0
       let joins (s1 : State) (bs : List Byte) (status : Nat) := ∃ t : State, exec (.kuenrexRestore c area) s = .next t ∧
         (t.core c).restores = (s1.core c).restores ++ [⟨area, none, none, bs, status⟩] ∧ t.mem = s1.mem
       (∀ s1 f, s.engineRead w none area 1536 = (s1, .error f) → joins s1 [] f.1.code) ∧
       (∀ s1 head, s.engineRead w none area 1536 = (s1, .ok head) → areaShape head = false → joins s1 head 0) ∧
       (∀ s1 head s2, s.engineRead w none area 1536 = (s1, .ok head) → areaShape head = true →
         (∀ bs, s1.engineRead w none area (areaGranules head + granuleBytes * popCount (areaMask head)) = (s2, .ok bs) →
           joins s2 bs 0) ∧
         (∀ f, s1.engineRead w none area (areaGranules head + granuleBytes * popCount (areaMask head)) = (s2, .error f) →
           joins s2 [] f.1.code))) ∧
     (∀ (r : Restore) (rest : List Restore), (s.core c).restores = r :: rest →
       let s0 := s.modCore c fun k => { k with restores := rest }
       let answers (status : Nat) := exec (.strandRestore c) s = .next (s0.answerRestore c r status 0#32)
       (r.status ≠ 0 → answers r.status) ∧
       (r.status = 0 → (s0.core c).noteOf r.bytes = none → answers 0x3E) ∧
       (∀ x : SavedNote, r.status = 0 → (s0.core c).noteOf r.bytes = some x →
         (areaAt r.bytes 60 2 ≠ c ∨ areaLegal r.bytes x = false ∨ s0.launchEnded x.launch = true → answers 0x3E) ∧
         (areaAt r.bytes 60 2 = c → areaLegal r.bytes x = true → s0.launchEnded x.launch = false →
           let width := 8 * 2 ^ areaAt r.bytes 5 1
           let room := s0.restoreFits c width (areaAt r.bytes 6 2) = true ∧
             ∀ b ∈ (s0.core c).parkedOf c x, (s0.core c).unparkable b = true
           (¬ room → answers 0x3D) ∧
           ∀ sl more s3, room → (s0.core c).freeSlots = sl :: more →
             let ident := c * 2 ^ 16 + sl * 2 ^ 8 + ((s0.core c).gen sl).toNat
             s0.engineWrite (s0.engineWho c r.domain r.future 0) r.domain (r.area + 96) (bytesOf 8 ident) = (s3, .ok ()) →
             ∃ t : State, exec (.strandRestore c) s = .next (t.answerRestore c r 0 (BitVec.ofNat 32 ident)) ∧
               (x.bar = none ∨ x.broken = false → t.strand? c sl = some (restored r.bytes x s3.nextAge x.bar)) ∧
               (∀ n ph m, x.bar = some (n, ph, m) → x.broken = true → t.strand? c sl =
                 some { restored r.bytes x s3.nextAge x.bar with wait := .trapping }) ∧
               x ∉ (t.core c).saved ∧ t.mem = s3.mem))))

/-- An allocated bank set idle for as long as its stack's phase answers enters retention; in phases 2 and 3 none does. An
unallocated one that may and was idle for 100 us enters deep power-down. An entry ends; so does a wake, and what woke
from deep power-down reads zero, with good codes and no poison. None of these changes memory otherwise (R282-R285,
R288, Table 12-4).
BANK_MAP_WRITE, once management firmware runs (R349), writes the allocated and allowed bits and clears the wake-count bits
written 1; allocating a bank set in deep power-down starts its wake, or asks for one after its entry (R284, R286, Table 12-3).
PACKAGE_PHASE_APPLY gives a stack the greatest phase of the package's strands; burst wakes its allocated bank sets from
retention, those still entering it with them (R288; the latter log 64). -/
def Obligations.BankStates : Prop :=
  (∀ (s : State) (st b : Nat), st < 8 → b < 64 →
     let n := 64 * st + b
     let x := s.bank n
     (∀ limit, (s.stackOf st).phase = 0 ∧ limit = 20000000 ∨ (s.stackOf st).phase = 1 ∧ limit = 200000000 →
       x.allocated = true → x.state = .active → x.idleFrom + limit ≤ s.timePs →
       ∃ t, exec (.bankRetentionEntry st b) s = .next t ∧ t.mem = s.mem ∧
         t.bank n = { x with state := .retention, entering := true }) ∧
     ((s.stackOf st).phase = 2 ∨ (s.stackOf st).phase = 3 → exec (.bankRetentionEntry st b) s = .next s) ∧
     (x.allocated = false → x.deepAllowed = true →
       x.state = .active ∨ x.state = .retention ∧ x.entering = false → x.idleFrom + 100000000 ≤ s.timePs →
       ∃ t, exec (.bankDeepPowerDown st b) s = .next t ∧ t.mem = s.mem ∧
         t.bank n = { x with state := .deep, entering := true }) ∧
     (x.allocated = true → exec (.bankDeepPowerDown st b) s = .next s) ∧
     (x.entering = true → ∃ t, exec (.powerStateEntryComplete st b) s = .next t ∧ t.mem = s.mem ∧
       t.bank n = if x.state = .deep ∧ x.rewake = true
         then { x with state := .waking, entering := false, rewake := false, fromDeep := true }
         else { x with entering := false }) ∧
     (x.state = .waking → ∃ t, exec (.bankWakeEnd st b) s = .next t ∧ (t.bank n).state = .active ∧
       (t.bank n).idleFrom = s.timePs ∧ (t.bank n).waiters = [] ∧ (t.bank n).allocated = x.allocated ∧
       (x.fromDeep = false → t.mem = s.mem) ∧
       (x.fromDeep = true → ∀ a, t.mem.byte a = if a / 2 ^ 30 = n then 0#8 else s.mem.byte a) ∧
       (x.fromDeep = true → ∀ k, k / 2 ^ 25 = n → k ∉ t.mem.poison ∧ Assoc.get 0#16 t.mem.codeErr k = 0#16))) ∧
  (∀ (s : State) (st b : Nat), st < 8 → b < 64 →
     let n := 64 * st + b
     let x := s.bank n
     (s.kuenrex = false → ∀ v : Word, exec (.bankMapWrite st b v) s = .next s) ∧
     (s.kuenrex = true → ∀ v : Word, ∃ t, exec (.bankMapWrite st b v) s = .next t ∧ t.mem = s.mem ∧
       (t.bank n).allocated = v.getLsbD 31 ∧ (t.bank n).deepAllowed = v.getLsbD 30 ∧
       (t.bank n).wakes = x.wakes &&& ~~~ (v.extractLsb' 16 8) ∧
       ((t.bank n).state = if v.getLsbD 31 = true ∧ x.state = .deep ∧ x.entering = false then .waking else x.state) ∧
       ((t.bank n).rewake = if v.getLsbD 31 = true ∧ x.state = .deep ∧ x.entering = true then true else x.rewake) ∧
       ∀ k, k ≠ n → t.bank k = s.bank k) ∧
     ∃ t, exec (.packagePhaseApply st) s = .next t ∧ t.mem = s.mem ∧ t.cores = s.cores ∧
       (∀ k x, (k, x) ∈ s.cores → ∀ y ∈ x.slots, y.2.group.phase ≤ (t.stackOf st).phase) ∧
       ((t.stackOf st).phase = 0 ∨
         ∃ k x, (k, x) ∈ s.cores ∧ ∃ y ∈ x.slots, y.2.group.phase = (t.stackOf st).phase) ∧
       ((t.stackOf st).phase = 3 → x.allocated = true → x.state = .retention → (t.bank n).state = .waking) ∧
       ((t.stackOf st).phase ≠ 3 → t.banks = s.banks))

/-- PAGE_WALK leaves a translation of the address in the TLB of the core, as one that was used (R300, R302; log 18).
COMPACTION_MOVE of a block whose sectors fit a smaller class with a free slot: its table entry names that slot in one
step, and the old slot is free again. Without such a slot, with nothing to gain, or where a unit of the slot does not read
under its key (log 63), the block stays; so does one whose entry or map cannot be consumed, which is reported with source 16
(R294, R296).
FAULT_QUEUE_REMOVE, once Kuenrex runs, takes the oldest report out and nothing else; CORE_CLOCK_STEP moves the core clock by
50 MHz within 400 and 800 MHz (R24, R298). -/
def Obligations.MemorySideSteps : Prop :=
  (∀ (s s1 : State) (c dom : Nat) (va : DWord) (x : TlbEntry), c < Config.cores → va.toNat < 2 ^ 52 → dom < 2 ^ 16 →
     (s.domainEntry dom).root2 = 0 →
     s.stage ⟨c, BitVec.ofNat 16 dom, (s.domainEntry dom).key, .h, 0⟩ (s.domainEntry dom).root1 false va.toNat =
       (s1, .ok x) →
     exec (.pageWalk c dom va) s = .next s1 ∧ x.covers dom false va.toNat = true ∧
     ∃ y ∈ (s1.core c).tlb, { y with used := x.used } = x ∧ y.used = true) ∧
  (∀ (s t : State) (n : Nat),
     (∀ f, s.readEntry Who.nobody n = (t, .error f) → exec (.compactionMove n) s = .next (s.fromSource t 16)) ∧
     (∀ e, s.readEntry Who.nobody n = (t, .ok e) →
       (∀ t1 k, State.consumeAll (t.mover e) (e.mapSectors 511) t = (t1, some k) →
         exec (.compactionMove n) s = .next (t.fromSource t1 16)) ∧
       ∀ t1, State.consumeAll (t.mover e) (e.mapSectors 511) t = (t1, none) →
         let y := t1.serveSlot (t.mover e) e
         let cls := classFor (heldCount (y.blockSectors e))
         (e.cls ≤ cls ∨ (y.stackOf (e.stack n)).slots e.tier cls = [] ∨ (y.sealedOtherwise (t.mover e) e).isSome = true →
           exec (.compactionMove n) s = .next t) ∧
         (∀ slot rest, cls < e.cls → (y.stackOf (e.stack n)).slots e.tier cls = slot :: rest →
           y.sealedOtherwise (t.mover e) e = none → slot % 4096 = 0 → slot < 2 ^ 48 → ∃ u,
           exec (.compactionMove n) s = .next u ∧ u.blockBase = s.blockBase ∧
           u.blockEntry n = ⟨true, e.tier, cls, slot⟩ ∧ (u.stackOf (e.stack n)).slots e.tier cls = rest ∧
           (u.stackOf (e.stack n)).slots e.tier e.cls = (y.stackOf (e.stack n)).slots e.tier e.cls ++ [e.slot] ∧
           u.cores = s.cores ∧ u.tables = s.tables))) ∧
  (∀ (s : State),
     (∀ e rest, s.kuenrex = true → s.faultQ = e :: rest → exec .faultQueueRemove s = .next { s with faultQ := rest }) ∧
     (s.kuenrex = false → exec .faultQueueRemove s = .next s) ∧
     (∀ up, 400 ≤ s.coreMHz → s.coreMHz ≤ 800 → ∃ t, exec (.coreClockStep up) s = .next t ∧
       400 ≤ t.coreMHz ∧ t.coreMHz ≤ 800 ∧ t = { s with coreMHz := t.coreMHz } ∧
       (up = true → s.coreMHz ≤ 750 → t.coreMHz = s.coreMHz + 50) ∧
       (up = false → 450 ≤ s.coreMHz → t.coreMHz + 50 = s.coreMHz)))

/-- TABLE_CREATE with a legal descriptor, a free number and a store that can be mapped makes an empty table with the next
generation of its number and tells its handle; an illegal descriptor, or pages off its home stacks, are refused.
TABLE_DESTROY takes the table away, steps the generation and keeps the store for the launches then running (R157, R158,
R160, R166, R368).
TABLE_STORE_RETURN and ROW_STORAGE_FREE wait for the launches that ran at the deletion, and only for those: a store is
unmapped and given back, then its range is free; a deleted row's storage is free (R160, R172). The reasons of a refusal are
the model's (log 60). -/
def Obligations.TableServices : Prop :=
  (∀ (s : State), s.kuenrex = true →
     (∀ dom (d : TableDesc) base pages n s1, d.legal = true → (d.tier = 1 → Config.tier1Bytes ≠ 0) →
       s.placesOk base pages d.storeBytes = true → s.storeTaken dom base pages = false →
       (∀ p ∈ pages, tierOf (p * pageBytes) = some d.tier) → d.homesOk pages = true → s.freeNumber = some n →
       State.mapPages dom false true base pages s = some s1 → ∃ (t : State) (x : Table),
         exec (.tableCreate dom d base pages) s = .next t ∧ Assoc.find s.tables n = none ∧
         Assoc.find t.tables n = some x ∧ x.desc = d ∧ x.domain = dom ∧ x.base = base ∧ x.pages = pages ∧
         x.gen = s.tableGen n ∧ x.rows = [] ∧ x.hash = [] ∧ (∀ k, k ≠ n → Assoc.find t.tables k = Assoc.find s.tables k) ∧
         t.mgmt.notices = s.mgmt.notices ++
           [.tableCreated (makeHandle Config.packageNumber n x.firstIndex (s.tableGen n))]) ∧
     (∀ dom (d : TableDesc) base pages, d.legal = false →
       exec (.tableCreate dom d base pages) s = .next (s.notify (.tableRefused 1))) ∧
     (∀ dom (d : TableDesc) base pages, d.legal = true → (d.tier = 1 → Config.tier1Bytes ≠ 0) → d.homesOk pages = false →
       exec (.tableCreate dom d base pages) s = .next (s.notify (.tableRefused 3))) ∧
     (∀ n x, Assoc.find s.tables n = some x → ∃ t, exec (.tableDestroy n) s = .next t ∧ Assoc.find t.tables n = none ∧
       (∀ k, k ≠ n → Assoc.find t.tables k = Assoc.find s.tables k ∧ t.tableGen k = s.tableGen k) ∧
       t.tableGen n = (if (s.tableGen n + 1) % 2 ^ 24 = 0 then 1 else (s.tableGen n + 1) % 2 ^ 24) ∧
       t.oldStores = s.oldStores ++ [⟨x, n, s.running, false⟩] ∧ t.mem = s.mem)) ∧
  (∀ (s : State),
     (∀ (n : Nat) o, s.oldStores[n]? = some o → s.allDone o.running = true →
       (o.returned = true → exec (.tableStoreReturn n) s = .next { s with oldStores := s.oldStores.eraseIdx n }) ∧
       (o.returned = false → ∃ t, exec (.tableStoreReturn n) s = .next t ∧
         t.oldStores = s.oldStores.set n { o with running := s.running, returned := true } ∧ t.tables = s.tables)) ∧
     (∀ (n : Nat) o, s.oldStores[n]? = some o → s.allDone o.running = false → exec (.tableStoreReturn n) s = .next s) ∧
     (∀ num row x ls, Assoc.find s.tables num = some x → (x.rowAt row).state = .deleted ls → ∃ t y,
       exec (.rowStorageFree num row) s = .next t ∧ Assoc.find t.tables num = some y ∧ t.mem = s.mem ∧
       (y.rowAt row).state = (if s.allDone ls = true then .free else .deleted ls) ∧
       ∀ k, k ≠ row → y.rowAt k = x.rowAt k))

/-- IMAGE_LOAD of an image whose sections are as Table 2-4 has them and whose relocation records are those of its text, where
its tables and sections can be placed, tells the handles and keeps its launch records and scratch images; one of another
magic or version, with other relocation records, or whose tables are refused, is refused, and no table of it stays (R41,
R42; what the loader does with a malformed image, log 60).
MGMT_REGISTER_WRITE, once boot is ready, reaches the register named: handler bases and frame areas keep their alignment, a
fused minimum never falls, a withheld page is not handed out; before that it does nothing. MAINTENANCE_REPLAN within an open
window reports the new voltage and keeps the margin planned from the latest sample (a free value, log 81), and degrades a
core that cannot hold 800 MHz (R299, R305, R309, R349, R350, R362, R363). -/
def Obligations.ImageAndRegisterServices : Prop :=
  (∀ (s : State) (img : Image), s.kuenrex = true →
     (img.sections = none ∨ fieldAt img.bytes 0 4 ≠ 0x4F4C3458 ∨ fieldAt img.bytes 4 4 ≠ 1 →
       exec (.imageLoad img) s = .next (s.notify .imageRefused)) ∧
     ∀ p, img.sections = some p →
       (p.relocsOk img.clusterMap = false ∨ p.tables.length ≠ img.tableBases.length →
         exec (.imageLoad img) s = .next (s.notify .imageRefused)) ∧
       (p.relocsOk img.clusterMap = true → p.tables.length = img.tableBases.length → ∀ s1 ns,
         (State.loadTables img.domain (p.tables.zip img.tableBases) [] s = (s1, ns, false) → ∃ t,
           exec (.imageLoad img) s = .next t ∧ t.mem = s1.mem ∧ (∀ n ∈ ns, Assoc.find t.tables n = none) ∧
           t.mgmt.notices = s1.mgmt.notices ++ [.imageRefused]) ∧
         ∀ s2, State.loadTables img.domain (p.tables.zip img.tableBases) [] s = (s1, ns, true) →
           s1.placeImage img p (ns.map s1.handleOf) = some s2 → ∃ t, exec (.imageLoad img) s = .next t ∧
             t.mem = s2.mem ∧ t.tables = s2.tables ∧
             t.mgmt.notices = s2.mgmt.notices ++ [.imageLoaded (ns.map s1.handleOf)] ∧
             t.mgmt.programs = s2.mgmt.programs ++
               [⟨BitVec.ofNat 16 img.domain, img.recordBase, p.records.length / 128, p.scratch⟩])) ∧
  ((∀ (s : State) r v, s.kuenrex = false → exec (.mgmtRegisterWrite r v) s = .next s) ∧
   ∀ (s : State) (v : DWord), s.kuenrex = true →
     (∀ c, ∃ t, exec (.mgmtRegisterWrite (.trapBase c) v) s = .next t ∧
       (t.core c).trapBase = v &&& 0x000FFFFFFFFFFFFC#64 ∧ (t.core c).trapFrame = (s.core c).trapFrame ∧
       ∀ k, k ≠ c → t.core k = s.core k) ∧
     (∀ c, ∃ t, exec (.mgmtRegisterWrite (.trapFrame c) v) s = .next t ∧
       (t.core c).trapFrame = v &&& 0x000FFFFFFFFFFF00#64 ∧ (t.core c).slots = (s.core c).slots) ∧
     (∀ dom, ∃ t, exec (.mgmtRegisterWrite (.domainKey dom) v) s = .next t ∧
       (t.domainEntry dom).key = v.setWidth 10 ∧ (t.domainEntry dom).root1 = (s.domainEntry dom).root1) ∧
     (∀ stage, ∃ t, exec (.mgmtRegisterWrite (.fuseMinimum stage) v) s = .next t ∧
       (Assoc.get 0#16 t.boot.fuses.minimum stage).toNat =
         max (v.setWidth 16).toNat (Assoc.get 0#16 s.boot.fuses.minimum stage).toNat) ∧
     (v.toNat ∈ s.boot.withheld → exec (.mgmtRegisterWrite .kuenrexPage v) s = .next s) ∧
     (∃ t, exec (.mgmtRegisterWrite .maintenanceWindow v) s = .next t ∧ t.mgmt.maintenance = decide (v ≠ 0#64)) ∧
     (∀ r, ∃ t, exec (.mgmtRegisterWrite r v) s = .next t ∧ t.tables = s.tables) ∧
     ∀ c mv date holds, s.windowOpen = true → c < Config.cores → ∃ t,
       exec (.maintenanceReplan c mv date holds) s = .next t ∧ Assoc.get 0 t.mgmt.millivolt c = mv ∧
       Assoc.get 0 t.mgmt.margin c = s.plannedMargin c ∧ .replan c (Assoc.get 0 s.mgmt.millivolt c) mv date ∈ t.mgmt.notices ∧
       t.mem = s.mem ∧ (holds = true → t.mgmt.degraded = s.mgmt.degraded) ∧ (holds = false → c ∈ t.mgmt.degraded))

/-- LINK_FLIT_RECEIVE at a port that is up: a flit in sequence with a good code is acknowledged and taken: a read, a counter or
slots that a peer asks for are answered by the route to it, as is a TINV of a peer once its entries are gone from every TLB here
(R317), and the answer to a TINV of this package is one that its strand waits for no more, a promotion joins those to be served and a cancellation marks it, a
flacon takes its slot and is acknowledged, or reported back if damaged, exits of threads of a launch leave it, a response to
nothing, or 1 ms after its request was sent, is late and dropped, and slots so granted go back (R355); a unit that completes nothing changes nothing else. A flit received
before is dropped. One that is ahead or has a bad code is asked for again, once for those in flight behind it, and the
seventeenth failure takes the port down and reports it. A call for a replay sends the retry buffer again from a number on, an
acknowledgement empties it up to one. A port that is down takes nothing (R272, R354, R355; the seventeenth failure and what
passes while a replay is awaited, log 61; how a peer's requests are served and answered, log 35).
LINK_REQUEST_TIMEOUT: a request without an answer for 1 ms is no longer outstanding, source 14 reports it, and the lanes of
the operation that waits for it and go to that package fail as *integrity*, a home asked for is not known there; a younger
one is left (R355).
HOST_DOORBELL reaches the mailbox of a package strapped for a host. HOST_WINDOW_ACCESS within a mapped window writes
the host's bytes to memory, or answers with memory's bytes, and zeros where the read fails, under the window's key; what it
adds to the fault-address queue has source 15; outside the window, or without the strap, nothing happens (R298, R357; the
window's own key, log 38). -/
def Obligations.LinksAndHost : Prop :=
  ((∀ (s : State) (f : Flit), (s.port f.port).up = false → exec (.linkFlitReceive f) s = .next s) ∧
   ∀ (s : State) (f : Flit), (s.port f.port).up = true →
     let p := s.port f.port
     let s0 := (s.putPort f.port { p with expect := p.expect + 1, fails := 0, asked := none }).control f.port (.linkAck f.seq)
     (f.good = true → f.body.isControl = false → f.seq = p.expect → ∃ t, exec (.linkFlitReceive f) s = .next t ∧
       (∀ n w ref k p, f.body = .ask n w (.rows ref k) → s0.nearForm ref.toNat = some p →
         ∀ s1 ws, s0.nearRow w.who p.table (p.table.base + p.off) 0 k = (s1, .row ws) →
           t = (s0.fromSource s1 14).sendTo w.package (.response n 0 ws)) ∧
       (∀ n w ref k, f.body = .ask n w (.rows ref k) → s0.nearForm ref.toNat = none →
         (∀ s1 ws, State.blockWords w.who (farBlock ref.toNat) k (farOffset ref.toNat) s0 = (s1, .ok ws) →
           t = (s0.fromSource s1 14).sendTo w.package (.response n 0 ws)) ∧
         (∀ s1 e, State.blockWords w.who (farBlock ref.toNat) k (farOffset ref.toNat) s0 = (s1, .error e) →
           t = (s0.fromSource s1 14).sendTo w.package (.response n e.1.code []))) ∧
       (∀ n w h sel, f.body = .ask n w (.counter h sel) →
         (s0.usable h true = none → t = s0.sendTo w.package (.response n 0x15 [])) ∧
         (∀ x, s0.usable h true = some x →
           t = s0.sendTo w.package (.response n 0 (refWords (Assoc.get 0#64 x.counters sel).toNat)))) ∧
       (∀ n w dom addr second, f.body = .ask n w (.tinv dom addr second) → ∃ u : State,
         t = u.sendTo w.package (.response n 0 []) ∧ u.mem = s0.mem ∧ ∀ k, (u.core k).tlb =
           if k < Config.cores then (s0.core k).tlb.filter fun e => !e.removed dom addr second else (s0.core k).tlb) ∧
       (∀ n ws r st dom addr second rs, f.body = .response n 0 ws → r ∈ s.links.requests → r.id = n →
         (∀ q ∈ s.links.requests, q.id = n → q = r) → s.timePs < r.sent + 1000000000 → r.slot < 64 →
         (∀ o ∈ (s.core r.core).ops, n ∉ o.remote) → s.strand? r.core r.slot = some st →
         st.wait = .tinvFar dom addr second rs → n ∈ rs →
         ∃ x, t.strand? r.core r.slot = some x ∧ x.wait = .tinvFar dom addr second (rs.erase n)) ∧
       (∀ n w dom stack k, f.body = .ask n w (.slots dom stack k) →
         ((∀ j ∈ s0.nearCores dom stack, s0.freeConts j < k) → t = s0.sendTo w.package (.response n 1 [])) ∧
         ((∃ j ∈ s0.nearCores dom stack, k ≤ s0.freeConts j) → ∃ (u : State) (j : Nat), j ∈ s0.nearCores dom stack ∧ k ≤ s0.freeConts j ∧
           (u.core j).reservedFar = (s0.core j).reservedFar + k ∧
           t = u.sendTo w.package (.granted n Config.packageNumber j k))) ∧
       (∀ n w ref, f.body = .ask n w (.promo ref) →
         t = { s0 with links := { s0.links with promos := s0.links.promos ++ [⟨n, w, ref, false⟩] } }) ∧
       (∀ pkg n, f.body = .cancel pkg n → t = { s0 with links := { s0.links with promos := s0.links.promos.map fun x =>
         if x.who.package = pkg ∧ x.request = n then { x with cancel := true } else x } }) ∧
       (f.body = .part → t = s0) ∧
       (∀ n pkg dest k, f.body = .granted n pkg dest k →
         (∀ r ∈ s.links.requests, r.id = n → r.sent + 1000000000 ≤ s.timePs) →
         t = { s0 with links := { s0.links with late := s0.links.late + 1#64 } }.sendTo pkg (.slotsBack dest k)) ∧
       (∀ dest ok bs, f.body = .flacon dest ok bs → dest < Config.cores →
         let x := Flacon.ofBytes bs dest
         let ack (b : Bool) : FlitBody := .flaconAck x.core x.slot x.gen x.serial x.lane b
         ∃ u : State, t = u.sendTo x.package (ack (ok && (decide (0 < (s0.core dest).reservedFar) ||
             decide (0 < s0.freeConts dest)))) ∧
           (ok = true → 0 < (s0.core dest).reservedFar →
             u.core dest = ({ s0.core dest with reservedFar := (s0.core dest).reservedFar - 1 }.receive s0.timePs x).count
               0x4001)) ∧
       (∀ n st ws, f.body = .response n st ws → (∀ r ∈ s.links.requests, r.id = n → r.sent + 1000000000 ≤ s.timePs) →
         t = { s0 with links := { s0.links with late := s0.links.late + 1#64 } }) ∧
       (∀ launch k l, f.body = .threadExit launch k → Assoc.find s.launches launch = some l →
         Assoc.find t.launches launch = some { l with threads := l.threads - k } ∧ t.links = s0.links)) ∧
     (f.good = true → ∀ seq, f.body = .replay seq → ∃ t, exec (.linkFlitReceive f) s = .next t ∧ t.cores = s.cores ∧
       t.links.out = s.links.out ++ (p.retry.filter fun x => decide (seq ≤ x.1)).map fun x => (f.port, x.1, x.2)) ∧
     (f.good = true → ∀ seq, f.body = .linkAck seq → ∃ t, exec (.linkFlitReceive f) s = .next t ∧
       t.port f.port = { p with retry := p.retry.filter fun x => decide (seq < x.1) }) ∧
     (f.good = true → f.body.isControl = false → f.seq < p.expect → exec (.linkFlitReceive f) s = .next s) ∧
     (f.good = false ∨ f.body.isControl = false ∧ p.expect < f.seq → ∃ t, exec (.linkFlitReceive f) s = .next t ∧
       t.cores = s.cores ∧ t.mem = s.mem ∧
       let passes := f.seq ≠ p.expect ∧ ∃ last, p.asked = some last ∧ last < f.seq
       (passes → t.port f.port = { p with asked := some f.seq } ∧ t.links.out = s.links.out) ∧
       (¬ passes → p.fails ≠ 16 →
         t.port f.port = { p with fails := p.fails + 1, asked := some f.seq, replays := p.replays + 1 } ∧
         t.links.out = s.links.out ++ [(f.port, p.next, .replay p.expect)]) ∧
       (¬ passes → p.fails = 16 → (t.port f.port).up = false ∧ t.links.reports = s.links.reports ++ [f.port]))) ∧
  (∀ (s : State) (n : Nat) (r : Request), s.links.requests.find? (fun r => r.id == n) = some r →
     (s.timePs < r.sent + 1000000000 → exec (.linkRequestTimeout n) s = .next s) ∧
     (r.sent + 1000000000 ≤ s.timePs → ∃ t, exec (.linkRequestTimeout n) s = .next t ∧
       (∀ st q, 64 ≤ r.slot → r.slot < 128 → s.strand? r.core (r.slot % 64) = some st → st.inquiry = some q →
         ∃ x y, t.strand? r.core (r.slot % 64) = some x ∧ x.inquiry = some y ∧ y.slots = q.slots ∧
           y.homes = q.homes.map fun a => if a.request = r.id then { a with answer := some none } else a) ∧
       ∀ (m : Nat) (o : Op), r.slot < 64 → (s.core r.core).ops.findIdx? (fun o => o.remote.contains n) = some m →
         (s.core r.core).ops[m]? = some o → (s.core r.core).gen o.slot = o.gen → s.lanesTo r.core o r.pkg ≠ [] →
         (∀ q ∈ t.links.requests, q.id ≠ n) ∧
         (s.faultQ.length < 1024 → t.faultQ = s.faultQ ++
           [⟨0, 0x16, 14, (s.requestFor r).1, BitVec.ofNat 32 (s.requestFor r).2⟩]) ∧
         ∃ x, (t.core r.core).ops[m]? = some x ∧
           x.todo = o.todo &&& ~~~ maskOf (s.lanesTo r.core o r.pkg) ∧
           ∀ l ∈ s.lanesTo r.core o r.pkg, ⟨l, .integrity, 0⟩ ∈ x.faults)) ∧
  ((∀ (s : State) v win off wr bytes, s.links.hostMode = false → exec (.hostDoorbell v) s = .next s ∧
     exec (.hostWindowAccess win off wr bytes) s = .next s) ∧
   ∀ (s : State), s.links.hostMode = true →
     (∀ v, ∃ t, exec (.hostDoorbell v) s = .next t ∧ t.links.mailbox = s.links.mailbox ++ [v] ∧ t.mem = s.mem) ∧
     (∀ win off base size target key bytes, Assoc.find s.links.windows win = some (base, size, target, key) →
       let w : Who := { Who.nobody with keyid := BitVec.ofNat 10 key }
       (∀ wr, size < off + bytes.length → exec (.hostWindowAccess win off wr bytes) s = .next s) ∧
       (off + bytes.length ≤ size → (tierOf (target + off)).isSome = true →
         (tierOf (target + off + bytes.length - 1)).isSome = true →
         (∃ t, exec (.hostWindowAccess win off true bytes) s = .next t ∧
           t.mem = (s.writePhys w (target + off) bytes).1.mem ∧ ∀ e ∈ t.faultQ.drop s.faultQ.length, e.source = 15) ∧
         (∀ s1 bs, s.readPhys w (target + off) bytes.length = (s1, .ok bs) → ∃ t,
           exec (.hostWindowAccess win off false bytes) s = .next t ∧ t.mem = s1.mem ∧
           t.links.answers = s1.links.answers ++ [bs]) ∧
         (∀ s1 k, s.readPhys w (target + off) bytes.length = (s1, .error k) → ∃ t,
           exec (.hostWindowAccess win off false bytes) s = .next t ∧
           t.links.answers = s1.links.answers ++ [List.replicate bytes.length 0#8] ∧
           ∀ e ∈ t.faultQ.drop s.faultQ.length, e.source = 15))))

/-- FREEZE by the pin's rising edge, and the match of an armed counter, stop the clocks with their source recorded, and
whether resume is allowed: when no flit was in flight as they stopped, at the end of the trigger's cycle. Of two triggers of one
cycle the lower source stands; a later one is ignored. ENFLEURAGE_READOUT reads and changes nothing else, and what it reads does
not show which rows are defective and replaced (R15). RESUME starts the clocks, the freeze control register left as it is
(log 66), or sets REFUSED; RESET asks for a
package reset; REFUSED_CLEAR clears the bit (R358-R361).
PACKAGE_RESET leaves no strand, launch, block, table or translation, every bank set's map entry 0, boot at its start and
the clocks running (R8, R286, R361, Table 15-2). That flash, fuses, the list of bad pages, the ageing history and the record of
degraded cores stay, and that a spare which stood in for a core reported degraded passes no more, is the model's choice
(log 16). -/
def Obligations.FreezeAndReset : Prop :=
  (∀ (s : State),
     (s.freeze.frozen = false → s.freeze.pin = false → ∃ t, exec .freeze s = .next t ∧ t.freeze.frozen = true ∧
       t.freeze.status.toNat % 16 = 1 ∧ (t.freeze.status.getLsbD 9 = !s.links.flight) ∧
       (t.freeze.status.getLsbD 8 = s.links.flight) ∧ t.cores = s.cores ∧ t.mem = s.mem) ∧
     (s.freeze.frozen = true → s.freeze.pin = false → ∃ t, exec .freeze s = .next t ∧ t.freeze.frozen = true ∧
       (s.freeze.sameCycle = true → 1 < s.freeze.status.toNat % 8 → t.freeze.status.toNat % 8 = 1) ∧
       (s.freeze.sameCycle = false → t.freeze.status = s.freeze.status) ∧ t.cores = s.cores ∧ t.mem = s.mem) ∧
     (s.freeze.frozen = false → s.freeze.armedCycle = some s.cycles.toNat → ∃ t,
       exec .coreCycleCounterMatch s = .next t ∧ t.freeze.frozen = true ∧ t.freeze.status.toNat % 16 = 4 ∧
       t.cores = s.cores ∧ t.mem = s.mem) ∧
     (s.freeze.frozen = true →
       let z := s.stopClocks
       (s.freeze.sameCycle = false → z = s) ∧
       (s.freeze.sameCycle = true →
         z = { s with freeze := { s.freeze with sameCycle := false, status := z.freeze.status } } ∧
         (∀ i, i ≠ 8 → i ≠ 9 → z.freeze.status.getLsbD i = s.freeze.status.getLsbD i) ∧
         (z.freeze.status.getLsbD 9 = !s.links.flight) ∧ z.freeze.status.getLsbD 8 = s.links.flight) ∧
       (exec .enfleurageReadout s =
         .next { z with freeze := { z.freeze with readouts := z.freeze.readouts ++ [z.readOut] } }) ∧
       (z.freeze.status.getLsbD 9 = true → s.freeze.pin = false → exec .resume s =
         .next { z with freeze := { z.freeze with frozen := false, sameCycle := false, status := 0#32 } }) ∧
       (z.freeze.status.getLsbD 9 = false ∨ s.freeze.pin = true → ∃ t, exec .resume s = .next t ∧
         t.freeze.frozen = true ∧ t.freeze.control.getLsbD 2 = true ∧ t.cores = s.cores)) ∧
     (∀ rows map, ({ s with boot := { s.boot with badRows := rows, rowMap := map } } : State).readOut = s.readOut) ∧
     (exec .reset s = .next { s with freeze := { s.freeze with resetAsked := true } }) ∧
     (∃ t, exec .refusedClear s = .next t ∧ t.freeze.control.getLsbD 2 = false ∧ t.cores = s.cores ∧
       ∀ i, i ≠ 2 → t.freeze.control.getLsbD i = s.freeze.control.getLsbD i)) ∧
  (∀ (s : State), ∃ t, exec .packageReset s = .next t ∧ t.cores = [] ∧ t.launches = [] ∧ t.blocks = [] ∧ t.tables = [] ∧
     t.domains = [] ∧ t.banks = [] ∧ (∀ n, t.mapEntry n = 0#32) ∧ t.faultQ = [] ∧ t.overflows = 0#64 ∧ t.pointer = 319 ∧
     t.boot.next = 0 ∧ t.boot.code = 0 ∧ t.boot.stage = 0 ∧ t.boot.keySlot = 15 ∧ t.freeze.frozen = false ∧
     t.freeze.resetAsked = false ∧ t.boot.flash = s.boot.flash ∧ t.boot.fuses = s.boot.fuses ∧
     (∀ x ∈ t.boot.spares, x.passes = true → x ∈ s.boot.spares ∧
       ∀ c, c ∈ s.mgmt.degraded → coreDie c = x.die → (c, x.number) ∉ s.boot.coreMap) ∧
     t.boot.badPages = s.boot.badPages ∧ t.boot.history = s.boot.history ∧ t.mgmt.degraded = s.mgmt.degraded ∧
     t.freeze.pin = s.freeze.pin)

/-- BOOT_STAGE: a stage hands over to the next image when it has the magic, stage and length, a key slot that is not revoked
holds its keys and verifies both signatures of its header, its digest is that of its contents and its version is not below
the fused minimum; its identity is derived from the one before, that of stage 1 from the device secret, and all its bytes, and stage 1 certifies the alias keys of
stage 2 under its own. Untrained memory, or too few good cores of a die, stop stage 1 with the slot that verified it still
shown; each core that does not pass, too many defective rows of its array among the causes (log 16), has a spare of its die, which stands in for no other.
Stage 2 brings up the sixteen ports and is ready, and a boot that failed stays failed (R10, R349-R352, R363, Table 15-2).
The responder answers, in the order of the protocol and with an error out of it: the version, the capabilities, the
algorithms when P-384 is offered, the digest and the certificates that stage 1 gave the alias keys, and the measurements of
the images booted, signed with the P-384 alias key over the nonce and the measurements and with the LMS alias key over the
same (R352, R353; the order and the one slot, log 40). -/
def Obligations.BootAndAttestation : Prop :=
  ((∀ s : State, 0x80 ≤ s.boot.code → exec .bootStage s = .next s) ∧
   ∀ (s : State), s.boot.code < 0x80 →
     (∀ (b : Boot) (fw : Firmware) (i stage : Nat), s.boot.next + 1 = stage →
       stage = 1 ∧ b = s.boot ∨ stage = 2 ∧ s.boot.trained = true ∧ s.boot.mapCores s.mgmt.degraded = some b →
       s.boot.readable = true → Assoc.find s.boot.flash stage = some fw → fw.header.magic = Config.firmwareMagic →
       fw.header.stage = stage → fw.header.length = fw.contents.length →
       s.boot.fuses.slots.toList.findIdx? (fun k => k.accepts fw) = some i →
       Config.sha384 fw.contents = fw.header.digest →
       let next := Config.dice (if s.boot.next = 0 then Config.deviceSecret else s.boot.identity) (Config.sha384 fw.bytes)
       (fw.header.security.toNat < (Assoc.get 0#16 s.boot.fuses.minimum stage).toNat → ∃ t, exec .bootStage s = .next t ∧
         t.boot.code = 0x85 ∧ t.boot.keySlot = 15 ∧ t.boot.next = s.boot.next ∧ t.boot.identity = s.boot.identity) ∧
       ((Assoc.get 0#16 s.boot.fuses.minimum stage).toNat ≤ fw.header.security.toNat → ∃ t, exec .bootStage s = .next t ∧
         t.boot.next = stage ∧ t.boot.stage = stage ∧ t.boot.keySlot = i ∧ t.boot.code = s.boot.code ∧
         t.boot.identity = next ∧ t.boot.measures = s.boot.measures ++ [Config.sha384 fw.bytes] ∧
         (stage = 2 → t.boot.withheld = s.boot.badPages ∧ t.boot.ecdsaAlias = Config.aliasEcdsa next ∧
           t.boot.lmsAlias = Config.aliasLms next ∧ t.boot.certs =
             [Config.certify s.boot.identity (Config.aliasEcdsa next), Config.certify s.boot.identity (Config.aliasLms next)] ∧
           t.boot.coreMap = b.coreMap ∧ (t.boot.coreMap.map fun x => (coreDie x.1, x.2)).Nodup ∧ ∀ c < Config.cores, c ∈ s.boot.badCores ∨ c ∈ s.mgmt.degraded ∨
             s.boot.rowsFail c = true → ∃ x ∈ s.boot.spares, x.passes = true ∧ x.die = coreDie c ∧
               Assoc.find t.boot.coreMap c = some x.number))) ∧
     (∀ (fw : Firmware), s.boot.next = 0 → s.boot.readable = true → Assoc.find s.boot.flash 1 = some fw →
       fw.header.magic ≠ Config.firmwareMagic ∨ fw.header.stage ≠ 1 → ∃ t, exec .bootStage s = .next t ∧
         t.boot.code = 0x81 ∧ t.boot.next = 0) ∧
     (s.boot.next = 1 → s.boot.trained = false → ∃ t, exec .bootStage s = .next t ∧ t.boot.code = 0x86 ∧
       t.boot.next = 1 ∧ t.boot.keySlot = s.boot.keySlot) ∧
     (s.boot.next = 1 → s.boot.trained = true → s.boot.mapCores s.mgmt.degraded = none → ∃ t,
       exec .bootStage s = .next t ∧ t.boot.code = 0x87 ∧ t.boot.next = 1 ∧ t.boot.keySlot = s.boot.keySlot) ∧
     (s.boot.next = 2 → ∃ t, exec .bootStage s = .next t ∧ t.kuenrex = true ∧ t.boot.code = 1 ∧
       ∀ i < 16, (t.port i).up = true)) ∧
  (∀ (s : State), s.kuenrex = true →
     let answers := fun (i : Instr) (a : SpdmAnswer) => ∃ t, exec i s = .next t ∧ t.mgmt.spdm = s.mgmt.spdm ++ [a] ∧
       t.cores = s.cores ∧ t.mem = s.mem ∧ t.boot = s.boot
     let sig := fun nonce : BitVec 256 => Config.ecdsaSign s.boot.ecdsaAlias (s.boot.transcript nonce)
     answers .getVersion (.version 1 2) ∧
     (s.mgmt.spdmVersion = true → answers .getCapabilities .capabilities) ∧
     (s.mgmt.spdmVersion = true → ∀ b, answers (.negotiateAlgorithms b) (.algorithms b)) ∧
     (s.mgmt.spdmVersion = false → answers .getCapabilities .error) ∧
     (s.mgmt.negotiated = true → answers .getDigests (.digests [Config.sha384 s.boot.certs.flatten])) ∧
     (s.mgmt.negotiated = true → answers (.getCertificate 0) (.certificate 0 s.boot.certs)) ∧
     (∀ slot, slot ≠ 0 → answers (.getCertificate slot) .error) ∧
     (s.mgmt.negotiated = true → ∀ nonce, answers (.challenge nonce) (.challengeAuth (sig nonce))) ∧
     (s.mgmt.negotiated = true → ∀ nonce, answers (.getMeasurements nonce) (.measurements s.boot.measures (sig nonce)
       (Config.lmsSign s.boot.lmsAlias (s.boot.transcript nonce)))) ∧
     (s.mgmt.negotiated = false → ∀ nonce, answers (.getMeasurements nonce) .error))
end

