-- ==== Sys2Proof/Laws/Assoc.lean ====
section
/-! SUPPORT. Laws of sparse data: reading after writing, and the canonical form kept by every operation. -/

namespace Sys2Proof.Machine

variable {α : Type}

theorem Assoc.find_set_same (m : List (Nat × α)) (n : Nat) (v : α) : Assoc.find (Assoc.set m n v) n = some v := by
  induction m with
  | nil => simp [Assoc.set, Assoc.find]
  | cons h t ih =>
    obtain ⟨k, u⟩ := h
    by_cases h1 : n < k
    · simp [Assoc.set, Assoc.find, h1]
    · by_cases h2 : n = k
      · simp [Assoc.set, Assoc.find, h2]
      · simp [Assoc.set, Assoc.find, h1, h2, Ne.symm h2, ih]

theorem Assoc.find_set_other (m : List (Nat × α)) {n j : Nat} (v : α) (h : n ≠ j) :
    Assoc.find (Assoc.set m n v) j = Assoc.find m j := by
  induction m with
  | nil => simp [Assoc.set, Assoc.find, h]
  | cons hd t ih =>
    obtain ⟨k, u⟩ := hd
    by_cases h1 : n < k
    · simp [Assoc.set, Assoc.find, h1, h]
    · by_cases h2 : n = k
      · subst h2
        simp [Assoc.set, Assoc.find, h]
      · simp [Assoc.set, Assoc.find, h1, h2, ih]

theorem Assoc.get_eq_find (d : α) (m : List (Nat × α)) (n : Nat) :
    Assoc.get d m n = (Assoc.find m n).getD d := by
  induction m with
  | nil => rfl
  | cons h t ih =>
    obtain ⟨k, u⟩ := h
    by_cases h1 : k = n <;> simp [Assoc.get, Assoc.find, h1, ih]

@[simp] theorem Assoc.get_set_same (d : α) (m : List (Nat × α)) (n : Nat) (v : α) :
    Assoc.get d (Assoc.set m n v) n = v := by
  rw [Assoc.get_eq_find, Assoc.find_set_same]
  rfl

theorem Assoc.get_set_other (d : α) (m : List (Nat × α)) {n j : Nat} (v : α) (h : n ≠ j) :
    Assoc.get d (Assoc.set m n v) j = Assoc.get d m j := by
  rw [Assoc.get_eq_find, Assoc.get_eq_find, Assoc.find_set_other m v h]

@[simp] theorem Assoc.set_set (m : List (Nat × α)) (n : Nat) (v w : α) :
    Assoc.set (Assoc.set m n v) n w = Assoc.set m n w := by
  induction m with
  | nil => simp [Assoc.set]
  | cons h t ih =>
    obtain ⟨k, u⟩ := h
    by_cases h1 : n < k
    · simp [Assoc.set, h1]
    · by_cases h2 : n = k
      · simp [Assoc.set, h2]
      · simp [Assoc.set, h1, h2, ih]

theorem Assoc.find_erase_same (m : List (Nat × α)) (n : Nat) : Assoc.find (Assoc.erase m n) n = none := by
  induction m with
  | nil => rfl
  | cons h t ih =>
    obtain ⟨k, u⟩ := h
    by_cases h1 : k = n
    · simpa [Assoc.erase, h1] using ih
    · simpa [Assoc.erase, Assoc.find, h1] using ih

theorem Assoc.find_erase_other (m : List (Nat × α)) {n j : Nat} (h : n ≠ j) :
    Assoc.find (Assoc.erase m n) j = Assoc.find m j := by
  induction m with
  | nil => rfl
  | cons hd t ih =>
    obtain ⟨k, u⟩ := hd
    simp only [Assoc.erase] at ih
    by_cases h1 : k = n
    · subst h1
      simp [Assoc.erase, Assoc.find, h, ih]
    · have h3 : (k != n) = true := by simpa using h1
      simp only [Assoc.erase, List.filter_cons, h3, if_true, Assoc.find, ih]

theorem Assoc.get_put_same [DecidableEq α] (d : α) (m : List (Nat × α)) (n : Nat) (v : α) :
    Assoc.get d (Assoc.put d m n v) n = v := by
  unfold Assoc.put
  split
  · rw [Assoc.get_eq_find, Assoc.find_erase_same]
    simp_all
  · simp

theorem Assoc.get_put_other [DecidableEq α] (d : α) (m : List (Nat × α)) {n j : Nat} (v : α) (h : n ≠ j) :
    Assoc.get d (Assoc.put d m n v) j = Assoc.get d m j := by
  unfold Assoc.put
  split
  · rw [Assoc.get_eq_find, Assoc.get_eq_find, Assoc.find_erase_other m h]
  · exact Assoc.get_set_other d m v h

/-! ### The canonical form, as a property of pairs of entries -/

/-- The canonical form without recursion on neighbours. -/
theorem Assoc.sorted_iff (m : List (Nat × α)) : Assoc.sorted m = true ↔ m.Pairwise (fun p q => p.1 < q.1) := by
  induction m with
  | nil => simp [Assoc.sorted]
  | cons h t ih =>
    cases t with
    | nil => simp [Assoc.sorted]
    | cons h2 t2 =>
      obtain ⟨k, u⟩ := h
      obtain ⟨l, w⟩ := h2
      simp only [Assoc.sorted, Bool.and_eq_true, decide_eq_true_eq, ih, List.pairwise_cons]
      constructor
      · rintro ⟨hkl, hall, hp⟩
        refine ⟨fun p hp' => ?_, hall, hp⟩
        rcases List.mem_cons.mp hp' with rfl | hm
        · exact hkl
        · exact Nat.lt_trans hkl (hall p hm)
      · rintro ⟨h1, h2⟩
        exact ⟨h1 (l, w) (by simp), h2⟩

theorem Assoc.canonical_iff [DecidableEq α] (d : α) (m : List (Nat × α)) :
    Assoc.canonical d m = true ↔ m.Pairwise (fun p q => p.1 < q.1) ∧ ∀ p ∈ m, p.2 ≠ d := by
  simp [Assoc.canonical, Assoc.sorted_iff]

theorem Assoc.canonical_filter [DecidableEq α] {d : α} {m : List (Nat × α)} (f : Nat × α → Bool)
    (h : Assoc.canonical d m = true) : Assoc.canonical d (m.filter f) = true := by
  rw [Assoc.canonical_iff] at h ⊢
  exact ⟨h.1.filter f, fun p hp => h.2 p (List.mem_of_mem_filter hp)⟩

theorem Assoc.mem_run [DecidableEq α] (d : α) (a : Nat) (vs : List α) :
    ∀ p ∈ Assoc.run d a vs, a ≤ p.1 ∧ p.1 < a + vs.length ∧ p.2 ≠ d := by
  induction vs generalizing a with
  | nil => simp [Assoc.run]
  | cons v vs ih =>
    intro p hp
    unfold Assoc.run at hp
    split at hp
    · have := ih (a + 1) p hp
      simp only [List.length_cons]
      exact ⟨by omega, by omega, this.2.2⟩
    · rcases List.mem_cons.mp hp with rfl | hm
      · simp_all
      · have := ih (a + 1) p hm
        simp only [List.length_cons]
        exact ⟨by omega, by omega, this.2.2⟩

theorem Assoc.run_pairwise [DecidableEq α] (d : α) (a : Nat) (vs : List α) :
    (Assoc.run d a vs).Pairwise (fun p q => p.1 < q.1) := by
  induction vs generalizing a with
  | nil => simp [Assoc.run]
  | cons v vs ih =>
    unfold Assoc.run
    split
    · exact ih (a + 1)
    · rw [List.pairwise_cons]
      refine ⟨fun p hp => ?_, ih (a + 1)⟩
      have := (Assoc.mem_run d (a + 1) vs p hp).1
      simp only
      omega

/-- Splicing consecutive values keeps the canonical form. -/
theorem Assoc.canonical_splice [DecidableEq α] {d : α} {m : List (Nat × α)} (a : Nat) (vs : List α)
    (h : Assoc.canonical d m = true) : Assoc.canonical d (Assoc.splice d m a vs) = true := by
  rw [Assoc.canonical_iff] at h ⊢
  constructor
  · unfold Assoc.splice
    rw [List.pairwise_append, List.pairwise_append]
    refine ⟨⟨h.1.filter _, Assoc.run_pairwise d a vs, ?_⟩, h.1.filter _, ?_⟩
    · intro p hp q hq
      have hpa := (List.mem_filter.mp hp).2
      have := (Assoc.mem_run d a vs q hq).1
      simp only [decide_eq_true_eq] at hpa
      omega
    · intro p hp q hq
      have hqa := (List.mem_filter.mp hq).2
      simp only [decide_eq_true_eq] at hqa
      rcases List.mem_append.mp hp with hm | hm
      · have hpa := (List.mem_filter.mp hm).2
        simp only [decide_eq_true_eq] at hpa
        omega
      · have := (Assoc.mem_run d a vs p hm).2.1
        omega
  · intro p hp
    unfold Assoc.splice at hp
    rcases List.mem_append.mp hp with hm | hm
    · rcases List.mem_append.mp hm with hm | hm
      · exact h.2 p (List.mem_of_mem_filter hm)
      · exact (Assoc.mem_run d a vs p hm).2.2
    · exact h.2 p (List.mem_of_mem_filter hm)

theorem Assoc.mem_set (m : List (Nat × α)) (n : Nat) (v : α) :
    ∀ p ∈ Assoc.set m n v, p = (n, v) ∨ p ∈ m := by
  induction m with
  | nil => simp [Assoc.set]
  | cons h t ih =>
    obtain ⟨k, u⟩ := h
    intro p hp
    unfold Assoc.set at hp
    split at hp
    · simpa using hp
    · split at hp
      · rcases List.mem_cons.mp hp with h | h
        · exact .inl h
        · exact .inr (List.mem_cons_of_mem _ h)
      · rcases List.mem_cons.mp hp with h | h
        · exact .inr (by simp [h])
        · rcases ih p h with h | h
          · exact .inl h
          · exact .inr (List.mem_cons_of_mem _ h)

theorem Assoc.set_pairwise (m : List (Nat × α)) (n : Nat) (v : α) (h : m.Pairwise (fun p q => p.1 < q.1)) :
    (Assoc.set m n v).Pairwise (fun p q => p.1 < q.1) := by
  induction m with
  | nil => simp [Assoc.set]
  | cons hd t ih =>
    obtain ⟨k, u⟩ := hd
    rw [List.pairwise_cons] at h
    unfold Assoc.set
    split
    · rename_i hlt
      rw [List.pairwise_cons, List.pairwise_cons]
      refine ⟨fun p hp => ?_, h⟩
      rcases List.mem_cons.mp hp with rfl | hm
      · exact hlt
      · exact Nat.lt_trans hlt (h.1 p hm)
    · split
      · rename_i heq
        subst heq
        exact List.pairwise_cons.mpr h
      · refine List.pairwise_cons.mpr ⟨fun p hp => ?_, ih h.2⟩
        rcases Assoc.mem_set t n v p hp with rfl | hm
        · simp only
          omega
        · exact h.1 p hm

/-- Writing one value keeps the canonical form. -/
theorem Assoc.canonical_put [DecidableEq α] {d : α} {m : List (Nat × α)} (n : Nat) (v : α)
    (h : Assoc.canonical d m = true) : Assoc.canonical d (Assoc.put d m n v) = true := by
  unfold Assoc.put
  split
  · exact Assoc.canonical_filter _ h
  · rename_i hv
    rw [Assoc.canonical_iff] at h ⊢
    refine ⟨Assoc.set_pairwise m n v h.1, fun p hp => ?_⟩
    rcases Assoc.mem_set m n v p hp with rfl | hm
    · exact hv
    · exact h.2 p hm

/-! ### Ranges read back -/

theorem Assoc.get_filter_false (d : α) (m : List (Nat × α)) (f : Nat → Bool) (n : Nat) (h : f n = false) :
    Assoc.get d (m.filter fun p => f p.1) n = d := by
  induction m with
  | nil => rfl
  | cons p t ih =>
    obtain ⟨k, v⟩ := p
    by_cases hk : f k = true
    · have hn : k ≠ n := fun e => by rw [e, h] at hk; cases hk
      simp [List.filter, hk, Assoc.get, hn, ih]
    · simp [List.filter, hk, ih]

theorem Assoc.get_filter_true (d : α) (m : List (Nat × α)) (f : Nat → Bool) (n : Nat) (h : f n = true) :
    Assoc.get d (m.filter fun p => f p.1) n = Assoc.get d m n := by
  induction m with
  | nil => rfl
  | cons p t ih =>
    obtain ⟨k, v⟩ := p
    by_cases hk : f k = true
    · simp [List.filter, hk, Assoc.get, ih]
    · have hn : k ≠ n := fun e => hk (e ▸ h)
      simp [List.filter, hk, Assoc.get, hn, ih]

theorem Assoc.get_append (d : α) (xs ys : List (Nat × α)) (n : Nat) :
    Assoc.get d (xs ++ ys) n = if n ∈ xs.map Prod.fst then Assoc.get d xs n else Assoc.get d ys n := by
  induction xs with
  | nil => simp
  | cons p t ih =>
    obtain ⟨k, v⟩ := p
    by_cases hk : k = n
    · simp [Assoc.get, hk]
    · have hk' : n ≠ k := fun e => hk e.symm
      simp only [List.cons_append, Assoc.get, hk, if_false, ih, List.map_cons, List.mem_cons, hk', false_or]

theorem Assoc.get_unlisted (d : α) (xs : List (Nat × α)) (n : Nat) (h : n ∉ xs.map Prod.fst) : Assoc.get d xs n = d := by
  induction xs with
  | nil => rfl
  | cons p t ih =>
    obtain ⟨k, v⟩ := p
    simp only [List.map_cons, List.mem_cons, not_or] at h
    have hk : k ≠ n := fun e => h.1 e.symm
    simp only [Assoc.get, if_neg hk, ih h.2]

theorem Assoc.get_run [DecidableEq α] (d : α) (a : Nat) (vs : List α) (n : Nat) :
    Assoc.get d (Assoc.run d a vs) n = if a ≤ n ∧ n < a + vs.length then vs.getD (n - a) d else d := by
  induction vs generalizing a with
  | nil => simp [Assoc.run, Assoc.get]
  | cons v vs ih =>
    by_cases hn : a = n
    · subst hn
      by_cases hd : v = d
      · simp [Assoc.run, hd, ih]
      · simp [Assoc.run, hd, Assoc.get]
    · have step : Assoc.get d (Assoc.run d a (v :: vs)) n = Assoc.get d (Assoc.run d (a + 1) vs) n := by
        by_cases hd : v = d
        · simp [Assoc.run, hd]
        · simp [Assoc.run, hd, Assoc.get, hn]
      rw [step, ih]
      by_cases h1 : a + 1 ≤ n ∧ n < a + 1 + vs.length
      · have h2 : a ≤ n ∧ n < a + (v :: vs).length := by simp only [List.length_cons]; omega
        rw [if_pos h1, if_pos h2]
        obtain ⟨j, hj⟩ : ∃ j, n - a = j + 1 := ⟨n - a - 1, by omega⟩
        rw [hj, List.getD_cons_succ, show n - (a + 1) = j by omega]
      · have h2 : ¬ (a ≤ n ∧ n < a + (v :: vs).length) := by simp only [List.length_cons]; omega
        rw [if_neg h1, if_neg h2]

theorem Assoc.get_splice [DecidableEq α] (d : α) (m : List (Nat × α)) (a : Nat) (vs : List α) (n : Nat) :
    Assoc.get d (Assoc.splice d m a vs) n =
      if a ≤ n ∧ n < a + vs.length then vs.getD (n - a) d else Assoc.get d m n := by
  have hl := Assoc.get_filter_true d m (fun k => decide (k < a)) n
  have hl' := Assoc.get_filter_false d m (fun k => decide (k < a)) n
  have hh := Assoc.get_filter_true d m (fun k => decide (a + vs.length ≤ k)) n
  have hh' := Assoc.get_filter_false d m (fun k => decide (a + vs.length ≤ k)) n
  unfold Assoc.splice
  rw [Assoc.get_append, Assoc.get_append]
  simp only [List.map_append, List.mem_append]
  by_cases h1 : n < a
  · have hg := hl (by simpa using h1)
    have hr : n ∉ (Assoc.run d a vs).map Prod.fst := by
      intro hm
      obtain ⟨p, hp, rfl⟩ := List.mem_map.mp hm
      have := Assoc.mem_run d a vs p hp
      omega
    rw [if_neg (by omega : ¬ (a ≤ n ∧ n < a + vs.length))]
    by_cases hm : n ∈ (m.filter fun p => decide (p.1 < a)).map Prod.fst
    · rw [if_pos (Or.inl hm), if_pos hm, hg]
    · rw [if_neg (by tauto), hh' (by simp; omega)]
      have : Assoc.get d (m.filter fun p => decide (p.1 < a)) n = d :=
        Assoc.get_unlisted d _ n hm
      rw [← hg, this]
  · have hm : n ∉ (m.filter fun p => decide (p.1 < a)).map Prod.fst := by
      intro hm
      obtain ⟨p, hp, rfl⟩ := List.mem_map.mp hm
      have := (List.mem_filter.mp hp).2
      simp at this
      exact h1 this
    by_cases h2 : n < a + vs.length
    · rw [if_pos (⟨by omega, h2⟩ : a ≤ n ∧ n < a + vs.length)]
      have hg := Assoc.get_run d a vs n
      rw [if_pos (⟨by omega, h2⟩ : a ≤ n ∧ n < a + vs.length)] at hg
      by_cases hr : n ∈ (Assoc.run d a vs).map Prod.fst
      · rw [if_pos (Or.inr hr), if_neg hm, hg]
      · rw [if_neg (by tauto), hh' (by simp; omega), ← hg]
        exact (Assoc.get_unlisted d _ n hr).symm
    · have hr : n ∉ (Assoc.run d a vs).map Prod.fst := by
        intro hr
        obtain ⟨p, hp, rfl⟩ := List.mem_map.mp hr
        have := Assoc.mem_run d a vs p hp
        omega
      rw [if_neg (by omega : ¬ (a ≤ n ∧ n < a + vs.length)), if_neg (by tauto), hh (by simp; omega)]

end Sys2Proof.Machine
end

