-- ==== Sys2Proof/Laws/State.lean ====
section
/-! SUPPORT. What each update of the state leaves alone: one lemma per field per update. -/

namespace Sys2Proof.Machine

/-- A fold whose steps all keep a projection keeps it. -/
theorem foldl_keep {σ α β : Type} (p : σ → β) (f : σ → α → σ) (h : ∀ x a, p (f x a) = p x) (l : List α) (x : σ) :
    p (l.foldl f x) = p x := by
  induction l generalizing x with
  | nil => rfl
  | cons a t ih => rw [List.foldl_cons, ih, h]


/-! ### Updates of the state -/

@[simp] theorem State.setCore_cur (s : State) (c : Nat) (x : CoreSt) :
    (s.setCore c x).cur = s.cur := rfl

@[simp] theorem State.setCore_agenda (s : State) (c : Nat) (x : CoreSt) :
    (s.setCore c x).agenda = s.agenda := rfl

@[simp] theorem State.setCore_fresh (s : State) (c : Nat) (x : CoreSt) :
    (s.setCore c x).fresh = s.fresh := rfl

@[simp] theorem State.setCore_slate (s : State) (c : Nat) (x : CoreSt) :
    (s.setCore c x).slate = s.slate := rfl

@[simp] theorem State.setCore_round (s : State) (c : Nat) (x : CoreSt) :
    (s.setCore c x).round = s.round := rfl

@[simp] theorem State.setCore_timePs (s : State) (c : Nat) (x : CoreSt) :
    (s.setCore c x).timePs = s.timePs := rfl

@[simp] theorem State.setCore_cycles (s : State) (c : Nat) (x : CoreSt) :
    (s.setCore c x).cycles = s.cycles := rfl

@[simp] theorem State.setCore_coreMHz (s : State) (c : Nat) (x : CoreSt) :
    (s.setCore c x).coreMHz = s.coreMHz := rfl

@[simp] theorem State.setCore_slow (s : State) (c : Nat) (x : CoreSt) :
    (s.setCore c x).slow = s.slow := rfl

@[simp] theorem State.setCore_mem (s : State) (c : Nat) (x : CoreSt) :
    (s.setCore c x).mem = s.mem := rfl

@[simp] theorem State.setCore_tables (s : State) (c : Nat) (x : CoreSt) :
    (s.setCore c x).tables = s.tables := rfl

@[simp] theorem State.setCore_tableGens (s : State) (c : Nat) (x : CoreSt) :
    (s.setCore c x).tableGens = s.tableGens := rfl

@[simp] theorem State.setCore_oldStores (s : State) (c : Nat) (x : CoreSt) :
    (s.setCore c x).oldStores = s.oldStores := rfl

@[simp] theorem State.setCore_launches (s : State) (c : Nat) (x : CoreSt) :
    (s.setCore c x).launches = s.launches := rfl

@[simp] theorem State.setCore_nextLaunch (s : State) (c : Nat) (x : CoreSt) :
    (s.setCore c x).nextLaunch = s.nextLaunch := rfl

@[simp] theorem State.setCore_pointer (s : State) (c : Nat) (x : CoreSt) :
    (s.setCore c x).pointer = s.pointer := rfl

@[simp] theorem State.setCore_blocks (s : State) (c : Nat) (x : CoreSt) :
    (s.setCore c x).blocks = s.blocks := rfl

@[simp] theorem State.setCore_nextAge (s : State) (c : Nat) (x : CoreSt) :
    (s.setCore c x).nextAge = s.nextAge := rfl

@[simp] theorem State.setCore_stackCtl (s : State) (c : Nat) (x : CoreSt) :
    (s.setCore c x).stackCtl = s.stackCtl := rfl

@[simp] theorem State.setCore_banks (s : State) (c : Nat) (x : CoreSt) :
    (s.setCore c x).banks = s.banks := rfl

@[simp] theorem State.setCore_blockBase (s : State) (c : Nat) (x : CoreSt) :
    (s.setCore c x).blockBase = s.blockBase := rfl

@[simp] theorem State.setCore_faultQ (s : State) (c : Nat) (x : CoreSt) :
    (s.setCore c x).faultQ = s.faultQ := rfl

@[simp] theorem State.setCore_overflows (s : State) (c : Nat) (x : CoreSt) :
    (s.setCore c x).overflows = s.overflows := rfl

@[simp] theorem State.setCore_keyEpoch (s : State) (c : Nat) (x : CoreSt) :
    (s.setCore c x).keyEpoch = s.keyEpoch := rfl

@[simp] theorem State.setCore_domains (s : State) (c : Nat) (x : CoreSt) :
    (s.setCore c x).domains = s.domains := rfl

@[simp] theorem State.setCore_transit (s : State) (c : Nat) (x : CoreSt) :
    (s.setCore c x).transit = s.transit := rfl

@[simp] theorem State.setCore_acks (s : State) (c : Nat) (x : CoreSt) :
    (s.setCore c x).acks = s.acks := rfl

@[simp] theorem State.setCore_boot (s : State) (c : Nat) (x : CoreSt) :
    (s.setCore c x).boot = s.boot := rfl

@[simp] theorem State.setCore_freeze (s : State) (c : Nat) (x : CoreSt) :
    (s.setCore c x).freeze = s.freeze := rfl

@[simp] theorem State.setCore_links (s : State) (c : Nat) (x : CoreSt) :
    (s.setCore c x).links = s.links := rfl

@[simp] theorem State.setCore_mgmt (s : State) (c : Nat) (x : CoreSt) :
    (s.setCore c x).mgmt = s.mgmt := rfl

@[simp] theorem State.modCore_cur (s : State) (c : Nat) (f : CoreSt → CoreSt) :
    (s.modCore c f).cur = s.cur := rfl

@[simp] theorem State.modCore_agenda (s : State) (c : Nat) (f : CoreSt → CoreSt) :
    (s.modCore c f).agenda = s.agenda := rfl

@[simp] theorem State.modCore_fresh (s : State) (c : Nat) (f : CoreSt → CoreSt) :
    (s.modCore c f).fresh = s.fresh := rfl

@[simp] theorem State.modCore_slate (s : State) (c : Nat) (f : CoreSt → CoreSt) :
    (s.modCore c f).slate = s.slate := rfl

@[simp] theorem State.modCore_round (s : State) (c : Nat) (f : CoreSt → CoreSt) :
    (s.modCore c f).round = s.round := rfl

@[simp] theorem State.modCore_timePs (s : State) (c : Nat) (f : CoreSt → CoreSt) :
    (s.modCore c f).timePs = s.timePs := rfl

@[simp] theorem State.modCore_cycles (s : State) (c : Nat) (f : CoreSt → CoreSt) :
    (s.modCore c f).cycles = s.cycles := rfl

@[simp] theorem State.modCore_coreMHz (s : State) (c : Nat) (f : CoreSt → CoreSt) :
    (s.modCore c f).coreMHz = s.coreMHz := rfl

@[simp] theorem State.modCore_slow (s : State) (c : Nat) (f : CoreSt → CoreSt) :
    (s.modCore c f).slow = s.slow := rfl

@[simp] theorem State.modCore_mem (s : State) (c : Nat) (f : CoreSt → CoreSt) :
    (s.modCore c f).mem = s.mem := rfl

@[simp] theorem State.modCore_tables (s : State) (c : Nat) (f : CoreSt → CoreSt) :
    (s.modCore c f).tables = s.tables := rfl

@[simp] theorem State.modCore_tableGens (s : State) (c : Nat) (f : CoreSt → CoreSt) :
    (s.modCore c f).tableGens = s.tableGens := rfl

@[simp] theorem State.modCore_oldStores (s : State) (c : Nat) (f : CoreSt → CoreSt) :
    (s.modCore c f).oldStores = s.oldStores := rfl

@[simp] theorem State.modCore_launches (s : State) (c : Nat) (f : CoreSt → CoreSt) :
    (s.modCore c f).launches = s.launches := rfl

@[simp] theorem State.modCore_nextLaunch (s : State) (c : Nat) (f : CoreSt → CoreSt) :
    (s.modCore c f).nextLaunch = s.nextLaunch := rfl

@[simp] theorem State.modCore_pointer (s : State) (c : Nat) (f : CoreSt → CoreSt) :
    (s.modCore c f).pointer = s.pointer := rfl

@[simp] theorem State.modCore_blocks (s : State) (c : Nat) (f : CoreSt → CoreSt) :
    (s.modCore c f).blocks = s.blocks := rfl

@[simp] theorem State.modCore_nextAge (s : State) (c : Nat) (f : CoreSt → CoreSt) :
    (s.modCore c f).nextAge = s.nextAge := rfl

@[simp] theorem State.modCore_stackCtl (s : State) (c : Nat) (f : CoreSt → CoreSt) :
    (s.modCore c f).stackCtl = s.stackCtl := rfl

@[simp] theorem State.modCore_banks (s : State) (c : Nat) (f : CoreSt → CoreSt) :
    (s.modCore c f).banks = s.banks := rfl

@[simp] theorem State.modCore_blockBase (s : State) (c : Nat) (f : CoreSt → CoreSt) :
    (s.modCore c f).blockBase = s.blockBase := rfl

@[simp] theorem State.modCore_faultQ (s : State) (c : Nat) (f : CoreSt → CoreSt) :
    (s.modCore c f).faultQ = s.faultQ := rfl

@[simp] theorem State.modCore_overflows (s : State) (c : Nat) (f : CoreSt → CoreSt) :
    (s.modCore c f).overflows = s.overflows := rfl

@[simp] theorem State.modCore_keyEpoch (s : State) (c : Nat) (f : CoreSt → CoreSt) :
    (s.modCore c f).keyEpoch = s.keyEpoch := rfl

@[simp] theorem State.modCore_domains (s : State) (c : Nat) (f : CoreSt → CoreSt) :
    (s.modCore c f).domains = s.domains := rfl

@[simp] theorem State.modCore_transit (s : State) (c : Nat) (f : CoreSt → CoreSt) :
    (s.modCore c f).transit = s.transit := rfl

@[simp] theorem State.modCore_acks (s : State) (c : Nat) (f : CoreSt → CoreSt) :
    (s.modCore c f).acks = s.acks := rfl

@[simp] theorem State.modCore_boot (s : State) (c : Nat) (f : CoreSt → CoreSt) :
    (s.modCore c f).boot = s.boot := rfl

@[simp] theorem State.modCore_freeze (s : State) (c : Nat) (f : CoreSt → CoreSt) :
    (s.modCore c f).freeze = s.freeze := rfl

@[simp] theorem State.modCore_links (s : State) (c : Nat) (f : CoreSt → CoreSt) :
    (s.modCore c f).links = s.links := rfl

@[simp] theorem State.modCore_mgmt (s : State) (c : Nat) (f : CoreSt → CoreSt) :
    (s.modCore c f).mgmt = s.mgmt := rfl

@[simp] theorem State.setStrand_cur (s : State) (c sl : Nat) (st : Strand) :
    (s.setStrand c sl st).cur = s.cur := rfl

@[simp] theorem State.setStrand_agenda (s : State) (c sl : Nat) (st : Strand) :
    (s.setStrand c sl st).agenda = s.agenda := rfl

@[simp] theorem State.setStrand_fresh (s : State) (c sl : Nat) (st : Strand) :
    (s.setStrand c sl st).fresh = s.fresh := rfl

@[simp] theorem State.setStrand_slate (s : State) (c sl : Nat) (st : Strand) :
    (s.setStrand c sl st).slate = s.slate := rfl

@[simp] theorem State.setStrand_round (s : State) (c sl : Nat) (st : Strand) :
    (s.setStrand c sl st).round = s.round := rfl

@[simp] theorem State.setStrand_timePs (s : State) (c sl : Nat) (st : Strand) :
    (s.setStrand c sl st).timePs = s.timePs := rfl

@[simp] theorem State.setStrand_cycles (s : State) (c sl : Nat) (st : Strand) :
    (s.setStrand c sl st).cycles = s.cycles := rfl

@[simp] theorem State.setStrand_coreMHz (s : State) (c sl : Nat) (st : Strand) :
    (s.setStrand c sl st).coreMHz = s.coreMHz := rfl

@[simp] theorem State.setStrand_slow (s : State) (c sl : Nat) (st : Strand) :
    (s.setStrand c sl st).slow = s.slow := rfl

@[simp] theorem State.setStrand_mem (s : State) (c sl : Nat) (st : Strand) :
    (s.setStrand c sl st).mem = s.mem := rfl

@[simp] theorem State.setStrand_tables (s : State) (c sl : Nat) (st : Strand) :
    (s.setStrand c sl st).tables = s.tables := rfl

@[simp] theorem State.setStrand_tableGens (s : State) (c sl : Nat) (st : Strand) :
    (s.setStrand c sl st).tableGens = s.tableGens := rfl

@[simp] theorem State.setStrand_oldStores (s : State) (c sl : Nat) (st : Strand) :
    (s.setStrand c sl st).oldStores = s.oldStores := rfl

@[simp] theorem State.setStrand_launches (s : State) (c sl : Nat) (st : Strand) :
    (s.setStrand c sl st).launches = s.launches := rfl

@[simp] theorem State.setStrand_nextLaunch (s : State) (c sl : Nat) (st : Strand) :
    (s.setStrand c sl st).nextLaunch = s.nextLaunch := rfl

@[simp] theorem State.setStrand_pointer (s : State) (c sl : Nat) (st : Strand) :
    (s.setStrand c sl st).pointer = s.pointer := rfl

@[simp] theorem State.setStrand_blocks (s : State) (c sl : Nat) (st : Strand) :
    (s.setStrand c sl st).blocks = s.blocks := rfl

@[simp] theorem State.setStrand_nextAge (s : State) (c sl : Nat) (st : Strand) :
    (s.setStrand c sl st).nextAge = s.nextAge := rfl

@[simp] theorem State.setStrand_stackCtl (s : State) (c sl : Nat) (st : Strand) :
    (s.setStrand c sl st).stackCtl = s.stackCtl := rfl

@[simp] theorem State.setStrand_banks (s : State) (c sl : Nat) (st : Strand) :
    (s.setStrand c sl st).banks = s.banks := rfl

@[simp] theorem State.setStrand_blockBase (s : State) (c sl : Nat) (st : Strand) :
    (s.setStrand c sl st).blockBase = s.blockBase := rfl

@[simp] theorem State.setStrand_faultQ (s : State) (c sl : Nat) (st : Strand) :
    (s.setStrand c sl st).faultQ = s.faultQ := rfl

@[simp] theorem State.setStrand_overflows (s : State) (c sl : Nat) (st : Strand) :
    (s.setStrand c sl st).overflows = s.overflows := rfl

@[simp] theorem State.setStrand_keyEpoch (s : State) (c sl : Nat) (st : Strand) :
    (s.setStrand c sl st).keyEpoch = s.keyEpoch := rfl

@[simp] theorem State.setStrand_domains (s : State) (c sl : Nat) (st : Strand) :
    (s.setStrand c sl st).domains = s.domains := rfl

@[simp] theorem State.setStrand_transit (s : State) (c sl : Nat) (st : Strand) :
    (s.setStrand c sl st).transit = s.transit := rfl

@[simp] theorem State.setStrand_acks (s : State) (c sl : Nat) (st : Strand) :
    (s.setStrand c sl st).acks = s.acks := rfl

@[simp] theorem State.setStrand_boot (s : State) (c sl : Nat) (st : Strand) :
    (s.setStrand c sl st).boot = s.boot := rfl

@[simp] theorem State.setStrand_freeze (s : State) (c sl : Nat) (st : Strand) :
    (s.setStrand c sl st).freeze = s.freeze := rfl

@[simp] theorem State.setStrand_links (s : State) (c sl : Nat) (st : Strand) :
    (s.setStrand c sl st).links = s.links := rfl

@[simp] theorem State.setStrand_mgmt (s : State) (c sl : Nat) (st : Strand) :
    (s.setStrand c sl st).mgmt = s.mgmt := rfl

@[simp] theorem State.setHere_cur (s : State) (st : Strand) :
    (s.setHere st).cur = s.cur := rfl

@[simp] theorem State.setHere_agenda (s : State) (st : Strand) :
    (s.setHere st).agenda = s.agenda := rfl

@[simp] theorem State.setHere_fresh (s : State) (st : Strand) :
    (s.setHere st).fresh = s.fresh := rfl

@[simp] theorem State.setHere_slate (s : State) (st : Strand) :
    (s.setHere st).slate = s.slate := rfl

@[simp] theorem State.setHere_round (s : State) (st : Strand) :
    (s.setHere st).round = s.round := rfl

@[simp] theorem State.setHere_timePs (s : State) (st : Strand) :
    (s.setHere st).timePs = s.timePs := rfl

@[simp] theorem State.setHere_cycles (s : State) (st : Strand) :
    (s.setHere st).cycles = s.cycles := rfl

@[simp] theorem State.setHere_coreMHz (s : State) (st : Strand) :
    (s.setHere st).coreMHz = s.coreMHz := rfl

@[simp] theorem State.setHere_slow (s : State) (st : Strand) :
    (s.setHere st).slow = s.slow := rfl

@[simp] theorem State.setHere_mem (s : State) (st : Strand) :
    (s.setHere st).mem = s.mem := rfl

@[simp] theorem State.setHere_tables (s : State) (st : Strand) :
    (s.setHere st).tables = s.tables := rfl

@[simp] theorem State.setHere_tableGens (s : State) (st : Strand) :
    (s.setHere st).tableGens = s.tableGens := rfl

@[simp] theorem State.setHere_oldStores (s : State) (st : Strand) :
    (s.setHere st).oldStores = s.oldStores := rfl

@[simp] theorem State.setHere_launches (s : State) (st : Strand) :
    (s.setHere st).launches = s.launches := rfl

@[simp] theorem State.setHere_nextLaunch (s : State) (st : Strand) :
    (s.setHere st).nextLaunch = s.nextLaunch := rfl

@[simp] theorem State.setHere_pointer (s : State) (st : Strand) :
    (s.setHere st).pointer = s.pointer := rfl

@[simp] theorem State.setHere_blocks (s : State) (st : Strand) :
    (s.setHere st).blocks = s.blocks := rfl

@[simp] theorem State.setHere_nextAge (s : State) (st : Strand) :
    (s.setHere st).nextAge = s.nextAge := rfl

@[simp] theorem State.setHere_stackCtl (s : State) (st : Strand) :
    (s.setHere st).stackCtl = s.stackCtl := rfl

@[simp] theorem State.setHere_banks (s : State) (st : Strand) :
    (s.setHere st).banks = s.banks := rfl

@[simp] theorem State.setHere_blockBase (s : State) (st : Strand) :
    (s.setHere st).blockBase = s.blockBase := rfl

@[simp] theorem State.setHere_faultQ (s : State) (st : Strand) :
    (s.setHere st).faultQ = s.faultQ := rfl

@[simp] theorem State.setHere_overflows (s : State) (st : Strand) :
    (s.setHere st).overflows = s.overflows := rfl

@[simp] theorem State.setHere_keyEpoch (s : State) (st : Strand) :
    (s.setHere st).keyEpoch = s.keyEpoch := rfl

@[simp] theorem State.setHere_domains (s : State) (st : Strand) :
    (s.setHere st).domains = s.domains := rfl

@[simp] theorem State.setHere_transit (s : State) (st : Strand) :
    (s.setHere st).transit = s.transit := rfl

@[simp] theorem State.setHere_acks (s : State) (st : Strand) :
    (s.setHere st).acks = s.acks := rfl

@[simp] theorem State.setHere_boot (s : State) (st : Strand) :
    (s.setHere st).boot = s.boot := rfl

@[simp] theorem State.setHere_freeze (s : State) (st : Strand) :
    (s.setHere st).freeze = s.freeze := rfl

@[simp] theorem State.setHere_links (s : State) (st : Strand) :
    (s.setHere st).links = s.links := rfl

@[simp] theorem State.setHere_mgmt (s : State) (st : Strand) :
    (s.setHere st).mgmt = s.mgmt := rfl

@[simp] theorem State.count_cur (s : State) (c sel n : Nat) :
    (s.count c sel n).cur = s.cur := rfl

@[simp] theorem State.count_agenda (s : State) (c sel n : Nat) :
    (s.count c sel n).agenda = s.agenda := rfl

@[simp] theorem State.count_fresh (s : State) (c sel n : Nat) :
    (s.count c sel n).fresh = s.fresh := rfl

@[simp] theorem State.count_slate (s : State) (c sel n : Nat) :
    (s.count c sel n).slate = s.slate := rfl

@[simp] theorem State.count_round (s : State) (c sel n : Nat) :
    (s.count c sel n).round = s.round := rfl

@[simp] theorem State.count_timePs (s : State) (c sel n : Nat) :
    (s.count c sel n).timePs = s.timePs := rfl

@[simp] theorem State.count_cycles (s : State) (c sel n : Nat) :
    (s.count c sel n).cycles = s.cycles := rfl

@[simp] theorem State.count_coreMHz (s : State) (c sel n : Nat) :
    (s.count c sel n).coreMHz = s.coreMHz := rfl

@[simp] theorem State.count_slow (s : State) (c sel n : Nat) :
    (s.count c sel n).slow = s.slow := rfl

@[simp] theorem State.count_mem (s : State) (c sel n : Nat) :
    (s.count c sel n).mem = s.mem := rfl

@[simp] theorem State.count_tables (s : State) (c sel n : Nat) :
    (s.count c sel n).tables = s.tables := rfl

@[simp] theorem State.count_tableGens (s : State) (c sel n : Nat) :
    (s.count c sel n).tableGens = s.tableGens := rfl

@[simp] theorem State.count_oldStores (s : State) (c sel n : Nat) :
    (s.count c sel n).oldStores = s.oldStores := rfl

@[simp] theorem State.count_launches (s : State) (c sel n : Nat) :
    (s.count c sel n).launches = s.launches := rfl

@[simp] theorem State.count_nextLaunch (s : State) (c sel n : Nat) :
    (s.count c sel n).nextLaunch = s.nextLaunch := rfl

@[simp] theorem State.count_pointer (s : State) (c sel n : Nat) :
    (s.count c sel n).pointer = s.pointer := rfl

@[simp] theorem State.count_blocks (s : State) (c sel n : Nat) :
    (s.count c sel n).blocks = s.blocks := rfl

@[simp] theorem State.count_nextAge (s : State) (c sel n : Nat) :
    (s.count c sel n).nextAge = s.nextAge := rfl

@[simp] theorem State.count_stackCtl (s : State) (c sel n : Nat) :
    (s.count c sel n).stackCtl = s.stackCtl := rfl

@[simp] theorem State.count_banks (s : State) (c sel n : Nat) :
    (s.count c sel n).banks = s.banks := rfl

@[simp] theorem State.count_blockBase (s : State) (c sel n : Nat) :
    (s.count c sel n).blockBase = s.blockBase := rfl

@[simp] theorem State.count_faultQ (s : State) (c sel n : Nat) :
    (s.count c sel n).faultQ = s.faultQ := rfl

@[simp] theorem State.count_overflows (s : State) (c sel n : Nat) :
    (s.count c sel n).overflows = s.overflows := rfl

@[simp] theorem State.count_keyEpoch (s : State) (c sel n : Nat) :
    (s.count c sel n).keyEpoch = s.keyEpoch := rfl

@[simp] theorem State.count_domains (s : State) (c sel n : Nat) :
    (s.count c sel n).domains = s.domains := rfl

@[simp] theorem State.count_transit (s : State) (c sel n : Nat) :
    (s.count c sel n).transit = s.transit := rfl

@[simp] theorem State.count_acks (s : State) (c sel n : Nat) :
    (s.count c sel n).acks = s.acks := rfl

@[simp] theorem State.count_boot (s : State) (c sel n : Nat) :
    (s.count c sel n).boot = s.boot := rfl

@[simp] theorem State.count_freeze (s : State) (c sel n : Nat) :
    (s.count c sel n).freeze = s.freeze := rfl

@[simp] theorem State.count_links (s : State) (c sel n : Nat) :
    (s.count c sel n).links = s.links := rfl

@[simp] theorem State.count_mgmt (s : State) (c sel n : Nat) :
    (s.count c sel n).mgmt = s.mgmt := rfl

@[simp] theorem State.modStrand_cur (s : State) (c sl : Nat) (f : Strand → Strand) :
    (s.modStrand c sl f).cur = s.cur := by
  unfold State.modStrand; split <;> rfl

@[simp] theorem State.modStrand_agenda (s : State) (c sl : Nat) (f : Strand → Strand) :
    (s.modStrand c sl f).agenda = s.agenda := by
  unfold State.modStrand; split <;> rfl

@[simp] theorem State.modStrand_fresh (s : State) (c sl : Nat) (f : Strand → Strand) :
    (s.modStrand c sl f).fresh = s.fresh := by
  unfold State.modStrand; split <;> rfl

@[simp] theorem State.modStrand_slate (s : State) (c sl : Nat) (f : Strand → Strand) :
    (s.modStrand c sl f).slate = s.slate := by
  unfold State.modStrand; split <;> rfl

@[simp] theorem State.modStrand_round (s : State) (c sl : Nat) (f : Strand → Strand) :
    (s.modStrand c sl f).round = s.round := by
  unfold State.modStrand; split <;> rfl

@[simp] theorem State.modStrand_timePs (s : State) (c sl : Nat) (f : Strand → Strand) :
    (s.modStrand c sl f).timePs = s.timePs := by
  unfold State.modStrand; split <;> rfl

@[simp] theorem State.modStrand_cycles (s : State) (c sl : Nat) (f : Strand → Strand) :
    (s.modStrand c sl f).cycles = s.cycles := by
  unfold State.modStrand; split <;> rfl

@[simp] theorem State.modStrand_coreMHz (s : State) (c sl : Nat) (f : Strand → Strand) :
    (s.modStrand c sl f).coreMHz = s.coreMHz := by
  unfold State.modStrand; split <;> rfl

@[simp] theorem State.modStrand_slow (s : State) (c sl : Nat) (f : Strand → Strand) :
    (s.modStrand c sl f).slow = s.slow := by
  unfold State.modStrand; split <;> rfl

@[simp] theorem State.modStrand_mem (s : State) (c sl : Nat) (f : Strand → Strand) :
    (s.modStrand c sl f).mem = s.mem := by
  unfold State.modStrand; split <;> rfl

@[simp] theorem State.modStrand_tables (s : State) (c sl : Nat) (f : Strand → Strand) :
    (s.modStrand c sl f).tables = s.tables := by
  unfold State.modStrand; split <;> rfl

@[simp] theorem State.modStrand_tableGens (s : State) (c sl : Nat) (f : Strand → Strand) :
    (s.modStrand c sl f).tableGens = s.tableGens := by
  unfold State.modStrand; split <;> rfl

@[simp] theorem State.modStrand_oldStores (s : State) (c sl : Nat) (f : Strand → Strand) :
    (s.modStrand c sl f).oldStores = s.oldStores := by
  unfold State.modStrand; split <;> rfl

@[simp] theorem State.modStrand_launches (s : State) (c sl : Nat) (f : Strand → Strand) :
    (s.modStrand c sl f).launches = s.launches := by
  unfold State.modStrand; split <;> rfl

@[simp] theorem State.modStrand_nextLaunch (s : State) (c sl : Nat) (f : Strand → Strand) :
    (s.modStrand c sl f).nextLaunch = s.nextLaunch := by
  unfold State.modStrand; split <;> rfl

@[simp] theorem State.modStrand_pointer (s : State) (c sl : Nat) (f : Strand → Strand) :
    (s.modStrand c sl f).pointer = s.pointer := by
  unfold State.modStrand; split <;> rfl

@[simp] theorem State.modStrand_blocks (s : State) (c sl : Nat) (f : Strand → Strand) :
    (s.modStrand c sl f).blocks = s.blocks := by
  unfold State.modStrand; split <;> rfl

@[simp] theorem State.modStrand_nextAge (s : State) (c sl : Nat) (f : Strand → Strand) :
    (s.modStrand c sl f).nextAge = s.nextAge := by
  unfold State.modStrand; split <;> rfl

@[simp] theorem State.modStrand_stackCtl (s : State) (c sl : Nat) (f : Strand → Strand) :
    (s.modStrand c sl f).stackCtl = s.stackCtl := by
  unfold State.modStrand; split <;> rfl

@[simp] theorem State.modStrand_banks (s : State) (c sl : Nat) (f : Strand → Strand) :
    (s.modStrand c sl f).banks = s.banks := by
  unfold State.modStrand; split <;> rfl

@[simp] theorem State.modStrand_blockBase (s : State) (c sl : Nat) (f : Strand → Strand) :
    (s.modStrand c sl f).blockBase = s.blockBase := by
  unfold State.modStrand; split <;> rfl

@[simp] theorem State.modStrand_faultQ (s : State) (c sl : Nat) (f : Strand → Strand) :
    (s.modStrand c sl f).faultQ = s.faultQ := by
  unfold State.modStrand; split <;> rfl

@[simp] theorem State.modStrand_overflows (s : State) (c sl : Nat) (f : Strand → Strand) :
    (s.modStrand c sl f).overflows = s.overflows := by
  unfold State.modStrand; split <;> rfl

@[simp] theorem State.modStrand_keyEpoch (s : State) (c sl : Nat) (f : Strand → Strand) :
    (s.modStrand c sl f).keyEpoch = s.keyEpoch := by
  unfold State.modStrand; split <;> rfl

@[simp] theorem State.modStrand_domains (s : State) (c sl : Nat) (f : Strand → Strand) :
    (s.modStrand c sl f).domains = s.domains := by
  unfold State.modStrand; split <;> rfl

@[simp] theorem State.modStrand_transit (s : State) (c sl : Nat) (f : Strand → Strand) :
    (s.modStrand c sl f).transit = s.transit := by
  unfold State.modStrand; split <;> rfl

@[simp] theorem State.modStrand_acks (s : State) (c sl : Nat) (f : Strand → Strand) :
    (s.modStrand c sl f).acks = s.acks := by
  unfold State.modStrand; split <;> rfl

@[simp] theorem State.modStrand_boot (s : State) (c sl : Nat) (f : Strand → Strand) :
    (s.modStrand c sl f).boot = s.boot := by
  unfold State.modStrand; split <;> rfl

@[simp] theorem State.modStrand_freeze (s : State) (c sl : Nat) (f : Strand → Strand) :
    (s.modStrand c sl f).freeze = s.freeze := by
  unfold State.modStrand; split <;> rfl

@[simp] theorem State.modStrand_links (s : State) (c sl : Nat) (f : Strand → Strand) :
    (s.modStrand c sl f).links = s.links := by
  unfold State.modStrand; split <;> rfl

@[simp] theorem State.modStrand_mgmt (s : State) (c sl : Nat) (f : Strand → Strand) :
    (s.modStrand c sl f).mgmt = s.mgmt := by
  unfold State.modStrand; split <;> rfl

@[simp] theorem State.modHere_cur (s : State) (f : Strand → Strand) :
    (s.modHere f).cur = s.cur := by
  simp [State.modHere]

@[simp] theorem State.modHere_agenda (s : State) (f : Strand → Strand) :
    (s.modHere f).agenda = s.agenda := by
  simp [State.modHere]

@[simp] theorem State.modHere_fresh (s : State) (f : Strand → Strand) :
    (s.modHere f).fresh = s.fresh := by
  simp [State.modHere]

@[simp] theorem State.modHere_slate (s : State) (f : Strand → Strand) :
    (s.modHere f).slate = s.slate := by
  simp [State.modHere]

@[simp] theorem State.modHere_round (s : State) (f : Strand → Strand) :
    (s.modHere f).round = s.round := by
  simp [State.modHere]

@[simp] theorem State.modHere_timePs (s : State) (f : Strand → Strand) :
    (s.modHere f).timePs = s.timePs := by
  simp [State.modHere]

@[simp] theorem State.modHere_cycles (s : State) (f : Strand → Strand) :
    (s.modHere f).cycles = s.cycles := by
  simp [State.modHere]

@[simp] theorem State.modHere_coreMHz (s : State) (f : Strand → Strand) :
    (s.modHere f).coreMHz = s.coreMHz := by
  simp [State.modHere]

@[simp] theorem State.modHere_slow (s : State) (f : Strand → Strand) :
    (s.modHere f).slow = s.slow := by
  simp [State.modHere]

@[simp] theorem State.modHere_mem (s : State) (f : Strand → Strand) :
    (s.modHere f).mem = s.mem := by
  simp [State.modHere]

@[simp] theorem State.modHere_tables (s : State) (f : Strand → Strand) :
    (s.modHere f).tables = s.tables := by
  simp [State.modHere]

@[simp] theorem State.modHere_tableGens (s : State) (f : Strand → Strand) :
    (s.modHere f).tableGens = s.tableGens := by
  simp [State.modHere]

@[simp] theorem State.modHere_oldStores (s : State) (f : Strand → Strand) :
    (s.modHere f).oldStores = s.oldStores := by
  simp [State.modHere]

@[simp] theorem State.modHere_launches (s : State) (f : Strand → Strand) :
    (s.modHere f).launches = s.launches := by
  simp [State.modHere]

@[simp] theorem State.modHere_nextLaunch (s : State) (f : Strand → Strand) :
    (s.modHere f).nextLaunch = s.nextLaunch := by
  simp [State.modHere]

@[simp] theorem State.modHere_pointer (s : State) (f : Strand → Strand) :
    (s.modHere f).pointer = s.pointer := by
  simp [State.modHere]

@[simp] theorem State.modHere_blocks (s : State) (f : Strand → Strand) :
    (s.modHere f).blocks = s.blocks := by
  simp [State.modHere]

@[simp] theorem State.modHere_nextAge (s : State) (f : Strand → Strand) :
    (s.modHere f).nextAge = s.nextAge := by
  simp [State.modHere]

@[simp] theorem State.modHere_stackCtl (s : State) (f : Strand → Strand) :
    (s.modHere f).stackCtl = s.stackCtl := by
  simp [State.modHere]

@[simp] theorem State.modHere_banks (s : State) (f : Strand → Strand) :
    (s.modHere f).banks = s.banks := by
  simp [State.modHere]

@[simp] theorem State.modHere_blockBase (s : State) (f : Strand → Strand) :
    (s.modHere f).blockBase = s.blockBase := by
  simp [State.modHere]

@[simp] theorem State.modHere_faultQ (s : State) (f : Strand → Strand) :
    (s.modHere f).faultQ = s.faultQ := by
  simp [State.modHere]

@[simp] theorem State.modHere_overflows (s : State) (f : Strand → Strand) :
    (s.modHere f).overflows = s.overflows := by
  simp [State.modHere]

@[simp] theorem State.modHere_keyEpoch (s : State) (f : Strand → Strand) :
    (s.modHere f).keyEpoch = s.keyEpoch := by
  simp [State.modHere]

@[simp] theorem State.modHere_domains (s : State) (f : Strand → Strand) :
    (s.modHere f).domains = s.domains := by
  simp [State.modHere]

@[simp] theorem State.modHere_transit (s : State) (f : Strand → Strand) :
    (s.modHere f).transit = s.transit := by
  simp [State.modHere]

@[simp] theorem State.modHere_acks (s : State) (f : Strand → Strand) :
    (s.modHere f).acks = s.acks := by
  simp [State.modHere]

@[simp] theorem State.modHere_boot (s : State) (f : Strand → Strand) :
    (s.modHere f).boot = s.boot := by
  simp [State.modHere]

@[simp] theorem State.modHere_freeze (s : State) (f : Strand → Strand) :
    (s.modHere f).freeze = s.freeze := by
  simp [State.modHere]

@[simp] theorem State.modHere_links (s : State) (f : Strand → Strand) :
    (s.modHere f).links = s.links := by
  simp [State.modHere]

@[simp] theorem State.modHere_mgmt (s : State) (f : Strand → Strand) :
    (s.modHere f).mgmt = s.mgmt := by
  simp [State.modHere]

@[simp] theorem State.retireWord_cur (s : State) (f : Flow) :
    (s.retireWord f).cur = s.cur := by
  simp [State.retireWord]

@[simp] theorem State.retireWord_agenda (s : State) (f : Flow) :
    (s.retireWord f).agenda = s.agenda := by
  simp [State.retireWord]

@[simp] theorem State.retireWord_fresh (s : State) (f : Flow) :
    (s.retireWord f).fresh = s.fresh := by
  simp [State.retireWord]

@[simp] theorem State.retireWord_slate (s : State) (f : Flow) :
    (s.retireWord f).slate = s.slate := by
  simp [State.retireWord]

@[simp] theorem State.retireWord_round (s : State) (f : Flow) :
    (s.retireWord f).round = s.round := by
  simp [State.retireWord]

@[simp] theorem State.retireWord_timePs (s : State) (f : Flow) :
    (s.retireWord f).timePs = s.timePs := by
  simp [State.retireWord]

@[simp] theorem State.retireWord_cycles (s : State) (f : Flow) :
    (s.retireWord f).cycles = s.cycles := by
  simp [State.retireWord]

@[simp] theorem State.retireWord_coreMHz (s : State) (f : Flow) :
    (s.retireWord f).coreMHz = s.coreMHz := by
  simp [State.retireWord]

@[simp] theorem State.retireWord_slow (s : State) (f : Flow) :
    (s.retireWord f).slow = s.slow := by
  simp [State.retireWord]

@[simp] theorem State.retireWord_mem (s : State) (f : Flow) :
    (s.retireWord f).mem = s.mem := by
  simp [State.retireWord]

@[simp] theorem State.retireWord_tables (s : State) (f : Flow) :
    (s.retireWord f).tables = s.tables := by
  simp [State.retireWord]

@[simp] theorem State.retireWord_tableGens (s : State) (f : Flow) :
    (s.retireWord f).tableGens = s.tableGens := by
  simp [State.retireWord]

@[simp] theorem State.retireWord_oldStores (s : State) (f : Flow) :
    (s.retireWord f).oldStores = s.oldStores := by
  simp [State.retireWord]

@[simp] theorem State.retireWord_launches (s : State) (f : Flow) :
    (s.retireWord f).launches = s.launches := by
  simp [State.retireWord]

@[simp] theorem State.retireWord_nextLaunch (s : State) (f : Flow) :
    (s.retireWord f).nextLaunch = s.nextLaunch := by
  simp [State.retireWord]

@[simp] theorem State.retireWord_pointer (s : State) (f : Flow) :
    (s.retireWord f).pointer = s.pointer := by
  simp [State.retireWord]

@[simp] theorem State.retireWord_blocks (s : State) (f : Flow) :
    (s.retireWord f).blocks = s.blocks := by
  simp [State.retireWord]

@[simp] theorem State.retireWord_nextAge (s : State) (f : Flow) :
    (s.retireWord f).nextAge = s.nextAge := by
  simp [State.retireWord]

@[simp] theorem State.retireWord_stackCtl (s : State) (f : Flow) :
    (s.retireWord f).stackCtl = s.stackCtl := by
  simp [State.retireWord]

@[simp] theorem State.retireWord_banks (s : State) (f : Flow) :
    (s.retireWord f).banks = s.banks := by
  simp [State.retireWord]

@[simp] theorem State.retireWord_blockBase (s : State) (f : Flow) :
    (s.retireWord f).blockBase = s.blockBase := by
  simp [State.retireWord]

@[simp] theorem State.retireWord_faultQ (s : State) (f : Flow) :
    (s.retireWord f).faultQ = s.faultQ := by
  simp [State.retireWord]

@[simp] theorem State.retireWord_overflows (s : State) (f : Flow) :
    (s.retireWord f).overflows = s.overflows := by
  simp [State.retireWord]

@[simp] theorem State.retireWord_keyEpoch (s : State) (f : Flow) :
    (s.retireWord f).keyEpoch = s.keyEpoch := by
  simp [State.retireWord]

@[simp] theorem State.retireWord_domains (s : State) (f : Flow) :
    (s.retireWord f).domains = s.domains := by
  simp [State.retireWord]

@[simp] theorem State.retireWord_transit (s : State) (f : Flow) :
    (s.retireWord f).transit = s.transit := by
  simp [State.retireWord]

@[simp] theorem State.retireWord_acks (s : State) (f : Flow) :
    (s.retireWord f).acks = s.acks := by
  simp [State.retireWord]

@[simp] theorem State.retireWord_boot (s : State) (f : Flow) :
    (s.retireWord f).boot = s.boot := by
  simp [State.retireWord]

@[simp] theorem State.retireWord_freeze (s : State) (f : Flow) :
    (s.retireWord f).freeze = s.freeze := by
  simp [State.retireWord]

@[simp] theorem State.retireWord_links (s : State) (f : Flow) :
    (s.retireWord f).links = s.links := by
  simp [State.retireWord]

@[simp] theorem State.retireWord_mgmt (s : State) (f : Flow) :
    (s.retireWord f).mgmt = s.mgmt := by
  simp [State.retireWord]

@[simp] theorem State.setBlock_cur (s : State) (b : Block) :
    (s.setBlock b).cur = s.cur := rfl

@[simp] theorem State.setBlock_agenda (s : State) (b : Block) :
    (s.setBlock b).agenda = s.agenda := rfl

@[simp] theorem State.setBlock_fresh (s : State) (b : Block) :
    (s.setBlock b).fresh = s.fresh := rfl

@[simp] theorem State.setBlock_slate (s : State) (b : Block) :
    (s.setBlock b).slate = s.slate := rfl

@[simp] theorem State.setBlock_round (s : State) (b : Block) :
    (s.setBlock b).round = s.round := rfl

@[simp] theorem State.setBlock_timePs (s : State) (b : Block) :
    (s.setBlock b).timePs = s.timePs := rfl

@[simp] theorem State.setBlock_cycles (s : State) (b : Block) :
    (s.setBlock b).cycles = s.cycles := rfl

@[simp] theorem State.setBlock_coreMHz (s : State) (b : Block) :
    (s.setBlock b).coreMHz = s.coreMHz := rfl

@[simp] theorem State.setBlock_slow (s : State) (b : Block) :
    (s.setBlock b).slow = s.slow := rfl

@[simp] theorem State.setBlock_cores (s : State) (b : Block) :
    (s.setBlock b).cores = s.cores := rfl

@[simp] theorem State.setBlock_mem (s : State) (b : Block) :
    (s.setBlock b).mem = s.mem := rfl

@[simp] theorem State.setBlock_tables (s : State) (b : Block) :
    (s.setBlock b).tables = s.tables := rfl

@[simp] theorem State.setBlock_tableGens (s : State) (b : Block) :
    (s.setBlock b).tableGens = s.tableGens := rfl

@[simp] theorem State.setBlock_oldStores (s : State) (b : Block) :
    (s.setBlock b).oldStores = s.oldStores := rfl

@[simp] theorem State.setBlock_launches (s : State) (b : Block) :
    (s.setBlock b).launches = s.launches := rfl

@[simp] theorem State.setBlock_nextLaunch (s : State) (b : Block) :
    (s.setBlock b).nextLaunch = s.nextLaunch := rfl

@[simp] theorem State.setBlock_pointer (s : State) (b : Block) :
    (s.setBlock b).pointer = s.pointer := rfl

@[simp] theorem State.setBlock_nextAge (s : State) (b : Block) :
    (s.setBlock b).nextAge = s.nextAge := rfl

@[simp] theorem State.setBlock_stackCtl (s : State) (b : Block) :
    (s.setBlock b).stackCtl = s.stackCtl := rfl

@[simp] theorem State.setBlock_banks (s : State) (b : Block) :
    (s.setBlock b).banks = s.banks := rfl

@[simp] theorem State.setBlock_blockBase (s : State) (b : Block) :
    (s.setBlock b).blockBase = s.blockBase := rfl

@[simp] theorem State.setBlock_faultQ (s : State) (b : Block) :
    (s.setBlock b).faultQ = s.faultQ := rfl

@[simp] theorem State.setBlock_overflows (s : State) (b : Block) :
    (s.setBlock b).overflows = s.overflows := rfl

@[simp] theorem State.setBlock_keyEpoch (s : State) (b : Block) :
    (s.setBlock b).keyEpoch = s.keyEpoch := rfl

@[simp] theorem State.setBlock_domains (s : State) (b : Block) :
    (s.setBlock b).domains = s.domains := rfl

@[simp] theorem State.setBlock_transit (s : State) (b : Block) :
    (s.setBlock b).transit = s.transit := rfl

@[simp] theorem State.setBlock_acks (s : State) (b : Block) :
    (s.setBlock b).acks = s.acks := rfl

@[simp] theorem State.setBlock_boot (s : State) (b : Block) :
    (s.setBlock b).boot = s.boot := rfl

@[simp] theorem State.setBlock_freeze (s : State) (b : Block) :
    (s.setBlock b).freeze = s.freeze := rfl

@[simp] theorem State.setBlock_links (s : State) (b : Block) :
    (s.setBlock b).links = s.links := rfl

@[simp] theorem State.setBlock_mgmt (s : State) (b : Block) :
    (s.setBlock b).mgmt = s.mgmt := rfl

@[simp] theorem State.setBank_cur (s : State) (b : Nat) (x : Bank) :
    (s.setBank b x).cur = s.cur := rfl

@[simp] theorem State.setBank_agenda (s : State) (b : Nat) (x : Bank) :
    (s.setBank b x).agenda = s.agenda := rfl

@[simp] theorem State.setBank_fresh (s : State) (b : Nat) (x : Bank) :
    (s.setBank b x).fresh = s.fresh := rfl

@[simp] theorem State.setBank_slate (s : State) (b : Nat) (x : Bank) :
    (s.setBank b x).slate = s.slate := rfl

@[simp] theorem State.setBank_round (s : State) (b : Nat) (x : Bank) :
    (s.setBank b x).round = s.round := rfl

@[simp] theorem State.setBank_timePs (s : State) (b : Nat) (x : Bank) :
    (s.setBank b x).timePs = s.timePs := rfl

@[simp] theorem State.setBank_cycles (s : State) (b : Nat) (x : Bank) :
    (s.setBank b x).cycles = s.cycles := rfl

@[simp] theorem State.setBank_coreMHz (s : State) (b : Nat) (x : Bank) :
    (s.setBank b x).coreMHz = s.coreMHz := rfl

@[simp] theorem State.setBank_slow (s : State) (b : Nat) (x : Bank) :
    (s.setBank b x).slow = s.slow := rfl

@[simp] theorem State.setBank_cores (s : State) (b : Nat) (x : Bank) :
    (s.setBank b x).cores = s.cores := rfl

@[simp] theorem State.setBank_mem (s : State) (b : Nat) (x : Bank) :
    (s.setBank b x).mem = s.mem := rfl

@[simp] theorem State.setBank_tables (s : State) (b : Nat) (x : Bank) :
    (s.setBank b x).tables = s.tables := rfl

@[simp] theorem State.setBank_tableGens (s : State) (b : Nat) (x : Bank) :
    (s.setBank b x).tableGens = s.tableGens := rfl

@[simp] theorem State.setBank_oldStores (s : State) (b : Nat) (x : Bank) :
    (s.setBank b x).oldStores = s.oldStores := rfl

@[simp] theorem State.setBank_launches (s : State) (b : Nat) (x : Bank) :
    (s.setBank b x).launches = s.launches := rfl

@[simp] theorem State.setBank_nextLaunch (s : State) (b : Nat) (x : Bank) :
    (s.setBank b x).nextLaunch = s.nextLaunch := rfl

@[simp] theorem State.setBank_pointer (s : State) (b : Nat) (x : Bank) :
    (s.setBank b x).pointer = s.pointer := rfl

@[simp] theorem State.setBank_blocks (s : State) (b : Nat) (x : Bank) :
    (s.setBank b x).blocks = s.blocks := rfl

@[simp] theorem State.setBank_nextAge (s : State) (b : Nat) (x : Bank) :
    (s.setBank b x).nextAge = s.nextAge := rfl

@[simp] theorem State.setBank_stackCtl (s : State) (b : Nat) (x : Bank) :
    (s.setBank b x).stackCtl = s.stackCtl := rfl

@[simp] theorem State.setBank_blockBase (s : State) (b : Nat) (x : Bank) :
    (s.setBank b x).blockBase = s.blockBase := rfl

@[simp] theorem State.setBank_faultQ (s : State) (b : Nat) (x : Bank) :
    (s.setBank b x).faultQ = s.faultQ := rfl

@[simp] theorem State.setBank_overflows (s : State) (b : Nat) (x : Bank) :
    (s.setBank b x).overflows = s.overflows := rfl

@[simp] theorem State.setBank_keyEpoch (s : State) (b : Nat) (x : Bank) :
    (s.setBank b x).keyEpoch = s.keyEpoch := rfl

@[simp] theorem State.setBank_domains (s : State) (b : Nat) (x : Bank) :
    (s.setBank b x).domains = s.domains := rfl

@[simp] theorem State.setBank_transit (s : State) (b : Nat) (x : Bank) :
    (s.setBank b x).transit = s.transit := rfl

@[simp] theorem State.setBank_acks (s : State) (b : Nat) (x : Bank) :
    (s.setBank b x).acks = s.acks := rfl

@[simp] theorem State.setBank_boot (s : State) (b : Nat) (x : Bank) :
    (s.setBank b x).boot = s.boot := rfl

@[simp] theorem State.setBank_freeze (s : State) (b : Nat) (x : Bank) :
    (s.setBank b x).freeze = s.freeze := rfl

@[simp] theorem State.setBank_links (s : State) (b : Nat) (x : Bank) :
    (s.setBank b x).links = s.links := rfl

@[simp] theorem State.setBank_mgmt (s : State) (b : Nat) (x : Bank) :
    (s.setBank b x).mgmt = s.mgmt := rfl

@[simp] theorem State.modStack_cur (s : State) (n : Nat) (f : Stack → Stack) :
    (s.modStack n f).cur = s.cur := rfl

@[simp] theorem State.modStack_agenda (s : State) (n : Nat) (f : Stack → Stack) :
    (s.modStack n f).agenda = s.agenda := rfl

@[simp] theorem State.modStack_fresh (s : State) (n : Nat) (f : Stack → Stack) :
    (s.modStack n f).fresh = s.fresh := rfl

@[simp] theorem State.modStack_slate (s : State) (n : Nat) (f : Stack → Stack) :
    (s.modStack n f).slate = s.slate := rfl

@[simp] theorem State.modStack_round (s : State) (n : Nat) (f : Stack → Stack) :
    (s.modStack n f).round = s.round := rfl

@[simp] theorem State.modStack_timePs (s : State) (n : Nat) (f : Stack → Stack) :
    (s.modStack n f).timePs = s.timePs := rfl

@[simp] theorem State.modStack_cycles (s : State) (n : Nat) (f : Stack → Stack) :
    (s.modStack n f).cycles = s.cycles := rfl

@[simp] theorem State.modStack_coreMHz (s : State) (n : Nat) (f : Stack → Stack) :
    (s.modStack n f).coreMHz = s.coreMHz := rfl

@[simp] theorem State.modStack_slow (s : State) (n : Nat) (f : Stack → Stack) :
    (s.modStack n f).slow = s.slow := rfl

@[simp] theorem State.modStack_cores (s : State) (n : Nat) (f : Stack → Stack) :
    (s.modStack n f).cores = s.cores := rfl

@[simp] theorem State.modStack_mem (s : State) (n : Nat) (f : Stack → Stack) :
    (s.modStack n f).mem = s.mem := rfl

@[simp] theorem State.modStack_tables (s : State) (n : Nat) (f : Stack → Stack) :
    (s.modStack n f).tables = s.tables := rfl

@[simp] theorem State.modStack_tableGens (s : State) (n : Nat) (f : Stack → Stack) :
    (s.modStack n f).tableGens = s.tableGens := rfl

@[simp] theorem State.modStack_oldStores (s : State) (n : Nat) (f : Stack → Stack) :
    (s.modStack n f).oldStores = s.oldStores := rfl

@[simp] theorem State.modStack_launches (s : State) (n : Nat) (f : Stack → Stack) :
    (s.modStack n f).launches = s.launches := rfl

@[simp] theorem State.modStack_nextLaunch (s : State) (n : Nat) (f : Stack → Stack) :
    (s.modStack n f).nextLaunch = s.nextLaunch := rfl

@[simp] theorem State.modStack_pointer (s : State) (n : Nat) (f : Stack → Stack) :
    (s.modStack n f).pointer = s.pointer := rfl

@[simp] theorem State.modStack_blocks (s : State) (n : Nat) (f : Stack → Stack) :
    (s.modStack n f).blocks = s.blocks := rfl

@[simp] theorem State.modStack_nextAge (s : State) (n : Nat) (f : Stack → Stack) :
    (s.modStack n f).nextAge = s.nextAge := rfl

@[simp] theorem State.modStack_banks (s : State) (n : Nat) (f : Stack → Stack) :
    (s.modStack n f).banks = s.banks := rfl

@[simp] theorem State.modStack_blockBase (s : State) (n : Nat) (f : Stack → Stack) :
    (s.modStack n f).blockBase = s.blockBase := rfl

@[simp] theorem State.modStack_faultQ (s : State) (n : Nat) (f : Stack → Stack) :
    (s.modStack n f).faultQ = s.faultQ := rfl

@[simp] theorem State.modStack_overflows (s : State) (n : Nat) (f : Stack → Stack) :
    (s.modStack n f).overflows = s.overflows := rfl

@[simp] theorem State.modStack_keyEpoch (s : State) (n : Nat) (f : Stack → Stack) :
    (s.modStack n f).keyEpoch = s.keyEpoch := rfl

@[simp] theorem State.modStack_domains (s : State) (n : Nat) (f : Stack → Stack) :
    (s.modStack n f).domains = s.domains := rfl

@[simp] theorem State.modStack_transit (s : State) (n : Nat) (f : Stack → Stack) :
    (s.modStack n f).transit = s.transit := rfl

@[simp] theorem State.modStack_acks (s : State) (n : Nat) (f : Stack → Stack) :
    (s.modStack n f).acks = s.acks := rfl

@[simp] theorem State.modStack_boot (s : State) (n : Nat) (f : Stack → Stack) :
    (s.modStack n f).boot = s.boot := rfl

@[simp] theorem State.modStack_freeze (s : State) (n : Nat) (f : Stack → Stack) :
    (s.modStack n f).freeze = s.freeze := rfl

@[simp] theorem State.modStack_links (s : State) (n : Nat) (f : Stack → Stack) :
    (s.modStack n f).links = s.links := rfl

@[simp] theorem State.modStack_mgmt (s : State) (n : Nat) (f : Stack → Stack) :
    (s.modStack n f).mgmt = s.mgmt := rfl

@[simp] theorem State.startOp_cur (s : State) (c : Nat) (o : Op) :
    (s.startOp c o).cur = s.cur := by
  simp [State.startOp]

@[simp] theorem State.startOp_agenda (s : State) (c : Nat) (o : Op) :
    (s.startOp c o).agenda = s.agenda := by
  simp [State.startOp]

@[simp] theorem State.startOp_fresh (s : State) (c : Nat) (o : Op) :
    (s.startOp c o).fresh = s.fresh := by
  simp [State.startOp]

@[simp] theorem State.startOp_slate (s : State) (c : Nat) (o : Op) :
    (s.startOp c o).slate = s.slate := by
  simp [State.startOp]

@[simp] theorem State.startOp_round (s : State) (c : Nat) (o : Op) :
    (s.startOp c o).round = s.round := by
  simp [State.startOp]

@[simp] theorem State.startOp_timePs (s : State) (c : Nat) (o : Op) :
    (s.startOp c o).timePs = s.timePs := by
  simp [State.startOp]

@[simp] theorem State.startOp_cycles (s : State) (c : Nat) (o : Op) :
    (s.startOp c o).cycles = s.cycles := by
  simp [State.startOp]

@[simp] theorem State.startOp_coreMHz (s : State) (c : Nat) (o : Op) :
    (s.startOp c o).coreMHz = s.coreMHz := by
  simp [State.startOp]

@[simp] theorem State.startOp_slow (s : State) (c : Nat) (o : Op) :
    (s.startOp c o).slow = s.slow := by
  simp [State.startOp]

@[simp] theorem State.startOp_mem (s : State) (c : Nat) (o : Op) :
    (s.startOp c o).mem = s.mem := by
  simp [State.startOp]

@[simp] theorem State.startOp_tables (s : State) (c : Nat) (o : Op) :
    (s.startOp c o).tables = s.tables := by
  simp [State.startOp]

@[simp] theorem State.startOp_tableGens (s : State) (c : Nat) (o : Op) :
    (s.startOp c o).tableGens = s.tableGens := by
  simp [State.startOp]

@[simp] theorem State.startOp_oldStores (s : State) (c : Nat) (o : Op) :
    (s.startOp c o).oldStores = s.oldStores := by
  simp [State.startOp]

@[simp] theorem State.startOp_launches (s : State) (c : Nat) (o : Op) :
    (s.startOp c o).launches = s.launches := by
  simp [State.startOp]

@[simp] theorem State.startOp_nextLaunch (s : State) (c : Nat) (o : Op) :
    (s.startOp c o).nextLaunch = s.nextLaunch := by
  simp [State.startOp]

@[simp] theorem State.startOp_pointer (s : State) (c : Nat) (o : Op) :
    (s.startOp c o).pointer = s.pointer := by
  simp [State.startOp]

@[simp] theorem State.startOp_blocks (s : State) (c : Nat) (o : Op) :
    (s.startOp c o).blocks = s.blocks := by
  simp [State.startOp]

@[simp] theorem State.startOp_nextAge (s : State) (c : Nat) (o : Op) :
    (s.startOp c o).nextAge = s.nextAge := by
  simp [State.startOp]

@[simp] theorem State.startOp_stackCtl (s : State) (c : Nat) (o : Op) :
    (s.startOp c o).stackCtl = s.stackCtl := by
  simp [State.startOp]

@[simp] theorem State.startOp_banks (s : State) (c : Nat) (o : Op) :
    (s.startOp c o).banks = s.banks := by
  simp [State.startOp]

@[simp] theorem State.startOp_blockBase (s : State) (c : Nat) (o : Op) :
    (s.startOp c o).blockBase = s.blockBase := by
  simp [State.startOp]

@[simp] theorem State.startOp_faultQ (s : State) (c : Nat) (o : Op) :
    (s.startOp c o).faultQ = s.faultQ := by
  simp [State.startOp]

@[simp] theorem State.startOp_overflows (s : State) (c : Nat) (o : Op) :
    (s.startOp c o).overflows = s.overflows := by
  simp [State.startOp]

@[simp] theorem State.startOp_keyEpoch (s : State) (c : Nat) (o : Op) :
    (s.startOp c o).keyEpoch = s.keyEpoch := by
  simp [State.startOp]

@[simp] theorem State.startOp_domains (s : State) (c : Nat) (o : Op) :
    (s.startOp c o).domains = s.domains := by
  simp [State.startOp]

@[simp] theorem State.startOp_transit (s : State) (c : Nat) (o : Op) :
    (s.startOp c o).transit = s.transit := by
  simp [State.startOp]

@[simp] theorem State.startOp_acks (s : State) (c : Nat) (o : Op) :
    (s.startOp c o).acks = s.acks := by
  simp [State.startOp]

@[simp] theorem State.startOp_boot (s : State) (c : Nat) (o : Op) :
    (s.startOp c o).boot = s.boot := by
  simp [State.startOp]

@[simp] theorem State.startOp_freeze (s : State) (c : Nat) (o : Op) :
    (s.startOp c o).freeze = s.freeze := by
  simp [State.startOp]

@[simp] theorem State.startOp_links (s : State) (c : Nat) (o : Op) :
    (s.startOp c o).links = s.links := by
  simp [State.startOp]

@[simp] theorem State.startOp_mgmt (s : State) (c : Nat) (o : Op) :
    (s.startOp c o).mgmt = s.mgmt := by
  simp [State.startOp]


/-! ### Updates of a strand -/

@[simp] theorem Strand.setG_launch (st : Strand) (n : Nat) (v : DWord) :
    (st.setG n v).launch = st.launch := rfl

@[simp] theorem Strand.setG_block (st : Strand) (n : Nat) (v : DWord) :
    (st.setG n v).block = st.block := rfl

@[simp] theorem Strand.setG_sindex (st : Strand) (n : Nat) (v : DWord) :
    (st.setG n v).sindex = st.sindex := rfl

@[simp] theorem Strand.setG_baseId (st : Strand) (n : Nat) (v : DWord) :
    (st.setG n v).baseId = st.baseId := rfl

@[simp] theorem Strand.setG_lineage (st : Strand) (n : Nat) (v : DWord) :
    (st.setG n v).lineage = st.lineage := rfl

@[simp] theorem Strand.setG_member (st : Strand) (n : Nat) (v : DWord) :
    (st.setG n v).member = st.member := rfl

@[simp] theorem Strand.setG_width (st : Strand) (n : Nat) (v : DWord) :
    (st.setG n v).width = st.width := rfl

@[simp] theorem Strand.setG_nregs (st : Strand) (n : Nat) (v : DWord) :
    (st.setG n v).nregs = st.nregs := rfl

@[simp] theorem Strand.setG_prio (st : Strand) (n : Nat) (v : DWord) :
    (st.setG n v).prio = st.prio := rfl

@[simp] theorem Strand.setG_codeBase (st : Strand) (n : Nat) (v : DWord) :
    (st.setG n v).codeBase = st.codeBase := rfl

@[simp] theorem Strand.setG_age (st : Strand) (n : Nat) (v : DWord) :
    (st.setG n v).age = st.age := rfl

@[simp] theorem Strand.setG_passed (st : Strand) (n : Nat) (v : DWord) :
    (st.setG n v).passed = st.passed := rfl

@[simp] theorem Strand.setG_urgent (st : Strand) (n : Nat) (v : DWord) :
    (st.setG n v).urgent = st.urgent := rfl

@[simp] theorem Strand.setG_pc (st : Strand) (n : Nat) (v : DWord) :
    (st.setG n v).pc = st.pc := rfl

@[simp] theorem Strand.setG_pcIdx (st : Strand) (n : Nat) (v : DWord) :
    (st.setG n v).pcIdx = st.pcIdx := rfl

@[simp] theorem Strand.setG_clause (st : Strand) (n : Nat) (v : DWord) :
    (st.setG n v).clause = st.clause := rfl

@[simp] theorem Strand.setG_gpend (st : Strand) (n : Nat) (v : DWord) :
    (st.setG n v).gpend = st.gpend := rfl

@[simp] theorem Strand.setG_v (st : Strand) (n : Nat) (v : DWord) :
    (st.setG n v).v = st.v := rfl

@[simp] theorem Strand.setG_vpend (st : Strand) (n : Nat) (v : DWord) :
    (st.setG n v).vpend = st.vpend := rfl

@[simp] theorem Strand.setG_p (st : Strand) (n : Nat) (v : DWord) :
    (st.setG n v).p = st.p := rfl

@[simp] theorem Strand.setG_flags (st : Strand) (n : Nat) (v : DWord) :
    (st.setG n v).flags = st.flags := rfl

@[simp] theorem Strand.setG_exited (st : Strand) (n : Nat) (v : DWord) :
    (st.setG n v).exited = st.exited := rfl

@[simp] theorem Strand.setG_departed (st : Strand) (n : Nat) (v : DWord) :
    (st.setG n v).departed = st.departed := rfl

@[simp] theorem Strand.setG_kept (st : Strand) (n : Nat) (v : DWord) :
    (st.setG n v).kept = st.kept := rfl

@[simp] theorem Strand.setG_names (st : Strand) (n : Nat) (v : DWord) :
    (st.setG n v).names = st.names := rfl

@[simp] theorem Strand.setG_issued (st : Strand) (n : Nat) (v : DWord) :
    (st.setG n v).issued = st.issued := rfl

@[simp] theorem Strand.setG_stalled (st : Strand) (n : Nat) (v : DWord) :
    (st.setG n v).stalled = st.stalled := rfl

@[simp] theorem Strand.setG_mode (st : Strand) (n : Nat) (v : DWord) :
    (st.setG n v).mode = st.mode := rfl

@[simp] theorem Strand.setG_prevMode (st : Strand) (n : Nat) (v : DWord) :
    (st.setG n v).prevMode = st.prevMode := rfl

@[simp] theorem Strand.setG_depth (st : Strand) (n : Nat) (v : DWord) :
    (st.setG n v).depth = st.depth := rfl

@[simp] theorem Strand.setG_frames (st : Strand) (n : Nat) (v : DWord) :
    (st.setG n v).frames = st.frames := rfl

@[simp] theorem Strand.setG_trapCause (st : Strand) (n : Nat) (v : DWord) :
    (st.setG n v).trapCause = st.trapCause := rfl

@[simp] theorem Strand.setG_trapMask (st : Strand) (n : Nat) (v : DWord) :
    (st.setG n v).trapMask = st.trapMask := rfl

@[simp] theorem Strand.setG_domain (st : Strand) (n : Nat) (v : DWord) :
    (st.setG n v).domain = st.domain := rfl

@[simp] theorem Strand.setG_keyid (st : Strand) (n : Nat) (v : DWord) :
    (st.setG n v).keyid = st.keyid := rfl

@[simp] theorem Strand.setG_preempt (st : Strand) (n : Nat) (v : DWord) :
    (st.setG n v).preempt = st.preempt := rfl

@[simp] theorem Strand.setG_region (st : Strand) (n : Nat) (v : DWord) :
    (st.setG n v).region = st.region := rfl

@[simp] theorem Strand.setG_inquiry (st : Strand) (n : Nat) (v : DWord) :
    (st.setG n v).inquiry = st.inquiry := rfl

@[simp] theorem Strand.setG_wait (st : Strand) (n : Nat) (v : DWord) :
    (st.setG n v).wait = st.wait := rfl

@[simp] theorem Strand.setK_launch (st : Strand) (n : Nat) (v : DWord) :
    (st.setK n v).launch = st.launch := rfl

@[simp] theorem Strand.setK_block (st : Strand) (n : Nat) (v : DWord) :
    (st.setK n v).block = st.block := rfl

@[simp] theorem Strand.setK_sindex (st : Strand) (n : Nat) (v : DWord) :
    (st.setK n v).sindex = st.sindex := rfl

@[simp] theorem Strand.setK_baseId (st : Strand) (n : Nat) (v : DWord) :
    (st.setK n v).baseId = st.baseId := rfl

@[simp] theorem Strand.setK_lineage (st : Strand) (n : Nat) (v : DWord) :
    (st.setK n v).lineage = st.lineage := rfl

@[simp] theorem Strand.setK_member (st : Strand) (n : Nat) (v : DWord) :
    (st.setK n v).member = st.member := rfl

@[simp] theorem Strand.setK_width (st : Strand) (n : Nat) (v : DWord) :
    (st.setK n v).width = st.width := rfl

@[simp] theorem Strand.setK_nregs (st : Strand) (n : Nat) (v : DWord) :
    (st.setK n v).nregs = st.nregs := rfl

@[simp] theorem Strand.setK_prio (st : Strand) (n : Nat) (v : DWord) :
    (st.setK n v).prio = st.prio := rfl

@[simp] theorem Strand.setK_codeBase (st : Strand) (n : Nat) (v : DWord) :
    (st.setK n v).codeBase = st.codeBase := rfl

@[simp] theorem Strand.setK_age (st : Strand) (n : Nat) (v : DWord) :
    (st.setK n v).age = st.age := rfl

@[simp] theorem Strand.setK_passed (st : Strand) (n : Nat) (v : DWord) :
    (st.setK n v).passed = st.passed := rfl

@[simp] theorem Strand.setK_urgent (st : Strand) (n : Nat) (v : DWord) :
    (st.setK n v).urgent = st.urgent := rfl

@[simp] theorem Strand.setK_pc (st : Strand) (n : Nat) (v : DWord) :
    (st.setK n v).pc = st.pc := rfl

@[simp] theorem Strand.setK_pcIdx (st : Strand) (n : Nat) (v : DWord) :
    (st.setK n v).pcIdx = st.pcIdx := rfl

@[simp] theorem Strand.setK_clause (st : Strand) (n : Nat) (v : DWord) :
    (st.setK n v).clause = st.clause := rfl

@[simp] theorem Strand.setK_gpend (st : Strand) (n : Nat) (v : DWord) :
    (st.setK n v).gpend = st.gpend := rfl

@[simp] theorem Strand.setK_v (st : Strand) (n : Nat) (v : DWord) :
    (st.setK n v).v = st.v := rfl

@[simp] theorem Strand.setK_vpend (st : Strand) (n : Nat) (v : DWord) :
    (st.setK n v).vpend = st.vpend := rfl

@[simp] theorem Strand.setK_p (st : Strand) (n : Nat) (v : DWord) :
    (st.setK n v).p = st.p := rfl

@[simp] theorem Strand.setK_flags (st : Strand) (n : Nat) (v : DWord) :
    (st.setK n v).flags = st.flags := rfl

@[simp] theorem Strand.setK_exited (st : Strand) (n : Nat) (v : DWord) :
    (st.setK n v).exited = st.exited := rfl

@[simp] theorem Strand.setK_departed (st : Strand) (n : Nat) (v : DWord) :
    (st.setK n v).departed = st.departed := rfl

@[simp] theorem Strand.setK_kept (st : Strand) (n : Nat) (v : DWord) :
    (st.setK n v).kept = st.kept := rfl

@[simp] theorem Strand.setK_names (st : Strand) (n : Nat) (v : DWord) :
    (st.setK n v).names = st.names := rfl

@[simp] theorem Strand.setK_issued (st : Strand) (n : Nat) (v : DWord) :
    (st.setK n v).issued = st.issued := rfl

@[simp] theorem Strand.setK_stalled (st : Strand) (n : Nat) (v : DWord) :
    (st.setK n v).stalled = st.stalled := rfl

@[simp] theorem Strand.setK_mode (st : Strand) (n : Nat) (v : DWord) :
    (st.setK n v).mode = st.mode := rfl

@[simp] theorem Strand.setK_prevMode (st : Strand) (n : Nat) (v : DWord) :
    (st.setK n v).prevMode = st.prevMode := rfl

@[simp] theorem Strand.setK_depth (st : Strand) (n : Nat) (v : DWord) :
    (st.setK n v).depth = st.depth := rfl

@[simp] theorem Strand.setK_frames (st : Strand) (n : Nat) (v : DWord) :
    (st.setK n v).frames = st.frames := rfl

@[simp] theorem Strand.setK_trapCause (st : Strand) (n : Nat) (v : DWord) :
    (st.setK n v).trapCause = st.trapCause := rfl

@[simp] theorem Strand.setK_trapMask (st : Strand) (n : Nat) (v : DWord) :
    (st.setK n v).trapMask = st.trapMask := rfl

@[simp] theorem Strand.setK_domain (st : Strand) (n : Nat) (v : DWord) :
    (st.setK n v).domain = st.domain := rfl

@[simp] theorem Strand.setK_keyid (st : Strand) (n : Nat) (v : DWord) :
    (st.setK n v).keyid = st.keyid := rfl

@[simp] theorem Strand.setK_preempt (st : Strand) (n : Nat) (v : DWord) :
    (st.setK n v).preempt = st.preempt := rfl

@[simp] theorem Strand.setK_region (st : Strand) (n : Nat) (v : DWord) :
    (st.setK n v).region = st.region := rfl

@[simp] theorem Strand.setK_inquiry (st : Strand) (n : Nat) (v : DWord) :
    (st.setK n v).inquiry = st.inquiry := rfl

@[simp] theorem Strand.setK_wait (st : Strand) (n : Nat) (v : DWord) :
    (st.setK n v).wait = st.wait := rfl

@[simp] theorem Strand.setQ_launch (st : Strand) (n : Nat) (b : Bool) :
    (st.setQ n b).launch = st.launch := rfl

@[simp] theorem Strand.setQ_block (st : Strand) (n : Nat) (b : Bool) :
    (st.setQ n b).block = st.block := rfl

@[simp] theorem Strand.setQ_sindex (st : Strand) (n : Nat) (b : Bool) :
    (st.setQ n b).sindex = st.sindex := rfl

@[simp] theorem Strand.setQ_baseId (st : Strand) (n : Nat) (b : Bool) :
    (st.setQ n b).baseId = st.baseId := rfl

@[simp] theorem Strand.setQ_lineage (st : Strand) (n : Nat) (b : Bool) :
    (st.setQ n b).lineage = st.lineage := rfl

@[simp] theorem Strand.setQ_member (st : Strand) (n : Nat) (b : Bool) :
    (st.setQ n b).member = st.member := rfl

@[simp] theorem Strand.setQ_width (st : Strand) (n : Nat) (b : Bool) :
    (st.setQ n b).width = st.width := rfl

@[simp] theorem Strand.setQ_nregs (st : Strand) (n : Nat) (b : Bool) :
    (st.setQ n b).nregs = st.nregs := rfl

@[simp] theorem Strand.setQ_prio (st : Strand) (n : Nat) (b : Bool) :
    (st.setQ n b).prio = st.prio := rfl

@[simp] theorem Strand.setQ_codeBase (st : Strand) (n : Nat) (b : Bool) :
    (st.setQ n b).codeBase = st.codeBase := rfl

@[simp] theorem Strand.setQ_age (st : Strand) (n : Nat) (b : Bool) :
    (st.setQ n b).age = st.age := rfl

@[simp] theorem Strand.setQ_passed (st : Strand) (n : Nat) (b : Bool) :
    (st.setQ n b).passed = st.passed := rfl

@[simp] theorem Strand.setQ_urgent (st : Strand) (n : Nat) (b : Bool) :
    (st.setQ n b).urgent = st.urgent := rfl

@[simp] theorem Strand.setQ_pc (st : Strand) (n : Nat) (b : Bool) :
    (st.setQ n b).pc = st.pc := rfl

@[simp] theorem Strand.setQ_pcIdx (st : Strand) (n : Nat) (b : Bool) :
    (st.setQ n b).pcIdx = st.pcIdx := rfl

@[simp] theorem Strand.setQ_clause (st : Strand) (n : Nat) (b : Bool) :
    (st.setQ n b).clause = st.clause := rfl

@[simp] theorem Strand.setQ_gpend (st : Strand) (n : Nat) (b : Bool) :
    (st.setQ n b).gpend = st.gpend := rfl

@[simp] theorem Strand.setQ_v (st : Strand) (n : Nat) (b : Bool) :
    (st.setQ n b).v = st.v := rfl

@[simp] theorem Strand.setQ_vpend (st : Strand) (n : Nat) (b : Bool) :
    (st.setQ n b).vpend = st.vpend := rfl

@[simp] theorem Strand.setQ_p (st : Strand) (n : Nat) (b : Bool) :
    (st.setQ n b).p = st.p := rfl

@[simp] theorem Strand.setQ_flags (st : Strand) (n : Nat) (b : Bool) :
    (st.setQ n b).flags = st.flags := rfl

@[simp] theorem Strand.setQ_exited (st : Strand) (n : Nat) (b : Bool) :
    (st.setQ n b).exited = st.exited := rfl

@[simp] theorem Strand.setQ_departed (st : Strand) (n : Nat) (b : Bool) :
    (st.setQ n b).departed = st.departed := rfl

@[simp] theorem Strand.setQ_kept (st : Strand) (n : Nat) (b : Bool) :
    (st.setQ n b).kept = st.kept := rfl

@[simp] theorem Strand.setQ_names (st : Strand) (n : Nat) (b : Bool) :
    (st.setQ n b).names = st.names := rfl

@[simp] theorem Strand.setQ_issued (st : Strand) (n : Nat) (b : Bool) :
    (st.setQ n b).issued = st.issued := rfl

@[simp] theorem Strand.setQ_stalled (st : Strand) (n : Nat) (b : Bool) :
    (st.setQ n b).stalled = st.stalled := rfl

@[simp] theorem Strand.setQ_mode (st : Strand) (n : Nat) (b : Bool) :
    (st.setQ n b).mode = st.mode := rfl

@[simp] theorem Strand.setQ_prevMode (st : Strand) (n : Nat) (b : Bool) :
    (st.setQ n b).prevMode = st.prevMode := rfl

@[simp] theorem Strand.setQ_depth (st : Strand) (n : Nat) (b : Bool) :
    (st.setQ n b).depth = st.depth := rfl

@[simp] theorem Strand.setQ_frames (st : Strand) (n : Nat) (b : Bool) :
    (st.setQ n b).frames = st.frames := rfl

@[simp] theorem Strand.setQ_trapCause (st : Strand) (n : Nat) (b : Bool) :
    (st.setQ n b).trapCause = st.trapCause := rfl

@[simp] theorem Strand.setQ_trapMask (st : Strand) (n : Nat) (b : Bool) :
    (st.setQ n b).trapMask = st.trapMask := rfl

@[simp] theorem Strand.setQ_domain (st : Strand) (n : Nat) (b : Bool) :
    (st.setQ n b).domain = st.domain := rfl

@[simp] theorem Strand.setQ_keyid (st : Strand) (n : Nat) (b : Bool) :
    (st.setQ n b).keyid = st.keyid := rfl

@[simp] theorem Strand.setQ_preempt (st : Strand) (n : Nat) (b : Bool) :
    (st.setQ n b).preempt = st.preempt := rfl

@[simp] theorem Strand.setQ_region (st : Strand) (n : Nat) (b : Bool) :
    (st.setQ n b).region = st.region := rfl

@[simp] theorem Strand.setQ_inquiry (st : Strand) (n : Nat) (b : Bool) :
    (st.setQ n b).inquiry = st.inquiry := rfl

@[simp] theorem Strand.setQ_wait (st : Strand) (n : Nat) (b : Bool) :
    (st.setQ n b).wait = st.wait := rfl

@[simp] theorem Strand.setP_launch (st : Strand) (n : Nat) (act m : LaneMask) :
    (st.setP n act m).launch = st.launch := rfl

@[simp] theorem Strand.setP_block (st : Strand) (n : Nat) (act m : LaneMask) :
    (st.setP n act m).block = st.block := rfl

@[simp] theorem Strand.setP_sindex (st : Strand) (n : Nat) (act m : LaneMask) :
    (st.setP n act m).sindex = st.sindex := rfl

@[simp] theorem Strand.setP_baseId (st : Strand) (n : Nat) (act m : LaneMask) :
    (st.setP n act m).baseId = st.baseId := rfl

@[simp] theorem Strand.setP_lineage (st : Strand) (n : Nat) (act m : LaneMask) :
    (st.setP n act m).lineage = st.lineage := rfl

@[simp] theorem Strand.setP_member (st : Strand) (n : Nat) (act m : LaneMask) :
    (st.setP n act m).member = st.member := rfl

@[simp] theorem Strand.setP_width (st : Strand) (n : Nat) (act m : LaneMask) :
    (st.setP n act m).width = st.width := rfl

@[simp] theorem Strand.setP_nregs (st : Strand) (n : Nat) (act m : LaneMask) :
    (st.setP n act m).nregs = st.nregs := rfl

@[simp] theorem Strand.setP_prio (st : Strand) (n : Nat) (act m : LaneMask) :
    (st.setP n act m).prio = st.prio := rfl

@[simp] theorem Strand.setP_codeBase (st : Strand) (n : Nat) (act m : LaneMask) :
    (st.setP n act m).codeBase = st.codeBase := rfl

@[simp] theorem Strand.setP_age (st : Strand) (n : Nat) (act m : LaneMask) :
    (st.setP n act m).age = st.age := rfl

@[simp] theorem Strand.setP_passed (st : Strand) (n : Nat) (act m : LaneMask) :
    (st.setP n act m).passed = st.passed := rfl

@[simp] theorem Strand.setP_urgent (st : Strand) (n : Nat) (act m : LaneMask) :
    (st.setP n act m).urgent = st.urgent := rfl

@[simp] theorem Strand.setP_pc (st : Strand) (n : Nat) (act m : LaneMask) :
    (st.setP n act m).pc = st.pc := rfl

@[simp] theorem Strand.setP_pcIdx (st : Strand) (n : Nat) (act m : LaneMask) :
    (st.setP n act m).pcIdx = st.pcIdx := rfl

@[simp] theorem Strand.setP_clause (st : Strand) (n : Nat) (act m : LaneMask) :
    (st.setP n act m).clause = st.clause := rfl

@[simp] theorem Strand.setP_group (st : Strand) (n : Nat) (act m : LaneMask) :
    (st.setP n act m).group = st.group := rfl

@[simp] theorem Strand.setP_gpend (st : Strand) (n : Nat) (act m : LaneMask) :
    (st.setP n act m).gpend = st.gpend := rfl

@[simp] theorem Strand.setP_v (st : Strand) (n : Nat) (act m : LaneMask) :
    (st.setP n act m).v = st.v := rfl

@[simp] theorem Strand.setP_vpend (st : Strand) (n : Nat) (act m : LaneMask) :
    (st.setP n act m).vpend = st.vpend := rfl

@[simp] theorem Strand.setP_flags (st : Strand) (n : Nat) (act m : LaneMask) :
    (st.setP n act m).flags = st.flags := rfl

@[simp] theorem Strand.setP_exited (st : Strand) (n : Nat) (act m : LaneMask) :
    (st.setP n act m).exited = st.exited := rfl

@[simp] theorem Strand.setP_departed (st : Strand) (n : Nat) (act m : LaneMask) :
    (st.setP n act m).departed = st.departed := rfl

@[simp] theorem Strand.setP_kept (st : Strand) (n : Nat) (act m : LaneMask) :
    (st.setP n act m).kept = st.kept := rfl

@[simp] theorem Strand.setP_names (st : Strand) (n : Nat) (act m : LaneMask) :
    (st.setP n act m).names = st.names := rfl

@[simp] theorem Strand.setP_issued (st : Strand) (n : Nat) (act m : LaneMask) :
    (st.setP n act m).issued = st.issued := rfl

@[simp] theorem Strand.setP_stalled (st : Strand) (n : Nat) (act m : LaneMask) :
    (st.setP n act m).stalled = st.stalled := rfl

@[simp] theorem Strand.setP_mode (st : Strand) (n : Nat) (act m : LaneMask) :
    (st.setP n act m).mode = st.mode := rfl

@[simp] theorem Strand.setP_prevMode (st : Strand) (n : Nat) (act m : LaneMask) :
    (st.setP n act m).prevMode = st.prevMode := rfl

@[simp] theorem Strand.setP_depth (st : Strand) (n : Nat) (act m : LaneMask) :
    (st.setP n act m).depth = st.depth := rfl

@[simp] theorem Strand.setP_frames (st : Strand) (n : Nat) (act m : LaneMask) :
    (st.setP n act m).frames = st.frames := rfl

@[simp] theorem Strand.setP_trapCause (st : Strand) (n : Nat) (act m : LaneMask) :
    (st.setP n act m).trapCause = st.trapCause := rfl

@[simp] theorem Strand.setP_trapMask (st : Strand) (n : Nat) (act m : LaneMask) :
    (st.setP n act m).trapMask = st.trapMask := rfl

@[simp] theorem Strand.setP_domain (st : Strand) (n : Nat) (act m : LaneMask) :
    (st.setP n act m).domain = st.domain := rfl

@[simp] theorem Strand.setP_keyid (st : Strand) (n : Nat) (act m : LaneMask) :
    (st.setP n act m).keyid = st.keyid := rfl

@[simp] theorem Strand.setP_preempt (st : Strand) (n : Nat) (act m : LaneMask) :
    (st.setP n act m).preempt = st.preempt := rfl

@[simp] theorem Strand.setP_region (st : Strand) (n : Nat) (act m : LaneMask) :
    (st.setP n act m).region = st.region := rfl

@[simp] theorem Strand.setP_inquiry (st : Strand) (n : Nat) (act m : LaneMask) :
    (st.setP n act m).inquiry = st.inquiry := rfl

@[simp] theorem Strand.setP_wait (st : Strand) (n : Nat) (act m : LaneMask) :
    (st.setP n act m).wait = st.wait := rfl

@[simp] theorem Strand.freeV_launch (st : Strand) (r : Nat) :
    (st.freeV r).launch = st.launch := rfl

@[simp] theorem Strand.freeV_block (st : Strand) (r : Nat) :
    (st.freeV r).block = st.block := rfl

@[simp] theorem Strand.freeV_sindex (st : Strand) (r : Nat) :
    (st.freeV r).sindex = st.sindex := rfl

@[simp] theorem Strand.freeV_baseId (st : Strand) (r : Nat) :
    (st.freeV r).baseId = st.baseId := rfl

@[simp] theorem Strand.freeV_lineage (st : Strand) (r : Nat) :
    (st.freeV r).lineage = st.lineage := rfl

@[simp] theorem Strand.freeV_member (st : Strand) (r : Nat) :
    (st.freeV r).member = st.member := rfl

@[simp] theorem Strand.freeV_width (st : Strand) (r : Nat) :
    (st.freeV r).width = st.width := rfl

@[simp] theorem Strand.freeV_nregs (st : Strand) (r : Nat) :
    (st.freeV r).nregs = st.nregs := rfl

@[simp] theorem Strand.freeV_prio (st : Strand) (r : Nat) :
    (st.freeV r).prio = st.prio := rfl

@[simp] theorem Strand.freeV_codeBase (st : Strand) (r : Nat) :
    (st.freeV r).codeBase = st.codeBase := rfl

@[simp] theorem Strand.freeV_age (st : Strand) (r : Nat) :
    (st.freeV r).age = st.age := rfl

@[simp] theorem Strand.freeV_passed (st : Strand) (r : Nat) :
    (st.freeV r).passed = st.passed := rfl

@[simp] theorem Strand.freeV_urgent (st : Strand) (r : Nat) :
    (st.freeV r).urgent = st.urgent := rfl

@[simp] theorem Strand.freeV_pc (st : Strand) (r : Nat) :
    (st.freeV r).pc = st.pc := rfl

@[simp] theorem Strand.freeV_pcIdx (st : Strand) (r : Nat) :
    (st.freeV r).pcIdx = st.pcIdx := rfl

@[simp] theorem Strand.freeV_clause (st : Strand) (r : Nat) :
    (st.freeV r).clause = st.clause := rfl

@[simp] theorem Strand.freeV_group (st : Strand) (r : Nat) :
    (st.freeV r).group = st.group := rfl

@[simp] theorem Strand.freeV_gpend (st : Strand) (r : Nat) :
    (st.freeV r).gpend = st.gpend := rfl

@[simp] theorem Strand.freeV_vpend (st : Strand) (r : Nat) :
    (st.freeV r).vpend = st.vpend := rfl

@[simp] theorem Strand.freeV_p (st : Strand) (r : Nat) :
    (st.freeV r).p = st.p := rfl

@[simp] theorem Strand.freeV_flags (st : Strand) (r : Nat) :
    (st.freeV r).flags = st.flags := rfl

@[simp] theorem Strand.freeV_exited (st : Strand) (r : Nat) :
    (st.freeV r).exited = st.exited := rfl

@[simp] theorem Strand.freeV_departed (st : Strand) (r : Nat) :
    (st.freeV r).departed = st.departed := rfl

@[simp] theorem Strand.freeV_kept (st : Strand) (r : Nat) :
    (st.freeV r).kept = st.kept := rfl

@[simp] theorem Strand.freeV_names (st : Strand) (r : Nat) :
    (st.freeV r).names = st.names := rfl

@[simp] theorem Strand.freeV_issued (st : Strand) (r : Nat) :
    (st.freeV r).issued = st.issued := rfl

@[simp] theorem Strand.freeV_stalled (st : Strand) (r : Nat) :
    (st.freeV r).stalled = st.stalled := rfl

@[simp] theorem Strand.freeV_mode (st : Strand) (r : Nat) :
    (st.freeV r).mode = st.mode := rfl

@[simp] theorem Strand.freeV_prevMode (st : Strand) (r : Nat) :
    (st.freeV r).prevMode = st.prevMode := rfl

@[simp] theorem Strand.freeV_depth (st : Strand) (r : Nat) :
    (st.freeV r).depth = st.depth := rfl

@[simp] theorem Strand.freeV_frames (st : Strand) (r : Nat) :
    (st.freeV r).frames = st.frames := rfl

@[simp] theorem Strand.freeV_trapCause (st : Strand) (r : Nat) :
    (st.freeV r).trapCause = st.trapCause := rfl

@[simp] theorem Strand.freeV_trapMask (st : Strand) (r : Nat) :
    (st.freeV r).trapMask = st.trapMask := rfl

@[simp] theorem Strand.freeV_domain (st : Strand) (r : Nat) :
    (st.freeV r).domain = st.domain := rfl

@[simp] theorem Strand.freeV_keyid (st : Strand) (r : Nat) :
    (st.freeV r).keyid = st.keyid := rfl

@[simp] theorem Strand.freeV_preempt (st : Strand) (r : Nat) :
    (st.freeV r).preempt = st.preempt := rfl

@[simp] theorem Strand.freeV_region (st : Strand) (r : Nat) :
    (st.freeV r).region = st.region := rfl

@[simp] theorem Strand.freeV_inquiry (st : Strand) (r : Nat) :
    (st.freeV r).inquiry = st.inquiry := rfl

@[simp] theorem Strand.freeV_wait (st : Strand) (r : Nat) :
    (st.freeV r).wait = st.wait := rfl

@[simp] theorem Strand.writeV_launch (st : Strand) (r : Nat) (act : LaneMask) (tag : Option VReg) (f : Nat → Word) :
    (st.writeV r act tag f).launch = st.launch := rfl

@[simp] theorem Strand.writeV_block (st : Strand) (r : Nat) (act : LaneMask) (tag : Option VReg) (f : Nat → Word) :
    (st.writeV r act tag f).block = st.block := rfl

@[simp] theorem Strand.writeV_sindex (st : Strand) (r : Nat) (act : LaneMask) (tag : Option VReg) (f : Nat → Word) :
    (st.writeV r act tag f).sindex = st.sindex := rfl

@[simp] theorem Strand.writeV_baseId (st : Strand) (r : Nat) (act : LaneMask) (tag : Option VReg) (f : Nat → Word) :
    (st.writeV r act tag f).baseId = st.baseId := rfl

@[simp] theorem Strand.writeV_lineage (st : Strand) (r : Nat) (act : LaneMask) (tag : Option VReg) (f : Nat → Word) :
    (st.writeV r act tag f).lineage = st.lineage := rfl

@[simp] theorem Strand.writeV_member (st : Strand) (r : Nat) (act : LaneMask) (tag : Option VReg) (f : Nat → Word) :
    (st.writeV r act tag f).member = st.member := rfl

@[simp] theorem Strand.writeV_width (st : Strand) (r : Nat) (act : LaneMask) (tag : Option VReg) (f : Nat → Word) :
    (st.writeV r act tag f).width = st.width := rfl

@[simp] theorem Strand.writeV_nregs (st : Strand) (r : Nat) (act : LaneMask) (tag : Option VReg) (f : Nat → Word) :
    (st.writeV r act tag f).nregs = st.nregs := rfl

@[simp] theorem Strand.writeV_prio (st : Strand) (r : Nat) (act : LaneMask) (tag : Option VReg) (f : Nat → Word) :
    (st.writeV r act tag f).prio = st.prio := rfl

@[simp] theorem Strand.writeV_codeBase (st : Strand) (r : Nat) (act : LaneMask) (tag : Option VReg) (f : Nat → Word) :
    (st.writeV r act tag f).codeBase = st.codeBase := rfl

@[simp] theorem Strand.writeV_age (st : Strand) (r : Nat) (act : LaneMask) (tag : Option VReg) (f : Nat → Word) :
    (st.writeV r act tag f).age = st.age := rfl

@[simp] theorem Strand.writeV_passed (st : Strand) (r : Nat) (act : LaneMask) (tag : Option VReg) (f : Nat → Word) :
    (st.writeV r act tag f).passed = st.passed := rfl

@[simp] theorem Strand.writeV_urgent (st : Strand) (r : Nat) (act : LaneMask) (tag : Option VReg) (f : Nat → Word) :
    (st.writeV r act tag f).urgent = st.urgent := rfl

@[simp] theorem Strand.writeV_pc (st : Strand) (r : Nat) (act : LaneMask) (tag : Option VReg) (f : Nat → Word) :
    (st.writeV r act tag f).pc = st.pc := rfl

@[simp] theorem Strand.writeV_pcIdx (st : Strand) (r : Nat) (act : LaneMask) (tag : Option VReg) (f : Nat → Word) :
    (st.writeV r act tag f).pcIdx = st.pcIdx := rfl

@[simp] theorem Strand.writeV_clause (st : Strand) (r : Nat) (act : LaneMask) (tag : Option VReg) (f : Nat → Word) :
    (st.writeV r act tag f).clause = st.clause := rfl

@[simp] theorem Strand.writeV_group (st : Strand) (r : Nat) (act : LaneMask) (tag : Option VReg) (f : Nat → Word) :
    (st.writeV r act tag f).group = st.group := rfl

@[simp] theorem Strand.writeV_gpend (st : Strand) (r : Nat) (act : LaneMask) (tag : Option VReg) (f : Nat → Word) :
    (st.writeV r act tag f).gpend = st.gpend := rfl

@[simp] theorem Strand.writeV_vpend (st : Strand) (r : Nat) (act : LaneMask) (tag : Option VReg) (f : Nat → Word) :
    (st.writeV r act tag f).vpend = st.vpend := rfl

@[simp] theorem Strand.writeV_p (st : Strand) (r : Nat) (act : LaneMask) (tag : Option VReg) (f : Nat → Word) :
    (st.writeV r act tag f).p = st.p := rfl

@[simp] theorem Strand.writeV_flags (st : Strand) (r : Nat) (act : LaneMask) (tag : Option VReg) (f : Nat → Word) :
    (st.writeV r act tag f).flags = st.flags := rfl

@[simp] theorem Strand.writeV_exited (st : Strand) (r : Nat) (act : LaneMask) (tag : Option VReg) (f : Nat → Word) :
    (st.writeV r act tag f).exited = st.exited := rfl

@[simp] theorem Strand.writeV_departed (st : Strand) (r : Nat) (act : LaneMask) (tag : Option VReg) (f : Nat → Word) :
    (st.writeV r act tag f).departed = st.departed := rfl

@[simp] theorem Strand.writeV_kept (st : Strand) (r : Nat) (act : LaneMask) (tag : Option VReg) (f : Nat → Word) :
    (st.writeV r act tag f).kept = st.kept := rfl

@[simp] theorem Strand.writeV_names (st : Strand) (r : Nat) (act : LaneMask) (tag : Option VReg) (f : Nat → Word) :
    (st.writeV r act tag f).names = st.names := rfl

@[simp] theorem Strand.writeV_issued (st : Strand) (r : Nat) (act : LaneMask) (tag : Option VReg) (f : Nat → Word) :
    (st.writeV r act tag f).issued = st.issued := rfl

@[simp] theorem Strand.writeV_stalled (st : Strand) (r : Nat) (act : LaneMask) (tag : Option VReg) (f : Nat → Word) :
    (st.writeV r act tag f).stalled = st.stalled := rfl

@[simp] theorem Strand.writeV_mode (st : Strand) (r : Nat) (act : LaneMask) (tag : Option VReg) (f : Nat → Word) :
    (st.writeV r act tag f).mode = st.mode := rfl

@[simp] theorem Strand.writeV_prevMode (st : Strand) (r : Nat) (act : LaneMask) (tag : Option VReg) (f : Nat → Word) :
    (st.writeV r act tag f).prevMode = st.prevMode := rfl

@[simp] theorem Strand.writeV_depth (st : Strand) (r : Nat) (act : LaneMask) (tag : Option VReg) (f : Nat → Word) :
    (st.writeV r act tag f).depth = st.depth := rfl

@[simp] theorem Strand.writeV_frames (st : Strand) (r : Nat) (act : LaneMask) (tag : Option VReg) (f : Nat → Word) :
    (st.writeV r act tag f).frames = st.frames := rfl

@[simp] theorem Strand.writeV_trapCause (st : Strand) (r : Nat) (act : LaneMask) (tag : Option VReg) (f : Nat → Word) :
    (st.writeV r act tag f).trapCause = st.trapCause := rfl

@[simp] theorem Strand.writeV_trapMask (st : Strand) (r : Nat) (act : LaneMask) (tag : Option VReg) (f : Nat → Word) :
    (st.writeV r act tag f).trapMask = st.trapMask := rfl

@[simp] theorem Strand.writeV_domain (st : Strand) (r : Nat) (act : LaneMask) (tag : Option VReg) (f : Nat → Word) :
    (st.writeV r act tag f).domain = st.domain := rfl

@[simp] theorem Strand.writeV_keyid (st : Strand) (r : Nat) (act : LaneMask) (tag : Option VReg) (f : Nat → Word) :
    (st.writeV r act tag f).keyid = st.keyid := rfl

@[simp] theorem Strand.writeV_preempt (st : Strand) (r : Nat) (act : LaneMask) (tag : Option VReg) (f : Nat → Word) :
    (st.writeV r act tag f).preempt = st.preempt := rfl

@[simp] theorem Strand.writeV_region (st : Strand) (r : Nat) (act : LaneMask) (tag : Option VReg) (f : Nat → Word) :
    (st.writeV r act tag f).region = st.region := rfl

@[simp] theorem Strand.writeV_inquiry (st : Strand) (r : Nat) (act : LaneMask) (tag : Option VReg) (f : Nat → Word) :
    (st.writeV r act tag f).inquiry = st.inquiry := rfl

@[simp] theorem Strand.writeV_wait (st : Strand) (r : Nat) (act : LaneMask) (tag : Option VReg) (f : Nat → Word) :
    (st.writeV r act tag f).wait = st.wait := rfl

@[simp] theorem Strand.pendV_launch (st : Strand) (rs : List Nat) (b : Bool) :
    (st.pendV rs b).launch = st.launch := rfl

@[simp] theorem Strand.pendV_block (st : Strand) (rs : List Nat) (b : Bool) :
    (st.pendV rs b).block = st.block := rfl

@[simp] theorem Strand.pendV_sindex (st : Strand) (rs : List Nat) (b : Bool) :
    (st.pendV rs b).sindex = st.sindex := rfl

@[simp] theorem Strand.pendV_baseId (st : Strand) (rs : List Nat) (b : Bool) :
    (st.pendV rs b).baseId = st.baseId := rfl

@[simp] theorem Strand.pendV_lineage (st : Strand) (rs : List Nat) (b : Bool) :
    (st.pendV rs b).lineage = st.lineage := rfl

@[simp] theorem Strand.pendV_member (st : Strand) (rs : List Nat) (b : Bool) :
    (st.pendV rs b).member = st.member := rfl

@[simp] theorem Strand.pendV_width (st : Strand) (rs : List Nat) (b : Bool) :
    (st.pendV rs b).width = st.width := rfl

@[simp] theorem Strand.pendV_nregs (st : Strand) (rs : List Nat) (b : Bool) :
    (st.pendV rs b).nregs = st.nregs := rfl

@[simp] theorem Strand.pendV_prio (st : Strand) (rs : List Nat) (b : Bool) :
    (st.pendV rs b).prio = st.prio := rfl

@[simp] theorem Strand.pendV_codeBase (st : Strand) (rs : List Nat) (b : Bool) :
    (st.pendV rs b).codeBase = st.codeBase := rfl

@[simp] theorem Strand.pendV_age (st : Strand) (rs : List Nat) (b : Bool) :
    (st.pendV rs b).age = st.age := rfl

@[simp] theorem Strand.pendV_passed (st : Strand) (rs : List Nat) (b : Bool) :
    (st.pendV rs b).passed = st.passed := rfl

@[simp] theorem Strand.pendV_urgent (st : Strand) (rs : List Nat) (b : Bool) :
    (st.pendV rs b).urgent = st.urgent := rfl

@[simp] theorem Strand.pendV_pc (st : Strand) (rs : List Nat) (b : Bool) :
    (st.pendV rs b).pc = st.pc := rfl

@[simp] theorem Strand.pendV_pcIdx (st : Strand) (rs : List Nat) (b : Bool) :
    (st.pendV rs b).pcIdx = st.pcIdx := rfl

@[simp] theorem Strand.pendV_clause (st : Strand) (rs : List Nat) (b : Bool) :
    (st.pendV rs b).clause = st.clause := rfl

@[simp] theorem Strand.pendV_group (st : Strand) (rs : List Nat) (b : Bool) :
    (st.pendV rs b).group = st.group := rfl

@[simp] theorem Strand.pendV_gpend (st : Strand) (rs : List Nat) (b : Bool) :
    (st.pendV rs b).gpend = st.gpend := rfl

@[simp] theorem Strand.pendV_v (st : Strand) (rs : List Nat) (b : Bool) :
    (st.pendV rs b).v = st.v := rfl

@[simp] theorem Strand.pendV_p (st : Strand) (rs : List Nat) (b : Bool) :
    (st.pendV rs b).p = st.p := rfl

@[simp] theorem Strand.pendV_flags (st : Strand) (rs : List Nat) (b : Bool) :
    (st.pendV rs b).flags = st.flags := rfl

@[simp] theorem Strand.pendV_exited (st : Strand) (rs : List Nat) (b : Bool) :
    (st.pendV rs b).exited = st.exited := rfl

@[simp] theorem Strand.pendV_departed (st : Strand) (rs : List Nat) (b : Bool) :
    (st.pendV rs b).departed = st.departed := rfl

@[simp] theorem Strand.pendV_kept (st : Strand) (rs : List Nat) (b : Bool) :
    (st.pendV rs b).kept = st.kept := rfl

@[simp] theorem Strand.pendV_names (st : Strand) (rs : List Nat) (b : Bool) :
    (st.pendV rs b).names = st.names := rfl

@[simp] theorem Strand.pendV_issued (st : Strand) (rs : List Nat) (b : Bool) :
    (st.pendV rs b).issued = st.issued := rfl

@[simp] theorem Strand.pendV_stalled (st : Strand) (rs : List Nat) (b : Bool) :
    (st.pendV rs b).stalled = st.stalled := rfl

@[simp] theorem Strand.pendV_mode (st : Strand) (rs : List Nat) (b : Bool) :
    (st.pendV rs b).mode = st.mode := rfl

@[simp] theorem Strand.pendV_prevMode (st : Strand) (rs : List Nat) (b : Bool) :
    (st.pendV rs b).prevMode = st.prevMode := rfl

@[simp] theorem Strand.pendV_depth (st : Strand) (rs : List Nat) (b : Bool) :
    (st.pendV rs b).depth = st.depth := rfl

@[simp] theorem Strand.pendV_frames (st : Strand) (rs : List Nat) (b : Bool) :
    (st.pendV rs b).frames = st.frames := rfl

@[simp] theorem Strand.pendV_trapCause (st : Strand) (rs : List Nat) (b : Bool) :
    (st.pendV rs b).trapCause = st.trapCause := rfl

@[simp] theorem Strand.pendV_trapMask (st : Strand) (rs : List Nat) (b : Bool) :
    (st.pendV rs b).trapMask = st.trapMask := rfl

@[simp] theorem Strand.pendV_domain (st : Strand) (rs : List Nat) (b : Bool) :
    (st.pendV rs b).domain = st.domain := rfl

@[simp] theorem Strand.pendV_keyid (st : Strand) (rs : List Nat) (b : Bool) :
    (st.pendV rs b).keyid = st.keyid := rfl

@[simp] theorem Strand.pendV_preempt (st : Strand) (rs : List Nat) (b : Bool) :
    (st.pendV rs b).preempt = st.preempt := rfl

@[simp] theorem Strand.pendV_region (st : Strand) (rs : List Nat) (b : Bool) :
    (st.pendV rs b).region = st.region := rfl

@[simp] theorem Strand.pendV_inquiry (st : Strand) (rs : List Nat) (b : Bool) :
    (st.pendV rs b).inquiry = st.inquiry := rfl

@[simp] theorem Strand.pendV_wait (st : Strand) (rs : List Nat) (b : Bool) :
    (st.pendV rs b).wait = st.wait := rfl

@[simp] theorem Strand.pendG_launch (st : Strand) (r : Nat) (b : Bool) :
    (st.pendG r b).launch = st.launch := rfl

@[simp] theorem Strand.pendG_block (st : Strand) (r : Nat) (b : Bool) :
    (st.pendG r b).block = st.block := rfl

@[simp] theorem Strand.pendG_sindex (st : Strand) (r : Nat) (b : Bool) :
    (st.pendG r b).sindex = st.sindex := rfl

@[simp] theorem Strand.pendG_baseId (st : Strand) (r : Nat) (b : Bool) :
    (st.pendG r b).baseId = st.baseId := rfl

@[simp] theorem Strand.pendG_lineage (st : Strand) (r : Nat) (b : Bool) :
    (st.pendG r b).lineage = st.lineage := rfl

@[simp] theorem Strand.pendG_member (st : Strand) (r : Nat) (b : Bool) :
    (st.pendG r b).member = st.member := rfl

@[simp] theorem Strand.pendG_width (st : Strand) (r : Nat) (b : Bool) :
    (st.pendG r b).width = st.width := rfl

@[simp] theorem Strand.pendG_nregs (st : Strand) (r : Nat) (b : Bool) :
    (st.pendG r b).nregs = st.nregs := rfl

@[simp] theorem Strand.pendG_prio (st : Strand) (r : Nat) (b : Bool) :
    (st.pendG r b).prio = st.prio := rfl

@[simp] theorem Strand.pendG_codeBase (st : Strand) (r : Nat) (b : Bool) :
    (st.pendG r b).codeBase = st.codeBase := rfl

@[simp] theorem Strand.pendG_age (st : Strand) (r : Nat) (b : Bool) :
    (st.pendG r b).age = st.age := rfl

@[simp] theorem Strand.pendG_passed (st : Strand) (r : Nat) (b : Bool) :
    (st.pendG r b).passed = st.passed := rfl

@[simp] theorem Strand.pendG_urgent (st : Strand) (r : Nat) (b : Bool) :
    (st.pendG r b).urgent = st.urgent := rfl

@[simp] theorem Strand.pendG_pc (st : Strand) (r : Nat) (b : Bool) :
    (st.pendG r b).pc = st.pc := rfl

@[simp] theorem Strand.pendG_pcIdx (st : Strand) (r : Nat) (b : Bool) :
    (st.pendG r b).pcIdx = st.pcIdx := rfl

@[simp] theorem Strand.pendG_clause (st : Strand) (r : Nat) (b : Bool) :
    (st.pendG r b).clause = st.clause := rfl

@[simp] theorem Strand.pendG_group (st : Strand) (r : Nat) (b : Bool) :
    (st.pendG r b).group = st.group := rfl

@[simp] theorem Strand.pendG_v (st : Strand) (r : Nat) (b : Bool) :
    (st.pendG r b).v = st.v := rfl

@[simp] theorem Strand.pendG_vpend (st : Strand) (r : Nat) (b : Bool) :
    (st.pendG r b).vpend = st.vpend := rfl

@[simp] theorem Strand.pendG_p (st : Strand) (r : Nat) (b : Bool) :
    (st.pendG r b).p = st.p := rfl

@[simp] theorem Strand.pendG_flags (st : Strand) (r : Nat) (b : Bool) :
    (st.pendG r b).flags = st.flags := rfl

@[simp] theorem Strand.pendG_exited (st : Strand) (r : Nat) (b : Bool) :
    (st.pendG r b).exited = st.exited := rfl

@[simp] theorem Strand.pendG_departed (st : Strand) (r : Nat) (b : Bool) :
    (st.pendG r b).departed = st.departed := rfl

@[simp] theorem Strand.pendG_kept (st : Strand) (r : Nat) (b : Bool) :
    (st.pendG r b).kept = st.kept := rfl

@[simp] theorem Strand.pendG_names (st : Strand) (r : Nat) (b : Bool) :
    (st.pendG r b).names = st.names := rfl

@[simp] theorem Strand.pendG_issued (st : Strand) (r : Nat) (b : Bool) :
    (st.pendG r b).issued = st.issued := rfl

@[simp] theorem Strand.pendG_stalled (st : Strand) (r : Nat) (b : Bool) :
    (st.pendG r b).stalled = st.stalled := rfl

@[simp] theorem Strand.pendG_mode (st : Strand) (r : Nat) (b : Bool) :
    (st.pendG r b).mode = st.mode := rfl

@[simp] theorem Strand.pendG_prevMode (st : Strand) (r : Nat) (b : Bool) :
    (st.pendG r b).prevMode = st.prevMode := rfl

@[simp] theorem Strand.pendG_depth (st : Strand) (r : Nat) (b : Bool) :
    (st.pendG r b).depth = st.depth := rfl

@[simp] theorem Strand.pendG_frames (st : Strand) (r : Nat) (b : Bool) :
    (st.pendG r b).frames = st.frames := rfl

@[simp] theorem Strand.pendG_trapCause (st : Strand) (r : Nat) (b : Bool) :
    (st.pendG r b).trapCause = st.trapCause := rfl

@[simp] theorem Strand.pendG_trapMask (st : Strand) (r : Nat) (b : Bool) :
    (st.pendG r b).trapMask = st.trapMask := rfl

@[simp] theorem Strand.pendG_domain (st : Strand) (r : Nat) (b : Bool) :
    (st.pendG r b).domain = st.domain := rfl

@[simp] theorem Strand.pendG_keyid (st : Strand) (r : Nat) (b : Bool) :
    (st.pendG r b).keyid = st.keyid := rfl

@[simp] theorem Strand.pendG_preempt (st : Strand) (r : Nat) (b : Bool) :
    (st.pendG r b).preempt = st.preempt := rfl

@[simp] theorem Strand.pendG_region (st : Strand) (r : Nat) (b : Bool) :
    (st.pendG r b).region = st.region := rfl

@[simp] theorem Strand.pendG_inquiry (st : Strand) (r : Nat) (b : Bool) :
    (st.pendG r b).inquiry = st.inquiry := rfl

@[simp] theorem Strand.pendG_wait (st : Strand) (r : Nat) (b : Bool) :
    (st.pendG r b).wait = st.wait := rfl

@[simp] theorem Strand.setFlag_launch (st : Strand) (f : Nat) (b : Bool) :
    (st.setFlag f b).launch = st.launch := by
  unfold Strand.setFlag; split <;> rfl

@[simp] theorem Strand.setFlag_block (st : Strand) (f : Nat) (b : Bool) :
    (st.setFlag f b).block = st.block := by
  unfold Strand.setFlag; split <;> rfl

@[simp] theorem Strand.setFlag_sindex (st : Strand) (f : Nat) (b : Bool) :
    (st.setFlag f b).sindex = st.sindex := by
  unfold Strand.setFlag; split <;> rfl

@[simp] theorem Strand.setFlag_baseId (st : Strand) (f : Nat) (b : Bool) :
    (st.setFlag f b).baseId = st.baseId := by
  unfold Strand.setFlag; split <;> rfl

@[simp] theorem Strand.setFlag_lineage (st : Strand) (f : Nat) (b : Bool) :
    (st.setFlag f b).lineage = st.lineage := by
  unfold Strand.setFlag; split <;> rfl

@[simp] theorem Strand.setFlag_member (st : Strand) (f : Nat) (b : Bool) :
    (st.setFlag f b).member = st.member := by
  unfold Strand.setFlag; split <;> rfl

@[simp] theorem Strand.setFlag_width (st : Strand) (f : Nat) (b : Bool) :
    (st.setFlag f b).width = st.width := by
  unfold Strand.setFlag; split <;> rfl

@[simp] theorem Strand.setFlag_nregs (st : Strand) (f : Nat) (b : Bool) :
    (st.setFlag f b).nregs = st.nregs := by
  unfold Strand.setFlag; split <;> rfl

@[simp] theorem Strand.setFlag_prio (st : Strand) (f : Nat) (b : Bool) :
    (st.setFlag f b).prio = st.prio := by
  unfold Strand.setFlag; split <;> rfl

@[simp] theorem Strand.setFlag_codeBase (st : Strand) (f : Nat) (b : Bool) :
    (st.setFlag f b).codeBase = st.codeBase := by
  unfold Strand.setFlag; split <;> rfl

@[simp] theorem Strand.setFlag_age (st : Strand) (f : Nat) (b : Bool) :
    (st.setFlag f b).age = st.age := by
  unfold Strand.setFlag; split <;> rfl

@[simp] theorem Strand.setFlag_passed (st : Strand) (f : Nat) (b : Bool) :
    (st.setFlag f b).passed = st.passed := by
  unfold Strand.setFlag; split <;> rfl

@[simp] theorem Strand.setFlag_urgent (st : Strand) (f : Nat) (b : Bool) :
    (st.setFlag f b).urgent = st.urgent := by
  unfold Strand.setFlag; split <;> rfl

@[simp] theorem Strand.setFlag_pc (st : Strand) (f : Nat) (b : Bool) :
    (st.setFlag f b).pc = st.pc := by
  unfold Strand.setFlag; split <;> rfl

@[simp] theorem Strand.setFlag_pcIdx (st : Strand) (f : Nat) (b : Bool) :
    (st.setFlag f b).pcIdx = st.pcIdx := by
  unfold Strand.setFlag; split <;> rfl

@[simp] theorem Strand.setFlag_clause (st : Strand) (f : Nat) (b : Bool) :
    (st.setFlag f b).clause = st.clause := by
  unfold Strand.setFlag; split <;> rfl

@[simp] theorem Strand.setFlag_group (st : Strand) (f : Nat) (b : Bool) :
    (st.setFlag f b).group = st.group := by
  unfold Strand.setFlag; split <;> rfl

@[simp] theorem Strand.setFlag_gpend (st : Strand) (f : Nat) (b : Bool) :
    (st.setFlag f b).gpend = st.gpend := by
  unfold Strand.setFlag; split <;> rfl

@[simp] theorem Strand.setFlag_v (st : Strand) (f : Nat) (b : Bool) :
    (st.setFlag f b).v = st.v := by
  unfold Strand.setFlag; split <;> rfl

@[simp] theorem Strand.setFlag_vpend (st : Strand) (f : Nat) (b : Bool) :
    (st.setFlag f b).vpend = st.vpend := by
  unfold Strand.setFlag; split <;> rfl

@[simp] theorem Strand.setFlag_p (st : Strand) (f : Nat) (b : Bool) :
    (st.setFlag f b).p = st.p := by
  unfold Strand.setFlag; split <;> rfl

@[simp] theorem Strand.setFlag_exited (st : Strand) (f : Nat) (b : Bool) :
    (st.setFlag f b).exited = st.exited := by
  unfold Strand.setFlag; split <;> rfl

@[simp] theorem Strand.setFlag_departed (st : Strand) (f : Nat) (b : Bool) :
    (st.setFlag f b).departed = st.departed := by
  unfold Strand.setFlag; split <;> rfl

@[simp] theorem Strand.setFlag_kept (st : Strand) (f : Nat) (b : Bool) :
    (st.setFlag f b).kept = st.kept := by
  unfold Strand.setFlag; split <;> rfl

@[simp] theorem Strand.setFlag_names (st : Strand) (f : Nat) (b : Bool) :
    (st.setFlag f b).names = st.names := by
  unfold Strand.setFlag; split <;> rfl

@[simp] theorem Strand.setFlag_issued (st : Strand) (f : Nat) (b : Bool) :
    (st.setFlag f b).issued = st.issued := by
  unfold Strand.setFlag; split <;> rfl

@[simp] theorem Strand.setFlag_stalled (st : Strand) (f : Nat) (b : Bool) :
    (st.setFlag f b).stalled = st.stalled := by
  unfold Strand.setFlag; split <;> rfl

@[simp] theorem Strand.setFlag_mode (st : Strand) (f : Nat) (b : Bool) :
    (st.setFlag f b).mode = st.mode := by
  unfold Strand.setFlag; split <;> rfl

@[simp] theorem Strand.setFlag_prevMode (st : Strand) (f : Nat) (b : Bool) :
    (st.setFlag f b).prevMode = st.prevMode := by
  unfold Strand.setFlag; split <;> rfl

@[simp] theorem Strand.setFlag_depth (st : Strand) (f : Nat) (b : Bool) :
    (st.setFlag f b).depth = st.depth := by
  unfold Strand.setFlag; split <;> rfl

@[simp] theorem Strand.setFlag_frames (st : Strand) (f : Nat) (b : Bool) :
    (st.setFlag f b).frames = st.frames := by
  unfold Strand.setFlag; split <;> rfl

@[simp] theorem Strand.setFlag_trapCause (st : Strand) (f : Nat) (b : Bool) :
    (st.setFlag f b).trapCause = st.trapCause := by
  unfold Strand.setFlag; split <;> rfl

@[simp] theorem Strand.setFlag_trapMask (st : Strand) (f : Nat) (b : Bool) :
    (st.setFlag f b).trapMask = st.trapMask := by
  unfold Strand.setFlag; split <;> rfl

@[simp] theorem Strand.setFlag_domain (st : Strand) (f : Nat) (b : Bool) :
    (st.setFlag f b).domain = st.domain := by
  unfold Strand.setFlag; split <;> rfl

@[simp] theorem Strand.setFlag_keyid (st : Strand) (f : Nat) (b : Bool) :
    (st.setFlag f b).keyid = st.keyid := by
  unfold Strand.setFlag; split <;> rfl

@[simp] theorem Strand.setFlag_preempt (st : Strand) (f : Nat) (b : Bool) :
    (st.setFlag f b).preempt = st.preempt := by
  unfold Strand.setFlag; split <;> rfl

@[simp] theorem Strand.setFlag_region (st : Strand) (f : Nat) (b : Bool) :
    (st.setFlag f b).region = st.region := by
  unfold Strand.setFlag; split <;> rfl

@[simp] theorem Strand.setFlag_inquiry (st : Strand) (f : Nat) (b : Bool) :
    (st.setFlag f b).inquiry = st.inquiry := by
  unfold Strand.setFlag; split <;> rfl

@[simp] theorem Strand.setFlag_wait (st : Strand) (f : Nat) (b : Bool) :
    (st.setFlag f b).wait = st.wait := by
  unfold Strand.setFlag; split <;> rfl

@[simp] theorem Strand.goto_launch (st : Strand) (pc : DWord) :
    (st.goto pc).launch = st.launch := rfl

@[simp] theorem Strand.goto_block (st : Strand) (pc : DWord) :
    (st.goto pc).block = st.block := rfl

@[simp] theorem Strand.goto_sindex (st : Strand) (pc : DWord) :
    (st.goto pc).sindex = st.sindex := rfl

@[simp] theorem Strand.goto_baseId (st : Strand) (pc : DWord) :
    (st.goto pc).baseId = st.baseId := rfl

@[simp] theorem Strand.goto_lineage (st : Strand) (pc : DWord) :
    (st.goto pc).lineage = st.lineage := rfl

@[simp] theorem Strand.goto_member (st : Strand) (pc : DWord) :
    (st.goto pc).member = st.member := rfl

@[simp] theorem Strand.goto_width (st : Strand) (pc : DWord) :
    (st.goto pc).width = st.width := rfl

@[simp] theorem Strand.goto_nregs (st : Strand) (pc : DWord) :
    (st.goto pc).nregs = st.nregs := rfl

@[simp] theorem Strand.goto_prio (st : Strand) (pc : DWord) :
    (st.goto pc).prio = st.prio := rfl

@[simp] theorem Strand.goto_codeBase (st : Strand) (pc : DWord) :
    (st.goto pc).codeBase = st.codeBase := rfl

@[simp] theorem Strand.goto_age (st : Strand) (pc : DWord) :
    (st.goto pc).age = st.age := rfl

@[simp] theorem Strand.goto_passed (st : Strand) (pc : DWord) :
    (st.goto pc).passed = st.passed := rfl

@[simp] theorem Strand.goto_urgent (st : Strand) (pc : DWord) :
    (st.goto pc).urgent = st.urgent := rfl

@[simp] theorem Strand.goto_group (st : Strand) (pc : DWord) :
    (st.goto pc).group = st.group := rfl

@[simp] theorem Strand.goto_gpend (st : Strand) (pc : DWord) :
    (st.goto pc).gpend = st.gpend := rfl

@[simp] theorem Strand.goto_v (st : Strand) (pc : DWord) :
    (st.goto pc).v = st.v := rfl

@[simp] theorem Strand.goto_vpend (st : Strand) (pc : DWord) :
    (st.goto pc).vpend = st.vpend := rfl

@[simp] theorem Strand.goto_p (st : Strand) (pc : DWord) :
    (st.goto pc).p = st.p := rfl

@[simp] theorem Strand.goto_flags (st : Strand) (pc : DWord) :
    (st.goto pc).flags = st.flags := rfl

@[simp] theorem Strand.goto_exited (st : Strand) (pc : DWord) :
    (st.goto pc).exited = st.exited := rfl

@[simp] theorem Strand.goto_departed (st : Strand) (pc : DWord) :
    (st.goto pc).departed = st.departed := rfl

@[simp] theorem Strand.goto_kept (st : Strand) (pc : DWord) :
    (st.goto pc).kept = st.kept := rfl

@[simp] theorem Strand.goto_names (st : Strand) (pc : DWord) :
    (st.goto pc).names = st.names := rfl

@[simp] theorem Strand.goto_issued (st : Strand) (pc : DWord) :
    (st.goto pc).issued = st.issued := rfl

@[simp] theorem Strand.goto_stalled (st : Strand) (pc : DWord) :
    (st.goto pc).stalled = st.stalled := rfl

@[simp] theorem Strand.goto_mode (st : Strand) (pc : DWord) :
    (st.goto pc).mode = st.mode := rfl

@[simp] theorem Strand.goto_prevMode (st : Strand) (pc : DWord) :
    (st.goto pc).prevMode = st.prevMode := rfl

@[simp] theorem Strand.goto_depth (st : Strand) (pc : DWord) :
    (st.goto pc).depth = st.depth := rfl

@[simp] theorem Strand.goto_frames (st : Strand) (pc : DWord) :
    (st.goto pc).frames = st.frames := rfl

@[simp] theorem Strand.goto_trapCause (st : Strand) (pc : DWord) :
    (st.goto pc).trapCause = st.trapCause := rfl

@[simp] theorem Strand.goto_trapMask (st : Strand) (pc : DWord) :
    (st.goto pc).trapMask = st.trapMask := rfl

@[simp] theorem Strand.goto_domain (st : Strand) (pc : DWord) :
    (st.goto pc).domain = st.domain := rfl

@[simp] theorem Strand.goto_keyid (st : Strand) (pc : DWord) :
    (st.goto pc).keyid = st.keyid := rfl

@[simp] theorem Strand.goto_preempt (st : Strand) (pc : DWord) :
    (st.goto pc).preempt = st.preempt := rfl

@[simp] theorem Strand.goto_region (st : Strand) (pc : DWord) :
    (st.goto pc).region = st.region := rfl

@[simp] theorem Strand.goto_inquiry (st : Strand) (pc : DWord) :
    (st.goto pc).inquiry = st.inquiry := rfl

@[simp] theorem Strand.goto_wait (st : Strand) (pc : DWord) :
    (st.goto pc).wait = st.wait := rfl

@[simp] theorem Strand.fallThrough_launch (st : Strand) :
    (st.fallThrough).launch = st.launch := by
  unfold Strand.fallThrough; split <;> rfl

@[simp] theorem Strand.fallThrough_block (st : Strand) :
    (st.fallThrough).block = st.block := by
  unfold Strand.fallThrough; split <;> rfl

@[simp] theorem Strand.fallThrough_sindex (st : Strand) :
    (st.fallThrough).sindex = st.sindex := by
  unfold Strand.fallThrough; split <;> rfl

@[simp] theorem Strand.fallThrough_baseId (st : Strand) :
    (st.fallThrough).baseId = st.baseId := by
  unfold Strand.fallThrough; split <;> rfl

@[simp] theorem Strand.fallThrough_lineage (st : Strand) :
    (st.fallThrough).lineage = st.lineage := by
  unfold Strand.fallThrough; split <;> rfl

@[simp] theorem Strand.fallThrough_member (st : Strand) :
    (st.fallThrough).member = st.member := by
  unfold Strand.fallThrough; split <;> rfl

@[simp] theorem Strand.fallThrough_width (st : Strand) :
    (st.fallThrough).width = st.width := by
  unfold Strand.fallThrough; split <;> rfl

@[simp] theorem Strand.fallThrough_nregs (st : Strand) :
    (st.fallThrough).nregs = st.nregs := by
  unfold Strand.fallThrough; split <;> rfl

@[simp] theorem Strand.fallThrough_prio (st : Strand) :
    (st.fallThrough).prio = st.prio := by
  unfold Strand.fallThrough; split <;> rfl

@[simp] theorem Strand.fallThrough_codeBase (st : Strand) :
    (st.fallThrough).codeBase = st.codeBase := by
  unfold Strand.fallThrough; split <;> rfl

@[simp] theorem Strand.fallThrough_age (st : Strand) :
    (st.fallThrough).age = st.age := by
  unfold Strand.fallThrough; split <;> rfl

@[simp] theorem Strand.fallThrough_passed (st : Strand) :
    (st.fallThrough).passed = st.passed := by
  unfold Strand.fallThrough; split <;> rfl

@[simp] theorem Strand.fallThrough_urgent (st : Strand) :
    (st.fallThrough).urgent = st.urgent := by
  unfold Strand.fallThrough; split <;> rfl

@[simp] theorem Strand.fallThrough_gpend (st : Strand) :
    (st.fallThrough).gpend = st.gpend := by
  unfold Strand.fallThrough; split <;> rfl

@[simp] theorem Strand.fallThrough_v (st : Strand) :
    (st.fallThrough).v = st.v := by
  unfold Strand.fallThrough; split <;> rfl

@[simp] theorem Strand.fallThrough_vpend (st : Strand) :
    (st.fallThrough).vpend = st.vpend := by
  unfold Strand.fallThrough; split <;> rfl

@[simp] theorem Strand.fallThrough_p (st : Strand) :
    (st.fallThrough).p = st.p := by
  unfold Strand.fallThrough; split <;> rfl

@[simp] theorem Strand.fallThrough_flags (st : Strand) :
    (st.fallThrough).flags = st.flags := by
  unfold Strand.fallThrough; split <;> rfl

@[simp] theorem Strand.fallThrough_exited (st : Strand) :
    (st.fallThrough).exited = st.exited := by
  unfold Strand.fallThrough; split <;> rfl

@[simp] theorem Strand.fallThrough_departed (st : Strand) :
    (st.fallThrough).departed = st.departed := by
  unfold Strand.fallThrough; split <;> rfl

@[simp] theorem Strand.fallThrough_kept (st : Strand) :
    (st.fallThrough).kept = st.kept := by
  unfold Strand.fallThrough; split <;> rfl

@[simp] theorem Strand.fallThrough_names (st : Strand) :
    (st.fallThrough).names = st.names := by
  unfold Strand.fallThrough; split <;> rfl

@[simp] theorem Strand.fallThrough_issued (st : Strand) :
    (st.fallThrough).issued = st.issued := by
  unfold Strand.fallThrough; split <;> rfl

@[simp] theorem Strand.fallThrough_stalled (st : Strand) :
    (st.fallThrough).stalled = st.stalled := by
  unfold Strand.fallThrough; split <;> rfl

@[simp] theorem Strand.fallThrough_mode (st : Strand) :
    (st.fallThrough).mode = st.mode := by
  unfold Strand.fallThrough; split <;> rfl

@[simp] theorem Strand.fallThrough_prevMode (st : Strand) :
    (st.fallThrough).prevMode = st.prevMode := by
  unfold Strand.fallThrough; split <;> rfl

@[simp] theorem Strand.fallThrough_depth (st : Strand) :
    (st.fallThrough).depth = st.depth := by
  unfold Strand.fallThrough; split <;> rfl

@[simp] theorem Strand.fallThrough_frames (st : Strand) :
    (st.fallThrough).frames = st.frames := by
  unfold Strand.fallThrough; split <;> rfl

@[simp] theorem Strand.fallThrough_trapCause (st : Strand) :
    (st.fallThrough).trapCause = st.trapCause := by
  unfold Strand.fallThrough; split <;> rfl

@[simp] theorem Strand.fallThrough_trapMask (st : Strand) :
    (st.fallThrough).trapMask = st.trapMask := by
  unfold Strand.fallThrough; split <;> rfl

@[simp] theorem Strand.fallThrough_domain (st : Strand) :
    (st.fallThrough).domain = st.domain := by
  unfold Strand.fallThrough; split <;> rfl

@[simp] theorem Strand.fallThrough_keyid (st : Strand) :
    (st.fallThrough).keyid = st.keyid := by
  unfold Strand.fallThrough; split <;> rfl

@[simp] theorem Strand.fallThrough_preempt (st : Strand) :
    (st.fallThrough).preempt = st.preempt := by
  unfold Strand.fallThrough; split <;> rfl

@[simp] theorem Strand.fallThrough_region (st : Strand) :
    (st.fallThrough).region = st.region := by
  unfold Strand.fallThrough; split <;> rfl

@[simp] theorem Strand.fallThrough_inquiry (st : Strand) :
    (st.fallThrough).inquiry = st.inquiry := by
  unfold Strand.fallThrough; split <;> rfl

@[simp] theorem Strand.fallThrough_wait (st : Strand) :
    (st.fallThrough).wait = st.wait := by
  unfold Strand.fallThrough; split <;> rfl

/-! ### A strand at its turn, and the clocks stopped -/

@[simp] theorem Strand.atTurn_launch (st : Strand) : st.atTurn.launch = st.launch := rfl

@[simp] theorem Strand.atTurn_block (st : Strand) : st.atTurn.block = st.block := rfl

@[simp] theorem Strand.atTurn_sindex (st : Strand) : st.atTurn.sindex = st.sindex := rfl

@[simp] theorem Strand.atTurn_baseId (st : Strand) : st.atTurn.baseId = st.baseId := rfl

@[simp] theorem Strand.atTurn_lineage (st : Strand) : st.atTurn.lineage = st.lineage := rfl

@[simp] theorem Strand.atTurn_member (st : Strand) : st.atTurn.member = st.member := rfl

@[simp] theorem Strand.atTurn_width (st : Strand) : st.atTurn.width = st.width := rfl

@[simp] theorem Strand.atTurn_nregs (st : Strand) : st.atTurn.nregs = st.nregs := rfl

@[simp] theorem Strand.atTurn_prio (st : Strand) : st.atTurn.prio = st.prio := rfl

@[simp] theorem Strand.atTurn_codeBase (st : Strand) : st.atTurn.codeBase = st.codeBase := rfl

@[simp] theorem Strand.atTurn_age (st : Strand) : st.atTurn.age = st.age := rfl

@[simp] theorem Strand.atTurn_passed (st : Strand) : st.atTurn.passed = 0 := rfl

@[simp] theorem Strand.atTurn_urgent (st : Strand) : st.atTurn.urgent = false := rfl

@[simp] theorem Strand.atTurn_pc (st : Strand) : st.atTurn.pc = st.pc := rfl

@[simp] theorem Strand.atTurn_pcIdx (st : Strand) : st.atTurn.pcIdx = st.pcIdx := rfl

@[simp] theorem Strand.atTurn_clause (st : Strand) : st.atTurn.clause = st.clause := rfl

@[simp] theorem Strand.atTurn_group (st : Strand) : st.atTurn.group = st.group := rfl

@[simp] theorem Strand.atTurn_gpend (st : Strand) : st.atTurn.gpend = st.gpend := rfl

@[simp] theorem Strand.atTurn_v (st : Strand) : st.atTurn.v = st.v := rfl

@[simp] theorem Strand.atTurn_vpend (st : Strand) : st.atTurn.vpend = st.vpend := rfl

@[simp] theorem Strand.atTurn_p (st : Strand) : st.atTurn.p = st.p := rfl

@[simp] theorem Strand.atTurn_flags (st : Strand) : st.atTurn.flags = st.flags := rfl

@[simp] theorem Strand.atTurn_exited (st : Strand) : st.atTurn.exited = st.exited := rfl

@[simp] theorem Strand.atTurn_departed (st : Strand) : st.atTurn.departed = st.departed := rfl

@[simp] theorem Strand.atTurn_kept (st : Strand) : st.atTurn.kept = st.kept := rfl

@[simp] theorem Strand.atTurn_names (st : Strand) : st.atTurn.names = st.names := rfl

@[simp] theorem Strand.atTurn_issued (st : Strand) : st.atTurn.issued = st.issued := rfl

@[simp] theorem Strand.atTurn_stalled (st : Strand) : st.atTurn.stalled = st.stalled := rfl

@[simp] theorem Strand.atTurn_mode (st : Strand) : st.atTurn.mode = st.mode := rfl

@[simp] theorem Strand.atTurn_prevMode (st : Strand) : st.atTurn.prevMode = st.prevMode := rfl

@[simp] theorem Strand.atTurn_depth (st : Strand) : st.atTurn.depth = st.depth := rfl

@[simp] theorem Strand.atTurn_frames (st : Strand) : st.atTurn.frames = st.frames := rfl

@[simp] theorem Strand.atTurn_trapCause (st : Strand) : st.atTurn.trapCause = st.trapCause := rfl

@[simp] theorem Strand.atTurn_trapMask (st : Strand) : st.atTurn.trapMask = st.trapMask := rfl

@[simp] theorem Strand.atTurn_domain (st : Strand) : st.atTurn.domain = st.domain := rfl

@[simp] theorem Strand.atTurn_keyid (st : Strand) : st.atTurn.keyid = st.keyid := rfl

@[simp] theorem Strand.atTurn_preempt (st : Strand) : st.atTurn.preempt = st.preempt := rfl

@[simp] theorem Strand.atTurn_region (st : Strand) : st.atTurn.region = st.region := rfl

@[simp] theorem Strand.atTurn_inquiry (st : Strand) : st.atTurn.inquiry = st.inquiry := rfl

@[simp] theorem Strand.atTurn_wait (st : Strand) : st.atTurn.wait = st.wait := rfl

@[simp] theorem State.stopClocks_cur (s : State) : s.stopClocks.cur = s.cur := by
  unfold State.stopClocks; split <;> rfl

@[simp] theorem State.stopClocks_agenda (s : State) : s.stopClocks.agenda = s.agenda := by
  unfold State.stopClocks; split <;> rfl

@[simp] theorem State.stopClocks_fresh (s : State) : s.stopClocks.fresh = s.fresh := by
  unfold State.stopClocks; split <;> rfl

@[simp] theorem State.stopClocks_slate (s : State) : s.stopClocks.slate = s.slate := by
  unfold State.stopClocks; split <;> rfl

@[simp] theorem State.stopClocks_round (s : State) : s.stopClocks.round = s.round := by
  unfold State.stopClocks; split <;> rfl

@[simp] theorem State.stopClocks_timePs (s : State) : s.stopClocks.timePs = s.timePs := by
  unfold State.stopClocks; split <;> rfl

@[simp] theorem State.stopClocks_cycles (s : State) : s.stopClocks.cycles = s.cycles := by
  unfold State.stopClocks; split <;> rfl

@[simp] theorem State.stopClocks_coreMHz (s : State) : s.stopClocks.coreMHz = s.coreMHz := by
  unfold State.stopClocks; split <;> rfl

@[simp] theorem State.stopClocks_slow (s : State) : s.stopClocks.slow = s.slow := by
  unfold State.stopClocks; split <;> rfl

@[simp] theorem State.stopClocks_cores (s : State) : s.stopClocks.cores = s.cores := by
  unfold State.stopClocks; split <;> rfl

@[simp] theorem State.stopClocks_mem (s : State) : s.stopClocks.mem = s.mem := by
  unfold State.stopClocks; split <;> rfl

@[simp] theorem State.stopClocks_tables (s : State) : s.stopClocks.tables = s.tables := by
  unfold State.stopClocks; split <;> rfl

@[simp] theorem State.stopClocks_tableGens (s : State) : s.stopClocks.tableGens = s.tableGens := by
  unfold State.stopClocks; split <;> rfl

@[simp] theorem State.stopClocks_oldStores (s : State) : s.stopClocks.oldStores = s.oldStores := by
  unfold State.stopClocks; split <;> rfl

@[simp] theorem State.stopClocks_launches (s : State) : s.stopClocks.launches = s.launches := by
  unfold State.stopClocks; split <;> rfl

@[simp] theorem State.stopClocks_nextLaunch (s : State) : s.stopClocks.nextLaunch = s.nextLaunch := by
  unfold State.stopClocks; split <;> rfl

@[simp] theorem State.stopClocks_pointer (s : State) : s.stopClocks.pointer = s.pointer := by
  unfold State.stopClocks; split <;> rfl

@[simp] theorem State.stopClocks_blocks (s : State) : s.stopClocks.blocks = s.blocks := by
  unfold State.stopClocks; split <;> rfl

@[simp] theorem State.stopClocks_nextAge (s : State) : s.stopClocks.nextAge = s.nextAge := by
  unfold State.stopClocks; split <;> rfl

@[simp] theorem State.stopClocks_stackCtl (s : State) : s.stopClocks.stackCtl = s.stackCtl := by
  unfold State.stopClocks; split <;> rfl

@[simp] theorem State.stopClocks_banks (s : State) : s.stopClocks.banks = s.banks := by
  unfold State.stopClocks; split <;> rfl

@[simp] theorem State.stopClocks_blockBase (s : State) : s.stopClocks.blockBase = s.blockBase := by
  unfold State.stopClocks; split <;> rfl

@[simp] theorem State.stopClocks_faultQ (s : State) : s.stopClocks.faultQ = s.faultQ := by
  unfold State.stopClocks; split <;> rfl

@[simp] theorem State.stopClocks_overflows (s : State) : s.stopClocks.overflows = s.overflows := by
  unfold State.stopClocks; split <;> rfl

@[simp] theorem State.stopClocks_keyEpoch (s : State) : s.stopClocks.keyEpoch = s.keyEpoch := by
  unfold State.stopClocks; split <;> rfl

@[simp] theorem State.stopClocks_domains (s : State) : s.stopClocks.domains = s.domains := by
  unfold State.stopClocks; split <;> rfl

@[simp] theorem State.stopClocks_transit (s : State) : s.stopClocks.transit = s.transit := by
  unfold State.stopClocks; split <;> rfl

@[simp] theorem State.stopClocks_acks (s : State) : s.stopClocks.acks = s.acks := by
  unfold State.stopClocks; split <;> rfl

@[simp] theorem State.stopClocks_boot (s : State) : s.stopClocks.boot = s.boot := by
  unfold State.stopClocks; split <;> rfl

@[simp] theorem State.stopClocks_links (s : State) : s.stopClocks.links = s.links := by
  unfold State.stopClocks; split <;> rfl

@[simp] theorem State.stopClocks_mgmt (s : State) : s.stopClocks.mgmt = s.mgmt := by
  unfold State.stopClocks; split <;> rfl

theorem Strand.keep_retire {β : Type} (p : Strand → β) (hg : ∀ x pc, p (Strand.goto x pc) = p x)
    (hk : ∀ (x : Strand) k, p { x with clause := k } = p x)
    (hf : ∀ x : Strand, p x.fallThrough = p x) (st : Strand) (f : Flow)
    (hi : ∀ n m, p { st with issued := n, stalled := m, passed := 0, urgent := false } = p st) :
    p (st.retire f) = p st := by
  rw [← hi (st.issued + 1) 0]
  unfold Strand.retire
  dsimp only
  cases f with
  | jump pc => exact hg _ _
  | stay => rfl
  | seq =>
    cases hc : st.clause with
    | none => rfl
    | some k =>
      dsimp only
      by_cases h : k.idx + 1 < k.words.length
      · rw [if_pos h]
        exact hk { st with clause := some k, issued := st.issued + 1, stalled := 0, passed := 0, urgent := false } _
      · rw [if_neg h]
        exact hf _

@[simp] theorem Strand.retire_launch (st : Strand) (f : Flow) :
    (st.retire f).launch = st.launch := 
    Strand.keep_retire Strand.launch (fun _ _ => rfl) (fun _ _ => rfl)
      Strand.fallThrough_launch st f (fun _ _ => rfl)

@[simp] theorem Strand.retire_block (st : Strand) (f : Flow) :
    (st.retire f).block = st.block := 
    Strand.keep_retire Strand.block (fun _ _ => rfl) (fun _ _ => rfl)
      Strand.fallThrough_block st f (fun _ _ => rfl)

@[simp] theorem Strand.retire_sindex (st : Strand) (f : Flow) :
    (st.retire f).sindex = st.sindex := 
    Strand.keep_retire Strand.sindex (fun _ _ => rfl) (fun _ _ => rfl)
      Strand.fallThrough_sindex st f (fun _ _ => rfl)

@[simp] theorem Strand.retire_baseId (st : Strand) (f : Flow) :
    (st.retire f).baseId = st.baseId := 
    Strand.keep_retire Strand.baseId (fun _ _ => rfl) (fun _ _ => rfl)
      Strand.fallThrough_baseId st f (fun _ _ => rfl)

@[simp] theorem Strand.retire_lineage (st : Strand) (f : Flow) :
    (st.retire f).lineage = st.lineage := 
    Strand.keep_retire Strand.lineage (fun _ _ => rfl) (fun _ _ => rfl)
      Strand.fallThrough_lineage st f (fun _ _ => rfl)

@[simp] theorem Strand.retire_member (st : Strand) (f : Flow) :
    (st.retire f).member = st.member := 
    Strand.keep_retire Strand.member (fun _ _ => rfl) (fun _ _ => rfl)
      Strand.fallThrough_member st f (fun _ _ => rfl)

@[simp] theorem Strand.retire_width (st : Strand) (f : Flow) :
    (st.retire f).width = st.width := 
    Strand.keep_retire Strand.width (fun _ _ => rfl) (fun _ _ => rfl)
      Strand.fallThrough_width st f (fun _ _ => rfl)

@[simp] theorem Strand.retire_nregs (st : Strand) (f : Flow) :
    (st.retire f).nregs = st.nregs := 
    Strand.keep_retire Strand.nregs (fun _ _ => rfl) (fun _ _ => rfl)
      Strand.fallThrough_nregs st f (fun _ _ => rfl)

@[simp] theorem Strand.retire_prio (st : Strand) (f : Flow) :
    (st.retire f).prio = st.prio := 
    Strand.keep_retire Strand.prio (fun _ _ => rfl) (fun _ _ => rfl)
      Strand.fallThrough_prio st f (fun _ _ => rfl)

@[simp] theorem Strand.retire_codeBase (st : Strand) (f : Flow) :
    (st.retire f).codeBase = st.codeBase := 
    Strand.keep_retire Strand.codeBase (fun _ _ => rfl) (fun _ _ => rfl)
      Strand.fallThrough_codeBase st f (fun _ _ => rfl)

@[simp] theorem Strand.retire_age (st : Strand) (f : Flow) :
    (st.retire f).age = st.age := 
    Strand.keep_retire Strand.age (fun _ _ => rfl) (fun _ _ => rfl)
      Strand.fallThrough_age st f (fun _ _ => rfl)

@[simp] theorem Strand.retire_passed (st : Strand) (f : Flow) : (st.retire f).passed = 0 :=
  Strand.keep_retire Strand.passed (fun _ _ => rfl) (fun _ _ => rfl) Strand.fallThrough_passed st.atTurn f (fun _ _ => rfl)

@[simp] theorem Strand.retire_urgent (st : Strand) (f : Flow) : (st.retire f).urgent = false :=
  Strand.keep_retire Strand.urgent (fun _ _ => rfl) (fun _ _ => rfl) Strand.fallThrough_urgent st.atTurn f (fun _ _ => rfl)

@[simp] theorem Strand.retire_gpend (st : Strand) (f : Flow) :
    (st.retire f).gpend = st.gpend := 
    Strand.keep_retire Strand.gpend (fun _ _ => rfl) (fun _ _ => rfl)
      Strand.fallThrough_gpend st f (fun _ _ => rfl)

@[simp] theorem Strand.retire_v (st : Strand) (f : Flow) :
    (st.retire f).v = st.v := 
    Strand.keep_retire Strand.v (fun _ _ => rfl) (fun _ _ => rfl)
      Strand.fallThrough_v st f (fun _ _ => rfl)

@[simp] theorem Strand.retire_vpend (st : Strand) (f : Flow) :
    (st.retire f).vpend = st.vpend := 
    Strand.keep_retire Strand.vpend (fun _ _ => rfl) (fun _ _ => rfl)
      Strand.fallThrough_vpend st f (fun _ _ => rfl)

@[simp] theorem Strand.retire_p (st : Strand) (f : Flow) :
    (st.retire f).p = st.p := 
    Strand.keep_retire Strand.p (fun _ _ => rfl) (fun _ _ => rfl)
      Strand.fallThrough_p st f (fun _ _ => rfl)

@[simp] theorem Strand.retire_flags (st : Strand) (f : Flow) :
    (st.retire f).flags = st.flags := 
    Strand.keep_retire Strand.flags (fun _ _ => rfl) (fun _ _ => rfl)
      Strand.fallThrough_flags st f (fun _ _ => rfl)

@[simp] theorem Strand.retire_exited (st : Strand) (f : Flow) :
    (st.retire f).exited = st.exited := 
    Strand.keep_retire Strand.exited (fun _ _ => rfl) (fun _ _ => rfl)
      Strand.fallThrough_exited st f (fun _ _ => rfl)

@[simp] theorem Strand.retire_departed (st : Strand) (f : Flow) :
    (st.retire f).departed = st.departed := 
    Strand.keep_retire Strand.departed (fun _ _ => rfl) (fun _ _ => rfl)
      Strand.fallThrough_departed st f (fun _ _ => rfl)

@[simp] theorem Strand.retire_kept (st : Strand) (f : Flow) :
    (st.retire f).kept = st.kept := 
    Strand.keep_retire Strand.kept (fun _ _ => rfl) (fun _ _ => rfl)
      Strand.fallThrough_kept st f (fun _ _ => rfl)

@[simp] theorem Strand.retire_names (st : Strand) (f : Flow) :
    (st.retire f).names = st.names := 
    Strand.keep_retire Strand.names (fun _ _ => rfl) (fun _ _ => rfl)
      Strand.fallThrough_names st f (fun _ _ => rfl)

@[simp] theorem Strand.retire_mode (st : Strand) (f : Flow) :
    (st.retire f).mode = st.mode := 
    Strand.keep_retire Strand.mode (fun _ _ => rfl) (fun _ _ => rfl)
      Strand.fallThrough_mode st f (fun _ _ => rfl)

@[simp] theorem Strand.retire_prevMode (st : Strand) (f : Flow) :
    (st.retire f).prevMode = st.prevMode := 
    Strand.keep_retire Strand.prevMode (fun _ _ => rfl) (fun _ _ => rfl)
      Strand.fallThrough_prevMode st f (fun _ _ => rfl)

@[simp] theorem Strand.retire_depth (st : Strand) (f : Flow) :
    (st.retire f).depth = st.depth := 
    Strand.keep_retire Strand.depth (fun _ _ => rfl) (fun _ _ => rfl)
      Strand.fallThrough_depth st f (fun _ _ => rfl)

@[simp] theorem Strand.retire_frames (st : Strand) (f : Flow) :
    (st.retire f).frames = st.frames := 
    Strand.keep_retire Strand.frames (fun _ _ => rfl) (fun _ _ => rfl)
      Strand.fallThrough_frames st f (fun _ _ => rfl)

@[simp] theorem Strand.retire_trapCause (st : Strand) (f : Flow) :
    (st.retire f).trapCause = st.trapCause := 
    Strand.keep_retire Strand.trapCause (fun _ _ => rfl) (fun _ _ => rfl)
      Strand.fallThrough_trapCause st f (fun _ _ => rfl)

@[simp] theorem Strand.retire_trapMask (st : Strand) (f : Flow) :
    (st.retire f).trapMask = st.trapMask := 
    Strand.keep_retire Strand.trapMask (fun _ _ => rfl) (fun _ _ => rfl)
      Strand.fallThrough_trapMask st f (fun _ _ => rfl)

@[simp] theorem Strand.retire_domain (st : Strand) (f : Flow) :
    (st.retire f).domain = st.domain := 
    Strand.keep_retire Strand.domain (fun _ _ => rfl) (fun _ _ => rfl)
      Strand.fallThrough_domain st f (fun _ _ => rfl)

@[simp] theorem Strand.retire_keyid (st : Strand) (f : Flow) :
    (st.retire f).keyid = st.keyid := 
    Strand.keep_retire Strand.keyid (fun _ _ => rfl) (fun _ _ => rfl)
      Strand.fallThrough_keyid st f (fun _ _ => rfl)

@[simp] theorem Strand.retire_preempt (st : Strand) (f : Flow) :
    (st.retire f).preempt = st.preempt := 
    Strand.keep_retire Strand.preempt (fun _ _ => rfl) (fun _ _ => rfl)
      Strand.fallThrough_preempt st f (fun _ _ => rfl)

@[simp] theorem Strand.retire_region (st : Strand) (f : Flow) :
    (st.retire f).region = st.region := 
    Strand.keep_retire Strand.region (fun _ _ => rfl) (fun _ _ => rfl)
      Strand.fallThrough_region st f (fun _ _ => rfl)

@[simp] theorem Strand.retire_inquiry (st : Strand) (f : Flow) :
    (st.retire f).inquiry = st.inquiry := 
    Strand.keep_retire Strand.inquiry (fun _ _ => rfl) (fun _ _ => rfl)
      Strand.fallThrough_inquiry st f (fun _ _ => rfl)

@[simp] theorem Strand.retire_wait (st : Strand) (f : Flow) :
    (st.retire f).wait = st.wait := 
    Strand.keep_retire Strand.wait (fun _ _ => rfl) (fun _ _ => rfl)
      Strand.fallThrough_wait st f (fun _ _ => rfl)

@[simp] theorem Strand.freeMarked_launch (st : Strand) (u : Use) :
    (st.freeMarked u).launch = st.launch := by
  unfold Strand.freeMarked; split
  · exact foldl_keep Strand.launch Strand.freeV (fun _ _ => rfl) _ _
  · rfl

@[simp] theorem Strand.freeMarked_block (st : Strand) (u : Use) :
    (st.freeMarked u).block = st.block := by
  unfold Strand.freeMarked; split
  · exact foldl_keep Strand.block Strand.freeV (fun _ _ => rfl) _ _
  · rfl

@[simp] theorem Strand.freeMarked_sindex (st : Strand) (u : Use) :
    (st.freeMarked u).sindex = st.sindex := by
  unfold Strand.freeMarked; split
  · exact foldl_keep Strand.sindex Strand.freeV (fun _ _ => rfl) _ _
  · rfl

@[simp] theorem Strand.freeMarked_baseId (st : Strand) (u : Use) :
    (st.freeMarked u).baseId = st.baseId := by
  unfold Strand.freeMarked; split
  · exact foldl_keep Strand.baseId Strand.freeV (fun _ _ => rfl) _ _
  · rfl

@[simp] theorem Strand.freeMarked_lineage (st : Strand) (u : Use) :
    (st.freeMarked u).lineage = st.lineage := by
  unfold Strand.freeMarked; split
  · exact foldl_keep Strand.lineage Strand.freeV (fun _ _ => rfl) _ _
  · rfl

@[simp] theorem Strand.freeMarked_member (st : Strand) (u : Use) :
    (st.freeMarked u).member = st.member := by
  unfold Strand.freeMarked; split
  · exact foldl_keep Strand.member Strand.freeV (fun _ _ => rfl) _ _
  · rfl

@[simp] theorem Strand.freeMarked_width (st : Strand) (u : Use) :
    (st.freeMarked u).width = st.width := by
  unfold Strand.freeMarked; split
  · exact foldl_keep Strand.width Strand.freeV (fun _ _ => rfl) _ _
  · rfl

@[simp] theorem Strand.freeMarked_nregs (st : Strand) (u : Use) :
    (st.freeMarked u).nregs = st.nregs := by
  unfold Strand.freeMarked; split
  · exact foldl_keep Strand.nregs Strand.freeV (fun _ _ => rfl) _ _
  · rfl

@[simp] theorem Strand.freeMarked_prio (st : Strand) (u : Use) :
    (st.freeMarked u).prio = st.prio := by
  unfold Strand.freeMarked; split
  · exact foldl_keep Strand.prio Strand.freeV (fun _ _ => rfl) _ _
  · rfl

@[simp] theorem Strand.freeMarked_codeBase (st : Strand) (u : Use) :
    (st.freeMarked u).codeBase = st.codeBase := by
  unfold Strand.freeMarked; split
  · exact foldl_keep Strand.codeBase Strand.freeV (fun _ _ => rfl) _ _
  · rfl

@[simp] theorem Strand.freeMarked_age (st : Strand) (u : Use) :
    (st.freeMarked u).age = st.age := by
  unfold Strand.freeMarked; split
  · exact foldl_keep Strand.age Strand.freeV (fun _ _ => rfl) _ _
  · rfl

@[simp] theorem Strand.freeMarked_passed (st : Strand) (u : Use) :
    (st.freeMarked u).passed = st.passed := by
  unfold Strand.freeMarked; split
  · exact foldl_keep Strand.passed Strand.freeV (fun _ _ => rfl) _ _
  · rfl

@[simp] theorem Strand.freeMarked_urgent (st : Strand) (u : Use) :
    (st.freeMarked u).urgent = st.urgent := by
  unfold Strand.freeMarked; split
  · exact foldl_keep Strand.urgent Strand.freeV (fun _ _ => rfl) _ _
  · rfl

@[simp] theorem Strand.freeMarked_pc (st : Strand) (u : Use) :
    (st.freeMarked u).pc = st.pc := by
  unfold Strand.freeMarked; split
  · exact foldl_keep Strand.pc Strand.freeV (fun _ _ => rfl) _ _
  · rfl

@[simp] theorem Strand.freeMarked_pcIdx (st : Strand) (u : Use) :
    (st.freeMarked u).pcIdx = st.pcIdx := by
  unfold Strand.freeMarked; split
  · exact foldl_keep Strand.pcIdx Strand.freeV (fun _ _ => rfl) _ _
  · rfl

@[simp] theorem Strand.freeMarked_clause (st : Strand) (u : Use) :
    (st.freeMarked u).clause = st.clause := by
  unfold Strand.freeMarked; split
  · exact foldl_keep Strand.clause Strand.freeV (fun _ _ => rfl) _ _
  · rfl

@[simp] theorem Strand.freeMarked_group (st : Strand) (u : Use) :
    (st.freeMarked u).group = st.group := by
  unfold Strand.freeMarked; split
  · exact foldl_keep Strand.group Strand.freeV (fun _ _ => rfl) _ _
  · rfl

@[simp] theorem Strand.freeMarked_gpend (st : Strand) (u : Use) :
    (st.freeMarked u).gpend = st.gpend := by
  unfold Strand.freeMarked; split
  · exact foldl_keep Strand.gpend Strand.freeV (fun _ _ => rfl) _ _
  · rfl

@[simp] theorem Strand.freeMarked_vpend (st : Strand) (u : Use) :
    (st.freeMarked u).vpend = st.vpend := by
  unfold Strand.freeMarked; split
  · exact foldl_keep Strand.vpend Strand.freeV (fun _ _ => rfl) _ _
  · rfl

@[simp] theorem Strand.freeMarked_p (st : Strand) (u : Use) :
    (st.freeMarked u).p = st.p := by
  unfold Strand.freeMarked; split
  · exact foldl_keep Strand.p Strand.freeV (fun _ _ => rfl) _ _
  · rfl

@[simp] theorem Strand.freeMarked_flags (st : Strand) (u : Use) :
    (st.freeMarked u).flags = st.flags := by
  unfold Strand.freeMarked; split
  · exact foldl_keep Strand.flags Strand.freeV (fun _ _ => rfl) _ _
  · rfl

@[simp] theorem Strand.freeMarked_exited (st : Strand) (u : Use) :
    (st.freeMarked u).exited = st.exited := by
  unfold Strand.freeMarked; split
  · exact foldl_keep Strand.exited Strand.freeV (fun _ _ => rfl) _ _
  · rfl

@[simp] theorem Strand.freeMarked_departed (st : Strand) (u : Use) :
    (st.freeMarked u).departed = st.departed := by
  unfold Strand.freeMarked; split
  · exact foldl_keep Strand.departed Strand.freeV (fun _ _ => rfl) _ _
  · rfl

@[simp] theorem Strand.freeMarked_kept (st : Strand) (u : Use) :
    (st.freeMarked u).kept = st.kept := by
  unfold Strand.freeMarked; split
  · exact foldl_keep Strand.kept Strand.freeV (fun _ _ => rfl) _ _
  · rfl

@[simp] theorem Strand.freeMarked_names (st : Strand) (u : Use) :
    (st.freeMarked u).names = st.names := by
  unfold Strand.freeMarked; split
  · exact foldl_keep Strand.names Strand.freeV (fun _ _ => rfl) _ _
  · rfl

@[simp] theorem Strand.freeMarked_issued (st : Strand) (u : Use) :
    (st.freeMarked u).issued = st.issued := by
  unfold Strand.freeMarked; split
  · exact foldl_keep Strand.issued Strand.freeV (fun _ _ => rfl) _ _
  · rfl

@[simp] theorem Strand.freeMarked_stalled (st : Strand) (u : Use) :
    (st.freeMarked u).stalled = st.stalled := by
  unfold Strand.freeMarked; split
  · exact foldl_keep Strand.stalled Strand.freeV (fun _ _ => rfl) _ _
  · rfl

@[simp] theorem Strand.freeMarked_mode (st : Strand) (u : Use) :
    (st.freeMarked u).mode = st.mode := by
  unfold Strand.freeMarked; split
  · exact foldl_keep Strand.mode Strand.freeV (fun _ _ => rfl) _ _
  · rfl

@[simp] theorem Strand.freeMarked_prevMode (st : Strand) (u : Use) :
    (st.freeMarked u).prevMode = st.prevMode := by
  unfold Strand.freeMarked; split
  · exact foldl_keep Strand.prevMode Strand.freeV (fun _ _ => rfl) _ _
  · rfl

@[simp] theorem Strand.freeMarked_depth (st : Strand) (u : Use) :
    (st.freeMarked u).depth = st.depth := by
  unfold Strand.freeMarked; split
  · exact foldl_keep Strand.depth Strand.freeV (fun _ _ => rfl) _ _
  · rfl

@[simp] theorem Strand.freeMarked_frames (st : Strand) (u : Use) :
    (st.freeMarked u).frames = st.frames := by
  unfold Strand.freeMarked; split
  · exact foldl_keep Strand.frames Strand.freeV (fun _ _ => rfl) _ _
  · rfl

@[simp] theorem Strand.freeMarked_trapCause (st : Strand) (u : Use) :
    (st.freeMarked u).trapCause = st.trapCause := by
  unfold Strand.freeMarked; split
  · exact foldl_keep Strand.trapCause Strand.freeV (fun _ _ => rfl) _ _
  · rfl

@[simp] theorem Strand.freeMarked_trapMask (st : Strand) (u : Use) :
    (st.freeMarked u).trapMask = st.trapMask := by
  unfold Strand.freeMarked; split
  · exact foldl_keep Strand.trapMask Strand.freeV (fun _ _ => rfl) _ _
  · rfl

@[simp] theorem Strand.freeMarked_domain (st : Strand) (u : Use) :
    (st.freeMarked u).domain = st.domain := by
  unfold Strand.freeMarked; split
  · exact foldl_keep Strand.domain Strand.freeV (fun _ _ => rfl) _ _
  · rfl

@[simp] theorem Strand.freeMarked_keyid (st : Strand) (u : Use) :
    (st.freeMarked u).keyid = st.keyid := by
  unfold Strand.freeMarked; split
  · exact foldl_keep Strand.keyid Strand.freeV (fun _ _ => rfl) _ _
  · rfl

@[simp] theorem Strand.freeMarked_preempt (st : Strand) (u : Use) :
    (st.freeMarked u).preempt = st.preempt := by
  unfold Strand.freeMarked; split
  · exact foldl_keep Strand.preempt Strand.freeV (fun _ _ => rfl) _ _
  · rfl

@[simp] theorem Strand.freeMarked_region (st : Strand) (u : Use) :
    (st.freeMarked u).region = st.region := by
  unfold Strand.freeMarked; split
  · exact foldl_keep Strand.region Strand.freeV (fun _ _ => rfl) _ _
  · rfl

@[simp] theorem Strand.freeMarked_inquiry (st : Strand) (u : Use) :
    (st.freeMarked u).inquiry = st.inquiry := by
  unfold Strand.freeMarked; split
  · exact foldl_keep Strand.inquiry Strand.freeV (fun _ _ => rfl) _ _
  · rfl

@[simp] theorem Strand.freeMarked_wait (st : Strand) (u : Use) :
    (st.freeMarked u).wait = st.wait := by
  unfold Strand.freeMarked; split
  · exact foldl_keep Strand.wait Strand.freeV (fun _ _ => rfl) _ _
  · rfl

end Sys2Proof.Machine
end

