-- ==== Sys2Proof/Laws/Issue.lean ====
section
/-! SUPPORT. What `issue` does with a word: once for every outcome of its checks, and for the effects that touch the
strand alone. -/

namespace Sys2Proof.Machine

/-! ### Cores and strands read back -/

@[simp] theorem State.core_setCore (s : State) (c : Nat) (x : CoreSt) : (s.setCore c x).core c = x := by
  simp [State.core, State.setCore]

theorem State.core_setCore_other (s : State) {c d : Nat} (x : CoreSt) (h : c ≠ d) :
    (s.setCore c x).core d = s.core d := by
  simp [State.core, State.setCore, Assoc.get_set_other _ _ x h]

@[simp] theorem State.setCore_setCore (s : State) (c : Nat) (x y : CoreSt) :
    (s.setCore c x).setCore c y = s.setCore c y := by
  simp [State.setCore]

@[simp] theorem State.core_modCore (s : State) (c : Nat) (f : CoreSt → CoreSt) :
    (s.modCore c f).core c = f (s.core c) := by
  simp [State.modCore]

theorem State.core_modCore_other (s : State) {c d : Nat} (f : CoreSt → CoreSt) (h : c ≠ d) :
    (s.modCore c f).core d = s.core d := State.core_setCore_other s _ h

@[simp] theorem State.strand?_setStrand (s : State) (c sl : Nat) (st : Strand) :
    (s.setStrand c sl st).strand? c sl = some st := by
  simp [State.strand?, State.setStrand, Assoc.find_set_same]

theorem State.strand?_setStrand_other (s : State) {c sl d sm : Nat} (st : Strand) (h : ¬ (c = d ∧ sl = sm)) :
    (s.setStrand c sl st).strand? d sm = s.strand? d sm := by
  unfold State.strand? State.setStrand
  by_cases hc : c = d
  · subst hc
    have hs : sl ≠ sm := fun e => h ⟨rfl, e⟩
    simp [Assoc.find_set_other _ st hs]
  · rw [State.core_modCore_other s _ hc]

@[simp] theorem State.setStrand_setStrand (s : State) (c sl : Nat) (x y : Strand) :
    (s.setStrand c sl x).setStrand c sl y = s.setStrand c sl y := by
  simp [State.setStrand, State.modCore]

@[simp] theorem State.here?_setHere (s : State) (st : Strand) : (s.setHere st).here? = some st := by
  simp [State.here?, State.setHere]

@[simp] theorem State.setHere_setHere (s : State) (x y : Strand) : (s.setHere x).setHere y = s.setHere y := by
  simp [State.setHere]

theorem State.modHere_eq {s : State} {st : Strand} (h : s.here? = some st) (f : Strand → Strand) :
    s.modHere f = s.setHere (f st) := by
  have h' : s.strand? s.cur.1 s.cur.2 = some st := h
  simp [State.modHere, State.modStrand, h', State.setHere]

@[simp] theorem State.modHere_setHere (s : State) (st : Strand) (f : Strand → Strand) :
    (s.setHere st).modHere f = s.setHere (f st) := by
  rw [State.modHere_eq (State.here?_setHere s st), State.setHere_setHere]

@[simp] theorem State.retireWord_setHere (s : State) (st : Strand) (f : Flow) :
    (s.setHere st).retireWord f = s.setHere (st.retire f) := by
  simp [State.retireWord]

/-- Every component of the core of the strand that issues but its slots is as it was. -/
theorem State.core_setHere (s : State) (st : Strand) :
    (s.setHere st).core s.cur.1 = { s.core s.cur.1 with slots := Assoc.set (s.core s.cur.1).slots s.cur.2 st } := by
  simp [State.setHere, State.setStrand]

/-! ### Bindings -/

theorem State.deliverBound_unbound (s : State) (lineage : DWord) (gs : List Nat)
    (h : ∀ g ∈ gs, (s.core s.cur.1).boundTo lineage g = none) : s.deliverBound lineage gs = some s := by
  induction gs with
  | nil => rfl
  | cons g t ih =>
    have hg := h g (by simp)
    simp only [State.deliverBound, hg]
    exact ih fun x hx => h x (List.mem_cons_of_mem _ hx)

@[simp] theorem State.unbindDests_nil (s : State) (lineage : DWord) : s.unbindDests lineage [] = s := rfl

/-- A fold of changes to the core that issues keeps every part that they all keep. -/
theorem State.unbindDests_keep {β : Type} (p : State → β)
    (h : ∀ (s : State) c f, p (s.modCore c f) = p s) (s : State) (lineage : DWord) (gs : List Nat) :
    p (s.unbindDests lineage gs) = p s := foldl_keep p _ (fun _ _ => h _ _ _) gs s

@[simp] theorem State.unbindDests_cur (s : State) (lineage : DWord) (gs : List Nat) :
    (s.unbindDests lineage gs).cur = s.cur := State.unbindDests_keep State.cur (fun _ _ _ => rfl) s lineage gs

@[simp] theorem State.unbindDests_mem (s : State) (lineage : DWord) (gs : List Nat) :
    (s.unbindDests lineage gs).mem = s.mem := State.unbindDests_keep State.mem (fun _ _ _ => rfl) s lineage gs

/-- The end of a binding changes nothing of a core but its futures. -/
theorem CoreSt.unbind_keep {β : Type} (p : CoreSt → β) (h : ∀ (k : CoreSt) fs, p { k with futures := fs } = p k)
    (k : CoreSt) (l : DWord) (g : Nat) : p (k.unbind l g) = p k := by
  unfold CoreSt.unbind CoreSt.reap
  split
  · split
    · split
      · exact (h _ _).trans (h _ _)
      · exact h _ _
    · exact h _ _
  · rfl

theorem State.unbindDests_core {β : Type} (p : CoreSt → β) (h : ∀ (k : CoreSt) fs, p { k with futures := fs } = p k)
    (s : State) (l : DWord) (gs : List Nat) : p ((s.unbindDests l gs).core s.cur.1) = p (s.core s.cur.1) := by
  induction gs generalizing s with
  | nil => rfl
  | cons g gs ih =>
    have e : (s.unbindDests l (g :: gs)) = (s.modCore s.cur.1 fun k => k.unbind l g).unbindDests l gs := rfl
    rw [e]
    refine (ih (s.modCore s.cur.1 fun k => k.unbind l g)).trans ?_
    rw [show (s.modCore s.cur.1 fun k => k.unbind l g).cur = s.cur from rfl, State.core_modCore]
    exact CoreSt.unbind_keep p h _ _ _

theorem State.unbindDests_core_other (s : State) (l : DWord) (gs : List Nat) {c : Nat} (hc : c ≠ s.cur.1) :
    (s.unbindDests l gs).core c = s.core c := by
  induction gs generalizing s with
  | nil => rfl
  | cons g gs ih =>
    have e : (s.unbindDests l (g :: gs)) = (s.modCore s.cur.1 fun k => k.unbind l g).unbindDests l gs := rfl
    rw [e]
    exact (ih (s.modCore s.cur.1 fun k => k.unbind l g) hc).trans (State.core_modCore_other _ _ (Ne.symm hc))

/-- Before its effect a ready word has changed nothing of its core but the strand and bindings of futures. -/
theorem State.before_core {β : Type} (p : CoreSt → β) (h : ∀ (k : CoreSt) fs, p { k with futures := fs } = p k)
    (hs : ∀ (k : CoreSt) x, p { k with slots := x } = p k) (s : State) (u : Use) (f : Form) (st : Strand) :
    p ((s.before u f st).core s.cur.1) = p (s.core s.cur.1) := by
  have e : (s.before u f st).core s.cur.1 =
      { (s.unbindDests st.lineage (f.ended u)).core s.cur.1 with
        slots := Assoc.set ((s.unbindDests st.lineage (f.ended u)).core s.cur.1).slots s.cur.2 (st.ready u f) } := by
    have := State.core_setHere (s.unbindDests st.lineage (f.ended u)) (st.ready u f)
    rwa [State.unbindDests_cur] at this
  rw [e, hs, State.unbindDests_core p h]

theorem State.before_core_other (s : State) (u : Use) (f : Form) (st : Strand) {c : Nat} (hc : c ≠ s.cur.1) :
    (s.before u f st).core c = s.core c := by
  unfold State.before State.setHere State.setStrand
  rw [State.core_modCore_other _ _ (by rw [State.unbindDests_cur]; exact Ne.symm hc), State.unbindDests_core_other _ _ _ hc]

@[simp] theorem State.before_here (s : State) (u : Use) (f : Form) (st : Strand) :
    (s.before u f st).here? = some (st.ready u f) := by
  simp [State.before]

@[simp] theorem State.before_mem (s : State) (u : Use) (f : Form) (st : Strand) : (s.before u f st).mem = s.mem := by
  unfold State.before State.setHere State.setStrand
  exact State.unbindDests_mem s _ _

@[simp] theorem State.before_cur (s : State) (u : Use) (f : Form) (st : Strand) : (s.before u f st).cur = s.cur := by
  unfold State.before State.setHere State.setStrand
  exact State.unbindDests_cur s _ _

/-! ### The word at issue -/

theorem issue_noStrand {i : Instr} {u : Use} {f : Form} {ch : Strand → State → List (List LaneFault)} {eff : Effect}
    {idle : State → State} {s : State} (h : s.here? = none) : issue i u f ch eff idle s = .fault .noStrand := by
  simp [issue, h]

/-- A word that fails a check of R67 traps with that cause. -/
theorem issue_refused {i : Instr} {u : Use} {f : Form} {ch : Strand → State → List (List LaneFault)} {eff : Effect}
    {idle : State → State} {s : State} {st : Strand} {k : Cause} (h : s.here? = some st)
    (hk : checkWord st i u f.types = some k) :
    issue i u f ch eff idle s = .next (s.trapWord st (faultIn (f.lanes st) k)) := by
  simp [issue, h, hk]

/-- A word that needs an active lane and has none does what its form says, and is done (R122). -/
theorem issue_idle {i : Instr} {u : Use} {f : Form} {ch : Strand → State → List (List LaneFault)} {eff : Effect}
    {idle : State → State} {s : State} {st : Strand} (h : s.here? = some st) (hk : checkWord st i u f.types = none)
    (ha : f.always = false) (hn : st.active = 0#64) :
    issue i u f ch eff idle s = .next ((idle s).retireWord .seq) := by
  simp [issue, h, hk, ha, hn]

/-- A ready word whose own checks pass takes its effect, and the strand goes where that leads. -/
theorem issue_ready {i : Instr} {u : Use} {f : Form} {ch : Strand → State → List (List LaneFault)} {eff : Effect}
    {idle : State → State} {s : State} {st : Strand} (r : Ready i u f st s) (hf : firstFault (ch st s) = []) :
    issue i u f ch eff idle s =
      match eff st (s.before u f st) with
      | .error stall => .next (stall s)
      | .ok (s2, fl) => .next (s2.retireWord fl) := by
  obtain ⟨h, hk, ha, hb, hr, hi⟩ := r
  have ha' : (!f.always && st.active == 0#64) = false := by
    rcases ha with h1 | h1 <;> simp [h1]
  have hw : (if f.waits then s.deliverBound st.lineage u.gRead else some s) = some s := by
    split
    · exact State.deliverBound_unbound s _ _ (hb ‹_›)
    · rfl
  have hq : (if f.quiet then none else checkRegs st u) = none := by
    rcases hr with h1 | h1 <;> simp [h1]
  unfold issue
  simp only [h, hk, ha', hw, hq, hi, hf, State.before]
  rfl

/-- A ready word whose effect is on the strand alone. -/
theorem issue_ready_onStrand {i : Instr} {u : Use} {f : Form} {ch : Strand → State → List (List LaneFault)}
    {g : Strand → Strand → Strand} {idle : State → State} {s : State} {st : Strand} (r : Ready i u f st s)
    (hf : firstFault (ch st s) = []) (hl : f.late = false := by rfl) :
    issue i u f ch (onStrand g) idle s = .next (s.goesOn u st (g st (st.ready u f))) := by
  rw [issue_ready r hf]
  simp [onStrand, State.before, State.goesOn, Form.ended, hl]

/-- A ready word that fails a check of its own traps with that check's faults and takes no effect. -/
theorem issue_trap {i : Instr} {u : Use} {f : Form} {ch : Strand → State → List (List LaneFault)} {eff : Effect}
    {idle : State → State} {s : State} {st : Strand} (r : Ready i u f st s) (hf : firstFault (ch st s) ≠ []) :
    issue i u f ch eff idle s = .next (s.trapWord st (firstFault (ch st s))) := by
  obtain ⟨h, hk, ha, hb, hr, hi⟩ := r
  have ha' : (!f.always && st.active == 0#64) = false := by
    rcases ha with h1 | h1 <;> simp [h1]
  have hw : (if f.waits then s.deliverBound st.lineage u.gRead else some s) = some s := by
    split
    · exact State.deliverBound_unbound s _ _ (hb ‹_›)
    · rfl
  have hf' : (!(firstFault (ch st s)).isEmpty) = true := by
    cases hx : firstFault (ch st s) with
    | nil => exact absurd hx hf
    | cons => rfl
  have hq : (if f.quiet then none else checkRegs st u) = none := by
    rcases hr with h1 | h1 <;> simp [h1]
  unfold issue
  simp only [h, hk, ha', hw, hq, hi, hf']
  rfl

/-- A word whose room there is issues as any other. -/
theorem issueIn_room {ns : List Need} {i : Instr} {u : Use} {f : Form} {ch : Strand → State → List (List LaneFault)}
    {eff : Effect} {idle : State → State} {s : State} {st : Strand} (h : s.here? = some st)
    (hn : s.noRoom ns u f st = none) : issueIn ns i u f ch eff idle s = issue i u f ch eff idle s := by
  simp [issueIn, h, hn]

/-- A word without room is not ready, and raises nothing. -/
theorem issueIn_waits {ns : List Need} {i : Instr} {u : Use} {f : Form} {ch : Strand → State → List (List LaneFault)}
    {eff : Effect} {idle : State → State} {s : State} {st : Strand} {stall : State → State} (h : s.here? = some st)
    (hn : s.noRoom ns u f st = some stall) : issueIn ns i u f ch eff idle s = .next (stall s) := by
  simp [issueIn, h, hn]

/-- A word that acts in no lane takes no room. -/
theorem State.noRoom_idle (s : State) (ns : List Need) (u : Use) {f : Form} {st : Strand} (ha : f.always = false)
    (hn : st.active = 0#64) : s.noRoom ns u f st = none := by
  simp [State.noRoom, ha, hn]

/-- The room of a word that reads no bound register: what its core lacks once the bindings of its results have ended. -/
theorem State.noRoom_unbound {s : State} {u : Use} {f : Form} {st : Strand} (ns : List Need)
    (ha : f.always = true ∨ st.active ≠ 0#64) (hb : s.deliverBound st.lineage u.gRead = some s) :
    s.noRoom ns u f st = ns.findSome? ((s.unbindDests st.lineage u.gDest).lacks st) := by
  have ha' : (!f.always && st.active == 0#64) = false := by rcases ha with h1 | h1 <;> simp [h1]
  simp [State.noRoom, ha', hb]

@[simp] theorem firstFault_noChecks (st : Strand) (s : State) : firstFault (noChecks st s) = [] := rfl

/-! ### Classes of instructions -/

/-- The instructions that a mode below H may not run are among these; every other may run in U (R66). -/
theorem minMode_cases (i : Instr) : minMode i = 0 ∨ i = .sret ∨ i = .hret ∨ (∃ n, i = .hcall n) ∨ (∃ a n, i = .tinv a n) ∨
    (∃ d a, i = .ctxsv d a) ∨ (∃ d a, i = .ctxld d a) ∨ (∃ a, i = .kill a) ∨ (∃ d n, i = .mfpr d n) ∨
    (∃ d n, i = .mtpr d n) ∨ ∃ d n, i = .sreg d n := by
  cases i <;> first | exact .inl rfl | simp

/-- A word below its mode fails the first check (R67). -/
theorem checkWord_privileged {st : Strand} {i : Instr} (u : Use) (t : Bool) (h : st.mode.code < minMode i) :
    checkWord st i u t = some .privileged := by
  simp [checkWord, h]

/-- A word of the table-space or scratch group issues as an operation. -/
theorem exec_isReplayed {i : Instr} (h : isReplayed i = true) :
    (∀ s, exec i s = execOp i s) ∧ i ≠ .fence ∧ ∀ d a b, i ≠ .div d a b := by
  cases i <;> first | exact Bool.noConfusion h | exact ⟨fun _ => rfl, by simp, by simp⟩

/-! ### The strand as it is written -/

@[simp] theorem Strand.freeMarked_nil (st : Strand) (u : Use) (h : u.aRegs = []) : st.freeMarked u = st := by
  simp [Strand.freeMarked, h]

/-- A word without registers of field a that ends no region leaves the strand as it is. -/
theorem Strand.ready_plain (st : Strand) (u : Use) (f : Form) (h : u.aRegs = []) (he : f.ends = false) :
    st.ready u f = st := by
  simp [Strand.ready, Strand.freeMarked, h, he]

/-- The mode that the strand that issues has. -/
theorem State.modeWord_here {s : State} {st : Strand} (h : s.here? = some st) : s.modeWord = st.group.mode := by
  simp [State.modeWord, h]

end Sys2Proof.Machine
end

