-- ==== Sys2Proof/Laws/Memory.lean ====
section
/-! SUPPORT. Memory keeps its canonical form under every operation on it; reads after writes. -/

namespace Sys2Proof.Machine

/-! ### Operations on memory itself -/

theorem Mem.wf_reset : Mem.reset.wf = true := by decide

theorem Mem.wf_poke {m : Mem} (pa : Nat) (bs : List Byte) (h : m.wf = true) : (m.poke pa bs).wf = true :=
  Assoc.canonical_splice pa bs h

@[simp] theorem Mem.wf_setPoison (m : Mem) (n : Nat) (b : Bool) : (m.setPoison n b).wf = m.wf := rfl

@[simp] theorem Mem.wf_newCode (m : Mem) (n : Nat) : (m.newCode n).wf = m.wf := rfl

theorem Mem.wf_putSector {m : Mem} (n : Nat) (x : Sector) (h : m.wf = true) : (m.putSector n x).wf = true :=
  Mem.wf_poke (32 * n) x.bytes h

theorem Mem.wf_putSectors {m : Mem} (n : Nat) (xs : List Sector) (h : m.wf = true) : (m.putSectors n xs).wf = true := by
  induction xs generalizing m n with
  | nil => exact h
  | cons x xs ih => exact ih (n + 1) (Mem.wf_putSector n x h)

theorem Mem.wf_clearBank {m : Mem} (b : Nat) (h : m.wf = true) : (m.clearBank b).wf = true :=
  Assoc.canonical_filter _ h

/-! ### Reads after writes -/

theorem Mem.byte_poke (m : Mem) (pa : Nat) (bs : List Byte) (a : Nat) :
    (m.poke pa bs).byte a = if pa ≤ a ∧ a < pa + bs.length then bs.getD (a - pa) Config.unwritten else m.byte a :=
  Assoc.get_splice Config.unwritten m.cells pa bs a

theorem Mem.byte_poke_other (m : Mem) {pa : Nat} {bs : List Byte} {a : Nat} (h : a < pa ∨ pa + bs.length ≤ a) :
    (m.poke pa bs).byte a = m.byte a := by
  rw [Mem.byte_poke, if_neg (by omega)]

theorem Mem.bytes_poke_same (m : Mem) (pa : Nat) (bs : List Byte) : (m.poke pa bs).bytes pa bs.length = bs := by
  apply List.ext_getElem
  · simp [Mem.bytes, Assoc.read]
  · intro i h1 h2
    have hb := Mem.byte_poke m pa bs (pa + i)
    rw [if_pos (by omega)] at hb
    simp only [Mem.byte] at hb
    simp only [Mem.bytes, Assoc.read, List.getElem_map, List.getElem_range, hb]
    simp [List.getD, h2]

/-! ### Accesses -/

theorem State.mem_addStall (s : State) (x : Waiter) : (s.addStall x).mem = s.mem := by
  unfold State.addStall
  split <;> rfl

theorem State.mem_foldl_addStall (s : State) (xs : List Waiter) : (xs.foldl State.addStall s).mem = s.mem := by
  induction xs generalizing s with
  | nil => rfl
  | cons x xs ih => exact (ih _).trans (State.mem_addStall s x)

theorem State.wf_bankWoken {s : State} (b : Nat) (deep : Bool) (h : s.mem.wf = true) :
    (s.bankWoken b deep).mem.wf = true := by
  unfold State.bankWoken
  rw [State.mem_foldl_addStall]
  cases deep
  · exact h
  · exact Mem.wf_clearBank b h

@[simp] theorem State.mem_cacheSector (s : State) (pa : Nat) : (s.cacheSector pa).mem = s.mem := rfl

theorem State.wf_touch {s : State} (pa : Nat) (h : s.mem.wf = true) : (s.touch pa).mem.wf = true := by
  unfold State.touch
  split
  · exact h
  · dsimp only
    split
    · exact h
    · split
      · exact h
      · exact State.wf_bankWoken _ _ h
    · exact State.wf_bankWoken _ _ h
    · exact State.wf_bankWoken _ _ h

theorem State.wf_serve {s : State} (w : Who) (pa : Nat) (h : s.mem.wf = true) : (s.serve w pa).mem.wf = true := by
  unfold State.serve
  split
  · exact State.wf_touch pa ((congrArg Mem.wf (State.mem_addStall _ _)).trans h)
  · exact State.wf_touch pa h

theorem State.mem_freezeBy (s : State) (n : Nat) : (s.freezeBy n).mem = s.mem := by
  unfold State.freezeBy
  split
  · split <;> rfl
  · rfl

/-- After the clocks have stopped a later end of a cycle changes nothing: the status register keeps what it told. -/
theorem State.stopClocks_stopClocks (s : State) : s.stopClocks.stopClocks = s.stopClocks := by
  by_cases h : (s.freeze.frozen && s.freeze.sameCycle) = true
  · simp [State.stopClocks, h]
  · simp [State.stopClocks, h]

theorem State.mem_postFault (s : State) (e : FaultEntry) : (s.postFault e).mem = s.mem := by
  unfold State.postFault
  dsimp only
  split
  · split
    · exact State.mem_freezeBy _ 3
    · rfl
  · rfl

theorem State.mem_post (s : State) (w : Who) (pa cause : Nat) : (s.post w pa cause).mem = s.mem :=
  State.mem_postFault s _

theorem State.wf_consume {s : State} (w : Who) (n : Nat) (h : s.mem.wf = true) : (s.consume w n).1.mem.wf = true := by
  have ht := State.wf_serve w (32 * n) h
  unfold State.consume
  dsimp only
  split
  · rw [State.mem_post]; exact ht
  · split
    · rw [State.mem_post]; exact ht
    · split
      · rw [State.mem_post]; exact ht
      · exact ht

theorem State.wf_consumeAll (w : Who) (ns : List Nat) {s : State} (h : s.mem.wf = true) :
    (State.consumeAll w ns s).1.mem.wf = true := by
  induction ns generalizing s with
  | nil => exact h
  | cons n ns ih =>
    have hc := State.wf_consume w n h
    unfold State.consumeAll
    split <;> rename_i heq <;> rw [heq] at hc <;> exact ih hc

theorem State.wf_readPhys {s : State} (w : Who) (pa n : Nat) (h : s.mem.wf = true) :
    (s.readPhys w pa n).1.mem.wf = true := by
  have hc := State.wf_consumeAll w (sectorsOf pa n) h
  unfold State.readPhys
  split <;> rename_i heq <;> rw [heq] at hc <;> exact hc

theorem State.wf_writeSector {s : State} (w : Who) (n pa : Nat) (bs : List Byte) (h : s.mem.wf = true) :
    (s.writeSector w n pa bs).1.mem.wf = true := by
  unfold State.writeSector
  split
  · exact Mem.wf_poke pa bs (State.wf_serve w pa h)
  · have hc := State.wf_consume w n h
    split <;> rename_i heq <;> rw [heq] at hc
    · exact hc
    · exact Mem.wf_poke pa bs hc

theorem State.wf_writeSectors (w : Who) (fuel pa : Nat) (bs : List Byte) {s : State} (h : s.mem.wf = true) :
    (State.writeSectors w fuel pa bs s).1.mem.wf = true := by
  induction fuel generalizing pa bs s with
  | zero => exact h
  | succ n ih =>
    unfold State.writeSectors
    split
    · exact h
    · have hc := State.wf_writeSector w (pa / 32) pa (bs.take (32 - pa % 32)) h
      dsimp only
      split <;> rename_i heq <;> rw [heq] at hc <;> exact ih _ _ hc

theorem State.wf_writeUnit {s : State} (w : Who) (pa : Nat) (bs : List Byte) (h : s.mem.wf = true) :
    (s.writeUnit w pa bs).1.mem.wf = true := by
  unfold State.writeUnit
  split
  · split
    · exact State.wf_writeSectors w 9 pa bs h
    · split
      · exact State.wf_writeSectors w 9 pa bs h
      · rw [State.mem_post]; exact h
  · exact State.wf_writeSectors w 9 pa bs h

theorem State.wf_writeUnits (w : Who) (fuel pa : Nat) (bs : List Byte) {s : State} (h : s.mem.wf = true) :
    (State.writeUnits w fuel pa bs s).1.mem.wf = true := by
  induction fuel generalizing pa bs s with
  | zero => exact h
  | succ n ih =>
    unfold State.writeUnits
    split
    · exact h
    · have hc := State.wf_writeUnit w pa (bs.take (256 - pa % 256)) h
      dsimp only
      split <;> rename_i heq <;> rw [heq] at hc <;> exact ih _ _ hc

theorem State.wf_writeAt {s : State} (w : Who) (pa : Nat) (bs : List Byte) (h : s.mem.wf = true) :
    (s.writeAt w pa bs).1.mem.wf = true := State.wf_writeUnits w _ pa bs h

theorem State.wf_writePhys {s : State} (w : Who) (pa : Nat) (bs : List Byte) (h : s.mem.wf = true) :
    (s.writePhys w pa bs).1.mem.wf = true := by
  have hc := State.wf_writeAt w pa bs h
  unfold State.writePhys
  split <;> rename_i heq <;> rw [heq] at hc <;> exact hc

theorem State.wf_walkFrom (w : Who) (domain va : Nat) (st2 : Bool) (fuel level table : Nat) {s : State}
    (h : s.mem.wf = true) : (State.walkFrom w domain va st2 fuel level table s).1.mem.wf = true := by
  induction fuel generalizing level table s with
  | zero => exact h
  | succ n ih =>
    have hc := State.wf_readPhys w (table + 8 * levelIndex va level) 8 h
    unfold State.walkFrom
    split <;> rename_i heq <;> rw [heq] at hc
    · exact hc
    · dsimp only
      split
      · exact hc
      · exact ih _ _ hc
      · exact hc

/-! ### The TLB (R302, log 18) -/

@[simp] theorem settleUse_length (t : TlbEntry) (xs : List TlbEntry) : (settleUse t xs).length = xs.length := by
  unfold settleUse; split <;> simp

/-- The entry used last stays marked. -/
theorem mem_settleUse {t : TlbEntry} {xs : List TlbEntry} (h : t ∈ xs) (hu : t.used = true) : t ∈ settleUse t xs := by
  unfold settleUse
  split
  · exact List.mem_map.2 ⟨t, h, by simp [← hu]⟩
  · exact h

/-- A TLB holds at most 512 entries once one is filled. -/
theorem CoreSt.fillTlb_length (k : CoreSt) (t : TlbEntry) : (k.fillTlb t).tlb.length ≤ 512 := by
  simp only [CoreSt.fillTlb, settleUse_length, List.length_cons]
  split <;> (simp; try omega)

/-- The entry that is filled is there. -/
theorem CoreSt.mem_fillTlb (k : CoreSt) {t : TlbEntry} (h : t.used = true) : t ∈ (k.fillTlb t).tlb :=
  mem_settleUse (List.mem_cons_self ..) h

/-- An entry that is used takes no other's place. -/
theorem CoreSt.useTlb_length (k : CoreSt) (t : TlbEntry) : (k.useTlb t).tlb.length = k.tlb.length := by
  unfold CoreSt.useTlb; split <;> simp

theorem State.wf_stage {s : State} (w : Who) (root : Nat) (st2 : Bool) (va : Nat) (h : s.mem.wf = true) :
    (s.stage w root st2 va).1.mem.wf = true := by
  unfold State.stage
  split
  · dsimp only
    split
    · exact h
    · exact h
  · have hc := State.wf_walkFrom (s := s.countStack (coreStack w.core) 12) w w.domain.toNat va st2 4 0 root h
    split <;> rename_i heq <;> rw [heq] at hc <;> exact hc

theorem State.wf_translate {s : State} (w : Who) (va : Nat) (a : Access) (h : s.mem.wf = true) :
    (s.translate w va a).1.mem.wf = true := by
  unfold State.translate
  split
  · exact h
  · have h1 := State.wf_stage w (s.domainEntry w.domain.toNat).root1 false va h
    dsimp only
    split <;> rename_i heq <;> rw [heq] at h1
    · exact h1
    · split
      · exact h1
      · split
        · split <;> exact h1
        · split
          · rename_i heq2
            have h2 := congrArg (fun x => x.1.mem.wf) heq2
            exact h2.symm.trans (State.wf_stage w _ true _ h1)
          · rename_i heq2
            have h2 := congrArg (fun x => x.1.mem.wf) heq2
            have h3 := h2.symm.trans (State.wf_stage w _ true _ h1)
            split
            · exact h3
            · split <;> exact h3

theorem State.wf_readPage {s : State} (w : Who) (va n : Nat) (a : Access) (h : s.mem.wf = true) :
    (s.readPage w va n a).1.mem.wf = true := by
  have h1 := State.wf_translate w va a h
  unfold State.readPage
  split <;> rename_i heq <;> rw [heq] at h1
  · exact h1
  · exact State.wf_readPhys w _ n h1

theorem State.wf_readVirt (w : Who) (a : Access) (fuel va n : Nat) {s : State} (h : s.mem.wf = true) :
    (State.readVirt w a fuel va n s).1.mem.wf = true := by
  induction fuel generalizing va n s with
  | zero => exact h
  | succ m ih =>
    unfold State.readVirt
    split
    · exact h
    · have h1 := State.wf_readPage w va (min n (65536 - va % 65536)) a h
      dsimp only
      split <;> rename_i heq <;> rw [heq] at h1
      · exact h1
      · have h2 := ih (va + min n (65536 - va % 65536)) (n - min n (65536 - va % 65536)) h1
        split <;> rename_i heq2 <;> rw [heq2] at h2 <;> exact h2

theorem State.wf_readV {s : State} (w : Who) (va n : Nat) (a : Access) (h : s.mem.wf = true) :
    (s.readV w va n a).1.mem.wf = true := State.wf_readVirt w a _ va n h

theorem State.wf_writeVirt (w : Who) (fuel va : Nat) (bs : List Byte) {s : State} (h : s.mem.wf = true) :
    (State.writeVirt w fuel va bs s).1.mem.wf = true := by
  induction fuel generalizing va bs s with
  | zero => exact h
  | succ n ih =>
    unfold State.writeVirt
    split
    · exact h
    · have h1 := State.wf_translate w va .write h
      dsimp only
      split <;> rename_i heq <;> rw [heq] at h1
      · exact h1
      · rename_i pa
        have h2 := State.wf_writeAt w pa (bs.take (65536 - va % 65536)) h1
        split <;> rename_i heq2 <;> rw [heq2] at h2
        · exact h2
        · exact ih _ _ h2

theorem State.wf_writeV {s : State} (w : Who) (va : Nat) (bs : List Byte) (h : s.mem.wf = true) :
    (s.writeV w va bs).1.mem.wf = true := State.wf_writeVirt w _ va bs h

/-! ### Blocks of the paged store -/

theorem State.wf_setBlockEntry {s : State} (n : Nat) (e : BlockEntry) (h : s.mem.wf = true) :
    (s.setBlockEntry n e).mem.wf = true := Mem.wf_poke _ _ h

theorem State.wf_readEntry {s : State} (w : Who) (n : Nat) (h : s.mem.wf = true) :
    (s.readEntry w n).1.mem.wf = true := by
  have hc := State.wf_consume w (s.entrySector n) h
  unfold State.readEntry
  split <;> rename_i heq <;> rw [heq] at hc
  · exact hc
  · split <;> exact hc

/-- The frames of row stores and the block numbers that stand for them are one to one. -/
theorem rowFrame_rowBlock {f : Nat} (h : f < 2 ^ 37) : rowFrame (rowBlock f) = f := by
  unfold rowFrame rowBlock
  omega

/-- An access finds the entry that the block table holds, where that is valid. -/
theorem State.entryOf_block {s : State} {n : Nat} (h : (s.blockEntry n).valid = true) : s.entryOf n = s.blockEntry n := by
  simp [State.entryOf, h]

/-- Elsewhere it finds the frame of a row store with rows. -/
theorem State.entryOf_row {s : State} {n : Nat} {p : StorePlace} (h : (s.blockEntry n).valid = false)
    (hp : s.storeAt (16384 * rowFrame n) = some p) (hr : p.hasRows = true) : s.entryOf n =
      ⟨true, if 16384 * rowFrame n < 2 ^ 39 then 0 else 1, 3, 16384 * rowFrame n⟩ := by
  simp [State.entryOf, h, hp, hr]

theorem State.wf_findBlock {s : State} (w : Who) (n : Nat) (h : s.mem.wf = true) :
    (s.findBlock w n).1.mem.wf = true := by
  have hc := State.wf_consume w (s.entrySector n) h
  unfold State.findBlock
  split <;> rename_i heq <;> rw [heq] at hc
  · exact hc
  · split <;> exact hc

theorem State.wf_serveSlot {s : State} (w : Who) (e : BlockEntry) (h : s.mem.wf = true) :
    (s.serveSlot w e).mem.wf = true := State.wf_serve w _ (State.wf_serve w _ h)

theorem State.wf_laySlot {s : State} (w : Who) (e : BlockEntry) (key : Nat) (xs : List Sector) (h : s.mem.wf = true) :
    (s.laySlot w e key xs).mem.wf = true := by
  have ht := State.wf_serveSlot w e h
  unfold State.laySlot
  dsimp only
  split <;> exact Mem.wf_putSectors _ _ ht

theorem State.wf_moveBlock {s t : State} (w : Who) (n : Nat) (e : BlockEntry) (st tier cls key : Nat) (xs : List Sector)
    (h : s.mem.wf = true) (ht : s.moveBlock w n e st tier cls key xs = some t) : t.mem.wf = true := by
  unfold State.moveBlock at ht
  split at ht
  · cases ht
  · cases ht
    exact State.wf_setBlockEntry n _ (State.wf_laySlot w _ key xs h)

theorem State.wf_readBlock {s : State} (w : Who) (n off len : Nat) (h : s.mem.wf = true) :
    (s.readBlock w n off len).1.mem.wf = true := by
  have h1 := State.wf_findBlock w n h
  unfold State.readBlock
  split <;> rename_i heq <;> rw [heq] at h1
  · exact h1
  · rename_i e
    have h2 := State.wf_consumeAll w (e.mapSectors (off / 32)) h1
    split <;> rename_i heq2 <;> rw [heq2] at h2
    · exact h2
    · split
      · exact h2
      · exact State.wf_readPhys w _ len h2

theorem State.wf_repack {s t : State} {r : Except Fail Unit} (w : Who) (n : Nat) (e : BlockEntry) (i : Nat)
    (new : List Byte) (h : s.mem.wf = true) (ht : s.repack w n e i new = some (t, r)) : t.mem.wf = true := by
  have h1 := State.wf_consumeAll w (e.mapSectors 511) h
  unfold State.repack at ht
  split at ht <;> rename_i heq <;> rw [heq] at h1
  · cases ht; exact h1
  · split at ht
    · cases ht
      exact (congrArg Mem.wf (State.mem_post _ _ _ _)).trans h1
    · dsimp only at ht
      split at ht
      · cases ht; exact State.wf_laySlot w _ _ _ (State.wf_serveSlot w e h1)
      · split at ht
        · rename_i heq3
          cases ht
          refine State.wf_moveBlock _ _ _ _ _ _ _ _ ?_ heq3
          have hc : ∀ u : State, u.mem.wf = true → (u.countStack (e.stack n) 11).mem.wf = true := fun _ hu => hu
          exact hc _ (State.wf_serveSlot w e h1)
        · cases ht

theorem State.wf_writeBlock {s t : State} {r : Except Fail Unit} (w : Who) (n off : Nat) (bs : List Byte)
    (h : s.mem.wf = true) (ht : s.writeBlock w n off bs = some (t, r)) : t.mem.wf = true := by
  have h1 := State.wf_findBlock w n h
  unfold State.writeBlock at ht
  split at ht <;> rename_i heq <;> rw [heq] at h1
  · cases ht; exact h1
  · rename_i e
    have hphys (u : State) (pa : Nat) (cs : List Byte) (hu : u.mem.wf = true)
        (he : some (u.writePhys w pa cs) = some (t, r)) : t.mem.wf = true :=
      (congrArg (fun x => x.1.mem.wf) (Option.some.inj he)).symm.trans (State.wf_writePhys w pa cs hu)
    split at ht
    · exact hphys _ _ _ h1 ht
    · have h2 := State.wf_consumeAll w (e.mapSectors (off / 32)) h1
      split at ht <;> rename_i heq2 <;> rw [heq2] at h2
      · cases ht; exact h2
      · split at ht
        · rename_i k _
          split at ht
          · split at ht
            · exact State.wf_repack _ _ _ _ _ h2 ht
            · exact hphys _ _ _ h2 ht
          · have h3 := State.wf_consume w k h2
            split at ht <;> rename_i heq3 <;> rw [heq3] at h3
            · cases ht; exact h3
            · dsimp only at ht
              split at ht
              · exact State.wf_repack _ _ _ _ _ h3 ht
              · exact hphys _ _ _ h3 ht
        · dsimp only at ht
          split at ht
          · cases ht; exact h2
          · exact State.wf_repack _ _ _ _ _ h2 ht

/-! ### What the services and the outside do to memory -/

theorem State.wf_freshPage {s : State} (key : BitVec 10) (p : Nat) (h : s.mem.wf = true) :
    (s.freshPage key p).mem.wf = true := by
  have ht := State.wf_serve Who.nobody (p * pageBytes) h
  unfold State.freshPage
  dsimp only
  split <;> exact Assoc.canonical_filter _ ht

theorem State.wf_fillPages (key : BitVec 10) (ps : List Nat) (bs : List Byte) {s : State} (h : s.mem.wf = true) :
    (State.fillPages key ps bs s).mem.wf = true := by
  induction ps generalizing bs s with
  | nil => exact h
  | cons p ps ih => exact ih _ (Mem.wf_poke _ _ (State.wf_freshPage key p h))

theorem State.wf_putEntry {s t : State} (pa e : Nat) (h : s.mem.wf = true) (ht : s.putEntry pa e = some t) :
    t.mem.wf = true := by
  have hc := State.wf_writePhys Who.nobody pa (bytesOf 8 e) h
  unfold State.putEntry at ht
  split at ht
  · rename_i heq
    rw [heq] at hc
    cases ht; exact hc
  · cases ht

theorem State.wf_seatWord {s : State} (w : Word) (h : s.mem.wf = true) : (s.seatWord w).mem.wf = true :=
  Mem.wf_poke _ _ h

@[simp] theorem State.wf_damage (s : State) (pa : Nat) (code : BitVec 16) : (s.damage pa code).mem.wf = s.mem.wf := rfl

/-- Joining the poison that earlier reads made keeps the form, whatever memory they read. -/
theorem Mem.wf_joinPoison (m before after : Mem) : (m.joinPoison before after).wf = m.wf := by
  unfold Mem.joinPoison
  generalize List.filter _ _ = ns
  induction ns generalizing m with
  | nil => rfl
  | cons n ns ih => exact (ih _).trans (Mem.wf_setPoison m n true)

/-- Reads as of an earlier time leave memory in its form. -/
theorem State.wf_asOf {α : Type} (s : State) (m : Mem) (f : State → State × α) : (s.asOf m f).1.mem.wf = s.mem.wf :=
  Mem.wf_joinPoison s.mem m _

end Sys2Proof.Machine
end

