-- ==== Sys2Proof/Laws/Shared.lean ====
section
/-! SUPPORT. What the shared operations do, once for each: futures taken and completed, operations started, waits counted,
traps of a word. -/

namespace Sys2Proof.Machine

/-! ### Futures -/

/-- A future is taken in the lowest free slot: the slot is occupied by an operation in flight of the kind given, bound to
the register, which has its handle; nothing else of the state changes but the serial. -/
theorem State.takeFuture_some {s : State} {st x : Strand} {d i : Nat} {k : FutureKind}
    {rs : List (Bool × (Word × Nat))} {n : Nat} (h : (s.core s.cur.1).freeFuture = some i) (hx : s.here? = some x) :
    ∃ f : Future, f.kind = k ∧ f.done = false ∧ f.binding = [(st.lineage, d)] ∧
      f.serial = nextFuture (s.core s.cur.1).futureSer ∧
      s.takeFuture st d k rs n = some ((s.modCore s.cur.1 fun y => { y with
          futureSer := f.serial, futures := Assoc.set y.futures i f }).setHere
        (x.setG d (futureHandle f.serial s.cur.1 i)), i) := by
  refine ⟨⟨nextFuture (s.core s.cur.1).futureSer, k, false, 0#64, [(st.lineage, d)], 0, false, s.cur.2,
    (s.core s.cur.1).gen s.cur.2, st.launch, st.block, st.domain, st.mode, st.keyid, rs, n⟩, rfl, rfl, rfl, rfl, ?_⟩
  have hx' : (s.modCore s.cur.1 fun y => { y with
      futureSer := nextFuture (s.core s.cur.1).futureSer,
      futures := Assoc.set y.futures i ⟨nextFuture (s.core s.cur.1).futureSer, k, false, 0#64, [(st.lineage, d)], 0, false,
        s.cur.2, (s.core s.cur.1).gen s.cur.2, st.launch, st.block, st.domain, st.mode, st.keyid, rs, n⟩ }).here? = some x := by
    have e : (s.core s.cur.1).slots = (s.core s.cur.1).slots := rfl
    simpa [State.here?, State.strand?] using hx
  unfold State.takeFuture
  simp only [h]
  rw [State.modHere_eq hx']

/-- Without a free slot no future is taken. -/
theorem State.takeFuture_none {s : State} {st : Strand} {d : Nat} {k : FutureKind}
    {rs : List (Bool × (Word × Nat))} {n : Nat} (h : (s.core s.cur.1).freeFuture = none) :
    s.takeFuture st d k rs n = none := by
  simp [State.takeFuture, h]

/-- A ready word with a future takes its slot and has its effect there. -/
theorem issue_withFuture {i : Instr} {u : Use} {f : Form} {ch : Strand → State → List (List LaneFault)}
    {d : Nat} {k : Strand → State → FutureKind} {eff : Nat → Strand → State → State} {idle : State → State}
    {rs : Strand → List (Bool × (Word × Nat))} {es : Strand → Nat}
    {s s1 : State} {st : Strand} {j : Nat} (r : Ready i u f st s) (hf : firstFault (ch st s) = [])
    (ht : (s.before u f st).takeFuture st d (k st (s.before u f st)) (rs st) (es st) = some (s1, j)) :
    issue i u f ch (withFuture d k eff rs es) idle s = .next ((eff j st s1).retireWord .seq) := by
  rw [issue_ready r hf]
  simp [withFuture, ht]

/-- Without a slot the word is not ready: the strand stays at it, and the wait is counted (R339, R348). -/
theorem issue_withFuture_none {i : Instr} {u : Use} {f : Form} {ch : Strand → State → List (List LaneFault)}
    {d : Nat} {k : Strand → State → FutureKind} {eff : Nat → Strand → State → State} {idle : State → State}
    {rs : Strand → List (Bool × (Word × Nat))} {es : Strand → Nat}
    {s : State} {st : Strand} (r : Ready i u f st s) (hf : firstFault (ch st s) = [])
    (ht : (s.before u f st).takeFuture st d (k st (s.before u f st)) (rs st) (es st) = none) :
    issue i u f ch (withFuture d k eff rs es) idle s = .next (s.countStall 3 0x10003) := by
  rw [issue_ready r hf]
  simp [withFuture, ht]

/-- The completion of a future changes its core alone, and no memory. -/
@[simp] theorem State.completeFuture_mem (s : State) (c i n : Nat) : (s.completeFuture c i n).mem = s.mem := rfl

theorem State.completeFuture_other (s : State) (c i n : Nat) {d : Nat} (h : c ≠ d) :
    (s.completeFuture c i n).core d = s.core d := State.core_modCore_other s _ h

/-- The completion of a future that is complete already has no effect. -/
theorem CoreSt.completeFuture_done {k : CoreSt} {i : Nat} {f : Future} (v : DWord)
    (h : Assoc.find k.futures i = some f) (hd : f.done = true) : k.completeFuture i v = k := by
  simp [CoreSt.completeFuture, h, hd]

/-! ### Operations -/

/-- A started operation is the last of the core's list. -/
theorem State.startOp_ops (s : State) (c : Nat) (o : Op) : ((s.startOp c o).core c).ops = (s.core c).ops ++ [o] := by
  unfold State.startOp State.modStrand
  split <;> simp [State.setStrand]

theorem State.startOp_other (s : State) (c : Nat) (o : Op) {d : Nat} (h : c ≠ d) :
    (s.startOp c o).core d = s.core d := by
  unfold State.startOp State.modStrand
  rw [State.core_modCore_other _ _ h]
  split
  · exact State.core_modCore_other _ _ h
  · rfl

/-- A table-space operation is not performed at its issue. -/
theorem State.performScratchNow_table (s : State) (c : Nat) (o : Op) (h : isScratchOp o.instr = false) :
    (s.startOp c o).performScratchNow c = s.startOp c o := by
  unfold State.performScratchNow
  simp only [State.startOp_ops]
  simp [h]

/-- The form of a word that becomes an operation. -/
abbrev opForm (i : Instr) (st : Strand) : Form :=
  { types := opModeOk i st.group.mode, ends := opEnds i st.group.mode }

/-- Marked registers and an ended region change nothing of the request entries. -/
theorem State.before_requests (s : State) (i : Instr) (st : Strand) :
    ((s.before (opUse i st.group.mode) (opForm i st) st).core s.cur.1).requests =
      ((s.unbindDests st.lineage (opUse i st.group.mode).gDest).core s.cur.1).requests := by
  have e := State.core_setHere (s.unbindDests st.lineage (opUse i st.group.mode).gDest)
    (st.ready (opUse i st.group.mode) (opForm i st))
  rw [State.unbindDests_cur] at e
  simp [State.before, Form.ended, e, CoreSt.requests]

/-- A word of the table-space or scratch group that is ready starts its operation, and goes on. -/
theorem execOp_ready {i : Instr} {st : Strand} {s : State} (r : OpReady i st s) :
    execOp i s = .next ((((s.before (opUse i st.group.mode) (opForm i st) st).startOp s.cur.1
      (s.newOpHere i st)).performScratchNow s.cur.1).retireWord .seq) := by
  obtain ⟨hr, ha, hc, hq, hs⟩ := r
  have hh := hr.here
  have e0 : (s.unbindDests st.lineage (opUse i st.group.mode).gDest).cur = s.cur := State.unbindDests_cur _ _ _
  have e1 := State.unbindDests_core (fun k => k.queueFull s.cur.2) (fun _ _ => rfl) s st.lineage (opUse i st.group.mode).gDest
  have e3 := State.before_core (fun k => k.gen s.cur.2) (fun _ _ => rfl) (fun _ _ => rfl) s (opUse i st.group.mode)
    (opForm i st) st
  have hroom : s.noRoom (opNeeds i) (opUse i st.group.mode) (opForm i st) st = none := by
    rw [State.noRoom_unbound _ (.inr ha) (State.deliverBound_unbound s _ _ (hr.unbound rfl))]
    have hfull : ((s.unbindDests st.lineage (opUse i st.group.mode).gDest).core s.cur.1).queueFull s.cur.2 = false := by
      simpa [hq] using e1
    rcases hs with h | h
    · simp [opNeeds, isTableOp, h, State.lacks, hfull]
    · have hr2 : ¬ 2048 < ((s.unbindDests st.lineage (opUse i st.group.mode).gDest).core s.cur.1).requests + popCount st.active := by
        rw [State.before_requests] at h
        exact Nat.not_lt.mpr h
      simp only [opNeeds]
      split <;> simp [hfull, State.lacks, hr2]
  unfold execOp
  simp only [hh]
  refine (issueIn_room (f := opForm i st) hh hroom).trans ((issue_ready (f := opForm i st) (st := st) hr hc).trans ?_)
  rw [e3]
  simp [State.newOpHere]

/-! ### Waits and traps -/

/-- A wait that is counted once changes a counter and the mark of the strand, and no register of it. -/
theorem State.countStall_here {s : State} {st : Strand} (h : s.here? = some st) (kind sel : Nat) :
    (s.countStall kind sel).here? = some { st with stalled := kind } := by
  unfold State.countStall
  simp only [h]
  split
  · rename_i hk; rw [← hk]; exact h
  · have e : ((s.setHere { st with stalled := kind }).count s.cur.1 sel).here? =
        (s.setHere { st with stalled := kind }).here? := by
      simp [State.count, State.here?, State.strand?, CoreSt.count]
    rw [e, State.here?_setHere]

@[simp] theorem State.countStall_mem (s : State) (kind sel : Nat) : (s.countStall kind sel).mem = s.mem := by
  unfold State.countStall
  split
  · split <;> rfl
  · rfl

/-- A strand that waits for another package does not trap yet. -/
theorem State.trapWord_waits {s : State} (st : Strand) (fs : List LaneFault) (h : s.awaitsLink s.cur.1 s.cur.2 = true) :
    s.trapWord st fs = s := by
  simp [State.trapWord, h]

/-- Otherwise it takes the trap, with the word as its resume point; having been selected, it counts as not passed over. -/
theorem State.trapWord_takes {s : State} (st : Strand) (fs : List LaneFault) (h : s.awaitsLink s.cur.1 s.cur.2 = false) :
    s.trapWord st fs = (s.modHere Strand.atTurn).takeTrap s.cur.1 s.cur.2 fs st.point := by
  simp [State.trapWord, h]

end Sys2Proof.Machine
end

