-- ==== Sys2Proof/Tests/Slice0.lean ====
section
/-! SUPPORT. Tests: words of the specification's encodings, limits of well-formed instructions, single steps on small
states with the results that the specification's tables and examples give, and for every statement a state and operands
that meet its hypotheses. -/

namespace Sys2Proof.Tests

open Sys2Proof.Machine

-- Theorems one after another: each kernel evaluation needs a thread of its own otherwise.
set_option Elab.async false

/-! ### Decoding: a row of Table 3-7 each, every field with a value of its own -/

/-- Every word of a list is read as the instruction beside it. -/
def reads (xs : List (Word × Instr)) : Bool :=
  xs.all fun x => match decode x.1 with
    | .ok i => i == x.2
    | .error _ => false

/-- Every word of a list is refused. -/
def refusesAll (xs : List Word) : Bool :=
  xs.all fun x => match decode x with
    | .ok _ => false
    | .error _ => true

theorem test_decode_0x : reads [
    (0x00000000, .nop), (0x0100B6D3, .mode 0xb6d3), (0x0200B6D3, .memmode 0xb6d3),
    (0x03C5A96E, .bra 0xc5a96e), (0x040BB6D3, .bkz 0xb 0xb6d3), (0x050BB6D3, .bknz 0xb 0xb6d3),
    (0x060DB6D3, .bqt 0xd 0xb6d3), (0x070DB6D3, .bqf 0xd 0xb6d3), (0x08C5A96E, .call 0xc5a96e),
    (0x09001600, .callg 0x16), (0x0A001600, .jmpg 0x16), (0x0B000000, .ret),
    (0x0C009C00, .retv 0x9c), (0x0D2BB6D3, .loop 0x2b 0xb6d3), (0x0E000000, .lexit),
    (0x0F000000, .exit)] = true := by decide +kernel

theorem test_decode_1x : reads [
    (0x10D60005, .sreg 0xd6 5), (0x112B000B, .gsreg 0x2b 0xb), (0x120B3500, .kfrom 0xb 0x35),
    (0x130B060C, .kand 0xb 6 0xc), (0x140B060C, .kor 0xb 6 0xc), (0x150B060C, .kandn 0xb 6 0xc),
    (0x160B060C, .kxor 0xb 6 0xc), (0x170B0600, .kmov 0xb 6), (0x182B0600, .kpop 0x2b 6),
    (0x192B0600, .ktog 0x2b 6), (0x1A0B1600, .gtok 0xb 0x16), (0x1B001639, .phint 0x16 0x39),
    (0x1C001639, .idem 0x16 0x39), (0x1D000000, .idend), (0x1E000002, .bwphase 2),
    (0x1F2B1600, .launch 0x2b 0x16)] = true := by decide +kernel

theorem test_decode_2x : reads [
    (0x20D69C6A, .add 0xd6 0x9c 0x6a), (0x21D69C6A, .sub 0xd6 0x9c 0x6a), (0x22D69C6A, .mul 0xd6 0x9c 0x6a),
    (0x23D69C6A, .mulh 0xd6 0x9c 0x6a), (0x24D69C6A, .mad 0xd6 0x9c 0x6a), (0x25D69C6A, .msb 0xd6 0x9c 0x6a),
    (0x26D69C6A, .div 0xd6 0x9c 0x6a), (0x27D69C6A, .rem 0xd6 0x9c 0x6a), (0x28D69C6A, .min 0xd6 0x9c 0x6a),
    (0x29D69C6A, .max 0xd6 0x9c 0x6a), (0x2AD69C00, .abs 0xd6 0x9c), (0x2BD69C00, .neg 0xd6 0x9c),
    (0x2CD69C6A, .and 0xd6 0x9c 0x6a), (0x2DD69C6A, .or 0xd6 0x9c 0x6a), (0x2ED69C6A, .xor 0xd6 0x9c 0x6a),
    (0x2FD69C00, .not 0xd6 0x9c)] = true := by decide +kernel

theorem test_decode_3x : reads [
    (0x30D69C6A, .shl 0xd6 0x9c 0x6a), (0x31D69C6A, .shr 0xd6 0x9c 0x6a), (0x32D69C6A, .sar 0xd6 0x9c 0x6a),
    (0x33D69C6A, .rol 0xd6 0x9c 0x6a), (0x34D69C00, .clz 0xd6 0x9c), (0x35D69C00, .pop 0xd6 0x9c),
    (0x36D69C00, .brev 0xd6 0x9c), (0x37D69C6A, .bfe 0xd6 0x9c 0x6a), (0x38D69C6A, .bfi 0xd6 0x9c 0x6a),
    (0x39D69C00, .mov 0xd6 0x9c), (0x3AD69C6A, .sel 0xd6 0x9c 0x6a), (0x3BD6B6D3, .ldi 0xd6 0xb6d3),
    (0x3CD6B6D3, .ldih 0xd6 0xb6d3), (0x3DD69C09, .cvt 0xd6 0x9c 9), (0x3E5A9C6A, .ceq 0x5a 0x9c 0x6a),
    (0x3F5A9C6A, .cne 0x5a 0x9c 0x6a)] = true := by decide +kernel

theorem test_decode_4x : reads [
    (0x405A9C6A, .clt 0x5a 0x9c 0x6a), (0x415A9C6A, .cle 0x5a 0x9c 0x6a), (0x425A9C6A, .cun 0x5a 0x9c 0x6a),
    (0x435A3563, .pand 0x5a 0x35 0x63), (0x445A3563, .por 0x5a 0x35 0x63), (0x455A3563, .pxor 0x5a 0x35 0x63),
    (0x465A3500, .pnot 0x5a 0x35), (0x47D69C00, .rcp 0xd6 0x9c), (0x48D69C00, .rsq 0xd6 0x9c),
    (0x49D69C00, .sqrt 0xd6 0x9c), (0x4AD69C00, .ex2 0xd6 0x9c), (0x4BD69C00, .lg2 0xd6 0x9c),
    (0x4CD69C00, .sinpi 0xd6 0x9c), (0x4DD69C00, .cospi 0xd6 0x9c), (0x4ED69C00, .rint 0xd6 0x9c),
    (0x4FD69C6A, .scl 0xd6 0x9c 0x6a)] = true := by decide +kernel

theorem test_decode_5x : reads [
    (0x50D69C6A, .shfl 0xd6 0x9c 0x6a), (0x51D69C27, .shfx 0xd6 0x9c 0x27), (0x52D69C27, .shup 0xd6 0x9c 0x27),
    (0x53D69C27, .shdn 0xd6 0x9c 0x27), (0x54D69C39, .bcst 0xd6 0x9c 0x39), (0x552B9C00, .radd 0x2b 0x9c),
    (0x562B9C00, .rmin 0x2b 0x9c), (0x572B9C00, .rmax 0x2b 0x9c), (0x580B9C00, .confl 0xb 0x9c),
    (0x59D69C00, .fcls 0xd6 0x9c), (0x5AD69C39, .cmprs 0xd6 0x9c 0x39), (0x5BD69C39, .expnd 0xd6 0x9c 0x39),
    (0x5C2B9C00, .vtog 0x2b 0x9c), (0x5DD61600, .gtov 0xd6 0x16)] = true := by decide +kernel

theorem test_decode_6x : reads [
    (0x602B1639, .gadd 0x2b 0x16 0x39), (0x612B1639, .gsub 0x2b 0x16 0x39), (0x622B1639, .gmul 0x2b 0x16 0x39),
    (0x632B1639, .gand 0x2b 0x16 0x39), (0x642B1639, .gor 0x2b 0x16 0x39), (0x652B1639, .gxor 0x2b 0x16 0x39),
    (0x662B1639, .gshl 0x2b 0x16 0x39), (0x672B1639, .gshr 0x2b 0x16 0x39), (0x682B1639, .gsar 0x2b 0x16 0x39),
    (0x692B1600, .gmov 0x2b 0x16), (0x6A2BB6D3, .gldi 0x2b 0xb6d3), (0x6B2BB6D3, .gldih 0x2b 0xb6d3),
    (0x6C2BB6D3, .gldix 0x2b 0xb6d3), (0x6D2BB6D3, .gldiy 0x2b 0xb6d3), (0x6E0D1639, .gceq 0xd 0x16 0x39),
    (0x6F0D1639, .gclt 0xd 0x16 0x39)] = true := by decide +kernel

theorem test_decode_7x : reads [
    (0x70D69C39, .lkp 0x6b 0x4e 0x39), (0x71D69C39, .ins 0x6b 0x4e 0x39), (0x72D69C39, .ups 0x6b 0x4e 0x39),
    (0x73D69C39, .del 0x6b 0x4e 0x39), (0x74D69C39, .rekey 0x6b 0x4e 0x39), (0x75D69CE5, .ld 0xd6 0x4e 0xe5),
    (0x76D69CE5, .st 0xd6 0x4e 0xe5), (0x77D69CE5, .atom 0xd6 0x4e 0xe5), (0x78D69C39, .ldrow 0xd6 0x4e 0x39),
    (0x79D69CE5, .ratom 0xd6 0x4e 0xe5), (0x7AD69C39, .copen 0xd6 0x4e 0x39), (0x7BD69C00, .cstep 0x6b 0x9c),
    (0x7CD69C00, .cstepn 0x6b 0x9c), (0x7DD69C00, .cseek 0xd6 0x4e), (0x7E009C00, .cclose 0x9c),
    (0x7F2B1639, .gath 0x2b 0x16 0x39)] = true := by decide +kernel

theorem test_decode_8x : reads [
    (0x802B1600, .promo 0x2b 0x16), (0x81001600, .publ 0x16), (0x82000000, .fence),
    (0x84D69CE5, .sld 0xd6 0x9c 0xe5), (0x85D69CE5, .sst 0xd6 0x9c 0xe5), (0x86D69CE5, .satom 0xd6 0x9c 0xe5),
    (0x872B1639, .cpy 0x2b 0x16 0x39), (0x882B1639, .cpys 0x2b 0x16 0x39), (0x892B1639, .cpyo 0x2b 0x16 0x39),
    (0x8A2B0000, .cbatch 0x2b), (0x8B001600, .cwait 0x16), (0x8C2B3510, .bgive 0x2b 0xd 0x11),
    (0x8D2B0000, .btake 0x2b), (0x8E2B1600, .balloc 0x2b 0x16), (0x8F001600, .bfree 0x16)] = true := by decide +kernel

theorem test_decode_ax : reads [
    (0xA0001600, .gang 0x16), (0xA12B1639, .mlds 0x2b 0x16 0x39), (0xA2000000, .mact),
    (0xA32B1639, .mmul 0x2b 0x16 0x39), (0xA42B166A, .mmsp 0x2b 0x16 0x6a), (0xA5001639, .mband 0x16 0x39),
    (0xA62B1600, .scacc 0x2b 0x16), (0xA72B1639, .mrd 0x2b 0x16 0x39), (0xA8001600, .mclr 0x16),
    (0xA92B1600, .mstep 0x2b 0x16)] = true := by decide +kernel

theorem test_decode_bx : reads [
    (0xB0009C39, .go 0x4e 0x39), (0xB1009C39, .gom 0x4e 0x39), (0xB22B3511, .goto 0x2b 0xd 0x11 1),
    (0xB3000002, .gopol 2), (0xB400B6D3, .rejoin 0xb6d3), (0xB800000A, .bar 0xa),
    (0xB92B160A, .bara 0x2b 0x16 0xa), (0xBA00160A, .barw 0x16 0xa), (0xBB00160A, .barinit 0x16 0xa),
    (0xBC0D1600, .ftest 0xd 0x16), (0xBD001600, .fwait 0x16), (0xBE001600, .fcancel 0x16),
    (0xBF001600, .post 0x16)] = true := by decide +kernel

theorem test_decode_cx : reads [
    (0xC000B6D3, .sysc 0xb6d3), (0xC1000000, .sret), (0xC200B6D3, .hcall 0xb6d3),
    (0xC3000000, .hret), (0xC42B0011, .mfpr 0x2b 0x11), (0xC52B0022, .mtpr 0x2b 0x22),
    (0xC6001602, .tinv 0x16 2), (0xC72B1600, .ctxsv 0x2b 0x16), (0xC82B1600, .ctxld 0x2b 0x16),
    (0xC92B1041, .perf 0x2b 0x1041), (0xCA00B6D3, .bkpt 0xb6d3), (0xCB001600, .kill 0x16)] = true := by decide +kernel

/-! The example words that the specification prints (R115 to R347, Tables 3-9 and of parts 16 to 20). -/

theorem test_examples_0 : reads [
    (0x3D040703, .cvt 4 7 3), (0x78140609, .ldrow 20 3 9), (0x75090204, .ld 9 1 4),
    (0x70140409, .lkp 10 2 9), (0x71080A03, .ins 4 5 3), (0x8E040500, .balloc 4 5),
    (0x8D070000, .btake 7), (0x8F000400, .bfree 4), (0x84080204, .sld 8 2 4),
    (0x870A0B0C, .cpy 10 11 12), (0x8A090000, .cbatch 9), (0x8B000900, .cwait 9),
    (0xA90F0C00, .mstep 15 12), (0xA4050608, .mmsp 5 6 8), (0xA6050600, .scacc 5 6),
    (0xA8000D00, .mclr 13), (0xB0000204, .go 1 4), (0xB3000002, .gopol 2),
    (0xB4000032, .rejoin 50), (0x1E000002, .bwphase 2), (0x80030800, .promo 3 8),
    (0xC4030011, .mfpr 3 17), (0xC6000202, .tinv 2 2), (0xC9041025, .perf 4 4133),
    (0xB8000001, .bar 1), (0xB9050401, .bara 5 4 1), (0xBA000501, .barw 5 1),
    (0xBB000401, .barinit 4 1), (0xBC020800, .ftest 2 8), (0xBD000900, .fwait 9),
    (0xBE000800, .fcancel 8), (0xBF000700, .post 7), (0x75080200, .ld 8 1 0),
    (0x77180200, .atom 24 1 0), (0x6D030006, .gldiy 3 6), (0xB0000C03, .go 6 3),
    (0x7A0A1401, .copen 10 10 1), (0x7B0C0A00, .cstep 6 10), (0x71121401, .ins 9 10 1),
    (0x73120601, .del 9 3 1)] = true := by decide +kernel

theorem test_examples_1 : reads [
    (0x101C0007, .sreg 28 7), (0xC1000000, .sret), (0x11060003, .gsreg 6 3),
    (0x8E0A0900, .balloc 10 9), (0x85171300, .sst 23 19 0), (0xB8000000, .bar 0),
    (0x76180240, .st 24 1 64), (0x8D0D0000, .btake 13), (0x84191300, .sld 25 19 0),
    (0x2E1C061A, .xor 28 6 26), (0x761B0840, .st 27 4 64), (0x751C0820, .ld 28 4 32),
    (0x18110100, .kpop 17 1), (0x1A001E00, .gtok 0 30), (0x700A0601, .lkp 5 3 1),
    (0x3E010A0C, .ceq 1 10 12), (0xC0000001, .sysc 1), (0x710A2001, .ins 5 16 1),
    (0x3B063F00, .ldi 6 16128), (0x3C06BE80, .ldih 6 48768), (0x79060C00, .ratom 6 6 0),
    (0x540E0A07, .bcst 14 10 7), (0x78100E08, .ldrow 16 7 8), (0xC9091001, .perf 9 4097),
    (0x2008100F, .add 8 16 15), (0x21080812, .sub 8 8 18), (0x6A030400, .gldi 3 1024),
    (0x5A140803, .cmprs 20 8 3), (0x85151640, .sst 21 22 64), (0x851E0A00, .sst 30 10 0),
    (0x511A1901, .shfx 26 25 1), (0x12000200, .kfrom 0 2), (0x50181913, .shfl 24 25 19),
    (0x66050507, .gshl 5 5 7), (0xA4050B18, .mmsp 5 11 24), (0xBC010500, .ftest 1 5),
    (0xA90F0500, .mstep 15 5), (0xBD000500, .fwait 5), (0xA70E0D11, .mrd 14 13 17),
    (0x84242200, .sld 36 34 0)] = true := by decide +kernel

theorem test_examples_2 : reads [
    (0x2D18181A, .or 24 24 26), (0x10280007, .sreg 40 7), (0xA1080B07, .mlds 8 11 7),
    (0xBA001500, .barw 21 0), (0xA5001611, .mband 22 17), (0xA31C1812, .mmul 28 24 18),
    (0xA71D100E, .mrd 29 16 14), (0x84290843, .sld 41 8 67), (0x4A282800, .ex2 40 40),
    (0x472D2C00, .rcp 45 44), (0x2410290D, .mad 16 41 13), (0xB9031E01, .bara 3 30 1),
    (0xB9041E00, .bara 4 30 0), (0x1B002024, .phint 32 36), (0xBB001E01, .barinit 30 1),
    (0x87181D17, .cpy 24 29 23), (0x3D0E0D02, .cvt 14 13 2), (0x8B000300, .cwait 3)] = true := by decide +kernel

/-- R52, R109: fields that name places and labels, in the words that the manual prints. -/
theorem test_examples_places : reads [
    (0xB20524D0, .goto 5 9 13 0), (0xB20524D1, .goto 5 9 13 1), (0x8C040410, .bgive 4 1 1),
    (0x8C0A0C10, .bgive 10 3 1), (0x8C0A0C00, .bgive 10 3 0), (0x0D050007, .loop 5 7),
    (0x07010000, .bqf 1 0)] = true := by decide +kernel

/-- R43, Table 3-2: a header's fields; its bit 0 is reserved. -/
theorem test_header : decodeHeader 0x05022346 = some (.clauseHeader 0x05 0x022 3 4 3) ∧
    decodeHeader 0x05022347 = none := by decide +kernel

/-- R53: a word with an unused bit set is no instruction (NOP, KMOV, RET, NOT, IDEND, CWAIT). -/
theorem test_unused_bits_refused : refusesAll [
    0x00000001, 0x170B0601, 0x0B000001, 0x1D000100] = true := by decide +kernel

/-- R64: an opcode that no instruction has is UNASSIGNED_OPCODE, whatever its other bits. -/
theorem test_unassigned : reads [
    (0x5E000000, .unassignedOpcode 0x5E000000), (0x83FFFFFF, .unassignedOpcode 0x83FFFFFF),
    (0x90123456, .unassignedOpcode 0x90123456), (0xCC000001, .unassignedOpcode 0xCC000001),
    (0xFFFFFFFF, .unassignedOpcode 0xFFFFFFFF)] = true := by decide +kernel

/-! ### Well-formed instructions -/

theorem test_wf_header_flag : (Instr.clauseHeader 0 0 12 15 0).wf = false := by decide
theorem test_wf_header_same_flag : (Instr.clauseHeader 0 0 4 4 0).wf = false := by decide
theorem test_wf_header_none_twice : (Instr.clauseHeader 0 0 15 15 0).wf = true := by decide
theorem test_wf_unassigned : (Instr.unassignedOpcode 0x20000000).wf = false := by decide
theorem test_wf_cvt : (Instr.cvt 0 0 14).wf = false ∧ (Instr.cvt 0 0 13).wf = true := by decide
theorem test_wf_phint : (Instr.phint 61 0).wf = false ∧ (Instr.phint 60 0).wf = true := by decide
theorem test_wf_idem : (Instr.idem 61 0).wf = false ∧ (Instr.idem 60 0).wf = true := by decide
theorem test_wf_sreg : (Instr.sreg 0 8).wf = false ∧ (Instr.sreg 0 7).wf = true := by decide
theorem test_wf_gsreg : (Instr.gsreg 0 13).wf = false ∧ (Instr.gsreg 0 12).wf = true := by decide
theorem test_wf_perf : (Instr.perf 0 8).wf = false ∧ (Instr.perf 0 0x7009).wf = true := by decide
theorem test_wf_mfpr : (Instr.mfpr 0 2).wf = false ∧ (Instr.mfpr 0 34).wf = true := by decide
theorem test_wf_mtpr : (Instr.mtpr 0 15).wf = false ∧ (Instr.mtpr 0 16).wf = true := by decide
theorem test_wf_gopol : (Instr.gopol 3).wf = false ∧ (Instr.gopol 2).wf = true := by decide
theorem test_wf_bgive : (Instr.bgive 0 16 0).wf = false ∧ (Instr.bgive 0 15 19).wf = true := by decide
theorem test_wf_goto : (Instr.goto 0 0 20 0).wf = false ∧ (Instr.goto 0 15 19 1).wf = true := by decide

/-! ### Small states -/

/-- The state in which the word of i, placed where the next step fetches it, is about to issue. Its identity is a number
(that after reset is opaque), so that two such states can be compared. -/
def placed (i : Instr) : State :=
  let s := State.reset.withFetchWord 32 ((encode i).getD 0#32).toNat
  { s with boot := { s.boot with identity := 0#384 } }

/-- Vector registers 0 to 31 of eight lanes: lane l of register r holds 16 r + l. -/
def someVectors : List (Nat × VReg) :=
  (List.range 32).map fun r => (r, .general ((List.range 8).map fun l => BitVec.ofNat 32 (16 * r + l)))

/-- A strand with those registers, predicates 1 and 2, g registers and k registers, and the mode word m. -/
def filled (m : Word) (st : Strand) : Strand :=
  { st with v := someVectors, p := [(1, 0x0F#64), (2, 0x33#64)],
            group := { st.group with mode := m, g := [(1, 7#64), (2, 9#64), (3, 0x20000#64)],
                                     k := [(0, 0xFF#64), (1, 0x3C#64), (2, 0x55#64)] } }

/-- The word of i about to issue in such a strand, changed by f. -/
def on (m : Word) (i : Instr) (f : Strand → Strand := id) : State := (placed i).modHere fun st => f (filled m st)

/-- A word, its register use and form, a state, and what else a statement supposes of the strand and the state. -/
structure Case where
  word  : Instr
  use   : Use
  form  : Form
  state : State
  more  : Strand → State → Bool := fun _ _ => true

/-- Nothing stands in the way of the word, what else is supposed holds, and the word answers a next state. -/
def Case.good (x : Case) : Bool :=
  match x.state.here? with
  | none => false
  | some st =>
    (checkWord st x.word x.use x.form.types).isNone && (x.form.always || st.active != 0#64) &&
    (!x.form.waits || x.use.gRead.all fun g => ((x.state.core x.state.cur.1).boundTo st.lineage g).isNone) &&
    (x.form.quiet || (checkRegs st x.use).isNone) && !checkIdem st x.use && x.more st x.state &&
    (match exec x.word x.state with
      | .next _ => true
      | _ => false)

/-- The hypotheses of a statement on a ready word are met, and the word runs. -/
def Case.Met (x : Case) : Prop :=
  ∃ st t, Ready x.word x.use x.form st x.state ∧ x.more st x.state = true ∧ exec x.word x.state = .next t

theorem Case.met {x : Case} (h : x.good = true) : x.Met := by
  unfold Case.good at h
  split at h
  · cases h
  · rename_i st hs
    simp only [Bool.and_eq_true, Bool.or_eq_true, Bool.not_eq_true', bne_iff_ne, ne_eq, Option.isNone_iff_eq_none,
      List.all_eq_true] at h
    obtain ⟨⟨⟨⟨⟨⟨h1, h2⟩, h3⟩, h4⟩, h5⟩, h6⟩, h7⟩ := h
    split at h7
    · rename_i t ht
      exact ⟨st, t, ⟨hs, h1, h2, fun hw => h3.resolve_left (by simp [hw]), h4, by simpa using h5⟩, h6, ht⟩
    · cases h7

/-- Every case of a list is met. -/
theorem allMet {xs : List Case} (h : xs.all Case.good = true) : ∀ x ∈ xs, x.Met :=
  fun x hx => Case.met (List.all_eq_true.mp h x hx)

/-! ### The hypotheses of the statements are met -/

/-- Element type code n in the mode register, bits 6:3. -/
def ty (n : Nat) : Word := BitVec.ofNat 32 (8 * n)

/-- A word of the given use in a filled strand under mode m, changed by f. -/
def word (i : Instr) (u : Use) (form : Form) (m : Word := 0) (f : Strand → Strand := id)
    (more : Strand → State → Bool := fun _ _ => true) : Case := ⟨i, u, form, on m i f, more⟩

/-- A form of a word whose effect needs no active lane. -/
def each : Form := { always := true }

theorem hyp_ModeWords : ∀ x ∈ [
    word .nop {} each, word (.mode 0x806D) {} each, word (.memmode 0x9201) {} each], x.Met := allMet (by decide +kernel)

theorem hyp_ModeWords_illegal : ((on 0 .nop).here?).isSome = true ∧ 13 < slice (0x0070 : BitVec 16) 6 3 ∧
    4 < slice (0xA000 : BitVec 16) 15 13 ∧ 4 < slice (0x1400 : BitVec 16) 12 10 := by decide +kernel

theorem hyp_MaskWords : ∀ x ∈ [
    word (.kfrom 15 1) {} each, word (.kand 15 1 2) {} each, word (.kor 0 1 2) {} each, word (.kandn 3 1 2) {} each,
    word (.kxor 3 1 2) {} each, word (.kmov 3 1) {} each, word (.kpop 63 1) { gDest := [63] } each,
    word (.ktog 0 1) { gDest := [0] } each, word (.gtok 15 1) { gRead := [1] } each], x.Met := allMet (by decide +kernel)

/-- The use of a group-wide word with operands 1 and 2. -/
def group3 (d : Nat) : Use := { gRead := [1, 2], gDest := [d] }

theorem hyp_GroupWords_arithmetic : ∀ x ∈ [
    word (.gadd 63 1 2) (group3 63) each (ty 12), word (.gsub 1 1 2) (group3 1) each (ty 13),
    word (.gmul 3 1 2) (group3 3) each (ty 0), word (.gand 3 1 2) (group3 3) each (ty 1),
    word (.gor 3 1 2) (group3 3) each, word (.gxor 3 1 2) (group3 3) each, word (.gshl 3 1 2) (group3 3) each,
    word (.gshr 3 1 2) (group3 3) each, word (.gsar 3 1 2) (group3 3) each], x.Met := allMet (by decide +kernel)

theorem hyp_GroupWords_types : modeType (ty 12) = some .i64 ∧ modeType (ty 13) = some .n64 ∧
    modeType (ty 0) = some .i32 ∧ modeType (ty 1) = some .n32 ∧ modeSat (ty 12) = false := by decide +kernel

theorem hyp_GroupWords_moves : ∀ x ∈ [
    word (.gmov 63 1) { gRead := [1], gDest := [63] } { always := true, waits := false },
    word (.gldi 1 0x8000) { gDest := [1] } each, word (.gldih 1 0xFFFF) { gRead := [1], gDest := [1] } each,
    word (.gldix 1 0xFFFF) { gRead := [1], gDest := [1] } each, word (.gldiy 1 0xFFFF) { gRead := [1], gDest := [1] } each,
    word (.gceq 15 1 2) { gRead := [1, 2] } each (ty 12), word (.gclt 0 1 2) { gRead := [1, 2] } each (ty 1)],
    x.Met := allMet (by decide +kernel)

/-- A strand whose clause stands at an address that is no multiple of 4. -/
def oddClause (st : Strand) : Strand :=
  { st with clause := st.clause.map fun k => { k with addr := k.addr + 2#64 } }

theorem hyp_ControlTransfer : ∀ x ∈ [
    word (.bra 0xFFFFFF) {} each, word (.bkz 1 2) {} each 0 id (fun st _ => st.kr 1 &&& maskBelow st.width != 0#64),
    word (.bkz 5 2) {} each 0 id (fun st _ => st.kr 5 &&& maskBelow st.width == 0#64),
    word (.bknz 1 2) {} each 0 id (fun st _ => st.kr 1 &&& maskBelow st.width != 0#64),
    word (.bknz 5 2) {} each 0 id (fun st _ => st.kr 5 &&& maskBelow st.width == 0#64),
    word (.bqt 4 2) {} each 0 (fun st => st.setQ 4 true) (fun st _ => st.group.qr 4),
    word (.bqt 4 2) {} each 0 id (fun st _ => !st.group.qr 4),
    word (.bqf 4 2) {} each 0 (fun st => st.setQ 4 true) (fun st _ => st.group.qr 4),
    word (.bqf 4 2) {} each 0 id (fun st _ => !st.group.qr 4),
    word (.jmpg 3) { gRead := [3] } each 0 id (fun st _ => (st.gr 3).toNat % 4 == 0),
    word (.jmpg 2) { gRead := [2] } each 0 id (fun st _ => (st.gr 2).toNat % 4 != 0 && st.trapLanes != 0#64),
    word (.bra 1) {} each 0 oddClause (fun st _ => (st.target 1).toNat % 4 != 0 && st.trapLanes != 0#64)],
    x.Met := allMet (by decide +kernel)

/-- A strand with n entries on its return stack. -/
def returns (n : Nat) (st : Strand) : Strand :=
  { st with group := { st.group with rstack := List.replicate n 0x10040#64 } }

theorem hyp_CallsAndReturns : ∀ x ∈ [
    word (.call 5) {} each 0 (returns 31) (fun st _ => (st.target 5).toNat % 4 == 0 && st.group.rstack.length != 32),
    word (.callg 3) { gRead := [3] } each 0 (returns 0)
      (fun st _ => (st.gr 3).toNat % 4 == 0 && st.group.rstack.length != 32),
    word .ret {} each 0 (returns 1) (fun st _ => st.group.rstack == [] ++ [0x10040#64]),
    word (.call 5) {} each 0 (returns 32)
      (fun st _ => (st.target 5).toNat % 4 == 0 && st.group.rstack.length == 32 && st.trapLanes != 0#64),
    word .ret {} each 0 id (fun st _ => st.group.rstack == [] && st.trapLanes != 0#64),
    word (.retv 5) { aRegs := [5] } each 0 (fun st => { st with v := [(5, .uniform 0x10040#32)] })
      (fun st _ => st.active != 0#64 && (lanesOf st.active).all (fun l => st.vlane 5 l == 0x10040#32) &&
        (st.codeBase + 0x10040#64).toNat % 4 == 0),
    word (.callg 2) { gRead := [2] } each 0 (returns 32)
      (fun st _ => (st.gr 2).toNat % 4 != 0 && st.trapLanes != 0#64),
    word (.callg 3) { gRead := [3] } each 0 (returns 32)
      (fun st _ => (st.gr 3).toNat % 4 == 0 && st.group.rstack.length == 32 && st.trapLanes != 0#64),
    word (.retv 5) { aRegs := [5] } each 0 (fun st => { st with v := [(5, .affine 0x10040#32 4#32)] })
      (fun st _ => st.active != 0#64 && st.vlane 5 0 != st.vlane 5 1 &&
        (lanesOf st.active).all (fun l => (st.codeBase + (st.vlane 5 l).setWidth 64).toNat % 4 == 0)),
    word (.retv 5) { aRegs := [5] } each 0 (fun st => { st with v := [(5, .affine 0x10040#32 2#32)] })
      (fun st _ => st.active != 0#64 && !((lanesOf st.active).filter fun l =>
        (st.codeBase + (st.vlane 5 l).setWidth 64).toNat % 4 != 0).isEmpty),
    word (.retv 5) { named := [5] } each 0 (fun st => st.setK 0 0#64)
      (fun st _ => st.active == 0#64 && st.live != 0#64)], x.Met := allMet (by decide +kernel)

/-- A loop stack whose one entry ends at the clause of the placed word. -/
def inLoop (n : DWord) (st : Strand) : Strand :=
  { st with group := { st.group with lstack := [⟨0x10000#64, 0x10000#64, n⟩] } }

/-- Two runs of a fetch that answer the same state and the same words, of which p holds. -/
def sameFetch {α : Type} [DecidableEq α] (p : α → Bool) (x y : State × Except Fail α) : Bool :=
  decide (x.1 = y.1) && match x.2, y.2 with
    | .ok a, .ok b => decide (a = b) && p a
    | _, _ => false

/-- No word of an end clause may transfer. -/
def goodEnd (x : DWord × List Word) : Bool := x.2.all fun w => !lastOps.contains (opOf w)

/-- LOOP in the first of two clauses, with NOP in the second. -/
def loopAt (d : BitVec 6) : State :=
  let s := on 0 (.loop d 2)
  { s with mem := s.mem.poke 0x10008 (bytesOfWords [headerWord 0#8 0#12 15#4 15#4 0#3, 0#32]) }

theorem hyp_Loops : ∀ x ∈ ([
    ⟨.loop 5 2, { gRead := [5] }, each, loopAt 5, fun st s => decide (0 < (2 : BitVec 16).toInt) &&
      sameFetch goodEnd (endClause (st.who s.cur.1) (st.target 2) (s.before { gRead := [5] } each st))
        (endClause (st.who s.cur.1) (st.target 2) s) && st.gr 5 == 0#64⟩,
    ⟨.loop 1 2, { gRead := [1] }, each, loopAt 1, fun st s => decide (0 < (2 : BitVec 16).toInt) &&
      sameFetch goodEnd (endClause (st.who s.cur.1) (st.target 2) (s.before { gRead := [1] } each st))
        (endClause (st.who s.cur.1) (st.target 2) s) && st.gr 1 != 0#64 &&
      st.group.lstack.length != 4⟩,
    word .lexit {} each 0 (inLoop 3#64) (fun st s => sameFetch (fun ws => ws.length == 1)
      (fetchWords (st.who s.cur.1) 1 0x10000#64 s) (fetchWords (st.who s.cur.1) 1 0x10000#64 (s.before {} each st))),
    word .lexit {} each 0 id (fun st _ => st.group.lstack == [] && st.trapLanes != 0#64)] : List Case),
    x.Met := allMet (by decide +kernel)

/-- LOOP with an offset that is not above 0, with an end clause that cannot be fetched, with BRA in its end clause, and with
four entries. -/
theorem hyp_Loops_traps : ∀ x ∈ ([
    ⟨.loop 1 0, { gRead := [1] }, each, loopAt 1, fun st _ => decide ((0 : BitVec 16).toInt ≤ 0) && st.trapLanes != 0#64⟩,
    word (.loop 1 0x7FFF) { gRead := [1] } each 0 id (fun st s =>
      match (endClause (st.who s.cur.1) (st.target 0x7FFF) s).2 with
        | .error _ => st.trapLanes != 0#64
        | .ok _ => false),
    ⟨.loop 1 2, { gRead := [1] }, each,
      { loopAt 1 with mem := (loopAt 1).mem.poke 0x10008 (bytesOfWords [headerWord 0#8 0#12 15#4 15#4 0#3, 0x03000000#32]) },
      fun st s => match (endClause (st.who s.cur.1) (st.target 2) s).2 with
        | .ok (_, ws) => ws.any fun w => lastOps.contains (opOf w)
        | .error _ => false⟩,
    ⟨.loop 1 2, { gRead := [1] }, each, (loopAt 1).modHere fun st =>
        { st with group := { st.group with lstack := List.replicate 4 ⟨0x20000#64, 0x20000#64, 1#64⟩ } },
      fun st s => match (endClause (st.who s.cur.1) (st.target 2) s).2 with
        | .ok x => goodEnd x && st.gr 1 != 0#64 && st.group.lstack.length == 4
        | .error _ => false⟩] : List Case), x.Met := allMet (by decide +kernel)

theorem hyp_ExitEndsTheActiveThreads : ∀ x ∈ [
    word .exit {} { ends := true },
    word .exit {} { ends := true } 0 (fun st => { st.setK 0 1#64 with member := false })
      (fun st _ => st.live &&& ~~~ st.active != 0#64 && !st.member && launchOwn st.launch)],
    x.Met := allMet (by decide +kernel)

theorem hyp_Selectors : ∀ x ∈
    (List.range 7).map (fun n => word (.sreg 255 (BitVec.ofNat 16 n)) { dests := [255] } {}) ++
    [word (.sreg 255 7) { dests := [255] } {} 0 (fun st => { st with mode := .s })] ++
    (List.range 13).map (fun n => word (.gsreg 63 (BitVec.ofNat 16 n)) { gDest := [63] } each), x.Met :=
  allMet (by decide +kernel)

/-- No flag is enabled, so no lane traps. -/
def noTraps (st : Strand) (_ : State) : Bool := st.group.aten == 0#5

/-- A word that reads registers 6 and, if two is set, 8, and writes register 4, which it reads too if readD is set. -/
def elem (i : Instr) (m : Word) (two readD : Bool := false) : Case :=
  word i (elemUse m 4 6 (if two then some 8 else none) readD) {} m id noTraps

theorem hyp_VectorOperations_numbers : ∀ x ∈ [
    elem (.add 4 6 8) (ty 0) true, elem (.add 4 6 8) (ty 12) true, elem (.add 4 6 8) (ty 2) true,
    elem (.sub 4 6 8) (ty 7) true, elem (.mul 4 6 8) (ty 13) true, elem (.mulh 4 6 8) (ty 1) true,
    elem (.mad 4 6 8) (ty 9) true true, elem (.msb 4 6 8) (ty 4) true true, elem (.rem 4 6 8) (ty 0) true,
    elem (.min 4 6 8) (ty 3) true, elem (.max 4 6 8) (ty 5) true, elem (.abs 4 6) (ty 2), elem (.neg 4 6) (ty 10)],
    x.Met := allMet (by decide +kernel)

theorem hyp_VectorOperations_bits : ∀ x ∈ [
    elem (.and 4 6 8) (ty 0) true, elem (.or 4 6 8) (ty 12) true, elem (.xor 4 6 8) (ty 1) true, elem (.not 4 6) (ty 13),
    elem (.shl 4 6 8) (ty 5) true, elem (.shr 4 6 8) (ty 8) true, elem (.sar 4 6 8) (ty 12) true,
    elem (.rol 4 6 8) (ty 0) true, elem (.clz 4 6) (ty 12), elem (.pop 4 6) (ty 6), elem (.brev 4 6) (ty 7),
    elem (.bfe 4 6 8) (ty 0) true, elem (.bfi 4 6 8) (ty 1) true true], x.Met := allMet (by decide +kernel)

theorem hyp_VectorOperations_functions : ∀ x ∈ [
    elem (.rcp 4 6) (ty 2), elem (.rsq 4 6) (ty 4), elem (.sqrt 4 6) (ty 3), elem (.ex2 4 6) (ty 4), elem (.lg2 4 6) (ty 4),
    elem (.rint 4 6) (ty 9), elem (.scl 4 6 8) (ty 2) true, elem (.fcls 4 6) (ty 10)], x.Met := allMet (by decide +kernel)

/-- Every flag enabled, and the f32 words x in every lane of register 6 and of register 8. -/
def trapping (x : Word) (st : Strand) : Strand :=
  { st with v := [(6, .uniform x), (8, .uniform x)], group := { st.group with aten := 0x1F#5 } }

/-- Whether a lane of an f32 word raises an enabled flag. -/
def raises (f : Arith → ElemOp) (two : Bool) (st : Strand) (_ : State) : Bool :=
  (lanesOf st.active).any fun l => (mapElems .f32 (f (arithOf st.group.mode)) (st.vval false 6 l)
    (if two then st.vval false 8 l else 0) 0).2 &&& st.group.aten != 0#5

theorem hyp_VectorOperations_traps : ∀ x ∈ [
    word (.add 4 6 8) (elemUse (ty 2) 4 6 (some 8) false) {} (ty 2) (trapping 0x7F800001#32) (raises elAdd true),
    word (.rsq 4 6) (elemUse (ty 2) 4 6 none false) {} (ty 2) (trapping 0x80000001#32) (raises (elFloat Fmt.rsq) false),
    word (.lg2 4 6) (elemUse (ty 2) 4 6 none false) {} (ty 2) (trapping 0#32) (raises (elFloat Fmt.lg2) false),
    word (.mul 4 6 8) (elemUse (ty 2) 4 6 (some 8) false) {} (ty 2) (trapping 0x7F7FFFFF#32) (raises elMul true),
    word (.rcp 4 6) (elemUse (ty 2) 4 6 none false) {} (ty 2) (trapping 0#32) (raises (elFloat Fmt.rcp) false)],
    x.Met := allMet (by decide +kernel)

/-- A strand none of whose lanes is active. -/
def idleStrand : Strand := filled 0 (guestStrand false 0#32) |>.setK 0 0#64

theorem hyp_RegistersNotReady_idle :
    ((placed .nop).setHere idleStrand).here? = some idleStrand ∧ idleStrand.active = 0#64 ∧
    checkWord idleStrand (.add 4 6 8) (elemUse 0 4 6 (some 8) false) true = none ∧
    checkWord idleStrand (.mov 4 6) (elemUse 0 4 6 none false) true = none ∧
    checkWord idleStrand (.pand 1 1 2) {} true = none ∧
    checkWord idleStrand (.sst 4 6 0) (opUse (.sst 4 6 0) 0) true = none ∧
    checkWord idleStrand (.ld 4 6 0) (opUse (.ld 4 6 0) 0) (opModeOk (.ld 4 6 0) 0) = none := by decide +kernel

/-- What stands in the way of ADD in a strand whose register 6 is pending, and in one whose register 6 is empty. -/
theorem hyp_RegistersNotReady_traps :
    checkRegs (filled 0 (guestStrand false 0#32) |>.pendV [6] true) (elemUse 0 4 6 (some 8) false) = some .unwaitedRead ∧
    checkRegs (filled 0 (guestStrand false 0#32) |>.freeV 6) (elemUse 0 4 6 (some 8) false) = some .emptyRegister ∧
    checkWord (filled 0 (guestStrand false 0#32)) (.add 4 6 8) (elemUse 0 4 6 (some 8) false) true = none := by decide +kernel

/-- What stands in the way of words of each shape named in the statement: a pending register, or an empty one. -/
theorem hyp_RegistersNotReady_shapes :
    let pend (st : Strand) : Strand := (st.pendV [6, 10] true).pendG 1 true
    let free (st : Strand) : Strand := (st.freeV 6).freeV 10
    let met (f : Strand → Strand) (k : Cause) (x : Instr × (Word → Use) × (Word → Form) × Word) : Bool :=
      let s := on x.2.2.2 x.1 f
      match s.here? with
      | none => false
      | some st =>
        let m := st.group.mode
        (checkWord st x.1 (x.2.1 m) (x.2.2.1 m).types).isNone && ((x.2.2.1 m).always || st.active != 0#64) &&
        (x.2.1 m).gRead.all (fun g => ((s.core s.cur.1).boundTo st.lineage g).isNone) && checkRegs st (x.2.1 m) == some k &&
        (s.noRoom (if isReplayed x.1 then opNeeds x.1 else []) (x.2.1 m) (x.2.2.1 m) st).isNone
    let two (i : Instr) (m : Word) (d : Bool) (t : ElemType → Bool) : Instr × (Word → Use) × (Word → Form) × Word :=
      (i, fun m => elemUse m 4 6 (some 8) d, fun m => { types := typeIs m t }, m)
    let xs : List (Instr × (Word → Use) × (Word → Form) × Word) := [
      (.ld 4 5 0, opUse (.ld 4 5 0), fun m => { types := opModeOk (.ld 4 5 0) m, ends := opEnds (.ld 4 5 0) m }, 0),
      two (.mulh 4 6 8) 0 false ElemType.isInt, two (.bfe 4 6 8) 0 false typesWord, two (.scl 4 6 8) (ty 2) false typesFloat,
      two (.mad 4 6 8) 0 true typesNum, two (.bfi 4 6 8) 0 true typesWord,
      (.rcp 4 6, fun m => elemUse m 4 6 none false, fun m => { types := typeIs m ElemType.isFlt }, ty 2),
      (.mov 4 6, fun m => elemUse m 4 6 none false, fun m => { types := (modeType m).isSome }, 0),
      (.ceq 4 6 8, fun m => { aRegs := regsT (isWide m) 6, reads := regsT (isWide m) 8,
                              even := (if isWide m then [6, 8] else []) }, fun m => { types := typeIs m typesCmp }, 0)]
    xs.all (met pend .unwaitedRead) = true ∧ xs.all (met free .emptyRegister) = true ∧
    met pend .unwaitedRead (.gadd 3 1 2, fun _ => { gRead := [1, 2], gDest := [3] },
      fun m => { types := typeIs m typesGroup, always := true }, 0) = true := by decide +kernel

theorem hyp_RegisterWritesAndLastReads :
    (guestStrand false 0#32).width = 8 ∧ (filled 0 (guestStrand false 0#32)).live &&& ~~~ 0xFF#64 = 0#64 ∧
    (filled 0 { guestStrand false 0#32 with clause := some ⟨0#64, headerWord 1#8 0#12 15#4 15#4 0#3, [0#32], 0⟩ }).marked
      = true ∧ (guestStrand false 0#32).marked = false ∧ (guestStrand false 0#32).vreg? 6 = none := by decide +kernel

theorem hyp_VectorMoves : ∀ x ∈ [
    word (.mov 4 6) (elemUse (ty 12) 4 6 none false) {} (ty 12), word (.ldi 255 0x8000) { dests := [255] } {},
    word (.ldih 4 0x8000) { reads := [4], dests := [4] } {},
    word (.mov 4 6) (elemUse (ty 2) 4 6 none false) {} (ty 2) id
      (fun st _ => !isWide st.group.mode && st.live &&& ~~~ st.active == 0#64 && (st.vreg? 6).isSome),
    word (.sel 4 6 8) (elemUse 0x8100#32 4 6 (some 8) false) each 0x8100#32 id
      (fun st _ => st.unguarded != 0#64 && !isWide st.group.mode && st.guardMask != ~~~ 0#64)], x.Met :=
  allMet (by decide +kernel)

/-- CVT from a type to another: the blocks start at register 6 and at register 4. -/
def convert (src dst : Nat) (s t : ElemType) : Case :=
  let e := cvtElems s t
  word (.cvt 4 6 (BitVec.ofNat 4 dst))
    { aRegs := regs 6 (blockOf s e), dests := regs 4 (blockOf t e),
      even := (if s.is64 then [6] else []) ++ if t.is64 then [4] else [] } {} (ty src) id
    fun st s' => decide (ElemType.ofCode dst = some t) && decide (ElemType.ofCode src = some s) && noTraps st s'

theorem hyp_Conversion : ∀ x ∈ [
    convert 0 13 .i32 .n64, convert 13 0 .n64 .i32, convert 2 11 .f32 .q4nx8, convert 7 2 .i8x4 .f32,
    convert 12 12 .i64 .i64], x.Met := allMet (by decide +kernel)

/-- A comparison of registers 6 and 8 to predicate 127. -/
def compare (i : Instr) (m : Word) : Case :=
  let w := isWide m
  word i { aRegs := regsT w 6, reads := regsT w 8, even := if w then [6, 8] else [] } {} m id noTraps

theorem hyp_ComparisonsAndPredicates : ∀ x ∈ [
    compare (.ceq 127 6 8) (ty 13), compare (.cne 127 6 8) (ty 0), compare (.clt 127 6 8) (ty 2),
    compare (.cle 127 6 8) (ty 12), compare (.cun 127 6 8) (ty 2),
    word (.pand 127 1 2) {} {}, word (.por 1 1 2) {} {}, word (.pxor 0 1 2) {} {}, word (.pnot 127 1) {} {}], x.Met :=
  allMet (by decide +kernel)

/-- An enabled flag in every lane: a comparison, a conversion, a sine and a reduction of NaNs that signal. -/
theorem hyp_LaneTraps : ∀ x ∈ [
    word (.ceq 127 6 8) { aRegs := [6], reads := [8] } {} (ty 2) (trapping 0x7F800001#32) (fun st _ =>
      (lanesOf st.active).any fun l =>
        (compareElem .eq .f32 (st.vval false 6 l) (st.vval false 8 l)).2 &&& st.group.aten != 0#5),
    word (.cvt 4 6 0) { aRegs := [6], dests := [4] } {} (ty 2) (trapping 0x7F800001#32) (fun st _ =>
      decide (blockOf .f32 (cvtElems .f32 .i32) = 1) && (lanesOf st.active).any fun l =>
        (cvtLane .i32 6 st l).2 &&& st.group.aten != 0#5),
    word (.sinpi 4 6) (elemUse (ty 2) 4 6 none false) {} (ty 2) (trapping 0x7F800001#32) (fun st _ =>
      (lanesOf st.active).any fun l =>
        (Fmt.f32.sinCosPi true false (Fmt.f32.value (st.vlane 6 l).toNat)).2 &&& st.group.aten != 0#5),
    word (.radd 3 6) { aRegs := [6], gDest := [3] } {} (ty 2) (trapping 0x7F800001#32) (fun st _ =>
      (reduceLanes elAdd 6 st).2 &&& st.group.aten != 0#5)], x.Met := allMet (by decide +kernel)

theorem hyp_SinesAndCosines : ∀ x ∈ [
    word (.sinpi 4 6) (elemUse (ty 2) 4 6 none false) {} (ty 2) (fun st => { st with v := [(6, .uniform 0#32)] }) noTraps,
    word (.cospi 4 6) (elemUse (ty 3) 4 6 none false) {} (ty 3) (fun st => { st with v := [(6, .uniform 0#32)] }) noTraps],
    x.Met := allMet (by decide +kernel)

theorem hyp_LaneMoves : ∀ x ∈ [
    word (.shfl 4 6 8) (elemUse 0 4 6 (some 8) false) {}, word (.shfx 4 6 63) (elemUse (ty 12) 4 6 none false) {} (ty 12),
    word (.shup 4 6 1) (elemUse 0 4 6 none false) {}, word (.shdn 4 6 7) (elemUse 0 4 6 none false) {},
    word (.bcst 4 6 1) { elemUse 0 4 6 none false with gRead := [1] } {},
    word (.gtov 4 1) { dests := regsT true 4, even := [4], gRead := [1] } {} (ty 13),
    word (.vtog 63 6) { aRegs := [6], gDest := [63] } {}], x.Met := allMet (by decide +kernel)

/-- A reduction of register 6 to g register 3. -/
def reduction (i : Instr) (m : Word) (p : Strand → Bool) : Case :=
  let w := isWide m
  word i { aRegs := regsT w 6, even := if w then [6] else [], gDest := [3] } {} m id fun st _ => p st

theorem hyp_ReductionsAndConflicts : ∀ x ∈ [
    reduction (.radd 3 6) (ty 2) (fun st => (reduceLanes elAdd 6 st).2 &&& st.group.aten == 0#5),
    reduction (.rmin 3 6) (ty 12) (fun st => (reduceLanes (elMinMax false) 6 st).2 &&& st.group.aten == 0#5),
    reduction (.rmax 3 6) (ty 9) (fun st => (reduceLanes (elMinMax true) 6 st).2 &&& st.group.aten == 0#5),
    word (.confl 15 6) { aRegs := [6] } {}], x.Met := allMet (by decide +kernel)

theorem hyp_ReductionsAndConflicts_idle : ∀ i ∈ [Instr.radd 3 6, .rmin 3 6, .rmax 3 6],
    checkWord idleStrand i { aRegs := [6], gDest := [3] } true = none ∧ idleStrand.active = 0#64 := by decide +kernel

/-- CMPRS of a block at 6 to a block at 16, and EXPND of one at 6 to one at 16, under a control word in g1. -/
def packs (ctl : DWord) : List Case :=
  let f (st : Strand) : Strand := st.setG 1 ctl
  let ok (st : Strand) (s : State) : Bool := ctlOk (st.gr 1) && !st.gpend.getLsbD 1 && typeIs st.group.mode typesCompress &&
    ((s.core s.cur.1).boundTo st.lineage 1).isNone
  [word (.cmprs 16 6 1) { aRegs := regs 6 (ctlGroup ctl), dests := regs 16 (1 + packedRegs .i32 ctl), gRead := [1] } {} 0 f
    ok,
  word (.expnd 16 6 1) { aRegs := regs 6 (1 + packedRegs .i32 ctl), dests := regs 16 (ctlGroup ctl), gRead := [1] } {} 0 f
    ok]

theorem hyp_Compression : ∀ x ∈ packs 0x400#64 ++ packs 0x10000#64 ++ packs 0x801#64, x.Met :=
  allMet (by decide +kernel)

/-- A reserved bit, a group code of 2, and k above the group, be it ignored or not. -/
theorem hyp_Compression_limits : ∀ x ∈ [(0x8#64 : DWord), 0x2#64, 0x900#64, 0x10900#64].flatMap (fun ctl =>
      [Instr.cmprs 16 6 1, .expnd 16 6 1].map fun i =>
        word i { aRegs := regs 6 1, dests := regs 16 1, gRead := [1] } { types := typeIs 0 typesCompress } 0
          (fun st => st.setG 1 ctl) (fun st _ => st.active != 0#64 && !ctlOk (st.gr 1))), x.Met := allMet (by decide +kernel)

/-- The form of a word of the table-space or scratch group in a mode. -/
def opForm (i : Instr) (m : Word) : Form := { types := opModeOk i m, ends := opEnds i m }

/-- The word i of the table-space or scratch group is ready in a state, of which p holds, and answers a next state. -/
def opGood (i : Instr) (p : Strand → State → Bool) (s : State) : Bool :=
  match s.here? with
  | none => false
  | some st =>
    Case.good ⟨i, opUse i st.group.mode, opForm i st.group.mode, s, p⟩ &&
    st.active != 0#64 && (firstFault (opChecks s.cur.1 st (s.newOpHere i st) s)).isEmpty &&
    !(s.core s.cur.1).queueFull s.cur.2 && (isScratchOp i || decide (((s.before (opUse i st.group.mode)
      (opForm i st.group.mode) st).core s.cur.1).requests + popCount st.active ≤ 2048))

theorem opMet {i : Instr} {p : Strand → State → Bool} {s : State} (h : opGood i p s = true) :
    ∃ st t, OpReady i st s ∧ p st s = true ∧ exec i s = .next t := by
  unfold opGood at h
  split at h
  · cases h
  · rename_i st hs
    simp only [Bool.and_eq_true, Bool.not_eq_true', bne_iff_ne, ne_eq, List.isEmpty_iff, Bool.or_eq_true,
      decide_eq_true_eq] at h
    obtain ⟨⟨⟨⟨h1, h3⟩, h4⟩, h5⟩, h6⟩ := h
    obtain ⟨x, t, r, hp, ht⟩ := Case.met h1
    have hx : x = st := Option.some.inj (r.here.symm.trans hs)
    subst hx
    exact ⟨x, t, ⟨r, h3, h4, h5, h6⟩, hp, ht⟩

/-- References and scratch addresses in registers 10:11: lane l at 4 l above a base; 12:13 hold zero. -/
def refs (base : Word) (st : Strand) : Strand :=
  { st with v := someVectors.take 10 ++ [(10, .affine base 4#32), (11, .uniform 0#32), (12, .uniform 0#32),
    (13, .uniform 0#32)] }

/-- Words of the table-space group, each with the mode word it is issued under. -/
def tableWords : List (Instr × Word) := [
  (.lkp 1 5 1, 0), (.ins 1 5 1, 0), (.ups 1 5 1, 0), (.del 1 5 1, 0), (.rekey 1 5 1, 0), (.ld 4 5 255, 0x10000),
  (.st 4 5 0, 0), (.atom 4 5 0, 0x700000), (.ldrow 4 6 1, 0), (.ratom 4 6 0, 0x10), (.copen 4 5 1, 0), (.cstep 2 3, 0),
  (.cstepn 2 3, 0), (.cseek 4 5, 0)]

theorem tableWords_good : (tableWords.all fun x =>
    opGood x.1 (fun _ _ => isReplayed x.1 && !isScratchOp x.1) (on x.2 x.1 (refs 0x20000#32))) = true := by decide +kernel

theorem hyp_TableOperationsIssue : ∀ x ∈ tableWords, ∃ st t, OpReady x.1 st (on x.2 x.1 (refs 0x20000#32)) ∧
    (isReplayed x.1 && !isScratchOp x.1) = true ∧ exec x.1 (on x.2 x.1 (refs 0x20000#32)) = .next t :=
  fun x hx => opMet (List.all_eq_true.mp tableWords_good x hx)

/-- A misaligned load of a strand with 16 operations in flight, and a load where another strand's leave no table request entry. -/
theorem hyp_TableOperationsIssue_room :
    let i : Instr := .ld 4 5 0
    let s := on 0 i (refs 2#32)
    let fill (n slot : Nat) : State := match s.here? with
      | none => s
      | some st => s.modCore 0 fun k => { k with ops := List.replicate n { s.newOpHere i st with slot := slot, todo := ~~~ 0#64 } }
    isReplayed i = true ∧ isScratchOp i = false ∧ ((fill 16 0).core 0).queueFull 0 = true ∧
    ((fill 32 1).core 0).queueFull 0 = false ∧ (match s.here? with
      | none => false
      | some st => st.active != 0#64 && (opUse i 0).gRead.isEmpty &&
          2048 < (((fill 32 1).unbindDests st.lineage (opUse i 0).gDest).core 0).requests + popCount st.active) = true := by
  decide +kernel

/-- Two granules of scratch that core 0 holds for the block. -/
def hold (publ : Option Publication) (s : State) : State :=
  s.modCore 0 fun k => { k with buffers := [⟨0, 2, 1, 0, 0#64, some 0, false, publ, false⟩], allocSer := 1 }

/-- One active lane, lane 7. -/
def lane7 (st : Strand) : Strand := st.setK 0 0x80#64

/-- Words of the scratch group, each in its state. -/
def scratchWords : List (Instr × State) := [
  (.sld 4 10 255, hold none (on 0x10000#32 (.sld 4 10 255) (refs 0#32))),
  (.sst 4 10 0, hold none (on 0x10000#32 (.sst 4 10 0) (refs 0#32))),
  (.satom 4 10 0, hold none (on 0 (.satom 4 10 0) (refs 10208#32))),
  (.satom 4 10 0, hold none (on 0 (.satom 4 10 0) fun st => lane7 (refs 10208#32 st)))]

/-- The failures of the sectors that the active lanes reach. -/
def badLanes (i : Instr) (st : Strand) (s : State) : List (Option Cause) :=
  (lanesOf st.active).map fun l => (s.core (s.scratchOf i st l).1).badRange (s.scratchOf i st l).2 (4 * wordCount i st.group.mode)

theorem scratchWords_good : (scratchWords.all fun x => opGood x.1 (fun st s =>
    ((s.core 0).strandOps 0).isEmpty && !(s.core 0).gathers 0 ((s.core 0).gen 0) && (badLanes x.1 st s).all Option.isNone) x.2) = true := by decide +kernel

theorem hyp_ScratchAccesses : ∀ x ∈ scratchWords, ∃ st t, OpReady x.1 st x.2 ∧
    (((x.2.core 0).strandOps 0).isEmpty && !(x.2.core 0).gathers 0 ((x.2.core 0).gen 0) && (badLanes x.1 st x.2).all Option.isNone) = true ∧ exec x.1 x.2 = .next t :=
  fun x hx => opMet (List.all_eq_true.mp scratchWords_good x hx)

/-- SLD and SATOM of lane 7, whose word lies in a poisoned sector, or in one whose code is that of other bytes. -/
theorem hyp_ScratchAccesses_bad :
    let spoil (e : List (Nat × BitVec 16)) (p : List Nat) (s : State) : State :=
      s.modCore 0 fun k => { k with scratchErr := e, scratchPoison := p }
    let at7 (i : Instr) : State := hold none (on 0 i fun st => lane7 (refs 0#32 st))
    ([(.sld 4 10 0, spoil [] [0] (at7 (.sld 4 10 0)), .uncorrectable),
      (.satom 4 10 0, spoil [(0, 1#16)] [] (at7 (.satom 4 10 0)), .integrity)] : List (Instr × State × Cause)).all (fun x =>
        opGood x.1 (fun st s => ((s.core 0).strandOps 0).isEmpty && !(s.core 0).gathers 0 ((s.core 0).gen 0) &&
          lanesOf st.active == [7] && badLanes x.1 st s == [some x.2.2]) x.2.1) = true := by decide +kernel

/-- SST of eight words of lane 7 to the whole of a poisoned sector. -/
theorem hyp_ScratchAccesses_sector :
    let i : Instr := .sst 4 12 0
    let s := (hold none (on 0x70000#32 i fun st => lane7 (refs 0#32 st))).modCore 0 fun k => { k with scratchPoison := [0] }
    opGood i (fun st s => ((s.core 0).strandOps 0).isEmpty && !(s.core 0).gathers 0 ((s.core 0).gen 0) &&
      lanesOf st.active == [7] && wordCount i st.group.mode == 8 && s.scratchOf i st 7 == (0, 0) &&
      (s.core 0).badSector 0 == some .uncorrectable) s = true := by decide +kernel

theorem hyp_ScratchAccesses_one_lane : lanesOf (lane7 (guestStrand false 0#32)).active = [7] := by decide +kernel

/-- The first state of a step's outcome. -/
def after (r : Result) : State :=
  match r with
  | .next t => t
  | _ => State.reset

/-- A table of kind k, number 9 and generation 1, with every index and key 5 in its hash index. -/
def someTable (k : Nat) : Table :=
  { gen := 1, domain := 0, desc := ⟨k, 1, 1, 0, 64, 16, 0, 0, [0], 1, 64, 0⟩, base := 0x100000, pages := [256], rows := [],
    hash := [⟨5, 0x100040⟩], prim := ⟨[], []⟩, sec2 := ⟨[], []⟩, sec3 := ⟨[], []⟩, counters := [] }

/-- DIV, a scratch load and a lookup that have issued: each is the one operation of the core. -/
def issued : List (Instr × State) :=
  [.div 4 6 8, .sld 4 10 0].map (fun i => (i, after (exec i (hold none (on 0 i (refs 0#32)))))) ++
  [(.lkp 1 5 1, after (exec (.lkp 1 5 1)
    { (on 0 (.lkp 1 5 1) fun st => (refs 5#32 st).setG 1 (makeHandle 0 9 0 1)) with tables := [(9, someTable 2)] }))]

theorem hyp_DivisionAndReturns_issue : ∀ x ∈ [
    word (.div 4 6 8) (opUse (.div 4 6 8) (ty 0)) {} (ty 0) id noTraps,
    word (.div 4 6 8) (opUse (.div 4 6 8) (ty 13)) {} (ty 13) id noTraps,
    word (.div 4 6 8) (opUse (.div 4 6 8) (ty 2)) {} (ty 2) id noTraps], x.Met := allMet (by decide +kernel)

/-- A division of every lane by zero, with IV and DZ enabled. -/
theorem hyp_DivisionAndReturns_traps : ∀ x ∈ [
    word (.div 4 6 8) (opUse (.div 4 6 8) (ty 0)) { types := typeIs (ty 0) typesDiv } (ty 0)
      (fun st => { st with v := Assoc.set st.v 8 (.uniform 0#32), group := { st.group with aten := 0x1F#5 } })
      (fun st _ => st.active != 0#64 && (lanesOf st.active).any fun l =>
        (elemLane elDiv 4 6 (some 8) false st l).2 &&& st.group.aten != 0#5)], x.Met := allMet (by decide +kernel)

/-- A load of one word for every lane. -/
theorem hyp_DivisionAndReturns_uniform : (
    let i : Instr := .ld 4 5 0
    let s := after (exec i (on 0 i fun st => { st with v := [(10, .uniform 0x10000#32), (11, .uniform 0#32)] }))
    match (s.core 0).ops[0]? with
    | none => false
    | some o =>
      let r := s.performOp 0 o false false (~~~ 0#64)
      o.uniform && s.eligible 0 0 && r.2.todo == 0#64 && r.2.faults.isEmpty &&
        (lanesOf r.2.written).all fun l => Assoc.get [] r.2.results l == Assoc.get [] r.2.results 0) = true := by
  decide +kernel

/-- Division and a scratch load return as they stand; a lookup of all its lanes is performed first. -/
theorem hyp_DivisionAndReturns_return : (issued.all fun x =>
    match (x.2.core 0).ops[0]? with
    | none => false
    | some o => o.instr == x.1 && !o.uniform && x.2.here?.isSome && ((x.2.core 0).gen 0 == o.gen) &&
      (match x.1 with
       | .div .. => true
       | .sld .. => o.todo == 0#64
       | _ =>
         let r := x.2.performOp 0 o false false (~~~ 0#64)
         o.todo != 0#64 && x.2.eligible 0 0 && x.2.remoteMask 0 o == 0#64 && r.2.todo == 0#64 && r.2.faults.isEmpty &&
           decide ((r.1.core 0).ops = (x.2.core 0).ops) && r.2.slot == o.slot && r.2.gen == o.gen)) = true := by
  decide +kernel

/-- The same when the slot has moved to another generation: the results have destinations, and the generations differ. -/
theorem hyp_DivisionAndReturns_dropped : (issued.all fun x =>
    let s := x.2.modCore 0 fun k => { k with gens := [(0, 1#8)] }
    match (s.core 0).ops[0]? with
    | none => false
    | some o => ((s.core 0).gen o.slot != o.gen) && !(opUse o.instr o.mode).dests.isEmpty) = true := by decide +kernel

/-- Handles that name a table with indices, and handles that name no table: of another number, or of another generation. -/
theorem hyp_TableLookups :
    let s : State := { State.reset with tables := [(9, someTable 2), (10, someTable 3)] }
    s.usable (makeHandle 0 9 0 1) true = some (someTable 2) ∧ (someTable 2).desc.kind = 2 ∧
    s.usable (makeHandle 0 8 0 1) true = none ∧ s.usable (makeHandle 0 9 0 2) true = none ∧
    s.usable (makeHandle 0 9 1 1) false = none ∧ s.usable 0#64 true = none ∧ s.usable 0#64 false = none := by decide +kernel

/-- A domain whose threads may run on every core of the first two clusters, and block 5 of the paged store in stack 3. -/
def world (s : State) : State :=
  { s with domains := [(0, ⟨0, 0, 0#10, (List.range 320)⟩)], blockBase := 0x300000,
           mem := s.mem.poke 0x300028 (bytesOf 8 (2 ^ 63 + 3 * 2 ^ 36)) }

/-- A far reference to block n of tier t of this package (Table 7-4). -/
def farRef (t n : Nat) : DWord := BitVec.ofNat 64 (2 ^ 63 + t * 2 ^ 51 + n * 2 ^ 14)

/-- A reference to block n of package 1. -/
def farAway (n : Nat) : DWord := BitVec.ofNat 64 (2 ^ 63 + 2 ^ 53 + n * 2 ^ 14)

/-- A store of rows of 64 bytes at 0x20000 for core 0: table 9, of kind 2, row 0 live, with secondary index 2 in field f. -/
def rowStore (f : Option Nat) (s : State) : State :=
  let d : TableDesc := ⟨2, if f.isSome then 5 else 1, 1, 0, 64, 16, f.getD 0, 0, [0], 1, 64, 0⟩
  { s.modCore 0 fun k => { k with tlb := ⟨0, false, 0x20000, 0x10000, 0x1000000, true, false, true, 2, true⟩ :: k.tlb } with
    tables := [(9, { someTable 2 with desc := d, rows := [(0, ⟨.live, 5, 3#32⟩)] })] }

/-- The access i that has issued in a state with that store. -/
def accessing (i : Instr) (m : Word) (f : Option Nat := none) : State :=
  after (exec i (rowStore f (on m i (refs 0x20000#32))))

/-- Operation 0 of core 0 has every lane to perform and may perform them, a bank set that is listed nowhere is active, and p
holds of it. -/
def mayPerform (p : Op → Bool) (s : State) : Bool :=
  match (s.core 0).ops[0]? with
  | none => false
  | some o => o.todo == 0xFF#64 && o.faults.isEmpty && o.results.isEmpty && s.eligible 0 0 && s.remoteMask 0 o == 0#64 &&
    s.banks.isEmpty && p o && (match exec (.tableOpComplete 0 0 (~~~ 0#64) false) s with
      | .next t => (t.core 0).ops.isEmpty
      | _ => false)

/-- The word at reference x is reached at pa for an access. -/
def reached (s : State) (w : Who) (a : Access) (x pa : Nat) : Bool :=
  pa % 4 == 0 && s.sectorGood w (pa / 32) && !isFar x && !badNear x && decide ((s.translate w x a).1 = s) &&
  (match (s.translate w x a).2 with
    | .ok y => y == pa
    | .error _ => false)

/-- What a performed access needs: every lane at its word of the row store, no secondary field met. -/
theorem hyp_PerformedAccesses : ([(.ld 4 5 1, 0x10000), (.st 4 5 1, 0), (.atom 4 5 1, 0), (.ldrow 4 5 1, 0),
    (.ratom 4 5 1, 0x10)] : List (Instr × Word)).all (fun x =>
      let s := accessing x.1 x.2
      mayPerform (fun o => o.instr == x.1 && !o.uniform && o.aclass != .inv && (lanesOf o.todo).all fun l =>
        let at' := o.addr l + match x.1 with
          | .ldrow .. | .ratom .. => 4 * (o.startWord + l)
          | _ => 0
        reached s (o.who 0) .read at' (at' + 0xFE0000) && reached s (o.who 0) .write at' (at' + 0xFE0000) &&
        reached s (o.who 0) .read (at' + 4) (at' + 0xFE0004) &&
        (match s.placeOf (o.who 0) (o.addr l) with
          | some p => !p.hitsField 1 && p.row == 0
          | none => false) && ((s.lanePlaces 0 o l).all fun p => !p.hitsField 1) &&
        (s.rowBars 0 o (s.placeOf (o.who 0) (o.addr 0))).isEmpty && (match x.1 with
          | .st .. => (o.data l).length == modeCount o.mode
          | _ => true)) s) = true := by decide +kernel

/-- Stores that meet the secondary field in word 1: of lane 0, and for RATOM of lane 1. -/
theorem hyp_PerformedAccesses_bypass : ([.st 4 5 1, .ratom 4 5 0] : List Instr).all (fun i =>
    let s := accessing i 0x10 (some 1)
    match (s.core 0).ops[0]? with
    | none => false
    | some o => o.faults.isEmpty && o.todo.getLsbD 1 && (match s.placeOf (o.who 0) (o.addr 0), i with
      | some p, .ratom .. => ({ p with off := p.off + 4 * (o.startWord + 1) } : StorePlace).hitsField 1
      | some _, .st .. => (s.lanePlaces 0 o 0).any fun p => p.hitsField 1
      | _, _ => false)) = true ∧
    (let s := accessing (.atom 4 5 1) 0 (some 1)
     match (s.core 0).ops[0]? with
     | none => false
     | some o => match s.placeOf (o.who 0) (o.addr 0) with
       | some p => p.hitsField 1
       | none => false) = true := by decide +kernel

/-- Block 5 of the paged store with sector 0 held and sector 1 not, and a word of it in the held sector. -/
theorem hyp_PerformedAccesses_far :
    let s : State := world (accessing (.ld 4 5 1) 0)
    let s := { s with mem := s.mem.poke 0x3000000000 [1#8] }
    let x (n : Nat) : Nat := (farRef 0 5).toNat + n
    let e := s.entryOf 5
    s.banks = [] ∧ isFar (x 4) = true ∧ badFar (x 4) = false ∧ farBlock (x 4) = 5 ∧ e.valid = true ∧ x 4 % 4 = 0 ∧
    (s.entrySector 5 :: (e.mapSectors 0 ++ e.mapSectors 1)).all (fun n => s.sectorGood Who.nobody n) = true ∧
    s.blockSector e (farOffset (x 32) / 32) = none ∧
    (match s.blockSector e (farOffset (x 4) / 32) with
      | some k => s.sectorGood Who.nobody k
      | none => false) = true ∧ (s.mem.storeAll [(0x3000000000 + 64 + 4, 9#32)]).bytes (0x3000000000 + 64) 32 ≠
        Sector.zero.bytes := by decide +kernel

/-- A table whose one row storage holds a live row of key 5, entered in its hash index and, with field value 7, in secondary
index 2; both unique. -/
def oneRow : Table :=
  { someTable 2 with
    desc := ⟨2, 5, 5, 0, 64, 16, 0, 0, [0], 1, 1, 0⟩, rows := [(0, ⟨.live, 5, 3#32⟩)], hash := [⟨5, 0x100000⟩]
    sec2 := ⟨[[⟨7, 0x100000⟩]], []⟩ }

/-- The same table with nothing in it. -/
def noRow : Table := { oneRow with rows := [], hash := [], sec2 := ⟨[], []⟩ }

/-- The operation of word i of a strand whose lane 0 has the pairs a in 10:11 and b in 12:13, with table 9 as given and its
handle in g1; p holds of it. -/
def indexed (i : Instr) (x : Table) (a b : Word) (p : State → Op → Bool) : Bool :=
  let s : State := { (on 0 i fun st => (st.setG 1 (makeHandle 0 9 0 1)) |> fun st => { st with
      v := [(10, .uniform a), (11, .uniform 0#32), (12, .uniform b), (13, .uniform 0#32)] }) with tables := [(9, x)] }
  match s.here? with
  | none => false
  | some st => let o := s.newOpHere i st
    decide (s.usable (o.gvals.getD 2 0#64) false = some x) && p s o

theorem freeRow_noRow (n : Nat) : noRow.freeRow n = some 0 := by
  have h : noRow.rowCap = 1 := by decide
  have f : (noRow.rowAt 0).state = .free := by decide
  simp [Table.freeRow, h, f, Nat.mod_one]

theorem freeRow_oneRow (n : Nat) : oneRow.freeRow n = none := by
  have h : oneRow.rowCap = 1 := by decide
  have f : (oneRow.rowAt 0).state = .live := by decide
  simp [Table.freeRow, h, f, Nat.mod_one]

theorem hyp_IndexAndCursorOperations_oneLeaf : oneRow.oneLeaf ∧ noRow.oneLeaf := by
  constructor <;> (intro x hx; simp only [List.mem_cons, List.not_mem_nil, or_false] at hx)
  · obtain rfl | rfl | rfl := hx <;> decide
  · obtain rfl | rfl | rfl := hx <;> decide

/-- INS and UPS of a new key into an empty table and into a full one, with its key there and with its field there; UPS of the
key that is there, with its own field and with another; DEL and REKEY of an entry that is there and of one that is not. -/
theorem hyp_IndexAndCursorOperations_index :
    let prim (x : Table) (o : Op) : Option Entry := x.primary.find? fun e => e.key == o.pair 0 0
    let dup (x : Table) (o : Op) : Bool := (x.isUnique 0 || x.isUnique 1) && (prim x o).isSome
    let row (x : Table) (o : Op) : Bool := match prim x o with
      | some e => x.rowOfRef e.ref == some 0 && decide ((x.rowAt 0).state = .live)
      | none => false
    let new (x : Table) (s : State) (o : Op) : Bool := (prim x o).isNone && !dup x o &&
      !x.secondaryClash none (x.payloadOf (o.data 0)) && (s.writeRow (o.who 0) x 0 (x.payloadOf (o.data 0))).2.isNone
    (∀ i ∈ [Instr.ins 1 5 1, .ups 1 5 1], indexed i noRow 4 9 (new noRow) = true ∧ indexed i oneRow 4 9 (new oneRow) = true ∧
      indexed i oneRow 4 7 (fun _ o => (prim oneRow o).isNone && oneRow.secondaryClash none (oneRow.payloadOf (o.data 0)))
        = true) ∧
    indexed (.ins 1 5 1) oneRow 5 9 (fun _ o => dup oneRow o) = true ∧
    indexed (.ups 1 5 1) oneRow 5 7 (fun s o => row oneRow o &&
      !oneRow.secondaryClash (some 0x100000) (oneRow.payloadOf (o.data 0)) &&
      (s.writeRow (o.who 0) oneRow 0 (oneRow.payloadOf (o.data 0))).2.isNone) = true ∧
    (let x : Table := { oneRow with sec2 := ⟨[[⟨7, 0x100000⟩, ⟨9, 0x100040⟩]], []⟩ }
     indexed (.ups 1 5 1) x 5 9 (fun _ o => row x o && x.secondaryClash (some 0x100000) (x.payloadOf (o.data 0))) = true) ∧
    indexed (.del 1 5 1) oneRow 4 0 (fun _ o => ((oneRow.index 0).find? fun e => e.key == o.pair 0 0).isNone) = true ∧
    indexed (.del 1 5 1) oneRow 5 0 (fun _ o => row oneRow o && oneRow.index 0 == oneRow.primary) = true ∧
    indexed (.rekey 6 5 1) oneRow 0x100000 8 (fun s o => !isFar (o.pair 0 0) && s.nearRef 9 (o.pair 0 0) == o.pair 0 0 && oneRow.rowOfRef (o.pair 0 0) == some 0 &&
      !oneRow.primary.any (fun e => e.key == o.pair 0 2 && e.ref != o.pair 0 0)) = true ∧
    indexed (.rekey 6 5 1) oneRow 5 8 (fun _ o => (oneRow.rowOfRef (o.pair 0 0)).isNone) = true ∧
    (let x : Table := { oneRow with hash := [⟨5, 0x100000⟩, ⟨8, 0x100040⟩] }
     indexed (.rekey 6 5 1) x 0x100000 8 (fun _ o => x.rowOfRef (o.pair 0 0) == some 0 &&
      x.primary.any (fun e => e.key == o.pair 0 2 && e.ref != o.pair 0 0)) = true) ∧
    descend ⟨7, 1⟩ (⟨[[⟨7, 0x100000⟩]], []⟩ : Tree).levels.reverse 0 < 1 := by decide +kernel

/-- COPEN of a handle with a selector and of one without, and with no cursor left; CSTEP, CSTEPN and CSEEK under a cursor, under
0 and under a handle of no cursor, the cursor's table being there or not. -/
theorem hyp_IndexAndCursorOperations_cursor :
    let h : DWord := makeHandle 0 9 2 1
    let base (i : Instr) (w : Word) : State := { (on 0 i fun st => { st.setG 1 h with
        v := [(3, .uniform w), (4, .uniform w), (10, .uniform 1#32), (11, .uniform 0#32), (12, .uniform 9#32),
          (13, .uniform 0#32)] }) with tables := [(9, oneRow)] }
    let cur (x : DWord) (s : State) : State := s.modCore 0 fun k => { k with
      cursors := [(2, ⟨0, k.gen 0, x, 1, 9, 3, none, 1, false⟩)] }
    let is (i : Instr) (p : State → Op → Bool) (s : State) : Bool := match s.here? with
      | none => false
      | some st => p s (s.newOpHere i st)
    let handle : Word := 0x30002#32
    is (.copen 4 5 1) (fun s o => hSelector (o.gvals.getD 2 0#64) != 0 && (s.usable (o.gvals.getD 2 0#64) false).isSome &&
      (s.core 0).gen o.slot == o.gen && (s.core 0).freeCursor == some 0) (base (.copen 4 5 1) 0) = true ∧
    is (.copen 4 5 1) (fun s o => hSelector (o.gvals.getD 2 0#64) != 0 && (s.usable (o.gvals.getD 2 0#64) false).isSome &&
      (s.core 0).gen o.slot != o.gen + 1#8) (base (.copen 4 5 1) 0) = true ∧
    is (.copen 4 5 1) (fun s o => (s.usable (o.gvals.getD 2 0#64) false).isSome && (s.core 0).freeCursor == none)
      ((base (.copen 4 5 1) 0).modCore 0 fun k => { k with
        cursors := (List.range 512).map fun n => (n, ⟨1, 0, h, 0, 0, 1, none, 0, false⟩) }) = true ∧
    is (.copen 4 5 1) (fun s o => !hRemote (o.gvals.getD 2 0#64) && (s.usable (o.gvals.getD 2 0#64) false).isNone)
      { base (.copen 4 5 1) 0 with tables := [] } = true ∧
    ([(.cstep 2 3, 0), (.cstepn 2 3, 0), (.cseek 4 5, 2)] : List (Instr × Nat)).all (fun x =>
      let cursor (s : State) (o : Op) : Option (Nat × Cursor) :=
        (s.core 0).cursor? o.slot o.gen ((o.words 0).getD x.2 0#32)
      is x.1 (fun _ o => (o.words 0).getD x.2 0#32 == 0#32) (cur h (base x.1 0#32)) &&
      is x.1 (fun s o => (o.words 0).getD x.2 0#32 != 0#32 && (cursor s o).isNone) (base x.1 handle) &&
      is x.1 (fun s o => match cursor s o with
        | some (_, y) => (s.usable y.handle false).isSome
        | none => false) (cur h (base x.1 handle)) &&
      is x.1 (fun s o => match cursor s o with
        | some (_, y) => (s.usable y.handle false).isNone
        | none => false) (cur 0#64 (base x.1 handle))) = true := by decide +kernel

/-- A cursor word and an index operation of one lane that may be performed. -/
theorem hyp_IndexAndCursorOperations : ([.lkp 1 5 1, .copen 4 5 1] : List Instr).all (fun i =>
    let s := after (exec i { (on 0 i fun st => (refs 5#32 (lane7 st)).setG 1 (makeHandle 0 9 0 1)) with
      tables := [(9, someTable 2)] })
    match (s.core 0).ops[0]? with
    | none => false
    | some o => o.todo == 1#64 <<< 7 && o.faults.isEmpty && o.results.isEmpty && s.eligible 0 0 &&
        s.remoteMask 0 o == 0#64 && s.banks.isEmpty && isIndexOp o.instr) = true := by decide +kernel

theorem hyp_PhysicalWriteFrame : (∀ b, (State.reset.bank b).state = .active) ∧
    (match (State.reset.writePhys Who.nobody 0x10000 [1#8, 2#8]).2 with
      | .ok () => true
      | .error _ => false) = true := by
  refine ⟨fun b => rfl, by decide +kernel⟩

/-- Privileged words in the modes that may not run them. -/
theorem hyp_IllegalWordsTrap_privilege : ∀ x ∈ ([
    (.sret, .u), (.hcall 0, .u), (.tinv 1 0, .u), (.ctxsv 1 2, .u), (.ctxld 1 2, .u), (.kill 1, .u), (.hret, .u),
    (.hret, .s), (.mfpr 1 16, .u), (.mtpr 1 20, .u), (.mfpr 1 32, .s), (.mtpr 1 34, .s), (.mtpr 1 32, .u),
    (.sreg 1 7, .u)] : List (Instr × Priv)),
    (on 0 x.1 fun st => { st with mode := x.2 }).here?.isSome = true ∧ x.2.code < minMode x.1 := by decide +kernel

/-- CTXSV and CTXLD with a future free. -/
theorem hyp_IllegalWordsTrap_future : ([.ctxsv 1 2, .ctxld 1 2] : List Instr).all (fun i =>
    let s := on 0 i
    match s.here? with
    | none => false
    | some st => (s.noRoom [.future] { gRead := [2], gDest := [1] } {} st).isNone) = true := by decide +kernel

theorem hyp_IllegalWordsTrap_refused : wordMode 0x13100000#32 ≤ (guestStrand false 0#32).mode.code ∧
    (guestStrand false 0#32).mode.code < wordMode 0xC4C00010#32 ∧ (placed .nop).here?.isSome = true := by decide +kernel

theorem hyp_IllegalWordsTrap_misaligned : ([Instr.ld 4 5 1, .st 4 5 0, .atom 4 5 0, .sld 4 10 0, .sst 4 10 0,
    .satom 4 10 0].all fun i =>
      let s := hold none (on 0 i (refs 2#32))
      Case.good ⟨i, opUse i 0, opForm i 0, s, fun st s => st.active != 0#64 &&
        (s.noRoom (opNeeds i) (opUse i 0) (opForm i 0) st).isNone && !((lanesOf st.active).any fun l => opIdem s.cur.1 st (s.newOpHere i st) l) &&
        !((lanesOf st.active).filter fun l => (s.newOpHere i st).addr l % 4 != 0).isEmpty⟩) = true := by decide +kernel

/-- SST and SATOM of lanes whose writes reach granule 0, or from lane 4 on granule 1, of which 0 is live in. -/
theorem hyp_IllegalWordsTrap_idempotence : ([Instr.sst 4 10 0, .satom 4 10 0].all fun i =>
      let s := hold none (on 0 i fun st => { refs 5104#32 st with region := some ⟨0#256, 1#64, 0#64, 0, st.group⟩ })
      Case.good ⟨i, opUse i 0, opForm i 0, s, fun st s => st.active != 0#64 &&
        (s.noRoom (opNeeds i) (opUse i 0) (opForm i 0) st).isNone && ((lanesOf st.active).filter fun l => opIdem s.cur.1 st (s.newOpHere i st) l) == [0, 1, 2, 3]⟩) = true := by
  decide +kernel

/-- A strand at the header at 0x10000 of a clause of words ws, with the clause of the placed word forgotten. -/
def atHeader (h : Word) (ws : List Word) (flags : BitVec 12) : State :=
  let s := (placed .nop).modHere fun st => { st with clause := none, flags := flags }
  { s with mem := s.mem.poke 0x10000 (bytesOfWords (h :: ws)) }

/-- The words of a clause at 0x10000 as its strand fetches them, with p of its header, words and flags. -/
def clauseIs (p : Word → List Word → BitVec 12 → Bool) (l : BitVec 8) (w : BitVec 12) (a b : BitVec 4) (n : BitVec 3)
    (s : State) : Bool :=
  match s.here? with
  | none => false
  | some st => st.clause.isNone &&
    match (fetchWords (st.who s.cur.1) (n.toNat + 1) (st.pc + 4#64) s).2 with
    | .ok ws => p (headerWord l w a b n) ws st.flags && decide (st.pcIdx < ws.length) && !s.awaitsLink s.cur.1 s.cur.2
    | .error _ => false

theorem hyp_ClauseOpens :
    clauseIs (fun h ws fl => clauseLegal h ws && waitDone h fl) 0 0x002 15 15 7
      (atHeader (headerWord 0 0x002 15 15 7) (List.replicate 8 0#32) 0x002) = true ∧
    clauseIs (fun h ws fl => clauseLegal h ws && waitDone h fl) 0 0 3 15 0
      (atHeader (headerWord 0 0 3 15 0) [0x75040501#32] 0xFFF) = true ∧
    clauseIs (fun h ws _ => !clauseLegal h ws) 0 0 15 15 0
      (atHeader (headerWord 0 0 15 15 0) [0x75040501#32] 0xFFF) = true ∧
    clauseIs (fun h ws _ => !clauseLegal h ws) 2 0 15 15 0 (atHeader (headerWord 2 0 15 15 0) [0#32] 0xFFF) = true := by
  decide +kernel

/-- Whether a result is not an error. -/
def isOk {ε α : Type} (r : Except ε α) : Bool :=
  match r with
  | .ok _ => true
  | .error _ => false

/-- Core 0 with its handlers, and the page of their frame areas in its TLB. -/
def handlers (s : State) : State :=
  s.modCore 0 fun k => { k with
    trapBase := 0x40000#64, trapFrame := 0x200000#64, hTrapBase := 0x400000#64
    tlb := ⟨0, false, 0x200000, 0x2000000, 0x200000, false, false, true, 1, true⟩ :: k.tlb }

/-- SYSC, BKPT and HCALL enter a handler: at depth 0, and at depth 2, where the S handler gives way to H. -/
theorem hyp_HandlersEntered : ∀ x ∈ (([
    (.sysc 0xFFFF, .u, 0, Cause.systemCall, false), (.bkpt 1, .u, 0, .breakpoint, false),
    (.sysc 0, .s, 2, .systemCall, true), (.hcall 5, .s, 0, .hypercall, true)] :
    List (Instr × Priv × Nat × Cause × Bool)).map fun x =>
      (⟨x.1, {}, { ends := true }, handlers (on 0 x.1 fun st => { st with mode := x.2.1, depth := x.2.2.1 }),
        fun st s => st.active != 0#64 && ((s.core s.cur.1).strandOps s.cur.2).isEmpty && decide (st.depth < 3) &&
          (decide (st.depth = 2) || x.2.2.2.1 == .hypercall) == x.2.2.2.2 &&
          isOk (s.frameFor st x.2.2.2.2 5 x.2.2.2.1).2⟩ : Case)), x.Met := allMet (by decide +kernel)

/-- A lookup under a handle that names no table has met its fault in every lane. -/
def faulted : State :=
  let s := handlers (after (exec (.lkp 1 5 1) (on 0 (.lkp 1 5 1) fun st => (refs 5#32 st).setG 1 0#64)))
  after (exec (.tableOpComplete 0 0 (~~~ 0#64) false) s)

theorem hyp_HandlersEntered_trap : (match faulted.here?, (faulted.core 0).ops with
    | some st, [o] => o.slot == 0 && o.gen == (faulted.core 0).gen 0 && !o.faults.isEmpty && o.todo == 0#64 &&
        isReplayed o.instr && !st.inLatch && decide (st.depth ≤ 1) && !faulted.awaitsLink 0 0 &&
        o.faults.all (fun f => decide (f.lane < 64) && f.detail % 2 == 0) &&
        isOk (faulted.writeFrame 0 0 st false st.point 0 (trapCauses st [o] []) [o]).2
    | _, _ => false) = true := by decide +kernel

theorem hyp_ReturnsFromHandlers_frame : (guestStrand false 0#32).depth < 3 ∧
    (guestStrand false 0#32).group.rstack.length ≤ 32 ∧ (guestStrand false 0#32).group.lstack.length ≤ 4 := by
  decide +kernel

/-- The strand in the handler that SYSC entered, about to return with i. -/
def inHandlerOf (i : Instr) (p : Priv) : State :=
  let s := handlers (on 0 (.sysc 7))
  (after (exec (.sysc 7) s)).modHere fun st =>
    { st with mode := p, clause := some ⟨0x40000#64, headerWord 0 0 15 15 0, [(encode i).getD 0#32], 0⟩ }

theorem hyp_ReturnsFromHandlers : ∀ x ∈ ([(.sret, .s), (.hret, .h)] : List (Instr × Priv)).map (fun x =>
    (⟨x.1, {}, each, inHandlerOf x.1 x.2, fun st s =>
      ((s.core s.cur.1).strandOps s.cur.2).isEmpty &&
      match st.frames with
      | [note] => note.wait == .none &&
        (match ((s.before {} each st).readFrame (st.who s.cur.1) ((s.core s.cur.1).frameAt note.hyp s.cur.2 st.depth)).2 with
          | .ok bs => natOf ((bs.drop 9).take 1) == 0
          | .error _ => false)
      | _ => false⟩ : Case)), x.Met := allMet (by decide +kernel)

/-- The same in a handler entered from that handler, at depth 2. -/
theorem hyp_ReturnsFromHandlers_nested :
    let s := inHandlerOf (.sysc 9) .s
    let s := (after (exec (.sysc 9) s)).modHere fun st =>
      { st with mode := .s, clause := some ⟨0x40000#64, headerWord 0 0 15 15 0, [(encode .sret).getD 0#32], 0⟩ }
    Case.good ⟨.sret, {}, each, s, fun st s => ((s.core s.cur.1).strandOps s.cur.2).isEmpty && st.depth == 2 &&
      match st.frames with
      | [note, o] => note.wait == .none &&
        (let r := (s.before {} each st).readFrame (st.who s.cur.1) ((s.core s.cur.1).frameAt note.hyp s.cur.2 st.depth)
         match r.2 with
          | .ok bs => natOf ((bs.drop 9).take 1) == 0 &&
            isOk (r.1.readV (st.who s.cur.1) ((s.core s.cur.1).frameAt o.hyp s.cur.2 (st.depth - 1)) 512).2
          | .error _ => false)
      | _ => false⟩ = true := by decide +kernel

/-- A strand in mode p. -/
def inMode (p : Priv) (st : Strand) : Strand := { st with mode := p }

theorem hyp_PrivilegedRegisters : ∀ x ∈ [0, 1, 16, 17, 18, 19, 20, 32, 33, 34].flatMap (fun n =>
    [word (.mfpr 63 (BitVec.ofNat 16 n)) { gDest := [63] } {} 0 (inMode .h),
     word (.mtpr 1 (BitVec.ofNat 16 n)) { gRead := [1] } {} 0 (inMode .h)]), x.Met := allMet (by decide +kernel)

/-- A handler whose TRAPMASK names lanes, and a strand with none. -/
theorem hyp_PrivilegedRegisters_traps : (match (inHandlerOf (.mfpr 1 17) .s).here?, (on 0 .nop).here? with
    | some x, some y => x.trapMask.getLsbD 0 && decide (x.depth ≤ 3) && y.trapMask == 0#64 && y.depth == 0
    | _, _ => false) = true := by decide +kernel

/-- A strand of 64 registers whose live masks in g0 to g7 name register 0 and register 63. -/
def liveMasks (asked : Bool) (st : Strand) : Strand :=
  let st := (st.setG 0 0x8000000000000001#64).setG 1 0#64 |>.setG 2 0#64 |>.setG 3 0#64
  { st with nregs := 64, preempt := if asked then some ⟨0x300000, none, none, 0⟩ else none }

/-- The live mask of g0 to g3 names registers of the strand. -/
def liveOk (st : Strand) (_ : State) : Bool := decide ((st.liveMask 0).toNat < 2 ^ st.nregs)

theorem hyp_HintsRegionsAndPolicies : ∀ x ∈ [
    word (.phint 0 5) (liveUse 0 5) each 0 (liveMasks false) liveOk,
    word (.phint 0 5) (liveUse 0 5) each 0 (liveMasks true) liveOk,
    word (.idem 0 5) (liveUse 0 5) each 0 (liveMasks false) liveOk, word .idend {} each,
    word (.bwphase 3) {} {}, word (.gopol 2) {} {}, word (.rejoin 0xFFFF) {} {}], x.Met := allMet (by decide +kernel)

theorem hyp_SystemWords : ∀ x ∈ ([
    word (.tinv 1 2) { gRead := [1] } {} 0 (inMode .s), word (.perf 1 0x0000) { gDest := [1] } {},
    word (.perf 1 0x1040) { gDest := [1] } {}, word (.perf 1 0x6000) { gDest := [1] } {},
    word (.perf 1 0x6001) { gDest := [1] } {}, word (.perf 1 0x0003) { gDest := [1] } {},
    word (.perf 1 0x7009) { gRead := [1], gDest := [1] } {} 0 id (fun st _ => !hRemote (st.gr 1)),
    ⟨.perf 1 0x7000, { gRead := [1], gDest := [1] }, {},
      { (on 0 (.perf 1 0x7000) fun st => st.setG 1 (makeHandle 0 9 0 1)) with tables := [(9, someTable 2)] },
      fun st s => !hRemote (st.gr 1) && (s.usable (st.gr 1) true).isSome⟩] : List Case), x.Met := allMet (by decide +kernel)

/-- Another strand in slot 5 of core 0. -/
def twoStrands (s : State) : State := s.setStrand 0 5 { guestStrand true 0#32 with sindex := 1, lineage := 1#64 }

theorem hyp_SystemWords_kill : ∀ x ∈ ([
    ⟨.kill 1, { gRead := [1] }, {}, twoStrands (on 0 (.kill 1) fun st => { st.setG 1 0x500#64 with mode := .s }),
      fun st s => slice (st.gr 1) 63 14 == 0 && (match s.strand? 0 (slice (st.gr 1) 13 8) with
        | some x => (s.core 0).gen (slice (st.gr 1) 13 8) == (st.gr 1).setWidth 8 && x.domain == st.domain
        | none => false)⟩,
    ⟨.kill 1, { gRead := [1] }, {}, twoStrands (on 0 (.kill 1) fun st => { st.setG 1 0x501#64 with mode := .s }),
      fun st s => slice (st.gr 1) 63 14 == 0 && (s.core 0).gen (slice (st.gr 1) 13 8) != (st.gr 1).setWidth 8⟩,
    ⟨.kill 1, { gRead := [1] }, {}, (twoStrands (on 0 (.kill 1) fun st => { st.setG 1 0x500#64 with mode := .s })).modStrand
        0 5 fun st => { st with domain := 9#16 },
      fun st s => slice (st.gr 1) 63 14 == 0 && (match s.strand? 0 (slice (st.gr 1) 13 8) with
        | some x => st.mode == .s && x.domain != st.domain
        | none => false)⟩,
    ⟨.kill 1, { gRead := [1] }, {}, on 0 (.kill 1) fun st => { st.setG 1 0x4000#64 with mode := .s },
      fun st _ => slice (st.gr 1) 63 14 != 0⟩,
    ⟨.kill 1, { gRead := [1] }, {}, on 0 (.kill 1) fun st => { st.setG 1 0x3F00#64 with mode := .h },
      fun st s => slice (st.gr 1) 63 14 == 0 && (s.strand? 0 (slice (st.gr 1) 13 8)).isNone⟩] : List Case), x.Met :=
  allMet (by decide +kernel)

theorem hyp_SystemWords_tinvDone :
    let s := after (exec (.tinv 1 2) (on 0 (.tinv 1 2) (inMode .s)))
    (match s.strand? 0 0 with
      | some st => st.wait == .tinv st.domain 7#64 2 false && s.accessesDone 0 0
      | none => false) = true := by decide +kernel

/-- A TINV of the Dolmond domain with a route to one other package, before it asks, while it waits and once it is answered. -/
def tinvAsking : State :=
  let s := on 0 (.tinv 1 3) (inMode .s)
  after (exec (.tinv 1 3)
    { s with links := { s.links with ports := [(1, { Port.reset with up := true })], routes := [(1, 2)] } })

theorem hyp_SystemWords_tinvFar :
    let s := tinvAsking
    let t := after (exec (.tinvDone 0 0) s)
    let u := after (exec (.linkFlitReceive ⟨1, 0, true, .response 0 0 []⟩) t)
    let waits (s : State) (w : Wait) : Bool := (s.strand? 0 0).map Strand.wait == some w
    waits s (.tinv 0#16 7#64 3 false) = true ∧ s.accessesDone 0 0 = true ∧ s.otherPackages = [1] ∧
    waits t (.tinvFar 0#16 7#64 false [0]) = true ∧ t.links.requests.map (fun r => (r.id, r.pkg, r.core, r.slot)) = [(0, 1, 0, 0)] ∧
    (∀ o ∈ (t.core 0).ops, 0 ∉ o.remote) ∧ waits u (.tinvFar 0#16 7#64 false []) = true ∧
    waits (after (exec (.tinvDone 0 0) u)) .none = true := by decide +kernel

/-- The barriers of the block changed by f. -/
def barriers (f : Barrier → Barrier) (s : State) : State :=
  { s with blocks := s.blocks.map fun b => { b with barriers := b.barriers.map f } }

/-- Barrier n is there and unbroken, the accesses of the strand are performed and p holds of the barrier. -/
def sound (n : Nat) (p : Strand → Barrier → Bool) (st : Strand) (s : State) : Bool :=
  st.active != 0#64 && s.accessesDone s.cur.1 s.cur.2 &&
  match s.barrierOf st n with
  | some (_, x) => !x.broken && p st x
  | none => false

/-- The difference of phases that BARW compares (R333). -/
def phaseAhead (st : Strand) (x : Barrier) : Nat := (x.phase - lo32 (st.gr 1)).toNat

theorem hyp_BarrierWords : ∀ x ∈ ([
    ⟨.bar 15, {}, {}, on 0 (.bar 15), sound 15 fun st x => decide (x.expected ≤ x.arrived + popCount st.active)⟩,
    ⟨.bar 0, {}, {}, barriers (fun x => { x with expected := 9 }) (on 0 (.bar 0)),
      sound 0 fun st x => decide (x.arrived + popCount st.active < x.expected)⟩,
    ⟨.bara 2 1 3, { gRead := [1], gDest := [2] }, {}, on 0 (.bara 2 1 3) fun st => st.setG 1 0x8000#64,
      sound 3 fun st _ => decide ((st.gr 1).toNat ≤ 32768)⟩,
    ⟨.bara 2 1 3, { gRead := [1], gDest := [2] }, {}, on 0 (.bara 2 1 3) fun st => st.setG 1 0#64,
      sound 3 fun st _ => st.gr 1 == 0#64⟩,
    ⟨.barw 1 3, { gRead := [1] }, {}, on 0 (.barw 1 3) fun st => st.setG 1 0xFFFFFFFF#64,
      sound 3 fun st x => phaseAhead st x == 1⟩,
    ⟨.barw 1 3, { gRead := [1] }, {}, on 0 (.barw 1 3) fun st => st.setG 1 0#64, sound 3 fun st x => phaseAhead st x == 0⟩,
    ⟨.barinit 1 3, { gRead := [1] }, {}, on 0 (.barinit 1 3) fun st => st.setG 1 1#64,
      sound 3 fun st _ => decide (1 ≤ (st.gr 1).toNat) && decide ((st.gr 1).toNat ≤ 32768)⟩] : List Case), x.Met :=
  allMet (by decide +kernel)

/-- The barrier words where the block has no barrier, and where it is broken. -/
theorem hyp_BarrierWords_traps : ∀ x ∈ ([(.bar 3, {}), (.bara 2 1 3, { gRead := [1], gDest := [2] }),
    (.barw 1 3, { gRead := [1] }), (.barinit 1 3, { gRead := [1] })] : List (Instr × Use)).flatMap (fun x => [
      (⟨x.1, x.2, {}, { on 0 x.1 with blocks := [{ guestBlock with barriers := [] }] },
        fun st s => st.active != 0#64 && (s.barrierOf st 3).isNone⟩ : Case),
      (⟨x.1, x.2, {}, barriers (fun y => { y with broken := true }) (on 0 x.1), fun st s =>
        decide ((st.gr 1).toNat ≤ 32768) && (match s.barrierOf st 3 with
          | some (_, y) => y.broken
          | none => false)⟩ : Case)]), x.Met := allMet (by decide +kernel)

/-- A future of kind k in slot 3 of core 0, bound to g5 of the strand's lineage, with its handle in g1. -/
def withFuture (k : FutureKind) (done : Bool) (i : Instr) : State :=
  (on 0 i fun st => st.setG 1 (futureHandle 1 0 3)).modCore 0 fun x => { x with
    futures := [(3, ⟨1, k, done, 0x2A#64, [(0#64, 5)], 0, false, 0, 0#8, 0, 0#64, 0#16, .u, 0#10, [], 0⟩)], futureSer := 1 }

/-- What g1 names: a complete operation, one in progress, or none. -/
def names (done : Option Bool) (st : Strand) (s : State) : Bool :=
  st.active != 0#64 && decide ((s.named? s.cur.1 (st.gr 1)).map (·.2.done) = done)

theorem hyp_FutureWords : ∀ x ∈ ([(.ftest 15 1), (.fwait 1), (.fcancel 1)] : List Instr).flatMap (fun i => ([
      ⟨i, { gRead := [1] }, { waits := false, quiet := true }, on 0 i, names none⟩,
      ⟨i, { gRead := [1] }, { waits := false, quiet := true }, withFuture .matrix true i, names (some true)⟩,
      ⟨i, { gRead := [1] }, { waits := false, quiet := true }, withFuture .matrix false i, names (some false)⟩,
      ⟨i, { gRead := [1] }, { waits := false, quiet := true }, withFuture (.launch 0) false i, fun st s => names (some false) st s &&
        (Assoc.find s.launches 0).isSome⟩] : List Case)), x.Met := allMet (by decide +kernel)

/-- FCANCEL of a save of the strand in slot 5 that has not begun, and of a gather whose g[A] is pending. -/
theorem hyp_FutureWords_cancel : ∀ x ∈ ([
    ⟨.fcancel 1, { gRead := [1] }, { waits := false, quiet := true },
      ((twoStrands (withFuture (.ctxsv 5 0#8) false (.fcancel 1))).modStrand 0 5 fun st =>
        { st with preempt := some ⟨0x300000, some 0#16, some (0, 3), 0⟩ }), fun st s => names (some false) st s &&
      !(s.core 0).awaited 3 1 && (match s.strand? 0 5 with
        | some x => x.wait == .none && (match x.preempt with
          | some p => p.future == some (0, 3)
          | none => false)
        | none => false)⟩,
    ⟨.fcancel 1, { gRead := [1] }, { waits := false, quiet := true },
      (withFuture (.gath [] 0) false (.fcancel 1)).modHere fun st => st.pendG 1 true,
      fun st s => names (some false) st s && st.gpend.getLsbD 1⟩] : List Case), x.Met := allMet (by decide +kernel)

/-- FCANCEL of a promotion of a block of another package, whose request has left over the link or not. -/
def remotePromo (up : Bool) : State :=
  let s := on 0 (.promo 2 1) fun st => st.setG 1 (farAway 5)
  let s := { s with links := { s.links with ports := [(0, { Port.reset with up := up })], routes := [(1, 1)] } }
  (after (exec (.promo 2 1) s)).modHere fun st =>
    { st with clause := some ⟨0x10000#64, headerWord 0 0 15 15 0, [(encode (.fcancel 2)).getD 0#32], 0⟩ }

theorem hyp_FutureWords_remote : [true, false].all (fun up =>
    Case.good ⟨.fcancel 2, { gRead := [2] }, { waits := false, quiet := true }, remotePromo up, fun st s =>
      st.active != 0#64 && match s.named? 0 (st.gr 2) with
      | some (i, f) => f.kind == .promo (farAway 5) && refRemote (farAway 5).toNat && !f.done && !f.binding.isEmpty &&
          !(s.core 0).awaited i f.serial &&
          (match s.links.requests.find? fun r => r.core == 0 && r.op == f.serial && r.slot == 256 + i with
            | some r => s.links.sent r.id == up
            | none => false)
      | none => false⟩) = true := by decide +kernel

/-! Operations with futures. -/

/-- A launch record of one block of one strand of 8 threads with 16 registers (Table 5-2). -/
def recordBytes (code : Nat) : List Byte :=
  bytesOf 8 code ++ List.replicate 16 0#8 ++ [3#8] ++ List.replicate 7 0#8 ++ bytesOf 8 7 ++ List.replicate 44 0#8 ++
  bytesOf 2 16 ++ [0#8, 0#8, 0#8, 1#8] ++ List.replicate 38 0#8

/-- A page of data at 0x200000, readable and writable in U mode, with a launch record at its start. -/
def dataPage (bytes : List Byte) (s : State) : State :=
  let s := s.modCore 0 fun k => { k with tlb := ⟨0, false, 0x200000, 0x200000, 0x200000, true, false, true, 2, true⟩ :: k.tlb }
  { s with mem := s.mem.poke 0x200000 bytes }

/-- The future of a word of use u and form f in register d is taken, with its ranges and entries, and p holds of the state
and its slot. -/
def takes (u : Use) (f : Form) (d : Nat) (k : State → FutureKind) (p : State → Nat → Bool) (st : Strand) (s : State)
    (ranges : List (Bool × (Word × Nat)) := []) (entries : Nat := 0) : Bool :=
  st.active != 0#64 && s.accessesDone s.cur.1 s.cur.2 &&
  match (s.before u f st).takeFuture st d (k s) ranges entries with
  | some (s1, i) => p s1 i
  | none => false

/-- The use of a word that reads g1 and writes g2. -/
def useG : Use := { gRead := [1], gDest := [2] }

/-- A gather record of one key, 5, of a table with a handle, into one word (Table 7-6), in scratch at 0. -/
def gatherRecord (h : DWord) (s : State) : State :=
  (hold none s).pokeScratch 0 0 (bytesOf 4 1 ++ bytesOf 2 0 ++ bytesOf 2 1 ++ bytesOf 8 h.toNat ++ bytesOf 4 0xFFFFFFFF ++
    bytesOf 4 0 ++ bytesOf 8 5)

theorem hyp_OperationsWithFutures : ∀ x ∈ ([
    ⟨.launch 2 1, useG, { ends := true }, dataPage (recordBytes 0x10000) (on 0 (.launch 2 1) fun st => st.setG 1 0x200000#64),
      takes useG { ends := true } 2 (fun s => .launch s.nextLaunch) fun s1 _ =>
        isOk (s1.readRecord ((guestStrand true 0#32).who 0) 0x200000 false).2⟩,
    ⟨.launch 2 1, useG, { ends := true }, dataPage (recordBytes 0x10002) (on 0 (.launch 2 1) fun st => st.setG 1 0x200000#64),
      takes useG { ends := true } 2 (fun s => .launch s.nextLaunch) fun s1 _ =>
        !isOk (s1.readRecord ((guestStrand true 0#32).who 0) 0x200000 false).2⟩,
    ⟨.gath 2 1 3, { gRead := [1, 3], gDest := [2] }, {},
      gatherRecord (makeHandle 0 9 0 1) (on 0 (.gath 2 1 3) fun st => (st.setG 1 0#64).setG 3 64#64), fun st s =>
      let y := s.before { gRead := [1, 3], gDest := [2] } {} st
      !s.gathIdem st 0 64 && decide ((y.core 0).requests + popCount st.active ≤ 2048) &&
      takes { gRead := [1, 3], gDest := [2] } {} 2 (fun _ => .gath [] 0) (fun s1 _ => isOk (s1.gathRecord 0 st 0 64)) st s
        (y.gathRanges 0 st 0 64) (popCount st.active)⟩,
    ⟨.gath 2 1 3, { gRead := [1, 3], gDest := [2] }, {},
      gatherRecord (makeHandle 0 9 0 1) (on 0 (.gath 2 1 3) fun st => (st.setG 1 4#64).setG 3 64#64), fun st s =>
      let y := s.before { gRead := [1, 3], gDest := [2] } {} st
      !s.gathIdem st 4 64 && decide ((y.core 0).requests + popCount st.active ≤ 2048) &&
      takes { gRead := [1, 3], gDest := [2] } {} 2 (fun _ => .gath [] 0) (fun s1 _ => !isOk (s1.gathRecord 0 st 4 64)) st s
        (y.gathRanges 0 st 4 64) (popCount st.active)⟩,
    ⟨.promo 2 1, useG, {}, on 0 (.promo 2 1), fun st s =>
      takes useG {} 2 (fun _ => .promo (st.gr 1)) (fun _ _ => true) st s && !refRemote (st.gr 1).toNat⟩,
    ⟨.ctxld 2 1, useG, {}, on 0 (.ctxld 2 1) fun st => { st.setG 1 0x200000#64 with mode := .s }, fun st s =>
      takes useG {} 2 (fun _ => .ctxld 0x200000) (fun _ _ => true) st s && slice (st.gr 1) 63 52 == 0 &&
      s.accessesDone 0 s.cur.2 &&
      slice (st.gr 1) 51 14 * 2 ^ 14 == 0x200000⟩,
    ⟨.ctxsv 2 1, useG, {}, twoStrands (on 0 (.ctxsv 2 1) fun st => { st.setG 1 0x200500#64 with mode := .s }), fun st s =>
      takes useG {} 2 (fun _ => .ctxsv 5 0#8) (fun _ _ => true) st s && slice (st.gr 1) 63 52 == 0 &&
      slice (st.gr 1) 13 8 == 5 && slice (st.gr 1) 13 8 != s.cur.2 && ((s.core 0).gen 5 == (st.gr 1).setWidth 8) &&
      match s.strand? 0 5 with
      | some x => x.domain == st.domain && x.preempt.isNone
      | none => false⟩,
    ⟨.ctxsv 2 1, useG, {}, (twoStrands (on 0 (.ctxsv 2 1) fun st => { st.setG 1 0x200500#64 with mode := .s })).modStrand 0 5
        fun st => { st with preempt := some ⟨0x300000, none, none, 0⟩ }, fun st s =>
      takes useG {} 2 (fun _ => .ctxsv 5 0#8) (fun _ _ => true) st s && slice (st.gr 1) 63 52 == 0 &&
      ((s.core 0).gen 5 == (st.gr 1).setWidth 8) && match s.strand? 0 5 with
      | some x => x.domain == st.domain && x.preempt.isSome
      | none => false⟩] : List Case), x.Met := allMet (by decide +kernel)

/-- A gather, a promotion of a near reference, one of a block of tier 0 and one of a block of tier 1 for which no stack has a
slot, in progress in slot 3. -/
theorem hyp_OperationsWithFutures_complete :
    let block (s : State) : State := { s with
      blockBase := 0x300000, mem := s.mem.poke 0x300028 (bytesOf 8 (2 ^ 63) ++ bytesOf 8 (2 ^ 63 + 2 ^ 62 + 2 ^ 40)) }
    ([.gath [(0#32, [1#8])] 0, .promo 0x20000#64, .promo (farRef 0 5), .promo (farRef 1 6)].all fun k =>
      let s := block (withFuture k false .nop)
      match Assoc.find (s.core 0).futures 3 with
      | none => false
      | some f => !f.done && !f.cancel && !f.binding.isEmpty && !(s.core 0).awaited 3 1 &&
          (match k with
           | .promo r => !isFar r.toNat || (farTier r.toNat != 3 && farPackage r.toNat == Config.packageNumber &&
               !s.blockForeign f.domain (farBlock r.toNat) &&
               match (s.readEntry ⟨0, f.domain, f.keyid, f.priv, f.launch⟩ (farBlock r.toNat)).2 with
               | .ok e => if farBlock r.toNat = 5 then e.tier == 0 else e.tier == 1 && ((s.stackOf (s.roomiest e.cls)).slots 0
                   e.cls).isEmpty
               | .error _ => false)
           | _ => true)) = true := by decide +kernel

/-- The same promotion of a block of tier 1 with two slots free in a stack. -/
theorem hyp_OperationsWithFutures_move : (
    let s := withFuture (.promo (farRef 1 6)) false .nop
    let s : State := { s with
      blockBase := 0x300000, stackCtl := [(4, { s.stackOf 4 with free := [(0, [0x5000, 0x6000])] })],
      mem := s.mem.poke 0x300030 (bytesOf 8 (2 ^ 63 + 2 ^ 62 + 2 ^ 40)) }
    match Assoc.find (s.core 0).futures 3, (s.readEntry ⟨0, 0#16, 0#10, .u, 0⟩ 6).2 with
    | some f, .ok e => !f.done && !f.cancel && !f.binding.isEmpty && !(s.core 0).awaited 3 1 && f.domain == 0#16 &&
        f.keyid == 0#10 && f.launch == 0 && !s.blockForeign f.domain 6 && e.tier == 1 &&
        (s.stackOf (s.roomiest e.cls)).slots 0 e.cls == [0x5000, 0x6000] &&
        (match exec (.promoComplete 0 3) s with
          | .next t => t.blockEntry 6 == ⟨true, 0, e.cls, 0x5000⟩
          | _ => false)
    | _, _ => false) = true := by decide +kernel

/-- LAUNCH while a maintenance window is open. -/
theorem hyp_OperationsWithFutures_window :
    let s := on 0 (.launch 2 1) fun st => st.setG 1 0x200000#64
    Case.good ⟨.launch 2 1, useG, { ends := true }, { s with mgmt := { s.mgmt with window := true } },
      fun st s => s.windowOpen && (s.noRoom [.future] useG { ends := true } st).isNone⟩ = true ∧ s.windowOpen = false := by decide +kernel

theorem hyp_FencePostAndClose : ∀ x ∈ ([
    word .fence {} { ends := true } 0x60000000#32 id (fun st _ =>
      modeScope st.group.mode != .row && (modeOrder st.group.mode).releases),
    word .fence {} {} 0 id (fun st _ => modeOrder st.group.mode == .rlx),
    word (.post 1) { gRead := [1] } { ends := true } 0 id (fun st s =>
      ((Assoc.find s.launches st.launch).map (·.record.result)) == some 0#64),
    ⟨.post 1, { gRead := [1] }, { ends := true },
      { on 0 (.post 1) with launches := [(0, { guestLaunch with record := { guestRecord with result := 0x200000#64 } })] },
      fun st s => ((Assoc.find s.launches st.launch).map (·.record.result)) == some 0x200000#64⟩,
    word (.post 1) { gRead := [1] } { ends := true } 0 (fun st => { st with launch := 2 * launchSpan + 5, member := false })
      (fun st _ => !launchOwn st.launch),
    word (.cclose 6) { aRegs := [6] } {}] : List Case), x.Met := allMet (by decide +kernel)

/-- A copy of n bytes from an address to an address, between scratch held by core 0 and memory, as the queue is. -/
def copies (i : Instr) (kind : CopyKind) (n src dst : DWord) (full : Bool := false) : Case :=
  ⟨i, { gRead := [1, 2, 3] }, {}, (hold none (on 0 i fun st => ((st.setG 1 n).setG 2 src).setG 3 dst)).modCore 0 (fun k =>
      let q : CopyOp := ⟨.within, 0, 0#64, 0#64, 9, 0#8, 0, 0#64, 0#32, 0#64, 0, .nop, 0#64, 0, 0#16, 0#10, .u⟩
      { k with copies := List.replicate (if full then 256 else 255) q }), fun st s =>
    (kind == .toMemory || !st.idemSpan s.cur.1 (st.gr 3).toNat (st.gr 1).toNat) && decide ((st.gr 1).toNat % 4 = 0 ∧ (st.gr 2).toNat % 4 = 0 ∧ (st.gr 3).toNat % 4 = 0 ∧
      (st.gr 1).toNat ≤ 327680 ∧ (kind = .toScratch ∨ s.copyRangeOk s.cur.1 st (st.gr 2) (st.gr 1).toNat = true) ∧
      (kind = .toMemory ∨ s.copyRangeOk s.cur.1 st (st.gr 3) (st.gr 1).toNat = true) ∧
      ((s.core s.cur.1).copies.length < 256 ↔ full = false))⟩

theorem hyp_Copies : ∀ x ∈ [
    copies (.cpy 1 2 3) .toScratch 10240#64 0x200000#64 0#64, copies (.cpys 1 2 3) .within 4#64 10236#64 0#64,
    copies (.cpyo 1 2 3) .toMemory 0#64 0#64 0x200000#64, copies (.cpys 1 2 3) .within 4#64 0#64 0#64 true, word (.cbatch 2) { gDest := [2] } {},
    word (.cwait 1) { gRead := [1] } {}], x.Met := allMet (by decide +kernel)

/-- A copy in the queue whose batch is closed: CWAIT on it must wait. -/
def queued (i : Instr) : State :=
  after (exec (.cpys 1 2 3) (hold none (on 0 (.cpys 1 2 3) fun st => ((st.setG 1 16#64).setG 2 64#64).setG 3 72#64)))
    |>.modHere fun st => { st with
      clause := some ⟨0x10000#64, 0#32, [(encode i).getD 0#32], 0⟩
      group := { st.group with batch := 2#32, g := [(1, 1#64)] } }

theorem hyp_Copies_complete : (match (queued (.cwait 1)).here?, ((queued (.cwait 1)).core 0).copies[0]? with
    | some st, some q => q.batch != st.group.batch && decide ((lo32 (st.gr 1) - q.batch).toNat < 2 ^ 31) &&
        ((queued (.cwait 1)).moveCopy 0 q).2.fault.isNone && q.kind == .within &&
        ((((queued (.cwait 1)).core 0).badRange 64 16).isNone && (((queued (.cwait 1)).core 0).badRange 72 16).isNone)
    | _, _ => false) = true := by decide +kernel

/-- The buffer of two granules that core 0 holds, by its handle in g1 with the bits above. -/
def heldIn (above : DWord) (publ : Option Publication) (m : Word) (i : Instr) : State :=
  hold publ (on m i fun st => st.setG 1 (above + 0x00100001#64))

/-- The handle in g1 names a buffer that core 0 holds. -/
def isHeld (p : Strand → Buffer → Bool) (st : Strand) (s : State) : Bool :=
  match s.heldBuffer s.cur.1 st (lo32 (st.gr 1)) with
  | some b => p st b
  | none => false

/-- It names none. -/
def notHeld (st : Strand) (s : State) : Bool := (s.heldBuffer s.cur.1 st (lo32 (st.gr 1))).isNone

/-- A register of use and form of the words on buffers. -/
def ends : Form := { ends := true }

theorem hyp_BufferWords : ∀ x ∈ ([
    ⟨.balloc 2 1, useG, ends, on 0 (.balloc 2 1) fun st => st.setG 1 64#64, fun st s =>
      st.member && decide (1 ≤ (st.gr 1).toNat ∧ (st.gr 1).toNat ≤ 64) && (s.core 0).freeRun (st.gr 1).toNat == some 0⟩,
    ⟨.balloc 2 1, useG, ends, on 0 (.balloc 2 1) fun st => st.setG 1 65#64, fun st _ => decide (64 < (st.gr 1).toNat)⟩,
    ⟨.balloc 2 1, useG, ends, hold none (on 0 (.balloc 2 1) fun st => st.setG 1 63#64), fun st s =>
      decide (1 ≤ (st.gr 1).toNat) && ((s.core 0).freeRun (st.gr 1).toNat).isNone⟩,
    ⟨.balloc 2 1, useG, ends, on 0 (.balloc 2 1) fun st => st.setG 1 0#64, fun st _ => st.member && st.gr 1 == 0#64⟩,
    ⟨.bgive 1 0 0, { gRead := [1] }, ends, heldIn 0 (some ⟨true⟩) 0 (.bgive 1 0 0), isHeld fun _ b => b.publ.isSome⟩,
    ⟨.bgive 1 0 2, { gRead := [1] }, ends, heldIn 0 none 0 (.bgive 1 0 2), fun st s =>
      isHeld (fun _ b => b.publ.isNone) st s && coreAt 0 2 / 8 != s.cur.1 / 8⟩,
    ⟨.bgive 1 0 1, { gRead := [1] }, ends, heldIn 0 none 0 (.bgive 1 0 1), fun st s =>
      isHeld (fun _ b => b.publ.isNone) st s && coreAt 0 1 / 8 == s.cur.1 / 8 &&
      !s.holdsStrand (coreAt 0 1) st.launch st.block⟩,
    ⟨.bgive 1 0 0, { gRead := [1] }, ends, heldIn 0 none 0 (.bgive 1 0 0), fun st s =>
      isHeld (fun _ b => b.publ.isNone) st s && coreAt 0 0 / 8 == s.cur.1 / 8 &&
      s.holdsStrand (coreAt 0 0) st.launch st.block⟩,
    ⟨.bgive 1 0 0, { gRead := [1] }, ends, on 0 (.bgive 1 0 0), notHeld⟩,
    ⟨.bfree 1, { gRead := [1] }, ends, heldIn 0 none 0 (.bfree 1), isHeld fun _ _ => true⟩,
    ⟨.bfree 1, { gRead := [1] }, ends, on 0 (.bfree 1), notHeld⟩,
    ⟨.publ 1, { gRead := [1] }, ends, heldIn 0x100000000#64 none 0 (.publ 1), fun st s =>
      isHeld (fun st b => slice (st.gr 1) 63 34 == 0 && slice (st.gr 1) 33 32 == 1 && b.publ.isNone && b.count % 2 == 0) st s &&
      decide (s.published 0 < 8)⟩,
    ⟨.publ 1, { gRead := [1] }, ends, heldIn 0 (some ⟨true⟩) 0 (.publ 1),
      isHeld fun st b => slice (st.gr 1) 33 32 == 0 && b.publ.isSome⟩,
    ⟨.publ 1, { gRead := [1] }, ends, heldIn 0x200000000#64 (some ⟨true⟩) 0 (.publ 1),
      isHeld fun st b => slice (st.gr 1) 33 32 == 2 && b.publ.isSome⟩,
    ⟨.btake 2, { gDest := [2] }, ends,
      (hold none (on 0 (.btake 2))).modCore 0 fun k => { k with handOver := [⟨0x5#32, 9, 0#64⟩, ⟨0x00100001#32, 0, 0#64⟩] },
      fun st s => st.member && match (s.core 0).handOver with
        | [a, h] => !(a.launch == st.launch && a.block == st.block) && h.launch == st.launch && h.block == st.block &&
            (s.buffer? 0 h.handle).isSome
        | _ => false⟩,
    ⟨.btake 2, { gDest := [2] }, ends, on 0 (.btake 2), fun _ s => (s.core 0).handOver.isEmpty⟩] : List Case), x.Met :=
  allMet (by decide +kernel)

/-- BGIVE, BFREE and PUBL that have issued and wait. -/
theorem hyp_BufferSteps : ([
    (.bgive 1 0 0, none), (.bfree 1, none), (.publ 1, some ⟨true⟩)] : List (Instr × Option Publication)).all (fun x =>
      let s := after (exec x.1 (heldIn 0 x.2 0 x.1))
      match s.strand? 0 0, s.buffer? 0 0x00100001#32 with
      | some st, some b => (match st.wait with
          | .bgive h t _ => h == 0x00100001#32 && !s.bufferBusy (handleHome 0 h) b && s.accessesDone 0 0 &&
              decide ((s.core t).handOver.length < 64)
          | .bfree h => h == 0x00100001#32 && !s.bufferBusy (handleHome 0 h) b &&
              (s.core 0).buffers.all fun y => y.handle 0 != h || (y.serial == b.serial && y.first == b.first)
          | .publ h act => h == 0x00100001#32 && act == 0 && b.publ.isSome && s.accessesDone 0 0 &&
              !(clusterOf (handleHome 0 h)).any fun k => (s.core k).engineNames (handleHome 0 h) k b
          | _ => false)
      | _, _ => false) = true := by decide +kernel

/-- A buffer of two granules whose second half is visible, about to be retired. -/
theorem hyp_BufferSteps_retire :
    let h : Word := 0x00100001#32
    let s := (hold (some ⟨false⟩) (placed .nop)).modStrand 0 0 fun st => { st with wait := .publ h 2 }
    (match s.strand? 0 0, s.buffer? 0 h with
      | some st, some b => st.wait == .publ h 2 && b.publ == some ⟨false⟩ && b.count / 2 == 1 &&
          !(clusterOf (handleHome 0 h)).any fun k => (s.core k).engineNames (handleHome 0 h) k b
      | _, _ => false) = true := by decide +kernel

/-! The matrix engine. -/

/-- A matrix word of use u that names parts p issues alone, and q holds of the strand and the state. -/
def matGood (i : Instr) (u : Use) (p : Strand → Parts) (future : Bool) (q : Strand → State → Bool) (s : State) : Bool :=
  match s.here? with
  | none => false
  | some st =>
    Case.good ⟨i, u, { always := true, whole := true }, s, q⟩ && st.member && decide (st.gangCount < 2) &&
    !(s.core s.cur.1).matrix.otherHolds st (p st) && (!future || (s.accessesDone s.cur.1 s.cur.2 &&
      decide (((s.before u {} st).core s.cur.1).freeFuture ≠ none)))

theorem matMet {i : Instr} {u : Use} {p : Strand → Parts} {future : Bool} {q : Strand → State → Bool} {s : State}
    (h : matGood i u p future q s = true) :
    ∃ st t, MatReady i u (p st) future st s ∧ q st s = true ∧ exec i s = .next t := by
  unfold matGood at h
  split at h
  · cases h
  · rename_i st hs
    simp only [Bool.and_eq_true, Bool.not_eq_true', Bool.or_eq_true, decide_eq_true_eq] at h
    obtain ⟨⟨⟨⟨h1, h2⟩, h3⟩, h4⟩, h5⟩ := h
    obtain ⟨x, t, r, hq, ht⟩ := Case.met h1
    have hx : x = st := Option.some.inj (r.here.symm.trans hs)
    subst hx
    exact ⟨x, t, ⟨r, h2, h3, h4, fun hf => (h5.resolve_left (by simp [hf])).1,
      fun hf => (h5.resolve_left (by simp [hf])).2⟩, hq, ht⟩

/-- A matrix word: its use, the parts that it names, whether it returns a future, the state, and what else is supposed. -/
structure MatCase where
  word   : Instr
  use    : Use
  parts  : Strand → Parts
  future : Bool
  state  : State
  more   : Strand → State → Bool

/-- It is ready, and answers a next state. -/
def MatCase.Met (x : MatCase) : Prop :=
  ∃ st t, MatReady x.word x.use (x.parts st) x.future st x.state ∧ x.more st x.state = true ∧ exec x.word x.state = .next t

theorem allMatMet {xs : List MatCase}
    (h : xs.all (fun x => matGood x.word x.use x.parts x.future x.more x.state) = true) : ∀ x ∈ xs, x.Met :=
  fun x hx => matMet (List.all_eq_true.mp h x hx)

/-- Scratch of core 0 held for the block, and g1, g2, g3. -/
def mat (m : Word) (g1 g2 g3 : DWord) (i : Instr) (f : Strand → Strand := id) : State :=
  hold none (on m i fun st => f (((st.setG 1 g1).setG 2 g2).setG 3 g3))

/-- The use of words with fields d, a, b on g1, g2, g3: those read, and whether g1 is written. -/
def useM (reads : List Nat) (dest : Bool) : Use := { gRead := reads, gDest := if dest then [1] else [] }

/-- The active plane holds one weight row of 64 elements of i8x4. -/
def planed (s : State) : State :=
  s.modCore 0 fun k => { k with matrix := { k.matrix with active := ⟨some .i8x4, 1, [List.replicate 64 3]⟩ } }

theorem hyp_MatrixWords : ∀ x ∈ ([
    ⟨.mlds 1 2 3, useM [2, 3] true, fun _ => ⟨true, []⟩, true, mat (ty 7) 0 0 1 (.mlds 1 2 3), fun st s =>
      isWeight st.mtype && decide (1 ≤ (st.gr 3).toNat ∧ (st.gr 3).toNat ≤ 128 ∧ (lo32 (st.gr 2)).toNat % 4 = 0) &&
      isOk (s.operand 0 st 0 (1 * weightRow st.mtype))⟩,
    ⟨.mlds 1 2 3, useM [2, 3] true, fun _ => ⟨true, []⟩, true, mat (ty 3) 0 10236 64 (.mlds 1 2 3), fun st s =>
      isWeight st.mtype && decide (1 ≤ (st.gr 3).toNat ∧ (st.gr 3).toNat ≤ 64 ∧ (lo32 (st.gr 2)).toNat % 4 = 0) &&
      !isOk (s.operand 0 st 10236 (64 * weightRow st.mtype))⟩,
    ⟨.mact, {}, fun _ => ⟨true, []⟩, false, mat 0 0 0 0 .mact, fun _ _ => true⟩,
    ⟨.mband 2 3, useM [2, 3] false, fun _ => ⟨true, []⟩, false, mat 0 0 0xFFFFFFFF00000001#64 0xFF800000#64 (.mband 2 3),
      fun st _ => hi32 (st.gr 3) == 0#32⟩,
    ⟨.mmul 1 2 3, useM [1, 2, 3] true, fun st => ⟨true, matRows (slice (st.gr 1) 12 0) (slice (st.gr 1) 20 13)⟩, true,
      planed (mat (ty 7) 0x603FC0#64 0 8 (.mmul 1 2 3)), fun st s =>
      slice (st.gr 1) 63 23 == 0 && spanOk (slice (st.gr 1) 12 0) (slice (st.gr 1) 20 13) &&
      decide ((st.gr 3).toNat ≤ 327680 ∧ (st.gr 3).toNat % 4 = 0 ∧ (lo32 (st.gr 2)).toNat % 4 = 0) &&
      (match (s.core 0).matrix.activeAhead with
        | some (w, k) => pairOk w k st.mtype && isOk (s.operands 0 st (k * st.mtype.width / 8)
            ((List.range (slice (st.gr 1) 20 13)).map fun r => (lo32 (st.gr 2)).toNat + r * (st.gr 3).toNat))
        | none => false)⟩,
    ⟨.scacc 1 2, useM [1, 2] true,
      fun st => ⟨false, matRows (slice (st.gr 1) 44 32) (slice (st.gr 1) 20 13) ++
        matRows (slice (st.gr 1) 12 0) (slice (st.gr 1) 20 13)⟩, true, mat 0 0x00000000002020C0#64 9920 0 (.scacc 1 2),
      fun st s =>
        let p := slice (st.gr 1) 44 32
        let d := slice (st.gr 1) 12 0
        let n := slice (st.gr 1) 20 13
        slice (st.gr 1) 63 45 == 0 && slice (st.gr 1) 31 22 == 0 && spanOk d n && spanOk p n &&
        (matRows d n).all (fun r => !(matRows p n).contains r) && decide ((lo32 (st.gr 2)).toNat % 4 = 0) &&
        isOk (s.operand 0 st (lo32 (st.gr 2)).toNat 320)⟩,
    ⟨.mrd 1 2 3, useM [2, 3] true, fun st => ⟨false, matRows (slice (st.gr 2) 12 0) (slice (st.gr 2) 20 13)⟩, true,
      mat (ty 2) 0 0x203FC0#64 9984 (.mrd 1 2 3), fun st s =>
        slice (st.gr 2) 63 22 == 0 && spanOk (slice (st.gr 2) 12 0) (slice (st.gr 2) 20 13) && isReadOut st.mtype &&
        decide ((lo32 (st.gr 3)).toNat % 4 = 0) && decide (s.scratchAt 0 st.launch st.block true (lo32 (st.gr 3)).toNat
          (slice (st.gr 2) 20 13 * 8 * st.mtype.width) ≠ none) &&
        !st.idemSpan 0 (lo32 (st.gr 3)).toNat (slice (st.gr 2) 20 13 * 8 * st.mtype.width)⟩,
    ⟨.mclr 2, useM [2] false, fun st => ⟨(st.gr 2).getLsbD 22, matRows (slice (st.gr 2) 12 0) (slice (st.gr 2) 20 13)⟩, false,
      mat 0 0 0x100000#64 0 (.mclr 2), fun st s =>
        slice (st.gr 2) 63 23 == 0 && spanOk (slice (st.gr 2) 12 0) (slice (st.gr 2) 20 13) &&
        (s.core 0).matrix.holds st ⟨(st.gr 2).getLsbD 22, if (st.gr 2).getLsbD 21 then
          matRows (slice (st.gr 2) 12 0) (slice (st.gr 2) 20 13) else []⟩⟩] : List MatCase), x.Met :=
  allMatMet (by decide +kernel)

theorem hyp_MatrixWords_gang : ∀ x ∈ ([
    ⟨.gang 1, { gRead := [1] }, { always := true, whole := true }, on 0 (.gang 1) fun st => st.setG 1 0x202#64,
      fun st s => gangOk s.cur.2 (st.gr 1) && st.member⟩,
    ⟨.mstep 2 1, useG, { always := true, whole := true, waits := false }, withFuture .matrix false (.mstep 2 1),
      fun st s => st.member && (s.named? 0 (st.gr 1)).isSome⟩] : List Case), x.Met := allMet (by decide +kernel)

/-- An operand record of Table 10-7 at scratch 0: rows of A at 64, no bitmap, B at 128, K and the slots of a group. -/
def sparseAt (k dens : Nat) (s : State) : State :=
  s.pokeScratch 0 0 (bytesOf 4 64 ++ bytesOf 4 0 ++ bytesOf 4 128 ++ bytesOf 2 k ++ bytesOf 2 dens)

theorem hyp_MatrixWords_sparse : ∀ x ∈ ([(1, 1, true), (32, 8, true), (0, 1, false), (32, 9, false)] :
    List (Nat × Nat × Bool)).map (fun x =>
      (⟨.mmsp 1 2 6, { reads := [6], gRead := [1, 2], gDest := [1] },
        fun st => ⟨false, matRows (slice (st.gr 1) 12 0) (slice (st.gr 1) 20 13)⟩, true,
        sparseAt x.1 x.2.1 (mat (ty 7) 0x2000#64 0 0 (.mmsp 1 2 6) fun st => { st with v := [(6, .uniform 1#32)] }),
        fun st s => slice (st.gr 1) 31 22 == 0 && spanOk (slice (st.gr 1) 12 0) (slice (st.gr 1) 20 13) &&
          (is16 st.mtype || is8 st.mtype) && match s.sparseRec st (lo32 (st.gr 2)).toNat with
            | .error _ => false
            | .ok r => r.bad (st.bitmaps 6) == !x.2.2 && (!x.2.2 || (isOk (s.sparseRows st st.mtype r 1) &&
                isOk (s.sparseCols st st.mtype r ((st.bitmaps 6).zipIdx.map fun y => (y.2, y.1)))))⟩ : MatCase)), x.Met :=
  allMatMet (by decide +kernel)

/-- A queue of one operation of a kind, with no unit performed, of the placed strand's block. -/
def matQueue (k : MatKind) : State :=
  (placed .nop).modCore 0 fun x => { x with matrix := { x.matrix with
    queue := [⟨k, none, [(0, 0#8)], 0, 0#64, 0, 0, 0#5, []⟩] } }

theorem hyp_MatrixSteps : ∀ k ∈ ([
    .mlds .i8x4 [List.replicate 64 1], .mact, .mband (-1) 1 0xFF800000#32, .mclr 0 128 true true,
    .mmul .i8x4 0 2 true true [[1], [2]], .mmsp .i8x4 0 1 0 true [0, 5] [] [] [], .scacc 0 128 2 false [] [],
    .mrd .f32 0 2 true 0#32 0#32] : List MatKind),
    ∃ q, Heads (matQueue k) 0 q [] ∧ q.kind = k ∧ q.units = 0 := by
  intro k hk
  simp only [List.mem_cons, List.not_mem_nil, or_false] at hk
  rcases hk with rfl | rfl | rfl | rfl | rfl | rfl | rfl | rfl <;>
    exact ⟨⟨_, none, [(0, 0#8)], 0, 0#64, 0, 0, 0#5, []⟩, ⟨rfl, rfl, by decide +kernel, by decide +kernel⟩, rfl, rfl⟩

/-- An operation of a kind at the head of the queue, changed by f, with a future in slot 3 that a register is bound to, and
scratch held for its block; p holds of the state and of the operation, and its step runs. -/
def headOf (k : MatKind) (cancel : Bool) (f : MatOp → MatOp) (p : State → MatOp → Bool := fun _ _ => true) : Bool :=
  let s := (hold none (withFuture .matrix false .nop)).modCore 0 fun x => { x with
    futures := x.futures.map fun y => (y.1, { y.2 with cancel := cancel })
    matrix := { x.matrix with queue := [f ⟨k, some 3, [(0, 0#8)], 0, 0#64, 0, 0, 0#5, []⟩] } }
  match (s.core 0).matrix.queue with
  | [q] => (s.block? q.launch q.block).isSome && !(s.core 0).awaited 3 1 && (s.core 0).matCancelled q == cancel &&
      (s.strand? 0 0).isSome && (match Assoc.find (s.core 0).futures 3 with
        | some x => !x.done && !x.binding.isEmpty
        | none => false) && p s q && (match exec (q.kind.perform 0) s with
        | .next t => (t.core 0).matrix.queue.isEmpty
        | _ => false)
  | _ => false

/-- A row or two for MRD, whose bytes go to scratch at 0. -/
def mrdHead : MatKind := .mrd .f32 0 2 true 0#32 0#32

/-- The bytes of an MRD that is done have a place in scratch whose sectors are good. -/
def placedRows (s : State) (q : MatOp) (bs : List Byte) : Bool :=
  match s.scratchAt 0 q.launch q.block true 0 bs.length with
  | some (k, b) => ((s.core k).badRange (b.place true 0) bs.length).isNone
  | none => false

theorem hyp_MatrixSteps_last :
    headOf (.mmul .i8x4 0 2 true true [[1], [2]]) false (fun q => { q with units := 1 }) = true ∧
    headOf (.mmsp .i8x4 0 1 1 true [0, 5] [] [] []) false id = true ∧
    headOf (.mmsp .i8x4 0 1 0 true [] [] [] []) false id = true ∧
    headOf (.scacc 0 128 2 false [] []) false (fun q => { q with units := 1 }) = true ∧
    headOf mrdHead false (fun q => { q with units := 1, out := List.replicate 256 1#8 }) (fun s q =>
      placedRows s q (q.out ++ ((s.core 0).matrix.readRow .f32 0 1 true 0#32).2.1)) = true := by decide +kernel

/-- An MCLR of rows 0 and 1 and the plane set, with an MRD of row 1 after it in the queue: row 1 stays held (log 34), row 2 is
as it was. -/
theorem hyp_MatrixSteps_clear :
    let k (x : MatKind) : MatOp := ⟨x, none, [(0, 0#8)], 0, 0#64, 0, 0, 0#5, []⟩
    let m : Matrix := { Matrix.reset with
      accum := [(0, ⟨5, 1#5⟩), (64, ⟨6, 0#5⟩), (128, ⟨7, 0#5⟩)], rows := [(0, (0, 0#64)), (1, (0, 0#64)), (2, (0, 0#64))]
      planes := some (0, 0#64), lower := 1, queue := [k (.mclr 0 2 true true), k (.mrd .f32 64 1 true 0#32 0#32)] }
    let x := m.clear (k (.mclr 0 2 true true)) 0 2 true true
    x.accum = [(128, ⟨7, 0#5⟩)] ∧ x.rows = [(1, (0, 0#64)), (2, (0, 0#64))] ∧ x.planes = none ∧ x.lower = -2147483648 := by decide +kernel


theorem hyp_MatrixSteps_ended :
    headOf .mact false (fun q => { q with status := 0x14 }) = true ∧ headOf mrdHead false (fun q => { q with status := 0x14 }) = true ∧
    headOf (.mmsp .i8x4 0 1 0 true [0, 5] [] [] []) true id = true ∧ headOf .mact true id = true ∧
    headOf mrdHead true (fun q => { q with units := 1, out := List.replicate 256 1#8 }) (fun s q => placedRows s q q.out)
      = true := by decide +kernel

/-! Migration. -/

/-- A strand whose registers 10:11 hold reference x in every lane, with live mask 1 in g1. -/
def goes (x : DWord) (flags : BitVec 12) (st : Strand) : Strand :=
  { st.setG 1 1#64 with v := [(0, .uniform 7#32), (10, .uniform (lo32 x)), (11, .uniform (hi32 x))], flags := flags }

/-- The use of GO and GOM of 10:11 with the live mask in g1. -/
def useGo : Use := { aRegs := [10, 11], gRead := [1] }

/-- Every flag is set, no register beyond the strand's is named, and the lanes refused and departing are as said. -/
def fated (i : Instr) (u : Use) (refused departs : Bool) (st : Strand) (s : State) : Bool :=
  st.flags == 0xFFF#12 && !st.selectsBeyond (st.gr 1) &&
  (refusedLanes ((s.fatesOf i st (st.gr 1)).getD [])).isEmpty == !refused &&
  ((s.before u {} st).fatesOf i st (st.gr 1)).any fun fs => (departing fs).isEmpty == !departs

theorem hyp_MigrationWords : ∀ x ∈ ([
    ⟨.go 5 1, useGo, {}, world (on 0 (.go 5 1) (goes (farRef 0 5) 0xFFF)), fated (.go 5 1) useGo false true⟩,
    ⟨.go 5 1, useGo, {}, world (on 0 (.go 5 1) (goes 0#64 0xFFF)), fated (.go 5 1) useGo true false⟩,
    ⟨.gom 5 1, useGo, {}, world (on 0 (.gom 5 1) (goes (farRef 0 5) 0xFFF)), fated (.gom 5 1) useGo false true⟩,
    ⟨.gom 5 1, useGo, {}, world (on 0 (.gom 5 1) (goes 0#64 0xFFF)), fated (.gom 5 1) useGo true false⟩,
    ⟨.goto 1 15 19 1, { gRead := [1] }, {}, world (on 0 (.goto 1 15 19 1) (goes 0#64 0xFFF)),
      fated (.goto 1 15 19 1) { gRead := [1] } false true⟩,
    ⟨.goto 1 0 0 0, { gRead := [1] }, {}, world (on 0 (.goto 1 0 0 0) (goes 0#64 0xFFF)),
      fated (.goto 1 0 0 0) { gRead := [1] } false false⟩,
    ⟨.goto 1 15 19 1, { gRead := [1] }, {}, on 0 (.goto 1 15 19 1) (goes 0#64 0xFFF),
      fated (.goto 1 15 19 1) { gRead := [1] } true false⟩,
    ⟨.goto 1 15 19 0, { gRead := [1] }, {}, world (on 0 (.goto 1 15 19 0) (goes 0#64 0xBFF)),
      fun st _ => st.flags != 0xFFF#12⟩,
    ⟨.gom 5 1, useGo, {}, world (on 0 (.gom 5 1) (goes (farAway 5) 0xFFF)), fun st s =>
      st.flags == 0xFFF#12 && !st.selectsBeyond (st.gr 1) && (s.fatesOf (.gom 5 1) st (st.gr 1)).isNone &&
      ((s.before useGo {} st).fatesOf (.gom 5 1) st (st.gr 1)).isNone⟩] : List Case), x.Met := allMet (by decide +kernel)

/-- The strand of lanes 0 to 3 of GOTO to core (0, 1), waiting to depart. -/
def waiting : State :=
  after (exec (.goto 1 0 1 0) (world (on 0 (.goto 1 0 1 0) fun st => { (goes 0#64 0xFFF st).setK 0 0xF#64 with member := false })))

/-- The same with its flacons under way, and with the flacons arrived and all acknowledged. -/
def underWay : State := after (exec (.flaconSend 0 0) waiting)

/-- The departing lanes of that strand have exited in a handler meanwhile: none is left. -/
theorem hyp_Migration_none_left : (match (waiting.modHere fun st => { st with exited := 0xF#64 }).here? with
    | none => false
    | some st => match st.wait with
      | .depart d => (d.part st.live).1.deps.isEmpty && !(d.part st.live).2.deps.isEmpty
      | _ => false) = true := by decide +kernel

/-- The flacons of that strand at their destination. -/
def arrived : State :=
  (List.range 4).foldl (fun s _ => after (exec (.flaconArrival 0 true) s)) underWay

theorem hyp_Migration_send : (match waiting.strand? 0 0 with
    | none => false
    | some st => match st.wait with
      | .depart d => waiting.writesDone 0 0 (maskOf (d.deps.map (·.lane))) && ((waiting.core 0).copies.any fun q =>
            q.slot == 0 && q.gen == (waiting.core 0).gen 0) == false && !(waiting.core 0).gathers 0 ((waiting.core 0).gen 0) && (waiting.core 0).carriedDone 0 st d.live &&
          d.deps.all (fun x => x.pkg == Config.packageNumber && st.live.getLsbD x.lane) &&
          st.live &&& ~~~ maskOf (d.deps.map (·.lane)) != 0#64 &&
          !st.member && d.deps.length == 4
      | _ => false) = true := by decide +kernel

theorem hyp_Migration_flacons : underWay.transit[0]?.isSome = true ∧ arrived.acks[3]?.isSome = true ∧
    (match (arrived.core 1).arrived with
      | a :: _ => a.ready && (match lowestFlacon a.flacons with
          | some f => (arrived.core 1).roomFor f.width f.nregs && a.flacons.all (fun y => decide (y.lane < f.width)) &&
              decide (f.width ≤ 64) && decide (a.flacons.map (·.lane)).Nodup && f.live == 1#64
          | none => false)
      | [] => false) = true := by decide +kernel

/-- The set that becomes a strand is the first that closed, and its threads keep their work identifiers. -/
theorem hyp_Migration_form : (match closeDue arrived.timePs (arrived.core 1).arrived.length (arrived.core 1).arrived with
    | a :: _ => a.ready && (match lowestFlacon a.flacons with
        | some f => (arrived.core 1).roomFor f.width f.nregs && decide (f.width ≤ 64) && a.flacons.all fun y =>
            decide (y.lane < f.width) && y.workId - BitVec.ofNat 64 y.lane == f.workId - BitVec.ofNat 64 f.lane &&
            f.live.getLsbD 0 && !f.empty.getLsbD 0
        | none => false)
    | [] => false) = true := by decide +kernel

/-- After one arrival of four the set is open; its window closes 10 ns for each unit after it opened. -/
theorem hyp_Migration_window : (match ((after (exec (.flaconArrival 0 true) underWay)).core 1).arrived with
    | a :: _ => !a.ready && (match a.flacons with
        | f :: _ => decide (a.opened + f.window.toNat * 10000 ≤ 10 ^ 12)
        | [] => false)
    | [] => false) = true := by decide +kernel

/-- A clause whose first word names registers that hold no far reference, one that names block 5, of stack 3, and one that
names a block of package 1. -/
theorem hyp_Migration_implicit :
    let s (x : DWord) : State := world ((placed (.ld 4 5 0)).modHere fun st =>
      let st := goes x 0xFFF st
      { st with wait := .implicit, group := { st.group with policy := 1 } })
    ([(0x20000#64, some true), (farRef 0 5, some false), (farAway 5, none)] : List (DWord × Option Bool)).all (fun y =>
      match (s y.1).strand? 0 0 with
      | some st => st.wait == .implicit && (match st.clause with
          | some k => ((s y.1).fates? 0 st st.whole true ((s y.1).implicitLeaving 0 st k)).map
              (fun fs => (departing fs).isEmpty) == y.2
          | none => false)
      | none => false) = true := by decide +kernel

/-! Launches, saves, banks, services, links, boot. -/

/-- The package after boot, with pages for page tables, and the record of a launch in a mapped page at 0x200000. -/
def booted (bytes : List Byte) : State :=
  let s := placed .nop
  let s := { s with boot := { s.boot with next := 3 }, mgmt := { s.mgmt with pages := List.range' 16 8 } }
  let s := (State.mapPages 0 false true 0x200000 [32] s).getD s
  { s with mem := s.mem.poke 0x200000 bytes }

theorem hyp_Launches_service : (booted []).kuenrex = true ∧ (booted []).windowOpen = false ∧
    isOk ((booted (recordBytes 0x10000)).apart fun x => x.readRecord (x.commandWho 0 0) 0x200000 false).2 = true ∧
    isOk ((booted (recordBytes 0x10002)).apart fun x => x.readRecord (x.commandWho 0 0) 0x200000 false).2 = false ∧
    isOk ((booted []).apart fun x => x.readRecord (x.commandWho 0 0) 0x200001 false).2 = false ∧
    (placed .nop).kuenrex = false ∧ ({ booted [] with mgmt := { Mgmt.reset with window := true } } : State).windowOpen = true := by
  decide +kernel

/-- A launch of two blocks of two strands each that has not begun. -/
def newLaunch : Launch :=
  { guestLaunch with number := 7, next := some [0, 0, 0, 0], threads := 0, started := false,
                     record := { guestRecord with limits := [8, 2, 2, 1, 1, 1], widths := [3, 1, 1, 0, 0, 0], barriers := 1, regs := 16 } }

theorem hyp_Launches_dispatch :
    let s : State := { State.reset with launches := [(7, newLaunch)] }
    let full : State := { s with launches := [(7, { newLaunch with record := { newLaunch.record with spread := 9 } })] }
    (firstLaunch s.launches = some newLaunch) ∧ newLaunch.next = some [0, 0, 0, 0] ∧
    s.findPlace newLaunch.record = some (0, 1) ∧ Assoc.find (s.clearResult newLaunch).launches 7 = some newLaunch ∧
    (firstLaunch full.launches).isSome = true ∧ full.findPlace { newLaunch.record with spread := 9 } = none := by
  decide +kernel

theorem hyp_Launches_complete :
    let done : Launch := { newLaunch with next := none }
    let s : State := { State.reset with launches := [(7, done)] }
    s.launchDone done = true ∧ done.complete = false ∧ done.record.result = 0#64 ∧ done.record.nsucc = 0 ∧
    s.launchDone { newLaunch with cancelled := true } = true ∧ s.launchDone newLaunch = false ∧
    (placed .nop).here?.isSome = true := by decide +kernel

/-- The placed strand, asked to be pre-empted for the area at 0x300000 and saving. -/
def saving (kind : Nat) (bar : Option (Nat × BitVec 32 × LaneMask)) (area : Nat) : State :=
  (placed .nop).modHere fun st => { filled 0 st with
    lineage := 1#64, nregs := 32, preempt := some ⟨area, none, none, 100000000⟩, wait := .saving kind 0xFFFFFFFF#256 0#64 bar }

theorem hyp_SavesAndRestores_requests :
    (match (placed .nop).here? with
      | some st => ((placed .nop).core 0).gen 0 == 0#8 && st.preempt.isNone
      | none => false) = true ∧ (placed .nop).strand? 0 5 = none ∧ (placed .nop).kuenrex = false ∧
    (booted []).kuenrex = true ∧ (booted []).here?.isSome = true ∧
    ([Wait.none, .bar 3 0#32 1#64, .barw 3 0#32 1#64].all fun w =>
      match ((saving 0 none 0x300000).modHere fun st => { st with wait := w }).here? with
      | some st => st.wait == w && st.mode == .u && st.depth == 0 && (match st.preempt with
          | some p => decide (100000000 ≤ p.waited)
          | none => false)
      | none => false) = true := by decide +kernel

/-- What STRAND_SAVE writes for the strand in slot 0 of core 0, and whether that succeeds; none where it waits. -/
def saveOk (s : State) (kind : Nat) (gran : DWord) (bar : Option (Nat × BitVec 32 × LaneMask)) : Option (Option Cause × Bool) :=
  match s.strand? 0 0 with
  | none => none
  | some st =>
    match st.preempt with
    | none => none
    | some p =>
      if ((s.core 0).strandOps 0).isEmpty && !s.saveWaits 0 0 st && st.wait == .saving kind 0xFFFFFFFF#256 gran bar then
        let x := st.saveSet kind 0xFFFFFFFF#256 gran bar
        some ((lanesOf x.granules).findSome? fun j => (s.core 0).badRange (j * granuleBytes) granuleBytes,
          isOk (s.engineWrite (s.engineWho 0 p.domain (p.future.map (·.2)) st.launch) p.domain p.area
            (saveBytes (s.core 0) 0 0 st x (if st.member then s.heldHandles 0 st.launch st.block else []))).2)
      else none

theorem hyp_SavesAndRestores_save :
    saveOk (saving 0 none 0x300000) 0 0#64 none = some (none, true) ∧
    saveOk (saving 1 (some (3, 0#32, 1#64)) 0x300000) 1 0#64 (some (3, 0#32, 1#64)) = some (none, true) ∧
    saveOk (saving 0 none (2 ^ 39)) 0 0#64 none = some (none, false) ∧
    saveOk (saving 1 (some (3, 0#32, 1#64)) (2 ^ 39)) 1 0#64 (some (3, 0#32, 1#64)) = some (none, false) ∧
    (saveOk (((saving 0 none 0x300000).modHere fun st => { st with wait := .saving 0 0xFFFFFFFF#256 1#64 none }).modCore 0
      fun k => { k with scratchPoison := [5] }) 0 1#64 none).map (·.1) = some (some .uncorrectable) := by decide +kernel

/-- A package that boot has made ready. -/
def ready (s : State) : State := { s with boot := { s.boot with next := 3 } }

/-- The same strand swapped out, and the restore that KUENREX_RESTORE asks for from an area. -/
def swapped (area : Nat) : State :=
  after (exec (.kuenrexRestore 0 area) (after (exec (.strandSave 0 0) (ready (saving 0 none 0x300000)))))

/-- Reads of the save engine that are made: an area with a header, an area of zeros, and one where no memory is. -/
theorem hyp_SavesAndRestores_queue :
    let s := after (exec (.strandSave 0 0) (saving 0 none 0x300000))
    let w := s.engineWho 0 none none 0
    (match s.engineRead w none 0x300000 1536 with
      | (s1, .ok head) => areaShape head &&
          isOk (s1.engineRead w none 0x300000 (areaGranules head + granuleBytes * popCount (areaMask head))).2
      | _ => false) = true ∧
    (match s.engineRead w none 0x400000 1536 with
      | (_, .ok head) => !areaShape head
      | _ => false) = true ∧ isOk (s.engineRead w none (2 ^ 39) 1536).2 = false := by decide +kernel

/-- What stands in the way of the oldest restore of core 0: its status, no note, a malformed area or an ended launch, no room;
none: it is made, in slot 0. -/
def restoreCase (s : State) : Option Nat :=
  match (s.core 0).restores with
  | [] => none
  | r :: rest =>
    let s0 := s.modCore 0 fun k => { k with restores := rest }
    if r.status ≠ 0 then some 1
    else match (s0.core 0).noteOf r.bytes with
      | none => some 2
      | some x =>
        if areaAt r.bytes 60 2 ≠ 0 ∨ !areaLegal r.bytes x ∨ s0.launchEnded x.launch then some 3
        else if !s0.restoreFits 0 (8 * 2 ^ areaAt r.bytes 5 1) (areaAt r.bytes 6 2) || !((s0.core 0).parkedOf 0 x).isEmpty then some 4
        else if (s0.core 0).freeSlots.head? == some 0 && isOk (s0.engineWrite (s0.engineWho 0 r.domain r.future 0) r.domain
            (r.area + 96) (bytesOf 8 ((s0.core 0).gen 0).toNat)).2 then some (if x.broken && x.bar.isSome then 6 else 5)
        else none

/-- The threads of twelve more groups of 64 lanes and 256 registers: the pool is full. -/
def crowded (s : State) : State :=
  s.modCore 0 fun k => { k with slots := (List.range 12).map fun i =>
    (i + 8, { guestStrand true 0#32 with width := 64, nregs := 256 }) }

/-- The notes of core 0 changed by f. -/
def noted (f : SavedNote → SavedNote) (s : State) : State := s.modCore 0 fun k => { k with saved := k.saved.map f }

theorem hyp_SavesAndRestores_restore :
    restoreCase (swapped (2 ^ 39)) = some 1 ∧ restoreCase (swapped 0x400000) = some 2 ∧
    restoreCase (noted (fun x => { x with exited := 1#64 }) (swapped 0x300000)) = some 3 ∧
    restoreCase (crowded (swapped 0x300000)) = some 4 ∧ restoreCase (swapped 0x300000) = some 5 ∧
    restoreCase (noted (fun x => { x with broken := true, bar := some (3, 0#32, 1#64) }) (swapped 0x300000)) = some 6 := by
  decide +kernel

/-- Bank set 70, in stack 1, as f makes it, and stack 1 in a phase. -/
def banked (phase : Nat) (f : Bank → Bank) : State :=
  { State.reset with
    timePs := 10 ^ 9, banks := [(70, f Bank.reset)], stackCtl := [(1, { Stack.reset 1 with phase := phase })] }

theorem hyp_BankStates :
    (let s := banked 0 fun x => { x with allocated := true }
     (s.stackOf 1).phase = 0 ∧ (s.bank 70).allocated = true ∧ (s.bank 70).state = .active ∧
     (s.bank 70).idleFrom + 20000000 ≤ s.timePs) ∧
    (let s := banked 1 fun x => { x with allocated := true, idleFrom := 10 ^ 9 - 200000000 }
     (s.stackOf 1).phase = 1 ∧ (s.bank 70).idleFrom + 200000000 ≤ s.timePs) ∧
    ((banked 2 id).stackOf 1).phase = 2 ∧ ((banked 3 id).stackOf 1).phase = 3 ∧
    (let s := banked 0 fun x => { x with deepAllowed := true }
     (s.bank 70).allocated = false ∧ (s.bank 70).deepAllowed = true ∧ (s.bank 70).idleFrom + 100000000 ≤ s.timePs) ∧
    (let s := banked 0 fun x => { x with deepAllowed := true, state := .retention }
     (s.bank 70).state = .retention ∧ (s.bank 70).entering = false) ∧
    ((banked 0 fun x => { x with state := .deep, entering := true, rewake := true }).bank 70).entering = true ∧
    ((banked 0 fun x => { x with state := .waking, fromDeep := true }).bank 70).state = .waking ∧
    ((banked 0 fun x => { x with state := .waking }).bank 70).fromDeep = false := by decide +kernel

theorem hyp_MemorySideSteps_walk :
    let s := booted []
    let d := s.domainEntry 0
    0 < Config.cores ∧ (0x200000#64).toNat < 2 ^ 52 ∧ d.root2 = 0 ∧
    isOk (s.stage ⟨0, 0#16, d.key, .h, 0⟩ d.root1 false 0x200000).2 = true := by decide +kernel

/-- Block 5 of the paged store, in class 3 at slot 0x400000, of which nothing is stored. -/
def compactable (free : List Nat) : State :=
  { State.reset with
    blockBase := 0x300000
    mem := State.reset.mem.poke 0x300028 (bytesOf 8 (2 ^ 63 + 3 * 2 ^ 60 + 0x400000))
    stackCtl := [(0, { Stack.reset 0 with free := (List.range 3).map fun c => (c, free) })] }

/-- What the move of block 5 meets: its entry cannot be read, its map cannot be consumed, nothing to gain or nowhere to go,
or a slot. -/
def moves (s : State) : Nat :=
  match s.readEntry Who.nobody 5 with
  | (_, .error _) => 1
  | (t, .ok e) =>
    match State.consumeAll (t.mover e) (e.mapSectors 511) t with
    | (_, some _) => 2
    | (t1, none) =>
      let t1 := t1.serveSlot (t.mover e) e
      let cls := classFor (heldCount (t1.blockSectors e))
      if e.cls ≤ cls || ((t1.stackOf (e.stack 5)).slots e.tier cls).isEmpty || (t1.sealedOtherwise (t.mover e) e).isSome then 3
      else 4

theorem hyp_MemorySideSteps_compaction :
    let s := compactable [0x500000]
    let packed : State := { s with mem := s.mem.poke 0x300028 (bytesOf 8 (2 ^ 63 + 2 ^ 60 + 0x400000)) }
    moves { s with blockBase := 0x310000 } = 1 ∧
    moves { packed with mem := { packed.mem with poison := [0x400000 / 32] } } = 2 ∧
    moves (compactable []) = 3 ∧ moves s = 4 ∧ 0x500000 % 4096 = 0 ∧ 400 ≤ s.coreMHz ∧ s.coreMHz ≤ 800 := by decide +kernel

/-- A legal descriptor: an indexed table of 64 rows of 64 bytes. -/
def legalDesc : TableDesc := ⟨2, 1, 1, 0, 64, 16, 0, 0, [0], 1, 64, 0⟩

theorem hyp_TableServices_create :
    let s := booted []
    s.kuenrex = true ∧ legalDesc.legal = true ∧ ({ legalDesc with payload := 48 } : TableDesc).legal = false ∧
    s.placesOk 0x300000 [48] legalDesc.storeBytes = true ∧ s.storeTaken 0 0x300000 [48] = false ∧
    tierOf (48 * pageBytes) = some legalDesc.tier ∧ legalDesc.homesOk [48] = true ∧
    legalDesc.homesOk [2 ^ 20] = false ∧ s.freeNumber = some 1 ∧
    (State.mapPages 0 false true 0x300000 [48] s).isSome = true := by decide +kernel

/-- A table just made. -/
def withTable : State := after (exec (.tableCreate 0 legalDesc 0x300000 [48]) (booted []))

theorem hyp_TableServices_destroy : (Assoc.find withTable.tables 1).isSome = true ∧
    (let s := after (exec (.tableDestroy 1) withTable)
     match s.oldStores[0]? with
     | some o => o.returned == false && s.allDone o.running == false &&
         ({ s with launches := [] } : State).allDone o.running
     | none => false) = true := by decide +kernel

theorem hyp_TableServices_row :
    let x : Table := { someTable 2 with rows := [(3, ⟨.deleted [0], 5, 0#32⟩)] }
    let s : State := { placed .nop with tables := [(9, x)] }
    Assoc.find s.tables 9 = some x ∧ (x.rowAt 3).state = .deleted [0] ∧ s.allDone [0] = false ∧ s.allDone [] = true := by
  decide +kernel

/-- A file in the format of Table 2-4: a text of one clause, and no other section but its relocation records. -/
def imageOf (magic version : Nat) (relocs : List Byte) : List Byte :=
  let header := bytesOf 4 magic ++ bytesOf 4 version ++
    [4096, 8, 8192, 0, 8192, 0, 8192, 0, 8192, 0, 8192, relocs.length].flatMap (bytesOf 4)
  header ++ List.replicate (4096 - header.length) 0#8 ++ bytesOfWords [headerWord 0 0 15 15 0, 0x0F000000#32] ++
    List.replicate 4088 0#8 ++ relocs

/-- An executable of that file, with its places. -/
def image (bytes : List Byte) : Image :=
  { bytes := bytes, domain := 0, dataTables := [], dataRecords := [], clusterMap := [], textBase := 0x300000, dataBase := 0,
    recordBase := 0, textPages := [48], dataPages := [], recordPages := [], tableBases := [] }

theorem hyp_ImageAndRegisterServices :
    let s := booted []
    let img := image (imageOf 0x4F4C3458 1 [])
    s.kuenrex = true ∧ State.reset.kuenrex = false ∧ (image []).sections = none ∧
    fieldAt (imageOf 0 1 []) 0 4 ≠ 0x4F4C3458 ∧ fieldAt (imageOf 0x4F4C3458 2 []) 4 4 ≠ 1 ∧
    ((image (imageOf 0x4F4C3458 1 (bytesOf 4 4 ++ bytesOf 4 1))).sections.map fun p => p.relocsOk []) = some false ∧
    (match img.sections with
      | none => false
      | some p => p.relocsOk img.clusterMap && p.tables.length == img.tableBases.length &&
          decide ((State.loadTables 0 (p.tables.zip img.tableBases) [] s).2 = ([], true)) &&
          ((State.loadTables 0 (p.tables.zip img.tableBases) [] s).1.placeImage img p []).isSome) = true ∧
    (State.loadTables 0 [(⟨{ legalDesc with payload := 48 }, []⟩, (0x400000, [49]))] [] s).2 = ([], false) ∧
    0x20 ∈ ({ s.boot with withheld := [0x20] } : Boot).withheld ∧
    ({ State.reset with mgmt := { Mgmt.reset with maintenance := true } } : State).windowOpen = true := by decide +kernel

/-- A package whose port 2 is up and expects flit n, after f failures. -/
def linked (n f : Nat) : State :=
  { placed .nop with links := { Links.reset with ports := [(2, ⟨true, n, f, none, 0, 7, [(6, .linkAck 0)], false⟩)] } }

theorem hyp_LinksAndHost_flits :
    let s := linked 4 0
    let p := s.port 2
    let s0 := (s.putPort 2 { p with expect := p.expect + 1, fails := 0, asked := none }).control 2 (.linkAck 4)
    let w : LinkWho := ⟨1, 0, 0#16, 0#10, .u, 0⟩
    (s.port 2).up = true ∧ (s.port 3).up = false ∧ p.expect = 4 ∧ ((linked 4 16).port 2).fails = 16 ∧
    s0.nearForm (farRef 0 5).toNat = none ∧
    isOk (State.blockWords w.who 5 4 0 (world s0)).2 = true ∧ isOk (State.blockWords w.who 6 4 0 s0).2 = false ∧
    s0.usable 0#64 true = none ∧
    (({ s0 with tables := [(9, someTable 2)] } : State).usable (makeHandle 0 9 0 1) true).isSome = true ∧
    (∀ j ∈ s0.nearCores 0#16 0, s0.freeConts j < 1) ∧ (∃ j ∈ (world s0).nearCores 0#16 0, 1 ≤ (world s0).freeConts j) ∧ ((s.modCore 5 fun k => { k with reservedFar := 1 }).core 5).reservedFar = 1 ∧
    (∀ r ∈ s.links.requests, r.id = 9 → r.sent + 1000000000 ≤ s.timePs) ∧ 3 < p.expect ∧ p.expect < 6 ∧
    ({ p with asked := some 5 } : Port).asked = some 5 ∧ (Assoc.find s.launches 0).isSome = true ∧
    (FlitBody.threadExit 0 1).isControl = false ∧ (FlitBody.replay 6).isControl = true := by
  decide +kernel

/-- The package after reset with that store. -/
def storeOnly : State := rowStore none State.reset

/-- A far reference to a row of a table leads to the row's store, whatever block numbers stand for row stores. -/
theorem hyp_LinksAndHost_row : ∃ ref p, storeOnly.nearForm ref = some p ∧ p.num = 9 ∧ p.off = 64 ∧
    (match State.readStore Who.nobody p.table 2 p.off 16 storeOnly with
      | (_, .ok bs) => bs.length == 16
      | _ => false) = true := by
  have hb : rowBlock 1024 < 2 ^ 37 := Nat.mod_lt _ (by decide)
  obtain ⟨ref, href⟩ : ∃ ref, ref = 2 ^ 63 + rowBlock 1024 * 2 ^ 14 + 64 := ⟨_, rfl⟩
  have hn : farBlock ref = rowBlock 1024 := by simp only [farBlock]; omega
  have ho : farOffset ref = 64 := by simp only [farOffset]; omega
  have ht : farTier ref = 0 := by simp only [farTier]; omega
  have hp : farPackage ref = 0 := by simp only [farPackage]; omega
  have hf : isFar ref = true := by rw [isFar, Nat.testBit_eq_decide_div_mod_eq, decide_eq_true_eq]; omega
  have hz : ∀ a, storeOnly.mem.bytes a 8 = List.replicate 8 0#8 := fun a => rfl
  have hv : (storeOnly.blockEntry (rowBlock 1024)).valid = false := by
    simp only [State.blockEntry, hz]
    decide
  have hs : storeOnly.entryOf (rowBlock 1024) = ⟨true, 0, 3, 16384 * 1024⟩ := by
    have h := rowFrame_rowBlock (f := 1024) (by decide)
    rw [State.entryOf_row (p := (storeOnly.storeAt (16384 * 1024)).getD ⟨none, 0, someTable 2, 0⟩) hv
      (by rw [h]; decide +kernel) (by decide +kernel), h]
    rfl
  have hx : storeOnly.physOf Who.nobody ref = some (16384 * 1024 + 64) := by
    simp only [State.physOf, hf, hn, hs, ht, hp, ho]
    rfl
  refine ⟨ref, (storeOnly.storeAt (16384 * 1024 + 64)).getD ⟨none, 0, someTable 2, 0⟩, ?_, by decide +kernel, by decide +kernel,
    by decide +kernel⟩
  have hst : storeOnly.storeAt (16384 * 1024 + 64) =
    some ((storeOnly.storeAt (16384 * 1024 + 64)).getD ⟨none, 0, someTable 2, 0⟩) := by decide +kernel
  simp only [State.nearForm, hf, hn, hv, State.placeOf, hx, Option.bind_some]
  rw [hst]
  decide +kernel

/-- A lookup of another package's table that waits for request 0. -/
def remote : State :=
  let s := on 0 (.lkp 1 5 1) fun st => (refs 5#32 st).setG 1 (makeHandle 1 9 0 1)
  let s := { s with links := { s.links with ports := [(0, { Port.reset with up := true })], routes := [(1, 1)] } }
  after (exec (.tableOpComplete 0 0 (~~~ 0#64) false) (after (exec (.lkp 1 5 1) s)))

theorem hyp_LinksAndHost_timeout : (match remote.links.requests.find? (fun r => r.id == 0) with
    | some r => decide (r.slot < 64) && decide (remote.timePs < r.sent + 1000000000) &&
        decide (remote.faultQ.length < 1024) &&
        ((remote.core r.core).ops.findIdx? (fun o => o.remote.contains 0)) == some 0 &&
        (match (remote.core r.core).ops[0]? with
          | some o => ((remote.core r.core).gen o.slot == o.gen) && !(remote.lanesTo r.core o r.pkg).isEmpty
          | none => false)
    | none => false) = true := by decide +kernel

/-- A strand whose GOM asked package 1 for the home of block 5: an answer that does not come in time. -/
theorem hyp_LinksAndHost_home : (
    let s := world (on 0 (.gom 5 1) (goes (farAway 5) 0xFFF))
    let s := after (exec (.gom 5 1)
      { s with links := { s.links with ports := [(0, { Port.reset with up := true })], routes := [(1, 1)] } })
    match s.links.requests, s.strand? 0 0 with
    | [r], some st => decide (64 ≤ r.slot) && decide (r.slot < 128) && r.slot % 64 == 0 && r.core == 0 && (match st.inquiry with
        | some q => q.homes.any fun a => a.request == r.id
        | none => false)
    | _, _ => false) = true := by decide +kernel

theorem hyp_LinksAndHost_host :
    let s : State := { State.reset with
      links := { Links.reset with hostMode := true, windows := [(0, (0, 65536, 0x200000, 0))] } }
    s.links.hostMode = true ∧ State.reset.links.hostMode = false ∧
    Assoc.find s.links.windows 0 = some (0, 65536, 0x200000, 0) ∧
    65532 + ([1#8, 2#8, 3#8, 4#8] : List Byte).length ≤ 65536 ∧ 65536 < 65533 + ([1#8, 2#8, 3#8, 4#8] : List Byte).length ∧
    (tierOf (0x200000 + 65535)).isSome = true ∧
    isOk (s.readPhys { Who.nobody with keyid := 0#10 } (0x200000 + 65532) 4).2 = true ∧
    isOk (({ s with mem := { s.mem with poison := [0x200000 / 32] } } : State).readPhys
      { Who.nobody with keyid := 0#10 } 0x200000 4).2 = false := by
  decide +kernel

/-- A package frozen by a post in the cycle in which the pin rises, in a later one, and one that may not resume. -/
theorem hyp_FreezeAndReset :
    State.reset.freeze.frozen = false ∧ State.reset.freeze.pin = false ∧
    ({ State.reset with freeze := { Freeze.reset with armedCycle := some 0 } } : State).freeze.armedCycle =
      some State.reset.cycles.toNat ∧
    (after (exec .freeze State.reset)).freeze.frozen = true ∧
    (let z := { Freeze.reset with frozen := true, sameCycle := true, status := 0x203#32 }
     z.pin = false ∧ 1 < z.status.toNat % 8 ∧ z.status.getLsbD 9 = true) ∧
    ({ Freeze.reset with frozen := true, status := 0x102#32 } : Freeze).sameCycle = false ∧
    ({ Freeze.reset with frozen := true, status := 0x102#32 } : Freeze).status.getLsbD 9 = false ∧
    (let s : State := { State.reset with freeze := { Freeze.reset with frozen := true, sameCycle := true, status := 0x201#32 } }
     let f := s.setFlight 0 true
     s.freeze.sameCycle = true ∧ s.stopClocks.freeze.status.getLsbD 9 = true ∧ f.freeze.sameCycle = true ∧
     f.stopClocks.freeze.status.getLsbD 9 = false ∧ f.stopClocks.freeze.status.getLsbD 8 = true) := by decide +kernel

/-- An image of a stage with the right header, of a version. -/
def nextImage (stage : Nat) (version : BitVec 16) : Firmware :=
  { header := ⟨Config.firmwareMagic, stage, version, 1, Config.sha384 [1#8]⟩, ecdsaKey := [5#8], lmsKey := [6#8],
    ecdsaSig := [3#8], lmsSig := [4#8], contents := [1#8] }

/-- The verifiers and the digest are free values (log 11): where they accept the image's signatures, the hypotheses of a
handover to it are met, and of its refusal by a higher fused minimum. -/
theorem hyp_BootAndAttestation_handover (v : BitVec 16)
    (h1 : Config.ecdsaVerify [5#8] (nextImage 1 v).header.bytes [3#8] = true)
    (h2 : Config.lmsVerify [6#8] (nextImage 1 v).header.bytes [4#8] = true) :
    let key : KeySlot := ⟨Config.sha384 [5#8], Config.sha384 [6#8], false⟩
    let fw := nextImage 1 v
    ((Vector.replicate 4 key).toList.findIdx? fun k => k.accepts fw) = some 0 ∧ fw.header.magic = Config.firmwareMagic ∧
    fw.header.stage = 1 ∧ fw.header.length = fw.contents.length ∧ Config.sha384 fw.contents = fw.header.digest ∧
    Assoc.find [(1, fw)] 1 = some fw ∧ Boot.reset.next + 1 = 1 ∧ Boot.reset.readable = true ∧
    (Boot.reset.mapCores []).isSome = true := by
  refine ⟨?_, rfl, rfl, rfl, rfl, rfl, rfl, rfl, by decide +kernel⟩
  have e : (nextImage 1 v).ecdsaKey = [5#8] ∧ (nextImage 1 v).lmsKey = [6#8] ∧ (nextImage 1 v).ecdsaSig = [3#8] ∧
    (nextImage 1 v).lmsSig = [4#8] := ⟨rfl, rfl, rfl, rfl⟩
  have h : KeySlot.accepts ⟨Config.sha384 [5#8], Config.sha384 [6#8], false⟩ (nextImage 1 v) = true := by
    simp [KeySlot.accepts, KeySlot.ecdsaOk, e, h1, h2]
  simp [Vector.toList_replicate, List.replicate_succ, List.findIdx?_cons, h]

/-- A package one of whose cores does not pass, with a spare of its die, without one, and with one core's array past its
spare rows. -/
theorem hyp_BootAndAttestation_cores :
    (({ Boot.reset with badCores := [7], spares := [⟨coreDie 7, 3, true⟩] } : Boot).mapCores []).isSome = true ∧
    ({ Boot.reset with badCores := [7], spares := [⟨coreDie 7, 3, false⟩] } : Boot).mapCores [] = none ∧
    ({ Boot.reset with badRows := [(9, [0, 1, 2, 3, 4])] } : Boot).mapCores [] = none ∧
    Boot.reset.mapCores [3] = none := by decide +kernel

/-- R363: spares of two dies with one number both stand in, each for a core of its own die. -/
theorem hyp_BootAndAttestation_dies :
    let b : Boot := { Boot.reset with badCores := [7, 40], spares := [⟨coreDie 7, 3, true⟩, ⟨coreDie 40, 3, true⟩] }
    coreDie 7 ≠ coreDie 40 ∧ (b.mapCores []).map (fun b => b.coreMap) = some [(7, 3), (40, 3)] := by decide +kernel

theorem hyp_BootAndAttestation :
    Boot.reset.code < 0x80 ∧ ({ Boot.reset with next := 1, trained := false } : Boot).trained = false ∧
    (booted []).kuenrex = true ∧ ({ nextImage 1 0 with header := { (nextImage 1 0).header with stage := 2 } } :
      Firmware).header.stage ≠ 1 ∧
    (0#16).toNat ≤ (3#16).toNat ∧ (3#16).toNat < (4#16).toNat ∧
    0x80 ≤ ({ Boot.reset with code := 0x86 } : Boot).code ∧ Mgmt.reset.negotiated = false ∧
    Mgmt.reset.spdmVersion = false := by decide

/-! ### Single steps, with results from the specification -/

/-- A fact of the strand after the word i issues under mode m in a strand made by f. -/
def gives (m : Word) (i : Instr) (f : Strand → Strand) (p : Strand → Bool) : Bool :=
  match exec i (on m i f) with
  | .next t => match t.here? with
    | some st => p st
    | none => false
  | _ => false

/-- Registers that hold one word in every lane. -/
def words (xs : List (Nat × Word)) (st : Strand) : Strand := { st with v := xs.map fun x => (x.1, .uniform x.2) }

/-- The word of lane 0 of a register. -/
def lane0 (r : Nat) (x : Word) (st : Strand) : Bool := st.vlane r 0 == x

/-- The one lane of a step: i on register 5, and 6, gives x in register 7. -/
def scalar (m : Word) (i : Instr) (a b x : Word) (fl : BitVec 5 := 0#5) : Bool :=
  gives m i (words [(5, a), (6, b)]) fun st => lane0 7 x st && st.group.astat == fl

/-- Example of R76: bytes 0x7F + 0x01, 0x10 + 0xF0, 0x80 + 0xFF, 0xFF + 0x02, each clamped. -/
theorem test_add_saturates : scalar 0x39 (.add 7 5 6) 0x7F1080FF 0x01F0FF02 0x7F008001 = true := by decide +kernel
theorem test_add_wraps : scalar (ty 0) (.add 7 5 6) 0x7FFFFFFF 1 0x80000000 = true := by decide +kernel
/-- R72: 1 + 2^-24 is a tie, which goes to the even 1; inexact is IX, bit 0 (Table 4-3). -/
theorem test_add_rounds : scalar (ty 2) (.add 7 5 6) 0x3F800000 0x33800000 0x3F800000 0x01#5 = true := by decide +kernel
theorem test_sub_borrows : scalar (ty 1) (.sub 7 5 6) 0 1 0xFFFFFFFF = true := by decide +kernel
theorem test_mul_f32 : scalar (ty 2) (.mul 7 5 6) 0x3FC00000 0xC0000000 0xC0400000 = true := by decide +kernel
/-- 0xFFFFFFFF squared is 0xFFFFFFFE00000001. -/
theorem test_mulh_unsigned : scalar (ty 1) (.mulh 7 5 6) 0xFFFFFFFF 0xFFFFFFFF 0xFFFFFFFE = true := by decide +kernel
theorem test_mulh_signed : scalar (ty 0) (.mulh 7 5 6) 0xFFFFFFFF 0xFFFFFFFF 0 = true := by decide +kernel
theorem test_rem_sign : scalar (ty 0) (.rem 7 5 6) 0xFFFFFFF9 2 0xFFFFFFFF = true := by decide +kernel
theorem test_min_signed : scalar (ty 0) (.min 7 5 6) 0xFFFFFFFF 1 0xFFFFFFFF = true := by decide +kernel
theorem test_max_unsigned : scalar (ty 1) (.max 7 5 6) 0xFFFFFFFF 1 0xFFFFFFFF = true := by decide +kernel
/-- R134: a shift amount is taken modulo the width. -/
theorem test_shl_modulo : scalar (ty 0) (.shl 7 5 6) 1 33 2 = true := by decide +kernel
theorem test_sar_sign : scalar (ty 0) (.sar 7 5 6) 0x80000000 31 0xFFFFFFFF = true := by decide +kernel
theorem test_rol_i8 : scalar (ty 7) (.rol 7 5 6) 0x81818181 0x01010101 0x03030303 = true := by decide +kernel
theorem test_rcp_zero : scalar (ty 2) (.rcp 7 5) 0x80000000 0 0xFF800000 0x08#5 = true := by decide +kernel
theorem test_ldi_extends : gives 0 (.ldi 7 0x8000) id (lane0 7 0xFFFF8000) = true := by decide +kernel
theorem test_ldih_keeps : gives 0 (.ldih 7 0x8000) (words [(7, 0x12345678)]) (lane0 7 0x80005678) = true := by
  decide +kernel
/-- R139: 2.5 to i32, to the even 2, with NX; toward zero -1.5 gives -1. -/
theorem test_cvt_rne : gives (ty 2) (.cvt 7 5 0) (words [(5, 0x40200000)]) (lane0 7 2) = true := by decide +kernel
theorem test_cvt_rtz : gives 0x12 (.cvt 7 5 0) (words [(5, 0xBFC00000)]) (lane0 7 0xFFFFFFFF) = true := by decide +kernel

/-- The example of R152: the four greatest magnitudes of 3, -7, 7, 0, -2, -3, -7 and 1, and their expansion. -/
theorem test_cmprs_example :
    gives 0x38 (.cmprs 20 8 3) (fun st => (words [(8, 0x0007F903), (9, 0x01F9FDFE)] st).setG 3 0x400#64)
      (fun st => lane0 20 0x00000047 st && lane0 21 0xF907F903 st) = true := by decide +kernel
theorem test_expnd_example :
    gives 0x38 (.expnd 24 20 3) (fun st => (words [(20, 0x00000047), (21, 0xF907F903)] st).setG 3 0x400#64)
      (fun st => lane0 24 0x0007F903 st && lane0 25 0x00F90000 st) = true := by decide +kernel

/-- R155: the four immediates build 0x0123456789ABCDEF. -/
theorem test_gldi : gives 0 (.gldi 4 0xCDEF) id (fun st => st.gr 4 == 0xFFFFFFFFFFFFCDEF#64) = true := by decide +kernel
theorem test_gldih : gives 0 (.gldih 4 0x89AB) (fun st => st.setG 4 0xFFFFFFFFFFFFCDEF#64)
    (fun st => st.gr 4 == 0xFFFFFFFF89ABCDEF#64) = true := by decide +kernel
theorem test_gldix : gives 0 (.gldix 4 0x4567) (fun st => st.setG 4 0xFFFFFFFF89ABCDEF#64)
    (fun st => st.gr 4 == 0xFFFF456789ABCDEF#64) = true := by decide +kernel
theorem test_gldiy : gives 0 (.gldiy 4 0x0123) (fun st => st.setG 4 0xFFFF456789ABCDEF#64)
    (fun st => st.gr 4 == 0x0123456789ABCDEF#64) = true := by decide +kernel
/-- R153: under i32 the 32-bit sum is sign-extended, under n32 zero-extended. -/
theorem test_gadd_i32 : gives (ty 0) (.gadd 4 1 2) (fun st => (st.setG 1 0x7FFFFFFF#64).setG 2 1#64)
    (fun st => st.gr 4 == 0xFFFFFFFF80000000#64) = true := by decide +kernel
theorem test_gadd_n32 : gives (ty 1) (.gadd 4 1 2) (fun st => (st.setG 1 0x7FFFFFFF#64).setG 2 1#64)
    (fun st => st.gr 4 == 0x80000000#64) = true := by decide +kernel
theorem test_kandn : gives 0 (.kandn 3 1 2) id (fun st => st.kr 3 == 0x28#64) = true := by decide +kernel
theorem test_kpop : gives 0 (.kpop 4 1) id (fun st => st.gr 4 == 4#64) = true := by decide +kernel
theorem test_bra_back : gives 0 (.bra 0xFFFFFF) id (fun st => st.pc == 0xFFFC#64) = true := by decide +kernel
theorem test_sreg_lane : gives 0 (.sreg 7 0) id (fun st => st.vlane 7 5 == 5#32) = true := by decide +kernel
theorem test_gsreg_width : gives 0 (.gsreg 4 9) id (fun st => st.gr 4 == 8#64) = true := by decide +kernel
/-- R58, R62: under a negated guard on p1, which is set in lanes 0 to 3, only lanes 4 to 7 are written. -/
theorem test_guard_negated : gives 0x8180#32 (.ldi 7 9) (words [(7, 1)])
    (fun st => st.vlane 7 3 == 1#32 && st.vlane 7 4 == 9#32) = true := by decide +kernel
/-- R147: lanes 2 to 5 hold what a lower lane holds. -/
theorem test_confl : gives 0 (.confl 3 5) (fun st => { st with v := [(5, .general [1, 2, 1, 2, 1, 2, 3, 4])] })
    (fun st => st.kr 3 == 0x3C#64) = true := by decide +kernel
theorem test_shup : gives 0 (.shup 7 5 1) (fun st => { st with v := [(5, .affine 10 1)] })
    (fun st => st.vlane 7 0 == 10#32 && st.vlane 7 4 == 13#32) = true := by decide +kernel
/-- R120, Table 6-2: a uniform operand added to an affine one stays affine. -/
theorem test_affine : gives 0 (.add 7 5 6) (fun st => { st with v := [(5, .affine 10 4), (6, .uniform 3)] })
    (fun st => st.vreg? 7 == some (.affine 13 4)) = true := by decide +kernel
theorem test_radd : gives (ty 0) (.radd 4 5) (fun st => { st with v := [(5, .affine 1 1)] })
    (fun st => st.gr 4 == 36#64) = true := by decide +kernel

/-- R207: SST stores the word with its lowest byte first. -/
theorem test_sst_bytes :
    let s := after (exec (.sst 4 10 0) (hold none (on 0 (.sst 4 10 0) fun st => words [(10, 8), (4, 0x0A0B0C0D)] st)))
    s.scratchBytesAt 0 8 4 = [0x0D#8, 0x0C#8, 0x0B#8, 0x0A#8] := by decide +kernel

/-- R53, R307, R309: an unassigned opcode enters the S handler with cause 0x01 in every active lane. -/
theorem test_illegal_traps :
    let w : Word := 0x5E000000#32
    let s := handlers ((State.reset.withFetchWord 32 w.toNat).modHere (filled 0))
    (match step s with
      | .next t => match t.here? with
        | some st => st.pc == 0x40000#64 && st.mode == .s && st.depth == 1 && st.trapMask == 0xFF#64 &&
            ((Assoc.get 0#32 st.trapCause 7).toNat % 256) == 1
        | none => false
      | _ => false) = true := by decide +kernel

/-- R66: SRET in U mode is *privileged instruction*, cause 0x0D. -/
theorem test_privilege_traps : (match exec .sret (handlers (on 0 .sret)) with
    | .next t => match t.here? with
      | some st => st.mode == .s && ((Assoc.get 0#32 st.trapCause 0).toNat % 256) == 0x0D
      | none => false
    | _ => false) = true := by decide +kernel

/-- R169: a lane that an operation completed before its strand trapped holds its results in the handler. -/
theorem test_completed_lanes_keep_results :
    let st := (Strand.dispatched guestRecord 0 0 0 0 0#10)
    let x := keepResults { newOp (.lkp 9 10 1) st 0 0#8 with results := [(0, [7#32, 8#32])] } st
    x.vlane 18 0 = 7#32 ∧ x.vlane 19 0 = 8#32 ∧ x.vlane 18 1 = 0#32 := by decide +kernel

/-- R315: SRET after SYSC stands at the header that follows, in U mode again. -/
theorem test_sret_returns : (match exec .sret (inHandlerOf .sret .s) with
    | .next t => match t.here? with
      | some st => st.pc == 0x10008#64 && st.mode == .u && st.depth == 0
      | none => false
    | _ => false) = true := by decide +kernel

/-- The example of R12: core (9, 13) is in cluster 26 as core 3 of it, near stack 6. -/
theorem test_core_place : coreAt 9 13 = 26 * 8 + 3 ∧ coreStack (coreAt 9 13) = 6 ∧ coreRow 211 = 9 ∧ coreCol 211 = 13 := by
  decide
/-- The example of Table 7-4: package 5, tier 0, block 0x1234, byte offset 0x40. -/
theorem test_far_reference : isFar 0x80A00000048D0040 = true ∧ farPackage 0x80A00000048D0040 = 5 ∧
    farTier 0x80A00000048D0040 = 0 ∧ farBlock 0x80A00000048D0040 = 0x1234 ∧ farOffset 0x80A00000048D0040 = 0x40 := by decide

/-- Table 2-3, R46 (rule 6): words of zeros where a header would stand are padding. -/
theorem test_padding : instrSlots 8 0 [0x0000FFF0#32, 0#32, 0#32, 0#32, 0#32, 0x0000FFF0#32, 0#32] = [1, 6] := by decide +kernel

/-- The worked example of Chapter 10: two weight rows of BF16, of which columns 0 to 21 are given here, activation row 1 with
elements 2 and 0.5, and a band from 0 to 20: column 1 holds 2.5, column 21 is inside with 12.5, column 0 reads out as -∞. -/
theorem test_matrix_example :
    let bf := [0x0000, 0x3F80, 0x4000, 0x4040, 0x4080, 0x40A0, 0x40C0, 0x40E0, 0x4100, 0x4110, 0x4120, 0x4130, 0x4140, 0x4150,
      0x4160, 0x4170, 0x4180, 0x4188, 0x4190, 0x4198, 0x41A0, 0x41A8]
    let m : Matrix := { Matrix.reset with
      active := ⟨some .bf16x2, 2, [List.replicate 64 0x3F80, bf]⟩, lower := 0, upper := 20, forced := 0xFF800000#32 }
    let x := m.mulRow .bf16x2 0 1 true true [0x4000, 0x3F00]
    let out (n : Nat) : Nat := ((x.acc (64 + n)).readOut .f32 0#32).1
    out 1 = 0x40200000 ∧ out 21 = 0x41480000 ∧ out 0 = 0xFF800000 := by decide +kernel

/-! ### The remaining hypotheses -/

/-- Words that decode run as the first instruction after reset, and change the strand. -/
theorem hyp_StepOrder_placed : ([0x00000000, 0x20070506, 0x0F000000, 0x6A040123, 0xFF000000] : List Nat).all (fun w =>
    match decode (BitVec.ofNat 32 w) with
    | .ok i => (match exec i ((State.reset.withFetchWord 32 w).modHere id) with
        | .next t => match t.here?, (State.reset.withFetchWord 32 w).here? with
          | some x, some y => x.issued != y.issued || x.pc != y.pc || x.depth != y.depth
          | none, some _ => true
          | _, _ => false
        | _ => false)
    | .error _ => false) = true := by decide +kernel

/-- A strand that issues without an agenda, with one, and at a header; frozen clocks with a move that waits; a cycle that
ends. -/
theorem hyp_StepRunsTheDecodedWord :
    let s := on 0 (.gldi 4 1)
    let a : State := { s with agenda := [.issue 0 0, .tick 1] }
    let h : State := { atHeader 0x0000FFF0#32 [0#32] 0xFFF with agenda := [.issue 0 0] }
    (s.agenda = [] ∧ s.freeze.frozen = false ∧ s.slate = (0, 0) :: []) ∧
    (a.slate.find? fun x => x.1 == 0) = some (0, 0) ∧ (h.slate.find? fun x => x.1 == 0) = some (0, 0) ∧
    (match a.strand? 0 0 with
      | some st => st.wait == .none && (match st.clause with
          | some k => match decode (k.words.getD k.idx 0#32) with
            | .ok i => i == .gldi 4 1
            | .error _ => false
          | none => false)
      | none => false) = true ∧
    (match h.strand? 0 0 with
      | some st => st.wait == .none && st.clause.isNone
      | none => false) = true ∧
    ({ s with slate := [] } : State).slate = [] ∧ ({ s with slate := [] } : State).ready 0 0 = true ∧
    h.ready 0 0 = false ∧ h.starts 0 0 = true ∧
    (after (exec .freeze s)).freeze.frozen = true ∧ (Move.sample 0 1).reachesFrozen = false ∧
    (Move.tick 1).reachesFrozen = false := by decide +kernel

/-- A word that no instruction has, and one whose fields are out of their range, at the place of the strand selected. -/
theorem hyp_StepRunsTheDecodedWord_refused : ([0x13100000#32, 0xB3000003#32] : List Word).map (fun w =>
    let s : State := { (on 0 .nop fun st => { st with clause := st.clause.map fun k => { k with words := [w] } }) with
      agenda := [.issue 0 0] }
    match s.strand? 0 0 with
    | some st => match st.clause with
      | some k => if (s.slate.find? fun x => x.1 == 0) == some (0, 0) && st.wait == .none then
          (match decode (k.words.getD k.idx 0#32) with
            | .error (.reserved _) => 1
            | .error (.illFormed _) => 2
            | .ok _ => 0)
        else 0
      | none => 0
    | none => 0) = [1, 2] := by decide +kernel

/-- A frozen package in the cycle of its trigger and after it, with a move that does not reach it and one of time. -/
theorem hyp_StepOrder_frozen :
    let s := after (exec .freeze (on 0 .nop))
    let t : State := { s with slate := [], agenda := [.tick 1], freeze := { s.freeze with status := 0x201#32 } }
    s.freeze.frozen = true ∧ s.freeze.sameCycle = true ∧ t.freeze.sameCycle = true ∧ t.slate = [] ∧
    (match step t with
      | .next u => u.freeze.frozen && !u.freeze.sameCycle && u.freeze.status.getLsbD 9
      | _ => false) = true ∧
    (match step (t.setFlight 0 true) with
      | .next u => u.freeze.status.getLsbD 8 && !u.freeze.status.getLsbD 9
      | _ => false) = true ∧ Move.sample 0 1 ≠ .tick 1 ∧ (Move.issue 0 0).reachesFrozen = false := by decide +kernel

/-- Three strands of one quarter at one clause, the oldest not overdue and the youngest overdue. -/
theorem hyp_StepOrder_quarter :
    let x (i age passed : Nat) : Nat × Strand := (i, { guestStrand true 0#32 with age := age, passed := passed })
    let xs := [x 0 1 0, x 4 2 0, x 8 3 64]
    xs ≠ [] ∧ (xs.map (·.1)).Nodup ∧ (∀ y ∈ xs, y.2.width ≤ 64) ∧ (x 0 1 0).2.overdue = false ∧ (x 8 3 64).2.overdue = true ∧
    (quarterSlots xs).head? = some 8 ∧ (quarterSlots xs).length = 3 := by decide +kernel

theorem hyp_MemoryKeepsItsForm : State.reset.mem.wf = true ∧ (match step (placed .nop) with
    | .next t => t.mem.wf
    | _ => false) = true := by decide +kernel

theorem hyp_EncodeDecodeAgree : (Instr.goto 63 15 19 1).wf = true ∧ (encode (.goto 63 15 19 1)).isSome = true ∧
    (encode (.clauseHeader 0xFF 0xFFF 11 15 7)).isSome = true := by decide +kernel

theorem hyp_ElementValues : (2139095040 < (0x7F800001#32).toNat % 2 ^ 31) ∧ ¬ (2139095040 < (0xFF800000#32).toNat % 2 ^ 31) ∧
    ¬ (2139095040 < (0x7F800000#32).toNat % 2 ^ 31) := by decide

/-- Finite numbers, NaNs and infinities of three formats, and the classes of types that conversions go between. -/
theorem hyp_ElementValues_floats :
    ElemType.f32.fmt = some Fmt.f32 ∧ ElemType.f16x2.fmt = some Fmt.f16 ∧ ElemType.e4m3x4.fmt = some Fmt.e4m3 ∧
    Fmt.f32.value 0x3F800000 = .fin false (2 ^ 23) (-23) ∧ (Fmt.f32.value 0x3F800000).isFin = true ∧
    Fmt.f32.value 0xFF800000 = .inf true ∧ Fmt.f16.value 0x7C00 = .inf false ∧
    (Fmt.f32.value 0x7FC00000).isNan = true ∧ (Fmt.f16.value 0x7C01).isNan = true ∧
    (Fmt.e4m3.value 0x7E).isFin = true ∧ (Fmt.e4m3.value 0x7F).isNan = true ∧
    Fmt.f32.value (elAdd ⟨.f32, .rne, false⟩ 0x7F7FFFFF 0x7F7FFFFF 0).1 = .inf false ∧
    ElemType.i32.isInt = true ∧ ElemType.i32.fmt = none ∧ ElemType.q4nx8.isInt = false := by decide +kernel

end Sys2Proof.Tests
end

section
/-! SUPPORT. The mask instructions at issue, and their words in R format (R50, R114). -/

namespace Sys2Proof

/-! ### Words in R format -/

/-- The fields of R format stand at bits 31:24, 23:16, 15:8 and 7:0 (R50). -/
theorem encR_eq_shifts (op d a b : BitVec 8) :
    encR op d a b = op.setWidth 32 <<< 24 ||| d.setWidth 32 <<< 16 ||| a.setWidth 32 <<< 8 ||| b.setWidth 32 := by
  calc encR op d a b
      = (((op ++ d) ++ a) ++ b).setWidth 32 := (BitVec.setWidth_eq _).symm
    _ = ((op.setWidth 32 <<< 8 ||| d.setWidth 32) <<< 8 ||| a.setWidth 32) <<< 8 ||| b.setWidth 32 := by
      simp only [BitVec.setWidth_append_eq_shiftLeft_setWidth_or]
    _ = _ := by simp only [BitVec.shiftLeft_or_distrib, ← BitVec.shiftLeft_add]

end Sys2Proof

namespace Sys2Proof.Machine

/-! ### A mask instruction at issue -/

/-- A ready word that asks for no active lane and names no register of field a: its effect meets the strand as it stood at
issue, for no last-read register is freed (R122, R123). -/
theorem issue_ready_onUnfreedStrand {i : Instr} {u : Use} {g : Strand → Strand → Strand} {idle : State → State}
    {s : State} {st : Strand} (r : Ready i u { always := true } st s) (ha : u.aRegs = []) :
    issue i u { always := true } noChecks (onStrand g) idle s = .next (s.goesOn u st (g st st)) := by
  have hst : st.ready u { always := true } = st := Strand.ready_plain st u _ ha rfl
  rw [issue_ready_onStrand r (firstFault_noChecks st s), hst]

/-- A ready mask instruction on k registers writes its value, of the strand as it stood, to k[D] and nothing else (R114). -/
theorem maskWord_ready {i : Instr} {d : BitVec 4} {f : Strand → DWord} {s : State} {st : Strand}
    (r : Ready i {} { always := true } st s) :
    maskWord i d f s = .next (s.goesOn {} st (st.setK d.toNat (f st))) :=
  issue_ready_onUnfreedStrand r rfl

end Sys2Proof.Machine

section
open Sys2Proof Sys2Proof.Machine

/-- Settles O9: what each mask instruction does is a use of `maskWord_ready`, or of `issue_ready_onUnfreedStrand` where a g
register is written or read (Table 5-7), and its word is R format with the fields spread by `encR_eq_shifts`. -/
theorem maskWords : Obligations.MaskWords := by
  unfold Obligations.MaskWords
  refine ⟨fun s st => ⟨?kfrom, ?kand, ?kor, ?kandn, ?kxor, ?kmov, ?kpop, ?ktog, ?gtok⟩, fun d a b p g => ?words⟩
  case kfrom | kmov => exact fun d a r => maskWord_ready r
  case kand | kor | kandn | kxor => exact fun d a b r => maskWord_ready r
  case kpop | ktog | gtok => exact fun d a r => issue_ready_onUnfreedStrand r rfl
  case words => simp [encode, encR_eq_shifts]

end

end

section
/-! SUPPORT. Comparisons, predicate instructions, reductions and CONFL at issue: lane masks, last-read registers and lane
traps, then what each of these words does (R82, R123, R141, R142, R146, R147). -/

namespace Sys2Proof

/-! ### Lane masks -/

@[simp] theorem mem_lanesOf {m : LaneMask} {l : Nat} : l ∈ lanesOf m ↔ m.getLsbD l = true := by
  have hlt : m.getLsbD l = true → l < 64 := BitVec.lt_of_getLsbD
  simpa [lanesOf, lanesBelow] using hlt

/-- A mask built up from m has the lanes of m and the lanes of the list. -/
theorem getLsbD_foldl_lane (ls : List Nat) (m : LaneMask) {l : Nat} (hl : l < 64) :
    (ls.foldl (fun m l => m ||| (1#64 <<< l)) m).getLsbD l = (m.getLsbD l || decide (l ∈ ls)) := by
  induction ls generalizing m with
  | nil => simp
  | cons x xs ih =>
    have hbit : (1#64 <<< x).getLsbD l = decide (l = x) := by
      simp only [BitVec.getLsbD_shiftLeft, BitVec.getLsbD_one, hl, decide_true, Bool.true_and]
      grind
    simp only [List.foldl_cons, ih, BitVec.getLsbD_or, hbit, List.mem_cons, Bool.decide_or, Bool.or_assoc]

theorem getLsbD_maskOf (ls : List Nat) {l : Nat} (hl : l < 64) : (maskOf ls).getLsbD l = decide (l ∈ ls) := by
  simp [maskOf, getLsbD_foldl_lane ls 0#64 hl]

theorem getLsbD_maskBelow (n : Nat) {l : Nat} (hl : l < 64) : (maskBelow n).getLsbD l = decide (l < n) := by
  simp [maskBelow, BitVec.getLsbD_ofNat, hl, -BitVec.getLsbD_eq_getElem]

/-! ### Fields without a reading -/

/-- A byte whose bit 7 is set has no reading in 7 bits (R53). -/
theorem low_seven_eq_none {x : BitVec 8} (h : x.getLsbD 7 = true) : low 7 x = none := by
  have hx : 2 ^ 7 ≤ x.toNat := Nat.ge_two_pow_of_testBit h
  exact if_neg (Nat.not_lt.mpr hx)

theorem zeroField_eq_none {x : BitVec 8} (h : x ≠ 0#8) : zeroField x = none := if_neg h

/-- Two predicate fields and a last one have no reading where bit 7 of one of the first two is set, or the last has none. -/
theorem predFields_eq_none {β : Type} {w : Word} {last : Option β} (f : BitVec 7 → BitVec 7 → β → Instr)
    (h : w.getLsbD 23 = true ∨ w.getLsbD 15 = true ∨ last = none) :
    ((low 7 (w.extractLsb' 16 8)).bind fun d => (low 7 (w.extractLsb' 8 8)).bind fun a =>
      last.bind fun b => some (f d a b)) = none := by
  obtain h | h | h := h
  · rw [low_seven_eq_none (by simpa using h), Option.bind_none]
  · simp [low_seven_eq_none (x := w.extractLsb' 8 8) (by simpa using h)]
  · simp [h]

end Sys2Proof

namespace Sys2Proof.Machine

/-! ### Words of the predicate instructions -/

/-- The fields of a word of opcodes 0x43 to 0x46 have no reading where bit 7 of one is set, or PNOT has a field b (R142). -/
theorem decodeFields_predicateWord_eq_none {w : Word} (hlo : 0x43 ≤ opOf w) (hhi : opOf w ≤ 0x46)
    (hbad : w.getLsbD 23 = true ∨ w.getLsbD 15 = true ∨ w.getLsbD 7 = true ∨
      (opOf w = 0x46 ∧ w.extractLsb' 0 8 ≠ 0#8)) : decodeFields w (opOf w) = none := by
  have hbyte : (w.extractLsb' 0 8).getLsbD 7 = w.getLsbD 7 := by simp
  have hlast : opOf w ≠ 0x46 →
      w.getLsbD 23 = true ∨ w.getLsbD 15 = true ∨ low 7 (w.extractLsb' 0 8) = none := by
    intro hne
    refine hbad.imp_right (Or.imp_right fun h => low_seven_eq_none ?_)
    exact hbyte.trans (h.resolve_right fun hz => hne hz.1)
  have hnot : w.getLsbD 23 = true ∨ w.getLsbD 15 = true ∨ zeroField (w.extractLsb' 0 8) = none := by
    refine hbad.imp_right (Or.imp_right fun h => zeroField_eq_none ?_)
    obtain h | ⟨-, h⟩ := h
    · intro hz
      rw [hz] at hbyte
      exact absurd (hbyte.trans h) (by decide)
    · exact h
  have hop : opOf w = 0x43 ∨ opOf w = 0x44 ∨ opOf w = 0x45 ∨ opOf w = 0x46 := by omega
  obtain hop | hop | hop | hop := hop
  · rw [hop]; exact predFields_eq_none Instr.pand (hlast (by omega))
  · rw [hop]; exact predFields_eq_none Instr.por (hlast (by omega))
  · rw [hop]; exact predFields_eq_none Instr.pxor (hlast (by omega))
  · rw [hop]; exact predFields_eq_none (fun d a _ => Instr.pnot d a) hnot

/-- A word whose fields have no reading is no instruction (R53). -/
theorem decode_of_noFields {w : Word} (h : decodeFields w (opOf w) = none) : decode w = .error (.reserved (opOf w)) := by
  rw [opOf] at h ⊢
  simp [decode, h]

/-! ### Predicates written -/

theorem Strand.pr_setP_same (st : Strand) (n : Nat) (act m : LaneMask) :
    (st.setP n act m).pr n = (st.pr n &&& ~~~ act) ||| (m &&& act) := Assoc.get_put_same _ _ _ _

theorem Strand.pr_setP_other (st : Strand) {n j : Nat} (act m : LaneMask) (h : j ≠ n) : (st.setP n act m).pr j = st.pr j :=
  Assoc.get_put_other _ _ _ h.symm

/-! ### Last-read registers -/

/-- To free registers changes the vector registers and nothing else. -/
theorem Strand.foldl_freeV_eq (rs : List Nat) (st : Strand) :
    rs.foldl Strand.freeV st = { st with v := (rs.foldl Strand.freeV st).v } := by
  induction rs generalizing st with
  | nil => rfl
  | cons r rs ih => exact ih (st.freeV r)

theorem Strand.freeMarked_eq (st : Strand) (u : Use) : st.freeMarked u = { st with v := (st.freeMarked u).v } := by
  unfold Strand.freeMarked
  split
  · exact Strand.foldl_freeV_eq u.aRegs st
  · rfl

theorem Strand.freeMarked_pr (st : Strand) (u : Use) (n : Nat) : (st.freeMarked u).pr n = st.pr n := by
  simp [Strand.pr, Strand.freeMarked_p]

theorem Strand.foldl_freeV_vreg? (rs : List Nat) (st : Strand) {n : Nat} (h : n ∉ rs) :
    (rs.foldl Strand.freeV st).vreg? n = st.vreg? n := by
  induction rs generalizing st with
  | nil => rfl
  | cons r rs ih =>
    obtain ⟨hr, hrs⟩ := not_or.mp fun hn => h (List.mem_cons.mpr hn)
    exact (ih (st.freeV r) hrs).trans (Assoc.find_erase_other _ (Ne.symm hr))

/-- A register that the clause does not mark as last read keeps its words (R123). -/
theorem Strand.freeMarked_vreg? (st : Strand) (u : Use) {n : Nat} (h : ¬ (st.marked = true ∧ n ∈ u.aRegs)) :
    (st.freeMarked u).vreg? n = st.vreg? n := by
  unfold Strand.freeMarked
  split
  · exact Strand.foldl_freeV_vreg? u.aRegs st fun hn => h ⟨‹_›, hn⟩
  · rfl

/-! ### Traps of lanes and of words -/

theorem firstFault_single (fs : List LaneFault) : firstFault [fs] = fs := by
  cases fs <;> rfl

theorem faultIn_ne_nil {m : LaneMask} (hm : m ≠ 0#64) (k : Cause) (detail : Nat) : faultIn m k detail ≠ [] := by
  intro h
  refine hm (BitVec.eq_of_getLsbD_eq fun l hl => ?_)
  have hnil : lanesOf m = [] := List.map_eq_nil_iff.mp h
  simpa [hnil] using (mem_lanesOf (m := m) (l := l)).symm

/-- The faults of lanes with flags fl: of those that raise a flag which ATEN enables (R80). -/
theorem arithFaults_lanes (st : Strand) (fl : Nat → Flags) (ls : List Nat) :
    arithFaults st (ls.map fun l => (l, fl l)) =
      (ls.filter fun l => fl l &&& st.group.aten != 0#5).map fun l => ⟨l, .arithmetic, (fl l).toNat⟩ := by
  simp [arithFaults, List.filter_map, Function.comp_def]

theorem arithFaults_lanes_eq_nil {st : Strand} {fl : Nat → Flags} {ls : List Nat} :
    arithFaults st (ls.map fun l => (l, fl l)) = [] ↔ ∀ l ∈ ls, fl l &&& st.group.aten = 0#5 := by
  simp [arithFaults_lanes]

/-! ### The state in which bindings have ended -/

@[simp] theorem State.here?_unbindDests (s : State) (lineage : DWord) (gs : List Nat) :
    (s.unbindDests lineage gs).here? = s.here? := by
  have hslots := State.unbindDests_core CoreSt.slots (fun _ _ => rfl) s lineage gs
  simp only [State.here?, State.strand?, State.unbindDests_cur, hslots]

/-! ### Comparisons (R141) -/

/-- The lanes in which a comparison holds. -/
theorem cmpLanes_holding (rel : Rel) (a b : Nat) (st : Strand) :
    ((cmpLanes rel a b st).filter fun x => x.2.1).map (·.1) =
      (lanesOf st.active).filter fun l => (cmpLane rel a b st l).1 := by
  simp [cmpLanes, List.filter_map, Function.comp_def]

/-- The flags of the lanes of a comparison. -/
theorem cmpLanes_flags (rel : Rel) (a b : Nat) (st : Strand) :
    ((cmpLanes rel a b st).map fun x => x.2.2) = (lanesOf st.active).map fun l => (cmpLane rel a b st l).2 := by
  simp [cmpLanes, Function.comp_def]

/-- The checks of a comparison: the faults of the active lanes, by their flags (R80). -/
theorem firstFault_cmpLanes (rel : Rel) (a b : Nat) (st : Strand) :
    firstFault [arithFaults st ((cmpLanes rel a b st).map fun x => (x.1, x.2.2))] =
      arithFaults st ((lanesOf st.active).map fun l => (l, (cmpLane rel a b st l).2)) := by
  simp [firstFault_single, cmpLanes, Function.comp_def]

/-- The effect of a comparison: the relation in the predicate of the active lanes, and the flags of every lane in ASTAT. -/
def compared (rel : Rel) (d a b : Nat) (old st : Strand) : Strand :=
  let rs := cmpLanes rel a b old
  (st.setP d old.active (maskOf ((rs.filter fun x => x.2.1).map (·.1)))).raise (orFlags (rs.map fun x => x.2.2))

/-- Bit l of the predicate that a comparison writes: the relation in an active lane, what it was in another (R141). -/
theorem getLsbD_compared_pr (rel : Rel) (d a b : Nat) (old st : Strand) {l : Nat} (hl : l < 64) :
    ((compared rel d a b old st).pr d).getLsbD l =
      if old.active.getLsbD l then (cmpLane rel a b old l).1 else (st.pr d).getLsbD l := by
  have hpr : (compared rel d a b old st).pr d = _ := Strand.pr_setP_same st d _ _
  simp only [hpr, cmpLanes_holding, BitVec.getLsbD_or, BitVec.getLsbD_and, BitVec.getLsbD_not, getLsbD_maskOf _ hl, hl,
    List.mem_filter, mem_lanesOf]
  cases old.active.getLsbD l <;> simp

theorem compared_group (rel : Rel) (d a b : Nat) (old st : Strand) :
    (compared rel d a b old st).group = { st.group with
      astat := st.group.astat ||| orFlags ((lanesOf old.active).map fun l => (cmpLane rel a b old l).2) } := by
  rw [← cmpLanes_flags]
  rfl

/-- The register use of a comparison of a and b under a mode. -/
abbrev compareUse (m : Word) (a b : Nat) : Use :=
  { aRegs := regsT (isWide m) a, reads := regsT (isWide m) b, even := if isWide m then [a, b] else [] }

/-- A comparison under the mode of the strand that issues. -/
theorem compareWord_eq_issue {i : Instr} {types : ElemType → Bool} {rel : Rel} {d a b : Nat} {s : State} {st : Strand}
    (h : s.here? = some st) :
    compareWord i types rel d a b s =
      issue i (compareUse st.group.mode a b) { types := typeIs st.group.mode types }
        (fun st _ => [arithFaults st ((cmpLanes rel a b st).map fun x => (x.1, x.2.2))])
        (onStrand (compared rel d a b)) id s := by
  rw [compareWord, State.modeWord_here h]
  rfl

/-- Whatever executes as a comparison does what R141 and R80 say. -/
theorem compareWord_runs {i : Instr} {types : ElemType → Bool} {rel : Rel} {d a b : Nat}
    (hexec : ∀ s, exec i s = compareWord i types rel d a b s) : CompareRuns i types rel d a b := by
  intro s st w u r hready _
  rw [hexec, compareWord_eq_issue hready.here]
  have hchecks := firstFault_cmpLanes rel a b st
  constructor
  · intro hquiet
    have hnone := hchecks.trans (arithFaults_lanes_eq_nil.mpr hquiet)
    refine ⟨compared rel d a b st (st.freeMarked u), issue_ready_onStrand hready hnone, fun l hl => ?_, fun n hn => ?_,
      fun n hn => Strand.freeMarked_vreg? st u hn, ?_, ?_⟩
    · rw [getLsbD_compared_pr rel d a b _ _ hl, Strand.freeMarked_pr]
      rfl
    · exact (Strand.pr_setP_other _ _ _ hn).trans (Strand.freeMarked_pr st u n)
    · rw [compared_group, Strand.freeMarked_group]
      rfl
    · rw [Strand.freeMarked_eq]
      rfl
  · rintro ⟨l, hl, hflag⟩
    have hsome : firstFault [arithFaults st ((cmpLanes rel a b st).map fun x => (x.1, x.2.2))] ≠ [] :=
      fun hnil => hflag (arithFaults_lanes_eq_nil.mp (hchecks.symm.trans hnil) l hl)
    rw [issue_trap hready hsome, hchecks, arithFaults_lanes]
    rfl

/-! ### Predicate instructions (R142) -/

/-- A ready predicate instruction writes its value to the predicate of the active lanes. -/
theorem predWord_ready {i : Instr} {d : Nat} {f : Strand → LaneMask} {s : State} {st : Strand} (r : Ready i {} {} st s) :
    predWord i d f s = .next (s.goesOn {} st (st.setP d st.active (f st))) := by
  rw [predWord, issue_ready_onStrand r (firstFault_noChecks st s), Strand.ready_plain st {} {} rfl rfl]

/-! ### Reductions (R82, R146) -/

section
variable {i : Instr} {el : Arith → ElemOp} {empty : ElemType → Nat} {d a : Nat} {s : State} {st : Strand}

/-- The register use of a reduction of a to g[d] under a mode. -/
abbrev reduceUse (m : Word) (d a : Nat) : Use :=
  { aRegs := regsT (isWide m) a, even := if isWide m then [a] else [], gDest := [d] }

/-- The types of a reduction: integers, floating point and the 8-bit formats (Table 6-3). -/
abbrev reduceTypes (m : Word) : Bool := typeIs m fun t => t.isInt || t.isFlt || t.isF8

/-- A reduction of active lanes that raises no enabled flag writes the root of its tree, and its flags join ASTAT. -/
theorem reduceWord_ready (r : Ready i (reduceUse st.group.mode d a) { types := reduceTypes st.group.mode } st s)
    (hflags : (reduceLanes el a st).2 &&& st.group.aten = 0#5) :
    reduceWord i el empty d a s = .next (s.goesOn (reduceUse st.group.mode d a) st
      (((st.freeMarked (reduceUse st.group.mode d a)).setG d (BitVec.ofNat 64 ((reduceLanes el a st).1.getD 0))).raise
        (reduceLanes el a st).2)) := by
  rw [reduceWord, State.modeWord_here r.here]
  exact issue_ready_onStrand r (by simp [hflags, firstFault_single])

/-- A reduction that raises an enabled flag traps in every active lane, with all its flags. -/
theorem reduceWord_traps (r : Ready i (reduceUse st.group.mode d a) { types := reduceTypes st.group.mode } st s)
    (hact : st.active ≠ 0#64) (hflags : (reduceLanes el a st).2 &&& st.group.aten ≠ 0#5) :
    reduceWord i el empty d a s =
      .next (s.trapWord st (faultIn st.active .arithmetic (reduceLanes el a st).2.toNat)) := by
  have hcheck : firstFault [if (reduceLanes el a st).2 &&& st.group.aten != 0#5 then
      faultIn st.active .arithmetic (reduceLanes el a st).2.toNat else []] =
        faultIn st.active .arithmetic (reduceLanes el a st).2.toNat := by
    simp [hflags, firstFault_single]
  rw [reduceWord, State.modeWord_here r.here, issue_trap r (by rw [hcheck]; exact faultIn_ne_nil hact _ _), hcheck]

/-- A reduction without an active lane writes what its tree gives when it is empty, and reads no register. -/
theorem reduceWord_idle (h : s.here? = some st)
    (hcheck : checkWord st i (reduceUse st.group.mode d a) (reduceTypes st.group.mode) = none) (hact : st.active = 0#64) :
    reduceWord i el empty d a s = .next (s.goesOn { gDest := [d] } st
      (st.setG d (BitVec.ofNat 64 (empty (arithOf st.group.mode).t)))) := by
  rw [reduceWord, State.modeWord_here h, issue_idle h hcheck rfl hact]
  have hhere : (s.unbindDests st.lineage [d]).here? = some st := (State.here?_unbindDests s _ _).trans h
  simp [h, State.modHere_eq hhere, State.goesOn]

end

/-- The tree of R82 over eight lanes that are all active: pairs, pairs of pairs, and the two halves. -/
theorem treeUp_eightPresent (f : Nat → Nat → Nat × Flags) (a b c d e g h i : Nat) :
    (treeUp f 6 ([a, b, c, d, e, g, h, i].map fun x => (some x, 0#5))).map (·.1) =
      [some (f (f (f a b).1 (f c d).1).1 (f (f e g).1 (f h i).1).1).1] := rfl

/-! ### CONFL (R147) -/

/-- The lanes of a mask below lane l. -/
theorem mem_lanesOf_below {m : LaneMask} {k l : Nat} : k ∈ lanesOf (m &&& maskBelow l) ↔ m.getLsbD k = true ∧ k < l := by
  rw [mem_lanesOf, BitVec.getLsbD_and, Bool.and_eq_true]
  exact and_congr_right fun hk => by simp [getLsbD_maskBelow l (BitVec.lt_of_getLsbD hk)]

/-- Bit l of CONFL: lane l is active, and a lower active lane has its pattern. -/
theorem getLsbD_conflicts (st : Strand) (a : Nat) {l : Nat} (hl : l < 64) :
    (conflicts st a).getLsbD l = true ↔ st.active.getLsbD l = true ∧ ∃ k, k < l ∧ st.active.getLsbD k = true ∧
      st.vval (isWide st.group.mode) a k = st.vval (isWide st.group.mode) a l := by
  simp only [conflicts, getLsbD_maskOf _ hl, decide_eq_true_eq, List.mem_filter, List.any_eq_true, mem_lanesOf_below,
    mem_lanesOf (m := st.active), beq_iff_eq]
  refine and_congr_right fun _ => exists_congr fun k => ?_
  tauto

/-- The register use of CONFL on a under a mode. -/
abbrev conflictUse (m : Word) (a : Nat) : Use :=
  { aRegs := regsT (isWide m) a, even := if isWide m then [a] else [] }

/-- CONFL writes the conflicting lanes to k[D]. -/
theorem execConfl_ready {d : BitVec 4} {a : BitVec 8} {s : State} {st : Strand}
    (r : Ready (.confl d a) (conflictUse st.group.mode a.toNat) { types := (modeType st.group.mode).isSome } st s) :
    execConfl d a s = .next (s.goesOn (conflictUse st.group.mode a.toNat) st
      ((st.freeMarked (conflictUse st.group.mode a.toNat)).setK d.toNat (conflicts st a.toNat))) := by
  rw [execConfl, State.modeWord_here r.here]
  exact issue_ready_onStrand r (firstFault_noChecks st s)

end Sys2Proof.Machine

section
open Sys2Proof Sys2Proof.Machine

/-- Settles O21: the comparisons are uses of `compareWord_runs`, the predicate instructions of `predWord_ready`; their words
are R format (`encR_eq_shifts`), and a word with a bad field is refused by `decodeFields_predicateWord_eq_none`. -/
theorem comparisonsAndPredicates : Obligations.ComparisonsAndPredicates := by
  unfold Obligations.ComparisonsAndPredicates
  refine ⟨fun d a b => ?compare, fun s st d a b i m _ hi r => ?pred, fun d a b => ?words,
    fun w hlo hhi hbad => decode_of_noFields (decodeFields_predicateWord_eq_none hlo hhi hbad)⟩
  case compare => refine ⟨?_, ?_, ?_, ?_, ?_⟩ <;> exact compareWord_runs fun _ => rfl
  case pred =>
    have hexec : exec i s = .next (s.goesOn {} st (st.setP d.toNat st.active m)) := by
      obtain ⟨rfl, rfl⟩ | ⟨rfl, rfl⟩ | ⟨rfl, rfl⟩ | ⟨rfl, rfl⟩ := hi <;> exact predWord_ready r
    exact ⟨_, hexec, Strand.pr_setP_same st _ _ _, fun n hn => Strand.pr_setP_other st _ _ hn, rfl⟩
  case words => simp [encode, encR_eq_shifts]

/-- Settles O25: the three reductions are uses of `reduceWord_ready`, `reduceWord_traps` and `reduceWord_idle`, the tree is
`treeUp_eightPresent`, and CONFL is `execConfl_ready` with the lanes of `getLsbD_conflicts`. -/
theorem reductionsAndConflicts : Obligations.ReductionsAndConflicts := by
  unfold Obligations.ReductionsAndConflicts
  refine ⟨fun s st d a i el empty hi => ?reduce, fun f a b c d e g h i => treeUp_eightPresent f a b c d e g h i,
    fun s st d a r _ => ⟨conflicts st a.toNat, execConfl_ready r, fun l hl => getLsbD_conflicts st a.toNat hl⟩,
    fun d a => ?word⟩
  case reduce =>
    have hexec : exec i s = reduceWord i el empty d.toNat a.toNat s := by
      obtain ⟨rfl, rfl, rfl⟩ | ⟨rfl, rfl, rfl⟩ | ⟨rfl, rfl, rfl⟩ := hi <;> rfl
    rw [hexec]
    exact ⟨fun r _ hflags => reduceWord_ready r hflags, fun r hact hflags => reduceWord_traps r hact hflags,
      fun h hcheck hact => reduceWord_idle h hcheck hact⟩
  case word => simp [encode, encR_eq_shifts]

end

end

section
/-! SUPPORT. Decoding loses no bit of a word: what each reader of a field answers gives the field back, the four formats put
the fields together again, and so does each row of Table 3-7 (R44, R50-R56). -/

namespace Sys2Proof

/-! ### A word is made of its fields -/

theorem encR_fields (w : Word) :
    encR (w.extractLsb' 24 8) (w.extractLsb' 16 8) (w.extractLsb' 8 8) (w.extractLsb' 0 8) = w := by
  apply BitVec.eq_of_toNat_eq
  have := w.isLt
  simp only [encR, Laws.toNat_join, BitVec.extractLsb'_toNat, Nat.shiftRight_eq_div_pow]
  omega

theorem encI_fields (w : Word) : encI (w.extractLsb' 24 8) (w.extractLsb' 16 8) (w.extractLsb' 0 16) = w := by
  apply BitVec.eq_of_toNat_eq
  have := w.isLt
  simp only [encI, Laws.toNat_join, BitVec.extractLsb'_toNat, Nat.shiftRight_eq_div_pow]
  omega

theorem encJ_fields (w : Word) : encJ (w.extractLsb' 24 8) (w.extractLsb' 0 24) = w := by
  apply BitVec.eq_of_toNat_eq
  have := w.isLt
  simp only [encJ, Laws.toNat_join, BitVec.extractLsb'_toNat, Nat.shiftRight_eq_div_pow]
  omega

theorem encC_fields (w : Word) :
    encC (w.extractLsb' 24 8) (w.extractLsb' 16 8) (w.extractLsb' 10 6) (w.extractLsb' 4 6) (w.extractLsb' 0 4) = w := by
  apply BitVec.eq_of_toNat_eq
  have := w.isLt
  simp only [encC, Laws.toNat_join, BitVec.extractLsb'_toNat, Nat.shiftRight_eq_div_pow]
  omega

/-! ### A field that is read is given back -/

theorem setWidth_setWidth_of_lt {m n : Nat} (x : BitVec m) (h : x.toNat < 2 ^ n) : (x.setWidth n).setWidth m = x := by
  apply BitVec.eq_of_toNat_eq
  rw [BitVec.toNat_setWidth, BitVec.toNat_setWidth, Nat.mod_eq_of_lt h, Nat.mod_eq_of_lt x.isLt]

theorem low_eq_some {n : Nat} {x : BitVec 8} {d : BitVec n} (h : low n x = some d) : d.setWidth 8 = x := by
  obtain ⟨hlt, ⟨⟩⟩ := Option.ite_none_right_eq_some.mp h
  exact setWidth_setWidth_of_lt x hlt

theorem lowImm_eq_some {n : Nat} {x : BitVec 16} {d : BitVec n} (h : lowImm n x = some d) : d.setWidth 16 = x := by
  obtain ⟨hlt, ⟨⟩⟩ := Option.ite_none_right_eq_some.mp h
  exact setWidth_setWidth_of_lt x hlt

theorem lowSel_eq_some {x : BitVec 4} {d : BitVec 1} (h : lowSel x = some d) : d.setWidth 4 = x := by
  obtain ⟨hlt, ⟨⟩⟩ := Option.ite_none_right_eq_some.mp h
  exact setWidth_setWidth_of_lt x hlt

theorem pairField_eq_some {x : BitVec 8} {d : BitVec 7} (h : pairField x = some d) : pairByte d = x := by
  obtain ⟨heven, ⟨⟩⟩ := Option.ite_none_right_eq_some.mp h
  apply BitVec.eq_of_toNat_eq
  have := x.isLt
  simp only [pairByte, Laws.toNat_join, BitVec.extractLsb'_toNat, Nat.shiftRight_eq_div_pow, BitVec.toNat_ofNat]
  omega

theorem zeroField_eq_some {x : BitVec 8} {d : Unit} (h : zeroField x = some d) : 0#8 = x :=
  (Option.ite_none_right_eq_some.mp h).1.symm

theorem zeroSel_eq_some {x : BitVec 4} {d : Unit} (h : zeroSel x = some d) : 0#4 = x :=
  (Option.ite_none_right_eq_some.mp h).1.symm

/-! ### Readings that lose nothing -/

/-- Every instruction that a reading of the word w answers has the word w. -/
def Lossless (w : Word) (x : Option Instr) : Prop := ∀ i, x = some i → encode i = some w

theorem lossless_pure {w : Word} {i : Instr} : Lossless w (pure i) ↔ encode i = some w := by
  simp [Lossless]

theorem lossless_bind {α : Type} {w : Word} {r : Option α} {k : α → Option Instr} :
    Lossless w (r >>= k) ↔ ∀ a, r = some a → Lossless w (k a) := by
  constructor
  · rintro h a rfl
    exact h
  · intro h i hi
    obtain ⟨a, ha, hk⟩ := Option.bind_eq_some_iff.mp hi
    exact h a ha i hk

/-! ### The rows of Table 3-7, by format -/

section
variable {w : Word} {n : Nat} (ho : w.extractLsb' 24 8 = BitVec.ofNat 8 n)

theorem encR_of_fields {op d a b : BitVec 8} (ho : w.extractLsb' 24 8 = op) (hd : d = w.extractLsb' 16 8)
    (ha : a = w.extractLsb' 8 8) (hb : b = w.extractLsb' 0 8) : some (encR op d a b) = some w := by
  rw [← ho, hd, ha, hb, encR_fields]

theorem encI_of_fields {op d : BitVec 8} {imm : BitVec 16} (ho : w.extractLsb' 24 8 = op) (hd : d = w.extractLsb' 16 8)
    (himm : imm = w.extractLsb' 0 16) : some (encI op d imm) = some w := by
  rw [← ho, hd, himm, encI_fields]

theorem encJ_of_fields {op : BitVec 8} (ho : w.extractLsb' 24 8 = op) : some (encJ op (w.extractLsb' 0 24)) = some w := by
  rw [← ho, encJ_fields]

theorem encC_of_fields {op d : BitVec 8} {sel : BitVec 4} (ho : w.extractLsb' 24 8 = op) (hd : d = w.extractLsb' 16 8)
    (hsel : sel = w.extractLsb' 0 4) : some (encC op d (w.extractLsb' 10 6) (w.extractLsb' 4 6) sel) = some w := by
  rw [← ho, hd, hsel, encC_fields]

/-- The opcodes of I format. -/
def iFormatOps : List Nat :=
  [0x01, 0x02, 0x04, 0x05, 0x06, 0x07, 0x0D, 0x10, 0x11, 0x1E, 0x3B, 0x3C, 0x6A, 0x6B, 0x6C, 0x6D, 0xB3, 0xB4, 0xB8, 0xC0,
   0xC2, 0xC4, 0xC5, 0xC9, 0xCA]

/-- The opcodes of R format. -/
def rFormatOps : List Nat :=
  [0x00, 0x09, 0x0A, 0x0B, 0x0C, 0x0E, 0x0F] ++ List.range' 0x12 12 ++ List.range' 0x1F 28 ++ List.range' 0x3D 33 ++
  List.range' 0x60 10 ++ List.range' 0x6E 21 ++ List.range' 0x84 8 ++ List.range' 0x8D 3 ++ List.range' 0xA0 10 ++
  [0xB0, 0xB1] ++ List.range' 0xB9 7 ++ [0xC1, 0xC3, 0xC6, 0xC7, 0xC8, 0xCB]

theorem opcode_formats {n : Nat} (hn : n < 256) :
    n ∈ rFormatOps ∨ n ∈ iFormatOps ∨ n = 0x03 ∨ n = 0x08 ∨ n = 0x8C ∨ n = 0xB2 ∨ unassignedOp n = true := by
  interval_cases n <;> decide

include ho

theorem lossless_rFormat (hn : n ∈ rFormatOps) : Lossless w (decodeFields w n) := by
  simp only [rFormatOps] at hn
  fin_cases hn
  all_goals
    first | change Lossless w (_ >>= _) | change Lossless w (pure _)
    simp only [lossless_bind, lossless_pure]
    intros
    refine encR_of_fields ho ?_ ?_ ?_
  all_goals with_reducible
    first | exact rfl | exact low_eq_some ‹_› | exact pairField_eq_some ‹_› | exact zeroField_eq_some ‹_›

theorem lossless_iFormat (hn : n ∈ iFormatOps) : Lossless w (decodeFields w n) := by
  simp only [iFormatOps] at hn
  fin_cases hn
  all_goals
    first | change Lossless w (_ >>= _) | change Lossless w (pure _)
    simp only [lossless_bind, lossless_pure]
    intros
    refine encI_of_fields ho ?_ ?_
  all_goals with_reducible
    first | exact rfl | exact low_eq_some ‹_› | exact lowImm_eq_some ‹_› | exact zeroField_eq_some ‹_›

/-- What Table 3-7 reads from a word with an opcode has that word (R50-R56, R64). -/
theorem lossless_decodeFields (hn : n < 256) : Lossless w (decodeFields w n) := by
  obtain hr | hi | rfl | rfl | rfl | rfl | hu := opcode_formats hn
  · exact lossless_rFormat ho hr
  · exact lossless_iFormat ho hi
  · exact lossless_pure.mpr (encJ_of_fields ho)
  · exact lossless_pure.mpr (encJ_of_fields ho)
  · exact lossless_bind.mpr fun d hd => lossless_bind.mpr fun _ hsel => lossless_pure.mpr
      (encC_of_fields ho (low_eq_some hd) (zeroSel_eq_some hsel))
  · exact lossless_bind.mpr fun d hd => lossless_bind.mpr fun sel hsel => lossless_pure.mpr
      (encC_of_fields ho (low_eq_some hd) (lowSel_eq_some hsel))
  · rw [Laws.unassigned_fields w n hn hu]
    exact lossless_pure.mpr rfl

end

theorem encode_of_decode {w : Word} {i : Instr} (h : decode w = .ok i) : encode i = some w := by
  have hop : w.extractLsb' 24 8 = BitVec.ofNat 8 (slice w 31 24) := by
    rw [Laws.slice_op, BitVec.ofNat_toNat, BitVec.setWidth_eq]
  have hlt : slice w 31 24 < 256 := Nat.mod_lt _ (by decide)
  unfold decode at h
  split at h
  · cases h
  · split at h
    · cases h
      exact lossless_decodeFields hop hlt i ‹_›
    · cases h

/-- A header keeps the 31 bits of its fields, and bit 0 of a word that is read as one is 0 (R44, R46). -/
theorem encode_of_decodeHeader {w : Word} {i : Instr} (h : decodeHeader w = some i) : encode i = some w := by
  obtain ⟨hbit, ⟨⟩⟩ := Option.ite_none_left_eq_some.mp h
  have hzero : w.toNat % 2 = 0 := by simpa [BitVec.getLsbD, Nat.testBit_zero] using hbit
  refine congrArg some (BitVec.eq_of_toNat_eq ?_)
  have := w.isLt
  simp only [Laws.toNat_join, BitVec.extractLsb'_toNat, Nat.shiftRight_eq_div_pow, BitVec.toNat_ofNat]
  omega

end Sys2Proof

section
open Sys2Proof Sys2Proof.Laws

/-- Settles O1: each constructor has its lemma of reading back in `Laws.Encoding`. -/
theorem encodeDecodeAgree : Obligations.EncodeDecodeAgree := by
  intro i
  cases i with
  | clauseHeader => apply Encoding.clauseHeader
  | unassignedOpcode => apply Encoding.unassignedOpcode
  | nop => apply Encoding.nop
  | mode => apply Encoding.mode
  | memmode => apply Encoding.memmode
  | bra => apply Encoding.bra
  | bkz => apply Encoding.bkz
  | bknz => apply Encoding.bknz
  | bqt => apply Encoding.bqt
  | bqf => apply Encoding.bqf
  | call => apply Encoding.call
  | callg => apply Encoding.callg
  | jmpg => apply Encoding.jmpg
  | ret => apply Encoding.ret
  | retv => apply Encoding.retv
  | loop => apply Encoding.loop
  | lexit => apply Encoding.lexit
  | exit => apply Encoding.exit
  | sreg => apply Encoding.sreg
  | gsreg => apply Encoding.gsreg
  | kfrom => apply Encoding.kfrom
  | kand => apply Encoding.kand
  | kor => apply Encoding.kor
  | kandn => apply Encoding.kandn
  | kxor => apply Encoding.kxor
  | kmov => apply Encoding.kmov
  | kpop => apply Encoding.kpop
  | ktog => apply Encoding.ktog
  | gtok => apply Encoding.gtok
  | phint => apply Encoding.phint
  | idem => apply Encoding.idem
  | idend => apply Encoding.idend
  | bwphase => apply Encoding.bwphase
  | launch => apply Encoding.launch
  | add => apply Encoding.add
  | sub => apply Encoding.sub
  | mul => apply Encoding.mul
  | mulh => apply Encoding.mulh
  | mad => apply Encoding.mad
  | msb => apply Encoding.msb
  | div => apply Encoding.div
  | rem => apply Encoding.rem
  | min => apply Encoding.min
  | max => apply Encoding.max
  | abs => apply Encoding.abs
  | neg => apply Encoding.neg
  | and => apply Encoding.and
  | or => apply Encoding.or
  | xor => apply Encoding.xor
  | not => apply Encoding.not
  | shl => apply Encoding.shl
  | shr => apply Encoding.shr
  | sar => apply Encoding.sar
  | rol => apply Encoding.rol
  | clz => apply Encoding.clz
  | pop => apply Encoding.pop
  | brev => apply Encoding.brev
  | bfe => apply Encoding.bfe
  | bfi => apply Encoding.bfi
  | mov => apply Encoding.mov
  | sel => apply Encoding.sel
  | ldi => apply Encoding.ldi
  | ldih => apply Encoding.ldih
  | cvt => apply Encoding.cvt
  | ceq => apply Encoding.ceq
  | cne => apply Encoding.cne
  | clt => apply Encoding.clt
  | cle => apply Encoding.cle
  | cun => apply Encoding.cun
  | pand => apply Encoding.pand
  | por => apply Encoding.por
  | pxor => apply Encoding.pxor
  | pnot => apply Encoding.pnot
  | rcp => apply Encoding.rcp
  | rsq => apply Encoding.rsq
  | sqrt => apply Encoding.sqrt
  | ex2 => apply Encoding.ex2
  | lg2 => apply Encoding.lg2
  | sinpi => apply Encoding.sinpi
  | cospi => apply Encoding.cospi
  | rint => apply Encoding.rint
  | scl => apply Encoding.scl
  | shfl => apply Encoding.shfl
  | shfx => apply Encoding.shfx
  | shup => apply Encoding.shup
  | shdn => apply Encoding.shdn
  | bcst => apply Encoding.bcst
  | radd => apply Encoding.radd
  | rmin => apply Encoding.rmin
  | rmax => apply Encoding.rmax
  | confl => apply Encoding.confl
  | fcls => apply Encoding.fcls
  | cmprs => apply Encoding.cmprs
  | expnd => apply Encoding.expnd
  | vtog => apply Encoding.vtog
  | gtov => apply Encoding.gtov
  | gadd => apply Encoding.gadd
  | gsub => apply Encoding.gsub
  | gmul => apply Encoding.gmul
  | gand => apply Encoding.gand
  | gor => apply Encoding.gor
  | gxor => apply Encoding.gxor
  | gshl => apply Encoding.gshl
  | gshr => apply Encoding.gshr
  | gsar => apply Encoding.gsar
  | gmov => apply Encoding.gmov
  | gldi => apply Encoding.gldi
  | gldih => apply Encoding.gldih
  | gldix => apply Encoding.gldix
  | gldiy => apply Encoding.gldiy
  | gceq => apply Encoding.gceq
  | gclt => apply Encoding.gclt
  | lkp => apply Encoding.lkp
  | ins => apply Encoding.ins
  | ups => apply Encoding.ups
  | del => apply Encoding.del
  | rekey => apply Encoding.rekey
  | ld => apply Encoding.ld
  | st => apply Encoding.st
  | atom => apply Encoding.atom
  | ldrow => apply Encoding.ldrow
  | ratom => apply Encoding.ratom
  | copen => apply Encoding.copen
  | cstep => apply Encoding.cstep
  | cstepn => apply Encoding.cstepn
  | cseek => apply Encoding.cseek
  | cclose => apply Encoding.cclose
  | gath => apply Encoding.gath
  | promo => apply Encoding.promo
  | publ => apply Encoding.publ
  | fence => apply Encoding.fence
  | sld => apply Encoding.sld
  | sst => apply Encoding.sst
  | satom => apply Encoding.satom
  | cpy => apply Encoding.cpy
  | cpys => apply Encoding.cpys
  | cpyo => apply Encoding.cpyo
  | cbatch => apply Encoding.cbatch
  | cwait => apply Encoding.cwait
  | bgive => apply Encoding.bgive
  | btake => apply Encoding.btake
  | balloc => apply Encoding.balloc
  | bfree => apply Encoding.bfree
  | gang => apply Encoding.gang
  | mlds => apply Encoding.mlds
  | mact => apply Encoding.mact
  | mmul => apply Encoding.mmul
  | mmsp => apply Encoding.mmsp
  | mband => apply Encoding.mband
  | scacc => apply Encoding.scacc
  | mrd => apply Encoding.mrd
  | mclr => apply Encoding.mclr
  | mstep => apply Encoding.mstep
  | go => apply Encoding.go
  | gom => apply Encoding.gom
  | goto => apply Encoding.goto
  | gopol => apply Encoding.gopol
  | rejoin => apply Encoding.rejoin
  | bar => apply Encoding.bar
  | bara => apply Encoding.bara
  | barw => apply Encoding.barw
  | barinit => apply Encoding.barinit
  | ftest => apply Encoding.ftest
  | fwait => apply Encoding.fwait
  | fcancel => apply Encoding.fcancel
  | post => apply Encoding.post
  | sysc => apply Encoding.sysc
  | sret => apply Encoding.sret
  | hcall => apply Encoding.hcall
  | hret => apply Encoding.hret
  | mfpr => apply Encoding.mfpr
  | mtpr => apply Encoding.mtpr
  | tinv => apply Encoding.tinv
  | ctxsv => apply Encoding.ctxsv
  | ctxld => apply Encoding.ctxld
  | perf => apply Encoding.perf
  | bkpt => apply Encoding.bkpt
  | kill => apply Encoding.kill
  | divComplete => apply Encoding.divComplete
  | tableOpComplete => apply Encoding.tableOpComplete
  | gathComplete => apply Encoding.gathComplete
  | promoComplete => apply Encoding.promoComplete
  | publSwapOrRetire => apply Encoding.publSwapOrRetire
  | scratchLoadComplete => apply Encoding.scratchLoadComplete
  | copyComplete => apply Encoding.copyComplete
  | bgiveTransfer => apply Encoding.bgiveTransfer
  | bfreeRelease => apply Encoding.bfreeRelease
  | granuleClearDone => apply Encoding.granuleClearDone
  | mldsPerform => apply Encoding.mldsPerform
  | mactPerform => apply Encoding.mactPerform
  | mmulPerform => apply Encoding.mmulPerform
  | mmspPerform => apply Encoding.mmspPerform
  | mbandPerform => apply Encoding.mbandPerform
  | scaccPerform => apply Encoding.scaccPerform
  | mrdPerform => apply Encoding.mrdPerform
  | mclrPerform => apply Encoding.mclrPerform
  | implicitMigration => apply Encoding.implicitMigration
  | flaconSend => apply Encoding.flaconSend
  | flaconArrival => apply Encoding.flaconArrival
  | flaconAcknowledge => apply Encoding.flaconAcknowledge
  | reassemblyWindowExpiry => apply Encoding.reassemblyWindowExpiry
  | strandForm => apply Encoding.strandForm
  | tinvDone => apply Encoding.tinvDone
  | trapEntry => apply Encoding.trapEntry
  | starvationPromotion => apply Encoding.starvationPromotion
  | launchService => apply Encoding.launchService
  | dispatchBlock => apply Encoding.dispatchBlock
  | launchComplete => apply Encoding.launchComplete
  | preemptRequest => apply Encoding.preemptRequest
  | fullSaveTimeout => apply Encoding.fullSaveTimeout
  | strandSave => apply Encoding.strandSave
  | kuenrexRestore => apply Encoding.kuenrexRestore
  | strandRestore => apply Encoding.strandRestore
  | pageWalk => apply Encoding.pageWalk
  | bankRetentionEntry => apply Encoding.bankRetentionEntry
  | bankDeepPowerDown => apply Encoding.bankDeepPowerDown
  | bankWakeEnd => apply Encoding.bankWakeEnd
  | bankMapWrite => apply Encoding.bankMapWrite
  | packagePhaseApply => apply Encoding.packagePhaseApply
  | compactionMove => apply Encoding.compactionMove
  | faultQueueRemove => apply Encoding.faultQueueRemove
  | mgmtRegisterWrite => apply Encoding.mgmtRegisterWrite
  | coreClockStep => apply Encoding.coreClockStep
  | imageLoad => apply Encoding.imageLoad
  | tableCreate => apply Encoding.tableCreate
  | tableDestroy => apply Encoding.tableDestroy
  | tableStoreReturn => apply Encoding.tableStoreReturn
  | rowStorageFree => apply Encoding.rowStorageFree
  | linkFlitReceive => apply Encoding.linkFlitReceive
  | linkRequestTimeout => apply Encoding.linkRequestTimeout
  | hostDoorbell => apply Encoding.hostDoorbell
  | freeze => apply Encoding.freeze
  | enfleurageReadout => apply Encoding.enfleurageReadout
  | resume => apply Encoding.resume
  | reset => apply Encoding.reset
  | refusedClear => apply Encoding.refusedClear
  | packageReset => apply Encoding.packageReset
  | bootStage => apply Encoding.bootStage
  | maintenanceReplan => apply Encoding.maintenanceReplan
  | powerStateEntryComplete => apply Encoding.powerStateEntryComplete
  | coreCycleCounterMatch => apply Encoding.coreCycleCounterMatch
  | hostWindowAccess => apply Encoding.hostWindowAccess
  | getVersion => apply Encoding.getVersion
  | getCapabilities => apply Encoding.getCapabilities
  | negotiateAlgorithms => apply Encoding.negotiateAlgorithms
  | getDigests => apply Encoding.getDigests
  | getCertificate => apply Encoding.getCertificate
  | challenge => apply Encoding.challenge
  | getMeasurements => apply Encoding.getMeasurements

/-- Settles O2: a word that decodes is `encode_of_decode`, a header `encode_of_decodeHeader`. -/
theorem decodeKeepsEveryBit : Obligations.DecodeKeepsEveryBit :=
  ⟨fun _ _ h => encode_of_decode h, fun _ _ h => encode_of_decodeHeader h⟩

end

end

section
/-! SUPPORT. Bits replaced within a word, the word that a step runs, NOP and the mode register (R6, R43, R57-R60, R67, R218). -/

namespace Sys2Proof

/-! ### Bits replaced within a word -/

/-- Bit i of a word in which n bits from lo were replaced by those of v. -/
theorem getLsbD_putSlice {w : Nat} (x : BitVec w) (lo n v : Nat) {i : Nat} (hi : i < w) :
    (putSlice x lo n v).getLsbD i = if lo ≤ i ∧ i < lo + n then v.testBit (i - lo) else x.getLsbD i := by
  have hlow : x.toNat % 2 ^ lo < 2 ^ lo := Nat.mod_lt _ (Nat.two_pow_pos lo)
  have hmid : (v % 2 ^ n) <<< lo + x.toNat % 2 ^ lo < 2 ^ (lo + n) := by
    rw [Nat.shiftLeft_add_eq_or_of_lt hlow]
    refine Nat.or_lt_two_pow ?_ (hlow.trans_le (Nat.pow_le_pow_right (by decide) (by omega)))
    rw [Nat.shiftLeft_eq, Nat.pow_add, Nat.mul_comm]
    exact (Nat.mul_lt_mul_left (Nat.two_pow_pos lo)).mpr (Nat.mod_lt _ (Nat.two_pow_pos n))
  have hjoin : x.toNat % 2 ^ lo + (v % 2 ^ n) <<< lo + (x.toNat >>> (lo + n)) <<< (lo + n) =
      (x.toNat >>> (lo + n)) <<< (lo + n) ||| ((v % 2 ^ n) <<< lo ||| x.toNat % 2 ^ lo) := by
    rw [Nat.add_comm, Nat.add_comm (x.toNat % 2 ^ lo), Nat.shiftLeft_add_eq_or_of_lt hmid,
      Nat.shiftLeft_add_eq_or_of_lt hlow]
  rw [putSlice, hjoin, BitVec.getLsbD_ofNat]
  simp only [hi, decide_true, Bool.true_and, Nat.testBit_or, Nat.testBit_shiftLeft, Nat.testBit_shiftRight,
    Nat.testBit_mod_two_pow, BitVec.getLsbD]
  rcases lt_or_ge i lo with h | h
  · simp [h, Nat.not_le.mpr h, show ¬ lo + n ≤ i by omega]
  · rcases lt_or_ge i (lo + n) with h' | h'
    · simp [h, h', Nat.not_lt.mpr h, show i - lo < n by omega, show ¬ lo + n ≤ i by omega]
    · simp [h, h', Nat.not_lt.mpr h, show ¬ i - lo < n by omega, show ¬ i < lo + n by omega]

theorem extractLsb'_putSlice_same {w : Nat} (x : BitVec w) (lo n : Nat) (v : BitVec n) (h : lo + n ≤ w) :
    (putSlice x lo n v.toNat).extractLsb' lo n = v := by
  refine BitVec.eq_of_getLsbD_eq fun i hi => ?_
  rw [BitVec.getLsbD_extractLsb', getLsbD_putSlice x lo n v.toNat (by omega)]
  simp [hi, BitVec.testBit_toNat]

theorem extractLsb'_putSlice_other {w : Nat} (x : BitVec w) {lo n k m : Nat} (v : Nat) (h : k + m ≤ w)
    (hd : k + m ≤ lo ∨ lo + n ≤ k) : (putSlice x lo n v).extractLsb' k m = x.extractLsb' k m := by
  refine BitVec.eq_of_getLsbD_eq fun i hi => ?_
  rw [BitVec.getLsbD_extractLsb', BitVec.getLsbD_extractLsb', getLsbD_putSlice x lo n v (by omega), if_neg (by omega)]

end Sys2Proof

namespace Sys2Proof.Machine

/-! ### The word that a step runs -/

/-- A step of the agenda that lets a slot issue runs the strand there, if it is the next one selected on its core. -/
theorem step_issue {s : State} {c sl : Nat} {rest : List Move} (ha : s.agenda = .issue c sl :: rest)
    (hf : s.freeze.frozen = false) (hs : (s.slate.find? fun x => x.1 == c) = some (c, sl)) :
    step s = State.issueAt { s with agenda := rest, slate := s.slate.erase (c, sl) } c sl := by
  simp [step, State.run, ha, hf, State.move, State.issueMove, hs]

/-- A strand that waits for nothing issues its next word. -/
theorem State.issueAt_free {s : State} {c sl : Nat} {st : Strand} (h : s.strand? c sl = some st) (hw : st.wait = .none) :
    s.issueAt c sl = issueNext { s with cur := (c, sl) } := by
  have hh : ({ s with cur := (c, sl) } : State).here? = some st := h
  simp [State.issueAt, hh, Strand.free, hw]

theorem issueNext_header {s : State} {st : Strand} (h : s.here? = some st) (hc : st.clause = none) :
    issueNext s = .next (fetchClause s) := by
  simp [issueNext, h, hc]

theorem issueNext_word {s : State} {st : Strand} {k : Clause} (h : s.here? = some st) (hc : st.clause = some k) :
    issueNext s = match decode (k.words.getD k.idx 0#32) with
      | .ok i => exec i s
      | .error (.reserved _) => refuseWord (k.words.getD k.idx 0#32) s
      | .error (.illFormed i) => exec i s := by
  simp only [issueNext, h, hc] <;> rfl

/-- A strand that waits for nothing runs the word at its place. -/
theorem State.issueAt_word {s : State} {c sl : Nat} {st : Strand} {k : Clause} (h : s.strand? c sl = some st)
    (hw : st.wait = .none) (hc : st.clause = some k) :
    s.issueAt c sl = match decode (k.words.getD k.idx 0#32) with
      | .ok i => exec i { s with cur := (c, sl) }
      | .error (.reserved _) => refuseWord (k.words.getD k.idx 0#32) { s with cur := (c, sl) }
      | .error (.illFormed i) => exec i { s with cur := (c, sl) } :=
  (State.issueAt_free h hw).trans ((issueNext_word (s := { s with cur := (c, sl) }) h hc).trans rfl)

/-- A ready word that names no register of field a, ends no region and binds nothing late: its effect meets the strand as it
stood at issue. -/
theorem issue_ready_onWholeStrand {i : Instr} {u : Use} {f : Form} {ch : Strand → State → List (List LaneFault)}
    {g : Strand → Strand → Strand} {idle : State → State} {s : State} {st : Strand} (r : Ready i u f st s)
    (hf : firstFault (ch st s) = []) (ha : u.aRegs = []) (he : f.ends = false := by rfl) (hl : f.late = false := by rfl) :
    issue i u f ch (onStrand g) idle s = .next (s.goesOn u st (g st st)) := by
  rw [issue_ready_onStrand r hf hl, Strand.ready_plain st u f ha he]

/-- A word without registers of its own that takes effect in every case and fails step 4 of R67 for its mode. -/
theorem issue_illegalMode {i : Instr} {eff : Effect} {s : State} {st : Strand} (h : s.here? = some st)
    (hi : minMode i = 0) (hw : i.wf = true) (hcvt : ∀ d a t, i ≠ .cvt d a t) :
    issue i {} { always := true, types := false } noChecks eff id s = .next (s.trapWord st (faultIn st.trapLanes .illegalMode)) := by
  have hcheck : checkWord st i {} false = some .illegalMode := by
    cases i <;> simp_all [checkWord, Use.fits]
  exact issue_refused h hcheck

end Sys2Proof.Machine

section
open Sys2Proof Sys2Proof.Machine

/-- Settles O3: each word is one value, which decoding evaluates. -/
theorem decodeOfWrittenWords : Obligations.DecodeOfWrittenWords := by
  unfold Obligations.DecodeOfWrittenWords
  decide

/-- Settles O4: a step of the agenda is `step_issue`, and `issueNext_word` or `issueNext_header` tells what the strand does. -/
theorem stepRunsTheDecodedWord : Obligations.StepRunsTheDecodedWord := by
  unfold Obligations.StepRunsTheDecodedWord
  refine ⟨fun s c sl rest st k i ha hf hs h hw hc hd => ?word, ?refused, fun s c sl rest st ha hf hs h hw hc => ?header⟩
  case word =>
    have hword : ({ s with agenda := rest, slate := s.slate.erase (c, sl) } : State).issueAt c sl = _ :=
      State.issueAt_word h hw hc
    rw [step_issue ha hf hs, hword, hd]
  case refused =>
    intro s c sl rest st k w u ha hf hs h hw hc
    have hword : ({ s with agenda := rest, slate := s.slate.erase (c, sl) } : State).issueAt c sl = _ :=
      State.issueAt_word h hw hc
    rw [step_issue ha hf hs, hword]
    exact ⟨fun n hd => by rw [hd], fun i hd => by rw [hd]⟩
  case header =>
    have hfree : ({ s with agenda := rest, slate := s.slate.erase (c, sl) } : State).issueAt c sl = _ :=
      State.issueAt_free h hw
    rw [step_issue ha hf hs, hfree]
    exact issueNext_header h hc

/-- Settles O6: each part is read off the reset state; memory lists nothing, so every byte is an unwritten one. -/
theorem resetState : Obligations.ResetState :=
  ⟨fun _ _ => rfl, fun _ => rfl, Mem.wf_reset, fun _ => rfl, rfl, rfl, rfl, rfl, rfl, rfl, rfl, rfl, rfl, fun _ => rfl,
    rfl, rfl⟩

/-- Settles O8: the three words write what their effect says of the mode register (`extractLsb'_putSlice_same`), and a code
out of range is the check of the modes (`issue_illegalMode`). -/
theorem modeWords : Obligations.ModeWords := by
  unfold Obligations.ModeWords
  refine ⟨⟨fun s st r => ?nop, fun s st imm r => ?mode, fun s st imm r => ?memmode⟩,
    fun s st imm h hbad => ?badMode, fun s st imm h hbad => ?badMemmode⟩
  case nop => exact issue_ready_onUnfreedStrand r rfl
  case mode =>
    exact ⟨putSlice st.group.mode 0 16 imm.toNat, issue_ready_onWholeStrand r rfl rfl, extractLsb'_putSlice_same _ 0 16 imm (by decide),
      extractLsb'_putSlice_other _ _ (by decide) (by decide)⟩
  case memmode =>
    exact ⟨putSlice st.group.mode 16 16 imm.toNat, issue_ready_onWholeStrand r rfl rfl, extractLsb'_putSlice_same _ 16 16 imm (by decide),
      extractLsb'_putSlice_other _ _ (by decide) (by decide)⟩
  case badMode =>
    have htypes : decide (slice imm 6 3 ≤ 13) = false := by simpa using hbad
    change execMode imm s = _
    rw [execMode, htypes]
    exact issue_illegalMode h rfl rfl (by simp)
  case badMemmode =>
    have htypes : (decide (slice imm 15 13 ≤ 4) && decide (slice imm 12 10 ≤ 4)) = false := by
      simp only [Bool.and_eq_false_iff, decide_eq_false_iff_not]
      omega
    change execMemmode imm s = _
    rw [execMemmode, htypes]
    exact issue_illegalMode h rfl rfl (by simp)

end

end

section
/-! SUPPORT. Transfers of control at issue: branches, calls and returns, loops (R106-R111). -/

namespace Sys2Proof.Machine

/-! ### Checks of a word's own, one after another -/

theorem firstFault_cons_nil (rest : List (List LaneFault)) : firstFault ([] :: rest) = firstFault rest := rfl

theorem firstFault_cons_ne {fs : List LaneFault} (rest : List (List LaneFault)) (h : fs ≠ []) :
    firstFault (fs :: rest) = fs := by
  cases fs with
  | nil => exact absurd rfl h
  | cons x xs => rfl

/-! ### Transfers -/

section
variable {i : Instr} {u : Use} {f : Form} {ch : Strand → State → List (List LaneFault)} {eff : Effect} {idle : State → State}
  {s : State} {st : Strand}

/-- A ready word whose own checks pass and whose effect leaves the strand x, with a transfer. -/
theorem issue_ready_jumps {x : Strand} {t : DWord} (r : Ready i u f st s) (hf : firstFault (ch st s) = [])
    (heff : eff st (s.before u f st) = .ok ((s.before u f st).setHere x, .jump t)) (hl : f.late = false := by rfl) :
    issue i u f ch eff idle s = .next (s.jumpsTo u st x t) := by
  rw [issue_ready r hf, heff]
  simp [State.before, State.jumpsTo, Form.ended, hl]

/-- The same where the effect is the transfer alone. -/
theorem issue_ready_transfers {t : DWord} (r : Ready i u f st s) (hf : firstFault (ch st s) = [])
    (heff : eff st (s.before u f st) = .ok (s.before u f st, .jump t)) (hl : f.late = false := by rfl) :
    issue i u f ch eff idle s = .next (s.jumpsTo u st (st.ready u f) t) :=
  issue_ready_jumps r hf (by rw [heff, State.before, State.setHere_setHere]) hl

/-- A ready word whose own check finds a fault in the lanes of a mask. -/
theorem issue_traps_faultIn {m : LaneMask} {k : Cause} {detail : Nat} (r : Ready i u f st s) (hm : m ≠ 0#64)
    (hf : firstFault (ch st s) = faultIn m k detail) :
    issue i u f ch eff idle s = .next (s.trapWord st (faultIn m k detail)) := by
  rw [issue_trap r (by rw [hf]; exact faultIn_ne_nil hm k detail), hf]

end

/-- A transfer counts the word and moves the strand to a header, and changes nothing else. -/
theorem Strand.retire_jump (st : Strand) (t : DWord) : st.retire (.jump t) =
    { st with issued := st.issued + 1, stalled := 0, passed := 0, urgent := false, clause := none, pc := t, pcIdx := 0 } := by
  rfl

/-! ### Branches (R106) -/

/-- What executes as a branch with the target tgt does what R106 says of the condition under which tgt answers dest. -/
theorem branchRuns_of {i : Instr} {u : Use} {tgt : Strand → Option DWord} {cond : Strand → Prop} {dest : Strand → DWord}
    (hexec : ∀ s, exec i s = branchWord i u tgt s) (ha : u.aRegs = [])
    (hyes : ∀ st, cond st → tgt st = some (dest st)) (hno : ∀ st, ¬ cond st → tgt st = none) :
    BranchRuns i u cond dest := by
  intro s st r
  have hready : st.ready u { always := true } = st := Strand.ready_plain st u _ ha rfl
  rw [hexec, branchWord]
  refine ⟨fun hc => ?notTaken, fun hc hal => ?taken, fun hc hal hl => ?misaligned⟩
  case notTaken =>
    refine (issue_ready_transfers r ?_ ?_).trans (by rw [hready])
    · simp [hno st hc, firstFault_single]
    · simp only [hno st hc]
  case taken =>
    refine (issue_ready_transfers r ?_ ?_).trans (by rw [hready])
    · simp [hyes st hc, hal, firstFault_single]
    · simp only [hyes st hc]
  case misaligned => exact issue_traps_faultIn r hl (by simp [hyes st hc, hal, firstFault_single])

end Sys2Proof.Machine

section
open Sys2Proof Sys2Proof.Machine

/-- Settles O11: a transfer is read off `Strand.retire`, and each branch is a use of `branchRuns_of`. -/
theorem controlTransfer : Obligations.ControlTransfer := by
  unfold Obligations.ControlTransfer
  refine ⟨fun st t => ?transfer, ?bra, ?bkz, ?bknz, ?bqt, ?bqf, ?jmpg⟩
  case transfer => simp [Strand.retire_jump]
  case bra =>
    exact fun off => branchRuns_of (tgt := fun st => some (st.target off.toInt)) (fun _ => rfl) rfl (fun _ _ => rfl)
      (fun _ h => absurd trivial h)
  case jmpg =>
    exact fun a => branchRuns_of (tgt := fun st => some (st.gr a.toNat)) (fun _ => rfl) rfl (fun _ _ => rfl)
      (fun _ h => absurd trivial h)
  case bkz =>
    exact fun d off => branchRuns_of (tgt := fun st => if st.kZero d.toNat then some (st.target off.toInt) else none)
      (fun _ => rfl) rfl (fun st h => by simp [Strand.kZero, h, Strand.target]) (fun st h => by simp [Strand.kZero, h])
  case bknz =>
    exact fun d off => branchRuns_of (tgt := fun st => if st.kZero d.toNat then none else some (st.target off.toInt))
      (fun _ => rfl) rfl (fun st h => by simp [Strand.kZero, h, Strand.target]) (fun st h => by simp_all [Strand.kZero])
  case bqt =>
    exact fun d off => branchRuns_of (tgt := fun st => if st.group.qr d.toNat then some (st.target off.toInt) else none)
      (fun _ => rfl) rfl (fun st h => by simp [h, Strand.target]) (fun st h => by simp [h])
  case bqf =>
    exact fun d off => branchRuns_of (tgt := fun st => if st.group.qr d.toNat then none else some (st.target off.toInt))
      (fun _ => rfl) rfl (fun st h => by simp [h, Strand.target]) (fun st h => by simp_all)

end

end

section
/-! SUPPORT. Calls and returns at issue (R107). -/

namespace Sys2Proof.Machine

/-! ### Lists of active lanes -/

theorem lanesOf_ne_nil {m : LaneMask} (h : m ≠ 0#64) : lanesOf m ≠ [] := by
  intro hnil
  refine h (BitVec.eq_of_getLsbD_eq fun l hl => ?_)
  have hl : m.getLsbD l ≠ true := fun hbit => by simpa [hnil] using mem_lanesOf.mpr hbit
  simpa using hl

/-- The lowest lane of a mask is one of its lanes. -/
theorem headD_lanesOf_mem {m : LaneMask} (h : m ≠ 0#64) : (lanesOf m).headD 0 ∈ lanesOf m := by
  cases hls : lanesOf m with
  | nil => exact absurd hls (lanesOf_ne_nil h)
  | cons l ls => simp

theorem lanesOf_zero : lanesOf 0#64 = [] := by decide

theorem Strand.trapLanes_active {st : Strand} (h : st.active ≠ 0#64) : st.trapLanes = st.active := by
  simp [Strand.trapLanes, h]

theorem Strand.trapLanes_idle {st : Strand} (h : st.active = 0#64) : st.trapLanes = st.live := by
  simp [Strand.trapLanes, h]

/-! ### CALL and CALLG -/

section
variable {i : Instr} {u : Use} {tgt : Strand → DWord} {s : State} {st : Strand}

theorem callWord_pushes (r : Ready i u { always := true } st s) (ha : u.aRegs = []) (hal : (tgt st).toNat % 4 = 0)
    (hroom : st.group.rstack.length ≠ 32) :
    callWord i u tgt s = .next (s.jumpsTo u st (pushReturn st st.after) (tgt st)) := by
  have hready : st.ready u { always := true } = st := Strand.ready_plain st u _ ha rfl
  refine issue_ready_jumps r ?_ ?_
  · simp [hal, hroom, firstFault]
  · simp [State.before, hready, pushReturn]

theorem callWord_overflows (r : Ready i u { always := true } st s) (hal : (tgt st).toNat % 4 = 0)
    (hfull : st.group.rstack.length = 32) (hl : st.trapLanes ≠ 0#64) :
    callWord i u tgt s = .next (s.trapWord st (faultIn st.trapLanes .returnOverflow)) :=
  issue_traps_faultIn r hl (by simp [hal, hfull, firstFault_cons_nil, firstFault_single])

theorem callWord_misaligned (r : Ready i u { always := true } st s) (hal : (tgt st).toNat % 4 ≠ 0)
    (hl : st.trapLanes ≠ 0#64) :
    callWord i u tgt s = .next (s.trapWord st (faultIn st.trapLanes .misaligned)) :=
  issue_traps_faultIn r hl (by simp [hal, firstFault_cons_ne _ (faultIn_ne_nil hl .misaligned 0)])

/-- Whatever executes as a call does what R107 says. -/
theorem callWord_runs (hexec : exec i s = callWord i u tgt s) (ha : u.aRegs = [])
    (r : Ready i u { always := true } st s) :
    ((tgt st).toNat % 4 = 0 →
      (st.group.rstack.length ≠ 32 → exec i s = .next (s.jumpsTo u st (pushReturn st st.after) (tgt st))) ∧
      (st.group.rstack.length = 32 → st.trapLanes ≠ 0#64 →
        exec i s = .next (s.trapWord st (faultIn st.trapLanes .returnOverflow)))) ∧
    ((tgt st).toNat % 4 ≠ 0 → st.trapLanes ≠ 0#64 →
      exec i s = .next (s.trapWord st (faultIn st.trapLanes .misaligned))) := by
  rw [hexec]
  exact ⟨fun hal => ⟨callWord_pushes r ha hal, callWord_overflows r hal⟩, callWord_misaligned r⟩

/-! ### RET -/

theorem execRet_pops {older : List DWord} {x : DWord} (r : Ready .ret {} { always := true } st s)
    (hstack : st.group.rstack = older ++ [x]) :
    execRet s = .next (s.jumpsTo {} st { st with group := { st.group with rstack := older } } x) := by
  have hready : st.ready {} { always := true } = st := Strand.ready_plain st {} _ rfl rfl
  refine issue_ready_jumps r ?_ ?_
  · simp [hstack, firstFault]
  · simp [State.before, hready, hstack]

theorem execRet_empty (r : Ready .ret {} { always := true } st s) (hstack : st.group.rstack = [])
    (hl : st.trapLanes ≠ 0#64) : execRet s = .next (s.trapWord st (faultIn st.trapLanes .returnEmpty)) :=
  issue_traps_faultIn r hl (by simp [hstack, firstFault_single])

/-! ### RETV -/

variable {a : BitVec 8}

/-- The active lanes whose target is no multiple of 4. -/
abbrev retvBad (st : Strand) (a : Nat) : List Nat :=
  (lanesOf st.active).filter fun l => (st.codeBase + (st.vlane a l).setWidth 64).toNat % 4 != 0

/-- Whether RETV has no lane, or lanes with different values. -/
def retvDiverges (st : Strand) (a : Nat) : Bool :=
  (lanesOf st.active).isEmpty || (lanesOf st.active).any fun l => st.vlane a l != st.vlane a ((lanesOf st.active).headD 0)

/-- The checks of RETV on its operand. -/
def retvChecks (st : Strand) (a : Nat) : List (List LaneFault) :=
  [(retvBad st a).map fun l => ⟨l, .misaligned, 0⟩,
   if retvDiverges st a then faultIn st.trapLanes .divergentReturn else []]

/-- RETV reads its register with an active lane, and without one only names it. -/
theorem execRetv_eq_issue (a : BitVec 8) {s : State} {st : Strand} (h : s.here? = some st) :
    execRetv a s = issue (.retv a) (if st.active == 0#64 then { named := [a.toNat] } else { aRegs := [a.toNat] })
      { always := true } (fun st _ => retvChecks st a.toNat)
      (fun st s => .ok (s, .jump (st.retvTarget a.toNat ((lanesOf st.active).headD 0)))) id s := by
  have hfilter (st : Strand) : ((lanesOf st.active).filter fun l => (st.retvTarget a.toNat l).toNat % 4 ≠ 0) =
      retvBad st a.toNat := List.filter_congr fun l _ => by simp [Strand.retvTarget, bne, beq_eq_decide]
  simp only [execRetv, h, hfilter]
  rfl

variable {a : BitVec 8}

theorem retvDiverges_eq_false {x : Word} (hact : st.active ≠ 0#64) (hx : ∀ l ∈ lanesOf st.active, st.vlane a.toNat l = x) :
    retvDiverges st a.toNat = false := by
  have hhead := hx _ (headD_lanesOf_mem hact)
  have hne : (lanesOf st.active).isEmpty = false := by simpa using lanesOf_ne_nil hact
  rw [retvDiverges, hne, Bool.false_or, List.any_eq_false]
  intro l hl
  rw [hx l hl, hhead]
  simp

theorem retvDiverges_eq_true {l k : Nat} (hl : l ∈ lanesOf st.active) (hk : k ∈ lanesOf st.active)
    (hne : st.vlane a.toNat l ≠ st.vlane a.toNat k) : retvDiverges st a.toNat = true := by
  by_contra hsame
  simp only [retvDiverges, Bool.or_eq_true, List.any_eq_true, bne_iff_ne, not_or, not_exists, not_and, not_not] at hsame
  exact hne ((hsame.2 l hl).trans (hsame.2 k hk).symm)

section
variable (r : Ready (.retv a) { aRegs := [a.toNat] } { always := true } st s) (hact : st.active ≠ 0#64)
include r hact

theorem execRetv_active : execRetv a s = issue (.retv a) { aRegs := [a.toNat] } { always := true }
    (fun st _ => retvChecks st a.toNat)
    (fun st s => .ok (s, .jump (st.retvTarget a.toNat ((lanesOf st.active).headD 0)))) id s := by
  simp [execRetv_eq_issue a r.here, hact]

theorem execRetv_misaligned (hbad : retvBad st a.toNat ≠ []) :
    execRetv a s = .next (s.trapWord st ((retvBad st a.toNat).map fun l => ⟨l, .misaligned, 0⟩)) := by
  have hne : ((retvBad st a.toNat).map fun l => (⟨l, .misaligned, 0⟩ : LaneFault)) ≠ [] := by
    rwa [ne_eq, List.map_eq_nil_iff]
  have hfault : firstFault (retvChecks st a.toNat) = (retvBad st a.toNat).map fun l => ⟨l, .misaligned, 0⟩ :=
    firstFault_cons_ne _ hne
  rw [execRetv_active r hact, issue_trap r (by rw [hfault]; exact hne), hfault]

theorem execRetv_returns {x : Word} (hbad : retvBad st a.toNat = []) (hx : ∀ l ∈ lanesOf st.active, st.vlane a.toNat l = x) :
    execRetv a s = .next (s.jumpsTo { aRegs := [a.toNat] } st (st.freeMarked { aRegs := [a.toNat] })
      (st.codeBase + x.setWidth 64)) := by
  rw [execRetv_active r hact]
  refine (issue_ready_transfers r ?_ rfl).trans ?_
  · simp [retvChecks, hbad, retvDiverges_eq_false hact hx, firstFault]
  · rw [Strand.retvTarget, hx _ (headD_lanesOf_mem hact)]
    rfl

theorem execRetv_divergent {l k : Nat} (hbad : retvBad st a.toNat = []) (hl : l ∈ lanesOf st.active)
    (hk : k ∈ lanesOf st.active) (hne : st.vlane a.toNat l ≠ st.vlane a.toNat k) :
    execRetv a s = .next (s.trapWord st (faultIn st.active .divergentReturn)) := by
  rw [execRetv_active r hact, ← Strand.trapLanes_active hact]
  refine issue_traps_faultIn r (by rwa [Strand.trapLanes_active hact]) ?_
  simp [retvChecks, hbad, retvDiverges_eq_true hl hk hne, firstFault_cons_nil, firstFault_single]

end

theorem execRetv_idle (r : Ready (.retv a) { named := [a.toNat] } { always := true } st s) (hact : st.active = 0#64)
    (hlive : st.live ≠ 0#64) : execRetv a s = .next (s.trapWord st (faultIn st.live .divergentReturn)) := by
  have hbad : retvBad st a.toNat = [] := by rw [retvBad, hact, lanesOf_zero]; rfl
  have hdiv : retvDiverges st a.toNat = true := by rw [retvDiverges, hact, lanesOf_zero]; rfl
  rw [execRetv_eq_issue a r.here, hact, ← Strand.trapLanes_idle hact]
  refine issue_traps_faultIn r (by rwa [Strand.trapLanes_idle hact]) ?_
  simp [retvChecks, hbad, hdiv, firstFault_cons_nil, firstFault_single]

end

end Sys2Proof.Machine

section
open Sys2Proof Sys2Proof.Machine

/-- Settles O12: CALL and CALLG are uses of `callWord_runs`, RET of `execRet_pops` and `execRet_empty`, RETV of its four
lemmas, one for each outcome of its checks. -/
theorem callsAndReturns : Obligations.CallsAndReturns := by
  unfold Obligations.CallsAndReturns
  refine ⟨fun s st => ⟨fun i u t hi r => ?call, fun older x r => execRet_pops r, fun r => execRet_empty r⟩,
    fun s st a => ⟨fun hact r => ?retv, fun hact hlive r => execRetv_idle r hact hlive⟩⟩
  case call =>
    obtain ⟨off, rfl, rfl, rfl⟩ | ⟨a, rfl, rfl, rfl⟩ := hi
    · exact callWord_runs (tgt := fun st => st.target off.toInt) rfl rfl r
    · exact callWord_runs (tgt := fun st => st.gr a.toNat) rfl rfl r
  case retv =>
    exact ⟨execRetv_misaligned r hact, fun hbad x hx => execRetv_returns r hact hbad hx,
      fun hbad l hl k hk hne => execRetv_divergent r hact hbad hl hk hne⟩

end

end

section
/-! SUPPORT. Hardware loops and selectors at issue (R109-R113). -/

namespace Sys2Proof.Machine

/-! ### LOOP (R109) -/

section
variable {s : State} {st : Strand} {d : BitVec 6} {off : BitVec 16}

/-- The checks of LOOP: its offset, the fetch of its end clause, the words of that clause and the room on the stack. -/
def loopChecks (d : BitVec 6) (off : BitVec 16) (st : Strand) (s : State) : List (List LaneFault) :=
  if off.toInt ≤ 0 then [faultIn st.trapLanes .illegalLoop]
  else match (endClause (st.who s.cur.1) (st.target off.toInt) s).2 with
    | .error f => [faultIn st.trapLanes f.1 f.2]
    | .ok (_, ws) =>
      [if ws.any (fun w => lastOps.contains (opOf w)) then faultIn st.trapLanes .illegalLoop else [],
       if st.gr d.toNat != 0#64 && st.group.lstack.length == 4 then faultIn st.trapLanes .loopOverflow else []]

/-- The effect of LOOP: the body is skipped, or an entry is pushed. -/
def loopEffect (d : BitVec 6) (off : BitVec 16) : Effect := fun st s =>
  match endClause (st.who s.cur.1) (st.target off.toInt) s with
  | (s, .error _) => .ok (s, .jump st.after)
  | (s, .ok (follow, _)) =>
    if st.gr d.toNat = 0#64 then .ok (s, .jump follow)
    else .ok (s.modHere fun x => { x with group := { x.group with
      lstack := x.group.lstack ++ [⟨st.target off.toInt, st.after, st.gr d.toNat⟩] } }, .jump st.after)

theorem execLoop_eq_issue (d : BitVec 6) (off : BitVec 16) (s : State) : execLoop d off s =
    issue (.loop d off) { gRead := [d.toNat] } { always := true } (loopChecks d off) (loopEffect d off) id s := rfl

section
variable (r : Ready (.loop d off) { gRead := [d.toNat] } { always := true } st s)
include r

/-- LOOP whose end clause may stand: the body is skipped with a zero count, and else entered. -/
theorem execLoop_runs {s2 : State} {follow : DWord} {ws : List Word} (hoff : 0 < off.toInt)
    (hbefore : endClause (st.who s.cur.1) (st.target off.toInt) (s.before { gRead := [d.toNat] } { always := true } st) =
      (s2, .ok (follow, ws)))
    (hfetch : endClause (st.who s.cur.1) (st.target off.toInt) s = (s2, .ok (follow, ws)))
    (hws : (ws.all fun w => !lastOps.contains (opOf w)) = true) :
    (st.gr d.toNat = 0#64 → execLoop d off s = .next (s2.retireWord (.jump follow))) ∧
    (st.gr d.toNat ≠ 0#64 → st.group.lstack.length ≠ 4 →
      execLoop d off s = .next ((s2.modHere fun x => { x with group := { x.group with
        lstack := x.group.lstack ++ [⟨st.target off.toInt, st.after, st.gr d.toNat⟩] } }).retireWord (.jump st.after))) := by
  have hany : (ws.any fun w => lastOps.contains (opOf w)) = false := by
    rw [List.any_eq_not_all_not, hws, Bool.not_true]
  have hchecks (hroom : st.gr d.toNat = 0#64 ∨ st.group.lstack.length ≠ 4) : firstFault (loopChecks d off st s) = [] := by
    have hfull : (st.gr d.toNat != 0#64 && st.group.lstack.length == 4) = false := by
      obtain h | h := hroom <;> simp [h]
    simp only [loopChecks, hoff.not_ge, if_false, hfetch, hany, hfull]
    rfl
  rw [execLoop_eq_issue]
  constructor
  · intro hzero
    rw [issue_ready r (hchecks (.inl hzero)), loopEffect, State.before_cur, hbefore]
    simp only [hzero, if_true]
  · intro hcount hroom
    rw [issue_ready r (hchecks (.inr hroom)), loopEffect, State.before_cur, hbefore]
    simp only [hcount, if_false]

variable (hl : st.trapLanes ≠ 0#64)
include hl

theorem execLoop_badOffset (hoff : off.toInt ≤ 0) :
    execLoop d off s = .next (s.trapWord st (faultIn st.trapLanes .illegalLoop)) := by
  rw [execLoop_eq_issue]
  exact issue_traps_faultIn r hl (by rw [loopChecks, if_pos hoff, firstFault_single])

theorem execLoop_fetchFault {f : Fail} (hoff : 0 < off.toInt)
    (hfetch : (endClause (st.who s.cur.1) (st.target off.toInt) s).2 = .error f) :
    execLoop d off s = .next (s.trapWord st (faultIn st.trapLanes f.1 f.2)) := by
  rw [execLoop_eq_issue]
  exact issue_traps_faultIn r hl (by rw [loopChecks, if_neg hoff.not_ge, hfetch, firstFault_single])

theorem execLoop_badWord {follow : DWord} {ws : List Word} (hoff : 0 < off.toInt)
    (hfetch : (endClause (st.who s.cur.1) (st.target off.toInt) s).2 = .ok (follow, ws)) (hws : ∃ w ∈ ws, opOf w ∈ lastOps) :
    execLoop d off s = .next (s.trapWord st (faultIn st.trapLanes .illegalLoop)) := by
  have hany : (ws.any fun w => lastOps.contains (opOf w)) = true := by simpa using hws
  rw [execLoop_eq_issue]
  refine issue_traps_faultIn r hl ?_
  simp only [loopChecks, hoff.not_ge, if_false, hfetch, hany, if_true]
  exact firstFault_cons_ne _ (faultIn_ne_nil hl _ _)

theorem execLoop_overflows {follow : DWord} {ws : List Word} (hoff : 0 < off.toInt)
    (hfetch : (endClause (st.who s.cur.1) (st.target off.toInt) s).2 = .ok (follow, ws)) (hws : ∀ w ∈ ws, opOf w ∉ lastOps)
    (hcount : st.gr d.toNat ≠ 0#64) (hfull : st.group.lstack.length = 4) :
    execLoop d off s = .next (s.trapWord st (faultIn st.trapLanes .loopOverflow)) := by
  have hany : (ws.any fun w => lastOps.contains (opOf w)) = false := by simpa using hws
  have hover : (st.gr d.toNat != 0#64 && st.group.lstack.length == 4) = true := by simp [hcount, hfull]
  rw [execLoop_eq_issue]
  refine issue_traps_faultIn r hl ?_
  simp only [loopChecks, hoff.not_ge, if_false, hfetch, hany, hover, if_true]
  exact firstFault_single _

end

/-! ### LEXIT (R111) -/

/-- The check of LEXIT: an entry, and the fetch of the header of its end clause. -/
def lexitChecks (st : Strand) (s : State) : List (List LaneFault) :=
  [match st.group.lstack.getLast? with
    | none => faultIn st.trapLanes .illegalLoop
    | some e => match (fetchWords (st.who s.cur.1) 1 e.endAt s).2 with
      | .error f => faultIn st.trapLanes f.1 f.2
      | .ok _ => []]

/-- The header that LEXIT reads, 0 where it cannot. -/
def lexitHeader (r : Except Fail (List Word)) : Word :=
  match r with
  | .ok hs => hs.headD 0#32
  | .error _ => 0#32

/-- The effect of LEXIT: the innermost entry is popped, and the strand goes on after its end clause. -/
def lexitEffect : Effect := fun st s =>
  match st.group.lstack.getLast? with
  | none => .ok (s, .jump st.after)
  | some e =>
    let r := fetchWords (st.who s.cur.1) 1 e.endAt s
    .ok (r.1.modHere fun x => { x with group := { x.group with lstack := x.group.lstack.dropLast } },
      .jump (e.endAt + BitVec.ofNat 64 (4 * (slice (lexitHeader r.2) 3 1 + 2))))

theorem execLexit_eq_issue (s : State) :
    execLexit s = issue .lexit {} { always := true } lexitChecks lexitEffect id s := rfl

theorem execLexit_pops {s2 : State} {older : List LoopEntry} {e : LoopEntry} {h : Word}
    (r : Ready .lexit {} { always := true } st s) (hstack : st.group.lstack = older ++ [e])
    (hfetch : fetchWords (st.who s.cur.1) 1 e.endAt s = (s2, .ok [h]))
    (hbefore : fetchWords (st.who s.cur.1) 1 e.endAt (s.before {} { always := true } st) = (s2, .ok [h])) :
    execLexit s = .next ((s2.modHere fun x => { x with group := { x.group with lstack := x.group.lstack.dropLast } })
      |>.retireWord (.jump (e.endAt + BitVec.ofNat 64 (4 * (slice h 3 1 + 2))))) := by
  have htop : st.group.lstack.getLast? = some e := by simp [hstack]
  have hchecks : firstFault (lexitChecks st s) = [] := by simp only [lexitChecks, htop, hfetch, firstFault_single]
  rw [execLexit_eq_issue, issue_ready r hchecks]
  simp only [lexitEffect, htop, State.before_cur, hbefore, lexitHeader, List.headD_cons]

theorem execLexit_empty (r : Ready .lexit {} { always := true } st s) (hstack : st.group.lstack = [])
    (hl : st.trapLanes ≠ 0#64) : execLexit s = .next (s.trapWord st (faultIn st.trapLanes .illegalLoop)) := by
  rw [execLexit_eq_issue]
  exact issue_traps_faultIn r hl (by simp [lexitChecks, hstack, firstFault_single])

end

/-! ### The end of a loop body (R110) -/

theorem loopCheck_other {a : DWord} (f : DWord) {e : LoopEntry} (es : List LoopEntry) (h : e.endAt ≠ a) :
    loopCheck a f (e :: es) = (f, e :: es) := by
  simp [loopCheck, h]

theorem loopCheck_again {a : DWord} (f : DWord) {e : LoopEntry} (es : List LoopEntry) (h : e.endAt = a)
    (hr : e.remaining ≠ 1#64) :
    loopCheck a f (e :: es) = (e.body, { e with remaining := e.remaining - 1#64 } :: es) := by
  have hne : e.remaining - 1#64 ≠ 0#64 := fun h0 => hr (sub_eq_zero.mp h0)
  simp [loopCheck, h, hne]

theorem loopCheck_last {a : DWord} (f : DWord) {e : LoopEntry} (es : List LoopEntry) (h : e.endAt = a)
    (hr : e.remaining = 1#64) : loopCheck a f (e :: es) = loopCheck a f es := by
  simp [loopCheck, h, hr]

end Sys2Proof.Machine

section
open Sys2Proof Sys2Proof.Machine

/-- Settles O13: LOOP is `execLoop_runs` and a lemma for each of its faults, LEXIT two lemmas, and the end of a body
`loopCheck_other`, `loopCheck_again` and `loopCheck_last`. -/
theorem loops : Obligations.Loops := by
  unfold Obligations.Loops
  refine ⟨fun s s2 st d off follow ws r hoff hbefore hfetch hws => execLoop_runs r hoff hbefore hfetch hws,
    fun s st d off r hl => ⟨execLoop_badOffset r hl, fun f hoff hfetch => execLoop_fetchFault r hl hoff hfetch,
      fun follow ws hoff hfetch => ⟨execLoop_badWord r hl hoff hfetch, execLoop_overflows r hl hoff hfetch⟩⟩,
    fun s st r => ⟨fun s2 older e h hstack hfetch hbefore => execLexit_pops r hstack hfetch hbefore, execLexit_empty r⟩,
    fun a f e es => ⟨rfl, loopCheck_other f es, loopCheck_again f es, loopCheck_last f es⟩⟩

end

end

section
/-! SUPPORT. Selectors at issue (R113, Tables 5-5 and 5-6). -/

namespace Sys2Proof.Machine

/-! ### A core's place on the grid (R11) -/

/-- The row and column of a core name it. -/
theorem coreAt_row_col {c : Nat} (h : c < 320) : coreRow c < 16 ∧ coreCol c < 20 ∧
    c = 8 * (10 * (coreRow c / 4) + coreCol c / 2) + (coreRow c % 4) * 2 + coreCol c % 2 := by
  unfold coreRow coreCol
  omega

/-! ### What is done to the state before a word's effect -/

theorem State.before_keep {β : Type} (p : State → β) (h : ∀ (s : State) c f, p (s.modCore c f) = p s) (s : State) (u : Use)
    (f : Form) (st : Strand) : p (s.before u f st) = p s := by
  unfold State.before State.setHere State.setStrand
  exact (h _ _ _).trans (State.unbindDests_keep p h s st.lineage (f.ended u))

@[simp] theorem State.before_cycles (s : State) (u : Use) (f : Form) (st : Strand) : (s.before u f st).cycles = s.cycles :=
  State.before_keep State.cycles (fun _ _ _ => rfl) s u f st

@[simp] theorem State.before_gen (s : State) (u : Use) (f : Form) (st : Strand) (sl : Nat) :
    ((s.before u f st).core s.cur.1).gen sl = (s.core s.cur.1).gen sl :=
  State.before_core (fun k => k.gen sl) (fun _ _ => rfl) (fun _ _ => rfl) s u f st

/-- A ready word whose effect is to leave the strand x, at the next word. -/
theorem issue_ready_goesOn {i : Instr} {u : Use} {f : Form} {ch : Strand → State → List (List LaneFault)} {eff : Effect}
    {idle : State → State} {s : State} {st x : Strand} (r : Ready i u f st s) (hf : firstFault (ch st s) = [])
    (heff : eff st (s.before u f st) = .ok ((s.before u f st).setHere x, .seq)) (hl : f.late = false := by rfl) :
    issue i u f ch eff idle s = .next (s.goesOn u st x) := by
  rw [issue_ready r hf, heff]
  simp [State.before, State.goesOn, Form.ended, hl]

/-- A word that passes its checks is well-formed (R67). -/
theorem wf_of_checkWord {st : Strand} {i : Instr} {u : Use} {t : Bool} (h : checkWord st i u t = none) : i.wf = true := by
  by_contra hw
  simp only [Bool.not_eq_true] at hw
  simp only [checkWord, hw, Bool.not_false, Bool.true_or, if_true] at h
  revert h
  split
  · simp
  · split <;> split <;> simp

/-! ### SREG and GSREG -/

/-- The tag that SREG writes with: the lane index is affine, what no lane decides uniform (Table 5-5). -/
def sregTag (c : Nat) (st : Strand) (sel : Nat) : Option VReg :=
  match sel with
  | 0 => some (.affine 0#32 1#32)
  | 1 | 7 => none
  | _ => some (.uniform (sregValue c st sel 0))

theorem execSreg_eq_issue (d : BitVec 8) (imm : BitVec 16) (s : State) :
    execSreg d imm s = issue (.sreg d imm) { dests := [d.toNat] } {} noChecks
      (fun st s => .ok (s.modHere fun x => x.writeV d.toNat st.active (sregTag s.cur.1 st imm.toNat)
        (sregValue s.cur.1 st imm.toNat), .seq)) id s := rfl

theorem execSreg_ready {d : BitVec 8} {imm : BitVec 16} {s : State} {st : Strand}
    (r : Ready (.sreg d imm) { dests := [d.toNat] } {} st s) :
    execSreg d imm s = .next (s.goesOn { dests := [d.toNat] } st
      (st.writeV d.toNat st.active (sregTag s.cur.1 st imm.toNat) (sregValue s.cur.1 st imm.toNat))) := by
  have hready : st.ready { dests := [d.toNat] } {} = st := Strand.ready_plain st _ _ rfl rfl
  rw [execSreg_eq_issue]
  refine issue_ready_goesOn (ch := noChecks) r rfl ?_
  rw [State.before_cur]
  simp only [State.before, hready, State.modHere_setHere, State.setHere_setHere]

theorem execGsreg_ready {d : BitVec 6} {imm : BitVec 16} {s : State} {st : Strand}
    (r : Ready (.gsreg d imm) { gDest := [d.toNat] } { always := true } st s) :
    execGsreg d imm s = .next (s.goesOn { gDest := [d.toNat] } st (st.setG d.toNat (gsregValue s st imm.toNat))) := by
  have hready : st.ready { gDest := [d.toNat] } { always := true } = st := Strand.ready_plain st _ _ rfl rfl
  have hvalue : gsregValue (s.before { gDest := [d.toNat] } { always := true } st) st imm.toNat =
      gsregValue s st imm.toNat := by simp [gsregValue]
  refine issue_ready_goesOn (ch := noChecks) r rfl ?_
  rw [hvalue]
  simp [State.before, hready]

end Sys2Proof.Machine

section
open Sys2Proof Sys2Proof.Machine

/-- Settles O15: SREG is `execSreg_ready`, the place of a core `coreAt_row_col`; GSREG is `execGsreg_ready`, and its check of
R67 bounds the selector. -/
theorem selectors : Obligations.Selectors := by
  unfold Obligations.Selectors
  refine fun s st => ⟨fun d imm r _ => ?sreg, fun d imm r => ?gsreg⟩
  case sreg =>
    refine ⟨_, _, execSreg_ready r, ?_, ?_, ?_, ?_, ?place, ?_, ?_⟩
    case place =>
      rintro (rfl | rfl)
      all_goals
        refine ⟨rfl, fun hc => ⟨coreRow s.cur.1, coreCol s.cur.1, ?_⟩⟩
        obtain ⟨hrow, hcol, hcore⟩ := coreAt_row_col hc
        exact ⟨hrow, hcol, hcore, fun l => rfl⟩
    all_goals
      rintro rfl
      exact ⟨rfl, fun l => rfl⟩
  case gsreg =>
    have hsel : imm.toNat ≤ 12 := by simpa [Instr.wf, gsregOk] using wf_of_checkWord r.check
    refine ⟨_, execGsreg_ready r, ?_, ?_, ?_, ?cluster, ?slot, ?_, ?_, ?_, ?_, ?_, ?_, ?_, ?_, hsel⟩
    case cluster =>
      rintro rfl
      refine or_iff_not_imp_right.mpr fun hc => ?_
      change (BitVec.ofNat 64 (s.cur.1 % 8 * 2 ^ 12 + s.cur.1 / 8 * 2 ^ 6)).toNat = _
      rw [BitVec.toNat_ofNat, Nat.mod_eq_of_lt (by omega)]
    case slot =>
      rintro rfl
      refine or_iff_not_imp_right.mpr fun hsl => ?_
      have hgen := ((s.core s.cur.1).gen s.cur.2).isLt
      change (BitVec.ofNat 64 (s.cur.2 * 2 ^ 8 + ((s.core s.cur.1).gen s.cur.2).toNat)).toNat = _
      rw [BitVec.toNat_ofNat, Nat.mod_eq_of_lt (by omega)]
    all_goals
      rintro rfl
      rfl

end

end

section
/-! SUPPORT. Vector registers written: one register, the registers of a word, and what a vector computation leaves behind
(R120, R121, R123, R129, R131). -/

namespace Sys2Proof.Machine

/-! ### One register -/

/-- Whether every live lane is among the lanes of a mask. -/
def Strand.covers (st : Strand) (act : LaneMask) : Bool := st.live &&& ~~~ act == 0#64

theorem Strand.covers_iff {st : Strand} {act : LaneMask} :
    st.covers act = true ↔ ∀ l, st.live.getLsbD l = true → act.getLsbD l = true := by
  simp only [Strand.covers, beq_iff_eq]
  constructor
  · intro h l hl
    have hbit : (st.live &&& ~~~ act).getLsbD l = false := by rw [h]; simp
    have hlt := BitVec.lt_of_getLsbD hl
    simpa [hl, hlt, -BitVec.getLsbD_eq_getElem] using hbit
  · intro h
    refine BitVec.eq_of_getLsbD_eq fun l hlt => ?_
    by_cases hl : st.live.getLsbD l = true
    · simp [hl, h l hl, -BitVec.getLsbD_eq_getElem]
    · simp [hl, -BitVec.getLsbD_eq_getElem]

/-- An active lane is live and below W (R90). -/
theorem Strand.live_of_active {st : Strand} {l : Nat} (h : st.active.getLsbD l = true) : st.live.getLsbD l = true := by
  simp only [Strand.active, Strand.unguarded, BitVec.getLsbD_and, Bool.and_eq_true] at h
  exact h.1.2

theorem Strand.lt_width_of_live {st : Strand} {l : Nat} (h : st.live.getLsbD l = true) : l < st.width := by
  have hlt := BitVec.lt_of_getLsbD h
  simp only [Strand.live, BitVec.getLsbD_and, Bool.and_eq_true, getLsbD_maskBelow _ hlt, decide_eq_true_eq] at h
  exact h.1.1

/-- The word of a lane of register r after the lanes in act were given those of f (R120, R121, R144). -/
def Strand.laneAfter (st : Strand) (r : Nat) (act : LaneMask) (f : Nat → Word) (l : Nat) : Word :=
  if act.getLsbD l then f l else if st.live.getLsbD l then st.vlane r l else st.keptWord r l

/-- A register wholly written takes the tag given. -/
theorem Strand.vreg?_writeV_tagged (st : Strand) (r : Nat) {act : LaneMask} (t : VReg) (f : Nat → Word)
    (h : st.covers act = true) : (st.writeV r act (some t) f).vreg? r = some t := by
  have hset : (st.writeV r act (some t) f).vreg? r = some _ := Assoc.find_set_same _ _ _
  rw [Strand.covers] at h
  simp [hset, h]

/-- Else it is general, with the word of each lane. -/
theorem Strand.vreg?_writeV_general (st : Strand) (r : Nat) {act : LaneMask} {tag : Option VReg} (f : Nat → Word)
    (h : tag = none ∨ st.covers act = false) :
    (st.writeV r act tag f).vreg? r = some (.general ((List.range st.width).map (st.laneAfter r act f))) := by
  have hset : (st.writeV r act tag f).vreg? r = some _ := Assoc.find_set_same _ _ _
  rw [hset]
  obtain rfl | h := h
  · cases st.live &&& ~~~ act == 0#64 <;> rfl
  · rw [Strand.covers] at h
    rw [h]
    rfl

theorem Strand.vreg?_writeV_other (st : Strand) {r n : Nat} (act : LaneMask) (tag : Option VReg) (f : Nat → Word)
    (h : n ≠ r) : (st.writeV r act tag f).vreg? n = st.vreg? n := Assoc.find_set_other _ _ (Ne.symm h)

theorem Strand.vlane_of_vreg? {st x : Strand} {r : Nat} (h : x.vreg? r = st.vreg? r) (l : Nat) : x.vlane r l = st.vlane r l := by
  simp only [Strand.vlane, h]

theorem Strand.vlane_writeV_other (st : Strand) {r n : Nat} (act : LaneMask) (tag : Option VReg) (f : Nat → Word)
    (h : n ≠ r) (l : Nat) : (st.writeV r act tag f).vlane n l = st.vlane n l :=
  Strand.vlane_of_vreg? (Strand.vreg?_writeV_other st act tag f h) l

/-- The register as it reads after a write: the word of each lane below W, whatever the tag, where a tag that is taken gives
that lane its word. -/
theorem Strand.vlane_writeV_same (st : Strand) (r : Nat) (act : LaneMask) (tag : Option VReg) (f : Nat → Word) {l : Nat}
    (hl : l < st.width) (htag : ∀ t, tag = some t → st.covers act = true → t.lane l = st.laneAfter r act f l) :
    (st.writeV r act tag f).vlane r l = st.laneAfter r act f l := by
  by_cases hgen : tag = none ∨ st.covers act = false
  · simp [Strand.vlane, Strand.vreg?_writeV_general st r f hgen, VReg.lane, List.getD_eq_getElem?_getD, hl]
  · obtain ⟨hsome, hcov⟩ := not_or.mp hgen
    obtain ⟨t, rfl⟩ := Option.ne_none_iff_exists'.mp hsome
    rw [Bool.not_eq_false] at hcov
    rw [Strand.vlane, Strand.vreg?_writeV_tagged st r t f hcov]
    exact htag t rfl hcov

/-- A lane that is written reads its word. -/
theorem Strand.vlane_writeV_written (st : Strand) (r : Nat) {act : LaneMask} (tag : Option VReg) (f : Nat → Word) {l : Nat}
    (hl : l < st.width) (hact : act.getLsbD l = true) (htag : ∀ t, tag = some t → t.lane l = f l) :
    (st.writeV r act tag f).vlane r l = f l := by
  have hafter : st.laneAfter r act f l = f l := if_pos hact
  rw [Strand.vlane_writeV_same st r act tag f hl (fun t ht _ => (htag t ht).trans hafter.symm), hafter]

/-- A live lane that is not written keeps its word: the register is not wholly written, so no tag stands in. -/
theorem Strand.vlane_writeV_kept (st : Strand) (r : Nat) {act : LaneMask} (tag : Option VReg) (f : Nat → Word) {l : Nat}
    (hlive : st.live.getLsbD l = true) (hact : act.getLsbD l = false) :
    (st.writeV r act tag f).vlane r l = st.vlane r l := by
  have hcov : st.covers act ≠ true := fun h => by simp [Strand.covers_iff.mp h l hlive] at hact
  rw [Strand.vlane_writeV_same st r act tag f (Strand.lt_width_of_live hlive) (fun _ _ h => absurd h hcov),
    Strand.laneAfter, if_neg (by simp [hact]), if_pos hlive]

/-! ### The registers of a word -/

/-- Changes to the vector registers alone, one after the other. -/
theorem Strand.withV_trans {x y z : Strand} (hxy : y = { x with v := y.v }) (hyz : z = { y with v := z.v }) :
    z = { x with v := z.v } := by
  calc z = { y with v := z.v } := hyz
    _ = { ({ x with v := y.v } : Strand) with v := z.v } := congrArg (fun st : Strand => { st with v := z.v }) hxy
    _ = { x with v := z.v } := rfl

/-- The registers of a list written one after another, each with the words that f gives it by its place. -/
theorem writeAll_cons (mask : LaneMask) (rs : List (Nat × List Word)) (tags : List (Option VReg)) (ds : List Nat) (d : Nat)
    (st : Strand) : writeAll mask rs tags (ds ++ [d]) st =
      (writeAll mask rs tags ds st).writeV d mask (tags.getD ds.length none)
        fun l => (Assoc.get [] rs l).getD ds.length 0#32 := by
  simp [writeAll, List.zipIdx_append]

section
variable (mask : LaneMask) (rs : List (Nat × List Word)) (tags : List (Option VReg))

/-- Registers written change the vector registers alone. -/
theorem writeAll_eq (ds : List Nat) (st : Strand) :
    writeAll mask rs tags ds st = { st with v := (writeAll mask rs tags ds st).v } := by
  induction ds using List.reverseRecOn with
  | nil => rfl
  | append_singleton ds d ih =>
    rw [writeAll_cons]
    exact Strand.withV_trans ih rfl

theorem writeAll_live (ds : List Nat) (st : Strand) : (writeAll mask rs tags ds st).live = st.live := by
  rw [writeAll_eq]
  rfl

theorem writeAll_width (ds : List Nat) (st : Strand) : (writeAll mask rs tags ds st).width = st.width := by
  rw [writeAll_eq]

theorem vreg?_writeAll_other (ds : List Nat) (st : Strand) {n : Nat} (h : n ∉ ds) :
    (writeAll mask rs tags ds st).vreg? n = st.vreg? n := by
  induction ds using List.reverseRecOn with
  | nil => rfl
  | append_singleton ds d ih =>
    simp only [List.mem_append, List.mem_singleton, not_or] at h
    rw [writeAll_cons, Strand.vreg?_writeV_other _ _ _ _ h.2, ih h.1]

/-- A lane that is written reads its word of each register. -/
theorem vlane_writeAll_written {ds : List Nat} (hd : ds.Nodup) (st : Strand) {l : Nat} (hl : l < st.width)
    (hmask : mask.getLsbD l = true) {k n : Nat} (hk : ds[k]? = some n)
    (htag : ∀ t, tags.getD k none = some t → t.lane l = (Assoc.get [] rs l).getD k 0#32) :
    (writeAll mask rs tags ds st).vlane n l = (Assoc.get [] rs l).getD k 0#32 := by
  induction ds using List.reverseRecOn with
  | nil => simp at hk
  | append_singleton ds d ih =>
    obtain ⟨hds, hdisj⟩ : ds.Nodup ∧ ∀ a ∈ ds, ¬ a = d := by simpa [List.nodup_append] using hd
    rw [writeAll_cons]
    rcases lt_trichotomy k ds.length with h | rfl | h
    · rw [List.getElem?_append_left h] at hk
      have hne : n ≠ d := hdisj n (List.mem_of_getElem? hk)
      rw [Strand.vlane_writeV_other _ _ _ _ hne, ih hds hk]
    · obtain rfl : d = n := by simpa using hk
      exact Strand.vlane_writeV_written _ _ _ _ (by rwa [writeAll_width]) hmask htag
    · simp [List.getElem?_eq_none (show (ds ++ [d]).length ≤ k by simp; omega)] at hk

/-- A live lane that is not written keeps its word of every register. -/
theorem vlane_writeAll_kept (ds : List Nat) (st : Strand) {l : Nat} (hlive : st.live.getLsbD l = true)
    (hmask : mask.getLsbD l = false) (n : Nat) : (writeAll mask rs tags ds st).vlane n l = st.vlane n l := by
  induction ds using List.reverseRecOn with
  | nil => rfl
  | append_singleton ds d ih =>
    rw [writeAll_cons]
    by_cases hn : n = d
    · subst hn
      rw [Strand.vlane_writeV_kept _ _ _ _ (by rwa [writeAll_live]) hmask, ih]
    · rw [Strand.vlane_writeV_other _ _ _ _ hn, ih]

end

/-! ### A vector computation -/

/-- The value that a list made lane by lane gives one of its lanes. -/
theorem Assoc.get_map_lanes {α : Type} (d : α) (ls : List Nat) (g : Nat → α) {l : Nat} (h : l ∈ ls) :
    Assoc.get d (ls.map fun l => (l, g l)) l = g l := by
  induction ls with
  | nil => simp at h
  | cons k ks ih =>
    by_cases hk : k = l
    · simp [Assoc.get, hk]
    · rw [List.map_cons, Assoc.get, if_neg hk]
      exact ih (by simpa [Ne.symm hk] using h)

/-- The words that a computation gives the active lanes. -/
def laneWords (f : LaneFn) (st : Strand) : List (Nat × List Word) := (lanesOf st.active).map fun l => (l, (f st l).1)

/-- The tags that a computation's results take (R120, Table 6-2). -/
def vecTags (u : Use) (special : Strand → Option (List (Option VReg))) (f : LaneFn) (st : Strand) : List (Option VReg) :=
  match special st with
  | some ts => ts
  | none => if st.sourcesUniform u then uniformTags u.dests.length (laneWords f st) else []

theorem laneFlagsOf_eq (f : LaneFn) (st : Strand) :
    laneFlagsOf f st = (lanesOf st.active).map fun l => (l, (f st l).2) := by
  simp [laneFlagsOf, laneResultsOf, Function.comp_def]

theorem vecEffect_eq (u : Use) (special : Strand → Option (List (Option VReg))) (f : LaneFn) (old st : Strand) :
    vecEffect u special f old st = (writeAll old.active (laneWords f old) (vecTags u special f old) u.dests st).raise
      (orFlags ((lanesOf old.active).map fun l => (f old l).2)) := by
  simp only [vecEffect, laneResultsOf, List.map_map, Function.comp_def, vecTags, laneWords] <;> rfl

/-- The tags of a computation tell the words of the active lanes. -/
def TagsTell (ts : List (Option VReg)) (f : LaneFn) (st : Strand) : Prop :=
  ∀ k t, ts.getD k none = some t → ∀ l ∈ lanesOf st.active, t.lane l = (f st l).1.getD k 0#32

/-- No special tag, and a function that gives every lane the same words where its sources are uniform. -/
theorem tagsTell_plain {u : Use} {f : LaneFn} {st : Strand}
    (h : st.sourcesUniform u = true → ∀ l l', (f st l).1 = (f st l').1) : TagsTell (vecTags u plain f st) f st := by
  intro k t ht l hl
  change (if st.sourcesUniform u then uniformTags u.dests.length (laneWords f st) else []).getD k none = some t at ht
  split at ht
  · have hk : k < u.dests.length := by
      by_contra hk
      simp [uniformTags, List.getD_eq_getElem?_getD, hk] at ht
    obtain ⟨l0, hl0⟩ : ∃ l0, ((laneWords f st).map (·.2)).headD [] = (f st l0).1 := by
      cases hls : lanesOf st.active with
      | nil => simp [hls] at hl
      | cons l0 ls => exact ⟨l0, by simp [laneWords, hls]⟩
    simp only [uniformTags, List.getD_eq_getElem?_getD, List.getElem?_map, List.getElem?_range hk, hl0, Option.map_some,
      Option.getD_some, Option.some.injEq] at ht
    rw [← ht, h ‹_› l l0, List.getD_eq_getElem?_getD]
    rfl
  · simp at ht

/-- Flags joined after changes to the vector registers. -/
theorem Strand.raise_withV {x y : Strand} (h : y = { x with v := y.v }) (f : Flags) :
    y.raise f = { x with v := (y.raise f).v, group := (y.raise f).group } :=
  congrArg (fun st : Strand => { st with group := (y.raise f).group }) h

section
variable {u : Use} {special : Strand → Option (List (Option VReg))} {f : LaneFn} {old : Strand} (st : Strand)

/-- An active lane reads the words of the computation. -/
theorem vecEffect_vlane (hd : u.dests.Nodup) (ht : TagsTell (vecTags u special f old) f old) (hw : st.width = old.width)
    {k n l : Nat} (hk : u.dests[k]? = some n) (hl : l ∈ lanesOf old.active) :
    (vecEffect u special f old st).vlane n l = (f old l).1.getD k 0#32 := by
  have hbit := mem_lanesOf.mp hl
  have hwords : Assoc.get [] (laneWords f old) l = (f old l).1 := Assoc.get_map_lanes [] _ (fun l => (f old l).1) hl
  have hlt : l < st.width := hw ▸ Strand.lt_width_of_live (Strand.live_of_active hbit)
  rw [vecEffect_eq]
  refine (vlane_writeAll_written _ _ _ hd st hlt hbit hk fun t hsome => ?_).trans (by rw [hwords])
  rw [hwords]
  exact ht k t hsome l hl

/-- A live lane that is not active keeps its words. -/
theorem vecEffect_kept {l : Nat} (hlive : st.live.getLsbD l = true) (hact : old.active.getLsbD l = false) (n : Nat) :
    (vecEffect u special f old st).vlane n l = st.vlane n l := by
  rw [vecEffect_eq]
  exact vlane_writeAll_kept _ _ _ u.dests st hlive hact n

theorem vecEffect_vreg?_other {n : Nat} (h : n ∉ u.dests) : (vecEffect u special f old st).vreg? n = st.vreg? n := by
  rw [vecEffect_eq]
  exact vreg?_writeAll_other _ _ _ u.dests st h

theorem vecEffect_group : (vecEffect u special f old st).group =
    { st.group with astat := st.group.astat ||| orFlags ((lanesOf old.active).map fun l => (f old l).2) } := by
  rw [vecEffect_eq, Strand.raise, writeAll_eq]

theorem vecEffect_frame : vecEffect u special f old st =
    { st with v := (vecEffect u special f old st).v, group := (vecEffect u special f old st).group } := by
  rw [vecEffect_eq]
  exact Strand.raise_withV (writeAll_eq _ _ _ u.dests st) _

end

/-! ### Words that compute lane by lane -/

theorem Strand.freeMarked_live (st : Strand) (u : Use) : (st.freeMarked u).live = st.live := by
  rw [Strand.freeMarked_eq]
  rfl

/-- A ready word whose one check is of the flags of its lanes traps where a lane raises an enabled one (R80). -/
theorem issue_traps_arith {i : Instr} {u : Use} {g : Form} {f : LaneFn} {eff : Effect} {idle : State → State} {s : State}
    {st : Strand} (r : Ready i u g st s) (hflag : ∃ l ∈ lanesOf st.active, (f st l).2 &&& st.group.aten ≠ 0#5) :
    issue i u g (fun st _ => [arithFaults st (laneFlagsOf f st)]) eff idle s =
      .next (s.trapWord st (((lanesOf st.active).filter fun l =>
        (f st l).2 &&& st.group.aten != 0#5).map fun l => ⟨l, .arithmetic, (f st l).2.toNat⟩)) := by
  obtain ⟨l, hl, hne⟩ := hflag
  have hfault : firstFault [arithFaults st (laneFlagsOf f st)] = arithFaults st (laneFlagsOf f st) := firstFault_single _
  rw [issue_trap r, hfault, laneFlagsOf_eq, arithFaults_lanes]
  rw [hfault, laneFlagsOf_eq]
  exact fun hnil => hne (arithFaults_lanes_eq_nil.mp hnil l hl)

section
variable {i : Instr} {u : Use} {types : Bool} {special : Strand → Option (List (Option VReg))} {f : LaneFn} {s : State}
  {st : Strand} (r : Ready i u { types := types } st s)
include r

/-- A vector computation that raises no enabled flag takes effect. -/
theorem vec_ready (hquiet : ∀ l ∈ lanesOf st.active, (f st l).2 &&& st.group.aten = 0#5) :
    vec i u types special f s = .next (s.goesOn u st (vecEffect u special f st (st.freeMarked u))) := by
  refine issue_ready_onStrand r ?_
  rw [firstFault_single, laneFlagsOf_eq, arithFaults_lanes_eq_nil.mpr hquiet]

/-- One that raises an enabled flag traps in the lanes that raise it, each with its flags (R80). -/
theorem vec_traps (hflag : ∃ l ∈ lanesOf st.active, (f st l).2 &&& st.group.aten ≠ 0#5) :
    vec i u types special f s = .next (s.trapWord st (((lanesOf st.active).filter fun l =>
      (f st l).2 &&& st.group.aten != 0#5).map fun l => ⟨l, .arithmetic, (f st l).2.toNat⟩)) :=
  issue_traps_arith r hflag

end

/-! ### Element-wise words (R131) -/

theorem regsT_nodup (w : Bool) (r : Nat) : (regsT w r).Nodup := by
  cases w <;> simp [regsT]

/-- A uniform register has one word in all lanes. -/
theorem Strand.vlane_uniform {st : Strand} {r : Nat} (h : (st.uniform? r).isSome = true) (l l' : Nat) :
    st.vlane r l = st.vlane r l' := by
  unfold Strand.uniform? at h
  split at h
  · simp [Strand.vlane, *, VReg.lane]
  · simp at h

theorem Strand.vval_uniform {st : Strand} {w : Bool} {r : Nat} (h : ∀ n ∈ regsT w r, (st.uniform? n).isSome = true)
    (l l' : Nat) : st.vval w r l = st.vval w r l' := by
  cases w
  · simp [Strand.vval, Strand.vlane_uniform (h r (by simp [regsT])) l l']
  · simp [Strand.vval, Strand.vlane_uniform (h r (by simp [regsT])) l l',
      Strand.vlane_uniform (h (r + 1) (by simp [regsT])) l l']

theorem Strand.uniform_of_sources {st : Strand} {u : Use} (h : st.sourcesUniform u = true) {n : Nat}
    (hn : n ∈ u.aRegs ++ u.reads) : (st.uniform? n).isSome = true := by
  simp only [Strand.sourcesUniform, Bool.and_eq_true, List.all_eq_true] at h
  exact h.2 n hn

/-- An element-wise operation gives every lane the same where its sources are uniform. -/
theorem elemLane_uniform (el : Arith → ElemOp) (d a : Nat) (b : Option Nat) (readD : Bool) {st : Strand}
    (h : st.sourcesUniform (elemUse st.group.mode d a b readD) = true) (l l' : Nat) :
    elemLane el d a b readD st l = elemLane el d a b readD st l' := by
  have ha := Strand.vval_uniform (w := isWide st.group.mode) (r := a)
    (fun n hn => Strand.uniform_of_sources h (by simp [elemUse, hn])) l l'
  have hb (b' : Nat) (hb' : b = some b') := Strand.vval_uniform (w := isWide st.group.mode) (r := b')
    (fun n hn => Strand.uniform_of_sources h (by simp [elemUse, hb', hn])) l l'
  have hd (hr : readD = true) := Strand.vval_uniform (w := isWide st.group.mode) (r := d)
    (fun n hn => Strand.uniform_of_sources h (by simp [elemUse, hr, hn])) l l'
  cases b <;> cases readD <;> simp_all [elemLane]

end Sys2Proof.Machine
end

section
/-! SUPPORT. Element-wise words: values of 32-bit elements, the tags of affine operands, and what each word does (R76, R79,
R80, R120, R131-R136, R143, R148). -/

namespace Sys2Proof.Machine

/-! ### One 32-bit element -/

section
variable {t : ElemType} (ht : t = .i32 ∨ t = .n32)
include ht

/-- An operation on a word of i32 or n32 is the element operation on the word. -/
theorem mapElems_word (f : ElemOp) (x y z : Word) :
    mapElems t f x.toNat y.toNat z.toNat =
      ((f x.toNat y.toNat z.toNat).1 % 2 ^ 32, (f x.toNat y.toNat z.toNat).2) := by
  have hx := Nat.mod_eq_of_lt x.isLt
  have hy := Nat.mod_eq_of_lt y.isLt
  have hz := Nat.mod_eq_of_lt z.isLt
  obtain rfl | rfl := ht <;> simp [mapElems, ElemType.count, ElemType.width, elemAt, packElems, hx, hy, hz]

/-- The reading of a word as an integer is one of its residues. -/
theorem ofInt_int (x : Word) : BitVec.ofInt 32 (t.int x.toNat) = x := by
  obtain rfl | rfl := ht
  · simp only [ElemType.int, ElemType.signed, ElemType.width]
    apply BitVec.eq_of_toNat_eq
    have := x.isLt
    rw [BitVec.toNat_ofInt]
    by_cases h : 2 ^ 31 ≤ x.toNat
    · simp only [Bool.true_and, decide_eq_true_eq, show 2 ^ (32 - 1) ≤ x.toNat from h, if_true]
      omega
    · simp only [Bool.true_and, decide_eq_true_eq, show ¬ 2 ^ (32 - 1) ≤ x.toNat from h, if_false]
      omega
  · simp [ElemType.int, ElemType.signed]

/-- The wrapped integer is its residue. -/
theorem ofNat_wrap (v : Int) : BitVec.ofNat 32 (t.wrap v) = BitVec.ofInt 32 v := by
  have hw : t.width = 32 := by obtain rfl | rfl := ht <;> rfl
  apply BitVec.eq_of_toNat_eq
  rw [ElemType.wrap, hw, BitVec.toNat_ofNat, BitVec.toNat_ofInt]
  omega

end

theorem fmt_word {t : ElemType} (ht : t = .i32 ∨ t = .n32) : t.fmt = none := by
  obtain rfl | rfl := ht <;> rfl

/-- ADD, SUB and MUL of words without saturation are those of words modulo 2^32 (R76, R132). -/
theorem mapElems_arith {t : ElemType} (ht : t = .i32 ∨ t = .n32) (r : Rounding) (x y z : Word) :
    BitVec.ofNat 32 (mapElems t (elAdd ⟨t, r, false⟩) x.toNat y.toNat z.toNat).1 = x + y ∧
    BitVec.ofNat 32 (mapElems t (elSub ⟨t, r, false⟩) x.toNat y.toNat z.toNat).1 = x - y ∧
    BitVec.ofNat 32 (mapElems t (elMul ⟨t, r, false⟩) x.toNat y.toNat z.toNat).1 = x * y := by
  have hmod (n : Nat) : BitVec.ofNat 32 (n % 2 ^ 32) = BitVec.ofNat 32 n := by
    apply BitVec.eq_of_toNat_eq
    simp
  have hdeliver (v : Int) : BitVec.ofNat 32 ((⟨t, r, false⟩ : Arith).deliverInt v) = BitVec.ofInt 32 v := ofNat_wrap ht v
  simp only [mapElems_word ht, hmod, elAdd, elSub, elMul, fmt_word ht, hdeliver, BitVec.ofInt_add, BitVec.ofInt_mul,
    Int.sub_eq_add_neg, BitVec.ofInt_neg, ofInt_int ht, BitVec.sub_eq_add_neg, and_self]

/-! ### Tags of affine operands (Table 6-2) -/

/-- The lane of an affine or uniform register. -/
theorem Strand.vlane_affineOf {st : Strand} {r : Nat} {b s : Word} {p : Bool} (h : affineOf (st.vreg? r) = some (b, s, p))
    (l : Nat) : st.vlane r l = b + s * BitVec.ofNat 32 l := by
  unfold affineOf at h
  split at h
  · cases h
    simp [Strand.vlane, VReg.lane, *]
  · cases h
    simp [Strand.vlane, VReg.lane, *]
  · cases h

theorem affineOf_uniform {x : Option VReg} {b s : Word} (h : affineOf x = some (b, s, false)) : s = 0#32 := by
  unfold affineOf at h
  split at h <;> cases h
  rfl

/-- Where the tag is affine, under i32 or n32 without saturation, the operands are affine in the lane, one with stride 0. -/
theorem affineTag_eq_some {a b : Nat} {g : Word → Word → Word → Word → Word × Word} {st : Strand} {ts : List (Option VReg)}
    (h : affineTag a b g st = some ts) : ∃ (t : ElemType) (x s y q : Word), (t = .i32 ∨ t = .n32) ∧
      modeType st.group.mode = some t ∧ modeSat st.group.mode = false ∧ (s = 0#32 ∨ q = 0#32) ∧
      (∀ l, st.vlane a l = x + s * BitVec.ofNat 32 l ∧ st.vlane b l = y + q * BitVec.ofNat 32 l) ∧
      ts = [some (.affine (g x s y q).1 (g x s y q).2)] := by
  unfold affineTag at h
  dsimp only at h
  split at h
  case isFalse => cases h
  case isTrue hword =>
    simp only [typeIs, Bool.and_eq_true, Option.any_eq_true_iff_get, Bool.not_eq_true'] at hword
    obtain ⟨⟨hsome, htype⟩, hsat⟩ := hword
    obtain ⟨t, ht⟩ := Option.isSome_iff_exists.mp hsome
    split at h
    case h_2 => cases h
    case h_1 x s p y q k hx hy =>
      split at h
      case isFalse => cases h
      case isTrue hne =>
        cases h
        refine ⟨t, x, s, y, q, by simpa [ht] using htype, ht, hsat, ?_,
          fun l => ⟨Strand.vlane_affineOf hx l, Strand.vlane_affineOf hy l⟩, rfl⟩
        cases p
        · exact .inl (affineOf_uniform hx)
        · cases k
          · exact .inr (affineOf_uniform hy)
          · simp at hne

/-- Such a tag tells every lane's word where base and stride are those of the operation on the operands' lanes. -/
theorem tagsTell_affine {el : Arith → ElemOp} {d a b : Nat} {g : Word → Word → Word → Word → Word × Word} {u : Use} {st : Strand}
    (hu : u = elemUse st.group.mode d a (some b) false)
    (hg : ∀ (t : ElemType) (r : Rounding) (x s y q n : Word), t = .i32 ∨ t = .n32 → s = 0#32 ∨ q = 0#32 →
      BitVec.ofNat 32 (mapElems t (el ⟨t, r, false⟩) (x + s * n).toNat (y + q * n).toNat 0).1 =
        (g x s y q).1 + (g x s y q).2 * n) :
    TagsTell (vecTags u (affineTag a b g) (elemLane el d a (some b) false) st) (elemLane el d a (some b) false) st := by
  subst hu
  cases haff : affineTag a b g st with
  | none =>
    have hsame : vecTags (elemUse st.group.mode d a (some b) false) (affineTag a b g) (elemLane el d a (some b) false) st =
        vecTags (elemUse st.group.mode d a (some b) false) plain (elemLane el d a (some b) false) st := by
      simp only [vecTags, haff, plain]
    rw [hsame]
    exact tagsTell_plain fun h l l' => by rw [elemLane_uniform el d a (some b) false h l l']
  | some ts =>
    obtain ⟨t, x, s, y, q, ht, htype, hsat, hstride, hlanes, rfl⟩ := affineTag_eq_some haff
    have hwide : isWide st.group.mode = false := by
      obtain rfl | rfl := ht <;> simp [isWide, typeIs, htype, ElemType.is64]
    have harith : arithOf st.group.mode = ⟨t, modeRound st.group.mode, false⟩ := by simp [arithOf, htype, hsat]
    have htags : vecTags (elemUse st.group.mode d a (some b) false) (affineTag a b g) (elemLane el d a (some b) false) st =
        [some (.affine (g x s y q).1 (g x s y q).2)] := by simp only [vecTags, haff]
    rw [htags]
    intro k t' hk l _
    cases k with
    | succ k => simp at hk
    | zero =>
      obtain rfl : VReg.affine (g x s y q).1 (g x s y q).2 = t' := by simpa using hk
      simp only [VReg.lane, elemLane, hwide, harith, Strand.vval, hlanes, valueWords]
      exact (hg t _ x s y q _ ht hstride).symm

/-! ### What an element-wise word does -/

/-- A change to the vector registers, then one to these and the group-wide state. -/
theorem Strand.withV_frame {x y z : Strand} (hxy : y = { x with v := y.v })
    (hyz : z = { y with v := z.v, group := z.group }) : z = { x with v := z.v, group := z.group } := by
  calc z = { y with v := z.v, group := z.group } := hyz
    _ = { ({ x with v := y.v } : Strand) with v := z.v, group := z.group } :=
      congrArg (fun st : Strand => { st with v := z.v, group := z.group }) hxy
    _ = { x with v := z.v, group := z.group } := rfl

section
variable {i : Instr} {types : ElemType → Bool} {el : Arith → ElemOp} {d a : Nat} {b : Option Nat} {readD : Bool}
  {special : Strand → Option (List (Option VReg))}

/-- An element-wise word under the mode of the strand that issues. -/
theorem elemWord_here {s : State} {st : Strand} (h : s.here? = some st) :
    elemWord i types el d a b readD special s = vec i (elemUse st.group.mode d a b readD) (typeIs st.group.mode types) special
      (elemLane el d a b readD) s := by
  rw [elemWord, State.modeWord_here h]

theorem valueWords_low (w : Bool) (v : Nat) : (valueWords w v).getD 0 0#32 = BitVec.ofNat 32 v := by
  cases w <;> rfl

theorem valueWords_high (v : Nat) : (valueWords true v).getD 1 0#32 = BitVec.ofNat 32 (v / 2 ^ 32) := rfl

/-- Whatever executes as an element-wise word whose tags tell its lanes' words does what R131 says. -/
theorem elementRuns_of (hexec : ∀ s, exec i s = elemWord i types el d a b readD special s)
    (htags : ∀ st, TagsTell (vecTags (elemUse st.group.mode d a b readD) special (elemLane el d a b readD) st)
      (elemLane el d a b readD) st) : ElementRuns i types el d a b readD := by
  intro s st hready hact w c u r hquiet
  have hdests : u.dests.Nodup := regsT_nodup w d
  have hlane (l : Nat) : elemLane el d a b readD st l = (valueWords w (r l).1, (r l).2) := by cases b <;> rfl
  have hlow : u.dests[0]? = some d := by simp only [u, elemUse, regsT]; split <;> rfl
  have hwidth : (st.freeMarked u).width = st.width := Strand.freeMarked_width st u
  refine ⟨vecEffect u special (elemLane el d a b readD) st (st.freeMarked u), ?effect, fun l hl => ?low, fun hw l hl => ?high,
    fun l hlt hlive hidle hkeep => ?kept, fun n hn => ?other, ?group, ?frame⟩
  case effect =>
    rw [hexec, elemWord_here hready.here]
    exact vec_ready hready fun l hl => by rw [hlane]; exact hquiet l hl
  case low =>
    rw [vecEffect_vlane _ hdests (htags st) hwidth hlow hl, hlane, valueWords_low]
  case high =>
    have hhigh : u.dests[1]? = some (d + 1) := by simp only [u, elemUse, regsT]; rw [if_pos hw]; rfl
    rw [vecEffect_vlane _ hdests (htags st) hwidth hhigh hl, hlane, hw, valueWords_high]
  case kept =>
    rw [vecEffect_kept _ (by rwa [Strand.freeMarked_live]) hidle]
    exact Strand.vlane_of_vreg? (Strand.freeMarked_vreg? st u hkeep) l
  case other =>
    obtain ⟨hdest, hfree⟩ := not_or.mp hn
    rw [vecEffect_vreg?_other _ hdest, Strand.freeMarked_vreg? st u hfree]
  case group =>
    rw [vecEffect_group, Strand.freeMarked_group]
    simp only [hlane]
  case frame =>
    exact Strand.withV_frame (Strand.freeMarked_eq st u) (vecEffect_frame _)

/-- Where a lane raises a flag that ATEN enables it traps as R80 says. -/
theorem elementTraps_of (hexec : ∀ s, exec i s = elemWord i types el d a b readD special s) :
    ElementTraps i types el d a b readD := by
  intro s st hready hact w c r hflag
  have hlane (l : Nat) : (elemLane el d a b readD st l).2 = r l := by cases b <;> rfl
  rw [hexec, elemWord_here hready.here, vec_traps hready (by simpa only [hlane] using hflag)]
  simp only [hlane]

end

section
variable {i : Instr} {types : ElemType → Bool} {el : Arith → ElemOp} {d a : Nat} {b : Option Nat} {readD : Bool}

theorem elementRuns_plain (hexec : ∀ s, exec i s = elemWord i types el d a b readD plain s) :
    ElementRuns i types el d a b readD :=
  elementRuns_of hexec fun _ => tagsTell_plain fun h l l' => by rw [elemLane_uniform el d a b readD h l l']

theorem elementWord_plain (hexec : ∀ s, exec i s = elemWord i types el d a b readD plain s) :
    ElementWord i types el d a b readD :=
  ⟨elementRuns_plain hexec, elementTraps_of hexec⟩

/-- A word whose operands may be affine: base and stride of the result as in Table 6-2. -/
theorem elementWord_affine {b : Nat} {g : Word → Word → Word → Word → Word × Word}
    (hexec : ∀ s, exec i s = elemWord i types el d a (some b) false (affineTag a b g) s)
    (hg : ∀ (t : ElemType) (r : Rounding) (x s y q n : Word), t = .i32 ∨ t = .n32 → s = 0#32 ∨ q = 0#32 →
      BitVec.ofNat 32 (mapElems t (el ⟨t, r, false⟩) (x + s * n).toNat (y + q * n).toNat 0).1 =
        (g x s y q).1 + (g x s y q).2 * n) : ElementWord i types el d a (some b) false :=
  ⟨elementRuns_of hexec fun _ => tagsTell_affine rfl hg, elementTraps_of hexec⟩

end

end Sys2Proof.Machine

section
open Sys2Proof Sys2Proof.Machine

/-- Settles O16: every word is `elementWord_plain` or `elementRuns_plain`, but ADD, SUB and MUL, whose affine tags follow from
the values of words (`mapElems_arith`). -/
theorem vectorOperations : Obligations.VectorOperations := by
  unfold Obligations.VectorOperations
  refine ⟨fun d a b => ⟨?add, ?sub, ?mul, ?_, ?_, ?_, ?_, ?_, ?_, ?_, ?_⟩,
    fun d a b => ⟨?_, ?_, ?_, ?_, ?_, ?_, ?_, ?_, ?_, ?_, ?_, ?_, ?_⟩, fun d a b => ⟨?_, ?_, ?_, ?_, ?_, ?_, ?_, ?_⟩⟩
  case add =>
    refine elementWord_affine (fun _ => rfl) fun t r x s y q n ht _ => ?_
    refine (mapElems_arith ht r (x + s * n) (y + q * n) 0#32).1.trans ?_
    ring
  case sub =>
    refine elementWord_affine (fun _ => rfl) fun t r x s y q n ht _ => ?_
    refine (mapElems_arith ht r (x + s * n) (y + q * n) 0#32).2.1.trans ?_
    ring
  case mul =>
    refine elementWord_affine (fun _ => rfl) fun t r x s y q n ht hstride => ?_
    refine (mapElems_arith ht r (x + s * n) (y + q * n) 0#32).2.2.trans ?_
    obtain rfl | rfl := hstride
    · rw [BitVec.zero_mul, BitVec.zero_mul, BitVec.zero_add, BitVec.add_zero]
      ring
    · rw [BitVec.zero_mul, BitVec.mul_zero, BitVec.add_zero, BitVec.add_zero]
      ring
  -- the words that raise flags are `ElementWord`, the others `ElementRuns`
  all_goals first
    | exact elementRuns_plain fun _ => rfl
    | exact elementWord_plain fun _ => rfl

end

end

section
/-! SUPPORT. Register writes and last reads, moves of words between registers and lanes (R62, R120-R123, R126, R137-R139,
R144, R145, R149). -/

namespace Sys2Proof.Machine

/-! ### Lanes that exit or depart keep their words (R144) -/

theorem Assoc.find_eq_none_of_unlisted {α : Type} {m : List (Nat × α)} {n : Nat} (h : ∀ p ∈ m, p.1 ≠ n) :
    Assoc.find m n = none := by
  induction m with
  | nil => rfl
  | cons p m ih =>
    rw [Assoc.find, if_neg (h p (by simp))]
    exact ih fun q hq => h q (by simp [hq])

/-- The fold that notes the words of lanes reaches a register once, where it is listed. -/
theorem foldl_keep_get {α β : Type} (d : β) (w : Nat → α → β → β) (xs : List (Nat × α)) (k : List (Nat × β)) (r : Nat)
    (hs : xs.Pairwise fun p q => p.1 < q.1) :
    Assoc.get d (xs.foldl (fun k x => Assoc.set k x.1 (w x.1 x.2 (Assoc.get d k x.1))) k) r =
      match Assoc.find xs r with
      | some x => w r x (Assoc.get d k r)
      | none => Assoc.get d k r := by
  induction xs generalizing k with
  | nil => rfl
  | cons x xs ih =>
    obtain ⟨hx, hxs⟩ := List.pairwise_cons.mp hs
    rw [List.foldl_cons, ih _ hxs]
    by_cases hr : x.1 = r
    · have hnone : Assoc.find xs r = none :=
        Assoc.find_eq_none_of_unlisted fun p hp => by have := hx p hp; omega
      rw [hnone, ← hr]
      simp [Assoc.find]
    · simp only [Assoc.find, hr, if_false, Assoc.get_set_other d k _ hr]

theorem Strand.keptWord_keepLanes (st : Strand) (m : LaneMask) {r l : Nat} (hl : l < st.width)
    (hs : Assoc.sorted st.v = true) (hr : (st.vreg? r).isSome = true) :
    (st.keepLanes m).keptWord r l = if m.getLsbD l then st.vlane r l else st.keptWord r l := by
  obtain ⟨x, hx⟩ := Option.isSome_iff_exists.mp hr
  have hfind : Assoc.find st.v r = some x := hx
  have hfold := foldl_keep_get [] (fun _ (x : VReg) old => (List.range st.width).map fun l =>
    if m.getLsbD l then x.lane l else old.getD l 0#32) st.v st.kept r ((Assoc.sorted_iff _).mp hs)
  rw [hfind] at hfold
  change (Assoc.get [] (st.v.foldl _ st.kept) r).getD l 0#32 = _
  rw [hfold]
  simp [List.getD_eq_getElem?_getD, hl, Strand.vlane, hx, Strand.keptWord]

/-! ### Registers freed (R123, R126) -/

theorem Strand.vreg?_freeV_same (st : Strand) (r : Nat) : (st.freeV r).vreg? r = none := Assoc.find_erase_same st.v r

theorem Strand.vreg?_freeV_other (st : Strand) {r n : Nat} (h : n ≠ r) : (st.freeV r).vreg? n = st.vreg? n :=
  Assoc.find_erase_other st.v (Ne.symm h)

theorem Strand.foldl_freeV_empty (rs : List Nat) (st : Strand) {n : Nat} (h : n ∈ rs ∨ st.vreg? n = none) :
    (rs.foldl Strand.freeV st).vreg? n = none := by
  induction rs generalizing st with
  | nil => simpa using h
  | cons r rs ih =>
    refine ih (st.freeV r) ?_
    by_cases hr : n = r
    · exact .inr (hr ▸ Strand.vreg?_freeV_same st r)
    · rw [Strand.vreg?_freeV_other st hr]
      exact h.imp_left fun hm => (List.mem_cons.mp hm).resolve_left hr

/-- A marked register of field a is empty. -/
theorem Strand.freeMarked_empty {st : Strand} {u : Use} {n : Nat} (hm : st.marked = true) (hn : n ∈ u.aRegs) :
    (st.freeMarked u).vreg? n = none := by
  rw [Strand.freeMarked, if_pos hm]
  exact Strand.foldl_freeV_empty u.aRegs st (.inl hn)

/-- What a word's registers make it trap with (R126, R127). -/
theorem checkRegs_cases (st : Strand) (u : Use) :
    (checkRegs st u = some .unwaitedRead ∧ ((∃ n ∈ u.aRegs ++ u.reads ++ u.dests, st.vpend.getLsbD n = true) ∨
      ∃ g ∈ u.gRead ++ u.gDest, st.gpend.getLsbD g = true)) ∨
    (¬ ((∃ n ∈ u.aRegs ++ u.reads ++ u.dests, st.vpend.getLsbD n = true) ∨
      ∃ g ∈ u.gRead ++ u.gDest, st.gpend.getLsbD g = true) ∧
      ((checkRegs st u = some .emptyRegister ∧ ∃ n ∈ u.aRegs ++ u.reads, st.vreg? n = none) ∨
       (checkRegs st u = none ∧ ∀ n ∈ u.aRegs ++ u.reads, st.vreg? n ≠ none))) := by
  have hpend : ((u.aRegs ++ u.reads ++ u.dests).any (fun r => st.vpend.getLsbD r) ||
      (u.gRead ++ u.gDest).any (fun g => st.gpend.getLsbD g)) = true ↔
      (∃ n ∈ u.aRegs ++ u.reads ++ u.dests, st.vpend.getLsbD n = true) ∨
      ∃ g ∈ u.gRead ++ u.gDest, st.gpend.getLsbD g = true := by
    rw [Bool.or_eq_true, List.any_eq_true, List.any_eq_true]
  have hempty : ((u.aRegs ++ u.reads).any fun r => (st.vreg? r).isNone) = true ↔
      ∃ n ∈ u.aRegs ++ u.reads, st.vreg? n = none := by
    simp only [List.any_eq_true, Option.isNone_iff_eq_none]
  unfold checkRegs
  rw [← hpend]
  split
  · exact .inl ⟨rfl, ‹_›⟩
  · refine .inr ⟨‹_›, ?_⟩
    split
    · exact .inl ⟨rfl, hempty.mp ‹_›⟩
    · exact .inr ⟨rfl, fun n hn he => absurd (hempty.mpr ⟨n, hn, he⟩) ‹_›⟩

/-! ### Words that give each lane a list of words -/

theorem orFlags_zero (fs : List Flags) (h : ∀ f ∈ fs, f = 0#5) : orFlags fs = 0#5 := by
  unfold orFlags
  induction fs with
  | nil => rfl
  | cons f fs ih =>
    rw [List.foldl_cons, h f (by simp), BitVec.or_self]
    exact ih fun g hg => h g (by simp [hg])

/-- A computation that raises no flag changes the vector registers alone. -/
theorem vecEffect_quiet {u : Use} {special : Strand → Option (List (Option VReg))} {f : LaneFn} {old : Strand} (st : Strand)
    (hflags : ∀ l, (f old l).2 = 0#5) :
    vecEffect u special f old st = { st with v := (vecEffect u special f old st).v } := by
  have hor : orFlags ((lanesOf old.active).map fun l => (f old l).2) = 0#5 :=
    orFlags_zero _ fun g hg => by
      obtain ⟨l, -, rfl⟩ := List.mem_map.mp hg
      exact hflags l
  have hgroup : (vecEffect u special f old st).group = st.group := by
    rw [vecEffect_group, hor, BitVec.or_zero]
  calc vecEffect u special f old st = { st with
        v := (vecEffect u special f old st).v, group := (vecEffect u special f old st).group } := vecEffect_frame st
    _ = _ := by rw [hgroup]

/-- A word whose effect is a vector computation without flags, whose tags tell its lanes' words, gives each lane its words. -/
theorem wordsRun_of_effect {i : Instr} {u : Use} {types : Bool} {special : Strand → Option (List (Option VReg))} {f : LaneFn}
    {g : Strand → Nat → List Word} {st : Strand} {s : State}
    (heffect : Ready i u { types := types } st s → st.active ≠ 0#64 →
      exec i s = .next (s.goesOn u st (vecEffect u special f st (st.freeMarked u))))
    (hd : u.dests.Nodup) (hf : ∀ l, f st l = (g st l, 0#5)) (ht : TagsTell (vecTags u special f st) f st) :
    WordsRun i u types g st s := by
  intro r hact
  have hwidth : (st.freeMarked u).width = st.width := Strand.freeMarked_width st u
  have hflags (l : Nat) : (f st l).2 = 0#5 := by rw [hf]
  refine ⟨vecEffect u special f st (st.freeMarked u), heffect r hact, fun l hl k n hk => ?written,
    fun n hn l hlt hlive hidle hkeep => ?kept, fun n hn => ?other, ?frame⟩
  case written => rw [vecEffect_vlane _ hd ht hwidth hk hl, hf]
  case kept =>
    rw [vecEffect_kept _ (by rwa [Strand.freeMarked_live]) hidle]
    exact Strand.vlane_of_vreg? (Strand.freeMarked_vreg? st u hkeep) l
  case other =>
    obtain ⟨hdest, hfree⟩ := not_or.mp hn
    rw [vecEffect_vreg?_other _ hdest, Strand.freeMarked_vreg? st u hfree]
  case frame => exact Strand.withV_trans (Strand.freeMarked_eq st u) (vecEffect_quiet _ hflags)

/-- Whatever executes as a vector computation without flags, whose tags tell its lanes' words, gives each lane its words. -/
theorem wordsRun_of {i : Instr} {u : Use} {types : Bool} {special : Strand → Option (List (Option VReg))} {f : LaneFn}
    {g : Strand → Nat → List Word} {st : Strand} {s : State}
    (hexec : s.here? = some st → exec i s = vec i u types special f s) (hd : u.dests.Nodup)
    (hf : ∀ l, f st l = (g st l, 0#5)) (ht : TagsTell (vecTags u special f st) f st) : WordsRun i u types g st s :=
  wordsRun_of_effect (fun r _ => (hexec r.here).trans (vec_ready r fun l _ => by rw [hf, BitVec.zero_and])) hd hf ht

end Sys2Proof.Machine

section
open Sys2Proof Sys2Proof.Machine

/-- Settles O18: a write is `vlane_writeV_same` with the word of each lane (`laneAfter`), what lanes keep is
`keptWord_keepLanes`, and the last reads are `freeMarked_empty`, `freeMarked_vreg?` and `checkRegs_cases`. -/
theorem registerWritesAndLastReads : Obligations.RegisterWritesAndLastReads := by
  unfold Obligations.RegisterWritesAndLastReads
  refine ⟨fun st r act f => ?writes, fun st u n hm hn => Strand.freeMarked_empty hm hn,
    fun st u n h => Strand.freeMarked_vreg? st u h, fun st u n hn he => ?empty⟩
  case writes =>
    have hlane (l : Nat) (hl : l < st.width) : (st.writeV r act none f).vlane r l = st.laneAfter r act f l :=
      Strand.vlane_writeV_same st r act none f hl fun t ht _ => nomatch ht
    refine ⟨fun l hl hact => ?_, fun l hl hact hlive => ?_, fun l hl hact hlive => ?_,
      fun m l hl hs hr => Strand.keptWord_keepLanes st m hl hs hr,
      fun n l hn => Strand.vlane_writeV_other st act none f hn l, fun t l hcov => ?_,
      fun n hn => Strand.vreg?_freeV_other st hn, Strand.vreg?_freeV_same st r⟩
    · simp [hlane l hl, Strand.laneAfter, hact, -BitVec.getLsbD_eq_getElem]
    · simp [hlane l hl, Strand.laneAfter, hact, hlive, -BitVec.getLsbD_eq_getElem]
    · simp [hlane l hl, Strand.laneAfter, hact, hlive, -BitVec.getLsbD_eq_getElem]
    · rw [Strand.vlane, Strand.vreg?_writeV_tagged st r t f (by rw [Strand.covers, hcov]; rfl)]
  case empty =>
    obtain ⟨h, -⟩ | ⟨-, ⟨h, -⟩ | ⟨-, h⟩⟩ := checkRegs_cases st u
    · exact .inr h
    · exact .inl h
    · exact absurd he (h n hn)

end

end

section
/-! SUPPORT. Moves between registers and lanes at issue: MOV, LDI, LDIH, SEL, CVT, the shuffles, BCST, GTOV and VTOG (R62,
R120, R137-R139, R144, R145, R149). -/

namespace Sys2Proof.Machine

/-! ### Words of registers in a lane -/

theorem wordsIn_uniform {st : Strand} {rs : List Nat} (h : ∀ r ∈ rs, (st.uniform? r).isSome = true) (l l' : Nat) :
    wordsIn st rs l = wordsIn st rs l' := List.map_congr_left fun r hr => Strand.vlane_uniform (h r hr) l l'

theorem Strand.lane_tagOf {st : Strand} {r : Nat} {t : VReg} (h : st.tagOf r = some t) (l : Nat) : t.lane l = st.vlane r l := by
  unfold Strand.tagOf at h
  split at h
  · cases h
  · cases h
  · cases h
    simp [Strand.vlane, *]

theorem regs_nodup (r n : Nat) : (regs r n).Nodup :=
  List.Nodup.map (fun _ _ h => Nat.add_right_cancel h) List.nodup_range

/-- The tags of registers tell the words of a move. -/
theorem tagsTell_tagsOf {u : Use} {rs : List Nat} {special : Strand → Option (List (Option VReg))} {f : LaneFn} {st : Strand}
    (hs : special st = some (tagsOf st rs)) (hf : ∀ l, (f st l).1 = wordsIn st rs l) :
    TagsTell (vecTags u special f st) f st := by
  intro k t ht l _
  simp only [vecTags, hs, tagsOf, List.getD_eq_getElem?_getD, List.getElem?_map] at ht
  rw [hf, wordsIn, List.getD_eq_getElem?_getD, List.getElem?_map]
  cases hk : rs[k]? with
  | none => simp [hk] at ht
  | some r => exact Strand.lane_tagOf (by simpa [hk] using ht) l

/-- Uniform tags with the words that every lane is given. -/
theorem tagsTell_words {u : Use} {ws : List Word} {special : Strand → Option (List (Option VReg))} {f : LaneFn} {st : Strand}
    (hs : special st = some (ws.map fun x => some (.uniform x))) (hf : ∀ l, (f st l).1 = ws) :
    TagsTell (vecTags u special f st) f st := by
  intro k t ht l _
  simp only [vecTags, hs, List.getD_eq_getElem?_getD, List.getElem?_map] at ht
  rw [hf, List.getD_eq_getElem?_getD]
  cases hk : ws[k]? with
  | none => simp [hk] at ht
  | some x =>
    obtain rfl : VReg.uniform x = t := by simpa [hk] using ht
    rfl

/-- A computation whose words come from field a alone in a lane of its own choice: the same in every lane where its sources
are uniform. -/
theorem tagsTell_shuffle {u : Use} {rs : List Nat} {k : Nat → Nat} {f : LaneFn} {st : Strand} (hu : ∀ r ∈ rs, r ∈ u.aRegs)
    (hf : ∀ l, (f st l).1 = wordsIn st rs (k l)) : TagsTell (vecTags u plain f st) f st :=
  tagsTell_plain fun h l l' => by
    rw [hf, hf]
    exact wordsIn_uniform (fun r hr => Strand.uniform_of_sources h (List.mem_append_left _ (hu r hr))) _ _

/-! ### MOV and its tags (R120, Table 6-2) -/

section
variable {s : State} {st : Strand} {d a : BitVec 8}

theorem execMov_here (h : s.here? = some st) : execMov d a s =
    vec (.mov d a) (elemUse st.group.mode d.toNat a.toNat none false) (modeType st.group.mode).isSome
      (fun x => some (tagsOf x (regsT (isWide st.group.mode) a.toNat)))
      (fun x l => (wordsIn x (regsT (isWide st.group.mode) a.toNat) l, 0#5)) s := by
  simp only [execMov, State.modeWord_here h]

/-- MOV under a 32-bit type writes one register, with the tag of its source. -/
theorem movEffect_eq (hw : isWide st.group.mode = false) (x : Strand) :
    (vecEffect (elemUse st.group.mode d.toNat a.toNat none false) (fun x => some (tagsOf x (regsT false a.toNat)))
      (fun x l => (wordsIn x (regsT false a.toNat) l, 0#5)) st x).vreg? d.toNat =
    (x.writeV d.toNat st.active (st.tagOf a.toNat) fun l =>
      (Assoc.get [] (laneWords (fun x l => (wordsIn x (regsT false a.toNat) l, 0#5)) st) l).getD 0 0#32).vreg? d.toNat := by
  rw [vecEffect_eq]
  simp [elemUse, hw, regsT, vecTags, tagsOf, writeAll, Strand.raise, Strand.vreg?]

/-- MOV of a full live set leaves in d what a held, with the shape tag of a where that is not general. -/
theorem execMov_full {x : VReg}
    (r : Ready (.mov d a) (elemUse st.group.mode d.toNat a.toNat none false) { types := (modeType st.group.mode).isSome } st s)
    (hw : isWide st.group.mode = false) (hfull : st.live &&& ~~~ st.active = 0#64) (hx : st.vreg? a.toNat = some x) :
    ∃ y : Strand, execMov d a s = .next (s.goesOn (elemUse st.group.mode d.toNat a.toNat none false) st y) ∧
      ((∀ ws, x ≠ .general ws) → y.vreg? d.toNat = some x) ∧
      (∀ ws, x = .general ws → (∃ vs, y.vreg? d.toNat = some (.general vs)) ∧
        ∀ l, l < st.width → st.live.getLsbD l = true → y.vlane d.toNat l = x.lane l) := by
  have heffect := execMov_here (d := d) (a := a) r.here
  rw [vec_ready r fun l _ => BitVec.zero_and] at heffect
  have hcov : (st.freeMarked (elemUse st.group.mode d.toNat a.toNat none false)).covers st.active = true := by
    rw [Strand.covers, Strand.freeMarked_live, hfull]
    rfl
  refine ⟨_, heffect, fun hx' => ?tagged, ?general⟩
  case tagged =>
    have htag : st.tagOf a.toNat = some x := by
      rw [Strand.tagOf, hx]
      cases x with
      | general ws => exact absurd rfl (hx' ws)
      | uniform u => rfl
      | affine b n => rfl
    rw [hw, movEffect_eq hw, htag, Strand.vreg?_writeV_tagged _ _ _ _ hcov]
  case general =>
    rintro ws rfl
    have htag : st.tagOf a.toNat = none := by rw [Strand.tagOf, hx]
    have hgeneral := movEffect_eq (d := d) (a := a) hw
      (st.freeMarked (elemUse st.group.mode d.toNat a.toNat none false))
    rw [htag, Strand.vreg?_writeV_general _ _ _ (.inl rfl)] at hgeneral
    refine ⟨⟨_, hw ▸ hgeneral⟩, fun l hl hlive => ?_⟩
    · have hact : l ∈ lanesOf st.active := by
        rw [Strand.covers_iff, Strand.freeMarked_live] at hcov
        exact mem_lanesOf.mpr (hcov l hlive)
      have hword := vecEffect_vlane (special := fun x => some (tagsOf x (regsT (isWide st.group.mode) a.toNat)))
        (f := fun x l => (wordsIn x (regsT (isWide st.group.mode) a.toNat) l, 0#5))
        (st.freeMarked (elemUse st.group.mode d.toNat a.toNat none false)) (regsT_nodup (isWide st.group.mode) d.toNat)
        (tagsTell_tagsOf (u := elemUse st.group.mode d.toNat a.toNat none false) rfl fun _ => rfl)
        (Strand.freeMarked_width st _) (k := 0) (n := d.toNat) (by simp [elemUse, hw, regsT]) hact
      rw [hword]
      simp [wordsIn, regsT, hw, Strand.vlane, hx]

end

/-! ### SEL (R62, R137) -/

/-- The register that SEL takes in a lane. -/
abbrev selSource (st : Strand) (a b l : Nat) : Nat := if st.guardMask.getLsbD l then a else b

/-- The words that SEL gives the lanes that are active apart from the guard. -/
abbrev selWords (w : Bool) (a b : Nat) (st : Strand) : List (Nat × List Word) :=
  (lanesOf st.unguarded).map fun l => (l, wordsIn st (regsT w (selSource st a b l)) l)

/-- The tags that SEL writes with: with the guard off and uniform sources, uniform. -/
abbrev selTags (u : Use) (w : Bool) (a b : Nat) (st : Strand) : List (Option VReg) :=
  if !modeGuard st.group.mode && st.sourcesUniform u then uniformTags u.dests.length (selWords w a b st) else []

theorem selEffect_eq (u : Use) (w : Bool) (a b : Nat) (old st : Strand) :
    selEffect u w a b old st = writeAll old.unguarded (selWords w a b old) (selTags u w a b old) u.dests st := rfl

theorem Strand.live_of_unguarded {st : Strand} {l : Nat} (h : st.unguarded.getLsbD l = true) : st.live.getLsbD l = true := by
  simp only [Strand.unguarded, BitVec.getLsbD_and, Bool.and_eq_true] at h
  exact h.2

/-- With the guard off every lane takes a. -/
theorem selSource_noGuard {st : Strand} (h : modeGuard st.group.mode = false) (a b : Nat) {l : Nat} (hl : l < 64) :
    selSource st a b l = a := by
  have hmask : st.guardMask = BitVec.allOnes 64 := by
    rw [Strand.guardMask, h]
    rfl
  rw [selSource, hmask, BitVec.getLsbD_allOnes, decide_eq_true hl, if_pos rfl]

/-- The tags of SEL tell the words of its lanes. -/
theorem selTags_lane {m : Word} {d a b : Nat} {st : Strand} {k : Nat} {t : VReg}
    (ht : (selTags (elemUse m d a (some b) false) (isWide m) a b st).getD k none = some t) {l : Nat}
    (hl : l ∈ lanesOf st.unguarded) : t.lane l = (wordsIn st (regsT (isWide m) (selSource st a b l)) l).getD k 0#32 := by
  unfold selTags at ht
  split at ht
  case isFalse => simp at ht
  case isTrue hcond =>
    simp only [Bool.and_eq_true, Bool.not_eq_true'] at hcond
    obtain ⟨hguard, huniform⟩ := hcond
    have hsame (l' : Nat) : wordsIn st (regsT (isWide m) a) l' = wordsIn st (regsT (isWide m) a) l :=
      wordsIn_uniform (fun r hr => Strand.uniform_of_sources huniform (List.mem_append_left _ hr)) l' l
    have hwords (l' : Nat) (hl' : l' ∈ lanesOf st.unguarded) :
        wordsIn st (regsT (isWide m) (selSource st a b l')) l' = wordsIn st (regsT (isWide m) a) l := by
      rw [selSource_noGuard hguard a b (BitVec.lt_of_getLsbD (mem_lanesOf.mp hl')), hsame l']
    have hhead : ((selWords (isWide m) a b st).map (·.2)).headD [] = wordsIn st (regsT (isWide m) a) l := by
      cases hls : lanesOf st.unguarded with
      | nil => simp [hls] at hl
      | cons l0 ls => simpa [selWords, hls] using hwords l0 (by simp [hls])
    rw [uniformTags, hhead] at ht
    rw [hwords l hl]
    rcases lt_or_ge k (elemUse m d a (some b) false).dests.length with hk | hk
    · simp only [List.getD_eq_getElem?_getD, List.getElem?_map, List.getElem?_range hk, Option.map_some, Option.getD_some,
        Option.some.injEq] at ht
      rw [← ht, List.getD_eq_getElem?_getD]
      rfl
    · simp [List.getD_eq_getElem?_getD, hk] at ht

section
variable {s : State} {st : Strand} {d a b : BitVec 8}

/-- SEL with a lane that is active apart from the guard. -/
theorem execSel_here (h : s.here? = some st) (hact : st.unguarded ≠ 0#64) : execSel d a b s =
    issue (.sel d a b) (elemUse st.group.mode d.toNat a.toNat (some b.toNat) false)
      { types := (modeType st.group.mode).isSome, always := true, noGuard := true } noChecks
      (onStrand (selEffect (elemUse st.group.mode d.toNat a.toNat (some b.toNat) false) (isWide st.group.mode)
        a.toNat b.toNat)) id s := by
  have hidle : (st.unguarded == 0#64) = false := beq_eq_false_iff_ne.mpr hact
  simp only [execSel, State.modeWord_here h, h, hidle, Bool.not_false]

/-- The register k of the pair d:d+1, or d alone. -/
theorem regsT_getElem? {w : Bool} (r : Nat) {k : Nat} (h : k < if w then 2 else 1) : (regsT w r)[k]? = some (r + k) := by
  cases w
  · obtain rfl : k = 0 := by simpa using h
    rfl
  · obtain rfl | rfl : k = 0 ∨ k = 1 := by simp at h; omega
    · rfl
    · rfl

theorem execSel_runs
    (r : Ready (.sel d a b) (elemUse st.group.mode d.toNat a.toNat (some b.toNat) false)
      { types := (modeType st.group.mode).isSome, always := true, noGuard := true } st s) (hact : st.unguarded ≠ 0#64) :
    ∃ x : Strand, execSel d a b s = .next (s.goesOn (elemUse st.group.mode d.toNat a.toNat (some b.toNat) false) st x) ∧
      (∀ l ∈ lanesOf st.unguarded, ∀ k, k < (if isWide st.group.mode then 2 else 1) → x.vlane (d.toNat + k) l =
        if st.guardMask.getLsbD l then st.vlane (a.toNat + k) l else st.vlane (b.toNat + k) l) ∧
      (∀ n ∈ (elemUse st.group.mode d.toNat a.toNat (some b.toNat) false).dests, ∀ l, l < st.width →
        st.live.getLsbD l = true → st.unguarded.getLsbD l = false →
        ¬ (st.marked = true ∧ n ∈ (elemUse st.group.mode d.toNat a.toNat (some b.toNat) false).aRegs) →
        x.vlane n l = st.vlane n l) ∧
      (∀ n, ¬ st.touched (elemUse st.group.mode d.toNat a.toNat (some b.toNat) false) n → x.vreg? n = st.vreg? n) ∧
      x = { st with v := x.v } := by
  have heffect := issue_ready_onStrand (ch := noChecks) (idle := id) (g := selEffect
    (elemUse st.group.mode d.toNat a.toNat (some b.toNat) false) (isWide st.group.mode) a.toNat b.toNat) r rfl
  rw [← execSel_here r.here hact] at heffect
  refine ⟨_, heffect, fun l hl k hk => ?written, fun n _ l _ hlive hidle hkeep => ?kept, fun n hn => ?other, ?frame⟩
  all_goals
    generalize hu : elemUse st.group.mode d.toNat a.toNat (some b.toNat) false = u at *
    rw [show st.ready u { types := (modeType st.group.mode).isSome, always := true, noGuard := true } = st.freeMarked u from rfl,
      selEffect_eq]
  case written =>
    have hlt : l < (st.freeMarked u).width :=
      (Strand.freeMarked_width st u).symm ▸ Strand.lt_width_of_live (Strand.live_of_unguarded (mem_lanesOf.mp hl))
    have hwords : Assoc.get [] (selWords (isWide st.group.mode) a.toNat b.toNat st) l =
        wordsIn st (regsT (isWide st.group.mode) (selSource st a.toNat b.toNat l)) l :=
      Assoc.get_map_lanes [] _ (fun l => wordsIn st (regsT (isWide st.group.mode) (selSource st a.toNat b.toNat l)) l) hl
    have hdest : u.dests[k]? = some (d.toNat + k) := hu ▸ regsT_getElem? d.toNat hk
    rw [vlane_writeAll_written _ _ _ (hu ▸ regsT_nodup _ _) _ hlt (mem_lanesOf.mp hl) hdest
      (fun t ht => by rw [hwords]; exact selTags_lane (hu ▸ ht) hl), hwords, wordsIn, List.getD_eq_getElem?_getD,
      List.getElem?_map, regsT_getElem? _ hk]
    simp only [selSource, Option.map_some, Option.getD_some]
    split <;> rfl
  case kept =>
    rw [vlane_writeAll_kept _ _ _ _ _ (by rwa [Strand.freeMarked_live]) hidle]
    exact Strand.vlane_of_vreg? (Strand.freeMarked_vreg? st u hkeep) l
  case other =>
    obtain ⟨hdest, hfree⟩ := not_or.mp hn
    rw [vreg?_writeAll_other _ _ _ _ _ hdest, Strand.freeMarked_vreg? st u hfree]
  case frame => exact Strand.withV_trans (Strand.freeMarked_eq st u) (writeAll_eq _ _ _ _ _)

end

/-! ### CVT (R138) -/

/-- A conversion gives every lane the same where its sources are uniform. -/
theorem cvtLane_uniform {dst : ElemType} {a : Nat} {u : Use} {st : Strand}
    (hu : ∀ r ∈ regs a (blockOf (arithOf st.group.mode).t (cvtElems (arithOf st.group.mode).t dst)), r ∈ u.aRegs)
    (h : st.sourcesUniform u = true) (l l' : Nat) : cvtLane dst a st l = cvtLane dst a st l' := by
  have hbits : blockBits st a (blockOf (arithOf st.group.mode).t (cvtElems (arithOf st.group.mode).t dst)) l =
      blockBits st a (blockOf (arithOf st.group.mode).t (cvtElems (arithOf st.group.mode).t dst)) l' := by
    unfold blockBits
    refine List.foldr_ext _ _ 0 fun r hr v => ?_
    rw [Strand.vlane_uniform (Strand.uniform_of_sources h (List.mem_append_left _ (hu r hr))) l l']
  simp only [cvtLane, hbits]

/-- The registers of CVT. -/
abbrev cvtUse (m : Word) (dst : ElemType) (d a : BitVec 8) : Use :=
  { aRegs := regs a.toNat (blockOf (arithOf m).t (cvtElems (arithOf m).t dst)),
    dests := regs d.toNat (blockOf dst (cvtElems (arithOf m).t dst)),
    even := (if (arithOf m).t.is64 then [a.toNat] else []) ++ if dst.is64 then [d.toNat] else [] }

theorem execCvt_here {s : State} {st : Strand} {d a : BitVec 8} {t : BitVec 4} {dst : ElemType}
    (ht : ElemType.ofCode t.toNat = some dst) (h : s.here? = some st) : execCvt d a t s =
    vec (.cvt d a t) (cvtUse st.group.mode dst d a) (modeType st.group.mode).isSome plain (cvtLane dst a.toNat) s := by
  simp only [execCvt, State.modeWord_here h, ht, Option.getD_some]

theorem regs_getElem? (r : Nat) {n k : Nat} (h : k < n) : (regs r n)[k]? = some (k + r) := by
  simp [regs, h, Nat.add_comm]

theorem execCvt_runs {s : State} {st : Strand} {d a : BitVec 8} {t : BitVec 4} {dst : ElemType}
    (r : Ready (.cvt d a t) (cvtUse st.group.mode dst d a) { types := (modeType st.group.mode).isSome } st s)
    (hcode : ElemType.ofCode t.toNat = some dst)
    (hquiet : ∀ l ∈ lanesOf st.active, (cvtLane dst a.toNat st l).2 &&& st.group.aten = 0#5) :
    ∃ x : Strand, execCvt d a t s = .next (s.goesOn (cvtUse st.group.mode dst d a) st x) ∧
      (∀ l ∈ lanesOf st.active, ∀ k, k < blockOf dst (cvtElems (arithOf st.group.mode).t dst) →
        x.vlane (k + d.toNat) l = (cvtLane dst a.toNat st l).1.getD k 0#32) ∧
      (∀ n, ¬ st.touched (cvtUse st.group.mode dst d a) n → x.vreg? n = st.vreg? n) ∧
      x.group = { st.group with
        astat := (st.group.astat ||| orFlags ((lanesOf st.active).map fun l => (cvtLane dst a.toNat st l).2)) } ∧
      x = { st with v := x.v, group := x.group } := by
  have htags : TagsTell (vecTags (cvtUse st.group.mode dst d a) plain (cvtLane dst a.toNat) st) (cvtLane dst a.toNat) st :=
    tagsTell_plain fun h l l' => congrArg Prod.fst (cvtLane_uniform (fun _ hr => hr) h l l')
  refine ⟨_, (execCvt_here hcode r.here).trans (vec_ready r hquiet), fun l hl k hk => ?written, fun n hn => ?other,
    ?group, ?frame⟩
  case written => exact vecEffect_vlane _ (regs_nodup _ _) htags (Strand.freeMarked_width st _) (regs_getElem? _ hk) hl
  case other =>
    obtain ⟨hdest, hfree⟩ := not_or.mp hn
    rw [vecEffect_vreg?_other _ hdest, Strand.freeMarked_vreg? st _ hfree]
  case group => rw [vecEffect_group, Strand.freeMarked_group]
  case frame => exact Strand.withV_frame (Strand.freeMarked_eq st _) (vecEffect_frame _)

theorem execCvt_traps {s : State} {st : Strand} {d a : BitVec 8} {t : BitVec 4} {dst : ElemType}
    (r : Ready (.cvt d a t) (cvtUse st.group.mode dst d a) { types := (modeType st.group.mode).isSome } st s)
    (hcode : ElemType.ofCode t.toNat = some dst)
    (hflag : ∃ l ∈ lanesOf st.active, (cvtLane dst a.toNat st l).2 &&& st.group.aten ≠ 0#5) :
    execCvt d a t s = .next (s.trapWord st (((lanesOf st.active).filter fun l =>
      (cvtLane dst a.toNat st l).2 &&& st.group.aten != 0#5).map fun l =>
        ⟨l, .arithmetic, (cvtLane dst a.toNat st l).2.toNat⟩)) :=
  (execCvt_here hcode r.here).trans (vec_traps r hflag)

/-! ### Shuffles (R144) -/

theorem shuffleWord_runs {i : Instr} {u : Strand → Use} {a : Nat} {m : Strand → Nat → Option Nat} {s : State} {st : Strand}
    {g : Strand → Nat → List Word}
    (hexec : s.here? = some st → exec i s = shuffleWord i (u st) a m s) (hd : (u st).dests.Nodup)
    (hu : ∀ r ∈ regsT (isWide st.group.mode) a, r ∈ (u st).aRegs)
    (hg : ∀ l, g st l = wordsIn st (regsT (isWide st.group.mode) a) (match m st l with
      | some k => if k < st.width then k else l
      | none => l)) :
    WordsRun i (u st) (modeType st.group.mode).isSome g st s :=
  wordsRun_of (special := plain) (f := fun x l => (wordsIn x (regsT (isWide st.group.mode) a) (match m x l with
      | some k => if k < x.width then k else l
      | none => l), 0#5))
    (fun h => by
      rw [hexec h, shuffleWord, State.modeWord_here h] <;> rfl) hd (fun l => by rw [hg])
    (tagsTell_shuffle hu fun _ => rfl)

/-! ### BCST, GTOV and VTOG (R145, R149) -/

/-- The lane that BCST names, where it is one below W. -/
abbrev bcstLane (b : BitVec 6) (st : Strand) : Option Nat :=
  if (st.gr b.toNat).toNat < st.width then some (st.gr b.toNat).toNat else none

/-- The tags of BCST: uniform with the words of the lane named, or else those of a. -/
abbrev bcstTags (w : Bool) (a : BitVec 8) (b : BitVec 6) (st : Strand) : Option (List (Option VReg)) :=
  match bcstLane b st with
  | some k => some ((wordsIn st (regsT w a.toNat) k).map fun x => some (.uniform x))
  | none => some (tagsOf st (regsT w a.toNat))

theorem execBcst_here {s : State} {st : Strand} {d a : BitVec 8} {b : BitVec 6} (h : s.here? = some st) : execBcst d a b s =
    vec (.bcst d a b) { elemUse st.group.mode d.toNat a.toNat none false with gRead := [b.toNat] }
      (modeType st.group.mode).isSome (bcstTags (isWide st.group.mode) a b)
      (fun x l => (wordsIn x (regsT (isWide st.group.mode) a.toNat) ((bcstLane b x).getD l), 0#5)) s := by
  simp only [execBcst, State.modeWord_here h] <;> rfl

theorem tagsTell_bcst (u : Use) (w : Bool) (a : BitVec 8) (b : BitVec 6) (st : Strand) :
    TagsTell (vecTags u (bcstTags w a b) (fun x l => (wordsIn x (regsT w a.toNat) ((bcstLane b x).getD l), 0#5)) st)
      (fun x l => (wordsIn x (regsT w a.toNat) ((bcstLane b x).getD l), 0#5)) st := by
  cases hlane : bcstLane b st with
  | some k =>
    refine tagsTell_words (ws := wordsIn st (regsT w a.toNat) k) ?_ fun l => ?_
    · rw [bcstTags, hlane]
    · rw [hlane, Option.getD_some]
  | none =>
    refine tagsTell_tagsOf (rs := regsT w a.toNat) ?_ fun l => ?_
    · rw [bcstTags, hlane]
    · rw [hlane, Option.getD_none]

theorem bcst_wordsRun (s : State) (st : Strand) (d a : BitVec 8) (b : BitVec 6) :
    WordsRun (.bcst d a b) { elemUse st.group.mode d.toNat a.toNat none false with gRead := [b.toNat] }
      (modeType st.group.mode).isSome (fun x l => wordsIn x (regsT (isWide st.group.mode) a.toNat)
        (if (x.gr b.toNat).toNat < x.width then (x.gr b.toNat).toNat else l)) st s :=
  wordsRun_of execBcst_here (regsT_nodup _ _)
    (fun l => by
      simp only [bcstLane]
      split <;> rfl)
    (tagsTell_bcst _ _ a b st)

/-- The words of a group-wide value in lanes. -/
theorem valueWords_gr (w : Bool) (g : DWord) : valueWords w g.toNat = if w then [lo32 g, hi32 g] else [lo32 g] := by
  have hlow : BitVec.ofNat 32 g.toNat = lo32 g := rfl
  have hhigh : BitVec.ofNat 32 (g.toNat / 2 ^ 32) = hi32 g :=
    BitVec.eq_of_toNat_eq (by simp [hi32, Nat.shiftRight_eq_div_pow])
  rw [valueWords, hlow, hhigh]

/-- The registers of GTOV. -/
abbrev gtovUse (m : Word) (d : BitVec 8) (a : BitVec 6) : Use :=
  { dests := regsT (isWide m) d.toNat, even := if isWide m then [d.toNat] else [], gRead := [a.toNat] }

theorem gtov_wordsRun (s : State) (st : Strand) (d : BitVec 8) (a : BitVec 6) :
    WordsRun (.gtov d a) (gtovUse st.group.mode d a) (modeType st.group.mode).isSome
      (fun x _ => if isWide st.group.mode then [lo32 (x.gr a.toNat), hi32 (x.gr a.toNat)] else [lo32 (x.gr a.toNat)]) st s :=
  wordsRun_of
    (special := fun x => some ((valueWords (isWide st.group.mode) (x.gr a.toNat).toNat).map fun v => some (.uniform v)))
    (f := fun x _ => (valueWords (isWide st.group.mode) (x.gr a.toNat).toNat, 0#5))
    (fun h => by
      change execGtov d a s = _
      simp only [execGtov, State.modeWord_here h])
    (regsT_nodup _ _) (fun l => by rw [valueWords_gr]) (tagsTell_words rfl fun _ => rfl)

/-- The lanes of a mask stand in ascending order: the first is the lowest. -/
theorem headD_lanesOf_lowest {m : LaneMask} {k : Nat} (hk : k < (lanesOf m).headD 0) : m.getLsbD k = false := by
  by_contra h
  have hmem : k ∈ lanesOf m := mem_lanesOf.mpr (by simpa using h)
  have hsorted : (lanesOf m).Pairwise (· < ·) := List.Pairwise.filter _ List.pairwise_lt_range
  cases hls : lanesOf m with
  | nil => simp [hls] at hmem
  | cons l ls =>
    rw [hls] at hmem hsorted hk
    rcases List.mem_cons.mp hmem with rfl | hmem
    · exact Nat.lt_irrefl k hk
    · exact Nat.lt_asymm hk ((List.pairwise_cons.mp hsorted).1 k hmem)

/-- The registers of VTOG. -/
abbrev vtogUse (m : Word) (d : BitVec 6) (a : BitVec 8) : Use :=
  { aRegs := regsT (isWide m) a.toNat, even := if isWide m then [a.toNat] else [], gDest := [d.toNat] }

theorem execVtog_runs {s : State} {st : Strand} {d : BitVec 6} {a : BitVec 8}
    (r : Ready (.vtog d a) (vtogUse st.group.mode d a) { types := (modeType st.group.mode).isSome } st s) :
    execVtog d a s = .next (s.goesOn (vtogUse st.group.mode d a) st ((st.freeMarked (vtogUse st.group.mode d a)).setG d.toNat
      (BitVec.ofNat 64 (st.vval (isWide st.group.mode) a.toNat ((lanesOf st.active).headD 0))))) := by
  simp only [execVtog, State.modeWord_here r.here]
  exact issue_ready_onStrand r rfl

end Sys2Proof.Machine

section
open Sys2Proof Sys2Proof.Machine

/-- Settles O20: MOV, LDI and LDIH are vector computations without flags (`wordsRun_of`), whose tags tell their words;
SEL is `execSel_runs`, and CVT takes effect or traps as `execCvt_runs` and `execCvt_traps` say. -/
theorem vectorMoves : Obligations.VectorMoves := by
  unfold Obligations.VectorMoves
  refine ⟨fun s st d a imm => ⟨?mov, ?ldi, ?ldih⟩, fun s st d a x r hw _ hfull hx => execMov_full r hw hfull hx,
    fun s st d a b r hact => execSel_runs r hact, fun s st d a t dst hcode r _ =>
      ⟨execCvt_runs r hcode, execCvt_traps r hcode⟩⟩
  case mov => exact wordsRun_of execMov_here (regsT_nodup _ _) (fun _ => rfl) (tagsTell_tagsOf rfl fun _ => rfl)
  case ldi =>
    exact wordsRun_of (special := fun _ => some [some (.uniform (imm.signExtend 32))])
      (f := fun _ _ => ([imm.signExtend 32], 0#5)) (fun _ => rfl) (List.nodup_singleton _) (fun _ => rfl)
      (tagsTell_words (ws := [imm.signExtend 32]) rfl fun _ => rfl)
  case ldih =>
    exact wordsRun_of (special := plain) (f := fun x l => ([imm ++ (x.vlane d.toNat l).setWidth 16], 0#5)) (fun _ => rfl)
      (List.nodup_singleton _) (fun _ => rfl) (tagsTell_plain fun h l l' => by
        have hd : (st.uniform? d.toNat).isSome = true := Strand.uniform_of_sources h (by simp)
        rw [Strand.vlane_uniform hd l l'])

/-- Settles O24: the shuffles are `shuffleWord_runs`, BCST and GTOV `bcst_wordsRun` and `gtov_wordsRun`; VTOG takes a of the
first of the active lanes, which is the lowest (`headD_lanesOf_lowest`). -/
theorem laneMoves : Obligations.LaneMoves := by
  unfold Obligations.LaneMoves
  refine ⟨fun s st d a b n => ⟨?shfl, ?shfx, ?shup, ?shdn⟩, fun s st => ⟨fun d a b => bcst_wordsRun s st d a b,
    fun d a => gtov_wordsRun s st d a, fun d a r hact => ?vtog⟩⟩
  case shfl =>
    exact shuffleWord_runs (u := fun x => elemUse x.group.mode d.toNat a.toNat (some b.toNat) false)
      (m := fun x l => some (x.vlane b.toNat l).toNat)
      (fun h => by change execShfl d a b s = _; rw [execShfl, State.modeWord_here h])
      (regsT_nodup _ _) (fun _ hr => hr) fun _ => rfl
  case shfx =>
    exact shuffleWord_runs (u := fun x => elemUse x.group.mode d.toNat a.toNat none false)
      (m := fun _ l => some (l ^^^ n.toNat))
      (fun h => by change execShfx d a n s = _; rw [execShfx, State.modeWord_here h])
      (regsT_nodup _ _) (fun _ hr => hr) fun _ => rfl
  case shup =>
    exact shuffleWord_runs (u := fun x => elemUse x.group.mode d.toNat a.toNat none false)
      (m := fun _ l => if l < n.toNat then none else some (l - n.toNat))
      (fun h => by change execShup d a n s = _; rw [execShup, State.modeWord_here h])
      (regsT_nodup _ _) (fun _ hr => hr) fun _ => rfl
  case shdn =>
    exact shuffleWord_runs (u := fun x => elemUse x.group.mode d.toNat a.toNat none false)
      (m := fun _ l => some (l + n.toNat))
      (fun h => by change execShdn d a n s = _; rw [execShdn, State.modeWord_here h])
      (regsT_nodup _ _) (fun _ hr => hr) fun _ => rfl
  case vtog =>
    exact ⟨(lanesOf st.active).headD 0, mem_lanesOf.mp (headD_lanesOf_mem hact), fun k => headD_lanesOf_lowest,
      execVtog_runs r⟩

end

end

section
/-! SUPPORT. Words with no active lane, and words whose registers are not ready (R122, R126, R127). -/

namespace Sys2Proof.Machine

/-- Whatever its checks and its effect, the word i issues with the register use and the form that its strand's mode gives. -/
def IssuesAs (i : Instr) (u : Word → Use) (f : Word → Form) : Prop :=
  ∀ (s : State) (st : Strand), s.here? = some st →
    ∃ ch eff idle, exec i s = issue i (u st.group.mode) (f st.group.mode) ch eff idle s

/-- A word that reaches the check of its registers, and fails it, traps with the cause. -/
theorem issue_notReady {i : Instr} {u : Use} {f : Form} {ch : Strand → State → List (List LaneFault)} {eff : Effect}
    {idle : State → State} {s : State} {st : Strand} {k : Cause} (h : s.here? = some st)
    (hword : checkWord st i u f.types = none) (hact : f.always = true ∨ st.active ≠ 0#64)
    (hbound : ∀ g ∈ u.gRead, (s.core s.cur.1).boundTo st.lineage g = none) (hquiet : f.quiet = false)
    (hregs : checkRegs st u = some k) : issue i u f ch eff idle s = .next (s.trapWord st (faultIn (f.lanes st) k)) := by
  have hlanes : (!f.always && st.active == 0#64) = false := by rcases hact with h1 | h1 <;> simp [h1]
  have hwait : (if f.waits then s.deliverBound st.lineage u.gRead else some s) = some s := by
    rw [State.deliverBound_unbound s _ _ hbound, ite_self]
  simp [issue, h, hword, hlanes, hwait, hquiet, hregs]

theorem notReadyTraps_of_issues {i : Instr} {u : Word → Use} {f : Word → Form} (h : IssuesAs i u f)
    (hquiet : ∀ m, (f m).quiet = false) (needs : List Need) : NotReadyTraps i u f needs := by
  intro s st k m hhere hword hact hbound _ hregs
  obtain ⟨ch, eff, idle, hexec⟩ := h s st hhere
  rw [hexec]
  exact issue_notReady hhere hword hact hbound (hquiet m) hregs

/-- A word of the table-space or scratch group, once it has its room, issues with the use of its operation. -/
theorem notReadyTraps_op {i : Instr} (h : isReplayed i = true) :
    NotReadyTraps i (opUse i) (fun m => { types := opModeOk i m, ends := opEnds i m }) (opNeeds i) := by
  intro s st k m hhere hword hact hbound hroom hregs
  rw [(exec_isReplayed h).1, execOp, hhere]
  dsimp only
  rw [issueIn_room hhere hroom]
  exact issue_notReady hhere hword hact hbound rfl hregs

/-! ### The words that the statement names -/

theorem elemWord_issues {i : Instr} {types : ElemType → Bool} {el : Arith → ElemOp} {d a : Nat} {b : Option Nat}
    {readD : Bool} {special : Strand → Option (List (Option VReg))}
    (hexec : ∀ s, exec i s = elemWord i types el d a b readD special s) :
    IssuesAs i (fun m => elemUse m d a b readD) fun m => { types := typeIs m types } := fun s _ h =>
  ⟨_, _, _, (hexec s).trans (elemWord_here h)⟩

theorem sinCosWord_issues {i : Instr} {cos : Bool} {d a : BitVec 8} (hexec : ∀ s, exec i s = sinCosWord i cos d a s) :
    IssuesAs i (fun m => elemUse m d.toNat a.toNat none false) fun m => { types := typeIs m ElemType.isFlt } := fun s st h =>
  ⟨_, _, _, by rw [hexec, sinCosWord, State.modeWord_here h]⟩

theorem compareWord_issues {i : Instr} {types : ElemType → Bool} {rel : Rel} {d a b : Nat}
    (hexec : ∀ s, exec i s = compareWord i types rel d a b s) :
    IssuesAs i (fun m => { aRegs := regsT (isWide m) a, reads := regsT (isWide m) b, even := if isWide m then [a, b] else [] })
      fun m => { types := typeIs m types } := fun s st h =>
  ⟨_, _, _, by rw [hexec, compareWord, State.modeWord_here h]⟩

theorem groupWord_issues {i : Instr} {el : Arith → ElemOp} {clamps : Bool} {d a b : BitVec 6}
    (hexec : ∀ s, exec i s = groupWord i el clamps d a b s) :
    IssuesAs i (fun _ => { gRead := [a.toNat, b.toNat], gDest := [d.toNat] })
      fun m => { types := typeIs m typesGroup, always := true } := fun s st h =>
  ⟨_, _, _, by rw [hexec, groupWord, State.modeWord_here h]⟩

theorem mov_issues (d a : BitVec 8) : IssuesAs (.mov d a) (fun m => elemUse m d.toNat a.toNat none false)
    fun m => { types := (modeType m).isSome } := fun _ _ h => ⟨_, _, _, execMov_here h⟩

/-- A word without an effect in no lane is done: the strand's place is all that changes (R122). -/
theorem issue_idle_id {i : Instr} {u : Use} {f : Form} {ch : Strand → State → List (List LaneFault)} {eff : Effect}
    {s : State} {st : Strand} (h : s.here? = some st) (hk : checkWord st i u f.types = none) (ha : f.always = false)
    (hn : st.active = 0#64) : issue i u f ch eff id s = .next (s.setHere (st.retire .seq)) := by
  rw [issue_idle h hk ha hn, id, State.retireWord, State.modHere_eq h]

/-- A word of the table-space or scratch group with no active lane sets the flag that it owns, if it takes one. -/
theorem execOp_idle {i : Instr} {s : State} {st : Strand} (h : s.here? = some st)
    (hk : checkWord st i (opUse i st.group.mode) (opModeOk i st.group.mode) = none) (hn : st.active = 0#64) :
    execOp i s = .next (s.setHere ((if takesFlag i then st.setFlag st.ownFlag true else st).retire .seq)) := by
  rw [execOp, h]
  dsimp only
  rw [issueIn_room h (State.noRoom_idle _ _ _ rfl hn), issue_idle h hk rfl hn, State.retireWord]
  split
  · rw [State.modHere_eq h, State.modHere_setHere]
  · rw [State.modHere_eq h]

end Sys2Proof.Machine

section
open Sys2Proof Sys2Proof.Machine

/-- Settles O19: a word in no lane is `issue_idle_id` or `execOp_idle`; the checks of registers are `checkRegs_cases`, and
each word named issues with its use and form (`IssuesAs`), so that it traps as `notReadyTraps_of_issues` says. -/
theorem registersNotReady : Obligations.RegistersNotReady := by
  unfold Obligations.RegistersNotReady
  refine ⟨fun s st h hn => ⟨fun d a b hk => ?add, fun d a hk => ?mov, fun d a b hk => ?pand, fun d a off hk => ?sst,
    fun d a off hk => ?ld⟩, fun st u k h => ?causes, fun i hi => notReadyTraps_op hi, fun d a b i types hi => ?two,
    fun d a b i types hi => ?three, fun d a i types hi => ?one, fun d a => ?movTraps, fun d a b i types hi => ?compare,
    fun d a b i hi => ?group⟩
  case add => exact (elemWord_here h).trans (issue_idle_id h hk rfl hn)
  case mov => exact (execMov_here h).trans (issue_idle_id h hk rfl hn)
  case pand =>
    change execPand d a b s = _
    rw [execPand, predWord, issue_idle_id h hk rfl hn]
  case sst => exact execOp_idle h hk hn
  case ld => exact execOp_idle h hk hn
  case causes =>
    obtain ⟨he, hpend⟩ | ⟨hpend, ⟨he, hempty⟩ | ⟨he, -⟩⟩ := checkRegs_cases st u <;> rw [he] at h <;> cases h
    · exact ⟨.inl rfl, iff_of_true rfl hpend, fun h => nomatch h⟩
    · exact ⟨.inr rfl, iff_of_false (fun h => nomatch h) hpend, fun _ => hempty⟩
  case movTraps => exact notReadyTraps_of_issues (mov_issues d a) (fun _ => rfl) []
  case two =>
    rcases hi with ⟨rfl | rfl | rfl | rfl | rfl, rfl⟩ |
      ⟨rfl | rfl | rfl | rfl | rfl | rfl | rfl | rfl | rfl, rfl⟩ | ⟨rfl, rfl⟩ | ⟨rfl, rfl⟩
    all_goals exact notReadyTraps_of_issues (elemWord_issues fun _ => rfl) (fun _ => rfl) []
  case three =>
    rcases hi with ⟨rfl | rfl, rfl⟩ | ⟨rfl, rfl⟩
    all_goals exact notReadyTraps_of_issues (elemWord_issues fun _ => rfl) (fun _ => rfl) []
  case one =>
    rcases hi with ⟨rfl | rfl, rfl⟩ | ⟨rfl | rfl | rfl | rfl, rfl⟩ |
      ⟨rfl | rfl | rfl | rfl | rfl | rfl | rfl, rfl⟩ | ⟨rfl | rfl, rfl⟩
    case inr.inr.inl.inr.inr.inr.inr.inr.inl =>
      exact notReadyTraps_of_issues (sinCosWord_issues fun _ => rfl) (fun _ => rfl) []
    case inr.inr.inl.inr.inr.inr.inr.inr.inr =>
      exact notReadyTraps_of_issues (sinCosWord_issues fun _ => rfl) (fun _ => rfl) []
    all_goals exact notReadyTraps_of_issues (elemWord_issues fun _ => rfl) (fun _ => rfl) []
  case compare =>
    rcases hi with ⟨rfl | rfl | rfl | rfl, rfl⟩ | ⟨rfl, rfl⟩
    all_goals exact notReadyTraps_of_issues (compareWord_issues fun _ => rfl) (fun _ => rfl) []
  case group =>
    rcases hi with rfl | rfl | rfl | rfl | rfl | rfl | rfl | rfl | rfl
    all_goals exact notReadyTraps_of_issues (groupWord_issues fun _ => rfl) (fun _ => rfl) []

end

end

section
/-! SUPPORT. Group-wide words at issue (R153-R155): the values of the integer operations through words of their width. -/

namespace Sys2Proof.Machine

/-- The fields of I format stand at bits 31:24, 23:16 and 15:0 (R50). -/
theorem encI_eq_shifts (op d : BitVec 8) (imm : BitVec 16) :
    encI op d imm = op.setWidth 32 <<< 24 ||| d.setWidth 32 <<< 16 ||| imm.setWidth 32 := by
  calc encI op d imm
      = ((op ++ d) ++ imm).setWidth 32 := (BitVec.setWidth_eq _).symm
    _ = (op.setWidth 32 <<< 8 ||| d.setWidth 32) <<< 16 ||| imm.setWidth 32 := by
      simp only [BitVec.setWidth_append_eq_shiftLeft_setWidth_or]
    _ = _ := by simp only [BitVec.shiftLeft_or_distrib, ← BitVec.shiftLeft_add]

/-! ### Integers of a type as bit vectors of its width -/

theorem wrap_eq_toNat (t : ElemType) (v : Int) : t.wrap v = (BitVec.ofInt t.width v).toNat := by
  rw [ElemType.wrap, BitVec.toNat_ofInt]
  simp

/-- The reading of an element as an integer is one of its residues. -/
theorem ofInt_int_width (t : ElemType) (x : BitVec t.width) : BitVec.ofInt t.width (t.int x.toNat) = x := by
  have hnat : BitVec.ofInt t.width (x.toNat : Int) = x := by
    rw [BitVec.ofInt_natCast, BitVec.ofNat_toNat, BitVec.setWidth_eq]
  have hround : BitVec.ofInt t.width (2 ^ t.width : Int) = 0#t.width := by
    rw [show (2 ^ t.width : Int) = ((2 ^ t.width : Nat) : Int) by simp, BitVec.ofInt_natCast]
    exact BitVec.eq_of_toNat_eq (by rw [BitVec.toNat_ofNat, Nat.mod_self, BitVec.toNat_ofNat, Nat.zero_mod])
  rw [ElemType.int]
  split
  · rw [Int.sub_eq_add_neg, BitVec.ofInt_add, BitVec.ofInt_neg, hround, hnat]
    simp
  · exact hnat

/-- Sums, differences and products of integer elements without saturation are those modulo the width (R76, R132). -/
theorem elArith_width {t : ElemType} {w : Nat} (hw : t.width = w) (ht : t.fmt = none) (r : Rounding) (x y : BitVec w)
    (z : Nat) :
    (elAdd ⟨t, r, false⟩ x.toNat y.toNat z).1 = (x + y).toNat ∧ (elSub ⟨t, r, false⟩ x.toNat y.toNat z).1 = (x - y).toNat ∧
      (elMul ⟨t, r, false⟩ x.toNat y.toNat z).1 = (x * y).toNat := by
  subst hw
  have hdeliver (v : Int) : (⟨t, r, false⟩ : Arith).deliverInt v = (BitVec.ofInt t.width v).toNat := wrap_eq_toNat t v
  simp only [elAdd, elSub, elMul, ht, hdeliver, BitVec.ofInt_add, BitVec.ofInt_mul, Int.sub_eq_add_neg, BitVec.ofInt_neg,
    ofInt_int_width, BitVec.sub_eq_add_neg, and_self]

/-! ### Operands and results of group-wide words (R153) -/

theorem groupOperand_eq (t : ElemType) (x : DWord) : groupOperand t x = (x.setWidth t.width).toNat := by
  rw [groupOperand, BitVec.toNat_setWidth]

theorem groupResult_i32 (v : Word) : groupResult .i32 v.toNat = v.signExtend 64 := by
  have hv := v.isLt
  apply BitVec.eq_of_toNat_eq
  rw [BitVec.signExtend, BitVec.toNat_ofInt, BitVec.toInt_eq_toNat_cond, groupResult]
  by_cases h : 2 ^ 31 ≤ v.toNat
  · rw [if_pos ⟨rfl, h⟩, if_neg (by omega), BitVec.toNat_ofNat]
    omega
  · rw [if_neg fun hc => h hc.2, if_pos (by omega), BitVec.toNat_ofNat]
    omega

theorem groupResult_plain {t : ElemType} (ht : t ≠ .i32) (v : Nat) : groupResult t v = BitVec.ofNat 64 v :=
  if_neg fun h => ht h.1

/-- Under a type a group-wide word is the element operation on the operands' bits of its width. -/
theorem groupOp_eq (el : Arith → ElemOp) (clamps : Bool) {m : Word} {t : ElemType} (ht : modeType m = some t)
    (hs : modeSat m = false) (x y : DWord) : groupOp el clamps m x y =
      groupResult t (el ⟨t, modeRound m, false⟩ (x.setWidth t.width).toNat (y.setWidth t.width).toNat 0).1 := by
  simp only [groupOp, arithOf, ht, Option.getD_some, hs, ite_self, groupOperand_eq]

/-- The value that SAR reads is the signed one. -/
theorem sar_value (x : DWord) : (if 2 ^ (64 - 1) ≤ x.toNat then (x.toNat : Int) - 2 ^ 64 else (x.toNat : Int)) = x.toInt := by
  rw [BitVec.toInt_eq_toNat_cond]
  have := x.isLt
  split <;> split <;> omega

/-- The element operations of 64-bit types are those of 64-bit words. -/
theorem elBits_wide {t : ElemType} (hw : t.width = 64) (c : Rounding) (x y : DWord) (z : Nat) :
    (elAnd ⟨t, c, false⟩ x.toNat y.toNat z).1 = (x &&& y).toNat ∧ (elOr ⟨t, c, false⟩ x.toNat y.toNat z).1 = (x ||| y).toNat ∧
      (elXor ⟨t, c, false⟩ x.toNat y.toNat z).1 = (x ^^^ y).toNat ∧
      (elShl ⟨t, c, false⟩ x.toNat y.toNat z).1 = (x <<< (y.toNat % 64)).toNat ∧
      (elShr ⟨t, c, false⟩ x.toNat y.toNat z).1 = (x >>> (y.toNat % 64)).toNat ∧
      (elSar ⟨t, c, false⟩ x.toNat y.toNat z).1 = (x.sshiftRight (y.toNat % 64)).toNat := by
  refine ⟨(BitVec.toNat_and x y).symm, (BitVec.toNat_or x y).symm, (BitVec.toNat_xor x y).symm, ?_, ?_, ?_⟩
  · rw [BitVec.toNat_shiftLeft]
    simp only [elShl, hw]
  · rw [BitVec.toNat_ushiftRight]
    simp only [elShr, hw]
  · simp only [elSar, hw, sar_value, BitVec.sshiftRight, Int.shiftRight_eq_div_pow, BitVec.toNat_ofInt]
    push_cast
    rfl

/-- Under a 64-bit type the results are those of 64-bit words (R154). -/
theorem groupOp_wide {m : Word} {t : ElemType} (hm : modeType m = some t) (ht : t = .i64 ∨ t = .n64)
    (hs : modeSat m = false) (x y : DWord) :
    groupOp elAdd true m x y = x + y ∧ groupOp elSub true m x y = x - y ∧ groupOp elMul true m x y = x * y ∧
      groupOp elAnd true m x y = x &&& y ∧ groupOp elOr true m x y = x ||| y ∧ groupOp elXor true m x y = x ^^^ y ∧
      groupOp elShl false m x y = x <<< (y.toNat % 64) ∧ groupOp elShr false m x y = x >>> (y.toNat % 64) ∧
      groupOp elSar false m x y = x.sshiftRight (y.toNat % 64) := by
  have hw : t.width = 64 := by obtain rfl | rfl := ht <;> rfl
  have hf : t.fmt = none := by obtain rfl | rfl := ht <;> rfl
  have hplain : t ≠ .i32 := by obtain rfl | rfl := ht <;> decide
  obtain ⟨hadd, hsub, hmul⟩ := elArith_width hw hf (modeRound m) x y 0
  obtain ⟨hand, hor, hxor, hshl, hshr, hsar⟩ := elBits_wide hw (modeRound m) x y 0
  have hres (v : DWord) : groupResult t v.toNat = v := by
    rw [groupResult_plain hplain, BitVec.ofNat_toNat, BitVec.setWidth_eq]
  have hwhole (v : DWord) : (v.setWidth t.width).toNat = v.toNat := by rw [hw, BitVec.setWidth_eq]
  simp only [groupOp_eq _ _ hm hs, hwhole, hadd, hsub, hmul, hand, hor, hxor, hshl, hshr, hsar, hres, and_self]

/-- Under a 32-bit type sums, differences and products are those of 32-bit words, extended as the type says (R153). -/
theorem groupOp_word {m : Word} {t : ElemType} (hm : modeType m = some t) (ht : t = .i32 ∨ t = .n32)
    (hs : modeSat m = false) (x y : DWord) :
    groupOp elAdd true m x y = groupResult t (lo32 x + lo32 y).toNat ∧
      groupOp elSub true m x y = groupResult t (lo32 x - lo32 y).toNat ∧
      groupOp elMul true m x y = groupResult t (lo32 x * lo32 y).toNat := by
  have hw : t.width = 32 := by obtain rfl | rfl := ht <;> rfl
  have hf : t.fmt = none := by obtain rfl | rfl := ht <;> rfl
  obtain ⟨hadd, hsub, hmul⟩ := elArith_width hw hf (modeRound m) (lo32 x) (lo32 y) 0
  have hlow (v : DWord) : (v.setWidth t.width).toNat = (lo32 v).toNat := by rw [hw]; rfl
  simp only [groupOp_eq _ _ hm hs, hlow, hadd, hsub, hmul, and_self]

/-! ### The words (R154, R155) -/

theorem groupWord_runs {i : BitVec 6 → BitVec 6 → BitVec 6 → Instr} {el : Arith → ElemOp} {clamps : Bool}
    (hexec : ∀ d a b s, exec (i d a b) s = groupWord (i d a b) el clamps d a b s) : GroupRuns i (groupOp el clamps) := by
  intro s st d a b r
  rw [hexec, groupWord, State.modeWord_here r.here]
  exact issue_ready_onWholeStrand r (firstFault_noChecks _ _) rfl

/-- A word that sets 16 bits of g[D]. -/
theorem groupPart_runs {i : Instr} {lo : Nat} {d : BitVec 6} {imm : BitVec 16} {s : State} {st : Strand}
    (hexec : exec i s = groupPart i lo d imm s) (hlo : lo + 16 ≤ 64)
    (r : Ready i { gRead := [d.toNat], gDest := [d.toNat] } { always := true } st s) :
    ∃ v : DWord, exec i s = .next (s.goesOn { gRead := [d.toNat], gDest := [d.toNat] } st (st.setG d.toNat v)) ∧
      v.extractLsb' lo 16 = imm ∧ ∀ n, n < lo ∨ lo + 16 ≤ n → v.getLsbD n = (st.gr d.toNat).getLsbD n := by
  refine ⟨putSlice (st.gr d.toNat) lo 16 imm.toNat, ?runs, extractLsb'_putSlice_same _ lo 16 imm hlo, fun n hn => ?kept⟩
  case runs =>
    rw [hexec, groupPart]
    exact issue_ready_onWholeStrand r (firstFault_noChecks _ _) rfl
  case kept =>
    by_cases h64 : n < 64
    · rw [getLsbD_putSlice _ _ _ _ h64, if_neg (by omega)]
    · rw [BitVec.getLsbD_of_ge _ _ (by omega), BitVec.getLsbD_of_ge _ _ (by omega)]

/-- A write of q[n] leaves the others. -/
theorem Strand.qr_setQ_other (st : Strand) {k n : Nat} (b : Bool) (hn : n < 16) (h : n ≠ k) :
    (st.setQ k b).group.qr n = st.group.qr n := by
  rw [Group.qr, Group.qr, Strand.setQ, Group.setQ, getLsbD_putSlice _ _ _ _ hn, if_neg (by omega)]

theorem groupCompare_runs {i : Instr} {rel : Rel} {d : BitVec 4} {a b : BitVec 6} {s : State} {st : Strand}
    (hexec : exec i s = groupCompare i rel d a b s)
    (r : Ready i { gRead := [a.toNat, b.toNat] } { types := typeIs st.group.mode typesGroup, always := true } st s) :
    exec i s = .next (s.goesOn { gRead := [a.toNat, b.toNat] } st (st.setQ d.toNat
      (compareElem rel (arithOf st.group.mode).t (groupOperand (arithOf st.group.mode).t (st.gr a.toNat))
        (groupOperand (arithOf st.group.mode).t (st.gr b.toNat))).1)) := by
  rw [hexec, groupCompare, State.modeWord_here r.here]
  exact issue_ready_onWholeStrand r (firstFault_noChecks _ _) rfl

/-- The four immediate words issue with g[D] as their destination, whatever lanes are active. -/
theorem groupImm_issues {i : Instr} {d : BitVec 6} {imm : BitVec 16}
    (hi : i = .gldi d imm ∨ i = .gldih d imm ∨ i = .gldix d imm ∨ i = .gldiy d imm) :
    ∃ gs, (∀ g ∈ gs, g = d.toNat) ∧ (∀ st, checkWord st i { gRead := gs, gDest := [d.toNat] } true = none) ∧
      IssuesAs i (fun _ => { gRead := gs, gDest := [d.toNat] }) fun _ => { always := true } := by
  have hself : ∀ g ∈ [d.toNat], g = d.toNat := fun g hg => List.mem_singleton.mp hg
  obtain rfl | hpart := hi
  · exact ⟨[], fun g hg => (nomatch hg), fun _ => rfl, fun s st _ => ⟨_, _, _, show execGldi d imm s = _ from execGldi.eq_1 ..⟩⟩
  · refine ⟨[d.toNat], hself, fun st => ?word, fun s st _ => ?issues⟩
    case word => rcases hpart with rfl | rfl | rfl <;> rfl
    case issues =>
      obtain ⟨lo, hexec⟩ : ∃ lo, exec i s = groupPart i lo d imm s := by
        rcases hpart with rfl | rfl | rfl
        · exact ⟨16, rfl⟩
        · exact ⟨32, rfl⟩
        · exact ⟨48, rfl⟩
      exact ⟨_, _, _, by rw [hexec, groupPart]⟩

/-- A pending bit on g[D] is *unwaited read*, in the lanes of an instruction-wide trap. -/
theorem groupImm_pending {i : Instr} {d : BitVec 6} {imm : BitVec 16} {s : State} {st : Strand}
    (hi : i = .gldi d imm ∨ i = .gldih d imm ∨ i = .gldix d imm ∨ i = .gldiy d imm) (h : s.here? = some st)
    (hb : (s.core s.cur.1).boundTo st.lineage d.toNat = none) (hp : st.gpend.getLsbD d.toNat = true) :
    exec i s = .next (s.trapWord st (faultIn st.trapLanes .unwaitedRead)) := by
  obtain ⟨gs, hgs, hword, hissues⟩ := groupImm_issues hi
  obtain ⟨ch, eff, idle, hexec⟩ := hissues s st h
  rw [hexec]
  refine issue_notReady h (hword st) (.inl rfl) (fun g hg => by rw [hgs g hg, hb]) rfl ?_
  obtain ⟨he, -⟩ | ⟨hnone, -⟩ := checkRegs_cases st { gRead := gs, gDest := [d.toNat] }
  · exact he
  · exact absurd (.inr ⟨d.toNat, by simp, hp⟩) hnone

end Sys2Proof.Machine

section
open Sys2Proof Sys2Proof.Machine

/-- Settles O10: the words are `groupWord_runs`, `groupPart_runs` and `groupCompare_runs`; their values are those of words of
the type's width (`groupOp_wide`, `groupOp_word`). -/
theorem groupWords : Obligations.GroupWords := by
  unfold Obligations.GroupWords
  refine ⟨⟨⟨groupWord_runs fun _ _ _ _ => rfl, groupWord_runs fun _ _ _ _ => rfl, groupWord_runs fun _ _ _ _ => rfl,
    groupWord_runs fun _ _ _ _ => rfl, groupWord_runs fun _ _ _ _ => rfl, groupWord_runs fun _ _ _ _ => rfl,
    groupWord_runs fun _ _ _ _ => rfl, groupWord_runs fun _ _ _ _ => rfl, groupWord_runs fun _ _ _ _ => rfl,
    fun m x y hm hs => ?wide⟩, fun m x y hs => ⟨fun hm => ?i32, fun hm => ?n32⟩⟩,
    ⟨fun s st d a r => ?gmov, fun s st d imm r => ?gldi, fun s st d imm i lo hi r => ?parts⟩,
    ⟨fun d imm => ?words, fun s st d imm i hi h hb hp => groupImm_pending hi h hb hp, by decide, by decide⟩,
    fun s st d a b i rel hi r => ⟨?compares, fun n hn hne => Strand.qr_setQ_other st _ hn hne⟩⟩
  case wide => exact hm.elim (fun hm => groupOp_wide hm (.inl rfl) hs x y) fun hm => groupOp_wide hm (.inr rfl) hs x y
  case i32 =>
    obtain ⟨hadd, hsub, hmul⟩ := groupOp_word hm (.inl rfl) hs x y
    exact ⟨hadd.trans (groupResult_i32 _), hsub.trans (groupResult_i32 _), hmul.trans (groupResult_i32 _)⟩
  case n32 =>
    obtain ⟨hadd, hsub, hmul⟩ := groupOp_word hm (.inr rfl) hs x y
    have hres (v : Word) : groupResult .n32 v.toNat = v.setWidth 64 := by
      rw [groupResult_plain (by decide), BitVec.ofNat_toNat]
    exact ⟨hadd.trans (hres _), hsub.trans (hres _), hmul.trans (hres _)⟩
  case gmov => exact issue_ready_onWholeStrand r (firstFault_noChecks _ _) rfl
  case gldi => exact issue_ready_onWholeStrand r (firstFault_noChecks _ _) rfl
  case parts =>
    rcases hi with ⟨rfl, rfl⟩ | ⟨rfl, rfl⟩ | ⟨rfl, rfl⟩ <;> exact groupPart_runs rfl (by decide) r
  case compares =>
    rcases hi with ⟨rfl, rfl⟩ | ⟨rfl, rfl⟩ <;> exact groupCompare_runs rfl r
  case words => simp [encode, encI_eq_shifts]

end

end

section
/-! SUPPORT. SINPI and COSPI at issue, with the free choice of each element (R81, R143), and CMPRS and EXPND (R150-R152). -/

namespace Sys2Proof.Machine

/-! ### Values packed from elements -/

theorem packElems_cons_div (w x : Nat) (xs : List Nat) : packElems w (x :: xs) / 2 ^ w = packElems w xs := by
  rw [packElems, Nat.shiftLeft_eq, Nat.add_mul_div_right _ _ (Nat.two_pow_pos w), Nat.div_eq_of_lt (Nat.mod_lt _ (Nat.two_pow_pos w)),
    Nat.zero_add]

/-- Element j of a packed value is the one put there. -/
theorem elemAt_packElems (w : Nat) (xs : List Nat) (j : Nat) : elemAt w (packElems w xs) j = xs.getD j 0 % 2 ^ w := by
  induction xs generalizing j with
  | nil => simp [elemAt, packElems]
  | cons x xs ih =>
    cases j with
    | zero => simp [elemAt, packElems, Nat.shiftLeft_eq]
    | succ j =>
      have hshift : elemAt w (packElems w (x :: xs)) (j + 1) = elemAt w (packElems w xs) j := by
        rw [elemAt, elemAt, Nat.mul_add, Nat.mul_one, Nat.add_comm, Nat.shiftRight_add, Nat.shiftRight_eq_div_pow _ w,
          packElems_cons_div]
      rw [hshift, ih, List.getD_cons_succ]

theorem packElems_lt (w : Nat) (xs : List Nat) : packElems w xs < 2 ^ (w * xs.length) := by
  induction xs with
  | nil => simp [packElems]
  | cons x xs ih =>
    rw [List.length_cons, Nat.mul_add, Nat.mul_one, Nat.pow_add, ← Nat.div_lt_iff_lt_mul (Nat.two_pow_pos w), packElems_cons_div]
    exact ih

/-! ### SINPI and COSPI (R81, R143) -/

/-- The elements of a floating-point type fill a register. -/
theorem width_mul_count {t : ElemType} {f : Fmt} (h : t.fmt = some f) : t.width * t.count = 32 := by
  cases t <;> simp only [ElemType.fmt, reduceCtorEq] at h <;> rfl

theorem isWide_of_fmt {m : Word} {f : Fmt} (h : (arithOf m).t.fmt = some f) : isWide m = false := by
  unfold isWide typeIs
  cases hm : modeType m with
  | none => rfl
  | some t =>
    have ht : (arithOf m).t = t := by simp [arithOf, hm]
    rw [ht] at h
    cases t <;> simp only [ElemType.fmt, reduceCtorEq] at h <;> rfl

/-- Which of the two values element j of lane l takes: free, but the same in every lane where the operand is uniform. -/
abbrev sinCosPick (fresh a : Nat) (st : Strand) (l j : Nat) : Bool :=
  Config.faithfulUp (fresh + 8 * (if (st.uniform? a).isSome then 0 else l) + j)

/-- What SINPI or COSPI gives element j of lane l. -/
abbrev sinCosElem (f : Fmt) (cos : Bool) (fresh a : Nat) (st : Strand) (l j : Nat) : Nat × Flags :=
  f.sinCosPi (sinCosPick fresh a st l j) cos
    (f.value (elemAt (arithOf st.group.mode).t.width (st.vlane a l).toNat j))

section
variable {st : Strand} {f : Fmt} (hf : (arithOf st.group.mode).t.fmt = some f) (cos : Bool) (fresh a : Nat)
include hf

theorem sinCosLane_eq (l : Nat) : sinCosLane cos fresh a st l =
    ([BitVec.ofNat 32 (packElems (arithOf st.group.mode).t.width
        ((List.range (arithOf st.group.mode).t.count).map fun j => (sinCosElem f cos fresh a st l j).1))],
      orFlags ((List.range (arithOf st.group.mode).t.count).map fun j => (sinCosElem f cos fresh a st l j).2)) := by
  simp only [sinCosLane, hf, List.map_map, Function.comp_def]

/-- An element of the word that a lane receives. -/
theorem elemAt_sinCosLane (l : Nat) {j : Nat} (hj : j < (arithOf st.group.mode).t.count) :
    elemAt (arithOf st.group.mode).t.width ((sinCosLane cos fresh a st l).1.getD 0 0#32).toNat j =
      (sinCosElem f cos fresh a st l j).1 % 2 ^ (arithOf st.group.mode).t.width := by
  generalize hxs : (List.range (arithOf st.group.mode).t.count).map (fun j => (sinCosElem f cos fresh a st l j).1) = xs
  have hlen : (arithOf st.group.mode).t.width * xs.length = 32 := by
    rw [← hxs, List.length_map, List.length_range, width_mul_count hf]
  have hlt := packElems_lt (arithOf st.group.mode).t.width xs
  rw [hlen] at hlt
  rw [sinCosLane_eq hf, hxs, List.getD_cons_zero, BitVec.toNat_ofNat, Nat.mod_eq_of_lt hlt, elemAt_packElems, ← hxs]
  simp [hj]

theorem sinCosLane_uniform (h : (st.uniform? a).isSome = true) (l l' : Nat) :
    sinCosLane cos fresh a st l = sinCosLane cos fresh a st l' := by
  rw [sinCosLane_eq hf, sinCosLane_eq hf]
  simp only [sinCosElem, sinCosPick, h, if_true, Strand.vlane_uniform h l l']

end

theorem sinCosWord_runs {i : Instr} {cos : Bool} {d a : BitVec 8} {s : State} {st : Strand} {f : Fmt}
    (hexec : exec i s = sinCosWord i cos d a s) (hf : (arithOf st.group.mode).t.fmt = some f)
    (r : Ready i (elemUse st.group.mode d.toNat a.toNat none false) { types := typeIs st.group.mode ElemType.isFlt } st s)
    (hquiet : ∀ l ∈ lanesOf st.active, (sinCosLane cos s.fresh a.toNat st l).2 &&& st.group.aten = 0#5) :
    ∃ x : Strand, exec i s = .next (({ s with fresh := s.fresh + 512 } : State).goesOn
        (elemUse st.group.mode d.toNat a.toNat none false) st x) ∧
      (∀ l ∈ lanesOf st.active, x.vlane d.toNat l = (sinCosLane cos s.fresh a.toNat st l).1.getD 0 0#32) ∧
      (∀ n, ¬ st.touched (elemUse st.group.mode d.toNat a.toNat none false) n → x.vreg? n = st.vreg? n) ∧
      x.group = { st.group with astat := (st.group.astat |||
        orFlags ((lanesOf st.active).map fun l => (sinCosLane cos s.fresh a.toNat st l).2)) } ∧
      x = { st with v := x.v, group := x.group } := by
  have hquiet' : firstFault [arithFaults st (laneFlagsOf (sinCosLane cos s.fresh a.toNat) st)] = [] := by
    rw [firstFault_single, laneFlagsOf_eq, arithFaults_lanes_eq_nil.mpr hquiet]
  have hdest : (elemUse st.group.mode d.toNat a.toNat none false).dests[0]? = some d.toNat := by
    simp [elemUse, regsT, isWide_of_fmt hf]
  generalize hu : elemUse st.group.mode d.toNat a.toNat none false = u at *
  have htags : TagsTell (vecTags u plain (sinCosLane cos s.fresh a.toNat) st) (sinCosLane cos s.fresh a.toNat) st :=
    tagsTell_plain fun h l l' => by
      have ha : (st.uniform? a.toNat).isSome = true :=
        Strand.uniform_of_sources h (by simp [← hu, elemUse, regsT, isWide_of_fmt hf])
      rw [sinCosLane_uniform hf cos s.fresh a.toNat ha l l']
  have hgDest : u.gDest = [] := hu ▸ rfl
  refine ⟨vecEffect u plain (sinCosLane cos s.fresh a.toNat) st (st.freeMarked u), ?effect, fun l hl => ?written,
    fun n hn => ?other, ?group, ?frame⟩
  case effect =>
    rw [hexec, sinCosWord, State.modeWord_here r.here, hu, issue_ready r hquiet']
    have hbefore : s.before u { types := typeIs st.group.mode ElemType.isFlt } st = s.setHere (st.freeMarked u) := by
      simp [State.before, Form.ended, hgDest, Strand.ready]
    rw [hbefore]
    change Host.Outcome.next ((((s.setHere (st.freeMarked u)).spend).modHere _).retireWord .seq) = _
    rw [show (s.setHere (st.freeMarked u)).spend = s.spend.setHere (st.freeMarked u) from rfl, State.modHere_setHere,
      State.retireWord_setHere, State.goesOn, hgDest]
    rfl
  case written =>
    exact vecEffect_vlane _ (hu ▸ regsT_nodup _ _) htags (Strand.freeMarked_width st u) hdest hl
  case other =>
    obtain ⟨hdest, hfree⟩ := not_or.mp hn
    rw [vecEffect_vreg?_other _ hdest, Strand.freeMarked_vreg? st u hfree]
  case group => rw [vecEffect_group, Strand.freeMarked_group]
  case frame => exact Strand.withV_frame (Strand.freeMarked_eq st u) (vecEffect_frame _)

theorem sinCosWord_traps {i : Instr} {cos : Bool} {d a : BitVec 8} {s : State} {st : Strand}
    (hexec : exec i s = sinCosWord i cos d a s)
    (r : Ready i (elemUse st.group.mode d.toNat a.toNat none false) { types := typeIs st.group.mode ElemType.isFlt } st s)
    (hflag : ∃ l ∈ lanesOf st.active, (sinCosLane cos s.fresh a.toNat st l).2 &&& st.group.aten ≠ 0#5) :
    exec i s = .next (s.trapWord st (((lanesOf st.active).filter fun l =>
      (sinCosLane cos s.fresh a.toNat st l).2 &&& st.group.aten != 0#5).map fun l =>
        ⟨l, .arithmetic, (sinCosLane cos s.fresh a.toNat st l).2.toNat⟩)) := by
  rw [hexec, sinCosWord, State.modeWord_here r.here]
  exact issue_traps_arith r hflag

/-! ### CMPRS and EXPND (R150-R152) -/

/-- A control word is out of its limits where one of its fields is. -/
theorem ctlOk_eq_false (g : DWord) : ctlOk g = false ↔ 8 * (1 + slice g 1 0) < slice g 12 8 ∨ 1 < slice g 1 0 ∨
    slice g 7 2 ≠ 0 ∨ slice g 15 13 ≠ 0 ∨ slice g 63 17 ≠ 0 := by
  have hok : ctlOk g = true ↔ slice g 63 17 = 0 ∧ slice g 15 13 = 0 ∧ slice g 7 2 = 0 ∧ slice g 1 0 < 2 ∧
      slice g 12 8 ≤ ctlGroup g := by
    simp only [ctlOk, Bool.and_eq_true, beq_iff_eq, decide_eq_true_eq, and_assoc]
    rfl
  have hgroup : slice g 1 0 < 2 → ctlGroup g = 8 * (1 + slice g 1 0) := by
    unfold ctlGroup
    split <;> omega
  rw [← Bool.not_eq_true, hok]
  by_cases h : slice g 1 0 < 2
  · rw [hgroup h]
    omega
  · omega

/-- The register use of a compression word under a control word within its limits, or outside them. -/
abbrev compressUse (ok : Bool) (d a b : Nat) (u : Use) : Use :=
  { (if ok then u else { aRegs := regs a 1, dests := regs d 1 }) with gRead := [b], even := [] }

theorem blockRegs_narrow {t : ElemType} (h : t.is64 = false) (r n : Nat) : blockRegs t r n = regs r n := by
  rw [blockRegs, h]
  rfl

/-- A compression word whose control word is there, under a type that it takes. -/
theorem compressWord_here {i : Instr} {d a b : Nat} {u : ElemType → DWord → Use} {f : DWord → LaneFn} {s : State} {st : Strand}
    (h : s.here? = some st) (hact : st.active ≠ 0#64) (htype : typeIs st.group.mode typesCompress = true)
    (hbound : (s.core s.cur.1).boundTo st.lineage b = none) (hpend : st.gpend.getLsbD b = false) :
    compressWord i d a b u f s =
      issue i (compressUse (ctlOk (st.gr b)) d a b (u (arithOf st.group.mode).t (st.gr b)))
        { types := typeIs st.group.mode typesCompress }
        (fun st _ => [if ctlOk (st.gr b) then [] else faultIn st.active .illegalInstruction])
        (onStrand fun old x => vecEffect (compressUse (ctlOk (st.gr b)) d a b (u (arithOf st.group.mode).t (st.gr b))) plain
          (f (old.gr b)) old x) id s := by
  obtain ⟨t, ht, hok⟩ : ∃ t, modeType st.group.mode = some t ∧ typesCompress t = true := by
    simpa [typeIs, Option.any_eq_true] using htype
  have hnarrow : t.is64 = false := by
    simp only [typesCompress, Bool.and_eq_true, Bool.not_eq_true'] at hok
    exact hok.1
  have hactive : (st.active != 0#64) = true := by simpa using hact
  have huse : ({ (if !ctlOk (st.gr b) then { aRegs := blockRegs t a 1, dests := blockRegs t d 1 } else u t (st.gr b)) with
      gRead := [b], even := if t.is64 then [a, d] else [] } : Use) =
      compressUse (ctlOk (st.gr b)) d a b (u (arithOf st.group.mode).t (st.gr b)) := by
    rw [hnarrow, blockRegs_narrow hnarrow, blockRegs_narrow hnarrow]
    cases ctlOk (st.gr b) <;> simp [arithOf, ht]
  simp only [compressWord, h, hbound, hpend, ht, hactive, Option.getD_some, Option.isSome_some, Bool.not_false, Bool.or_self,
    Bool.true_and, huse]

/-- A word that passes its checks accepts the mode that it reads (R67). -/
theorem types_of_checkWord {st : Strand} {i : Instr} {u : Use} {t : Bool} (h : checkWord st i u t = none) : t = true := by
  by_contra ht
  simp only [Bool.not_eq_true] at ht
  simp only [checkWord, ht, Bool.not_false, if_true] at h
  revert h
  split
  · simp
  · split
    all_goals
      split
      · simp
      · split <;> simp

/-- A register named by a word whose registers are ready is not pending. -/
theorem not_pending_of_checkRegs {st : Strand} {u : Use} (h : checkRegs st u = none) {g : Nat} (hg : g ∈ u.gRead ++ u.gDest) :
    st.gpend.getLsbD g = false := by
  obtain ⟨he, -⟩ | ⟨hnone, -⟩ := checkRegs_cases st u
  · rw [h] at he
    cases he
  · by_contra hpend
    exact hnone (.inr ⟨g, hg, by simpa using hpend⟩)

/-- Outside its limits the word traps in the active lanes (R150). -/
theorem compressWord_outside {i : Instr} {d a b : Nat} {u : ElemType → DWord → Use} {f : DWord → LaneFn} {s : State}
    {st : Strand} (hexec : exec i s = compressWord i d a b u f s) (hact : st.active ≠ 0#64)
    (r : Ready i { aRegs := regs a 1, dests := regs d 1, gRead := [b] } { types := typeIs st.group.mode typesCompress } st s)
    (hctl : ctlOk (st.gr b) = false) :
    exec i s = .next (s.trapWord st (faultIn st.active .illegalInstruction)) := by
  have htype := types_of_checkWord r.check
  have hbound := r.unbound rfl b (by simp)
  have hpend : st.gpend.getLsbD b = false := by
    refine not_pending_of_checkRegs (r.regs.resolve_left (by simp)) (by simp)
  have hfault : firstFault [if ctlOk (st.gr b) then [] else faultIn st.active .illegalInstruction] =
      faultIn st.active .illegalInstruction := by
    rw [hctl, firstFault_single]
    rfl
  have r' : Ready i (compressUse false d a b (u (arithOf st.group.mode).t (st.gr b)))
    { types := typeIs st.group.mode typesCompress } st s := r
  rw [hexec, compressWord_here r.here hact htype hbound hpend, hctl, issue_trap r']
  · rw [hfault]
  · rw [hfault]
    exact faultIn_ne_nil hact _ _

/-- Within its limits it gives each lane the words of its function. -/
theorem compressWord_wordsRun {i : Instr} {d a b n : Nat} {u : ElemType → DWord → Use} {f : DWord → LaneFn} {s : State}
    {st : Strand} (v : Use) (hv : v = compressUse true d a b (u (arithOf st.group.mode).t (st.gr b)))
    (hdests : v.dests = regs d n)
    (hexec : exec i s = compressWord i d a b u f s) (hctl : ctlOk (st.gr b) = true)
    (hpend : st.gpend.getLsbD b = false) (htype : typeIs st.group.mode typesCompress = true)
    (hbound : (s.core s.cur.1).boundTo st.lineage b = none) (hflags : ∀ l, (f (st.gr b) st l).2 = 0#5)
    (huniform : st.sourcesUniform v = true → ∀ l l', f (st.gr b) st l = f (st.gr b) st l') :
    WordsRun i v true (fun x l => (f (st.gr b) x l).1) st s :=
  wordsRun_of_effect (special := plain) (f := f (st.gr b))
    (fun r hact => by
      have hcheck : firstFault [if ctlOk (st.gr b) then [] else faultIn st.active .illegalInstruction] = [] := by
        rw [hctl]
        rfl
      rw [hexec, compressWord_here r.here hact htype hbound hpend, hctl, htype, ← hv]
      exact issue_ready_onStrand r hcheck)
    (hdests ▸ regs_nodup d n) (fun l => Prod.ext rfl (hflags l))
    (tagsTell_plain fun h l l' => by rw [huniform h l l'])

/-- The elements of a block are the same in every lane where its registers are uniform. -/
theorem blockElems_uniform {t : ElemType} {st : Strand} {a n : Nat} (h : ∀ r ∈ regs a n, (st.uniform? r).isSome = true)
    (l l' : Nat) : blockElems t st a n l = blockElems t st a n l' := by
  unfold blockElems
  exact List.flatMap_congr fun r hr => by rw [Strand.vlane_uniform (h r hr) l l']

/-- The register blocks of CMPRS. -/
abbrev cmprsUse (d a : BitVec 8) (t : ElemType) (g : DWord) : Use :=
  { aRegs := blockRegs t a.toNat (ctlGroup g / t.count), dests := blockRegs t d.toNat (1 + packedRegs t g) }

/-- The register blocks of EXPND. -/
abbrev expndUse (d a : BitVec 8) (t : ElemType) (g : DWord) : Use :=
  { aRegs := blockRegs t a.toNat (1 + packedRegs t g), dests := blockRegs t d.toNat (ctlGroup g / t.count) }

theorem exec_cmprs (d a : BitVec 8) (b : BitVec 6) (s : State) : exec (.cmprs d a b) s =
    compressWord (.cmprs d a b) d.toNat a.toNat b.toNat (cmprsUse d a) (fun g => cmprsLane a.toNat g) s := rfl

theorem exec_expnd (d a : BitVec 8) (b : BitVec 6) (s : State) : exec (.expnd d a b) s =
    compressWord (.expnd d a b) d.toNat a.toNat b.toNat (expndUse d a) (fun g => expndLane a.toNat g) s := rfl

theorem cmprsLane_uniform {st : Strand} {a : Nat} {g : DWord}
    (h : ∀ r ∈ regs a (ctlGroup g / (arithOf st.group.mode).t.count), (st.uniform? r).isSome = true) (l l' : Nat) :
    cmprsLane a g st l = cmprsLane a g st l' := by
  simp only [cmprsLane, blockElems_uniform h l l']

/-- The registers after the first of a block are a block. -/
theorem regs_one_add (a n : Nat) : regs a (1 + n) = a :: regs (a + 1) n := by
  simp [regs, Nat.add_comm 1 n, List.range_succ_eq_map, Function.comp_def, Nat.add_assoc, Nat.add_comm 1]

theorem expndLane_uniform {st : Strand} {a : Nat} {g : DWord}
    (h : ∀ r ∈ regs a (1 + packedRegs (arithOf st.group.mode).t g), (st.uniform? r).isSome = true) (l l' : Nat) :
    expndLane a g st l = expndLane a g st l' := by
  rw [regs_one_add] at h
  simp only [expndLane, blockElems_uniform (fun r hr => h r (List.mem_cons_of_mem a hr)) l l',
    Strand.vlane_uniform (h a List.mem_cons_self) l l']

/-- The types of CMPRS and EXPND have no pairs. -/
theorem is64_of_typesCompress {m : Word} (h : typeIs m typesCompress = true) : (arithOf m).t.is64 = false := by
  obtain ⟨t, ht, hok⟩ : ∃ t, modeType m = some t ∧ typesCompress t = true := by
    simpa [typeIs, Option.any_eq_true] using h
  simp only [typesCompress, Bool.and_eq_true, Bool.not_eq_true'] at hok
  simpa [arithOf, ht] using hok.1

end Sys2Proof.Machine

section
open Sys2Proof Sys2Proof.Machine

/-- Settles O26: outside its limits (`ctlOk_eq_false`) a control word is `compressWord_outside`, within them
`compressWord_wordsRun`. -/
theorem compression : Obligations.Compression := by
  unfold Obligations.Compression
  refine ⟨fun s st d a b i hi r hact => ⟨ctlOk_eq_false _, fun hctl => ?outside⟩,
    fun s st d a b hctl hpend htype hbound => ?inside⟩
  case outside =>
    rcases hi with rfl | rfl
    · exact compressWord_outside (exec_cmprs d a b s) hact r hctl
    · exact compressWord_outside (exec_expnd d a b s) hact r hctl
  case inside =>
    have hnarrow := is64_of_typesCompress htype
    refine ⟨?cmprs, ?expnd⟩
    case cmprs =>
      refine compressWord_wordsRun _ ?_ rfl (exec_cmprs d a b s) hctl hpend htype hbound (fun _ => rfl) fun h l l' =>
        cmprsLane_uniform (fun r hr => Strand.uniform_of_sources h (List.mem_append_left _ hr)) l l'
      simp only [compressUse, cmprsUse, if_true, blockRegs_narrow hnarrow]
    case expnd =>
      refine compressWord_wordsRun _ ?_ rfl (exec_expnd d a b s) hctl hpend htype hbound (fun _ => rfl) fun h l l' =>
        expndLane_uniform (fun r hr => Strand.uniform_of_sources h (List.mem_append_left _ hr)) l l'
      simp only [compressUse, expndUse, if_true, blockRegs_narrow hnarrow]

end

end

section
/-! SUPPORT. A state in which the list of slots of a core names a slot twice, and EXIT there (R112, R248). -/

namespace Sys2Proof.Machine

/-- A strand of one launch that stands at EXIT, of no block. -/
def exitingStrand : Strand := { guestStrand false 0x0F000000#32 with member := false }

/-- A strand that waits in the gang latch on a list that names slot 0. -/
def latchedStrand : Strand := { exitingStrand with group := { exitingStrand.group with gang := 1#64 }, wait := .latch ⟨0#32, [], [], 0#32⟩ }

/-- Slot 1 of core 0 is listed twice: the second entry, which no lookup finds, waits in the gang latch on slot 0. -/
def doubledSlots : State :=
  (State.reset.modCore 0 fun k => { k with slots := [(0, exitingStrand), (1, exitingStrand), (1, latchedStrand)] })

/-- What a step leaves of the wait in a slot. -/
def waitAfter (r : Result) (c sl : Nat) : Option Wait :=
  match r with
  | .next t => (t.strand? c sl).map Strand.wait
  | _ => none

theorem exitingStrand_ready : Ready .exit {} { ends := true } exitingStrand doubledSlots :=
  ⟨by decide +kernel, by decide +kernel, .inr (by decide +kernel), fun _ _ hg => (nomatch hg), .inr (by decide +kernel),
    by decide +kernel⟩

/-- The break of the gang that the second entry waits in is delivered to the strand that a lookup finds in its slot. -/
theorem waitAfter_exit_doubledSlots : waitAfter (exec .exit doubledSlots) 0 1 = some .trapping := by decide +kernel

end Sys2Proof.Machine

section
open Sys2Proof Sys2Proof.Machine

/-- Refutes O14: the statement is of every state, also of one whose list of slots names a slot twice. In `doubledSlots` the
strand of slot 1 waits for nothing, and a second entry under its number, which no lookup finds, waits in the gang latch on the
strand that exits: the break is delivered to the slot, and the strand that stands there is not as it was. -/
theorem not_exitEndsTheActiveThreads : ¬ Obligations.ExitEndsTheActiveThreads := by
  unfold Obligations.ExitEndsTheActiveThreads
  intro h
  obtain ⟨t, hexec, -, -, -, -, hothers⟩ := h doubledSlots exitingStrand exitingStrand_ready (by decide +kernel)
  have hkept : t.strand? 0 1 = some exitingStrand :=
    hothers 0 1 exitingStrand (by decide) (by decide +kernel) (by decide +kernel) (by decide +kernel)
      fun i g hw => absurd hw (by simp [exitingStrand, guestStrand, Strand.dispatched])
  have hbroken := waitAfter_exit_doubledSlots
  rw [hexec, waitAfter, hkept] at hbroken
  exact absurd hbroken (by decide +kernel)

end

end

section
/-! SUPPORT. Operations of the table-space and scratch groups at issue: what the strand is while one is in flight, and the waits
for room (R45, R125, R167, R310). -/

namespace Sys2Proof

/-- One bit of a word replaced. -/
theorem getLsbD_putBit {w : Nat} (x : BitVec w) (r : Nat) (b : Bool) {i : Nat} (hi : i < w) :
    (putSlice x r 1 (if b then 1 else 0)).getLsbD i = if i = r then b else x.getLsbD i := by
  rw [getLsbD_putSlice _ _ _ _ hi]
  by_cases h : i = r
  · subst h
    cases b <;> simp
  · rw [if_neg (by omega), if_neg h]

theorem getLsbD_putBits {w : Nat} (rs : List Nat) (b : Bool) (x : BitVec w) {i : Nat} (hi : i < w) :
    (rs.foldl (fun m r => putSlice m r 1 (if b then 1 else 0)) x).getLsbD i = if i ∈ rs then b else x.getLsbD i := by
  induction rs generalizing x with
  | nil => rfl
  | cons r rs ih =>
    rw [List.foldl_cons, ih, getLsbD_putBit _ _ _ hi]
    by_cases hr : i = r <;> by_cases hrs : i ∈ rs <;> simp [hr, hrs]

end Sys2Proof

namespace Sys2Proof.Machine

/-! ### Pending bits and flags -/

theorem Strand.getLsbD_pendG_foldl (gs : List Nat) (b : Bool) (st : Strand) {g : Nat} (hg : g < 64) :
    (gs.foldl (fun st g => st.pendG g b) st).gpend.getLsbD g = if g ∈ gs then b else st.gpend.getLsbD g := by
  have hfold : (gs.foldl (fun st g => st.pendG g b) st).gpend =
      gs.foldl (fun m r => putSlice m r 1 (if b then 1 else 0)) st.gpend := by
    induction gs generalizing st with
    | nil => rfl
    | cons r gs ih => exact ih (st.pendG r b)
  rw [hfold, getLsbD_putBits _ _ _ hg]

/-- The pending bits of an operation's destinations change, and nothing else of the strand. -/
theorem pendOp_keep {β : Type} (p : Strand → β) (hv : ∀ st x, p { st with vpend := x } = p st)
    (hg : ∀ st x, p { st with gpend := x } = p st) (o : Op) (b : Bool) (st : Strand) : p (pendOp o b st) = p st :=
  (foldl_keep p _ (fun _ _ => hg _ _) _ _).trans (hv _ _)

theorem getLsbD_vpend_pendOp (o : Op) (b : Bool) (st : Strand) {r : Nat} (hr : r < 256) :
    (pendOp o b st).vpend.getLsbD r = if r ∈ (opUse o.instr o.mode).dests then b else st.vpend.getLsbD r := by
  have hkeep : (pendOp o b st).vpend = (st.pendV (opUse o.instr o.mode).dests b).vpend :=
    foldl_keep Strand.vpend (fun st g => st.pendG g b) (fun _ _ => rfl) _ _
  rw [hkeep]
  exact getLsbD_putBits _ _ _ hr

theorem getLsbD_gpend_pendOp (o : Op) (b : Bool) (st : Strand) {g : Nat} (hg : g < 64) :
    (pendOp o b st).gpend.getLsbD g = if g ∈ (opUse o.instr o.mode).gDest then b else st.gpend.getLsbD g :=
  Strand.getLsbD_pendG_foldl _ _ _ hg

/-- A completion flag changes, and nothing else of the strand. -/
theorem Strand.setFlag_keep {β : Type} (p : Strand → β) (h : ∀ st x, p { st with flags := x } = p st) (st : Strand) (f : Nat)
    (b : Bool) : p (st.setFlag f b) = p st := by
  unfold Strand.setFlag
  split
  · exact h _ _
  · rfl

theorem Strand.getLsbD_flags_setFlag (st : Strand) (f : Nat) (b : Bool) {i : Nat} (hi : i < 12) :
    (st.setFlag f b).flags.getLsbD i = if i = f then b else st.flags.getLsbD i := by
  unfold Strand.setFlag
  split
  · exact getLsbD_putBit _ _ _ hi
  · rw [if_neg (by omega)]

/-! ### An operation started -/

/-- A strand as its operation starts. -/
abbrev Strand.started (st : Strand) (o : Op) : Strand := (pendOp o true st).setFlag o.flag false

theorem Strand.started_keep {β : Type} (p : Strand → β) (hv : ∀ st x, p { st with vpend := x } = p st)
    (hg : ∀ st x, p { st with gpend := x } = p st) (hf : ∀ st x, p { st with flags := x } = p st) (st : Strand) (o : Op) :
    p (st.started o) = p st :=
  (Strand.setFlag_keep p hf _ _ _).trans (pendOp_keep p hv hg _ _ _)

/-- Marked registers are freed and an ended region is closed; nothing else of the strand changes. -/
theorem Strand.ready_keep {β : Type} (p : Strand → β) (hv : ∀ st x, p { st with v := x } = p st)
    (hr : ∀ st x, p { st with region := x } = p st) (st : Strand) (u : Use) (f : Form) : p (st.ready u f) = p st := by
  have hfree : p (st.freeMarked u) = p st := by
    rw [Strand.freeMarked_eq]
    exact hv _ _
  unfold Strand.ready
  split
  · exact (hr _ _).trans hfree
  · exact hfree

theorem Strand.vreg?_ready {st : Strand} {u : Use} (f : Form) {n : Nat} (h : ¬ (st.marked = true ∧ n ∈ u.aRegs)) :
    (st.ready u f).vreg? n = st.vreg? n := by
  refine Eq.trans ?_ (Strand.freeMarked_vreg? st u h)
  unfold Strand.ready
  split <;> rfl

/-- A strand whose operation has started has it in flight. -/
theorem Strand.inFlight_started (st : Strand) (f : Form) (o : Op) :
    st.inFlight ((st.ready (opUse o.instr o.mode) f).started o) o := by
  refine ⟨fun r hr => ?_, fun g hg => ?_, fun n hn => ?_, fun n hn => ?_, ?_, ?_, ?_, ?_⟩
  · rw [show ((st.ready (opUse o.instr o.mode) f).started o).vpend = (pendOp o true (st.ready _ f)).vpend from
        Strand.setFlag_keep Strand.vpend (fun _ _ => rfl) _ _ _, getLsbD_vpend_pendOp _ _ _ hr,
      Strand.ready_keep Strand.vpend (fun _ _ => rfl) (fun _ _ => rfl)]
    by_cases h : r ∈ (opUse o.instr o.mode).dests <;> simp [h, -BitVec.getLsbD_eq_getElem]
  · rw [show ((st.ready (opUse o.instr o.mode) f).started o).gpend = (pendOp o true (st.ready _ f)).gpend from
        Strand.setFlag_keep Strand.gpend (fun _ _ => rfl) _ _ _, getLsbD_gpend_pendOp _ _ _ hg,
      Strand.ready_keep Strand.gpend (fun _ _ => rfl) (fun _ _ => rfl)]
    by_cases h : g ∈ (opUse o.instr o.mode).gDest <;> simp [h, -BitVec.getLsbD_eq_getElem]
  · rw [Strand.getLsbD_flags_setFlag _ _ _ hn, pendOp_keep Strand.flags (fun _ _ => rfl) (fun _ _ => rfl),
      Strand.ready_keep Strand.flags (fun _ _ => rfl) (fun _ _ => rfl)]
    by_cases h : n = o.flag <;> simp [h, -BitVec.getLsbD_eq_getElem]
  · exact (Strand.started_keep (fun x => x.vreg? n) (fun _ _ => rfl) (fun _ _ => rfl) (fun _ _ => rfl) _ _).trans
      (Strand.vreg?_ready f hn)
  all_goals
    exact (Strand.started_keep _ (fun _ _ => rfl) (fun _ _ => rfl) (fun _ _ => rfl) _ _).trans
      (Strand.ready_keep _ (fun _ _ => rfl) (fun _ _ => rfl) _ _ _)

/-- The strand that issues, as its operation starts. -/
theorem State.startOp_here {s : State} {y : Strand} {o : Op} (h : s.here? = some y) (hslot : o.slot = s.cur.2) :
    (s.startOp s.cur.1 o).here? = some (y.started o) := by
  have hy : s.strand? s.cur.1 o.slot = some y := hslot ▸ h
  have hfind : ((s.modStrand s.cur.1 o.slot fun st => st.started o).core s.cur.1).slots =
      Assoc.set (s.core s.cur.1).slots o.slot (y.started o) := by
    simp [State.modStrand, hy, State.setStrand]
  rw [State.here?, State.strand?, State.startOp]
  simp only [State.modCore_cur, State.modStrand_cur, State.core_modCore]
  rw [hfind, ← hslot, Assoc.find_set_same]

/-- The state after a strand's place has moved on: nothing of its core but the strand changes. -/
theorem State.retireWord_core {β : Type} (p : CoreSt → β) (h : ∀ (k : CoreSt) x, p { k with slots := x } = p k) (s : State)
    (f : Flow) (c : Nat) : p ((s.retireWord f).core c) = p (s.core c) := by
  unfold State.retireWord State.modHere State.modStrand
  split
  · unfold State.setStrand
    by_cases hc : s.cur.1 = c
    · rw [← hc, State.core_modCore]
      exact h _ _
    · rw [State.core_modCore_other _ _ hc]
  · rfl

theorem State.retireWord_core_other (s : State) (f : Flow) {c : Nat} (hc : c ≠ s.cur.1) : (s.retireWord f).core c = s.core c := by
  unfold State.retireWord State.modHere State.modStrand
  split
  · exact State.core_modCore_other _ _ (Ne.symm hc)
  · rfl

/-- A started operation changes nothing of its core but the strand and the list of operations. -/
theorem State.startOp_core {β : Type} (p : CoreSt → β) (hs : ∀ (k : CoreSt) x, p { k with slots := x } = p k)
    (ho : ∀ (k : CoreSt) x, p { k with ops := x } = p k) (s : State) (c : Nat) (o : Op) :
    p ((s.startOp c o).core c) = p (s.core c) := by
  unfold State.startOp State.modStrand
  rw [State.core_modCore]
  refine (ho _ _).trans ?_
  split
  · rw [State.setStrand, State.core_modCore]
    exact hs _ _
  · rfl

/-! ### Bound registers delivered -/

/-- The delivery of the statuses of futures changes nothing of the core but its strands and futures. -/
theorem State.deliverBound_core {β : Type} (p : CoreSt → β) (hf : ∀ (k : CoreSt) fs, p { k with futures := fs } = p k)
    (hs : ∀ (k : CoreSt) x, p { k with slots := x } = p k) (lineage : DWord) (gs : List Nat) {s t : State}
    (h : s.deliverBound lineage gs = some t) : t.cur = s.cur ∧ p (t.core s.cur.1) = p (s.core s.cur.1) := by
  induction gs generalizing s with
  | nil =>
    obtain rfl : s = t := by simpa [State.deliverBound] using h
    exact ⟨rfl, rfl⟩
  | cons g gs ih =>
    rw [State.deliverBound] at h
    split at h
    · exact ih h
    · split at h
      · obtain ⟨hcur, hcore⟩ := ih h
        have hsame (x : Strand → Strand) (y : CoreSt → CoreSt) : ((s.modHere x).modCore s.cur.1 y).cur = s.cur := by simp
        rw [hsame] at hcur hcore
        have hhere (x : Strand → Strand) : p ((s.modHere x).core s.cur.1) = p (s.core s.cur.1) := by
          unfold State.modHere State.modStrand
          split
          · rw [State.setStrand, State.core_modCore]
            exact hs _ _
          · rfl
        refine ⟨hcur, hcore.trans ?_⟩
        rw [State.core_modCore]
        exact (CoreSt.unbind_keep p hf _ _ _).trans (hhere _)
      · cases h

/-! ### Room (R167, R310) -/

/-- A strand with 16 operations that are not performed has no room for another, and waits without being counted. -/
theorem State.noRoom_queueFull {s : State} {st : Strand} {u : Use} {f : Form} {i : Instr} (hact : st.active ≠ 0#64)
    (hfull : (s.core s.cur.1).queueFull s.cur.2 = true) : s.noRoom (opNeeds i) u f st = some id := by
  have hlanes : (!f.always && st.active == 0#64) = false := by simp [hact]
  have hneeds : ∃ ns, opNeeds i = .operation :: ns := by
    unfold opNeeds
    split
    · exact ⟨_, rfl⟩
    · exact ⟨_, rfl⟩
  obtain ⟨ns, hns⟩ := hneeds
  have hlack (t : State) (ht : t.cur = s.cur) (hq : (t.core s.cur.1).queueFull s.cur.2 = true) :
      (opNeeds i).findSome? ((t.unbindDests st.lineage u.gDest).lacks st) = some id := by
    have hkeep := State.unbindDests_core (fun k => k.queueFull s.cur.2) (fun _ _ => rfl) t st.lineage u.gDest
    rw [hns, List.findSome?_cons]
    simp only [State.lacks, State.unbindDests_cur, ht] at hkeep ⊢
    rw [hkeep, hq]
    rfl
  rw [State.noRoom, hlanes, if_neg (by simp)]
  split
  · next t ht =>
    obtain ⟨hcur, hcore⟩ := State.deliverBound_core (fun k => k.queueFull s.cur.2) (fun _ _ => rfl) (fun _ _ => rfl) _ _ ht
    exact hlack t hcur (hcore.trans hfull)
  · rw [hlack s rfl hfull]
    rfl

/-- A table operation that finds too few table request entries waits, and its wait is counted. -/
theorem State.noRoom_entries {s : State} {st : Strand} {u : Use} {f : Form} {i : Instr} (hact : st.active ≠ 0#64)
    (hi : isReplayed i = true) (hscratch : isScratchOp i = false) (hroom : (s.core s.cur.1).queueFull s.cur.2 = false)
    (hbound : ∀ g ∈ u.gRead, (s.core s.cur.1).boundTo st.lineage g = none)
    (hfew : 2048 < ((s.unbindDests st.lineage u.gDest).core s.cur.1).requests + popCount st.active) :
    s.noRoom (opNeeds i) u f st = some fun s => s.countStall 1 0x1042 := by
  have hq := State.unbindDests_core (fun k => k.queueFull s.cur.2) (fun _ _ => rfl) s st.lineage u.gDest
  rw [State.noRoom_unbound _ (.inr hact) (State.deliverBound_unbound s _ _ hbound)]
  simp only [opNeeds, isTableOp, hi, hscratch, Bool.not_false, Bool.and_self, if_true, List.findSome?_cons, State.lacks,
    State.unbindDests_cur]
  rw [hq, hroom, if_neg (by simp), if_pos hfew]

theorem execOp_waits {i : Instr} {s : State} {st : Strand} {stall : State → State} (h : s.here? = some st)
    (hroom : s.noRoom (opNeeds i) (opUse i st.group.mode) (opForm i st) st = some stall) : execOp i s = .next (stall s) := by
  rw [execOp, h]
  exact issueIn_waits h hroom

/-! ### Table operations at issue -/

/-- A word that starts an operation and goes on: the operation is the last of its core, and in flight for the strand. -/
theorem State.startOp_before (s : State) (st : Strand) (f : Form) {o : Op} (hslot : o.slot = s.cur.2) :
    ∃ x : Strand, (((s.before (opUse o.instr o.mode) f st).startOp s.cur.1 o).retireWord .seq).here? = some (x.retire .seq) ∧
      ((((s.before (opUse o.instr o.mode) f st).startOp s.cur.1 o).retireWord .seq).core s.cur.1).ops =
        (s.core s.cur.1).ops ++ [o] ∧ st.inFlight x o ∧
      (((s.before (opUse o.instr o.mode) f st).startOp s.cur.1 o).retireWord .seq).mem = s.mem ∧
      (∀ c, c ≠ s.cur.1 → (((s.before (opUse o.instr o.mode) f st).startOp s.cur.1 o).retireWord .seq).core c = s.core c) ∧
      ((((s.before (opUse o.instr o.mode) f st).startOp s.cur.1 o).retireWord .seq).core s.cur.1).scratch =
        (s.core s.cur.1).scratch := by
  generalize hb : s.before (opUse o.instr o.mode) f st = b
  have hbcur : b.cur = s.cur := hb ▸ State.before_cur _ _ _ _
  have hbhere : b.here? = some (st.ready (opUse o.instr o.mode) f) := hb ▸ State.before_here _ _ _ _
  have hbcore {β : Type} (p : CoreSt → β) (h : ∀ (k : CoreSt) fs, p { k with futures := fs } = p k)
      (hs : ∀ (k : CoreSt) x, p { k with slots := x } = p k) : p (b.core s.cur.1) = p (s.core s.cur.1) :=
    hb ▸ State.before_core p h hs s _ _ st
  have hhere := State.startOp_here (o := o) hbhere (hslot.trans (by rw [hbcur]))
  rw [hbcur] at hhere
  refine ⟨_, ?here, ?ops, Strand.inFlight_started st f o, ?mem, fun c hc => ?other, ?scratch⟩
  case here => rw [State.retireWord, State.modHere_eq hhere, State.here?_setHere]
  case ops =>
    rw [State.retireWord_core CoreSt.ops (fun _ _ => rfl), State.startOp_ops, hbcore CoreSt.ops (fun _ _ => rfl) fun _ _ => rfl]
  case mem => simp [← hb]
  case other =>
    rw [State.retireWord_core_other _ _ (by simpa [hbcur] using hc), State.startOp_other _ _ _ (Ne.symm hc), ← hb,
      State.before_core_other _ _ _ _ hc]
  case scratch =>
    rw [State.retireWord_core CoreSt.scratch (fun _ _ => rfl), State.startOp_core CoreSt.scratch (fun _ _ => rfl) fun _ _ => rfl,
      hbcore CoreSt.scratch (fun _ _ => rfl) fun _ _ => rfl]

/-- A ready table operation joins the operations of its core. -/
theorem execOp_table {i : Instr} {s : State} {st : Strand} (hscratch : isScratchOp i = false) (r : OpReady i st s) :
    ∃ (t : State) (x : Strand), execOp i s = .next t ∧ t.here? = some (x.retire .seq) ∧
      (t.core s.cur.1).ops = (s.core s.cur.1).ops ++ [s.newOpHere i st] ∧ st.inFlight x (s.newOpHere i st) ∧
      t.mem = s.mem ∧ (∀ c, c ≠ s.cur.1 → t.core c = s.core c) ∧ (t.core s.cur.1).scratch = (s.core s.cur.1).scratch := by
  obtain ⟨x, hx⟩ := State.startOp_before s st (opForm i st) (o := s.newOpHere i st) rfl
  refine ⟨_, x, ?_, hx⟩
  rw [execOp_ready r, State.performScratchNow_table _ _ _ hscratch]
  rfl

end Sys2Proof.Machine

section
open Sys2Proof Sys2Proof.Machine

/-- Settles O27: a ready table operation is `execOp_table`; without room the word waits, as `State.noRoom_queueFull` and
`State.noRoom_entries` say. -/
theorem tableOperationsIssue : Obligations.TableOperationsIssue := by
  unfold Obligations.TableOperationsIssue
  refine ⟨fun s st i hi hscratch r => ?_, fun s st i hi h hact => ⟨fun hfull => ?_, fun hroom hscratch hbound hfew => ?_⟩⟩
  · rw [(exec_isReplayed hi).1]
    exact execOp_table hscratch r
  · rw [(exec_isReplayed hi).1]
    exact execOp_waits h (State.noRoom_queueFull hact hfull)
  · rw [(exec_isReplayed hi).1]
    exact execOp_waits h (State.noRoom_entries hact hi hscratch hroom hbound hfew)

end

end

section
/-! SUPPORT. DIV at issue, and the return of an operation that is complete (R45, R79, R125, R128, R134). -/

namespace Sys2Proof.Machine

/-! ### Registers written from the results of an operation -/

theorem opUse_dests_nodup (i : Instr) (m : Word) : (opUse i m).dests.Nodup := by
  cases i <;> simp [opUse, regs_nodup, regsT_nodup]

/-- The tags of an operation's results: with uniform sources, uniform with the words of the first lane written. -/
def resultTags (o : Op) (st : Strand) : List (Option VReg) :=
  if o.uniform then (List.range (opUse o.instr o.mode).dests.length).map fun k =>
    some (.uniform ((Assoc.get [] o.results ((lanesOf (o.written &&& st.live)).headD 0)).getD k 0#32))
  else []

theorem foldl_zipIdx_congr {σ : Type} (f g : σ → Nat × Nat → σ) (ds : List Nat)
    (h : ∀ x d k, k < ds.length → f x (d, k) = g x (d, k)) (x : σ) : ds.zipIdx.foldl f x = ds.zipIdx.foldl g x := by
  induction ds using List.reverseRecOn with
  | nil => rfl
  | append_singleton ds d ih =>
    have hinit := ih fun x d k hk => h x d k (by simp; omega)
    simp only [List.zipIdx_append, List.foldl_append, List.zipIdx_singleton, List.foldl_cons, List.foldl_nil, Nat.zero_add]
    rw [hinit]
    exact h _ _ _ (by simp)

theorem writeResults_eq {o : Op} {st : Strand} (h : o.written &&& st.live ≠ 0#64) : writeResults o st =
    writeAll (o.written &&& st.live) o.results (resultTags o st) (opUse o.instr o.mode).dests st := by
  have hact : ¬ (o.written &&& st.live == 0#64) = true := by simpa using h
  simp only [writeResults, hact, writeAll]
  refine foldl_zipIdx_congr _ _ _ (fun x d k hk => ?_) st
  congr 1
  unfold resultTags
  cases o.uniform
  · simp
  · simp [hk]

theorem writeResults_frame (o : Op) (st : Strand) : writeResults o st = { st with v := (writeResults o st).v } := by
  by_cases h : o.written &&& st.live = 0#64
  · simp [writeResults, h]
  · rw [writeResults_eq h]
    exact writeAll_eq _ _ _ _ _

theorem vreg?_writeResults_other (o : Op) (st : Strand) {r : Nat} (hr : r ∉ (opUse o.instr o.mode).dests) :
    (writeResults o st).vreg? r = st.vreg? r := by
  by_cases h : o.written &&& st.live = 0#64
  · simp [writeResults, h]
  · rw [writeResults_eq h]
    exact vreg?_writeAll_other _ _ _ _ _ hr

/-- A live lane reads its word of the results, or as before where it has none. -/
theorem vlane_writeResults {o : Op} {st : Strand}
    (huniform : o.uniform = true → ∀ l l', o.written.getLsbD l = true → o.written.getLsbD l' = true →
      Assoc.get [] o.results l = Assoc.get [] o.results l') {k r l : Nat} (hk : (opUse o.instr o.mode).dests[k]? = some r)
    (hlive : st.live.getLsbD l = true) : (writeResults o st).vlane r l =
      if o.written.getLsbD l then (Assoc.get [] o.results l).getD k 0#32 else st.vlane r l := by
  have hmask : (o.written &&& st.live).getLsbD l = o.written.getLsbD l := by
    rw [BitVec.getLsbD_and, hlive, Bool.and_true]
  by_cases h : o.written &&& st.live = 0#64
  · rw [h] at hmask
    have hnot : o.written.getLsbD l = false := by rw [← hmask]; simp
    rw [hnot]
    simp [writeResults, h]
  · rw [writeResults_eq h]
    by_cases hw : o.written.getLsbD l = true
    · rw [if_pos hw]
      refine vlane_writeAll_written _ _ _ (opUse_dests_nodup _ _) st (Strand.lt_width_of_live hlive) (hmask.trans hw) hk
        fun t ht => ?_
      unfold resultTags at ht
      split at ht
      case isFalse => simp at ht
      case isTrue hu =>
        have hlt : k < (opUse o.instr o.mode).dests.length := (List.getElem?_eq_some_iff.mp hk).1
        have hhead := mem_lanesOf.mp (headD_lanesOf_mem h)
        rw [BitVec.getLsbD_and, Bool.and_eq_true] at hhead
        simp only [List.getD_eq_getElem?_getD, List.getElem?_map, List.getElem?_range hlt, Option.map_some, Option.getD_some,
          Option.some.injEq] at ht
        rw [← ht, VReg.lane, huniform hu _ l hhead.1 hw, List.getD_eq_getElem?_getD]
    · rw [if_neg hw]
      exact vlane_writeAll_kept _ _ _ _ _ hlive (hmask.trans (by simpa using hw)) r

/-! ### The return of an operation (R45, R125) -/

/-- A strand with the results of an operation: its registers, g[B] of LDROW, and the flags of DIV. -/
def Strand.delivered (st : Strand) (o : Op) : Strand :=
  let x := match (opUse o.instr o.mode).gDest, o.gresult with
    | [g], some v => (writeResults o st).setG g v
    | _, _ => writeResults o st
  { x with group := { x.group with astat := x.group.astat ||| o.flags } }

theorem State.deliver_eq {s : State} {c : Nat} {o : Op} {st : Strand} (h : s.strand? c o.slot = some st) :
    s.deliver c o = s.setStrand c o.slot (st.delivered o) := by
  simp only [State.deliver, h, Strand.delivered] <;> rfl

theorem Strand.delivered_frame (st : Strand) (o : Op) : st.delivered o = { st with
    v := (writeResults o st).v
    group := { st.group with g := (st.delivered o).group.g, astat := st.group.astat ||| o.flags } } := by
  unfold Strand.delivered
  rw [writeResults_frame]
  split <;> rfl

theorem Strand.delivered_gr_other (st : Strand) (o : Op) {g : Nat} (hg : g ∉ (opUse o.instr o.mode).gDest) :
    (st.delivered o).gr g = st.gr g := by
  unfold Strand.delivered
  rw [writeResults_frame]
  split
  · next d v hdest hv =>
    rw [hdest, List.mem_singleton] at hg
    exact Assoc.get_put_other _ _ _ (Ne.symm hg)
  · rfl

theorem Strand.delivered_gr_same (st : Strand) {o : Op} {g : Nat} {v : DWord} (hg : (opUse o.instr o.mode).gDest = [g])
    (hv : o.gresult = some v) : (st.delivered o).gr g = v := by
  unfold Strand.delivered
  rw [hg, hv]
  exact Assoc.get_put_same _ _ _ _

/-- The strand that an operation returned to: nothing of it pends, and its flag is set. -/
abbrev Strand.returned (st : Strand) (o : Op) : Strand := (pendOp o false (st.delivered o)).setFlag o.flag true

theorem Strand.returned_keep {β : Type} (p : Strand → β) (hv : ∀ st x, p { st with vpend := x } = p st)
    (hg : ∀ st x, p { st with gpend := x } = p st) (hf : ∀ st x, p { st with flags := x } = p st) (st : Strand) (o : Op) :
    p (st.returned o) = p (st.delivered o) :=
  (Strand.setFlag_keep p hf _ _ _).trans (pendOp_keep p hv hg _ _ _)

theorem Strand.returnedOp_returned {st : Strand} {o : Op}
    (huniform : o.uniform = true → ∀ l l', o.written.getLsbD l = true → o.written.getLsbD l' = true →
      Assoc.get [] o.results l = Assoc.get [] o.results l') : st.returnedOp (st.returned o) o := by
  have hvreg (r : Nat) : (st.returned o).vreg? r = (writeResults o st).vreg? r :=
    (Strand.returned_keep (fun x => x.vreg? r) (fun _ _ => rfl) (fun _ _ => rfl) (fun _ _ => rfl) st o).trans
      (by rw [Strand.delivered_frame]; rfl)
  have hgroup : (st.returned o).group = (st.delivered o).group :=
    Strand.returned_keep Strand.group (fun _ _ => rfl) (fun _ _ => rfl) (fun _ _ => rfl) st o
  have hgr (g : Nat) : (st.returned o).gr g = (st.delivered o).gr g := by rw [Strand.gr, hgroup, Strand.gr]
  refine ⟨fun k r l hk _ hlive => ?words, fun r hr => ?others, fun r hr => ?vpend, fun f hf => ?flags, fun g hg => ?gkeep,
    fun g v hg hv => ?gdest, ?preds, ?group⟩
  case words => rw [Strand.vlane_of_vreg? (hvreg r) l, vlane_writeResults huniform hk hlive]
  case others => rw [hvreg, vreg?_writeResults_other _ _ hr]
  case vpend =>
    have hkeep : (st.returned o).vpend = (pendOp o false (st.delivered o)).vpend :=
      Strand.setFlag_keep Strand.vpend (fun _ _ => rfl) _ _ _
    have hsame : (st.delivered o).vpend = st.vpend := by rw [Strand.delivered_frame]
    rw [hkeep, getLsbD_vpend_pendOp _ _ _ hr, hsame]
    by_cases h : r ∈ (opUse o.instr o.mode).dests <;> simp [h, -BitVec.getLsbD_eq_getElem]
  case flags =>
    have hsame : (st.delivered o).flags = st.flags := by rw [Strand.delivered_frame]
    rw [Strand.getLsbD_flags_setFlag _ _ _ hf, pendOp_keep Strand.flags (fun _ _ => rfl) (fun _ _ => rfl), hsame]
    by_cases h : f = o.flag <;> simp [h, -BitVec.getLsbD_eq_getElem]
  case gkeep => rw [hgr, Strand.delivered_gr_other _ _ hg]
  case gdest => rw [hgr, Strand.delivered_gr_same _ hg hv]
  case preds =>
    refine (Strand.returned_keep Strand.p (fun _ _ => rfl) (fun _ _ => rfl) (fun _ _ => rfl) st o).trans ?_
    rw [Strand.delivered_frame]
  case group =>
    rw [hgroup]
    exact congrArg Strand.group (Strand.delivered_frame st o)

/-! ### The state after a return -/

/-- What is sent over the links changes the links alone. -/
theorem State.sendTo_keep {β : Type} (p : State → β) (h : ∀ (s : State) x, p { s with links := x } = p s) (s : State)
    (pkg : Nat) (b : FlitBody) : p (s.sendTo pkg b) = p s := by
  have hflit (s : State) (n : Nat) (b : FlitBody) : p (s.sendFlit n b) = p s := by
    simp only [State.sendFlit]
    split
    · exact (h _ _).trans (h _ _)
    · rfl
  unfold State.sendTo
  split
  · rfl
  · exact foldl_keep p (fun s x => s.sendFlit _ x) (fun s x => hflit s _ x) _ _

theorem State.reportExits_keep {β : Type} (p : State → β) (h : ∀ (s : State) x, p { s with links := x } = p s) (s : State) :
    p s.reportExits = p s :=
  (foldl_keep p _ (fun s _ => State.sendTo_keep p h s _ _) _ _).trans (h _ _)

/-- An operation that is done is what its list holds of it, whether or not its strand is gone. -/
theorem Op.abandoned_done {o : Op} (hf : o.faults = []) : o.abandoned = o := by
  cases o
  simp only at hf
  simp [Op.abandoned, hf]

theorem State.settleOp_done {s : State} {c n : Nat} {o : Op} (ht : o.todo = 0#64) (hf : o.faults = []) :
    s.settleOp c n o = (s.finishOp c n o).reportExits := by
  simp [State.settleOp, Op.abandoned_done hf, ht, hf]

section
variable {s : State} {c n : Nat} {o : Op}

theorem State.finishOp_here {st : Strand} (hgen : (s.core c).gen o.slot = o.gen) (h : s.strand? c o.slot = some st) :
    s.finishOp c n o = (s.modCore c fun k => k.removeOp n).setStrand c o.slot (st.returned o) := by
  have hcore : ((s.modCore c fun k => k.removeOp n).core c).gen o.slot = o.gen := by
    rw [State.core_modCore]
    exact hgen
  have hst : (s.modCore c fun k => k.removeOp n).strand? c o.slot = some st := by
    rw [State.strand?, State.core_modCore]
    exact h
  have hdelivered := State.deliver_eq (o := o) hst
  unfold State.finishOp
  simp only [hcore, if_true, hdelivered, State.modStrand, State.strand?_setStrand, State.setStrand_setStrand]

theorem State.finishOp_empty (hgen : (s.core c).gen o.slot = o.gen) (h : s.strand? c o.slot = none) :
    s.finishOp c n o = s.modCore c fun k => k.removeOp n := by
  have hcore : ((s.modCore c fun k => k.removeOp n).core c).gen o.slot = o.gen := by
    rw [State.core_modCore]
    exact hgen
  have hst : (s.modCore c fun k => k.removeOp n).strand? c o.slot = none := by
    rw [State.strand?, State.core_modCore]
    exact h
  unfold State.finishOp
  simp only [hcore, if_true, State.deliver, hst, State.modStrand]

theorem State.finishOp_gone (hgen : (s.core c).gen o.slot ≠ o.gen) :
    s.finishOp c n o = if o.returns then (s.modCore c fun k => k.removeOp n).count c 0x0002
      else s.modCore c fun k => k.removeOp n := by
  have hcore : ((s.modCore c fun k => k.removeOp n).core c).gen o.slot ≠ o.gen := by
    rw [State.core_modCore]
    exact hgen
  simp only [State.finishOp, hcore, if_false]

/-- The operation leaves the list of its core, whatever becomes of its results. -/
theorem State.finishOp_ops : ((s.finishOp c n o).core c).ops = ((s.core c).removeOp n).ops := by
  by_cases hgen : (s.core c).gen o.slot = o.gen
  · cases h : s.strand? c o.slot with
    | none => rw [State.finishOp_empty hgen h, State.core_modCore]
    | some st =>
      rw [State.finishOp_here hgen h, State.setStrand, State.core_modCore, State.core_modCore]
  · rw [State.finishOp_gone hgen]
    split
    · rw [State.count, State.core_modCore, State.core_modCore]
      rfl
    · rw [State.core_modCore]

theorem State.finishOp_mem : (s.finishOp c n o).mem = s.mem := by
  by_cases hgen : (s.core c).gen o.slot = o.gen
  · cases h : s.strand? c o.slot with
    | none => rw [State.finishOp_empty hgen h, State.modCore_mem]
    | some st => rw [State.finishOp_here hgen h, State.setStrand_mem, State.modCore_mem]
  · rw [State.finishOp_gone hgen]
    split <;> simp

/-- What the return of an operation is to its core: the statement's own words. -/
def State.Returns (s t : State) (c n : Nat) (o : Op) : Prop :=
  (t.core c).ops = ((s.core c).removeOp n).ops ∧ t.mem = s.mem ∧
    ((s.core c).gen o.slot = o.gen → ∀ st, s.strand? c o.slot = some st →
      ∃ x, t.strand? c o.slot = some x ∧ st.returnedOp x o) ∧
    ((s.core c).gen o.slot ≠ o.gen → (opUse o.instr o.mode).dests ≠ [] →
      (t.core c).counter 0x0002 = (s.core c).counter 0x0002 + 1#64 ∧ (t.core c).slots = (s.core c).slots)

theorem State.returns_finishOp
    (huniform : o.uniform = true → ∀ l l', o.written.getLsbD l = true → o.written.getLsbD l' = true →
      Assoc.get [] o.results l = Assoc.get [] o.results l') : s.Returns (s.finishOp c n o) c n o := by
  refine ⟨State.finishOp_ops, State.finishOp_mem, fun hgen st h => ⟨st.returned o, ?_, Strand.returnedOp_returned huniform⟩,
    fun hgen hdests => ?_⟩
  · rw [State.finishOp_here hgen h, State.strand?_setStrand]
  · have hreturns : o.returns = true := by simpa [Op.returns] using hdests
    rw [State.finishOp_gone hgen, hreturns, if_pos rfl, State.count, State.core_modCore, State.core_modCore]
    exact ⟨Assoc.get_put_same _ _ _ _, rfl⟩

theorem State.returns_reportExits {t : State} (h : s.Returns t c n o) : s.Returns t.reportExits c n o := by
  have hcore (k : Nat) : t.reportExits.core k = t.core k := State.reportExits_keep (fun s => s.core k) (fun _ _ => rfl) t
  have hmem : t.reportExits.mem = t.mem := State.reportExits_keep State.mem (fun _ _ => rfl) t
  simpa only [State.Returns, State.strand?, hcore, hmem] using h

end

/-! ### DIV at issue (R134) -/

section
variable {s : State} {st : Strand} {d a b : BitVec 8}

/-- The lanes' results of a division. -/
abbrev divLane (d a b : BitVec 8) : LaneFn := elemLane elDiv d.toNat a.toNat (some b.toNat) false

theorem execDiv_here (h : s.here? = some st) : execDiv d a b s =
    issue (.div d a b) (opUse (.div d a b) st.group.mode) { types := typeIs st.group.mode typesDiv }
      (fun st _ => [arithFaults st (laneFlagsOf (divLane d a b) st)])
      (fun st s => .ok (s.startOp s.cur.1 (divOp (.div d a b) (divLane d a b) st s.cur.2 ((s.core s.cur.1).gen s.cur.2)), .seq))
      (fun s => s.modHere fun st => st.setFlag st.ownFlag true) s := by
  simp only [execDiv, State.modeWord_here h]

theorem divOp_eq (f : LaneFn) (i : Instr) (sl : Nat) (gen : BitVec 8) : divOp i f st sl gen = { newOp i st sl gen with
    todo := 0#64, results := (lanesOf st.active).map fun l => (l, (f st l).1)
    flags := orFlags ((lanesOf st.active).map fun l => (f st l).2) } := by
  simp only [divOp, laneResultsOf, laneFlagsOf, List.map_map, Function.comp_def]

theorem execDiv_runs
    (r : Ready (.div d a b) (opUse (.div d a b) st.group.mode) { types := typeIs st.group.mode typesDiv } st s)
    (hquiet : ∀ l ∈ lanesOf st.active, (divLane d a b st l).2 &&& st.group.aten = 0#5) :
    ∃ (t : State) (x : Strand), execDiv d a b s = .next t ∧ t.here? = some (x.retire .seq) ∧
      (t.core s.cur.1).ops = (s.core s.cur.1).ops ++
        [divOp (.div d a b) (divLane d a b) st s.cur.2 ((s.core s.cur.1).gen s.cur.2)] ∧
      st.inFlight x (divOp (.div d a b) (divLane d a b) st s.cur.2 ((s.core s.cur.1).gen s.cur.2)) ∧ t.mem = s.mem := by
  have hcheck : firstFault [arithFaults st (laneFlagsOf (divLane d a b) st)] = [] := by
    rw [firstFault_single, laneFlagsOf_eq, arithFaults_lanes_eq_nil.mpr hquiet]
  obtain ⟨x, hhere, hops, hflight, hmem, -, -⟩ := State.startOp_before s st { types := typeIs st.group.mode typesDiv }
    (o := divOp (.div d a b) (divLane d a b) st s.cur.2 ((s.core s.cur.1).gen s.cur.2)) rfl
  refine ⟨_, x, ?_, hhere, hops, hflight, hmem⟩
  rw [execDiv_here r.here, issue_ready r hcheck]
  simp only [State.before_cur, State.before_gen]
  rfl

end

end Sys2Proof.Machine

section
open Sys2Proof Sys2Proof.Machine

/-- Settles O29: DIV starts its operation (`execDiv_runs`) or traps (`issue_traps_arith`); what an operation's return does is
`State.returns_finishOp`, and the three completions come to it. -/
theorem divisionAndReturns : Obligations.DivisionAndReturns := by
  unfold Obligations.DivisionAndReturns
  refine ⟨fun s st d a b r _ => ⟨fun hquiet => ?runs, fun hflag => ?traps⟩, fun s s1 c n o o1 i ho hcase huniform => ?returns⟩
  case runs =>
    have hrun := execDiv_runs r hquiet
    rw [divOp_eq] at hrun
    exact hrun
  case traps =>
    change execDiv d a b s = _
    rw [execDiv_here r.here]
    exact issue_traps_arith r hflag
  case returns =>
    have hreturns := State.returns_finishOp (s := s1) (c := c) (n := n) huniform
    rcases hcase with ⟨⟨d, a, b, hdiv⟩, rfl, rfl, rfl⟩ | ⟨hscratch, htodo, hfaults, rfl, rfl, rfl⟩ |
      ⟨lanes, cached, -, hscratch, htodo, helig, hremote, rfl, hperform, hdone, hfaults, -, -, -⟩
    · refine ⟨_, ?_, hreturns⟩
      change execDivComplete c n s1 = _
      simp only [execDivComplete, ho, hdiv]
    · refine ⟨_, ?_, State.returns_reportExits hreturns⟩
      change execScratchLoadComplete c n s1 = _
      simp only [execScratchLoadComplete, ho, hscratch, htodo, State.settleOp_done htodo hfaults]
      rfl
    · refine ⟨_, ?_, State.returns_reportExits hreturns⟩
      change execTableOpComplete c n lanes cached s = _
      have hlanes : (o.todo &&& ~~~ s.remoteMask c o == 0#64) = false := by
        have hall : o.todo &&& ~~~0#64 = o.todo := BitVec.and_allOnes
        rw [hremote, hall]
        simpa using htodo
      have hmay : (isScratchOp o.instr || o.todo == 0#64 || !s.eligible c n) = false := by simp [hscratch, htodo, helig]
      simp only [execTableOpComplete, ho, hmay, hlanes, hperform, State.settleOp_done hdone hfaults]
      rfl

end

end

section
/-! SUPPORT. Accesses to scratch: what a read or a write at a physical offset leaves unchanged, and a scratch operation
performed lane by lane (R207, R215, R296, R297). -/

namespace Sys2Proof.Machine

theorem isScratchOp_cases {i : Instr} (h : isScratchOp i = true) :
    (∃ d a off, i = .sld d a off) ∨ (∃ d a off, i = .sst d a off) ∨ ∃ d a off, i = .satom d a off := by
  cases i with
  | sld d a off => exact .inl ⟨d, a, off, rfl⟩
  | sst d a off => exact .inr (.inl ⟨d, a, off, rfl⟩)
  | satom d a off => exact .inr (.inr ⟨d, a, off, rfl⟩)
  | _ => exact absurd h (by simp [isScratchOp])

/-! ### What changes of scratch alone -/

/-- A core without the bytes, check codes and poison of its scratch. -/
def CoreSt.bare (k : CoreSt) : CoreSt := { k with scratch := [], scratchErr := [], scratchPoison := [] }

/-- Two states that differ in nothing but bytes, check codes and poison of scratch. -/
def State.SameButScratch (s t : State) : Prop :=
  (∀ c, (t.core c).bare = (s.core c).bare) ∧ { t with cores := [] } = { s with cores := [] }

theorem State.SameButScratch.refl (s : State) : s.SameButScratch s := ⟨fun _ => rfl, rfl⟩

theorem State.SameButScratch.trans {s t u : State} (h : s.SameButScratch t) (h' : t.SameButScratch u) : s.SameButScratch u :=
  ⟨fun c => (h'.1 c).trans (h.1 c), h'.2.trans h.2⟩

theorem State.sameButScratch_modCore (s : State) (k : Nat) {f : CoreSt → CoreSt} (hf : ∀ x, (f x).bare = x.bare) :
    s.SameButScratch (s.modCore k f) := by
  refine ⟨fun c => ?_, rfl⟩
  by_cases hc : k = c
  · subst hc
    rw [State.core_modCore, hf]
  · rw [State.core_modCore_other _ _ hc]

/-- A part of a core that scratch is no part of is the same. -/
theorem State.SameButScratch.core {β : Type} (p : CoreSt → β) (hp : ∀ k : CoreSt, p k.bare = p k) {s t : State}
    (h : s.SameButScratch t) (c : Nat) : p (t.core c) = p (s.core c) := by
  rw [← hp, h.1 c, hp]

/-- A part of the state that no core is a part of is the same. -/
theorem State.SameButScratch.keep {β : Type} (p : State → β) (hp : ∀ x : State, p { x with cores := [] } = p x) {s t : State}
    (h : s.SameButScratch t) : p t = p s := by
  rw [← hp t, h.2, hp]

/-- The scratch bytes at a core's offsets outside a range are as they were, and all else but check codes and poison. -/
def State.WritesWithin (s t : State) (k lo hi : Nat) : Prop :=
  s.SameButScratch t ∧ ∀ c a, c ≠ k ∨ a < lo ∨ hi ≤ a → Assoc.get 0#8 (t.core c).scratch a = Assoc.get 0#8 (s.core c).scratch a

theorem State.WritesWithin.refl (s : State) (k lo hi : Nat) : s.WritesWithin s k lo hi := ⟨.refl s, fun _ _ _ => rfl⟩

theorem State.WritesWithin.mono {s t : State} {k lo hi lo' hi' : Nat} (h : s.WritesWithin t k lo hi) (hlo : lo' ≤ lo)
    (hhi : hi ≤ hi') : s.WritesWithin t k lo' hi' := ⟨h.1, fun c a ha => h.2 c a (by omega)⟩

theorem State.WritesWithin.trans {s t u : State} {k lo hi : Nat} (h : s.WritesWithin t k lo hi) (h' : t.WritesWithin u k lo hi) :
    s.WritesWithin u k lo hi := ⟨h.1.trans h'.1, fun c a ha => (h'.2 c a ha).trans (h.2 c a ha)⟩

theorem State.writesWithin_pokeScratch (s : State) (k off : Nat) (bs : List Byte) :
    s.WritesWithin (s.pokeScratch k off bs) k off (off + bs.length) := by
  refine ⟨State.sameButScratch_modCore s k fun _ => rfl, fun c a ha => ?_⟩
  by_cases hc : k = c
  · subst hc
    rw [State.pokeScratch, State.core_modCore, Assoc.get_splice, if_neg (by omega)]
  · rw [State.pokeScratch, State.core_modCore_other _ _ hc]

/-! ### Sectors -/

theorem mem_sectorsOf {pa n j : Nat} : j ∈ sectorsOf pa n ↔ 0 < n ∧ pa / 32 ≤ j ∧ j ≤ (pa + n - 1) / 32 := by
  unfold sectorsOf
  split
  · simp [*]
  · simp only [List.mem_map, List.mem_range]
    constructor
    · rintro ⟨i, hi, rfl⟩
      omega
    · rintro ⟨-, hlo, hhi⟩
      exact ⟨j - pa / 32, by omega, by omega⟩

theorem CoreSt.badRange_eq_none {k : CoreSt} {off n : Nat} :
    k.badRange off n = none ↔ ∀ j ∈ sectorsOf off n, k.badSector j = none := List.findSome?_eq_none_iff

theorem CoreSt.consumeSector_keep {β : Type} (p : CoreSt → β)
    (hp : ∀ (k : CoreSt) e q, p { k with scratchErr := e, scratchPoison := q } = p k) (k : CoreSt) (n : Nat) :
    p (k.consumeSector n) = p k := by
  unfold CoreSt.consumeSector
  split
  · exact hp _ _ _
  · rfl

/-- Sectors consumed change check codes and poison alone. -/
theorem State.consumeScratch_core {β : Type} (p : CoreSt → β)
    (hp : ∀ (k : CoreSt) e q, p { k with scratchErr := e, scratchPoison := q } = p k) (s : State) (k off n c : Nat) :
    p ((s.consumeScratch k off n).core c) = p (s.core c) := by
  unfold State.consumeScratch
  by_cases hc : k = c
  · subst hc
    rw [State.core_modCore]
    exact foldl_keep p _ (CoreSt.consumeSector_keep p hp) _ _
  · rw [State.core_modCore_other _ _ hc]

theorem State.sameButScratch_consumeScratch (s : State) (k off n : Nat) : s.SameButScratch (s.consumeScratch k off n) :=
  State.sameButScratch_modCore s k fun _ =>
    foldl_keep CoreSt.bare _ (CoreSt.consumeSector_keep CoreSt.bare fun _ _ _ => rfl) _ _

theorem State.writesWithin_consumeScratch (s : State) (k off n lo hi : Nat) :
    s.WritesWithin (s.consumeScratch k off n) k lo hi :=
  ⟨s.sameButScratch_consumeScratch k off n, fun c a _ =>
    congrArg (fun x => Assoc.get 0#8 x a) (State.consumeScratch_core CoreSt.scratch (fun _ _ _ => rfl) s k off n c)⟩

/-! ### Writes -/

theorem State.writesWithin_writeScratchSector (s : State) (k off : Nat) (bs : List Byte) :
    s.WritesWithin (s.writeScratchSector k off bs).1 k off (off + bs.length) := by
  unfold State.writeScratchSector
  split
  · refine (s.writesWithin_pokeScratch k off bs).trans ⟨State.sameButScratch_modCore _ k fun _ => rfl, fun c a _ => ?_⟩
    by_cases hc : k = c
    · subst hc
      rw [State.core_modCore]
      rfl
    · rw [State.core_modCore_other _ _ hc]
  · split
    · exact s.writesWithin_consumeScratch k off 1 _ _
    · exact s.writesWithin_pokeScratch k off bs

theorem State.writesWithin_writeScratchFrom (k fuel off : Nat) (bs : List Byte) (s : State) :
    s.WritesWithin (State.writeScratchFrom k fuel off bs s).1 k off (off + bs.length) := by
  induction fuel generalizing off bs s with
  | zero => exact .refl s k _ _
  | succ fuel ih =>
    unfold State.writeScratchFrom
    split
    · exact .refl s k _ _
    · have hsector := (s.writesWithin_writeScratchSector k off (bs.take (32 - off % 32))).mono (Nat.le_refl off)
        (hi' := off + bs.length) (by simp)
      by_cases hlen : bs.length ≤ 32 - off % 32
      · have hdone : bs.drop (32 - off % 32) = [] := List.drop_eq_nil_of_le hlen
        have hrest (t : State) : (State.writeScratchFrom k fuel (off + (32 - off % 32)) (bs.drop (32 - off % 32)) t).1 = t := by
          rw [hdone]
          cases fuel <;> rfl
        dsimp only
        split
        next t c ht =>
          rw [ht] at hsector
          exact (hrest t).symm ▸ hsector
        next t ht =>
          rw [ht] at hsector
          exact (hrest t).symm ▸ hsector
      · have hrest (t : State) := (ih (off + (32 - off % 32)) (bs.drop (32 - off % 32)) t).mono (lo' := off)
          (hi' := off + bs.length) (by omega) (by simp; omega)
        dsimp only
        split
        next t c ht =>
          rw [ht] at hsector
          exact hsector.trans (hrest t)
        next t ht =>
          rw [ht] at hsector
          exact hsector.trans (hrest t)

theorem bytesOf_length (n v : Nat) : (bytesOf n v).length = n := by
  induction n generalizing v with
  | zero => rfl
  | succ n ih => rw [bytesOf, List.length_cons, ih]

theorem State.writesWithin_writeScratchWords (k off : Nat) (ws : List Word) (s : State) :
    s.WritesWithin (State.writeScratchWords k off ws s).1 k off (off + 4 * ws.length) := by
  induction ws generalizing off s with
  | nil => exact .refl s k _ _
  | cons w ws ih =>
    have hword : s.WritesWithin (s.writeScratchAt k off (bytesOf 4 w.toNat)).1 k off (off + 4 * (w :: ws).length) :=
      (State.writesWithin_writeScratchFrom k _ off _ s).mono (Nat.le_refl off) (by rw [bytesOf_length]; simp)
    have hrest (t : State) := (ih (off + 4) t).mono (lo' := off) (hi' := off + 4 * (w :: ws).length) (by omega) (by simp; omega)
    unfold State.writeScratchWords
    split
    next t c ht =>
      rw [ht] at hword
      exact hword.trans (hrest t)
    next t ht =>
      rw [ht] at hword
      exact hword.trans (hrest t)

/-- A word written to a good sector is stored there. -/
theorem State.writeScratchAt_good {s : State} {k off : Nat} {bs : List Byte} (hlen : bs.length = 4) (halign : off % 4 = 0)
    (hgood : (s.core k).badSector (off / 32) = none) : s.writeScratchAt k off bs = (s.pokeScratch k off bs, none) := by
  have hne : bs.isEmpty = false := by cases bs <;> simp at hlen ⊢
  have htake : bs.take (32 - off % 32) = bs := List.take_of_length_le (by omega)
  have hdrop : bs.drop (32 - off % 32) = [] := List.drop_eq_nil_of_le (by omega)
  have hsector : s.writeScratchSector k off bs = (s.pokeScratch k off bs, none) := by
    rw [State.writeScratchSector, if_neg (by omega), hgood]
  simp only [State.writeScratchAt, State.writeScratchFrom, hne, htake, hdrop, hsector]
  simp

/-- One written to a sector that fails is not: the sector is consumed. -/
theorem State.writeScratchAt_bad {s : State} {k off : Nat} {bs : List Byte} {c : Cause} (hlen : bs.length = 4)
    (halign : off % 4 = 0) (hbad : (s.core k).badSector (off / 32) = some c) :
    s.writeScratchAt k off bs = (s.consumeScratch k off 1, some c) := by
  have hne : bs.isEmpty = false := by cases bs <;> simp at hlen ⊢
  have htake : bs.take (32 - off % 32) = bs := List.take_of_length_le (by omega)
  have hdrop : bs.drop (32 - off % 32) = [] := List.drop_eq_nil_of_le (by omega)
  have hsector : s.writeScratchSector k off bs = (s.consumeScratch k off 1, some c) := by
    rw [State.writeScratchSector, if_neg (by omega), hbad]
  simp only [State.writeScratchAt, State.writeScratchFrom, hne, htake, hdrop, hsector]
  simp

/-- Bytes stored after others: one write. -/
theorem Assoc.splice_splice {α : Type} [DecidableEq α] (d : α) (m : List (Nat × α)) (a : Nat) (xs ys : List α) :
    Assoc.splice d (Assoc.splice d m a xs) (a + xs.length) ys = Assoc.splice d m a (xs ++ ys) := by
  have hrun (b : Nat) (zs : List α) : ∀ p ∈ Assoc.run d b zs, b ≤ p.1 ∧ p.1 < b + zs.length := by
    induction zs generalizing b with
    | nil => simp [Assoc.run]
    | cons z zs ih =>
      intro p hp
      have hrest := ih (b + 1)
      rw [Assoc.run] at hp
      split at hp
      · have := hrest p hp
        simp only [List.length_cons]
        omega
      · rcases List.mem_cons.mp hp with rfl | hp
        · simp
        · have := hrest p hp
          simp only [List.length_cons]
          omega
  have happend (b : Nat) (zs : List α) : Assoc.run d b (zs ++ ys) = Assoc.run d b zs ++ Assoc.run d (b + zs.length) ys := by
    induction zs generalizing b with
    | nil => simp [Assoc.run]
    | cons z zs ih =>
      simp only [List.cons_append, Assoc.run, ih, List.length_cons, show b + 1 + zs.length = b + (zs.length + 1) by omega]
      split <;> rfl
  have hlow : (Assoc.splice d m a xs).filter (fun p => decide (p.1 < a + xs.length)) =
      m.filter (fun p => decide (p.1 < a)) ++ Assoc.run d a xs := by
    have hbefore : (m.filter fun p => decide (p.1 < a)).filter (fun p => decide (p.1 < a + xs.length)) =
        m.filter fun p => decide (p.1 < a) := List.filter_eq_self.mpr fun p hp => by
      have := (List.mem_filter.mp hp).2
      simp only [decide_eq_true_eq] at this ⊢
      omega
    have hin : (Assoc.run d a xs).filter (fun p => decide (p.1 < a + xs.length)) = Assoc.run d a xs :=
      List.filter_eq_self.mpr fun p hp => decide_eq_true (hrun a xs p hp).2
    have hafter : (m.filter fun p => decide (a + xs.length ≤ p.1)).filter (fun p => decide (p.1 < a + xs.length)) = [] :=
      List.filter_eq_nil_iff.mpr fun p hp => by
        have := (List.mem_filter.mp hp).2
        simp only [decide_eq_true_eq] at this ⊢
        omega
    rw [Assoc.splice, List.filter_append, List.filter_append, hbefore, hin, hafter, List.append_nil]
  have hhigh : (Assoc.splice d m a xs).filter (fun p => decide (a + xs.length + ys.length ≤ p.1)) =
      m.filter (fun p => decide (a + (xs ++ ys).length ≤ p.1)) := by
    have hbefore : (m.filter fun p => decide (p.1 < a)).filter
        (fun p => decide (a + xs.length + ys.length ≤ p.1)) = [] := List.filter_eq_nil_iff.mpr fun p hp => by
      have := (List.mem_filter.mp hp).2
      simp only [decide_eq_true_eq] at this ⊢
      omega
    have hin : (Assoc.run d a xs).filter (fun p => decide (a + xs.length + ys.length ≤ p.1)) = [] :=
      List.filter_eq_nil_iff.mpr fun p hp => by
        have := (hrun a xs p hp).2
        simp only [decide_eq_true_eq]
        omega
    rw [Assoc.splice, List.filter_append, List.filter_append, hbefore, hin, List.nil_append, List.nil_append,
      List.filter_filter]
    refine List.filter_congr fun p _ => ?_
    rw [List.length_append, ← Bool.decide_and]
    exact decide_eq_decide.mpr (by omega)
  rw [Assoc.splice, hlow, hhigh, Assoc.splice, happend]
  simp

theorem State.pokeScratch_pokeScratch (s : State) (k off : Nat) (xs ys : List Byte) :
    (s.pokeScratch k off xs).pokeScratch k (off + xs.length) ys = s.pokeScratch k off (xs ++ ys) := by
  simp only [State.pokeScratch, State.modCore, State.core_setCore, State.setCore_setCore, Assoc.splice_splice]

theorem State.badSector_pokeScratch (s : State) (k off : Nat) (bs : List Byte) (c j : Nat) :
    ((s.pokeScratch k off bs).core c).badSector j = (s.core c).badSector j := by
  by_cases hc : k = c
  · subst hc
    rw [State.pokeScratch, State.core_modCore]
    rfl
  · rw [State.pokeScratch, State.core_modCore_other _ _ hc]

/-- Words written to good sectors are stored there. -/
theorem State.writeScratchWords_good {k off : Nat} {ws : List Word} {s : State} (hne : ws ≠ []) (halign : off % 4 = 0)
    (hgood : ∀ j ∈ sectorsOf off (4 * ws.length), (s.core k).badSector j = none) :
    State.writeScratchWords k off ws s = (s.pokeScratch k off (bytesOfWords ws), none) := by
  induction ws generalizing off s with
  | nil => exact absurd rfl hne
  | cons w ws ih =>
    have hfirst : s.writeScratchAt k off (bytesOf 4 w.toNat) = (s.pokeScratch k off (bytesOf 4 w.toNat), none) :=
      State.writeScratchAt_good (bytesOf_length _ _) halign
        (hgood _ (mem_sectorsOf.mpr ⟨by simp, Nat.le_refl _, Nat.div_le_div_right (by simp; omega)⟩))
    rw [State.writeScratchWords, hfirst]
    cases hws : ws with
    | nil => simp [State.writeScratchWords, bytesOfWords]
    | cons v vs =>
      have hrest := ih (off := off + 4) (s := s.pokeScratch k off (bytesOf 4 w.toNat)) (by simp [hws]) (by omega) fun j hj => by
        rw [State.badSector_pokeScratch]
        obtain ⟨h0, hlo, hhi⟩ := mem_sectorsOf.mp hj
        refine hgood j (mem_sectorsOf.mpr ⟨by simp, (Nat.div_le_div_right (by omega)).trans hlo, hhi.trans ?_⟩)
        exact Nat.div_le_div_right (by simp only [List.length_cons]; omega)
      rw [← hws]
      dsimp only
      rw [hrest]
      have hjoin := State.pokeScratch_pokeScratch s k off (bytesOf 4 w.toNat) (bytesOfWords ws)
      rw [bytesOf_length] at hjoin
      rw [hjoin]
      rfl

theorem mem_insertNat (n : Nat) (xs : List Nat) : n ∈ insertNat n xs := by
  induction xs with
  | nil => simp [insertNat]
  | cons x xs ih =>
    rw [insertNat]
    split
    · simp
    · split
      · simp [*]
      · simp [ih]

/-- A sector that failed fails after it was consumed. -/
theorem CoreSt.badSector_consumeSector {k : CoreSt} {n : Nat} (h : (k.badSector n).isSome = true) :
    ((k.consumeSector n).badSector n).isSome = true := by
  rw [CoreSt.consumeSector, if_pos h, CoreSt.badSector, if_pos]
  · rfl
  · simpa [CoreSt.poisonSector] using mem_insertNat n k.scratchPoison

/-- Words of which every one lies in one sector that fails are not stored, and the first failure stands. -/
theorem State.writeScratchWords_bad {k off : Nat} {ws : List Word} {s : State} {c : Cause} (halign : off % 4 = 0)
    (hin : off % 32 + 4 * ws.length ≤ 32) (hbad : (s.core k).badSector (off / 32) = some c) :
    (∀ j, ((State.writeScratchWords k off ws s).1.core j).scratch = (s.core j).scratch) ∧
      (ws ≠ [] → (State.writeScratchWords k off ws s).2 = some c) := by
  induction ws generalizing off s c with
  | nil => exact ⟨fun _ => rfl, fun h => absurd rfl h⟩
  | cons w ws ih =>
    have hscratch (j : Nat) : ((s.consumeScratch k off 1).core j).scratch = (s.core j).scratch :=
      State.consumeScratch_core CoreSt.scratch (fun _ _ _ => rfl) s k off 1 j
    have hsectors : sectorsOf off 1 = [off / 32] := by simp [sectorsOf]
    have hstill : (((s.consumeScratch k off 1).core k).badSector (off / 32)).isSome = true := by
      rw [State.consumeScratch, State.core_modCore, hsectors]
      exact CoreSt.badSector_consumeSector (by rw [hbad]; rfl)
    obtain ⟨c', hc'⟩ := Option.isSome_iff_exists.mp hstill
    rw [State.writeScratchWords, State.writeScratchAt_bad (bytesOf_length _ _) halign hbad]
    refine ⟨fun j => ?_, fun _ => rfl⟩
    cases hws : ws with
    | nil => exact hscratch j
    | cons v vs =>
      have hlen : ws.length ≠ 0 := by simp [hws]
      simp only [List.length_cons] at hin
      have hsame : (off + 4) / 32 = off / 32 := by omega
      rw [← hws]
      exact ((ih (by omega) (by omega) (hsame ▸ hc')).1 j).trans (hscratch j)

/-! ### A lane of a scratch access -/

section
variable {s : State} {c : Nat} {o : Op} {l : Nat}

/-- Bytes that a lane's access reaches. -/
abbrev Op.scratchLen (o : Op) : Nat := 4 * wordCount o.instr o.mode

theorem State.scratchPlace_aligned (s : State) (c : Nat) {x : Nat} (h : x % 4 = 0) : (s.scratchPlace c x).2 % 4 = 0 := by
  unfold State.scratchPlace
  dsimp only
  split
  · unfold Buffer.place granuleBytes
    split
    · dsimp only; omega
    · split <;> omega
  · dsimp only; omega

/-- The place of an address depends on the buffers of cores alone. -/
theorem State.SameButScratch.scratchPlace {s t : State} (h : s.SameButScratch t) (c x : Nat) :
    t.scratchPlace c x = s.scratchPlace c x := by
  have hbuffers := h.core CoreSt.buffers (fun _ => rfl) (scratchCore c x)
  simp only [State.scratchPlace, hbuffers]

theorem State.performScratch_sst {d a : BitVec 8} {off : BitVec 8} (h : o.instr = .sst d a off) : s.performScratch c o l =
    ((State.writeScratchWords (s.scratchPlace c (o.addr l)).1 (s.scratchPlace c (o.addr l)).2 (o.data l) s).1,
      match (State.writeScratchWords (s.scratchPlace c (o.addr l)).1 (s.scratchPlace c (o.addr l)).2 (o.data l) s).2 with
      | some cause => .fault (cause, 0)
      | none => .done []) := by
  unfold State.performScratch
  simp only [h]
  generalize State.writeScratchWords (s.scratchPlace c (o.addr l)).1 (s.scratchPlace c (o.addr l)).2 (o.data l) s = r
  obtain ⟨t, _ | cause⟩ := r <;> rfl

/-- A lane of SLD or SATOM that reaches a sector which fails faults, and the sectors are consumed. -/
theorem State.performScratch_bad {x : Cause} (h : ∀ d a off, o.instr ≠ .sst d a off)
    (hbad : (s.core (s.scratchPlace c (o.addr l)).1).badRange (s.scratchPlace c (o.addr l)).2 o.scratchLen = some x) :
    s.performScratch c o l =
      (s.consumeScratch (s.scratchPlace c (o.addr l)).1 (s.scratchPlace c (o.addr l)).2 o.scratchLen, .fault (x, 0)) := by
  unfold State.performScratch
  split
  · next k off hplace =>
    rw [hplace] at hbad
    dsimp only at hbad ⊢
    split
    · next d a off h' => exact absurd h' (h d a off)
    · rw [State.readScratchAt, hbad, hplace]

/-- What a lane of a scratch access stores, and its words, where its sectors are good. -/
def State.scratchStep (s : State) (c : Nat) (o : Op) (l : Nat) : State × List Word :=
  let k := (s.scratchPlace c (o.addr l)).1
  let x := (s.scratchPlace c (o.addr l)).2
  match o.instr with
  | .sst .. => (s.pokeScratch k x (bytesOfWords (o.data l)), [])
  | .satom .. =>
    (s.pokeScratch k x (bytesOf 4 (o.newWord l (wordOf (s.scratchBytesAt k x o.scratchLen))).toNat),
      [wordOf (s.scratchBytesAt k x o.scratchLen)])
  | _ => (s, wordsOf (modeCount o.mode) (s.scratchBytesAt k x o.scratchLen))

/-- A lane whose access is aligned, and reaches good sectors; SST has a word for each place. -/
structure State.GoodLane (s : State) (c : Nat) (o : Op) (l : Nat) : Prop where
  aligned : o.addr l % 4 = 0
  good : (s.core (s.scratchPlace c (o.addr l)).1).badRange (s.scratchPlace c (o.addr l)).2 o.scratchLen = none
  data : (o.data l).length = wordCount o.instr o.mode ∨ ∀ d a off, o.instr ≠ .sst d a off

theorem wordCount_pos (i : Instr) (m : Word) : 0 < wordCount i m := by
  unfold wordCount modeCount
  split <;> omega

theorem State.performScratch_good (hscratch : isScratchOp o.instr = true) (h : s.GoodLane c o l) :
    s.performScratch c o l = ((s.scratchStep c o l).1, .done (s.scratchStep c o l).2) := by
  obtain ⟨haligned, hgood, hdata⟩ := h
  have hplace := State.scratchPlace_aligned s c haligned
  have hsectors := CoreSt.badRange_eq_none.mp hgood
  cases hi : o.instr with
  | sst d a off =>
    have hlen : (o.data l).length = wordCount o.instr o.mode := hdata.resolve_right fun hne => hne d a off hi
    have hpos := wordCount_pos o.instr o.mode
    have hne : o.data l ≠ [] := fun hnil => by simp [hnil] at hlen; omega
    rw [State.performScratch_sst hi, State.writeScratchWords_good hne hplace (by rw [hlen]; exact hsectors)]
    simp only [State.scratchStep, hi]
  | sld d a off =>
    simp only [State.performScratch, hi, State.readScratchAt]
    rw [show 4 * wordCount (.sld d a off) o.mode = o.scratchLen by rw [Op.scratchLen, hi], hgood]
    simp only [State.scratchStep, hi]
  | satom d a off =>
    have hlen : o.scratchLen = 4 := by rw [Op.scratchLen, hi]; rfl
    have hsector : (s.core (s.scratchPlace c (o.addr l)).1).badSector ((s.scratchPlace c (o.addr l)).2 / 32) = none :=
      hsectors _ (mem_sectorsOf.mpr ⟨by omega, Nat.le_refl _, Nat.div_le_div_right (by omega)⟩)
    simp only [State.performScratch, hi, State.readScratchAt]
    rw [show 4 * wordCount (.satom d a off) o.mode = o.scratchLen by rw [Op.scratchLen, hi], hgood]
    dsimp only
    rw [State.writeScratchAt_good (bytesOf_length _ _) hplace hsector]
    simp only [State.scratchStep, hi]
  | _ => rw [hi] at hscratch; exact absurd hscratch (by simp [isScratchOp])

/-- A lane stores within its own bytes, and no check code or poison changes. -/
theorem State.scratchStep_within (h : s.GoodLane c o l) :
    s.WritesWithin (s.scratchStep c o l).1 (s.scratchPlace c (o.addr l)).1 (s.scratchPlace c (o.addr l)).2
        ((s.scratchPlace c (o.addr l)).2 + o.scratchLen) ∧
      ∀ k j, ((s.scratchStep c o l).1.core k).badSector j = (s.core k).badSector j := by
  have hpoke (k x : Nat) (bs : List Byte) (hlen : bs.length = o.scratchLen) :
      s.WritesWithin (s.pokeScratch k x bs) k x (x + o.scratchLen) := hlen ▸ s.writesWithin_pokeScratch k x bs
  unfold State.scratchStep
  split
  · next d a off hi =>
    refine ⟨hpoke _ _ _ ?_, fun k j => s.badSector_pokeScratch _ _ _ k j⟩
    rw [Op.scratchLen, ← h.data.resolve_right fun hne => hne d a off hi]
    simp [bytesOfWords, bytesOf_length, Nat.mul_comm]
  · next d a off hi =>
    refine ⟨hpoke _ _ _ ?_, fun k j => s.badSector_pokeScratch _ _ _ k j⟩
    rw [bytesOf_length, Op.scratchLen, hi]
    rfl
  · exact ⟨.refl s _ _ _, fun _ _ => rfl⟩

theorem State.GoodLane.step {l' : Nat} (h : s.GoodLane c o l) (h' : s.GoodLane c o l') : (s.scratchStep c o l).1.GoodLane c o l' := by
  obtain ⟨hwithin, hsectors⟩ := State.scratchStep_within h
  refine ⟨h'.aligned, ?_, h'.data⟩
  rw [hwithin.1.scratchPlace]
  refine CoreSt.badRange_eq_none.mpr fun j hj => ?_
  rw [hsectors]
  exact CoreSt.badRange_eq_none.mp h'.good j hj

end

/-! ### The lanes of a scratch access -/

/-- The lanes of a scratch access, one after another: the state, and each lane's words. -/
def State.scratchRun (c : Nat) (o : Op) : List Nat → State → State × List (Nat × List Word)
  | [], s => (s, [])
  | l :: ls, s => ((State.scratchRun c o ls (s.scratchStep c o l).1).1,
      (l, (s.scratchStep c o l).2) :: (State.scratchRun c o ls (s.scratchStep c o l).1).2)

/-- The lowest lane of a mask taken out. -/
theorem lanesOf_cons {m : LaneMask} {l : Nat} {ls : List Nat} (h : lanesOf m = l :: ls) :
    m &&& maskBelow l = 0#64 ∧ lanesOf (m &&& ~~~ (1#64 <<< l)) = ls := by
  have hsorted : (lanesOf m).Pairwise (· < ·) := List.Pairwise.filter _ List.pairwise_lt_range
  rw [h, List.pairwise_cons] at hsorted
  obtain ⟨hfirst, hrest⟩ := hsorted
  constructor
  · by_contra hne
    obtain ⟨hk, hlt⟩ := mem_lanesOf_below.mp (headD_lanesOf_mem hne)
    have hmem := mem_lanesOf.mpr hk
    rw [h] at hmem
    rcases List.mem_cons.mp hmem with heq | hmem
    · omega
    · exact Nat.lt_asymm hlt (hfirst _ hmem)
  · have hfilter : lanesOf (m &&& ~~~ (1#64 <<< l)) = (lanesOf m).filter (· != l) := by
      unfold lanesOf lanesBelow
      rw [List.filter_filter]
      refine List.filter_congr fun k hk => ?_
      have hk64 : k < 64 := List.mem_range.mp hk
      rw [BitVec.getLsbD_and, BitVec.getLsbD_not, Bool.and_comm]
      congr 1
      by_cases hkl : k = l
      · subst hkl
        simp [hk64, -BitVec.getLsbD_eq_getElem]
      · have : (1#64 <<< l).getLsbD k = false := by
          simp only [BitVec.getLsbD_shiftLeft, BitVec.getLsbD_one, hk64, decide_true, Bool.true_and]
          by_cases hlt : k < l
          · simp [hlt]
          · simp [hlt]; omega
        rw [this]
        simp [hk64, hkl]
    rw [hfilter, h]
    rw [List.filter_cons_of_neg (by simp)]
    exact List.filter_eq_self.mpr fun k hk => by
      have := hfirst k hk
      simp only [bne_iff_ne, ne_eq]
      omega

section
variable {c : Nat}

theorem State.remoteMask_scratch (s : State) {o : Op} (h : isScratchOp o.instr = true) : s.remoteMask c o = 0#64 := by
  have hlane (l : Nat) : s.lanePackage c o l = none := by
    rcases isScratchOp_cases h with ⟨_, _, _, hi⟩ | ⟨_, _, _, hi⟩ | ⟨_, _, _, hi⟩ <;>
      simp [State.lanePackage, hi, isIndexOp]
  have hnone : (List.range 64).filter (fun l => (s.lanePackage c o l).isSome) = [] :=
    List.filter_eq_nil_iff.mpr fun l _ => by simp [hlane]
  rw [State.remoteMask, maskWhere, hnone]
  exact BitVec.and_zero

/-- A scratch access reaches no bank set, so that its lanes are never held. -/
theorem State.arriveLane_scratch (s : State) {o : Op} (h : isScratchOp o.instr = true) (l : Nat) :
    s.arriveLane c o true false l = (s, true) := by
  have hends : o.laneEnds l = [] := by
    rcases isScratchOp_cases h with ⟨_, _, _, hi⟩ | ⟨_, _, _, hi⟩ | ⟨_, _, _, hi⟩ <;> simp only [Op.laneEnds, hi]
  simp [State.arriveLane, hends, State.rouseAll]

theorem State.performLane_scratch (s : State) {o : Op} (h : isScratchOp o.instr = true) (l : Nat) :
    s.performLane c o false l = s.performScratch c o l := by
  rcases isScratchOp_cases h with ⟨_, _, _, hi⟩ | ⟨_, _, _, hi⟩ | ⟨_, _, _, hi⟩ <;> simp only [State.performLane, hi]

theorem State.scratchRun_congr {o o' : Op} (h : ∀ s l, State.scratchStep s c o' l = State.scratchStep s c o l) (ls : List Nat)
    (s : State) : State.scratchRun c o' ls s = State.scratchRun c o ls s := by
  induction ls generalizing s with
  | nil => rfl
  | cons l ls ih => simp only [State.scratchRun, h, ih]

/-- The lanes of an access whose sectors are good are performed one after another, and none is left. -/
theorem State.performLanes_scratch {ls : List Nat} {s : State} {o : Op} (hscratch : isScratchOp o.instr = true)
    (hls : lanesOf o.todo = ls) (hgood : ∀ l ∈ ls, s.GoodLane c o l) : State.performLanes c true false ls s o =
      ((State.scratchRun c o ls s).1, { o with todo := 0#64, results := o.results ++ (State.scratchRun c o ls s).2 }) := by
  induction ls generalizing s o with
  | nil =>
    have htodo : o.todo = 0#64 := by
      by_contra hne
      exact lanesOf_ne_nil hne hls
    simp only [State.performLanes, State.scratchRun, List.append_nil, ← htodo]
  | cons l ls ih =>
    obtain ⟨hbelow, hrest⟩ := lanesOf_cons hls
    have hfirst := hgood l List.mem_cons_self
    have hwaits : s.laneWaits c o l (o.todo &&& maskBelow l &&& ~~~ s.remoteMask c o) = false := by
      rw [hbelow, BitVec.zero_and]
      rfl
    have hgood' (l' : Nat) (hl' : l' ∈ ls) :
        (s.scratchStep c o l).1.GoodLane c (o.laneDone l (.done (s.scratchStep c o l).2)) l' := by
      obtain ⟨haligned, hsectors, hdata⟩ := hfirst.step (hgood l' (List.mem_cons_of_mem l hl'))
      exact ⟨haligned, hsectors, hdata⟩
    have hnext := ih (s := (s.scratchStep c o l).1) (o := o.laneDone l (.done (s.scratchStep c o l).2)) hscratch hrest hgood'
    rw [State.scratchRun_congr (o := o) (o' := o.laneDone l (.done (s.scratchStep c o l).2)) fun _ _ => rfl] at hnext
    rw [State.performLanes, hwaits, if_neg (by simp), State.arriveLane_scratch s hscratch]
    simp only [State.performLane_scratch s hscratch, State.performScratch_good hscratch hfirst, hnext]
    simp only [State.scratchRun, Op.laneDone, List.append_assoc, List.singleton_append]

/-- The one lane of an access that faults. -/
theorem State.performLanes_scratch_fault {s t : State} {o : Op} {l : Nat} {x : Cause} (hscratch : isScratchOp o.instr = true)
    (hls : lanesOf o.todo = [l]) (hfaults : o.faults = []) (h : s.performScratch c o l = (t, .fault (x, 0))) :
    State.performLanes c true false [l] s o = (t, { o with todo := 0#64, faults := [⟨l, x, 0⟩] }) := by
  obtain ⟨hbelow, hrest⟩ := lanesOf_cons hls
  have hwaits : s.laneWaits c o l (o.todo &&& maskBelow l &&& ~~~ s.remoteMask c o) = false := by
    rw [hbelow, BitVec.zero_and]
    rfl
  have htodo : o.todo &&& ~~~ (1#64 <<< l) = 0#64 := by
    by_contra hne
    exact lanesOf_ne_nil hne hrest
  have hdone : o.laneDone l (.fault (x, 0)) = { o with todo := 0#64, faults := [⟨l, x, 0⟩] } := by
    rcases isScratchOp_cases hscratch with ⟨_, _, _, hi⟩ | ⟨_, _, _, hi⟩ | ⟨_, _, _, hi⟩ <;>
      simp only [Op.laneDone, hi, hfaults, htodo, List.map_cons, List.map_nil, List.nil_append]
  rw [State.performLanes, hwaits, if_neg (by simp), State.arriveLane_scratch s hscratch]
  simp only [State.performLane_scratch s hscratch, h, hdone, State.performLanes]

/-- All lanes of an access, as it is performed at its issue. -/
theorem State.performOp_scratch (s : State) {o : Op} (hscratch : isScratchOp o.instr = true) :
    s.performOp c o true false (~~~ 0#64) = State.performLanes c true false (lanesOf o.todo) s o := by
  have hlanes : (if o.uniform then o.todo else o.todo &&& ~~~ 0#64) &&& ~~~ s.remoteMask c o = o.todo := by
    have hall : o.todo &&& ~~~0#64 = o.todo := BitVec.and_allOnes
    rw [s.remoteMask_scratch hscratch, hall, ite_self, hall]
  rcases isScratchOp_cases hscratch with ⟨_, _, _, hi⟩ | ⟨_, _, _, hi⟩ | ⟨_, _, _, hi⟩ <;>
    simp only [State.performOp, hi, hlanes]

/-- A strand's first access may be performed at once. -/
theorem State.eligible_first {s : State} {o : Op} {ops : List Op} (hops : (s.core c).ops = ops ++ [o])
    (hgen : o.gen = (s.core c).gen o.slot) (halone : ops.filter (fun x => x.slot == o.slot && x.gen == (s.core c).gen o.slot) = [])
    (hgathers : (s.core c).gathers o.slot o.gen = false) : s.eligible c ops.length = true := by
  have hothers : ∀ y ∈ ops, y.sameStrand o = false := fun y hy => by
    have := List.filter_eq_nil_iff.mp halone y hy
    simpa [Op.sameStrand, hgen] using this
  have hall (ys : List Op) (h : ∀ y ∈ ys, y.sameStrand o = false) : s.eligibleIn c o ys = true := by
    induction ys with
    | nil => rfl
    | cons y ys ih =>
      rw [State.eligibleIn, h y List.mem_cons_self]
      exact ih fun z hz => h z (List.mem_cons_of_mem y hz)
  rw [State.eligible, hops]
  simp [State.heldByGather, hgathers, hall ops hothers]

end

/-! ### What a run of lanes leaves -/

section
variable {c : Nat} {o : Op}

/-- Bytes that no lane reaches stay, and all else but the bytes of scratch. -/
theorem State.scratchRun_within {ls : List Nat} {s : State} (hgood : ∀ l ∈ ls, s.GoodLane c o l) :
    s.SameButScratch (State.scratchRun c o ls s).1 ∧ ∀ k a, (∀ l ∈ ls, (s.scratchPlace c (o.addr l)).1 ≠ k ∨
      a < (s.scratchPlace c (o.addr l)).2 ∨ (s.scratchPlace c (o.addr l)).2 + o.scratchLen ≤ a) →
      Assoc.get 0#8 ((State.scratchRun c o ls s).1.core k).scratch a = Assoc.get 0#8 (s.core k).scratch a := by
  induction ls generalizing s with
  | nil => exact ⟨.refl s, fun _ _ _ => rfl⟩
  | cons l ls ih =>
    have hfirst := hgood l List.mem_cons_self
    obtain ⟨⟨hsame, hbytes⟩, -⟩ := State.scratchStep_within hfirst
    obtain ⟨hrest, hrestBytes⟩ := ih (s := (s.scratchStep c o l).1) fun l' hl' =>
      hfirst.step (hgood l' (List.mem_cons_of_mem l hl'))
    refine ⟨hsame.trans hrest, fun k a hout => ?_⟩
    refine (hrestBytes k a fun l' hl' => ?_).trans (hbytes k a ?_)
    · rw [hsame.scratchPlace]
      exact hout l' (List.mem_cons_of_mem l hl')
    · have := hout l List.mem_cons_self
      omega

/-- SLD reads each lane's words, and changes nothing. -/
theorem State.scratchRun_sld {d a : BitVec 8} {off : BitVec 8} (hi : o.instr = .sld d a off) (ls : List Nat) (s : State) :
    State.scratchRun c o ls s = (s, ls.map fun l => (l, wordsOf (modeCount o.mode)
      (s.scratchBytesAt (s.scratchPlace c (o.addr l)).1 (s.scratchPlace c (o.addr l)).2 o.scratchLen))) := by
  have hstep (l : Nat) : s.scratchStep c o l = (s, wordsOf (modeCount o.mode)
      (s.scratchBytesAt (s.scratchPlace c (o.addr l)).1 (s.scratchPlace c (o.addr l)).2 o.scratchLen)) := by
    simp only [State.scratchStep, hi]
  induction ls with
  | nil => rfl
  | cons l ls ih => simp only [State.scratchRun, hstep, ih, List.map_cons]

theorem State.scratchPlace_congr {s t : State} (h : ∀ k, (t.core k).buffers = (s.core k).buffers) (c x : Nat) :
    t.scratchPlace c x = s.scratchPlace c x := by
  simp only [State.scratchPlace, h]

/-- What is stored in scratch depends on the bytes there alone. -/
theorem State.pokeScratch_congr {s t : State} (h : ∀ k, (t.core k).scratch = (s.core k).scratch) (c off : Nat) (bs : List Byte)
    (k : Nat) : ((t.pokeScratch c off bs).core k).scratch = ((s.pokeScratch c off bs).core k).scratch := by
  unfold State.pokeScratch
  by_cases hk : c = k
  · subst hk
    rw [State.core_modCore, State.core_modCore, h]
  · rw [State.core_modCore_other _ _ hk, State.core_modCore_other _ _ hk, h]

/-- SST stores each lane's words, at the places that the lanes have before any is performed. -/
theorem State.scratchRun_sst {d a : BitVec 8} {off : BitVec 8} (hi : o.instr = .sst d a off) (places : Nat → Nat × Nat)
    (ls : List Nat) {t y : State} (hplaces : ∀ l, t.scratchPlace c (o.addr l) = places l)
    (hsame : ∀ k, (t.core k).scratch = (y.core k).scratch) (k : Nat) :
    ((State.scratchRun c o ls t).1.core k).scratch = ((ls.foldl (fun y l => y.pokeScratch (places l).1
      (places l).2 (bytesOfWords (o.data l))) y).core k).scratch := by
  induction ls generalizing t y with
  | nil => exact hsame k
  | cons l ls ih =>
    have hstep : t.scratchStep c o l = (t.pokeScratch (places l).1 (places l).2 (bytesOfWords (o.data l)), []) := by
      simp only [State.scratchStep, hi, hplaces]
    rw [State.scratchRun, hstep, List.foldl_cons]
    refine ih (fun l' => ?_) fun k => State.pokeScratch_congr hsame _ _ _ k
    rw [(t.writesWithin_pokeScratch _ _ _).1.scratchPlace, hplaces]

/-- SATOM of one lane stores the new word and captures the old. -/
theorem State.scratchRun_satom {d a : BitVec 8} {off : BitVec 8} (hi : o.instr = .satom d a off) (s : State) (l : Nat) :
    State.scratchRun c o [l] s =
      (s.pokeScratch (s.scratchPlace c (o.addr l)).1 (s.scratchPlace c (o.addr l)).2 (bytesOf 4 (o.newWord l
        (wordOf (s.scratchBytesAt (s.scratchPlace c (o.addr l)).1 (s.scratchPlace c (o.addr l)).2 4))).toNat),
       [(l, [wordOf (s.scratchBytesAt (s.scratchPlace c (o.addr l)).1 (s.scratchPlace c (o.addr l)).2 4)])]) := by
  have hlen : o.scratchLen = 4 := by rw [Op.scratchLen, hi]; rfl
  simp only [State.scratchRun, State.scratchStep, hi, hlen]

end

/-! ### Scratch operations at issue -/

/-- What becomes of an operation's results changes no byte of scratch. -/
theorem State.finishOp_scratch (s : State) (c n : Nat) (o : Op) (k : Nat) :
    ((s.finishOp c n o).core k).scratch = (s.core k).scratch := by
  have hmod (s : State) (f : CoreSt → CoreSt) (hf : ∀ x, (f x).scratch = x.scratch) :
      ((s.modCore c f).core k).scratch = (s.core k).scratch := by
    by_cases hk : c = k
    · subst hk
      rw [State.core_modCore, hf]
    · rw [State.core_modCore_other _ _ hk]
  by_cases hgen : (s.core c).gen o.slot = o.gen
  · cases h : s.strand? c o.slot with
    | none =>
      rw [State.finishOp_empty hgen h]
      exact hmod _ _ fun _ => rfl
    | some st =>
      rw [State.finishOp_here hgen h]
      rw [State.setStrand, hmod, hmod] <;> exact fun _ => rfl
  · rw [State.finishOp_gone hgen]
    split
    · rw [State.count, hmod, hmod] <;> exact fun _ => rfl
    · exact hmod _ _ fun _ => rfl

section
variable {u t : State} {c : Nat} {o o' : Op} {ops : List Op}

theorem State.setOp_scratch (s : State) (c n : Nat) (o : Op) (k : Nat) :
    ((s.modCore c fun x => x.setOp n o).core k).scratch = (s.core k).scratch := by
  by_cases hk : c = k
  · subst hk
    rw [State.core_modCore]
    rfl
  · rw [State.core_modCore_other _ _ hk]

theorem State.settleOp_scratch (s : State) (c n : Nat) (o : Op) (k : Nat) :
    ((s.settleOp c n o).core k).scratch = (s.core k).scratch := by
  unfold State.settleOp
  refine (State.reportExits_keep (fun x => (x.core k).scratch) (fun _ _ => rfl) _).trans ?_
  generalize (if (s.core c).gen o.slot = o.gen then o else o.abandoned) = o'
  split
  · exact State.finishOp_scratch _ _ _ _ _
  · exact State.setOp_scratch _ _ _ _ _

theorem State.settleOp_mem (s : State) (c n : Nat) (o : Op) : (s.settleOp c n o).mem = s.mem := by
  unfold State.settleOp
  refine (State.reportExits_keep State.mem (fun _ _ => rfl) _).trans ?_
  generalize (if (s.core c).gen o.slot = o.gen then o else o.abandoned) = o'
  split
  · exact State.finishOp_mem
  · exact State.modCore_mem _ _ _

/-- One with a fault stays in the list. -/
theorem State.settleOp_faulted (s : State) {c n : Nat} {o : Op} (hgen : (s.core c).gen o.slot = o.gen) (hf : o.faults ≠ []) :
    s.settleOp c n o = (s.modCore c fun k => k.setOp n o).reportExits := by
  have hdone : (o.todo == 0#64 && o.faults.isEmpty) = false := by
    cases hfaults : o.faults with
    | nil => exact absurd hfaults hf
    | cons => simp
  simp only [State.settleOp, hgen, if_true, hdone]
  rfl

theorem State.performScratchNow_eq (hops : (u.core c).ops = ops ++ [o]) (hscratch : isScratchOp o.instr = true)
    (helig : u.eligible c ops.length = true) (hperform : u.performOp c o true false (~~~ 0#64) = (t, o')) :
    u.performScratchNow c =
      if o'.returns then t.modCore c fun k => k.setOp ops.length o' else t.settleOp c ops.length o' := by
  have hlast : (ops ++ [o])[ops.length]? = some o := by simp
  have hlen : (ops ++ [o]).length - 1 = ops.length := by simp
  simp only [State.performScratchNow, hops, hlen, hlast, hscratch, helig, hperform]
  rfl

/-- What a scratch access that is performed at once leaves: bytes, memory, and the operation where it stays. -/
theorem State.performScratchNow_done (hops : (u.core c).ops = ops ++ [o]) (hscratch : isScratchOp o.instr = true)
    (helig : u.eligible c ops.length = true) (hperform : u.performOp c o true false (~~~ 0#64) = (t, o')) :
    (∀ k, ((u.performScratchNow c).core k).scratch = (t.core k).scratch) ∧ (u.performScratchNow c).mem = t.mem ∧
      ((t.core c).ops = ops ++ [o] → (o'.returns = true ∨ o'.faults ≠ [] ∧ (t.core c).gen o'.slot = o'.gen) →
        ((u.performScratchNow c).core c).ops = ops ++ [o']) := by
  have hset : (t.core c).ops = ops ++ [o] → ((t.modCore c fun k => k.setOp ops.length o').core c).ops = ops ++ [o'] := fun h => by
    rw [State.core_modCore, CoreSt.setOp, h]
    simp
  rw [State.performScratchNow_eq hops hscratch helig hperform]
  split
  · exact ⟨fun k => State.setOp_scratch _ _ _ _ _, State.modCore_mem _ _ _, fun h _ => hset h⟩
  · next hreturns =>
    refine ⟨fun k => State.settleOp_scratch _ _ _ _ _, State.settleOp_mem _ _ _ _, fun h hfault => ?_⟩
    obtain ⟨hf, hgen⟩ := hfault.resolve_left hreturns
    rw [State.settleOp_faulted _ hgen hf,
      State.reportExits_keep (fun x => (x.core c).ops) (fun _ _ => rfl), hset h]

end

section
variable {s : State} {st : Strand} {i : Instr}

theorem opUse_gDest_scratch (h : isScratchOp i = true) (m : Word) : (opUse i m).gDest = [] := by
  rcases isScratchOp_cases h with ⟨_, _, _, rfl⟩ | ⟨_, _, _, rfl⟩ | ⟨_, _, _, rfl⟩ <;> rfl

/-- The state in which a scratch access has joined the operations. -/
abbrev State.accessStarted (s : State) (i : Instr) (st : Strand) : State :=
  (s.before (opUse i st.group.mode) (opForm i st) st).startOp s.cur.1 (s.newOpHere i st)

/-- Nothing of any core but its strands and its list of operations has changed. -/
theorem State.accessStarted_core {β : Type} (p : CoreSt → β) (hs : ∀ (k : CoreSt) x, p { k with slots := x } = p k)
    (ho : ∀ (k : CoreSt) x, p { k with ops := x } = p k) (h : isScratchOp i = true) (k : Nat) :
    p ((s.accessStarted i st).core k) = p (s.core k) := by
  have hbefore : s.before (opUse i st.group.mode) (opForm i st) st = s.setHere (st.ready (opUse i st.group.mode) (opForm i st)) := by
    rw [State.before]
    simp [Form.ended, opUse_gDest_scratch h]
  unfold State.accessStarted
  rw [hbefore]
  by_cases hk : s.cur.1 = k
  · subst hk
    rw [State.startOp_core p hs ho, State.core_setHere, hs]
  · rw [State.startOp_other _ _ _ hk, State.setHere, State.setStrand, State.core_modCore_other _ _ hk]

theorem State.accessStarted_mem : (s.accessStarted i st).mem = s.mem := by simp

theorem State.accessStarted_ops : ((s.accessStarted i st).core s.cur.1).ops = (s.core s.cur.1).ops ++ [s.newOpHere i st] := by
  rw [State.startOp_ops, State.before_core CoreSt.ops (fun _ _ => rfl) fun _ _ => rfl]

/-! ### The lanes of an access that issues -/

theorem Op.faultWhere_eq_nil {o : Op} {k : Cause} {f : Nat → Bool} :
    o.faultWhere k f = [] ↔ ∀ l ∈ lanesOf o.lanes, f l = false := by
  simp [Op.faultWhere, List.filter_eq_nil_iff]

/-- Where no lane fails a check, the address of each is aligned. -/
theorem OpReady.aligned (r : OpReady i st s) (h : isScratchOp i = true) {l : Nat} (hl : l ∈ lanesOf st.active) :
    (s.newOpHere i st).addr l % 4 = 0 := by
  have hchecks := r.checks
  have hlists : opChecks s.cur.1 st (s.newOpHere i st) s =
      [(s.newOpHere i st).faultWhere .idempotence (opIdem s.cur.1 st (s.newOpHere i st)),
       (s.newOpHere i st).faultWhere .misaligned fun l => (s.newOpHere i st).addr l % 4 != 0,
       (s.newOpHere i st).faultWhere .ownership (s.notOwned s.cur.1 st (s.newOpHere i st))] := by
    rcases isScratchOp_cases h with ⟨_, _, _, rfl⟩ | ⟨_, _, _, rfl⟩ | ⟨_, _, _, rfl⟩ <;> rfl
  rw [hlists] at hchecks
  have hmis : (s.newOpHere i st).faultWhere .misaligned (fun l => (s.newOpHere i st).addr l % 4 != 0) = [] := by
    by_contra hne
    by_cases hidem : (s.newOpHere i st).faultWhere .idempotence (opIdem s.cur.1 st (s.newOpHere i st)) = []
    · rw [hidem, firstFault_cons_nil, firstFault_cons_ne _ hne] at hchecks
      exact hne hchecks
    · rw [firstFault_cons_ne _ hidem] at hchecks
      exact hidem hchecks
  simpa using Op.faultWhere_eq_nil.mp hmis l hl

/-- SST captures as many words as it stores. -/
theorem State.newOpHere_data_length {d a off : BitVec 8} {l : Nat} (hl : l ∈ lanesOf st.active) :
    ((s.newOpHere (.sst d a off) st).data l).length = wordCount (.sst d a off) st.group.mode := by
  have hwords : (s.newOpHere (.sst d a off) st).words l = captureLane st (opUse (.sst d a off) st.group.mode) l :=
    Assoc.get_map_lanes [] _ (captureLane st _) hl
  rw [Op.data, hwords]
  simp [State.newOpHere, newOp, addrWords, isScratchOp, captureLane, opUse, regs, wordCount]

/-- Each lane of an access that issues, where its sectors are good. -/
theorem OpReady.goodLane (r : OpReady i st s) (h : isScratchOp i = true) {l : Nat} (hl : l ∈ lanesOf st.active)
    (hgood : (s.core (s.scratchOf i st l).1).badRange (s.scratchOf i st l).2 (4 * wordCount i st.group.mode) = none) :
    (s.accessStarted i st).GoodLane s.cur.1 (s.newOpHere i st) l := by
  refine ⟨r.aligned h hl, ?_, ?_⟩
  · rw [State.scratchPlace_congr (State.accessStarted_core CoreSt.buffers (fun _ _ => rfl) (fun _ _ => rfl) h)]
    refine (State.accessStarted_core (fun k => k.badRange _ _) (fun _ _ => rfl) (fun _ _ => rfl) h _).trans hgood
  · rcases isScratchOp_cases h with ⟨_, _, _, rfl⟩ | ⟨_, _, _, rfl⟩ | ⟨_, _, _, rfl⟩
    · exact .inr fun d a off => Instr.noConfusion
    · exact .inl (State.newOpHere_data_length hl)
    · exact .inr fun d a off => Instr.noConfusion

/-- A scratch access that issues with no older operation of its strand: its lanes are performed. -/
theorem execOp_scratch (r : OpReady i st s) (h : isScratchOp i = true) (halone : (s.core s.cur.1).strandOps s.cur.2 = [])
    (hgathers : (s.core s.cur.1).gathers s.cur.2 ((s.core s.cur.1).gen s.cur.2) = false) {t : State} {o' : Op}
    (hlanes : State.performLanes s.cur.1 true false (lanesOf st.active) (s.accessStarted i st) (s.newOpHere i st) = (t, o')) :
    ∃ v : State, exec i s = .next v ∧ (∀ k, (v.core k).scratch = (t.core k).scratch) ∧ v.mem = t.mem ∧
      ((t.core s.cur.1).ops = (s.core s.cur.1).ops ++ [s.newOpHere i st] →
        (o'.returns = true ∨ o'.faults ≠ [] ∧ (t.core s.cur.1).gen o'.slot = o'.gen) →
        (v.core s.cur.1).ops = (s.core s.cur.1).ops ++ [o']) := by
  have hops := State.accessStarted_ops (s := s) (st := st) (i := i)
  have hgen (sl : Nat) : ((s.accessStarted i st).core s.cur.1).gen sl = (s.core s.cur.1).gen sl :=
    State.accessStarted_core (fun k => k.gen sl) (fun _ _ => rfl) (fun _ _ => rfl) h _
  have helig : (s.accessStarted i st).eligible s.cur.1 (s.core s.cur.1).ops.length = true := by
    refine State.eligible_first hops (hgen _).symm ?_ ?_
    · rw [hgen]
      exact halone
    · exact (State.accessStarted_core (fun k => k.gathers _ _) (fun _ _ => rfl) (fun _ _ => rfl) h _).trans hgathers
  have hperform := (State.performOp_scratch (c := s.cur.1) (s.accessStarted i st) (o := s.newOpHere i st) h).trans hlanes
  obtain ⟨hscratch, hmem, hkept⟩ := State.performScratchNow_done hops h helig hperform
  refine ⟨((s.accessStarted i st).performScratchNow s.cur.1).retireWord .seq, ?_, fun k => ?_, ?_, fun ht ho => ?_⟩
  · rw [(exec_isReplayed (by rcases isScratchOp_cases h with ⟨_, _, _, rfl⟩ | ⟨_, _, _, rfl⟩ | ⟨_, _, _, rfl⟩ <;> rfl)).1,
      execOp_ready r]
  · rw [State.retireWord_core CoreSt.scratch (fun _ _ => rfl), hscratch]
  · rw [State.retireWord_mem, hmem]
  · rw [State.retireWord_core CoreSt.ops (fun _ _ => rfl), hkept ht ho]

/-- One whose sectors are good. -/
theorem execOp_scratch_good (r : OpReady i st s) (h : isScratchOp i = true) (halone : (s.core s.cur.1).strandOps s.cur.2 = [])
    (hgathers : (s.core s.cur.1).gathers s.cur.2 ((s.core s.cur.1).gen s.cur.2) = false)
    (hgood : ∀ l ∈ lanesOf st.active,
      (s.core (s.scratchOf i st l).1).badRange (s.scratchOf i st l).2 (4 * wordCount i st.group.mode) = none) :
    ∃ v : State, exec i s = .next v ∧
      (∀ k, (v.core k).scratch = ((State.scratchRun s.cur.1 (s.newOpHere i st) (lanesOf st.active)
        (s.accessStarted i st)).1.core k).scratch) ∧
      v.mem = s.mem ∧
      ((opUse i st.group.mode).dests ≠ [] → (v.core s.cur.1).ops = (s.core s.cur.1).ops ++ [{ s.newOpHere i st with
        todo := 0#64, results := (State.scratchRun s.cur.1 (s.newOpHere i st) (lanesOf st.active)
          (s.accessStarted i st)).2 }]) := by
  have hlanes := State.performLanes_scratch (c := s.cur.1) (s := s.accessStarted i st) (o := s.newOpHere i st) h rfl fun l hl =>
    r.goodLane h hl (hgood l hl)
  obtain ⟨hsame, -⟩ := State.scratchRun_within fun l hl => r.goodLane h hl (hgood l hl)
  obtain ⟨v, hexec, hscratch, hmem, hops⟩ := execOp_scratch r h halone hgathers hlanes
  refine ⟨v, hexec, hscratch, hmem.trans ((hsame.keep State.mem fun _ => rfl).trans State.accessStarted_mem), fun hdests => ?_⟩
  refine hops ((hsame.core CoreSt.ops (fun _ => rfl) _).trans State.accessStarted_ops) (.inl ?_)
  simpa [Op.returns, State.newOpHere, newOp] using hdests

/-- One whose one lane faults. -/
theorem execOp_scratch_fault (r : OpReady i st s) (h : isScratchOp i = true) (halone : (s.core s.cur.1).strandOps s.cur.2 = [])
    (hgathers : (s.core s.cur.1).gathers s.cur.2 ((s.core s.cur.1).gen s.cur.2) = false) {l : Nat} {x : Cause} {t : State}
    (hone : lanesOf st.active = [l]) (hsame : (s.accessStarted i st).SameButScratch t)
    (hbytes : ∀ k, (t.core k).scratch = ((s.accessStarted i st).core k).scratch)
    (hfault : (s.accessStarted i st).performScratch s.cur.1 (s.newOpHere i st) l = (t, .fault (x, 0))) :
    ∃ v : State, exec i s = .next v ∧ v.mem = s.mem ∧ (∀ k, (v.core k).scratch = (s.core k).scratch) ∧
      (v.core s.cur.1).ops = (s.core s.cur.1).ops ++ [{ s.newOpHere i st with todo := 0#64, faults := [⟨l, x, 0⟩] }] := by
  have hlanes := State.performLanes_scratch_fault (s := s.accessStarted i st) (o := s.newOpHere i st) h hone rfl hfault
  rw [← hone] at hlanes
  obtain ⟨v, hexec, hscratch, hmem, hops⟩ := execOp_scratch r h halone hgathers hlanes
  refine ⟨v, hexec, hmem.trans ((hsame.keep State.mem fun _ => rfl).trans State.accessStarted_mem), fun k => ?_, ?_⟩
  · rw [hscratch, hbytes]
    exact State.accessStarted_core CoreSt.scratch (fun _ _ => rfl) (fun _ _ => rfl) h k
  · refine hops ((hsame.core CoreSt.ops (fun _ => rfl) _).trans State.accessStarted_ops) (.inr ⟨by simp, ?_⟩)
    exact (hsame.core (fun k => k.gen _) (fun _ => rfl) _).trans
      (State.accessStarted_core (fun k => k.gen _) (fun _ _ => rfl) (fun _ _ => rfl) h _)

end

end Sys2Proof.Machine

section
open Sys2Proof Sys2Proof.Machine

/-- Settles O28: the lanes of an access whose sectors are good are `State.scratchRun` (`execOp_scratch_good`); one whose
sectors fail is `execOp_scratch_fault`. -/
theorem scratchAccesses : Obligations.ScratchAccesses := by
  unfold Obligations.ScratchAccesses
  intro s st i h r halone hgathers
  have hplace (l : Nat) : (s.accessStarted i st).scratchPlace s.cur.1 ((s.newOpHere i st).addr l) = s.scratchOf i st l :=
    State.scratchPlace_congr (State.accessStarted_core CoreSt.buffers (fun _ _ => rfl) (fun _ _ => rfl) h) _ _
  have hbytes (k : Nat) : ((s.accessStarted i st).core k).scratch = (s.core k).scratch :=
    State.accessStarted_core CoreSt.scratch (fun _ _ => rfl) (fun _ _ => rfl) h k
  have hsectors (k off n : Nat) : ((s.accessStarted i st).core k).badRange off n = (s.core k).badRange off n :=
    State.accessStarted_core (fun k => k.badRange off n) (fun _ _ => rfl) (fun _ _ => rfl) h k
  have hread (k off n : Nat) : (s.accessStarted i st).scratchBytesAt k off n = s.scratchBytesAt k off n := by
    simp only [State.scratchBytesAt, hbytes]
  refine ⟨fun hgood => ?good, fun l c d a off hi hone hbad => ?fault, fun l c d a off hi hone hbad hin => ?faultStore⟩
  case good =>
    obtain ⟨t, hexec, hscratch, hmem, hops⟩ := execOp_scratch_good r h halone hgathers hgood
    refine ⟨t, hexec, hmem, fun k a hout => ?frame, fun d a off hi => ?sld, fun d a off hi k => ?sst, fun d a off l hi hone => ?satom⟩
    case frame =>
      rw [hscratch, ← hbytes]
      cases hread : isPureRead i with
      | true =>
        obtain ⟨d, a, off, hi⟩ : ∃ d a off, i = .sld d a off := by
          rcases isScratchOp_cases h with hi | ⟨_, _, _, rfl⟩ | ⟨_, _, _, rfl⟩
          · exact hi
          · exact absurd hread (by simp [isPureRead])
          · exact absurd hread (by simp [isPureRead])
        rw [State.scratchRun_sld (o := s.newOpHere i st) hi]
      | false =>
        refine (State.scratchRun_within fun l hl => r.goodLane h hl (hgood l hl)).2 k a fun l hl => ?_
        rw [hplace]
        exact (hout l hl).resolve_left (by simp [hread])
    case sld =>
      refine ⟨_, hops (by simp [hi, opUse, regs, modeCount]), ?_⟩
      rw [State.scratchRun_sld (o := s.newOpHere i st) hi]
      simp only [hplace, hread]
      rfl
    case sst =>
      rw [hscratch]
      exact State.scratchRun_sst (o := s.newOpHere i st) hi (s.scratchOf i st) _ hplace hbytes k
    case satom =>
      have hrun := State.scratchRun_satom (o := s.newOpHere i st) (c := s.cur.1) hi (s.accessStarted i st) l
      rw [hplace, hread] at hrun
      constructor
      · rw [hops (by simp [hi, opUse]), hone, hrun]
      · rw [hscratch, hone, hrun]
        exact State.pokeScratch_congr hbytes _ _ _ _
  case fault =>
    have hnot (d a off : BitVec 8) : (s.newOpHere i st).instr ≠ .sst d a off := by
      rcases hi with rfl | rfl <;> exact Instr.noConfusion
    refine execOp_scratch_fault r h halone hgathers hone (State.sameButScratch_consumeScratch _ _ _ _)
      (State.consumeScratch_core CoreSt.scratch (fun _ _ _ => rfl) _ _ _ _) (State.performScratch_bad hnot ?_)
    rw [hplace, hsectors]
    exact hbad
  case faultStore =>
    have hl : l ∈ lanesOf st.active := by simp [hone]
    have halign : (s.scratchOf i st l).2 % 4 = 0 := s.scratchPlace_aligned _ (r.aligned h hl)
    have hlen : ((s.newOpHere i st).data l).length = wordCount i st.group.mode := by
      subst hi
      exact State.newOpHere_data_length hl
    have hpos := wordCount_pos i st.group.mode
    have hne : (s.newOpHere i st).data l ≠ [] := fun hnil => by simp [hnil] at hlen; omega
    have hsector : ((s.accessStarted i st).core (s.scratchOf i st l).1).badSector ((s.scratchOf i st l).2 / 32) = some c :=
      (State.accessStarted_core (fun k => k.badSector _) (fun _ _ => rfl) (fun _ _ => rfl) h _).trans hbad
    obtain ⟨hkeep, hfirst⟩ := State.writeScratchWords_bad (ws := (s.newOpHere i st).data l) halign (by rw [hlen]; exact hin) hsector
    have hlane := State.performScratch_sst (s := s.accessStarted i st) (c := s.cur.1) (o := s.newOpHere i st) (l := l) hi
    rw [hplace, hfirst hne] at hlane
    obtain ⟨v, hexec, hmem, hscratch, hops⟩ := execOp_scratch_fault r h halone hgathers hone
      (State.writesWithin_writeScratchWords _ _ _ _).1 hkeep hlane
    exact ⟨v, hexec, hmem, hscratch, c, hops, rfl⟩

end

end

section
/-! SUPPORT. Words refused at issue: below their mode, with bits that no instruction has, and with a misaligned or live-in
address (R53, R64, R66, R67, R175, R207, R313, R327). -/

namespace Sys2Proof.Machine

section
variable {s : State} {st : Strand}

/-- A word below its mode traps, whatever its form, checks and effect are. -/
theorem issue_privileged {i : Instr} {u : Use} {f : Form} {ch : Strand → State → List (List LaneFault)} {eff : Effect}
    {idle : State → State} (h : s.here? = some st) (hmode : st.mode.code < minMode i) (hlanes : f.lanes st = st.trapLanes) :
    issue i u f ch eff idle s = .next (s.trapWord st (faultIn st.trapLanes .privileged)) := by
  rw [issue_refused h (checkWord_privileged u f.types hmode), hlanes]

/-- The instructions below their mode, each with the form in which it issues. -/
theorem exec_privileged {i : Instr} (h : s.here? = some st) (hmode : st.mode.code < minMode i)
    (hroom : ∀ d a, i = .ctxsv d a ∨ i = .ctxld d a →
      s.noRoom [.future] { gRead := [a.toNat], gDest := [d.toNat] } {} st = none) :
    exec i s = .next (s.trapWord st (faultIn st.trapLanes .privileged)) := by
  rcases minMode_cases i with hzero | rfl | rfl | ⟨n, rfl⟩ | ⟨a, n, rfl⟩ | ⟨d, a, rfl⟩ | ⟨d, a, rfl⟩ | ⟨a, rfl⟩ |
    ⟨d, n, rfl⟩ | ⟨d, n, rfl⟩ | ⟨d, n, rfl⟩
  · omega
  · change returnWord .sret s = _
    unfold returnWord
    exact issue_privileged h hmode rfl
  · change returnWord .hret s = _
    unfold returnWord
    exact issue_privileged h hmode rfl
  · change trapInstr (.hcall n) .hypercall n.toNat true s = _
    unfold trapInstr
    exact issue_privileged h hmode rfl
  · change execTinv a n s = _
    unfold execTinv
    exact issue_privileged h hmode rfl
  · change execCtxsv d a s = _
    unfold execCtxsv
    rw [issueIn_room h (hroom d a (.inl rfl))]
    exact issue_privileged h hmode rfl
  · change execCtxld d a s = _
    unfold execCtxld
    rw [issueIn_room h (hroom d a (.inr rfl))]
    exact issue_privileged h hmode rfl
  · change execKill a s = _
    unfold execKill
    exact issue_privileged h hmode rfl
  · change execMfpr d n s = _
    unfold execMfpr
    exact issue_privileged h hmode rfl
  · change execMtpr d n s = _
    unfold execMtpr
    exact issue_privileged h hmode rfl
  · change execSreg d n s = _
    unfold execSreg
    exact issue_privileged h hmode rfl

/-- A word refused in its own bits. -/
theorem refuseWord_here (h : s.here? = some st) (w : Word) : refuseWord w s =
    .next (s.trapWord st (faultIn st.trapLanes (if st.mode.code < wordMode w then .privileged else .illegalInstruction))) := by
  simp only [refuseWord, h]

/-- The mode of a word of MFPR or MTPR is that of the register that it names. -/
theorem wordMode_special {w : Word} (h : w.extractLsb' 24 8 = 0xC4#8 ∨ w.extractLsb' 24 8 = 0xC5#8) :
    wordMode w = specialMode (w.extractLsb' 0 16).toNat := by
  have hop : slice w 31 24 = 0xC4 ∨ slice w 31 24 = 0xC5 := by
    rw [Laws.slice_op]
    rcases h with h | h <;> simp [h]
  have himm : slice w 15 0 = (w.extractLsb' 0 16).toNat := by simp [slice]
  rw [wordMode, if_pos hop, himm]

/-- The checks of the addresses of a load, store or atomic: live-in granules, then alignment, then the others. -/
theorem opChecks_addresses {i : Instr} {d a off : BitVec 8} {p : BitVec 7}
    (hi : i = .ld d p off ∨ i = .st d p off ∨ i = .atom d p off ∨ i = .sld d a off ∨ i = .sst d a off ∨ i = .satom d a off) :
    isReplayed i = true ∧ ∃ rest, firstFault (opChecks s.cur.1 st (s.newOpHere i st) s) = firstFault
      ((s.newOpHere i st).faultWhere .idempotence (opIdem s.cur.1 st (s.newOpHere i st)) ::
       (s.newOpHere i st).faultWhere .misaligned (fun l => (s.newOpHere i st).addr l % 4 != 0) :: rest) := by
  have hnone (i : Instr) (h : ∀ l, opIdem s.cur.1 st (s.newOpHere i st) l = false) :
      (s.newOpHere i st).faultWhere .idempotence (opIdem s.cur.1 st (s.newOpHere i st)) = [] :=
    Op.faultWhere_eq_nil.mpr fun l _ => h l
  rcases hi with rfl | rfl | rfl | rfl | rfl | rfl
  · exact ⟨rfl, _, by rw [hnone _ fun _ => rfl]; rfl⟩
  · exact ⟨rfl, _, by rw [hnone _ fun _ => rfl]; rfl⟩
  · exact ⟨rfl, _, by rw [hnone _ fun _ => rfl]; rfl⟩
  all_goals exact ⟨rfl, _, rfl⟩

/-- A table-space or scratch word with room, of which lanes fail a check of their operands. -/
theorem execOp_trap {i : Instr} (hi : isReplayed i = true) (r : Ready i (opUse i st.group.mode) (opForm i st) st s)
    (hroom : s.noRoom (opNeeds i) (opUse i st.group.mode) (opForm i st) st = none)
    (hfault : firstFault (opChecks s.cur.1 st (s.newOpHere i st) s) ≠ []) :
    exec i s = .next (s.trapWord st (firstFault (opChecks s.cur.1 st (s.newOpHere i st) s))) := by
  rw [(exec_isReplayed hi).1]
  unfold execOp
  simp only [r.here]
  exact (issueIn_room r.here hroom).trans (issue_trap r hfault)

end

end Sys2Proof.Machine

section
open Sys2Proof Sys2Proof.Machine

/-- Settles O34: `exec_privileged` and `refuseWord_here` for the modes; the first two checks of an address are
`opChecks_addresses`, and the first that fails is the trap. -/
theorem illegalWordsTrap : Obligations.IllegalWordsTrap := by
  unfold Obligations.IllegalWordsTrap
  refine ⟨fun s st i h hmode hroom => exec_privileged h hmode hroom,
    fun s st h => ⟨fun w => ?unassigned, fun w hw => ?malformed, fun w hw => ?below, fun w hw => wordMode_special hw⟩,
    fun s st i d a off p hi r _ hroom => ?address⟩
  case unassigned =>
    change execUnassignedOpcode w s = _
    simp only [execUnassignedOpcode, h]
  case malformed => rw [refuseWord_here h, if_neg (Nat.not_lt.mpr hw)]
  case below => rw [refuseWord_here h, if_pos hw]
  case address =>
    obtain ⟨hreplayed, rest, hchecks⟩ := opChecks_addresses (s := s) (st := st) hi
    have hmap {k : Cause} {f : Nat → Bool} (hne : (lanesOf st.active).filter f ≠ []) :
        (s.newOpHere i st).faultWhere k f ≠ [] := fun hnil => hne (List.map_eq_nil_iff.mp hnil)
    refine ⟨fun hidem hbad => ?_, fun hidem => ?_⟩
    · have hfirst : firstFault (opChecks s.cur.1 st (s.newOpHere i st) s) =
          (s.newOpHere i st).faultWhere .misaligned fun l => (s.newOpHere i st).addr l % 4 != 0 := by
        have hnil : (s.newOpHere i st).faultWhere .idempotence (opIdem s.cur.1 st (s.newOpHere i st)) = [] :=
          List.map_eq_nil_iff.mpr hidem
        rw [hchecks, hnil, firstFault_cons_nil, firstFault_cons_ne _ (hmap hbad)]
      rw [execOp_trap hreplayed r hroom (by rw [hfirst]; exact hmap hbad), hfirst]
      rfl
    · have hfirst : firstFault (opChecks s.cur.1 st (s.newOpHere i st) s) =
          (s.newOpHere i st).faultWhere .idempotence (opIdem s.cur.1 st (s.newOpHere i st)) := by
        rw [hchecks, firstFault_cons_ne _ (hmap hidem)]
      rw [execOp_trap hreplayed r hroom (by rw [hfirst]; exact hmap hidem), hfirst]
      rfl

end

end

section
/-! SUPPORT. The rules of R46 on a clause, and the opening of one. -/

namespace Sys2Proof.Machine

theorem testBit_marks (h : Word) {i : Nat} (hi : i < 8) : (slice h 31 24).testBit i = h.getLsbD (24 + i) := by
  rw [slice, Nat.testBit_mod_two_pow, Nat.testBit_shiftRight, BitVec.getLsbD]
  simp [hi]

/-- Whether each mark of a header stands on a word of the clause with a vector field a. -/
def marksLegal (h : Word) (ws : List Word) : Bool :=
  (List.range 8).all fun i => !(slice h 31 24).testBit i || match ws[i]? with
    | some w => vectorAOps.contains (opOf w)
    | none => false

/-- Whether each word that must be the last of a clause is. -/
def lastLegal (ws : List Word) : Bool := ws.zipIdx.all fun x => !lastOps.contains (opOf x.1) || x.2 + 1 == ws.length

theorem marksLegal_eq_false {h : Word} {ws : List Word} : marksLegal h ws = false ↔
    (∃ i, i < 8 ∧ h.getLsbD (24 + i) = true ∧ ws.length ≤ i) ∨
      ∃ i w, h.getLsbD (24 + i) = true ∧ ws[i]? = some w ∧ opOf w ∉ vectorAOps := by
  unfold marksLegal
  rw [List.all_eq_false]
  constructor
  · rintro ⟨i, hi, hbad⟩
    have hlt : i < 8 := List.mem_range.mp hi
    rw [testBit_marks h hlt, Bool.not_eq_true, Bool.or_eq_false_iff, Bool.not_eq_false'] at hbad
    obtain ⟨hmark, hword⟩ := hbad
    cases hw : ws[i]? with
    | none => exact .inl ⟨i, hlt, hmark, List.getElem?_eq_none_iff.mp hw⟩
    | some w =>
      simp only [hw] at hword
      exact .inr ⟨i, w, hmark, hw, by simpa using hword⟩
  · rintro (⟨i, hlt, hmark, hlen⟩ | ⟨i, w, hmark, hw, hop⟩)
    · refine ⟨i, List.mem_range.mpr hlt, ?_⟩
      simp [testBit_marks h hlt, hmark, List.getElem?_eq_none_iff.mpr hlen]
    · have hlt : i < 8 := by
        by_contra hge
        rw [BitVec.getLsbD_of_ge _ _ (by omega)] at hmark
        exact Bool.noConfusion hmark
      refine ⟨i, List.mem_range.mpr hlt, ?_⟩
      simpa [testBit_marks h hlt, hmark, hw] using hop

theorem lastLegal_eq_false {ws : List Word} :
    lastLegal ws = false ↔ ∃ i w, ws[i]? = some w ∧ opOf w ∈ lastOps ∧ i + 1 ≠ ws.length := by
  unfold lastLegal
  rw [List.all_eq_false]
  constructor
  · rintro ⟨⟨w, i⟩, hmem, hbad⟩
    exact ⟨i, w, List.mk_mem_zipIdx_iff_getElem?.mp hmem, by simpa using hbad⟩
  · rintro ⟨i, w, hw, hop, hne⟩
    exact ⟨(w, i), List.mk_mem_zipIdx_iff_getElem?.mpr hw, by simpa using ⟨hop, hne⟩⟩

theorem clauseLegal_eq (h : Word) (ws : List Word) : clauseLegal h ws =
    (!h.getLsbD 0 && !(12 ≤ slice h 11 8 && slice h 11 8 ≤ 14) && !(12 ≤ slice h 7 4 && slice h 7 4 ≤ 14) && longOps ws ≤ 2 &&
      !(slice h 11 8 == 15 && 1 ≤ longOps ws) && !(slice h 7 4 == 15 && longOps ws == 2) &&
      !(slice h 11 8 != 15 && longOps ws == 0) && !(slice h 7 4 != 15 && longOps ws < 2) &&
      !(slice h 11 8 == slice h 7 4 && slice h 11 8 != 15) && marksLegal h ws && lastLegal ws) := rfl

/-- A clause is illegal exactly when one of the nine points of R46 holds. -/
theorem clauseLegal_eq_false (h : Word) (ws : List Word) :
    clauseLegal h ws = false ↔
      h.getLsbD 0 = true ∨ (12 ≤ slice h 11 8 ∧ slice h 11 8 ≤ 14 ∨ 12 ≤ slice h 7 4 ∧ slice h 7 4 ≤ 14) ∨ 2 < longOps ws ∨
      (slice h 11 8 = 15 ∧ 1 ≤ longOps ws ∨ slice h 7 4 = 15 ∧ longOps ws = 2) ∨
      (slice h 11 8 ≠ 15 ∧ longOps ws = 0 ∨ slice h 7 4 ≠ 15 ∧ longOps ws < 2) ∨
      (slice h 11 8 = slice h 7 4 ∧ slice h 11 8 ≠ 15) ∨
      (∃ i, i < 8 ∧ h.getLsbD (24 + i) = true ∧ ws.length ≤ i) ∨
      (∃ i w, h.getLsbD (24 + i) = true ∧ ws[i]? = some w ∧ opOf w ∉ vectorAOps) ∨
      (∃ i w, ws[i]? = some w ∧ opOf w ∈ lastOps ∧ i + 1 ≠ ws.length) := by
  rw [clauseLegal_eq]
  simp only [Bool.and_eq_false_iff, Bool.not_eq_false', Bool.and_eq_true, decide_eq_true_eq, decide_eq_false_iff_not, beq_iff_eq,
    bne_iff_ne, Nat.not_le, marksLegal_eq_false, lastLegal_eq_false, or_assoc]

section
variable {s s1 : State} {st : Strand} {h : Word} {ws : List Word}

/-- A legal clause that may go on, at a word of it: open, and counted. -/
theorem openClause_opens (hfetch : fetchWords (st.who s.cur.1) (slice h 3 1 + 1) (st.pc + 4#64) s = (s1, .ok ws))
    (hlegal : clauseLegal h ws = true) (hwait : waitDone h st.flags = true) (hidx : st.pcIdx < ws.length) :
    openClause h st s = (s1.setHere { st with
      clause := some ⟨st.pc, h, ws, st.pcIdx⟩
      wait := if st.group.policy != 0 && st.pcIdx == 0 && policyWord ws then .implicit else .none }).count s.cur.1 0x0001 := by
  simp only [openClause, hfetch, hlegal, hwait, Nat.not_le.mpr hidx]
  rfl

theorem openClause_illegal (hfetch : fetchWords (st.who s.cur.1) (slice h 3 1 + 1) (st.pc + 4#64) s = (s1, .ok ws))
    (hillegal : clauseLegal h ws = false) (hlink : s1.awaitsLink s.cur.1 s.cur.2 = false) :
    openClause h st s = s1.takeTrap s.cur.1 s.cur.2 (faultIn st.trapLanes .illegalClause) (st.pc, st.pcIdx) := by
  simp only [openClause, hfetch, hillegal, hlink]
  rfl

end

theorem slice_headerWord_n (l : BitVec 8) (w : BitVec 12) (a b : BitVec 4) (n : BitVec 3) :
    slice (headerWord l w a b n) 3 1 = n.toNat := by
  have hx : (headerWord l w a b n).extractLsb' 1 3 = n := by
    unfold headerWord
    ext i hi
    rw [BitVec.getElem_extractLsb', BitVec.getLsbD_append, BitVec.getLsbD_append]
    simp [hi]
  have hslice : slice (headerWord l w a b n) 3 1 = ((headerWord l w a b n).extractLsb' 1 3).toNat := by simp [slice]
  rw [hslice, hx]

theorem State.here?_count (s : State) (c sel n : Nat) : (s.count c sel n).here? = s.here? := by
  unfold State.count
  by_cases hc : c = s.cur.1
  · subst hc
    rw [State.here?, State.here?, State.strand?, State.strand?, State.modCore_cur, State.core_modCore]
    rfl
  · rw [State.here?, State.here?, State.strand?, State.strand?, State.modCore_cur, State.core_modCore_other _ _ hc]

/-- A strand replaced changes nothing else of any core. -/
theorem State.setHere_core {β : Type} (p : CoreSt → β) (h : ∀ (k : CoreSt) x, p { k with slots := x } = p k) (s : State)
    (st : Strand) (c : Nat) : p ((s.setHere st).core c) = p (s.core c) := by
  unfold State.setHere State.setStrand
  by_cases hc : s.cur.1 = c
  · rw [← hc, State.core_modCore]
    exact h _ _
  · rw [State.core_modCore_other _ _ hc]

theorem execClauseHeader_opens {s : State} {st : Strand} (hst : s.here? = some st) (hclause : st.clause = none) (l : BitVec 8)
    (w : BitVec 12) (a b : BitVec 4) (n : BitVec 3) :
    exec (.clauseHeader l w a b n) s = .next (openClause (headerWord l w a b n) st s) := by
  change execClauseHeader l w a b n s = _
  simp only [execClauseHeader, hst, hclause]

end Sys2Proof.Machine

section
open Sys2Proof Sys2Proof.Machine

/-- Settles O35: `clauseLegal_eq_false` for the nine points; the opening is `openClause_opens`, the trap
`openClause_illegal`. -/
theorem clauseOpens : Obligations.ClauseOpens := by
  unfold Obligations.ClauseOpens
  refine ⟨fun h ws _ => ?points, fun s s1 st l w a b n ws hst hclause hfetch => ?opens⟩
  case points =>
    have ha : slice h 11 8 = (h.extractLsb' 8 4).toNat := by simp [slice]
    have hb : slice h 7 4 = (h.extractLsb' 4 4).toNat := by simp [slice]
    have hpoints := clauseLegal_eq_false h ws
    rw [ha, hb] at hpoints
    exact hpoints
  case opens =>
    rw [execClauseHeader_opens hst hclause]
    rw [← slice_headerWord_n l w a b n] at hfetch
    refine ⟨fun hlegal hwait hidx => ?_, fun hillegal hlink => ?_⟩
    · rw [openClause_opens hfetch hlegal hwait hidx]
      refine ⟨_, { st with
        clause := some ⟨st.pc, headerWord l w a b n, ws, st.pcIdx⟩
        wait := if st.group.policy != 0 && st.pcIdx == 0 && policyWord ws then .implicit else .none }, rfl, ?_, rfl, rfl, ?_⟩
      · rw [State.here?_count, State.here?_setHere]
      · rw [State.count, State.core_modCore]
        refine (Assoc.get_put_same _ _ _ _).trans (congrArg (· + 1#64) ?_)
        exact State.setHere_core (fun k => k.counter 0x0001) (fun _ _ => rfl) s1 _ _
    · rw [openClause_illegal hfetch hillegal hlink]

end

end

section
/-! SUPPORT. What a write at a physical address does to memory while every bank set is active (R285, R296). -/

namespace Sys2Proof.Machine

/-- Every bank set is active. -/
def State.Awake (s : State) : Prop := ∀ b, (s.bank b).state = .active

section
variable {s t u : State}

theorem State.Awake.of_banks (h : s.Awake) (hbanks : t.banks = s.banks) : t.Awake := fun b => by
  rw [State.bank, hbanks]
  exact h b

theorem State.Awake.setBank (h : s.Awake) (b : Nat) (x : Bank) (hx : x.state = .active) : (s.setBank b x).Awake := fun b' => by
  by_cases hb : b = b'
  · subst hb
    rw [State.bank, State.setBank, Assoc.get_set_same]
    exact hx
  · rw [State.bank, State.setBank, Assoc.get_set_other _ _ _ hb]
    exact h b'

theorem State.asleep_of_awake (h : s.Awake) (pa : Nat) : s.asleep pa = false := by
  unfold State.asleep
  rw [h (pa / 2 ^ 30)]
  exact Bool.and_false _

theorem State.touch_of_awake (h : s.Awake) (pa : Nat) : (s.touch pa).Awake ∧ (s.touch pa).mem = s.mem := by
  unfold State.touch
  split
  · exact ⟨h, rfl⟩
  · have hcached : (s.cacheSector pa).Awake := h.of_banks rfl
    simp only [hcached (pa / 2 ^ 30)]
    exact ⟨hcached.setBank _ _ rfl, rfl⟩

theorem State.serve_of_awake (h : s.Awake) (w : Who) (pa : Nat) : (s.serve w pa).Awake ∧ (s.serve w pa).mem = s.mem := by
  rw [State.serve, State.asleep_of_awake h]
  exact State.touch_of_awake h pa

/-- A report is posted to the queue, and may stop the clocks. -/
theorem State.postFault_keep {β : Type} (p : State → β) (hq : ∀ (s : State) q, p { s with faultQ := q } = p s)
    (ho : ∀ (s : State) q, p { s with overflows := q } = p s)
    (hf : ∀ (s : State) x y, p { s with freeze := x, fresh := y } = p s) (s : State) (e : FaultEntry) :
    p (s.postFault e) = p s := by
  have hfreeze (s : State) (n : Nat) : p (s.freezeBy n) = p s := by
    unfold State.freezeBy
    split
    · split
      · exact hf s _ s.fresh
      · rfl
    · exact hf s _ _
  unfold State.postFault
  split
  · dsimp only
    split
    · exact (hfreeze _ _).trans (hq _ _)
    · exact hq _ _
  · exact ho _ _

theorem State.Awake.post (h : s.Awake) (w : Who) (pa cause : Nat) : (s.post w pa cause).Awake :=
  h.of_banks (State.postFault_keep State.banks (fun _ _ => rfl) (fun _ _ => rfl) (fun _ _ _ => rfl) s _)

theorem State.consume_of_awake (h : s.Awake) (w : Who) (n : Nat) :
    (s.consume w n).1.Awake ∧ (s.consume w n).1.mem.cells = s.mem.cells := by
  obtain ⟨hserved, hmem⟩ := State.serve_of_awake h w (32 * n)
  unfold State.consume
  dsimp only
  split
  · exact ⟨hserved.post _ _ _, by rw [State.mem_post, hmem]⟩
  · split
    · exact ⟨hserved.post _ _ _, by rw [State.mem_post, hmem]⟩
    · split
      · refine ⟨State.Awake.post (s := { s.serve w (32 * n) with mem := (s.serve w (32 * n)).mem.setPoison n true })
          (hserved.of_banks rfl) _ _ _, ?_⟩
        rw [State.mem_post]
        change (s.serve w (32 * n)).mem.cells = s.mem.cells
        rw [hmem]
      · exact ⟨hserved, by rw [hmem]⟩

/-- What a write of bytes at an address leaves: every bank set active, the bytes outside the write, and, where it met no
fault, the bytes written. -/
structure State.Writes (s t : State) (pa : Nat) (bs : List Byte) (ok : Prop) : Prop where
  awake : t.Awake
  frame : ∀ a, a < pa ∨ pa + bs.length ≤ a → t.mem.byte a = s.mem.byte a
  bytes : ok → ∀ i, i < bs.length → t.mem.byte (pa + i) = bs.getD i 0#8

variable {w : Who} {pa : Nat} {bs : List Byte} {ok ok' : Prop}

theorem State.Writes.nothing (h : t.Awake) (hcells : t.mem.cells = s.mem.cells) (hok : ok → bs = []) : s.Writes t pa bs ok := by
  refine ⟨h, fun a _ => ?_, fun hdone i hi => ?_⟩
  · rw [Mem.byte, hcells, Mem.byte]
  · rw [hok hdone] at hi
    exact absurd hi (Nat.not_lt_zero i)

theorem State.Writes.poke {m : Mem} (h : t.Awake) (hm : t.mem.cells = (m.poke pa bs).cells) (hs : m.cells = s.mem.cells) :
    s.Writes t pa bs True := by
  have hbyte (a : Nat) : t.mem.byte a = (m.poke pa bs).byte a := by rw [Mem.byte, hm, Mem.byte]
  have hold (a : Nat) : m.byte a = s.mem.byte a := by rw [Mem.byte, hs, Mem.byte]
  refine ⟨h, fun a ha => ?_, fun _ i hi => ?_⟩
  · rw [hbyte, Mem.byte_poke_other m ha, hold]
  · rw [hbyte, Mem.byte_poke, if_pos (by omega), Nat.add_sub_cancel_left, List.getD_eq_getElem _ _ hi, List.getD_eq_getElem _ _ hi]

/-- Two writes, the second of what the first left over. -/
theorem State.Writes.append {k : Nat} (h : s.Writes t pa (bs.take k) ok) (h' : t.Writes u (pa + k) (bs.drop k) ok') :
    s.Writes u pa bs (ok ∧ ok') := by
  refine ⟨h'.awake, fun a ha => ?_, fun ⟨hok, hok'⟩ i hi => ?_⟩
  · rw [h'.frame a (by rw [List.length_drop]; omega), h.frame a (by rw [List.length_take]; omega)]
  · by_cases hik : i < k
    · rw [h'.frame _ (by omega), h.bytes hok i (by rw [List.length_take]; omega)]
      simp [List.getD_eq_getElem?_getD, hik]
    · have hrest := h'.bytes hok' (i - k) (by rw [List.length_drop]; omega)
      rw [show pa + k + (i - k) = pa + i by omega] at hrest
      rw [hrest]
      simp [List.getD_eq_getElem?_getD, show k + (i - k) = i by omega]

theorem State.Writes.mono (h : s.Writes t pa bs ok) (hok : ok' → ok) : s.Writes t pa bs ok' :=
  ⟨h.awake, h.frame, fun hdone => h.bytes (hok hdone)⟩

theorem State.writes_writeSector (h : s.Awake) (w : Who) (n pa : Nat) (bs : List Byte) :
    s.Writes (s.writeSector w n pa bs).1 pa bs ((s.writeSector w n pa bs).2 = none) := by
  unfold State.writeSector
  split
  · obtain ⟨hserved, hmem⟩ := State.serve_of_awake h w pa
    exact State.Writes.mono (State.Writes.poke (m := (s.serve w pa).mem) (hserved.of_banks rfl) rfl (by rw [hmem])) fun _ => trivial
  · obtain ⟨hconsumed, hcells⟩ := State.consume_of_awake h w n
    split
    next t c hc =>
      rw [hc] at hconsumed hcells
      exact .nothing hconsumed hcells fun hnone => absurd hnone (by simp)
    next t hc =>
      rw [hc] at hconsumed hcells
      exact State.Writes.mono (State.Writes.poke (m := t.mem) (hconsumed.of_banks rfl) rfl hcells) fun _ => trivial

theorem State.writes_writeSectors (w : Who) (fuel pa : Nat) (bs : List Byte) {s : State} (h : s.Awake)
    (hfuel : bs.length + pa % 32 ≤ 32 * fuel) :
    s.Writes (State.writeSectors w fuel pa bs s).1 pa bs ((State.writeSectors w fuel pa bs s).2 = none) := by
  induction fuel generalizing pa bs s with
  | zero => exact .nothing h rfl fun _ => List.eq_nil_of_length_eq_zero (by omega)
  | succ fuel ih =>
    unfold State.writeSectors
    split
    next hempty => exact .nothing h rfl fun _ => List.isEmpty_iff.mp hempty
    next =>
      have hsector := State.writes_writeSector h w (pa / 32) pa (bs.take (32 - pa % 32))
      have hrest {t : State} (ht : t.Awake) := ih (pa + (32 - pa % 32)) (bs.drop (32 - pa % 32)) (s := t) ht
        (by rw [List.length_drop]; omega)
      dsimp only
      split
      next t c hc =>
        rw [hc] at hsector
        exact (hsector.append (hrest hsector.awake)).mono fun hnone => absurd hnone (by simp)
      next t hc =>
        rw [hc] at hsector
        exact (hsector.append (hrest hsector.awake)).mono fun hnone => ⟨rfl, hnone⟩

theorem State.writes_writeUnit (h : s.Awake) (w : Who) (pa : Nat) (bs : List Byte) (hlen : bs.length + pa % 256 ≤ 256) :
    s.Writes (s.writeUnit w pa bs).1 pa bs ((s.writeUnit w pa bs).2 = none) := by
  have hsectors {t : State} (ht : t.Awake) := State.writes_writeSectors w 9 pa bs ht (by omega)
  unfold State.writeUnit
  split
  · split
    · have hsealed := hsectors (t := { s with mem := { s.mem with sealed := Assoc.set s.mem.sealed (pa / 256) (s.sealOf w.keyid) } })
        (h.of_banks rfl)
      exact ⟨hsealed.awake, hsealed.frame, hsealed.bytes⟩
    · split
      · exact hsectors h
      · exact .nothing (h.post _ _ _) (by rw [State.mem_post]) fun hnone => absurd hnone (by simp)
  · exact hsectors h

theorem State.writes_writeUnits (w : Who) (fuel pa : Nat) (bs : List Byte) {s : State} (h : s.Awake)
    (hfuel : bs.length + pa % 256 ≤ 256 * fuel) :
    s.Writes (State.writeUnits w fuel pa bs s).1 pa bs ((State.writeUnits w fuel pa bs s).2 = none) := by
  induction fuel generalizing pa bs s with
  | zero => exact .nothing h rfl fun _ => List.eq_nil_of_length_eq_zero (by omega)
  | succ fuel ih =>
    unfold State.writeUnits
    split
    next hempty => exact .nothing h rfl fun _ => List.isEmpty_iff.mp hempty
    next =>
      have hunit := State.writes_writeUnit h w pa (bs.take (256 - pa % 256)) (by rw [List.length_take]; omega)
      have hrest {t : State} (ht : t.Awake) := ih (pa + (256 - pa % 256)) (bs.drop (256 - pa % 256)) (s := t) ht
        (by rw [List.length_drop]; omega)
      dsimp only
      split
      next t c hc =>
        rw [hc] at hunit
        exact (hunit.append (hrest hunit.awake)).mono fun hnone => absurd hnone (by simp)
      next t hc =>
        rw [hc] at hunit
        exact (hunit.append (hrest hunit.awake)).mono fun hnone => ⟨rfl, hnone⟩

theorem State.writes_writePhys (h : s.Awake) (w : Who) (pa : Nat) (bs : List Byte) :
    s.Writes (s.writePhys w pa bs).1 pa bs ((s.writePhys w pa bs).2 = .ok ()) := by
  have hat := State.writes_writeUnits w (bs.length / 256 + 2) pa bs h (by omega)
  unfold State.writePhys State.writeAt
  split
  next t c hc =>
    rw [hc] at hat
    exact hat.mono fun hok => absurd hok (by simp)
  next t hc =>
    rw [hc] at hat
    exact hat.mono fun _ => rfl

end

end Sys2Proof.Machine

section
open Sys2Proof Sys2Proof.Machine

/-- Settles O33: units, sectors and bytes in turn, by `State.writes_writePhys`. -/
theorem physicalWriteFrame : Obligations.PhysicalWriteFrame := by
  unfold Obligations.PhysicalWriteFrame
  intro s w pa bs h
  have hwrites := State.writes_writePhys (s := s) h w pa bs
  exact ⟨hwrites.frame, hwrites.bytes⟩

end

end

section
/-! SUPPORT. Privileged registers as MFPR reads and MTPR writes them (R305, R306, R316), and the words of one field
(R276, R278, R287, R321, R326). -/

namespace Sys2Proof.Machine

section
variable {s : State} {st : Strand}

/-- A privileged register of a strand written: the part of `State.setPriv` on the strand. -/
def Strand.setPriv (st : Strand) (n : Nat) (x : DWord) : Strand :=
  match n with
  | 0 => { st with group := { st.group with astat := x.setWidth 5 } }
  | 1 => { st with group := { st.group with aten := x.setWidth 5 } }
  | 33 => { st with domain := x.setWidth 16 }
  | 34 => { st with keyid := x.setWidth 10 }
  | _ => st

/-- A privileged register of a core written: the part of `State.setPriv` on the core. -/
def CoreSt.setPriv (k : CoreSt) (n : Nat) (x : DWord) : CoreSt :=
  match n with
  | 16 => { k with trapBase := field64 x 51 2 }
  | 18 => { k with trapFrame := field64 x 51 8 }
  | 32 => { k with hTrapBase := field64 x 51 20 }
  | _ => k

theorem State.here?_modCore (s : State) (c : Nat) {f : CoreSt → CoreSt} (hf : ∀ k, (f k).slots = k.slots) :
    (s.modCore c f).here? = s.here? := by
  rw [State.here?, State.here?, State.strand?, State.strand?, State.modCore_cur]
  by_cases hc : c = s.cur.1
  · rw [hc, State.core_modCore, hf]
  · rw [State.core_modCore_other _ _ hc]

theorem State.here?_setPriv (h : s.here? = some st) (n : Nat) (x : DWord) :
    (s.setPriv s.cur.1 s.cur.2 n x).here? = some (st.setPriv n x) := by
  have hstrand (f : Strand → Strand) : (s.modStrand s.cur.1 s.cur.2 f).here? = some (f st) := by
    change (s.modHere f).here? = _
    rw [State.modHere_eq h, State.here?_setHere]
  have hcore {f : CoreSt → CoreSt} (hf : ∀ k, (f k).slots = k.slots) : (s.modCore s.cur.1 f).here? = some st := by
    rw [State.here?_modCore _ _ hf, h]
  unfold State.setPriv
  split
  · exact hstrand _
  · exact hstrand _
  · exact hcore fun _ => rfl
  · exact hcore fun _ => rfl
  · exact hcore fun _ => rfl
  · exact hstrand _
  · exact hstrand _
  · next h0 h1 _ _ _ h33 h34 =>
    rw [h]
    unfold Strand.setPriv
    split
    · exact absurd rfl h0
    · exact absurd rfl h1
    · exact absurd rfl h33
    · exact absurd rfl h34
    · rfl

/-- Of the core a register written changes that register alone. -/
theorem State.core_setPriv {β : Type} (p : CoreSt → β) (hp : ∀ (k : CoreSt) x, p { k with slots := x } = p k)
    (h : s.here? = some st) (n : Nat) (x : DWord) :
    p ((s.setPriv s.cur.1 s.cur.2 n x).core s.cur.1) = p ((s.core s.cur.1).setPriv n x) := by
  have hstrand (f : Strand → Strand) : p ((s.modStrand s.cur.1 s.cur.2 f).core s.cur.1) = p (s.core s.cur.1) := by
    change p ((s.modHere f).core s.cur.1) = _
    rw [State.modHere_eq h, State.core_setHere, hp]
  unfold State.setPriv
  split
  · exact hstrand _
  · exact hstrand _
  · rw [State.core_modCore]
    rfl
  · rw [State.core_modCore]
    rfl
  · rw [State.core_modCore]
    rfl
  · exact hstrand _
  · exact hstrand _
  · next _ _ h16 h18 h32 _ _ =>
    unfold CoreSt.setPriv
    split
    · exact absurd rfl h16
    · exact absurd rfl h18
    · exact absurd rfl h32
    · rfl

theorem State.setPriv_mem (s : State) (c sl n : Nat) (x : DWord) : (s.setPriv c sl n x).mem = s.mem := by
  unfold State.setPriv
  split <;> simp

/-- What MFPR reads of a core are its handler bases and its frame area. -/
theorem privValue_slots (st : Strand) (n : Nat) (k : CoreSt) (x : List (Nat × Strand)) :
    privValue { k with slots := x } st n = privValue k st n := rfl

theorem privValue_futures (st : Strand) (n : Nat) (k : CoreSt) (fs : List (Nat × Future)) :
    privValue { k with futures := fs } st n = privValue k st n := rfl

theorem privValue_before (u : Use) (f : Form) (y : Strand) (n : Nat) :
    privValue ((s.before u f st).core s.cur.1) y n = privValue (s.core s.cur.1) y n :=
  State.before_core (fun k => privValue k y n) (privValue_futures y n) (privValue_slots y n) s u f st

/-! ### The values that MFPR reads -/

/-- TRAPCAUSE reads as that of the lowest lane in TRAPMASK. -/
theorem Strand.firstCause_lowest {l : Nat} (hl : st.trapMask.getLsbD l = true)
    (hlowest : ∀ j < l, st.trapMask.getLsbD j = false) : st.firstCause = (Assoc.get 0#32 st.trapCause l).setWidth 64 := by
  have hmem : l ∈ lanesOf st.trapMask := mem_lanesOf.mpr hl
  have hsorted : (lanesOf st.trapMask).Pairwise (· < ·) := List.Pairwise.filter _ List.pairwise_lt_range
  unfold Strand.firstCause
  split
  next hnil => simp [hnil] at hmem
  next k ks hls =>
    have hk : st.trapMask.getLsbD k = true := mem_lanesOf.mp (by simp [hls])
    rw [hls] at hmem hsorted
    rcases List.mem_cons.mp hmem with rfl | htail
    · rfl
    · rw [hlowest k ((List.pairwise_cons.mp hsorted).1 l htail)] at hk
      exact Bool.noConfusion hk

theorem Strand.firstCause_none (h : st.trapMask = 0#64) : st.firstCause = 0#64 := by
  unfold Strand.firstCause
  split
  next => rfl
  next k ks hls =>
    have hk : st.trapMask.getLsbD k = true := mem_lanesOf.mp (by simp [hls])
    simp [h] at hk

theorem Priv.code_lt (p : Priv) : p.code < 4 := by cases p <;> decide

/-- PRIVSTAT as a number, while the depth has two bits. -/
theorem Strand.privstat_toNat (h : st.depth ≤ 3) : st.privstat.toNat = st.mode.code + 4 * st.prevMode.code + 16 * st.depth +
    64 * st.region.isSome.toNat + 128 * st.preempt.isSome.toNat := by
  have hmode := Priv.code_lt st.mode
  have hprev := Priv.code_lt st.prevMode
  have hregion : (if st.region.isSome then 64 else 0) = 64 * st.region.isSome.toNat := by cases st.region <;> rfl
  have hpreempt : (if st.preempt.isSome then 128 else 0) = 128 * st.preempt.isSome.toNat := by cases st.preempt <;> rfl
  have hr := Bool.toNat_le st.region.isSome
  have hp := Bool.toNat_le st.preempt.isSome
  rw [Strand.privstat, hregion, hpreempt, BitVec.toNat_ofNat]
  omega

theorem Strand.privstat_fields (h : st.depth ≤ 3) : st.privstat.toNat < 256 ∧ st.privstat.toNat % 4 = st.mode.code ∧
    st.privstat.toNat / 4 % 4 = st.prevMode.code ∧ st.privstat.toNat / 16 % 4 = st.depth ∧
    st.privstat.getLsbD 6 = st.region.isSome ∧ st.privstat.getLsbD 7 = st.preempt.isSome := by
  have hmode := Priv.code_lt st.mode
  have hprev := Priv.code_lt st.prevMode
  have hr := Bool.toNat_le st.region.isSome
  have hp := Bool.toNat_le st.preempt.isSome
  have hbit (b : Bool) {n : Nat} (hn : n % 2 = b.toNat) : decide (n % 2 = 1) = b := by
    cases b <;> simp at hn ⊢ <;> omega
  rw [BitVec.getLsbD, BitVec.getLsbD, Nat.testBit_eq_decide_div_mod_eq, Nat.testBit_eq_decide_div_mod_eq,
    Strand.privstat_toNat h]
  refine ⟨by omega, by omega, by omega, by omega, hbit _ (by omega), hbit _ (by omega)⟩

/-- The bits of a field in their place. -/
theorem field64_eq_and (x : DWord) {lo : Nat} (h : lo ≤ 51) :
    field64 x 51 lo = x &&& BitVec.ofNat 64 ((2 ^ (52 - lo) - 1) * 2 ^ lo) := by
  ext i hi
  rw [← BitVec.getLsbD_eq_getElem, ← BitVec.getLsbD_eq_getElem, field64, BitVec.getLsbD_and, BitVec.getLsbD_ofNat,
    BitVec.getLsbD_ofNat, Nat.testBit_mul_two_pow, Nat.testBit_mul_two_pow, slice, Nat.testBit_mod_two_pow,
    Nat.testBit_two_pow_sub_one, Nat.testBit_shiftRight, BitVec.getLsbD]
  by_cases hlo : lo ≤ i
  · rw [show lo + (i - lo) = i by omega, show 51 + 1 - lo = 52 - lo by omega]
    simp [hi, hlo, Bool.and_comm]
  · simp [hlo]

/-! ### MFPR and MTPR at issue -/

theorem execMfpr_runs {d : BitVec 6} {imm : BitVec 16} (r : Ready (.mfpr d imm) { gDest := [d.toNat] } {} st s) :
    execMfpr d imm s = .next (s.goesOn { gDest := [d.toNat] } st (st.setG d.toNat (privValue (s.core s.cur.1) st imm.toNat))) := by
  unfold execMfpr
  refine issue_ready_goesOn r rfl ?_
  rw [State.modHere_eq (State.before_here _ _ _ _), State.before_cur, privValue_before, Strand.ready_plain st _ _ rfl rfl]

theorem execMtpr_runs {d : BitVec 6} {imm : BitVec 16} (r : Ready (.mtpr d imm) { gRead := [d.toNat] } {} st s) :
    execMtpr d imm s = .next (((s.before { gRead := [d.toNat] } {} st).setPriv s.cur.1 s.cur.2 imm.toNat
      (st.gr d.toNat)).retireWord .seq) := by
  unfold execMtpr
  rw [issue_ready r rfl]
  simp only [State.before_cur]

/-- A register that MTPR does not reach. -/
theorem execMtpr_noEffect {d : BitVec 6} {imm : BitVec 16} (h : imm = 17 ∨ imm = 19 ∨ imm = 20)
    (r : Ready (.mtpr d imm) { gRead := [d.toNat] } {} st s) :
    execMtpr d imm s = .next (s.goesOn { gRead := [d.toNat] } st st) := by
  have hnone (t : State) (c sl : Nat) (x : DWord) : t.setPriv c sl imm.toNat x = t := by
    rcases h with rfl | rfl | rfl <;> rfl
  rw [execMtpr_runs r, hnone, State.before, Strand.ready_plain st _ _ rfl rfl, State.retireWord_setHere]
  rfl

theorem Strand.setPriv_frame (st : Strand) (n : Nat) (x : DWord) : (st.setPriv n x).group.g = st.group.g ∧
    (st.setPriv n x).group.k = st.group.k ∧ (st.setPriv n x).v = st.v ∧ (st.setPriv n x).p = st.p := by
  unfold Strand.setPriv
  split <;> exact ⟨rfl, rfl, rfl, rfl⟩

/-- What a read gives after a write. -/
theorem privValue_setPriv (k : CoreSt) (st : Strand) (x : DWord) :
    privValue (k.setPriv 0 x) (st.setPriv 0 x) 0 = (x.extractLsb' 0 5).setWidth 64 ∧
    privValue (k.setPriv 1 x) (st.setPriv 1 x) 1 = (x.extractLsb' 0 5).setWidth 64 ∧
    privValue (k.setPriv 16 x) (st.setPriv 16 x) 16 = x &&& 0x000FFFFFFFFFFFFC#64 ∧
    privValue (k.setPriv 18 x) (st.setPriv 18 x) 18 = x &&& 0x000FFFFFFFFFFF00#64 ∧
    privValue (k.setPriv 32 x) (st.setPriv 32 x) 32 = x &&& 0x000FFFFFFFF00000#64 ∧
    privValue (k.setPriv 33 x) (st.setPriv 33 x) 33 = (x.extractLsb' 0 16).setWidth 64 ∧
    privValue (k.setPriv 34 x) (st.setPriv 34 x) 34 = (x.extractLsb' 0 10).setWidth 64 := by
  have hlow (n : Nat) : x.setWidth n = x.extractLsb' 0 n := BitVec.eq_of_toNat_eq (by simp)
  refine ⟨?_, ?_, ?_, ?_, ?_, ?_, ?_⟩
  · exact congrArg (BitVec.setWidth 64) (hlow 5)
  · exact congrArg (BitVec.setWidth 64) (hlow 5)
  · exact field64_eq_and x (lo := 2) (by omega)
  · exact field64_eq_and x (lo := 8) (by omega)
  · exact field64_eq_and x (lo := 20) (by omega)
  · exact congrArg (BitVec.setWidth 64) (hlow 16)
  · exact congrArg (BitVec.setWidth 64) (hlow 10)

/-- MTPR writes its register and nothing else of the strand. -/
theorem execMtpr_writes {d : BitVec 6} {imm : BitVec 16} (r : Ready (.mtpr d imm) { gRead := [d.toNat] } {} st s) :
    ∃ t : State, execMtpr d imm s = .next t ∧ t.here? = some ((st.setPriv imm.toNat (st.gr d.toNat)).retire .seq) ∧
      t.mem = s.mem ∧ ∀ y n, privValue (t.core s.cur.1) y n = privValue ((s.core s.cur.1).setPriv imm.toNat (st.gr d.toNat)) y n := by
  have hbefore : (s.before { gRead := [d.toNat] } {} st).here? = some st := by
    rw [State.before_here, Strand.ready_plain st _ _ rfl rfl]
  have hhere := State.here?_setPriv hbefore imm.toNat (st.gr d.toNat)
  rw [State.before_cur] at hhere
  refine ⟨_, execMtpr_runs r, ?_, ?_, fun y n => ?_⟩
  · rw [State.retireWord, State.modHere_eq hhere, State.here?_setHere]
  · rw [State.retireWord_mem, State.setPriv_mem, State.before_mem]
  · rw [State.retireWord_core (fun k => privValue k y n) (privValue_slots y n)]
    have hcore := State.core_setPriv (fun k => privValue k y n) (privValue_slots y n) hbefore imm.toNat (st.gr d.toNat)
    rw [State.before_cur] at hcore
    refine hcore.trans ?_
    exact State.before_core (fun k => privValue (k.setPriv imm.toNat (st.gr d.toNat)) y n)
      (fun k fs => by unfold CoreSt.setPriv; split <;> rfl) (fun k x => by unfold CoreSt.setPriv; split <;> rfl) s _ _ _

/-- A live mask within the registers of the strand passes its check. -/
theorem liveChecks_within {a : Nat} (h : (st.liveMask a).toNat < 2 ^ st.nregs) : firstFault (liveChecks a st s) = [] := by
  rw [liveChecks, Nat.div_eq_of_lt h]
  rfl

end

end Sys2Proof.Machine

section
open Sys2Proof Sys2Proof.Machine

/-- Settles O38: `execMfpr_runs`, `execMtpr_noEffect` and `execMtpr_writes`, with the registers' own values. -/
theorem privilegedRegisters : Obligations.PrivilegedRegisters := by
  unfold Obligations.PrivilegedRegisters
  intro s st d imm _
  refine ⟨fun r => execMfpr_runs r, ⟨?_, ?_, ?_, ?trapCause, ?_, ?_, ?privstat, ?_, ?_, ?_⟩, fun h r => execMtpr_noEffect h r,
    fun r => ?writes⟩
  case trapCause =>
    rintro rfl
    exact ⟨Strand.firstCause_none, fun l hl hlowest => Strand.firstCause_lowest hl hlowest⟩
  case privstat =>
    rintro rfl hdepth
    exact Strand.privstat_fields hdepth
  case writes =>
    obtain ⟨t, hexec, hhere, hmem, hcore⟩ := execMtpr_writes r
    obtain ⟨hg, hk, hv, hp⟩ := st.setPriv_frame imm.toNat (st.gr d.toNat)
    obtain ⟨h0, h1, h16, h18, h32, h33, h34⟩ := privValue_setPriv (s.core s.cur.1) st (st.gr d.toNat)
    refine ⟨t, _, hexec, hhere, hg, hk, hv, hp, hmem, ?_, ?_, ?_, ?_, ?_, ?_, ?_⟩
    · rintro rfl
      exact (hcore _ _).trans h0
    · rintro rfl
      exact (hcore _ _).trans h1
    · rintro rfl
      exact (hcore _ _).trans h16
    · rintro rfl
      exact (hcore _ _).trans h18
    · rintro rfl
      exact (hcore _ _).trans h32
    · rintro rfl
      exact (hcore _ _).trans h33
    · rintro rfl
      exact (hcore _ _).trans h34
  all_goals
    rintro rfl
    rfl

/-- Settles O39: each word's effect is on the strand as it stood (`issue_ready_onWholeStrand`). -/
theorem hintsRegionsAndPolicies : Obligations.HintsRegionsAndPolicies := by
  unfold Obligations.HintsRegionsAndPolicies
  refine fun s st => ⟨fun a b r hlive => ?phint, fun a b r hlive => ?idem, fun r => ?idend, fun n _ r => ?bwphase,
    fun imm _ r => ?gopol, fun imm _ r => ?rejoin⟩
  case phint =>
    change execPhint a b s = _
    unfold execPhint
    rw [issue_ready_onWholeStrand r (liveChecks_within hlive) rfl]
    simp only [Bool.and_eq_true, beq_iff_eq]
  case idem => exact issue_ready_onWholeStrand r (liveChecks_within hlive) rfl
  case idend => exact issue_ready_onWholeStrand r rfl rfl
  case bwphase => exact issue_ready_onWholeStrand r rfl rfl
  case gopol => exact issue_ready_onWholeStrand r rfl rfl
  case rejoin => exact issue_ready_onWholeStrand r rfl rfl

end

end

section
/-! SUPPORT. A state in which the list of slots of a core is not in ascending order, and PERF there (R263, R319). -/

namespace Sys2Proof.Machine

/-- A strand for which a continuation slot is kept while another package is asked (R264). -/
def askingStrand : Strand := { guestStrand false 0x0F000000#32 with member := false, inquiry := some ⟨[], [], 1⟩ }

/-- The slots of core 0 stand in descending order: the strand that issues, in slot 0, after that of slot 1. -/
def descendingSlots : State :=
  (State.reset.modCore 0 fun k => { k with slots := [(1, exitingStrand), (0, askingStrand)] })

/-- What a step leaves in g[0] of the strand that issues. -/
def g0After (r : Result) : DWord :=
  match r with
  | .next t => (t.here?.map fun x => x.gr 0).getD 0#64
  | _ => 0#64

theorem askingStrand_ready : Ready (.perf 0#6 0x4007#16) { gDest := [0] } {} askingStrand descendingSlots :=
  ⟨by decide +kernel, by decide +kernel, .inr (by decide +kernel), fun _ _ hg => (nomatch hg), .inr (by decide +kernel),
    by decide +kernel⟩

/-- The strand that issues is written to the front of the list, and its slot is counted twice. -/
theorem g0After_perf_descendingSlots : g0After (exec (.perf 0#6 0x4007#16) descendingSlots) = 2#64 := by decide +kernel

theorem contSlots_descendingSlots : descendingSlots.contSlots 0 = 1 := by decide +kernel

end Sys2Proof.Machine

section
open Sys2Proof Sys2Proof.Machine

/-- Refutes O40: the statement is of every state, also of one whose list of slots is not in ascending order. In
`descendingSlots` the strand that issues PERF of selector 0x4007 stands behind a higher slot: written as it issues it comes to
stand in the list twice, and the one continuation slot kept for it is read as two. -/
theorem not_systemWords : ¬ Obligations.SystemWords := by
  unfold Obligations.SystemWords
  rintro ⟨-, -, hperf⟩
  obtain ⟨v, hexec, -, -, -, -, -, -, -, hslots, -⟩ :=
    (hperf descendingSlots askingStrand 0#6 0x4007#16 (by decide +kernel)).1 (by decide) askingStrand_ready
  have hv : v = 1#64 := by
    rw [hslots rfl]
    exact congrArg (BitVec.ofNat 64) contSlots_descendingSlots
  have hread := g0After_perf_descendingSlots
  rw [hexec, hv] at hread
  exact absurd hread (by decide +kernel)

end

end

section
/-! SUPPORT. An event at a barrier, and the barrier words (R330, R331, R333, R337). -/

namespace Sys2Proof.Machine

/-! ### Lists of cores and slots changed entry by entry -/

theorem Assoc.find_map_snd {α β : Type} (m : List (Nat × α)) (f : Nat × α → β) (n : Nat) :
    Assoc.find (m.map fun x => (x.1, f x)) n = (Assoc.find m n).map fun v => f (n, v) := by
  induction m with
  | nil => rfl
  | cons x m ih =>
    rw [List.map_cons, Assoc.find, Assoc.find]
    split
    · next h => subst h; rfl
    · exact ih

theorem State.core_mapCores (s : State) (f : Nat × CoreSt → CoreSt) (c : Nat) :
    ({ s with cores := s.cores.map fun x => (x.1, f x) } : State).core c = s.core c ∧ s.core c = CoreSt.reset ∨
      ({ s with cores := s.cores.map fun x => (x.1, f x) } : State).core c = f (c, s.core c) := by
  rw [State.core, State.core, Assoc.get_eq_find, Assoc.get_eq_find, Assoc.find_map_snd]
  cases Assoc.find s.cores c with
  | none => exact .inl ⟨rfl, rfl⟩
  | some k => exact .inr rfl

/-- Every strand changed: the strand of a slot is changed as the others. -/
theorem State.strand?_mapStrands (s : State) (f : Nat → Nat → Strand → Strand) (c sl : Nat) :
    (s.mapStrands f).strand? c sl = (s.strand? c sl).map (f c sl) := by
  rcases s.core_mapCores (fun x => x.2.mapStrands (f x.1)) c with ⟨h, hreset⟩ | h
  · rw [State.strand?, State.strand?, State.mapStrands, h, hreset]
    rfl
  · rw [State.strand?, State.strand?, State.mapStrands, h]
    exact Assoc.find_map_snd _ _ _

theorem State.strand?_mapSaved (s : State) (b : Block) (f : SavedNote → SavedNote) (c sl : Nat) :
    (s.mapSaved b f).strand? c sl = s.strand? c sl := by
  rcases s.core_mapCores (fun x => { x.2 with saved := x.2.saved.map fun y => if b.hasNote y then f y else y }) c with ⟨h, -⟩ | h
  · rw [State.strand?, State.strand?, State.mapSaved, h]
  · rw [State.strand?, State.strand?, State.mapSaved, h]

theorem State.strand?_count (s : State) (k sel n c sl : Nat) : (s.count k sel n).strand? c sl = s.strand? c sl := by
  unfold State.count State.strand?
  by_cases hk : k = c
  · rw [← hk, State.core_modCore]
    rfl
  · rw [State.core_modCore_other _ _ hk]

/-! ### Blocks and their barriers -/

section
variable {s t : State} {st : Strand} {n : Nat} {b : Block} {x : Barrier}

theorem State.barrierOf_eq_some (h : s.barrierOf st n = some (b, x)) : st.member = true ∧ s.block? st.launch st.block = some b ∧
    b.barriers[n]? = some x ∧ b.launch = st.launch ∧ b.index = st.block := by
  unfold State.barrierOf at h
  split at h
  next => simp at h
  next hmember =>
    split at h
    next => simp at h
    next b' hb =>
      split at h
      next y hy =>
        obtain ⟨rfl, rfl⟩ := Prod.mk.inj (Option.some.inj h)
        have hfind := List.find?_some hb
        simp only [Bool.and_eq_true, beq_iff_eq] at hfind
        exact ⟨by simpa using hmember, hb, hy, hfind.1, hfind.2⟩
      next => simp at h

/-- The barriers of a strand's block depend on the blocks alone. -/
theorem State.barrierOf_congr (h : t.blocks = s.blocks) (st : Strand) (n : Nat) : t.barrierOf st n = s.barrierOf st n := by
  simp only [State.barrierOf, State.block?, h]

/-- A block replaced by one of its number is found under that number. -/
theorem State.block?_setBlock {launch : Nat} {index : DWord} {b' : Block} (h : s.block? launch index = some b)
    (hl : b'.launch = launch) (hi : b'.index = index) : (s.setBlock b').block? launch index = some b' := by
  have hfind (bs : List Block) (h : bs.find? (fun x => x.launch == launch && x.index == index) = some b) :
      (bs.map fun x => if x.launch = b'.launch ∧ x.index = b'.index then b' else x).find?
        (fun x => x.launch == launch && x.index == index) = some b' := by
    induction bs with
    | nil => simp at h
    | cons y bs ih =>
      rw [List.map_cons]
      by_cases hy : y.launch = launch ∧ y.index = index
      · rw [if_pos (by rw [hl, hi]; exact hy)]
        exact List.find?_cons_of_pos (by simp [hl, hi])
      · rw [if_neg (by rw [hl, hi]; exact hy), List.find?_cons_of_neg (by simpa using hy)]
        rw [List.find?_cons_of_neg (by simpa using hy)] at h
        exact ih h
  exact hfind s.blocks h

/-! ### One event at a barrier -/

/-- What an event makes of a barrier where nobody's waiting is needed to complete its phase: somebody arrived. -/
theorem State.barrierEvent_eq {f : Barrier → Barrier} (hx : b.barriers[n]? = some x)
    (hpos : (f x).expected ≤ (f x).arrived → 0 < (f x).arrived) : ∃ s' : State,
      (∀ c sl, s'.strand? c sl = s.strand? c sl) ∧ s'.mem = s.mem ∧
      s'.blocks = (s.setBlock { b with barriers := b.barriers.set n ((f x).arrivedBy 0) }).blocks ∧
      s.barrierEvent b n f = s'.mapStrands fun _ _ st =>
        if b.hasStrand st && st.wait.passed n ((f x).arrivedBy 0).phase then { st with wait := st.wait.left } else st := by
  unfold State.barrierEvent
  simp only [hx]
  generalize hw : (!(s.strandsWhere fun st => b.hasStrand st && st.wait.awaits n (f x).phase).isEmpty ||
      s.cores.any fun k => k.2.saved.any fun y => b.hasNote y && y.awaits n (f x).phase) = waiting
  by_cases hfull : (f x).expected ≤ (f x).arrived
  · have hall : (decide ((f x).expected ≤ (f x).arrived) && (decide (0 < (f x).arrived) || waiting)) = true := by
      simp [hfull, hpos hfull]
    have harrived : (f x).arrivedBy 0 = { f x with phase := (f x).phase + 1#32, arrived := 0 } := by
      rw [Barrier.arrivedBy, Nat.add_zero, if_pos hfull]
    rw [hall, harrived]
    simp only [if_true]
    refine ⟨_, fun c sl => ?_, ?_, ?_, rfl⟩
    · exact (State.strand?_mapSaved _ _ _ _ _).trans (State.strand?_count _ _ _ _ _ _)
    · rfl
    · rfl
  · have hall : (decide ((f x).expected ≤ (f x).arrived) && (decide (0 < (f x).arrived) || waiting)) = false := by
      simp [hfull]
    have harrived : (f x).arrivedBy 0 = f x := by
      rw [Barrier.arrivedBy, Nat.add_zero, if_neg hfull]
    rw [hall, harrived]
    simp only [Bool.false_eq_true, if_false]
    refine ⟨_, fun c sl => ?_, ?_, ?_, rfl⟩
    · exact State.strand?_mapSaved _ _ _ _ _
    · rfl
    · rfl

/-- A strand after an event at a barrier that is in a phase now: its wait may be over. -/
def Strand.afterEvent (b : Block) (n : Nat) (phase : BitVec 32) (y : Strand) : Strand :=
  { y with wait := if b.hasStrand y && y.wait.passed n phase then y.wait.left else y.wait }

/-- An event at a barrier of a strand's block: the barrier, the waits that are over, and memory. -/
theorem State.atBarrier_event {f : Barrier → Barrier} (h : s.barrierOf st n = some (b, x))
    (hpos : (f x).expected ≤ (f x).arrived → 0 < (f x).arrived) :
    (∃ b', (s.atBarrier st.launch st.block n f).barrierOf st n = some (b', (f x).arrivedBy 0)) ∧
      (s.atBarrier st.launch st.block n f).mem = s.mem ∧ (s.atBarrier st.launch st.block n f).cur = s.cur ∧
      ∀ c sl, (s.atBarrier st.launch st.block n f).strand? c sl =
        (s.strand? c sl).map (Strand.afterEvent b n ((f x).arrivedBy 0).phase) := by
  obtain ⟨hmember, hblock, hx, hlaunch, hindex⟩ := State.barrierOf_eq_some h
  obtain ⟨s', hstrands, hmem, hblocks, hevent⟩ := State.barrierEvent_eq (s := s) (b := b) hx hpos
  have hat : s.atBarrier st.launch st.block n f = s.barrierEvent b n f := by simp only [State.atBarrier, hblock]
  have hcur : (s.barrierEvent b n f).cur = s.cur := by
    unfold State.barrierEvent
    simp only [hx]
    split <;> rfl
  rw [hat]
  refine ⟨⟨{ b with barriers := b.barriers.set n ((f x).arrivedBy 0) }, ?_⟩, ?_, hcur, fun c sl => ?_⟩
  · have hlen : n < b.barriers.length := (List.getElem?_eq_some_iff.mp hx).1
    have hfound := State.block?_setBlock (b' := { b with barriers := b.barriers.set n ((f x).arrivedBy 0) }) hblock hlaunch hindex
    have hfound' : (s.barrierEvent b n f).block? st.launch st.block =
        some { b with barriers := b.barriers.set n ((f x).arrivedBy 0) } := by
      rw [hevent, ← hfound, State.block?, State.block?]
      exact congrArg _ hblocks
    simp only [State.barrierOf, hmember, hfound', List.getElem?_set_self hlen]
    rfl
  · rw [hevent]
    exact hmem
  · rw [hevent, State.strand?_mapStrands, hstrands]
    refine Option.map_congr fun y _ => ?_
    unfold Strand.afterEvent
    split <;> rfl

end

/-! ### Accesses performed, as a word issues -/

/-- The end of a binding brings no gather that still reads. -/
theorem CoreSt.gathers_unbind {k : CoreSt} {sl : Nat} {gen : BitVec 8} (h : k.gathers sl gen = false) (l : DWord) (g : Nat) :
    (k.unbind l g).gathers sl gen = false := by
  have hmono {k k' : CoreSt} (hk : k.gathers sl gen = false)
      (hsub : ∀ x ∈ k'.futures, ∃ y ∈ k.futures, ({ x.2 with binding := [] } : Future) = { y.2 with binding := [] }) :
      k'.gathers sl gen = false := by
    rw [CoreSt.gathers, List.any_eq_false] at hk ⊢
    intro x hx
    obtain ⟨y, hy, heq⟩ := hsub x hx
    have hfields := hk y hy
    have hpart {β : Type} (p : Future → β) (hp : ∀ f : Future, p { f with binding := [] } = p f) : p x.2 = p y.2 := by
      rw [← hp x.2, heq, hp]
    rw [hpart Future.done fun _ => rfl, hpart Future.slot fun _ => rfl, hpart Future.gen fun _ => rfl,
      hpart Future.kind fun _ => rfl]
    exact hfields
  have hreap {k : CoreSt} (i : Nat) (hk : k.gathers sl gen = false) : (k.reap i).gathers sl gen = false := by
    unfold CoreSt.reap
    split
    · split
      · exact hmono hk fun x hx => ⟨x, (List.mem_filter.mp hx).1, rfl⟩
      · exact hk
    · exact hk
  unfold CoreSt.unbind
  split
  · next i f hf =>
    refine hreap i (hmono h fun x hx => ?_)
    rcases Assoc.mem_set _ _ _ x hx with rfl | hold
    · exact ⟨(i, f), List.mem_of_find?_eq_some hf, rfl⟩
    · exact ⟨x, hold, rfl⟩
  · exact h

/-- What is performed before a word issues is so as it takes its effect. -/
theorem State.accessesDone_before {s : State} (u : Use) (f : Form) (st : Strand)
    (h : s.accessesDone s.cur.1 s.cur.2 = true) : (s.before u f st).accessesDone s.cur.1 s.cur.2 = true := by
  have hunbound (gs : List Nat) (t : State) (ht : t.accessesDone t.cur.1 t.cur.2 = true) :
      (t.unbindDests st.lineage gs).accessesDone t.cur.1 t.cur.2 = true := by
    induction gs generalizing t with
    | nil => exact ht
    | cons g gs ih =>
      refine ih (t.modCore t.cur.1 fun k => k.unbind st.lineage g) ?_
      simp only [State.accessesDone, Bool.and_eq_true, Bool.not_eq_true'] at ht ⊢
      obtain ⟨hops, hgathers⟩ := ht
      have hkeep {β : Type} (p : CoreSt → β) (hp : ∀ (k : CoreSt) fs, p { k with futures := fs } = p k) :
          p ((t.modCore t.cur.1 fun k => k.unbind st.lineage g).core t.cur.1) = p (t.core t.cur.1) := by
        rw [State.core_modCore]
        exact CoreSt.unbind_keep p hp _ _ _
      constructor
      · rw [State.modCore_cur, hkeep (fun k => k.strandOps t.cur.2) fun _ _ => rfl]
        exact hops
      · rw [State.modCore_cur, hkeep (fun k => k.gen t.cur.2) fun _ _ => rfl, State.core_modCore]
        exact CoreSt.gathers_unbind hgathers _ _
  have hset : (s.before u f st).accessesDone s.cur.1 s.cur.2 =
      (s.unbindDests st.lineage (f.ended u)).accessesDone s.cur.1 s.cur.2 := by
    have hcore := State.core_setHere (s.unbindDests st.lineage (f.ended u)) (st.ready u f)
    rw [State.unbindDests_cur] at hcore
    rw [State.before, State.accessesDone, State.accessesDone, hcore]
    rfl
  rw [hset]
  exact hunbound _ s h

/-! ### Arrivals -/

theorem popBelow_pos {w : Nat} (x : BitVec w) (n : Nat) {i : Nat} (hi : i < n) (h : x.getLsbD i = true) : 0 < popBelow x n := by
  induction n with
  | zero => omega
  | succ n ih =>
    rw [popBelow]
    by_cases hin : i = n
    · subst hin
      rw [if_pos h]
      omega
    · have := ih (by omega)
      omega

theorem popCount_pos {m : LaneMask} (h : m ≠ 0#64) : 0 < popCount m := by
  have hhead := mem_lanesOf.mp (headD_lanesOf_mem h)
  refine popBelow_pos m 64 ?_ hhead
  by_contra hge
  rw [BitVec.getLsbD_of_ge _ _ (by omega)] at hhead
  exact Bool.noConfusion hhead

/-- Where a word leaves its strand does not depend on what the strand waits for. -/
theorem Strand.retire_withWait (st : Strand) (w : Wait) (f : Flow) :
    ({ st with wait := w } : Strand).retire f = { st.retire f with wait := w } := by
  unfold Strand.retire Strand.fallThrough Strand.goto
  cases f with
  | seq =>
    cases hc : st.clause with
    | none => simp
    | some k =>
      dsimp only
      split <;> rfl
  | jump pc => rfl
  | stay => rfl

section
variable {s : State} {st : Strand} {n : Nat} {b : Block} {x : Barrier}

/-- The checks of a barrier word at a barrier that is not broken, with a count within its limits. -/
theorem barrierChecks_pass {brk : Bool} {count : Strand → Bool} (h : s.barrierOf st n = some (b, x)) (hcount : count st = true)
    (hwhole : (brk && x.broken) = false) : firstFault (barrierChecks n brk count st s) = [] := by
  simp only [barrierChecks, h, hcount, hwhole]
  rfl

theorem barrierChecks_none (brk : Bool) (count : Strand → Bool) (h : s.barrierOf st n = none) :
    firstFault (barrierChecks n brk count st s) = faultIn st.active .illegalInstruction := by
  simp only [barrierChecks, h, firstFault_single]

theorem barrierChecks_broken {count : Strand → Bool} (h : s.barrierOf st n = some (b, x)) (hcount : count st = true)
    (hbroken : x.broken = true) : firstFault (barrierChecks n true count st s) = faultIn st.active .barrierBroken := by
  simp only [barrierChecks, h, hcount, hbroken, if_true, firstFault_cons_nil, Bool.and_self, firstFault_single]

theorem State.barrierOf_before (u : Use) (f : Form) (y : Strand) :
    (s.before u f y).barrierOf st n = s.barrierOf st n :=
  State.barrierOf_congr (State.unbindDests_keep State.blocks (fun _ _ _ => rfl) s _ _) st n

/-- A word of which the effect is an event at a barrier, after a change of the strand that issues. -/
theorem retireWord_atBarrier {t : State} {z : Strand} {f : Barrier → Barrier} (hz : t.here? = some z)
    (h : t.barrierOf st n = some (b, x)) (hpos : (f x).expected ≤ (f x).arrived → 0 < (f x).arrived) :
    ∃ b', ((t.atBarrier st.launch st.block n f).retireWord .seq).barrierOf st n = some (b', (f x).arrivedBy 0) ∧
      ((t.atBarrier st.launch st.block n f).retireWord .seq).mem = t.mem ∧
      ((t.atBarrier st.launch st.block n f).retireWord .seq).here? =
        some ((z.afterEvent b n ((f x).arrivedBy 0).phase).retire .seq) := by
  obtain ⟨⟨b', hb'⟩, hmem, hcur, hstrands⟩ := State.atBarrier_event h hpos
  have hhere : (t.atBarrier st.launch st.block n f).here? = some (z.afterEvent b n ((f x).arrivedBy 0).phase) := by
    have hsame := hstrands t.cur.1 t.cur.2
    rw [show t.strand? t.cur.1 t.cur.2 = some z from hz, ← hcur] at hsame
    exact hsame
  have hretired : (t.atBarrier st.launch st.block n f).retireWord .seq =
      (t.atBarrier st.launch st.block n f).setHere ((z.afterEvent b n ((f x).arrivedBy 0).phase).retire .seq) := by
    rw [State.retireWord, State.modHere_eq hhere]
  refine ⟨b', ?_, ?_, ?_⟩
  · rw [hretired]
    exact (State.barrierOf_congr rfl st n).trans hb'
  · rw [State.retireWord_mem, hmem]
  · rw [hretired, State.here?_setHere]

/-! ### The words -/

theorem execBar_arrives {i : BitVec 4} (hact : st.active ≠ 0#64) (h : s.barrierOf st i.toNat = some (b, x))
    (r : Ready (.bar i) {} {} st s) (hwhole : x.broken = false) (hdone : s.accessesDone s.cur.1 s.cur.2 = true) :
    ∃ t y b', execBar i s = .next t ∧ t.here? = some y ∧ t.mem = s.mem ∧
      t.barrierOf st i.toNat = some (b', x.arrivedBy (popCount st.active)) ∧
      y = { st.retire .seq with wait :=
        if x.expected ≤ x.arrived + popCount st.active then .none else .bar i.toNat x.phase st.active } := by
  have hpos := popCount_pos hact
  have hbefore := State.barrierOf_before (s := s) (st := st) (n := i.toNat) {} {} st
  have hphase : (s.before {} {} st).phaseOf st i.toNat = x.phase := by
    simp only [State.phaseOf, hbefore, h]
  have hmod : (s.before {} {} st).modHere (fun x_1 => { x_1 with wait := .bar i.toNat x.phase st.active }) =
      (s.before {} {} st).setHere { st with wait := .bar i.toNat x.phase st.active } := by
    rw [State.modHere_eq (State.before_here _ _ _ _), Strand.ready_plain st _ _ rfl rfl]
  obtain ⟨b', hbar, hmem, hhere⟩ := retireWord_atBarrier
    (t := (s.before {} {} st).setHere { st with wait := .bar i.toNat x.phase st.active }) (st := st) (n := i.toNat)
    (z := { st with wait := .bar i.toNat x.phase st.active }) (f := fun y => { y with arrived := y.arrived + popCount st.active })
    (State.here?_setHere _ _) ((State.barrierOf_congr rfl st _).trans (hbefore.trans h)) (fun _ => Nat.add_pos_right _ hpos)
  refine ⟨_, _, b', ?_, hhere, hmem.trans (by simp), hbar, ?_⟩
  · unfold execBar
    rw [issue_ready r (barrierChecks_pass h rfl (by rw [hwhole]; rfl))]
    simp only [State.before_cur, State.accessesDone_before {} {} st hdone, hphase, hmod]
    rfl
  · obtain ⟨hmember, -, -, hlaunch, hindex⟩ := State.barrierOf_eq_some h
    have hhas : b.hasStrand { st with wait := .bar i.toNat x.phase st.active } = true := by
      simp [Block.hasStrand, hmember, hlaunch, hindex]
    rw [Strand.afterEvent, Strand.retire_withWait, Strand.retire_withWait, hhas]
    by_cases hfull : x.expected ≤ x.arrived + popCount st.active
    · simp [Wait.passed, Wait.left, Barrier.arrivedBy, hfull]
    · simp [Wait.passed, Barrier.arrivedBy, hfull]

theorem execBara_arrives {d a : BitVec 6} {i : BitVec 4} (h : s.barrierOf st i.toNat = some (b, x))
    (r : Ready (.bara d a i) { gRead := [a.toNat], gDest := [d.toNat] } {} st s) (hwhole : x.broken = false)
    (hdone : s.accessesDone s.cur.1 s.cur.2 = true) (hcount : (st.gr a.toNat).toNat ≤ 32768) :
    ∃ t y b', execBara d a i s = .next t ∧ t.here? = some y ∧ t.mem = s.mem ∧
      y.group = ((st.setG d.toNat (x.phase.setWidth 64)).retire .seq).group ∧
      t.barrierOf st i.toNat = some (b', if st.gr a.toNat = 0#64 then x else x.arrivedBy (st.gr a.toNat).toNat) := by
  have hbefore := State.barrierOf_before (s := s) (st := st) (n := i.toNat) { gRead := [a.toNat], gDest := [d.toNat] } {} st
  have hphase : (s.before { gRead := [a.toNat], gDest := [d.toNat] } {} st).phaseOf st i.toNat = x.phase := by
    simp only [State.phaseOf, hbefore, h]
  have hexec := issue_ready (eff := fun st s =>
      if (st.gr a.toNat).toNat ≠ 0 ∧ !s.accessesDone s.cur.1 s.cur.2 then .error id
      else .ok (if (st.gr a.toNat).toNat = 0 then s.modHere fun x => x.setG d.toNat ((s.phaseOf st i.toNat).setWidth 64)
        else (s.modHere fun x => x.setG d.toNat ((s.phaseOf st i.toNat).setWidth 64)).atBarrier st.launch st.block i.toNat fun b =>
          { b with arrived := b.arrived + (st.gr a.toNat).toNat }, .seq)) (idle := id) r
    (barrierChecks_pass (count := fun st => decide ((st.gr a.toNat).toNat ≤ 32768)) (brk := true) h (decide_eq_true hcount)
      (by rw [hwhole]; rfl))
  have hnot : ¬ ((st.gr a.toNat).toNat ≠ 0 ∧ (!(s.before { gRead := [a.toNat], gDest := [d.toNat] } {} st).accessesDone
      (s.before { gRead := [a.toNat], gDest := [d.toNat] } {} st).cur.1
      (s.before { gRead := [a.toNat], gDest := [d.toNat] } {} st).cur.2) = true) := by
    rw [State.before_cur, State.accessesDone_before _ _ _ hdone]
    simp
  have hmod : (s.before { gRead := [a.toNat], gDest := [d.toNat] } {} st).modHere
      (fun y => y.setG d.toNat (x.phase.setWidth 64)) =
      (s.before { gRead := [a.toNat], gDest := [d.toNat] } {} st).setHere (st.setG d.toNat (x.phase.setWidth 64)) := by
    rw [State.modHere_eq (State.before_here _ _ _ _), Strand.ready_plain st _ _ rfl rfl]
  rw [if_neg hnot, hphase, hmod] at hexec
  by_cases hzero : st.gr a.toNat = 0#64
  · rw [if_pos (by simp [hzero])] at hexec
    refine ⟨_, _, b, hexec, by rw [State.retireWord_setHere, State.here?_setHere], by simp, rfl, ?_⟩
    rw [if_pos hzero, State.retireWord_setHere]
    exact (State.barrierOf_congr rfl st _).trans (hbefore.trans h)
  · have hne : (st.gr a.toNat).toNat ≠ 0 := fun h0 => hzero (BitVec.eq_of_toNat_eq (by simpa using h0))
    rw [if_neg hne] at hexec
    obtain ⟨b', hbar, hmem, hhere⟩ := retireWord_atBarrier
      (t := (s.before { gRead := [a.toNat], gDest := [d.toNat] } {} st).setHere (st.setG d.toNat (x.phase.setWidth 64)))
      (st := st) (n := i.toNat) (f := fun y => { y with arrived := y.arrived + (st.gr a.toNat).toNat })
      (State.here?_setHere _ _) ((State.barrierOf_congr rfl st _).trans (hbefore.trans h))
      (fun _ => Nat.add_pos_right _ (Nat.pos_of_ne_zero hne))
    refine ⟨_, _, b', hexec, hhere, hmem.trans (by simp), ?_, by rw [hbar, if_neg hzero]; rfl⟩
    rw [Strand.afterEvent, Strand.retire_withWait]

theorem execBarw_goesOn {a : BitVec 6} {i : BitVec 4} (h : s.barrierOf st i.toNat = some (b, x))
    (r : Ready (.barw a i) { gRead := [a.toNat] } {} st s) (hwhole : x.broken = false) :
    execBarw a i s = .next (s.goesOn { gRead := [a.toNat] } st
      (if 1 ≤ (x.phase - lo32 (st.gr a.toNat)).toNat ∧ (x.phase - lo32 (st.gr a.toNat)).toNat ≤ 2 ^ 31 - 1 then st
      else { st with wait := .barw i.toNat (lo32 (st.gr a.toNat)) st.active })) := by
  have hphase : (s.before { gRead := [a.toNat] } {} st).phaseOf st i.toNat = x.phase := by
    simp only [State.phaseOf, State.barrierOf_before, h]
  unfold execBarw
  refine issue_ready_goesOn r (barrierChecks_pass h rfl (by rw [hwhole]; rfl)) ?_
  simp only [hphase, Wait.passed, beq_self_eq_true, Bool.true_and, Bool.and_eq_true, decide_eq_true_eq]
  split
  · rw [State.before, State.setHere_setHere, Strand.ready_plain st _ _ rfl rfl]
  · rw [State.modHere_eq (State.before_here _ _ _ _), Strand.ready_plain st _ _ rfl rfl]

theorem execBarinit_writes {a : BitVec 6} {i : BitVec 4} (h : s.barrierOf st i.toNat = some (b, x))
    (r : Ready (.barinit a i) { gRead := [a.toNat] } {} st s) (hlow : 1 ≤ (st.gr a.toNat).toNat)
    (hhigh : (st.gr a.toNat).toNat ≤ 32768) :
    ∃ t b', execBarinit a i s = .next t ∧ t.mem = s.mem ∧
      t.barrierOf st i.toNat = some (b',
        ({ x with expected := (st.gr a.toNat).toNat, broken := false, arrived := if x.broken then 0 else x.arrived }
          : Barrier).arrivedBy 0) := by
  have hcheck : firstFault (barrierChecks i.toNat false
      (fun st => decide (1 ≤ (st.gr a.toNat).toNat) && decide ((st.gr a.toNat).toNat ≤ 32768)) st s) = [] :=
    barrierChecks_pass h (by simp [hlow, hhigh]) rfl
  obtain ⟨b', hbar, hmem, -⟩ := retireWord_atBarrier (t := s.before { gRead := [a.toNat] } {} st) (st := st) (n := i.toNat)
    (f := fun y => { y with expected := (st.gr a.toNat).toNat, broken := false, arrived := if y.broken then 0 else y.arrived })
    (State.before_here _ _ _ _) ((State.barrierOf_before _ _ _).trans h) (fun hfull => Nat.lt_of_lt_of_le hlow hfull)
  refine ⟨_, b', ?_, hmem.trans (State.before_mem _ _ _ _), hbar⟩
  unfold execBarinit
  rw [issue_ready r hcheck]

end

end Sys2Proof.Machine

section
open Sys2Proof Sys2Proof.Machine

/-- Settles O41: each word by its own lemma, its traps by what `barrierChecks` gives. -/
theorem barrierWords : Obligations.BarrierWords := by
  unfold Obligations.BarrierWords
  refine ⟨fun s st n b x hact h => ⟨fun r hwhole hdone => execBar_arrives hact h r hwhole hdone,
      fun d a r hwhole hdone hcount => execBara_arrives h r hwhole hdone hcount, fun a r hwhole => execBarw_goesOn h r hwhole,
      fun a r hlow hhigh => execBarinit_writes h r hlow hhigh⟩,
    fun s st n d a i u hact hi r => ⟨fun hnone => ?none, fun b x h hbroken hinit hcount => ?broken⟩⟩
  case none =>
    have hne := faultIn_ne_nil hact .illegalInstruction
    rcases hi with ⟨rfl, rfl⟩ | ⟨rfl, rfl⟩ | ⟨rfl, rfl⟩ | ⟨rfl, rfl⟩
    · change execBar n s = _
      unfold execBar
      rw [issue_trap r (by rw [barrierChecks_none _ _ hnone]; exact hne 0), barrierChecks_none _ _ hnone]
    · change execBara d a n s = _
      unfold execBara
      rw [issue_trap r (by rw [barrierChecks_none _ _ hnone]; exact hne 0), barrierChecks_none _ _ hnone]
    · change execBarw a n s = _
      unfold execBarw
      rw [issue_trap r (by rw [barrierChecks_none _ _ hnone]; exact hne 0), barrierChecks_none _ _ hnone]
    · change execBarinit a n s = _
      unfold execBarinit
      rw [issue_trap r (by rw [barrierChecks_none _ _ hnone]; exact hne 0), barrierChecks_none _ _ hnone]
  case broken =>
    have hne := faultIn_ne_nil hact .barrierBroken
    rcases hi with ⟨rfl, rfl⟩ | ⟨rfl, rfl⟩ | ⟨rfl, rfl⟩ | ⟨rfl, rfl⟩
    · have hfault := barrierChecks_broken (count := fun _ => true) h rfl hbroken
      change execBar n s = _
      unfold execBar
      rw [issue_trap r (by rw [hfault]; exact hne 0), hfault]
    · have hfault := barrierChecks_broken (count := fun st => decide ((st.gr a.toNat).toNat ≤ 32768)) h
        (decide_eq_true (hcount rfl)) hbroken
      change execBara d a n s = _
      unfold execBara
      rw [issue_trap r (by rw [hfault]; exact hne 0), hfault]
    · have hfault := barrierChecks_broken (count := fun _ => true) h rfl hbroken
      change execBarw a n s = _
      unfold execBarw
      rw [issue_trap r (by rw [hfault]; exact hne 0), hfault]
    · exact absurd rfl hinit

end

end

section
/-! SUPPORT. The completion of a future that a register is bound to and nothing waits for, and FTEST, FWAIT and FCANCEL
(R340-R345). -/

namespace Sys2Proof.Machine

/-! ### Completion -/

theorem foldl_fixed {σ α : Type} (f : σ → α → σ) (x : σ) (xs : List α) (h : ∀ a ∈ xs, f x a = x) : xs.foldl f x = x := by
  induction xs with
  | nil => rfl
  | cons a xs ih =>
    rw [List.foldl_cons, h a List.mem_cons_self]
    exact ih fun b hb => h b (List.mem_cons_of_mem a hb)

/-- Where no strand waits on a slot in FWAIT, nobody is woken. -/
theorem CoreSt.wakeWaiters_idle {k : CoreSt} {i : Nat} (h : ∀ x ∈ k.slots, x.2.wait.onFuture i = false) (status : DWord) :
    k.wakeWaiters i status = k := by
  unfold CoreSt.wakeWaiters
  refine foldl_fixed _ _ _ fun x hx => ?_
  have hidle := h x hx
  split
  · next j g hw =>
    rw [hw] at hidle
    exact if_neg (by simpa [Wait.onFuture] using hidle)
  · rfl

/-- A future that a register is bound to stays, done and with its status. -/
theorem CoreSt.completeFuture_bound {k : CoreSt} {i : Nat} {f : Future} (hf : Assoc.find k.futures i = some f)
    (hdone : f.done = false) (hbound : f.binding ≠ []) (hidle : ∀ x ∈ k.slots, x.2.wait.onFuture i = false) (status : DWord) :
    k.completeFuture i status = { k with futures := Assoc.set k.futures i { f with done := true, status := status } } := by
  have hwake := CoreSt.wakeWaiters_idle (k := { k with futures := Assoc.set k.futures i { f with done := true, status := status } })
    (i := i) hidle status
  have hempty : f.binding.isEmpty = false := by
    cases hb : f.binding with
    | nil => exact absurd hb hbound
    | cons => rfl
  have hreap : ({ k with futures := Assoc.set k.futures i { f with done := true, status := status } } : CoreSt).reap i =
      { k with futures := Assoc.set k.futures i { f with done := true, status := status } } := by
    simp only [CoreSt.reap, Assoc.find_set_same, hempty, Bool.and_false, Bool.false_and, Bool.false_eq_true, if_false]
  simp only [CoreSt.completeFuture, hf, hdone, Bool.false_eq_true, if_false, hwake, hreap]

/-- A future that no strand of the core awaits is waited on by none in FWAIT. -/
theorem CoreSt.onFuture_of_awaited {k : CoreSt} {i serial : Nat} (h : k.awaited i serial = false) :
    ∀ x ∈ k.slots, x.2.wait.onFuture i = false := fun x hx => by
  have hnot := List.any_eq_false.mp h x hx
  simp only [Bool.not_eq_true, Bool.or_eq_false_iff, Wait.needs] at hnot
  exact hnot.1.1

theorem Assoc.mem_of_find {α : Type} {m : List (Nat × α)} {n : Nat} {v : α} (h : Assoc.find m n = some v) : (n, v) ∈ m := by
  induction m with
  | nil => simp [Assoc.find] at h
  | cons x m ih =>
    rw [Assoc.find] at h
    split at h
    · next hx =>
      rw [← hx, ← Option.some.inj h]
      exact List.mem_cons_self
    · exact List.mem_cons_of_mem x (ih h)

section
variable {s : State} {st : Strand}

theorem State.named?_eq_some {c : Nat} {v : DWord} {i : Nat} {f : Future} (h : s.named? c v = some (i, f)) :
    Assoc.find (s.core c).futures i = some f := by
  unfold State.named? at h
  split at h
  next => simp at h
  next =>
    split at h
    next f' hf =>
      split at h
      next =>
        obtain ⟨rfl, rfl⟩ := Prod.mk.inj (Option.some.inj h)
        exact hf
      next => simp at h
    next => simp at h

theorem State.named?_congr {s t : State} {c : Nat} (h : (t.core c).futures = (s.core c).futures) (v : DWord) :
    t.named? c v = s.named? c v := by
  simp only [State.named?, h]

/-! ### A word that writes no group-wide register, and its state before its effect -/

/-- A word that ends no binding and frees no register: before its effect the strand has been written as it stood. -/
theorem State.before_plain {u : Use} {f : Form} (hg : u.gDest = []) (ha : u.aRegs = []) (he : f.ends = false) :
    s.before u f st = s.setHere st := by
  rw [State.before, Strand.ready_plain st u f ha he]
  have hended : f.ended u = [] := by
    unfold Form.ended
    rw [hg, ite_self]
  rw [hended, State.unbindDests_nil]

/-- A strand written as it stood adds no entry to the slots but its own. -/
theorem State.mem_slots_setHere (h : s.here? = some st) {x : Nat × Strand}
    (hx : x ∈ ((s.setHere st).core s.cur.1).slots) : x ∈ (s.core s.cur.1).slots := by
  rw [State.core_setHere] at hx
  rcases Assoc.mem_set _ _ _ x hx with rfl | hold
  · exact Assoc.mem_of_find h
  · exact hold

/-- A strand replaced changes nothing else of any core. -/
theorem State.setStrand_core {β : Type} (p : CoreSt → β) (h : ∀ (k : CoreSt) x, p { k with slots := x } = p k) (s : State)
    (c sl : Nat) (st : Strand) (d : Nat) : p ((s.setStrand c sl st).core d) = p (s.core d) := by
  unfold State.setStrand
  by_cases hc : c = d
  · rw [← hc, State.core_modCore]
    exact h _ _
  · rw [State.core_modCore_other _ _ hc]

theorem State.setHere_futures (s : State) (st : Strand) (c : Nat) : ((s.setHere st).core c).futures = (s.core c).futures :=
  State.setHere_core CoreSt.futures (fun _ _ => rfl) s st c

theorem State.retireWord_here {t : State} {y : Strand} (h : t.here? = some y) (f : Flow) :
    (t.retireWord f).here? = some (y.retire f) := by
  rw [State.retireWord, State.modHere_eq h, State.here?_setHere]

/-- A word done changes the strand that issued it alone. -/
theorem State.strand?_retireWord_other (t : State) (f : Flow) {c sl : Nat} (h : ¬ (t.cur.1 = c ∧ t.cur.2 = sl)) :
    (t.retireWord f).strand? c sl = t.strand? c sl := by
  unfold State.retireWord State.modHere State.modStrand
  split
  · exact State.strand?_setStrand_other _ _ h
  · rfl

/-! ### FTEST and FWAIT -/

/-- The form of the words on futures: they wait for no binding and read no pending register. -/
abbrev futureForm : Form := { waits := false, quiet := true }

theorem named?_before {a : BitVec 6} (v : DWord) :
    (s.before { gRead := [a.toNat] } futureForm st).named? s.cur.1 v = s.named? s.cur.1 v := by
  rw [State.before_plain rfl rfl rfl]
  exact State.named?_congr (State.setHere_futures _ _ _) v

theorem execFtest_writes {d : BitVec 4} {a : BitVec 6} (r : Ready (.ftest d a) { gRead := [a.toNat] } futureForm st s) :
    ∃ b : Bool, execFtest d a s = .next (s.goesOn { gRead := [a.toNat] } st (st.setQ d.toNat b)) ∧
      (s.named? s.cur.1 (st.gr a.toNat) = none → b = true) ∧
      ∀ x, s.named? s.cur.1 (st.gr a.toNat) = some x → b = x.2.done := by
  unfold execFtest
  cases hn : s.named? s.cur.1 (st.gr a.toNat) with
  | none =>
    refine ⟨true, issue_ready_goesOn r rfl ?_, fun _ => rfl, fun x hx => by simp at hx⟩
    simp only [State.before_cur, named?_before, hn]
    rw [State.modHere_eq (State.before_here _ _ _ _), Strand.ready_plain st _ _ rfl rfl]
  | some x =>
    refine ⟨x.2.done, issue_ready_goesOn r rfl ?_, fun h => by simp at h, fun y hy => by rw [← Option.some.inj hy]⟩
    simp only [State.before_cur, named?_before, hn]
    rw [State.modHere_eq (State.before_here _ _ _ _), Strand.ready_plain st _ _ rfl rfl]

/-- FWAIT as it issues: what becomes of the operation that g[A] names. -/
theorem execFwait_eq {a : BitVec 6} (r : Ready (.fwait a) { gRead := [a.toNat] } futureForm st s) :
    execFwait a s = .next (State.retireWord (match s.named? s.cur.1 (st.gr a.toNat) with
      | none => (s.setHere (st.setG a.toNat 0x3E#64)).modCore s.cur.1 fun k => k.unbind st.lineage a.toNat
      | some (i, f) =>
        if f.done then (s.setHere (st.setG a.toNat f.status)).modCore s.cur.1 fun k => (k.unbind st.lineage a.toNat).reap i
        else s.setHere { st with wait := .future i a.toNat }) .seq) := by
  have hmod (g : Strand → Strand) : (s.before { gRead := [a.toNat] } futureForm st).modHere g = s.setHere (g st) := by
    rw [State.before_plain rfl rfl rfl, State.modHere_setHere]
  unfold execFwait
  rw [issue_ready r rfl]
  simp only [State.before_cur, named?_before, hmod]
  cases s.named? s.cur.1 (st.gr a.toNat) with
  | none => rfl
  | some x =>
    cases hdone : x.2.done <;> simp only [hdone] <;> rfl

theorem here?_unbound (y : Strand) {f : CoreSt → CoreSt} (hf : ∀ k, (f k).slots = k.slots) :
    (((s.setHere y).modCore s.cur.1 f).retireWord .seq).here? = some (y.retire .seq) :=
  State.retireWord_here ((State.here?_modCore _ _ hf).trans (State.here?_setHere _ _)) _

/-! ### FCANCEL -/

section
variable {a : BitVec 6} {i : Nat} {f : Future}

theorem execFcancel_noEffect (r : Ready (.fcancel a) { gRead := [a.toNat] } futureForm st s)
    (h : ((s.named? s.cur.1 (st.gr a.toNat)).map fun y => y.2.done) ≠ some false) :
    execFcancel a s = .next (s.goesOn { gRead := [a.toNat] } st st) := by
  have hrest : (s.before { gRead := [a.toNat] } futureForm st).setHere st = s.before { gRead := [a.toNat] } futureForm st := by
    rw [State.before, State.setHere_setHere, Strand.ready_plain st _ _ rfl rfl]
  unfold execFcancel
  refine issue_ready_goesOn r rfl ?_
  rw [hrest]
  simp only [State.before_cur, named?_before]
  cases hn : s.named? s.cur.1 (st.gr a.toNat) with
  | none => rfl
  | some x =>
    rw [hn] at h
    have hdone : x.2.done = true := by simpa using h
    simp only [hdone, if_true]

/-- FCANCEL of an operation that is not complete: what its cancellation does, and the strand at the next word. -/
theorem execFcancel_cancels (r : Ready (.fcancel a) { gRead := [a.toNat] } futureForm st s)
    (hn : s.named? s.cur.1 (st.gr a.toNat) = some (i, f)) (hdone : f.done = false) :
    execFcancel a s = .next ((((s.setHere st).count s.cur.1 0x10004).cancelFuture s.cur.1 i f).retireWord .seq) := by
  unfold execFcancel
  rw [issue_ready r rfl]
  simp only [State.before_cur, named?_before, hn, hdone]
  rw [State.before_plain (s := s) (st := st) (u := { gRead := [a.toNat] }) (f := futureForm) rfl rfl rfl]
  rfl

/-- The state in which a cancellation begins. -/
abbrev State.cancelling (s : State) (st : Strand) : State := (s.setHere st).count s.cur.1 0x10004

theorem State.cancelling_core {β : Type} (p : CoreSt → β) (hs : ∀ (k : CoreSt) x, p { k with slots := x } = p k)
    (hc : ∀ (k : CoreSt) x, p { k with counters := x } = p k) (c : Nat) : p ((s.cancelling st).core c) = p (s.core c) := by
  refine Eq.trans ?_ (State.setHere_core p hs s st c)
  unfold State.cancelling State.count
  by_cases hk : s.cur.1 = c
  · rw [← hk, State.core_modCore]
    exact hc _ _
  · rw [State.core_modCore_other _ _ hk]

theorem State.cancelling_strand? (c sl : Nat) : (s.cancelling st).strand? c sl = (s.setHere st).strand? c sl := by
  rw [State.cancelling, State.strand?_count]

theorem State.cancelling_here : (s.cancelling st).here? = some st := by
  rw [State.here?, State.cancelling_strand?]
  exact State.here?_setHere s st

/-- What is sent depends on the links alone. -/
theorem State.sendTo_links {s t : State} (h : t.links = s.links) (pkg : Nat) (b : FlitBody) :
    (t.sendTo pkg b).links = (s.sendTo pkg b).links := by
  have hown (u : State) (n : Nat) (b : FlitBody) :
      (u.sendFlit n b).links = if (Assoc.get Port.reset u.links.ports n).up then
        { u.links with
          ports := Assoc.set u.links.ports n { Assoc.get Port.reset u.links.ports n with
            next := (Assoc.get Port.reset u.links.ports n).next + 1
            retry := (Assoc.get Port.reset u.links.ports n).retry ++ [((Assoc.get Port.reset u.links.ports n).next, b)] }
          out := u.links.out ++ [(n, (Assoc.get Port.reset u.links.ports n).next, b)] }
      else u.links := apply_ite State.links _ _ _
  have hflit {s t : State} (h : t.links = s.links) (n : Nat) (b : FlitBody) : (t.sendFlit n b).links = (s.sendFlit n b).links := by
    rw [hown t, hown s, h]
  have hport (bs : List FlitBody) (n : Nat) {s t : State} (h : t.links = s.links) :
      (bs.foldl (fun s x => s.sendFlit n x) t).links = (bs.foldl (fun s x => s.sendFlit n x) s).links := by
    induction bs generalizing s t with
    | nil => exact h
    | cons b bs ih => exact ih (hflit h n b)
  unfold State.sendTo
  rw [h]
  split
  · exact h
  · exact hport _ _ h

/-- A future of a core replaced. -/
def State.putFuture (s : State) (c i : Nat) (f : Future) : State :=
  s.modCore c fun k => { k with futures := Assoc.set k.futures i f }

theorem State.putFuture_future (t : State) (c i : Nat) (f : Future) :
    Assoc.find ((t.putFuture c i f).core c).futures i = some f := by
  rw [State.putFuture, State.core_modCore, Assoc.find_set_same]

theorem State.putFuture_strand? (t : State) (c i : Nat) (f : Future) (d sl : Nat) :
    (t.putFuture c i f).strand? d sl = t.strand? d sl := by
  rw [State.strand?, State.strand?, State.putFuture]
  by_cases hd : c = d
  · rw [hd, State.core_modCore]
  · rw [State.core_modCore_other _ _ hd]

theorem State.putFuture_here (t : State) (c i : Nat) (f : Future) : (t.putFuture c i f).here? = t.here? :=
  State.putFuture_strand? t c i f t.cur.1 t.cur.2

/-- A future that a register is bound to and that nobody awaits completes: it is replaced, and nothing else changes. -/
theorem State.completeFuture_bound {t : State} {c i : Nat} {f : Future} (hf : Assoc.find (t.core c).futures i = some f)
    (hdone : f.done = false) (hbound : f.binding ≠ []) (hidle : ∀ x ∈ (t.core c).slots, x.2.wait.onFuture i = false) (status : Nat) :
    t.completeFuture c i status = t.putFuture c i { f with done := true, status := BitVec.ofNat 64 status } := by
  rw [State.completeFuture, State.putFuture, State.modCore, State.modCore, CoreSt.completeFuture_bound hf hdone hbound hidle]

/-! ### What the cancellation of an operation does, by its kind -/

theorem State.cancelFuture_marks {t : State} {c : Nat}
    (h : f.kind = .matrix ∨ (∃ r, f.kind = .promo r ∧ refRemote r.toNat = false) ∨ (∃ ws k, f.kind = .gath ws k) ∨
      (∃ r x n m, f.kind = .gathRemote r x n m) ∨ ∃ r x g q, f.kind = .gathFar r x g q) :
    t.cancelFuture c i f = t.putFuture c i { f with cancel := true } := by
  rcases h with hk | ⟨ref, hk, hlocal⟩ | ⟨ws, k, hk⟩ | ⟨r, x, n, m, hk⟩ | ⟨r, x, g, q, hk⟩
  · simp only [State.cancelFuture, hk, State.putFuture]
  · simp only [State.cancelFuture, hk, hlocal, Bool.false_eq_true, if_false, State.putFuture]
  · simp only [State.cancelFuture, hk, State.putFuture]
  · simp only [State.cancelFuture, hk, State.putFuture]
  · simp only [State.cancelFuture, hk, State.putFuture]

/-- A promotion at another package. -/
theorem State.cancelFuture_promo {t : State} {c : Nat} {ref : DWord} {q : Request} (hkind : f.kind = .promo ref)
    (hremote : refRemote ref.toNat = true)
    (hq : (t.links.requests.find? fun r => r.core == c && r.op == f.serial && r.slot == 256 + i) = some q) :
    t.cancelFuture c i f =
      if t.links.sent q.id then (t.putFuture c i { f with cancel := true }).sendTo q.pkg (.cancel Config.packageNumber q.id)
      else ({ t.putFuture c i { f with cancel := true } with
        links := { t.links with requests := t.links.requests.filter fun x => x.id != q.id } } : State).completeFuture c i 0x3F := by
  cases f
  dsimp only at hkind
  subst hkind
  simp only [State.cancelFuture, hremote, if_true, State.modCore_links, hq]
  rfl

theorem State.cancelFuture_launch {t : State} {c n : Nat} {l : Launch} (hkind : f.kind = .launch n)
    (hl : Assoc.find t.launches n = some l) :
    t.cancelFuture c i f = { t with launches := Assoc.set t.launches n { l with cancelled := true } } := by
  simp only [State.cancelFuture, hkind, hl]

/-- A request of CTXSV whose save has not begun. -/
theorem State.cancelFuture_ctxsv {t : State} {c sl : Nat} {x : Strand} {p : Preempt} {gen : BitVec 8}
    (hkind : f.kind = .ctxsv sl gen) (hgen : (t.core c).gen sl = gen) (hx : t.strand? c sl = some x) (hp : x.preempt = some p)
    (hfuture : p.future = some (c, i)) (hwait : x.wait = .none) :
    t.cancelFuture c i f = (t.setStrand c sl x.withdrawn).completeFuture c i 0x3F := by
  simp [State.cancelFuture, hkind, hgen, hx, hp, hfuture, hwait]

/-- The strand that issues is not one that waits on a future, where no entry of its core is. -/
theorem State.cancelling_onFuture (h : s.here? = some st) (hidle : (s.core s.cur.1).awaited i f.serial = false) :
    ∀ x ∈ ((s.cancelling st).core s.cur.1).slots, x.2.wait.onFuture i = false := fun x hx => by
  have hslots : ((s.cancelling st).core s.cur.1).slots = ((s.setHere st).core s.cur.1).slots := by
    rw [State.cancelling, State.count, State.core_modCore]
    rfl
  rw [hslots] at hx
  exact CoreSt.onFuture_of_awaited hidle x (State.mem_slots_setHere h hx)

end

end

end Sys2Proof.Machine

section
open Sys2Proof Sys2Proof.Machine

/-- Settles O42: FTEST and FWAIT by `execFtest_writes` and `execFwait_eq`; FCANCEL by what `State.cancelFuture` does for each
kind of operation. -/
theorem futureWords : Obligations.FutureWords := by
  unfold Obligations.FutureWords
  intro s st a _
  refine ⟨fun d r => ?ftest, fun r => ⟨fun hn => ?unnamed, fun i f hn hdone => ?done, fun i f hn hdone => ?waits⟩,
    fun r => ⟨fun x hx h => ?noEffect, fun i f hn hdone => ⟨fun hkind => ?mark, fun ref q hkind hremote hq => ⟨fun hsent => ?sent,
      fun hsent hbound hidle => ?unsent⟩, fun n l hkind hl => ?launch,
      fun sl x p hkind hsl hx hp hfuture hwait hbound hidle => ?ctxsv⟩⟩⟩
  case ftest =>
    obtain ⟨b, hexec, hnone, hsome⟩ := execFtest_writes r
    refine hexec.trans ?_
    cases hn : s.named? s.cur.1 (st.gr a.toNat) with
    | none => rw [hnone hn]
    | some x => rw [hsome x hn]
  case unnamed =>
    refine ⟨_, (execFwait_eq r).trans (by rw [hn]), here?_unbound _ fun k => ?_⟩
    exact CoreSt.unbind_keep CoreSt.slots (fun _ _ => rfl) k _ _
  case done =>
    have hreap (k : CoreSt) : (k.reap i).slots = k.slots := by
      unfold CoreSt.reap
      split
      · split <;> rfl
      · rfl
    refine ⟨_, execFwait_eq r, ?_⟩
    simp only [hn, hdone, if_true]
    exact here?_unbound _ fun k => (hreap _).trans (CoreSt.unbind_keep CoreSt.slots (fun _ _ => rfl) k _ _)
  case waits =>
    refine (execFwait_eq r).trans ?_
    simp only [hn, hdone, Bool.false_eq_true, if_false, State.retireWord_setHere]
    rfl
  case noEffect => exact execFcancel_noEffect r (by rw [hx]; exact h)
  case mark =>
    refine ⟨_, execFcancel_cancels r hn hdone, ?_, ?_⟩
    · rw [State.cancelFuture_marks hkind]
      exact State.retireWord_here ((State.putFuture_here _ _ _ _).trans State.cancelling_here) _
    · rw [State.retireWord_core CoreSt.futures (fun _ _ => rfl), State.cancelFuture_marks hkind, State.putFuture_future]
  case sent =>
    have hcancel := (State.cancelFuture_promo (t := s.cancelling st) (c := s.cur.1) hkind hremote hq).trans (if_pos hsent)
    have hcore (c : Nat) := State.sendTo_keep (fun s => s.core c) (fun _ _ => rfl)
      ((s.cancelling st).putFuture s.cur.1 i { f with cancel := true }) q.pkg (.cancel Config.packageNumber q.id)
    have hhere := State.sendTo_keep State.here? (fun _ _ => rfl)
      ((s.cancelling st).putFuture s.cur.1 i { f with cancel := true }) q.pkg (.cancel Config.packageNumber q.id)
    refine ⟨_, execFcancel_cancels r hn hdone, ?_, ?_, ?_⟩
    · rw [hcancel]
      exact State.retireWord_here (hhere.trans ((State.putFuture_here _ _ _ _).trans State.cancelling_here)) _
    · rw [State.retireWord_core CoreSt.futures (fun _ _ => rfl), hcancel, hcore, State.putFuture_future]
    · rw [hcancel, State.retireWord_links]
      exact State.sendTo_links (s := s) (t := (s.cancelling st).putFuture s.cur.1 i { f with cancel := true }) rfl _ _
  case unsent =>
    have hcancel := (State.cancelFuture_promo (t := s.cancelling st) (c := s.cur.1) hkind hremote hq).trans
      (if_neg (by rw [show (s.cancelling st).links.sent q.id = false from hsent]; exact Bool.false_ne_true))
    generalize hu : ({ (s.cancelling st).putFuture s.cur.1 i { f with cancel := true } with
        links := { (s.cancelling st).links with
          requests := (s.cancelling st).links.requests.filter fun x => x.id != q.id } } : State) = u at hcancel
    have hfuture : Assoc.find (u.core s.cur.1).futures i = some { f with cancel := true } := by
      rw [← hu]
      exact State.putFuture_future (s.cancelling st) _ _ _
    have hslots : ∀ x ∈ (u.core s.cur.1).slots, x.2.wait.onFuture i = false := by
      rw [← hu]
      intro x hx
      refine State.cancelling_onFuture r.here hidle x ?_
      change x ∈ (((s.cancelling st).putFuture s.cur.1 i { f with cancel := true }).core s.cur.1).slots at hx
      rwa [State.putFuture, State.core_modCore] at hx
    have hcomplete := State.completeFuture_bound hfuture (by exact hdone) (by exact hbound) hslots 0x3F
    refine ⟨_, execFcancel_cancels r hn hdone, ?_, ?_⟩
    · rw [State.retireWord_links, hcancel, hcomplete, State.putFuture, State.modCore_links, ← hu]
      intro x hx
      have hkept := (List.mem_filter.mp hx).2
      simpa using hkept
    · rw [State.retireWord_core CoreSt.futures (fun _ _ => rfl), hcancel, hcomplete, State.putFuture_future]
  case launch =>
    have hcancel := State.cancelFuture_launch (t := s.cancelling st) (c := s.cur.1) (i := i) hkind hl
    refine ⟨_, execFcancel_cancels r hn hdone, ?_, ?_⟩
    · rw [hcancel]
      refine State.retireWord_here ?_ _
      exact State.cancelling_here (s := s) (st := st)
    · rw [hcancel, State.retireWord_launches]
      exact Assoc.find_set_same _ _ _
  case ctxsv =>
    have hgen : ((s.cancelling st).core s.cur.1).gen sl = (s.core s.cur.1).gen sl :=
      State.cancelling_core (fun k => k.gen sl) (fun _ _ => rfl) (fun _ _ => rfl) _
    have hx' : (s.cancelling st).strand? s.cur.1 sl = some x := by
      rw [State.cancelling_strand?, State.setHere, State.strand?_setStrand_other _ _ fun h => hsl h.2.symm, hx]
    have hcancel := State.cancelFuture_ctxsv (f := f) hkind hgen hx' hp hfuture hwait
    have hnamed : Assoc.find (((s.cancelling st).setStrand s.cur.1 sl x.withdrawn).core s.cur.1).futures i = some f := by
      rw [State.setStrand_core CoreSt.futures fun _ _ => rfl]
      have hfutures : ((s.cancelling st).core s.cur.1).futures = (s.core s.cur.1).futures :=
        State.cancelling_core CoreSt.futures (fun _ _ => rfl) (fun _ _ => rfl) _
      rw [hfutures, State.named?_eq_some hn]
    have hslots : ∀ y ∈ (((s.cancelling st).setStrand s.cur.1 sl x.withdrawn).core s.cur.1).slots, y.2.wait.onFuture i = false := by
      intro y hy
      rw [State.setStrand, State.core_modCore] at hy
      rcases Assoc.mem_set _ _ _ y hy with rfl | hold
      · simp [Strand.withdrawn, hwait, Wait.onFuture]
      · exact State.cancelling_onFuture r.here hidle y hold
    have hcomplete := State.completeFuture_bound hnamed hdone hbound hslots 0x3F
    refine ⟨_, execFcancel_cancels r hn hdone, ?_, rfl, ?_⟩
    · rw [hcancel, hcomplete, State.strand?_retireWord_other _ _ (by exact fun h => hsl h.2.symm), State.putFuture_strand?,
        State.strand?_setStrand]
    · rw [State.retireWord_core CoreSt.futures (fun _ _ => rfl), hcancel, hcomplete, State.putFuture_future]

end

end

section
/-! SUPPORT. FENCE, POST and CCLOSE at issue (R188, R225, R347). -/

namespace Sys2Proof.Machine

section
variable {s : State} {st : Strand}

/-! ### What a word that changes its own core alone leaves -/

/-- A state of which one core alone has changed, and nothing of its strands. -/
theorem State.sameOutside_retired {u : Use} {f : Form} {t : State}
    (hmem : t.mem = s.mem) (htables : t.tables = s.tables) (hlaunches : t.launches = s.launches) (hblocks : t.blocks = s.blocks)
    (hcur : t.cur = s.cur) (hcores : ∀ k, k ≠ s.cur.1 → t.core k = (s.before u f st).core k) (fl : Flow) :
    s.sameOutside (t.retireWord fl) s.cur.1 := by
  refine ⟨by rw [State.retireWord_mem, hmem], by rw [State.retireWord_tables, htables], by rw [State.retireWord_launches, hlaunches],
    by rw [State.retireWord_blocks, hblocks], fun k hk => ?_⟩
  rw [State.retireWord_core_other _ _ (by rw [hcur]; exact hk), hcores k hk, State.before_core_other _ _ _ _ hk]

/-- A word that changes its own core alone, but for its strands and memory. -/
theorem State.sameOutside_modCore (u : Use) (f : Form) (g : CoreSt → CoreSt) (fl : Flow) :
    s.sameOutside (((s.before u f st).modCore s.cur.1 g).retireWord fl) s.cur.1 :=
  State.sameOutside_retired (u := u) (f := f) (st := st) (t := (s.before u f st).modCore s.cur.1 g)
    (State.before_keep State.mem (fun _ _ _ => rfl) s u f st)
    (State.before_keep State.tables (fun _ _ _ => rfl) s u f st) (State.before_keep State.launches (fun _ _ _ => rfl) s u f st)
    (State.before_keep State.blocks (fun _ _ _ => rfl) s u f st) (State.before_cur s u f st)
    (fun _ hk => State.core_modCore_other (s.before u f st) g (Ne.symm hk)) fl

theorem State.sameOutside_before (u : Use) (f : Form) (fl : Flow) :
    s.sameOutside ((s.before u f st).retireWord fl) s.cur.1 :=
  State.sameOutside_retired (State.before_keep State.mem (fun _ _ _ => rfl) s u f st)
    (State.before_keep State.tables (fun _ _ _ => rfl) s u f st) (State.before_keep State.launches (fun _ _ _ => rfl) s u f st)
    (State.before_keep State.blocks (fun _ _ _ => rfl) s u f st) (State.before_cur s u f st) (fun _ _ => rfl) fl

/-- The strand that a word leaves which changes its core, but no strand. -/
theorem State.here?_modCore_before {u : Use} {f : Form} {g : CoreSt → CoreSt} (hg : ∀ k, (g k).slots = k.slots) (fl : Flow) :
    (((s.before u f st).modCore s.cur.1 g).retireWord fl).here? = some ((st.ready u f).retire fl) :=
  State.retireWord_here ((State.here?_modCore _ _ hg).trans (State.before_here _ _ _ _)) fl

theorem Strand.ready_ends {u : Use} {f : Form} (ha : u.aRegs = []) :
    st.ready u f = if f.ends then { st with region := none } else st := by
  simp [Strand.ready, Strand.freeMarked, ha]

/-- An operation put at the end of the list of the core that issues. -/
def State.addOp (t : State) (o : Op) : State := t.modCore t.cur.1 fun k => { k with ops := k.ops ++ [o] }

/-- What a word leaves that adds an operation: its strand, everything outside its core, and the operation at the end. -/
theorem State.addOp_joined (u : Use) (f : Form) (o : Op) (fl : Flow) :
    (((s.before u f st).addOp o).retireWord fl).here? = some ((st.ready u f).retire fl) ∧
    s.sameOutside (((s.before u f st).addOp o).retireWord fl) s.cur.1 ∧
    ((((s.before u f st).addOp o).retireWord fl).core s.cur.1).ops = (s.core s.cur.1).ops ++ [o] := by
  unfold State.addOp
  rw [State.before_cur]
  refine ⟨State.here?_modCore_before (g := fun k => { k with ops := k.ops ++ [o] }) (fun _ => rfl) fl,
    State.sameOutside_modCore u f (fun k => { k with ops := k.ops ++ [o] }) fl, ?_⟩
  rw [State.retireWord_core CoreSt.ops (fun _ _ => rfl), State.core_modCore]
  exact congrArg (· ++ [o]) (State.before_core CoreSt.ops (fun _ _ => rfl) (fun _ _ => rfl) s u f st)

/-- What a word leaves that has no effect. -/
theorem State.before_noEffect (u : Use) (f : Form) (fl : Flow) :
    ((s.before u f st).retireWord fl).here? = some ((st.ready u f).retire fl) ∧
    s.sameOutside ((s.before u f st).retireWord fl) s.cur.1 ∧
    (((s.before u f st).retireWord fl).core s.cur.1).ops = (s.core s.cur.1).ops := by
  refine ⟨State.retireWord_here (State.before_here _ _ _ _) _, State.sameOutside_before _ _ _, ?_⟩
  rw [State.retireWord_core CoreSt.ops (fun _ _ => rfl)]
  exact State.before_core CoreSt.ops (fun _ _ => rfl) (fun _ _ => rfl) s u f st

/-! ### FENCE -/

/-- The form of FENCE under a mode. -/
abbrev fenceForm (m : Word) : Form := { types := modeScope m != .row, ends := (modeOrder m).releases }

theorem execFence_here (h : s.here? = some st) : execFence s = issue .fence {} (fenceForm st.group.mode) noChecks
    (fun st s => .ok (if ((s.core s.cur.1).strandOps s.cur.2).isEmpty || modeOrder st.group.mode == .rlx then s
      else s.modCore s.cur.1 fun k => { k with ops := k.ops ++
        [{ newOp .fence st s.cur.2 ((s.core s.cur.1).gen s.cur.2) with todo := 0#64 }] }, .seq)) id s := by
  have htypes : (match modeScope st.group.mode with
      | .row => false
      | _ => true) = (modeScope st.group.mode != .row) := by
    cases modeScope st.group.mode <;> rfl
  unfold execFence
  rw [State.modeWord_here h]
  exact congrArg (fun b => issue .fence {} { types := b, ends := (modeOrder st.group.mode).releases } noChecks _ id s) htypes

theorem execFence_eq (r : Ready .fence {} (fenceForm st.group.mode) st s) : execFence s = .next (State.retireWord
    (if (s.core s.cur.1).strandOps s.cur.2 = [] ∨ modeOrder st.group.mode = .rlx then s.before {} (fenceForm st.group.mode) st
      else (s.before {} (fenceForm st.group.mode) st).addOp { s.newOpHere .fence st with todo := 0#64 }) .seq) := by
  have hops : ((s.before {} (fenceForm st.group.mode) st).core s.cur.1).strandOps s.cur.2 = (s.core s.cur.1).strandOps s.cur.2 :=
    State.before_core (fun k => k.strandOps s.cur.2) (fun _ _ => rfl) (fun _ _ => rfl) s _ _ _
  unfold State.addOp
  rw [execFence_here r.here, issue_ready r (firstFault_noChecks _ _)]
  simp only [State.before_cur, hops, State.before_gen, Bool.or_eq_true, List.isEmpty_iff, beq_iff_eq]
  rfl

theorem execFence_joins (r : Ready .fence {} (fenceForm st.group.mode) st s) : ∃ t, execFence s = .next t ∧
    t.here? = some ((if (modeOrder st.group.mode).releases then { st with region := none } else st).retire .seq) ∧
    s.sameOutside t s.cur.1 ∧
    (t.core s.cur.1).ops = if (s.core s.cur.1).strandOps s.cur.2 = [] ∨ modeOrder st.group.mode = .rlx then (s.core s.cur.1).ops
      else (s.core s.cur.1).ops ++ [{ s.newOpHere .fence st with todo := 0#64 }] := by
  have hready := Strand.ready_ends (st := st) (u := {}) (f := fenceForm st.group.mode) rfl
  rw [execFence_eq r]
  by_cases hnone : (s.core s.cur.1).strandOps s.cur.2 = [] ∨ modeOrder st.group.mode = .rlx
  · have hleft := State.before_noEffect (s := s) (st := st) {} (fenceForm st.group.mode) .seq
    rw [hready] at hleft
    rw [if_pos hnone, if_pos hnone]
    exact ⟨_, rfl, hleft⟩
  · have hleft := State.addOp_joined (s := s) (st := st) {} (fenceForm st.group.mode)
      { s.newOpHere .fence st with todo := 0#64 } .seq
    rw [hready] at hleft
    rw [if_neg hnone, if_neg hnone]
    exact ⟨_, rfl, hleft⟩

/-! ### POST -/

/-- The address of the result word of a strand's launch, 0 without one. -/
def State.resultWord (s : State) (st : Strand) : DWord :=
  match Assoc.find s.launches st.launch with
  | some l => l.record.result
  | none => 0#64

/-- The operation that POST joins: one lane, with the address and the value. -/
def State.postOp (s : State) (st : Strand) (a : BitVec 6) : Op :=
  { s.newOpHere (.post a) st with
    todo := 1#64 <<< (lanesOf st.active).headD 0
    vals := [((lanesOf st.active).headD 0, [lo32 (s.resultWord st), hi32 (s.resultWord st), lo32 (st.gr a.toNat), hi32 (st.gr a.toNat)])] }

theorem State.resultWord_before (u : Use) (f : Form) (x : Strand) : (s.before u f x).resultWord st = s.resultWord st := by
  unfold State.resultWord
  rw [State.before_keep State.launches (fun _ _ _ => rfl)]

/-- What POST does once it is ready. -/
def postEffect (a : BitVec 6) : Effect := fun st s =>
  if s.resultWord st = 0#64 ∧ launchOwn st.launch then .ok (s, .seq)
  else .ok (s.addOp (s.postOp st a), .seq)

theorem execPost_here (a : BitVec 6) :
    execPost a s = issue (.post a) { gRead := [a.toNat] } { ends := true } noChecks (postEffect a) id s := rfl

theorem execPost_eq {a : BitVec 6} (r : Ready (.post a) { gRead := [a.toNat] } { ends := true } st s) :
    execPost a s = .next (State.retireWord
      (if s.resultWord st = 0#64 ∧ launchOwn st.launch then s.before { gRead := [a.toNat] } { ends := true } st
      else (s.before { gRead := [a.toNat] } { ends := true } st).addOp (s.postOp st a)) .seq) := by
  have hop : (s.before { gRead := [a.toNat] } { ends := true } st).postOp st a = s.postOp st a := by
    unfold State.postOp State.newOpHere
    rw [State.before_cur, State.before_gen, State.resultWord_before]
  rw [execPost_here, issue_ready r (firstFault_noChecks _ _), postEffect, State.resultWord_before, hop]
  by_cases hnone : s.resultWord st = 0#64 ∧ launchOwn st.launch
  · rw [if_pos hnone, if_pos hnone]
  · rw [if_neg hnone, if_neg hnone]

theorem pair64_toNat (x : DWord) : (lo32 x).toNat + (hi32 x).toNat * 2 ^ 32 = x.toNat := by
  have hx := x.isLt
  simp only [lo32, hi32, BitVec.toNat_setWidth, BitVec.toNat_ushiftRight, Nat.shiftRight_eq_div_pow]
  omega

theorem popCount_oneLane {l : Nat} (h : l < 64) : popCount (1#64 <<< l) = 1 := by
  have hall : ∀ l : Fin 64, popCount (1#64 <<< l.val) = 1 := by decide +kernel
  exact hall ⟨l, h⟩

/-- The one lane of POST, its address and its value. -/
theorem State.postOp_lane {a : BitVec 6} (hact : st.active ≠ 0#64) : popCount (s.postOp st a).todo = 1 ∧
    ∀ l, (s.postOp st a).todo.getLsbD l = true → l < 64 →
      (s.postOp st a).pair l 0 = (s.resultWord st).toNat ∧ (s.postOp st a).pair l 2 = (st.gr a.toNat).toNat := by
  have hlt : (lanesOf st.active).headD 0 < 64 := by
    have hhead := mem_lanesOf.mp (headD_lanesOf_mem hact)
    by_contra hge
    rw [BitVec.getLsbD_of_ge _ _ (by omega)] at hhead
    exact Bool.noConfusion hhead
  refine ⟨popCount_oneLane hlt, fun l hl hl64 => ?_⟩
  have hone : l = (lanesOf st.active).headD 0 := by
    have hbit : (1#64 <<< (lanesOf st.active).headD 0).getLsbD l = true := hl
    simp only [BitVec.getLsbD_shiftLeft, BitVec.getLsbD_one, hl64, decide_true, Bool.true_and, Bool.and_eq_true,
      Bool.not_eq_true', decide_eq_false_iff_not, decide_eq_true_eq] at hbit
    omega
  have hwords : (s.postOp st a).words l =
      [lo32 (s.resultWord st), hi32 (s.resultWord st), lo32 (st.gr a.toNat), hi32 (st.gr a.toNat)] := by
    rw [hone]
    exact if_pos rfl
  rw [Op.pair, Op.pair, hwords]
  exact ⟨pair64_toNat _, pair64_toNat _⟩

/-! ### CCLOSE -/

/-- The cursors that the handles of some lanes name are closed, one after another. -/
def State.closeCursors (s : State) (c sl : Nat) (h : Nat → Word) (ls : List Nat) : State :=
  ls.foldl (fun s l => match (s.core c).cursor? sl ((s.core c).gen sl) (h l) with
    | some (i, _) => s.modCore c fun k => { k with cursors := Assoc.erase k.cursors i }
    | none => s) s

theorem State.closeCursors_keep {β : Type} (p : State → β)
    (hp : ∀ (s : State) c i, p (s.modCore c fun k => { k with cursors := Assoc.erase k.cursors i }) = p s) (s : State) (c sl : Nat)
    (h : Nat → Word) (ls : List Nat) : p (s.closeCursors c sl h ls) = p s := by
  refine foldl_keep p _ (fun s l => ?_) ls s
  split
  · exact hp _ _ _
  · rfl

/-- A cursor closed is one that no handle names any longer; every other handle names what it did. -/
theorem CoreSt.cursor?_erase (k : CoreSt) (sl i : Nat) (gen : BitVec 8) (h : Word) :
    ({ k with cursors := Assoc.erase k.cursors i } : CoreSt).cursor? sl gen h =
      if slice h 8 0 = i then none else k.cursor? sl gen h := by
  unfold CoreSt.cursor?
  by_cases hi : slice h 8 0 = i
  · rw [if_pos hi, hi]
    simp only [Assoc.find_erase_same, ite_self]
  · rw [if_neg hi]
    simp only [Assoc.find_erase_other _ (Ne.symm hi)]

theorem CoreSt.cursor?_index {k : CoreSt} {sl : Nat} {gen : BitVec 8} {h : Word} {x : Nat × Cursor}
    (hx : k.cursor? sl gen h = some x) : x.1 = slice h 8 0 := by
  unfold CoreSt.cursor? at hx
  split at hx
  next => simp at hx
  next =>
    split at hx
    next =>
      split at hx
      next => rw [← Option.some.inj hx]
      next => simp at hx
    next => simp at hx

theorem State.cursors_closeCursors (s : State) (c sl : Nat) (h : Nat → Word) (ls : List Nat) (i : Nat) :
    Assoc.find ((s.closeCursors c sl h ls).core c).cursors i =
      if ls.any (fun l => ((s.core c).cursor? sl ((s.core c).gen sl) (h l)).map (·.1) == some i) then none
      else Assoc.find (s.core c).cursors i := by
  induction ls generalizing s with
  | nil => rfl
  | cons l ls ih =>
    rw [State.closeCursors, List.foldl_cons, List.any_cons]
    cases hl : (s.core c).cursor? sl ((s.core c).gen sl) (h l) with
    | none =>
      refine (ih s).trans ?_
      rfl
    | some x =>
      have hstep := ih (s.modCore c fun k => { k with cursors := Assoc.erase k.cursors x.1 })
      refine hstep.trans ?_
      rw [State.core_modCore]
      have hgen : CoreSt.gen { s.core c with cursors := Assoc.erase (s.core c).cursors x.1 } sl = (s.core c).gen sl := rfl
      simp only [hgen, CoreSt.cursor?_erase]
      by_cases hi : x.1 = i
      · subst hi
        simp [Assoc.find_erase_same]
      · have hsame : (ls.any fun l => Option.map (·.1) (if slice (h l) 8 0 = x.1 then none
            else (s.core c).cursor? sl ((s.core c).gen sl) (h l)) == some i) =
            ls.any fun l => ((s.core c).cursor? sl ((s.core c).gen sl) (h l)).map (·.1) == some i := by
          refine congrArg (fun f => ls.any f) (funext fun j => ?_)
          split
          next hj =>
            cases hc : (s.core c).cursor? sl ((s.core c).gen sl) (h j) with
            | none => rfl
            | some y => simp [CoreSt.cursor?_index hc, hj, hi]
          next => rfl
        rw [hsame, Assoc.find_erase_other _ hi]
        simp only [Option.map_some, beq_iff_eq, Option.some.injEq, hi, Bool.or_eq_true, false_or]

theorem execCclose_closes {a : BitVec 8} (r : Ready (.cclose a) { aRegs := [a.toNat] } {} st s) :
    execCclose a s = .next (((s.before { aRegs := [a.toNat] } {} st).closeCursors s.cur.1 s.cur.2 (fun l => st.vlane a.toNat l)
      (lanesOf st.active)).retireWord .seq) := by
  have hcur {t : State} (ls : List Nat) : (t.closeCursors s.cur.1 s.cur.2 (fun l => st.vlane a.toNat l) ls).cur = t.cur :=
    State.closeCursors_keep State.cur (fun _ _ _ => rfl) _ _ _ _ _
  have hfold (ls : List Nat) (t : State) (ht : t.cur = s.cur) :
      ls.foldl (fun s' l => match (s'.core s.cur.1).cursor? s'.cur.2 ((s'.core s.cur.1).gen s'.cur.2) (st.vlane a.toNat l) with
        | some (i, _) => s'.modCore s.cur.1 fun k => { k with cursors := Assoc.erase k.cursors i }
        | none => s') t = t.closeCursors s.cur.1 s.cur.2 (fun l => st.vlane a.toNat l) ls := by
    induction ls generalizing t with
    | nil => rfl
    | cons l ls ih =>
      rw [List.foldl_cons, State.closeCursors, List.foldl_cons, ht]
      refine ih _ ?_
      split
      · exact ht
      · exact ht
  unfold execCclose
  rw [issue_ready r (firstFault_noChecks _ _)]
  simp only [State.before_cur]
  exact congrArg (fun t => Host.Outcome.next (State.retireWord t .seq)) (hfold _ _ (State.before_cur _ _ _ _))

end

end Sys2Proof.Machine

section
open Sys2Proof Sys2Proof.Machine

/-- Settles O44: `execFence_joins`, `execPost_eq` with `State.postOp_lane`, and `execCclose_closes` with
`State.cursors_closeCursors`. -/
theorem fencePostAndClose : Obligations.FencePostAndClose := by
  unfold Obligations.FencePostAndClose
  refine fun s st hact => ⟨fun r => execFence_joins r, fun a r => ?post, fun a r => ?close⟩
  all_goals dsimp only [exec]
  case post =>
    have hready := Strand.ready_ends (st := st) (u := { gRead := [a.toNat] }) (f := { ends := true }) rfl
    rw [execPost_eq r]
    by_cases hnone : s.resultWord st = 0#64 ∧ launchOwn st.launch
    · have hleft := State.before_noEffect (s := s) (st := st) { gRead := [a.toNat] } { ends := true } .seq
      rw [hready] at hleft
      obtain ⟨hhere, hout, hops⟩ := hleft
      rw [if_pos hnone]
      refine ⟨_, rfl, hhere, hout, fun addr haddr => ⟨fun _ => hops, fun hsome => ?_⟩⟩
      rcases hsome with h | h
      · exact absurd (haddr.trans hnone.1) h
      · exact absurd hnone.2 (by rw [h]; exact Bool.noConfusion)
    · have hleft := State.addOp_joined (s := s) (st := st) { gRead := [a.toNat] } { ends := true } (s.postOp st a) .seq
      rw [hready] at hleft
      obtain ⟨hhere, hout, hops⟩ := hleft
      rw [if_neg hnone]
      refine ⟨_, rfl, hhere, hout, fun addr haddr => ⟨fun h => absurd ⟨haddr.symm.trans h.1, h.2⟩ hnone, fun _ => ?_⟩⟩
      have hword : addr = s.resultWord st := haddr
      obtain ⟨hone, hlane⟩ := State.postOp_lane (s := s) (a := a) hact
      exact ⟨s.postOp st a, hops, hone, rfl, fun l hl hl64 => hword ▸ hlane l hl hl64⟩
  case close =>
    have hkeep {β : Type} (p : State → β)
        (hp : ∀ (s : State) c i, p (s.modCore c fun k => { k with cursors := Assoc.erase k.cursors i }) = p s) :=
      State.closeCursors_keep p hp (s.before { aRegs := [a.toNat] } {} st) s.cur.1 s.cur.2 (fun l => st.vlane a.toNat l)
        (lanesOf st.active)
    refine ⟨_, execCclose_closes r, ?_, ?_, fun i => ?_⟩
    · refine State.retireWord_here (y := st.ready { aRegs := [a.toNat] } {}) ?_ _
      exact (hkeep State.here? fun t c i => State.here?_modCore _ _ fun _ => rfl).trans (State.before_here _ _ _ _)
    · refine State.sameOutside_retired (u := { aRegs := [a.toNat] }) (f := {}) (st := st)
        ((hkeep State.mem fun _ _ _ => rfl).trans (State.before_keep State.mem (fun _ _ _ => rfl) _ _ _ _))
        ((hkeep State.tables fun _ _ _ => rfl).trans (State.before_keep State.tables (fun _ _ _ => rfl) _ _ _ _))
        ((hkeep State.launches fun _ _ _ => rfl).trans (State.before_keep State.launches (fun _ _ _ => rfl) _ _ _ _))
        ((hkeep State.blocks fun _ _ _ => rfl).trans (State.before_keep State.blocks (fun _ _ _ => rfl) _ _ _ _))
        ((hkeep State.cur fun _ _ _ => rfl).trans (State.before_cur _ _ _ _)) (fun k hk => ?_) _
      refine foldl_keep (fun t : State => t.core k) _ (fun t l => ?_) _ _
      dsimp only
      split
      · exact State.core_modCore_other _ _ (Ne.symm hk)
      · rfl
    · have hcursor (l : Nat) : ((s.before { aRegs := [a.toNat] } {} st).core s.cur.1).cursor? s.cur.2
          (((s.before { aRegs := [a.toNat] } {} st).core s.cur.1).gen s.cur.2) (st.vlane a.toNat l) =
          (s.core s.cur.1).cursor? s.cur.2 ((s.core s.cur.1).gen s.cur.2) (st.vlane a.toNat l) :=
        State.before_core (fun k => k.cursor? s.cur.2 (k.gen s.cur.2) (st.vlane a.toNat l)) (fun _ _ => rfl) (fun _ _ => rfl) s _ _ _
      have hcursors : ((s.before { aRegs := [a.toNat] } {} st).core s.cur.1).cursors = (s.core s.cur.1).cursors :=
        State.before_core CoreSt.cursors (fun _ _ => rfl) (fun _ _ => rfl) s _ _ _
      rw [State.retireWord_core CoreSt.cursors (fun _ _ => rfl), State.cursors_closeCursors]
      simp only [hcursor, hcursors]

end

end

section
/-! SUPPORT. Buffers: BALLOC, BGIVE, BTAKE, BFREE and PUBL at issue (R200-R204, R233). -/

namespace Sys2Proof.Machine

section
variable {s : State} {st x : Strand} {u : Use} {f : Form} {g : CoreSt → CoreSt}

/-! ### Words that change their core and their strand -/

/-- A word that changes its core by g and leaves the strand x. -/
def State.rewrote (s : State) (u : Use) (f : Form) (st : Strand) (g : CoreSt → CoreSt) (x : Strand) : State :=
  ((s.before u f st).modCore s.cur.1 g).setHere x

theorem State.rewrote_cur : (s.rewrote u f st g x).cur = s.cur := by
  rw [State.rewrote, State.setHere_cur, State.modCore_cur, State.before_cur]

theorem State.rewrote_keep {β : Type} (p : State → β) (hp : ∀ (t : State) c k, p (t.modCore c k) = p t) :
    p (s.rewrote u f st g x) = p s := by
  rw [State.rewrote, State.setHere, State.setStrand, hp, hp, State.before_keep p hp]

theorem State.rewrote_here (fl : Flow) : ((s.rewrote u f st g x).retireWord fl).here? = some (x.retire fl) :=
  State.retireWord_here (State.here?_setHere _ _) fl

theorem State.rewrote_core_other {k : Nat} (hk : k ≠ s.cur.1) : (s.rewrote u f st g x).core k = s.core k := by
  rw [State.rewrote, State.setHere, State.setStrand, State.core_modCore_other _ _ (by simpa using Ne.symm hk),
    State.core_modCore_other _ _ (Ne.symm hk), State.before_core_other _ _ _ _ hk]

/-- What the core of such a word is afterwards, but for its strands. -/
theorem State.rewrote_core {β : Type} (p q : CoreSt → β) (hp : ∀ (k : CoreSt) y, p { k with slots := y } = p k)
    (hq : ∀ k, p (g k) = q k) (hf : ∀ (k : CoreSt) y, q { k with futures := y } = q k)
    (hs : ∀ (k : CoreSt) y, q { k with slots := y } = q k) :
    p ((s.rewrote u f st g x).core s.cur.1) = q (s.core s.cur.1) := by
  rw [State.rewrote, State.setHere_core p hp, State.core_modCore, hq, State.before_core q hf hs]

theorem State.rewrote_retired_core {β : Type} (p q : CoreSt → β) (hp : ∀ (k : CoreSt) y, p { k with slots := y } = p k)
    (hq : ∀ k, p (g k) = q k) (hf : ∀ (k : CoreSt) y, q { k with futures := y } = q k)
    (hs : ∀ (k : CoreSt) y, q { k with slots := y } = q k) (fl : Flow) :
    p (((s.rewrote u f st g x).retireWord fl).core s.cur.1) = q (s.core s.cur.1) :=
  (State.retireWord_core p hp _ _ _).trans (State.rewrote_core p q hp hq hf hs)

theorem State.rewrote_sameOutside (fl : Flow) : s.sameOutside ((s.rewrote u f st g x).retireWord fl) s.cur.1 :=
  State.sameOutside_retired (u := u) (f := f) (st := st) (t := s.rewrote u f st g x)
    (State.rewrote_keep State.mem fun _ _ _ => rfl) (State.rewrote_keep State.tables fun _ _ _ => rfl)
    (State.rewrote_keep State.launches fun _ _ _ => rfl) (State.rewrote_keep State.blocks fun _ _ _ => rfl)
    State.rewrote_cur (fun _ hk => (State.rewrote_core_other hk).trans (State.before_core_other s u f st hk).symm) fl

/-- The strand that issues changed, after its core. -/
theorem State.modHere_modCore_before (hg : ∀ k, (g k).slots = k.slots) (h : Strand → Strand) :
    ((s.before u f st).modCore s.cur.1 g).modHere h = s.rewrote u f st g (h (st.ready u f)) := by
  have hhere : ((s.before u f st).modCore s.cur.1 g).here? = some (st.ready u f) :=
    (State.here?_modCore _ _ hg).trans (State.before_here _ _ _ _)
  rw [State.modHere_eq hhere, State.rewrote]

theorem State.modHere_before (h : Strand → Strand) : (s.before u f st).modHere h = (s.before u f st).setHere (h (st.ready u f)) :=
  State.modHere_eq (State.before_here _ _ _ _) h

theorem CoreSt.counter_count (k : CoreSt) (sel n : Nat) : (k.count sel n).counter sel = k.counter sel + BitVec.ofNat 64 n := by
  exact Assoc.get_put_same _ _ _ _

/-- The strand of a word that ends its region and marks no register. -/
theorem Strand.ready_endsRegion (hu : u.aRegs = []) (hf : f.ends = true) : st.ready u f = { st with region := none } := by
  rw [Strand.ready_ends hu, if_pos hf]

/-- A counter of the core raised, and the strand changed. -/
theorem State.rewrote_counted (sel : Nat) (fl : Flow) :
    (((s.rewrote u f st (fun k => k.count sel) x).retireWord fl).core s.cur.1).counter sel =
      (s.core s.cur.1).counter sel + 1#64 :=
  State.rewrote_retired_core (fun k => k.counter sel) (fun k => k.counter sel + 1#64) (fun _ _ => rfl)
    (fun k => CoreSt.counter_count k sel 1) (fun _ _ => rfl) (fun _ _ => rfl) fl

/-- What a word leaves that raises a counter of its core. -/
theorem State.rewrote_counting (sel : Nat) (x : Strand) (fl : Flow) :
    ((s.rewrote u f st (fun k => k.count sel) x).retireWord fl).here? = some (x.retire fl) ∧
    (((s.rewrote u f st (fun k => k.count sel) x).retireWord fl).core s.cur.1).buffers = (s.core s.cur.1).buffers ∧
    (((s.rewrote u f st (fun k => k.count sel) x).retireWord fl).core s.cur.1).counter sel = (s.core s.cur.1).counter sel + 1#64 ∧
    s.sameOutside ((s.rewrote u f st (fun k => k.count sel) x).retireWord fl) s.cur.1 := by
  refine ⟨State.rewrote_here fl, ?_, State.rewrote_counted sel fl, State.rewrote_sameOutside fl⟩
  exact State.rewrote_retired_core (g := fun k => k.count sel) CoreSt.buffers CoreSt.buffers (fun _ _ => rfl) (fun _ => rfl)
    (fun _ _ => rfl) (fun _ _ => rfl) fl

/-! ### BALLOC -/

section
variable {d a : BitVec 6}

/-- What BALLOC has read and what it writes. -/
abbrev ballocUse (d a : BitVec 6) : Use := { gRead := [a.toNat], gDest := [d.toNat] }

/-- The form of the words that end a region and name no element type. -/
abbrev endsForm : Form := { ends := true }

/-- The handle of a block's portion on a core, 0 where there is none. -/
def CoreSt.portionHandle (k : CoreSt) (c : Nat) (st : Strand) : DWord :=
  match k.buffers.find? fun b => b.portion && b.launch == st.launch && b.block == st.block with
  | some b => (b.handle c).setWidth 64
  | none => 0#64

/-- The buffer that BALLOC makes of n granules from first on. -/
def CoreSt.newBuffer (k : CoreSt) (c first n : Nat) (st : Strand) : Buffer :=
  ⟨first, n, nextSerial k.allocSer, st.launch, st.block, some c, false, none, false⟩

/-- What BALLOC does once it is ready. -/
def ballocEffect (d a : BitVec 6) : Effect := fun st s =>
  let n := (st.gr a.toNat).toNat
  let refuse := (s.count s.cur.1 0x2001).modHere fun x => x.setG d.toNat 0#64
  .ok ((if !st.member then refuse
    else if n = 0 then s.modHere fun x => x.setG d.toNat ((s.core s.cur.1).portionHandle s.cur.1 st)
    else if 64 < n then refuse
    else match (s.core s.cur.1).freeRun n with
      | none => refuse
      | some first =>
        (s.modCore s.cur.1 fun k => { k with
          buffers := k.buffers ++ [(s.core s.cur.1).newBuffer s.cur.1 first n st]
          allocSer := nextSerial (s.core s.cur.1).allocSer }).modHere fun x =>
            x.setG d.toNat ((((s.core s.cur.1).newBuffer s.cur.1 first n st).handle s.cur.1).setWidth 64)), .seq)

theorem execBalloc_here (d a : BitVec 6) :
    execBalloc d a s = issue (.balloc d a) (ballocUse d a) endsForm noChecks (ballocEffect d a) id s := by
  have hportion (k : CoreSt) (s : State) (st : Strand) : (match k.buffers.find? fun b => b.portion && b.launch == st.launch &&
      b.block == st.block with
      | some b => s.modHere fun x => x.setG d.toNat ((b.handle s.cur.1).setWidth 64)
      | none => s.modHere fun x => x.setG d.toNat 0#64) = s.modHere fun x => x.setG d.toNat (k.portionHandle s.cur.1 st) := by
    unfold CoreSt.portionHandle
    cases k.buffers.find? fun b => b.portion && b.launch == st.launch && b.block == st.block <;> rfl
  unfold execBalloc
  refine congrArg (fun e => issue (.balloc d a) (ballocUse d a) endsForm noChecks e id s) (funext fun st => funext fun s => ?_)
  simp only [ballocEffect, ← hportion]
  rfl

section
variable (r : Ready (.balloc d a) (ballocUse d a) endsForm st s)

theorem before_newBuffer (first n : Nat) : ((s.before u f st).core s.cur.1).newBuffer s.cur.1 first n x =
    (s.core s.cur.1).newBuffer s.cur.1 first n x :=
  State.before_core (fun k => k.newBuffer s.cur.1 first n x) (fun _ _ => rfl) (fun _ _ => rfl) s u f st

theorem before_portionHandle : ((s.before u f st).core s.cur.1).portionHandle s.cur.1 x = (s.core s.cur.1).portionHandle s.cur.1 x :=
  State.before_core (fun k => k.portionHandle s.cur.1 x) (fun _ _ => rfl) (fun _ _ => rfl) s u f st

theorem before_freeRun (n : Nat) : ((s.before u f st).core s.cur.1).freeRun n = (s.core s.cur.1).freeRun n :=
  State.before_core (fun k => k.freeRun n) (fun _ _ => rfl) (fun _ _ => rfl) s u f st

theorem before_allocSer : ((s.before u f st).core s.cur.1).allocSer = (s.core s.cur.1).allocSer :=
  State.before_core CoreSt.allocSer (fun _ _ => rfl) (fun _ _ => rfl) s u f st

/-- The strand with the result of BALLOC or BTAKE. -/
abbrev Strand.given (st : Strand) (d : BitVec 6) (h : DWord) : Strand := { st with region := none }.setG d.toNat h

theorem ready_ballocUse : st.ready (ballocUse d a) endsForm = { st with region := none } := Strand.ready_endsRegion rfl rfl

theorem ballocEffect_gives {first n : Nat} (hn : (st.gr a.toNat).toNat = n) (hm : st.member = true) (h0 : n ≠ 0) (h64 : ¬ 64 < n)
    (hf : (s.core s.cur.1).freeRun n = some first) :
    ballocEffect d a st (s.before (ballocUse d a) endsForm st) = .ok (s.rewrote (ballocUse d a) endsForm st
      (fun k => { k with
        buffers := k.buffers ++ [(s.core s.cur.1).newBuffer s.cur.1 first n st]
        allocSer := nextSerial (s.core s.cur.1).allocSer })
      (st.given d ((((s.core s.cur.1).newBuffer s.cur.1 first n st).handle s.cur.1).setWidth 64)), .seq) := by
  simp only [ballocEffect, hn, hm, Bool.not_true, Bool.false_eq_true, if_false, h0, h64, State.before_cur, before_freeRun, hf,
    before_newBuffer, before_allocSer]
  rw [State.modHere_modCore_before, ready_ballocUse]
  exact fun _ => rfl

theorem ballocEffect_portion (hn : (st.gr a.toNat).toNat = 0) (hm : st.member = true) :
    ballocEffect d a st (s.before (ballocUse d a) endsForm st) = .ok ((s.before (ballocUse d a) endsForm st).setHere
      (st.given d ((s.core s.cur.1).portionHandle s.cur.1 st)), .seq) := by
  simp only [ballocEffect, hn, hm, Bool.not_true, Bool.false_eq_true, if_false, if_true, State.before_cur, before_portionHandle]
  rw [State.modHere_before, ready_ballocUse]

theorem ballocEffect_refuses {n : Nat} (hn : (st.gr a.toNat).toNat = n)
    (h : st.member = false ∨ 64 < n ∨ 1 ≤ n ∧ (s.core s.cur.1).freeRun n = none) :
    ballocEffect d a st (s.before (ballocUse d a) endsForm st) = .ok (s.rewrote (ballocUse d a) endsForm st
      (fun k => k.count 0x2001) (st.given d 0#64), .seq) := by
  have hcount : ((s.before (ballocUse d a) endsForm st).count s.cur.1 0x2001).modHere (fun x => x.setG d.toNat 0#64) =
      s.rewrote (ballocUse d a) endsForm st (fun k => k.count 0x2001) (st.given d 0#64) := by
    rw [State.count, State.modHere_modCore_before, ready_ballocUse]
    exact fun _ => rfl
  simp only [ballocEffect, hn, State.before_cur, hcount, before_freeRun]
  by_cases hm : st.member = true
  · have h0 : n ≠ 0 := by
      rcases h with h | h | h
      · rw [hm] at h
        exact Bool.noConfusion h
      · omega
      · omega
    rw [hm, if_neg (by decide), if_neg h0]
    by_cases h64 : 64 < n
    · rw [if_pos h64]
    · rw [if_neg h64]
      rcases h with h | h | h
      · rw [hm] at h
        exact Bool.noConfusion h
      · exact absurd h h64
      · rw [h.2]
  · rw [if_pos (by simpa using hm)]

end

end

end

/-! ### The buffer of a handle changed -/

theorem Buffer.handle_congr {b c : Buffer} (hfirst : c.first = b.first) (hcount : c.count = b.count) (hser : c.serial = b.serial)
    (k : Nat) : c.handle k = b.handle k := by
  rw [Buffer.handle, Buffer.handle, hfirst, hcount, hser]

/-- A list of which some entries are replaced by one that p holds of, among them the first of which p held. -/
theorem find?_map_replaced {α : Type} {p : α → Bool} {q : α → Prop} [DecidablePred q] {b c : α} (hc : p c = true) (hq : q b) :
    ∀ l : List α, l.find? p = some b → (l.map fun y => if q y then c else y).find? p = some c
  | [], h => by simp at h
  | y :: l, h => by
    rw [List.map_cons, List.find?_cons]
    by_cases hy : q y
    · rw [if_pos hy, hc]
    · rw [if_neg hy]
      rw [List.find?_cons] at h
      cases hp : p y with
      | true =>
        rw [hp] at h
        rw [Option.some.inj h] at hy
        exact absurd hq hy
      | false =>
        rw [hp] at h
        exact find?_map_replaced hc hq l h

/-- After a buffer is replaced by one of its serial and first granule, its handle finds the new one. -/
theorem CoreSt.find_setBuffer (k : CoreSt) {home : Nat} {b c : Buffer} {h : Word}
    (hb : k.buffers.find? (fun y => y.handle home == h) = some b) (hfirst : c.first = b.first) (hcount : c.count = b.count)
    (hser : c.serial = b.serial) : (k.setBuffer c).buffers.find? (fun y => y.handle home == h) = some c := by
  have hbh : (b.handle home == h) = true := List.find?_some (p := fun y : Buffer => y.handle home == h) hb
  have hch : (c.handle home == h) = true := by rw [Buffer.handle_congr hfirst hcount hser, hbh]
  exact find?_map_replaced (p := fun y : Buffer => y.handle home == h) hch ⟨hser.symm, hfirst.symm⟩ k.buffers hb

theorem State.modBuffer_eq {t : State} {c : Nat} {h : Word} {b : Buffer} (hb : t.buffer? c h = some b) (f : Buffer → Buffer) :
    t.modBuffer c h f = t.modCore (handleHome c h) fun k => k.setBuffer (f b) := by
  simp only [State.modBuffer, hb]

theorem State.buffer?_modBuffer {t : State} {c : Nat} {h : Word} {b : Buffer} (hb : t.buffer? c h = some b) (f : Buffer → Buffer)
    (hfirst : (f b).first = b.first) (hcount : (f b).count = b.count) (hser : (f b).serial = b.serial) :
    (t.modBuffer c h f).buffer? c h = some (f b) := by
  rw [State.modBuffer_eq hb, State.buffer?, State.core_modCore]
  exact CoreSt.find_setBuffer _ hb hfirst hcount hser

theorem State.modBuffer_keep {β : Type} (p : State → β) (hp : ∀ (t : State) c k, p (t.modCore c k) = p t) (t : State) (c : Nat)
    (h : Word) (f : Buffer → Buffer) : p (t.modBuffer c h f) = p t := by
  unfold State.modBuffer
  split
  · exact hp _ _ _
  · rfl

theorem State.modBuffer_core {β : Type} (p : CoreSt → β) (hp : ∀ (k : CoreSt) y, p { k with buffers := y } = p k) (t : State)
    (c : Nat) (h : Word) (f : Buffer → Buffer) (j : Nat) : p ((t.modBuffer c h f).core j) = p (t.core j) := by
  unfold State.modBuffer
  split
  next b _ =>
    by_cases hj : handleHome c h = j
    · subst hj
      rw [State.core_modCore]
      exact hp _ _
    · rw [State.core_modCore_other _ _ hj]
  next => rfl

theorem State.buffer?_congr {s t : State} (h : ∀ k, (t.core k).buffers = (s.core k).buffers) (c : Nat) (x : Word) :
    t.buffer? c x = s.buffer? c x := by
  rw [State.buffer?, State.buffer?, h]

theorem State.here?_modBuffer (t : State) (c : Nat) (h : Word) (f : Buffer → Buffer) : (t.modBuffer c h f).here? = t.here? := by
  rw [State.here?, State.here?, State.strand?, State.strand?, State.modBuffer_keep State.cur (fun _ _ _ => rfl),
    State.modBuffer_core CoreSt.slots fun _ _ => rfl]

section
variable {s : State} {st x : Strand} {u : Use} {f : Form} {g : CoreSt → CoreSt}

/-- What a word leaves of any core, but for strands and bindings. -/
theorem State.before_anyCore {β : Type} (p : CoreSt → β) (hf : ∀ (k : CoreSt) y, p { k with futures := y } = p k)
    (hs : ∀ (k : CoreSt) y, p { k with slots := y } = p k) (k : Nat) : p ((s.before u f st).core k) = p (s.core k) := by
  by_cases hk : k = s.cur.1
  · rw [hk]
    exact State.before_core p hf hs s u f st
  · rw [State.before_core_other _ _ _ _ hk]

theorem State.buffer?_before (c : Nat) (h : Word) : (s.before u f st).buffer? c h = s.buffer? c h :=
  State.buffer?_congr (State.before_anyCore CoreSt.buffers (fun _ _ => rfl) fun _ _ => rfl) c h

theorem State.buffer?_retired (t : State) (y : Strand) (fl : Flow) (c : Nat) (h : Word) :
    ((t.setHere y).retireWord fl).buffer? c h = t.buffer? c h :=
  State.buffer?_congr (fun k => (State.retireWord_core CoreSt.buffers (fun _ _ => rfl) _ _ _).trans
    (State.setHere_core CoreSt.buffers (fun _ _ => rfl) _ _ _)) c h

/-! ### BGIVE, BFREE and PUBL at issue -/

theorem execBfree_waits {a : BitVec 6} (r : Ready (.bfree a) { gRead := [a.toNat] } endsForm st s)
    (hb : s.heldBuffer s.cur.1 st (lo32 (st.gr a.toNat)) ≠ none) : execBfree a s = .next (s.goesOn { gRead := [a.toNat] } st
      { st with region := none, wait := .bfree (lo32 (st.gr a.toNat)) }) := by
  have hf : firstFault [if (s.heldBuffer s.cur.1 st (lo32 (st.gr a.toNat))).isNone then faultIn st.active .ownership else []] = [] := by
    rw [if_neg (by simpa using hb)]
    rfl
  refine issue_ready_goesOn r hf ?_
  rw [State.modHere_before, Strand.ready_endsRegion rfl rfl]

theorem execBfree_traps {a : BitVec 6} (hact : st.active ≠ 0#64) (r : Ready (.bfree a) { gRead := [a.toNat] } endsForm st s)
    (hb : s.heldBuffer s.cur.1 st (lo32 (st.gr a.toNat)) = none) :
    execBfree a s = .next (s.trapWord st (faultIn st.active .ownership)) :=
  issue_traps_faultIn r hact (by rw [hb]; exact firstFault_single _)

/-- BGIVE waits for its transfer; where the queue of its target is full that is counted. -/
def State.givesTo (s : State) (u : Use) (st : Strand) (h : Word) (t : Nat) : State :=
  let full := decide ((s.core t).handOver.length = 64)
  let x : Strand := { st with region := none, wait := .bgive h t full }
  if full then s.rewrote u endsForm st (fun k => k.count 0x2003) x else (s.before u endsForm st).setHere x

theorem execBgive_waits {d row col : BitVec 6} {b : Buffer} (r : Ready (.bgive d row col) { gRead := [d.toNat] } endsForm st s)
    (hb : s.heldBuffer s.cur.1 st (lo32 (st.gr d.toNat)) = some b) (hpubl : b.publ = none)
    (hcl : coreAt row.toNat col.toNat / 8 = s.cur.1 / 8)
    (hhas : s.holdsStrand (coreAt row.toNat col.toNat) st.launch st.block = true) : execBgive d row col s =
      .next ((s.givesTo { gRead := [d.toNat] } st (lo32 (st.gr d.toNat)) (coreAt row.toNat col.toNat)).retireWord .seq) := by
  unfold execBgive
  rw [issue_ready r (by simp [hb, hpubl, hcl, hhas, firstFault_single])]
  have hlen : ((s.before { gRead := [d.toNat] } endsForm st).core (coreAt row.toNat col.toNat)).handOver =
      (s.core (coreAt row.toNat col.toNat)).handOver :=
    State.before_anyCore CoreSt.handOver (fun _ _ => rfl) (fun _ _ => rfl) _
  simp only [hlen, State.givesTo, State.before_cur]
  by_cases hfull : (s.core (coreAt row.toNat col.toNat)).handOver.length = 64
  · simp only [hfull, decide_true, if_true]
    rw [State.count, State.modHere_modCore_before, Strand.ready_endsRegion rfl rfl]
    exact fun _ => rfl
  · simp only [hfull, decide_false, Bool.false_eq_true, if_false]
    rw [State.modHere_before, Strand.ready_endsRegion rfl rfl]

theorem State.givesTo_keep {β : Type} (p : State → β) (hp : ∀ (t : State) c k, p (t.modCore c k) = p t) (h : Word) (t : Nat) :
    p (s.givesTo u st h t) = p s := by
  unfold State.givesTo
  dsimp only
  split
  · exact State.rewrote_keep p hp
  · rw [State.setHere, State.setStrand, hp, State.before_keep p hp]

theorem State.givesTo_here (h : Word) (t : Nat) : ((s.givesTo u st h t).retireWord .seq).here? = some (Strand.retire
    { st with region := none, wait := .bgive h t (decide ((s.core t).handOver.length = 64)) } .seq) := by
  refine State.retireWord_here ?_ _
  unfold State.givesTo
  dsimp only
  split
  · exact State.here?_setHere _ _
  · exact State.here?_setHere _ _

theorem State.givesTo_counter (h : Word) (t : Nat) : (((s.givesTo u st h t).retireWord .seq).core s.cur.1).counter 0x2003 =
    (s.core s.cur.1).counter 0x2003 + (if decide ((s.core t).handOver.length = 64) then 1#64 else 0#64) := by
  unfold State.givesTo
  dsimp only
  split
  · exact State.rewrote_counted _ _
  · rw [BitVec.add_zero, State.retireWord_core (fun k => k.counter 0x2003) fun _ _ => rfl,
      State.setHere_core (fun k => k.counter 0x2003) fun _ _ => rfl]
    exact State.before_core (fun k => k.counter 0x2003) (fun _ _ => rfl) (fun _ _ => rfl) s _ _ _

theorem execBgive_traps {d row col : BitVec 6} (hact : st.active ≠ 0#64)
    (r : Ready (.bgive d row col) { gRead := [d.toNat] } endsForm st s)
    (hb : ∀ b, s.heldBuffer s.cur.1 st (lo32 (st.gr d.toNat)) = some b → b.publ ≠ none ∨
      coreAt row.toNat col.toNat / 8 ≠ s.cur.1 / 8 ∨ s.holdsStrand (coreAt row.toNat col.toNat) st.launch st.block = false) :
    execBgive d row col s = .next (s.trapWord st (faultIn st.active .ownership)) := by
  unfold execBgive
  refine issue_traps_faultIn r hact ?_
  cases hheld : s.heldBuffer s.cur.1 st (lo32 (st.gr d.toNat)) with
  | none =>
    simp only [hheld]
    exact firstFault_single _
  | some b =>
    have hbad : (b.publ.isSome || coreAt row.toNat col.toNat / 8 != s.cur.1 / 8 ||
        !s.holdsStrand (coreAt row.toNat col.toNat) st.launch st.block) = true := by
      rcases hb b hheld with h | h | h
      · simp [Option.isSome_iff_ne_none.mpr h]
      · simp [h]
      · simp [h]
    simp only [hheld, hbad]
    exact firstFault_single _

/-- The form of PUBL under a mode. -/
abbrev publForm (m : Word) : Form := { types := modeScope m != .row, ends := true }

/-- The checks of PUBL. -/
def publChecks (a : BitVec 6) (st : Strand) (s : State) : List (List LaneFault) :=
  let g := st.gr a.toNat
  let act := slice g 33 32
  let bad (k : Cause) (x : Bool) : List LaneFault := if x then faultIn st.active k else []
  match s.heldBuffer s.cur.1 st (lo32 g) with
  | none => [bad .illegalInstruction (slice g 63 34 != 0 || act == 3), bad .ownership true]
  | some b =>
    [bad .illegalInstruction (slice g 63 34 != 0 || act == 3),
     bad .ownership (if act = 1 then b.publ.isSome || b.count % 2 != 0 || decide (8 ≤ s.published s.cur.1)
       else b.publ.isNone)]

/-- What PUBL does once it is ready. -/
def publEffect (a : BitVec 6) : Effect := fun st s =>
  if slice (st.gr a.toNat) 33 32 = 1 then
    .ok (s.modBuffer s.cur.1 (lo32 (st.gr a.toNat)) fun b => { b with publ := some ⟨true⟩ }, .seq)
  else .ok (s.modHere fun x => { x with wait := .publ (lo32 (st.gr a.toNat)) (slice (st.gr a.toNat) 33 32) }, .seq)

theorem execPubl_here (a : BitVec 6) (h : s.here? = some st) : execPubl a s =
    issue (.publ a) { gRead := [a.toNat] } (publForm st.group.mode) (publChecks a) (publEffect a) id s := by
  have htypes : (match modeScope st.group.mode with
      | .row => false
      | _ => true) = (modeScope st.group.mode != .row) := by
    cases modeScope st.group.mode <;> rfl
  unfold execPubl
  rw [State.modeWord_here h]
  exact congrArg (fun b => issue (.publ a) { gRead := [a.toNat] } { types := b, ends := true } (publChecks a) (publEffect a) id s)
    htypes

theorem publChecks_pass {a : BitVec 6} {b : Buffer} (hb : s.heldBuffer s.cur.1 st (lo32 (st.gr a.toNat)) = some b)
    (hz : slice (st.gr a.toNat) 63 34 = 0) (h3 : slice (st.gr a.toNat) 33 32 ≠ 3)
    (hown : (if slice (st.gr a.toNat) 33 32 = 1 then b.publ.isSome || b.count % 2 != 0 || decide (8 ≤ s.published s.cur.1)
      else b.publ.isNone) = false) : firstFault (publChecks a st s) = [] := by
  have hill : (slice (st.gr a.toNat) 63 34 != 0 || slice (st.gr a.toNat) 33 32 == 3) = false := by
    simp [hz, h3]
  unfold publChecks
  simp only [hb, hill, hown]
  rfl

theorem execPubl_declares {a : BitVec 6} {b : Buffer} (r : Ready (.publ a) { gRead := [a.toNat] } (publForm st.group.mode) st s)
    (hb : s.heldBuffer s.cur.1 st (lo32 (st.gr a.toNat)) = some b) (hz : slice (st.gr a.toNat) 63 34 = 0)
    (hact : slice (st.gr a.toNat) 33 32 = 1) (hpubl : b.publ = none) (heven : b.count % 2 = 0) (hroom : s.published s.cur.1 < 8) :
    execPubl a s = .next (((s.before { gRead := [a.toNat] } (publForm st.group.mode) st).modBuffer s.cur.1
      (lo32 (st.gr a.toNat)) fun b => { b with publ := some ⟨true⟩ }).retireWord .seq) := by
  have hown : (if slice (st.gr a.toNat) 33 32 = 1 then b.publ.isSome || b.count % 2 != 0 || decide (8 ≤ s.published s.cur.1)
      else b.publ.isNone) = false := by
    simp [hact, hpubl, heven, hroom]
  rw [execPubl_here a r.here, issue_ready r (publChecks_pass hb hz (by omega) hown), publEffect, if_pos hact, State.before_cur]

theorem execPubl_waits {a : BitVec 6} {b : Buffer} (r : Ready (.publ a) { gRead := [a.toNat] } (publForm st.group.mode) st s)
    (hb : s.heldBuffer s.cur.1 st (lo32 (st.gr a.toNat)) = some b) (hz : slice (st.gr a.toNat) 63 34 = 0)
    (hact : slice (st.gr a.toNat) 33 32 = 0 ∨ slice (st.gr a.toNat) 33 32 = 2) (hpubl : b.publ ≠ none) :
    execPubl a s = .next (s.goesOn { gRead := [a.toNat] } st
      { st with region := none, wait := .publ (lo32 (st.gr a.toNat)) (slice (st.gr a.toNat) 33 32) }) := by
  have h1 : slice (st.gr a.toNat) 33 32 ≠ 1 := by omega
  have hown : (if slice (st.gr a.toNat) 33 32 = 1 then b.publ.isSome || b.count % 2 != 0 || decide (8 ≤ s.published s.cur.1)
      else b.publ.isNone) = false := by
    rw [if_neg h1]
    exact Option.isNone_eq_false_iff.mpr (Option.isSome_iff_ne_none.mpr hpubl)
  rw [execPubl_here a r.here]
  refine issue_ready_goesOn r (publChecks_pass hb hz (by omega) hown) ?_
  rw [publEffect, if_neg h1, State.modHere_before, Strand.ready_endsRegion rfl rfl]

theorem State.buffer?_of_held {c : Nat} {h : Word} {b : Buffer} (hb : s.heldBuffer c st h = some b) : s.buffer? c h = some b := by
  unfold State.heldBuffer at hb
  split at hb
  next y hy =>
    split at hb
    next => rw [hy, Option.some.inj hb]
    next => simp at hb
  next => simp at hb

/-! ### BTAKE -/

/-- What BTAKE has written. -/
abbrev btakeUse (d : BitVec 6) : Use := { gDest := [d.toNat] }

/-- Whether an entry of a hand-over queue is for the block of a member. -/
def HandOver.isFor (h : HandOver) (st : Strand) : Bool := st.member && h.launch == st.launch && h.block == st.block

theorem execBtake_none {d : BitVec 6} (r : Ready (.btake d) (btakeUse d) endsForm st s)
    (hnone : ∀ y ∈ (s.core s.cur.1).handOver, y.isFor st = false) :
    execBtake d s = .next (s.goesOn (btakeUse d) st (st.given d 0#64)) := by
  have hidx : (s.core s.cur.1).handOver.findIdx? (fun h => h.isFor st) = none := List.findIdx?_eq_none_iff.mpr hnone
  have hq : ((s.before (btakeUse d) endsForm st).core s.cur.1).handOver = (s.core s.cur.1).handOver :=
    State.before_core CoreSt.handOver (fun _ _ => rfl) (fun _ _ => rfl) s _ _ _
  refine issue_ready_goesOn r (firstFault_noChecks _ _) ?_
  simp only [State.before_cur, hq]
  simp only [HandOver.isFor] at hidx
  rw [hidx]
  dsimp only
  rw [State.modHere_before, Strand.ready_endsRegion rfl rfl]

theorem findIdx?_append_first {α : Type} {p : α → Bool} {older rest : List α} {h : α} (hold : ∀ y ∈ older, p y = false) (hh : p h = true) :
    (older ++ h :: rest).findIdx? p = some older.length := by
  rw [List.findIdx?_append, List.findIdx?_eq_none_iff.mpr hold, List.findIdx?_cons, hh]
  simp

theorem execBtake_takes {d : BitVec 6} (r : Ready (.btake d) (btakeUse d) endsForm st s) {older rest : List HandOver} {h : HandOver}
    (hq : (s.core s.cur.1).handOver = older ++ h :: rest) (hold : ∀ y ∈ older, y.isFor st = false) (hh : h.isFor st = true) :
    execBtake d s = .next (((((s.before (btakeUse d) endsForm st).modCore s.cur.1 fun k =>
      { k with handOver := k.handOver.eraseIdx older.length }).modBuffer s.cur.1 h.handle fun b =>
        { b with holder := some s.cur.1 }).setHere (st.given d (h.handle.setWidth 64))).retireWord .seq) := by
  have hidx : (older ++ h :: rest).findIdx? (fun y => y.isFor st) = some older.length := findIdx?_append_first hold hh
  have hq' : ((s.before (btakeUse d) endsForm st).core s.cur.1).handOver = older ++ h :: rest :=
    (State.before_core CoreSt.handOver (fun _ _ => rfl) (fun _ _ => rfl) s _ _ _).trans hq
  have hget : (older ++ h :: rest).getD older.length ⟨0#32, 0, 0#64⟩ = h := by simp
  unfold execBtake
  rw [issue_ready r (firstFault_noChecks _ _)]
  simp only [State.before_cur, hq']
  simp only [HandOver.isFor] at hidx
  rw [hidx]
  dsimp only
  rw [hget]
  have hhere : (((s.before (btakeUse d) endsForm st).modCore s.cur.1 fun k =>
      { k with handOver := k.handOver.eraseIdx older.length }).modBuffer s.cur.1 h.handle fun b =>
        { b with holder := some s.cur.1 }).here? = some (st.ready (btakeUse d) endsForm) :=
    (State.here?_modBuffer _ _ _ _).trans ((State.here?_modCore _ _ (f := fun k =>
      { k with handOver := k.handOver.eraseIdx older.length }) fun _ => rfl).trans (State.before_here _ _ _ _))
  rw [State.modHere_eq hhere, Strand.ready_endsRegion rfl rfl]

end

end Sys2Proof.Machine

section
open Sys2Proof Sys2Proof.Machine

/-- Settles O46, word by word: the buffer lists are read through `State.buffer?_modBuffer`. -/
theorem bufferWords : Obligations.BufferWords := by
  unfold Obligations.BufferWords
  refine ⟨fun s st d a hact r => ⟨fun first hm h1 h64 hrun => ?gives, fun hm h0 => ?portion, fun h => ?refuses⟩, fun s st hact =>
    ⟨fun d row col b r hb hpubl hcl hhas => ?bgive, fun d row col r hb => execBgive_traps hact r hb,
      fun a r => ⟨fun hb => execBfree_waits r hb, fun hb => execBfree_traps hact r hb⟩,
      fun a b r hb hz => ⟨fun h1 hpubl heven hroom => ?declares, fun h hpubl => execPubl_waits r hb hz h hpubl⟩,
      fun d r => ⟨fun older h rest b hq hold hm hl hblk hb => ?takes, fun hnone => execBtake_none r fun y hy => ?none⟩⟩⟩
  case gives =>
    have hexec := (execBalloc_here (s := s) d a).trans (issue_ready r (firstFault_noChecks _ _))
    rw [ballocEffect_gives rfl hm (by omega) (by omega) hrun] at hexec
    refine ⟨_, (s.core s.cur.1).newBuffer s.cur.1 first (st.gr a.toNat).toNat st, hexec, ?_⟩
    exact ⟨State.rewrote_retired_core CoreSt.buffers (fun k => k.buffers ++ [(s.core s.cur.1).newBuffer s.cur.1 first _ st])
        (fun _ _ => rfl) (fun _ => rfl) (fun _ _ => rfl) (fun _ _ => rfl) _, rfl, rfl, rfl, rfl, rfl, rfl,
        State.rewrote_here _, State.rewrote_sameOutside _⟩
  case portion =>
    refine (execBalloc_here d a).trans (issue_ready_goesOn r (firstFault_noChecks _ _) ?_)
    exact ballocEffect_portion h0 hm
  case refuses =>
    have hexec := (execBalloc_here (s := s) d a).trans (issue_ready r (firstFault_noChecks _ _))
    rw [ballocEffect_refuses rfl h] at hexec
    exact ⟨_, hexec, State.rewrote_counting _ _ _⟩
  case bgive =>
    refine ⟨_, _, execBgive_waits r hb hpubl hcl hhas, ?_, rfl, State.givesTo_here _ _, State.givesTo_counter _ _⟩
    rw [State.retireWord_mem, State.givesTo_keep State.mem fun _ _ _ => rfl]
  case declares =>
    have hbefore : (s.before { gRead := [a.toNat] } (publForm st.group.mode) st).buffer? s.cur.1 (lo32 (st.gr a.toNat)) = some b :=
      (State.buffer?_before _ _).trans (State.buffer?_of_held hb)
    refine ⟨_, execPubl_declares r hb hz h1 hpubl heven hroom, ?_, ?_⟩
    · refine (State.retireWord_here ((State.here?_modBuffer _ _ _ _).trans (State.before_here _ _ _ _)) _).trans ?_
      rw [Strand.ready_endsRegion rfl rfl]
    · refine (State.buffer?_congr (fun k => State.retireWord_core CoreSt.buffers (fun _ _ => rfl) _ _ k) _ _).trans ?_
      exact State.buffer?_modBuffer hbefore _ rfl rfl rfl
  case takes =>
    have hold' : ∀ y ∈ older, y.isFor st = false := fun y hy => by
      have hne := hold y hy
      rw [← Bool.not_eq_true, HandOver.isFor, hm]
      simpa using hne
    have hfor : h.isFor st = true := by simp [HandOver.isFor, hm, hl, hblk]
    refine ⟨_, execBtake_takes r hq hold' hfor, State.retireWord_here (State.here?_setHere _ _) _, ?_, ?_⟩
    · rw [State.retireWord_core CoreSt.handOver fun _ _ => rfl, State.setHere_core CoreSt.handOver fun _ _ => rfl,
        State.modBuffer_core CoreSt.handOver fun _ _ => rfl, State.core_modCore]
      dsimp only
      rw [State.before_core CoreSt.handOver (fun _ _ => rfl) (fun _ _ => rfl), hq, List.eraseIdx_append_of_length_le (le_refl _),
        Nat.sub_self, List.eraseIdx_cons_zero]
    · rw [State.buffer?_retired]
      refine State.buffer?_modBuffer (b := b) ?_ _ rfl rfl rfl
      refine (State.buffer?_congr (s := s.before (btakeUse d) endsForm st) (fun k => ?_) _ _).trans
        ((State.buffer?_before _ _).trans hb)
      by_cases hk : s.cur.1 = k
      · rw [← hk, State.core_modCore]
      · rw [State.core_modCore_other _ _ hk]
  case none =>
    have hne := hnone y hy
    rw [← Bool.not_eq_true, HandOver.isFor]
    simpa [and_assoc] using hne

end

end

section
/-! SUPPORT. Copies: CPY, CPYS and CPYO, their batches, and the completion of a copy (R206-R214). -/

namespace Sys2Proof.Machine

/-! ### The end of a block -/

/-- The release of matrix parts changes the matrix state of its core at most. -/
theorem State.releaseMatrix_eq (s : State) (c launch : Nat) (index : DWord) : s.releaseMatrix c launch index = s ∨
    ∃ m, s.releaseMatrix c launch index = s.modCore c fun k => { k with matrix := m } := by
  unfold State.releaseMatrix
  dsimp only
  split
  · exact .inl rfl
  · exact .inr ⟨_, rfl⟩

theorem State.releaseMatrix_core {β : Type} (p : CoreSt → β) (hm : ∀ (k : CoreSt) y, p { k with matrix := y } = p k) (s : State)
    (c launch : Nat) (index : DWord) (j : Nat) : p ((s.releaseMatrix c launch index).core j) = p (s.core j) := by
  rcases s.releaseMatrix_eq c launch index with h | ⟨m, h⟩
  · rw [h]
  · rw [h]
    by_cases hj : c = j
    · subst hj
      rw [State.core_modCore]
      exact hm _ _
    · rw [State.core_modCore_other _ _ hj]

/-- A part of a core that no buffer, hand-over entry, granule being cleared or matrix part belongs to. -/
structure CoreSt.OffBlocks {β : Type} (p : CoreSt → β) : Prop where
  buffers : ∀ (k : CoreSt) x y, p { k with buffers := x, clearing := y } = p k
  queue   : ∀ (k : CoreSt) x, p { k with handOver := x } = p k
  matrix  : ∀ (k : CoreSt) x, p { k with matrix := x } = p k

theorem State.freeBlockOn_core {β : Type} {p : CoreSt → β} (hp : CoreSt.OffBlocks p) (s : State) (launch : Nat) (index : DWord)
    (c j : Nat) : p ((s.freeBlockOn launch index c).core j) = p (s.core j) := by
  unfold State.freeBlockOn
  rw [State.releaseMatrix_core p hp.matrix]
  by_cases hj : c = j
  · subst hj
    rw [State.core_modCore]
    exact (hp.queue _ _).trans (foldl_keep p _ (fun k b => hp.buffers k _ _) _ _)
  · rw [State.core_modCore_other _ _ hj]

theorem State.endBlockIfDone_core {β : Type} {p : CoreSt → β} (hp : CoreSt.OffBlocks p) (s : State) (launch : Nat) (index : DWord)
    (j : Nat) : p ((s.endBlockIfDone launch index).core j) = p (s.core j) := by
  unfold State.endBlockIfDone
  split
  · rfl
  · dsimp only
    split
    · rfl
    · exact foldl_keep (fun t : State => p (t.core j)) _ (fun t i => State.freeBlockOn_core hp t _ _ _ _) _ _

theorem State.releaseMatrix_mem (s : State) (c launch : Nat) (index : DWord) : (s.releaseMatrix c launch index).mem = s.mem := by
  rcases s.releaseMatrix_eq c launch index with h | ⟨m, h⟩
  · rw [h]
  · rw [h]
    rfl

theorem State.freeBlockOn_mem (s : State) (launch : Nat) (index : DWord) (c : Nat) : (s.freeBlockOn launch index c).mem = s.mem := by
  unfold State.freeBlockOn
  rw [State.releaseMatrix_mem]
  exact State.modCore_mem _ _ _

theorem State.endBlockIfDone_mem (s : State) (launch : Nat) (index : DWord) : (s.endBlockIfDone launch index).mem = s.mem := by
  unfold State.endBlockIfDone
  split
  · rfl
  · dsimp only
    split
    · rfl
    · exact foldl_keep State.mem _ (fun t i => State.freeBlockOn_mem _ _ _ _) _ _

/-! ### The completion of a copy -/

section
variable {s s1 : State} {c n : Nat} {q : CopyOp} {x : CopyTally}

/-- A copy out of the queue and counted, its fault with its strand, before the exits that waited for it are told. -/
def State.copyDone (s : State) (c n : Nat) (q : CopyOp) (x : CopyTally) : State :=
  let t := (s.modCore c fun k => { k with copies := k.copies.eraseIdx n }).count c 0x2005 x.moved
  match x.fault with
  | some f => t.copyFault c q f
  | none => t

theorem execCopyComplete_eq (hq : (s.core c).copies[n]? = some q) (hmove : s.moveCopy c q = (s1, x)) :
    execCopyComplete c n s = .next ((s1.copyDone c n q x).reportExits.endBlockIfDone q.launch q.block) := by
  unfold execCopyComplete
  rw [hq]
  dsimp only
  rw [hmove]
  rfl

theorem copyDone_end_core {β : Type} {p : CoreSt → β} (hp : CoreSt.OffBlocks p) (t : State) (launch : Nat) (block : DWord)
    (j : Nat) : p ((t.reportExits.endBlockIfDone launch block).core j) = p (t.core j) :=
  (State.endBlockIfDone_core hp _ _ _ _).trans (State.reportExits_keep (fun u => p (u.core j)) (fun _ _ => rfl) _)

theorem copyDone_end_mem (t : State) (launch : Nat) (block : DWord) : (t.reportExits.endBlockIfDone launch block).mem = t.mem :=
  (State.endBlockIfDone_mem _ _ _).trans (State.reportExits_keep State.mem (fun _ _ => rfl) _)

/-- A copy that is done changes copies, counters and operations of its core. -/
theorem State.copyDone_core {β : Type} (p : CoreSt → β)
    (hp : ∀ (k : CoreSt) cs os ns, p { k with copies := cs, ops := os, counters := ns } = p k) (s : State) (j : Nat) :
    p ((s.copyDone c n q x).core j) = p (s.core j) := by
  have hmod (t : State) (f : CoreSt → CoreSt) (hf : ∀ k, p (f k) = p k) : p ((t.modCore c f).core j) = p (t.core j) := by
    by_cases hj : c = j
    · subst hj
      rw [State.core_modCore, hf]
    · rw [State.core_modCore_other _ _ hj]
  have htally : p (((s.modCore c fun k => { k with copies := k.copies.eraseIdx n }).count c 0x2005 x.moved).core j) = p (s.core j) :=
    (hmod _ _ fun k => hp k k.copies k.ops _).trans (hmod _ _ fun k => hp k _ k.ops k.counters)
  unfold State.copyDone
  dsimp only
  split
  · unfold State.copyFault
    dsimp only
    split
    · exact (hmod _ _ fun k => hp k k.copies _ k.counters).trans htally
    · exact htally
  · exact htally

theorem State.copyDone_mem (s : State) : (s.copyDone c n q x).mem = s.mem := by
  unfold State.copyDone State.copyFault
  dsimp only
  repeat' split
  all_goals rfl

/-- The operation that a copy's fault joins. -/
def CopyOp.faultOp (q : CopyOp) (f : Fail) : Op :=
  { slot := q.slot, gen := q.gen, launch := q.launch, serial := q.serial, instr := q.instr, mode := 0#32,
    lanes := q.lanes, todo := 0#64, vals := [], gvals := [], flag := 15, uniform := false, flags := 0#5, clause := q.clause,
    idx := q.idx, domain := q.domain, keyid := q.keyid, priv := q.priv, results := [], gresult := none,
    faults := faultIn q.lanes f.1 f.2, remote := [] }

theorem State.copyFault_core (t : State) (f : Fail) : (t.copyFault c q f).core c =
    if (t.core c).gen q.slot = q.gen then { t.core c with ops := (t.core c).ops ++ [q.faultOp f] } else t.core c := by
  unfold State.copyFault
  dsimp only
  split
  · rw [State.core_modCore]
    rfl
  · rfl

/-- What the core of a copy that is done holds of copies, counters and operations. -/
theorem State.copyDone_here (s : State) : ((s.copyDone c n q x).core c).copies = (s.core c).copies.eraseIdx n ∧
    ((s.copyDone c n q x).core c).counter 0x2005 = (s.core c).counter 0x2005 + BitVec.ofNat 64 x.moved ∧
    ((s.copyDone c n q x).core c).ops = (s.core c).ops ++
      match x.fault with
      | some f => if (s.core c).gen q.slot = q.gen then [q.faultOp f] else []
      | none => [] := by
  have hcore : ((s.modCore c fun k => { k with copies := k.copies.eraseIdx n }).count c 0x2005 x.moved).core c =
      CoreSt.count { s.core c with copies := (s.core c).copies.eraseIdx n } 0x2005 x.moved := by
    rw [State.count, State.core_modCore, State.core_modCore]
  unfold State.copyDone
  cases x.fault with
  | none =>
    dsimp only
    rw [hcore]
    exact ⟨rfl, CoreSt.counter_count _ _ _, (List.append_nil _).symm⟩
  | some f =>
    dsimp only
    rw [State.copyFault_core, hcore]
    have hsame : CoreSt.gen (CoreSt.count { s.core c with copies := (s.core c).copies.eraseIdx n } 0x2005 x.moved) q.slot =
        (s.core c).gen q.slot := rfl
    rw [hsame]
    by_cases hgen : (s.core c).gen q.slot = q.gen
    · rw [if_pos hgen, if_pos hgen]
      exact ⟨rfl, CoreSt.counter_count _ _ _, rfl⟩
    · rw [if_neg hgen, if_neg hgen]
      exact ⟨rfl, CoreSt.counter_count _ _ _, (List.append_nil _).symm⟩

end

/-! ### Copies within scratch -/

theorem State.sameButScratch_poisonScratch (s : State) (k off n : Nat) : s.SameButScratch (s.poisonScratch k off n) :=
  State.sameButScratch_modCore s k fun _ => foldl_keep CoreSt.bare CoreSt.poisonSector (fun _ _ => rfl) _ _

theorem State.sameButScratch_readScratchAt (s : State) (k off n : Nat) : s.SameButScratch (s.readScratchAt k off n).1 := by
  unfold State.readScratchAt
  split
  · exact State.sameButScratch_consumeScratch _ _ _ _
  · exact .refl s

theorem sameButScratch_copyRead (k : Nat) : ∀ (fuel src dst len : Nat) (s : State),
    s.SameButScratch (copyRead k fuel src dst len s).1
  | 0, _, _, _, s => .refl s
  | fuel + 1, src, dst, len, s => by
    unfold copyRead
    split
    · exact .refl s
    · exact (s.sameButScratch_readScratchAt _ _ _).trans (sameButScratch_copyRead k fuel _ _ _ _)

theorem sameButScratch_copyWrite (k : Nat) : ∀ (rs : List (Nat × Nat × Except Fail (List Byte))) (x : CopyTally) (s : State),
    s.SameButScratch (copyWrite k rs x s).1
  | [], _, s => .refl s
  | (dst, n, .error f) :: rs, x, s =>
    (s.sameButScratch_poisonScratch k dst n).trans (sameButScratch_copyWrite k rs (x.failed f) _)
  | (dst, n, .ok bs) :: rs, x, s => by
    have hwrite : s.SameButScratch (s.writeScratchAt k dst bs).1 := (State.writesWithin_writeScratchFrom k _ dst bs s).1
    unfold copyWrite
    cases hs : s.writeScratchAt k dst bs with
    | mk t r =>
      rw [hs] at hwrite
      cases r with
      | some cause => exact hwrite.trans (sameButScratch_copyWrite k rs _ t)
      | none => exact hwrite.trans (sameButScratch_copyWrite k rs _ t)

/-- The bytes f hold of the n scratch bytes of core k from off on, every other byte of scratch is as it was, and a good
sector stays good. -/
structure State.Stored (s t : State) (k off n : Nat) (f : Nat → Byte) : Prop where
  bytes : ∀ c a, Assoc.get 0#8 (t.core c).scratch a =
    if c = k ∧ off ≤ a ∧ a < off + n then f (a - off) else Assoc.get 0#8 (s.core c).scratch a
  good  : ∀ c j, (s.core c).badSector j = none → (t.core c).badSector j = none

theorem State.Stored.nothing (s : State) (k off : Nat) (f : Nat → Byte) : s.Stored s k off 0 f :=
  ⟨fun c a => (if_neg (by omega)).symm, fun _ _ h => h⟩

theorem State.Stored.append {s t u : State} {k off n m : Nat} {f g h : Nat → Byte} (hf : s.Stored t k off n f)
    (hg : t.Stored u k (off + n) m g) (hleft : ∀ i, i < n → h i = f i) (hright : ∀ i, i < m → h (n + i) = g i) :
    s.Stored u k off (n + m) h := by
  refine ⟨fun c a => ?_, fun c j hj => hg.good c j (hf.good c j hj)⟩
  rw [hg.bytes, hf.bytes]
  by_cases hc : c = k
  · by_cases hlo : a < off
    · rw [if_neg (by omega), if_neg (by omega), if_neg (by omega)]
    · by_cases hmid : a < off + n
      · rw [if_neg (by omega), if_pos (by omega), if_pos (by omega), hleft _ (by omega)]
      · by_cases hhi : a < off + (n + m)
        · rw [if_pos (by omega), if_pos (by omega), ← hright _ (by omega)]
          congr 1
          omega
        · rw [if_neg (by omega), if_neg (by omega), if_neg (by omega)]
  · rw [if_neg (by omega), if_neg (by omega), if_neg (by omega)]

theorem CoreSt.badSector_eq_none {k : CoreSt} {j : Nat} :
    k.badSector j = none ↔ j ∉ k.scratchPoison ∧ Assoc.get 0#16 k.scratchErr j = 0#16 := by
  unfold CoreSt.badSector
  by_cases hp : j ∈ k.scratchPoison <;> by_cases he : Assoc.get 0#16 k.scratchErr j = 0#16 <;> simp [hp, he]

theorem CoreSt.badSector_cleanSector {k : CoreSt} {n j : Nat} (h : k.badSector j = none) : (k.cleanSector n).badSector j = none := by
  obtain ⟨hp, he⟩ := CoreSt.badSector_eq_none.mp h
  refine CoreSt.badSector_eq_none.mpr ⟨fun hmem => hp (List.mem_filter.mp hmem).1, ?_⟩
  change Assoc.get 0#16 (Assoc.erase k.scratchErr n) j = 0#16
  by_cases hj : n = j
  · rw [hj, Assoc.get_eq_find, Assoc.find_erase_same]
    rfl
  · rw [Assoc.get_eq_find, Assoc.find_erase_other _ hj, ← Assoc.get_eq_find, he]

theorem State.stored_pokeScratch (s : State) (k off : Nat) (bs : List Byte) :
    s.Stored (s.pokeScratch k off bs) k off bs.length fun i => bs.getD i 0#8 := by
  refine ⟨fun c a => ?_, fun c j hj => (State.badSector_pokeScratch s k off bs c j).trans hj⟩
  by_cases hc : k = c
  · subst hc
    rw [State.pokeScratch, State.core_modCore, Assoc.get_splice]
    simp only [true_and]
  · rw [State.pokeScratch, State.core_modCore_other _ _ hc, if_neg (fun h => hc h.1.symm)]

/-- A write to one good sector. -/
theorem State.writeScratchSector_good {s : State} {k off : Nat} {bs : List Byte} (hgood : (s.core k).badSector (off / 32) = none) :
    ∃ t, s.writeScratchSector k off bs = (t, none) ∧ s.Stored t k off bs.length fun i => bs.getD i 0#8 := by
  have hpoke := s.stored_pokeScratch k off bs
  unfold State.writeScratchSector
  rw [hgood]
  split
  · refine ⟨_, rfl, fun c a => ?_, fun c j hj => ?_⟩
    · rw [← hpoke.bytes]
      by_cases hc : k = c
      · subst hc
        rw [State.core_modCore]
        rfl
      · rw [State.core_modCore_other _ _ hc]
    · by_cases hc : k = c
      · subst hc
        rw [State.core_modCore]
        exact CoreSt.badSector_cleanSector (hpoke.good _ j hj)
      · rw [State.core_modCore_other _ _ hc]
        exact hpoke.good c j hj
  · exact ⟨_, rfl, hpoke⟩

/-- A write within one good sector. -/
theorem State.writeScratchAt_oneSector {s : State} {k off : Nat} {bs : List Byte} (hne : bs ≠ []) (hlen : bs.length ≤ 32 - off % 32)
    (hgood : (s.core k).badSector (off / 32) = none) :
    ∃ t, s.writeScratchAt k off bs = (t, none) ∧ s.Stored t k off bs.length fun i => bs.getD i 0#8 := by
  obtain ⟨t, ht, hstored⟩ := State.writeScratchSector_good (bs := bs) hgood
  refine ⟨t, ?_, hstored⟩
  have hempty : bs.isEmpty = false := List.isEmpty_eq_false_iff.mpr hne
  have htake : bs.take (32 - off % 32) = bs := List.take_of_length_le hlen
  have hdrop : bs.drop (32 - off % 32) = [] := List.drop_eq_nil_of_le hlen
  simp only [State.writeScratchAt, State.writeScratchFrom, hempty, htake, hdrop, ht]
  simp

/-- What CPYS reads from good sectors: for each sector of the destination its offset, its length and the source's bytes. -/
def copyChunks (scratch : List (Nat × Byte)) : Nat → Nat → Nat → Nat → List (Nat × Nat × Except Fail (List Byte))
  | 0, _, _, _ => []
  | fuel + 1, src, dst, len =>
    if len = 0 then []
    else (dst, min len (32 - dst % 32), .ok (Assoc.read 0#8 scratch src (min len (32 - dst % 32)))) ::
      copyChunks scratch fuel (src + min len (32 - dst % 32)) (dst + min len (32 - dst % 32)) (len - min len (32 - dst % 32))

theorem copyRead_good {s : State} {k : Nat} : ∀ (fuel src dst len : Nat),
    (∀ j ∈ sectorsOf src len, (s.core k).badSector j = none) →
    copyRead k fuel src dst len s = (s, copyChunks (s.core k).scratch fuel src dst len)
  | 0, _, _, _, _ => rfl
  | fuel + 1, src, dst, len, hgood => by
    unfold copyRead copyChunks
    by_cases hlen : len = 0
    · rw [if_pos hlen, if_pos hlen]
    · rw [if_neg hlen, if_neg hlen]
      have hn : 0 < min len (32 - dst % 32) := by omega
      have hread : s.readScratchAt k src (min len (32 - dst % 32)) =
          (s, .ok (s.scratchBytesAt k src (min len (32 - dst % 32)))) := by
        have hrange : (s.core k).badRange src (min len (32 - dst % 32)) = none :=
          CoreSt.badRange_eq_none.mpr fun j hj => hgood j (by rw [mem_sectorsOf] at hj ⊢; omega)
        rw [State.readScratchAt, hrange]
      have hrest := copyRead_good (s := s) (k := k) fuel (src + min len (32 - dst % 32)) (dst + min len (32 - dst % 32))
        (len - min len (32 - dst % 32)) fun j hj => hgood j (by rw [mem_sectorsOf] at hj ⊢; omega)
      dsimp only
      rw [hread]
      dsimp only
      rw [hrest]
      rfl

theorem Assoc.length_read (m : List (Nat × Byte)) (a n : Nat) : (Assoc.read 0#8 m a n).length = n := by
  rw [Assoc.read, List.length_map, List.length_range]

theorem Assoc.getD_read (m : List (Nat × Byte)) (a n i : Nat) (h : i < n) :
    (Assoc.read 0#8 m a n).getD i 0#8 = Assoc.get 0#8 m (a + i) := by
  simp [Assoc.read, List.getD_eq_getElem?_getD, h]

theorem copyWrite_good {k : Nat} (scratch : List (Nat × Byte)) : ∀ (fuel src dst len : Nat) (x : CopyTally) (s : State),
    len = 0 ∨ len + dst % 32 ≤ 32 * fuel → (∀ j ∈ sectorsOf dst len, (s.core k).badSector j = none) →
    ∃ t, copyWrite k (copyChunks scratch fuel src dst len) x s = (t, { x with moved := x.moved + len }) ∧
      s.Stored t k dst len fun i => Assoc.get 0#8 scratch (src + i)
  | 0, src, dst, len, x, s, hfuel, _ => by
    obtain rfl : len = 0 := by omega
    exact ⟨s, rfl, .nothing s k dst _⟩
  | fuel + 1, src, dst, len, x, s, hfuel, hgood => by
    unfold copyChunks
    by_cases hlen : len = 0
    · rw [if_pos hlen]
      subst hlen
      exact ⟨s, rfl, .nothing s k dst _⟩
    · rw [if_neg hlen]
      generalize hn : min len (32 - dst % 32) = n
      have hle : n ≤ len ∧ n ≤ 32 - dst % 32 ∧ 0 < n ∧ (n = len ∨ n = 32 - dst % 32) := by omega
      have hread := Assoc.length_read scratch src n
      obtain ⟨t, ht, hstored⟩ := State.writeScratchAt_oneSector (s := s) (k := k) (off := dst) (bs := Assoc.read 0#8 scratch src n)
        (by intro h; rw [h] at hread; simp only [List.length_nil] at hread; omega) (by omega)
        (hgood _ (by rw [mem_sectorsOf]; omega))
      obtain ⟨u, hu, hrest⟩ := copyWrite_good scratch fuel (src + n) (dst + n) (len - n) (x.wrote n none) t
        (by omega) fun j hj => hstored.good k j (hgood j (by rw [mem_sectorsOf] at hj ⊢; omega))
      refine ⟨u, ?_, ?_⟩
      · unfold copyWrite
        rw [ht]
        dsimp only
        rw [hu]
        simp only [CopyTally.wrote, Option.filter_none, Option.toList_none, List.append_nil]
        congr 2
        omega
      · rw [hread] at hstored
        have hall := State.Stored.append (h := fun i => Assoc.get 0#8 scratch (src + i)) hstored hrest
          (fun i hi => (Assoc.getD_read scratch src n i hi).symm) (fun i _ => by rw [Nat.add_assoc])
        rwa [Nat.add_sub_cancel' (by omega)] at hall

/-- A copy within scratch whose source and destination are good. -/
theorem State.moveCopy_within_good {s : State} {c : Nat} {q : CopyOp} (hkind : q.kind = .within)
    (hsrc : (s.core (s.scratchPlace c q.src.toNat).1).badRange (s.scratchPlace c q.src.toNat).2 q.len = none)
    (hdst : (s.core (s.scratchPlace c q.dst.toNat).1).badRange (s.scratchPlace c q.dst.toNat).2 q.len = none) :
    ∃ t, s.moveCopy c q = (t, ⟨none, q.len, []⟩) ∧ s.Stored t (s.scratchPlace c q.dst.toNat).1 (s.scratchPlace c q.dst.toNat).2 q.len
      fun i => Assoc.get 0#8 (s.core (s.scratchPlace c q.src.toNat).1).scratch ((s.scratchPlace c q.src.toNat).2 + i) := by
  obtain ⟨t, ht, hstored⟩ := copyWrite_good (k := (s.scratchPlace c q.dst.toNat).1)
    (s.core (s.scratchPlace c q.src.toNat).1).scratch (q.len / 32 + 2) (s.scratchPlace c q.src.toNat).2
    (s.scratchPlace c q.dst.toNat).2 q.len ⟨none, 0, []⟩ s (.inr (by omega)) (CoreSt.badRange_eq_none.mp hdst)
  refine ⟨t, ?_, hstored⟩
  unfold State.moveCopy
  rw [hkind]
  dsimp only
  rw [copyRead_good _ _ _ _ (CoreSt.badRange_eq_none.mp hsrc)]
  dsimp only
  rw [ht, Nat.zero_add]

theorem State.sameButScratch_moveCopy_within {s : State} {c : Nat} {q : CopyOp} (hkind : q.kind = .within) :
    s.SameButScratch (s.moveCopy c q).1 := by
  unfold State.moveCopy
  rw [hkind]
  have hread := sameButScratch_copyRead (s.scratchPlace c q.src.toNat).1 (q.len / 32 + 2) (s.scratchPlace c q.src.toNat).2
    (s.scratchPlace c q.dst.toNat).2 q.len s
  dsimp only
  generalize copyRead (s.scratchPlace c q.src.toNat).1 (q.len / 32 + 2) (s.scratchPlace c q.src.toNat).2
    (s.scratchPlace c q.dst.toNat).2 q.len s = y at hread ⊢
  exact hread.trans (sameButScratch_copyWrite _ _ _ _)

/-! ### Copies at issue -/

section
variable {s : State} {st : Strand} {d a b : BitVec 6} {i : Instr} {kind : CopyKind}

/-- The registers that a copy reads. -/
abbrev copyUse (d a b : BitVec 6) : Use := { gRead := [d.toNat, a.toNat, b.toNat] }

/-- The entry that a copy adds to the queue. -/
def copyEntry (i : Instr) (kind : CopyKind) (d a b : BitVec 6) (st : Strand) (sl : Nat) (gen : BitVec 8) : CopyOp :=
  { kind := kind, len := (st.gr d.toNat).toNat, src := st.gr a.toNat, dst := st.gr b.toNat, slot := sl, gen := gen,
    launch := st.launch, block := st.block, batch := st.group.batch, lanes := st.active, serial := st.issued, instr := i,
    clause := st.point.1, idx := st.point.2, domain := st.domain, keyid := st.keyid, priv := st.mode }

/-- The checks of a copy. -/
def copyChecks (kind : CopyKind) (d a b : BitVec 6) (st : Strand) (s : State) : List (List LaneFault) :=
  let len := (st.gr d.toNat).toNat
  let bad (k : Cause) (t : Bool) : List LaneFault := if t then faultIn st.active k else []
  let src := kind == .toScratch || s.copyRangeOk s.cur.1 st (st.gr a.toNat) len
  let dst := kind == .toMemory || s.copyRangeOk s.cur.1 st (st.gr b.toNat) len
  [bad .idempotence (kind != .toMemory && st.idemSpan s.cur.1 (st.gr b.toNat).toNat len),
   bad .misaligned (len % 4 != 0 || (st.gr a.toNat).toNat % 4 != 0 || (st.gr b.toNat).toNat % 4 != 0),
   bad .ownership (decide (scratchBytes < len)), bad .ownership (!src || !dst)]

/-- What a copy does at issue: its entry joins the queue and is counted. -/
def copyEffect (i : Instr) (kind : CopyKind) (d a b : BitVec 6) : Effect := fun st s =>
  .ok ((s.modCore s.cur.1 fun k => { k with
    copies := k.copies ++ [copyEntry i kind d a b st s.cur.2 ((s.core s.cur.1).gen s.cur.2)] }).count s.cur.1 0x2004, .seq)

theorem copyWord_here : copyWord i kind d a b s =
    issueIn [.copy] i (copyUse d a b) {} (copyChecks kind d a b) (copyEffect i kind d a b) id s := rfl

theorem copyChecks_pass (hmay : s.mayCopy st kind d.toNat a.toNat b.toNat)
    (hidem : kind = .toMemory ∨ st.idemSpan s.cur.1 (st.gr b.toNat).toNat (st.gr d.toNat).toNat = false) :
    firstFault (copyChecks kind d a b st s) = [] := by
  obtain ⟨hlen, ha, hb, hmax, hsrc, hdst⟩ := hmay
  have h1 : (kind != .toMemory && st.idemSpan s.cur.1 (st.gr b.toNat).toNat (st.gr d.toNat).toNat) = false := by
    rcases hidem with h | h
    · simp [h]
    · simp [h]
  have h2 : ((st.gr d.toNat).toNat % 4 != 0 || (st.gr a.toNat).toNat % 4 != 0 || (st.gr b.toNat).toNat % 4 != 0) = false := by
    simp [hlen, ha, hb]
  have h3 : decide (scratchBytes < (st.gr d.toNat).toNat) = false := decide_eq_false (Nat.not_lt.mpr hmax)
  have h4 : (!(kind == .toScratch || s.copyRangeOk s.cur.1 st (st.gr a.toNat) (st.gr d.toNat).toNat) ||
      !(kind == .toMemory || s.copyRangeOk s.cur.1 st (st.gr b.toNat) (st.gr d.toNat).toNat)) = false := by
    have hs : (kind == .toScratch || s.copyRangeOk s.cur.1 st (st.gr a.toNat) (st.gr d.toNat).toNat) = true := by
      rcases hsrc with h | h <;> simp [h]
    have hd : (kind == .toMemory || s.copyRangeOk s.cur.1 st (st.gr b.toNat) (st.gr d.toNat).toNat) = true := by
      rcases hdst with h | h <;> simp [h]
    rw [hs, hd]
    rfl
  unfold copyChecks
  simp only [h1, h2, h3, h4]
  rfl

theorem noRoom_copy (hact : st.active ≠ 0#64) (r : Ready i (copyUse d a b) {} st s) : s.noRoom [.copy] (copyUse d a b) {} st =
    if 256 ≤ (s.core s.cur.1).copies.length then some fun t => t.countStall 2 0x2006 else none := by
  have hb : s.deliverBound st.lineage (copyUse d a b).gRead = some s := State.deliverBound_unbound s _ _ (r.unbound rfl)
  rw [State.noRoom_unbound [.copy] (.inr hact) hb]
  simp only [List.findSome?_cons, List.findSome?_nil, State.lacks]
  have hcopies : ((s.unbindDests st.lineage []).core s.cur.1).copies = (s.core s.cur.1).copies := rfl
  simp only [State.unbindDests_cur, hcopies]
  by_cases hfull : 256 ≤ (s.core s.cur.1).copies.length
  · rw [if_pos hfull]
  · rw [if_neg hfull]

/-- What a word leaves that changes its core by g, but no strand. -/
theorem State.before_retired_core {β : Type} {u : Use} {f : Form} {g : CoreSt → CoreSt} (p q : CoreSt → β)
    (hp : ∀ (k : CoreSt) y, p { k with slots := y } = p k) (hq : ∀ k, p (g k) = q k)
    (hf : ∀ (k : CoreSt) y, q { k with futures := y } = q k) (hs : ∀ (k : CoreSt) y, q { k with slots := y } = q k) (fl : Flow) :
    p ((((s.before u f st).modCore s.cur.1 g).retireWord fl).core s.cur.1) = q (s.core s.cur.1) := by
  rw [State.retireWord_core p hp, State.core_modCore, hq, State.before_core q hf hs]

theorem State.modCore_modCore (t : State) (c : Nat) (f g : CoreSt → CoreSt) :
    (t.modCore c f).modCore c g = t.modCore c fun k => g (f k) := by
  simp only [State.modCore, State.core_setCore, State.setCore_setCore]

/-- The core with an entry at the end of its copy queue, counted. -/
def CoreSt.addCopy (k : CoreSt) (q : CopyOp) : CoreSt := CoreSt.count { k with copies := k.copies ++ [q] } 0x2004

theorem copyWord_joins (hact : st.active ≠ 0#64) (r : Ready i (copyUse d a b) {} st s)
    (hmay : s.mayCopy st kind d.toNat a.toNat b.toNat)
    (hidem : kind = .toMemory ∨ st.idemSpan s.cur.1 (st.gr b.toNat).toNat (st.gr d.toNat).toNat = false)
    (hroom : (s.core s.cur.1).copies.length < 256) : copyWord i kind d a b s =
      .next (((s.before (copyUse d a b) {} st).modCore s.cur.1 fun k =>
        k.addCopy (copyEntry i kind d a b st s.cur.2 ((s.core s.cur.1).gen s.cur.2))).retireWord .seq) := by
  rw [copyWord_here, issueIn_room r.here (by rw [noRoom_copy hact r, if_neg (by omega)]), issue_ready r (copyChecks_pass hmay hidem),
    copyEffect, State.before_cur, State.before_gen, State.count, State.modCore_modCore]
  rfl

/-- What a copy at issue leaves. -/
theorem addCopy_left (q : CopyOp) : let t := ((s.before (copyUse d a b) {} st).modCore s.cur.1 fun k => k.addCopy q).retireWord .seq
    t.here? = some (st.retire .seq) ∧ s.sameOutside t s.cur.1 ∧ (t.core s.cur.1).copies = (s.core s.cur.1).copies ++ [q] ∧
    (t.core s.cur.1).scratch = (s.core s.cur.1).scratch ∧
    (t.core s.cur.1).counter 0x2004 = (s.core s.cur.1).counter 0x2004 + 1#64 := by
  refine ⟨?_, State.sameOutside_modCore (copyUse d a b) {} (fun k => k.addCopy q) .seq, ?_, ?_, ?_⟩
  · have h := State.here?_modCore_before (s := s) (st := st) (u := copyUse d a b) (f := {}) (g := fun k => k.addCopy q) (fun _ => rfl)
      .seq
    rwa [Strand.ready_plain _ _ _ rfl rfl] at h
  · exact State.before_retired_core (g := fun k => k.addCopy q) CoreSt.copies (fun k => k.copies ++ [q]) (fun _ _ => rfl)
      (fun _ => rfl) (fun _ _ => rfl) (fun _ _ => rfl) .seq
  · exact State.before_retired_core (g := fun k => k.addCopy q) CoreSt.scratch CoreSt.scratch (fun _ _ => rfl) (fun _ => rfl)
      (fun _ _ => rfl) (fun _ _ => rfl) .seq
  · exact State.before_retired_core (g := fun k => k.addCopy q) (fun k => k.counter 0x2004) (fun k => k.counter 0x2004 + 1#64)
      (fun _ _ => rfl) (fun _ => CoreSt.counter_count _ _ 1) (fun _ _ => rfl) (fun _ _ => rfl) .seq

theorem copyWord_waits (hact : st.active ≠ 0#64) (r : Ready i (copyUse d a b) {} st s)
    (hfull : 256 ≤ (s.core s.cur.1).copies.length) : copyWord i kind d a b s = .next (s.countStall 2 0x2006) :=
  copyWord_here.trans (issueIn_waits r.here (stall := fun t => t.countStall 2 0x2006) (by rw [noRoom_copy hact r, if_pos hfull]))

end

/-- What a wait that is counted once leaves. -/
theorem State.countStall_left {s : State} {st : Strand} (h : s.here? = some st) (kind sel : Nat) :
    (s.countStall kind sel).here? = some { st with stalled := kind } ∧ s.sameOutside (s.countStall kind sel) s.cur.1 ∧
    ((s.countStall kind sel).core s.cur.1).copies = (s.core s.cur.1).copies ∧
    ((s.countStall kind sel).core s.cur.1).scratch = (s.core s.cur.1).scratch ∧
    ((s.countStall kind sel).core s.cur.1).counter sel = if st.stalled = kind then (s.core s.cur.1).counter sel
      else (s.core s.cur.1).counter sel + 1#64 := by
  refine ⟨State.countStall_here h kind sel, ?_⟩
  unfold State.countStall
  simp only [h]
  by_cases hk : st.stalled = kind
  · rw [if_pos hk, if_pos hk]
    exact ⟨⟨rfl, rfl, rfl, rfl, fun _ _ => rfl⟩, rfl, rfl, rfl⟩
  · rw [if_neg hk, if_neg hk]
    have hcore : ((s.setHere { st with stalled := kind }).count s.cur.1 sel).core s.cur.1 =
        ((s.setHere { st with stalled := kind }).core s.cur.1).count sel := by
      rw [State.count, State.core_modCore]
    refine ⟨⟨rfl, rfl, rfl, rfl, fun k hk => ?_⟩, ?_, ?_, ?_⟩
    · rw [State.count, State.core_modCore_other _ _ (Ne.symm hk), State.setHere, State.setStrand,
        State.core_modCore_other _ _ (Ne.symm hk)]
    · rw [hcore]
      exact State.setHere_core CoreSt.copies (fun _ _ => rfl) s _ _
    · rw [hcore]
      exact State.setHere_core CoreSt.scratch (fun _ _ => rfl) s _ _
    · rw [hcore, CoreSt.counter_count]
      exact congrArg (· + 1#64) (State.setHere_core (fun k => k.counter sel) (fun _ _ => rfl) s _ _)

section
variable {s : State} {st : Strand}

/-- The three words that copy. -/
theorem exec_copies {d a b : BitVec 6} {i : Instr} {kind : CopyKind}
    (hi : (i = .cpy d a b ∧ kind = .toScratch) ∨ (i = .cpys d a b ∧ kind = .within) ∨ (i = .cpyo d a b ∧ kind = .toMemory))
    (s : State) : exec i s = copyWord i kind d a b s := by
  rcases hi with ⟨rfl, rfl⟩ | ⟨rfl, rfl⟩ | ⟨rfl, rfl⟩ <;> rfl

theorem execCwait_eq {a : BitVec 6} (r : Ready (.cwait a) { gRead := [a.toNat] } {} st s) : execCwait a s =
    .next (if ∃ q ∈ (s.core s.cur.1).copies, q.slot = s.cur.2 ∧ q.gen = (s.core s.cur.1).gen s.cur.2 ∧
      q.batch ≠ st.group.batch ∧ (lo32 (st.gr a.toNat) - q.batch).toNat < 2 ^ 31 then s
    else s.goesOn { gRead := [a.toNat] } st st) := by
  have hcopies : ((s.before { gRead := [a.toNat] } {} st).core s.cur.1).copies = (s.core s.cur.1).copies :=
    State.before_core CoreSt.copies (fun _ _ => rfl) (fun _ _ => rfl) s _ _ _
  have hany : (s.core s.cur.1).copies.any (copyAwaited st s.cur.2 ((s.core s.cur.1).gen s.cur.2) (lo32 (st.gr a.toNat))) = true ↔
      ∃ q ∈ (s.core s.cur.1).copies, q.slot = s.cur.2 ∧ q.gen = (s.core s.cur.1).gen s.cur.2 ∧
        q.batch ≠ st.group.batch ∧ (lo32 (st.gr a.toNat) - q.batch).toNat < 2 ^ 31 := by
    simp only [List.any_eq_true, copyAwaited, Bool.and_eq_true, beq_iff_eq, bne_iff_ne, decide_eq_true_eq, and_assoc]
  unfold execCwait
  rw [issue_ready r (firstFault_noChecks _ _)]
  simp only [State.before_cur, State.before_gen, hcopies]
  by_cases hwait : ∃ q ∈ (s.core s.cur.1).copies, q.slot = s.cur.2 ∧ q.gen = (s.core s.cur.1).gen s.cur.2 ∧
      q.batch ≠ st.group.batch ∧ (lo32 (st.gr a.toNat) - q.batch).toNat < 2 ^ 31
  · simp only [if_pos hwait, if_pos (hany.mpr hwait), id]
  · simp only [if_neg hwait, if_neg (fun h => hwait (hany.mp h))]
    simp [State.before, State.goesOn, Form.ended, Strand.ready_plain]

end

theorem CoreSt.offBlocks_copies : CoreSt.OffBlocks CoreSt.copies := ⟨fun _ _ _ => rfl, fun _ _ => rfl, fun _ _ => rfl⟩
theorem CoreSt.offBlocks_ops : CoreSt.OffBlocks CoreSt.ops := ⟨fun _ _ _ => rfl, fun _ _ => rfl, fun _ _ => rfl⟩
theorem CoreSt.offBlocks_scratch : CoreSt.OffBlocks CoreSt.scratch := ⟨fun _ _ _ => rfl, fun _ _ => rfl, fun _ _ => rfl⟩
theorem CoreSt.offBlocks_counter (sel : Nat) : CoreSt.OffBlocks fun k => k.counter sel :=
  ⟨fun _ _ _ => rfl, fun _ _ => rfl, fun _ _ => rfl⟩

end Sys2Proof.Machine

section
open Sys2Proof Sys2Proof.Machine

/-- Settles O45: at issue by `copyWord_joins` and `copyWord_waits`; at its completion a copy changes the queue, the counter and the
operations of its core (`State.copyDone_here`), and one within good scratch stores what it read (`State.moveCopy_within_good`). -/
theorem copies : Obligations.Copies := by
  unfold Obligations.Copies
  refine ⟨fun s st hact => ⟨fun d a b i kind hi r hmay hidem => ⟨fun hroom => ?joins, fun hfull => ?waits⟩, fun d r => ?cbatch,
    fun a r => execCwait_eq r⟩, fun s s1 c n q x hq hmove => ?complete⟩
  case joins =>
    obtain ⟨hhere, hout, hcopies, hscratch, hcounter⟩ := addCopy_left (s := s) (st := st) (d := d) (a := a) (b := b)
      (copyEntry i kind d a b st s.cur.2 ((s.core s.cur.1).gen s.cur.2))
    exact ⟨_, _, (exec_copies hi s).trans (copyWord_joins hact r hmay hidem hroom), hhere, hout, hcopies, rfl, rfl, rfl, rfl, rfl, rfl,
      rfl, rfl, hscratch, hcounter⟩
  case waits => exact ⟨_, (exec_copies hi s).trans (copyWord_waits hact r hfull), State.countStall_left r.here _ _⟩
  case cbatch => exact issue_ready_onWholeStrand r (firstFault_noChecks _ _) rfl
  case complete =>
    obtain ⟨hcopies, hcounter, hops⟩ := State.copyDone_here (c := c) (n := n) (q := q) (x := x) s1
    have hscratch (k : Nat) : (((s1.copyDone c n q x).reportExits.endBlockIfDone q.launch q.block).core k).scratch =
        (s1.core k).scratch :=
      (copyDone_end_core CoreSt.offBlocks_scratch _ _ _ _).trans (State.copyDone_core CoreSt.scratch (fun _ _ _ _ => rfl) s1 k)
    have hmem : ((s1.copyDone c n q x).reportExits.endBlockIfDone q.launch q.block).mem = s1.mem :=
      (copyDone_end_mem _ _ _).trans (State.copyDone_mem s1)
    refine ⟨_, execCopyComplete_eq hq hmove, (copyDone_end_core CoreSt.offBlocks_copies _ _ _ _).trans hcopies, hmem,
      (copyDone_end_core (CoreSt.offBlocks_counter _) _ _ _ _).trans hcounter, hscratch, fun hnone => ?_, fun f hf hgen => ?_,
      fun hkind => ⟨?_, fun hsrc hdst => ?_⟩⟩
    · rw [copyDone_end_core CoreSt.offBlocks_ops, hops, hnone, List.append_nil]
    · refine ⟨q.faultOp f, ?_, rfl, rfl, rfl, rfl⟩
      rw [copyDone_end_core CoreSt.offBlocks_ops, hops, hf]
      dsimp only
      rw [if_pos hgen]
    · have hsame := State.sameButScratch_moveCopy_within (s := s) (c := c) hkind
      rw [hmove] at hsame
      rw [hmem]
      exact hsame.keep State.mem fun _ => rfl
    · obtain ⟨t, ht, hstored⟩ := State.moveCopy_within_good hkind hsrc hdst
      rw [hmove, Prod.mk.injEq] at ht
      obtain ⟨rfl, rfl⟩ := ht
      refine ⟨rfl, rfl, fun k a => ?_⟩
      rw [hscratch, hstored.bytes]

end

end

section
/-! SUPPORT. The steps that end the waits of buffers: transfer, release, clearing, swap and retirement (R201-R205, R232,
R233). -/

namespace Sys2Proof.Machine

/-! ### Cores of a state of which one core is changed -/

theorem State.core_modCore_keep {β : Type} (p : CoreSt → β) (s : State) (c : Nat) {f : CoreSt → CoreSt} (hf : ∀ k, p (f k) = p k)
    (j : Nat) : p ((s.modCore c f).core j) = p (s.core j) := by
  by_cases hj : c = j
  · subst hj
    rw [State.core_modCore, hf]
  · rw [State.core_modCore_other _ _ hj]

theorem State.strand?_congr {s t : State} (h : ∀ k, (t.core k).slots = (s.core k).slots) (c sl : Nat) :
    t.strand? c sl = s.strand? c sl := by
  rw [State.strand?, State.strand?, h]

theorem State.strand?_modCore_kept (t : State) (c : Nat) {f : CoreSt → CoreSt} (hf : ∀ k, (f k).slots = k.slots) (d sl : Nat) :
    (t.modCore c f).strand? d sl = t.strand? d sl :=
  State.strand?_congr (State.core_modCore_keep CoreSt.slots t c hf) d sl

theorem State.buffer?_modCore_kept (t : State) (c : Nat) {f : CoreSt → CoreSt} (hf : ∀ k, (f k).buffers = k.buffers) (d : Nat)
    (h : Word) : (t.modCore c f).buffer? d h = t.buffer? d h :=
  State.buffer?_congr (State.core_modCore_keep CoreSt.buffers t c hf) d h

theorem State.endWait_strand? {t : State} {c sl : Nat} {st : Strand} (h : t.strand? c sl = some st) :
    (t.endWait c sl).strand? c sl = some { st with wait := .none } := by
  simp only [State.endWait, State.modStrand, h, State.strand?_setStrand]

theorem State.endWait_core {β : Type} (p : CoreSt → β) (h : ∀ (k : CoreSt) x, p { k with slots := x } = p k) (t : State)
    (c sl j : Nat) : p ((t.endWait c sl).core j) = p (t.core j) := by
  unfold State.endWait State.modStrand
  split
  · exact State.core_modCore_keep p _ _ (fun k => h k _) j
  · rfl

theorem State.endWait_buffer? (t : State) (c sl d : Nat) (h : Word) : (t.endWait c sl).buffer? d h = t.buffer? d h :=
  State.buffer?_congr (State.endWait_core CoreSt.buffers (fun _ _ => rfl) t c sl) d h

theorem State.modBuffer_strand? (t : State) (c : Nat) (h : Word) (f : Buffer → Buffer) (d sl : Nat) :
    (t.modBuffer c h f).strand? d sl = t.strand? d sl :=
  State.strand?_congr (State.modBuffer_core CoreSt.slots (fun _ _ => rfl) t c h f) d sl

section
variable {s : State} {c sl : Nat} {st : Strand} {h : Word} {b : Buffer} (hst : s.strand? c sl = some st) (hb : s.buffer? c h = some b)
include hst hb

/-! ### Transfer and release -/

theorem execBgiveTransfer_gives {t : Nat} {counted : Bool} (hw : st.wait = .bgive h t counted)
    (hfree : s.bufferBusy (handleHome c h) b = false) (hdone : s.accessesDone c sl = true)
    (hroom : (s.core t).handOver.length < 64) : execBgiveTransfer c sl s = .next (((s.modBuffer c h fun b =>
      { b with holder := none }).modCore t fun k => { k with handOver := k.handOver ++ [⟨h, st.launch, st.block⟩] }).endWait c sl) := by
  have hfull : decide (64 ≤ (s.core t).handOver.length) = false := decide_eq_false (by omega)
  simp only [execBgiveTransfer, hst, hw, hb, hfull, hfree, hdone]
  rfl

theorem bgiveTransfer_gives {t : Nat} {counted : Bool} (hw : st.wait = .bgive h t counted)
    (hfree : s.bufferBusy (handleHome c h) b = false) (hdone : s.accessesDone c sl = true)
    (hroom : (s.core t).handOver.length < 64) : ∃ x, execBgiveTransfer c sl s = .next x ∧
      x.buffer? c h = some { b with holder := none } ∧
      (x.core t).handOver = (s.core t).handOver ++ [⟨h, st.launch, st.block⟩] ∧
      x.strand? c sl = some { st with wait := .none } ∧ x.mem = s.mem := by
  refine ⟨_, execBgiveTransfer_gives hst hb hw hfree hdone hroom, ?_, ?_, State.endWait_strand? ?_, ?_⟩
  · rw [State.endWait_buffer?, State.buffer?_modCore_kept]
    · exact State.buffer?_modBuffer hb _ rfl rfl rfl
    · exact fun _ => rfl
  · rw [State.endWait_core CoreSt.handOver fun _ _ => rfl, State.core_modCore]
    dsimp only
    rw [State.modBuffer_core CoreSt.handOver fun _ _ => rfl]
  · rw [State.strand?_modCore_kept, State.modBuffer_strand?, hst]
    exact fun _ => rfl
  · rw [State.endWait, State.modStrand_mem, State.modCore_mem, State.modBuffer_keep State.mem fun _ _ _ => rfl]

theorem bfreeRelease_releases (hw : st.wait = .bfree h) (hfree : s.bufferBusy (handleHome c h) b = false)
    (honly : ∀ y ∈ (s.core (handleHome c h)).buffers, y.handle (handleHome c h) = h → y.serial = b.serial ∧ y.first = b.first) :
    ∃ x, execBfreeRelease c sl s = .next x ∧ x.buffer? c h = none ∧
      (x.core (handleHome c h)).clearing = (s.core (handleHome c h)).clearing ++
        (if b.parked then [] else (List.range b.count).map (· + b.first)) ∧
      x.strand? c sl = some { st with wait := .none } ∧ x.mem = s.mem := by
  have hexec : execBfreeRelease c sl s = .next ((s.modCore (handleHome c h) fun k => k.dropBuffer b).endWait c sl) := by
    simp only [execBfreeRelease, hst, hw, hb, hfree]
    rfl
  refine ⟨_, hexec, ?_, ?_, State.endWait_strand? ?_, ?_⟩
  · rw [State.endWait_buffer?, State.buffer?, State.core_modCore]
    refine List.find?_eq_none.mpr fun y hy hyh => ?_
    obtain ⟨hmem, hne⟩ := List.mem_filter.mp hy
    obtain ⟨hser, hfirst⟩ := honly y hmem (by simpa using hyh)
    simp [hser, hfirst] at hne
  · rw [State.endWait_core CoreSt.clearing fun _ _ => rfl, State.core_modCore]
    dsimp only [CoreSt.dropBuffer]
    split
    · exact (List.append_nil _).symm
    · rfl
  · rw [State.strand?_modCore_kept, hst]
    exact fun _ => rfl
  · rw [State.endWait, State.modStrand_mem, State.modCore_mem]

/-! ### Swap and retirement -/

/-- The scratch of a buffer's home made ready for its retirement: the visible half comes first. -/
def State.straightened (s : State) (home : Nat) (p : Publication) (b : Buffer) : State :=
  if p.firstVisible then s else s.modCore home fun k => k.swapHalves b

omit hst hb in
theorem State.straightened_core {β : Type} (q : CoreSt → β)
    (hq : ∀ (k : CoreSt) x e o, q { k with scratch := x, scratchErr := e, scratchPoison := o } = q k) (home : Nat) (p : Publication)
    (j : Nat) : q ((s.straightened home p b).core j) = q (s.core j) := by
  unfold State.straightened
  split
  · rfl
  · exact State.core_modCore_keep q s home (fun k => hq k _ _ _) j

/-- The publication that a swap or a retirement leaves. -/
def Publication.after (p : Publication) (act : Nat) : Option Publication := if act = 0 then some ⟨!p.firstVisible⟩ else none

theorem execPublSwapOrRetire_eq {act : Nat} {p : Publication} (hw : st.wait = .publ h act) (hp : b.publ = some p)
    (hidle : ((clusterOf (handleHome c h)).any fun k => (s.core k).engineNames (handleHome c h) k b) = false)
    (hdone : act = 0 → s.accessesDone c sl = true) : execPublSwapOrRetire c sl s = .next
      (((if act = 0 then s else s.straightened (handleHome c h) p b).modBuffer c h fun b => { b with publ := p.after act }).endWait c sl) := by
  have hwait : (act == 0 && !s.accessesDone c sl) = false := by
    by_cases h0 : act = 0
    · rw [hdone h0]
      simp
    · simp [h0]
  simp only [execPublSwapOrRetire, hst, hw, hb, hp, hidle, hwait, Publication.after, State.straightened]
  by_cases h0 : act = 0
  · simp only [h0, if_true]
    rfl
  · simp only [h0, if_false]
    rfl

omit hst hb in
/-- The halves of a run exchanged. -/
theorem get_swapRun (m : List (Nat × Byte)) (base half a : Nat) : Assoc.get 0#8 (swapRun 0#8 m base half) a =
    if base ≤ a ∧ a < base + half then Assoc.get 0#8 m (a + half)
    else if base + half ≤ a ∧ a < base + 2 * half then Assoc.get 0#8 m (a - half) else Assoc.get 0#8 m a := by
  unfold swapRun
  rw [Assoc.get_splice, List.length_append, Assoc.length_read, Assoc.length_read]
  by_cases hlo : base ≤ a ∧ a < base + half
  · rw [if_pos (by omega), if_pos hlo, List.getD_append _ _ _ _ (by rw [Assoc.length_read]; omega), Assoc.getD_read _ _ _ _ (by omega)]
    congr 1
    omega
  · rw [if_neg hlo]
    by_cases hhi : base + half ≤ a ∧ a < base + 2 * half
    · rw [if_pos (by omega), if_pos hhi, List.getD_append_right _ _ _ _ (by rw [Assoc.length_read]; omega), Assoc.length_read,
        Assoc.getD_read _ _ _ _ (by omega)]
      congr 1
      omega
    · rw [if_neg (by omega), if_neg hhi]

omit hst hb in
theorem State.straightened_scratch (home : Nat) (p : Publication) (a : Nat) :
    Assoc.get 0#8 ((s.straightened home p b).core home).scratch a = if p.firstVisible then Assoc.get 0#8 (s.core home).scratch a
      else Assoc.get 0#8 (swapRun 0#8 (s.core home).scratch (granuleBytes * b.first) (granuleBytes * (b.count / 2))) a := by
  unfold State.straightened
  split
  · rfl
  · rw [State.core_modCore]
    rfl

omit hst hb in
theorem State.straightened_other {home k : Nat} (p : Publication) (hk : k ≠ home) :
    (s.straightened home p b).core k = s.core k := by
  unfold State.straightened
  split
  · rfl
  · exact State.core_modCore_other _ _ (Ne.symm hk)

/-- The scratch of the home of a published buffer after a swap or a retirement. -/
def publScratch (m : List (Nat × Byte)) (b : Buffer) (p : Publication) (act a : Nat) : Byte :=
  if act = 0 ∨ p.firstVisible = true then Assoc.get 0#8 m a
  else Assoc.get 0#8 (swapRun 0#8 m (granuleBytes * b.first) (granuleBytes * (b.count / 2))) a

omit hst hb in
/-- What offsets of the first and of the second half reach after a swap, and after a retirement. -/
theorem publScratch_reached (m : List (Nat × Byte)) {p : Publication} (hp : b.publ = some p) (act : Nat) {off : Nat}
    (hlo : granuleBytes * b.first ≤ off) (hhi : off < granuleBytes * b.first + granuleBytes * (b.count / 2)) :
    publScratch m b p act (({ b with publ := p.after act } : Buffer).place false off) = Assoc.get 0#8 m (b.place (act == 0) off) ∧
    (act = 0 → publScratch m b p act (({ b with publ := p.after act } : Buffer).place true off) = Assoc.get 0#8 m (b.place false off)) ∧
    (act ≠ 0 → publScratch m b p act (({ b with publ := p.after act } : Buffer).place false (off + granuleBytes * (b.count / 2))) =
      Assoc.get 0#8 m (b.place true off)) := by
  generalize hhalf : granuleBytes * (b.count / 2) = half at *
  by_cases h0 : act = 0
  · subst h0
    cases hv : p.firstVisible <;> simp [publScratch, Buffer.place, Publication.after, hp, hv, hhalf]
  · cases hv : p.firstVisible with
    | true => simp [publScratch, Buffer.place, Publication.after, hp, hv, hhalf, h0]
    | false =>
      have hsecond : ¬ (granuleBytes * b.first ≤ off + half ∧ off + half < granuleBytes * b.first + half) := by omega
      have hsecond' : granuleBytes * b.first + half ≤ off + half ∧ off + half < granuleBytes * b.first + 2 * half := by omega
      simp [publScratch, Buffer.place, Publication.after, hp, hv, hhalf, h0, get_swapRun, hlo, hhi, hsecond']

omit hst hb in
theorem publScratch_outside (m : List (Nat × Byte)) (p : Publication) (act : Nat) {a : Nat}
    (ha : a < granuleBytes * b.first ∨ granuleBytes * b.first + 2 * (granuleBytes * (b.count / 2)) ≤ a) :
    publScratch m b p act a = Assoc.get 0#8 m a := by
  unfold publScratch
  split
  · rfl
  · rw [get_swapRun, if_neg (by omega), if_neg (by omega)]

end

/-! ### Clearing -/

theorem get_clearGranules (gs : List Nat) (k : CoreSt) (a : Nat) : Assoc.get 0#8 (gs.foldl CoreSt.clearGranule k).scratch a =
    if a / granuleBytes ∈ gs then 0#8 else Assoc.get 0#8 k.scratch a := by
  induction gs generalizing k with
  | nil => rfl
  | cons g gs ih =>
    rw [List.foldl_cons, ih]
    by_cases hgs : a / granuleBytes ∈ gs
    · rw [if_pos hgs, if_pos (List.mem_cons_of_mem _ hgs)]
    · rw [if_neg hgs]
      by_cases hg : a / granuleBytes = g
      · rw [if_pos (by rw [hg]; exact List.mem_cons_self)]
        exact Assoc.get_filter_false 0#8 k.scratch (fun n => n / granuleBytes != g) a (by simp [hg])
      · rw [if_neg (by simp [hg, hgs])]
        exact Assoc.get_filter_true 0#8 k.scratch (fun n => n / granuleBytes != g) a (by simp [hg])

end Sys2Proof.Machine

section
open Sys2Proof Sys2Proof.Machine

/-- Settles O47, step by step; after a swap or a retirement the bytes that offsets reach follow from `get_swapRun`. -/
theorem bufferSteps : Obligations.BufferSteps := by
  unfold Obligations.BufferSteps
  refine fun s c sl st h b hst hb => ⟨fun t k hw hfree hdone hroom => bgiveTransfer_gives hst hb hw hfree hdone hroom,
    fun hw hfree honly => bfreeRelease_releases hst hb hw hfree honly, fun act p hw hp hidle hdone => ?publ, ?clear⟩
  case publ =>
    have hbase {β : Type} (q : CoreSt → β)
        (hq : ∀ (k : CoreSt) x e o, q { k with scratch := x, scratchErr := e, scratchPoison := o } = q k) (j : Nat) :
        q ((if act = 0 then s else s.straightened (handleHome c h) p b).core j) = q (s.core j) := by
      split
      · rfl
      · exact State.straightened_core q hq _ _ _
    have hbuf : (if act = 0 then s else s.straightened (handleHome c h) p b).buffer? c h = some b :=
      (State.buffer?_congr (hbase CoreSt.buffers fun _ _ _ _ => rfl) c h).trans hb
    have hscratch (k : Nat) : ((((if act = 0 then s else s.straightened (handleHome c h) p b).modBuffer c h fun b =>
        { b with publ := p.after act }).endWait c sl).core k).scratch =
        ((if act = 0 then s else s.straightened (handleHome c h) p b).core k).scratch :=
      (State.endWait_core CoreSt.scratch (fun _ _ => rfl) _ _ _ _).trans (State.modBuffer_core CoreSt.scratch (fun _ _ => rfl) _ _ _ _ _)
    have hafter : ((((if act = 0 then s else s.straightened (handleHome c h) p b).modBuffer c h fun b =>
        { b with publ := p.after act }).endWait c sl)).buffer? c h = some { b with publ := p.after act } :=
      (State.endWait_buffer? _ _ _ _ _).trans (State.buffer?_modBuffer hbuf _ rfl rfl rfl)
    have hbyte (a : Nat) : Assoc.get 0#8 (((((if act = 0 then s else s.straightened (handleHome c h) p b).modBuffer c h fun b =>
        { b with publ := p.after act }).endWait c sl).core (handleHome c h)).scratch) a =
        publScratch (s.core (handleHome c h)).scratch b p act a := by
      rw [hscratch, publScratch]
      by_cases h0 : act = 0
      · rw [if_pos h0, if_pos (.inl h0)]
      · rw [if_neg h0, State.straightened_scratch]
        by_cases hv : p.firstVisible = true
        · rw [if_pos hv, if_pos (.inr hv)]
        · rw [if_neg hv, if_neg (by simp [h0, hv])]
    refine ⟨_, execPublSwapOrRetire_eq hst hb hw hp hidle hdone, State.endWait_strand? ?_, hafter, ?_, ?_, ?_, ?_⟩
    · rw [State.modBuffer_strand?, State.strand?_congr (hbase CoreSt.slots fun _ _ _ _ => rfl), hst]
    · rw [State.endWait, State.modStrand_mem, State.modBuffer_keep State.mem fun _ _ _ => rfl]
      split
      · rfl
      · unfold State.straightened
        split
        · rfl
        · rfl
    · intro b' hb' off hlo hhi
      rw [hafter] at hb'
      obtain rfl := Option.some.inj hb'
      simp only [hbyte]
      exact publScratch_reached _ hp act hlo hhi
    · exact fun a ha => (hbyte a).trans (publScratch_outside _ _ _ ha)
    · intro k hk
      rw [hscratch]
      split
      · rfl
      · rw [State.straightened_other p hk]
  case clear =>
    refine ⟨_, rfl, ?_, rfl, fun a => ?_⟩
    · rw [State.core_modCore]
    · rw [State.core_modCore]
      exact get_clearGranules _ _ _

end

end

section
/-! SUPPORT. What an access to memory leaves as it was: all but memory itself and its controllers, the reports and the clocks
that they may stop, the stalls of launches, and TLBs. -/

namespace Sys2Proof.Machine

/-- A launch without its stalls. -/
def Launch.unstalled (l : Launch) : Launch := { l with stalls := 0, stallPs := 0 }

/-- A core without its TLB. -/
def CoreSt.untranslated (k : CoreSt) : CoreSt := { k with tlb := [] }

/-- A state with what accesses to memory change taken from another. -/
def State.withMemoryOf (t s : State) : State :=
  { t with
    cores := s.cores, mem := s.mem, stackCtl := s.stackCtl, banks := s.banks, launches := s.launches
    faultQ := s.faultQ, overflows := s.overflows, freeze := s.freeze, fresh := s.fresh }

/-- A state that differs from s in no more than what accesses to memory change. -/
structure State.Accessed (s t : State) : Prop where
  rest     : t.withMemoryOf s = s
  cores    : ∀ c, (t.core c).untranslated = (s.core c).untranslated
  launches : ∀ n, (Assoc.find t.launches n).map Launch.unstalled = (Assoc.find s.launches n).map Launch.unstalled

namespace State.Accessed

theorem refl (s : State) : s.Accessed s := ⟨rfl, fun _ => rfl, fun _ => rfl⟩

theorem trans {s t u : State} (h : s.Accessed t) (h' : t.Accessed u) : s.Accessed u := by
  refine ⟨?_, fun c => (h'.cores c).trans (h.cores c), fun n => (h'.launches n).trans (h.launches n)⟩
  exact (congrArg (fun x : State => x.withMemoryOf s) h'.rest).trans h.rest

/-- A part of the state that accesses do not change. -/
theorem keep {β : Type} (p : State → β) (hp : ∀ s t : State, p (t.withMemoryOf s) = p t) {s t : State} (h : s.Accessed t) :
    p t = p s :=
  (hp s t).symm.trans (congrArg p h.rest)

/-- A part of a core that its TLB is no part of. -/
theorem core {β : Type} (p : CoreSt → β) (hp : ∀ k : CoreSt, p k.untranslated = p k) {s t : State} (h : s.Accessed t) (c : Nat) :
    p (t.core c) = p (s.core c) := by
  rw [← hp, h.cores c, hp]

theorem cur {s t : State} (h : s.Accessed t) : t.cur = s.cur := h.keep State.cur fun _ _ => rfl

theorem strand? {s t : State} (h : s.Accessed t) (c sl : Nat) : t.strand? c sl = s.strand? c sl :=
  congrArg (fun m => Assoc.find m sl) (h.core CoreSt.slots (fun _ => rfl) c)

theorem here? {s t : State} (h : s.Accessed t) : t.here? = s.here? := by
  rw [State.here?, State.here?, h.cur, h.strand?]

end State.Accessed

section
variable {s : State}

/-- A change of what accesses change, but for cores and launches. -/
theorem State.accessed_of {t : State} (hrest : t.withMemoryOf s = s) (hcores : t.cores = s.cores) (hlaunches : t.launches = s.launches) :
    s.Accessed t := by
  refine ⟨hrest, fun c => ?_, fun n => ?_⟩
  · rw [State.core, State.core, hcores]
  · rw [hlaunches]

theorem State.accessed_modStack (n : Nat) (f : Stack → Stack) : s.Accessed (s.modStack n f) := State.accessed_of rfl rfl rfl
theorem State.accessed_setBank (b : Nat) (x : Bank) : s.Accessed (s.setBank b x) := State.accessed_of rfl rfl rfl
theorem State.accessed_mem (m : Mem) : s.Accessed { s with mem := m } := State.accessed_of rfl rfl rfl
theorem State.accessed_countStack (n k : Nat) : s.Accessed (s.countStack n k) := State.accessed_modStack _ _

theorem State.accessed_addStall (x : Waiter) : s.Accessed (s.addStall x) := by
  unfold State.addStall
  split
  next l hl =>
    refine ⟨rfl, fun _ => rfl, fun n => ?_⟩
    by_cases hn : x.launch = n
    · subst hn
      rw [Assoc.find_set_same, hl]
      rfl
    · rw [Assoc.find_set_other _ _ hn]
  next => exact .refl s

theorem State.accessed_foldl {α : Type} (f : State → α → State) (h : ∀ (t : State) a, t.Accessed (f t a)) (xs : List α) (s : State) :
    s.Accessed (xs.foldl f s) := by
  induction xs generalizing s with
  | nil => exact .refl s
  | cons x xs ih => exact (h s x).trans (ih _)

theorem State.accessed_bankWoken (b : Nat) (deep : Bool) : s.Accessed (s.bankWoken b deep) := by
  unfold State.bankWoken
  refine .trans ?_ (State.accessed_foldl _ (fun t x => t.accessed_addStall x) _ _)
  refine .trans (.trans ?_ (State.accessed_setBank b _)) (State.accessed_countStack _ _)
  split
  · exact State.accessed_mem _
  · exact .refl s

theorem State.accessed_touch (pa : Nat) : s.Accessed (s.touch pa) := by
  unfold State.touch
  split
  · exact .refl s
  · refine .trans (t := s.cacheSector pa) (State.accessed_modStack _ _) ?_
    dsimp only
    split
    · exact State.accessed_setBank _ _
    · split
      · exact State.accessed_setBank _ _
      · exact State.accessed_bankWoken _ _
    · exact (State.accessed_setBank _ _).trans (State.accessed_bankWoken _ _)
    · exact State.accessed_bankWoken _ _

theorem State.accessed_serve (w : Who) (pa : Nat) : s.Accessed (s.serve w pa) := by
  unfold State.serve
  split
  · exact ((State.accessed_countStack _ _).trans (State.accessed_addStall _)).trans (State.accessed_touch pa)
  · exact State.accessed_touch pa

theorem State.accessed_freezeBy (n : Nat) : s.Accessed (s.freezeBy n) := by
  unfold State.freezeBy
  split
  · split
    · exact State.accessed_of rfl rfl rfl
    · exact .refl s
  · exact State.accessed_of rfl rfl rfl

theorem State.accessed_post (w : Who) (pa cause : Nat) : s.Accessed (s.post w pa cause) := by
  unfold State.post State.postFault
  split
  · dsimp only
    split
    · refine .trans ?_ (State.accessed_freezeBy 3)
      exact State.accessed_of rfl rfl rfl
    · exact State.accessed_of rfl rfl rfl
  · exact State.accessed_of rfl rfl rfl

theorem State.accessed_consume (w : Who) (n : Nat) : s.Accessed (s.consume w n).1 := by
  unfold State.consume
  refine .trans (State.accessed_serve w (32 * n)) ?_
  dsimp only
  split
  · exact State.accessed_post _ _ _
  · split
    · exact State.accessed_post _ _ _
    · split
      · exact (State.accessed_mem _).trans (State.accessed_post _ _ _)
      · exact .refl _

theorem State.accessed_consumeAll (w : Who) (ns : List Nat) (s : State) : s.Accessed (State.consumeAll w ns s).1 := by
  induction ns generalizing s with
  | nil => exact .refl s
  | cons n ns ih =>
    have hone := State.accessed_consume (s := s) w n
    unfold State.consumeAll
    split
    next t c h =>
      rw [h] at hone
      exact hone.trans (ih t)
    next t h =>
      rw [h] at hone
      exact hone.trans (ih t)

theorem State.accessed_readPhys (w : Who) (pa n : Nat) : s.Accessed (s.readPhys w pa n).1 := by
  have hall := State.accessed_consumeAll w (sectorsOf pa n) s
  unfold State.readPhys
  split
  next t c h => rwa [h] at hall
  next t h => rwa [h] at hall

theorem State.accessed_writeSector (w : Who) (n pa : Nat) (bs : List Byte) : s.Accessed (s.writeSector w n pa bs).1 := by
  have hone := State.accessed_consume (s := s) w n
  unfold State.writeSector
  split
  · exact (State.accessed_serve w pa).trans (State.accessed_mem _)
  · split
    next t c h => rwa [h] at hone
    next t h =>
      rw [h] at hone
      exact hone.trans (State.accessed_mem _)

theorem State.accessed_writeSectors (w : Who) (fuel pa : Nat) (bs : List Byte) (s : State) :
    s.Accessed (State.writeSectors w fuel pa bs s).1 := by
  induction fuel generalizing pa bs s with
  | zero => exact .refl s
  | succ fuel ih =>
    unfold State.writeSectors
    split
    · exact .refl s
    · have hone := State.accessed_writeSector (s := s) w (pa / 32) pa (bs.take (32 - pa % 32))
      dsimp only
      split
      next t c h =>
        rw [h] at hone
        exact hone.trans (ih _ _ t)
      next t h =>
        rw [h] at hone
        exact hone.trans (ih _ _ t)

theorem State.accessed_writeUnit (w : Who) (pa : Nat) (bs : List Byte) : s.Accessed (s.writeUnit w pa bs).1 := by
  unfold State.writeUnit
  split
  · split
    · exact (State.accessed_mem _).trans (State.accessed_writeSectors _ _ _ _ _)
    · split
      · exact State.accessed_writeSectors _ _ _ _ _
      · exact State.accessed_post _ _ _
  · exact State.accessed_writeSectors _ _ _ _ _

theorem State.accessed_writeUnits (w : Who) (fuel pa : Nat) (bs : List Byte) (s : State) :
    s.Accessed (State.writeUnits w fuel pa bs s).1 := by
  induction fuel generalizing pa bs s with
  | zero => exact .refl s
  | succ fuel ih =>
    unfold State.writeUnits
    split
    · exact .refl s
    · have hone := State.accessed_writeUnit (s := s) w pa (bs.take (256 - pa % 256))
      dsimp only
      split
      next t c h =>
        rw [h] at hone
        exact hone.trans (ih _ _ t)
      next t h =>
        rw [h] at hone
        exact hone.trans (ih _ _ t)

theorem State.accessed_writeAt (w : Who) (pa : Nat) (bs : List Byte) : s.Accessed (s.writeAt w pa bs).1 :=
  State.accessed_writeUnits w _ pa bs s

theorem State.accessed_writePhys (w : Who) (pa : Nat) (bs : List Byte) : s.Accessed (s.writePhys w pa bs).1 := by
  have hat := State.accessed_writeAt (s := s) w pa bs
  unfold State.writePhys
  split
  next t c h => rwa [h] at hat
  next t h => rwa [h] at hat

/-! ### Translation -/

theorem State.accessed_walkFrom (w : Who) (domain va : Nat) (stage2 : Bool) (fuel level table : Nat) (s : State) :
    s.Accessed (State.walkFrom w domain va stage2 fuel level table s).1 := by
  induction fuel generalizing level table s with
  | zero => exact .refl s
  | succ fuel ih =>
    have hread := State.accessed_readPhys (s := s) w (table + 8 * levelIndex va level) 8
    unfold State.walkFrom
    split
    next t f h => rwa [h] at hread
    next t bs h =>
      rw [h] at hread
      dsimp only
      split
      · exact hread
      · exact hread.trans (ih _ _ t)
      · exact hread

/-- A core of which the TLB alone changes. -/
theorem State.accessed_tlb (c : Nat) {f : CoreSt → CoreSt} (hf : ∀ k, (f k).untranslated = k.untranslated) :
    s.Accessed (s.modCore c f) :=
  ⟨rfl, State.core_modCore_keep CoreSt.untranslated s c hf, fun _ => rfl⟩

theorem CoreSt.untranslated_useTlb (k : CoreSt) (t : TlbEntry) : (k.useTlb t).untranslated = k.untranslated := by
  unfold CoreSt.useTlb
  split
  · rfl
  · rfl

theorem State.accessed_stage (w : Who) (root : Nat) (stage2 : Bool) (va : Nat) : s.Accessed (s.stage w root stage2 va).1 := by
  unfold State.stage
  split
  next t _ =>
    dsimp only
    split
    · exact .refl s
    · exact State.accessed_tlb w.core fun k => CoreSt.untranslated_useTlb k t
  next =>
    have hwalk := State.accessed_walkFrom w w.domain.toNat va stage2 4 0 root (s.countStack (coreStack w.core) 12)
    have hcount := State.accessed_countStack (s := s) (coreStack w.core) 12
    split
    next t f h =>
      rw [h] at hwalk
      exact hcount.trans hwalk
    next t e h =>
      rw [h] at hwalk
      exact (hcount.trans hwalk).trans (State.accessed_tlb w.core (f := fun k => k.fillTlb e) fun _ => rfl)

theorem State.accessed_translate (w : Who) (va : Nat) (a : Access) : s.Accessed (s.translate w va a).1 := by
  unfold State.translate
  split
  · exact .refl s
  · have hone := State.accessed_stage (s := s) w (s.domainEntry w.domain.toNat).root1 false va
    dsimp only
    split
    next t f h => rwa [h] at hone
    next t e h =>
      rw [h] at hone
      dsimp only at hone
      split
      · exact hone
      · split
        · split
          · exact hone
          · exact hone
        · have htwo := State.accessed_stage (s := t) w (s.domainEntry w.domain.toNat).root2 true (e.pa + (va - e.va))
          split
          next u f h' =>
            rw [h'] at htwo
            exact hone.trans htwo
          next u e' h' =>
            rw [h'] at htwo
            split
            · exact hone.trans htwo
            · split
              · exact hone.trans htwo
              · exact hone.trans htwo

theorem State.accessed_readPage (w : Who) (va n : Nat) (a : Access) : s.Accessed (s.readPage w va n a).1 := by
  have htr := State.accessed_translate (s := s) w va a
  unfold State.readPage
  split
  next t f h => rwa [h] at htr
  next t pa h =>
    rw [h] at htr
    exact htr.trans (State.accessed_readPhys _ _ _)

theorem State.accessed_readVirt (w : Who) (a : Access) (fuel va n : Nat) (s : State) :
    s.Accessed (State.readVirt w a fuel va n s).1 := by
  induction fuel generalizing va n s with
  | zero => exact .refl s
  | succ fuel ih =>
    unfold State.readVirt
    split
    · exact .refl s
    · have hpage := State.accessed_readPage (s := s) w va (min n (65536 - va % 65536)) a
      dsimp only
      split
      next t f h => rwa [h] at hpage
      next t bs h =>
        rw [h] at hpage
        have hrest := ih (va + min n (65536 - va % 65536)) (n - min n (65536 - va % 65536)) t
        split
        next u f h' =>
          rw [h'] at hrest
          exact hpage.trans hrest
        next u cs h' =>
          rw [h'] at hrest
          exact hpage.trans hrest

theorem State.accessed_readV (w : Who) (va n : Nat) (a : Access) : s.Accessed (s.readV w va n a).1 :=
  State.accessed_readVirt w a _ va n s

theorem State.accessed_writeVirt (w : Who) (fuel va : Nat) (bs : List Byte) (s : State) :
    s.Accessed (State.writeVirt w fuel va bs s).1 := by
  induction fuel generalizing va bs s with
  | zero => exact .refl s
  | succ fuel ih =>
    unfold State.writeVirt
    split
    · exact .refl s
    · have htr := State.accessed_translate (s := s) w va .write
      dsimp only
      split
      next t f h => rwa [h] at htr
      next t pa h =>
        rw [h] at htr
        have hwrite := State.accessed_writeAt (s := t) w pa (bs.take (65536 - va % 65536))
        split
        next u f at_ h' =>
          rw [h'] at hwrite
          exact htr.trans hwrite
        next u h' =>
          rw [h'] at hwrite
          exact (htr.trans hwrite).trans (ih _ _ u)

theorem State.accessed_writeV (w : Who) (va : Nat) (bs : List Byte) : s.Accessed (s.writeV w va bs).1 :=
  State.accessed_writeVirt w _ va bs s

end

end Sys2Proof.Machine

end

section
/-! SUPPORT. Entering handlers: settling, causes, the frame and the strand as its handler finds it (R307-R311, R314). -/

namespace Sys2Proof.Machine

/-! ### Settling with nothing to perform -/

/-- An operation that settling leaves as it is: another strand's, or one with no lane to perform that met a fault. -/
def Op.settled (o : Op) (sl : Nat) (gen : BitVec 8) : Prop :=
  (o.slot == sl && o.gen == gen) = false ∨ (o.todo = 0#64 ∧ o.faults ≠ [])

theorem State.settleAt_settled {s : State} {c sl : Nat} (h : ∀ o ∈ (s.core c).ops, o.settled sl ((s.core c).gen sl)) (n : Nat) :
    s.settleAt c sl n = s := by
  unfold State.settleAt
  cases ho : (s.core c).ops[n]? with
  | none => rfl
  | some o =>
    dsimp only
    rcases h o (List.mem_of_getElem? ho) with hother | ⟨htodo, hfaults⟩
    · rw [hother]
      rfl
    · have hperform : s.performAt c n true false (~~~ 0#64) = s := by
        simp only [State.performAt, ho, htodo]
        rfl
      have hnot : (o.todo == 0#64 && o.faults.isEmpty) = false := by
        simp [htodo, hfaults]
      simp only [hnot, hperform, Bool.false_eq_true, if_false, ite_self]

theorem State.settleFrom_settled {s : State} {c sl : Nat} (h : ∀ o ∈ (s.core c).ops, o.settled sl ((s.core c).gen sl)) :
    ∀ fuel n, State.settleFrom c sl fuel n s = s
  | 0, _ => rfl
  | fuel + 1, n => by
    unfold State.settleFrom
    rw [State.settleAt_settled h]
    dsimp only
    rw [if_neg (Nat.lt_irrefl _)]
    exact State.settleFrom_settled h fuel (n + 1)

theorem State.settle_settled {s : State} {c sl : Nat} (h : ∀ o ∈ (s.core c).ops, o.settled sl ((s.core c).gen sl)) :
    s.settle c sl = s := State.settleFrom_settled h _ _

section
variable {s : State} {c sl : Nat}

theorem State.others_of_noOps (h : (s.core c).strandOps sl = []) (o : Op) (ho : o ∈ (s.core c).ops) :
    (o.slot == sl && o.gen == (s.core c).gen sl) = false := by
  have hnot := List.filter_eq_nil_iff.mp h o ho
  simpa using hnot

theorem State.settle_noOps (h : (s.core c).strandOps sl = []) : s.settle c sl = s :=
  State.settle_settled fun o ho => .inl (State.others_of_noOps h o ho)

theorem State.awaitsLink_noOps (h : (s.core c).strandOps sl = []) : s.awaitsLink c sl = false := by
  unfold State.awaitsLink
  rw [State.settle_noOps h]
  refine List.any_eq_false.mpr fun x hx => ?_
  have hother := State.others_of_noOps h x.1 (List.fst_mem_of_mem_zipIdx hx)
  simp [hother]

theorem State.hasFaults_noOps (h : (s.core c).strandOps sl = []) : s.hasFaults c sl = false := by
  rw [State.hasFaults, h]
  rfl

end

/-! ### Causes -/

theorem filterMap_eq_map_filter {α β : Type} {f : α → Option β} {p : α → Bool} {g : α → β} {ls : List α}
    (h : ∀ l ∈ ls, f l = if p l then some (g l) else none) : ls.filterMap f = (ls.filter p).map g := by
  induction ls with
  | nil => rfl
  | cons l ls ih =>
    have hl := h l List.mem_cons_self
    have ih := ih fun l hl => h l (List.mem_cons_of_mem _ hl)
    cases hp : p l <;> simp [hp, hl, ih]

/-- The one entry of a list that satisfies a predicate is found. -/
theorem find?_only {α : Type} {p : α → Bool} {x : α} {ls : List α} (hx : x ∈ ls) (hp : p x = true) (h : ∀ y, p y = true → y = x) :
    ls.find? p = some x := by
  cases hf : ls.find? p with
  | none => exact absurd hp (List.find?_eq_none.mp hf x hx)
  | some y => rw [h y (List.find?_some hf)]

/-- The causes of a word that traps in the lanes of a mask, of a strand with nothing in flight. -/
theorem trapCauses_noOps (st : Strand) (m : LaneMask) (k : Cause) :
    trapCauses st [] (faultIn m k) = (lanesOf m).map fun l => (l, causeWord 31 0 0 k.code) := by
  have hfind (l : Nat) : (faultIn m k).find? (fun f => f.lane == l) = if m.getLsbD l then some ⟨l, k, 0⟩ else none := by
    have hmem := mem_lanesOf (m := m) (l := l)
    unfold faultIn
    rw [List.find?_map]
    cases hbit : m.getLsbD l with
    | true =>
      rw [hbit] at hmem
      have hfirst : (lanesOf m).find? ((fun f => f.lane == l) ∘ fun l => (⟨l, k, 0⟩ : LaneFault)) = some l := by
        refine find?_only (hmem.mpr rfl) (beq_self_eq_true l) fun y hy => by simpa using hy
      rw [hfirst]
      rfl
    | false =>
      have hnone : (lanesOf m).find? ((fun f => f.lane == l) ∘ fun l => (⟨l, k, 0⟩ : LaneFault)) = none := by
        refine List.find?_eq_none.mpr fun y hy hyl => ?_
        obtain rfl : y = l := by simpa using hyl
        rw [mem_lanesOf, hbit] at hy
        exact Bool.noConfusion hy
      rw [hnone]
      rfl
  unfold trapCauses
  exact filterMap_eq_map_filter fun l _ => by
    simp only [List.find?_nil, hfind]
    cases m.getLsbD l <;> rfl

theorem maskOf_eq {ls : List Nat} {m : LaneMask} (h : ∀ l, l < 64 → (l ∈ ls ↔ m.getLsbD l = true)) : maskOf ls = m := by
  refine BitVec.eq_of_getLsbD_eq fun l hl => ?_
  rw [getLsbD_maskOf ls hl]
  by_cases hmem : l ∈ ls
  · rw [decide_eq_true hmem, (h l hl).mp hmem]
  · rw [decide_eq_false hmem]
    exact (Bool.eq_false_iff.mpr fun hbit => hmem ((h l hl).mpr hbit)).symm

theorem maskOf_lanesOf (m : LaneMask) : maskOf (lanesOf m) = m := maskOf_eq fun _ _ => mem_lanesOf

/-! ### The handler entered -/

section
variable {s s2 : State} {c sl : Nat} {st : Strand} {hyp : Bool} {causes : List (Nat × Word)} {entries : List Op} {held : List HeldNote}

theorem State.dropInquiry_core {β : Type} (p : CoreSt → β) (h : ∀ (k : CoreSt) x, p { k with slots := x } = p k) (s : State)
    (c sl j : Nat) : p ((s.dropInquiry c sl).core j) = p (s.core j) := by
  have hmod (t : State) (f : Strand → Strand) : p ((t.modStrand c sl f).core j) = p (t.core j) := by
    unfold State.modStrand
    split
    · exact State.core_modCore_keep p _ _ (fun k => h k _) j
    · rfl
  unfold State.dropInquiry
  split
  · rfl
  · refine (foldl_keep (fun t : State => p (t.core j)) _ (fun t a => ?_) _ _).trans (hmod _ _)
    split
    · exact State.sendTo_keep (fun t => p (t.core j)) (fun _ _ => rfl) _ _ _
    · rfl

theorem State.dropInquiry_cur (s : State) (c sl : Nat) : (s.dropInquiry c sl).cur = s.cur := by
  unfold State.dropInquiry
  split
  · rfl
  · refine (foldl_keep State.cur _ (fun t a => ?_) _ _).trans (State.modStrand_cur _ _ _ _)
    split
    · exact State.sendTo_keep State.cur (fun _ _ => rfl) _ _ _
    · rfl

/-- What entry makes of a strand depends on no more of its core than the bases of its handlers. -/
theorem enterHandler_congr {k k' : CoreSt} (hs : k'.trapBase = k.trapBase) (hh : k'.hTrapBase = k.hTrapBase) (x : Strand) :
    enterHandler x k' hyp causes entries held = enterHandler x k hyp causes entries held := by
  simp only [enterHandler, hs, hh]

/-- The strand with the results of the lanes that its operations completed. -/
def Strand.withKept (st : Strand) (ops : List Op) : Strand := ops.foldl (fun x o => keepResults o x) st

/-- What entry leaves in the slot of a strand and of its operations. -/
theorem State.entered_left (s : State) : (s.entered c sl st hyp causes entries held).strand? c sl =
      some { enterHandler (st.withKept ((s.core c).strandOps sl)) (s.core c) hyp causes entries held with inquiry := none } ∧
    ((s.entered c sl st hyp causes entries held).core c).ops = (s.core c).ops.filter (fun o => !(o.slot == sl && o.gen == (s.core c).gen sl)) ∧
    (s.entered c sl st hyp causes entries held).cur = s.cur := by
  have hleave (t : State) (b : Bool) : ((if b then t.freezeBy 2 else t).strand? c sl = t.strand? c sl) ∧
      ((if b then t.freezeBy 2 else t).core c).ops = (t.core c).ops ∧ (if b then t.freezeBy 2 else t).cur = t.cur := by
    cases b
    · exact ⟨rfl, rfl, rfl⟩
    · have hfreeze := State.accessed_freezeBy (s := t) 2
      exact ⟨hfreeze.strand? c sl, hfreeze.core CoreSt.ops (fun _ => rfl) c, hfreeze.cur⟩
  have hcore : (((s.modCore c fun k => { k with ops := k.ops.filter fun o => !(o.slot == sl && o.gen == k.gen sl) }).count
      c 0x0003).core c) = CoreSt.count { s.core c with
        ops := (s.core c).ops.filter fun o => !(o.slot == sl && o.gen == (s.core c).gen sl) } 0x0003 := by
    rw [State.count, State.core_modCore, State.core_modCore]
  have henter := enterHandler_congr (hyp := hyp) (causes := causes) (entries := entries) (held := held) (k := s.core c)
    (k' := ((s.modCore c fun k => { k with ops := k.ops.filter fun o => !(o.slot == sl && o.gen == k.gen sl) }).count
      c 0x0003).core c) (by rw [hcore]; rfl) (by rw [hcore]; rfl) (st.withKept ((s.core c).strandOps sl))
  obtain ⟨hstrand, hops, hcur⟩ := hleave (State.setStrand (State.dropInquiry ((s.modCore c fun k =>
    { k with ops := k.ops.filter fun o => !(o.slot == sl && o.gen == k.gen sl) }).count c 0x0003) c sl) c sl
      { enterHandler (st.withKept ((s.core c).strandOps sl)) (((s.modCore c fun k =>
        { k with ops := k.ops.filter fun o => !(o.slot == sl && o.gen == k.gen sl) }).count c 0x0003).core c) hyp causes entries held with
          inquiry := none })
    (match s.freeze.armedTrap with
      | some code => causes.any fun x => slice x.2 7 0 == code
      | none => false)
  refine ⟨hstrand.trans ?_, hops.trans ?_, hcur.trans ?_⟩
  · rw [State.strand?_setStrand, henter]
  · rw [State.setStrand_core CoreSt.ops fun _ _ => rfl, State.dropInquiry_core CoreSt.ops fun _ _ => rfl, hcore]
    rfl
  · rw [State.setStrand_cur, State.dropInquiry_cur]
    rfl

/-- A trap of which the frame is written in the entered mode enters the handler. -/
theorem State.openFrame_enters {resume : DWord × Nat} {service : Nat} {hcall : Bool}
    (hdepth : st.depth < 3) (hhyp : hyp = (hcall || st.depth + 1 == 3))
    (hfirst : causes.any (fun x => (slice x.2 7 0 == Cause.translation.code || slice x.2 7 0 == Cause.protection.code) &&
      x.2.getLsbD 8) = false)
    (hwrite : s.writeFrame c sl st hyp resume service causes entries = (s2, .ok ())) :
    s.openFrame c sl st causes entries held resume service hcall = s2.entered c sl st hyp causes entries held := by
  unfold State.openFrame
  rw [hfirst]
  dsimp only
  rw [Bool.or_false, ← hhyp, if_neg (by omega)]
  cases hyp with
  | true =>
    rw [if_pos rfl, hwrite]
  | false =>
    rw [if_neg Bool.false_ne_true, hwrite]

theorem State.takeTrap_eq {precise : List LaneFault} {resume : DWord × Nat} {service : Nat} {hcall : Bool}
    (hsettle : s.settle c sl = s) (hst : s.strand? c sl = some st)
    (hcauses : trapCauses st ((s.core c).strandOps sl) precise = causes) (hne : causes ≠ [])
    (hcount : s.countTrap c st precise = s) : s.takeTrap c sl precise resume service hcall =
      s.openFrame c sl st causes (((s.core c).strandOps sl).filter fun o => isReplayed o.instr)
        (heldNotes 0 ((s.core c).strandOps sl)) resume service hcall := by
  have hempty : causes.isEmpty = false := List.isEmpty_eq_false_iff.mpr hne
  unfold State.takeTrap
  rw [hsettle]
  dsimp only
  rw [hst]
  dsimp only
  rw [hcauses, hempty, hcount]
  rfl

end

/-! ### SYSC, HCALL and BKPT -/

section
variable {s s2 : State} {st : Strand}

/-- The three words that trap on purpose: their causes, and whether H takes them. -/
def isTrapWord (i : Instr) (imm : BitVec 16) (k : Cause) (hcall : Bool) : Prop :=
  (i = .sysc imm ∧ k = .systemCall ∧ hcall = false) ∨ (i = .bkpt imm ∧ k = .breakpoint ∧ hcall = false) ∨
    (i = .hcall imm ∧ k = .hypercall ∧ hcall = true)

theorem isTrapWord.exec_eq {i : Instr} {imm : BitVec 16} {k : Cause} {hcall : Bool} (h : isTrapWord i imm k hcall) (s : State) :
    exec i s = trapInstr i k imm.toNat hcall s := by
  rcases h with ⟨rfl, rfl, rfl⟩ | ⟨rfl, rfl, rfl⟩ | ⟨rfl, rfl, rfl⟩ <;> rfl

theorem isTrapWord.cause {i : Instr} {imm : BitVec 16} {k : Cause} {hcall : Bool} (h : isTrapWord i imm k hcall) :
    k = .systemCall ∨ k = .breakpoint ∨ k = .hypercall := by
  rcases h with ⟨-, h, -⟩ | ⟨-, h, -⟩ | ⟨-, h, -⟩
  · exact .inl h
  · exact .inr (.inl h)
  · exact .inr (.inr h)

/-- A cause of these is none that H takes for its translation. -/
theorem wordCauses_first {k : Cause} (hk : k = .systemCall ∨ k = .breakpoint ∨ k = .hypercall) (x : Strand) :
    (wordCauses x k).any (fun x => (slice x.2 7 0 == Cause.translation.code || slice x.2 7 0 == Cause.protection.code) &&
      x.2.getLsbD 8) = false := by
  rw [wordCauses, List.any_map]
  refine List.any_eq_false.mpr fun l _ => ?_
  dsimp only [Function.comp]
  rcases hk with rfl | rfl | rfl <;> decide +revert

theorem countTrap_uncounted {c : Nat} {k : Cause} {m : LaneMask} (h1 : k ≠ .ownership) (h2 : k ≠ .malformedMetadata) (x : Strand) :
    s.countTrap c x (faultIn m k) = s := by
  have hno (q : Cause) (hq : k ≠ q) : (faultIn m k).any (fun f => f.cause == q) = false := by
    rw [faultIn, List.any_map]
    exact List.any_eq_false.mpr fun l _ => by simpa using hq
  unfold State.countTrap
  rw [hno _ h1, hno _ h2]
  rfl

theorem map_fst_wordCauses (x : Strand) (k : Cause) : (wordCauses x k).map (·.1) = lanesOf x.active := by
  rw [wordCauses, List.map_map]
  exact List.map_id _

theorem kr_setK_same (x : Strand) (n : Nat) (v : DWord) : (x.setK n v).kr n = v := Assoc.get_put_same _ _ _ _

theorem kr_setK_other (x : Strand) {n m : Nat} (v : DWord) (h : n ≠ m) : (x.setK n v).kr m = x.kr m := Assoc.get_put_other _ _ _ h

/-- The strand as its handler finds it after a word that traps in every active lane. -/
theorem enterHandler_inHandler {k : CoreSt} {hyp : Bool} (q : Cause) (entries : List Op) (held : List HeldNote) :
    st.inHandler { enterHandler { st with region := none } k hyp (wordCauses st q) entries held with inquiry := none } k hyp
      st.active := by
  have hmask : maskOf ((wordCauses st q).map (·.1)) = st.active := by rw [map_fst_wordCauses, maskOf_lanesOf]
  refine ⟨rfl, rfl, rfl, hmask, ?_, rfl, rfl, rfl, rfl, rfl, rfl, rfl, fun n hn => ?_, rfl, rfl, rfl, rfl, rfl, rfl, rfl, rfl, rfl, rfl, rfl⟩
  · exact (Assoc.get_put_same _ _ _ _).trans hmask
  · exact Assoc.get_put_other _ _ _ (Ne.symm hn)

/-- A word that traps on purpose, of a strand with nothing in flight, enters its handler. -/
theorem trapInstr_enters {i : Instr} {imm : BitVec 16} {k : Cause} {hcall hyp : Bool} (hi : isTrapWord i imm k hcall)
    (r : Ready i {} { ends := true } st s) (hact : st.active ≠ 0#64) (hops : (s.core s.cur.1).strandOps s.cur.2 = [])
    (hdepth : st.depth < 3) (hhyp : hyp = (hcall || st.depth + 1 == 3)) (hwrite : s.frameFor st hyp imm.toNat k = (s2, .ok ())) :
    exec i s = .next ((s2.entered s.cur.1 s.cur.2 { st with region := none } hyp (wordCauses st k) [] []).retireWord .stay) := by
  have hready : st.ready {} { ends := true } = { st with region := none } := Strand.ready_endsRegion rfl rfl
  have hops' : ((s.before {} { ends := true } st).core s.cur.1).strandOps s.cur.2 = [] :=
    (State.before_core (fun k => k.strandOps s.cur.2) (fun _ _ => rfl) (fun _ _ => rfl) s _ _ _).trans hops
  have hstrand : (s.before {} { ends := true } st).strand? s.cur.1 s.cur.2 = some { st with region := none } := by
    have hhere := State.before_here s {} { ends := true } st
    rwa [State.here?, State.before_cur, hready] at hhere
  have hne : wordCauses st k ≠ [] := by
    intro hnil
    exact faultIn_ne_nil hact k 0 (by rw [faultIn, List.map_eq_nil_iff.mp hnil]; rfl)
  have hkind : k ≠ .ownership ∧ k ≠ .malformedMetadata := by
    rcases hi.cause with rfl | rfl | rfl <;> exact ⟨by decide, by decide⟩
  have htrap : (s.before {} { ends := true } st).takeTrap s.cur.1 s.cur.2 (faultIn st.active k) (st.after, 0) imm.toNat hcall =
      s2.entered s.cur.1 s.cur.2 { st with region := none } hyp (wordCauses st k) [] [] := by
    rw [State.takeTrap_eq (causes := wordCauses st k) (State.settle_noOps hops') hstrand (by rw [hops']; exact trapCauses_noOps _ _ _)
      hne (countTrap_uncounted hkind.1 hkind.2 _), hops']
    exact State.openFrame_enters hdepth hhyp (wordCauses_first hi.cause st) hwrite
  rw [hi.exec_eq]
  unfold trapInstr
  rw [issue_ready r (firstFault_noChecks _ _)]
  simp only [State.before_cur, State.awaitsLink_noOps hops', State.settle_noOps hops', State.hasFaults_noOps hops', htrap]
  rfl

end

/-! ### TRAP_ENTRY -/

theorem causeWord_detail {entry skid detail code : Nat} (hcode : code < 256) (hdetail : detail % 2 = 0) :
    (causeWord entry skid detail code).getLsbD 8 = false := by
  rw [causeWord, BitVec.getLsbD_ofNat, Nat.testBit_eq_decide_div_mod_eq]
  have heven : (entry * 2 ^ 24 + skid * 2 ^ 16 + detail * 2 ^ 8 + code) / 2 ^ 8 % 2 = 0 := by omega
  rw [heven]
  simp

theorem Cause.code_lt (k : Cause) : k.code < 256 := by cases k <;> decide

/-- The cause that TRAPCAUSE gives of a fault of the one operation of a strand. -/
def laneCause (st : Strand) (o : Op) (f : LaneFault) : Word :=
  causeWord (match ([o].filter fun o => isReplayed o.instr).findIdx? (· == o) with
    | some i => i
    | none => 31)
    (match o.instr with
    | .bar .. => 0
    | _ => min 15 (st.issued - o.serial - 1)) f.detail f.cause.code

/-- The causes of the faults of one operation: they name the lanes that faulted, and no detail of a second stage. -/
theorem trapCauses_one (st : Strand) (o : Op) (hf : ∀ f ∈ o.faults, f.lane < 64 ∧ f.detail % 2 = 0) :
    (∀ l, l ∈ (trapCauses st [o] []).map (·.1) ↔ l ∈ o.faults.map (·.lane)) ∧
    ∀ x ∈ trapCauses st [o] [], x.2.getLsbD 8 = false := by
  have hcause (x : Nat × Word) : x ∈ trapCauses st [o] [] ↔ ∃ l f, l < 64 ∧ o.faults.find? (fun f => f.lane == l) = some f ∧
      x = (l, laneCause st o f) := by
    unfold trapCauses
    rw [List.mem_filterMap]
    refine exists_congr fun l => ?_
    rw [List.mem_range]
    cases hfind : o.faults.find? (fun f => f.lane == l) with
    | none =>
      have hany : o.faults.any (fun f => f.lane == l) = false :=
        List.any_eq_false.mpr fun f hf => List.find?_eq_none.mp hfind f hf
      simp [hany]
    | some f =>
      have hany : o.faults.any (fun f => f.lane == l) = true :=
        List.any_eq_true.mpr ⟨f, List.mem_of_find?_eq_some hfind, List.find?_some (p := fun f : LaneFault => f.lane == l) hfind⟩
      simp only [List.find?_cons, hany, hfind, Option.some.injEq, exists_and_left, exists_eq_left']
      exact and_congr_right fun _ => eq_comm
  refine ⟨fun l => ⟨fun hl => ?_, fun hl => ?_⟩, fun x hx => ?_⟩
  · obtain ⟨x, hx, rfl⟩ := List.mem_map.mp hl
    obtain ⟨l, f, -, hfind, rfl⟩ := (hcause x).mp hx
    have hlane : f.lane = l := by simpa using List.find?_some (p := fun f : LaneFault => f.lane == l) hfind
    exact List.mem_map.mpr ⟨f, List.mem_of_find?_eq_some hfind, hlane⟩
  · obtain ⟨f, hmem, rfl⟩ := List.mem_map.mp hl
    cases hfind : o.faults.find? (fun y => y.lane == f.lane) with
    | none => exact absurd (beq_self_eq_true f.lane) (List.find?_eq_none.mp hfind f hmem)
    | some y => exact List.mem_map.mpr ⟨_, (hcause _).mpr ⟨f.lane, y, (hf f hmem).1, hfind, rfl⟩, rfl⟩
  · obtain ⟨l, f, -, hfind, rfl⟩ := (hcause x).mp hx
    exact causeWord_detail (Cause.code_lt _) (hf f (List.mem_of_find?_eq_some hfind)).2

theorem isPost_of_isReplayed {i : Instr} (h : isReplayed i = true) : isPost i = false := by
  cases i with
  | post a => exact Bool.noConfusion h
  | _ => rfl

section
variable {s s2 : State} {c sl : Nat} {st : Strand} {o : Op}

theorem execTrapEntry_enters (hst : s.strand? c sl = some st) (hops : (s.core c).ops = [o]) (hslot : o.slot = sl)
    (hgen : o.gen = (s.core c).gen sl) (hfaults : o.faults ≠ []) (htodo : o.todo = 0#64) (hrep : isReplayed o.instr = true)
    (hlatch : st.inLatch = false) (hdepth : st.depth ≤ 1) (hlink : s.awaitsLink c sl = false)
    (hf : ∀ f ∈ o.faults, f.lane < 64 ∧ f.detail % 2 = 0)
    (hwrite : s.writeFrame c sl st false st.point 0 (trapCauses st [o] []) [o] = (s2, .ok ())) :
    execTrapEntry c sl s = .next (s2.entered c sl st false (trapCauses st [o] []) [o] []) := by
  have hmine : (s.core c).strandOps sl = [o] := by
    simp [CoreSt.strandOps, hops, hslot, hgen]
  have hsettle : s.settle c sl = s := State.settle_settled fun y hy => by
    rw [hops, List.mem_singleton] at hy
    subst hy
    exact .inr ⟨htodo, hfaults⟩
  obtain ⟨hlanes, hbit⟩ := trapCauses_one st o hf
  have hne : trapCauses st [o] [] ≠ [] := by
    intro hnil
    obtain ⟨f, fs, hcons⟩ := List.exists_cons_of_ne_nil hfaults
    have hmem := (hlanes f.lane).mpr (List.mem_map_of_mem (by rw [hcons]; exact List.mem_cons_self))
    rw [hnil] at hmem
    simp at hmem
  have hkept : o.kept = false := by
    have hfence : (o.instr == .fence) = false := beq_eq_false_iff_ne.mpr (exec_isReplayed hrep).2.1
    rw [Op.kept, hfence, isPost_of_isReplayed hrep]
    rfl
  have hheld : heldNotes 0 [o] = [] := by
    simp [heldNotes, hkept]
  have hhas : s.hasFaults c sl = true := by
    simp [State.hasFaults, hmine, hfaults]
  have htrap : s.takeTrap c sl [] st.point = s2.entered c sl st false (trapCauses st [o] []) [o] [] := by
    rw [State.takeTrap_eq (causes := trapCauses st [o] []) hsettle hst (by rw [hmine]) hne rfl, hmine, hheld]
    simp only [List.filter_cons, hrep, if_true, List.filter_nil]
    refine State.openFrame_enters (by omega) ?_ ?_ hwrite
    · simp only [Bool.false_or]
      exact (beq_eq_false_iff_ne.mpr (by omega)).symm
    · exact List.any_eq_false.mpr fun x hx => by rw [hbit x hx, Bool.and_false]; exact Bool.false_ne_true
  simp only [execTrapEntry, hst, hhas, hlink, hlatch, htrap]
  rfl

theorem State.accessed_writeFrame (s : State) (c sl : Nat) (st : Strand) (hyp : Bool) (resume : DWord × Nat) (service : Nat)
    (causes : List (Nat × Word)) (entries : List Op) : s.Accessed (s.writeFrame c sl st hyp resume service causes entries).1 :=
  State.accessed_writeV _ _ _

theorem Strand.retire_stay (x : Strand) :
    x.retire .stay = { x with issued := x.issued + 1, stalled := 0, passed := 0, urgent := false } := by
  unfold Strand.retire
  cases x.clause <;> rfl

end

end Sys2Proof.Machine

section
open Sys2Proof Sys2Proof.Machine

/-- Settles O36: `trapInstr_enters` and `execTrapEntry_enters`, with `State.entered_left` for the strand that its handler finds. -/
theorem handlersEntered : Obligations.HandlersEntered := by
  unfold Obligations.HandlersEntered
  refine ⟨fun s s2 st imm i k hyp hi r hact hops hdepth hwrite => ?word, fun s s2 c sl st o hst hops hslot hgen hfaults htodo hrep hlatch
    hdepth hlink hf hwrite => ?entry⟩
  case word =>
    obtain ⟨hcall, hword, hhyp⟩ : ∃ hcall, isTrapWord i imm k hcall ∧ hyp = (hcall || st.depth + 1 == 3) := by
      have hthree : (st.depth + 1 == 3) = decide (st.depth = 2) := by
        rw [Bool.eq_iff_iff]
        simp
      rcases hi with ⟨rfl, rfl, rfl⟩ | ⟨rfl, rfl, rfl⟩ | ⟨rfl, rfl, rfl⟩
      · exact ⟨false, .inl ⟨rfl, rfl, rfl⟩, by rw [hthree, Bool.false_or]⟩
      · exact ⟨false, .inr (.inl ⟨rfl, rfl, rfl⟩), by rw [hthree, Bool.false_or]⟩
      · exact ⟨true, .inr (.inr ⟨rfl, rfl, rfl⟩), rfl⟩
    have haccess := (s.before {} { ends := true } st).accessed_writeFrame s.cur.1 s.cur.2 { st with region := none } hyp (st.after, 0)
      imm.toNat (wordCauses st k) []
    have hwritten : (s.before {} { ends := true } st).writeFrame s.cur.1 s.cur.2 { st with region := none } hyp (st.after, 0)
      imm.toNat (wordCauses st k) [] = (s2, .ok ()) := hwrite
    rw [hwritten] at haccess
    have hcore {β : Type} (p : CoreSt → β) (hp : ∀ k : CoreSt, p k.untranslated = p k)
        (hf : ∀ (k : CoreSt) fs, p { k with futures := fs } = p k) (hs : ∀ (k : CoreSt) x, p { k with slots := x } = p k) :
        p (s2.core s.cur.1) = p (s.core s.cur.1) :=
      (haccess.core p hp s.cur.1).trans (State.before_core p hf hs s _ _ _)
    have hnone : (s2.core s.cur.1).strandOps s.cur.2 = [] :=
      (hcore (fun k => k.strandOps s.cur.2) (fun _ => rfl) (fun _ _ => rfl) fun _ _ => rfl).trans hops
    obtain ⟨hstrand, -, hcur⟩ := s2.entered_left (c := s.cur.1) (sl := s.cur.2) (st := { st with region := none }) (hyp := hyp)
      (causes := wordCauses st k) (entries := []) (held := [])
    rw [hnone, enterHandler_congr (k := s.core s.cur.1) (hcore CoreSt.trapBase (fun _ => rfl) (fun _ _ => rfl) fun _ _ => rfl)
      (hcore CoreSt.hTrapBase (fun _ => rfl) (fun _ _ => rfl) fun _ _ => rfl)] at hstrand
    have hcur' : (s2.entered s.cur.1 s.cur.2 { st with region := none } hyp (wordCauses st k) [] []).cur = s.cur :=
      hcur.trans (haccess.cur.trans (State.before_cur _ _ _ _))
    refine ⟨_, _, trapInstr_enters hword r hact hops hdepth hhyp hwrite, State.retireWord_here (y := { enterHandler
      { st with region := none } (s.core s.cur.1) hyp (wordCauses st k) [] [] with inquiry := none }) ?_ _, ?_, ?_⟩
    · rw [State.here?, hcur']
      exact hstrand
    · rw [Strand.retire_stay]
      exact enterHandler_inHandler k [] []
    · rw [Strand.retire_stay]
      rfl
  case entry =>
    have haccess := s.accessed_writeFrame c sl st false st.point 0 (trapCauses st [o] []) [o]
    rw [hwrite] at haccess
    have hmine : (s2.core c).strandOps sl = [o] := by
      rw [haccess.core (fun k => k.strandOps sl) fun _ => rfl]
      simp [CoreSt.strandOps, hops, hslot, hgen]
    obtain ⟨hstrand, hleft, -⟩ := s2.entered_left (c := c) (sl := sl) (st := st) (hyp := false) (causes := trapCauses st [o] [])
      (entries := [o]) (held := [])
    rw [hmine] at hstrand
    have hframe : st.withKept [o] = { st with v := (keepResults o st).v } := writeResults_frame _ st
    refine ⟨_, _, execTrapEntry_enters hst hops hslot hgen hfaults htodo hrep hlatch hdepth hlink hf hwrite, hstrand,
      haccess.core CoreSt.trapBase (fun _ => rfl) c, rfl, ?_, ?_, ?_, rfl, ?_⟩
    · rw [hframe]
      rfl
    · rw [hframe]
      rfl
    · exact maskOf_eq fun l hl => ((trapCauses_one st o hf).1 l).trans (by rw [getLsbD_maskOf _ hl, decide_eq_true_eq])
    · rw [hleft, haccess.core CoreSt.ops fun _ => rfl, haccess.core (fun k => k.gen sl) fun _ => rfl, hops]
      simp [hslot, hgen]

end

end

section
/-! SUPPORT. Frames read back, and the returns from handlers (R308, R315). -/

namespace Sys2Proof.Machine

/-! ### Fields of a run of bytes -/

theorem natOf_bytesOf {n v : Nat} (h : v < 256 ^ n) : natOf (bytesOf n v) = v := by
  induction n generalizing v with
  | zero =>
    obtain rfl : v = 0 := by simpa using h
    rfl
  | succ n ih =>
    have hdiv : v / 256 < 256 ^ n := Nat.div_lt_of_lt_mul (by rwa [pow_succ, Nat.mul_comm] at h)
    rw [bytesOf, natOf, ih hdiv, BitVec.toNat_ofNat]
    omega

/-- The bytes of numbers one after another, each of so many bytes. -/
def fieldBytes (fs : List (Nat × Nat)) : List Byte := fs.flatMap fun f => bytesOf f.1 f.2

theorem length_fieldBytes (fs : List (Nat × Nat)) : (fieldBytes fs).length = (fs.map (·.1)).sum := by
  simp [fieldBytes, List.length_flatMap, bytesOf_length]

/-- A field of a run of bytes read back. -/
theorem natOf_fieldBytes {fs : List (Nat × Nat)} {tail : List Byte} {i n v : Nat} (h : fs[i]? = some (n, v)) (hv : v < 256 ^ n) :
    natOf (((fieldBytes fs ++ tail).drop ((fs.take i).map (·.1)).sum).take n) = v := by
  have hsplit : fs = fs.take i ++ (n, v) :: fs.drop (i + 1) := by
    obtain ⟨hlt, hget⟩ := List.getElem?_eq_some_iff.mp h
    rw [← hget, List.getElem_cons_drop, List.take_append_drop]
  have hbytes : fieldBytes fs ++ tail = fieldBytes (fs.take i) ++ (bytesOf n v ++ (fieldBytes (fs.drop (i + 1)) ++ tail)) := by
    conv_lhs => rw [hsplit]
    simp [fieldBytes]
  rw [hbytes, List.drop_left' (length_fieldBytes _), List.take_left' (bytesOf_length n v), natOf_bytesOf hv]

/-! ### The header of a frame (Table 13-3) -/

section
variable (st : Strand) (resume : DWord × Nat) (entries depth service : Nat) (lanes : LaneMask) (causes : List (Nat × Word))

/-- The fields of a frame before its causes. -/
def frameFields : List (Nat × Nat) :=
  [(8, resume.1.toNat), (1, resume.2), (1, entries), (1, st.mode.code), (1, depth), (2, service), (2, 0),
   (8, (st.kr 0).toNat), (8, (st.kr 1).toNat), (8, (st.kr 2).toNat), (8, (st.kr 3).toNat),
   (8, (st.gr 60).toNat), (8, (st.gr 61).toNat), (8, (st.gr 62).toNat), (8, (st.gr 63).toNat),
   (4, st.group.mode.toNat), (1, st.group.astat.toNat), (1, st.group.aten.toNat),
   (1, st.group.rstack.length), (1, st.group.lstack.length), (8, lanes.toNat)]

/-- The causes of a frame and its reserved bytes. -/
def frameCauses : List Byte :=
  (List.range 64).flatMap (fun l => bytesOf 4 (Assoc.get 0#32 causes l).toNat) ++ List.replicate 160 0#8

theorem frameBytes_eq : frameBytes st resume entries depth service lanes causes =
    fieldBytes (frameFields st resume entries depth service lanes) ++ frameCauses causes := by
  have hrange : List.range 4 = [0, 1, 2, 3] := rfl
  simp [frameBytes, fieldBytes, frameFields, frameCauses, hrange]

theorem length_frameBytes : (frameBytes st resume entries depth service lanes causes).length = 512 := by
  rw [frameBytes_eq, List.length_append, length_fieldBytes]
  simp [frameFields, frameCauses, List.length_flatMap, bytesOf_length]

variable {st resume entries depth service lanes causes}

/-- A field of a frame at its offset. -/
theorem natOf_frame {i o n v : Nat} (h : (frameFields st resume entries depth service lanes)[i]? = some (n, v))
    (ho : (((frameFields st resume entries depth service lanes).take i).map (·.1)).sum = o) (hv : v < 256 ^ n) :
    natOf (((frameBytes st resume entries depth service lanes causes).drop o).take n) = v := by
  rw [frameBytes_eq, ← ho]
  exact natOf_fieldBytes h hv

theorem natOf_frame_word {i o n w : Nat} {x : BitVec w}
    (h : (frameFields st resume entries depth service lanes)[i]? = some (n, x.toNat))
    (ho : (((frameFields st resume entries depth service lanes).take i).map (·.1)).sum = o) (hw : 2 ^ w ≤ 256 ^ n) :
    BitVec.ofNat w (natOf (((frameBytes st resume entries depth service lanes causes).drop o).take n)) = x := by
  rw [natOf_frame h ho (Nat.lt_of_lt_of_le x.isLt hw), BitVec.ofNat_toNat, BitVec.setWidth_eq]

end

/-! ### What a return gives back -/

theorem Priv.ofCode_code (p : Priv) : Priv.ofCode p.code = p := by cases p <;> rfl

theorem gr_setG_same (x : Strand) (n : Nat) (v : DWord) : (x.setG n v).gr n = v := Assoc.get_put_same _ _ _ _

theorem gr_setG_other (x : Strand) {n m : Nat} (v : DWord) (h : n ≠ m) : (x.setG n v).gr m = x.gr m := Assoc.get_put_other _ _ _ h

/-- k0 to k3 written one after another. -/
theorem kr_foldl_setK (f : Nat → DWord) (x : Strand) {i : Nat} (hi : i < 4) :
    ((List.range 4).foldl (fun x i => x.setK i (f i)) x).kr i = f i := by
  have hall : ∀ n, i < n → ((List.range n).foldl (fun x i => x.setK i (f i)) x).kr i = f i := by
    intro n
    induction n with
    | zero => intro h; omega
    | succ n ih =>
      intro h
      rw [List.range_succ, List.foldl_append, List.foldl_cons, List.foldl_nil]
      by_cases hn : n = i
      · rw [hn, kr_setK_same]
      · rw [kr_setK_other _ _ hn, ih (by omega)]
  exact hall 4 hi

theorem gr_foldl_setG (f : Nat → DWord) (x : Strand) {i : Nat} (hi : i < 4) :
    ((List.range 4).foldl (fun x i => x.setG (60 + i) (f i)) x).gr (60 + i) = f i := by
  have hall : ∀ n, i < n → ((List.range n).foldl (fun x i => x.setG (60 + i) (f i)) x).gr (60 + i) = f i := by
    intro n
    induction n with
    | zero => intro h; omega
    | succ n ih =>
      intro h
      rw [List.range_succ, List.foldl_append, List.foldl_cons, List.foldl_nil]
      by_cases hn : n = i
      · rw [hn, gr_setG_same]
      · rw [gr_setG_other _ _ (by omega), ih (by omega)]
  exact hall 4 hi

/-- The number of n bytes of a frame at an offset. -/
abbrev frameAt8 (bs : List Byte) (o n : Nat) : Nat := natOf ((bs.drop o).take n)

section
variable (st : Strand) (bs : List Byte) (under : Option (List Byte))

/-- A strand with k0 to k3 of a frame. -/
def Strand.withFrameK (st : Strand) (bs : List Byte) : Strand :=
  (List.range 4).foldl (fun x i => x.setK i (BitVec.ofNat 64 (frameAt8 bs (16 + 8 * i) 8))) st

/-- A strand with g60 to g63 of a frame. -/
def Strand.withFrameG (st : Strand) (bs : List Byte) : Strand :=
  (List.range 4).foldl (fun x i => x.setG (60 + i) (BitVec.ofNat 64 (frameAt8 bs (48 + 8 * i) 8))) st

/-- A part of the strand that no group-wide register belongs to. -/
theorem Strand.withFrame_keep {β : Type} (p : Strand → β) (hk : ∀ (x : Strand) n v, p (x.setK n v) = p x)
    (hg : ∀ (x : Strand) n v, p (x.setG n v) = p x) : p ((st.withFrameK bs).withFrameG bs) = p st := by
  refine (foldl_keep p (fun x i => x.setG (60 + i) (BitVec.ofNat 64 (frameAt8 bs (48 + 8 * i) 8))) (fun x i => hg x _ _) _ _).trans ?_
  exact foldl_keep p (fun x i => x.setK i (BitVec.ofNat 64 (frameAt8 bs (16 + 8 * i) 8))) (fun x i => hk x _ _) _ _

theorem Strand.withFrame_kr {i : Nat} (hi : i < 4) :
    ((st.withFrameK bs).withFrameG bs).kr i = BitVec.ofNat 64 (frameAt8 bs (16 + 8 * i) 8) := by
  refine (foldl_keep (fun x : Strand => x.kr i) (fun x i => x.setG (60 + i) (BitVec.ofNat 64 (frameAt8 bs (48 + 8 * i) 8)))
    (fun _ _ => rfl) _ _).trans ?_
  exact kr_foldl_setK (fun i => BitVec.ofNat 64 (frameAt8 bs (16 + 8 * i) 8)) st hi

theorem Strand.withFrame_gr {i : Nat} (hi : i < 4) :
    ((st.withFrameK bs).withFrameG bs).gr (60 + i) = BitVec.ofNat 64 (frameAt8 bs (48 + 8 * i) 8) :=
  gr_foldl_setG (fun i => BitVec.ofNat 64 (frameAt8 bs (48 + 8 * i) 8)) _ hi

/-- The causes that a frame of a depth holds. -/
def frameCausesRead (up : List Byte) : List (Nat × Word) :=
  (List.range 64).filterMap fun l =>
    let x := causeFields (BitVec.ofNat 32 (frameAt8 up (96 + 4 * l) 4))
    if x = 0#32 then none else some (l, x)

/-- The strand that a return leaves, field by field. -/
theorem returned_eq : returned st bs under = { (st.withFrameK bs).withFrameG bs with
    group := { ((st.withFrameK bs).withFrameG bs).group with
      mode := BitVec.ofNat 32 (frameAt8 bs 80 4)
      astat := BitVec.ofNat 5 (frameAt8 bs 84 1)
      aten := BitVec.ofNat 5 (frameAt8 bs 85 1)
      rstack := ((st.withFrameK bs).withFrameG bs).group.rstack.take (frameAt8 bs 86 1)
      lstack := ((st.withFrameK bs).withFrameG bs).group.lstack.take (frameAt8 bs 87 1) }
    mode := Priv.ofCode (frameAt8 bs 10 1)
    prevMode := Priv.ofCode (frameAt8 (under.getD []) 10 1)
    depth := ((st.withFrameK bs).withFrameG bs).depth - 1
    frames := ((st.withFrameK bs).withFrameG bs).frames.tail
    trapMask := BitVec.ofNat 64 (frameAt8 (under.getD []) 88 8)
    trapCause := frameCausesRead (under.getD [])
    clause := none
    pc := BitVec.ofNat 64 (frameAt8 bs 0 8)
    pcIdx := frameAt8 bs 8 1 % 8 } := rfl

end

/-! ### The frame of a strand read back -/

/-- What the bytes of a frame hold of the strand that a trap interrupted. -/
structure FrameOf (bs : List Byte) (st : Strand) (resume : DWord × Nat) : Prop where
  pc     : frameAt8 bs 0 8 = resume.1.toNat
  idx    : frameAt8 bs 8 1 = resume.2
  mode   : frameAt8 bs 10 1 = st.mode.code
  k      : ∀ i, i < 4 → frameAt8 bs (16 + 8 * i) 8 = (st.kr i).toNat
  g      : ∀ i, i < 4 → frameAt8 bs (48 + 8 * i) 8 = (st.gr (60 + i)).toNat
  word   : frameAt8 bs 80 4 = st.group.mode.toNat
  astat  : frameAt8 bs 84 1 = st.group.astat.toNat
  aten   : frameAt8 bs 85 1 = st.group.aten.toNat
  rstack : frameAt8 bs 86 1 = st.group.rstack.length
  lstack : frameAt8 bs 87 1 = st.group.lstack.length

section
variable {st : Strand} {resume : DWord × Nat} {entries depth service : Nat} {lanes : LaneMask} {causes : List (Nat × Word)}

theorem DWord.toNat_lt (x : DWord) : x.toNat < 256 ^ 8 := Nat.lt_of_lt_of_le x.isLt (by decide)

theorem frameBytes_k {i : Nat} (hi : i < 4) :
    frameAt8 (frameBytes st resume entries depth service lanes causes) (16 + 8 * i) 8 = (st.kr i).toNat := by
  have hfields : ∀ i, i < 4 → (frameFields st resume entries depth service lanes)[7 + i]? = some (8, (st.kr i).toNat) ∧
      (((frameFields st resume entries depth service lanes).take (7 + i)).map (·.1)).sum = 16 + 8 * i := by
    intro i hi
    interval_cases i <;> simp [frameFields]
  exact natOf_frame (hfields i hi).1 (hfields i hi).2 (DWord.toNat_lt _)

theorem frameBytes_g {i : Nat} (hi : i < 4) :
    frameAt8 (frameBytes st resume entries depth service lanes causes) (48 + 8 * i) 8 = (st.gr (60 + i)).toNat := by
  have hfields : ∀ i, i < 4 → (frameFields st resume entries depth service lanes)[11 + i]? = some (8, (st.gr (60 + i)).toNat) ∧
      (((frameFields st resume entries depth service lanes).take (11 + i)).map (·.1)).sum = 48 + 8 * i := by
    intro i hi
    interval_cases i <;> simp [frameFields]
  exact natOf_frame (hfields i hi).1 (hfields i hi).2 (DWord.toNat_lt _)

theorem frameBytes_mode : frameAt8 (frameBytes st resume entries depth service lanes causes) 10 1 = st.mode.code :=
  natOf_frame (i := 3) (by simp [frameFields]) (by simp [frameFields]) (by cases st.mode <;> decide)

theorem frameBytes_word : frameAt8 (frameBytes st resume entries depth service lanes causes) 80 4 = st.group.mode.toNat :=
  natOf_frame (i := 15) (by simp [frameFields]) (by simp [frameFields]) (Nat.lt_of_lt_of_le st.group.mode.isLt (by decide))

theorem frameBytes_astat : frameAt8 (frameBytes st resume entries depth service lanes causes) 84 1 = st.group.astat.toNat :=
  natOf_frame (i := 16) (by simp [frameFields]) (by simp [frameFields]) (Nat.lt_of_lt_of_le st.group.astat.isLt (by decide))

theorem frameBytes_aten : frameAt8 (frameBytes st resume entries depth service lanes causes) 85 1 = st.group.aten.toNat :=
  natOf_frame (i := 17) (by simp [frameFields]) (by simp [frameFields]) (Nat.lt_of_lt_of_le st.group.aten.isLt (by decide))

theorem frameBytes_rstack (hr : st.group.rstack.length ≤ 32) :
    frameAt8 (frameBytes st resume entries depth service lanes causes) 86 1 = st.group.rstack.length :=
  natOf_frame (i := 18) (by simp [frameFields]) (by simp [frameFields]) (by omega)

theorem frameBytes_lstack (hl : st.group.lstack.length ≤ 4) :
    frameAt8 (frameBytes st resume entries depth service lanes causes) 87 1 = st.group.lstack.length :=
  natOf_frame (i := 19) (by simp [frameFields]) (by simp [frameFields]) (by omega)

theorem frameBytes_pc : frameAt8 (frameBytes st resume entries depth service lanes causes) 0 8 = resume.1.toNat :=
  natOf_frame (i := 0) (by simp [frameFields]) (by simp [frameFields]) (DWord.toNat_lt resume.1)

theorem frameBytes_idx (hidx : resume.2 < 8) :
    frameAt8 (frameBytes st resume entries depth service lanes causes) 8 1 = resume.2 := natOf_frame (i := 1) (by simp [frameFields]) (by simp [frameFields]) (by omega)

theorem frameBytes_frameOf (hidx : resume.2 < 8) (hr : st.group.rstack.length ≤ 32) (hl : st.group.lstack.length ≤ 4) :
    FrameOf (frameBytes st resume entries depth service lanes causes) st resume :=
  ⟨frameBytes_pc, frameBytes_idx hidx, frameBytes_mode, fun _ => frameBytes_k, fun _ => frameBytes_g, frameBytes_word, frameBytes_astat,
    frameBytes_aten, frameBytes_rstack hr, frameBytes_lstack hl⟩

theorem frameBytes_entries (h : entries < 32) :
    frameAt8 (frameBytes st resume entries depth service lanes causes) 9 1 = entries := natOf_frame (i := 2) (by simp [frameFields]) (by simp [frameFields]) (by omega)

theorem frameBytes_service (h : service < 65536) :
    frameAt8 (frameBytes st resume entries depth service lanes causes) 12 2 = service := natOf_frame (i := 5) (by simp [frameFields]) (by simp [frameFields]) (by omega)

end

theorem ofNat_of_toNat {w n : Nat} {x : BitVec w} (h : n = x.toNat) : BitVec.ofNat w n = x := by
  rw [h, BitVec.ofNat_toNat, BitVec.setWidth_eq]

/-- A return from a frame gives back what entry replaced. -/
theorem FrameOf.returned {bs : List Byte} {st y : Strand} {resume : DWord × Nat} (h : FrameOf bs st resume) (hidx : resume.2 < 8)
    (hdepth : y.depth = st.depth + 1) (hr : y.group.rstack = st.group.rstack) (hl : y.group.lstack = st.group.lstack) :
    (returned y bs none).pc = resume.1 ∧ (returned y bs none).pcIdx = resume.2 ∧ (returned y bs none).mode = st.mode ∧
    (returned y bs none).depth = st.depth ∧
    (∀ i, i < 4 → (returned y bs none).kr i = st.kr i ∧ (returned y bs none).gr (60 + i) = st.gr (60 + i)) ∧
    (returned y bs none).group.mode = st.group.mode ∧ (returned y bs none).group.astat = st.group.astat ∧
    (returned y bs none).group.aten = st.group.aten ∧ (returned y bs none).group.rstack = st.group.rstack ∧
    (returned y bs none).group.lstack = st.group.lstack := by
  rw [returned_eq]
  have hpc : BitVec.ofNat 64 (frameAt8 bs 0 8) = resume.1 := ofNat_of_toNat h.pc
  have hword : BitVec.ofNat 32 (frameAt8 bs 80 4) = st.group.mode := ofNat_of_toNat h.word
  have hastat : BitVec.ofNat 5 (frameAt8 bs 84 1) = st.group.astat := ofNat_of_toNat h.astat
  have haten : BitVec.ofNat 5 (frameAt8 bs 85 1) = st.group.aten := ofNat_of_toNat h.aten
  have hidx' : frameAt8 bs 8 1 % 8 = resume.2 := by rw [h.idx, Nat.mod_eq_of_lt hidx]
  have hmode : Priv.ofCode (frameAt8 bs 10 1) = st.mode := by rw [h.mode, Priv.ofCode_code]
  have hdepth' : ((y.withFrameK bs).withFrameG bs).depth - 1 = st.depth := by
    rw [Strand.withFrame_keep y bs Strand.depth (fun _ _ _ => rfl) fun _ _ _ => rfl, hdepth, Nat.add_sub_cancel]
  have hr' : ((y.withFrameK bs).withFrameG bs).group.rstack.take (frameAt8 bs 86 1) = st.group.rstack := by
    rw [Strand.withFrame_keep y bs (fun x => x.group.rstack) (fun _ _ _ => rfl) fun _ _ _ => rfl, hr, h.rstack, List.take_length]
  have hl' : ((y.withFrameK bs).withFrameG bs).group.lstack.take (frameAt8 bs 87 1) = st.group.lstack := by
    rw [Strand.withFrame_keep y bs (fun x => x.group.lstack) (fun _ _ _ => rfl) fun _ _ _ => rfl, hl, h.lstack, List.take_length]
  have hregs (i : Nat) (hi : i < 4) : ((y.withFrameK bs).withFrameG bs).kr i = st.kr i ∧
      ((y.withFrameK bs).withFrameG bs).gr (60 + i) = st.gr (60 + i) :=
    ⟨(Strand.withFrame_kr y bs hi).trans (ofNat_of_toNat (h.k i hi)), (Strand.withFrame_gr y bs hi).trans (ofNat_of_toNat (h.g i hi))⟩
  generalize (y.withFrameK bs).withFrameG bs = w at hdepth' hr' hl' hregs ⊢
  exact ⟨hpc, hidx', hmode, hdepth', hregs, hword, hastat, haten, hr', hl'⟩

/-! ### SRET and HRET -/

section
variable {s s1 s2 : State} {st : Strand} {i : Instr} {note : FrameNote} {bs : List Byte}

theorem execReturn_eq (hi : i = .sret ∨ i = .hret) (s : State) : exec i s = returnWord i s := by
  rcases hi with rfl | rfl <;> rfl

/-- A return once no operation is in flight, or with no frame open. -/
theorem returnWord_returns (r : Ready i {} { always := true } st s) (h : st.frames = [] ∨ (s.core s.cur.1).strandOps s.cur.2 = []) :
    returnWord i s = .next (((s.before {} { always := true } st).returnTrap st).retireWord .stay) := by
  have hops : ((s.before {} { always := true } st).core s.cur.1).strandOps s.cur.2 = (s.core s.cur.1).strandOps s.cur.2 :=
    State.before_core (fun k => k.strandOps s.cur.2) (fun _ _ => rfl) (fun _ _ => rfl) s _ _ _
  have hgo : (!st.frames.isEmpty && !((s.core s.cur.1).strandOps s.cur.2).isEmpty) = false := by
    rcases h with h | h <;> simp [h]
  unfold returnWord
  rw [issue_ready r (firstFault_noChecks _ _)]
  simp only [State.before_cur, hops, hgo]
  rfl

theorem State.putHeld_core {β : Type} (p : CoreSt → β) (h : ∀ (k : CoreSt) x, p { k with ops := x } = p k) (t : State) (c sl n : Nat)
    (held : List HeldNote) (j : Nat) : p ((t.putHeld c sl n held).core j) = p (t.core j) := by
  refine foldl_keep (fun t : State => p (t.core j)) _ (fun t f => ?_) _ _
  split
  · split
    · rfl
    · exact State.core_modCore_keep p _ _ (fun k => h k _) j
  · rfl

theorem State.putHeld_cur (t : State) (c sl n : Nat) (held : List HeldNote) : (t.putHeld c sl n held).cur = t.cur := by
  refine foldl_keep State.cur _ (fun t f => ?_) _ _
  split
  · split
    · rfl
    · rfl
  · rfl

/-- The bindings of g60 to g63 ended. -/
def State.unbindTop (t : State) (c : Nat) (lineage : DWord) : State :=
  [60, 61, 62, 63].foldl (fun t g => t.modCore c fun k => k.unbind lineage g) t

/-- The header of the frame below, where one is open. -/
def State.readUnder (s : State) (w : Who) (k : CoreSt) (sl depth : Nat) : List FrameNote → State × Except Fail (Option (List Byte))
  | [] => (s, .ok none)
  | o :: _ => match s.readV w (k.frameAt o.hyp sl (depth - 1)) 512 with
    | (s, .ok b) => (s, .ok (some b))
    | (s, .error f) => (s, .error f)

/-- A return from a frame without replay entries that interrupted no wait. -/
theorem State.returnTrap_returns {older : List FrameNote} {up : Option (List Byte)} (s : State) (hframes : st.frames = note :: older)
    (hwait : note.wait = .none)
    (hread : s.readFrame (st.who s.cur.1) ((s.core s.cur.1).frameAt note.hyp s.cur.2 st.depth) = (s1, .ok bs))
    (hnone : natOf ((bs.drop 9).take 1) = 0)
    (hup : s1.readUnder (st.who s.cur.1) (s.core s.cur.1) s.cur.2 st.depth older = (s2, .ok up)) :
    s.returnTrap st = ((s2.setStrand s.cur.1 s.cur.2 { Machine.returned st bs up with wait := .none }).unbindTop s.cur.1
      st.lineage).putHeld s.cur.1 s.cur.2 0 note.held := by
  unfold State.returnTrap
  dsimp only
  rw [hframes]
  dsimp only
  rw [hread]
  dsimp only
  cases older with
  | nil =>
    obtain ⟨rfl, hnoneUp⟩ := Prod.mk.inj hup
    obtain rfl := Except.ok.inj hnoneUp
    dsimp only
    rw [hnone, Nat.min_zero, List.range_zero, List.map_nil, hwait]
    rfl
  | cons o older =>
    rw [State.readUnder] at hup
    cases hb : s1.readV (st.who s.cur.1) ((s.core s.cur.1).frameAt o.hyp s.cur.2 (st.depth - 1)) 512 with
    | mk t r =>
      rw [hb] at hup
      cases r with
      | error f => simp at hup
      | ok b =>
        obtain ⟨rfl, hb'⟩ := Prod.mk.inj hup
        obtain rfl := Except.ok.inj hb'
        dsimp only
        rw [hb]
        dsimp only
        rw [hnone, Nat.min_zero, List.range_zero, List.map_nil, hwait]
        rfl

/-- The strand that such a return leaves. -/
theorem returned_here {t : State} {c sl : Nat} {x : Strand} {lineage : DWord} {held : List HeldNote} (hcur : t.cur = (c, sl)) :
    (((t.setStrand c sl x).unbindTop c lineage).putHeld c sl 0 held).here? = some x := by
  have hunbind (k : CoreSt) (g : Nat) : (k.unbind lineage g).slots = k.slots := CoreSt.unbind_keep CoreSt.slots (fun _ _ => rfl) _ _ _
  have hslots (u : State) (j : Nat) : ((u.unbindTop c lineage).core j).slots = (u.core j).slots :=
    foldl_keep (fun t : State => (t.core j).slots) _ (fun t g => State.core_modCore_keep CoreSt.slots t c (fun k => hunbind k g) j) _ _
  have hkept (u : State) : (u.unbindTop c lineage).cur = u.cur :=
    foldl_keep State.cur (fun t g => t.modCore c fun k => k.unbind lineage g) (fun _ _ => rfl) _ _
  rw [State.here?, State.putHeld_cur, hkept, State.setStrand_cur, hcur,
    State.strand?_congr (State.putHeld_core CoreSt.slots (fun _ _ => rfl) _ _ _ _ _), State.strand?_congr (hslots _), State.strand?_setStrand]

theorem State.accessed_readFrame (s : State) (w : Who) (addr : Nat) : s.Accessed (s.readFrame w addr).1 := by
  have hhead := State.accessed_readV (s := s) w addr 512 .read
  unfold State.readFrame
  split
  next t f h => rwa [h] at hhead
  next t bs h =>
    rw [h] at hhead
    have hrest := State.accessed_readV (s := t) w (addr + 512) (4672 * min 16 (natOf ((bs.drop 9).take 1))) .read
    split
    next u f h' =>
      rw [h'] at hrest
      exact hhead.trans hrest
    next u es h' =>
      rw [h'] at hrest
      exact hhead.trans hrest

/-- What a return leaves of the strand: the resume point and the mode of its frame, the mode before and TRAPMASK of the frame below,
and the registers of its lanes. -/
theorem returned_fields (st : Strand) (bs : List Byte) (up : Option (List Byte)) :
    let x := Strand.retire { Machine.returned st bs up with wait := .none } .stay
    x.pc = BitVec.ofNat 64 (natOf (bs.take 8)) ∧ x.mode = Priv.ofCode (natOf ((bs.drop 10).take 1)) ∧
    x.prevMode = Priv.ofCode (natOf (((up.getD []).drop 10).take 1)) ∧ x.depth = st.depth - 1 ∧ x.frames = st.frames.tail ∧
    x.trapMask = BitVec.ofNat 64 (natOf (((up.getD []).drop 88).take 8)) ∧ x.clause = none ∧ x.v = st.v ∧ x.p = st.p ∧
    x.flags = st.flags := by
  intro x
  have hx : x = Strand.retire { Machine.returned st bs up with wait := .none } .stay := rfl
  rw [Strand.retire_stay, returned_eq] at hx
  rw [hx]
  have hkeep {β : Type} (p : Strand → β) (hk : ∀ (x : Strand) n v, p (x.setK n v) = p x) (hg : ∀ (x : Strand) n v, p (x.setG n v) = p x) :
      p ((st.withFrameK bs).withFrameG bs) = p st := Strand.withFrame_keep st bs p hk hg
  refine ⟨rfl, rfl, rfl, ?_, ?_, rfl, rfl, ?_, ?_, ?_⟩
  · exact congrArg (· - 1) (hkeep Strand.depth (fun _ _ _ => rfl) fun _ _ _ => rfl)
  · exact congrArg List.tail (hkeep Strand.frames (fun _ _ _ => rfl) fun _ _ _ => rfl)
  · exact hkeep Strand.v (fun _ _ _ => rfl) fun _ _ _ => rfl
  · exact hkeep Strand.p (fun _ _ _ => rfl) fun _ _ _ => rfl
  · exact hkeep Strand.flags (fun _ _ _ => rfl) fun _ _ _ => rfl

end

end Sys2Proof.Machine

section
open Sys2Proof Sys2Proof.Machine

/-- Settles O37: the frame read back field by field (`FrameOf.returned`), and `State.returnTrap_returns` for the returns. -/
theorem returnsFromHandlers : Obligations.ReturnsFromHandlers := by
  unfold Obligations.ReturnsFromHandlers
  refine ⟨fun st k hyp resume entries service causes hidx hent hdepth hserv hr hl => ?frame, fun s s1 st i note bs hi r =>
    ⟨fun hops hframes hwait hread hnone => ?last, fun s2 o older up hops hframes hwait hread hnone hup => ?inner, fun hframes => ?none⟩⟩
  case frame =>
    have hof := frameBytes_frameOf (st := st) (resume := resume) (entries := entries) (depth := st.depth + 1) (service := service)
      (lanes := maskOf (causes.map (·.1))) (causes := causes) hidx hr hl
    exact ⟨length_frameBytes _ _ _ _ _ _ _, hof.pc, hof.idx, frameBytes_entries hent, frameBytes_service hserv,
      hof.returned hidx rfl rfl rfl⟩
  case last =>
    have hcur1 (note : FrameNote) (hread : (s.before {} { always := true } st).readFrame (st.who s.cur.1)
        ((s.core s.cur.1).frameAt note.hyp s.cur.2 st.depth) = (s1, .ok bs)) : s1.cur = s.cur := by
      have haccess := (s.before {} { always := true } st).accessed_readFrame (st.who s.cur.1)
        ((s.core s.cur.1).frameAt note.hyp s.cur.2 st.depth)
      rw [hread] at haccess
      exact haccess.cur.trans (State.before_cur _ _ _ _)
    have hframe (hyp : Bool) (depth : Nat) : ((s.before {} { always := true } st).core s.cur.1).frameAt hyp s.cur.2 depth =
        (s.core s.cur.1).frameAt hyp s.cur.2 depth :=
      State.before_core (fun k => k.frameAt hyp s.cur.2 depth) (fun _ _ => rfl) (fun _ _ => rfl) s _ _ _
    have hread' : (s.before {} { always := true } st).readFrame (st.who (s.before {} { always := true } st).cur.1)
        (((s.before {} { always := true } st).core (s.before {} { always := true } st).cur.1).frameAt note.hyp
          (s.before {} { always := true } st).cur.2 st.depth) = (s1, .ok bs) := by
      rw [State.before_cur, hframe]
      exact hread
    have hcur := hcur1 note hread
    have hreturn := State.returnTrap_returns (up := none) _ hframes hwait hread' hnone rfl
    rw [State.before_cur] at hreturn
    obtain ⟨hpc, hmode, -, hdepth, hfr, hmask, hclause, hv, hp, hfl⟩ := returned_fields st bs none
    refine ⟨_, _, (execReturn_eq hi s).trans (returnWord_returns r (.inr hops)), ?_, hpc, hmode, hdepth, ?_, hmask, hclause, hv, hp, hfl⟩
    · rw [hreturn]
      exact State.retireWord_here (returned_here hcur) _
    · rw [hfr, hframes]
      rfl
  case inner =>
    have hcur1 (note : FrameNote) (hread : (s.before {} { always := true } st).readFrame (st.who s.cur.1)
        ((s.core s.cur.1).frameAt note.hyp s.cur.2 st.depth) = (s1, .ok bs)) : s1.cur = s.cur := by
      have haccess := (s.before {} { always := true } st).accessed_readFrame (st.who s.cur.1)
        ((s.core s.cur.1).frameAt note.hyp s.cur.2 st.depth)
      rw [hread] at haccess
      exact haccess.cur.trans (State.before_cur _ _ _ _)
    have hframe (hyp : Bool) (depth : Nat) : ((s.before {} { always := true } st).core s.cur.1).frameAt hyp s.cur.2 depth =
        (s.core s.cur.1).frameAt hyp s.cur.2 depth :=
      State.before_core (fun k => k.frameAt hyp s.cur.2 depth) (fun _ _ => rfl) (fun _ _ => rfl) s _ _ _
    have hread' : (s.before {} { always := true } st).readFrame (st.who (s.before {} { always := true } st).cur.1)
        (((s.before {} { always := true } st).core (s.before {} { always := true } st).cur.1).frameAt note.hyp
          (s.before {} { always := true } st).cur.2 st.depth) = (s1, .ok bs) := by
      rw [State.before_cur, hframe]
      exact hread
    have hup' : s1.readUnder (st.who (s.before {} { always := true } st).cur.1)
        ((s.before {} { always := true } st).core (s.before {} { always := true } st).cur.1)
        (s.before {} { always := true } st).cur.2 st.depth (o :: older) = (s2, .ok (some up)) := by
      rw [State.before_cur, State.readUnder, hframe, hup]
    have hcur : s2.cur = s.cur := by
      have haccess := s1.accessed_readV (st.who s.cur.1) ((s.core s.cur.1).frameAt o.hyp s.cur.2 (st.depth - 1)) 512 .read
      rw [hup] at haccess
      exact haccess.cur.trans (hcur1 note hread)
    have hreturn := State.returnTrap_returns (up := some up) _ hframes hwait hread' hnone hup'
    rw [State.before_cur] at hreturn
    obtain ⟨hpc, hmode, hprev, hdepth, hfr, hmask, hclause, hv, hp, hfl⟩ := returned_fields st bs (some up)
    refine ⟨_, _, (execReturn_eq hi s).trans (returnWord_returns r (.inr hops)), ?_, hpc, hmode, hprev, hdepth, ?_, hmask, hclause, hv, hp,
      hfl⟩
    · rw [hreturn]
      exact State.retireWord_here (returned_here hcur) _
    · rw [hfr, hframes]
      rfl
  case none =>
    refine (execReturn_eq hi s).trans ((returnWord_returns r (.inl hframes)).trans ?_)
    rw [State.returnTrap, hframes]

end

end

section
/-! SUPPORT. Tables: what a counter, an entry and a row change of one leave of it, the ordered indexes of one leaf (R163-R165),
and a table of the state replaced. -/

namespace Sys2Proof.Machine

/-! ### A table of the state -/

/-- A table is usable when its number names it and its kind takes the operation. -/
theorem State.usable_some {s : State} {h : DWord} {b : Bool} {x : Table} (hx : s.usable h b = some x) :
    Assoc.find s.tables (hNumber h) = some x ∧ kindTakes x.desc.kind b = true := by
  unfold State.usable at hx
  split at hx
  · simp at hx
  · cases ht : Assoc.find s.tables (hNumber h) with
    | none => simp [ht] at hx
    | some t =>
      simp only [ht, Option.ite_none_right_eq_some, Option.some.injEq, Bool.and_eq_true] at hx
      obtain ⟨⟨-, hk⟩, rfl⟩ := hx
      exact ⟨rfl, hk⟩

theorem State.usable_find {s : State} {h : DWord} {b : Bool} {x : Table} (hx : s.usable h b = some x) :
    Assoc.find s.tables (hNumber h) = some x :=
  (State.usable_some hx).1

/-- Index operations other than lookups are those of indexed tables (Table 7-1). -/
theorem State.usable_kind {s : State} {h : DWord} {x : Table} (hx : s.usable h false = some x) : x.desc.kind = 2 := by
  simpa [kindTakes] using (State.usable_some hx).2

theorem State.modTable_eq {s : State} {n : Nat} {x : Table} (hx : Assoc.find s.tables n = some x) (f : Table → Table) :
    s.modTable n f = { s with tables := Assoc.set s.tables n (f x) } := by
  simp [State.modTable, hx]

theorem State.find_modTable {s : State} {n : Nat} {x : Table} (hx : Assoc.find s.tables n = some x) (f : Table → Table) :
    Assoc.find (s.modTable n f).tables n = some (f x) := by
  rw [State.modTable_eq hx]; exact Assoc.find_set_same _ _ _

theorem State.modTable_keep {β : Type} (p : State → β) (hp : ∀ (s : State) ts, p { s with tables := ts } = p s) (s : State)
    (n : Nat) (f : Table → Table) : p (s.modTable n f) = p s := by
  unfold State.modTable
  split
  · exact hp _ _
  · rfl

@[simp] theorem State.modTable_memory (s : State) (n : Nat) (f : Table → Table) : (s.modTable n f).mem = s.mem :=
  State.modTable_keep State.mem (fun _ _ => rfl) s n f

theorem State.find_modTable_other {s : State} {n m : Nat} (h : n ≠ m) (f : Table → Table) :
    Assoc.find (s.modTable n f).tables m = Assoc.find s.tables m := by
  unfold State.modTable
  split
  · exact Assoc.find_set_other _ _ h
  · rfl

/-! ### Counters -/

theorem Table.count_keep {β : Type} (p : Table → β) (hp : ∀ (t : Table) cs, p { t with counters := cs } = p t) (t : Table)
    (k n : Nat) : p (t.count k n) = p t := by
  unfold Table.count
  split
  · rfl
  · exact hp _ _

theorem Table.tally_keep {β : Type} (p : Table → β) (hp : ∀ (t : Table) cs, p { t with counters := cs } = p t) (t : Table)
    (x : Tally) : p (t.tally x) = p t := by
  simp only [Table.tally, Table.count_keep p hp]

@[simp] theorem Table.count_rows (t : Table) (k n : Nat) : (t.count k n).rows = t.rows :=
  Table.count_keep Table.rows (fun _ _ => rfl) t k n
@[simp] theorem Table.count_desc (t : Table) (k n : Nat) : (t.count k n).desc = t.desc :=
  Table.count_keep Table.desc (fun _ _ => rfl) t k n
@[simp] theorem Table.count_index (t : Table) (k n i : Nat) : (t.count k n).index i = t.index i :=
  Table.count_keep (fun t => t.index i) (fun _ _ => rfl) t k n
@[simp] theorem Table.count_rowAt (t : Table) (k n r : Nat) : (t.count k n).rowAt r = t.rowAt r :=
  Table.count_keep (fun t => t.rowAt r) (fun _ _ => rfl) t k n

theorem Table.counter_count (t : Table) (k : Nat) :
    Assoc.get 0#64 (t.count k).counters k = Assoc.get 0#64 t.counters k + 1#64 := by
  simp [Table.count, Assoc.get_put_same]

end Sys2Proof.Machine

section
open Sys2Proof Sys2Proof.Machine

/-- LKP of an indexed table answers from the index that the handle selects, its table counted. -/
theorem State.performLkp_indexed {s : State} {c : Nat} {o : Op} {l : Nat} {t : Table}
    (hu : s.usable (o.gvals.getD 2 0#64) true = some t) (hk : t.desc.kind = 2) :
    s.performLkp c o l = (s.modTable (hNumber (o.gvals.getD 2 0#64)) fun t => t.count 0,
      .done (refWords (t.lookup (hSelector (o.gvals.getD 2 0#64)) (o.pair l 0)))) := by
  simp only [State.performLkp, hu, hk]
  rfl

/-- The lookup of an indexed table is the reference of the first entry of the key, or 0. -/
theorem Table.lookup_indexed {t : Table} (hk : t.desc.kind = 2) (sel key : Nat) :
    t.lookup sel key = match (t.index sel).find? fun e => e.key == key with
      | some e => e.ref
      | none => 0 := by
  simp only [Table.lookup, hk, firstOf]
  cases (t.index sel).find? fun e => e.key == key <;> rfl

/-- Settles O31: the lookup of an indexed table is that of its index; without a usable table the lane meets *stale handle*. -/
theorem tableLookups : Obligations.TableLookups := by
  unfold Obligations.TableLookups
  refine ⟨fun s c o l t => ?_, fun s c o l => ?_⟩
  · intro h hu hk
    have hp := State.performLkp_indexed (c := c) (l := l) hu hk
    refine ⟨?_, ?_, ?_⟩
    · rw [hp, Table.lookup_indexed hk] <;>
        cases (t.index (hSelector h)).find? fun e => e.key == o.pair l 0 <;> rfl
    · rw [hp]; exact State.modTable_memory _ _ _
    · rw [hp]; exact State.find_modTable (State.usable_find hu) _
  · intro h
    exact ⟨fun hu => by simp only [h] at hu; simp only [State.performLkp, hu],
      fun hu => by simp only [h] at hu; simp only [State.performIndex, hu]⟩

end
end

section
/-! SUPPORT. The indexes of a table under the insertion and removal of an entry (R163-R165): of ordered indexes of one leaf the
whole list, of any tree what an insertion adds. -/

namespace Sys2Proof.Machine

/-! ### Trees -/

/-- A tree of one leaf, or of none. -/
def Tree.isLeaf (t : Tree) : Prop := t.levels = [] ∧ t.leaves.length ≤ 1

theorem mem_insertEntry (e y : Entry) (xs : List Entry) : y ∈ insertEntry e xs ↔ y = e ∨ y ∈ xs := by
  induction xs with
  | nil => simp [insertEntry]
  | cons x xs ih =>
    unfold insertEntry
    split
    · simp
    · simp only [List.mem_cons, ih]; tauto

/-- The leaf that a tree of one leaf is. -/
theorem Tree.isLeaf.leaves_cases {t : Tree} (h : t.isLeaf) : t.leaves = [] ∨ ∃ l, t.leaves = [l] := by
  obtain ⟨-, hl⟩ := h
  match ht : t.leaves with
  | [] => exact .inl rfl
  | [l] => exact .inr ⟨l, rfl⟩
  | _ :: _ :: _ => rw [ht] at hl; simp at hl

theorem Tree.isLeaf.entries_insert {t : Tree} (h : t.isLeaf) (c : Nat) (e : Entry) :
    (t.insert c e).1.entries = insertEntry e t.entries := by
  have hd : descend e t.levels.reverse 0 = 0 := by rw [h.1]; rfl
  unfold Tree.insert
  rw [hd]
  obtain hl | ⟨l, hl⟩ := h.leaves_cases
  · simp only [hl, List.isEmpty_nil, if_true, Tree.entries, List.flatten_nil]
    split <;> simp [splitAt2]
  · simp only [hl, List.isEmpty_cons, Bool.false_eq_true, if_false, Tree.entries]
    split <;> simp [splitAt2]

theorem Tree.isLeaf.delete {t : Tree} (h : t.isLeaf) (c : Nat) (e : Entry) :
    (t.delete c e).1.isLeaf ∧ (t.delete c e).1.entries = t.entries.filter (· != e) := by
  have hd : descend e t.levels.reverse 0 = 0 := by rw [h.1]; rfl
  unfold Tree.delete
  rw [hd, h.1]
  obtain hl | ⟨l, hl⟩ := h.leaves_cases <;> simp [Tree.isLeaf, Tree.entries, hl]

/-- Replacing a member of a list of lists replaces its entries. -/
theorem mem_flatten_set {ls : List (List Entry)} {i : Nat} (hi : i < ls.length) (xs : List Entry) (y : Entry) :
    y ∈ (ls.set i xs).flatten ↔ y ∈ (ls.take i).flatten ∨ y ∈ xs ∨ y ∈ (ls.drop (i + 1)).flatten := by
  rw [List.set_eq_take_append_cons_drop, if_pos hi]
  simp only [List.flatten_append, List.flatten_cons, List.mem_append]

theorem mem_flatten_at {ls : List (List Entry)} {i : Nat} (hi : i < ls.length) (y : Entry) :
    y ∈ ls.flatten ↔ y ∈ (ls.take i).flatten ∨ y ∈ ls.getD i [] ∨ y ∈ (ls.drop (i + 1)).flatten := by
  have h := mem_flatten_set hi ls[i] y
  rwa [List.set_getElem_self, ← List.getD_eq_getElem ls [] hi] at h

theorem Tree.mem_insert {c : Nat} {t : Tree} {e : Entry} (h : descend e t.levels.reverse 0 < max 1 t.leaves.length) (y : Entry) :
    y ∈ (t.insert c e).1.entries ↔ y = e ∨ y ∈ t.entries := by
  have hflat : (if t.leaves.isEmpty then [[]] else t.leaves).flatten = t.leaves.flatten := by
    split
    · next he => rw [List.isEmpty_iff.mp he]; rfl
    · rfl
  have hlen : descend e t.levels.reverse 0 < (if t.leaves.isEmpty then [[]] else t.leaves).length := by
    split
    · next he => rw [List.isEmpty_iff.mp he] at h; simpa using h
    · next he =>
      have : 0 < t.leaves.length := List.length_pos_iff.mpr fun hn => he (List.isEmpty_iff.mpr hn)
      omega
  simp only [Tree.entries, Tree.insert]
  rw [← hflat]
  generalize (if t.leaves.isEmpty then [[]] else t.leaves) = ls at hlen ⊢
  generalize descend e t.levels.reverse 0 = i at hlen ⊢
  rw [mem_flatten_at hlen]
  have hins := mem_insertEntry e y (ls.getD i [])
  split
  · rw [mem_flatten_set hlen, hins]; tauto
  · have hsplit : y ∈ insertEntry e (ls.getD i []) ↔ y ∈ (insertEntry e (ls.getD i [])).take ((c + 2) / 2) ∨
        y ∈ (insertEntry e (ls.getD i [])).drop ((c + 2) / 2) := by
      rw [← List.mem_append, List.take_append_drop]
    simp only [splitAt2, List.flatten_append, List.flatten_cons, List.flatten_nil, List.append_nil, List.mem_append]
    tauto

/-! ### The entries of an index of a table -/

/-- Index i of a table is of one leaf, if it is ordered. -/
def Table.leafAt (t : Table) (i : Nat) : Prop :=
  match i with
  | 0 => True
  | 1 => t.prim.isLeaf
  | 2 => t.sec2.isLeaf
  | _ => t.sec3.isLeaf

theorem Table.oneLeaf.leafAt {t : Table} (h : t.oneLeaf) (i : Nat) : t.leafAt i := by
  match i with
  | 0 => trivial
  | 1 => exact h _ (by simp)
  | 2 => exact h _ (by simp)
  | n + 3 => exact h _ (by simp)

theorem Table.addEntry_keep {β : Type} (p : Table → β) (hc : ∀ (t : Table) cs, p { t with counters := cs } = p t)
    (h0 : ∀ (t : Table) x, p { t with hash := x } = p t) (h1 : ∀ (t : Table) x, p { t with prim := x } = p t)
    (h2 : ∀ (t : Table) x, p { t with sec2 := x } = p t) (h3 : ∀ (t : Table) x, p { t with sec3 := x } = p t)
    (t : Table) (i : Nat) (e : Entry) : p (t.addEntry i e) = p t := by
  unfold Table.addEntry
  split
  · rfl
  · split
    · exact h0 _ _
    · exact (Table.tally_keep p hc _ _).trans (h1 _ _)
    · exact (Table.tally_keep p hc _ _).trans (h2 _ _)
    · exact (Table.tally_keep p hc _ _).trans (h3 _ _)

theorem Table.dropRef_keep {β : Type} (p : Table → β) (hc : ∀ (t : Table) cs, p { t with counters := cs } = p t)
    (h0 : ∀ (t : Table) x, p { t with hash := x } = p t) (h1 : ∀ (t : Table) x, p { t with prim := x } = p t)
    (h2 : ∀ (t : Table) x, p { t with sec2 := x } = p t) (h3 : ∀ (t : Table) x, p { t with sec3 := x } = p t)
    (t : Table) (i ref : Nat) : p (t.dropRef i ref) = p t := by
  unfold Table.dropRef
  split
  · rfl
  · split
    · rfl
    · split
      · exact h0 _ _
      · exact (Table.tally_keep p hc _ _).trans (h1 _ _)
      · exact (Table.tally_keep p hc _ _).trans (h2 _ _)
      · exact (Table.tally_keep p hc _ _).trans (h3 _ _)

@[simp] theorem Table.addEntry_desc (t : Table) (i : Nat) (e : Entry) : (t.addEntry i e).desc = t.desc :=
  Table.addEntry_keep Table.desc (fun _ _ => rfl) (fun _ _ => rfl) (fun _ _ => rfl) (fun _ _ => rfl) (fun _ _ => rfl) t i e
@[simp] theorem Table.addEntry_rows (t : Table) (i : Nat) (e : Entry) : (t.addEntry i e).rows = t.rows :=
  Table.addEntry_keep Table.rows (fun _ _ => rfl) (fun _ _ => rfl) (fun _ _ => rfl) (fun _ _ => rfl) (fun _ _ => rfl) t i e
@[simp] theorem Table.dropRef_desc (t : Table) (i ref : Nat) : (t.dropRef i ref).desc = t.desc :=
  Table.dropRef_keep Table.desc (fun _ _ => rfl) (fun _ _ => rfl) (fun _ _ => rfl) (fun _ _ => rfl) (fun _ _ => rfl) t i ref
@[simp] theorem Table.dropRef_rows (t : Table) (i ref : Nat) : (t.dropRef i ref).rows = t.rows :=
  Table.dropRef_keep Table.rows (fun _ _ => rfl) (fun _ _ => rfl) (fun _ _ => rfl) (fun _ _ => rfl) (fun _ _ => rfl) t i ref

theorem Table.hasIndex_congr {t u : Table} (h : t.desc = u.desc) (i : Nat) : t.hasIndex i = u.hasIndex i := by
  simp [Table.hasIndex, h]

theorem Table.without_congr {t u : Table} {i : Nat} (h : t.index i = u.index i) (ref : Nat) : t.without i ref = u.without i ref := by
  simp [Table.without, h]

@[simp] theorem Table.addEntry_hasIndex (t : Table) (i : Nat) (e : Entry) (j : Nat) :
    (t.addEntry i e).hasIndex j = t.hasIndex j := Table.hasIndex_congr (Table.addEntry_desc t i e) j
@[simp] theorem Table.dropRef_hasIndex (t : Table) (i ref j : Nat) : (t.dropRef i ref).hasIndex j = t.hasIndex j :=
  Table.hasIndex_congr (Table.dropRef_desc t i ref) j

/-- What indexes 0 to 3 and their trees are after a change of the tree of another. -/
theorem Table.addEntry_other {t : Table} {i j : Nat} (hi : i < 4) (hj : j < 4) (hij : i ≠ j) (e : Entry) :
    (t.addEntry i e).index j = t.index j ∧ ((t.addEntry i e).leafAt j ↔ t.leafAt j) := by
  unfold Table.addEntry
  split
  · exact ⟨rfl, .rfl⟩
  · interval_cases i <;> interval_cases j <;>
      simp_all [Table.index, Table.leafAt, Table.tally_keep Table.hash fun _ _ => rfl, Table.tally_keep Table.prim fun _ _ => rfl,
        Table.tally_keep Table.sec2 fun _ _ => rfl, Table.tally_keep Table.sec3 fun _ _ => rfl]

theorem Table.dropRef_other {t : Table} {i j : Nat} (hi : i < 4) (hj : j < 4) (hij : i ≠ j) (ref : Nat) :
    (t.dropRef i ref).index j = t.index j ∧ ((t.dropRef i ref).leafAt j ↔ t.leafAt j) := by
  unfold Table.dropRef
  split
  · exact ⟨rfl, .rfl⟩
  · split
    · exact ⟨rfl, .rfl⟩
    · interval_cases i <;> interval_cases j <;>
        simp_all [Table.index, Table.leafAt, Table.tally_keep Table.hash fun _ _ => rfl,
          Table.tally_keep Table.prim fun _ _ => rfl, Table.tally_keep Table.sec2 fun _ _ => rfl,
          Table.tally_keep Table.sec3 fun _ _ => rfl]

theorem Table.addEntry_index {t : Table} {i : Nat} (hi : i < 4) (h : t.leafAt i) (e : Entry) :
    (t.addEntry i e).index i = if t.hasIndex i then insertEntry e (t.index i) else t.index i := by
  unfold Table.addEntry
  cases t.hasIndex i with
  | false => simp
  | true =>
    interval_cases i
    · simp [Table.index]
    · simpa [Table.index, Table.tally_keep Table.prim fun _ _ => rfl] using Tree.isLeaf.entries_insert h _ _
    · simpa [Table.index, Table.tally_keep Table.sec2 fun _ _ => rfl] using Tree.isLeaf.entries_insert h _ _
    · simpa [Table.index, Table.tally_keep Table.sec3 fun _ _ => rfl] using Tree.isLeaf.entries_insert h _ _

theorem Table.dropRef_index {t : Table} {i : Nat} (hi : i < 4) (h : t.leafAt i) (ref : Nat) :
    (t.dropRef i ref).leafAt i ∧ (t.dropRef i ref).index i = if t.hasIndex i then t.without i ref else t.index i := by
  unfold Table.dropRef Table.without
  cases t.hasIndex i with
  | false => exact ⟨h, rfl⟩
  | true =>
    cases (t.index i).find? fun e => e.ref == ref with
    | none => exact ⟨h, rfl⟩
    | some e =>
      interval_cases i
      · exact ⟨trivial, rfl⟩
      · simpa [Table.index, Table.leafAt, Table.tally_keep Table.prim fun _ _ => rfl] using Tree.isLeaf.delete h _ e
      · simpa [Table.index, Table.leafAt, Table.tally_keep Table.sec2 fun _ _ => rfl] using Tree.isLeaf.delete h _ e
      · simpa [Table.index, Table.leafAt, Table.tally_keep Table.sec3 fun _ _ => rfl] using Tree.isLeaf.delete h _ e

end Sys2Proof.Machine
end

section
/-! SUPPORT. What INS, UPS, DEL and REKEY of one key make of an indexed table (R171-R174). -/

namespace Sys2Proof.Machine

/-! ### The tables they leave -/

/-- The entry of a reference in index i taken out, and another put in. -/
def Table.reenter (t : Table) (i ref : Nat) (e : Entry) : Table := (t.dropRef i ref).addEntry i e

/-- A table with row r replaced. -/
def Table.setRow (t : Table) (r : Nat) (x : Row) : Table := { t with rows := Assoc.set t.rows r x }

@[simp] theorem Table.setRow_index (t : Table) (r : Nat) (x : Row) (i : Nat) : (t.setRow r x).index i = t.index i := rfl
@[simp] theorem Table.setRow_desc (t : Table) (r : Nat) (x : Row) : (t.setRow r x).desc = t.desc := rfl
@[simp] theorem Table.setRow_hasIndex (t : Table) (r : Nat) (x : Row) (i : Nat) : (t.setRow r x).hasIndex i = t.hasIndex i := rfl
@[simp] theorem Table.setRow_leafAt (t : Table) (r : Nat) (x : Row) (i : Nat) : (t.setRow r x).leafAt i ↔ t.leafAt i := .rfl

theorem Table.setRow_rowAt (t : Table) (r : Nat) (x : Row) :
    (t.setRow r x).rowAt r = x ∧ ∀ k, k ≠ r → (t.setRow r x).rowAt k = t.rowAt k :=
  ⟨by simp [Table.rowAt, Table.setRow, Assoc.get_eq_find, Assoc.find_set_same],
    fun k hk => Assoc.get_set_other _ _ _ (Ne.symm hk)⟩

theorem Table.rowAt_congr {t u : Table} (h : t.rows = u.rows) (r : Nat) : t.rowAt r = u.rowAt r := by simp [Table.rowAt, h]

@[simp] theorem Table.addEntry_rowAt (t : Table) (i : Nat) (e : Entry) (r : Nat) : (t.addEntry i e).rowAt r = t.rowAt r :=
  Table.rowAt_congr (Table.addEntry_rows t i e) r
@[simp] theorem Table.dropRef_rowAt (t : Table) (i ref r : Nat) : (t.dropRef i ref).rowAt r = t.rowAt r :=
  Table.rowAt_congr (Table.dropRef_rows t i ref) r
@[simp] theorem Table.reenter_rowAt (t : Table) (i ref : Nat) (e : Entry) (r : Nat) : (t.reenter i ref e).rowAt r = t.rowAt r := by
  simp [Table.reenter]
@[simp] theorem Table.reenter_desc (t : Table) (i ref : Nat) (e : Entry) : (t.reenter i ref e).desc = t.desc := by
  simp [Table.reenter]
@[simp] theorem Table.reenter_hasIndex (t : Table) (i ref : Nat) (e : Entry) (j : Nat) :
    (t.reenter i ref e).hasIndex j = t.hasIndex j := by
  simp [Table.reenter]

theorem Table.reenter_other {t : Table} {i j : Nat} (hi : i < 4) (hj : j < 4) (hij : i ≠ j) (ref : Nat) (e : Entry) :
    (t.reenter i ref e).index j = t.index j ∧ ((t.reenter i ref e).leafAt j ↔ t.leafAt j) := by
  obtain ⟨h1, h2⟩ := Table.dropRef_other (t := t) hi hj hij ref
  obtain ⟨h3, h4⟩ := Table.addEntry_other (t := t.dropRef i ref) hi hj hij e
  exact ⟨h3.trans h1, h4.trans h2⟩

theorem Table.reenter_index {t : Table} {i : Nat} (hi : i < 4) (h : t.leafAt i) (ref : Nat) (e : Entry) :
    (t.reenter i ref e).index i = if t.hasIndex i then insertEntry e (t.without i ref) else t.index i := by
  obtain ⟨h1, h2⟩ := Table.dropRef_index hi h ref
  rw [Table.reenter, Table.addEntry_index hi h1, h2, Table.dropRef_hasIndex]
  split <;> rfl

/-- The table after a row of a key and a payload has been inserted at storage r. -/
def Table.inserted (t : Table) (r key : Nat) (ws : List Word) : Table :=
  (((((t.setRow r ⟨.live, key, (t.rowAt r).version + 1#32⟩).addEntry 0 ⟨key, t.refOf r⟩).addEntry 1 ⟨key, t.refOf r⟩).addEntry 2
    ⟨fieldOf t.desc.sec2 ws, t.refOf r⟩).addEntry 3 ⟨fieldOf t.desc.sec3 ws, t.refOf r⟩).count 1

/-- The table after the payload of row r at a reference has been replaced. -/
def Table.replaced (t : Table) (r ref : Nat) (ws : List Word) : Table :=
  (((t.reenter 2 ref ⟨fieldOf t.desc.sec2 ws, ref⟩).reenter 3 ref ⟨fieldOf t.desc.sec3 ws, ref⟩).bump r 1).count 2

/-- The table after row r at a reference has been deleted while some launches run. -/
def Table.deleted (t : Table) (r ref : Nat) (running : List Nat) : Table :=
  (((((t.dropRef 0 ref).dropRef 1 ref).dropRef 2 ref).dropRef 3 ref).setRow r
    ⟨.deleted running, (t.rowAt r).key, (t.rowAt r).version + 1#32⟩).count 3

/-- The table after row r at a reference has been given another key. -/
def Table.rekeyed (t : Table) (r ref key : Nat) : Table :=
  (((t.reenter 0 ref ⟨key, ref⟩).reenter 1 ref ⟨key, ref⟩).setRow r
    { t.rowAt r with key := key, version := (t.rowAt r).version + 1#32 }).count 4

theorem Table.inserted_rowAt (t : Table) (r key : Nat) (ws : List Word) :
    (t.inserted r key ws).rowAt r = ⟨.live, key, (t.rowAt r).version + 1#32⟩ ∧
    ∀ k, k ≠ r → (t.inserted r key ws).rowAt k = t.rowAt k := by
  simpa [Table.inserted] using Table.setRow_rowAt t r ⟨.live, key, (t.rowAt r).version + 1#32⟩

theorem Table.replaced_rowAt {t : Table} {r : Nat} (hk : t.desc.kind = 2) (hl : (t.rowAt r).state = .live) (ref : Nat)
    (ws : List Word) :
    (t.replaced r ref ws).rowAt r = { t.rowAt r with version := (t.rowAt r).version + 1#32 } ∧
    ∀ k, k ≠ r → (t.replaced r ref ws).rowAt k = t.rowAt k := by
  simp only [Table.replaced]
  generalize hu : (t.reenter 2 ref ⟨fieldOf t.desc.sec2 ws, ref⟩).reenter 3 ref ⟨fieldOf t.desc.sec3 ws, ref⟩ = u
  have hrow : ∀ k, u.rowAt k = t.rowAt k := fun k => by simp [← hu]
  have hkind : u.desc.kind = 2 := by simpa [← hu] using hk
  have hbump : u.bump r 1 = u.setRow r { t.rowAt r with version := (t.rowAt r).version + 1#32 } := by
    simp [Table.bump, hkind, hrow, hl, Table.setRow]
  rw [hbump]
  simpa [hrow] using Table.setRow_rowAt u r { t.rowAt r with version := (t.rowAt r).version + 1#32 }

theorem Table.deleted_rowAt (t : Table) (r ref : Nat) (running : List Nat) :
    (t.deleted r ref running).rowAt r = ⟨.deleted running, (t.rowAt r).key, (t.rowAt r).version + 1#32⟩ ∧
    ∀ k, k ≠ r → (t.deleted r ref running).rowAt k = t.rowAt k := by
  simpa [Table.deleted] using Table.setRow_rowAt ((((t.dropRef 0 ref).dropRef 1 ref).dropRef 2 ref).dropRef 3 ref) r
    ⟨.deleted running, (t.rowAt r).key, (t.rowAt r).version + 1#32⟩

theorem Table.rekeyed_rowAt {t : Table} {r : Nat} (hl : (t.rowAt r).state = .live) (ref key : Nat) :
    (t.rekeyed r ref key).rowAt r = ⟨.live, key, (t.rowAt r).version + 1#32⟩ ∧
    ∀ k, k ≠ r → (t.rekeyed r ref key).rowAt k = t.rowAt k := by
  simpa [Table.rekeyed, hl] using Table.setRow_rowAt ((t.reenter 0 ref ⟨key, ref⟩).reenter 1 ref ⟨key, ref⟩) r
    { t.rowAt r with key := key, version := (t.rowAt r).version + 1#32 }

theorem Table.bump_index (t : Table) (r n i : Nat) : (t.bump r n).index i = t.index i := by
  unfold Table.bump
  split <;> rfl

theorem Table.inserted_index {t : Table} (h : t.oneLeaf) (r key : Nat) (ws : List Word) {i : Nat} (hi : i < 4) :
    (t.inserted r key ws).index i =
      if t.hasIndex i then insertEntry ⟨t.keyIn i key ws, t.refOf r⟩ (t.index i) else t.index i := by
  have hleaf := h.leafAt
  interval_cases i
  · simp [Table.inserted, Table.addEntry_other, Table.addEntry_index, hleaf, Table.keyIn]
    rfl
  all_goals simp [Table.inserted, Table.addEntry_other, Table.addEntry_index, hleaf, Table.keyIn]

theorem Table.replaced_index {t : Table} (h : t.oneLeaf) (r ref key : Nat) (ws : List Word) {i : Nat} (hi : i < 4) :
    (t.replaced r ref ws).index i =
      if t.hasIndex i && decide (2 ≤ i) then insertEntry ⟨t.keyIn i key ws, ref⟩ (t.without i ref) else t.index i := by
  have hleaf := h.leafAt
  interval_cases i <;>
    simp [Table.replaced, Table.bump_index, Table.reenter_other, Table.reenter_index, hleaf, Table.keyIn, Table.without]

theorem Table.deleted_index {t : Table} (h : t.oneLeaf) (r ref : Nat) (running : List Nat) {i : Nat} (hi : i < 4) :
    (t.deleted r ref running).index i = if t.hasIndex i then t.without i ref else t.index i := by
  have hleaf := h.leafAt
  interval_cases i <;>
    simp [Table.deleted, Table.dropRef_other, Table.dropRef_index, hleaf, Table.without]

theorem Table.rekeyed_index {t : Table} (h : t.oneLeaf) (r ref key : Nat) {i : Nat} (hi : i < 4) :
    (t.rekeyed r ref key).index i =
      if t.hasIndex i && decide (i < 2) then insertEntry ⟨key, ref⟩ (t.without i ref) else t.index i := by
  have hleaf := h.leafAt
  interval_cases i <;>
    simp [Table.rekeyed, Table.reenter_other, Table.reenter_index, hleaf, Table.without]

theorem Table.payloadOf_length (t : Table) (ws : List Word) : (t.payloadOf ws).length = t.desc.payload / 4 := by
  simp [Table.payloadOf]

theorem Table.payloadOf_getD (t : Table) (ws : List Word) (i : Nat) :
    (t.payloadOf ws).getD i 0#32 = if i < t.desc.payload / 4 then ws.getD i 0#32 else 0#32 := by
  unfold Table.payloadOf
  split
  · next h => simp [List.getD, h]
  · next h => simp [List.getD, h]

end Sys2Proof.Machine
end

section
/-! SUPPORT. The point operations of the table engine as the table that they leave (R171-R174), and the cursor words of a lane
(R183-R187). -/

namespace Sys2Proof.Machine

section Point
variable {s : State} {w : Who} {num : Nat} {x : Table} {key : Nat} {data : List Word}

/-! ### Point operations -/

/-- Whether an insertion of a key meets a unique primary index. -/
def Table.keyClash (x : Table) (key : Nat) : Bool := (x.isUnique 0 || x.isUnique 1) && (firstOf key x.primary).isSome

theorem State.insertRow_clash (h : (x.keyClash key || x.secondaryClash none (x.payloadOf data)) = true) :
    s.insertRow w num x key data = (s.modTable num fun t => t.count 6, .duplicate) := by
  unfold State.insertRow
  exact if_pos h

theorem State.insertRow_full (h : (x.keyClash key || x.secondaryClash none (x.payloadOf data)) = false)
    (hr : x.freeRow s.fresh = none) : s.insertRow w num x key data = (s.modTable num fun t => t.count 5, .ref 0) := by
  unfold State.insertRow
  refine (if_neg (by rw [Table.keyClash] at h; simp [h])).trans ?_
  rw [hr]

theorem State.insertRow_done (h : (x.keyClash key || x.secondaryClash none (x.payloadOf data)) = false) {r : Nat}
    (hr : x.freeRow s.fresh = some r) {s1 : State}
    (hw : ({ s with fresh := s.fresh + 1 } : State).writeRow w x r (x.payloadOf data) = (s1, none)) :
    s.insertRow w num x key data = (s1.modTable num fun _ => x.inserted r key (x.payloadOf data), .ref (x.refOf r)) := by
  unfold State.insertRow
  refine (if_neg (by rw [Table.keyClash] at h; simp [h])).trans ?_
  simp only [hr, hw]
  simp only [Table.inserted, Table.addEntry_desc]
  rfl

theorem State.replaceRow_clash {ref : Nat} (h : x.secondaryClash (some ref) (x.payloadOf data) = true) :
    s.replaceRow w num x ref data = (s.modTable num fun t => t.count 6, .duplicate) := by
  unfold State.replaceRow
  exact if_pos h

theorem State.replaceRow_done {ref r : Nat} (h : x.secondaryClash (some ref) (x.payloadOf data) = false)
    (hr : x.rowOfRef ref = some r) {s1 : State} (hw : s.writeRow w x r (x.payloadOf data) = (s1, none)) :
    s.replaceRow w num x ref data = (s1.modTable num fun _ => x.replaced r ref (x.payloadOf data), .ref ref) := by
  unfold State.replaceRow
  refine (if_neg (by simp [h])).trans ?_
  simp only [hr, Option.getD_some, hw]
  simp only [Table.replaced, Table.reenter, Table.addEntry_desc, Table.dropRef_desc]

theorem State.deleteKey_none {sel : Nat} (h : firstOf key (x.index sel) = none) : s.deleteKey num x sel key = (s, 0) := by
  simp only [State.deleteKey, h]

theorem State.deleteKey_done {sel r : Nat} {e : Entry} (h : firstOf key (x.index sel) = some e) (hr : x.rowOfRef e.ref = some r) :
    s.deleteKey num x sel key = (s.modTable num fun _ => x.deleted r e.ref s.running, e.ref) := by
  simp only [State.deleteKey, h, hr, Option.getD_some, Table.deleted, Table.setRow, Table.dropRef_rowAt]

/-- Whether another row has a key that a row is to get, where the primary index is unique. -/
def Table.otherHas (x : Table) (key ref : Nat) : Bool :=
  (x.isUnique 0 || x.isUnique 1) && x.primary.any fun e => e.key == key && e.ref != ref

theorem State.rekeyRow_none {ref : Nat} (h : x.rowOfRef ref = none) :
    s.rekeyRow num x ref key = (s.modTable num fun t => t.count 5, .ref 0) := by
  simp only [State.rekeyRow, h]

theorem State.rekeyRow_clash {ref r : Nat} (h : x.rowOfRef ref = some r) (hl : (x.rowAt r).state = .live)
    (hc : x.otherHas key ref = true) : s.rekeyRow num x ref key = (s.modTable num fun t => t.count 6, .duplicate) := by
  simp only [State.rekeyRow, h]
  exact (if_neg (by simp [hl])).trans (if_pos hc)

theorem State.rekeyRow_done {ref r : Nat} (h : x.rowOfRef ref = some r) (hl : (x.rowAt r).state = .live)
    (hc : x.otherHas key ref = false) :
    s.rekeyRow num x ref key = (s.modTable num fun _ => x.rekeyed r ref key, .ref ref) := by
  simp only [State.rekeyRow, h]
  refine (if_neg (by simp [hl])).trans ((if_neg (by rw [Table.otherHas] at hc; simp [hc])).trans ?_)
  simp only [Table.rekeyed, Table.reenter, Table.setRow, Table.addEntry_rows, Table.dropRef_rows]

/-- Writing the payload of a row keeps the tables. -/
theorem State.accessed_writeRowFrom (w : Who) (x : Table) (n off : Nat) (ws : List Word) (s : State) :
    s.Accessed (State.writeRowFrom w x n off ws s).1 := by
  induction n generalizing off ws s with
  | zero => exact .refl _
  | succ n ih =>
    unfold State.writeRowFrom
    have h := State.accessed_writePhys (s := s) w (x.pa off) (bytesOfWords (ws.take 8))
    split <;> next heq => rw [heq] at h; exact h.trans (ih _ _ _)

theorem State.writeRow_tables {r : Nat} {ws : List Word} {s1 : State} {c : Option Cause} (h : s.writeRow w x r ws = (s1, c)) :
    s1.tables = s.tables := by
  have ha : s.Accessed s1 := by
    have := State.accessed_writeRowFrom w x (x.desc.payload / 32) (r * x.desc.payload) ws s
    rwa [show State.writeRowFrom w x (x.desc.payload / 32) (r * x.desc.payload) ws s = (s1, c) from h] at this
  exact ha.keep State.tables fun _ _ => rfl

end Point

end Sys2Proof.Machine
end

section
/-! SUPPORT. Index operations and cursor words of one lane (R171-R174, R183-R187). -/

namespace Sys2Proof.Machine

/-! ### The tables of a state that an operation counts or replaces -/

theorem State.modTable_counted {s : State} {n : Nat} {x : Table} (hx : Assoc.find s.tables n = some x) (k : Nat) :
    (s.modTable n fun t => t.count k).mem = s.mem ∧ ∃ y, Assoc.find (s.modTable n fun t => t.count k).tables n = some y ∧
      (y.rows = x.rows ∧ ∀ i, y.index i = x.index i) ∧
      Assoc.get 0#64 y.counters k = Assoc.get 0#64 x.counters k + 1#64 :=
  ⟨State.modTable_memory _ _ _, x.count k, State.find_modTable hx _,
    ⟨Table.count_rows _ _ _, Table.count_index _ _ _⟩, Table.counter_count _ _⟩

section Lane
variable {s : State} {c : Nat} {o : Op} {l : Nat} {cached : Bool} {x : Table} {d a : BitVec 7} {b : BitVec 6}

/-- An insertion of a lane: INS, and UPS of a key that no row has. -/
theorem State.performLane_inserts (hu : s.usable (o.gvals.getD 2 0#64) false = some x)
    (hi : o.instr = .ins d a b ∨ o.instr = .ups d a b ∧ firstOf (o.pair l 0) x.primary = none) :
    s.performLane c o cached l =
      ((s.insertRow (o.who c) (hNumber (o.gvals.getD 2 0#64)) x (o.pair l 0) (o.data l)).1,
       (s.insertRow (o.who c) (hNumber (o.gvals.getD 2 0#64)) x (o.pair l 0) (o.data l)).2.lane) := by
  rcases hi with hi | ⟨hi, hnone⟩
  · simp only [State.performLane, State.performIndex, hi, hu, State.insertKey]
  · simp only [State.performLane, State.performIndex, hi, hu, State.insertKey, hnone]

theorem State.performLane_replaces (hu : s.usable (o.gvals.getD 2 0#64) false = some x) (hi : o.instr = .ups d a b) {e : Entry}
    (he : firstOf (o.pair l 0) x.primary = some e) :
    s.performLane c o cached l =
      ((s.replaceRow (o.who c) (hNumber (o.gvals.getD 2 0#64)) x e.ref (o.data l)).1,
       (s.replaceRow (o.who c) (hNumber (o.gvals.getD 2 0#64)) x e.ref (o.data l)).2.lane) := by
  simp only [State.performLane, State.performIndex, hi, hu, State.insertKey, he]

theorem State.performLane_deletes (hu : s.usable (o.gvals.getD 2 0#64) false = some x) (hi : o.instr = .del d a b) :
    s.performLane c o cached l =
      ((s.deleteKey (hNumber (o.gvals.getD 2 0#64)) x (hSelector (o.gvals.getD 2 0#64)) (o.pair l 0)).1,
       .done (refWords (s.deleteKey (hNumber (o.gvals.getD 2 0#64)) x (hSelector (o.gvals.getD 2 0#64)) (o.pair l 0)).2)) := by
  simp only [State.performLane, State.performIndex, hi, hu]

theorem State.performLane_rekeys (hu : s.usable (o.gvals.getD 2 0#64) false = some x) (hi : o.instr = .rekey d a b) :
    s.performLane c o cached l =
      ((s.rekeyRow (hNumber (o.gvals.getD 2 0#64)) x (s.nearRef (hNumber (o.gvals.getD 2 0#64)) (o.pair l 0)) (o.pair l 2)).1,
       ((s.rekeyRow (hNumber (o.gvals.getD 2 0#64)) x (s.nearRef (hNumber (o.gvals.getD 2 0#64)) (o.pair l 0)) (o.pair l 2)).2.naming
         (o.pair l 0)).lane) := by
  simp only [State.performLane, State.performIndex, hi, hu]

/-- A near reference names itself. -/
theorem State.nearRef_near {n y : Nat} (h : isFar y = false) : s.nearRef n y = y := by
  simp [State.nearRef, h]

/-! ### Cursors -/

/-- A cursor of core c set. -/
def CoreSt.setCursor (k : CoreSt) (i : Nat) (x : Cursor) : CoreSt := { k with cursors := Assoc.set k.cursors i x }

/-- The entries that a step of at most n entries by a cursor returns. -/
def Cursor.next (y : Cursor) (n : Nat) (es : List Entry) : List Entry := if y.ended then [] else (cursorNext y es).take n

theorem State.stepCursor_none {h : Word} {n : Nat} (hc : (s.core c).cursor? o.slot o.gen h = none) :
    s.stepCursor c o h n = (s, .error (.staleHandle, 0)) := by
  simp only [State.stepCursor, hc]

theorem State.stepCursor_stale {h : Word} {n i : Nat} {y : Cursor} (hc : (s.core c).cursor? o.slot o.gen h = some (i, y))
    (hu : s.usable y.handle false = none) : s.stepCursor c o h n = (s, .error (.staleHandle, 0)) := by
  simp only [State.stepCursor, hc, hu]

theorem State.stepCursor_steps {h : Word} {n i : Nat} {y : Cursor} {t : Table}
    (hc : (s.core c).cursor? o.slot o.gen h = some (i, y)) (hu : s.usable y.handle false = some t) :
    s.stepCursor c o h n = (s.modCore c fun k => k.setCursor i (y.stepped (y.next n (t.index (hSelector y.handle))) n),
      .ok (y.next n (t.index (hSelector y.handle)))) := by
  simp only [State.stepCursor, hc, hu]
  rfl

/-- The words of a step of CSTEP or CSTEPN. -/
def stepWords (i : Instr) (n : Nat) (es : List Entry) : List Word :=
  match i with
  | .cstep .. => cstepWords es
  | _ => cstepnWords n es

/-- Whether a word is CSTEP, which steps by one entry, or CSTEPN, which steps by the count of its mode. -/
def Op.stepsBy (o : Op) (d : BitVec 7) (a : BitVec 8) (n : Nat) : Prop :=
  o.instr = .cstep d a ∧ n = 1 ∨ o.instr = .cstepn d a ∧ n = modeCount o.mode

theorem State.performLane_steps {e : BitVec 8} {n : Nat} (hi : o.stepsBy d e n) :
    s.performLane c o cached l =
      if (o.words l).getD 0 0#32 = 0#32 then (s, .done (stepWords o.instr n []))
      else match s.stepCursor c o ((o.words l).getD 0 0#32) n with
        | (s, .error f) => (s, .fault f)
        | (s, .ok es) => (s, .done (stepWords o.instr n es)) := by
  rcases hi with ⟨hi, rfl⟩ | ⟨hi, rfl⟩
  · simp only [State.performLane, hi, stepWords]
    rfl
  · simp only [State.performLane, hi, stepWords]
    rfl


end Lane

/-! ### One lane performed by the step -/

theorem isIndexOp_cases {i : Instr} (h : isIndexOp i = true) :
    (∃ d a b, i = .lkp d a b) ∨ (∃ d a b, i = .ins d a b) ∨ (∃ d a b, i = .ups d a b) ∨ (∃ d a b, i = .del d a b) ∨
    (∃ d a b, i = .rekey d a b) ∨ (∃ d a b, i = .copen d a b) ∨ (∃ d a, i = .cstep d a) ∨ (∃ d a, i = .cstepn d a) ∨
    ∃ d a, i = .cseek d a := by
  unfold isIndexOp at h
  split at h <;> simp_all

/-- The facts about the words of the table engine that are read off the word. -/
theorem isIndexOp_facts {o : Op} (h : isIndexOp o.instr = true) :
    isScratchOp o.instr = false ∧ (∀ l, o.laneEnds l = []) ∧
    ∀ s c sync cached lanes, State.performOp s c o sync cached lanes = State.performLanes c sync cached
      (lanesOf ((if o.uniform then o.todo else o.todo &&& lanes) &&& ~~~ s.remoteMask c o)) s o := by
  rcases isIndexOp_cases h with ⟨_, _, _, hi⟩ | ⟨_, _, _, hi⟩ | ⟨_, _, _, hi⟩ | ⟨_, _, _, hi⟩ | ⟨_, _, _, hi⟩ | ⟨_, _, _, hi⟩ |
    ⟨_, _, hi⟩ | ⟨_, _, hi⟩ | ⟨_, _, hi⟩ <;>
  exact ⟨by rw [hi]; rfl, fun l => by simp only [Op.laneEnds, hi], fun s c sync cached lanes => by simp only [State.performOp, hi]⟩

theorem IndexOut.lane_ne_hold (r : IndexOut) : r.lane ≠ .hold := by cases r <;> simp [IndexOut.lane]

section Held
variable (s : State) (c : Nat) (o : Op) (l : Nat)

theorem State.performLkp_ne_hold : (s.performLkp c o l).2 ≠ .hold := by
  unfold State.performLkp
  dsimp only
  split
  · simp
  · split
    · split <;> simp
    · simp

theorem State.performIndex_ne_hold : (s.performIndex c o l).2 ≠ .hold := by
  unfold State.performIndex
  dsimp only
  split
  · simp
  · split <;> simp [IndexOut.lane_ne_hold]

theorem State.performCopen_ne_hold : (s.performCopen c o l).2 ≠ .hold := by
  unfold State.performCopen
  dsimp only
  split
  · simp
  · split
    · simp
    · split <;> simp

theorem State.performCstep_ne_hold : (s.performCstep c o l).2 ≠ .hold := by
  unfold State.performCstep
  dsimp only
  split
  · simp
  · split <;> simp

theorem State.performCstepn_ne_hold : (s.performCstepn c o l).2 ≠ .hold := by
  unfold State.performCstepn
  dsimp only
  split
  · simp
  · split <;> simp

theorem State.performCseek_ne_hold : (s.performCseek c o l).2 ≠ .hold := by
  unfold State.performCseek
  dsimp only
  split
  · simp
  · split
    · simp
    · split <;> simp

/-- No lane of an index operation is held. -/
theorem State.performLane_ne_hold {o : Op} (h : isIndexOp o.instr = true) (cached : Bool) :
    (s.performLane c o cached l).2 ≠ .hold := by
  rcases isIndexOp_cases h with ⟨_, _, _, hi⟩ | ⟨_, _, _, hi⟩ | ⟨_, _, _, hi⟩ | ⟨_, _, _, hi⟩ | ⟨_, _, _, hi⟩ | ⟨_, _, _, hi⟩ |
    ⟨_, _, hi⟩ | ⟨_, _, hi⟩ | ⟨_, _, hi⟩ <;> simp only [State.performLane, hi]
  · exact State.performLkp_ne_hold s c o l
  · exact State.performIndex_ne_hold s c o l
  · exact State.performIndex_ne_hold s c o l
  · exact State.performIndex_ne_hold s c o l
  · exact State.performIndex_ne_hold s c o l
  · exact State.performCopen_ne_hold s c o l
  · exact State.performCstep_ne_hold s c o l
  · exact State.performCstepn_ne_hold s c o l
  · exact State.performCseek_ne_hold s c o l

end Held

theorem lanesOf_oneLane {l : Nat} (h : l < 64) : lanesOf (1#64 <<< l) = [l] := by
  have hall : ∀ l : Fin 64, lanesOf (1#64 <<< l.val) = [l.val] := by decide +kernel
  exact hall ⟨l, h⟩

theorem exec_indexLane {s : State} {c n : Nat} {o : Op} {l : Nat} (cached : Bool) (hp : MayPerform s c n o)
    (h : isIndexOp o.instr = true) (hl : l < 64) (ht : o.todo = 1#64 <<< l) :
    exec (.tableOpComplete c n (~~~ 0#64) cached) s =
      .next ((s.performLane c o cached l).1.settleOp c n (o.laneDone l (s.performLane c o cached l).2)) := by
  obtain ⟨hscratch, hends, hop⟩ := isIndexOp_facts h
  have hmask : ∀ m : LaneMask, m &&& ~~~ 0#64 = m := fun m => by simpa using BitVec.and_allOnes (x := m)
  have hlanes : (if o.uniform then o.todo else o.todo &&& ~~~ 0#64) &&& ~~~ s.remoteMask c o = 1#64 <<< l := by
    rw [hp.here, ht, hmask, hmask, ite_self]
  have hhere : o.todo &&& ~~~ s.remoteMask c o ≠ 0#64 := by
    rw [hp.here]
    rw [hmask]; exact hp.lanes
  have hbelow : o.todo &&& maskBelow l &&& ~~~ s.remoteMask c o = 0#64 := by
    rw [(lanesOf_cons (by rw [ht]; exact lanesOf_oneLane hl)).1, BitVec.zero_and]
  have hperform : s.performOp c o false cached (~~~ 0#64) =
      ((s.performLane c o cached l).1, o.laneDone l (s.performLane c o cached l).2) := by
    rw [hop, hlanes, lanesOf_oneLane hl]
    have hne := State.performLane_ne_hold s c l h cached
    have harrive : s.arriveLane c o false cached l = (s, true) := by simp [State.arriveLane, hends, State.arriveAll]
    have hwait : s.laneWaits c o l 0#64 = false := by simp [State.laneWaits]
    simp only [State.performLanes, hbelow, hwait, harrive]
    generalize s.performLane c o cached l = r at hne ⊢
    obtain ⟨s', r⟩ := r
    cases r with
    | hold => exact absurd rfl hne
    | done ws => rfl
    | fault f => rfl
  change execTableOpComplete c n (~~~ 0#64) cached s = _
  simp only [execTableOpComplete, hp.op, hscratch, hp.eligible, beq_eq_false_iff_ne.mpr hp.lanes, beq_eq_false_iff_ne.mpr hhere,
    hperform, Bool.not_true, Bool.or_self, Bool.false_eq_true, if_false]

/-! ### Cursor words of a lane -/

section Cursors
variable {s : State} {c : Nat} {o : Op} {l : Nat} {cached : Bool}

/-- The entries after the last one returned, as the keys and references order them. -/
theorem cursorNext_eq (y : Cursor) (es : List Entry) : cursorNext y es = es.filter fun e =>
    decide (e.key ≤ y.hi) && match y.position with
      | some z => decide (z.1 < e.key) || (z.1 == e.key && decide (z.2 < e.ref))
      | none => decide (y.floor ≤ e.key) := by
  unfold cursorNext
  refine List.filter_congr fun e _ => ?_
  cases y.position <;> rfl

/-- The next serial of a cursor (log 80). -/
def CoreSt.nextSerial (k : CoreSt) : Nat := if k.cursorSer = 65535 then 1 else k.cursorSer + 1

theorem CoreSt.nextSerial_bounds (k : CoreSt) : 1 ≤ k.nextSerial ∧ k.nextSerial ≤ max 65535 (k.cursorSer + 1) := by
  unfold CoreSt.nextSerial
  split <;> omega

theorem State.performCopen_stale {h : DWord} (hh : h = o.gvals.getD 2 0#64)
    (hbad : hSelector h = 0 ∨ hRemote h = false ∧ s.usable h false = none) :
    s.performCopen c o l = (s, .fault (.staleHandle, 0)) := by
  subst hh
  unfold State.performCopen
  refine if_pos ?_
  rcases hbad with h | ⟨h1, h2⟩
  · exact .inl h
  · exact .inr (by simp only [h1, h2]; rfl)

theorem not_copenStale {h : DWord} (hsel : hSelector h ≠ 0) (hgood : hRemote h = true ∨ (s.usable h false).isSome = true) :
    ¬ (hSelector h = 0 ∨ (!hRemote h && (s.usable h false).isNone) = true) := by
  rintro (h0 | h0)
  · exact hsel h0
  · simp only [Bool.and_eq_true, Bool.not_eq_true'] at h0
    rcases hgood with hg | hg
    · exact absurd (hg.symm.trans h0.1) (by decide)
    · rw [Option.isNone_iff_eq_none.mp h0.2] at hg
      exact absurd hg (by decide)

theorem State.performCopen_gone {h : DWord} (hh : h = o.gvals.getD 2 0#64) (hsel : hSelector h ≠ 0)
    (hgood : hRemote h = true ∨ (s.usable h false).isSome = true) (hgen : (s.core c).gen o.slot ≠ o.gen) :
    s.performCopen c o l = (s, .done [0#32]) := by
  subst hh
  unfold State.performCopen
  exact (if_neg (not_copenStale hsel hgood)).trans (if_pos hgen)

theorem State.performCopen_free {h : DWord} (hh : h = o.gvals.getD 2 0#64) (hsel : hSelector h ≠ 0)
    (hgood : hRemote h = true ∨ (s.usable h false).isSome = true) (hgen : (s.core c).gen o.slot = o.gen)
    (hres : ∀ r ∈ o.results, r.2 ≠ [0#32]) :
    s.performCopen c o l = match (s.core c).freeCursor with
      | none => (s.count c 0x1041, .done [0#32])
      | some i => (s.modCore c fun k => { k with
          cursorSer := (s.core c).nextSerial
          cursors := Assoc.set k.cursors i
            ⟨o.slot, o.gen, h, o.pair l 0, o.pair l 2, (s.core c).nextSerial, none, o.pair l 0, false⟩ },
          .done [BitVec.ofNat 32 ((s.core c).nextSerial * 2 ^ 16 + i)]) := by
  subst hh
  have hrefused : (o.results.any fun r => decide (r.1 < l) && r.2 == [0#32]) = false := by
    rw [List.any_eq_false]
    exact fun r hr => by simp [hres r hr]
  unfold State.performCopen
  refine (if_neg (not_copenStale hsel hgood)).trans ((if_neg (not_not.mpr hgen)).trans ?_)
  simp only [hrefused, Bool.false_eq_true, if_false]
  cases (s.core c).freeCursor <;> rfl

theorem State.performCseek_none {h : Word} (hh : h = (o.words l).getD 2 0#32) (hne : h ≠ 0#32)
    (hc : (s.core c).cursor? o.slot o.gen h = none) :
    s.performCseek c o l = (s.zeroCursor c o l, .fault (.staleHandle, 0)) := by
  subst hh
  unfold State.performCseek
  refine (if_neg hne).trans ?_
  rw [hc]

theorem State.performCseek_seeks {h : Word} (hh : h = (o.words l).getD 2 0#32) (hne : h ≠ 0#32) {i : Nat} {y : Cursor}
    (hc : (s.core c).cursor? o.slot o.gen h = some (i, y))
    (hgood : hRemote y.handle = true ∨ (s.usable y.handle false).isSome = true) :
    s.performCseek c o l = (s.modCore c fun k => k.setCursor i (y.sought (o.pair l 0)), .done [h]) := by
  subst hh
  unfold State.performCseek
  refine (if_neg hne).trans ?_
  rw [hc]
  refine if_neg fun h0 => ?_
  simp only [Bool.and_eq_true, Bool.not_eq_true'] at h0
  rcases hgood with hg | hg
  · exact absurd (hg.symm.trans h0.1) (by decide)
  · rw [Option.isNone_iff_eq_none.mp h0.2] at hg
    exact absurd hg (by decide)

/-- An invalid handle of CSEEK is 0 afterwards in its live lane (R187). -/
theorem State.zeroCursor_zeroes {d : BitVec 8} {a : BitVec 7} (hi : o.instr = .cseek d a) (hgen : (s.core c).gen o.slot = o.gen)
    {st : Strand} (hst : s.strand? c o.slot = some st) (hlive : st.live.getLsbD l = true) (hl : l < st.width) :
    ∃ x, (s.zeroCursor c o l).strand? c o.slot = some x ∧ x.vlane d.toNat l = 0#32 := by
  have hl64 : l < 64 := by
    by_contra hge
    rw [BitVec.getLsbD_of_ge _ _ (by omega)] at hlive
    exact Bool.noConfusion hlive
  refine ⟨st.writeV d.toNat (1#64 <<< l) none fun _ => 0#32, ?_, ?_⟩
  · simp only [State.zeroCursor, hi, hgen, if_true, State.modStrand, hst, hlive, State.strand?_setStrand]
  · have hbit : (1#64 <<< l).getLsbD l = true := mem_lanesOf.mp (by rw [lanesOf_oneLane hl64]; exact List.mem_singleton_self l)
    exact Strand.vlane_writeV_written st _ _ _ hl hbit fun t ht => by simp at ht

theorem CoreSt.find_setCursor (k : CoreSt) (i : Nat) (y : Cursor) : Assoc.find (k.setCursor i y).cursors i = some y :=
  Assoc.find_set_same _ _ _

end Cursors

end Sys2Proof.Machine

section
open Sys2Proof Sys2Proof.Machine

/-- Insertions: INS, and UPS of a key that no row has. -/
theorem insertions_performed {s : State} {c : Nat} {o : Op} {l : Nat} {cached : Bool} {x : Table} {d a : BitVec 7} {b : BitVec 6}
    (hu : s.usable (o.gvals.getD 2 0#64) false = some x) (hleaf : x.oneLeaf)
    (hi : o.instr = .ins d a b ∨ o.instr = .ups d a b ∧ firstOf (o.pair l 0) x.primary = none) :
    let n := hNumber (o.gvals.getD 2 0#64)
    let key := o.pair l 0
    let ws := x.payloadOf (o.data l)
    let p := s.performLane c o cached l
    (∀ r s1, x.keyClash key = false → x.secondaryClash none ws = false → x.freeRow s.fresh = some r →
      ({ s with fresh := s.fresh + 1 } : State).writeRow (o.who c) x r ws = (s1, none) →
      p.2 = .done (refWords (x.refOf r)) ∧ p.1.mem = s1.mem ∧ ∃ y, Assoc.find p.1.tables n = some y ∧
        y.rowAt r = ⟨.live, key, (x.rowAt r).version + 1#32⟩ ∧ (∀ k, k ≠ r → y.rowAt k = x.rowAt k) ∧
        ∀ i < 4, y.index i = if x.hasIndex i then insertEntry ⟨x.keyIn i key ws, x.refOf r⟩ (x.index i) else x.index i) ∧
    (x.keyClash key = true ∨ x.secondaryClash none ws = true → p.2 = .fault (.duplicateKey, 0) ∧ p.1.mem = s.mem ∧
      ∃ y, Assoc.find p.1.tables n = some y ∧ (y.rows = x.rows ∧ ∀ i, y.index i = x.index i)) ∧
    (x.keyClash key = false → x.secondaryClash none ws = false → x.freeRow s.fresh = none →
      p.2 = .done (refWords 0) ∧ p.1.mem = s.mem ∧ ∃ y, Assoc.find p.1.tables n = some y ∧
        (y.rows = x.rows ∧ ∀ i, y.index i = x.index i) ∧
        Assoc.get 0#64 y.counters 5 = Assoc.get 0#64 x.counters 5 + 1#64) := by
  intro n key ws p
  have hfind := State.usable_find hu
  have hp : p = _ := State.performLane_inserts (c := c) (cached := cached) hu hi
  refine ⟨fun r s1 h1 h2 hr hw => ?_, fun h => ?_, fun h1 h2 hr => ?_⟩
  · have hf1 : Assoc.find s1.tables n = some x := by rw [State.writeRow_tables hw]; exact hfind
    rw [hp, State.insertRow_done (by rw [h1, h2]; rfl) hr hw]
    exact ⟨rfl, State.modTable_memory _ _ _, _, State.find_modTable hf1 _, (Table.inserted_rowAt x r key ws).1,
      (Table.inserted_rowAt x r key ws).2, fun i hi => Table.inserted_index hleaf r key ws hi⟩
  · rw [hp, State.insertRow_clash (by rcases h with h | h <;> simp [h, key, ws])]
    obtain ⟨hm, y, hy, hsame, -⟩ := State.modTable_counted hfind 6
    exact ⟨rfl, hm, y, hy, hsame⟩
  · rw [hp, State.insertRow_full (by rw [h1, h2]; rfl) hr]
    obtain ⟨hm, y, hy, hsame, hcount⟩ := State.modTable_counted hfind 5
    exact ⟨rfl, hm, y, hy, hsame, hcount⟩

/-- UPS of a key that a row has. -/
theorem replacements_performed {s : State} {c : Nat} {o : Op} {l : Nat} {cached : Bool} {x : Table} {d a : BitVec 7} {b : BitVec 6}
    {e : Entry} {r : Nat} (hu : s.usable (o.gvals.getD 2 0#64) false = some x) (hleaf : x.oneLeaf) (hi : o.instr = .ups d a b)
    (he : firstOf (o.pair l 0) x.primary = some e) (hr : x.rowOfRef e.ref = some r) :
    let n := hNumber (o.gvals.getD 2 0#64)
    let ws := x.payloadOf (o.data l)
    let p := s.performLane c o cached l
    (x.secondaryClash (some e.ref) ws = true → p.2 = .fault (.duplicateKey, 0) ∧ p.1.mem = s.mem ∧
      ∃ y, Assoc.find p.1.tables n = some y ∧ (y.rows = x.rows ∧ ∀ i, y.index i = x.index i)) ∧
    (∀ s1, x.secondaryClash (some e.ref) ws = false → (x.rowAt r).state = .live → s.writeRow (o.who c) x r ws = (s1, none) →
      p.2 = .done (refWords e.ref) ∧ p.1.mem = s1.mem ∧ ∃ y, Assoc.find p.1.tables n = some y ∧
        y.rowAt r = { x.rowAt r with version := (x.rowAt r).version + 1#32 } ∧ (∀ k, k ≠ r → y.rowAt k = x.rowAt k) ∧
        ∀ i < 4, y.index i = if x.hasIndex i && decide (2 ≤ i) then
          insertEntry ⟨x.keyIn i (o.pair l 0) ws, e.ref⟩ (x.without i e.ref) else x.index i) := by
  intro n ws p
  have hfind := State.usable_find hu
  have hp : p = _ := State.performLane_replaces (c := c) (cached := cached) hu hi he
  refine ⟨fun h => ?_, fun s1 h hl hw => ?_⟩
  · rw [hp, State.replaceRow_clash h]
    obtain ⟨hm, y, hy, hsame, -⟩ := State.modTable_counted hfind 6
    exact ⟨rfl, hm, y, hy, hsame⟩
  · have hf1 : Assoc.find s1.tables n = some x := by rw [State.writeRow_tables hw]; exact hfind
    have hrows := Table.replaced_rowAt (State.usable_kind hu) hl e.ref ws
    rw [hp, State.replaceRow_done h hr hw]
    exact ⟨rfl, State.modTable_memory _ _ _, _, State.find_modTable hf1 _, hrows.1, hrows.2,
      fun i hi => Table.replaced_index hleaf r e.ref (o.pair l 0) ws hi⟩

/-- DEL of a key. -/
theorem deletions_performed {s : State} {c : Nat} {o : Op} {l : Nat} {cached : Bool} {x : Table} {d a : BitVec 7} {b : BitVec 6}
    (hu : s.usable (o.gvals.getD 2 0#64) false = some x) (hleaf : x.oneLeaf) (hi : o.instr = .del d a b) :
    let h := o.gvals.getD 2 0#64
    let key := o.pair l 0
    let p := s.performLane c o cached l
    (firstOf key (x.index (hSelector h)) = none → p = (s, .done (refWords 0))) ∧
    (∀ e r, firstOf key (x.index (hSelector h)) = some e → x.rowOfRef e.ref = some r →
      p.2 = .done (refWords e.ref) ∧ p.1.mem = s.mem ∧ ∃ y, Assoc.find p.1.tables (hNumber h) = some y ∧
        y.rowAt r = ⟨.deleted s.running, (x.rowAt r).key, (x.rowAt r).version + 1#32⟩ ∧
        (∀ k, k ≠ r → y.rowAt k = x.rowAt k) ∧
        ∀ i < 4, y.index i = if x.hasIndex i then x.without i e.ref else x.index i) := by
  intro h key p
  have hp : p = _ := State.performLane_deletes (c := c) (cached := cached) hu hi
  refine ⟨fun hn => ?_, fun e r he hr => ?_⟩
  · rw [hp, State.deleteKey_none hn]
  · rw [hp, State.deleteKey_done he hr]
    exact ⟨rfl, State.modTable_memory _ _ _, _, State.find_modTable (State.usable_find hu) _,
      (Table.deleted_rowAt x r e.ref s.running).1, (Table.deleted_rowAt x r e.ref s.running).2,
      fun i hi => Table.deleted_index hleaf r e.ref s.running hi⟩

/-- REKEY of a reference. -/
theorem rekeyings_performed {s : State} {c : Nat} {o : Op} {l : Nat} {cached : Bool} {x : Table} {d a : BitVec 7} {b : BitVec 6}
    (hu : s.usable (o.gvals.getD 2 0#64) false = some x) (hleaf : x.oneLeaf) (hi : o.instr = .rekey d a b) :
    let n := hNumber (o.gvals.getD 2 0#64)
    let key := o.pair l 0
    let new := o.pair l 2
    let near := s.nearRef n key
    let p := s.performLane c o cached l
    (∀ r, x.rowOfRef near = some r → (x.rowAt r).state = .live → x.otherHas new near = false →
      p.2 = .done (refWords (if near = 0 then 0 else key)) ∧ p.1.mem = s.mem ∧ ∃ y, Assoc.find p.1.tables n = some y ∧
        y.rowAt r = ⟨.live, new, (x.rowAt r).version + 1#32⟩ ∧ (∀ k, k ≠ r → y.rowAt k = x.rowAt k) ∧
        ∀ i < 4, y.index i = if x.hasIndex i && decide (i < 2) then insertEntry ⟨new, near⟩ (x.without i near) else x.index i) ∧
    (x.rowOfRef near = none → p.2 = .done (refWords 0) ∧ p.1.mem = s.mem ∧
      ∃ y, Assoc.find p.1.tables n = some y ∧ (y.rows = x.rows ∧ ∀ i, y.index i = x.index i)) ∧
    (∀ r, x.rowOfRef near = some r → (x.rowAt r).state = .live → x.otherHas new near = true →
      p.2 = .fault (.duplicateKey, 0) ∧ p.1.mem = s.mem ∧
      ∃ y, Assoc.find p.1.tables n = some y ∧ (y.rows = x.rows ∧ ∀ i, y.index i = x.index i)) := by
  intro n key new near p
  have hfind := State.usable_find hu
  have hp : p = _ := State.performLane_rekeys (c := c) (cached := cached) hu hi
  refine ⟨fun r hr hl hc => ?_, fun hr => ?_, fun r hr hl hc => ?_⟩
  · have hrows := Table.rekeyed_rowAt hl near new
    rw [hp, State.rekeyRow_done hr hl hc]
    exact ⟨rfl, State.modTable_memory _ _ _, _, State.find_modTable hfind _, hrows.1, hrows.2,
      fun i hi => Table.rekeyed_index hleaf r near new hi⟩
  · rw [hp, State.rekeyRow_none hr]
    obtain ⟨hm, y, hy, hsame, -⟩ := State.modTable_counted hfind 5
    exact ⟨rfl, hm, y, hy, hsame⟩
  · rw [hp, State.rekeyRow_clash hr hl hc]
    obtain ⟨hm, y, hy, hsame, -⟩ := State.modTable_counted hfind 6
    exact ⟨rfl, hm, y, hy, hsame⟩

/-- COPEN of a lane. -/
theorem cursors_opened {s : State} {c : Nat} {o : Op} {l : Nat} {cached : Bool} {d : BitVec 8} {a : BitVec 7} {b : BitVec 6}
    (hi : o.instr = .copen d a b) :
    let p := s.performLane c o cached l
    let k := s.core c
    let h := o.gvals.getD 2 0#64
    (hSelector h = 0 ∨ hRemote h = false ∧ s.usable h false = none → p = (s, .fault (.staleHandle, 0))) ∧
    (hSelector h ≠ 0 → hRemote h = true ∨ (s.usable h false).isSome = true → k.gen o.slot ≠ o.gen →
      p = (s, .done [0#32])) ∧
    (hSelector h ≠ 0 → hRemote h = true ∨ (s.usable h false).isSome = true → k.gen o.slot = o.gen →
      (∀ r ∈ o.results, r.2 ≠ [0#32]) →
      (∀ i, k.freeCursor = some i → ∃ serial, 1 ≤ serial ∧ serial ≤ max 65535 (k.cursorSer + 1) ∧
        p.2 = .done [BitVec.ofNat 32 (serial * 2 ^ 16 + i)] ∧ Assoc.find (p.1.core c).cursors i =
          some ⟨o.slot, o.gen, h, o.pair l 0, o.pair l 2, serial, none, o.pair l 0, false⟩ ∧ p.1.mem = s.mem) ∧
      (k.freeCursor = none → p.2 = .done [0#32] ∧
        (p.1.core c).counter 0x1041 = k.counter 0x1041 + 1#64 ∧ (p.1.core c).cursors = k.cursors)) := by
  intro p k h
  have hp : p = s.performCopen c o l := by simp only [p, State.performLane, hi]
  rw [hp]
  refine ⟨State.performCopen_stale rfl, State.performCopen_gone rfl, fun hsel hgood hgen hres => ?_⟩
  rw [State.performCopen_free rfl hsel hgood hgen hres]
  refine ⟨fun i hfree => ?_, fun hfree => ?_⟩
  · rw [show (s.core c).freeCursor = some i from hfree]
    refine ⟨k.nextSerial, k.nextSerial_bounds.1, k.nextSerial_bounds.2, rfl, ?_, rfl⟩
    rw [State.core_modCore]
    exact Assoc.find_set_same _ _ _
  · rw [show (s.core c).freeCursor = none from hfree]
    have hcore : (s.count c 0x1041).core c = k.count 0x1041 := State.core_modCore s c _
    exact ⟨rfl, by rw [hcore]; exact CoreSt.counter_count k _ 1, by rw [hcore]; rfl⟩

/-- CSTEP and CSTEPN of a lane. -/
theorem cursors_stepped {s : State} {c : Nat} {o : Op} {l : Nat} {cached : Bool} {d : BitVec 7} {a : BitVec 8} {count : Nat}
    (hi : o.stepsBy d a count) :
    let p := s.performLane c o cached l
    let k := s.core c
    let h := (o.words l).getD 0 0#32
    (h = 0#32 → p = (s, .done (stepWords o.instr count []))) ∧
    (h ≠ 0#32 → k.cursor? o.slot o.gen h = none → p = (s, .fault (.staleHandle, 0))) ∧
    (∀ i x, h ≠ 0#32 → k.cursor? o.slot o.gen h = some (i, x) →
      (s.usable x.handle false = none → p = (s, .fault (.staleHandle, 0))) ∧
      (∀ t, s.usable x.handle false = some t →
        let es := x.next count (t.index (hSelector x.handle))
        p.2 = .done (stepWords o.instr count es) ∧ p.1.mem = s.mem ∧ p.1.tables = s.tables ∧
          Assoc.find (p.1.core c).cursors i = some (x.stepped es count))) := by
  intro p k h
  have hp : p = _ := State.performLane_steps (s := s) (c := c) (l := l) (cached := cached) hi
  refine ⟨fun h0 => ?_, fun hne hc => ?_, fun i x hne hc => ⟨fun hu => ?_, fun t hu => ?_⟩⟩
  · rw [hp, if_pos h0]
  · rw [hp, if_neg hne, State.stepCursor_none hc]
  · rw [hp, if_neg hne, State.stepCursor_stale hc hu]
  · rw [hp, if_neg hne, State.stepCursor_steps hc hu]
    refine ⟨rfl, rfl, rfl, ?_⟩
    rw [State.core_modCore]
    exact CoreSt.find_setCursor _ _ _

/-- The words of a step, written out. -/
theorem stepWords_eq {o : Op} {d : BitVec 7} {a : BitVec 8} {count : Nat} (hi : o.stepsBy d a count) (es : List Entry) :
    stepWords o.instr count es = if o.instr = .cstep d a then (match es with
        | e :: _ => refWords e.ref ++ refWords e.key
        | [] => List.replicate 4 0#32)
      else BitVec.ofNat 32 es.length :: 0#32 :: (es.flatMap fun e => refWords e.ref) ++
        List.replicate (2 * (count - es.length)) 0#32 := by
  rcases hi with ⟨hi, -⟩ | ⟨hi, -⟩
  · rw [if_pos hi, hi]
    cases es <;> rfl
  · rw [if_neg (by rw [hi]; exact fun h => Instr.noConfusion h), hi]
    rfl

/-- Settles O32: each index operation of a lane leaves the table that its equation names, whose rows and indexes are known, and a
cursor word the cursor that it names. -/
theorem indexAndCursorOperations : Obligations.IndexAndCursorOperations := by
  unfold Obligations.IndexAndCursorOperations
  refine ⟨fun s c n o l cached hp h hl ht => exec_indexLane cached hp h hl ht, fun s c o l cached x => ?_,
    fun cap x e h y => Tree.mem_insert h y, fun s c o l cached => ?_⟩
  · intro h n key ws prim dup p same hu hleaf
    refine ⟨⟨Table.payloadOf_length _ _, Table.payloadOf_getD _ _⟩, fun d a b hi => insertions_performed hu hleaf hi,
      fun d a b e r hi he hr => replacements_performed hu hleaf hi he hr, fun d a b hi => deletions_performed hu hleaf hi,
      fun d a b hi => ⟨State.nearRef_near, rekeyings_performed hu hleaf hi⟩⟩
  · intro p k
    refine ⟨fun d a b hi => cursors_opened hi, fun d a count hi => ?_, fun d a hi => ?_⟩
    · obtain ⟨h0, hnone, hsome⟩ := cursors_stepped (s := s) (c := c) (l := l) (cached := cached) hi
      intro h words
      have hwords : ∀ es, words es = stepWords o.instr count es := fun es => (stepWords_eq hi es).symm
      refine ⟨fun hz => (h0 hz).trans (congrArg (fun w => (s, LaneOut.done w)) (hwords []).symm), hnone, fun i x hne hc => ⟨(hsome i x hne hc).1, fun t hu => ?_⟩⟩
      obtain ⟨hw, hm, ht, hcur⟩ := (hsome i x hne hc).2 t hu
      intro es
      have hes : es = x.next count (t.index (hSelector x.handle)) := by
        simp only [es, Cursor.next, cursorNext_eq] <;> rfl
      rw [hes]
      exact ⟨hw.trans (congrArg LaneOut.done (hwords _).symm), hm, ht, hcur⟩
    · have hp : p = s.performCseek c o l := by simp only [p, State.performLane, hi]
      intro h
      refine ⟨fun hz => ?_, fun hne hc => ?_, fun i x hne hc hgood => ?_⟩
      · rw [hp]; exact if_pos hz
      · rw [hp, State.performCseek_none rfl hne hc]
        exact ⟨rfl, fun hgen st hst hlive hl => State.zeroCursor_zeroes hi hgen hst hlive hl⟩
      · rw [hp, State.performCseek_seeks rfl hne hc hgood]
        refine ⟨rfl, ?_⟩
        rw [State.core_modCore]
        exact CoreSt.find_setCursor _ _ _

end
end

section
/-! SUPPORT. Bank sets and controllers of the stacks: what their replacement leaves, the end of a wake, the package phase
(R282-R288). -/

namespace Sys2Proof.Machine

/-! ### Bank sets and stacks replaced -/

@[simp] theorem State.bank_setBank (s : State) (b : Nat) (x : Bank) : (s.setBank b x).bank b = x := by
  simp [State.bank, State.setBank, Assoc.get_eq_find, Assoc.find_set_same]

theorem State.bank_setBank_other (s : State) {b k : Nat} (x : Bank) (h : k ≠ b) : (s.setBank b x).bank k = s.bank k :=
  Assoc.get_set_other _ _ _ (Ne.symm h)

@[simp] theorem State.bank_countStack (s : State) (n k b : Nat) : (s.countStack n k).bank b = s.bank b := rfl

@[simp] theorem State.countStack_memory (s : State) (n k : Nat) : (s.countStack n k).mem = s.mem := rfl

@[simp] theorem State.stackOf_modStack (s : State) (n : Nat) (f : Stack → Stack) : (s.modStack n f).stackOf n = f (s.stackOf n) := by
  simp [State.stackOf, State.modStack, Assoc.find_set_same]

theorem State.stackOf_modStack_other (s : State) {n k : Nat} (f : Stack → Stack) (h : k ≠ n) :
    (s.modStack n f).stackOf k = s.stackOf k := by
  simp only [State.stackOf, State.modStack, Assoc.find_set_other _ _ (Ne.symm h)]

/-! ### The end of a wake -/

/-- A bank set as its wake leaves it. -/
def Bank.woken (x : Bank) (now : Nat) : Bank :=
  { x with state := .active, entering := false, rewake := false, fromDeep := false, waiters := [], idleFrom := now }

theorem State.addStall_keep {β : Type} (p : State → β) (hp : ∀ (s : State) ls, p { s with launches := ls } = p s) (s : State)
    (x : Waiter) : p (s.addStall x) = p s := by
  unfold State.addStall
  split
  · exact hp _ _
  · rfl

theorem State.bankWoken_bank (s : State) (b : Nat) (deep : Bool) : (s.bankWoken b deep).bank b = (s.bank b).woken s.timePs := by
  unfold State.bankWoken
  refine (foldl_keep (fun t : State => t.bank b) State.addStall
    (fun t x => State.addStall_keep (fun t => t.bank b) (fun _ _ => rfl) t x) _ _).trans ?_
  cases deep <;> simp [Bank.woken]

theorem State.bankWoken_mem (s : State) (b : Nat) (deep : Bool) :
    (s.bankWoken b deep).mem = if deep then s.mem.clearBank b else s.mem := by
  unfold State.bankWoken
  refine (foldl_keep State.mem State.addStall (fun t x => State.addStall_keep State.mem (fun _ _ => rfl) t x) _ _).trans ?_
  cases deep <;> rfl

theorem Mem.clearBank_byte (m : Mem) (b a : Nat) : (m.clearBank b).byte a = if a / 2 ^ 30 = b then 0#8 else m.byte a := by
  unfold Mem.byte Mem.clearBank
  split
  · next h => exact Assoc.get_filter_false Config.unwritten m.cells (fun n => n / 2 ^ 30 != b) a (by simpa using h)
  · next h => exact Assoc.get_filter_true Config.unwritten m.cells (fun n => n / 2 ^ 30 != b) a (by simpa using h)

theorem Mem.clearBank_good (m : Mem) {b k : Nat} (h : k / 2 ^ 25 = b) :
    k ∉ (m.clearBank b).poison ∧ Assoc.get 0#16 (m.clearBank b).codeErr k = 0#16 := by
  refine ⟨fun hk => ?_, Assoc.get_filter_false 0#16 m.codeErr (fun n => n / 2 ^ 25 != b) k (by simpa using h)⟩
  obtain ⟨-, hne⟩ := List.mem_filter.mp hk
  exact absurd h (by simpa using hne)

/-! ### The power states of a bank set -/

section Power
variable {s : State} {st b : Nat}

theorem bankOk_of_lt (hst : st < 8) (hb : b < 64) : bankOk st b = true := by simp [bankOk, hst, hb]

theorem execBankRetentionEntry_enters (hok : bankOk st b = true) {limit : Nat}
    (hl : idleThreshold (s.stackOf st).phase = some limit) (ha : (s.bank (bankNumber st b)).allocated = true)
    (hs : (s.bank (bankNumber st b)).state = .active) (hi : (s.bank (bankNumber st b)).idleFrom + limit ≤ s.timePs) :
    execBankRetentionEntry st b s =
      .next ((s.setBank (bankNumber st b) { s.bank (bankNumber st b) with state := .retention, entering := true }).countStack st 0x100) := by
  simp [execBankRetentionEntry, hok, hl, ha, hs, hi]

theorem execBankRetentionEntry_stays (hl : idleThreshold (s.stackOf st).phase = none) :
    execBankRetentionEntry st b s = .next s := by
  simp [execBankRetentionEntry, hl]

theorem execBankDeepPowerDown_enters (hok : bankOk st b = true) (ha : (s.bank (bankNumber st b)).allocated = false)
    (hd : (s.bank (bankNumber st b)).deepAllowed = true)
    (hs : (s.bank (bankNumber st b)).state = .active ∨
      (s.bank (bankNumber st b)).state = .retention ∧ (s.bank (bankNumber st b)).entering = false)
    (hi : (s.bank (bankNumber st b)).idleFrom + 100000000 ≤ s.timePs) :
    execBankDeepPowerDown st b s =
      .next ((s.setBank (bankNumber st b) { s.bank (bankNumber st b) with state := .deep, entering := true }).countStack st 0x101) := by
  rcases hs with hs | ⟨hs, he⟩
  · simp [execBankDeepPowerDown, hok, ha, hd, hs, hi]
  · simp [execBankDeepPowerDown, hok, ha, hd, hs, he, hi]

theorem execBankDeepPowerDown_stays (ha : (s.bank (bankNumber st b)).allocated = true) :
    execBankDeepPowerDown st b s = .next s := by
  simp [execBankDeepPowerDown, ha]

/-- A bank set as the end of an entry leaves it. -/
def Bank.entered (x : Bank) : Bank :=
  if x.state = .deep ∧ x.rewake = true then { x with state := .waking, entering := false, rewake := false, fromDeep := true }
  else { x with entering := false }

theorem execPowerStateEntryComplete_ends (hok : bankOk st b = true) (he : (s.bank (bankNumber st b)).entering = true) :
    execPowerStateEntryComplete st b s = .next (s.setBank (bankNumber st b) (s.bank (bankNumber st b)).entered) := by
  unfold execPowerStateEntryComplete Bank.entered
  simp only [hok, he, Bool.not_true, Bool.or_self, Bool.false_eq_true, if_false]
  by_cases h : (s.bank (bankNumber st b)).state = .deep ∧ (s.bank (bankNumber st b)).rewake = true
  · rw [if_pos h, if_pos (by simp [h.1, h.2])]
  · rw [if_neg h, if_neg (by simpa using h)]

theorem execBankWakeEnd_ends (hok : bankOk st b = true) (hs : (s.bank (bankNumber st b)).state = .waking) :
    execBankWakeEnd st b s = .next (s.bankWoken (bankNumber st b) (s.bank (bankNumber st b)).fromDeep) := by
  simp [execBankWakeEnd, hok, hs]

/-! ### The controllers' map -/

/-- A bank set as a write of its map entry leaves it (R286). -/
def Bank.mapped (x : Bank) (v : Word) : Bank :=
  { x with
    allocated := v.getLsbD 31
    deepAllowed := v.getLsbD 30
    wakes := x.wakes &&& ~~~ (v.extractLsb' 16 8)
    state := if v.getLsbD 31 = true ∧ x.state = .deep ∧ x.entering = false then .waking else x.state
    fromDeep := if v.getLsbD 31 = true ∧ x.state = .deep ∧ x.entering = false then true else x.fromDeep
    rewake := if v.getLsbD 31 = true ∧ x.state = .deep ∧ x.entering = true then true else x.rewake }

theorem ofNat_slice_wakes (v : Word) : BitVec.ofNat 8 (slice v 23 16) = v.extractLsb' 16 8 := by
  apply BitVec.eq_of_toNat_eq
  simp [slice, BitVec.extractLsb'_toNat]

theorem execBankMapWrite_writes (hok : bankOk st b = true) (hk : s.kuenrex = true) (v : Word) :
    execBankMapWrite st b v s = .next (s.setBank (bankNumber st b) ((s.bank (bankNumber st b)).mapped v)) := by
  unfold execBankMapWrite Bank.mapped
  simp only [hok, hk, Bool.and_self, if_true, ofNat_slice_wakes]
  congr 2
  by_cases h : v.getLsbD 31 = true ∧ (s.bank (bankNumber st b)).state = .deep
  · obtain ⟨h1, h2⟩ := h
    rw [if_pos (by rw [h1, h2]; rfl)]
    cases he : (s.bank (bankNumber st b)).entering <;> simp only [h1, h2] <;> simp
  · rw [if_neg (by simpa using h), if_neg fun h' => h ⟨h'.1, h'.2.1⟩, if_neg fun h' => h ⟨h'.1, h'.2.1⟩,
      if_neg fun h' => h ⟨h'.1, h'.2.1⟩]

end Power

/-! ### The package phase -/

/-- The greatest of the values of a list, from a first one on: it is above each, and is one of them or the first. -/
theorem foldl_max_spec {α : Type} (f : α → Nat) (xs : List α) (m : Nat) :
    m ≤ xs.foldl (fun m x => max m (f x)) m ∧ (∀ x ∈ xs, f x ≤ xs.foldl (fun m x => max m (f x)) m) ∧
    (xs.foldl (fun m x => max m (f x)) m = m ∨ ∃ x ∈ xs, xs.foldl (fun m x => max m (f x)) m = f x) := by
  induction xs generalizing m with
  | nil => simp
  | cons y ys ih =>
    obtain ⟨h1, h2, h3⟩ := ih (max m (f y))
    simp only [List.foldl_cons, List.mem_cons, forall_eq_or_imp, exists_eq_or_imp]
    refine ⟨by omega, ⟨by omega, h2⟩, ?_⟩
    rcases h3 with h3 | h3
    · rcases Nat.le_total (f y) m with h | h
      · exact .inl (h3.trans (Nat.max_eq_left h))
      · exact .inr (.inl (h3.trans (Nat.max_eq_right h)))
    · exact .inr (.inr h3)

theorem State.le_packagePhase {s : State} {k : Nat} {x : CoreSt} (hk : (k, x) ∈ s.cores) {y : Nat × Strand} (hy : y ∈ x.slots) :
    y.2.group.phase ≤ s.packagePhase :=
  ((foldl_max_spec (fun x : Nat × Strand => x.2.group.phase) x.slots 0).2.1 y hy).trans
    ((foldl_max_spec (fun x : Nat × CoreSt => x.2.phase) s.cores 0).2.1 _ hk)

theorem State.packagePhase_of {s : State} : s.packagePhase = 0 ∨
    ∃ k x, (k, x) ∈ s.cores ∧ ∃ y ∈ x.slots, y.2.group.phase = s.packagePhase := by
  rcases (foldl_max_spec (fun x : Nat × CoreSt => x.2.phase) s.cores 0).2.2 with h | ⟨⟨k, x⟩, hk, h⟩
  · exact .inl h
  · rcases (foldl_max_spec (fun x : Nat × Strand => x.2.group.phase) x.slots 0).2.2 with h' | ⟨y, hy, h'⟩
    · exact .inl (h.trans h')
    · exact .inr ⟨k, x, hk, y, hy, (h.trans h').symm⟩

/-- The values of a list changed by their numbers. -/
theorem Assoc.get_map {α : Type} (d : α) (f : Nat → α → α) (hd : ∀ n, f n d = d) (m : List (Nat × α)) (n : Nat) :
    Assoc.get d (m.map fun x => (x.1, f x.1 x.2)) n = f n (Assoc.get d m n) := by
  induction m with
  | nil => exact (hd n).symm
  | cons x xs ih =>
    obtain ⟨k, v⟩ := x
    by_cases h : k = n
    · subst h; simp [Assoc.get]
    · simpa [Assoc.get, h] using ih

/-- The controller of a stack takes up the package phase. -/
def State.withPhase (s : State) (st : Nat) : State := s.modStack st fun x => { x with phase := s.packagePhase }

/-- The bank sets of a stack are woken from retention. -/
def State.roused (s : State) (st : Nat) : State :=
  { s with banks := s.banks.map fun x => (x.1, if x.1 / 64 = st then x.2.rouse else x.2) }

theorem execPackagePhaseApply_eq {s : State} {st : Nat} (h : st < 8) : execPackagePhaseApply st s =
    if s.packagePhase = 3 then .next ((s.withPhase st).roused st) else .next (s.withPhase st) :=
  if_neg (by omega)

theorem Bank.rouse_retention {x : Bank} (ha : x.allocated = true) (hr : x.state = .retention) : x.rouse.state = .waking := by
  simp [Bank.rouse, ha, hr]

/-- The bank set of a stack whose controller takes up burst. -/
theorem State.rouse_bank (s : State) (st n : Nat) : (s.roused st).bank n =
      if n / 64 = st then (s.bank n).rouse else s.bank n :=
  Assoc.get_map Bank.reset (fun k x => if k / 64 = st then x.rouse else x) (fun k => by split <;> rfl) s.banks n

end Sys2Proof.Machine

section
open Sys2Proof Sys2Proof.Machine

theorem idleThreshold_of {phase limit : Nat} (h : phase = 0 ∧ limit = 20000000 ∨ phase = 1 ∧ limit = 200000000) :
    idleThreshold phase = some limit := by
  rcases h with ⟨rfl, rfl⟩ | ⟨rfl, rfl⟩ <;> rfl

/-- Settles O54: each step of the memory side is the bank set or the phase that its equation gives; the wake alone touches
memory. -/
theorem bankStates : Obligations.BankStates := by
  unfold Obligations.BankStates
  refine ⟨fun s st b hst hb => ?_, fun s st b hst hb => ?_⟩
  · have hok := bankOk_of_lt hst hb
    intro n x
    refine ⟨fun limit hl ha hs hi => ?_, fun hp => ?_, fun ha hd hs hi => ?_, fun ha => ?_, fun he => ?_, fun hs => ?_⟩
    · exact ⟨_, execBankRetentionEntry_enters hok (idleThreshold_of hl) ha hs hi, rfl,
        (State.bank_countStack _ _ _ _).trans (State.bank_setBank _ _ _)⟩
    · exact execBankRetentionEntry_stays (by rcases hp with h | h <;> rw [h] <;> rfl)
    · exact ⟨_, execBankDeepPowerDown_enters hok ha hd hs hi, rfl,
        (State.bank_countStack _ _ _ _).trans (State.bank_setBank _ _ _)⟩
    · exact execBankDeepPowerDown_stays ha
    · exact ⟨_, execPowerStateEntryComplete_ends hok he, rfl, State.bank_setBank _ _ _⟩
    · have hbank : (s.bankWoken n x.fromDeep).bank n = x.woken s.timePs := State.bankWoken_bank s n _
      have hmem : (s.bankWoken n x.fromDeep).mem = _ := State.bankWoken_mem s n x.fromDeep
      refine ⟨s.bankWoken n x.fromDeep, execBankWakeEnd_ends hok hs, by rw [hbank]; rfl, by rw [hbank]; rfl, by rw [hbank]; rfl, by rw [hbank]; rfl,
        fun hf => by rw [hmem, hf]; rfl, fun hf a => ?_, fun hf k hk => ?_⟩
      · rw [hmem, hf]; exact Mem.clearBank_byte s.mem n a
      · rw [hmem, hf]; exact Mem.clearBank_good s.mem hk
  · have hok := bankOk_of_lt hst hb
    intro n x
    refine ⟨fun hk v => ?_, fun hk v => ?_, ?_⟩
    · change execBankMapWrite st b v s = _
      simp [execBankMapWrite, hk]
    · refine ⟨s.setBank n (x.mapped v), execBankMapWrite_writes hok hk v, rfl, ?_⟩
      rw [State.bank_setBank]
      exact ⟨rfl, rfl, rfl, rfl, rfl, fun k hk => State.bank_setBank_other s _ hk⟩
    · have hdiv : n / 64 = st := by simp only [n]; omega
      have hstack : (s.withPhase st).stackOf st = { s.stackOf st with phase := s.packagePhase } := State.stackOf_modStack s st _
      by_cases h3 : s.packagePhase = 3
      · refine ⟨(s.withPhase st).roused st, (execPackagePhaseApply_eq hst).trans (if_pos h3), rfl, rfl, ?_⟩
        have hstack' : ((s.withPhase st).roused st).stackOf st = _ := hstack
        rw [hstack']
        refine ⟨fun k x hk y hy => State.le_packagePhase hk hy, State.packagePhase_of, fun _ ha hr => ?_, fun hne => absurd h3 hne⟩
        rw [State.rouse_bank, if_pos hdiv]
        exact Bank.rouse_retention ha hr
      · refine ⟨s.withPhase st, (execPackagePhaseApply_eq hst).trans (if_neg h3), rfl, rfl, ?_⟩
        rw [hstack]
        exact ⟨fun k x hk y hy => State.le_packagePhase hk hy, State.packagePhase_of, fun h => absurd h h3, fun _ => rfl⟩

end
end

section
/-! SUPPORT. What engines' accesses to memory leave of the cores and of the stacks' free slots (R283, R296), and the entry and the
slots of a block that moves (R292-R295). -/

namespace Sys2Proof.Machine

/-! ### Accesses of engines, which use no TLB -/

/-- A stack without its cache and its counters. -/
def Stack.settled (x : Stack) : Stack := { x with cache := [], counters := [] }

/-- A state that differs from s in no more than what engines' accesses to memory change: their stacks' caches and counters, the
bank sets, memory, stalls, reports. -/
structure State.Served (s t : State) : Prop where
  accessed : s.Accessed t
  cores    : t.cores = s.cores
  settled  : ∀ n, (t.stackOf n).settled = (s.stackOf n).settled

namespace State.Served

theorem refl (s : State) : s.Served s := ⟨.refl s, rfl, fun _ => rfl⟩

theorem trans {s t u : State} (h : s.Served t) (h' : t.Served u) : s.Served u :=
  ⟨h.accessed.trans h'.accessed, h'.cores.trans h.cores, fun n => (h'.settled n).trans (h.settled n)⟩

theorem keep {β : Type} (p : State → β) (hp : ∀ s t : State, p (t.withMemoryOf s) = p t) {s t : State} (h : s.Served t) :
    p t = p s := h.accessed.keep p hp

/-- The free slots of a stack, which its cache and its counters are no part of. -/
theorem slots {s t : State} (h : s.Served t) (n tier cls : Nat) : (t.stackOf n).slots tier cls = (s.stackOf n).slots tier cls := by
  have := congrArg (fun x : Stack => x.slots tier cls) (h.settled n)
  exact this

end State.Served

section
variable {s : State}

theorem State.served_of {t : State} (hrest : t.withMemoryOf s = s) (hcores : t.cores = s.cores) (hlaunches : t.launches = s.launches)
    (hstacks : t.stackCtl = s.stackCtl) : s.Served t :=
  ⟨State.accessed_of hrest hcores hlaunches, hcores, fun n => by rw [State.stackOf, State.stackOf, hstacks]⟩

theorem State.served_setBank (b : Nat) (x : Bank) : s.Served (s.setBank b x) := State.served_of rfl rfl rfl rfl
theorem State.served_mem (m : Mem) : s.Served { s with mem := m } := State.served_of rfl rfl rfl rfl

theorem State.served_modStack (n : Nat) (f : Stack → Stack) (hf : ∀ x, (f x).settled = x.settled) : s.Served (s.modStack n f) := by
  refine ⟨State.accessed_modStack n f, rfl, fun k => ?_⟩
  by_cases hk : k = n
  · subst hk
    rw [State.stackOf_modStack, hf]
  · rw [State.stackOf_modStack_other s f hk]

theorem State.served_countStack (n k : Nat) : s.Served (s.countStack n k) := State.served_modStack _ _ fun _ => rfl

theorem State.served_addStall (x : Waiter) : s.Served (s.addStall x) :=
  ⟨State.accessed_addStall x, State.addStall_keep State.cores (fun _ _ => rfl) s x,
    fun n => congrArg Stack.settled (State.addStall_keep (fun t => t.stackOf n) (fun _ _ => rfl) s x)⟩

theorem State.served_foldl {α : Type} (f : State → α → State) (h : ∀ (t : State) a, t.Served (f t a)) (xs : List α) (s : State) :
    s.Served (xs.foldl f s) := by
  induction xs generalizing s with
  | nil => exact .refl s
  | cons x xs ih => exact (h s x).trans (ih _)

theorem State.served_bankWoken (b : Nat) (deep : Bool) : s.Served (s.bankWoken b deep) := by
  unfold State.bankWoken
  refine .trans ?_ (State.served_foldl _ (fun t x => t.served_addStall x) _ _)
  refine .trans (.trans ?_ (State.served_setBank b _)) (State.served_countStack _ _)
  split
  · exact State.served_mem _
  · exact .refl s

theorem State.served_touch (pa : Nat) : s.Served (s.touch pa) := by
  unfold State.touch
  split
  · exact .refl s
  · refine .trans (t := s.cacheSector pa) (State.served_modStack _ _ fun _ => rfl) ?_
    dsimp only
    split
    · exact State.served_setBank _ _
    · split
      · exact State.served_setBank _ _
      · exact State.served_bankWoken _ _
    · exact (State.served_setBank _ _).trans (State.served_bankWoken _ _)
    · exact State.served_bankWoken _ _

theorem State.served_serve (w : Who) (pa : Nat) : s.Served (s.serve w pa) := by
  unfold State.serve
  split
  · exact ((State.served_countStack _ _).trans (State.served_addStall _)).trans (State.served_touch pa)
  · exact State.served_touch pa

theorem State.served_freezeBy (n : Nat) : s.Served (s.freezeBy n) := by
  unfold State.freezeBy
  split
  · split
    · exact State.served_of rfl rfl rfl rfl
    · exact .refl s
  · exact State.served_of rfl rfl rfl rfl

theorem State.served_post (w : Who) (pa cause : Nat) : s.Served (s.post w pa cause) := by
  unfold State.post State.postFault
  split
  · dsimp only
    split
    · refine .trans ?_ (State.served_freezeBy 3)
      exact State.served_of rfl rfl rfl rfl
    · exact State.served_of rfl rfl rfl rfl
  · exact State.served_of rfl rfl rfl rfl

theorem State.served_fromSource {t : State} (h : s.Served t) (b : State) (n : Nat) : s.Served (b.fromSource t n) :=
  h.trans (State.served_of rfl rfl rfl rfl)

theorem State.served_consume (w : Who) (n : Nat) : s.Served (s.consume w n).1 := by
  unfold State.consume
  refine .trans (State.served_serve w (32 * n)) ?_
  dsimp only
  split
  · exact State.served_post _ _ _
  · split
    · exact State.served_post _ _ _
    · split
      · exact (State.served_mem _).trans (State.served_post _ _ _)
      · exact .refl _

theorem State.served_consumeAll (w : Who) (ns : List Nat) (s : State) : s.Served (State.consumeAll w ns s).1 := by
  induction ns generalizing s with
  | nil => exact .refl s
  | cons n ns ih =>
    have hone := State.served_consume (s := s) w n
    unfold State.consumeAll
    split <;> next heq => rw [heq] at hone; exact hone.trans (ih _)

theorem State.served_serveSlot (w : Who) (e : BlockEntry) : s.Served (s.serveSlot w e) :=
  (State.served_serve w _).trans (State.served_serve w _)

theorem State.served_laySlot (w : Who) (e : BlockEntry) (key : Nat) (xs : List Sector) : s.Served (s.laySlot w e key xs) := by
  unfold State.laySlot
  refine .trans (State.served_serveSlot w e) ?_
  dsimp only
  split <;> exact State.served_mem _

theorem State.served_setBlockEntry (n : Nat) (e : BlockEntry) : s.Served (s.setBlockEntry n e) := State.served_mem _

theorem State.served_readEntry (w : Who) (n : Nat) : s.Served (s.readEntry w n).1 := by
  unfold State.readEntry
  have h := State.served_consume (s := s) w (s.entrySector n)
  split
  · next heq => rw [heq] at h; exact h
  · next heq =>
    rw [heq] at h
    split <;> exact h

end

/-! ### Entries and slots -/

/-- An entry that its 64 bits hold. -/
structure BlockEntry.fits (e : BlockEntry) : Prop where
  valid : e.valid = true
  tier  : e.tier < 2
  cls   : e.cls < 4
  slot  : e.slot % 4096 = 0 ∧ e.slot < 2 ^ 48

theorem State.blockEntry_setBlockEntry (s : State) (n : Nat) {e : BlockEntry} (h : e.fits) : (s.setBlockEntry n e).blockEntry n = e := by
  obtain ⟨v, tier, cls, slot⟩ := e
  obtain ⟨hv, htier, hcls, hslot, hlt⟩ := h
  dsimp only at hv htier hcls hslot hlt
  subst hv
  have hbytes : (s.setBlockEntry n ⟨true, tier, cls, slot⟩).mem.bytes (s.blockBase + 8 * n) 8 =
      bytesOf 8 (BlockEntry.code ⟨true, tier, cls, slot⟩) := by
    have := Mem.bytes_poke_same s.mem (s.blockBase + 8 * n) (bytesOf 8 (BlockEntry.code ⟨true, tier, cls, slot⟩))
    rwa [bytesOf_length] at this
  have hcode : BlockEntry.code ⟨true, tier, cls, slot⟩ = 2 ^ 63 + tier * 2 ^ 62 + cls * 2 ^ 60 + slot := rfl
  have hbase : (s.setBlockEntry n ⟨true, tier, cls, slot⟩).blockBase = s.blockBase := rfl
  unfold State.blockEntry
  rw [hbase, hbytes, natOf_bytesOf (by rw [hcode]; omega), hcode]
  simp only [BlockEntry.mk.injEq]
  refine ⟨?_, ?_, ?_, ?_⟩
  · rw [Nat.testBit_eq_decide_div_mod_eq]
    exact decide_eq_true (by omega)
  · omega
  · omega
  · omega

theorem State.blockEntry_modStack (s : State) (k : Nat) (f : Stack → Stack) (n : Nat) :
    (s.modStack k f).blockEntry n = s.blockEntry n := rfl

theorem State.blockEntry_bounds (s : State) (n : Nat) : (s.blockEntry n).tier < 2 ∧ (s.blockEntry n).cls < 4 :=
  ⟨Nat.mod_lt _ (by decide), Nat.mod_lt _ (by decide)⟩

theorem classFor_lt (z : Nat) : classFor z < 4 := by
  unfold classFor
  split
  · decide
  · split
    · decide
    · split <;> decide

theorem Stack.slots_setSlots_same (x : Stack) (tier cls : Nat) (l : List Nat) : (x.setSlots tier cls l).slots tier cls = l :=
  Assoc.get_put_same _ _ _ _

theorem Stack.slots_setSlots_other (x : Stack) {tier cls cls' : Nat} (l : List Nat) (h : cls ≠ cls') :
    (x.setSlots tier cls l).slots tier cls' = x.slots tier cls' :=
  Assoc.get_put_other _ _ _ (by omega)

/-- A block that moves to the first free slot of another class of its own stack: its entry, the two free lists, and what stays. -/
theorem State.moveBlock_moves {s : State} {w : Who} {n cls key : Nat} {e : BlockEntry} {xs : List Sector} {slot : Nat}
    {rest : List Nat} (hfree : (s.stackOf (e.stack n)).slots e.tier cls = slot :: rest) (hne : cls ≠ e.cls)
    (hfits : (⟨true, e.tier, cls, slot⟩ : BlockEntry).fits) :
    ∃ u, s.moveBlock w n e (e.stack n) e.tier cls key xs = some u ∧ u.blockBase = s.blockBase ∧
      u.blockEntry n = ⟨true, e.tier, cls, slot⟩ ∧ (u.stackOf (e.stack n)).slots e.tier cls = rest ∧
      (u.stackOf (e.stack n)).slots e.tier e.cls = (s.stackOf (e.stack n)).slots e.tier e.cls ++ [e.slot] ∧
      u.cores = s.cores ∧ u.tables = s.tables := by
  unfold State.moveBlock
  rw [hfree]
  dsimp only
  generalize hs1 : (s.modStack (e.stack n) fun x => x.setSlots e.tier cls rest) = s1
  have h12 := (State.served_laySlot (s := s1) w ⟨true, e.tier, cls, slot⟩ key xs).trans
    (State.served_setBlockEntry n ⟨true, e.tier, cls, slot⟩)
  have hentry := State.blockEntry_setBlockEntry (s1.laySlot w ⟨true, e.tier, cls, slot⟩ key xs) n hfits
  generalize (s1.laySlot w ⟨true, e.tier, cls, slot⟩ key xs).setBlockEntry n ⟨true, e.tier, cls, slot⟩ = s2 at h12 hentry
  have hslots : ∀ k, (s2.stackOf (e.stack n)).slots e.tier k = ((s.stackOf (e.stack n)).setSlots e.tier cls rest).slots e.tier k :=
    fun k => (h12.slots _ _ _).trans (by rw [← hs1, State.stackOf_modStack])
  refine ⟨_, rfl, (h12.keep State.blockBase fun _ _ => rfl).trans (by rw [← hs1]; rfl), hentry, ?_, ?_,
    h12.cores.trans (by rw [← hs1]; rfl), (h12.keep State.tables fun _ _ => rfl).trans (by rw [← hs1]; rfl)⟩
  · rw [State.stackOf_modStack, Stack.slots_setSlots_other _ _ (Ne.symm hne), hslots, Stack.slots_setSlots_same]
  · rw [State.stackOf_modStack, Stack.slots_setSlots_same, hslots, Stack.slots_setSlots_other _ _ hne]

end Sys2Proof.Machine

section
open Sys2Proof Sys2Proof.Machine

/-- The entry that a walk finds translates the address, for the domain and stage walked. -/
theorem State.walkFrom_covers {w : Who} {domain va : Nat} {stage2 : Bool} {fuel level table : Nat} {s s1 : State} {t : TlbEntry}
    (h : State.walkFrom w domain va stage2 fuel level table s = (s1, .ok t)) :
    t.covers domain stage2 va = true ∧ t.used = true := by
  induction fuel generalizing level table s with
  | zero => simp [State.walkFrom] at h
  | succ fuel ih =>
    unfold State.walkFrom at h
    split at h
    · simp at h
    · dsimp only at h
      split at h
      · simp at h
      · exact ih h
      · obtain ⟨-, rfl⟩ := by simpa using h
        have hpos : 0 < 2 ^ levelShift level := Nat.two_pow_pos _
        have hle := Nat.div_mul_le_self va (2 ^ levelShift level)
        have hlt := Nat.lt_div_mul_add hpos (a := va)
        simp [TlbEntry.covers, hle, hlt]

/-- A stage of the translation leaves the entry that it gives in the TLB, as one that was used. -/
theorem State.stage_fills {s s1 : State} {w : Who} {root va : Nat} {stage2 : Bool} {t : TlbEntry}
    (h : s.stage w root stage2 va = (s1, .ok t)) :
    t.covers w.domain.toNat stage2 va = true ∧ ∃ y ∈ (s1.core w.core).tlb, { y with used := t.used } = t ∧ y.used = true := by
  unfold State.stage at h
  split at h
  · next u hu =>
    obtain ⟨hs, rfl⟩ : (if u.used = true then s else s.modCore w.core fun k => k.useTlb u) = s1 ∧ u = t := by simpa using h
    have hmem := List.mem_of_find?_eq_some hu
    refine ⟨List.find?_some (p := fun t : TlbEntry => t.covers w.domain.toNat stage2 va) hu, ?_⟩
    by_cases hused : u.used = true
    · rw [if_pos hused] at hs
      subst hs
      exact ⟨u, hmem, rfl, hused⟩
    · rw [if_neg hused] at hs
      subst hs
      rw [State.core_modCore]
      refine ⟨{ u with used := true }, ?_, rfl, rfl⟩
      rw [CoreSt.useTlb, if_neg hused]
      exact mem_settleUse (List.mem_map.mpr ⟨u, hmem, if_pos rfl⟩) rfl
  · split at h
    · simp at h
    · next s2 u hw =>
      obtain ⟨rfl, rfl⟩ : (s2.modCore w.core fun k => k.fillTlb u) = s1 ∧ u = t := by simpa using h
      obtain ⟨hc, hused⟩ := State.walkFrom_covers hw
      refine ⟨hc, u, ?_, rfl, hused⟩
      rw [State.core_modCore]
      exact CoreSt.mem_fillTlb _ hused

theorem State.readEntry_tier {s t : State} {w : Who} {n : Nat} {e : BlockEntry} (h : s.readEntry w n = (t, .ok e)) : e.tier < 2 := by
  unfold State.readEntry at h
  split at h
  · simp at h
  · next s' hs =>
    split at h
    · obtain ⟨-, rfl⟩ : s' = t ∧ s'.blockEntry n = e := by simpa using h
      exact (State.blockEntry_bounds _ _).1
    · simp at h

theorem execPageWalk_eq {s s1 : State} {c dom : Nat} {va : DWord} {x : TlbEntry} (hc : c < Config.cores) (hva : va.toNat < 2 ^ 52)
    (hroot : (s.domainEntry dom).root2 = 0)
    (h : s.stage ⟨c, BitVec.ofNat 16 dom, (s.domainEntry dom).key, .h, 0⟩ (s.domainEntry dom).root1 false va.toNat = (s1, .ok x)) :
    execPageWalk c dom va s = .next s1 := by
  unfold execPageWalk
  refine (if_neg (by omega)).trans ?_
  simp only [h, hroot, if_true]

/-- A block read well whose map is read well, and that cannot move or gains nothing, stays. -/
theorem State.compact_stays {t t1 : State} {n : Nat} {e : BlockEntry}
    (h : State.consumeAll (t.mover e) (e.mapSectors 511) t = (t1, none))
    (hstay : let y := t1.serveSlot (t.mover e) e
      e.cls ≤ classFor (heldCount (y.blockSectors e)) ∨ (y.stackOf (e.stack n)).slots e.tier (classFor (heldCount (y.blockSectors e))) = [] ∨
        (y.sealedOtherwise (t.mover e) e).isSome = true) : t.compact n e = t := by
  unfold State.compact
  simp only [h]
  refine if_pos ?_
  rcases hstay with h | h | h <;> simp [h]

/-- A block that fits a smaller class with a free slot moves there. -/
theorem State.compact_moves {t t1 : State} {n slot : Nat} {e : BlockEntry} {rest : List Nat} (he : e.tier < 2)
    (h : State.consumeAll (t.mover e) (e.mapSectors 511) t = (t1, none))
    (hgain : classFor (heldCount ((t1.serveSlot (t.mover e) e).blockSectors e)) < e.cls)
    (hfree : ((t1.serveSlot (t.mover e) e).stackOf (e.stack n)).slots e.tier
      (classFor (heldCount ((t1.serveSlot (t.mover e) e).blockSectors e))) = slot :: rest)
    (hseal : (t1.serveSlot (t.mover e) e).sealedOtherwise (t.mover e) e = none) (hslot : slot % 4096 = 0) (hlt : slot < 2 ^ 48) :
    (t.compact n e).blockBase = t.blockBase ∧
    (t.compact n e).blockEntry n = ⟨true, e.tier, classFor (heldCount ((t1.serveSlot (t.mover e) e).blockSectors e)), slot⟩ ∧
    ((t.compact n e).stackOf (e.stack n)).slots e.tier (classFor (heldCount ((t1.serveSlot (t.mover e) e).blockSectors e))) = rest ∧
    ((t.compact n e).stackOf (e.stack n)).slots e.tier e.cls =
      ((t1.serveSlot (t.mover e) e).stackOf (e.stack n)).slots e.tier e.cls ++ [e.slot] ∧
    (t.compact n e).cores = t.cores ∧ (t.compact n e).tables = t.tables := by
  unfold State.compact
  simp only [h]
  have h1 := State.served_consumeAll (t.mover e) (e.mapSectors 511) t
  rw [h] at h1
  have hy := State.served_serveSlot (s := t1) (t.mover e) e
  generalize t1.serveSlot (t.mover e) e = y at hgain hfree hseal hy ⊢
  have hcls := classFor_lt (heldCount (y.blockSectors e))
  generalize classFor (heldCount (y.blockSectors e)) = cls at hcls hgain hfree ⊢
  rw [if_neg (by simp [hseal, hfree]; omega)]
  have h2 := State.served_foldl (fun (t : State) k => t.post Who.nobody (32 * k) 0x16)
    (fun t k => State.served_post (s := t) Who.nobody (32 * k) 0x16)
    (((List.range 512).filterMap (y.blockSector e)).filter fun n =>
        !y.mem.poison.contains n && Assoc.get 0#16 y.mem.codeErr n != 0#16) y
  have h3 := State.served_fromSource h2 t 16
  generalize t.fromSource (List.foldl _ _ _) 16 = s3 at h3 ⊢
  have hall := (h1.trans hy).trans h3
  obtain ⟨u, hmove, hbase, hentry, hrest, hold, hcores, htables⟩ := State.moveBlock_moves (s := s3) (w := t.mover e)
    (key := Assoc.get 0 t.mem.sealed (e.slot / 256)) (xs := packSectors cls ((y.blockSectors e).map Sector.carried))
    ((h3.slots _ _ _).trans hfree) (Nat.ne_of_lt hgain) ⟨rfl, he, hcls, hslot, hlt⟩
  have hu := State.served_countStack (s := u) (e.stack n) 10
  simp only [hmove]
  exact ⟨hbase.trans (hall.keep State.blockBase fun _ _ => rfl), hentry, (hu.slots _ _ _).trans hrest,
    (hu.slots _ _ _).trans (hold.trans (by rw [h3.slots])), hcores.trans hall.cores, htables.trans (hall.keep State.tables fun _ _ => rfl)⟩

/-- Settles O55: the walk's entry stands in the TLB; a block moves to the first free slot of its class or stays. -/
theorem memorySideSteps : Obligations.MemorySideSteps := by
  unfold Obligations.MemorySideSteps
  refine ⟨fun s s1 c dom va x hc hva hdom hroot h => ?_, fun s t n => ⟨fun f h => ?_, fun e h => ⟨fun t1 k hk => ?_, fun t1 hk => ?_⟩⟩,
    fun s => ⟨fun e rest hk hq => ?_, fun hk => ?_, fun up hlo hhi => ?_⟩⟩
  · obtain ⟨hcov, y, hy, hused⟩ := State.stage_fills h
    have hd : (BitVec.ofNat 16 dom).toNat = dom := by rw [BitVec.toNat_ofNat]; exact Nat.mod_eq_of_lt hdom
    exact ⟨execPageWalk_eq hc hva hroot h, by rw [← hd]; exact hcov, y, hy, hused⟩
  · change execCompactionMove n s = _
    simp only [execCompactionMove, h]
  · change execCompactionMove n s = _
    simp only [execCompactionMove, h, State.compact, hk]
  · have hexec : exec (.compactionMove n) s = .next (t.compact n e) := by
      change execCompactionMove n s = _
      simp only [execCompactionMove, h]
    have hread := State.served_readEntry (s := s) Who.nobody n
    have hentry : e.tier < 2 := State.readEntry_tier h
    rw [h] at hread
    intro y cls
    refine ⟨fun hstay => by rw [hexec, State.compact_stays hk hstay], fun slot rest hgain hfree hseal hslot hlt => ?_⟩
    obtain ⟨hbase, hnew, hrest, hold, hcores, htables⟩ := State.compact_moves (n := n) hentry hk hgain hfree hseal hslot hlt
    exact ⟨_, hexec, hbase.trans (hread.keep State.blockBase fun _ _ => rfl), hnew, hrest, hold, hcores.trans hread.cores,
      htables.trans (hread.keep State.tables fun _ _ => rfl)⟩
  · change execFaultQueueRemove s = _
    simp [execFaultQueueRemove, hk, hq]
  · change execFaultQueueRemove s = _
    simp [execFaultQueueRemove, hk]
  · refine ⟨_, rfl, ?_⟩
    cases up with
    | true =>
      have h1 : 400 ≤ min 800 (s.coreMHz + 50) := by omega
      have h2 : min 800 (s.coreMHz + 50) ≤ 800 := by omega
      exact ⟨h1, h2, rfl, fun _ _ => show min 800 (s.coreMHz + 50) = s.coreMHz + 50 by omega, fun h => Bool.noConfusion h⟩
    | false =>
      have h1 : 400 ≤ max 400 (s.coreMHz - 50) := by omega
      have h2 : max 400 (s.coreMHz - 50) ≤ 800 := by omega
      exact ⟨h1, h2, rfl, fun h => Bool.noConfusion h, fun _ _ => show max 400 (s.coreMHz - 50) + 50 = s.coreMHz by omega⟩

end
end

section
/-! SUPPORT. A state in which the list of launches is not in ascending order, and the return of a store there (R160). -/

namespace Sys2Proof.Machine

/-- A launch that is not complete. -/
def openLaunch (n : Nat) : Launch :=
  { number := n, record := ⟨0#64, 0#64, 0#64, [], [], 0, 0, 0, 0, 0, 0, 0#16, 0, 0, 0#64, 0⟩, va := 0, order := 0, next := none
    started := false, threads := 0, cancelled := false, complete := false, future := none, images := [], stalls := 0, stallPs := 0
    imagesMissed := 0, imagesCut := 0 }

/-- The store of a destroyed table of one page at 0x300000 of domain 0. -/
def oneStore : OldStore :=
  { table :=
      { gen := 1, domain := 0, desc := ⟨2, 1, 1, 0, 64, 16, 0, 0, [0], 1, 64, 0⟩, base := 0x300000, pages := [48], rows := []
        hash := [], prim := ⟨[], []⟩, sec2 := ⟨[], []⟩, sec3 := ⟨[], []⟩, counters := [] }
    num := 1, running := [], returned := false }

/-- Launch 0 stands after launch 5; the page tables, still to be made, lie in a bank set in retention. -/
def descendingLaunches : State :=
  { State.reset with
    launches := [(5, openLaunch 5), (0, openLaunch 0)]
    oldStores := [oneStore]
    banks := [(0, { Bank.reset with state := .retention })]
    mgmt := { Mgmt.reset with pages := [16, 17, 18, 19] } }

/-- The launches that a step notes for the first store. -/
def noted (r : Result) : Option (List Nat) :=
  match r with
  | .next t => t.oldStores.head?.map OldStore.running
  | _ => none

/-- An access to the page tables stalls for launch 0, which is written to the front of the list and is noted twice. -/
theorem noted_descendingLaunches : noted (exec (.tableStoreReturn 0) descendingLaunches) = some [0, 5, 0] := by decide +kernel

theorem running_descendingLaunches : descendingLaunches.running = [5, 0] := by decide +kernel

end Sys2Proof.Machine

section
open Sys2Proof Sys2Proof.Machine

/-- Refutes O56: the statement is of every state, also of one whose list of launches is not in ascending order. In
`descendingLaunches` the pages of the store that is returned are unmapped through a bank set asleep; the stall is counted for
launch 0, which stands behind launch 5 and comes to stand in the list twice, so that the launches noted for the store are not
those that run at the return. -/
theorem not_tableServices : ¬ Obligations.TableServices := by
  unfold Obligations.TableServices
  rintro ⟨-, h⟩
  obtain ⟨hreturn, -, -⟩ := h descendingLaunches
  obtain ⟨-, hunmapped⟩ := hreturn 0 oneStore rfl rfl
  obtain ⟨t, hexec, hstores, -⟩ := hunmapped rfl
  have hnoted := noted_descendingLaunches
  rw [hexec] at hnoted
  simp only [noted, hstores] at hnoted
  have hrun : some descendingLaunches.running = some [0, 5, 0] := hnoted
  rw [running_descendingLaunches] at hrun
  exact absurd hrun (by decide)

end
end

section
/-! SUPPORT. The freeze status register under a stop of the clocks, and what a package reset keeps (R358-R361, R363). -/

namespace Sys2Proof.Machine

/-! ### The status register -/

/-- Bits 2:0 of a word replaced. -/
theorem toNat_putSlice_low (x : BitVec 32) (v : Nat) : (putSlice x 0 3 v).toNat % 8 = v % 8 := by
  simp only [putSlice, BitVec.toNat_ofNat, Nat.shiftLeft_eq, Nat.shiftRight_eq_div_pow]
  omega

/-- The flight bits of the status register as the clocks stop. -/
theorem getLsbD_flightBits (s : State) : (s.flightBits.testBit 0 = s.links.flight) ∧ s.flightBits.testBit 1 = !s.links.flight := by
  unfold State.flightBits
  cases s.links.flight <;> decide

/-- The status register that a trigger of a source leaves: free bits, and the flight bits. -/
def State.stopStatus (s : State) (source : Nat) : BitVec 32 :=
  BitVec.ofNat 32 (source + (64 * (Config.stopCycles s.fresh).toNat + 0x100 * s.flightBits))

theorem State.stopStatus_bits (s : State) {source : Nat} (h : source < 16) :
    (s.stopStatus source).toNat % 16 = source ∧ ((s.stopStatus source).getLsbD 8 = s.links.flight) ∧
    ((s.stopStatus source).getLsbD 9 = !s.links.flight) := by
  unfold State.stopStatus
  have hy := (Config.stopCycles s.fresh).isLt
  generalize (Config.stopCycles s.fresh).toNat = y at hy ⊢
  have hf : s.flightBits = if s.links.flight then 1 else 2 := rfl
  refine ⟨by rw [BitVec.toNat_ofNat, hf]; split <;> omega, ?_, ?_⟩
  all_goals
    rw [BitVec.getLsbD, BitVec.toNat_ofNat, hf, Nat.testBit_eq_decide_div_mod_eq]
    cases s.links.flight
    · simp only [Bool.false_eq_true, if_false, Bool.not_false, decide_eq_true_eq, decide_eq_false_iff_not]
      omega
    · simp only [if_true, Bool.not_true, decide_eq_true_eq, decide_eq_false_iff_not]
      omega

/-! ### Triggers -/

/-- The state after the trigger of a package that is not frozen. -/
def State.stoppedBy (s : State) (n : Nat) : State :=
  { s with
    freeze := { s.freeze with frozen := true, sameCycle := true, status := s.stopStatus n }
    fresh := s.fresh + 1 }

theorem State.freezeBy_thawed {s : State} (h : s.freeze.frozen = false) (n : Nat) : s.freezeBy n = s.stoppedBy n := by
  simp [State.freezeBy, h, State.stoppedBy, State.stopStatus]

/-- The state after a trigger of a lower source in the cycle of the stop. -/
def State.resourced (s : State) (n : Nat) : State :=
  { s with freeze := { s.freeze with status := putSlice s.freeze.status 0 3 n } }

theorem State.freezeBy_frozen {s : State} (h : s.freeze.frozen = true) (n : Nat) : s.freezeBy n =
    if s.freeze.sameCycle = true ∧ n < s.freeze.status.toNat % 8 then s.resourced n else s := by
  simp [State.freezeBy, h, slice, State.resourced]

/-- The state with the level of the pin high. -/
def State.pinned (s : State) : State := { s with freeze := { s.freeze with pin := true } }

theorem State.setPin_rises {s : State} (h : s.freeze.pin = false) : s.setPin true = s.pinned.freezeBy 1 := by
  simp [State.setPin, State.pinned, h]

/-! ### The end of the trigger's cycle -/

/-- The clocks of a frozen package stop once: the status register tells of the flits in flight then. -/
theorem State.stopClocks_eq (s : State) : s.stopClocks = if s.freeze.frozen = true ∧ s.freeze.sameCycle = true then
    { s with freeze := { s.freeze with sameCycle := false, status := putSlice s.freeze.status 8 2 s.flightBits } } else s := by
  simp [State.stopClocks]

theorem State.stopClocks_later {s : State} (h : s.freeze.sameCycle = false) : s.stopClocks = s := by
  rw [State.stopClocks_eq, if_neg (by simp [h])]

theorem State.stopClocks_now {s : State} (h : s.freeze.frozen = true) (hs : s.freeze.sameCycle = true) : s.stopClocks =
    { s with freeze := { s.freeze with sameCycle := false, status := putSlice s.freeze.status 8 2 s.flightBits } } := by
  rw [State.stopClocks_eq, if_pos ⟨h, hs⟩]

/-- The end of the cycle thaws nothing and leaves the pin and the level of its registers. -/
theorem State.stopClocks_frozen (s : State) : s.stopClocks.freeze.frozen = s.freeze.frozen ∧ s.stopClocks.freeze.pin = s.freeze.pin := by
  rw [State.stopClocks_eq]
  split <;> exact ⟨rfl, rfl⟩

theorem flightStatus_bits (s : State) : let x := putSlice s.freeze.status 8 2 s.flightBits
    (∀ i, i ≠ 8 → i ≠ 9 → x.getLsbD i = s.freeze.status.getLsbD i) ∧ (x.getLsbD 9 = !s.links.flight) ∧
    x.getLsbD 8 = s.links.flight := by
  intro x
  obtain ⟨h0, h1⟩ := getLsbD_flightBits s
  refine ⟨fun i h8 h9 => ?_, ?_, ?_⟩
  · by_cases hi : i < 32
    · rw [getLsbD_putSlice _ _ _ _ hi, if_neg (by omega)]
    · rw [BitVec.getLsbD_of_ge _ _ (by omega), BitVec.getLsbD_of_ge _ _ (by omega)]
  · rw [getLsbD_putSlice _ _ _ _ (by decide), if_pos (by decide)]; exact h1
  · rw [getLsbD_putSlice _ _ _ _ (by decide), if_pos (by decide)]; exact h0

/-! ### Package reset -/

/-- A spare that passes after a reset stood in for no core reported degraded. -/
theorem Boot.mem_sparesLeft {b : Boot} {degraded : List Nat} {x : SpareCore} (hx : x ∈ b.sparesLeft degraded)
    (hp : x.passes = true) : x ∈ b.spares ∧ ∀ c, c ∈ degraded → coreDie c = x.die → (c, x.number) ∉ b.coreMap := by
  obtain ⟨y, hy, hxy⟩ := List.mem_map.mp hx
  split at hxy
  · subst hxy
    exact Bool.noConfusion hp
  · next hnone =>
    subst hxy
    refine ⟨hy, fun c hc hd hm => hnone (List.any_eq_true.mpr ⟨_, hm, ?_⟩)⟩
    simp [hc, hd]

/-- The map entry of a bank set that a reset left. -/
theorem State.mapEntry_reset {s : State} (hb : s.banks = []) (ht : s.timePs = 0) (n : Nat) : s.mapEntry n = 0#32 := by
  have hbank : s.bank n = Bank.reset := by rw [State.bank, hb]; rfl
  rw [State.mapEntry, hbank, ht]
  rfl

end Sys2Proof.Machine

section
open Sys2Proof Sys2Proof.Machine

/-- REFUSED_CLEAR clears its bit and keeps the others. -/
theorem getLsbD_refusedClear (x : BitVec 32) {i : Nat} (hi : i ≠ 2) : (x &&& ~~~ 4#32).getLsbD i = x.getLsbD i := by
  by_cases h : i < 32
  · have hall : ∀ k : Fin 32, k.val ≠ 2 → (~~~ 4#32).getLsbD k.val = true := by decide
    rw [BitVec.getLsbD_and, hall ⟨i, h⟩ hi, Bool.and_true]
  · rw [BitVec.getLsbD_of_ge _ _ (by omega), BitVec.getLsbD_of_ge _ _ (by omega)]

theorem execResume_frozen {s : State} (h : s.freeze.frozen = true) : execResume s =
    if s.stopClocks.freeze.status.getLsbD 9 = true ∧ s.freeze.pin = false then
      .next { s.stopClocks with freeze := { s.stopClocks.freeze with frozen := false, sameCycle := false, status := 0#32 } }
    else .next { s.stopClocks with freeze := { s.stopClocks.freeze with control := s.stopClocks.freeze.control ||| 4#32 } } := by
  obtain ⟨hf, hp⟩ := s.stopClocks_frozen
  simp only [execResume, hf, hp, h, Bool.true_and, Bool.and_eq_true, Bool.not_eq_true']

theorem execEnfleurageReadout_frozen {s : State} (h : s.freeze.frozen = true) : execEnfleurageReadout s =
    .next { s.stopClocks with freeze := { s.stopClocks.freeze with
      readouts := s.stopClocks.freeze.readouts ++ [s.stopClocks.readOut] } } := by
  obtain ⟨hf, -⟩ := s.stopClocks_frozen
  exact if_pos (hf.trans h)

/-- Settles O59: each trigger writes the status register that its source and the flits in flight give; a reset keeps what the
outside and the management side know. -/
theorem freezeAndReset : Obligations.FreezeAndReset := by
  unfold Obligations.FreezeAndReset
  refine ⟨fun s => ⟨fun hf hp => ?_, fun hf hp => ?_, fun hf hc => ?_, fun hf => ?_, fun rows map => rfl, rfl, ?_⟩, fun s => ?_⟩
  · have h := (State.setPin_rises hp).trans (State.freezeBy_thawed (s := s.pinned) hf 1)
    obtain ⟨hsource, h8, h9⟩ := s.pinned.stopStatus_bits (source := 1) (by decide)
    exact ⟨s.pinned.stoppedBy 1, congrArg Host.Outcome.next h, rfl, hsource, h9, h8, rfl, rfl⟩
  · have h := (State.setPin_rises hp).trans (State.freezeBy_frozen (s := s.pinned) hf 1)
    by_cases hc : s.freeze.sameCycle = true ∧ 1 < s.freeze.status.toNat % 8
    · refine ⟨s.pinned.resourced 1, congrArg Host.Outcome.next (h.trans (if_pos hc)), hf, fun _ _ => toNat_putSlice_low _ 1,
        fun hs => ?_, rfl, rfl⟩
      exact absurd (hs.symm.trans hc.1) (by decide)
    · exact ⟨s.pinned, congrArg Host.Outcome.next (h.trans (if_neg hc)), hf, fun h1 h2 => absurd ⟨h1, h2⟩ hc, fun _ => rfl, rfl, rfl⟩
  · obtain ⟨hsource, -, -⟩ := s.stopStatus_bits (source := 4) (by decide)
    have h : execCoreCycleCounterMatch s = .next (s.freezeBy 4) := if_pos hc
    exact ⟨s.stoppedBy 4, h.trans (congrArg Host.Outcome.next (State.freezeBy_thawed hf 4)), rfl, hsource, rfl, rfl⟩
  · intro z
    refine ⟨fun hs => State.stopClocks_later hs, fun hs => ?_, execEnfleurageReadout_frozen hf, fun h9 hp => ?_, fun hno => ?_⟩
    · have hz : z = _ := State.stopClocks_now hf hs
      rw [hz]
      exact ⟨rfl, flightStatus_bits s⟩
    · exact (execResume_frozen hf).trans (if_pos ⟨h9, hp⟩)
    · refine ⟨_, (execResume_frozen hf).trans (if_neg fun h => ?_), s.stopClocks_frozen.1.trans hf, ?_, State.stopClocks_cores s⟩
      · rcases hno with h9 | hp
        · exact absurd (h9.symm.trans h.1) (by decide)
        · exact absurd (hp.symm.trans h.2) (by decide)
      · simp [BitVec.getLsbD_or, -BitVec.getLsbD_eq_getElem]
  · refine ⟨_, rfl, ?_, rfl, fun i hi => ?_⟩
    · simp [BitVec.getLsbD_and, -BitVec.getLsbD_eq_getElem]
    · exact getLsbD_refusedClear _ hi
  · refine ⟨_, rfl, rfl, rfl, rfl, rfl, rfl, rfl, State.mapEntry_reset rfl rfl, rfl, rfl, rfl, rfl, rfl, rfl, rfl, rfl, rfl, rfl, rfl,
      fun x hx hp => Boot.mem_sparesLeft hx hp, rfl, rfl, rfl, rfl⟩

end
end

section
/-! SUPPORT. The verification of a firmware image, the stages of the boot chain, and the cores that stand in for others
(R349-R352, R10, R363). -/

namespace Sys2Proof.Machine

/-! ### Verification -/

/-- What an image of a stage must be before its security version is looked at (R350). -/
structure Boot.Trusts (b : Boot) (stage : Nat) (fw : Firmware) (i : Nat) : Prop where
  readable : b.readable = true
  found    : Assoc.find b.flash stage = some fw
  header   : fw.header.magic = Config.firmwareMagic ∧ fw.header.stage = stage ∧ fw.header.length = fw.contents.length
  slot     : b.fuses.slots.toList.findIdx? (fun k => k.accepts fw) = some i
  digest   : Config.sha384 fw.contents = fw.header.digest

/-- A slot that accepts an image verifies its first signature. -/
theorem any_ecdsaOk {slots : List KeySlot} {fw : Firmware} {i : Nat} (h : slots.findIdx? (fun k => k.accepts fw) = some i) :
    (slots.any fun k => k.ecdsaOk fw) = true := by
  obtain ⟨hlt, hacc, -⟩ := List.findIdx?_eq_some_iff_getElem.mp h
  refine List.any_eq_true.mpr ⟨slots[i], List.getElem_mem hlt, ?_⟩
  simp only [KeySlot.accepts, Bool.and_eq_true] at hacc
  exact hacc.1.1

theorem Boot.Trusts.verify {b : Boot} {stage i : Nat} {fw : Firmware} (h : b.Trusts stage fw i) : b.verify stage =
    if fw.header.security.toNat < (Assoc.get 0#16 b.fuses.minimum stage).toNat then .error 0x85 else .ok (i, fw) := by
  obtain ⟨hread, hfind, ⟨hmagic, hstage, hlen⟩, hslot, hdigest⟩ := h
  have hany := any_ecdsaOk hslot
  simp [Boot.verify, hread, hfind, hmagic, hstage, hlen, hany, hslot, hdigest]

theorem Boot.verify_otherHeader {b : Boot} {stage : Nat} {fw : Firmware} (hread : b.readable = true)
    (hfind : Assoc.find b.flash stage = some fw) (h : fw.header.magic ≠ Config.firmwareMagic ∨ fw.header.stage ≠ stage) :
    b.verify stage = .error 0x81 := by
  have hbad : fw.header.magic ≠ Config.firmwareMagic ∨ fw.header.stage ≠ stage ∨ fw.header.length ≠ fw.contents.length := by
    tauto
  simp [Boot.verify, hread, hfind, hbad]

/-- What verification and the hand-over read of a boot: not its core map. -/
theorem Boot.Trusts.congr {b b' : Boot} {stage i : Nat} {fw : Firmware} (h : b.Trusts stage fw i)
    (hr : b'.readable = b.readable) (hf : b'.flash = b.flash) (hs : b'.fuses = b.fuses) : b'.Trusts stage fw i :=
  ⟨hr.trans h.readable, by rw [hf]; exact h.found, h.header, by rw [hs]; exact h.slot, h.digest⟩

/-- The identity of the image after the one in control. -/
def Boot.nextIdentity (b : Boot) (fw : Firmware) : BitVec 384 := Config.dice b.ownIdentity (Config.sha384 fw.bytes)

/-- An image of too low a security version stops the boot. -/
theorem Boot.Trusts.stops {b : Boot} {stage i : Nat} {fw : Firmware} (h : b.Trusts stage fw i)
    (hlow : fw.header.security.toNat < (Assoc.get 0#16 b.fuses.minimum stage).toNat) : b.pass stage = b.stop 0x85 := by
  simp only [Boot.pass, h.verify, if_pos hlow]

/-- An image that is trusted gets control. -/
theorem Boot.Trusts.passes {b : Boot} {stage i : Nat} {fw : Firmware} (h : b.Trusts stage fw i)
    (hhigh : (Assoc.get 0#16 b.fuses.minimum stage).toNat ≤ fw.header.security.toNat) : b.pass stage =
      { (if stage = 2 then b.certify (b.nextIdentity fw) else b) with
        next := stage, stage := stage, keySlot := i, identity := b.nextIdentity fw
        measures := b.measures ++ [Config.sha384 fw.bytes] } := by
  simp only [Boot.pass, h.verify, if_neg (Nat.not_lt.mpr hhigh)]
  by_cases h2 : stage = 2
  · simp only [h2, if_true]
    rfl
  · simp only [h2, if_false]
    rfl

/-! ### The core map -/

/-- The cores that stand in for others: each passes and is of the die of the core it stands in for. -/
theorem mem_standIns {cs : List Nat} {xs : List SpareCore} {m : List (Nat × Nat)} (h : standIns cs xs = some m) {y : Nat × Nat}
    (hy : y ∈ m) : ∃ x ∈ xs, x.passes = true ∧ x.die = coreDie y.1 ∧ x.number = y.2 := by
  induction cs generalizing xs m with
  | nil =>
    obtain rfl : m = [] := by simpa [standIns] using h.symm
    simp at hy
  | cons c cs ih =>
    unfold standIns at h
    split at h
    · simp at h
    · next x hx =>
      obtain ⟨m', hm', rfl⟩ := Option.map_eq_some_iff.mp h
      have hfound := List.find?_some hx
      simp only [Bool.and_eq_true, beq_iff_eq] at hfound
      rcases List.mem_cons.mp hy with rfl | hy
      · exact ⟨x, List.mem_of_find?_eq_some hx, hfound.1, hfound.2, rfl⟩
      · obtain ⟨z, hz, hrest⟩ := ih hm' hy
        exact ⟨z, (List.mem_filter.mp hz).1, hrest⟩

/-- No spare core stands in for two. -/
theorem nodup_standIns {cs : List Nat} {xs : List SpareCore} {m : List (Nat × Nat)} (h : standIns cs xs = some m) :
    (m.map fun y => (coreDie y.1, y.2)).Nodup := by
  induction cs generalizing xs m with
  | nil =>
    obtain rfl : m = [] := by simpa [standIns] using h.symm
    exact List.nodup_nil
  | cons c cs ih =>
    unfold standIns at h
    split at h
    · simp at h
    · next x hx =>
      obtain ⟨m', hm', rfl⟩ := Option.map_eq_some_iff.mp h
      have hfound := List.find?_some hx
      simp only [Bool.and_eq_true, beq_iff_eq] at hfound
      refine List.nodup_cons.mpr ⟨fun hmem => ?_, ih hm'⟩
      obtain ⟨y, hy, heq⟩ := List.mem_map.mp hmem
      obtain ⟨z, hz, -, hdie, hnum⟩ := mem_standIns hm' hy
      obtain ⟨hd, hn⟩ := Prod.mk.inj heq
      have hkept := (List.mem_filter.mp hz).2
      simp [hdie, hd, hfound.2, hnum, hn] at hkept

/-- Every core of a list without repetition has its stand-in. -/
theorem find_standIns {cs : List Nat} {xs : List SpareCore} {m : List (Nat × Nat)} (h : standIns cs xs = some m) (hcs : cs.Nodup)
    {c : Nat} (hc : c ∈ cs) : ∃ n, Assoc.find m c = some n := by
  induction cs generalizing xs m with
  | nil => simp at hc
  | cons d cs ih =>
    unfold standIns at h
    split at h
    · simp at h
    · next x hx =>
      obtain ⟨m', hm', rfl⟩ := Option.map_eq_some_iff.mp h
      by_cases hdc : d = c
      · exact ⟨x.number, by simp [Assoc.find, hdc]⟩
      · obtain ⟨n, hn⟩ := ih hm' hcs.of_cons (by simpa [Ne.symm hdc] using hc)
        exact ⟨n, by simpa [Assoc.find, hdc] using hn⟩

/-- The cores of the grid that need a stand-in. -/
def Boot.needing (b : Boot) (degraded : List Nat) : List Nat :=
  (List.range Config.cores).filter fun c => b.badCores.contains c || degraded.contains c || b.rowsFail c

theorem Boot.mem_needing {b : Boot} {degraded : List Nat} {c : Nat} (hc : c < Config.cores)
    (h : c ∈ b.badCores ∨ c ∈ degraded ∨ b.rowsFail c = true) : c ∈ b.needing degraded := by
  refine List.mem_filter.mpr ⟨List.mem_range.mpr hc, ?_⟩
  rcases h with h | h | h <;> simp [h]

/-- The core map that is applied, and what it leaves of the boot. -/
theorem Boot.mapCores_some {b b' : Boot} {degraded : List Nat} (h : b.mapCores degraded = some b') :
    standIns (b.needing degraded) b.spares = some b'.coreMap ∧
    ∃ bad rows, b' = { b with badCores := bad, coreMap := b'.coreMap, rowMap := rows } := by
  obtain ⟨m, hm, rfl⟩ := Option.map_eq_some_iff.mp h
  exact ⟨hm, _, _, rfl⟩

/-- The map is of each core that needs a stand-in to one that passes, of its die. -/
theorem Boot.mapCores_covers {b b' : Boot} {degraded : List Nat} (h : b.mapCores degraded = some b') {c : Nat}
    (hc : c ∈ b.needing degraded) : ∃ x ∈ b.spares, x.passes = true ∧ x.die = coreDie c ∧ Assoc.find b'.coreMap c = some x.number := by
  obtain ⟨hm, -⟩ := Boot.mapCores_some h
  obtain ⟨n, hn⟩ := find_standIns hm (List.nodup_range.filter _) hc
  obtain ⟨x, hx, hp, hd, hnum⟩ := mem_standIns hm (Assoc.mem_of_find hn)
  exact ⟨x, hx, hp, hd, hn.trans (congrArg some hnum.symm)⟩

/-- Boot as stage 1 leaves it to the verification of stage 2. -/
def Boot.withholds (b : Boot) : Boot := { b with withheld := b.badPages }

/-! ### The stages -/

section Stages
variable {s : State}

theorem execBootStage_failed (h : 0x80 ≤ s.boot.code) : execBootStage s = .next s := if_pos h

theorem execBootStage_zero (h : s.boot.code < 0x80) (hn : s.boot.next = 0) :
    execBootStage s = .next { s with boot := s.boot.pass 1 } := by
  refine (if_neg (by omega)).trans ?_
  simp only [hn]

theorem execBootStage_untrained (h : s.boot.code < 0x80) (hn : s.boot.next = 1) (ht : s.boot.trained = false) :
    execBootStage s = .next { s with boot := s.boot.stop 0x86 } := by
  refine (if_neg (by omega)).trans ?_
  simp only [hn, ht]
  rfl

theorem execBootStage_fewCores (h : s.boot.code < 0x80) (hn : s.boot.next = 1) (ht : s.boot.trained = true)
    (hm : s.boot.mapCores s.mgmt.degraded = none) : execBootStage s = .next { s with boot := s.boot.stop 0x87 } := by
  refine (if_neg (by omega)).trans ?_
  simp only [hn, ht, hm]
  rfl

theorem execBootStage_one (h : s.boot.code < 0x80) (hn : s.boot.next = 1) (ht : s.boot.trained = true) {b : Boot}
    (hm : s.boot.mapCores s.mgmt.degraded = some b) :
    execBootStage s = .next { s with boot := b.withholds.pass 2, mgmt := { s.mgmt with degraded := [] } } := by
  refine (if_neg (by omega)).trans ?_
  simp only [hn, ht, hm]
  rfl

theorem execBootStage_two (h : s.boot.code < 0x80) (hn : s.boot.next = 2) :
    execBootStage s = .next { s with
      boot := { s.boot with next := 3, code := 0x01 }
      links := { s.links with ports := (List.range 16).map fun i => (i, { Port.reset with up := true }) } } := by
  refine (if_neg (by omega)).trans ?_
  simp only [hn]

end Stages

end Sys2Proof.Machine

section
open Sys2Proof Sys2Proof.Machine

theorem find_upPorts : ∀ i < 16, Assoc.get Port.reset ((List.range 16).map fun i => (i, { Port.reset with up := true })) i =
    { Port.reset with up := true } := by decide

/-- A request that finds what it needs is answered. -/
theorem answerSpdm_ok {s : State} {ok : State → Bool} {f : State → State} (hk : s.kuenrex = true) (h : ok s = true) :
    answerSpdm ok f s = .next (f s) := by
  simp [answerSpdm, hk, h]

theorem answerSpdm_error {s : State} {ok : State → Bool} {f : State → State} (hk : s.kuenrex = true) (h : ok s = false) :
    answerSpdm ok f s = .next (s.spdm .error) := by
  simp [answerSpdm, hk, h]

/-- The hand-over of stage 0. -/
theorem bootStage_first {s : State} {fw : Firmware} {i : Nat} (hc : s.boot.code < 0x80) (hn : s.boot.next = 0)
    (ht : s.boot.Trusts 1 fw i) :
    (fw.header.security.toNat < (Assoc.get 0#16 s.boot.fuses.minimum 1).toNat → ∃ t, execBootStage s = .next t ∧
      t.boot.code = 0x85 ∧ t.boot.keySlot = 15 ∧ t.boot.next = s.boot.next ∧ t.boot.identity = s.boot.identity) ∧
    ((Assoc.get 0#16 s.boot.fuses.minimum 1).toNat ≤ fw.header.security.toNat → ∃ t, execBootStage s = .next t ∧
      t.boot.next = 1 ∧ t.boot.stage = 1 ∧ t.boot.keySlot = i ∧ t.boot.code = s.boot.code ∧
      t.boot.identity = s.boot.nextIdentity fw ∧ t.boot.measures = s.boot.measures ++ [Config.sha384 fw.bytes]) := by
  refine ⟨fun hlow => ⟨_, execBootStage_zero hc hn, ?_⟩, fun hhigh => ⟨_, execBootStage_zero hc hn, ?_⟩⟩
  · dsimp only
    rw [ht.stops hlow]
    exact ⟨rfl, rfl, rfl, rfl⟩
  · dsimp only
    rw [ht.passes hhigh]
    exact ⟨rfl, rfl, rfl, rfl, rfl, rfl⟩

/-- The hand-over of stage 1. -/
theorem bootStage_second {s : State} {b : Boot} {fw : Firmware} {i : Nat} (hc : s.boot.code < 0x80) (hn : s.boot.next = 1)
    (htrain : s.boot.trained = true) (hm : s.boot.mapCores s.mgmt.degraded = some b) (ht : s.boot.Trusts 2 fw i) :
    (fw.header.security.toNat < (Assoc.get 0#16 s.boot.fuses.minimum 2).toNat → ∃ t, execBootStage s = .next t ∧
      t.boot.code = 0x85 ∧ t.boot.keySlot = 15 ∧ t.boot.next = s.boot.next ∧ t.boot.identity = s.boot.identity) ∧
    ((Assoc.get 0#16 s.boot.fuses.minimum 2).toNat ≤ fw.header.security.toNat → ∃ t, execBootStage s = .next t ∧
      t.boot.next = 2 ∧ t.boot.stage = 2 ∧ t.boot.keySlot = i ∧ t.boot.code = s.boot.code ∧
      t.boot.identity = s.boot.nextIdentity fw ∧ t.boot.measures = s.boot.measures ++ [Config.sha384 fw.bytes] ∧
      t.boot.withheld = s.boot.badPages ∧ t.boot.ecdsaAlias = Config.aliasEcdsa (s.boot.nextIdentity fw) ∧
      t.boot.lmsAlias = Config.aliasLms (s.boot.nextIdentity fw) ∧ t.boot.certs =
        [Config.certify s.boot.identity (Config.aliasEcdsa (s.boot.nextIdentity fw)),
          Config.certify s.boot.identity (Config.aliasLms (s.boot.nextIdentity fw))] ∧
      t.boot.coreMap = b.coreMap) := by
  obtain ⟨-, bad, rows, hb⟩ := Boot.mapCores_some hm
  have ht' : b.withholds.Trusts 2 fw i := ht.congr (by rw [hb]; rfl) (by rw [hb]; rfl) (by rw [hb]; rfl)
  have hmin : b.withholds.fuses = s.boot.fuses := by rw [hb]; rfl
  have hnext : b.withholds.nextIdentity fw = s.boot.nextIdentity fw := by rw [hb]; rfl
  refine ⟨fun hlow => ⟨_, execBootStage_one hc hn htrain hm, ?_⟩, fun hhigh => ⟨_, execBootStage_one hc hn htrain hm, ?_⟩⟩
  · dsimp only
    rw [ht'.stops (by rw [hmin]; exact hlow), hb]
    exact ⟨rfl, rfl, rfl, rfl⟩
  · dsimp only
    rw [ht'.passes (by rw [hmin]; exact hhigh), hnext, hb]
    exact ⟨rfl, rfl, rfl, rfl, rfl, rfl, rfl, rfl, rfl, rfl, rfl⟩

/-- Settles O60: each stage is the equation of its case; the responder answers what the requests before allow. -/
theorem bootAndAttestation : Obligations.BootAndAttestation := by
  unfold Obligations.BootAndAttestation
  refine ⟨⟨fun s h => execBootStage_failed h, fun s hc => ⟨fun b fw i stage hstage hcase hr hf hmagic hst hlen hslot hdig => ?_,
    fun fw hn hr hf hbad => ?_, fun hn ht => ?_, fun hn ht hm => ?_, fun hn => ?_⟩⟩, fun s hk => ?_⟩
  · have ht : s.boot.Trusts stage fw i := ⟨hr, hf, ⟨hmagic, hst, hlen⟩, hslot, hdig⟩
    rcases hcase with ⟨rfl, -⟩ | ⟨rfl, htrain, hm⟩
    · obtain ⟨hlow, hhigh⟩ := bootStage_first hc (by omega) ht
      refine ⟨hlow, fun h => ?_⟩
      obtain ⟨t, hexec, h1, h2, h3, h4, h5, h6⟩ := hhigh h
      exact ⟨t, hexec, h1, h2, h3, h4, h5, h6, fun h => absurd h (by decide)⟩
    · obtain ⟨hlow, hhigh⟩ := bootStage_second hc (by omega) htrain hm ht
      refine ⟨hlow, fun h => ?_⟩
      obtain ⟨t, hexec, h1, h2, h3, h4, h5, h6, hwith, he, hl, hcerts, hmap⟩ := hhigh h
      refine ⟨t, hexec, h1, h2, h3, h4, h5, h6, fun _ => ⟨hwith, he, hl, hcerts, hmap, ?_, fun c hc hbad => ?_⟩⟩
      · rw [hmap]
        exact nodup_standIns (Boot.mapCores_some hm).1
      · rw [hmap]
        exact Boot.mapCores_covers hm (Boot.mem_needing hc hbad)
  · refine ⟨_, execBootStage_zero hc hn, ?_⟩
    simp only [Boot.pass, Boot.verify_otherHeader hr hf hbad]
    exact ⟨rfl, hn⟩
  · exact ⟨_, execBootStage_untrained hc hn ht, rfl, hn, rfl⟩
  · exact ⟨_, execBootStage_fewCores hc hn ht hm, rfl, hn, rfl⟩
  · refine ⟨_, execBootStage_two hc hn, rfl, rfl, fun i hi => ?_⟩
    exact congrArg Port.up (find_upPorts i hi)
  · intro answers sig
    exact ⟨⟨_, show execGetVersion s = _ from answerSpdm_ok hk rfl, rfl, rfl, rfl, rfl⟩,
      fun hv => ⟨_, show execGetCapabilities s = _ from answerSpdm_ok hk hv, rfl, rfl, rfl, rfl⟩,
      fun hv b => ⟨_, show execNegotiateAlgorithms b s = _ from answerSpdm_ok hk hv, rfl, rfl, rfl, rfl⟩,
      fun hv => ⟨_, show execGetCapabilities s = _ from answerSpdm_error hk hv, rfl, rfl, rfl, rfl⟩,
      fun hn => ⟨_, show execGetDigests s = _ from answerSpdm_ok hk hn, rfl, rfl, rfl, rfl⟩,
      fun hn => ⟨_, show execGetCertificate 0 s = _ from answerSpdm_ok hk (by simp [hn]), rfl, rfl, rfl, rfl⟩,
      fun slot hs => ⟨_, show execGetCertificate slot s = _ from answerSpdm_error hk (by simp [hs]), rfl, rfl, rfl, rfl⟩,
      fun hn nonce => ⟨_, show execChallenge nonce s = _ from answerSpdm_ok hk hn, rfl, rfl, rfl, rfl⟩,
      fun hn nonce => ⟨_, show execGetMeasurements nonce s = _ from answerSpdm_ok hk hn, rfl, rfl, rfl, rfl⟩,
      fun hn nonce => ⟨_, show execGetMeasurements nonce s = _ from answerSpdm_error hk hn, rfl, rfl, rfl, rfl⟩⟩

end
end

section
/-! SUPPORT. The loading of an image, and the registers of the management side (R41, R42, R350, R362). -/

namespace Sys2Proof.Machine

/-! ### Images -/

theorem Image.sections_none {x : Image} (h : fieldAt x.bytes 0 4 ≠ 0x4F4C3458 ∨ fieldAt x.bytes 4 4 ≠ 1) : x.sections = none := by
  unfold Image.sections
  exact if_pos (h.elim (fun h => .inr (.inl h)) fun h => .inr (.inr (.inl h)))

/-- A table that is destroyed is gone, and no other comes back. -/
theorem State.find_destroyTable {s : State} {n k : Nat} (h : n = k ∨ Assoc.find s.tables k = none) :
    Assoc.find (s.destroyTable n).tables k = none := by
  unfold State.destroyTable
  split
  · next hn =>
    rcases h with rfl | h
    · exact hn
    · exact h
  · by_cases hk : n = k
    · subst hk
      exact Assoc.find_erase_same _ _
    · exact (Assoc.find_erase_other _ hk).trans (h.resolve_left hk)

theorem State.find_destroyTables {s : State} {ns : List Nat} {k : Nat} (h : k ∈ ns ∨ Assoc.find s.tables k = none) :
    Assoc.find (ns.foldl State.destroyTable s).tables k = none := by
  induction ns generalizing s with
  | nil => simpa using h
  | cons n ns ih =>
    refine ih ?_
    rcases h with h | h
    · rcases List.mem_cons.mp h with rfl | h
      · exact .inr (State.find_destroyTable (.inl rfl))
      · exact .inl h
    · exact .inr (State.find_destroyTable (.inr h))

theorem State.destroyTable_keep {β : Type} (p : State → β)
    (hp : ∀ (s : State) ts gs os, p { s with tables := ts, tableGens := gs, oldStores := os } = p s) (s : State) (n : Nat) :
    p (s.destroyTable n) = p s := by
  unfold State.destroyTable
  split
  · rfl
  · exact hp _ _ _ _

theorem State.destroyTables_keep {β : Type} (p : State → β)
    (hp : ∀ (s : State) ts gs os, p { s with tables := ts, tableGens := gs, oldStores := os } = p s) (s : State) (ns : List Nat) :
    p (ns.foldl State.destroyTable s) = p s :=
  foldl_keep p State.destroyTable (State.destroyTable_keep p hp) ns s

section Load
variable {s s1 s2 : State} {img : Image} {p : Sections} {ns : List Nat}

theorem execImageLoad_refused (hk : s.kuenrex = true) (h : img.sections = none) : execImageLoad img s = .next (s.notify .imageRefused) := by
  simp only [execImageLoad, hk, h]
  rfl

theorem execImageLoad_some (hk : s.kuenrex = true) (h : img.sections = some p) :
    execImageLoad img s = .next (s.loadSections img p) := by
  simp only [execImageLoad, hk, h]
  rfl

theorem State.loadSections_malformed (h : p.relocsOk img.clusterMap = false ∨ p.tables.length ≠ img.tableBases.length) :
    s.loadSections img p = s.notify .imageRefused := by
  unfold State.loadSections
  refine if_pos ?_
  rcases h with h | h <;> simp [h]

theorem State.loadSections_tablesRefused (hr : p.relocsOk img.clusterMap = true) (hn : p.tables.length = img.tableBases.length)
    (hl : State.loadTables img.domain (p.tables.zip img.tableBases) [] s = (s1, ns, false)) :
    s.loadSections img p = (ns.foldl State.destroyTable s1).notify .imageRefused := by
  unfold State.loadSections
  rw [if_neg (by simp [hr, hn]), hl]

/-- The state with a program more. -/
def State.addProgram (s : State) (img : Image) (p : Sections) : State :=
  { s with mgmt := { s.mgmt with
      programs := s.mgmt.programs ++ [⟨BitVec.ofNat 16 img.domain, img.recordBase, p.records.length / 128, p.scratch⟩] } }

theorem State.loadSections_loaded (hr : p.relocsOk img.clusterMap = true) (hn : p.tables.length = img.tableBases.length)
    (hl : State.loadTables img.domain (p.tables.zip img.tableBases) [] s = (s1, ns, true))
    (hp : s1.placeImage img p (ns.map s1.handleOf) = some s2) :
    s.loadSections img p = (s2.addProgram img p).notify (.imageLoaded (ns.map s1.handleOf)) := by
  unfold State.loadSections
  rw [if_neg (by simp [hr, hn]), hl]
  dsimp only
  rw [hp]
  rfl

end Load

/-! ### Registers -/

theorem State.domainEntry_modDomain (s : State) (dom : Nat) (f : Domain → Domain) :
    (s.modDomain dom f).domainEntry dom = f (s.domainEntry dom) := by
  simp [State.domainEntry, State.modDomain, Assoc.get_eq_find, Assoc.find_set_same]

/-- A fused minimum is the greater of what it was and what is written. -/
theorem Fuses.raise_minimum (f : Fuses) (stage : Nat) (v : BitVec 16) :
    (Assoc.get 0#16 (f.raise stage v).minimum stage).toNat = max v.toNat (Assoc.get 0#16 f.minimum stage).toNat := by
  have hget : Assoc.get 0#16 (f.raise stage v).minimum stage =
      if (Assoc.get 0#16 f.minimum stage).toNat < v.toNat then v else Assoc.get 0#16 f.minimum stage := by
    simp [Fuses.raise, Assoc.get_eq_find, Assoc.find_set_same]
  rw [hget]
  split <;> omega

theorem State.writeMemory_tables (s : State) (pa : Nat) (v : DWord) : (s.writeMemory pa v).tables = s.tables := by
  unfold State.writeMemory
  split
  · exact (State.accessed_writePhys Who.nobody pa _).keep State.tables fun _ _ => rfl
  · rfl

theorem State.setPort_tables (s : State) (n : Nat) (up : Bool) : (s.setPort n up).tables = s.tables := by
  unfold State.setPort
  split <;> rfl

/-- A management register that Kuenrex writes: no table is touched. -/
theorem execMgmtRegisterWrite_tables {s : State} (hk : s.kuenrex = true) (r : MgmtReg) (v : DWord) :
    ∃ t, execMgmtRegisterWrite r v s = .next t ∧ t.tables = s.tables := by
  have hrun : ¬ (!s.kuenrex) = true := by simp [hk]
  unfold execMgmtRegisterWrite
  simp only [if_neg hrun]
  cases r with
  | memory pa => exact ⟨_, rfl, State.writeMemory_tables s pa v⟩
  | freeSlot stack cls =>
    dsimp only
    split
    · exact ⟨_, rfl, rfl⟩
    · exact ⟨_, rfl, rfl⟩
  | kuenrexPage =>
    dsimp only
    split
    · exact ⟨_, rfl, rfl⟩
    · exact ⟨_, rfl, rfl⟩
  | port i => exact ⟨_, rfl, State.setPort_tables s i _⟩
  | _ => exact ⟨_, rfl, rfl⟩

/-- The state after a core has been planned anew. -/
def State.replanned (s : State) (c mv date : Nat) : State :=
  { s with mgmt := { s.mgmt with
      notices := s.mgmt.notices ++ [.replan c (Assoc.get 0 s.mgmt.millivolt c) mv date]
      window := true
      millivolt := Assoc.set s.mgmt.millivolt c mv
      margin := Assoc.set s.mgmt.margin c (s.plannedMargin c) } }

/-- The state after a core has been found too slow. -/
def State.degrades (s : State) (c : Nat) : State :=
  ({ s with mgmt := { s.mgmt with degraded := insertNat c s.mgmt.degraded } } : State).notify (.degraded c)

theorem execMaintenanceReplan_open {s : State} {c mv date : Nat} {holds : Bool} (hk : s.kuenrex = true) (hw : s.windowOpen = true)
    (hc : c < Config.cores) : execMaintenanceReplan c mv date holds s =
      .next (if holds then s.replanned c mv date else (s.replanned c mv date).degrades c) := by
  unfold execMaintenanceReplan
  rw [if_neg (by simp [hk, hw]; omega)]
  cases holds <;> rfl

end Sys2Proof.Machine

section
open Sys2Proof Sys2Proof.Machine

theorem replanned_spec {s t : State} {c mv date : Nat} {holds : Bool}
    (ht : t = if holds then s.replanned c mv date else (s.replanned c mv date).degrades c) :
    Assoc.get 0 t.mgmt.millivolt c = mv ∧ Assoc.get 0 t.mgmt.margin c = s.plannedMargin c ∧
    .replan c (Assoc.get 0 s.mgmt.millivolt c) mv date ∈ t.mgmt.notices ∧ t.mem = s.mem ∧
    (holds = true → t.mgmt.degraded = s.mgmt.degraded) ∧ (holds = false → c ∈ t.mgmt.degraded) := by
  have hvolt : Assoc.get 0 (s.replanned c mv date).mgmt.millivolt c = mv := by
    simp [State.replanned, Assoc.get_eq_find, Assoc.find_set_same]
  have hmargin : Assoc.get 0 (s.replanned c mv date).mgmt.margin c = s.plannedMargin c := by
    simp [State.replanned, Assoc.get_eq_find, Assoc.find_set_same]
  have hnote : .replan c (Assoc.get 0 s.mgmt.millivolt c) mv date ∈ (s.replanned c mv date).mgmt.notices :=
    List.mem_append_right _ (List.mem_singleton_self _)
  subst ht
  cases holds with
  | true => exact ⟨hvolt, hmargin, hnote, rfl, fun _ => rfl, fun h => Bool.noConfusion h⟩
  | false => exact ⟨hvolt, hmargin, List.mem_append_left _ hnote, rfl, fun h => Bool.noConfusion h, fun _ => mem_insertNat c _⟩

/-- Settles O57: the image is loaded by the equation of its case, and each register is written in its own place. -/
theorem imageAndRegisterServices : Obligations.ImageAndRegisterServices := by
  unfold Obligations.ImageAndRegisterServices
  refine ⟨fun s img hk => ⟨fun h => ?_, fun p hp => ⟨fun h => ?_, fun hr hn s1 ns => ⟨fun hl => ?_, fun s2 hl hplace => ?_⟩⟩⟩,
    ⟨fun s r v hk => ?_, fun s v hk => ?_⟩⟩
  · exact execImageLoad_refused hk (h.elim id Image.sections_none)
  · exact (execImageLoad_some hk hp).trans (by rw [State.loadSections_malformed h])
  · refine ⟨_, (execImageLoad_some hk hp).trans (by rw [State.loadSections_tablesRefused hr hn hl]), ?_, fun n hn' => ?_, ?_⟩
    · exact State.destroyTables_keep State.mem (fun _ _ _ _ => rfl) s1 ns
    · exact State.find_destroyTables (.inl hn')
    · exact congrArg (· ++ [Notice.imageRefused]) (State.destroyTables_keep (fun t => t.mgmt.notices) (fun _ _ _ _ => rfl) s1 ns)
  · exact ⟨_, (execImageLoad_some hk hp).trans (congrArg Host.Outcome.next (State.loadSections_loaded hr hn hl hplace)),
      rfl, rfl, rfl, rfl⟩
  · change execMgmtRegisterWrite r v s = _
    simp [execMgmtRegisterWrite, hk]
  · have hrun : ¬ (!s.kuenrex) = true := by simp [hk]
    refine ⟨fun c => ⟨_, if_neg hrun, ?_, ?_, fun k hk => ?_⟩, fun c => ⟨_, if_neg hrun, ?_, ?_⟩, fun dom => ⟨_, if_neg hrun, ?_, ?_⟩,
      fun stage => ⟨_, if_neg hrun, Fuses.raise_minimum _ _ _⟩, fun hv => ?_, ⟨_, if_neg hrun, ?_⟩,
      fun r => execMgmtRegisterWrite_tables hk r v, fun c mv date holds hw hc => ⟨_, execMaintenanceReplan_open hk hw hc, replanned_spec rfl⟩⟩
    · rw [State.core_modCore]
      exact field64_eq_and v (lo := 2) (by decide)
    · rw [State.core_modCore]
    · exact State.core_modCore_other s _ (Ne.symm hk)
    · rw [State.core_modCore]
      exact field64_eq_and v (lo := 8) (by decide)
    · rw [State.core_modCore]
    · rw [State.domainEntry_modDomain]
    · rw [State.domainEntry_modDomain]
    · exact (if_neg hrun).trans (if_pos (List.contains_iff_mem.mpr hv))
    · change (v.toNat != 0) = decide (v ≠ 0#64)
      rw [bne, Bool.beq_eq_decide_eq, ← decide_not]
      exact decide_eq_decide.mpr (not_congr (by rw [← BitVec.toNat_inj]; rfl))

end
end

section
/-! SUPPORT. What every operation of the model does to memory: most leave it alone, and those that write it keep its
  form. -/

namespace Sys2Proof.Machine

/-! ### Links, tables, scratch and the accesses of operations -/

@[simp] theorem State.mem_putPort (s : State) (n : Nat) (p : Port) :
    (s.putPort n p).mem = s.mem := rfl

@[simp] theorem State.mem_sendFlit (s : State) (n : Nat) (b : FlitBody) :
    (s.sendFlit n b).mem = s.mem := by
  unfold State.sendFlit
  grind -ring -linarith -lia -order [State.mem_putPort]

@[simp] theorem State.mem_sendPort (s : State) (n : Nat) (b : FlitBody) :
    (s.sendPort n b).mem = s.mem := foldl_keep State.mem _ (fun t x => t.mem_sendFlit n x) _ s

@[simp] theorem State.mem_sendTo (s : State) (pkg : Nat) (b : FlitBody) :
    (s.sendTo pkg b).mem = s.mem := by
  unfold State.sendTo; split <;> simp

@[simp] theorem State.mem_openRequest (s : State) (pkg c op slot : Nat) :
    (s.openRequest pkg c op slot).1.mem = s.mem := rfl

@[simp] theorem State.mem_ask (s : State) (pkg c op slot : Nat) (who : LinkWho) (q : LinkAsk) :
    (s.ask pkg c op slot who q).1.mem = s.mem := by
  unfold State.ask; simp

@[simp] theorem State.mem_reportExits (s : State) :
    s.reportExits.mem = s.mem := (foldl_keep State.mem _ (fun t _ => t.mem_sendTo _ _) _ _).trans rfl

@[simp] theorem State.mem_countStack (s : State) (n k : Nat) :
    (s.countStack n k).mem = s.mem := rfl

@[simp] theorem State.mem_fromSource (before after : State) (n : Nat) :
    (State.fromSource before after n).mem = after.mem := rfl

@[simp] theorem State.mem_modTable (s : State) (n : Nat) (f : Table → Table) :
    (s.modTable n f).mem = s.mem := by
  unfold State.modTable; split <;> rfl

@[simp] theorem State.mem_bumpAt (s : State) (x : StorePlace) (n : Nat) :
    (s.bumpAt x n).mem = s.mem := by
  unfold State.bumpAt; split <;> simp

theorem State.wf_writeRowFrom (w : Who) (t : Table) (n : Nat) (m : Nat) (xs : List Word) (s : State) (h : s.mem.wf =
    true) :
    (State.writeRowFrom w t n m xs s).1.mem.wf = true := by
  fun_induction State.writeRowFrom w t n m xs s <;> grind -ring -linarith -lia -order [State.wf_writePhys]

theorem State.wf_writeRow (s : State) (w : Who) (t : Table) (r : Nat) (ws : List Word) (h : s.mem.wf = true) :
    (s.writeRow w t r ws).1.mem.wf = true := by
  unfold State.writeRow
  grind -ring -linarith -lia -order [State.wf_writeRowFrom]

theorem State.wf_replaceRow (s : State) (w : Who) (num : Nat) (t : Table) (ref : Nat) (ws : List Word) (h : s.mem.wf
    = true) :
    (s.replaceRow w num t ref ws).1.mem.wf = true := by
  unfold State.replaceRow
  grind -ring -linarith -lia -order [State.mem_modTable, State.wf_writeRow]

theorem State.wf_insertRow (s : State) (w : Who) (num : Nat) (t : Table) (key : Nat) (ws : List Word) (h : s.mem.wf =
    true) :
    (s.insertRow w num t key ws).1.mem.wf = true := by
  unfold State.insertRow
  grind -ring -linarith -lia -order [State.mem_modTable, State.wf_writeRow]

theorem State.wf_insertKey (s : State) (w : Who) (num : Nat) (t : Table) (ups : Bool) (key : Nat) (ws : List Word) (h
    : s.mem.wf = true) :
    (s.insertKey w num t ups key ws).1.mem.wf = true := by
  unfold State.insertKey
  grind -ring -linarith -lia -order [State.wf_insertRow, State.wf_replaceRow]

@[simp] theorem State.mem_deleteKey (s : State) (num : Nat) (t : Table) (sel key : Nat) :
    (s.deleteKey num t sel key).1.mem = s.mem := by
  unfold State.deleteKey; split <;> simp

@[simp] theorem State.mem_rekeyRow (s : State) (num : Nat) (t : Table) (ref key : Nat) :
    (s.rekeyRow num t ref key).1.mem = s.mem := by
  unfold State.rekeyRow
  grind -ring -linarith -lia -order [State.mem_modTable]

@[simp] theorem State.mem_pokeScratch (s : State) (k off : Nat) (bs : List Byte) :
    (s.pokeScratch k off bs).mem = s.mem := rfl

@[simp] theorem State.mem_consumeScratch (s : State) (k off n : Nat) :
    (s.consumeScratch k off n).mem = s.mem := rfl

@[simp] theorem State.mem_readScratchAt (s : State) (k off n : Nat) :
    (s.readScratchAt k off n).1.mem = s.mem := by
  unfold State.readScratchAt; split <;> rfl

@[simp] theorem State.mem_writeScratchSector (s : State) (k off : Nat) (bs : List Byte) :
    (s.writeScratchSector k off bs).1.mem = s.mem := by
  unfold State.writeScratchSector
  grind -ring -linarith -lia -order [State.mem_consumeScratch, State.mem_pokeScratch, State.modCore_mem]

@[simp] theorem State.mem_writeScratchFrom (k : Nat) (n : Nat) (m : Nat) (xs : List Byte) (s : State) :
    (State.writeScratchFrom k n m xs s).1.mem = s.mem := by
  fun_induction State.writeScratchFrom k n m xs s <;> grind -ring -linarith -lia -order [State.mem_writeScratchSector]

@[simp] theorem State.mem_writeScratchAt (s : State) (k off : Nat) (bs : List Byte) :
    (s.writeScratchAt k off bs).1.mem = s.mem := by
  unfold State.writeScratchAt; simp

@[simp] theorem State.mem_poisonScratch (s : State) (k off n : Nat) :
    (s.poisonScratch k off n).mem = s.mem := rfl

@[simp] theorem State.mem_writeScratchWords (k : Nat) (n : Nat) (xs : List Word) (s : State) :
    (State.writeScratchWords k n xs s).1.mem = s.mem := by
  fun_induction State.writeScratchWords k n xs s <;> grind -ring -linarith -lia -order [State.mem_writeScratchAt]

@[simp] theorem State.mem_markScratch (s : State) (c launch : Nat) (block : DWord) (x n : Nat) :
    (s.markScratch c launch block x n).mem = s.mem := by
  unfold State.markScratch; split <;> rfl

@[simp] theorem State.mem_writeScratch (s : State) (c launch : Nat) (block : DWord) (shadow : Bool) (x : Nat) (bs :
    List Byte) :
    (s.writeScratch c launch block shadow x bs).1.mem = s.mem := by
  unfold State.writeScratch; split <;> simp

@[simp] theorem State.mem_arrive (s : State) (pa : Nat) (x : Waiter) :
    (s.arrive pa x).1.mem = s.mem := by
  unfold State.arrive
  grind -ring -linarith -lia -order [State.mem_countStack, State.setBank_mem]

@[simp] theorem State.mem_arriveAll (x : Waiter) (xs : List Nat) (s : State) :
    (State.arriveAll x xs s).1.mem = s.mem := by
  fun_induction State.arriveAll x xs s <;> grind -ring -linarith -lia -order [State.mem_arrive]

theorem State.wf_rouseAll (x : Waiter) (xs : List Nat) (s : State) (h : s.mem.wf = true) :
    (State.rouseAll x xs s).mem.wf = true := by
  fun_induction State.rouseAll x xs s <;> grind -ring -linarith -lia -order [State.wf_bankWoken]

theorem State.wf_arriveLane (s : State) (c : Nat) (o : Op) (sync cached : Bool) (l : Nat) (h : s.mem.wf = true) :
    (s.arriveLane c o sync cached l).1.mem.wf = true := by
  unfold State.arriveLane
  grind -ring -linarith -lia -order [State.mem_arriveAll, State.wf_rouseAll]

theorem State.wf_loadWord (s : State) (c : Nat) (o : Op) (cached : Bool) (x : Nat) (h : s.mem.wf = true) :
    (s.loadWord c o cached x).1.mem.wf = true := by
  unfold State.loadWord
  grind -ring -linarith -lia -order [State.modCore_mem, State.wf_readBlock, State.wf_readPhys, State.wf_translate]

theorem State.wf_storeWord (s : State) (c : Nat) (o : Op) (x : Nat) (v : Word) (h : s.mem.wf = true) :
    (s.storeWord c o x v).1.mem.wf = true := by
  unfold State.storeWord
  grind -ring -linarith -lia -order [State.wf_translate, State.wf_writeBlock, State.wf_writePhys]

theorem State.wf_loadWords (c : Nat) (o : Op) (cached : Bool) (n : Nat) (m : Nat) (s : State) (h : s.mem.wf = true) :
    (State.loadWords c o cached n m s).1.mem.wf = true := by
  fun_induction State.loadWords c o cached n m s <;> grind -ring -linarith -lia -order [State.wf_loadWord]

theorem State.wf_storeWords (c : Nat) (o : Op) (n : Nat) (xs : List Word) (s : State) (h : s.mem.wf = true) :
    (State.storeWords c o n xs s).1.mem.wf = true := by
  fun_induction State.storeWords c o n xs s <;> grind -ring -linarith -lia -order [State.wf_storeWord]

theorem State.wf_performSt (s : State) (c : Nat) (o : Op) (l : Nat) (h : s.mem.wf = true) :
    (s.performSt c o l).1.mem.wf = true := by
  have hs := State.wf_storeWords c o (o.addr l) (o.data l) s h
  unfold State.performSt
  dsimp only
  split
  · exact h
  · split
    · rename_i heq
      rw [heq] at hs
      exact (congrArg Mem.wf (foldl_keep State.mem _ (fun t p => t.mem_bumpAt p 1) _ _)).trans hs
    · exact hs

theorem State.wf_performAtom (s : State) (c : Nat) (o : Op) (l : Nat) (h : s.mem.wf = true) :
    (s.performAtom c o l).1.mem.wf = true := by
  unfold State.performAtom
  grind -ring -linarith -lia -order [State.mem_bumpAt, State.wf_loadWord, State.wf_storeWords]

/-- Stated of a function that equals it, as the kernel would evaluate the two loads where it meets `performPost`
  unfolded. -/
theorem State.wf_of_performPost {f : State → Nat → Op → Nat → State × LaneOut} (hf : f = State.performPost) (s : State)
    (c : Nat) (o : Op) (l : Nat) (h : s.mem.wf = true) : (f s c o l).1.mem.wf = true := by
  delta State.performPost at hf
  have hf' := congrFun (congrFun (congrFun (congrFun hf s) c) o) l
  dsimp only at hf'
  rw [hf']
  have hl := State.wf_loadWords c o false 2 (o.pair l 0) s h
  generalize State.loadWords c o false 2 (o.pair l 0) s = r at hl
  obtain ⟨t, _ | _ | _⟩ := r
  · exact State.wf_storeWords _ _ _ _ _ hl
  · exact hl
  · exact hl

theorem State.wf_performPost (s : State) (c : Nat) (o : Op) (l : Nat) (h : s.mem.wf = true) :
    (s.performPost c o l).1.mem.wf = true := State.wf_of_performPost rfl s c o l h

theorem State.wf_firstStage (s : State) (w : Who) (t : Table) (key : Nat) (h : s.mem.wf = true) :
    (s.firstStage w t key).1.mem.wf = true := by
  unfold State.firstStage
  grind -ring -linarith -lia -order [State.wf_readPhys]

theorem State.wf_performLkp (s : State) (c : Nat) (o : Op) (l : Nat) (h : s.mem.wf = true) :
    (s.performLkp c o l).1.mem.wf = true := by
  unfold State.performLkp
  dsimp only
  split
  · exact h
  · rename_i t _
    have hm := (congrArg Mem.wf (s.mem_modTable (hNumber (o.gvals.getD 2 0#64)) fun t => t.count 0)).trans h
    have hf := State.wf_firstStage _ (o.who c) t (o.pair l 0) hm
    split
    · split <;> rename_i heq <;> rw [heq] at hf <;> exact hf
    · exact hm

theorem State.wf_performIndex (s : State) (c : Nat) (o : Op) (l : Nat) (h : s.mem.wf = true) :
    (s.performIndex c o l).1.mem.wf = true := by
  unfold State.performIndex
  grind -ring -linarith -lia -order [State.mem_deleteKey, State.mem_rekeyRow, State.wf_insertKey]

@[simp] theorem State.mem_performCopen (s : State) (c : Nat) (o : Op) (l : Nat) :
    (s.performCopen c o l).1.mem = s.mem := by
  unfold State.performCopen
  dsimp only
  split
  · rfl
  · split
    · rfl
    · split
      · split <;> simp
      · simp

@[simp] theorem State.mem_stepCursor (s : State) (c : Nat) (o : Op) (h : Word) (n : Nat) :
    (s.stepCursor c o h n).1.mem = s.mem := by
  unfold State.stepCursor
  grind -ring -linarith -lia -order [State.modCore_mem]

@[simp] theorem State.mem_performCstep (s : State) (c : Nat) (o : Op) (l : Nat) :
    (s.performCstep c o l).1.mem = s.mem := by
  unfold State.performCstep
  grind -ring -linarith -lia -order [State.mem_stepCursor]

@[simp] theorem State.mem_performCstepn (s : State) (c : Nat) (o : Op) (l : Nat) :
    (s.performCstepn c o l).1.mem = s.mem := by
  unfold State.performCstepn
  grind -ring -linarith -lia -order [State.mem_stepCursor]

theorem State.wf_zeroCursor (s : State) (c : Nat) (o : Op) (l : Nat) (h : s.mem.wf = true) :
    (s.zeroCursor c o l).mem.wf = true := by
  unfold State.zeroCursor
  grind -ring -linarith -lia -order [State.modStrand_mem, State.wf_writeV]

theorem State.wf_performCseek (s : State) (c : Nat) (o : Op) (l : Nat) (h : s.mem.wf = true) :
    (s.performCseek c o l).1.mem.wf = true := by
  unfold State.performCseek
  grind -ring -linarith -lia -order [State.modCore_mem, State.wf_zeroCursor]

@[simp] theorem State.mem_performScratch (s : State) (c : Nat) (o : Op) (l : Nat) :
    (s.performScratch c o l).1.mem = s.mem := by
  unfold State.performScratch
  grind -ring -linarith -lia -order [State.mem_readScratchAt, State.mem_writeScratchAt, State.mem_writeScratchWords]

theorem State.wf_arriveUnit (c : Nat) (o : Op) (sync cached : Bool) (xs : List Nat) (s : State) (h : s.mem.wf = true) :
    (State.arriveUnit c o sync cached xs s).1.mem.wf = true := by
  fun_induction State.arriveUnit c o sync cached xs s <;> grind -ring -linarith -lia -order [State.wf_arriveLane]

theorem State.wf_rowWords (c : Nat) (o : Op) (cached : Bool) (xs : List Nat) (s : State) (h : s.mem.wf = true) :
    (State.rowWords c o cached xs s).1.mem.wf = true := by
  fun_induction State.rowWords c o cached xs s <;> grind -ring -linarith -lia -order [State.wf_loadWords]

theorem State.wf_performLdrow (s : State) (c : Nat) (o : Op) (sync cached : Bool) (h : s.mem.wf = true) :
    (s.performLdrow c o sync cached).1.mem.wf = true := by
  have hu := State.wf_arriveUnit c o sync cached (lanesOf o.todo) s h
  unfold State.performLdrow
  split <;> rename_i heq <;> rw [heq] at hu
  · exact hu
  · rename_i t
    have hw := State.wf_rowWords c o cached (lanesOf o.todo) t hu
    grind -ring -linarith -lia -order [State.count_mem]

theorem State.wf_rowSums (c : Nat) (o : Op) (xs : List (Nat × List Word)) (s : State) (h : s.mem.wf = true) :
    (State.rowSums c o xs s).1.mem.wf = true := by
  fun_induction State.rowSums c o xs s <;> grind -ring -linarith -lia -order [State.wf_storeWords]

theorem State.wf_performRatom (s : State) (c : Nat) (o : Op) (sync : Bool) (h : s.mem.wf = true) :
    (s.performRatom c o sync).1.mem.wf = true := by
  unfold State.performRatom
  grind -ring -linarith -lia -order [State.mem_bumpAt, State.wf_arriveUnit, State.wf_rowSums, State.wf_rowWords]

theorem State.wf_performLane (s : State) (c : Nat) (o : Op) (cached : Bool) (l : Nat) (h : s.mem.wf = true) :
    (s.performLane c o cached l).1.mem.wf = true := by
  unfold State.performLane
  grind -ring -linarith -lia -order [State.mem_performCopen, State.mem_performCstep, State.mem_performCstepn,
    State.mem_performScratch, State.mem_post, State.wf_loadWords, State.wf_performAtom, State.wf_performCseek,
    State.wf_performIndex, State.wf_performLkp, State.wf_performPost, State.wf_performSt]

theorem State.wf_performLanes (c : Nat) (sync cached : Bool) (xs : List Nat) (s : State) (x : Op) (h : s.mem.wf =
    true) :
    (State.performLanes c sync cached xs s x).1.mem.wf = true := by
  fun_induction State.performLanes c sync cached xs s x <;> grind -ring -linarith -lia -order [State.wf_arriveLane,
    State.wf_performLane]

theorem State.wf_performOp (s : State) (c : Nat) (o : Op) (sync cached : Bool) (lanes : LaneMask) (h : s.mem.wf =
    true) :
    (s.performOp c o sync cached lanes).1.mem.wf = true := by
  have hl := s.wf_performLdrow c o sync cached h
  have hr := s.wf_performRatom c o sync h
  have ho (ls : List Nat) := State.wf_performLanes c sync cached ls s o h
  unfold State.performOp
  cases o.instr <;> simp only [hl, hr, ho, h]

@[simp] theorem State.mem_deliver (s : State) (c : Nat) (o : Op) :
    (s.deliver c o).mem = s.mem := by
  unfold State.deliver; split <;> rfl

theorem State.wf_performAt (s : State) (c n : Nat) (sync cached : Bool) (lanes : LaneMask) (h : s.mem.wf = true) :
    (s.performAt c n sync cached lanes).mem.wf = true := by
  unfold State.performAt
  grind -ring -linarith -lia -order [State.settleOp_mem, State.wf_performOp]

@[simp] theorem State.mem_mapSaved (s : State) (b : Block) (f : SavedNote → SavedNote) :
    (s.mapSaved b f).mem = s.mem := rfl

@[simp] theorem State.mem_mapStrands (s : State) (f : Nat → Nat → Strand → Strand) :
    (s.mapStrands f).mem = s.mem := rfl

@[simp] theorem State.mem_barrierEvent (s : State) (blk : Block) (n : Nat) (f : Barrier → Barrier) :
    (s.barrierEvent blk n f).mem = s.mem := by
  unfold State.barrierEvent
  dsimp only
  split
  · rfl
  · split <;> simp

/-! ### Barriers, the ends of strands, traps and frames, copies, futures, gathers, clauses -/

@[simp] theorem State.mem_atBarrier (s : State) (launch : Nat) (index : DWord) (n : Nat) (f : Barrier → Barrier) :
    (s.atBarrier launch index n f).mem = s.mem := by
  unfold State.atBarrier; split <;> simp

@[simp] theorem State.mem_reduceExpected (s : State) (launch : Nat) (index : DWord) :
    (s.reduceExpected launch index).mem = s.mem := by
  unfold State.reduceExpected
  split
  · rfl
  · exact foldl_keep State.mem _ (fun _ _ => by simp) _ _

@[simp] theorem State.mem_reduceBy (launch : Nat) (index : DWord) (n : Nat) (s : State) :
    (State.reduceBy launch index n s).mem = s.mem := by
  fun_induction State.reduceBy launch index n s <;> grind -ring -linarith -lia -order [State.mem_reduceExpected]

@[simp] theorem State.mem_breakStrand (s : State) (c sl : Nat) (lanes : LaneMask) :
    (s.breakStrand c sl lanes).mem = s.mem := by
  unfold State.breakStrand; split <;> rfl

@[simp] theorem State.mem_breakBlock (s : State) (launch : Nat) (index : DWord) :
    (s.breakBlock launch index).mem = s.mem := by
  unfold State.breakBlock
  split
  · rfl
  · exact (foldl_keep State.mem _ (fun _ _ => by simp) _ _).trans (by simp)

@[simp] theorem State.mem_breakGang (s : State) (c sl : Nat) :
    (s.breakGang c sl).mem = s.mem := by
  refine (foldl_keep State.mem _ (fun t x => ?_) _ _).trans (State.count_mem _ _ _ _)
  split <;> simp

@[simp] theorem State.mem_endBlocks (s : State) (launch : Nat) :
    (s.endBlocks launch).mem = s.mem := foldl_keep State.mem _ (fun t (b : Block) => t.endBlockIfDone_mem b.launch
      b.index) _ _

@[simp] theorem State.mem_threadsEnd (s : State) (c sl : Nat) (st : Strand) (m : LaneMask) :
    (s.threadsEnd c sl st m).mem = s.mem := by
  unfold State.threadsEnd
  grind -ring -linarith -lia -order [State.mem_reportExits, State.setBlock_mem]

@[simp] theorem State.mem_unreserve (s : State) (d : Departure) :
    (s.unreserve d).mem = s.mem := foldl_keep State.mem _ (fun t x => by split <;> simp) _ _

@[simp] theorem State.mem_dropInquiry (s : State) (c sl : Nat) :
    (s.dropInquiry c sl).mem = s.mem := by
  unfold State.dropInquiry
  split
  · rfl
  · exact (foldl_keep State.mem _ (fun t a => by split <;> simp) _ _).trans (State.modStrand_mem _ _ _ _)

@[simp] theorem State.mem_dropRequest (s : State) (c sl : Nat) (p : Preempt) :
    (s.dropRequest c sl p).mem = s.mem := by
  unfold State.dropRequest; split <;> rfl

@[simp] theorem State.mem_releaseSlot (s : State) (c sl : Nat) :
    (s.releaseSlot c sl).mem = s.mem := by
  have hd (st : Strand) : (st.departures.foldl State.unreserve (s.dropInquiry c sl)).mem = s.mem :=
    (foldl_keep State.mem _ State.mem_unreserve _ _).trans (s.mem_dropInquiry c sl)
  unfold State.releaseSlot
  split
  · rfl
  · split <;> simp [hd]

@[simp] theorem State.mem_killStrand (s : State) (c sl : Nat) :
    (s.killStrand c sl).mem = s.mem := by
  unfold State.killStrand
  grind -ring -linarith -lia -order [State.endBlockIfDone_mem, State.mem_breakBlock, State.mem_releaseSlot,
    State.mem_threadsEnd]

@[simp] theorem State.mem_exitLanes (s : State) (c sl : Nat) (m : LaneMask) :
    (s.exitLanes c sl m).mem = s.mem := by
  unfold State.exitLanes
  grind -ring -linarith -lia -order [State.endBlockIfDone_mem, State.mem_reduceBy, State.mem_releaseSlot,
    State.mem_threadsEnd, State.setStrand_mem]

theorem State.wf_settleAt (s : State) (c sl n : Nat) (h : s.mem.wf = true) :
    (s.settleAt c sl n).mem.wf = true := by
  unfold State.settleAt
  grind -ring -linarith -lia -order [State.finishOp_mem, State.wf_performAt]

theorem State.wf_settleFrom (c sl : Nat) (n : Nat) (m : Nat) (s : State) (h : s.mem.wf = true) :
    (State.settleFrom c sl n m s).mem.wf = true := by
  fun_induction State.settleFrom c sl n m s <;> grind -ring -linarith -lia -order [State.wf_settleAt]

theorem State.wf_settle (s : State) (c sl : Nat) (h : s.mem.wf = true) :
    (s.settle c sl).mem.wf = true := by
  unfold State.settle
  grind -ring -linarith -lia -order [State.wf_settleFrom]

@[simp] theorem State.mem_trapKill (s : State) (c sl : Nat) (st : Strand) (cause : Nat) :
    (s.trapKill c sl st cause).mem = s.mem := by
  unfold State.trapKill; simp

theorem State.wf_writeFrame (s : State) (c sl : Nat) (st : Strand) (hyp : Bool) (resume : DWord × Nat) (service :
    Nat) (causes : List (Nat × Word)) (entries : List Op) (h : s.mem.wf = true) :
    (s.writeFrame c sl st hyp resume service causes entries).1.mem.wf = true := by
  unfold State.writeFrame
  grind -ring -linarith -lia -order [State.wf_writeV]

@[simp] theorem State.mem_entered (s : State) (c sl : Nat) (st : Strand) (hyp : Bool) (causes : List (Nat × Word))
    (entries : List Op) (held : List HeldNote) :
    (s.entered c sl st hyp causes entries held).mem = s.mem := by
  unfold State.entered
  grind -ring -linarith -lia -order [State.mem_dropInquiry, State.mem_freezeBy, State.modCore_mem, State.count_mem,
    State.setStrand_mem]

theorem State.wf_openFrame (s : State) (c sl : Nat) (st : Strand) (causes : List (Nat × Word)) (entries : List Op)
    (held : List HeldNote) (resume : DWord × Nat) (service : Nat) (hcall : Bool) (h : s.mem.wf = true) :
    (s.openFrame c sl st causes entries held resume service hcall).mem.wf = true := by
  have hw := fun t hyp causes ht => State.wf_writeFrame t c sl st hyp resume service causes entries ht
  have hk := fun t code (ht : t.mem.wf = true) => (congrArg Mem.wf (State.mem_trapKill t c sl st code)).trans ht
  have he := fun t hyp causes (ht : t.mem.wf = true) =>
    (congrArg Mem.wf (State.mem_entered t c sl st hyp causes entries held)).trans ht
  -- opaque, so that the kernel does not run the writes of a frame
  obtain ⟨write, hwrite⟩ : ∃ w, w = State.writeFrame := ⟨_, rfl⟩
  unfold State.openFrame
  dsimp only
  rw [← hwrite] at hw ⊢
  split
  · exact hk _ _ h
  · split
    · have h1 := hw s true causes h
      split <;> rename_i heq <;> rw [heq] at h1
      · exact hk _ _ h1
      · exact he _ _ _ h1
    · have h1 := hw s false causes h
      split <;> rename_i heq <;> rw [heq] at h1
      · exact he _ _ _ h1
      · rename_i t f _
        have h2 := hw t true (frameFaulted f causes) h1
        split <;> rename_i heq2 <;> rw [heq2] at h2
        · exact hk _ _ h2
        · exact he _ _ _ h2

@[simp] theorem State.mem_countTrap (s : State) (c : Nat) (st : Strand) (fs : List LaneFault) :
    (s.countTrap c st fs).mem = s.mem := by
  unfold State.countTrap
  dsimp only
  split
  · exact State.count_mem _ _ _ _
  · split
    · exact State.count_mem _ _ _ _
    · rfl

theorem State.wf_takeTrap (s : State) (c sl : Nat) (precise : List LaneFault) (resume : DWord × Nat) (service : Nat)
    (hcall : Bool) (h : s.mem.wf = true) :
    (s.takeTrap c sl precise resume service hcall).mem.wf = true := by
  unfold State.takeTrap
  grind -ring -linarith -lia -order [State.mem_countTrap, State.wf_openFrame, State.wf_settle]

theorem State.wf_trapWord (s : State) (st : Strand) (fs : List LaneFault) (h : s.mem.wf = true) :
    (s.trapWord st fs).mem.wf = true := by
  unfold State.trapWord
  grind -ring -linarith -lia -order [State.modHere_mem, State.wf_takeTrap]

theorem State.mem_deliverBound (s : State) (lineage : DWord) (xs : List Nat) :
    ∀ t, s.deliverBound lineage xs = some t → t.mem = s.mem := by
  fun_induction s.deliverBound lineage xs <;> grind -ring -linarith -lia -order [State.modCore_mem, State.modHere_mem]

theorem State.wf_performScratchNow (s : State) (c : Nat) (h : s.mem.wf = true) :
    (s.performScratchNow c).mem.wf = true := by
  unfold State.performScratchNow
  grind -ring -linarith -lia -order [State.modCore_mem, State.settleOp_mem, State.wf_performOp]

@[simp] theorem State.mem_putHeld (s : State) (c sl n : Nat) (held : List HeldNote) :
    (s.putHeld c sl n held).mem = s.mem := by
  refine foldl_keep State.mem _ (fun t f => ?_) _ s
  split
  · split <;> simp
  · rfl

theorem State.wf_replay (c sl : Nat) (held : List HeldNote) (n : Nat) (xs : List (Op × LaneMask)) (s : State) (h :
    s.mem.wf = true) :
    (State.replay c sl held n xs s).1.mem.wf = true := by
  have hm (o : Op) (gone : LaneMask) (b : Bool) {t : State} (ht : t.mem.wf = true) :
      (t.modStrand c sl (discardLanes o gone b)).mem.wf = true := (congrArg Mem.wf (t.modStrand_mem c sl _)).trans ht
  have hp (n : Nat) {t : State} (ht : t.mem.wf = true) : (t.putHeld c sl n held).mem.wf = true :=
    (congrArg Mem.wf (t.mem_putHeld c sl n held)).trans ht
  induction xs generalizing n s with
  | nil => exact hp n h
  | cons x rest ih =>
    unfold State.replay
    split
    · exact h
    · dsimp only
      split
      · exact ih _ _ (hm _ _ _ (hp n h))
      · split
        · refine ih _ _ (State.wf_performScratchNow _ c ?_)
          exact (congrArg Mem.wf (State.startOp_mem _ _ _)).trans (hm _ _ _ (hp n h))
        · exact (congrArg Mem.wf (foldl_keep State.mem _ (fun t _ => t.modStrand_mem c sl _) _ _)).trans (hm _ _ _
          (hp n h))

@[simp] theorem State.mem_recheckBarrier (s : State) (c sl n : Nat) (w : Wait) (lanes : LaneMask) :
    (s.recheckBarrier c sl n w lanes).mem = s.mem := by
  unfold State.recheckBarrier
  grind -ring -linarith -lia -order [State.mem_breakStrand, State.modStrand_mem]

@[simp] theorem State.mem_resumeWait (s : State) (c sl : Nat) (w : Wait) :
    (s.resumeWait c sl w).mem = s.mem := by
  unfold State.resumeWait
  grind -ring -linarith -lia -order [State.mem_recheckBarrier, State.modCore_mem, State.modStrand_mem,
    State.setStrand_mem]

theorem State.wf_readFrame (s : State) (w : Who) (addr : Nat) (h : s.mem.wf = true) :
    (s.readFrame w addr).1.mem.wf = true := by
  unfold State.readFrame
  grind -ring -linarith -lia -order [State.wf_readV]

theorem State.wf_returnTrap (s : State) (st : Strand) (h : s.mem.wf = true) :
    (s.returnTrap st).mem.wf = true := by
  have htrap {t : State} (fs : List LaneFault) (ht : t.mem.wf = true) : (t.trapWord st fs).mem.wf = true :=
    State.wf_trapWord t st fs ht
  unfold State.returnTrap
  dsimp only
  split
  · exact htrap _ h
  · rename_i note older _
    have h1 := s.wf_readFrame (st.who s.cur.1) ((s.core s.cur.1).frameAt note.hyp s.cur.2 st.depth) h
    split <;> rename_i heq <;> rw [heq] at h1
    · exact htrap _ h1
    · rename_i t bs
      have h2 (hyp : Bool) := State.wf_readV (st.who s.cur.1) ((s.core s.cur.1).frameAt hyp s.cur.2 (st.depth - 1)) 512
        .read h1
      have hset (x : Strand) {u : State} (hu : u.mem.wf = true) :
          ([60, 61, 62, 63].foldl (fun r g => r.modCore s.cur.1 fun k => k.unbind st.lineage g)
            (u.setStrand s.cur.1 s.cur.2 x)).mem.wf = true := hu
      grind -ring -linarith -lia -order [State.wf_replay, State.mem_resumeWait, State.wf_settle, State.wf_openFrame,
        State.mem_countTrap]

theorem wf_copyIn (w : Who) (k : Nat) (n : Nat) (m : Nat) (i : Nat) (j : Nat) (x : CopyTally) (s : State) (h :
    s.mem.wf = true) :
    (copyIn w k n m i j x s).1.mem.wf = true := by
  fun_induction copyIn w k n m i j x s <;> grind -ring -linarith -lia -order [State.mem_poisonScratch,
    State.mem_writeScratchAt, State.wf_readPage]

theorem State.wf_poisonMem (s : State) (w : Who) (pa : Nat) (h : s.mem.wf = true) :
    (s.poisonMem w pa).mem.wf = true := State.wf_serve w pa h

theorem wf_copySector (w : Who) (k off va n : Nat) (x : CopyTally) (s : State) (h : s.mem.wf = true) :
    (copySector w k off va n x s).1.mem.wf = true := by
  unfold copySector
  grind -ring -linarith -lia -order [State.mem_readScratchAt, State.wf_poisonMem, State.wf_translate,
    State.wf_writePhys]

theorem wf_copyOut (w : Who) (k : Nat) (n : Nat) (m : Nat) (i : Nat) (j : Nat) (x : CopyTally) (s : State) (h :
    s.mem.wf = true) :
    (copyOut w k n m i j x s).1.mem.wf = true := by
  fun_induction copyOut w k n m i j x s <;> grind -ring -linarith -lia -order [wf_copySector]

@[simp] theorem mem_copyRead (k : Nat) (n : Nat) (m : Nat) (i : Nat) (j : Nat) (s : State) :
    (copyRead k n m i j s).1.mem = s.mem := by
  fun_induction copyRead k n m i j s <;> grind -ring -linarith -lia -order [State.mem_readScratchAt]

@[simp] theorem mem_copyWrite (k : Nat) (xs : List (Nat × Nat × Except Fail (List Byte))) (x : CopyTally) (s : State) :
    (copyWrite k xs x s).1.mem = s.mem := by
  fun_induction copyWrite k xs x s <;> grind -ring -linarith -lia -order [State.mem_poisonScratch,
    State.mem_writeScratchAt]

theorem State.wf_moveCopy (s : State) (c : Nat) (q : CopyOp) (h : s.mem.wf = true) :
    (s.moveCopy c q).1.mem.wf = true := by
  unfold State.moveCopy
  dsimp only
  split
  · exact wf_copyIn _ _ _ _ _ _ _ _ h
  · simp [h]
  · exact (congrArg Mem.wf (foldl_keep State.mem _ (fun t p => t.mem_bumpAt p 1) _ _)).trans (wf_copyOut _ _ _ _ _ _
    _ _ h)

@[simp] theorem State.mem_copyFault (s : State) (c : Nat) (q : CopyOp) (f : Fail) :
    (s.copyFault c q f).mem = s.mem := by
  unfold State.copyFault; split <;> rfl

theorem State.mem_takeFuture (s : State) (st : Strand) (d : Nat) (k : FutureKind) (ranges : List (Bool × (Word ×
    Nat))) (entries : Nat) :
    ∀ t, s.takeFuture st d k ranges entries = some t → t.1.mem = s.mem := by
  unfold State.takeFuture
  grind -ring -linarith -lia -order [State.modCore_mem, State.modHere_mem]

@[simp] theorem State.mem_cancelFuture (s : State) (c i : Nat) (f : Future) :
    (s.cancelFuture c i f).mem = s.mem := by
  unfold State.cancelFuture
  grind -ring -linarith -lia -order [State.completeFuture_mem, State.mem_sendTo, State.modCore_mem, State.setStrand_mem]

@[simp] theorem State.mem_acceptLaunch (s : State) (r : LRec) (va : Nat) (future : Option (Nat × Nat)) :
    (s.acceptLaunch r va future).mem = s.mem := rfl

theorem State.wf_readRecord (s : State) (w : Who) (va : Nat) (hyp : Bool) (h : s.mem.wf = true) :
    (s.readRecord w va hyp).1.mem.wf = true := by
  unfold State.readRecord
  grind -ring -linarith -lia -order [State.wf_readV]

@[simp] theorem State.mem_markReads (s : State) (c : Nat) (st : Strand) (rs : List (Bool × (Word × Nat))) :
    (s.markReads c st rs).mem = s.mem := foldl_keep State.mem _ (fun t x => by split <;> simp) _ _

@[simp] theorem State.mem_breakJoint (s : State) (c sl : Nat) (st : Strand) :
    (s.breakJoint c sl st).mem = s.mem := by
  refine (foldl_keep State.mem _ (fun t x => ?_) _ _).trans (State.count_mem _ _ _ _)
  split <;> simp

@[simp] theorem State.mem_askFor (s : State) (c i : Nat) (w : Who) (pkg : Nat) (q : LinkAsk) :
    (s.askFor c i w pkg q).1.mem = s.mem := by
  unfold State.askFor; simp

theorem State.wf_blockWords (w : Who) (blk : Nat) (n : Nat) (m : Nat) (s : State) (h : s.mem.wf = true) :
    (State.blockWords w blk n m s).1.mem.wf = true := by
  fun_induction State.blockWords w blk n m s <;> grind -ring -linarith -lia -order [State.wf_readBlock]

theorem State.wf_readStore (w : Who) (t : Table) (n : Nat) (m : Nat) (i : Nat) (s : State) (h : s.mem.wf = true) :
    (State.readStore w t n m i s).1.mem.wf = true := by
  fun_induction State.readStore w t n m i s <;> grind -ring -linarith -lia -order [State.wf_readPhys]

theorem State.wf_nearRow (s : State) (w : Who) (t : Table) (ref f m : Nat) (h : s.mem.wf = true) :
    (s.nearRow w t ref f m).1.mem.wf = true := by
  unfold State.nearRow
  grind -ring -linarith -lia -order [State.wf_readStore]

theorem State.wf_farWords (s : State) (w : Who) (ref f m : Nat) (h : s.mem.wf = true) :
    (s.farWords w ref f m).1.mem.wf = true := by
  unfold State.farWords
  grind -ring -linarith -lia -order [State.wf_blockWords, State.wf_nearRow]

theorem State.wf_farRow (s : State) (c i : Nat) (w : Who) (key ref f m : Nat) (g : Gathered) (h : s.mem.wf = true) :
    (s.farRow c i w key ref f m g).1.mem.wf = true := by
  unfold State.farRow
  grind -ring -linarith -lia -order [State.mem_askFor, State.wf_farWords]

theorem State.wf_gathRef (s : State) (w : Who) (t : Table) (sel key : Nat) (h : s.mem.wf = true) :
    (s.gathRef w t sel key).1.mem.wf = true := by
  unfold State.gathRef
  grind -ring -linarith -lia -order [State.wf_firstStage]

/-- What is read once for a key keeps memory in its form where the read does. -/
theorem State.wf_rowOnce {s : State} (key ref : Nat) (g : Gathered) {read : Gathered → State → State × Gathered}
    (hr : ∀ g t, t.mem.wf = true → (read g t).1.mem.wf = true) (h : s.mem.wf = true) :
    (s.rowOnce key ref g read).1.mem.wf = true := by
  unfold State.rowOnce
  split
  · exact h
  · exact hr _ _ h

theorem State.wf_gathKeys (c i : Nat) (w : Who) (r : GathRec) (xs : List Nat) (x : Gathered) (s : State) (h :
    s.mem.wf = true) :
    (State.gathKeys c i w r xs x s).1.mem.wf = true := by
  induction xs generalizing x s with
  | nil => exact h
  | cons key ks ih =>
    unfold State.gathKeys
    split
    · exact ih _ _ h
    · have hm := (congrArg Mem.wf (s.mem_modTable (hNumber r.handle) fun t => t.count 0)).trans h
      dsimp only
      split
      · exact hm
      · rename_i t _
        have hg := State.wf_gathRef _ w t (hSelector r.handle) key hm
        split <;> rename_i heq <;> rw [heq] at hg
        · exact ih _ _ hg
        · rename_i ref
          split
          · exact ih _ _ hg
          · refine ih _ _ (State.wf_rowOnce key ref x (fun g u hu => ?_) hg)
            split
            · exact State.wf_farRow _ _ _ _ _ _ _ _ _ hu
            · exact State.wf_nearRow _ _ _ _ _ _ hu

@[simp] theorem State.mem_setKind (s : State) (c i : Nat) (kind : FutureKind) :
    (s.setKind c i kind).mem = s.mem := rfl

@[simp] theorem State.mem_gathWaits (s : State) (c i : Nat) (record : List Byte) (dest : Word) (g : Gathered) :
    (s.gathWaits c i record dest g).mem = s.mem := by
  unfold State.gathWaits; split <;> rfl

theorem State.wf_gather (s : State) (c i : Nat) (st : Strand) (x : Nat) (r : GathRec) (dest : Word) (h : s.mem.wf =
    true) :
    (s.gather c i st x r dest).mem.wf = true := by
  unfold State.gather
  dsimp only
  split
  · exact (congrArg Mem.wf (by simp)).trans h
  · split
    · exact (congrArg Mem.wf (State.mem_setKind _ _ _ _)).trans h
    · rename_i t _
      split
      · exact (congrArg Mem.wf (State.mem_setKind _ _ _ _)).trans h
      · exact (congrArg Mem.wf (State.mem_gathWaits _ _ _ _ _ _)).trans (State.wf_gathKeys c i (st.who c) r _ _ _ h)

@[simp] theorem State.mem_writeSome (s : State) (c : Nat) (f : Future) (x : Word) (n : Nat) (xs : List Byte) :
    (s.writeSome c f x n xs).mem = s.mem := by
  fun_induction s.writeSome c f x n xs <;> grind -ring -linarith -lia -order [State.mem_writeScratch]

@[simp] theorem State.mem_gathWrite (c : Nat) (f : Future) (xs : List (Word × List Byte)) (s : State) :
    (State.gathWrite c f xs s).1.mem = s.mem := by
  fun_induction State.gathWrite c f xs s <;> grind -ring -linarith -lia -order [State.mem_writeScratch]

theorem State.wf_copySector (s : State) (w : Who) (n : Nat) (h : s.mem.wf = true) :
    (s.copySector w n).1.mem.wf = true := by
  unfold State.copySector
  grind -ring -linarith -lia -order [State.mem_post, State.wf_serve]

theorem State.wf_copySectors (w : Who) (xs : List Nat) (s : State) (h : s.mem.wf = true) :
    (State.copySectors w xs s).1.mem.wf = true := by
  fun_induction State.copySectors w xs s <;> grind -ring -linarith -lia -order [State.wf_copySector]

theorem State.wf_promote (s : State) (w : Who) (ref : Nat) (cancel : Bool) (h : s.mem.wf = true) :
    (s.promote w ref cancel).1.mem.wf = true := by
  unfold State.promote
  grind -ring -linarith -lia -order [State.wf_copySectors, State.wf_moveBlock, State.wf_readEntry]

theorem State.wf_promoFor (s : State) (i : Nat) (x : PromoAsk) (h : s.mem.wf = true) :
    (s.promoFor i x).mem.wf = true := by
  unfold State.promoFor
  grind -ring -linarith -lia -order [State.mem_countStack, State.mem_fromSource, State.mem_sendTo, State.wf_promote]

theorem State.wf_compact (s : State) (blk : Nat) (e : BlockEntry) (h : s.mem.wf = true) :
    (s.compact blk e).mem.wf = true := by
  have hc := State.wf_consumeAll (s.mover e) (e.mapSectors 511) h
  unfold State.compact
  dsimp only
  split <;> rename_i heq <;> rw [heq] at hc
  · exact (congrArg Mem.wf (State.mem_fromSource _ _ _)).trans hc
  · rename_i s1
    split
    · exact h
    · split
      · rename_i t hmove
        have hserve := State.wf_serveSlot (s.mover e) e hc
        have hpost (ns : List Nat) {u : State} (hu : u.mem.wf = true) :
            (s.fromSource (ns.foldl (fun t n => t.post Who.nobody (32 * n) 0x16) u) 16).mem.wf = true := by
          rw [State.mem_fromSource, foldl_keep State.mem _ fun t n => t.mem_post Who.nobody (32 * n) 0x16]
          exact hu
        have ht : t.mem.wf = true := State.wf_moveBlock _ _ _ _ _ _ _ _ (hpost _ hserve) hmove
        exact ht
      · exact h

@[simp] theorem State.mem_modBuffer (s : State) (c : Nat) (h : Word) (f : Buffer → Buffer) :
    (s.modBuffer c h f).mem = s.mem := by
  unfold State.modBuffer; split <;> rfl

@[simp] theorem State.mem_endWait (s : State) (c sl : Nat) :
    (s.endWait c sl).mem = s.mem := by
  unfold State.endWait; simp

theorem wf_fetchWords (w : Who) (n : Nat) (x : DWord) (s : State) (h : s.mem.wf = true) :
    (fetchWords w n x s).1.mem.wf = true := by
  induction n generalizing x s with
  | zero => exact h
  | succ n ih =>
    have hr := State.wf_readPage w x.toNat 4 .exec h
    unfold fetchWords
    split <;> rename_i heq <;> rw [heq] at hr
    · exact hr
    · rename_i t _
      have hw := ih (x + 4#64) t hr
      split <;> rename_i heq2 <;> rw [heq2] at hw <;> exact hw

theorem wf_openClause (h : Word) (st : Strand) (s : State) (hs : s.mem.wf = true) : (openClause h st s).mem.wf = true
    := by
  have ht (t : State) (fs : List LaneFault) (ht : t.mem.wf = true) :
      (t.takeTrap s.cur.1 s.cur.2 fs (st.pc, st.pcIdx)).mem.wf = true := State.wf_takeTrap _ _ _ _ _ _ _ ht
  have hf := wf_fetchWords (st.who s.cur.1) (slice h 3 1 + 1) (st.pc + 4#64) s hs
  unfold openClause
  dsimp only
  split <;> rename_i heq <;> rw [heq] at hf
  · split
    · exact hf
    · exact ht _ _ hf
  · split
    · split
      · exact hf
      · exact ht _ _ hf
    · split
      · exact hf
      · split <;> simp [hf]

theorem wf_fetchClause (s : State) (h : s.mem.wf = true) :
    (fetchClause s).mem.wf = true := by
  unfold fetchClause
  grind -ring -linarith -lia -order [State.wf_readPage, State.wf_takeTrap, wf_openClause]

theorem wf_endClause (w : Who) (a : DWord) (s : State) (h : s.mem.wf = true) :
    (endClause w a s).1.mem.wf = true := by
  unfold endClause
  grind -ring -linarith -lia -order [wf_fetchWords]

/-! ### Placement, departures, tables and images, answers of links -/

/-- A read apart from the TLBs keeps memory in its form where the read does. -/
theorem State.wf_apart {α : Type} {s : State} {f : State → State × α} (hf : ∀ t, t.mem.wf = true → (f t).1.mem.wf =
    true)
    (h : s.mem.wf = true) : (s.apart f).1.mem.wf = true :=
  hf (s.modCore 0 fun k => { k with tlb := [] }) h

@[simp] theorem State.mem_notify (s : State) (n : Notice) :
    (s.notify n).mem = s.mem := rfl

@[simp] theorem State.mem_seat (s : State) (c : Nat) (st : Strand) :
    (s.seat c st).mem = s.mem := rfl

@[simp] theorem State.mem_givePortion (s : State) (c0 c g m : Nat) (l : Launch) (index : Nat) :
    (s.givePortion c0 c g m l index).mem = s.mem := by
  unfold State.givePortion
  grind -ring -linarith -lia -order [State.modCore_mem, State.setCore_mem]

@[simp] theorem State.mem_fillCore (s : State) (c0 c g m first : Nat) (l : Launch) (index : Nat) :
    (s.fillCore c0 c g m first l index).mem = s.mem := foldl_keep State.mem _ (fun t _ => t.mem_seat _ _) _ _
      |>.trans (s.mem_givePortion ..)

@[simp] theorem State.mem_fillCores (c0 c : Nat) (l : Launch) (index : Nat) (xs : List Nat) (n : Nat) (s : State) :
    (State.fillCores c0 c l index xs n s).mem = s.mem := by
  fun_induction State.fillCores c0 c l index xs n s <;> grind -ring -linarith -lia -order [State.mem_fillCore]

theorem State.wf_clearResult (s : State) (l : Launch) (h : s.mem.wf = true) :
    (s.clearResult l).mem.wf = true := by
  unfold State.clearResult
  grind -ring -linarith -lia -order [State.mem_notify, State.wf_apart, State.wf_writeV]

theorem State.wf_placeBlock (s : State) (l : Launch) (cs : List Nat) (c0 c : Nat) (h : s.mem.wf = true) :
    (s.placeBlock l cs c0 c).mem.wf = true := by
  unfold State.placeBlock
  grind -ring -linarith -lia -order [State.mem_fillCores, State.wf_clearResult]

theorem State.wf_placeSuccessor (s : State) (l : Launch) (h : s.mem.wf = true) :
    (s.placeSuccessor l).mem.wf = true := by
  unfold State.placeSuccessor
  grind -ring -linarith -lia -order [State.mem_acceptLaunch, State.mem_notify, State.wf_apart, State.wf_readRecord,
    State.wf_readV]

@[simp] theorem State.mem_dropEntries (s : State) (cores : List Nat) (dom : BitVec 16) (addr : DWord) (second : Bool) :
    (s.dropEntries cores dom addr second).mem = s.mem := foldl_keep State.mem _ (fun t _ => t.modCore_mem _ _) _ _

@[simp] theorem State.mem_askTinv (s : State) (c sl : Nat) (st : Strand) (dom : BitVec 16) (addr : DWord) (second :
    Bool) (pkgs : List Nat) :
    (s.askTinv c sl st dom addr second pkgs).mem = s.mem := by
  have hr (r : State × List Nat) : (pkgs.foldl (fun (r : State × List Nat) pkg =>
      match r.1.ask pkg c st.issued sl ⟨Config.packageNumber, c, st.domain, st.keyid, st.mode, st.launch⟩
        (.tinv dom addr second) with
      | (s, n) => (s, r.2 ++ [n])) r).1.mem = r.1.mem :=
    foldl_keep (fun r : State × List Nat => r.1.mem) _ (fun r pkg => State.mem_ask _ _ _ _ _ _ _) _ r
  exact (State.modStrand_mem _ _ _ _).trans (hr (s, []))

@[simp] theorem State.mem_askDeparture (s : State) (c sl kind op : Nat) (st : Strand) (pkg : Nat) (q : LinkAsk) :
    (s.askDeparture c sl kind op st pkg q).1.mem = s.mem := by
  unfold State.askDeparture; simp

@[simp] theorem State.mem_inquire (s : State) (c sl : Nat) (live : DWord) (flagged : Bool) (ls : List (Nat × Bound ×
    Nat)) :
    (s.inquire c sl live flagged ls).mem = s.mem := by
  unfold State.inquire
  split
  · rfl
  · dsimp only
    split
    · refine foldl_keep State.mem _ (fun t x => ?_) _ _
      split
      · rfl
      · simp
    · refine (foldl_keep State.mem _ (fun t x => ?_) _ _).trans (State.modStrand_mem s c sl _)
      simp

@[simp] theorem State.mem_takeGranted (s : State) (c sl : Nat) (fs : List (Nat × Bound × Fate)) :
    (s.takeGranted c sl fs).mem = s.mem := by
  unfold State.takeGranted; simp

@[simp] theorem State.mem_beginDeparture (s : State) (c sl : Nat) (fs : List (Nat × Bound × Fate)) (live resume :
    DWord) (idx : Nat) (stay : Bool) :
    (s.beginDeparture c sl fs live resume idx stay).mem = s.mem := by
  have hrefused : ((refusedLanes fs).foldl (fun s x => s.count c (0x4010 + x.2)) s).mem = s.mem :=
    foldl_keep State.mem _ (fun t x => State.count_mem t c _ _) _ s
  have hsteer (t : State) : (fs.foldl (fun s x => match x.2.1, x.2.2 with
      | .stack h, .departs _ k => s.modStack h fun y => { y with steer := k }
      | _, _ => s) t).mem = t.mem := foldl_keep State.mem _ (fun t x => by split <;> simp) _ t
  have hreserve (ds : List Dep) (t : State) : (ds.foldl (fun s x =>
      if x.pkg = Config.packageNumber then s.modCore x.core fun k => { k with reserved := k.reserved + 1 } else s)
        t).mem = t.mem :=
    foldl_keep State.mem _ (fun t x => by split <;> simp) _ t
  unfold State.beginDeparture
  dsimp only
  split
  · exact (State.mem_takeGranted _ _ _ _).trans hrefused
  · rw [State.modStrand_mem]
    have hall := (hreserve (departing fs) _).trans ((hsteer _).trans ((State.mem_takeGranted _ c sl fs).trans hrefused))
    split
    · exact hall
    · exact (State.count_mem _ _ _ _).trans hall

theorem State.wf_readHomes (s : State) (w : Who) (xs : List Nat) (h : s.mem.wf = true) :
    (s.readHomes w xs).mem.wf = true := by
  refine List.foldlRecOn xs _ (motive := fun t : State => t.mem.wf = true) h fun t ht x _ => ?_
  split
  · exact State.wf_findBlock w _ ht
  · exact ht

@[simp] theorem State.mem_sendFar (s : State) (f : Flacon) :
    (s.sendFar f).mem = s.mem := by
  unfold State.sendFar; simp

@[simp] theorem State.mem_sendFlacons (s : State) (c sl : Nat) (st : Strand) (d : Departure) :
    (s.sendFlacons c sl st d).mem = s.mem := by
  have hfar (fs : List Flacon) (t : State) : (fs.foldl State.sendFar t).mem = t.mem :=
    foldl_keep State.mem _ State.mem_sendFar fs t
  unfold State.sendFlacons
  grind -ring -linarith -lia -order [State.modCore_mem, State.count_mem, State.setStrand_mem, State.mem_reduceBy,
    State.setBlock_mem, State.mem_releaseSlot,
    State.endBlockIfDone_mem]

theorem State.wf_takeTable (s : State) (h : s.mem.wf = true) :
    ∀ t, s.takeTable = some t → t.1.mem.wf = true := by
  unfold State.takeTable
  grind -ring -linarith -lia -order [State.wf_freshPage]

theorem State.wf_reachTable (va : Nat) (n : Nat) (m : Nat) (i : Nat) (s : State) (h : s.mem.wf = true) :
    ∀ t, State.reachTable va n m i s = some t → t.1.mem.wf = true := by
  intro r hr
  induction n generalizing m i s with
  | zero => cases hr; exact h
  | succ n ih =>
    have h1 := State.wf_readPhys Who.nobody (i + 8 * levelIndex va m) 8 h
    unfold State.reachTable at hr
    dsimp only at hr
    split at hr <;> rename_i heq <;> rw [heq] at h1
    · cases hr
    · split at hr
      · split at hr
        · cases hr
        · exact ih _ _ _ h1 hr
      · split at hr
        · cases hr
        · rename_i t ht
          have h2 := State.wf_takeTable _ h1 _ ht
          split at hr
          · cases hr
          · rename_i hput
            exact ih _ _ _ (State.wf_putEntry _ _ h2 hput) hr

theorem State.wf_rootOf (s : State) (dom : Nat) (h : s.mem.wf = true) :
    ∀ t, s.rootOf dom = some t → t.1.mem.wf = true := by
  intro r hr
  unfold State.rootOf at hr
  dsimp only at hr
  split at hr
  · cases hr; exact h
  · split at hr
    · cases hr
    · rename_i ht
      have h1 := State.wf_takeTable s h _ ht
      cases hr
      exact h1

theorem State.wf_putLeaf (s : State) (dom va e : Nat) (h : s.mem.wf = true) :
    ∀ t, s.putLeaf dom va e = some t → t.mem.wf = true := by
  intro t ht
  unfold State.putLeaf at ht
  split at ht
  · cases ht
  · rename_i hroot
    have h1 := State.wf_rootOf s dom h _ hroot
    split at ht
    · cases ht
    · rename_i hreach
      exact State.wf_putEntry _ _ (State.wf_reachTable va _ _ _ _ h1 _ hreach) ht

theorem State.wf_mapPages (dom : Nat) (exec write : Bool) (n : Nat) (xs : List Nat) (s : State) (h : s.mem.wf = true) :
    ∀ t, State.mapPages dom exec write n xs s = some t → t.mem.wf = true := by
  fun_induction State.mapPages dom exec write n xs s <;> grind -ring -linarith -lia -order [State.wf_putLeaf]

theorem State.wf_unmapPages (s : State) (dom va n : Nat) (h : s.mem.wf = true) :
    (s.unmapPages dom va n).mem.wf = true := by
  refine List.foldlRecOn (List.range n) _ (motive := fun t : State => t.mem.wf = true) h fun t ht x _ => ?_
  cases hp : t.putLeaf dom (va + pageBytes * x) 0 with
  | none => exact ht
  | some u => exact t.wf_putLeaf dom _ _ ht u hp

theorem State.wf_makeTable (s : State) (dom : Nat) (d : TableDesc) (base : Nat) (pages : List Nat) (h : s.mem.wf =
    true) :
    (s.makeTable dom d base pages).1.mem.wf = true := by
  unfold State.makeTable
  grind -ring -linarith -lia -order [State.wf_fillPages, State.wf_mapPages]

@[simp] theorem State.mem_destroyTable (s : State) (n : Nat) :
    (s.destroyTable n).mem = s.mem := by
  unfold State.destroyTable; split <;> rfl

theorem State.wf_loadRow (s : State) (n : Nat) (r : RowImage) (h : s.mem.wf = true) :
    (s.loadRow n r).1.mem.wf = true := by
  unfold State.loadRow
  grind -ring -linarith -lia -order [State.wf_insertKey, State.wf_writeRow]

theorem State.wf_loadRows (n : Nat) (xs : List RowImage) (s : State) (h : s.mem.wf = true) :
    (State.loadRows n xs s).1.mem.wf = true := by
  fun_induction State.loadRows n xs s <;> grind -ring -linarith -lia -order [State.wf_loadRow]

/-- One table of an image, then the others. The two functions that place it are opaque in the proof, as they would be
  run. -/
theorem State.loadTables_cons (dom : Nat) (x : ImageTable) (base : Nat) (pages : List Nat)
    (rest : List (ImageTable × (Nat × List Nat))) (ns : List Nat) (s : State) :
    State.loadTables dom ((x, base, pages) :: rest) ns s =
      match s.makeTable dom x.desc base pages with
      | (s, .error _) => (s, ns, false)
      | (s, .ok n) =>
        match State.loadRows n x.rows s with
        | (s, false) => (s, ns ++ [n], false)
        | (s, true) => State.loadTables dom rest (ns ++ [n]) s := by
  obtain ⟨make, hmake⟩ : ∃ f, f = State.makeTable := ⟨_, rfl⟩
  obtain ⟨load, hload⟩ : ∃ f, f = State.loadRows := ⟨_, rfl⟩
  delta State.loadTables State.loadTables._f
  rw [← hmake, ← hload] <;> rfl

theorem State.wf_loadTables (dom : Nat) (xs : List (ImageTable × (Nat × List Nat))) (ys : List Nat) (s : State) (h :
    s.mem.wf = true) :
    (State.loadTables dom xs ys s).1.mem.wf = true := by
  induction xs generalizing ys s with
  | nil => exact h
  | cons x rest ih =>
    obtain ⟨x, base, pages⟩ := x
    have h1 := s.wf_makeTable dom x.desc base pages h
    rw [State.loadTables_cons]
    split <;> rename_i heq <;> rw [heq] at h1
    · exact h1
    · rename_i t n
      have h2 := State.wf_loadRows n x.rows t h1
      split <;> rename_i heq2 <;> rw [heq2] at h2
      · exact h2
      · exact ih _ _ h2

theorem State.wf_placeSection (s : State) (dom base : Nat) (pages : List Nat) (exec write : Bool) (bs : List Byte) (h
    : s.mem.wf = true) :
    ∀ t, s.placeSection dom base pages exec write bs = some t → t.mem.wf = true := by
  unfold State.placeSection
  grind -ring -linarith -lia -order [State.wf_fillPages, State.wf_mapPages]

theorem State.wf_placeImage (s : State) (x : Image) (p : Sections) (handles : List DWord) (h : s.mem.wf = true) :
    ∀ t, s.placeImage x p handles = some t → t.mem.wf = true := by
  intro t ht
  unfold State.placeImage at ht
  dsimp only at ht
  split at ht
  · cases ht
  · split at ht
    · cases ht
    · rename_i h1
      have h1 := State.wf_placeSection _ _ _ _ _ _ _ h _ h1
      split at ht
      · cases ht
      · rename_i h2
        exact State.wf_placeSection _ _ _ _ _ _ _ (State.wf_placeSection _ _ _ _ _ _ _ h1 _ h2) _ ht

theorem State.wf_loadSections (s : State) (img : Image) (p : Sections) (h : s.mem.wf = true) :
    (s.loadSections img p).mem.wf = true := by
  have hdrop (ns : List Nat) {t : State} (ht : t.mem.wf = true) : (ns.foldl State.destroyTable t).mem.wf = true :=
    (congrArg Mem.wf (foldl_keep State.mem _ State.mem_destroyTable ns t)).trans ht
  have hl := State.wf_loadTables img.domain (p.tables.zip img.tableBases) [] s h
  unfold State.loadSections
  split
  · exact h
  · split <;> rename_i heq <;> rw [heq] at hl
    · exact hdrop _ hl
    · dsimp only
      split
      · exact hdrop _ hl
      · rename_i t hplace
        have ht : t.mem.wf = true := State.wf_placeImage _ _ _ _ hl _ hplace
        exact ht

@[simp] theorem State.mem_modDomain (s : State) (dom : Nat) (f : Domain → Domain) :
    (s.modDomain dom f).mem = s.mem := rfl

@[simp] theorem State.mem_modWindow (s : State) (n : Nat) (f : Nat × Nat × Nat × Nat → Nat × Nat × Nat × Nat) :
    (s.modWindow n f).mem = s.mem := rfl

@[simp] theorem State.mem_setPort (s : State) (n : Nat) (up : Bool) :
    (s.setPort n up).mem = s.mem := by
  unfold State.setPort; split <;> rfl

theorem State.wf_writeMemory (s : State) (pa : Nat) (v : DWord) (h : s.mem.wf = true) :
    (s.writeMemory pa v).mem.wf = true := by
  unfold State.writeMemory
  grind -ring -linarith -lia -order [State.wf_writePhys]

@[simp] theorem State.mem_setSensor (s : State) (core ring path : Nat) :
    (s.setSensor core ring path).mem = s.mem := rfl

@[simp] theorem State.mem_sample (s : State) (core date : Nat) :
    (s.sample core date).mem = s.mem := by
  unfold State.sample; split <;> rfl

@[simp] theorem State.mem_sendOp (s : State) (c n : Nat) (o : Op) :
    (s.sendOp c n o).mem = s.mem := by
  have hr (pkgs : List Nat) (r : State × List Nat) : (pkgs.foldl (fun (r : State × List Nat) pkg =>
      match r.1.ask pkg c o.serial o.slot (o.linkWho c) (s.laneAsk c o (s.lanesTo c o pkg)) with
      | (s, id) => (s, r.2 ++ [id])) r).1.mem = r.1.mem :=
    foldl_keep (fun r : State × List Nat => r.1.mem) _ (fun r pkg => State.mem_ask _ _ _ _ _ _ _) _ r
  exact hr _ (s, [])

@[simp] theorem State.mem_closeRequest (s : State) (n : Nat) :
    (s.closeRequest n).mem = s.mem := rfl

@[simp] theorem State.mem_stepAnswered (s : State) (c : Nat) (o : Op) (l : Nat) (es : List Entry) :
    (s.stepAnswered c o l es).1.mem = s.mem := by
  unfold State.stepAnswered; split <;> rfl

theorem State.wf_laneAnswered (s : State) (c : Nat) (o : Op) (l status : Nat) (ws : List Word) (h : s.mem.wf = true) :
    (s.laneAnswered c o l status ws).1.mem.wf = true := by
  unfold State.laneAnswered
  grind -ring -linarith -lia -order [State.mem_performCopen, State.mem_stepAnswered, State.wf_performCseek]

theorem State.wf_answerOp (s : State) (c n : Nat) (r : Request) (outs : List (Nat × (Nat × List Word))) (h : s.mem.wf
    = true) :
    (s.answerOp c n r outs).mem.wf = true := by
  unfold State.answerOp
  split
  · exact h
  · dsimp only
    rw [State.settleOp_mem]
    refine List.foldlRecOn outs _ (motive := fun x : State × Op => x.1.mem.wf = true) h fun x hx y _ => ?_
    split
    · exact State.wf_laneAnswered x.1 c x.2 y.1 y.2.1 y.2.2 hx
    · exact hx

@[simp] theorem State.mem_faultWait (s : State) (c sl : Nat) (st : Strand) (k : Cause) :
    (s.faultWait c sl st k).mem = s.mem := rfl

@[simp] theorem State.mem_answerCounter (s : State) (c sl n : Nat) (status : Nat) (ws : List Word) :
    (s.answerCounter c sl n status ws).mem = s.mem := by
  unfold State.answerCounter
  grind -ring -linarith -lia -order [State.mem_faultWait, State.modStrand_mem, State.setStrand_mem]

@[simp] theorem State.mem_answerTinv (s : State) (c sl n status : Nat) (asked : BitVec 16 × DWord × Bool) :
    (s.answerTinv c sl n status asked).mem = s.mem := by
  unfold State.answerTinv
  grind -ring -linarith -lia -order [State.mem_dropEntries, State.mem_faultWait, State.modStrand_mem,
    State.setStrand_mem]

theorem State.wf_gatherAnswered (c i : Nat) (w : Who) (r : GathRec) (xs : List (Nat × (Nat × List Word))) (x :
    Gathered) (s : State) (h : s.mem.wf = true) :
    (State.gatherAnswered c i w r xs x s).1.mem.wf = true := by
  induction xs generalizing x s with
  | nil => exact h
  | cons y rest ih =>
    obtain ⟨key, status, ws⟩ := y
    unfold State.gatherAnswered
    split
    · exact ih _ _ (State.wf_rowOnce key _ x (fun g t ht => State.wf_farRow _ _ _ _ _ _ _ _ _ ht) h)
    · exact ih _ _ h

theorem State.wf_answerFuture (s : State) (c i : Nat) (r : Request) (status : Nat) (ws : List Word) (outs : List (Nat
    × (Nat × List Word))) (h : s.mem.wf = true) :
    (s.answerFuture c i r status ws outs).mem.wf = true := by
  unfold State.answerFuture
  grind -ring -linarith -lia -order [State.completeFuture_mem, State.mem_gathWaits, State.mem_setKind, State.wf_asOf,
    State.wf_gatherAnswered]

@[simp] theorem State.mem_returnFlacon (s : State) (f : Flacon) :
    (s.returnFlacon f).mem = s.mem := rfl

@[simp] theorem State.mem_answerHome (s : State) (r : Request) (status : Nat) (ws : List Word) :
    (s.answerHome r status ws).mem = s.mem := by
  unfold State.answerHome; simp

@[simp] theorem State.mem_answerSlots (s : State) (r : Request) (k : Option Nat) :
    (s.answerSlots r k).mem = s.mem := by
  unfold State.answerSlots
  grind -ring -linarith -lia -order [State.mem_sendTo, State.modStrand_mem]

theorem State.wf_answer (s : State) (r : Request) (status : Nat) (ws : List Word) (outs : List (Nat × (Nat × List
    Word))) (h : s.mem.wf = true) :
    (s.answer r status ws outs).mem.wf = true := by
  unfold State.answer
  grind -ring -linarith -lia -order [State.mem_answerCounter, State.mem_answerHome, State.mem_answerSlots,
    State.mem_answerTinv, State.mem_returnFlacon, State.modCore_mem, State.wf_answerFuture, State.wf_answerOp]

@[simp] theorem State.mem_countLate (s : State) :
    s.countLate.mem = s.mem := rfl

theorem State.wf_takeResponse (s : State) (n status : Nat) (ws : List Word) (outs : List (Nat × (Nat × List Word)))
    (h : s.mem.wf = true) :
    (s.takeResponse n status ws outs).mem.wf = true := by
  unfold State.takeResponse
  grind -ring -linarith -lia -order [State.mem_closeRequest, State.mem_countLate, State.wf_answer]

@[simp] theorem State.mem_takeGrant (s : State) (n pkg dest threads : Nat) :
    (s.takeGrant n pkg dest threads).mem = s.mem := by
  unfold State.takeGrant; split <;> simp

theorem State.wf_serveLanes (o : Op) (xs : List Nat) (s : State) (h : s.mem.wf = true) :
    (State.serveLanes o xs s).1.mem.wf = true := by
  fun_induction State.serveLanes o xs s <;> grind -ring -linarith -lia -order [State.wf_performLane]

/-! ### What links ask, matrix operations, saves, the clock -/

theorem State.wf_serveRow (s : State) (w : Who) (r : GathRec) (t : Table) (ref : Nat) (h : s.mem.wf = true) :
    (s.serveRow w r t ref).1.mem.wf = true := by
  unfold State.serveRow
  grind -ring -linarith -lia -order [State.wf_farWords, State.wf_nearRow]

theorem State.wf_serveGather (w : Who) (r : GathRec) (t : Table) (n : Nat) (xs : List Nat) (ys : List (Nat × (Nat ×
    List Word))) (s : State) (h : s.mem.wf = true) :
    (State.serveGather w r t n xs ys s).1.mem.wf = true := by
  fun_induction State.serveGather w r t n xs ys s <;> grind -ring -linarith -lia -order [State.count_mem,
    State.mem_modTable, State.wf_gathRef, State.wf_serveRow]

theorem State.wf_servePost (s : State) (w : LinkWho) (launch : Nat) (v : DWord) (h : s.mem.wf = true) :
    (s.servePost w launch v).1.mem.wf = true := by
  -- opaque, so that the kernel does not run the access
  obtain ⟨post, hpost⟩ : ∃ f, f = State.performPost := ⟨_, rfl⟩
  have hp := fun t c o l ht => State.wf_performPost t c o l ht
  obtain ⟨f, hf⟩ : ∃ f, f = State.servePost := ⟨_, rfl⟩
  rw [← hf]
  delta State.servePost at hf
  rw [← hpost] at hf hp
  rw [hf]
  dsimp only
  split
  · exact h
  · rename_i l _
    split
    · exact h
    · have h1 := fun o => hp s 0 o 0 h
      split <;> rename_i heq <;> have h2 := heq ▸ h1 _ <;> exact h2

@[simp] theorem State.mem_serveSlots (s : State) (dom : BitVec 16) (stack n : Nat) :
    (s.serveSlots dom stack n).1.mem = s.mem := by
  unfold State.serveSlots; split <;> rfl

theorem State.wf_placeHome (s : State) (w : Who) (ref : Nat) (h : s.mem.wf = true) :
    (s.placeHome w ref).1.mem.wf = true := by
  unfold State.placeHome
  grind -ring -linarith -lia -order [State.wf_findBlock]

theorem State.wf_serveHome (s : State) (n : Nat) (w : Who) (dom : BitVec 16) (ref : Nat) (h : s.mem.wf = true) :
    (s.serveHome n w dom ref).1.mem.wf = true := by
  unfold State.serveHome
  grind -ring -linarith -lia -order [State.wf_placeHome]

theorem State.wf_serve? (s : State) (n : Nat) (w : LinkWho) (q : LinkAsk) (h : s.mem.wf = true) :
    (s.serve? n w q).1.mem.wf = true := by
  unfold State.serve?
  grind -ring -linarith -lia -order [State.mem_dropEntries, State.mem_post, State.mem_serveSlots, State.wf_farWords,
    State.wf_gather, State.wf_serveGather, State.wf_serveHome, State.wf_serveLanes, State.wf_servePost]

theorem State.wf_serveAsk (s : State) (n : Nat) (w : LinkWho) (q : LinkAsk) (h : s.mem.wf = true) :
    (s.serveAsk n w q).mem.wf = true := by
  unfold State.serveAsk
  grind -ring -linarith -lia -order [State.mem_fromSource, State.mem_sendTo, State.wf_serve?]

@[simp] theorem State.mem_takeFlacon (s : State) (dest : Nat) (intact : Bool) (bs : List Byte) :
    (s.takeFlacon dest intact bs).mem = s.mem := by
  unfold State.takeFlacon
  grind -ring -linarith -lia -order [State.count_mem, State.mem_sendTo, State.modCore_mem]

theorem State.wf_takeFlaconAck (s : State) (core slot : Nat) (gen : BitVec 8) (serial : BitVec 16) (lane : Nat)
    (intact : Bool) (h : s.mem.wf = true) :
    (s.takeFlaconAck core slot gen serial lane intact).mem.wf = true := by
  unfold State.takeFlaconAck
  grind -ring -linarith -lia -order [State.mem_closeRequest, State.mem_countLate, State.wf_answer]

theorem State.wf_takeBody (s : State) (b : FlitBody) (h : s.mem.wf = true) :
    (s.takeBody b).mem.wf = true := by
  unfold State.takeBody
  grind -ring -linarith -lia -order [State.mem_ask, State.mem_takeFlacon, State.mem_takeGrant, State.modCore_mem,
    State.wf_serveAsk, State.wf_takeFlaconAck, State.wf_takeResponse]

@[simp] theorem State.mem_control (s : State) (port : Nat) (b : FlitBody) :
    (s.control port b).mem = s.mem := rfl

@[simp] theorem State.mem_takeControl (s : State) (port : Nat) (x : FlitBody) :
    (s.takeControl port x).mem = s.mem := by
  unfold State.takeControl; split <;> rfl

@[simp] theorem State.mem_askReplay (s : State) (port seq : Nat) :
    (s.askReplay port seq).mem = s.mem := by
  unfold State.askReplay
  grind -ring -linarith -lia -order [State.mem_control, State.mem_putPort]

@[simp] theorem State.mem_orAstat (s : State) (c : Nat) (q : MatOp) :
    (s.orAstat c q).mem = s.mem := by
  refine foldl_keep State.mem _ (fun t x => ?_) _ _
  split
  · exact State.modStrand_mem _ _ _ _
  · rfl

@[simp] theorem State.mem_matWrite (s : State) (c : Nat) (q : MatOp) :
    (s.matWrite c q).1.mem = s.mem := by
  unfold State.matWrite
  grind -ring -linarith -lia -order [State.mem_writeScratch]

@[simp] theorem State.mem_matDone (s : State) (c : Nat) (q : MatOp) (status : Nat) :
    (s.matDone c q status).mem = s.mem := by
  unfold State.matDone
  grind -ring -linarith -lia -order [State.completeFuture_mem, State.count_mem, State.mem_matWrite,
    State.mem_orAstat, State.modCore_mem, State.releaseMatrix_mem]

@[simp] theorem State.mem_matUnit (s : State) (c : Nat) (q : MatOp) (m : Matrix) :
    (s.matUnit c q m).mem = s.mem := rfl

@[simp] theorem State.mem_matRun (c : Nat) (u : MatKind → Option UnitOf) (n : Nat) (s : State) :
    (State.matRun c u n s).mem = s.mem := by
  fun_induction State.matRun c u n s <;> grind -ring -linarith -lia -order [State.mem_matDone, State.mem_matUnit,
    State.modCore_mem]

theorem State.wf_engineWrite (s : State) (w : Who) (domain : Option (BitVec 16)) (addr : Nat) (bs : List Byte) (h :
    s.mem.wf = true) :
    (s.engineWrite w domain addr bs).1.mem.wf = true := by
  unfold State.engineWrite
  grind -ring -linarith -lia -order [State.wf_writeAt, State.wf_writeV]

theorem State.wf_engineRead (s : State) (w : Who) (domain : Option (BitVec 16)) (addr n : Nat) (h : s.mem.wf = true) :
    (s.engineRead w domain addr n).1.mem.wf = true := by
  unfold State.engineRead
  grind -ring -linarith -lia -order [State.wf_readPhys, State.wf_readV]

@[simp] theorem State.mem_answerSave (s : State) (c sl : Nat) (p : Preempt) (status : Nat) :
    (s.answerSave c sl p status).mem = s.mem := by
  unfold State.answerSave; split <;> rfl

@[simp] theorem State.mem_stopMmsp (s : State) (c sl : Nat) (gen : BitVec 8) :
    (s.stopMmsp c sl gen).mem = s.mem := rfl

@[simp] theorem State.mem_parkBuffers (s : State) (c launch : Nat) (block : DWord) :
    (s.parkBuffers c launch block).1.mem = s.mem := by
  unfold State.parkBuffers
  split
  · rfl
  · exact foldl_keep State.mem _ (fun t b => State.modCore_mem _ _ _) _ _

@[simp] theorem State.mem_swapOut (s : State) (c sl : Nat) (st : Strand) (bar : Option (Nat × BitVec 32 × LaneMask)) :
    (s.swapOut c sl st bar).mem = s.mem := by
  unfold State.swapOut; split <;> simp

@[simp] theorem State.mem_answerRestore (s : State) (c : Nat) (r : Restore) (status : Nat) (ident : Word) :
    (s.answerRestore c r status ident).mem = s.mem := by
  unfold State.answerRestore; split <;> rfl

theorem State.wf_queueRestore (s : State) (c area : Nat) (domain : Option (BitVec 16)) (future : Option Nat) (h :
    s.mem.wf = true) :
    (s.queueRestore c area domain future).mem.wf = true := by
  unfold State.queueRestore
  grind -ring -linarith -lia -order [State.modCore_mem, State.wf_engineRead]

@[simp] theorem State.mem_reseat (s : State) (c sl : Nat) (x : SavedNote) (bs : List Byte) :
    (s.reseat c sl x bs).mem = s.mem := by
  unfold State.reseat; split <;> simp

@[simp] theorem State.mem_spend (s : State) :
    s.spend.mem = s.mem := rfl

@[simp] theorem State.mem_setPin (s : State) (high : Bool) :
    (s.setPin high).mem = s.mem := by
  unfold State.setPin
  grind -ring -linarith -lia -order [State.mem_freezeBy]

@[simp] theorem State.mem_spdm (s : State) (a : SpdmAnswer) :
    (s.spdm a).mem = s.mem := rfl

theorem State.wf_fetchAt (s : State) (c sl : Nat) (h : s.mem.wf = true) :
    (s.fetchAt c sl).mem.wf = true := by
  unfold State.fetchAt
  grind -ring -linarith -lia -order [wf_fetchClause]

@[simp] theorem State.mem_tick (s : State) (n : Nat) :
    (s.tick n).mem = s.mem := by
  unfold State.tick
  grind -ring -linarith -lia -order [State.mem_freezeBy]

@[simp] theorem State.mem_select (s : State) :
    s.select.mem = s.mem := rfl

@[simp] theorem State.mem_corrected (s : State) (pa : Nat) :
    (s.corrected pa).mem = s.mem := by
  unfold State.corrected
  grind -ring -linarith -lia -order [State.mem_countStack, State.mem_post]

@[simp] theorem State.mem_damageScratch (s : State) (c off : Nat) (code : BitVec 16) :
    (s.damageScratch c off code).mem = s.mem := rfl

@[simp] theorem State.mem_setFlight (s : State) (port : Nat) (on : Bool) :
    (s.setFlight port on).mem = s.mem := rfl

@[simp] theorem State.mem_setEther (s : State) (port : Nat) (on : Bool) :
    (s.setEther port on).mem = s.mem := rfl

@[simp] theorem State.mem_setPcie (s : State) (on : Bool) :
    (s.setPcie on).mem = s.mem := rfl

@[simp] theorem State.mem_endFrozen (s : State) :
    s.endFrozen.mem = s.mem := by
  unfold State.endFrozen; split <;> simp

end Sys2Proof.Machine
end

section
/-! SUPPORT. What words and steps do to memory. -/

namespace Sys2Proof.Machine

/-! ### Words -/

/-- What a word or step gives has memory in its form. -/
def formed : Result → Prop
  | .next t => t.mem.wf = true
  | _ => True

@[simp] theorem formed_next (t : State) : formed (.next t) ↔ t.mem.wf = true := Iff.rfl

@[simp] theorem formed_fault (f : Fault) : formed (.fault f) ↔ True := Iff.rfl

@[simp] theorem formed_refused (r : Refusal) : formed (.refused r) ↔ True := Iff.rfl

/-- What the effect of a word gives has memory in its form; a wait keeps it. -/
def effectFormed : Except (State → State) (State × Flow) → Prop
  | .ok (t, _) => t.mem.wf = true
  | .error stall => ∀ s : State, s.mem.wf = true → (stall s).mem.wf = true

@[simp] theorem effectFormed_ok (t : State) (f : Flow) : effectFormed (.ok (t, f)) ↔ t.mem.wf = true := Iff.rfl

@[simp] theorem effectFormed_id : effectFormed (.error id) := fun _ h => h

@[simp] theorem State.mem_countStall (s : State) (kind sel : Nat) : (s.countStall kind sel).mem = s.mem :=
  s.countStall_mem kind sel

@[simp] theorem effectFormed_countStall (kind sel : Nat) : effectFormed (.error fun s => s.countStall kind sel) :=
  fun s h => (congrArg Mem.wf (s.countStall_mem kind sel)).trans h

section Issue
variable {i : Instr} {u : Use} {f : Form} {checks : Strand → State → List (List LaneFault)} {eff : Effect}
  {idle : State → State} {s : State}

/-- A word whose effect keeps memory in its form does, whether it issues, waits or traps. -/
theorem formed_issue (h : s.mem.wf = true) (hidle : ∀ t : State, t.mem.wf = true → (idle t).mem.wf = true)
    (heff : ∀ (st : Strand) (t : State), t.mem.wf = true → effectFormed (eff st t)) :
    formed (issue i u f checks eff idle s) := by
  have htrap (t : State) (st : Strand) (fs : List LaneFault) (ht : t.mem.wf = true) : (t.trapWord st fs).mem.wf =
    true :=
    State.wf_trapWord t st fs ht
  unfold issue
  split
  · trivial
  · rename_i st _
    dsimp only
    split
    · exact htrap _ _ _ h
    · split
      · exact (congrArg Mem.wf (State.retireWord_mem _ _)).trans (hidle s h)
      · split
        · exact h
        · rename_i s1 hs1
          have h1 : s1.mem.wf = true := by
            split at hs1
            · exact (congrArg Mem.wf (s.mem_deliverBound _ _ s1 hs1)).trans h
            · cases hs1; exact h
          split
          · trivial
          · split
            · exact htrap _ _ _ h1
            · split
              · exact htrap _ _ _ h1
              · split
                · exact htrap _ _ _ h1
                · rename_i st1 _ _ _ _ _
                  have h2 := heff st1 ((s1.unbindDests st1.lineage (f.ended u)).setHere (st1.ready u f))
                    (((congrArg Mem.wf (State.setHere_mem _ _)).trans (congrArg Mem.wf (State.unbindDests_mem _ _
                      _))).trans h1)
                  split <;> rename_i heq <;> rw [heq] at h2
                  · exact h2 s h
                  · exact (congrArg Mem.wf (State.retireWord_mem _ _)).trans h2

/-- A word that waits without room keeps memory in its form too. -/
theorem formed_issueIn {needs : List Need} (h : s.mem.wf = true)
    (hidle : ∀ t : State, t.mem.wf = true → (idle t).mem.wf = true)
    (heff : ∀ (st : Strand) (t : State), t.mem.wf = true → effectFormed (eff st t)) :
    formed (issueIn needs i u f checks eff idle s) := by
  have hlacks (t : State) (st : Strand) (n : Need) (stall : State → State) (hs : t.lacks st n = some stall) (r :
    State) :
      (stall r).mem = r.mem := by
    cases n <;> simp only [State.lacks] at hs <;> split at hs <;> cases hs <;> simp
  have hstall (st : Strand) (stall : State → State) (hs : s.noRoom needs u f st = some stall) (r : State) :
      (stall r).mem = r.mem := by
    unfold State.noRoom at hs
    split at hs
    · cases hs
    · split at hs
      · obtain ⟨n, -, hn⟩ := List.exists_of_findSome?_eq_some hs
        exact hlacks _ _ _ _ hn r
      · obtain ⟨g, -, rfl⟩ := Option.map_eq_some_iff.1 hs
        rfl
  unfold issueIn
  split
  · rename_i stall hs
    obtain ⟨st, -, hs⟩ := Option.bind_eq_some_iff.1 hs
    exact (congrArg Mem.wf (hstall st stall hs s)).trans h
  · exact formed_issue h hidle heff

/-- A word on the strand alone. -/
theorem formed_onStrand {g : Strand → Strand → Strand} (h : s.mem.wf = true) :
    formed (issue i u f checks (onStrand g) id s) :=
  formed_issue h (fun _ ht => ht) fun _ t ht => (congrArg Mem.wf (t.modHere_mem _)).trans ht

end Issue

theorem formed_execOp (i : Instr) (s : State) (h : s.mem.wf = true) : formed (execOp i s) := by
  unfold execOp
  split
  · trivial
  · refine formed_issueIn h (fun t ht => ?_) fun st t ht => ?_
    · split
      · exact (congrArg Mem.wf (State.modHere_mem _ _)).trans ht
      · exact ht
    · exact State.wf_performScratchNow _ _ ((congrArg Mem.wf (State.startOp_mem _ _ _)).trans ht)

theorem formed_vec (i : Instr) (u : Use) (types : Bool) (special : Strand → Option (List (Option VReg))) (f : LaneFn)
    (s : State) (h : s.mem.wf = true) : formed (vec i u types special f s) := formed_onStrand h

theorem formed_elemWord (i : Instr) (types : ElemType → Bool) (el : Arith → ElemOp) (d a : Nat) (b : Option Nat)
    (readD : Bool) (special : Strand → Option (List (Option VReg))) (s : State) (h : s.mem.wf = true) : formed
    (elemWord i types el d a b readD special s) := formed_vec (h := h) ..

theorem formed_execDiv (d a b : BitVec 8) (s : State) (h : s.mem.wf = true) : formed (execDiv d a b s) := by
  unfold execDiv
  exact formed_issue h (fun t ht => (congrArg Mem.wf (State.modHere_mem _ _)).trans ht)
    fun st t ht => (congrArg Mem.wf (State.startOp_mem _ _ _)).trans ht

theorem formed_execDivComplete (c n : Nat) (s : State) (h : s.mem.wf = true) : formed (execDivComplete c n s) := by
  unfold execDivComplete
  grind -ring -linarith -lia -order [State.finishOp_mem, effectFormed, formed]

theorem formed_copyWord (i : Instr) (kind : CopyKind) (d a b : BitVec 6) (s : State) (h : s.mem.wf = true) : formed
    (copyWord i kind d a b s) := by
  unfold copyWord
  exact formed_issueIn h (fun _ ht => ht) fun st t ht => by simp [ht]

theorem formed_execCwait (a : BitVec 6) (s : State) (h : s.mem.wf = true) : formed (execCwait a s) := by
  unfold execCwait
  refine formed_issue h (fun _ ht => ht) fun st t ht => ?_
  grind -ring -linarith -lia -order [effectFormed, formed]

theorem formed_execCopyComplete (c n : Nat) (s : State) (h : s.mem.wf = true) : formed (execCopyComplete c n s) := by
  unfold execCopyComplete
  grind -ring -linarith -lia -order [State.count_mem, State.endBlockIfDone_mem, State.mem_copyFault,
    State.mem_reportExits, State.modCore_mem, State.wf_moveCopy, effectFormed, formed]

theorem formed_execFtest (d : BitVec 4) (a : BitVec 6) (s : State) (h : s.mem.wf = true) : formed (execFtest d a s)
    := by
  unfold execFtest
  exact formed_issue h (fun _ ht => ht) fun st t ht => by simp [ht]

theorem formed_execFwait (a : BitVec 6) (s : State) (h : s.mem.wf = true) : formed (execFwait a s) := by
  unfold execFwait
  refine formed_issue h (fun _ ht => ht) fun st t ht => ?_
  grind -ring -linarith -lia -order [State.modCore_mem, State.modHere_mem, effectFormed, formed]

theorem formed_execFcancel (a : BitVec 6) (s : State) (h : s.mem.wf = true) : formed (execFcancel a s) := by
  unfold execFcancel
  refine formed_issue h (fun _ ht => ht) fun st t ht => ?_
  grind -ring -linarith -lia -order [State.count_mem, State.mem_cancelFuture, effectFormed, formed]

/-- An operation with a future keeps memory in its form where what it begins does. -/
theorem effectFormed_withFuture {d : Nat} {k : Strand → State → FutureKind} {eff : Nat → Strand → State → State}
    {ranges : Strand → List (Bool × (Word × Nat))} {entries : Strand → Nat} {st : Strand} {s : State} (h : s.mem.wf =
      true)
    (heff : ∀ (i : Nat) (t : State), t.mem.wf = true → (eff i st t).mem.wf = true) :
    effectFormed (withFuture d k eff ranges entries st s) := by
  unfold withFuture
  split
  · exact effectFormed_countStall _ _
  · rename_i t i ht
    exact heff i t ((congrArg Mem.wf (State.mem_takeFuture _ _ _ _ _ _ _ ht)).trans h)

theorem formed_execLaunch (d a : BitVec 6) (s : State) (h : s.mem.wf = true) : formed (execLaunch d a s) := by
  unfold execLaunch
  refine formed_issueIn h (fun _ ht => ht) fun st t ht => ?_
  split
  · exact effectFormed_id
  · refine effectFormed_withFuture ht fun i u hu => ?_
    have hr := State.wf_readRecord u (st.who u.cur.1) (st.gr a.toNat).toNat (st.mode == .h) hu
    dsimp only
    split <;> rename_i heq <;> rw [heq] at hr
    · exact hr
    · exact (congrArg Mem.wf (State.mem_acceptLaunch _ _ _ _)).trans hr

/-- A matrix operation that joins the queue leaves memory alone. -/
theorem effectFormed_joinQueue {s : State} (st : Strand) (f : MatForm) (i : Instr) (others : List (Nat × Joint))
    (h : s.mem.wf = true) : effectFormed (s.joinQueue st f i others) := by
  unfold State.joinQueue
  dsimp only
  split
  · refine (congrArg Mem.wf (foldl_keep State.mem _ (fun t x => State.modStrand_mem t _ _ _) _ _)).trans ?_
    exact (congrArg Mem.wf (State.mem_markReads _ _ _ _)).trans h
  · rename_i d _
    split
    · exact effectFormed_countStall _ _
    · rename_i t n ht
      have h1 : t.mem.wf = true :=
        (congrArg Mem.wf ((State.mem_takeFuture _ _ _ _ _ _ _ ht).trans (State.unbindDests_mem _ _ _))).trans h
      refine (congrArg Mem.wf (foldl_keep State.mem _ (fun t x => State.modStrand_mem t _ _ _) _ _)).trans ?_
      refine (congrArg Mem.wf (State.mem_markReads _ _ _ _)).trans ?_
      refine (congrArg Mem.wf (foldl_keep State.mem _ (fun t x => ?_) _ _)).trans h1
      split
      · rfl
      · simp

/-- The strands of a gang that meet at a matrix word keep memory in its form. -/
theorem effectFormed_rendezvous {s : State} (st : Strand) (f : MatForm) (i : Instr) (j : Joint) (h : s.mem.wf = true) :
    effectFormed (s.rendezvous st f i j) := by
  unfold State.rendezvous
  dsimp only
  split
  · exact (congrArg Mem.wf (State.mem_breakJoint _ _ _ _)).trans h
  · split
    · exact (congrArg Mem.wf (State.modHere_mem _ _)).trans h
    · split
      · exact effectFormed_joinQueue st f i _ h
      · split
        · exact effectFormed_id
        · refine List.foldlRecOn _ _ (motive := fun t : State => t.mem.wf = true) (State.wf_takeTrap _ _ _ _ _ _ _ h)
            fun t ht x _ => ?_
          split
          · exact ht
          · exact State.wf_takeTrap _ _ _ _ _ _ _ ht

theorem formed_matWord (i : Instr) (u : Use) (f : MatForm) (s : State) (h : s.mem.wf = true) : formed (matWord i u f
    s) := by
  unfold matWord
  refine formed_issueIn h (fun _ ht => ht) fun st t ht => ?_
  split
  · exact effectFormed_id
  · split
    · exact effectFormed_id
    · split
      · exact effectFormed_joinQueue st f i [] ht
      · exact effectFormed_rendezvous st f i _ ht

theorem formed_execMstep (d a : BitVec 6) (s : State) (h : s.mem.wf = true) : formed (execMstep d a s) := by
  unfold execMstep
  exact formed_onStrand h

theorem formed_execGath (d a b : BitVec 6) (s : State) (h : s.mem.wf = true) : formed (execGath d a b s) := by
  unfold execGath
  refine formed_issueIn h (fun _ ht => ht) fun st t ht => ?_
  dsimp only
  split
  · exact effectFormed_id
  · refine effectFormed_withFuture ht fun i u hu => ?_
    split
    · exact (congrArg Mem.wf ((State.mem_setKind _ _ _ _).trans (State.mem_markReads _ _ _ _))).trans hu
    · exact State.wf_gather _ _ _ _ _ _ _ hu

theorem formed_execGathComplete (c i : Nat) (s : State) (h : s.mem.wf = true) : formed (execGathComplete c i s) := by
  have hdone (t : State) (n : Nat) (ht : t.mem.wf = true) : (t.completeFuture c i n).mem.wf = true :=
    (congrArg Mem.wf (t.completeFuture_mem c i n)).trans ht
  unfold execGathComplete
  split
  · exact h
  · rename_i f _
    split
    · rename_i writes status _
      split
      · exact h
      · split
        · refine hdone _ _ ((congrArg Mem.wf (foldl_keep State.mem _ (fun t x => ?_) _ _)).trans h)
          exact State.mem_writeSome t c f x.1 0 x.2
        · dsimp only
          exact hdone _ _ ((congrArg Mem.wf (State.mem_gathWrite c f writes s)).trans h)
    · split
      · exact hdone _ _ h
      · exact h
    · split
      · exact hdone _ _ h
      · exact h
    · exact h

theorem formed_execPromo (d a : BitVec 6) (s : State) (h : s.mem.wf = true) : formed (execPromo d a s) := by
  unfold execPromo
  refine formed_issueIn h (fun _ ht => ht) fun st t ht => effectFormed_withFuture ht fun i u hu => ?_
  dsimp only
  split
  · exact (congrArg Mem.wf (State.mem_askFor _ _ _ _ _ _)).trans hu
  · exact hu

theorem formed_execPromoComplete (c i : Nat) (s : State) (h : s.mem.wf = true) : formed (execPromoComplete c i s) := by
  unfold execPromoComplete
  grind -ring -linarith -lia -order [State.completeFuture_mem, State.mem_countStack, State.wf_promoFor,
    State.wf_promote, effectFormed, formed]

theorem formed_execPageWalk (c dom : Nat) (va : BitVec 64) (s : State) (h : s.mem.wf = true) : formed (execPageWalk c
    dom va s) := by
  unfold execPageWalk
  grind -ring -linarith -lia -order [State.wf_stage, effectFormed, formed]

theorem formed_execBankRetentionEntry (st b : Nat) (s : State) (h : s.mem.wf = true) : formed (execBankRetentionEntry
    st b s) := by
  unfold execBankRetentionEntry
  grind -ring -linarith -lia -order [State.mem_countStack, State.setBank_mem, effectFormed, formed]

theorem formed_execBankDeepPowerDown (st b : Nat) (s : State) (h : s.mem.wf = true) : formed (execBankDeepPowerDown
    st b s) := by
  unfold execBankDeepPowerDown
  grind -ring -linarith -lia -order [State.mem_countStack, State.setBank_mem, effectFormed, formed]

theorem formed_execPowerStateEntryComplete (st b : Nat) (s : State) (h : s.mem.wf = true) : formed
    (execPowerStateEntryComplete st b s) := by
  unfold execPowerStateEntryComplete
  grind -ring -linarith -lia -order [State.setBank_mem, effectFormed, formed]

theorem formed_execBankWakeEnd (st b : Nat) (s : State) (h : s.mem.wf = true) : formed (execBankWakeEnd st b s) := by
  unfold execBankWakeEnd
  grind -ring -linarith -lia -order [State.wf_bankWoken, effectFormed, formed]

theorem formed_execBankMapWrite (st b : Nat) (v : BitVec 32) (s : State) (h : s.mem.wf = true) : formed
    (execBankMapWrite st b v s) := by
  unfold execBankMapWrite
  split <;> simp [h]

theorem formed_execPackagePhaseApply (st : Nat) (s : State) (h : s.mem.wf = true) : formed (execPackagePhaseApply st
    s) := by
  unfold execPackagePhaseApply
  grind -ring -linarith -lia -order [State.modStack_mem, effectFormed, formed]

theorem formed_execCompactionMove (blk : Nat) (s : State) (h : s.mem.wf = true) : formed (execCompactionMove blk s)
    := by
  unfold execCompactionMove
  grind -ring -linarith -lia -order [State.mem_fromSource, State.wf_compact, State.wf_readEntry, effectFormed, formed]

theorem formed_execFaultQueueRemove (s : State) (h : s.mem.wf = true) : formed (execFaultQueueRemove s) := by
  unfold execFaultQueueRemove
  split <;> simp [h]

theorem formed_execCoreClockStep (up : Bool) (s : State) (h : s.mem.wf = true) : formed (execCoreClockStep up s) := by
  unfold execCoreClockStep
  simp [h]

theorem formed_shiftWord (i : Instr) (el : Arith → ElemOp) (d a b : BitVec 8) (s : State) (h : s.mem.wf = true) :
    formed (shiftWord i el d a b s) := formed_elemWord (h := h) ..

theorem formed_execBalloc (d a : BitVec 6) (s : State) (h : s.mem.wf = true) : formed (execBalloc d a s) := by
  unfold execBalloc
  refine formed_issue h (fun _ ht => ht) fun st t ht => ?_
  grind -ring -linarith -lia -order [State.count_mem, State.modCore_mem, State.modHere_mem, effectFormed, formed]

theorem formed_execBgive (d row col : BitVec 6) (s : State) (h : s.mem.wf = true) : formed (execBgive d row col s) := by
  unfold execBgive
  refine formed_issue h (fun _ ht => ht) fun st t ht => ?_
  grind -ring -linarith -lia -order [State.count_mem, State.modHere_mem, effectFormed, formed]

theorem formed_execBgiveTransfer (c sl : Nat) (s : State) (h : s.mem.wf = true) : formed (execBgiveTransfer c sl s)
    := by
  unfold execBgiveTransfer
  grind -ring -linarith -lia -order [State.count_mem, State.mem_endWait, State.mem_modBuffer, State.modCore_mem,
    State.modStrand_mem, effectFormed, formed]

theorem formed_execBtake (d : BitVec 6) (s : State) (h : s.mem.wf = true) : formed (execBtake d s) := by
  unfold execBtake
  refine formed_issue h (fun _ ht => ht) fun st t ht => ?_
  grind -ring -linarith -lia -order [State.mem_modBuffer, State.modCore_mem, State.modHere_mem, effectFormed, formed]

theorem formed_execBfreeRelease (c sl : Nat) (s : State) (h : s.mem.wf = true) : formed (execBfreeRelease c sl s) := by
  unfold execBfreeRelease
  grind -ring -linarith -lia -order [State.mem_endWait, State.modCore_mem, effectFormed, formed]

theorem formed_execGranuleClearDone (c : Nat) (s : State) (h : s.mem.wf = true) : formed (execGranuleClearDone c s)
    := by
  unfold execGranuleClearDone
  simp [h]

theorem formed_execPubl (a : BitVec 6) (s : State) (h : s.mem.wf = true) : formed (execPubl a s) := by
  unfold execPubl
  refine formed_issue h (fun _ ht => ht) fun st t ht => ?_
  grind -ring -linarith -lia -order [State.count_mem, State.mem_modBuffer, State.modHere_mem, effectFormed, formed]

theorem formed_execPublSwapOrRetire (c sl : Nat) (s : State) (h : s.mem.wf = true) : formed (execPublSwapOrRetire c
    sl s) := by
  have hend (t : State) (f : Buffer → Buffer) (w : Word) : ((t.modBuffer c w f).endWait c sl).mem = t.mem :=
    (State.mem_endWait _ _ _).trans (State.mem_modBuffer _ _ _ _)
  unfold execPublSwapOrRetire
  split
  · exact h
  · split
    · split
      · exact (congrArg Mem.wf (State.mem_endWait _ _ _)).trans h
      · dsimp only
        split
        · exact (congrArg Mem.wf (State.mem_endWait _ _ _)).trans h
        · split
          · exact h
          · split
            · exact (congrArg Mem.wf (hend _ _ _)).trans h
            · refine (congrArg Mem.wf (hend _ _ _)).trans ?_
              split
              · exact h
              · exact h
    · exact h

theorem formed_compareWord (i : Instr) (types : ElemType → Bool) (rel : Rel) (d a b : Nat) (s : State) (h : s.mem.wf
    = true) : formed (compareWord i types rel d a b s) := by
  unfold compareWord
  exact formed_onStrand h

theorem formed_predWord (i : Instr) (d : Nat) (f : Strand → LaneMask) (s : State) (h : s.mem.wf = true) : formed
    (predWord i d f s) := formed_onStrand h

theorem formed_compressWord (i : Instr) (d a b : Nat) (u : ElemType → DWord → Use) (f : DWord → LaneFn) (s : State)
    (h : s.mem.wf = true) : formed (compressWord i d a b u f s) := by
  unfold compressWord
  split
  · trivial
  · exact formed_onStrand h

theorem formed_execClauseHeader (l : BitVec 8) (w : BitVec 12) (a b : BitVec 4) (n : BitVec 3) (s : State) (h :
    s.mem.wf = true) : formed (execClauseHeader l w a b n s) := by
  unfold execClauseHeader
  grind -ring -linarith -lia -order [wf_openClause, effectFormed, formed]

theorem formed_execUnassignedOpcode (_w : BitVec 32) (s : State) (h : s.mem.wf = true) : formed (execUnassignedOpcode
    _w s) := by
  unfold execUnassignedOpcode
  grind -ring -linarith -lia -order [State.wf_trapWord, effectFormed, formed]

theorem formed_refuseWord (w : Word) (s : State) (h : s.mem.wf = true) : formed (refuseWord w s) := by
  unfold refuseWord
  grind -ring -linarith -lia -order [State.wf_trapWord, effectFormed, formed]

theorem formed_branchWord (i : Instr) (u : Use) (tgt : Strand → Option DWord) (s : State) (h : s.mem.wf = true) :
    formed (branchWord i u tgt s) := by
  unfold branchWord
  exact formed_issue h (fun _ ht => ht) fun st t ht => by simp [ht]

theorem formed_callWord (i : Instr) (u : Use) (tgt : Strand → DWord) (s : State) (h : s.mem.wf = true) : formed
    (callWord i u tgt s) := by
  unfold callWord
  exact formed_issue h (fun _ ht => ht) fun st t ht => by simp [ht]

theorem formed_execRet (s : State) (h : s.mem.wf = true) : formed (execRet s) := by
  unfold execRet
  exact formed_issue h (fun _ ht => ht) fun st t ht => by simp [ht]

theorem formed_execRetv (a : BitVec 8) (s : State) (h : s.mem.wf = true) : formed (execRetv a s) := by
  unfold execRetv
  exact formed_issue h (fun _ ht => ht) fun st t ht => by simp [ht]

theorem formed_execLoop (d : BitVec 6) (off : BitVec 16) (s : State) (h : s.mem.wf = true) : formed (execLoop d off
    s) := by
  unfold execLoop
  refine formed_issue h (fun _ ht => ht) fun st t ht => ?_
  grind -ring -linarith -lia -order [State.modHere_mem, wf_endClause, effectFormed, formed]

theorem formed_execLexit (s : State) (h : s.mem.wf = true) : formed (execLexit s) := by
  unfold execLexit
  refine formed_issue h (fun _ ht => ht) fun st t ht => ?_
  grind -ring -linarith -lia -order [State.modHere_mem, wf_fetchWords, effectFormed, formed]

theorem formed_execExit (s : State) (h : s.mem.wf = true) : formed (execExit s) := by
  unfold execExit
  exact formed_issue h (fun _ ht => ht) fun st t ht => by simp [ht]

theorem formed_execGsreg (d : BitVec 6) (imm : BitVec 16) (s : State) (h : s.mem.wf = true) : formed (execGsreg d imm
    s) := by
  unfold execGsreg
  exact formed_issue h (fun _ ht => ht) fun st t ht => by simp [ht]

theorem formed_groupWord (i : Instr) (el : Arith → ElemOp) (clamps : Bool) (d a b : BitVec 6) (s : State) (h :
    s.mem.wf = true) : formed (groupWord i el clamps d a b s) := formed_onStrand h

theorem formed_groupPart (i : Instr) (lo : Nat) (d : BitVec 6) (imm : BitVec 16) (s : State) (h : s.mem.wf = true) :
    formed (groupPart i lo d imm s) := formed_onStrand h

theorem formed_groupCompare (i : Instr) (rel : Rel) (d : BitVec 4) (a b : BitVec 6) (s : State) (h : s.mem.wf = true)
    : formed (groupCompare i rel d a b s) := formed_onStrand h

theorem formed_shuffleWord (i : Instr) (u : Use) (a : Nat) (m : Strand → Nat → Option Nat) (s : State) (h : s.mem.wf
    = true) : formed (shuffleWord i u a m s) := formed_onStrand h

theorem formed_reduceWord (i : Instr) (el : Arith → ElemOp) (empty : ElemType → Nat) (d a : Nat) (s : State) (h :
    s.mem.wf = true) : formed (reduceWord i el empty d a s) := by
  unfold reduceWord
  refine formed_issue h (fun t ht => ?_) fun st t ht => (congrArg Mem.wf (State.modHere_mem _ _)).trans ht
  split
  · exact (congrArg Mem.wf ((State.modHere_mem _ _).trans (State.unbindDests_mem _ _ _))).trans ht
  · exact ht

theorem formed_execStarvationPromotion (c sl : Nat) (s : State) (h : s.mem.wf = true) : formed
    (execStarvationPromotion c sl s) := by
  unfold execStarvationPromotion
  simp [h]

theorem formed_execLaunchService (dom : BitVec 16) (hyp : Bool) (va : BitVec 64) (s : State) (h : s.mem.wf = true) :
    formed (execLaunchService dom hyp va s) := by
  unfold execLaunchService
  grind -ring -linarith -lia -order [State.mem_acceptLaunch, State.mem_notify, State.wf_apart, State.wf_readRecord,
    effectFormed, formed]

theorem formed_execDispatchBlock (s : State) (h : s.mem.wf = true) : formed (execDispatchBlock s) := by
  unfold execDispatchBlock
  grind -ring -linarith -lia -order [State.wf_placeBlock, effectFormed, formed]

theorem formed_execLaunchComplete (n : Nat) (s : State) (h : s.mem.wf = true) : formed (execLaunchComplete n s) := by
  unfold execLaunchComplete
  grind -ring -linarith -lia -order [State.completeFuture_mem, State.wf_placeSuccessor, effectFormed, formed]

theorem formed_trapInstr (i : Instr) (k : Cause) (service : Nat) (hcall : Bool) (s : State) (h : s.mem.wf = true) :
    formed (trapInstr i k service hcall s) := by
  unfold trapInstr
  refine formed_issue h (fun _ ht => ht) fun st t ht => ?_
  grind -ring -linarith -lia -order [State.wf_settle, State.wf_takeTrap, effectFormed, formed]

theorem formed_returnWord (i : Instr) (s : State) (h : s.mem.wf = true) : formed (returnWord i s) := by
  unfold returnWord
  refine formed_issue h (fun _ ht => ht) fun st t ht => ?_
  grind -ring -linarith -lia -order [State.wf_returnTrap, effectFormed, formed]

theorem formed_execTrapEntry (c sl : Nat) (s : State) (h : s.mem.wf = true) : formed (execTrapEntry c sl s) := by
  unfold execTrapEntry
  grind -ring -linarith -lia -order [State.wf_takeTrap, effectFormed, formed]

theorem formed_execMtpr (d : BitVec 6) (imm : BitVec 16) (s : State) (h : s.mem.wf = true) : formed (execMtpr d imm
    s) := by
  unfold execMtpr
  refine formed_issue h (fun _ ht => ht) fun st t ht => ?_
  grind -ring -linarith -lia -order [State.setPriv_mem, effectFormed, formed]

theorem formed_execTinvDone (c sl : Nat) (s : State) (h : s.mem.wf = true) : formed (execTinvDone c sl s) := by
  unfold execTinvDone
  grind -ring -linarith -lia -order [State.mem_askTinv, State.mem_dropEntries, State.modStrand_mem, effectFormed,
    formed]

theorem formed_execKill (a : BitVec 6) (s : State) (h : s.mem.wf = true) : formed (execKill a s) := by
  unfold execKill
  refine formed_issue h (fun _ ht => ht) fun st t ht => ?_
  grind -ring -linarith -lia -order [State.mem_killStrand, effectFormed, formed]

theorem formed_execPerf (d : BitVec 6) (imm : BitVec 16) (s : State) (h : s.mem.wf = true) : formed (execPerf d imm
    s) := by
  unfold execPerf
  refine formed_issue h (fun _ ht => ht) fun st t ht => ?_
  grind -ring -linarith -lia -order [State.mem_ask, State.modHere_mem, effectFormed, formed]

theorem formed_departWord (i : Instr) (u : Use) (live : Strand → DWord) (trap : Bool) (lanes : Strand → State → List
    (Nat × Bound × Nat)) (stay : Strand → State → Bool) (s : State) (h : s.mem.wf = true) : formed (departWord i u
    live trap lanes stay s) := by
  unfold departWord
  dsimp only
  split
  · exact State.wf_trapWord _ _ _ h
  · refine formed_issue h (fun _ ht => ht) fun st t ht => ?_
    split
    · exact fun u hu => (congrArg Mem.wf (State.mem_inquire _ _ _ _ _ _)).trans hu
    · exact (congrArg Mem.wf (State.mem_beginDeparture _ _ _ _ _ _ _ _)).trans (State.wf_readHomes _ _ _ ht)

theorem formed_execImplicitMigration (c sl : Nat) (s : State) (h : s.mem.wf = true) : formed (execImplicitMigration c
    sl s) := by
  unfold execImplicitMigration
  grind -ring -linarith -lia -order [State.mem_beginDeparture, State.mem_inquire, State.modStrand_mem,
    State.wf_readHomes, effectFormed, formed]

theorem formed_execFlaconSend (c sl : Nat) (s : State) (h : s.mem.wf = true) : formed (execFlaconSend c sl s) := by
  unfold execFlaconSend
  grind -ring -linarith -lia -order [State.mem_sendFlacons, State.mem_unreserve, State.modCore_mem,
    State.setStrand_mem, effectFormed, formed]

theorem formed_execFlaconArrival (n : Nat) (intact : Bool) (s : State) (h : s.mem.wf = true) : formed
    (execFlaconArrival n intact s) := by
  unfold execFlaconArrival
  grind -ring -linarith -lia -order [State.count_mem, State.modCore_mem, effectFormed, formed]

theorem formed_execFlaconAcknowledge (n : Nat) (s : State) (h : s.mem.wf = true) : formed (execFlaconAcknowledge n s)
    := by
  unfold execFlaconAcknowledge
  split <;> simp [h]

theorem formed_execReassemblyWindowExpiry (c n : Nat) (s : State) (h : s.mem.wf = true) : formed
    (execReassemblyWindowExpiry c n s) := by
  unfold execReassemblyWindowExpiry
  grind -ring -linarith -lia -order [State.modCore_mem, effectFormed, formed]

theorem formed_execStrandForm (c : Nat) (s : State) (h : s.mem.wf = true) : formed (execStrandForm c s) := by
  unfold execStrandForm
  grind -ring -linarith -lia -order [State.count_mem, State.modCore_mem, State.setStrand_mem, effectFormed, formed]

theorem formed_execTableCreate (dom : Nat) (desc : TableDesc) (base : Nat) (pages : List Nat) (s : State) (h :
    s.mem.wf = true) : formed (execTableCreate dom desc base pages s) := by
  unfold execTableCreate
  grind -ring -linarith -lia -order [State.mem_notify, State.wf_makeTable, effectFormed, formed]

theorem formed_execTableDestroy (num : Nat) (s : State) (h : s.mem.wf = true) : formed (execTableDestroy num s) := by
  unfold execTableDestroy
  split <;> simp [h]

theorem formed_execTableStoreReturn (n : Nat) (s : State) (h : s.mem.wf = true) : formed (execTableStoreReturn n s)
    := by
  unfold execTableStoreReturn
  grind -ring -linarith -lia -order [State.wf_unmapPages, effectFormed, formed]

theorem formed_execRowStorageFree (num row : Nat) (s : State) (h : s.mem.wf = true) : formed (execRowStorageFree num
    row s) := by
  unfold execRowStorageFree
  simp [h]

theorem formed_execImageLoad (img : Image) (s : State) (h : s.mem.wf = true) : formed (execImageLoad img s) := by
  unfold execImageLoad
  grind -ring -linarith -lia -order [State.mem_notify, State.wf_loadSections, effectFormed, formed]

theorem formed_execMgmtRegisterWrite (r : MgmtReg) (v : BitVec 64) (s : State) (h : s.mem.wf = true) : formed
    (execMgmtRegisterWrite r v s) := by
  unfold execMgmtRegisterWrite
  grind -ring -linarith -lia -order [State.mem_modDomain, State.mem_modWindow, State.mem_setPort, State.modCore_mem,
    State.modStack_mem, State.wf_writeMemory, effectFormed, formed]

theorem formed_execMaintenanceReplan (core newMillivolt date : Nat) (holds : Bool) (s : State) (h : s.mem.wf = true)
    : formed (execMaintenanceReplan core newMillivolt date holds s) := by
  unfold execMaintenanceReplan
  grind -ring -linarith -lia -order [State.mem_notify, effectFormed, formed]

theorem formed_execCclose (a : BitVec 8) (s : State) (h : s.mem.wf = true) : formed (execCclose a s) := by
  unfold execCclose
  refine formed_issue h (fun _ ht => ht) fun st t ht => ?_
  refine (congrArg Mem.wf (foldl_keep State.mem _ (fun u l => ?_) _ t)).trans ht
  split
  · exact State.modCore_mem _ _ _
  · rfl

theorem formed_execFence (s : State) (h : s.mem.wf = true) : formed (execFence s) := by
  unfold execFence
  refine formed_issue h (fun _ ht => ht) fun st t ht => ?_
  grind -ring -linarith -lia -order [State.modCore_mem, effectFormed, formed]

theorem formed_execPost (a : BitVec 6) (s : State) (h : s.mem.wf = true) : formed (execPost a s) := by
  unfold execPost
  refine formed_issue h (fun _ ht => ht) fun st t ht => ?_
  grind -ring -linarith -lia -order [State.mem_post, State.modCore_mem, effectFormed, formed]

theorem formed_execTableOpComplete (c n : Nat) (lanes : LaneMask) (cached : Bool) (s : State) (h : s.mem.wf = true) :
    formed (execTableOpComplete c n lanes cached s) := by
  unfold execTableOpComplete
  grind -ring -linarith -lia -order [State.mem_sendOp, State.settleOp_mem, State.wf_performOp, effectFormed, formed]

theorem formed_execScratchLoadComplete (c n : Nat) (s : State) (h : s.mem.wf = true) : formed
    (execScratchLoadComplete c n s) := by
  unfold execScratchLoadComplete
  grind -ring -linarith -lia -order [State.mem_endBlocks, State.settleOp_mem, State.wf_performAt, effectFormed, formed]

theorem formed_execLinkRequestTimeout (n : Nat) (s : State) (h : s.mem.wf = true) : formed (execLinkRequestTimeout n
    s) := by
  unfold execLinkRequestTimeout
  grind -ring -linarith -lia -order [State.mem_closeRequest, State.mem_postFault, State.wf_answer, effectFormed, formed]

theorem formed_execLinkFlitReceive (f : Flit) (s : State) (h : s.mem.wf = true) : formed (execLinkFlitReceive f s) := by
  unfold execLinkFlitReceive
  grind -ring -linarith -lia -order [State.mem_askReplay, State.mem_control, State.mem_putPort,
    State.mem_takeControl, State.wf_takeBody, effectFormed, formed]

theorem formed_execHostDoorbell (v : BitVec 64) (s : State) (h : s.mem.wf = true) : formed (execHostDoorbell v s) := by
  unfold execHostDoorbell
  split <;> simp [h]

theorem formed_execHostWindowAccess (win off : Nat) (write : Bool) (bytes : List (BitVec 8)) (s : State) (h :
    s.mem.wf = true) : formed (execHostWindowAccess win off write bytes s) := by
  unfold execHostWindowAccess
  grind -ring -linarith -lia -order [State.mem_fromSource, State.wf_readPhys, State.wf_writePhys, effectFormed, formed]

theorem formed_maskWord (i : Instr) (d : BitVec 4) (f : Strand → DWord) (s : State) (h : s.mem.wf = true) : formed
    (maskWord i d f s) := formed_onStrand h

theorem formed_execMldsPerform (c : Nat) (s : State) (h : s.mem.wf = true) : formed (execMldsPerform c s) := by
  unfold execMldsPerform
  simp [h]

theorem formed_execMactPerform (c : Nat) (s : State) (h : s.mem.wf = true) : formed (execMactPerform c s) := by
  unfold execMactPerform
  simp [h]

theorem formed_execMbandPerform (c : Nat) (s : State) (h : s.mem.wf = true) : formed (execMbandPerform c s) := by
  unfold execMbandPerform
  simp [h]

theorem formed_execMclrPerform (c : Nat) (s : State) (h : s.mem.wf = true) : formed (execMclrPerform c s) := by
  unfold execMclrPerform
  simp [h]

theorem formed_execMmulPerform (c units : Nat) (s : State) (h : s.mem.wf = true) : formed (execMmulPerform c units s)
    := by
  unfold execMmulPerform
  grind -ring -linarith -lia -order [State.count_mem, State.mem_matRun, effectFormed, formed]

theorem formed_execMmspPerform (c units : Nat) (s : State) (h : s.mem.wf = true) : formed (execMmspPerform c units s)
    := by
  unfold execMmspPerform
  grind -ring -linarith -lia -order [State.count_mem, State.mem_matRun, effectFormed, formed]

theorem formed_execScaccPerform (c units : Nat) (s : State) (h : s.mem.wf = true) : formed (execScaccPerform c units
    s) := by
  unfold execScaccPerform
  simp [h]

theorem formed_execMrdPerform (c units : Nat) (s : State) (h : s.mem.wf = true) : formed (execMrdPerform c units s)
    := by
  unfold execMrdPerform
  simp [h]

theorem formed_execCtxsv (d a : BitVec 6) (s : State) (h : s.mem.wf = true) : formed (execCtxsv d a s) := by
  unfold execCtxsv
  refine formed_issueIn h (fun _ ht => ht) fun st t ht => effectFormed_withFuture ht fun i u hu => ?_
  dsimp only
  split
  · exact hu
  · split
    · exact hu
    · exact (congrArg Mem.wf (State.setStrand_mem _ _ _ _)).trans hu

theorem formed_execPreemptRequest (c sl gen area : Nat) (s : State) (h : s.mem.wf = true) : formed
    (execPreemptRequest c sl gen area s) := by
  unfold execPreemptRequest
  grind -ring -linarith -lia -order [State.modCore_mem, State.setStrand_mem, effectFormed, formed]

theorem formed_execFullSaveTimeout (c sl : Nat) (s : State) (h : s.mem.wf = true) : formed (execFullSaveTimeout c sl
    s) := by
  unfold execFullSaveTimeout
  grind -ring -linarith -lia -order [State.setStrand_mem, effectFormed, formed]

theorem formed_execStrandSave (c sl : Nat) (s : State) (h : s.mem.wf = true) : formed (execStrandSave c sl s) := by
  unfold execStrandSave
  grind -ring -linarith -lia -order [State.count_mem, State.mem_answerSave, State.mem_swapOut, State.setStrand_mem,
    State.wf_engineWrite, effectFormed, formed]

theorem formed_execCtxld (d a : BitVec 6) (s : State) (h : s.mem.wf = true) : formed (execCtxld d a s) := by
  unfold execCtxld
  refine formed_issueIn h (fun _ ht => ht) fun st t ht => ?_
  split
  · exact effectFormed_id
  · exact effectFormed_withFuture ht fun i u hu => State.wf_queueRestore _ _ _ _ _ hu

theorem formed_execKuenrexRestore (c area : Nat) (s : State) (h : s.mem.wf = true) : formed (execKuenrexRestore c
    area s) := by
  unfold execKuenrexRestore
  grind -ring -linarith -lia -order [State.wf_queueRestore, effectFormed, formed]

theorem formed_execStrandRestore (c : Nat) (s : State) (h : s.mem.wf = true) : formed (execStrandRestore c s) := by
  unfold execStrandRestore
  grind -ring -linarith -lia -order [State.mem_answerRestore, State.mem_reseat, State.modCore_mem,
    State.wf_engineWrite, effectFormed, formed]

theorem formed_floatWord (i : Instr) (types : ElemType → Bool) (f : Fmt → Rounding → Bool → FVal → Nat × Flags) (d a
    : BitVec 8) (s : State) (h : s.mem.wf = true) : formed (floatWord i types f d a s) := formed_elemWord (h := h) ..

theorem formed_sinCosWord (i : Instr) (cos : Bool) (d a : BitVec 8) (s : State) (h : s.mem.wf = true) : formed
    (sinCosWord i cos d a s) := by
  unfold sinCosWord
  exact formed_issue h (fun _ ht => ht) fun st t ht => by simp [ht]

theorem formed_execBar (n : BitVec 4) (s : State) (h : s.mem.wf = true) : formed (execBar n s) := by
  unfold execBar
  exact formed_issue h (fun _ ht => ht) fun st t ht => by split <;> simp [ht]

theorem formed_execBara (d a : BitVec 6) (n : BitVec 4) (s : State) (h : s.mem.wf = true) : formed (execBara d a n s)
    := by
  unfold execBara
  refine formed_issue h (fun _ ht => ht) fun st t ht => ?_
  grind -ring -linarith -lia -order [State.mem_atBarrier, State.modHere_mem, effectFormed, formed]

theorem formed_execBarw (a : BitVec 6) (n : BitVec 4) (s : State) (h : s.mem.wf = true) : formed (execBarw a n s) := by
  unfold execBarw
  refine formed_issue h (fun _ ht => ht) fun st t ht => ?_
  grind -ring -linarith -lia -order [State.modHere_mem, effectFormed, formed]

theorem formed_execBarinit (a : BitVec 6) (n : BitVec 4) (s : State) (h : s.mem.wf = true) : formed (execBarinit a n
    s) := by
  unfold execBarinit
  exact formed_issue h (fun _ ht => ht) fun st t ht => by simp [ht]

theorem formed_execFreeze (s : State) (h : s.mem.wf = true) : formed (execFreeze s) := by
  unfold execFreeze
  simp [h]

theorem formed_execCoreCycleCounterMatch (s : State) (h : s.mem.wf = true) : formed (execCoreCycleCounterMatch s) := by
  unfold execCoreCycleCounterMatch
  grind -ring -linarith -lia -order [State.mem_freezeBy, effectFormed, formed]

theorem formed_execEnfleurageReadout (s : State) (h : s.mem.wf = true) : formed (execEnfleurageReadout s) := by
  unfold execEnfleurageReadout
  grind -ring -linarith -lia -order [State.stopClocks_mem, effectFormed, formed]

theorem formed_execResume (s : State) (h : s.mem.wf = true) : formed (execResume s) := by
  unfold execResume
  grind -ring -linarith -lia -order [State.mem_control, State.stopClocks_mem, effectFormed, formed]

theorem formed_execReset (s : State) (h : s.mem.wf = true) : formed (execReset s) := by
  unfold execReset
  simp [h]

theorem formed_execRefusedClear (s : State) (h : s.mem.wf = true) : formed (execRefusedClear s) := by
  unfold execRefusedClear
  simp [h]

theorem formed_execBootStage (s : State) (h : s.mem.wf = true) : formed (execBootStage s) := by
  unfold execBootStage
  dsimp only
  split
  · exact h
  · split
    · exact h
    · split
      · exact h
      · split
        · exact h
        · exact h
    · exact h
    · exact h

/-- An answer of the responder leaves memory alone where its effect does. -/
theorem formed_answerSpdm {ok : State → Bool} {f : State → State} {s : State} (h : s.mem.wf = true)
    (hf : (f s).mem.wf = true) : formed (answerSpdm ok f s) := by
  unfold answerSpdm
  split
  · exact h
  · split
    · exact hf
    · exact h

/-- Every instruction and step keeps memory in its form. -/
theorem formed_exec (i : Instr) {s : State} (h : s.mem.wf = true) : formed (exec i s) := by
  cases i with
  | clauseHeader l w a b n => exact formed_execClauseHeader l w a b n s h
  | unassignedOpcode w => exact formed_execUnassignedOpcode w s h
  | nop => exact (formed_onStrand h : formed (execNop s))
  | mode imm => exact (formed_onStrand h : formed (execMode imm s))
  | memmode imm => exact (formed_onStrand h : formed (execMemmode imm s))
  | bra off => exact (formed_branchWord (h := h) .. : formed (execBra off s))
  | bkz d off => exact (formed_branchWord (h := h) .. : formed (execBkz d off s))
  | bknz d off => exact (formed_branchWord (h := h) .. : formed (execBknz d off s))
  | bqt d off => exact (formed_branchWord (h := h) .. : formed (execBqt d off s))
  | bqf d off => exact (formed_branchWord (h := h) .. : formed (execBqf d off s))
  | call off => exact (formed_callWord (h := h) .. : formed (execCall off s))
  | callg a => exact (formed_callWord (h := h) .. : formed (execCallg a s))
  | jmpg a => exact (formed_branchWord (h := h) .. : formed (execJmpg a s))
  | ret => exact formed_execRet s h
  | retv a => exact formed_execRetv a s h
  | loop d off => exact formed_execLoop d off s h
  | lexit => exact formed_execLexit s h
  | exit => exact formed_execExit s h
  | sreg d imm => exact (formed_onStrand h : formed (execSreg d imm s))
  | gsreg d imm => exact formed_execGsreg d imm s h
  | kfrom d a => exact (formed_maskWord (h := h) .. : formed (execKfrom d a s))
  | kand d a b => exact (formed_maskWord (h := h) .. : formed (execKand d a b s))
  | kor d a b => exact (formed_maskWord (h := h) .. : formed (execKor d a b s))
  | kandn d a b => exact (formed_maskWord (h := h) .. : formed (execKandn d a b s))
  | kxor d a b => exact (formed_maskWord (h := h) .. : formed (execKxor d a b s))
  | kmov d a => exact (formed_maskWord (h := h) .. : formed (execKmov d a s))
  | kpop d a => exact (formed_onStrand h : formed (execKpop d a s))
  | ktog d a => exact (formed_onStrand h : formed (execKtog d a s))
  | gtok d a => exact (formed_onStrand h : formed (execGtok d a s))
  | phint a b => exact (formed_onStrand h : formed (execPhint a b s))
  | idem a b => exact (formed_onStrand h : formed (execIdem a b s))
  | idend => exact (formed_onStrand h : formed (execIdend s))
  | bwphase n => exact (formed_onStrand h : formed (execBwphase n s))
  | launch d a => exact formed_execLaunch d a s h
  | add d a b => exact (formed_elemWord (h := h) .. : formed (execAdd d a b s))
  | sub d a b => exact (formed_elemWord (h := h) .. : formed (execSub d a b s))
  | mul d a b => exact (formed_elemWord (h := h) .. : formed (execMul d a b s))
  | mulh d a b => exact (formed_elemWord (h := h) .. : formed (execMulh d a b s))
  | mad d a b => exact (formed_elemWord (h := h) .. : formed (execMad d a b s))
  | msb d a b => exact (formed_elemWord (h := h) .. : formed (execMsb d a b s))
  | div d a b => exact formed_execDiv d a b s h
  | rem d a b => exact (formed_elemWord (h := h) .. : formed (execRem d a b s))
  | min d a b => exact (formed_elemWord (h := h) .. : formed (execMin d a b s))
  | max d a b => exact (formed_elemWord (h := h) .. : formed (execMax d a b s))
  | abs d a => exact (formed_elemWord (h := h) .. : formed (execAbs d a s))
  | neg d a => exact (formed_elemWord (h := h) .. : formed (execNeg d a s))
  | and d a b => exact (formed_shiftWord (h := h) .. : formed (execAnd d a b s))
  | or d a b => exact (formed_shiftWord (h := h) .. : formed (execOr d a b s))
  | xor d a b => exact (formed_shiftWord (h := h) .. : formed (execXor d a b s))
  | not d a => exact (formed_elemWord (h := h) .. : formed (execNot d a s))
  | shl d a b => exact (formed_shiftWord (h := h) .. : formed (execShl d a b s))
  | shr d a b => exact (formed_shiftWord (h := h) .. : formed (execShr d a b s))
  | sar d a b => exact (formed_shiftWord (h := h) .. : formed (execSar d a b s))
  | rol d a b => exact (formed_shiftWord (h := h) .. : formed (execRol d a b s))
  | clz d a => exact (formed_elemWord (h := h) .. : formed (execClz d a s))
  | pop d a => exact (formed_elemWord (h := h) .. : formed (execPop d a s))
  | brev d a => exact (formed_elemWord (h := h) .. : formed (execBrev d a s))
  | bfe d a b => exact (formed_elemWord (h := h) .. : formed (execBfe d a b s))
  | bfi d a b => exact (formed_elemWord (h := h) .. : formed (execBfi d a b s))
  | mov d a => exact (formed_vec (h := h) .. : formed (execMov d a s))
  | sel d a b => exact (formed_onStrand h : formed (execSel d a b s))
  | ldi d imm => exact (formed_vec (h := h) .. : formed (execLdi d imm s))
  | ldih d imm => exact (formed_vec (h := h) .. : formed (execLdih d imm s))
  | cvt d a t => exact (formed_vec (h := h) .. : formed (execCvt d a t s))
  | ceq d a b => exact (formed_compareWord (h := h) .. : formed (execCeq d a b s))
  | cne d a b => exact (formed_compareWord (h := h) .. : formed (execCne d a b s))
  | clt d a b => exact (formed_compareWord (h := h) .. : formed (execClt d a b s))
  | cle d a b => exact (formed_compareWord (h := h) .. : formed (execCle d a b s))
  | cun d a b => exact (formed_compareWord (h := h) .. : formed (execCun d a b s))
  | pand d a b => exact (formed_predWord (h := h) .. : formed (execPand d a b s))
  | por d a b => exact (formed_predWord (h := h) .. : formed (execPor d a b s))
  | pxor d a b => exact (formed_predWord (h := h) .. : formed (execPxor d a b s))
  | pnot d a => exact (formed_predWord (h := h) .. : formed (execPnot d a s))
  | rcp d a => exact (formed_floatWord (h := h) .. : formed (execRcp d a s))
  | rsq d a => exact (formed_floatWord (h := h) .. : formed (execRsq d a s))
  | sqrt d a => exact (formed_floatWord (h := h) .. : formed (execSqrt d a s))
  | ex2 d a => exact (formed_floatWord (h := h) .. : formed (execEx2 d a s))
  | lg2 d a => exact (formed_floatWord (h := h) .. : formed (execLg2 d a s))
  | sinpi d a => exact (formed_sinCosWord (h := h) .. : formed (execSinpi d a s))
  | cospi d a => exact (formed_sinCosWord (h := h) .. : formed (execCospi d a s))
  | rint d a => exact (formed_floatWord (h := h) .. : formed (execRint d a s))
  | scl d a b => exact (formed_elemWord (h := h) .. : formed (execScl d a b s))
  | shfl d a b => exact (formed_shuffleWord (h := h) .. : formed (execShfl d a b s))
  | shfx d a n => exact (formed_shuffleWord (h := h) .. : formed (execShfx d a n s))
  | shup d a n => exact (formed_shuffleWord (h := h) .. : formed (execShup d a n s))
  | shdn d a n => exact (formed_shuffleWord (h := h) .. : formed (execShdn d a n s))
  | bcst d a b => exact (formed_onStrand h : formed (execBcst d a b s))
  | radd d a => exact (formed_reduceWord (h := h) .. : formed (execRadd d a s))
  | rmin d a => exact (formed_reduceWord (h := h) .. : formed (execRmin d a s))
  | rmax d a => exact (formed_reduceWord (h := h) .. : formed (execRmax d a s))
  | confl d a => exact (formed_onStrand h : formed (execConfl d a s))
  | fcls d a => exact (formed_elemWord (h := h) .. : formed (execFcls d a s))
  | cmprs d a b => exact (formed_compressWord (h := h) .. : formed (execCmprs d a b s))
  | expnd d a b => exact (formed_compressWord (h := h) .. : formed (execExpnd d a b s))
  | vtog d a => exact (formed_onStrand h : formed (execVtog d a s))
  | gtov d a => exact (formed_onStrand h : formed (execGtov d a s))
  | gadd d a b => exact (formed_onStrand h : formed (execGadd d a b s))
  | gsub d a b => exact (formed_onStrand h : formed (execGsub d a b s))
  | gmul d a b => exact (formed_onStrand h : formed (execGmul d a b s))
  | gand d a b => exact (formed_onStrand h : formed (execGand d a b s))
  | gor d a b => exact (formed_onStrand h : formed (execGor d a b s))
  | gxor d a b => exact (formed_onStrand h : formed (execGxor d a b s))
  | gshl d a b => exact (formed_onStrand h : formed (execGshl d a b s))
  | gshr d a b => exact (formed_onStrand h : formed (execGshr d a b s))
  | gsar d a b => exact (formed_onStrand h : formed (execGsar d a b s))
  | gmov d a => exact (formed_onStrand h : formed (execGmov d a s))
  | gldi d imm => exact (formed_onStrand h : formed (execGldi d imm s))
  | gldih d imm => exact (formed_groupPart (h := h) .. : formed (execGldih d imm s))
  | gldix d imm => exact (formed_groupPart (h := h) .. : formed (execGldix d imm s))
  | gldiy d imm => exact (formed_groupPart (h := h) .. : formed (execGldiy d imm s))
  | gceq d a b => exact (formed_onStrand h : formed (execGceq d a b s))
  | gclt d a b => exact (formed_onStrand h : formed (execGclt d a b s))
  | lkp d a b => exact (formed_execOp (h := h) .. : formed (execLkp d a b s))
  | ins d a b => exact (formed_execOp (h := h) .. : formed (execIns d a b s))
  | ups d a b => exact (formed_execOp (h := h) .. : formed (execUps d a b s))
  | del d a b => exact (formed_execOp (h := h) .. : formed (execDel d a b s))
  | rekey d a b => exact (formed_execOp (h := h) .. : formed (execRekey d a b s))
  | ld d a off => exact (formed_execOp (h := h) .. : formed (execLd d a off s))
  | st d a off => exact (formed_execOp (h := h) .. : formed (execSt d a off s))
  | atom d a off => exact (formed_execOp (h := h) .. : formed (execAtom d a off s))
  | ldrow d a b => exact (formed_execOp (h := h) .. : formed (execLdrow d a b s))
  | ratom d a off => exact (formed_execOp (h := h) .. : formed (execRatom d a off s))
  | copen d a b => exact (formed_execOp (h := h) .. : formed (execCopen d a b s))
  | cstep d a => exact (formed_execOp (h := h) .. : formed (execCstep d a s))
  | cstepn d a => exact (formed_execOp (h := h) .. : formed (execCstepn d a s))
  | cseek d a => exact (formed_execOp (h := h) .. : formed (execCseek d a s))
  | cclose a => exact formed_execCclose a s h
  | gath d a b => exact formed_execGath d a b s h
  | promo d a => exact formed_execPromo d a s h
  | publ a => exact formed_execPubl a s h
  | fence => exact formed_execFence s h
  | sld d a off => exact (formed_execOp (h := h) .. : formed (execSld d a off s))
  | sst d a off => exact (formed_execOp (h := h) .. : formed (execSst d a off s))
  | satom d a off => exact (formed_execOp (h := h) .. : formed (execSatom d a off s))
  | cpy d a b => exact (formed_copyWord (h := h) .. : formed (execCpy d a b s))
  | cpys d a b => exact (formed_copyWord (h := h) .. : formed (execCpys d a b s))
  | cpyo d a b => exact (formed_copyWord (h := h) .. : formed (execCpyo d a b s))
  | cbatch d => exact (formed_onStrand h : formed (execCbatch d s))
  | cwait a => exact formed_execCwait a s h
  | bgive d row col => exact formed_execBgive d row col s h
  | btake d => exact formed_execBtake d s h
  | balloc d a => exact formed_execBalloc d a s h
  | bfree a => exact (formed_onStrand h : formed (execBfree a s))
  | gang a => exact (formed_onStrand h : formed (execGang a s))
  | mlds d a b => exact (formed_matWord (h := h) .. : formed (execMlds d a b s))
  | mact => exact (formed_matWord (h := h) .. : formed (execMact s))
  | mmul d a b => exact (formed_matWord (h := h) .. : formed (execMmul d a b s))
  | mmsp d a b => exact (formed_matWord (h := h) .. : formed (execMmsp d a b s))
  | mband a b => exact (formed_matWord (h := h) .. : formed (execMband a b s))
  | scacc d a => exact (formed_matWord (h := h) .. : formed (execScacc d a s))
  | mrd d a b => exact (formed_matWord (h := h) .. : formed (execMrd d a b s))
  | mclr a => exact (formed_matWord (h := h) .. : formed (execMclr a s))
  | mstep d a => exact formed_execMstep d a s h
  | go a b => exact (formed_departWord (h := h) .. : formed (execGo a b s))
  | gom a b => exact (formed_departWord (h := h) .. : formed (execGom a b s))
  | goto d row col sel => exact (formed_departWord (h := h) .. : formed (execGoto d row col sel s))
  | gopol imm => exact (formed_onStrand h : formed (execGopol imm s))
  | rejoin imm => exact (formed_onStrand h : formed (execRejoin imm s))
  | bar n => exact formed_execBar n s h
  | bara d a n => exact formed_execBara d a n s h
  | barw a n => exact formed_execBarw a n s h
  | barinit a n => exact formed_execBarinit a n s h
  | ftest d a => exact formed_execFtest d a s h
  | fwait a => exact formed_execFwait a s h
  | fcancel a => exact formed_execFcancel a s h
  | post a => exact formed_execPost a s h
  | sysc imm => exact (formed_trapInstr (h := h) .. : formed (execSysc imm s))
  | sret => exact (formed_returnWord (h := h) .. : formed (execSret s))
  | hcall imm => exact (formed_trapInstr (h := h) .. : formed (execHcall imm s))
  | hret => exact (formed_returnWord (h := h) .. : formed (execHret s))
  | mfpr d imm => exact (formed_onStrand h : formed (execMfpr d imm s))
  | mtpr d imm => exact formed_execMtpr d imm s h
  | tinv a sc => exact (formed_onStrand h : formed (execTinv a sc s))
  | ctxsv d a => exact formed_execCtxsv d a s h
  | ctxld d a => exact formed_execCtxld d a s h
  | perf d imm => exact formed_execPerf d imm s h
  | bkpt imm => exact (formed_trapInstr (h := h) .. : formed (execBkpt imm s))
  | kill a => exact formed_execKill a s h
  | divComplete c n => exact formed_execDivComplete c n s h
  | tableOpComplete c n lanes cached => exact formed_execTableOpComplete c n lanes cached s h
  | gathComplete c f => exact formed_execGathComplete c f s h
  | promoComplete c f => exact formed_execPromoComplete c f s h
  | publSwapOrRetire c sl => exact formed_execPublSwapOrRetire c sl s h
  | scratchLoadComplete c n => exact formed_execScratchLoadComplete c n s h
  | copyComplete c n => exact formed_execCopyComplete c n s h
  | bgiveTransfer c sl => exact formed_execBgiveTransfer c sl s h
  | bfreeRelease c sl => exact formed_execBfreeRelease c sl s h
  | granuleClearDone c => exact formed_execGranuleClearDone c s h
  | mldsPerform c => exact formed_execMldsPerform c s h
  | mactPerform c => exact formed_execMactPerform c s h
  | mmulPerform c units => exact formed_execMmulPerform c units s h
  | mmspPerform c units => exact formed_execMmspPerform c units s h
  | mbandPerform c => exact formed_execMbandPerform c s h
  | scaccPerform c units => exact formed_execScaccPerform c units s h
  | mrdPerform c units => exact formed_execMrdPerform c units s h
  | mclrPerform c => exact formed_execMclrPerform c s h
  | implicitMigration c sl => exact formed_execImplicitMigration c sl s h
  | flaconSend c sl => exact formed_execFlaconSend c sl s h
  | flaconArrival n intact => exact formed_execFlaconArrival n intact s h
  | flaconAcknowledge n => exact formed_execFlaconAcknowledge n s h
  | reassemblyWindowExpiry c n => exact formed_execReassemblyWindowExpiry c n s h
  | strandForm c => exact formed_execStrandForm c s h
  | tinvDone c sl => exact formed_execTinvDone c sl s h
  | trapEntry c sl => exact formed_execTrapEntry c sl s h
  | starvationPromotion c sl => exact formed_execStarvationPromotion c sl s h
  | launchService dom hyp va => exact formed_execLaunchService dom hyp va s h
  | dispatchBlock => exact formed_execDispatchBlock s h
  | launchComplete n => exact formed_execLaunchComplete n s h
  | preemptRequest c sl gen area => exact formed_execPreemptRequest c sl gen area s h
  | fullSaveTimeout c sl => exact formed_execFullSaveTimeout c sl s h
  | strandSave c sl => exact formed_execStrandSave c sl s h
  | kuenrexRestore c area => exact formed_execKuenrexRestore c area s h
  | strandRestore c => exact formed_execStrandRestore c s h
  | pageWalk c dom va => exact formed_execPageWalk c dom va s h
  | bankRetentionEntry st b => exact formed_execBankRetentionEntry st b s h
  | bankDeepPowerDown st b => exact formed_execBankDeepPowerDown st b s h
  | bankWakeEnd st b => exact formed_execBankWakeEnd st b s h
  | bankMapWrite st b v => exact formed_execBankMapWrite st b v s h
  | packagePhaseApply st => exact formed_execPackagePhaseApply st s h
  | compactionMove blk => exact formed_execCompactionMove blk s h
  | faultQueueRemove => exact formed_execFaultQueueRemove s h
  | mgmtRegisterWrite r v => exact formed_execMgmtRegisterWrite r v s h
  | coreClockStep up => exact formed_execCoreClockStep up s h
  | imageLoad img => exact formed_execImageLoad img s h
  | tableCreate dom desc base pages => exact formed_execTableCreate dom desc base pages s h
  | tableDestroy num => exact formed_execTableDestroy num s h
  | tableStoreReturn n => exact formed_execTableStoreReturn n s h
  | rowStorageFree num row => exact formed_execRowStorageFree num row s h
  | linkFlitReceive f => exact formed_execLinkFlitReceive f s h
  | linkRequestTimeout n => exact formed_execLinkRequestTimeout n s h
  | hostDoorbell v => exact formed_execHostDoorbell v s h
  | freeze => exact formed_execFreeze s h
  | enfleurageReadout => exact formed_execEnfleurageReadout s h
  | resume => exact formed_execResume s h
  | reset => exact formed_execReset s h
  | refusedClear => exact formed_execRefusedClear s h
  | packageReset => exact (Mem.wf_reset : formed (execPackageReset s))
  | bootStage => exact formed_execBootStage s h
  | maintenanceReplan core newMillivolt date holds =>
      exact formed_execMaintenanceReplan core newMillivolt date holds s h
  | getVersion => exact (formed_answerSpdm h h : formed (execGetVersion s))
  | getCapabilities => exact (formed_answerSpdm h h : formed (execGetCapabilities s))
  | negotiateAlgorithms offersP384 => exact (formed_answerSpdm h h : formed (execNegotiateAlgorithms offersP384 s))
  | getDigests => exact (formed_answerSpdm h h : formed (execGetDigests s))
  | getCertificate slot => exact (formed_answerSpdm h h : formed (execGetCertificate slot s))
  | challenge nonce => exact (formed_answerSpdm h h : formed (execChallenge nonce s))
  | getMeasurements nonce => exact (formed_answerSpdm h h : formed (execGetMeasurements nonce s))
  | powerStateEntryComplete st b => exact formed_execPowerStateEntryComplete st b s h
  | coreCycleCounterMatch => exact formed_execCoreCycleCounterMatch s h
  | hostWindowAccess win off write bytes => exact formed_execHostWindowAccess win off write bytes s h

/-! ### Issue, cycles and steps -/

theorem formed_issueNext {s : State} (h : s.mem.wf = true) : formed (issueNext s) := by
  unfold issueNext
  split
  · exact h
  · split
    · exact wf_fetchClause s h
    · dsimp only
      split
      · exact formed_exec _ h
      · exact formed_refuseWord _ s h
      · exact formed_exec _ h

theorem formed_issueAt {s : State} (c sl : Nat) (h : s.mem.wf = true) : formed (s.issueAt c sl) := by
  unfold State.issueAt
  dsimp only
  split
  · split
    · exact formed_issueNext h
    · exact h
  · exact h

theorem State.wf_startAll {s : State} (h : s.mem.wf = true) : s.startAll.mem.wf = true := by
  refine List.foldlRecOn _ _ (motive := fun t : State => t.mem.wf = true) h fun t ht x _ => ?_
  split
  · exact State.wf_fetchAt t x.1 x.2 ht
  · exact ht

theorem State.wf_countBlocked {s : State} (c sl : Nat) (h : s.mem.wf = true) : (s.countBlocked c sl).mem.wf = true := by
  have hi := formed_issueAt c sl h
  unfold State.countBlocked
  split
  · exact h
  · split
    · exact h
    · split <;> rename_i heq
      · rw [heq] at hi; exact hi
      · exact h

theorem State.wf_countBlockedAll {s : State} (h : s.mem.wf = true) : s.countBlockedAll.mem.wf = true :=
  List.foldlRecOn _ _ (motive := fun t : State => t.mem.wf = true) h fun _ ht _ _ => State.wf_countBlocked _ _ ht

theorem State.wf_endCycle {s : State} (n : Nat) (h : s.mem.wf = true) : (s.endCycle n).mem.wf = true := by
  unfold State.endCycle
  dsimp only
  split
  · exact h
  · rw [State.mem_select]
    exact State.wf_countBlockedAll (State.wf_startAll ((congrArg Mem.wf (s.mem_tick _)).trans h))

theorem formed_move {s : State} (m : Move) (h : s.mem.wf = true) : formed (s.move m) := by
  cases m with
  | issue c sl =>
    simp only [State.move, State.issueMove]
    split
    · exact formed_issueAt c sl h
    · exact h
  | event i =>
    simp only [State.move]
    split
    · exact formed_exec i h
    · exact h
  | tick n => exact State.wf_endCycle n h
  | pin high => exact (congrArg Mem.wf (s.mem_setPin high)).trans h
  | sample core date => exact (congrArg Mem.wf (s.mem_sample core date)).trans h
  | corrected pa => exact (congrArg Mem.wf (s.mem_corrected pa)).trans h
  | _ => exact h

theorem State.wf_others {s : State} (h : s.mem.wf = true) : s.others.mem.wf = true := by
  unfold State.others
  split
  · rename_i t ht
    obtain ⟨i, -, hi⟩ := List.exists_of_findSome?_eq_some ht
    have hf := formed_exec i h
    unfold State.effectOf at hi
    split at hi
    · rename_i u hu
      rw [hu] at hf
      split at hi
      · cases hi
      · cases hi; exact State.wf_endCycle 1 hf
    · cases hi
  · exact State.wf_endCycle 800 h

theorem formed_default {s : State} (h : s.mem.wf = true) : formed s.default := by
  unfold State.default
  split
  · exact formed_issueAt _ _ h
  · exact State.wf_others h

theorem formed_step {s : State} (h : s.mem.wf = true) : formed (step s) := by
  unfold step State.run
  split
  · rename_i m rest _
    dsimp only
    split
    · exact formed_move m h
    · split
      · exact h
      · split
        · exact (congrArg Mem.wf (State.mem_endFrozen _)).trans h
        · exact formed_move m h
  · split
    · unfold State.standing
      split
      · exact (Mem.wf_reset : formed (execPackageReset s))
      · split
        · exact formed_default h
        · exact (congrArg Mem.wf s.stopClocks_mem).trans h
    · exact formed_default h

end Sys2Proof.Machine

section
open Sys2Proof Sys2Proof.Machine

/-- Settles O7: every function of the model that writes memory does so by the operations on memory, which keep its
  form. -/
theorem memoryKeepsItsForm : Obligations.MemoryKeepsItsForm := by
  intro s t h hstep
  have hf := formed_step h
  rw [hstep] at hf
  exact hf

end
end

section
/-! SUPPORT. The model's own order of steps, the end of a cycle, and the strands that a quarter selects (R101, R103; logs 4, 82). -/

namespace Sys2Proof.Machine

/-! ### Steps without an agenda -/

theorem step_default {s : State} (ha : s.agenda = []) (hf : s.freeze.frozen = false) : step s = s.default := by
  simp [step, State.run, ha, hf]

/-- What the others do is a step of theirs or nothing, and then the cycle ends. -/
theorem State.others_spec (s : State) : ∃ (u : State) (n : Nat), (u = s ∨ ∃ i ∈ s.steps, exec i s = .next u) ∧ 1 ≤ n ∧
    s.others = ({ u with round := u.round + 1 } : State).endCycle n := by
  have hothers : s.others = match s.stepsInTurn.findSome? s.effectOf with
    | some t => { t with round := t.round + 1 }.endCycle 1
    | none => { s with round := s.round + 1 }.endCycle 800 := rfl
  cases h : s.stepsInTurn.findSome? s.effectOf with
  | none => exact ⟨s, 800, .inl rfl, by decide, by rw [hothers, h]⟩
  | some t =>
    obtain ⟨i, hi, heff⟩ := List.exists_of_findSome?_eq_some h
    refine ⟨t, 1, .inr ⟨i, ?_, ?_⟩, le_refl 1, by rw [hothers, h]⟩
    · rcases List.mem_append.mp hi with hd | ht
      · exact List.mem_of_mem_drop hd
      · exact List.mem_of_mem_take ht
    · unfold State.effectOf at heff
      split at heff
      · next u hu =>
        split at heff
        · exact absurd heff (by simp)
        · rw [hu, Option.some.inj heff]
      · exact absurd heff (by simp)

/-- A cycle ends after at most one core cycle where a strand has something to do, and otherwise after those given. -/
theorem State.endCycle_idle {s : State} (h : s.slate = []) (n : Nat) : ∃ m, m ≤ n ∧
    s.endCycle n = (s.tick m).startAll.countBlockedAll.select ∧
    ((∃ k ∈ s.cores, ∃ x ∈ k.2.slots, s.ready k.1 x.1 = true ∨ s.starts k.1 x.1 = true) → m ≤ 1) := by
  by_cases hb : (s.cores.any fun k => k.2.slots.any fun x => s.ready k.1 x.1 || s.starts k.1 x.1) = true
  · refine ⟨min n 1, Nat.min_le_left _ _, ?_, fun _ => Nat.min_le_right _ _⟩
    simp only [State.endCycle, h, hb, List.isEmpty_nil, Bool.not_true, Bool.false_eq_true, if_false, if_true]
  · refine ⟨n, le_refl n, ?_, fun ⟨k, hk, x, hx, hor⟩ => absurd ?_ hb⟩
    · simp only [State.endCycle, h, hb, List.isEmpty_nil, Bool.not_true, Bool.false_eq_true, if_false]
    · refine List.any_eq_true.mpr ⟨k, hk, List.any_eq_true.mpr ⟨x, hx, ?_⟩⟩
      rwa [Bool.or_eq_true]

theorem Strand.free_iff (st : Strand) : st.free = true ↔ st.wait = .none := by
  simp [Strand.free]

/-- A strand is as it was. -/
theorem sameStrand_self (st : Strand) : sameStrand st (some st) = true := by
  simp [sameStrand]

theorem State.ready_open {s : State} {c sl : Nat} (h : s.ready c sl = true) :
    ∃ st k, s.strand? c sl = some st ∧ st.wait = .none ∧ st.clause = some k := by
  unfold State.ready at h
  split at h
  · exact absurd h (by simp)
  · next st hst =>
    simp only [Bool.and_eq_true] at h
    obtain ⟨⟨⟨hfree, hclause⟩, -⟩, -⟩ := h
    obtain ⟨k, hk⟩ := Option.isSome_iff_exists.mp hclause
    exact ⟨st, k, hst, st.free_iff.mp hfree, hk⟩

theorem State.starts_header {s : State} {c sl : Nat} (h : s.starts c sl = true) :
    ∃ st, s.strand? c sl = some st ∧ st.wait = .none ∧ st.clause = none ∧ (s.fetchAt c sl).strand? c sl ≠ some st := by
  unfold State.starts at h
  split at h
  · exact absurd h (by simp)
  · next st hst =>
    simp only [Bool.and_eq_true] at h
    obtain ⟨⟨⟨hfree, hclause⟩, -⟩, hother⟩ := h
    refine ⟨st, hst, st.free_iff.mp hfree, Option.isNone_iff_eq_none.mp hclause, fun hsame => ?_⟩
    rw [hsame, sameStrand_self] at hother
    exact absurd hother (by simp)

/-! ### A word placed for the next step -/

/-- A word that an instruction has stands in an open clause, at its only place. -/
theorem guestStrand_word {w : Word} {i : Instr} (h : decode w = .ok i) : (guestStrand (headerOnly w) w).wait = .none ∧
    (guestStrand (headerOnly w) w).clause = some ⟨0x10000#64, guestHeader w, [w], 0⟩ := by
  have hword : headerOnly w = false := by rw [headerOnly, h]
  rw [hword]
  exact ⟨rfl, rfl⟩

theorem State.strand?_seatWord (s : State) (w : Word) : (s.seatWord w).strand? 0 0 = some (guestStrand (headerOnly w) w) := by
  have hseat : (s.seatWord w).strand? 0 0 = (s.modCore 0 fun k =>
      { k with slots := Assoc.set k.slots 0 (guestStrand (headerOnly w) w),
               tlb := ⟨0, false, 0x10000, 65536, 0x10000, true, true, false, 3, true⟩ :: k.tlb }).strand? 0 0 := rfl
  rw [hseat, State.strand?, State.core_modCore]
  exact Assoc.find_set_same _ _ _

/-! ### The clocks stopped -/

theorem step_frozen {s : State} {m : Move} {rest : List Move} (hf : s.freeze.frozen = true) (ha : s.agenda = m :: rest)
    (hm : m.reachesFrozen = false) : step s = if s.freeze.sameCycle = true then match m with
      | .tick _ => .next ({ s with agenda := rest } : State).endFrozen
      | _ => ({ s with agenda := rest } : State).move m
    else .next { s with agenda := rest } := by
  simp only [step, State.run, ha, hf, hm, Bool.not_true, Bool.or_false, Bool.false_eq_true, if_false]
  cases s.freeze.sameCycle
  · simp
  · cases m <;> simp

/-! ### The strands that a quarter selects -/

/-- No strand comes before another that it is behind. -/
theorem Strand.ahead_iff (a b : Strand) : a.ahead b = true ↔
    (a.overdue = true ∧ b.overdue = false) ∨ (a.overdue = b.overdue ∧ a.age ≤ b.age) := by
  unfold Strand.ahead
  cases a.overdue <;> cases b.overdue <;> simp

theorem Strand.ahead_refl (a : Strand) : a.ahead a = true := by
  simp [Strand.ahead_iff]

theorem Strand.ahead_trans {a b c : Strand} (hab : a.ahead b = true) (hbc : b.ahead c = true) : a.ahead c = true := by
  rw [Strand.ahead_iff] at *
  grind

theorem Strand.ahead_total {a b : Strand} (h : ¬ a.ahead b = true) : b.ahead a = true := by
  rw [Strand.ahead_iff] at *
  cases ha : a.overdue <;> cases hb : b.overdue <;> simp_all <;> omega

/-- The strand selected is one of those given and is ahead of them all. -/
theorem selectFirst_spec (xs : List (Nat × Strand)) : match selectFirst xs with
    | none => xs = []
    | some x => x ∈ xs ∧ ∀ y ∈ xs, x.2.ahead y.2 = true := by
  induction xs with
  | nil => rfl
  | cons x xs ih =>
    rw [selectFirst]
    cases h : selectFirst xs with
    | none =>
      rw [h] at ih
      subst ih
      exact ⟨List.mem_singleton_self x, fun y hy => by rw [List.mem_singleton.mp hy]; exact x.2.ahead_refl⟩
    | some y =>
      rw [h] at ih
      obtain ⟨hy, hbest⟩ := ih
      by_cases hxy : x.2.ahead y.2 = true
      · simp only [hxy, if_true]
        refine ⟨List.mem_cons_self, fun z hz => ?_⟩
        rcases List.mem_cons.mp hz with rfl | hz
        · exact z.2.ahead_refl
        · exact Strand.ahead_trans hxy (hbest z hz)
      · simp only [hxy]
        refine ⟨List.mem_cons_of_mem _ hy, fun z hz => ?_⟩
        rcases List.mem_cons.mp hz with rfl | hz
        · exact Strand.ahead_total hxy
        · exact hbest z hz

theorem quarterSlots_ne_nil {xs : List (Nat × Strand)} (h : xs ≠ []) : ∃ x ∈ xs, (∀ y ∈ xs, x.2.ahead y.2 = true) ∧
    quarterSlots xs = x.1 :: packSlots x (128 - x.2.width) xs := by
  have hspec := selectFirst_spec xs
  cases hx : selectFirst xs with
  | none => rw [hx] at hspec; exact absurd hspec h
  | some x =>
    rw [hx] at hspec
    exact ⟨x, hspec.1, hspec.2, by rw [quarterSlots, hx]⟩

/-- Who joins the strand selected: another of those given that packs with it. -/
theorem mem_packSlots {x : Nat × Strand} {room : Nat} {xs : List (Nat × Strand)} {sl : Nat} (h : sl ∈ packSlots x room xs) :
    sl ≠ x.1 ∧ ∃ y ∈ xs, y.1 = sl ∧ y.2.packsWith x.2 = true := by
  induction xs generalizing room with
  | nil => exact absurd h (by simp [packSlots])
  | cons y ys ih =>
    rw [packSlots] at h
    split at h
    · next hy =>
      obtain ⟨hne, hpack, -⟩ := hy
      rcases List.mem_cons.mp h with rfl | h
      · exact ⟨hne, y, List.mem_cons_self, rfl, hpack⟩
      · obtain ⟨hx, z, hz, hrest⟩ := ih h
        exact ⟨hx, z, List.mem_cons_of_mem _ hz, hrest⟩
    · obtain ⟨hx, z, hz, hrest⟩ := ih h
      exact ⟨hx, z, List.mem_cons_of_mem _ hz, hrest⟩

theorem packSlots_subset {x : Nat × Strand} {room : Nat} {xs : List (Nat × Strand)} {sl : Nat} (h : sl ∈ packSlots x room xs) :
    sl ∈ xs.map (·.1) := by
  obtain ⟨-, y, hy, rfl, -⟩ := mem_packSlots h
  exact List.mem_map_of_mem hy

theorem packSlots_nodup (x : Nat × Strand) (room : Nat) {xs : List (Nat × Strand)} (h : (xs.map (·.1)).Nodup) :
    (packSlots x room xs).Nodup := by
  induction xs generalizing room with
  | nil => exact List.nodup_nil
  | cons y ys ih =>
    obtain ⟨hy, hys⟩ := List.nodup_cons.mp h
    rw [packSlots]
    split
    · exact List.nodup_cons.mpr ⟨fun hm => hy (packSlots_subset hm), ih _ hys⟩
    · exact ih _ hys

/-- The lanes of the strands of a list of slots. -/
def lanesIn (xs : List (Nat × Strand)) (slots : List Nat) : Nat :=
  ((xs.filter fun y => slots.contains y.1).map fun y => y.2.width).sum

theorem lanesIn_cons (y : Nat × Strand) (ys : List (Nat × Strand)) (slots : List Nat) :
    lanesIn (y :: ys) slots = (if slots.contains y.1 = true then y.2.width else 0) + lanesIn ys slots := by
  unfold lanesIn
  by_cases h : slots.contains y.1 = true
  · rw [List.filter_cons_of_pos (p := fun y : Nat × Strand => slots.contains y.1) h, if_pos h, List.map_cons, List.sum_cons]
  · rw [List.filter_cons_of_neg (p := fun y : Nat × Strand => slots.contains y.1) h, if_neg h, Nat.zero_add]

/-- A slot that no strand of the list has counts for nothing. -/
theorem lanesIn_absent {ys : List (Nat × Strand)} {sl : Nat} (h : sl ∉ ys.map (·.1)) (slots : List Nat) :
    lanesIn ys (sl :: slots) = lanesIn ys slots := by
  unfold lanesIn
  congr 2
  refine List.filter_congr fun y hy => ?_
  have hne : y.1 ≠ sl := fun he => h (he ▸ List.mem_map_of_mem hy)
  simp [hne]

/-- Those that join have no more lanes than there is room for. -/
theorem lanesIn_packSlots (x : Nat × Strand) (room : Nat) {xs : List (Nat × Strand)} (h : (xs.map (·.1)).Nodup) :
    lanesIn xs (packSlots x room xs) ≤ room := by
  induction xs generalizing room with
  | nil => exact Nat.zero_le _
  | cons y ys ih =>
    obtain ⟨hy, hys⟩ := List.nodup_cons.mp h
    rw [packSlots, lanesIn_cons]
    split
    · next hfit =>
      have hrest := ih (room - y.2.width) hys
      rw [lanesIn_absent hy]
      simp only [List.contains_cons, beq_self_eq_true, Bool.true_or, if_pos]
      omega
    · have habsent : (packSlots x room ys).contains y.1 = false := by
        simpa using fun hm => hy (packSlots_subset hm)
      simpa only [habsent, Bool.false_eq_true, if_false, Nat.zero_add] using ih room hys

/-- A slot of the list adds its strand's lanes. -/
theorem lanesIn_head {xs : List (Nat × Strand)} {x : Nat × Strand} (h : (xs.map (·.1)).Nodup) (hx : x ∈ xs)
    (slots : List Nat) : lanesIn xs (x.1 :: slots) ≤ x.2.width + lanesIn xs slots := by
  induction xs with
  | nil => exact absurd hx (by simp)
  | cons y ys ih =>
    obtain ⟨hy, hys⟩ := List.nodup_cons.mp h
    rw [lanesIn_cons, lanesIn_cons]
    rcases List.mem_cons.mp hx with rfl | hx
    · rw [lanesIn_absent hy]
      simp only [List.contains_cons, beq_self_eq_true, Bool.true_or, if_pos]
      omega
    · have hrest := ih hys hx
      have hne : y.1 ≠ x.1 := fun he => hy (List.mem_map.mpr ⟨x, hx, he.symm⟩)
      have hsame : (x.1 :: slots).contains y.1 = slots.contains y.1 := by simp [hne]
      rw [hsame]
      omega

/-- What a quarter selects. -/
theorem quarterSlots_spec {xs : List (Nat × Strand)} (hne : xs ≠ []) (hnd : (xs.map (·.1)).Nodup)
    (hw : ∀ y ∈ xs, y.2.width ≤ 64) : ∃ x ∈ xs, (quarterSlots xs).head? = some x.1 ∧ (quarterSlots xs).Nodup ∧
    (∀ y ∈ xs, x.2.ahead y.2 = true) ∧
    (∀ sl ∈ quarterSlots xs, ∃ y ∈ xs, y.1 = sl ∧ (y = x ∨ y.2.packsWith x.2 = true)) ∧
    lanesIn xs (quarterSlots xs) ≤ 128 := by
  obtain ⟨x, hx, hbest, hslots⟩ := quarterSlots_ne_nil hne
  rw [hslots]
  refine ⟨x, hx, rfl, List.nodup_cons.mpr ⟨fun hm => (mem_packSlots hm).1 rfl, packSlots_nodup x _ hnd⟩, hbest, ?_, ?_⟩
  · intro sl hsl
    rcases List.mem_cons.mp hsl with rfl | hsl
    · exact ⟨x, hx, rfl, .inl rfl⟩
    · obtain ⟨-, y, hy, he, hpack⟩ := mem_packSlots hsl
      exact ⟨y, hy, he, .inr hpack⟩
  · have hroom := lanesIn_packSlots x (128 - x.2.width) hnd
    have hhead := lanesIn_head hnd hx (packSlots x (128 - x.2.width) xs)
    have hwidth := hw x hx
    omega

theorem Strand.packsWith_iff (a b : Strand) : a.packsWith b = true ↔
    a.launch = b.launch ∧ a.point = b.point ∧ a.group.mode = b.group.mode := by
  simp [Strand.packsWith, and_assoc]

/-- A strand that is ready and not selected is passed over once more. -/
theorem State.strand?_select {s : State} {c sl : Nat} {st : Strand} (h : s.strand? c sl = some st) :
    s.select.strand? c sl = some { st with passed := st.passed +
      (if s.ready c sl = true ∧ (c, sl) ∉ s.selection then 1 else 0) } := by
  have hmap : s.select.strand? c sl = (s.mapStrands fun c sl st =>
      if (s.ready c sl && !s.selection.contains (c, sl)) = true then { st with passed := st.passed + 1 } else st).strand? c sl := rfl
  rw [hmap, State.strand?_mapStrands, h]
  by_cases hskip : s.ready c sl = true ∧ (c, sl) ∉ s.selection
  · have hcond : (s.ready c sl && !s.selection.contains (c, sl)) = true := by simpa using hskip
    rw [Option.map_some, if_pos hcond, if_pos hskip]
  · have hcond : ¬ (s.ready c sl && !s.selection.contains (c, sl)) = true := by simpa using hskip
    rw [Option.map_some, if_neg hcond, if_neg hskip, Nat.add_zero]

theorem Strand.waited_passed (st : Strand) (ps : Nat) : (st.waited ps).passed = st.passed := by
  unfold Strand.waited
  split
  · split <;> rfl
  · rfl

theorem Strand.fallThrough_turn (st : Strand) : st.fallThrough.passed = st.passed ∧ st.fallThrough.urgent = st.urgent := by
  unfold Strand.fallThrough
  split
  · exact ⟨rfl, rfl⟩
  · exact ⟨rfl, rfl⟩

/-- A word that issues ends the count. -/
theorem Strand.retire_atTurn (st : Strand) (f : Flow) : (st.retire f).passed = 0 ∧ (st.retire f).urgent = false := by
  have hturn : st.retire f = st.atTurn.retire f := by unfold Strand.retire Strand.atTurn; rfl
  rw [hturn]
  exact ⟨Strand.keep_retire Strand.passed (fun _ _ => rfl) (fun _ _ => rfl) (fun x => x.fallThrough_turn.1) _ f fun _ _ => rfl,
    Strand.keep_retire Strand.urgent (fun _ _ => rfl) (fun _ _ => rfl) (fun x => x.fallThrough_turn.2) _ f fun _ _ => rfl⟩

end Sys2Proof.Machine

section
open Sys2Proof Sys2Proof.Machine

/-- The order of a package whose clocks run. -/
theorem stepOrder_running :
    (∀ (s : State) (c sl : Nat) (rest : List (Nat × Nat)) (st : Strand) (k : Clause) (i : Instr),
     s.agenda = [] → s.freeze.frozen = false → s.slate = (c, sl) :: rest → s.strand? c sl = some st → st.wait = .none →
     st.clause = some k → decode (k.words.getD k.idx 0#32) = .ok i →
     step s = exec i { s with slate := rest, cur := (c, sl) }) := by
  intro s c sl rest st k i ha hf hslate hst hw hk hd
  have hissue : ({ s with slate := rest } : State).issueAt c sl = _ := State.issueAt_word hst hw hk
  rw [step_default ha hf, State.default, hslate]
  dsimp only
  rw [hissue, hd]

/-- Settles O5: `State.others_spec` and `State.endCycle_idle` give the cycle, `step_frozen` the clocks stopped, and
`quarterSlots_spec` and `State.strand?_select` the selection. -/
theorem stepOrder : Obligations.StepOrder := by
  unfold Obligations.StepOrder
  refine ⟨⟨stepOrder_running, fun s ha hf hs => ?idle, fun s n hs => ?within, fun s n hs => State.endCycle_idle hs n,
    fun s c sl h => State.ready_open h, fun s c sl h => State.starts_header h⟩, fun w i hd => ?placed,
    fun s m rest hf ha hm => ⟨fun hc => ?later, fun hc ht => ?same, fun n hc hs ht => ?ends⟩,
    fun xs hne hnd hw => ?quarter, fun s c sl st h => ⟨rfl, State.strand?_select h⟩, fun st ps => st.waited_passed ps,
    fun st => ?overdue, fun st f => st.retire_atTurn f, fun s st fs h => ?traps⟩
  case idle =>
    obtain ⟨u, n, hu, hn, hothers⟩ := s.others_spec
    refine ⟨u, n, hu, hn, ?_⟩
    rw [step_default ha hf, State.default, hs]
    exact congrArg _ hothers
  case within =>
    have hne : s.slate.isEmpty = false := by simpa using hs
    simp [State.endCycle, hne]
  case placed =>
    obtain ⟨hwait, hclause⟩ := guestStrand_word hd
    exact stepOrder_running _ 0 0 [] _ _ i rfl rfl rfl (State.strand?_seatWord _ _) hwait hclause hd
  case later => rw [step_frozen hf ha hm, if_neg (by simp [hc])]
  case same =>
    rw [step_frozen hf ha hm, if_pos hc]
    cases m
    case tick n => exact absurd rfl (ht n)
    all_goals rfl
  case ends =>
    subst ht
    obtain ⟨hother, h9, h8⟩ := flightStatus_bits s
    refine ⟨_, ?_, hother, h8, h9⟩
    have hend : ({ s with agenda := rest } : State).endFrozen = ({ s with agenda := rest } : State).stopClocks := by
      simp [State.endFrozen, hs]
    have hstop : ({ s with agenda := rest } : State).stopClocks = _ := State.stopClocks_now hf hc
    rw [step_frozen hf ha hm, if_pos hc, hend, hstop]
    rfl
  case quarter =>
    obtain ⟨x, hx, hhead, hnodup, hbest, hjoin, hlanes⟩ := quarterSlots_spec hne hnd hw
    refine ⟨x, hx, hhead, hnodup, fun y hy ho => ?_, fun y hy ho hoy => ?_, fun sl hsl => ?_, hlanes⟩
    · have h := (Strand.ahead_iff _ _).mp (hbest y hy)
      simp_all
    · have h := (Strand.ahead_iff _ _).mp (hbest y hy)
      simp_all
    · obtain ⟨y, hy, he, hor⟩ := hjoin sl hsl
      exact ⟨y, hy, he, hor.imp_right (Strand.packsWith_iff _ _).mp⟩
  case overdue => simp [Strand.overdue]
  case traps => simp only [State.trapWord, h, Bool.false_eq_true, if_false]; rfl

end
end

section
/-! SUPPORT. A strand with no live lane, and MMSP there (R241, R254, R255). -/

namespace Sys2Proof.Machine

/-- The word of MMSP with d 1, a 2 and b 6. -/
def mmspWord : Word := (encode (.mmsp 1#6 2#6 6#8)).getD 0#32

/-- A strand whose eight lanes have exited, at MMSP on one block of accumulator rows under i8x4, with its record at scratch 0. -/
def spentStrand : Strand :=
  { guestStrand false mmspWord with
    exited := 0xFF#64, v := [(6, .uniform 1#32)],
    group := { (guestStrand false mmspWord).group with mode := BitVec.ofNat 32 (8 * 7), g := [(1, 0x2000#64)] } }

/-- It issues on core 0, whose first granule of scratch its block holds: the record there has K 0. -/
def spentState : State :=
  State.reset.modCore 0 fun k =>
    { k with slots := [(0, spentStrand)], buffers := [⟨0, 1, 1, 0, 0#64, some 0, false, none, false⟩] }

/-- Entries in the matrix queue of core 0 that a step leaves. -/
def queuedAfter (r : Result) : Nat :=
  match r with
  | .next t => (t.core 0).matrix.queue.length
  | _ => 0

/-- What MMSP names and reads there. -/
abbrev spentUse : Use := { reads := [6], gRead := [1, 2], gDest := [1] }

theorem spentStrand_ready : Ready (.mmsp 1#6 2#6 6#8) spentUse { always := true, whole := true } spentStrand spentState := by
  refine ⟨by decide +kernel, by decide +kernel, .inl rfl, fun _ g hg => ?_, .inr (by decide +kernel), by decide +kernel⟩
  rcases List.mem_cons.mp hg with rfl | hg
  · decide +kernel
  · rw [List.mem_singleton.mp hg]
    decide +kernel

theorem spentStrand_matReady : MatReady (.mmsp 1#6 2#6 6#8) spentUse ⟨false, matRows 0 1⟩ true spentStrand spentState :=
  ⟨spentStrand_ready, by decide +kernel, by decide +kernel, by decide +kernel, fun _ => by decide +kernel, fun _ => by decide +kernel⟩

/-- Without a live lane no lane takes the trap, and the word joins the queue. -/
theorem queuedAfter_mmsp_spent : queuedAfter (exec (.mmsp 1#6 2#6 6#8) spentState) = 1 := by decide +kernel

theorem queuedAfter_trap_spent :
    queuedAfter (.next (spentState.trapWord spentStrand (faultIn spentStrand.live .malformedMetadata))) = 0 := by decide +kernel

end Sys2Proof.Machine

section
open Sys2Proof Sys2Proof.Machine

/-- Refutes O48: the statement is of every strand, also of one with no live lane. In `spentState` the record of MMSP has K 0,
so that its metadata fail, but the trap has no lane to be delivered to: the word joins the matrix queue. -/
theorem not_matrixWords : ¬ Obligations.MatrixWords := by
  unfold Obligations.MatrixWords
  rintro ⟨-, hsparse⟩
  have hjoins := (hsparse spentState spentStrand 1#6 2#6 6#8 ⟨0, 0, 0, 0, 0⟩ spentStrand_matReady (by decide +kernel)
    (by decide +kernel) (by decide +kernel) (by decide +kernel)).2 (by decide +kernel)
  have htrap := queuedAfter_trap_spent
  rw [← hjoins, queuedAfter_mmsp_spent] at htrap
  exact absurd htrap (by decide)

end

end

section
/-! SUPPORT. A list of tables that is not in ascending order, and a store of two lanes there (R163, R177). -/

namespace Sys2Proof.Machine

/-- A descriptor of an indexed table of one row of 64 bytes in each page. -/
def pageDesc : TableDesc := ⟨2, 0, 0, 0, 64, 0, 0, 0, [], 0, 2048, 0⟩

/-- A table over pages, with row 0 live. -/
def pageTable (pages : List Nat) : Table :=
  ⟨1, 0, pageDesc, 0x20000, pages, [(0, ⟨.live, 0, 0#32⟩)], [], ⟨[], []⟩, ⟨[], []⟩, ⟨[], []⟩, []⟩

/-- ST of a word in lanes 0 and 1, to pages 3 and 2. -/
def pageStore : Op :=
  { slot := 0, gen := 0#8, launch := 0, serial := 0, instr := .st 4#8 10#7 0#8, mode := 0#32, lanes := 3#64, todo := 3#64,
    vals := [(0, [0x30000#32, 0#32, 7#32]), (1, [0x20000#32, 0#32, 7#32])], gvals := [], flag := 15, uniform := false,
    flags := 0#5, clause := 0#64, idx := 0, domain := 0#16, keyid := 0#10, priv := .u, results := [], gresult := none,
    faults := [], remote := [] }

/-- Tables 5 and 3, in this order: both hold page 2, and table 3 page 3. The store of two lanes is in flight. -/
def descendingTables : State :=
  { State.reset.modCore 0 fun k =>
      { k with ops := [pageStore], tlb := [⟨0, false, 0x20000, 0x20000, 0x20000, true, true, true, 3, true⟩] } with
    tables := [(5, pageTable [2]), (3, pageTable [3, 2])] }

/-- The version of row 0 of table 5. -/
def State.version5 (s : State) : BitVec 32 := ((Assoc.find s.tables 5).map fun t => (t.rowAt 0).version).getD 0#32

/-- That version after a step. -/
def versionAfter (r : Result) : BitVec 32 :=
  match r with
  | .next t => t.version5
  | _ => 0#32

/-- Where the lanes store. -/
def pageStorePlace (l _i : Nat) : Nat := if l = 0 then 0x30000 else 0x20000

theorem pageStore_mayPerform : MayPerform descendingTables 0 0 pageStore :=
  ⟨by decide +kernel, by decide +kernel, ⟨rfl, rfl⟩, by decide +kernel, by decide +kernel, fun _ => rfl⟩

theorem pageStore_reaches : ∀ l ∈ lanesOf pageStore.todo, ∀ i < (pageStore.data l).length,
    descendingTables.reaches (pageStore.who 0) .write (pageStore.addr l + 4 * i) (pageStorePlace l i) := by
  have hnear : ∀ l ∈ [0, 1], ∀ i < 1, pageStorePlace l i % 4 = 0 ∧
      descendingTables.sectorGood (pageStore.who 0) (pageStorePlace l i / 32) = true ∧
      isFar (pageStore.addr l + 4 * i) = false ∧ badNear (pageStore.addr l + 4 * i) = false ∧
      descendingTables.translate (pageStore.who 0) (pageStore.addr l + 4 * i) .write =
        (descendingTables, .ok (pageStorePlace l i)) := by decide +kernel
  have hlanes : lanesOf pageStore.todo = [0, 1] := by decide +kernel
  have hwords : ∀ l ∈ [0, 1], (pageStore.data l).length = 1 := by decide +kernel
  intro l hl i hi
  rw [hlanes] at hl
  rw [hwords l hl] at hi
  obtain ⟨hpa, hgood, hfar, hbad, htr⟩ := hnear l hl i hi
  exact ⟨hpa, hgood, .inl ⟨hfar, hbad, htr⟩⟩

theorem pageStore_fields : ∀ l ∈ lanesOf pageStore.todo, ∀ p ∈ descendingTables.lanePlaces 0 pageStore l,
    p.hitsField 1 = false := by decide +kernel

theorem versionAfter_pageStore :
    versionAfter (exec (.tableOpComplete 0 0 (~~~ 0#64) false) descendingTables) = 0#32 := by decide +kernel

end Sys2Proof.Machine

section
open Sys2Proof Sys2Proof.Machine

/-- Refutes O30: the statement is of every state, also of one whose list of tables is not in ascending order. In
`descendingTables` the version that lane 0 raises puts table 3 before table 5, so that the place of lane 1, in a page that both
hold, is in table 5 before the step and in table 3 as the lane is performed: the row of table 5 keeps its version. -/
theorem not_performedAccesses : ¬ Obligations.PerformedAccesses := by
  unfold Obligations.PerformedAccesses
  rintro ⟨hlanes, -⟩
  obtain ⟨-, hst, -⟩ := hlanes descendingTables 0 0 pageStore false pageStorePlace pageStore_mayPerform
  obtain ⟨t, ⟨hexec, -⟩, -, hversions, -⟩ :=
    hst 4#8 10#7 0#8 rfl (by decide +kernel) pageStore_fields pageStore_reaches
  obtain ⟨y, hy, hrow⟩ := hversions 5 (pageTable [2]) rfl
  have hafter := versionAfter_pageStore
  rw [hexec] at hafter
  have hcount : (((lanesOf pageStore.todo).flatMap fun l => rowsOf (descendingTables.lanePlaces 0 pageStore l)).filter
      fun p => p.old.isNone && p.num == 5 && p.row == 0).length = 1 := by decide +kernel
  have hversion : (y.rowAt 0).version = 1#32 := by
    have hrow0 := hrow 0
    rw [hcount] at hrow0
    rw [hrow0]
    decide +kernel
  have hread : t.version5 = (y.rowAt 0).version := by rw [State.version5, hy]; rfl
  rw [show versionAfter (.next t) = t.version5 from rfl, hread, hversion] at hafter
  exact absurd hafter (by decide)

end

end

section
/-! SUPPORT. A launch whose number is another's place in the list of launches, and the dispatch of its block (R97, R98). -/

namespace Sys2Proof.Machine

/-- A launch with a block left, of number 1. -/
def waitingLaunch : Launch := { guestLaunch with number := 1, next := some [0, 0, 0, 0] }

/-- A launch with none left, of number 2. -/
def spentLaunch : Launch := { guestLaunch with number := 2 }

/-- The launch of number 1 stands in the list at 0, and that of number 2 at 1. -/
def shiftedLaunches : State := { State.reset with launches := [(0, waitingLaunch), (1, spentLaunch)] }

/-- Threads of the launch that stands at 1. -/
def State.threadsAt1 (s : State) : Nat := ((Assoc.find s.launches 1).map Launch.threads).getD 0

/-- Those after a step. -/
def threadsAfter (r : Result) : Nat :=
  match r with
  | .next t => t.threadsAt1
  | _ => 0

/-- The block is counted to the launch of number 2, at 2: what stands at 1 keeps its eight threads. -/
theorem threadsAfter_dispatch : threadsAfter (exec .dispatchBlock shiftedLaunches) = 8 := by decide +kernel

theorem findPlace_shiftedLaunches : ∃ c0 c, shiftedLaunches.findPlace waitingLaunch.record = some (c0, c) := by
  have hplace : (shiftedLaunches.findPlace waitingLaunch.record).isSome = true := by decide +kernel
  obtain ⟨⟨c0, c⟩, h⟩ := Option.isSome_iff_exists.mp hplace
  exact ⟨c0, c, h⟩

end Sys2Proof.Machine

section
open Sys2Proof Sys2Proof.Machine

/-- Refutes O52: the statement is of every state, also of one in which a launch does not stand at its number. In
`shiftedLaunches` the block of launch 1 is placed, and its threads are counted to what is found at 1, which is launch 2 and is
put back at 2. -/
theorem not_launches : ¬ Obligations.Launches := by
  unfold Obligations.Launches
  rintro ⟨-, -, hdispatch, -⟩
  obtain ⟨c0, c, hplace⟩ := findPlace_shiftedLaunches
  obtain ⟨t, b, x, hexec, -, -, -, -, -, -, -, hx, hthreads, -⟩ :=
    (hdispatch shiftedLaunches waitingLaunch [0, 0, 0, 0] (by decide +kernel) rfl).2 c0 c spentLaunch hplace (by decide +kernel)
  have hafter := threadsAfter_dispatch
  rw [hexec] at hafter
  have hread : threadsAfter (.next t) = x.threads := by
    show t.threadsAt1 = _
    have hx1 : Assoc.find t.launches 1 = some x := hx
    rw [State.threadsAt1, hx1]
    rfl
  have hsum : spentLaunch.threads + waitingLaunch.record.threads = 16 := by decide +kernel
  rw [hread, hthreads, hsum] at hafter
  exact absurd hafter (by decide)

end

end

section
/-! SUPPORT. A block table that does not start at a multiple of 8 bytes, and a promotion there (R292, R295). -/

namespace Sys2Proof.Machine

/-- A promotion of block 0 of this package, bound to a register. -/
def blockPromotion : Future :=
  { serial := 1, kind := .promo (BitVec.ofNat 64 (2 ^ 63)), done := false, status := 0#64, binding := [(0#64, 5)], units := 0,
    cancel := false, slot := 0, gen := 0#8, launch := 0, block := 0#64, domain := 0#16, priv := .u, keyid := 0#10, ranges := [],
    entries := 0 }

/-- The entry of block 0: in tier 1, of the smallest class. -/
def blockZero : BlockEntry := ⟨true, 1, 0, 2 ^ 40⟩

/-- The entry of block 0 lies across sectors 0 and 1, and the free slot of tier 0 starts at sector 0. -/
def acrossSectors : State :=
  let s := (State.reset.modCore 0 fun k => { k with futures := [(0, blockPromotion)] }).modStack 0 fun x => x.setSlots 0 0 [0]
  { s with blockBase := 28, mem := s.mem.poke 28 (bytesOf 8 blockZero.code) }

/-- Who promotes. -/
def promoter : Who := ⟨0, 0#16, 0#10, .u, 0⟩

/-- The state in which the entry has been read. -/
def entryRead : State := (acrossSectors.readEntry promoter 0).1

theorem readEntry_acrossSectors : acrossSectors.readEntry promoter 0 = (entryRead, .ok blockZero) :=
  Prod.ext rfl (by decide +kernel)

/-- The sectors of the block copied. -/
def blockCopied : State × List Sector × Bool := State.copySectors promoter (entryRead.usedSectors blockZero) entryRead

/-- The copies. -/
def blockCopies : List Sector := blockCopied.2.1

theorem copySectors_entryRead : State.copySectors promoter (entryRead.usedSectors blockZero) entryRead =
    (blockCopied.1, blockCopies, blockCopied.2.2) := by
  have heta (p : State × List Sector × Bool) : p = (p.1, p.2.1, p.2.2) := rfl
  exact heta blockCopied

/-- Sector 1 of memory after a step. -/
def sector1After (r : Result) : Option Sector :=
  match r with
  | .next t => some (t.mem.sector 1)
  | _ => none

/-- The second half of the entry is written over the second sector of the copy. -/
theorem sector1After_promotion : sector1After (exec (.promoComplete 0 0) acrossSectors) ≠ blockCopies[1]? := by decide +kernel

end Sys2Proof.Machine

section
open Sys2Proof Sys2Proof.Machine

/-- Refutes O43: the statement is of every state, also of one whose block table does not start at a multiple of 8. In
`acrossSectors` the entry of block 0 lies across two sectors, and the block is promoted to a slot that starts at the first of
these: the entry is written over the copy in the second, which the statement does not leave out. -/
theorem not_operationsWithFutures : ¬ Obligations.OperationsWithFutures := by
  unfold Obligations.OperationsWithFutures
  rintro ⟨-, hcompletes⟩
  obtain ⟨-, -, hpromo⟩ :=
    hcompletes acrossSectors 0 0 blockPromotion (by decide +kernel) rfl rfl (by decide +kernel) (by decide +kernel)
  obtain ⟨-, -, hmoves⟩ := hpromo (BitVec.ofNat 64 (2 ^ 63)) entryRead blockZero rfl (by decide +kernel) (by decide +kernel)
    (by decide +kernel) (by decide +kernel) readEntry_acrossSectors (by decide +kernel)
  obtain ⟨t, hexec, -, -, -, -, -, hsectors⟩ :=
    hmoves 0 [] _ _ _ (by decide +kernel) (by decide +kernel) (by decide +kernel) (by decide +kernel) copySectors_entryRead
  have hsome : ∃ y, blockCopies[1]? = some y := Option.isSome_iff_exists.mp (by decide +kernel)
  obtain ⟨y, hy⟩ := hsome
  have hafter := sector1After_promotion
  rw [hexec, hy] at hafter
  exact hafter (congrArg some (hsectors 1 y hy (by decide +kernel)))

end

end

section
/-! SUPPORT. A POST to another package whose lanes still to be performed are not among the lanes of its operation (R347, R355). -/

namespace Sys2Proof.Machine

/-- A POST on a launch of package 1 that waits for the answer to request 7: lane 0 is still to be performed, but no lane is of
the operation. -/
def laneLostPost : Op :=
  { slot := 0, gen := 0#8, launch := 2 * launchSpan, serial := 0, instr := .post 0#6, mode := 0#32, lanes := 0#64, todo := 1#64,
    vals := [(0, [0#32, 0#32, 0#32, 0#32])], gvals := [], flag := 15, uniform := false, flags := 0#5, clause := 0#64, idx := 0,
    domain := 0#16, keyid := 0#10, priv := .u, results := [], gresult := none, faults := [], remote := [7] }

/-- Its request, sent at time 0. -/
def postRequest : Request := ⟨7, 0, 1, 0, 0, 0⟩

/-- The POST in flight, 1 ms after its request was sent. -/
def postUnanswered : State :=
  let s := State.reset.modCore 0 fun k => { k with ops := [laneLostPost] }
  { s with timePs := 1000000000, links := { s.links with requests := [postRequest] } }

/-- The first operation of core 0 after a step. -/
def firstOpAfter (r : Result) : Option Op :=
  match r with
  | .next t => (t.core 0).ops[0]?
  | _ => none

/-- The POST is done: the fault is one of each of its lanes, and it has none. -/
theorem firstOpAfter_timeout : firstOpAfter (exec (.linkRequestTimeout 7) postUnanswered) = none := by decide +kernel

end Sys2Proof.Machine

section
open Sys2Proof Sys2Proof.Machine

/-- Refutes O58: the statement is of every operation, also of a POST whose lane still to be performed is not among the lanes of
the operation. The fault of a POST is that of each lane of the operation (R347): the one in `postUnanswered` faults in none when
its request times out, and leaves the list of its core. -/
theorem not_linksAndHost : ¬ Obligations.LinksAndHost := by
  unfold Obligations.LinksAndHost
  rintro ⟨-, htimeout, -⟩
  obtain ⟨-, hlate⟩ := htimeout postUnanswered 7 postRequest (by decide +kernel)
  obtain ⟨t, hexec, -, hops⟩ := hlate (by decide +kernel)
  obtain ⟨-, -, x, hx, -, -⟩ := hops 0 laneLostPost (by decide +kernel) (by decide +kernel) (by decide +kernel)
    (by decide +kernel) (by decide +kernel)
  have hafter := firstOpAfter_timeout
  rw [hexec] at hafter
  exact absurd (hafter.symm.trans hx) (by simp)

end

end

section
/-! SUPPORT. A strand saved leaves its slot, and a saved one takes a slot again (R323-R325, R371). -/

namespace Sys2Proof.Machine

/-! ### A strand saved -/

theorem State.stopMmsp_core {β : Type} (p : CoreSt → β) (h : ∀ (k : CoreSt) x, p { k with futures := x } = p k) (s : State)
    (c sl : Nat) (gen : BitVec 8) : p ((s.stopMmsp c sl gen).core c) = p (s.core c) := by
  unfold State.stopMmsp
  rw [State.core_modCore]
  refine foldl_keep p _ (fun k q => ?_) _ _
  split
  · exact h _ _
  · rfl

theorem State.parkBuffers_core {β : Type} (p : CoreSt → β) (h : ∀ (k : CoreSt) x y, p { k with buffers := x, clearing
    := y } = p k)
    (s : State) (c launch : Nat) (block : DWord) : p ((s.parkBuffers c launch block).1.core c) = p (s.core c) := by
  unfold State.parkBuffers
  split
  · rfl
  · refine foldl_keep (fun t : State => p (t.core c)) _ (fun t b => ?_) _ _
    exact State.core_modCore_keep p t c (fun k => h k _ _) c

/-- What a note says of the strand that was saved, apart from the names that its queued work has. -/
structure SavedNote.Notes (n : SavedNote) (st : Strand) (sl : Nat) (gen : BitVec 8)
    (bar : Option (Nat × BitVec 32 × LaneMask)) : Prop where
  launch : n.launch = st.launch
  block : n.block = st.block
  lineage : n.lineage = st.lineage
  slot : n.slot = sl
  gen : n.gen = gen
  exited : n.exited = st.exited
  departed : n.departed = st.departed
  bar : n.bar = bar
  broken : n.broken = false

theorem CoreSt.find_pruneNames (k : CoreSt) {sl : Nat} (h : Assoc.find k.slots sl = none) :
    Assoc.find k.pruneNames.slots sl = none := by
  unfold CoreSt.pruneNames
  rw [Assoc.find_map_snd, h]
  rfl

theorem CoreSt.mem_pruneNames {k : CoreSt} {x : SavedNote} (h : x ∈ k.saved) :
    { x with names := x.names.filter k.queueNames } ∈ k.pruneNames.saved := List.mem_map.mpr ⟨x, h, rfl⟩

/-- Slot and generation after a strand is swapped out, and its note. -/
theorem State.swapOut_spec (s : State) (c sl : Nat) (st : Strand) (bar : Option (Nat × BitVec 32 × LaneMask)) :
    (s.swapOut c sl st bar).strand? c sl = none ∧
    ((s.swapOut c sl st bar).core c).gen sl = (s.core c).gen sl + 1#8 ∧
    ∃ n ∈ ((s.swapOut c sl st bar).core c).saved, n.Notes st sl ((s.core c).gen sl) bar := by
  unfold State.swapOut
  dsimp only
  obtain ⟨u, hu⟩ : ∃ u, u = (s.dropInquiry c sl).stopMmsp c sl ((s.core c).gen sl) := ⟨_, rfl⟩
  have hugens : (u.core c).gens = (s.core c).gens := by
    rw [hu, State.stopMmsp_core CoreSt.gens fun _ _ => rfl, State.dropInquiry_core CoreSt.gens fun _ _ => rfl]
  rw [← hu]
  obtain ⟨v, hv⟩ : ∃ v : State, v = u.modCore c fun k =>
      { k with
        slots := Assoc.erase k.slots sl
        gens := Assoc.put 0#8 k.gens sl ((s.core c).gen sl + 1#8)
        cursors := k.cursors.filter fun x => !(x.2.slot == sl && x.2.gen == (s.core c).gen sl) } := ⟨_, rfl⟩
  rw [← hv]
  obtain ⟨r, hr⟩ : ∃ r, r = if st.member then v.parkBuffers c st.launch st.block else (v, []) := ⟨_, rfl⟩
  have hcore {β : Type} (p : CoreSt → β) (h : ∀ (k : CoreSt) x y, p { k with buffers := x, clearing := y } = p k) :
      p (r.1.core c) = p (v.core c) := by
    rw [hr]
    split
    · exact State.parkBuffers_core p h v c _ _
    · rfl
  have hslots : Assoc.find (r.1.core c).slots sl = none := by
    rw [hcore CoreSt.slots fun _ _ _ => rfl, hv, State.core_modCore]
    exact Assoc.find_erase_same _ _
  have hgen : (r.1.core c).gen sl = (s.core c).gen sl + 1#8 := by
    rw [CoreSt.gen, hcore CoreSt.gens fun _ _ _ => rfl, hv, State.core_modCore]
    exact Assoc.get_put_same _ _ _ _
  rw [← hr]
  refine ⟨?_, ?_, ?_⟩
  · rw [State.strand?, State.core_modCore]
    exact CoreSt.find_pruneNames _ hslots
  · rw [State.core_modCore]
    exact hgen
  · rw [State.core_modCore]
    exact ⟨_, CoreSt.mem_pruneNames (List.mem_append_right _ (List.mem_singleton_self _)), rfl, rfl, rfl, rfl, rfl,
      rfl, rfl, rfl,
      rfl⟩

/-- The wait of a strand whose save failed. -/
def waitKept (bar : Option (Nat × BitVec 32 × LaneMask)) : Wait :=
  match bar with
  | some (n, ph, m) => .barw n ph m
  | none => .none

/-- A save that failed: the strand waits no more and is asked no more. -/
def State.saveFailed (s : State) (c sl : Nat) (st : Strand) (bar : Option (Nat × BitVec 32 × LaneMask)) : State :=
  (s.setStrand c sl { st with wait := waitKept bar, preempt := none }).count c 0x0007

/-- What a save of a strand writes. -/
def State.saveArea (s : State) (c sl : Nat) (st : Strand) (x : SaveSet) : List Byte :=
  saveBytes (s.core c) c sl st x (if st.member then s.heldHandles c st.launch st.block else [])

/-- STRAND_SAVE of a strand with nothing in flight. -/
theorem execStrandSave_ready {s : State} {c sl : Nat} {st : Strand} {kind : Nat} {live : BitVec 256} {gran : DWord}
    {bar : Option (Nat × BitVec 32 × LaneMask)} {p : Preempt} (hst : s.strand? c sl = some st)
    (hwait : st.wait = .saving kind live gran bar) (hp : st.preempt = some p) (hops : (s.core c).strandOps sl = [])
    (hcopies : s.saveWaits c sl st = false) :
    execStrandSave c sl s =
      let x := st.saveSet kind live gran bar
      let fail (s : State) (k : Cause) (at_ : Nat) : Result :=
        .next ((s.saveFailed c sl st bar).answerSave c sl p (0x3C + k.code * 256 + at_ % 2 ^ 52 / 16 * 65536))
      match (lanesOf x.granules).findSome? fun j => (s.core c).badRange (j * granuleBytes) granuleBytes with
      | some k => fail s k 0
      | none =>
        match s.engineWrite (s.engineWho c p.domain (p.future.map (·.2)) st.launch) p.domain p.area (s.saveArea c sl
          st x) with
        | (s, .error (f, va)) => fail s f.1 va
        | (s, .ok ()) =>
            .next (((s.count c (if x.kind = 2 then 0x0006 else if x.kind = 1 then 0x0005 else 0x0004)).swapOut c sl st
            x.bar).answerSave c sl p 0) := by
  unfold execStrandSave
  simp only [hst, hwait, hp, hops, hcopies]
  cases bar <;> rfl

/-! ### A saved strand restored -/

theorem putGranules_saved (bs : List Byte) (start : Nat) (bufs : List Buffer) (i : Nat) (js : List Nat) (k : CoreSt) :
    (putGranules bs start bufs i js k).saved = k.saved := by
  induction js generalizing i k with
  | nil => rfl
  | cons j js ih =>
    rw [putGranules]
    rw [ih]
    split <;> rfl

theorem State.strand?_breakStrand {s : State} {c sl : Nat} {st : Strand} (h : s.strand? c sl = some st) (lanes : LaneMask) :
    (s.breakStrand c sl lanes).strand? c sl = some { st with wait := .trapping } := by
  unfold State.breakStrand
  simp only [h]
  rw [State.strand?, State.core_modCore]
  exact State.strand?_setStrand _ _ _ _

theorem State.breakStrand_saved (s : State) (c sl : Nat) (lanes : LaneMask) :
    ((s.breakStrand c sl lanes).core c).saved = (s.core c).saved := by
  unfold State.breakStrand
  split
  · rfl
  · rw [State.core_modCore, State.setStrand, State.core_modCore]

/-- The core of a restored strand with the strand's buffers and without its note. -/
def State.regained (s : State) (c : Nat) (x : SavedNote) (bs : List Byte) : State :=
  let parked := (s.core c).parkedOf c x
  let bufs := (parked ++ (s.core c).buffers.filter fun b => x.parked.contains (b.handle c)).map fun b => { b with
    parked := false }
  s.modCore c fun k =>
    putGranules bs (areaGranules bs) bufs 0 (lanesOf (areaMask bs))
      { k.unpark parked with saved := k.saved.filter fun y => y != x }

theorem State.reseat_eq (s : State) (c sl : Nat) (x : SavedNote) (bs : List Byte) : s.reseat c sl x bs =
    let u := s.regained c x bs
    let v := { u.setStrand c sl (restored bs x u.nextAge x.bar) with nextAge := u.nextAge + 1 }
    match x.bar, x.broken with
    | some (_, _, m), true => v.breakStrand c sl m
    | _, _ => v := rfl

/-- A strand restored with its registers and its wait, its note gone. -/
theorem State.reseat_spec (s : State) (c sl : Nat) (x : SavedNote) (bs : List Byte) :
    (x.bar = none ∨ x.broken = false → (s.reseat c sl x bs).strand? c sl = some (restored bs x s.nextAge x.bar)) ∧
    (∀ n ph m, x.bar = some (n, ph, m) → x.broken = true → (s.reseat c sl x bs).strand? c sl =
      some { restored bs x s.nextAge x.bar with wait := .trapping }) ∧
    x ∉ ((s.reseat c sl x bs).core c).saved := by
  rw [State.reseat_eq]
  dsimp only
  obtain ⟨u, hu⟩ : ∃ u, u = s.regained c x bs := ⟨_, rfl⟩
  have hsaved : x ∉ (u.core c).saved := by
    rw [hu, State.regained, State.core_modCore, putGranules_saved]
    simp
  have hage : u.nextAge = s.nextAge := by rw [hu]; rfl
  rw [← hu]
  obtain ⟨v, hv⟩ : ∃ v : State, v = { u.setStrand c sl (restored bs x u.nextAge x.bar) with nextAge := u.nextAge + 1 }
    := ⟨_, rfl⟩
  have hstrand : v.strand? c sl = some (restored bs x s.nextAge x.bar) := by
    rw [hv, ← hage]
    exact State.strand?_setStrand _ _ _ _
  have hvsaved : x ∉ (v.core c).saved := by
    rw [hv]
    exact (congrArg (x ∉ ·) (State.setStrand_core CoreSt.saved (fun _ _ => rfl) _ _ _ _ _)).mpr hsaved
  rw [← hv]
  split
  · next n ph m hbar hbroken =>
    refine ⟨fun h => ?_, fun _ _ _ _ _ => State.strand?_breakStrand hstrand _, ?_⟩
    · rcases h with h | h
      · simp [hbar] at h
      · simp [hbroken] at h
    · rw [State.breakStrand_saved]
      exact hvsaved
  · next hnot =>
    exact ⟨fun _ => hstrand, fun n ph m hbar hbroken => absurd hbroken (hnot n ph m hbar), hvsaved⟩

/-- STRAND_RESTORE of a core with a request: how each is answered. -/
theorem execStrandRestore_cons {s : State} {c : Nat} {r : Restore} {rest : List Restore} (hr : (s.core c).restores = r
    :: rest) :
    execStrandRestore c s =
      let s := s.modCore c fun k => { k with restores := rest }
      let done (s : State) (status : Nat) (ident : Word) : Result := .next (s.answerRestore c r status ident)
      if r.status ≠ 0 then done s r.status 0#32
      else match (s.core c).noteOf r.bytes with
        | none => done s 0x3E 0#32
        | some x =>
          if areaAt r.bytes 60 2 ≠ c ∨ !areaLegal r.bytes x ∨ s.launchEnded x.launch then done s 0x3E 0#32
          else if !s.restoreFits c (8 * 2 ^ areaAt r.bytes 5 1) (areaAt r.bytes 6 2) ||
              ((s.core c).parkedOf c x).any (fun b => !(s.core c).unparkable b) then done s 0x3D 0#32
          else
            let sl := (s.core c).freeSlots.headD 0
            let ident := c * 2 ^ 16 + sl * 2 ^ 8 + ((s.core c).gen sl).toNat
            match s.engineWrite (s.engineWho c r.domain r.future 0) r.domain (r.area + 96) (bytesOf 8 ident) with
            | (s, .error (f, _)) => done s f.1.code 0#32
            | (s, .ok ()) => done (s.reseat c sl x r.bytes) 0 (BitVec.ofNat 32 ident) := by
  unfold execStrandRestore
  rw [hr] <;> rfl

end Sys2Proof.Machine

section
open Sys2Proof Sys2Proof.Machine

/-- PREEMPT_REQUEST and FULL_SAVE_TIMEOUT. -/
theorem preemptRequest_and_timeout (s : State) (c sl : Nat) :
     (s.kuenrex = false → ∀ gen area, exec (.preemptRequest c sl gen area) s = .next s) ∧
     (∀ st gen area, s.kuenrex = true → s.strand? c sl = some st → ((s.core c).gen sl).toNat = gen → st.preempt = none →
       exec (.preemptRequest c sl gen area) s =
         .next (s.setStrand c sl { st with preempt := some ⟨area, none, none, 0⟩ })) ∧
     (∀ gen area, s.kuenrex = true → s.strand? c sl = none ∨ ((s.core c).gen sl).toNat ≠ gen ∨
         (∃ st p, s.strand? c sl = some st ∧ st.preempt = some p) →
       ∃ t, exec (.preemptRequest c sl gen area) s = .next t ∧
         (t.core c).events = (s.core c).events ++ [.requestRefused sl] ∧ t.strand? c sl = s.strand? c sl) ∧
     (∀ st p, s.strand? c sl = some st → st.preempt = some p → 100000000 ≤ p.waited → st.mode = .u → st.depth = 0 →
       let g := if st.member then s.heldGranules c st.launch st.block else 0#64
       let all : BitVec 256 := BitVec.ofNat 256 (2 ^ st.nregs - 1)
       (st.wait = .none → exec (.fullSaveTimeout c sl) s =
         .next (s.setStrand c sl { st with wait := .saving 1 all g none })) ∧
       ∀ n ph m, st.wait = .bar n ph m ∨ st.wait = .barw n ph m → exec (.fullSaveTimeout c sl) s =
         .next (s.setStrand c sl { st with wait := .saving 1 all g (some (n, ph, m)) })) := by
  have hrequest (gen area : Nat) : exec (.preemptRequest c sl gen area) s = execPreemptRequest c sl gen area s := rfl
  have htimeout : exec (.fullSaveTimeout c sl) s = execFullSaveTimeout c sl s := rfl
  refine ⟨fun hk gen area => ?_, fun st gen area hk hst hgen hp => ?_, fun gen area hk hno => ?_,
    fun st p hst hp hwaited hmode hdepth => ?_⟩
  · rw [hrequest]
    unfold execPreemptRequest
    split <;> simp [hk]
  · rw [hrequest]
    simp [execPreemptRequest, hst, hk, hgen, hp]
  · refine ⟨s.modCore c fun k => { k with events := k.events ++ [.requestRefused sl] }, ?_, by rw [State.core_modCore],
      by rw [State.strand?, State.core_modCore]; rfl⟩
    rw [hrequest]
    unfold execPreemptRequest
    cases hst : s.strand? c sl with
    | none => simp [hk]
    | some st =>
      have hno' : ((s.core c).gen sl).toNat ≠ gen ∨ st.preempt.isSome = true := by
        rcases hno with h | h | ⟨st', p, h, hp⟩
        · simp [hst] at h
        · exact .inl h
        · rw [hst] at h
          obtain rfl := Option.some.inj h
          exact .inr (by simp [hp])
      simp only [hk, Bool.not_true, Bool.false_eq_true, if_false]
      rw [if_pos hno']
  · have hgo : ¬ (p.waited < 100000000 ∨ st.mode ≠ .u ∨ st.depth ≠ 0) := by
      rintro (h | h | h)
      · omega
      · exact h hmode
      · exact h hdepth
    refine ⟨fun hwait => ?_, fun n ph m hwait => ?_⟩
    · rw [htimeout]
      simp only [execFullSaveTimeout, hst, hp]
      rw [if_neg hgo]
      simp only [hwait]
    · rw [htimeout]
      simp only [execFullSaveTimeout, hst, hp]
      rw [if_neg hgo]
      rcases hwait with hwait | hwait <;> simp only [hwait]

/-- KUENREX_RESTORE. -/
theorem kuenrexRestore_joins (s : State) (c area : Nat) (hk : s.kuenrex = true) :
    let w := s.engineWho c none none 0
    let joins (s1 : State) (bs : List Byte) (status : Nat) := ∃ t : State, exec (.kuenrexRestore c area) s = .next t ∧
      (t.core c).restores = (s1.core c).restores ++ [⟨area, none, none, bs, status⟩] ∧ t.mem = s1.mem
    (∀ s1 f, s.engineRead w none area 1536 = (s1, .error f) → joins s1 [] f.1.code) ∧
    (∀ s1 head, s.engineRead w none area 1536 = (s1, .ok head) → areaShape head = false → joins s1 head 0) ∧
    (∀ s1 head s2, s.engineRead w none area 1536 = (s1, .ok head) → areaShape head = true →
      (∀ bs, s1.engineRead w none area (areaGranules head + granuleBytes * popCount (areaMask head)) = (s2, .ok bs) →
        joins s2 bs 0) ∧
      (∀ f, s1.engineRead w none area (areaGranules head + granuleBytes * popCount (areaMask head)) = (s2, .error f) →
        joins s2 [] f.1.code)) := by
  have hexec : exec (.kuenrexRestore c area) s = .next (s.queueRestore c area none none) := by
    show execKuenrexRestore c area s = _
    rw [execKuenrexRestore, if_pos hk]
  have hjoins {s1 : State} {bs : List Byte} {status : Nat} (h : s.queueRestore c area none none =
      s1.modCore c fun k => { k with restores := k.restores ++ [⟨area, none, none, bs, status⟩] }) :
      ∃ t : State, exec (.kuenrexRestore c area) s = .next t ∧
        (t.core c).restores = (s1.core c).restores ++ [⟨area, none, none, bs, status⟩] ∧ t.mem = s1.mem := by
    rw [h] at hexec
    exact ⟨_, hexec, by rw [State.core_modCore], rfl⟩
  refine ⟨fun s1 f hread => hjoins ?_, fun s1 head hread hshape => hjoins ?_, fun s1 head s2 hread hshape =>
    ⟨fun bs hmore => hjoins ?_, fun f hmore => hjoins ?_⟩⟩
  · simp only [State.queueRestore, hread]
  · simp only [State.queueRestore, hread, hshape, Bool.false_eq_true, if_false]
  · simp only [State.queueRestore, hread, hshape, hmore, if_true]
  · simp only [State.queueRestore, hread, hshape, hmore, if_true]

/-- Settles O53: a save that succeeds takes the strand out of its slot with `State.swapOut_spec`, one that fails leaves it, and a
restore puts it back with `State.reseat_spec`; the other clauses follow the branches of their steps. -/
theorem savesAndRestores : Obligations.SavesAndRestores := by
  unfold Obligations.SavesAndRestores
  refine ⟨preemptRequest_and_timeout, fun s c sl st kind live gran bar p hst hwait hp hops hcopies => ?_, fun s c =>
    ⟨fun hk area => ?_, kuenrexRestore_joins s c, fun r rest hr => ?_⟩⟩
  · have hexec : exec (.strandSave c sl) s = execStrandSave c sl s := rfl
    rw [execStrandSave_ready hst hwait hp hops hcopies] at hexec
    dsimp only at hexec ⊢
    have hstays (s1 : State) : (s1.saveFailed c sl st bar).mem = s1.mem ∧
        (s1.saveFailed c sl st bar).strand? c sl = some { st with preempt := none, wait := waitKept bar } :=
      ⟨rfl, by rw [State.saveFailed, State.strand?_count, State.strand?_setStrand]⟩
    refine ⟨fun s1 hbad hwrite => ?_, fun k hbad => ?_, fun s1 f va hbad hwrite => ?_⟩
    · rw [hbad] at hexec
      rw [State.saveArea, hwrite] at hexec
      dsimp only at hexec
      obtain ⟨hnone, hgen, n, hmem, hn⟩ := State.swapOut_spec (s1.count c
        (if (st.saveSet kind live gran bar).kind = 2 then 0x0006 else if (st.saveSet kind live gran bar).kind = 1 then 0x0005
          else 0x0004)) c sl st (st.saveSet kind live gran bar).bar
      have hcount : ∀ sel, ((s1.count c sel).core c).gen sl = (s1.core c).gen sl := fun sel => by
        rw [State.count, State.core_modCore]; rfl
      rw [hcount] at hgen hn
      obtain ⟨hlaunch, hblock, hlineage, hslot, hngen, hexited, hdeparted, hnbar, hbroken⟩ := hn
      exact ⟨_, n, hexec, hnone, hgen, by rw [State.mem_swapOut, State.count_mem], hmem, hlaunch, hblock, hlineage,
        hslot, hngen,
        hexited, hdeparted, hnbar, hbroken⟩
    · rw [hbad] at hexec
      exact ⟨s.saveFailed c sl st bar, hexec, hstays s⟩
    · rw [hbad] at hexec
      rw [State.saveArea, hwrite] at hexec
      exact ⟨s1.saveFailed c sl st bar, hexec, hstays s1⟩
  · show execKuenrexRestore c area s = _
    rw [execKuenrexRestore, if_neg (by simp [hk])]
  · have hexec : exec (.strandRestore c) s = execStrandRestore c s := rfl
    rw [execStrandRestore_cons hr] at hexec
    dsimp only at hexec ⊢
    refine ⟨fun hstatus => ?_, fun hstatus hnote => ?_, fun x hstatus hnote => ?_⟩
    · rw [hexec, if_pos hstatus]
    · rw [hexec, if_neg (not_not.mpr hstatus), hnote]
    · rw [if_neg (not_not.mpr hstatus), hnote] at hexec
      dsimp only at hexec
      refine ⟨fun hbad => ?_, fun hcore hlegal hended => ?_⟩
      · rw [hexec, if_pos (by simpa using hbad)]
      · rw [if_neg (by simp [hcore, hlegal, hended])] at hexec
        refine ⟨fun hroom => ?_, fun sl more s3 hroom hslots hwrite => ?_⟩
        · rw [hexec, if_pos]
          by_contra hfits
          simp only [Bool.or_eq_true, Bool.not_eq_true', List.any_eq_true, not_or, not_exists, not_and,
            Bool.not_eq_false] at hfits
          exact hroom hfits
        · obtain ⟨hfits, hparked⟩ := hroom
          rw [if_neg, hslots] at hexec
          · rw [List.headD_cons, hwrite] at hexec
            obtain ⟨hwhole, hbroken, hnote⟩ := State.reseat_spec s3 c sl x r.bytes
            exact ⟨_, hexec, hwhole, hbroken, hnote, State.mem_reseat _ _ _ _ _⟩
          · simp only [Bool.or_eq_true, Bool.not_eq_true', List.any_eq_true, not_or, not_exists, not_and, Bool.not_eq_false]
            exact ⟨hfits, hparked⟩

end

end

section
/-! SUPPORT. How a departure begins (R267, R268, R271, R374). -/

namespace Sys2Proof.Machine

/-! ### What the beginning of a departure leaves as it was -/

/-- A state with the strands, futures, memory and flacons under way of another. -/
structure State.SameStrands (s t : State) : Prop where
  cur     : t.cur = s.cur
  mem     : t.mem = s.mem
  transit : t.transit = s.transit
  slots   : ∀ j, (t.core j).slots = (s.core j).slots
  futures : ∀ j, (t.core j).futures = (s.core j).futures

namespace State.SameStrands

theorem refl (s : State) : s.SameStrands s := ⟨rfl, rfl, rfl, fun _ => rfl, fun _ => rfl⟩

theorem trans {s t u : State} (h : s.SameStrands t) (h' : t.SameStrands u) : s.SameStrands u :=
  ⟨h'.cur.trans h.cur, h'.mem.trans h.mem, h'.transit.trans h.transit, fun j => (h'.slots j).trans (h.slots j),
    fun j => (h'.futures j).trans (h.futures j)⟩

theorem strand? {s t : State} (h : s.SameStrands t) (c sl : Nat) : t.strand? c sl = s.strand? c sl :=
  State.strand?_congr h.slots c sl

theorem here? {s t : State} (h : s.SameStrands t) : t.here? = s.here? := by
  rw [State.here?, State.here?, h.cur, h.strand?]

/-- The same strand put in the same slot. -/
theorem setStrand {s t : State} (h : s.SameStrands t) (c sl : Nat) (x : Strand) :
    (s.setStrand c sl x).SameStrands (t.setStrand c sl x) := by
  refine ⟨h.cur, h.mem, h.transit, fun j => ?_, fun j => ?_⟩
  · unfold State.setStrand
    by_cases hj : c = j
    · subst hj
      rw [State.core_modCore, State.core_modCore, h.slots]
    · rw [State.core_modCore_other _ _ hj, State.core_modCore_other _ _ hj, h.slots]
  · rw [State.setStrand_core CoreSt.futures fun _ _ => rfl, State.setStrand_core CoreSt.futures fun _ _ => rfl, h.futures]

/-- What is worked out from the futures of a core alone. -/
theorem takenBy {s t : State} (h : s.SameStrands t) (j c : Nat) (st : Strand) (live : DWord) :
    (t.core j).takenBy c st live = (s.core j).takenBy c st live := by
  unfold CoreSt.takenBy CoreSt.carriedAt? CoreSt.boundTo
  rw [h.futures]

end State.SameStrands

section
variable {s : State}

theorem State.sameStrands_modCore (c : Nat) {f : CoreSt → CoreSt} (hs : ∀ k, (f k).slots = k.slots)
    (hf : ∀ k, (f k).futures = k.futures) : s.SameStrands (s.modCore c f) :=
  ⟨rfl, rfl, rfl, State.core_modCore_keep CoreSt.slots s c hs, State.core_modCore_keep CoreSt.futures s c hf⟩

theorem State.sameStrands_count (c sel n : Nat) : s.SameStrands (s.count c sel n) :=
  State.sameStrands_modCore c (fun _ => rfl) fun _ => rfl

theorem State.sameStrands_modStack (n : Nat) (f : Stack → Stack) : s.SameStrands (s.modStack n f) :=
  ⟨rfl, rfl, rfl, fun _ => rfl, fun _ => rfl⟩

theorem State.sameStrands_sendTo (pkg : Nat) (b : FlitBody) : s.SameStrands (s.sendTo pkg b) :=
  ⟨State.sendTo_keep State.cur (fun _ _ => rfl) _ _ _, State.sendTo_keep State.mem (fun _ _ => rfl) _ _ _,
    State.sendTo_keep State.transit (fun _ _ => rfl) _ _ _,
    fun j => State.sendTo_keep (fun t => (t.core j).slots) (fun _ _ => rfl) _ _ _,
    fun j => State.sendTo_keep (fun t => (t.core j).futures) (fun _ _ => rfl) _ _ _⟩

theorem State.sameStrands_foldl {α : Type} (f : State → α → State) (h : ∀ (t : State) a, t.SameStrands (f t a)) (xs : List α)
    (s : State) : s.SameStrands (xs.foldl f s) := by
  induction xs generalizing s with
  | nil => exact .refl s
  | cons x xs ih => exact (h s x).trans (ih _)

end

/-! ### The entries of the block table that are read -/

theorem State.served_findBlock (s : State) (w : Who) (n : Nat) : s.Served (s.findBlock w n).1 := by
  have hconsume := State.served_consume (s := s) w (s.entrySector n)
  unfold State.findBlock
  split
  · next t c ht => rw [ht] at hconsume; exact hconsume
  · next t ht =>
    rw [ht] at hconsume
    split <;> exact hconsume

theorem State.served_readHomes (s : State) (w : Who) (xs : List Nat) : s.Served (s.readHomes w xs) := by
  refine State.served_foldl _ (fun t x => ?_) xs s
  split
  · exact State.served_findBlock _ _ _
  · exact .refl _

/-- References that name no block are no reading. -/
theorem State.readHomes_zeros (s : State) (w : Who) (xs : List Nat) (h : ∀ x ∈ xs, x = 0) : s.readHomes w xs = s := by
  unfold State.readHomes
  refine foldl_fixed _ s xs fun x hx => ?_
  rw [h x hx]
  rfl

/-! ### The departure -/

/-- The inquiry of a strand is given up. -/
theorem State.dropInquiry_setStrand (s : State) (c sl : Nat) (st : Strand) (q : Option Inquiry) :
    (s.setStrand c sl { st with inquiry := none }).SameStrands ((s.setStrand c sl { st with inquiry := q
      }).dropInquiry c sl) := by
  unfold State.dropInquiry State.modStrand
  simp only [State.strand?_setStrand, Option.bind_some]
  cases q with
  | none => exact .refl _
  | some q =>
    rw [State.setStrand_setStrand]
    refine State.sameStrands_foldl _ (fun t a => ?_) _ _
    split
    · exact State.sameStrands_sendTo _ _
    · exact .refl _

theorem State.takeGranted_spec {s : State} {c sl : Nat} {st : Strand} (hst : s.strand? c sl = some st)
    (fs : List (Nat × Bound × Fate)) :
    (s.setStrand c sl { st with inquiry := none }).SameStrands (s.takeGranted c sl fs) := by
  unfold State.takeGranted State.modStrand
  simp only [hst]
  exact State.dropInquiry_setStrand s c sl st _

/-- The steering units move to the cores that lanes depart for. -/
def State.steered (s : State) (fs : List (Nat × Bound × Fate)) : State :=
  fs.foldl (fun s x => match x.2.1, x.2.2 with
    | .stack h, .departs _ k => s.modStack h fun y => { y with steer := k }
    | _, _ => s) s

theorem State.sameStrands_steered (s : State) (fs : List (Nat × Bound × Fate)) : s.SameStrands (s.steered fs) := by
  refine State.sameStrands_foldl _ (fun t x => ?_) _ _
  split
  · exact State.sameStrands_modStack _ _
  · exact .refl _

/-- Slots are reserved at the cores of this package that lanes depart for. -/
def State.reserves (s : State) (ds : List Dep) : State :=
  ds.foldl (fun s x =>
    if x.pkg = Config.packageNumber then s.modCore x.core fun k => { k with reserved := k.reserved + 1 } else s) s

theorem State.sameStrands_reserves (s : State) (ds : List Dep) : s.SameStrands (s.reserves ds) := by
  refine State.sameStrands_foldl _ (fun t x => ?_) _ _
  split
  · exact State.sameStrands_modCore _ (fun _ => rfl) fun _ => rfl
  · exact .refl _

/-- The strand of a departure that has begun. -/
def Strand.departs (st : Strand) (d : Departure) : Strand := { st with inquiry := none, region := none, wait := .depart d }

section
variable {s : State} {c sl : Nat} {st : Strand} {fs : List (Nat × Bound × Fate)} (live resume : DWord) (idx : Nat)
  (stay : Bool)

/-- Refusals are counted, and what the departure has asked is given up. -/
theorem State.refusals_spec (hst : s.strand? c sl = some st) (xs : List (Nat × Nat)) :
    (s.setStrand c sl { st with inquiry := none }).SameStrands
      ((xs.foldl (fun s x => s.count c (0x4010 + x.2)) s).takeGranted c sl fs) := by
  have hcount : s.SameStrands (xs.foldl (fun s x => s.count c (0x4010 + x.2)) s) :=
    State.sameStrands_foldl _ (fun t x => State.sameStrands_count _ _ _) _ _
  exact (hcount.setStrand c sl _).trans (State.takeGranted_spec ((hcount.strand? c sl).trans hst) fs)

/-- A departure of no lane: the strand waits for nothing. -/
theorem State.beginDeparture_none (hst : s.strand? c sl = some st) (hfs : departing fs = []) :
    (s.setStrand c sl { st with inquiry := none }).SameStrands (s.beginDeparture c sl fs live resume idx stay) := by
  unfold State.beginDeparture
  simp only [hfs, List.isEmpty_nil, if_true]
  exact State.refusals_spec hst _

/-- A departure of some lanes: the strand waits for it. -/
theorem State.beginDeparture_some (hst : s.strand? c sl = some st) (hfs : departing fs ≠ []) :
    ∃ u : State, (s.setStrand c sl { st with inquiry := none }).SameStrands u ∧
      s.beginDeparture c sl fs live resume idx stay = u.setStrand c sl
        (st.departs ⟨departing fs, live, (u.core c).takenBy c st live, resume, idx, stay⟩) := by
  obtain ⟨u1, hu1⟩ : ∃ u, u = ((refusedLanes fs).foldl (fun s x => s.count c (0x4010 + x.2)) s).takeGranted c sl fs :=
    ⟨_, rfl⟩
  have h1 := State.refusals_spec (fs := fs) hst (refusedLanes fs)
  rw [← hu1] at h1
  have h2 := State.sameStrands_steered u1 fs
  have h3 := State.sameStrands_reserves (u1.steered fs) (departing fs)
  obtain ⟨u3, hu3⟩ : ∃ u, u = (u1.steered fs).reserves (departing fs) := ⟨_, rfl⟩
  obtain ⟨u, hu⟩ : ∃ u, u = if u3.writesDone c sl (maskOf ((departing fs).map (·.lane))) = true then u3 else u3.count
    c 0x4005 :=
    ⟨_, rfl⟩
  have h4 : u3.SameStrands u := by
    rw [hu]
    split
    · exact .refl _
    · exact State.sameStrands_count _ _ _
  have hbegin : s.beginDeparture c sl fs live resume idx stay = u.modStrand c sl fun st =>
      { st with wait := .depart ⟨departing fs, live, (u.core c).takenBy c st live, resume, idx, stay⟩, region := none } := by
    rw [hu, hu3, hu1]
    unfold State.beginDeparture
    exact if_neg (by simpa using hfs)
  rw [← hu3] at h3
  have hall := h1.trans (h2.trans (h3.trans h4))
  refine ⟨u, hall, ?_⟩
  have hstrand : u.strand? c sl = some { st with inquiry := none } :=
    (hall.strand? c sl).trans (State.strand?_setStrand _ _ _ _)
  rw [hbegin, State.modStrand, hstrand]
  rfl

end

/-! ### GO, GOM and GOTO -/

section
variable {i : Instr} {u : Use} {live : Strand → DWord} {trap : Bool} {lanes : Strand → State → List (Nat × Bound × Nat)}
  {stay : Strand → State → Bool} {s : State} {st : Strand}

/-- A departure while a flag is clear (R268). -/
theorem departWord_flagClear (r : Ready i u {} st s) (hact : st.active ≠ 0#64) (hflags : st.flags ≠ 0xFFF#12) :
    departWord i u live trap lanes stay s = .next (s.trapWord st (faultIn st.active .unwaitedRead)) := by
  have hcheck : checkWord st i u true = none := r.check
  unfold departWord
  simp only [r.here, hcheck, Option.isNone_none, Bool.true_and]
  rw [(bne_iff_ne).mpr hact, (bne_iff_ne).mpr hflags]
  rfl

/-- The checks of a departure. -/
def departChecks (live : Strand → DWord) (trap : Bool) (fates : Strand → State → Option (List (Nat × Bound × Fate)))
    (st : Strand) (s : State) : List (List LaneFault) :=
  [if st.selectsBeyond (live st) then faultIn st.active .illegalInstruction else [],
   if trap then (refusedLanes ((fates st s).getD [])).map fun x => ⟨x.1, .migrationRefused, x.2⟩ else []]

/-- The fates of the lanes of a departure. -/
def departFates (live : Strand → DWord) (lanes : Strand → State → List (Nat × Bound × Nat)) (st : Strand) (s : State) :
    Option (List (Nat × Bound × Fate)) := s.fates? s.cur.1 st (live st) false (lanes st s)

/-- The effect of a departure. -/
def departEffect (live : Strand → DWord) (lanes : Strand → State → List (Nat × Bound × Nat)) (stay : Strand → State → Bool) :
    Effect := fun st s =>
  match departFates live lanes st s with
  | none => .error fun s => s.inquire s.cur.1 s.cur.2 (live st) false (lanes st s)
  | some fs =>
    .ok ((s.readHomes (st.who s.cur.1) ((lanes st s).map fun x => x.2.2)).beginDeparture s.cur.1 s.cur.2 fs (live st)
      st.nextPoint.1 st.nextPoint.2 (stay st s), .seq)

/-- A departure with every flag set is issued as other words are. -/
theorem departWord_flagsSet (hhere : s.here? = some st) (hflags : st.flags = 0xFFF#12) :
    departWord i u live trap lanes stay s =
      issue i u {} (departChecks live trap (departFates live lanes)) (departEffect live lanes stay) id s := by
  unfold departWord
  simp only [hhere, hflags, bne_self_eq_false, Bool.and_false]
  rfl

theorem departChecks_refused {fates : Strand → State → Option (List (Nat × Bound × Fate))}
    (hlive : st.selectsBeyond (live st) = false) (htrap : trap = true) :
    firstFault (departChecks live trap fates st s) =
      (refusedLanes ((fates st s).getD [])).map fun x => ⟨x.1, .migrationRefused, x.2⟩ := by
  unfold departChecks
  rw [hlive, htrap]
  exact firstFault_single _

theorem departChecks_pass {fates : Strand → State → Option (List (Nat × Bound × Fate))}
    (hlive : st.selectsBeyond (live st) = false) (hpass : trap = false ∨ refusedLanes ((fates st s).getD []) = []) :
    firstFault (departChecks live trap fates st s) = [] := by
  unfold departChecks
  rw [hlive]
  rcases hpass with h | h
  · rw [h]; rfl
  · rw [h]
    cases trap <;> rfl

/-- A lane refused traps GOM, and GOTO with its trap bit. -/
theorem departWord_refused (r : Ready i u {} st s) (hflags : st.flags = 0xFFF#12) (hlive : st.selectsBeyond (live st)
    = false)
    (htrap : trap = true) (hrefused : refusedLanes ((departFates live lanes st s).getD []) ≠ []) :
    departWord i u live trap lanes stay s = .next (s.trapWord st
      ((refusedLanes ((departFates live lanes st s).getD [])).map fun x => ⟨x.1, .migrationRefused, x.2⟩)) := by
  have hfault := departChecks_refused (s := s) (fates := departFates live lanes) hlive htrap
  rw [departWord_flagsSet r.here hflags, issue_trap r (by rw [hfault]; simpa using hrefused), hfault]

/-- A departure whose fates another package decides asks it. -/
theorem departWord_asks (r : Ready i u {} st s) (hflags : st.flags = 0xFFF#12) (hlive : st.selectsBeyond (live st) = false)
    (hpass : trap = false ∨ refusedLanes ((departFates live lanes st s).getD []) = [])
    (hnone : departFates live lanes st (s.before u {} st) = none) :
    departWord i u live trap lanes stay s = .next (s.inquire s.cur.1 s.cur.2 (live st) false (lanes st s)) := by
  rw [departWord_flagsSet r.here hflags, issue_ready r (departChecks_pass hlive hpass)]
  unfold departEffect
  rw [hnone]

/-- A departure whose fates are known begins. -/
theorem departWord_begins {fs : List (Nat × Bound × Fate)} (r : Ready i u {} st s) (hflags : st.flags = 0xFFF#12)
    (hlive : st.selectsBeyond (live st) = false)
    (hpass : trap = false ∨ refusedLanes ((departFates live lanes st s).getD []) = [])
    (hsome : departFates live lanes st (s.before u {} st) = some fs) :
    departWord i u live trap lanes stay s = .next ((((s.before u {} st).readHomes (st.who s.cur.1)
      ((lanes st (s.before u {} st)).map fun x => x.2.2)).beginDeparture s.cur.1 s.cur.2 fs (live st) st.nextPoint.1
        st.nextPoint.2
      (stay st (s.before u {} st))).retireWord .seq) := by
  rw [departWord_flagsSet r.here hflags, issue_ready r (departChecks_pass hlive hpass)]
  unfold departEffect
  rw [hsome]
  dsimp only
  rw [State.before_cur]

end

/-- What is carried is that of the registers that a marked last read and a departure leave as they are. -/
theorem CoreSt.takenBy_freeMarked (k : CoreSt) (c : Nat) (st : Strand) (u : Use) (live : DWord) :
    k.takenBy c (st.freeMarked u) live = k.takenBy c st live := by
  unfold CoreSt.takenBy CoreSt.carriedAt? Strand.gr
  rw [Strand.freeMarked_lineage, Strand.freeMarked_group]

/-- The strand at a departure that has begun, and memory. -/
theorem State.began_here {s : State} {u : Use} {st : Strand} (hcur : s.here? = some (st.ready u {}))
    (fs : List (Nat × Bound × Fate)) (w : Who) (xs : List Nat) (live resume : DWord) (idx : Nat) (stay : Bool) :
    let t := ((s.readHomes w xs).beginDeparture s.cur.1 s.cur.2 fs live resume idx stay).retireWord .seq
    t.mem = (s.readHomes w xs).mem ∧
    (departing fs = [] → t.here? = some ({ st.freeMarked u with inquiry := none }.retire .seq)) ∧
    (departing fs ≠ [] → t.here? = some (((st.freeMarked u).departs
      ⟨departing fs, live, (t.core s.cur.1).takenBy s.cur.1 st live, resume, idx, stay⟩).retire .seq)) := by
  obtain ⟨v, hv⟩ : ∃ v, v = s.readHomes w xs := ⟨_, rfl⟩
  have hserved : s.Served v := hv ▸ State.served_readHomes s w xs
  have hstrand : v.strand? s.cur.1 s.cur.2 = some (st.freeMarked u) :=
    (hserved.accessed.strand? _ _).trans hcur
  have hvcur : v.cur = s.cur := hserved.accessed.cur
  rw [← hv]
  dsimp only
  by_cases hfs : departing fs = []
  · have hsame := State.beginDeparture_none live resume idx stay hstrand hfs
    have hhere : (v.beginDeparture s.cur.1 s.cur.2 fs live resume idx stay).here? = some { st.freeMarked u with
      inquiry := none } := by
      rw [hsame.here?, ← hvcur]
      exact State.here?_setHere v _
    exact ⟨(State.retireWord_mem _ _).trans hsame.mem, fun _ => State.retireWord_here hhere _, fun h => absurd hfs h⟩
  · obtain ⟨x, hsame, hbegin⟩ := State.beginDeparture_some live resume idx stay hstrand hfs
    have hxcur : x.cur = s.cur := hsame.cur.trans hvcur
    have hhere : (v.beginDeparture s.cur.1 s.cur.2 fs live resume idx stay).here? = some ((st.freeMarked u).departs
        ⟨departing fs, live, (x.core s.cur.1).takenBy s.cur.1 (st.freeMarked u) live, resume, idx, stay⟩) := by
      rw [hbegin, ← hxcur]
      exact State.here?_setHere x _
    refine ⟨(State.retireWord_mem _ _).trans ((congrArg State.mem hbegin).trans hsame.mem), fun h => absurd h hfs, fun
      _ => ?_⟩
    have htaken : (((v.beginDeparture s.cur.1 s.cur.2 fs live resume idx stay).retireWord .seq).core s.cur.1).takenBy
      s.cur.1 st live =
        (x.core s.cur.1).takenBy s.cur.1 (st.freeMarked u) live := by
      rw [CoreSt.takenBy_freeMarked, State.retireWord_core (fun k => k.takenBy s.cur.1 st live) fun _ _ => rfl, hbegin,
        State.setStrand_core (fun k => k.takenBy s.cur.1 st live) fun _ _ => rfl]
    rw [htaken]
    exact State.retireWord_here hhere _

end Sys2Proof.Machine

section
open Sys2Proof Sys2Proof.Machine

/-- The departure that a word begins, with what the statement says of it. -/
theorem departWord_departs (s : State) (st : Strand) (i : Instr) (u : Use) (live : Strand → DWord) (trap : Bool)
    (lanes : Strand → State → List (Nat × Bound × Nat)) (stay : Strand → State → Bool)
    (hexec : exec i s = departWord i u live trap lanes stay s) (hlanes : ∀ y : State, lanes st y = y.leaving i st)
    (hreads : ∀ (y : State) (w : Who), y.readHomes w ((y.leaving i st).map fun x => x.2.2) = y.readHomes w (y.refsOf i st))
    (r : Ready i u {} st s) (hact : st.active ≠ 0#64) :
    (st.flags ≠ 0xFFF#12 → exec i s = .next (s.trapWord st (faultIn st.active .unwaitedRead))) ∧
    (st.flags = 0xFFF#12 → st.selectsBeyond (live st) = false →
      let y := s.before u {} st
      let refused := refusedLanes ((s.fatesOf i st (live st)).getD [])
      (trap = true → refused ≠ [] → exec i s = .next (s.trapWord st
        (refused.map fun x => ⟨x.1, .migrationRefused, x.2⟩))) ∧
      (trap = false ∨ refused = [] → y.fatesOf i st (live st) = none →
        exec i s = .next (s.inquire s.cur.1 s.cur.2 (live st) false (s.leaving i st))) ∧
      (∀ fs, trap = false ∨ refused = [] → y.fatesOf i st (live st) = some fs →
        let mem := (y.readHomes (st.who s.cur.1) (y.refsOf i st)).mem
        (departing fs = [] → ∃ t, exec i s = .next t ∧
          t.here? = some ({ st.freeMarked u with inquiry := none }.retire .seq) ∧ t.mem = mem) ∧
        (departing fs ≠ [] → ∃ (t : State) (x : Strand) (stay : Bool), exec i s = .next t ∧ t.here? = some (x.retire .seq) ∧
          t.mem = mem ∧ x.region = none ∧
          x.wait = .depart ⟨departing fs, live st, (t.core s.cur.1).takenBy s.cur.1 st (live st), st.nextPoint.1,
            st.nextPoint.2,
            stay⟩ ∧
          x = { st.freeMarked u with region := x.region, wait := x.wait, inquiry := none }))) := by
  have hfates (y : State) : departFates live lanes st y = y.fatesOf i st (live st) := by
    rw [departFates, State.fatesOf, hlanes]
  refine ⟨fun hflags => hexec.trans (departWord_flagClear r hact hflags), fun hflags hlive => ?_⟩
  dsimp only
  rw [← hfates, ← hfates]
  refine ⟨fun htrap hrefused => hexec.trans (departWord_refused r hflags hlive htrap hrefused), fun hpass hnone => ?_,
    fun fs hpass hsome => ?_⟩
  · rw [hexec, departWord_asks r hflags hlive hpass hnone, hlanes]
  · have hbegins := hexec.trans (departWord_begins (stay := stay) r hflags hlive hpass hsome)
    rw [hlanes, hreads] at hbegins
    have hhere := State.began_here (State.before_here s u {} st) fs (st.who s.cur.1) ((s.before u {} st).refsOf i st)
      (live st)
      st.nextPoint.1 st.nextPoint.2 (stay st (s.before u {} st))
    rw [State.before_cur] at hhere
    obtain ⟨hmem, hnone, hsome⟩ := hhere
    exact ⟨fun hfs => ⟨_, hbegins, hnone hfs, hmem⟩, fun hfs => ⟨_, _, _, hbegins, hsome hfs, hmem, rfl, rfl, rfl⟩⟩

/-- Settles O50: GO, GOM and GOTO are one word, of the lanes that `State.leaving` gives; what it does follows its checks and the
fates of those lanes (`departWord_departs`). -/
theorem migrationWords : Obligations.MigrationWords := by
  unfold Obligations.MigrationWords
  rintro s st i u live trap (⟨a, b, hi, rfl, rfl⟩ | ⟨d, row, col, sel, rfl, rfl, rfl, rfl⟩) r hact
  · rcases hi with ⟨rfl, rfl⟩ | ⟨rfl, rfl⟩
    · exact departWord_departs s st (.go a b) _ (fun st => st.gr b.toNat) false (goLanes (2 * a.toNat)) (fun _ _ =>
        false) rfl
        (fun _ => rfl) (fun _ _ => rfl) r hact
    · exact departWord_departs s st (.gom a b) _ (fun st => st.gr b.toNat) true (goLanes (2 * a.toNat)) (fun _ _ =>
        false) rfl
        (fun _ => rfl) (fun _ _ => rfl) r hact
  · refine departWord_departs s st (.goto d row col sel) _ (fun st => st.gr d.toNat) (sel == 1#1) _ _ rfl (fun _ => rfl)
      (fun y w => ?_) r hact
    refine State.readHomes_zeros y w _ fun x hx => ?_
    obtain ⟨z, hz, rfl⟩ := List.mem_map.mp hx
    unfold State.leaving at hz
    dsimp only at hz
    split at hz
    · simp at hz
    · obtain ⟨l, -, rfl⟩ := List.mem_map.mp hz
      rfl

end

end

section
/-! SUPPORT. What breaks, ends and completions of futures leave of the slots of a core, and the release of a slot (R92, R205,
R318, R337, R343). -/

namespace Sys2Proof.Machine

/-! ### Slots that stay as full as they were -/

/-- A core whose slots are as full, and of the same generations, as another's, with the same origin copies. -/
structure CoreSt.SlotsKept (k k' : CoreSt) : Prop where
  full    : ∀ sl, (Assoc.find k'.slots sl).isSome = (Assoc.find k.slots sl).isSome
  gens    : k'.gens = k.gens
  origins : k'.origins = k.origins

/-- A state whose slots are as full as another's, with the same origin copies, memory and flacons under way. -/
structure State.SlotsKept (s t : State) : Prop where
  cores   : ∀ c, (s.core c).SlotsKept (t.core c)
  mem     : t.mem = s.mem
  transit : t.transit = s.transit

theorem CoreSt.SlotsKept.refl (k : CoreSt) : k.SlotsKept k := ⟨fun _ => rfl, rfl, rfl⟩

theorem CoreSt.SlotsKept.trans {k k' k'' : CoreSt} (h : k.SlotsKept k') (h' : k'.SlotsKept k'') : k.SlotsKept k'' :=
  ⟨fun sl => (h'.full sl).trans (h.full sl), h'.gens.trans h.gens, h'.origins.trans h.origins⟩

theorem CoreSt.SlotsKept.of_eq {k k' : CoreSt} (hs : k'.slots = k.slots) (hg : k'.gens = k.gens) (ho : k'.origins =
    k.origins) :
    k.SlotsKept k' := ⟨fun sl => by rw [hs], hg, ho⟩

theorem Assoc.isSome_find_of_mem {α : Type} {m : List (Nat × α)} {x : Nat × α} (h : x ∈ m) : (Assoc.find m x.1).isSome
    = true := by
  induction m with
  | nil => simp at h
  | cons y m ih =>
    rw [Assoc.find]
    split
    · rfl
    · rcases List.mem_cons.mp h with rfl | h
      · contradiction
      · exact ih h

theorem Assoc.isSome_find_set {α : Type} (m : List (Nat × α)) {n : Nat} (v : α) (h : (Assoc.find m n).isSome = true)
    (j : Nat) :
    (Assoc.find (Assoc.set m n v) j).isSome = (Assoc.find m j).isSome := by
  by_cases hj : n = j
  · subst hj
    rw [Assoc.find_set_same, h]
    rfl
  · rw [Assoc.find_set_other _ _ hj]

/-- A strand replaced by another. -/
theorem CoreSt.slotsKept_set (k : CoreSt) {sl : Nat} (st : Strand) (h : (Assoc.find k.slots sl).isSome = true) :
    k.SlotsKept { k with slots := Assoc.set k.slots sl st } := ⟨Assoc.isSome_find_set _ _ h, rfl, rfl⟩

/-- A fold whose steps keep a core's slots, for elements that name slots which are full. -/
theorem CoreSt.slotsKept_foldl {α : Type} (f : CoreSt → α → CoreSt) (slot : α → Nat) (xs : List α) {k : CoreSt}
    (hfull : ∀ x ∈ xs, (Assoc.find k.slots (slot x)).isSome = true)
    (h : ∀ (k : CoreSt) x, (Assoc.find k.slots (slot x)).isSome = true → k.SlotsKept (f k x)) : k.SlotsKept (xs.foldl
      f k) := by
  induction xs generalizing k with
  | nil => exact .refl k
  | cons x xs ih =>
    have hstep := h k x (hfull x List.mem_cons_self)
    exact hstep.trans (ih fun y hy => (hstep.full _).trans (hfull y (List.mem_cons_of_mem x hy)))

theorem CoreSt.slotsKept_futures (k : CoreSt) (fs : List (Nat × Future)) : k.SlotsKept { k with futures := fs } :=
    .of_eq rfl rfl rfl

theorem CoreSt.slotsKept_reap (k : CoreSt) (i : Nat) : k.SlotsKept (k.reap i) := by
  unfold CoreSt.reap
  split
  · split
    · exact k.slotsKept_futures _
    · exact .refl k
  · exact .refl k

theorem CoreSt.slotsKept_reapAll (k : CoreSt) : k.SlotsKept k.reapAll := by
  unfold CoreSt.reapAll
  generalize k.futures.map (·.1) = xs
  induction xs generalizing k with
  | nil => exact .refl k
  | cons x xs ih => exact (k.slotsKept_reap x).trans (ih _)

theorem CoreSt.slotsKept_unbind (k : CoreSt) (l : DWord) (g : Nat) : k.SlotsKept (k.unbind l g) := by
  unfold CoreSt.unbind
  split
  · exact (k.slotsKept_futures _).trans (CoreSt.slotsKept_reap _ _)
  · exact .refl k

theorem CoreSt.slotsKept_unbindLineage (k : CoreSt) (l : DWord) : k.SlotsKept (k.unbindLineage l) := by
  unfold CoreSt.unbindLineage
  split
  · exact k.slotsKept_reapAll
  · exact (k.slotsKept_futures _).trans (CoreSt.slotsKept_reapAll _)

theorem CoreSt.slotsKept_wakeWaiters (k : CoreSt) (i : Nat) (status : DWord) : k.SlotsKept (k.wakeWaiters i status) := by
  unfold CoreSt.wakeWaiters
  refine CoreSt.slotsKept_foldl _ (fun x => x.1) k.slots (fun x hx => Assoc.isSome_find_of_mem hx) fun k x hx => ?_
  split
  · split
    · exact (k.slotsKept_set _ hx).trans (CoreSt.slotsKept_unbind _ _ _)
    · exact .refl k
  · exact .refl k

theorem CoreSt.slotsKept_completeFuture (k : CoreSt) (i : Nat) (status : DWord) : k.SlotsKept (k.completeFuture i
    status) := by
  unfold CoreSt.completeFuture
  split
  · exact .refl k
  · split
    · exact .refl k
    · exact (k.slotsKept_futures _).trans ((CoreSt.slotsKept_wakeWaiters _ _ _).trans (CoreSt.slotsKept_reap _ _))

section
variable {s t u : State}

theorem State.SlotsKept.refl (s : State) : s.SlotsKept s := ⟨fun _ => .refl _, rfl, rfl⟩

theorem State.SlotsKept.trans (h : s.SlotsKept t) (h' : t.SlotsKept u) : s.SlotsKept u :=
  ⟨fun c => (h.cores c).trans (h'.cores c), h'.mem.trans h.mem, h'.transit.trans h.transit⟩

theorem State.SlotsKept.of_cores (hc : t.cores = s.cores) (hm : t.mem = s.mem) (ht : t.transit = s.transit) :
    s.SlotsKept t :=
  ⟨fun c => by rw [State.core, State.core, hc]; exact .refl _, hm, ht⟩

theorem State.SlotsKept.isSome (h : s.SlotsKept t) (c sl : Nat) : (t.strand? c sl).isSome = (s.strand? c sl).isSome :=
    (h.cores c).full sl

theorem State.SlotsKept.none (h : s.SlotsKept t) {c sl : Nat} (hn : s.strand? c sl = none) : t.strand? c sl = none := by
  have hsome := h.isSome c sl
  rw [hn] at hsome
  simpa using hsome

theorem State.SlotsKept.gen (h : s.SlotsKept t) (c sl : Nat) : (t.core c).gen sl = (s.core c).gen sl := by
  rw [CoreSt.gen, (h.cores c).gens, CoreSt.gen]

theorem State.slotsKept_modCore (s : State) (c : Nat) {f : CoreSt → CoreSt} (hf : (s.core c).SlotsKept (f (s.core c))) :
    s.SlotsKept (s.modCore c f) := by
  refine ⟨fun d => ?_, rfl, rfl⟩
  by_cases hd : c = d
  · subst hd
    rw [State.core_modCore]
    exact hf
  · rw [State.core_modCore_other _ _ hd]
    exact .refl _

theorem State.slotsKept_count (s : State) (c sel n : Nat) : s.SlotsKept (s.count c sel n) :=
  s.slotsKept_modCore c (.of_eq rfl rfl rfl)

theorem State.slotsKept_setStrand (s : State) {c sl : Nat} (st : Strand) (h : (s.strand? c sl).isSome = true) :
    s.SlotsKept (s.setStrand c sl st) := s.slotsKept_modCore c (CoreSt.slotsKept_set _ _ h)

theorem State.slotsKept_modStrand (s : State) (c sl : Nat) (f : Strand → Strand) : s.SlotsKept (s.modStrand c sl f) := by
  unfold State.modStrand
  split
  next st h => exact s.slotsKept_setStrand _ (by rw [h]; rfl)
  next => exact .refl s

theorem State.slotsKept_foldl {α : Type} (f : State → α → State) (h : ∀ (s : State) x, s.SlotsKept (f s x)) (xs : List
    α) (s : State) :
    s.SlotsKept (xs.foldl f s) := by
  induction xs generalizing s with
  | nil => exact .refl s
  | cons x xs ih => exact (h s x).trans (ih _)

theorem State.slotsKept_mapCores (s : State) {f : Nat × CoreSt → CoreSt} (hf : ∀ c k, CoreSt.SlotsKept k (f (c, k))) :
    s.SlotsKept { s with cores := s.cores.map fun x => (x.1, f x) } := by
  refine ⟨fun c => ?_, rfl, rfl⟩
  rcases s.core_mapCores f c with ⟨h, -⟩ | h
  · rw [h]
    exact .refl _
  · rw [h]
    exact hf _ _

theorem State.slotsKept_mapSaved (s : State) (b : Block) (f : SavedNote → SavedNote) : s.SlotsKept (s.mapSaved b f) :=
  s.slotsKept_mapCores fun _ _ => .of_eq rfl rfl rfl

theorem State.slotsKept_mapStrands (s : State) (f : Nat → Nat → Strand → Strand) : s.SlotsKept (s.mapStrands f) := by
  refine s.slotsKept_mapCores fun c k => ⟨fun sl => ?_, rfl, rfl⟩
  rw [CoreSt.mapStrands, Assoc.find_map_snd]
  cases Assoc.find k.slots sl <;> rfl

theorem State.slotsKept_setBlock (s : State) (b : Block) : s.SlotsKept (s.setBlock b) := .of_cores rfl rfl rfl

theorem State.slotsKept_barrierEvent (s : State) (b : Block) (n : Nat) (f : Barrier → Barrier) : s.SlotsKept
    (s.barrierEvent b n f) := by
  unfold State.barrierEvent
  split
  · exact .refl s
  · dsimp only
    refine .trans ?_ (State.slotsKept_mapStrands _ _)
    refine .trans ?_ (State.slotsKept_mapSaved _ _ _)
    split
    · exact (State.slotsKept_setBlock _ _).trans (State.slotsKept_count _ _ _ _)
    · exact State.slotsKept_setBlock _ _

theorem State.slotsKept_breakStrand (s : State) (c sl : Nat) (m : LaneMask) : s.SlotsKept (s.breakStrand c sl m) := by
  unfold State.breakStrand
  split
  · exact .refl s
  next st h =>
    exact (s.slotsKept_setStrand _ (by rw [h]; rfl)).trans (State.slotsKept_modCore _ _ (.of_eq rfl rfl rfl))

theorem State.slotsKept_breakBlock (s : State) (launch : Nat) (index : DWord) : s.SlotsKept (s.breakBlock launch index) := by
  unfold State.breakBlock
  split
  · exact .refl s
  · dsimp only
    refine .trans ?_ (State.slotsKept_foldl (fun (s : State) (x : Nat × Nat × Strand) => s.breakStrand x.1 x.2.1
      (x.2.2.wait.barrierLanes.getD 0#64))
      (fun s _ => s.slotsKept_breakStrand _ _ _) _ _)
    exact ((State.slotsKept_setBlock _ _).trans (State.slotsKept_mapSaved _ _ _)).trans (State.slotsKept_count _ _ _ _)

theorem State.slotsKept_breakGang (s : State) (c sl : Nat) : s.SlotsKept (s.breakGang c sl) := by
  unfold State.breakGang
  dsimp only
  refine (s.slotsKept_count _ _ _).trans (State.slotsKept_foldl (fun (s : State) (x : Nat × Strand) =>
    if x.2.member then (s.breakStrand c x.1 x.2.live).breakBlock x.2.launch x.2.block else s.breakStrand c x.1 x.2.live)
    (fun s x => ?_) _ _)
  split
  · exact (s.slotsKept_breakStrand _ _ _).trans (State.slotsKept_breakBlock _ _ _)
  · exact s.slotsKept_breakStrand _ _ _

theorem State.slotsKept_sendTo (s : State) (pkg : Nat) (b : FlitBody) : s.SlotsKept (s.sendTo pkg b) :=
  .of_cores (State.sendTo_keep State.cores (fun _ _ => rfl) s pkg b) (State.sendTo_keep State.mem (fun _ _ => rfl) s pkg b)
    (State.sendTo_keep State.transit (fun _ _ => rfl) s pkg b)

theorem State.slotsKept_completeFuture (s : State) (c i status : Nat) : s.SlotsKept (s.completeFuture c i status) :=
  s.slotsKept_modCore c (CoreSt.slotsKept_completeFuture _ _ _)

theorem State.slotsKept_unreserve (s : State) (d : Departure) : s.SlotsKept (s.unreserve d) := by
  unfold State.unreserve
  refine State.slotsKept_foldl _ (fun s x => ?_) _ _
  split
  · exact s.slotsKept_modCore _ (.of_eq rfl rfl rfl)
  · exact s.slotsKept_sendTo _ _

theorem State.slotsKept_dropInquiry (s : State) (c sl : Nat) : s.SlotsKept (s.dropInquiry c sl) := by
  unfold State.dropInquiry
  split
  · exact .refl s
  · refine (s.slotsKept_modStrand _ _ _).trans (State.slotsKept_foldl _ (fun s x => ?_) _ _)
    split
    · exact s.slotsKept_sendTo _ _
    · exact .refl s

theorem State.slotsKept_dropRequest (s : State) (c sl : Nat) (p : Preempt) : s.SlotsKept (s.dropRequest c sl p) := by
  unfold State.dropRequest
  split
  · exact s.slotsKept_completeFuture _ _ _
  · exact s.slotsKept_modCore _ (.of_eq rfl rfl rfl)

theorem State.slotsKept_releaseMatrix (s : State) (c launch : Nat) (index : DWord) : s.SlotsKept (s.releaseMatrix c
    launch index) := by
  unfold State.releaseMatrix
  dsimp only
  split
  · exact .refl s
  · exact s.slotsKept_modCore _ (.of_eq rfl rfl rfl)

theorem CoreSt.slotsKept_dropBuffers (bs : List Buffer) (k : CoreSt) : k.SlotsKept (bs.foldl CoreSt.dropBuffer k) := by
  induction bs generalizing k with
  | nil => exact .refl k
  | cons b bs ih => exact (CoreSt.SlotsKept.of_eq (k := k) (k' := k.dropBuffer b) rfl rfl rfl).trans (ih _)

theorem State.slotsKept_freeBlockOn (s : State) (launch : Nat) (index : DWord) (c : Nat) :
    s.SlotsKept (s.freeBlockOn launch index c) := by
  unfold State.freeBlockOn
  refine (s.slotsKept_modCore c ?_).trans (State.slotsKept_releaseMatrix _ _ _ _)
  exact CoreSt.SlotsKept.trans (CoreSt.slotsKept_dropBuffers _ _) (.of_eq rfl rfl rfl)

theorem State.slotsKept_endBlockIfDone (s : State) (launch : Nat) (index : DWord) : s.SlotsKept (s.endBlockIfDone
    launch index) := by
  unfold State.endBlockIfDone
  split
  · exact .refl s
  · dsimp only
    split
    · exact .refl s
    · exact State.SlotsKept.trans (t := { s with blocks := s.blocks.filter fun x => !(x.launch == launch && x.index ==
        index) })
        (.of_cores rfl rfl rfl) (State.slotsKept_foldl _ (fun s i => State.slotsKept_freeBlockOn _ _ _ _) _ _)

/-! ### The release of a slot -/

/-- A core on which a slot is released. -/
def CoreSt.emptied (k : CoreSt) (sl : Nat) (lineage : DWord) : CoreSt :=
  CoreSt.unbindLineage
    { k.dropFaulted sl with
      slots := Assoc.erase (k.dropFaulted sl).slots sl
      gens := Assoc.put 0#8 (k.dropFaulted sl).gens sl (k.gen sl + 1#8)
      cursors := (k.dropFaulted sl).cursors.filter fun x => !(x.2.slot == sl && x.2.gen == k.gen sl) } lineage

theorem CoreSt.find_emptied (k : CoreSt) (sl : Nat) (lineage : DWord) : Assoc.find (k.emptied sl lineage).slots sl =
    none := by
  have hkept := (CoreSt.slotsKept_unbindLineage
    { k.dropFaulted sl with
      slots := Assoc.erase (k.dropFaulted sl).slots sl
      gens := Assoc.put 0#8 (k.dropFaulted sl).gens sl (k.gen sl + 1#8)
      cursors := (k.dropFaulted sl).cursors.filter fun x => !(x.2.slot == sl && x.2.gen == k.gen sl) } lineage).full sl
  rw [Assoc.find_erase_same] at hkept
  exact Option.not_isSome_iff_eq_none.mp fun h => absurd (hkept.symm.trans h) (by simp)

theorem CoreSt.gen_emptied (k : CoreSt) (sl : Nat) (lineage : DWord) : (k.emptied sl lineage).gen sl = k.gen sl + 1#8 := by
  rw [CoreSt.gen, CoreSt.emptied, (CoreSt.slotsKept_unbindLineage _ _).gens, Assoc.get_put_same]

theorem CoreSt.origins_emptied (k : CoreSt) (sl : Nat) (lineage : DWord) : (k.emptied sl lineage).origins = k.origins :=
  (CoreSt.slotsKept_unbindLineage _ _).origins

/-- A slot of a state that is empty and of the next generation, all else that a flacon's sending is seen by as it was. -/
structure State.Emptied (s t : State) (c sl : Nat) : Prop where
  empty   : t.strand? c sl = none
  gen     : (t.core c).gen sl = (s.core c).gen sl + 1#8
  origins : (t.core c).origins = (s.core c).origins
  mem     : t.mem = s.mem
  transit : t.transit = s.transit

theorem State.Emptied.kept {c sl : Nat} (h : s.Emptied t c sl) (h' : t.SlotsKept u) : s.Emptied u c sl :=
  ⟨h'.none h.empty, (h'.gen c sl).trans h.gen, (h'.cores c).origins.trans h.origins, h'.mem.trans h.mem,
    h'.transit.trans h.transit⟩

theorem State.SlotsKept.emptied {c sl : Nat} (h : s.SlotsKept t) (h' : t.Emptied u c sl) : s.Emptied u c sl :=
  ⟨h'.empty, by rw [h'.gen, h.gen], h'.origins.trans (h.cores c).origins, h'.mem.trans h.mem, h'.transit.trans h.transit⟩

theorem State.emptied_modCore (s : State) (c sl : Nat) (lineage : DWord) :
    s.Emptied (s.modCore c fun k => k.emptied sl lineage) c sl := by
  refine ⟨?_, ?_, ?_, rfl, rfl⟩
  · rw [State.strand?, State.core_modCore]
    exact CoreSt.find_emptied _ _ _
  · rw [State.core_modCore]
    exact CoreSt.gen_emptied _ _ _
  · rw [State.core_modCore]
    exact CoreSt.origins_emptied _ _ _

/-- A released slot is empty and of the next generation. -/
theorem State.emptied_releaseSlot {c sl : Nat} {st : Strand} (hst : s.strand? c sl = some st) : s.Emptied
    (s.releaseSlot c sl) c sl := by
  have hunreserved : s.SlotsKept (st.departures.foldl State.unreserve (s.dropInquiry c sl)) :=
    (s.slotsKept_dropInquiry c sl).trans (State.slotsKept_foldl _ (fun s d => s.slotsKept_unreserve d) _ _)
  have hrelease {t : State} (ht : s.SlotsKept t) :
      s.Emptied ((t.modCore c fun k => k.emptied sl st.lineage).breakGang c sl) c sl :=
    ht.emptied ((t.emptied_modCore c sl st.lineage).kept (State.slotsKept_breakGang _ _ _))
  unfold State.releaseSlot
  simp only [hst]
  cases st.preempt with
  | none => exact hrelease hunreserved
  | some p => exact hrelease (hunreserved.trans (State.slotsKept_dropRequest _ _ _ _))

end

end Sys2Proof.Machine
end

section
/-! SUPPORT. Flacons sent (R236, R268, R269). -/

namespace Sys2Proof.Machine

/-! ### A strand that waits for nothing -/

theorem CoreSt.reapAll_keep {β : Type} (p : CoreSt → β) (h : ∀ (k : CoreSt) x, p { k with futures := x } = p k) (k :
    CoreSt) :
    p k.reapAll = p k := by
  refine foldl_keep p _ (fun k i => ?_) _ _
  unfold CoreSt.reap
  split
  · split
    · exact h _ _
    · rfl
  · rfl

section
variable {s : State} {c sl : Nat} {st : Strand}

/-- An event at a barrier leaves a strand that waits for nothing as it is. -/
theorem State.strand?_barrierEvent (hst : s.strand? c sl = some st) (hwait : st.wait = .none) (b : Block) (n : Nat)
    (f : Barrier → Barrier) : (s.barrierEvent b n f).strand? c sl = some st := by
  unfold State.barrierEvent
  split
  · exact hst
  · dsimp only
    rw [State.strand?_mapStrands, State.strand?_mapSaved]
    have hkept (u : State) (hu : u.strand? c sl = some st) (y : Bool) :
        (if y then u.count b.first 0x10000 else u).strand? c sl = some st := by
      split
      · rw [State.strand?_count, hu]
      · exact hu
    rw [hkept (s.setBlock _) hst, Option.map_some, hwait]
    simp [Wait.passed]

theorem State.strand?_reduceExpected (hst : s.strand? c sl = some st) (hwait : st.wait = .none) (launch : Nat) (index
    : DWord) :
    (s.reduceExpected launch index).strand? c sl = some st := by
  unfold State.reduceExpected
  split
  · exact hst
  · refine List.foldlRecOn (motive := fun t : State => t.strand? c sl = some st) _ _ hst fun t ht n _ => ?_
    unfold State.atBarrier
    split
    · exact State.strand?_barrierEvent ht hwait _ _ _
    · exact ht

theorem State.strand?_reduceBy (hst : s.strand? c sl = some st) (hwait : st.wait = .none) (launch : Nat) (index :
    DWord) (n : Nat) :
    (State.reduceBy launch index n s).strand? c sl = some st := by
  induction n generalizing s with
  | zero => exact hst
  | succ n ih => exact ih (State.strand?_reduceExpected hst hwait launch index)

end

theorem State.slotsKept_reduceBy (launch : Nat) (index : DWord) (n : Nat) (s : State) :
    s.SlotsKept (State.reduceBy launch index n s) := by
  induction n generalizing s with
  | zero => exact .refl s
  | succ n ih =>
    refine .trans ?_ (ih _)
    unfold State.reduceExpected
    split
    · exact .refl s
    · refine State.slotsKept_foldl _ (fun t n => ?_) _ _
      unfold State.atBarrier
      split
      · exact State.slotsKept_barrierEvent _ _ _ _
      · exact .refl t

theorem State.strand?_endBlockIfDone (s : State) (launch : Nat) (index : DWord) (c sl : Nat) :
    (s.endBlockIfDone launch index).strand? c sl = s.strand? c sl :=
  State.strand?_congr (fun j => State.endBlockIfDone_core (p := CoreSt.slots)
    ⟨fun _ _ _ => rfl, fun _ _ => rfl, fun _ _ => rfl⟩ s launch index j) c sl

/-! ### The flacons of a departure -/

/-- A strand whose lanes have departed. -/
def Strand.sent (st : Strand) (gone : LaneMask) : Strand :=
  { st.keepLanes gone with
    wait := .none, group := { st.group with depSerial := st.group.depSerial + 1#16 }, departed := st.departed ||| gone }

/-- The lanes of a departure. -/
def Departure.gone (d : Departure) : LaneMask := maskOf (d.deps.map (·.lane))

/-- The flacons that a departure sends. -/
def State.flaconsOf (s : State) (c sl : Nat) (st : Strand) (d : Departure) : List Flacon :=
  d.deps.map fun x => laneFlacon (s.core c) c sl
    { st.keepLanes d.gone with wait := .none, group := { st.group with depSerial := st.group.depSerial + 1#16 } } d x

/-- The state in which the flacons of a departure have left, before what follows for the block and the slot. -/
def State.flaconsGone (s : State) (c sl : Nat) (st : Strand) (d : Departure) : State :=
  let fs := s.flaconsOf c sl st d
  let s := s.setStrand c sl (st.sent d.gone)
  let s := s.modCore c fun k => { k with origins := k.origins ++ fs }.trimStale
  let s := { s with transit := s.transit ++ fs.filter fun f => f.destPkg == Config.packageNumber }
  let s := (fs.filter fun f => f.destPkg != Config.packageNumber).foldl State.sendFar s
  let s := s.modCore c CoreSt.reapAll
  (s.count c 0x4000 fs.length).count c 0x4002 (fs.foldl (fun (m : Nat) (f : Flacon) => m + f.size) 0)

/-- The block of a strand that threads have left. -/
def State.blockLeft (s : State) (st : Strand) (n : Nat) : State :=
  match s.block? st.launch st.block with
  | some b => State.reduceBy st.launch st.block n (s.setBlock { b with alive := b.alive - n })
  | none => s

theorem State.sendFlacons_eq (s : State) (c sl : Nat) (st : Strand) (d : Departure) : s.sendFlacons c sl st d =
    let leaves := st.member && !d.stay
    let u := s.flaconsGone c sl st d
    let v := if leaves then u.blockLeft st (s.flaconsOf c sl st d).length else u
    let w := if st.live &&& ~~~ d.gone == 0#64 then v.releaseSlot c sl else v
    if leaves then w.endBlockIfDone st.launch st.block else w := rfl

section
variable {s : State} {c sl : Nat} {st : Strand} {d : Departure}

/-- Flacons all for this package: they are under way, and the origin keeps copies. -/
theorem State.flaconsGone_spec (hpkg : ∀ x ∈ d.deps, x.pkg = Config.packageNumber) :
    (s.flaconsGone c sl st d).strand? c sl = some (st.sent d.gone) ∧
    (s.flaconsGone c sl st d).transit = s.transit ++ s.flaconsOf c sl st d ∧
    ((s.flaconsGone c sl st d).core c).origins = (s.core c).origins ++ s.flaconsOf c sl st d ∧
    ((s.flaconsGone c sl st d).core c).gen sl = (s.core c).gen sl ∧ (s.flaconsGone c sl st d).mem = s.mem := by
  have hdest : ∀ f ∈ s.flaconsOf c sl st d, f.destPkg = Config.packageNumber := by
    intro f hf
    obtain ⟨x, hx, rfl⟩ := List.mem_map.mp hf
    exact hpkg x hx
  have hnear : (s.flaconsOf c sl st d).filter (fun f => f.destPkg == Config.packageNumber) = s.flaconsOf c sl st d :=
    List.filter_eq_self.mpr fun f hf => beq_iff_eq.mpr (hdest f hf)
  have hfar : (s.flaconsOf c sl st d).filter (fun f => f.destPkg != Config.packageNumber) = [] :=
    List.filter_eq_nil_iff.mpr fun f hf => by simp [hdest f hf]
  have hgone : s.flaconsGone c sl st d =
      let u := s.setStrand c sl (st.sent d.gone)
      let u := u.modCore c fun k => { k with origins := k.origins ++ s.flaconsOf c sl st d }.trimStale
      let u := ({ u with transit := s.transit ++ s.flaconsOf c sl st d } : State).modCore c CoreSt.reapAll
      (u.count c 0x4000 (s.flaconsOf c sl st d).length).count c 0x4002
        ((s.flaconsOf c sl st d).foldl (fun (m : Nat) (f : Flacon) => m + f.size) 0) := by
    unfold State.flaconsGone
    dsimp only
    rw [hnear, hfar]
    rfl
  have hcore {β : Type} (p : CoreSt → β) (hf : ∀ (k : CoreSt) x, p { k with futures := x } = p k)
      (hc : ∀ (k : CoreSt) x, p { k with counters := x } = p k) : p ((s.flaconsGone c sl st d).core c) =
      p ({ (s.core c) with slots := Assoc.set (s.core c).slots sl (st.sent d.gone)
                           origins := (s.core c).origins ++ s.flaconsOf c sl st d } : CoreSt).trimStale := by
    rw [hgone]
    dsimp only
    rw [State.count, State.core_modCore, State.count, State.core_modCore, State.core_modCore]
    refine (hc _ _).trans ((hc _ _).trans ((CoreSt.reapAll_keep p hf _).trans ?_))
    show p (((s.setStrand c sl (st.sent d.gone)).modCore c fun k =>
      { k with origins := k.origins ++ s.flaconsOf c sl st d }.trimStale).core c) = _
    rw [State.core_modCore, State.setStrand, State.core_modCore]
  refine ⟨?_, by rw [hgone]; rfl, hcore CoreSt.origins (fun _ _ => rfl) fun _ _ => rfl,
    hcore (fun k => k.gen sl) (fun _ _ => rfl) fun _ _ => rfl, by rw [hgone]; rfl⟩
  rw [State.strand?, hcore CoreSt.slots (fun _ _ => rfl) fun _ _ => rfl]
  exact Assoc.find_set_same _ _ _

/-- The block of a strand that waits for nothing, left by threads: the strand is as it was. -/
theorem State.blockLeft_spec {x : Strand} (hx : s.strand? c sl = some x) (hwait : x.wait = .none) (n : Nat) :
    s.SlotsKept (s.blockLeft st n) ∧ (s.blockLeft st n).strand? c sl = some x := by
  unfold State.blockLeft
  split
  · exact ⟨(State.slotsKept_setBlock _ _).trans (State.slotsKept_reduceBy _ _ _ _), State.strand?_reduceBy (s :=
      s.setBlock _) hx hwait _ _ _⟩
  · exact ⟨.refl s, hx⟩

/-- The flacons of a departure sent: what is under way, the origin's copies, and the strand or its empty slot. -/
theorem State.sendFlacons_spec (hpkg : ∀ x ∈ d.deps, x.pkg = Config.packageNumber) :
    (s.sendFlacons c sl st d).transit = s.transit ++ s.flaconsOf c sl st d ∧
    ((s.sendFlacons c sl st d).core c).origins = (s.core c).origins ++ s.flaconsOf c sl st d ∧
    (s.sendFlacons c sl st d).mem = s.mem ∧
    (st.live &&& ~~~ d.gone ≠ 0#64 → (s.sendFlacons c sl st d).strand? c sl = some (st.sent d.gone)) ∧
    (st.live &&& ~~~ d.gone = 0#64 → (s.sendFlacons c sl st d).strand? c sl = none ∧
      ((s.sendFlacons c sl st d).core c).gen sl = (s.core c).gen sl + 1#8) := by
  obtain ⟨hstrand, htransit, horigins, hgen, hmem⟩ := State.flaconsGone_spec (s := s) (c := c) (sl := sl) (st := st) hpkg
  obtain ⟨u, hu⟩ : ∃ u, u = s.flaconsGone c sl st d := ⟨_, rfl⟩
  rw [← hu] at hstrand htransit horigins hgen hmem
  obtain ⟨v, hv⟩ : ∃ v, v = if (st.member && !d.stay) = true then u.blockLeft st (s.flaconsOf c sl st d).length else u
    := ⟨_, rfl⟩
  have hleft : u.SlotsKept v ∧ v.strand? c sl = some (st.sent d.gone) := by
    rw [hv]
    split
    · exact State.blockLeft_spec hstrand rfl _
    · exact ⟨.refl u, hstrand⟩
  obtain ⟨hkept, hvstrand⟩ := hleft
  have hend (w : State) : w.SlotsKept (if (st.member && !d.stay) = true then w.endBlockIfDone st.launch st.block else w) ∧
      (if (st.member && !d.stay) = true then w.endBlockIfDone st.launch st.block else w).strand? c sl = w.strand? c sl := by
    split
    · exact ⟨State.slotsKept_endBlockIfDone _ _ _, State.strand?_endBlockIfDone _ _ _ _ _⟩
    · exact ⟨.refl w, rfl⟩
  rw [State.sendFlacons_eq]
  dsimp only
  rw [← hu, ← hv]
  by_cases hlive : st.live &&& ~~~ d.gone = 0#64
  · rw [if_pos (beq_iff_eq.mpr hlive)]
    obtain ⟨hempty, hvgen, hvorigins, hvmem, hvtransit⟩ :=
      (hkept.emptied (State.emptied_releaseSlot hvstrand)).kept (hend (v.releaseSlot c sl)).1
    exact ⟨hvtransit.trans htransit, hvorigins.trans horigins, hvmem.trans hmem, fun h => absurd hlive h,
      fun _ => ⟨hempty, hvgen.trans (by rw [hgen])⟩⟩
  · rw [if_neg (c := (st.live &&& ~~~ d.gone == 0#64) = true) (by simpa using hlive)]
    obtain ⟨hkept', hstrand'⟩ := hend v
    have hall := hkept.trans hkept'
    exact ⟨hall.transit.trans htransit, (hall.cores c).origins.trans horigins, hall.mem.trans hmem,
      fun _ => hstrand'.trans hvstrand, fun h => absurd h hlive⟩

/-- A departure all of whose lanes are live departs whole. -/
theorem Departure.part_live {live : LaneMask} (h : ∀ x ∈ d.deps, live.getLsbD x.lane = true) :
    d.part live = (d, { d with deps := [] }) := by
  have hlive : d.deps.filter (fun x => live.getLsbD x.lane) = d.deps := List.filter_eq_self.mpr h
  have hgone : d.deps.filter (fun x => !live.getLsbD x.lane) = [] :=
    List.filter_eq_nil_iff.mpr fun x hx => by simp [h x hx]
  rw [Departure.part, hlive, hgone]

end

end Sys2Proof.Machine

end

section
/-! SUPPORT. Sets of flacons received, and the strand formed of one (R272-R274, Table 11-3). -/

namespace Sys2Proof.Machine

/-! ### Lists of flacons -/

section
variable {fs : List Flacon} {y : Flacon}

/-- The flacon of a lane is found by it. -/
theorem find?_lane (hnodup : (fs.map (·.lane)).Nodup) (hy : y ∈ fs) : fs.find? (fun x => x.lane == y.lane) = some y := by
  induction fs with
  | nil => simp at hy
  | cons x fs ih =>
    obtain ⟨hx, hrest⟩ := List.nodup_cons.mp hnodup
    rcases List.mem_cons.mp hy with rfl | hy
    · exact List.find?_cons_of_pos (by simp)
    · have hne : x.lane ≠ y.lane := fun h => hx (List.mem_map.mpr ⟨y, hy, h.symm⟩)
      rw [List.find?_cons_of_neg (by simpa using hne)]
      exact ih hrest hy

/-- Whether the lane of a flacon is that of one that satisfies a test. -/
theorem lane_mem_filter (hnodup : (fs.map (·.lane)).Nodup) (hy : y ∈ fs) (p : Flacon → Bool) :
    y.lane ∈ (fs.filter p).map (·.lane) ↔ p y = true := by
  constructor
  · intro h
    obtain ⟨x, hx, hlane⟩ := List.mem_map.mp h
    obtain ⟨hmem, hp⟩ := List.mem_filter.mp hx
    rwa [← List.inj_on_of_nodup_map hnodup hmem hy hlane]
  · exact fun h => List.mem_map_of_mem (List.mem_filter.mpr ⟨hy, h⟩)

end

/-- A bit of the OR of flags. -/
theorem getLsbD_foldl_or {α : Type} {w : Nat} (g : α → BitVec w) (xs : List α) (m : BitVec w) (b : Nat) :
    (xs.foldl (fun m x => m ||| g x) m).getLsbD b = (m.getLsbD b || xs.any fun x => (g x).getLsbD b) := by
  induction xs generalizing m with
  | nil => simp
  | cons x xs ih => rw [List.foldl_cons, ih, BitVec.getLsbD_or, List.any_cons, Bool.or_assoc]

theorem mem_selected {live : DWord} {r : Nat} {n : Nat} : r ∈ selected live 0 n ↔ r < n ∧ live.getLsbD r = true := by
  simp [selected]

/-- What a list made of numbers holds at a number. -/
theorem Assoc.find_map_numbers {α : Type} (ns : List Nat) (g : Nat → α) (r : Nat) :
    Assoc.find (ns.map fun r => (r, g r)) r = if r ∈ ns then some (g r) else none := by
  induction ns with
  | nil => rfl
  | cons n ns ih =>
    rw [List.map_cons, Assoc.find]
    by_cases hn : n = r
    · subst hn
      simp
    · rw [if_neg hn, ih]
      simp [Ne.symm hn]

/-- What a run of numbers 0 to n - 1 holds. -/
theorem Assoc.get_run_range {α : Type} [DecidableEq α] (d : α) (n : Nat) (g : Nat → α) (i : Nat) :
    Assoc.get d (Assoc.run d 0 ((List.range n).map g)) i = if i < n then g i else d := by
  rw [Assoc.get_run]
  by_cases hi : i < n
  · simp [hi]
  · simp [hi]

/-! ### The strand formed of a set (Table 11-3) -/

section
variable {s : State} {fs : List Flacon} {f : Flacon}

theorem State.formed_live (hlanes : ∀ y ∈ fs, y.lane < f.width) : (s.formed fs f).live = maskOf (fs.map (·.lane)) := by
  refine BitVec.eq_of_getLsbD_eq fun l hl => ?_
  have hbelow : (maskOf (fs.map (·.lane))).getLsbD l = true → l < f.width := by
    rw [getLsbD_maskOf _ hl]
    intro h
    obtain ⟨y, hy, rfl⟩ := List.mem_map.mp (of_decide_eq_true h)
    exact hlanes y hy
  show (maskBelow f.width &&& ~~~ 0#64 &&& ~~~ (maskBelow f.width &&& ~~~ maskOf (fs.map (·.lane)))).getLsbD l = _
  simp only [BitVec.getLsbD_and, BitVec.getLsbD_not, getLsbD_maskBelow _ hl, hl, BitVec.getLsbD_zero]
  cases hm : (maskOf (fs.map (·.lane))).getLsbD l with
  | true => simp [hbelow hm]
  | false => simp

theorem State.formed_kr (i : Nat) (hlanes : ∀ y ∈ fs, y.lane < f.width) :
    (s.formed fs f).kr i = if i = 0 then (s.formed fs f).live else 0#64 := by
  rw [State.formed_live hlanes]
  show Assoc.get 0#64 (Assoc.put 0#64 [] 0 (maskOf (fs.map (·.lane)))) i = _
  split
  · next h => rw [h, Assoc.get_put_same]
  · next h => rw [Assoc.get_put_other _ _ _ (Ne.symm h)]; rfl

theorem State.formed_active (hlanes : ∀ y ∈ fs, y.lane < f.width) (hguard : modeGuard f.mode = false) :
    (s.formed fs f).active = (s.formed fs f).live := by
  have hkr := State.formed_kr (s := s) 0 hlanes
  rw [if_pos rfl] at hkr
  have hmask : (s.formed fs f).guardMask = ~~~ 0#64 := if_neg (by
    show ¬ modeGuard f.mode = true
    simp [hguard])
  rw [Strand.active, Strand.unguarded, hkr, hmask, BitVec.and_self]
  exact BitVec.and_allOnes

theorem State.formed_vreg (r : Nat) : (s.formed fs f).vreg? r =
    if r < 32 ∧ f.live.getLsbD r = true ∧ f.empty.getLsbD r = false then
      some (.general ((List.range f.width).map fun l => match fs.find? fun x => x.lane == l with
        | some x => Assoc.get 0#32 x.vals r
        | none => 0#32))
    else none := by
  show Assoc.find (((selected f.live 0 32).filter fun r => !f.empty.getLsbD r).map fun r => (r, _)) r = _
  rw [Assoc.find_map_numbers]
  have hmem : r ∈ (selected f.live 0 32).filter (fun r => !f.empty.getLsbD r) ↔
      r < 32 ∧ f.live.getLsbD r = true ∧ f.empty.getLsbD r = false := by
    rw [List.mem_filter, mem_selected]
    simp [and_assoc]
  exact if_congr hmem rfl rfl

/-- The words of a register of the live mask. -/
theorem State.formed_vlane {y : Flacon} {r : Nat} (hnodup : (fs.map (·.lane)).Nodup) (hy : y ∈ fs) (hlane : y.lane < f.width)
    (hr : r < 32) (hlive : f.live.getLsbD r = true) (hempty : f.empty.getLsbD r = false) :
    (s.formed fs f).vlane r y.lane = Assoc.get 0#32 y.vals r := by
  rw [Strand.vlane, State.formed_vreg, if_pos ⟨hr, hlive, hempty⟩]
  simp [VReg.lane, hlane, find?_lane hnodup hy]

theorem State.formed_pr {y : Flacon} (hnodup : (fs.map (·.lane)).Nodup) (hy : y ∈ fs) (hlane : y.lane < 64) (i : Nat) :
    ((s.formed fs f).pr i).getLsbD y.lane = (decide (i < 16) && y.preds.getLsbD i) := by
  show (Assoc.get 0#64 (Assoc.run 0#64 0 ((List.range 16).map fun i =>
    maskOf ((fs.filter fun x => x.preds.getLsbD i).map (·.lane)))) i).getLsbD y.lane = _
  rw [Assoc.get_run_range]
  by_cases hi : i < 16
  · rw [if_pos hi, getLsbD_maskOf _ hlane]
    simp [lane_mem_filter hnodup hy, hi]
  · simp [hi]

theorem State.formed_gr (i : Nat) : (s.formed fs f).gr i = if i < 16 then Assoc.get 0#64 f.gs i else 0#64 :=
  Assoc.get_run_range _ _ _ _

end

/-! ### Sets of flacons -/

theorem putReady_perm (a : Assembly) (xs : List Assembly) : (putReady a xs).Perm (a :: xs) := by
  induction xs with
  | nil => exact .refl _
  | cons x xs ih =>
    rw [putReady]
    split
    · exact (ih.cons x).trans (.swap a x xs)
    · exact .refl _

/-- A set that is made ready joins the ready ones; no set is lost. -/
theorem closeSet_spec {xs : List Assembly} {i : Nat} {a : Assembly} (h : xs[i]? = some a) (expired : Bool) (time : Nat) :
    { a with ready := true, expired := expired, closed := time } ∈ closeSet xs i expired time ∧
    (closeSet xs i expired time).length = xs.length := by
  have hi : i < xs.length := (List.getElem?_eq_some_iff.mp h).1
  unfold closeSet
  simp only [h]
  have hperm := putReady_perm { a with ready := true, expired := expired, closed := time } (xs.eraseIdx i)
  refine ⟨hperm.mem_iff.mpr List.mem_cons_self, ?_⟩
  rw [hperm.length_eq, List.length_cons, List.length_eraseIdx_of_lt hi]
  omega

end Sys2Proof.Machine

end

section
/-! SUPPORT. The steps of a migration (R263, R268, R269, R272-R276). -/

namespace Sys2Proof.Machine

/-! ### Implicit migration -/

section
variable {s : State} {c sl : Nat} {st : Strand} {k : Clause}

/-- IMPLICIT_MIGRATION of a strand at its clause. -/
theorem execImplicitMigration_eq (hst : s.strand? c sl = some st) (hwait : st.wait = .implicit) (hk : st.clause = some k) :
    execImplicitMigration c sl s =
      match s.fates? c st st.whole true (s.implicitLeaving c st k) with
      | none => .next (s.inquire c sl st.whole true (s.implicitLeaving c st k))
      | some fs => .next (((s.readHomes (st.who c) ((s.implicitLeaving c st k).map fun x => x.2.2)).modStrand c sl fun x =>
          { x with wait := .none }).beginDeparture c sl fs st.whole k.addr 0 false) := by
  unfold execImplicitMigration
  simp only [hst, hwait, hk]
  rfl

theorem Strand.getLsbD_whole (st : Strand) {i : Nat} (hi : i < 64) :
    st.whole.getLsbD i = (decide (32 ≤ i) || decide (i < st.nregs)) := by
  simp only [Strand.whole, BitVec.getLsbD_and, BitVec.getLsbD_not, getLsbD_maskBelow _ hi, hi, BitVec.getLsbD_zero]
  by_cases h : i < 32
  · simp [h, Nat.not_le.mpr h]
  · simp [h, Nat.not_lt.mp h]

/-- The state in which the homes have been read and the strand waits no more. -/
theorem State.readHomes_unwaiting (hst : s.strand? c sl = some st) (w : Who) (xs : List Nat) : ∃ u : State,
    (s.readHomes w xs).modStrand c sl (fun x => { x with wait := .none }) = u ∧ u.strand? c sl = some { st with wait
      := .none } ∧
    u.transit = s.transit := by
  have hserved := State.served_readHomes s w xs
  refine ⟨_, rfl, ?_, ?_⟩
  · rw [State.modStrand, hserved.accessed.strand?, hst]
    exact State.strand?_setStrand _ _ _ _
  · rw [State.modStrand_transit]
    exact hserved.keep State.transit fun _ _ => rfl

/-- IMPLICIT_MIGRATION once what other packages were asked is answered. -/
theorem implicitMigration_answered (hst : s.strand? c sl = some st) (hwait : st.wait = .implicit) (hk : st.clause = some k)
    {fs : List (Nat × Bound × Fate)} (hfs : s.fates? c st st.whole true (s.implicitLeaving c st k) = some fs) :
    (departing fs = [] → ∃ t, exec (.implicitMigration c sl) s = .next t ∧
      t.strand? c sl = some { st with wait := .none, inquiry := none } ∧ t.transit = s.transit) ∧
    (departing fs ≠ [] → ∃ (t : State) (x : Strand) (d : Departure), exec (.implicitMigration c sl) s = .next t ∧
      t.strand? c sl = some x ∧ x = { st with region := none, wait := .depart d, inquiry := none } ∧ d.deps = departing fs ∧
      d.resume = k.addr ∧ d.idx = 0 ∧ d.stay = false ∧ d.taken = (t.core c).takenBy c st d.live ∧
      (∀ i, i < 64 → d.live.getLsbD i = (decide (32 ≤ i) || decide (i < st.nregs)))) := by
  have hexec : exec (.implicitMigration c sl) s = execImplicitMigration c sl s := rfl
  rw [execImplicitMigration_eq hst hwait hk, hfs] at hexec
  obtain ⟨u, hu, hustrand, hutransit⟩ := State.readHomes_unwaiting hst (st.who c)
    ((s.implicitLeaving c st k).map fun x => x.2.2)
  dsimp only at hexec
  rw [hu] at hexec
  refine ⟨fun hnone => ⟨_, hexec, ?_, ?_⟩, fun hsome => ?_⟩
  · rw [(State.beginDeparture_none _ _ _ _ hustrand hnone).strand?]
    exact State.strand?_setStrand _ _ _ _
  · exact (State.beginDeparture_none _ _ _ _ hustrand hnone).transit.trans hutransit
  · obtain ⟨v, -, hbegin⟩ := State.beginDeparture_some st.whole k.addr 0 false hustrand hsome
    rw [hbegin] at hexec
    refine ⟨_, _, _, hexec, State.strand?_setStrand _ _ _ _, rfl, rfl, rfl, rfl, rfl, ?_, fun i hi => st.getLsbD_whole hi⟩
    exact (State.setStrand_core (fun k => k.takenBy c st st.whole) (fun _ _ => rfl) _ _ _ _ _).symm

end

/-! ### Flacons sent -/

section
variable {s : State} {c sl : Nat} {st : Strand} {d : Departure}

theorem flaconSend_nobody (hst : s.strand? c sl = some st) (hwait : st.wait = .depart d) (hnone : (d.part
    st.live).1.deps = []) :
    exec (.flaconSend c sl) s =
      .next (((s.unreserve (d.part st.live).2).setStrand c sl { st with wait := .none }).modCore c CoreSt.reapAll) := by
  show execFlaconSend c sl s = _
  unfold execFlaconSend
  simp only [hst, hwait]
  rw [hnone]
  rfl

/-- FLACON_SEND with everything done that it waits for, and every departing lane live. -/
theorem flaconSend_sends (hst : s.strand? c sl = some st) (hwait : st.wait = .depart d) (hdeps : d.deps ≠ [])
    (hwrites : s.writesDone c sl (maskOf (d.deps.map (·.lane))) = true)
    (hcopies : ((s.core c).copies.any fun q => q.slot == sl && q.gen == (s.core c).gen sl) = false)
    (hgathers : (s.core c).gathers sl ((s.core c).gen sl) = false) (hdone : (s.core c).carriedDone c st d.live = true)
    (hlive : ∀ x ∈ d.deps, st.live.getLsbD x.lane = true) :
    exec (.flaconSend c sl) s = .next (s.sendFlacons c sl st d) := by
  show execFlaconSend c sl s = _
  unfold execFlaconSend
  simp only [hst, hwait, Departure.part_live hlive, State.unreserve, List.foldl_nil, hwrites, hcopies, hgathers, hdone]
  rw [if_neg (by simpa using hdeps)]
  rfl

theorem State.flaconsOf_getElem {n : Nat} {y : Dep} {f : Flacon} (hy : d.deps[n]? = some y)
    (hf : (s.flaconsOf c sl st d)[n]? = some f) : f.lane = y.lane ∧ f.dest = y.core ∧ f.resume = d.resume ∧ f.live = d.live ∧
      f.lineage = st.lineage ∧ f.workId = st.baseId + BitVec.ofNat 64 y.lane := by
  rw [State.flaconsOf, List.getElem?_map, hy, Option.map_some] at hf
  obtain rfl := Option.some.inj hf
  exact ⟨rfl, rfl, rfl, rfl, rfl, rfl⟩

end

/-! ### Flacons received -/

section
variable {s : State} {n : Nat} {f : Flacon}

theorem CoreSt.arrived_receive {k k' : CoreSt} (h : k'.arrived = k.arrived) (now : Nat) (f : Flacon) :
    (k'.receive now f).arrived = (k.receive now f).arrived := by
  unfold CoreSt.receive CoreSt.trimStale
  rw [h]

theorem flaconArrival_intact (hf : s.transit[n]? = some f) : ∃ t, exec (.flaconArrival n true) s = .next t ∧
    t.transit = s.transit.eraseIdx n ∧ t.acks = s.acks ++ [f] ∧
    (t.core f.dest).arrived = ((s.core f.dest).receive s.timePs f).arrived ∧
    (t.core f.dest).reserved = (s.core f.dest).reserved - 1 := by
  obtain ⟨u, hu⟩ : ∃ u : State, u = ({ s with transit := s.transit.eraseIdx n } : State).modCore f.dest fun k =>
    { k with reserved := k.reserved - 1 } := ⟨_, rfl⟩
  have hcore : u.core f.dest = { s.core f.dest with reserved := (s.core f.dest).reserved - 1 } := by
    rw [hu, State.core_modCore]
    rfl
  obtain ⟨v, hv⟩ : ∃ v : State, v = u.modCore f.dest fun k => (k.receive s.timePs f).count 0x4001 := ⟨_, rfl⟩
  have hvcore : v.core f.dest = ((u.core f.dest).receive s.timePs f).count 0x4001 := by rw [hv, State.core_modCore]
  refine ⟨{ v with acks := s.acks ++ [f] }, ?_, by rw [hv, hu]; rfl, rfl, ?_, ?_⟩
  · show execFlaconArrival n true s = _
    rw [hv, hu]
    simp only [execFlaconArrival, hf]
    rfl
  · show (v.core f.dest).arrived = _
    rw [hvcore]
    exact CoreSt.arrived_receive (by rw [hcore]) _ _
  · show (v.core f.dest).reserved = _
    rw [hvcore]
    exact congrArg CoreSt.reserved hcore

theorem flaconArrival_damaged (hf : s.transit[n]? = some f) : ∃ t, exec (.flaconArrival n false) s = .next t ∧
    t.transit = s.transit.eraseIdx n ∧ t.acks = s.acks ∧
    (t.core f.core).arrived = ((s.core f.core).receive s.timePs f).arrived ∧
    (t.core f.core).origins = (s.core f.core).origins.erase f := by
  obtain ⟨u, hu⟩ : ∃ u : State, u = ({ s with transit := s.transit.eraseIdx n } : State).modCore f.dest fun k =>
    { k with reserved := k.reserved - 1 } := ⟨_, rfl⟩
  have hcore {β : Type} (p : CoreSt → β) (h : ∀ (k : CoreSt) x, p { k with reserved := x } = p k) :
      p (u.core f.core) = p (s.core f.core) := by
    rw [hu]
    exact State.core_modCore_keep p _ _ (fun k => h k _) _
  refine ⟨u.modCore f.core fun k => ((k.dropOrigin f).receive s.timePs f).count 0x401B, ?_, by rw [hu]; rfl,
    by rw [hu]; rfl, ?_, ?_⟩
  · show execFlaconArrival n false s = _
    rw [hu]
    simp only [execFlaconArrival, hf]
    rfl
  · rw [State.core_modCore]
    exact CoreSt.arrived_receive (hcore CoreSt.arrived fun _ _ => rfl) _ _
  · rw [State.core_modCore]
    exact congrArg (List.erase · f) (hcore CoreSt.origins fun _ _ => rfl)

theorem flaconAcknowledge_drops (hf : s.acks[n]? = some f) : ∃ t, exec (.flaconAcknowledge n) s = .next t ∧
    t.acks = s.acks.eraseIdx n ∧ (t.core f.core).origins = (s.core f.core).origins.erase f := by
  refine ⟨({ s with acks := s.acks.eraseIdx n } : State).modCore f.core fun k => k.dropOrigin f, ?_, rfl, ?_⟩
  · show execFlaconAcknowledge n s = _
    simp only [execFlaconAcknowledge, hf]
  · rw [State.core_modCore]
    rfl

theorem reassemblyWindow_closes {c : Nat} {a : Assembly} (ha : (s.core c).arrived[n]? = some a) (hready : a.ready = false)
    (hopened : a.opened < s.timePs) (hcloses : a.closes ≤ s.timePs) : ∃ t, exec (.reassemblyWindowExpiry c n) s = .next t ∧
      { a with ready := true, expired := true, closed := a.closes } ∈ (t.core c).arrived ∧
      (t.core c).arrived.length = (s.core c).arrived.length := by
  refine ⟨s.modCore c fun k => { k with arrived := closeSet k.arrived n true a.closes }, ?_, ?_, ?_⟩
  · show execReassemblyWindowExpiry c n s = _
    simp [execReassemblyWindowExpiry, ha, hready, Assembly.due, hopened, hcloses]
  · rw [State.core_modCore]
    exact (closeSet_spec ha true a.closes).1
  · rw [State.core_modCore]
    exact (closeSet_spec ha true a.closes).2

end

/-! ### A strand formed -/

/-- STRAND_FORM with a set that is ready and room for it. -/
theorem strandForm_forms {s : State} {c : Nat} {a : Assembly} {rest : List Assembly} {f : Flacon}
    (hdue : closeDue s.timePs (s.core c).arrived.length (s.core c).arrived = a :: rest) (hready : a.ready = true)
    (hf : lowestFlacon a.flacons = some f) (hroom : (s.core c).roomFor f.width f.nregs = true) :
    ∃ (t s' : State) (sl : Nat), exec (.strandForm c) s = .next t ∧ s.strand? c sl = none ∧
      t.strand? c sl = some (s'.formed a.flacons f) ∧ sl < 64 ∧ (t.core c).arrived = rest ∧ t.mem = s.mem := by
  obtain ⟨u, hu⟩ : ∃ u : State, u = s.modCore c fun k =>
      { k with arrived := closeDue s.timePs k.arrived.length k.arrived } := ⟨_, rfl⟩
  have hcore : u.core c = { s.core c with arrived := a :: rest } := by
    rw [hu, State.core_modCore, hdue]
  have huroom : (u.core c).roomFor f.width f.nregs = true := by
    rw [hcore]
    exact hroom
  obtain ⟨sl, more, hslots⟩ : ∃ sl more, (s.core c).freeSlots = sl :: more := by
    cases hs : (s.core c).freeSlots with
    | nil => simp [CoreSt.roomFor, hs] at hroom
    | cons sl more => exact ⟨sl, more, rfl⟩
  have huslots : (u.core c).freeSlots = sl :: more := by
    rw [hcore]
    exact hslots
  have hmem : sl ∈ (s.core c).freeSlots := by rw [hslots]; exact List.mem_cons_self
  obtain ⟨hlt, hfree⟩ := List.mem_filter.mp hmem
  have hempty : s.strand? c sl = none := by
    simp only [CoreSt.slotFree, Bool.and_eq_true] at hfree
    exact Option.isNone_iff_eq_none.mp hfree.1.1
  obtain ⟨v, hv⟩ : ∃ v : State, v = ({ (u.modCore c fun k => { k with arrived := rest, stale := a.flacons ++ k.stale
    }).setStrand c sl
    (u.formed a.flacons f) with nextAge := u.nextAge + 1 } : State).count c 0x4003 := ⟨_, rfl⟩
  have hvstrand : v.strand? c sl = some (u.formed a.flacons f) := by
    rw [hv, State.strand?_count]
    exact State.strand?_setStrand _ _ _ _
  have hvarrived : (v.core c).arrived = rest := by
    rw [hv, State.count, State.core_modCore]
    refine (State.setStrand_core CoreSt.arrived (fun _ _ => rfl) _ _ _ _ _).trans ?_
    rw [State.core_modCore]
  have hexec : exec (.strandForm c) s = .next (if a.expired then v.count c 0x4004 else v) := by
    show execStrandForm c s = _
    unfold execStrandForm
    dsimp only
    rw [← hu, hcore]
    simp only [hf]
    rw [← hcore, hready, huroom, huslots, hv]
    rfl
  refine ⟨_, u, sl, hexec, hempty, ?_, List.mem_range.mp hlt, ?_, ?_⟩
  · split
    · rw [State.strand?_count, hvstrand]
    · exact hvstrand
  · split
    · rw [State.count, State.core_modCore]
      exact hvarrived
    · exact hvarrived
  · have hvmem : v.mem = s.mem := by rw [hv, hu]; rfl
    split
    · exact hvmem
    · exact hvmem

end Sys2Proof.Machine

section
open Sys2Proof Sys2Proof.Machine

/-- Settles O51: a departure begins with `State.beginDeparture_none` or `_some`, its flacons leave with
`State.sendFlacons_spec`, sets are received with `closeSet_spec`, and the strand formed is that of the `State.formed_`
  lemmas. -/
theorem migration : Obligations.Migration := by
  unfold Obligations.Migration
  refine ⟨fun s c sl st => ⟨fun k hst hwait hk => ⟨fun hnone => ?_, fun fs hfs => implicitMigration_answered hst hwait
    hk hfs⟩,
    fun d hst hwait hnone => flaconSend_nobody hst hwait hnone, fun d hst hwait hdeps hwrites hcopies hgathers hdone
      hall => ?_,
    fun n f hf => ⟨flaconArrival_intact hf, flaconArrival_damaged hf⟩, fun n f hf => flaconAcknowledge_drops hf,
    fun n a ha hready hopened hcloses => reassemblyWindow_closes ha hready hopened hcloses⟩,
    fun s c a rest f hdue hready hf hroom hlanes hwidth hnodup => ?_⟩
  · show execImplicitMigration c sl s = _
    rw [execImplicitMigration_eq hst hwait hk, hnone]
  · obtain ⟨htransit, horigins, hmem, hstays, hends⟩ := State.sendFlacons_spec (s := s) (c := c) (sl := sl) (st := st)
      fun x hx => (hall x hx).1
    exact ⟨_, _, flaconSend_sends hst hwait hdeps hwrites hcopies hgathers hdone fun x hx => (hall x hx).2,
      List.length_map _, fun n y f hy hf => State.flaconsOf_getElem hy hf, htransit, horigins, hmem,
      fun h => ⟨_, hstays h, rfl, rfl, rfl, rfl⟩, hends⟩
  · obtain ⟨t, u, sl, hexec, hempty, hstrand, hlt, harrived, hmem⟩ := strandForm_forms hdue hready hf hroom
    refine ⟨t, u.formed a.flacons f, sl, hexec, hempty, hstrand, hlt, harrived, hmem, State.formed_live hlanes, ?_,
      rfl, rfl, rfl, rfl,
      rfl, rfl, rfl, rfl, rfl, rfl, rfl, rfl, rfl, rfl, rfl, rfl,
      fun y hy r hlive hr hempty => State.formed_vlane hnodup hy (hlanes y hy) hr hlive hempty, fun r hr => ?_,
      fun y hy => State.formed_pr hnodup hy (Nat.lt_of_lt_of_le (hlanes y hy) hwidth), State.formed_gr,
      fun i => State.formed_kr i hlanes, rfl, fun b => ?_, fun b => ?_, fun y hy hid => ?_⟩
    · cases hguard : modeGuard f.mode with
      | true => rfl
      | false => exact State.formed_active hlanes hguard
    · rw [State.formed_vreg, if_neg]
      rintro ⟨hlt, hlive, hempty⟩
      rcases hr with h | h | h
      · omega
      · simp [h] at hlive
      · simp [h] at hempty
    · exact (getLsbD_foldl_or Flacon.astat _ _ _).trans (by simp)
    · exact (getLsbD_foldl_or Flacon.aten _ _ _).trans (by simp)
    · show f.workId - BitVec.ofNat 64 f.lane + BitVec.ofNat 64 y.lane = y.workId
      rw [← hid, BitVec.sub_add_cancel]

end

end

section
/-! SUPPORT. A slot that is listed twice, and the flags of an MRD there (R88, R344). -/

namespace Sys2Proof.Machine

/-- A strand that waits for nothing. -/
def readingStrand : Strand := guestStrand false 0x0F000000#32

/-- The same slot's second entry: a strand that waits for future 5, with a flag in ASTAT. -/
def shadowStrand : Strand :=
  { readingStrand with wait := .future 5 0, group := { readingStrand.group with astat := 1#5 } }

/-- An MRD of one row of f32 to offset 0 of core 0's scratch. -/
def rowRead : MatOp :=
  { kind := .mrd .f32 0 1 false 0#32 0#32, future := some 5, strands := [(0, 0#8)], launch := 0, block := 0#64, status := 0,
    units := 0, flags := 0#5, out := [] }

/-- Its future. -/
def rowFuture : Future :=
  { serial := 1, kind := .matrix, done := false, status := 0#64, binding := [], units := 0, cancel := false, slot := 0,
    gen := 0#8, launch := 0, block := 0#64, domain := 0#16, priv := .u, keyid := 0#10, ranges := [], entries := 0 }

/-- The buffer that the row is written to. -/
def rowBuffer : Buffer :=
  { first := 0, count := 1, serial := 1, launch := 0, block := 0#64, holder := some 0, portion := false, publ := none,
    parked := false }

/-- Slot 0 of core 0 is listed twice, and the MRD stands at the head of the matrix queue. -/
def slotTwice : State :=
  let s := State.reset.modCore 0 fun k =>
    { k with slots := [(0, readingStrand), (0, shadowStrand)], buffers := [rowBuffer], futures := [(5, rowFuture)],
             matrix := { k.matrix with queue := [rowRead] } }
  { s with blocks := [⟨0, 0#64, 0, 1, 1, 0, []⟩] }

/-- ASTAT of the strand of slot 0 of core 0 after a step. -/
def astatAfter (r : Result) : Option (BitVec 5) :=
  match r with
  | .next t => (t.strand? 0 0).map fun st => st.group.astat
  | _ => none

theorem astatAfter_rowRead : astatAfter (exec (.mrdPerform 0 1) slotTwice) = some 1#5 := by decide +kernel

theorem heads_rowRead : Heads slotTwice 0 rowRead [] :=
  ⟨by decide +kernel, rfl, by decide +kernel, by decide +kernel⟩

end Sys2Proof.Machine

section
open Sys2Proof Sys2Proof.Machine

/-- Refutes O49: the statement is of every state, also of one that lists a slot twice. In `slotTwice` the second entry of slot 0
waits for the future of an MRD: as the future completes that strand takes the place of the first one, to whose ASTAT the flags of
the MRD have been joined. -/
theorem not_matrixSteps : ¬ Obligations.MatrixSteps := by
  unfold Obligations.MatrixSteps
  rintro ⟨hheads, -⟩
  obtain ⟨-, -, -, -, -, -, -, -, -, hmrd⟩ := hheads slotTwice 0 rowRead [] heads_rowRead
  obtain ⟨-, hlast⟩ := hmrd .f32 0 1 false 0#32 0#32 rfl
  obtain ⟨u, hexec, -, -, hflags⟩ := hlast 0 rowBuffer rfl (by decide +kernel) (by decide +kernel)
  obtain ⟨x, hx, hastat⟩ := hflags 0 readingStrand (by decide +kernel) (by decide +kernel)
  have hafter := astatAfter_rowRead
  rw [show rowRead.kind.perform 0 = .mrdPerform 0 1 from rfl] at hexec
  rw [hexec, astatAfter, hx, Option.map_some, hastat] at hafter
  exact absurd hafter (by decide +kernel)

end

end

section
/-! SUPPORT. Encodings of floating-point magnitudes in ascending order, and the values they have (R70, Table 4-2). -/

namespace Sys2Proof.Machine

/-- The formats of Table 4-2 have a mantissa and an exponent of more than one bit. -/
structure Fmt.Proper (f : Fmt) : Prop where
  mantissa : 1 ≤ f.mbits
  exponent : 2 ≤ f.ebits

theorem ElemType.fmt_proper {t : ElemType} {f : Fmt} (h : t.fmt = some f) : f.Proper := by
  cases t <;> simp only [ElemType.fmt, Option.some.injEq, reduceCtorEq] at h <;> subst h <;> exact ⟨by decide, by decide⟩

/-- The number that the magnitude bits n stand for, those of an infinity and of a NaN read on as numbers. -/
def Fmt.magVal (f : Fmt) (n : Nat) : ℚ :=
  ((if n < 2 ^ f.mbits then 0 else 2 ^ f.mbits) + (n % 2 ^ f.mbits : Nat)) *
    (2 : ℚ) ^ (f.qmin + (n / 2 ^ f.mbits - 1 : Nat))

/-- The factor of a sign. -/
def signOf (neg : Bool) : ℚ := if neg then -1 else 1

@[simp] theorem signOf_true : signOf true = -1 := rfl
@[simp] theorem signOf_false : signOf false = 1 := rfl

theorem signOf_mul_self (n : Bool) : signOf n * signOf n = 1 := by cases n <;> norm_num

theorem signOf_not (n : Bool) : signOf (!n) = -signOf n := by cases n <;> norm_num

theorem signOf_bne (a b : Bool) : signOf (a != b) = signOf a * signOf b := by cases a <;> cases b <;> norm_num

theorem abs_signOf (n : Bool) : |signOf n| = 1 := by cases n <;> norm_num

theorem FVal.rat_fin (n : Bool) (m : Nat) (e : Int) : (FVal.fin n m e).rat = signOf n * (m * (2 : ℚ) ^ e) := by
  cases n <;> simp [FVal.rat, signOf]

section
variable {f : Fmt}

theorem Fmt.magVal_subnormal {n : Nat} (h : n < 2 ^ f.mbits) : f.magVal n = n * (2 : ℚ) ^ f.qmin := by
  simp [Fmt.magVal, h, Nat.mod_eq_of_lt h, Nat.div_eq_of_lt h]

theorem Fmt.magVal_normal (d m : Nat) (h : m < 2 ^ f.mbits) :
    f.magVal ((d + 1) * 2 ^ f.mbits + m) = ((2 ^ f.mbits + m : Nat) : ℚ) * (2 : ℚ) ^ (f.qmin + d) := by
  have hp : 0 < 2 ^ f.mbits := Nat.two_pow_pos _
  have hge : ¬ (d + 1) * 2 ^ f.mbits + m < 2 ^ f.mbits := by nlinarith
  have hdiv : ((d + 1) * 2 ^ f.mbits + m) / 2 ^ f.mbits = d + 1 := by
    rw [Nat.mul_comm, Nat.mul_add_div hp, Nat.div_eq_of_lt h, Nat.add_zero]
  have hmod : ((d + 1) * 2 ^ f.mbits + m) % 2 ^ f.mbits = m := by
    rw [Nat.mul_comm, Nat.mul_add_mod, Nat.mod_eq_of_lt h]
  simp only [Fmt.magVal, hge, hdiv, hmod, if_false]
  push_cast
  simp

/-- Neighbouring magnitudes are c and c + 1 of a unit, of which 2 ^ mbits or fewer are below the exponent's range. -/
theorem Fmt.magVal_step (n : Nat) : ∃ (c : Nat) (u : ℚ), 0 < u ∧ c + 1 ≤ 2 * 2 ^ f.mbits ∧ f.magVal n = c * u ∧
    f.magVal (n + 1) = (c + 1 : Nat) * u := by
  have hp : 0 < 2 ^ f.mbits := Nat.two_pow_pos _
  obtain ⟨d, m, hm, rfl⟩ : ∃ d m, m < 2 ^ f.mbits ∧ n = d * 2 ^ f.mbits + m :=
    ⟨n / 2 ^ f.mbits, n % 2 ^ f.mbits, Nat.mod_lt _ hp, by rw [Nat.mul_comm]; exact (Nat.div_add_mod _ _).symm⟩
  refine ⟨(if d = 0 then 0 else 2 ^ f.mbits) + m, (2 : ℚ) ^ (f.qmin + (d - 1 : Nat)), zpow_pos (by norm_num) _,
    by split <;> omega, ?_, ?_⟩
  · cases d with
    | zero => rw [Nat.zero_mul, Nat.zero_add, Fmt.magVal_subnormal hm]; simp
    | succ d => rw [Fmt.magVal_normal d m hm]; simp
  by_cases hlast : m + 1 < 2 ^ f.mbits
  · cases d with
    | zero => rw [Nat.zero_mul, Nat.zero_add, Fmt.magVal_subnormal hlast]; simp
    | succ d => rw [Nat.add_assoc (_ * _), Fmt.magVal_normal d _ hlast]; simp [Nat.add_assoc]
  · have hm' : m + 1 = 2 ^ f.mbits := by omega
    rw [Nat.add_assoc (d * _), hm', ← Nat.succ_mul, ← Nat.add_zero (d.succ * _), Fmt.magVal_normal d 0 hp]
    cases d with
    | zero => simp [hm']
    | succ d =>
      simp only [Nat.add_one_ne_zero, if_false, Nat.add_assoc, hm', Nat.add_sub_cancel]
      push_cast
      rw [← add_assoc, zpow_add₀ (by norm_num) _ (1 : Int)]
      ring

/-- The magnitudes ascend with their encodings. -/
theorem Fmt.magVal_lt_succ (n : Nat) : f.magVal n < f.magVal (n + 1) := by
  obtain ⟨c, u, hu, -, h1, h2⟩ := f.magVal_step n
  rw [h1, h2]
  push_cast
  linarith

/-- Neighbouring magnitudes lie as far apart as a mantissa's last bit. -/
theorem Fmt.magVal_gap (n : Nat) : f.magVal (n + 1) ≤ (f.magVal (n + 1) - f.magVal n) * (2 * 2 ^ f.mbits) := by
  obtain ⟨c, u, hu, hc, h1, h2⟩ := f.magVal_step n
  have hc' : ((c + 1 : Nat) : ℚ) ≤ 2 * 2 ^ f.mbits := by exact_mod_cast hc
  rw [h1, h2]
  have h3 := mul_le_mul_of_nonneg_right hc' hu.le
  push_cast at h3 ⊢
  linarith

theorem Fmt.magVal_strictMono : StrictMono f.magVal := strictMono_nat_of_lt_succ Fmt.magVal_lt_succ

theorem Fmt.magVal_zero : f.magVal 0 = 0 := by
  rw [Fmt.magVal_subnormal (Nat.two_pow_pos _)]; simp

theorem Fmt.magVal_nonneg (n : Nat) : 0 ≤ f.magVal n := by
  rw [← Fmt.magVal_zero (f := f)]
  exact Fmt.magVal_strictMono.monotone (Nat.zero_le n)

/-! ### The value of an encoding -/

theorem Fmt.signBit_pos : 0 < f.signBit := Nat.two_pow_pos _

theorem Fmt.signBit_eq : f.signBit = 2 ^ f.mbits * 2 ^ f.ebits := by rw [Fmt.signBit, Nat.add_comm, Nat.pow_add]

theorem Fmt.eones_succ (f : Fmt) : f.eones + 1 = 2 ^ f.ebits := Nat.sub_add_cancel (Nat.two_pow_pos _)

theorem Fmt.inf_add (f : Fmt) : f.inf + 2 ^ f.mbits = f.signBit := by
  rw [Fmt.signBit_eq, ← f.eones_succ, Fmt.inf]; ring

theorem Fmt.Proper.eones_pos (hf : f.Proper) : 3 ≤ f.eones := by
  have h : 2 ^ 2 ≤ 2 ^ f.ebits := Nat.pow_le_pow_right (by omega) hf.exponent
  have := f.eones_succ
  omega

theorem Fmt.maxFinite_of_inf (h : f.hasInf = true) : f.maxFinite = f.inf - 1 := by simp [Fmt.maxFinite, h, Fmt.inf]

theorem Fmt.maxFinite_of_noInf (h : f.hasInf = false) : f.maxFinite = f.signBit - 2 := by
  simp [Fmt.maxFinite, h, Fmt.signBit]

theorem Fmt.nan_of_noInf (h : f.hasInf = false) : f.nan = f.signBit - 1 := by simp [Fmt.nan, h, Fmt.signBit]

theorem Fmt.Proper.inf_pos (hf : f.Proper) : 2 ^ f.mbits < f.inf := by
  have := hf.eones_pos
  have hp : 0 < 2 ^ f.mbits := Nat.two_pow_pos _
  rw [Fmt.inf]
  nlinarith

theorem Fmt.Proper.maxFinite_lt (hf : f.Proper) : f.maxFinite < f.signBit := by
  have := f.inf_add
  have := hf.inf_pos
  have : 0 < 2 ^ f.mbits := Nat.two_pow_pos _
  cases h : f.hasInf
  · rw [Fmt.maxFinite_of_noInf h]; omega
  · rw [Fmt.maxFinite_of_inf h]; omega

theorem Fmt.signed_mod {n : Nat} (h : n < f.signBit) (neg : Bool) : f.signed neg n % f.signBit = n := by
  cases neg <;> simp [Fmt.signed, Nat.mod_eq_of_lt h]

theorem Fmt.signed_div {n : Nat} (h : n < f.signBit) (neg : Bool) : (f.signed neg n / f.signBit % 2 == 1) = neg := by
  cases neg
  · simp [Fmt.signed, Nat.div_eq_of_lt h]
  · simp [Fmt.signed, Nat.add_div_left _ Fmt.signBit_pos, Nat.div_eq_of_lt h]

/-- The fields of an encoding are those of its magnitude. -/
theorem Fmt.value_eq (f : Fmt) (x : Nat) :
    f.value x =
      (let neg := x / f.signBit % 2 == 1
       let ex := x % f.signBit / 2 ^ f.mbits
       let m := x % f.signBit % 2 ^ f.mbits
       if ex = f.eones ∧ f.hasInf then (if m = 0 then .inf neg else .nan (m < 2 ^ (f.mbits - 1)))
       else if x % f.signBit = f.nan ∧ ¬ f.hasInf then .nan false
       else if ex = 0 then .fin neg m f.qmin
       else .fin neg (2 ^ f.mbits + m) (f.qmin + (ex - 1 : Nat))) := by
  have hm : x % f.signBit % 2 ^ f.mbits = x % 2 ^ f.mbits := by
    rw [Fmt.signBit_eq, Nat.mod_mul_right_mod]
  have hex : x % f.signBit / 2 ^ f.mbits = x / 2 ^ f.mbits % 2 ^ f.ebits := by
    rw [Fmt.signBit_eq, Nat.mod_mul_right_div_self]
  simp only [hm, hex]
  rfl

/-- Which encodings are numbers, and which. -/
theorem Fmt.value_fin (hf : f.Proper) {x : Nat} (h : x % f.signBit ≤ f.maxFinite) :
    (f.value x).isFin = true ∧ (f.value x).neg = (x / f.signBit % 2 == 1) ∧
      (f.value x).rat = signOf (x / f.signBit % 2 == 1) * f.magVal (x % f.signBit) := by
  have hp : 0 < 2 ^ f.mbits := Nat.two_pow_pos _
  have hlt := Nat.mod_lt x f.signBit_pos
  have hinf := f.inf_add
  have hinfpos := hf.inf_pos
  rw [Fmt.value_eq]
  generalize x % f.signBit = n at h hlt
  generalize (x / f.signBit % 2 == 1) = g
  have hninf : ¬ (n / 2 ^ f.mbits = f.eones ∧ f.hasInf = true) := by
    rintro ⟨he, hi⟩
    rw [Fmt.maxFinite_of_inf hi, Fmt.inf, ← he] at h
    have := Nat.div_mul_le_self n (2 ^ f.mbits)
    have hpos : 0 < f.inf := by omega
    rw [Fmt.inf, ← he] at hpos
    omega
  have hnnan : ¬ (n = f.nan ∧ ¬ f.hasInf = true) := by
    rintro ⟨he, hi⟩
    have hi : f.hasInf = false := by simpa using hi
    rw [Fmt.maxFinite_of_noInf hi] at h
    rw [Fmt.nan_of_noInf hi] at he
    omega
  simp only [hninf, hnnan, if_false]
  split
  · next h0 =>
    have hlt : n < 2 ^ f.mbits := by
      rcases Nat.div_eq_zero_iff.mp h0 with h | h
      · omega
      · exact h
    refine ⟨rfl, rfl, ?_⟩
    rw [FVal.rat_fin, Fmt.magVal_subnormal hlt, Nat.mod_eq_of_lt hlt]
  · next h0 =>
    refine ⟨rfl, rfl, ?_⟩
    obtain ⟨d, hd⟩ := Nat.exists_eq_succ_of_ne_zero h0
    have hn : n = (d + 1) * 2 ^ f.mbits + n % 2 ^ f.mbits := by
      conv_lhs => rw [← Nat.div_add_mod n (2 ^ f.mbits), hd, Nat.mul_comm]
    rw [FVal.rat_fin, hd]
    conv_rhs => rw [hn, Fmt.magVal_normal d _ (Nat.mod_lt _ hp)]
    simp

theorem Fmt.isFin_iff (hf : f.Proper) (x : Nat) : (f.value x).isFin = true ↔ x % f.signBit ≤ f.maxFinite := by
  refine ⟨fun h => ?_, fun h => (Fmt.value_fin hf h).1⟩
  by_contra hgt
  have hp : 0 < 2 ^ f.mbits := Nat.two_pow_pos _
  have hlt := Nat.mod_lt x f.signBit_pos
  have hadd := f.inf_add
  have := hf.inf_pos
  rw [Fmt.value_eq] at h
  generalize x % f.signBit = n at h hlt hgt
  cases hi : f.hasInf
  · rw [Fmt.maxFinite_of_noInf hi] at hgt
    have : n = f.nan := by rw [Fmt.nan_of_noInf hi]; omega
    simp [hi, this, FVal.isFin] at h
  · rw [Fmt.maxFinite_of_inf hi] at hgt
    have hex : n / 2 ^ f.mbits = f.eones := by
      rw [Nat.div_eq_iff hp]
      rw [Fmt.inf] at *
      constructor <;> omega
    simp only [hi, hex, and_self, if_true] at h
    split at h <;> simp [FVal.isFin] at h

theorem Fmt.value_signed (hf : f.Proper) {n : Nat} (h : n ≤ f.maxFinite) (neg : Bool) :
    (f.value (f.signed neg n)).isFin = true ∧ (f.value (f.signed neg n)).neg = neg ∧
      (f.value (f.signed neg n)).rat = signOf neg * f.magVal n := by
  have hlt : n < f.signBit := lt_of_le_of_lt h hf.maxFinite_lt
  have := Fmt.value_fin hf (x := f.signed neg n) (by rw [Fmt.signed_mod hlt]; exact h)
  rwa [Fmt.signed_div hlt, Fmt.signed_mod hlt] at this

theorem Fmt.value_signed_inf (hi : f.hasInf = true) (neg : Bool) :
    f.value (f.signed neg f.inf) = .inf neg := by
  have hp : 0 < 2 ^ f.mbits := Nat.two_pow_pos _
  have hlt : f.inf < f.signBit := by have := f.inf_add; omega
  rw [Fmt.value_eq, Fmt.signed_div hlt, Fmt.signed_mod hlt]
  simp [Fmt.inf, Nat.mul_div_cancel _ hp, hi]

theorem Fmt.value_nan (hf : f.Proper) : (f.value f.nan).isNan = true := by
  have hp : 0 < 2 ^ f.mbits := Nat.two_pow_pos _
  have hadd := f.inf_add
  cases hi : f.hasInf
  · have hmod : f.nan % f.signBit = f.nan := Nat.mod_eq_of_lt (by
      rw [Fmt.nan_of_noInf hi]; have := f.signBit_pos; omega)
    rw [Fmt.value_eq]
    simp [hi, hmod, FVal.isNan]
  · have hhalf : 2 ^ (f.mbits - 1) < 2 ^ f.mbits := Nat.pow_lt_pow_right (by omega) (by have := hf.mantissa; omega)
    have hnan : f.nan = 2 ^ (f.mbits - 1) + 2 ^ f.mbits * f.eones := by simp [Fmt.nan, hi]; ring
    have hmod : f.nan % f.signBit = f.nan := Nat.mod_eq_of_lt (by
      rw [Fmt.inf] at hadd; rw [hnan]; linarith [Nat.mul_comm (2 ^ f.mbits) f.eones])
    rw [Fmt.value_eq, hmod]
    simp [hi, hnan, Nat.add_mul_div_left _ _ hp, Nat.div_eq_of_lt hhalf, Nat.mod_eq_of_lt hhalf, FVal.isNan]

end

end Sys2Proof.Machine
end

section
/-! SUPPORT. Delivery of an exact number: the two encodings that bracket it, and which of them is taken (R72-R75). -/

namespace Sys2Proof.Machine

/-- A held magnitude stands for a number. -/
structure Mag.Stands (x : Mag) (v : ℚ) : Prop where
  lower : x.m * (2 : ℚ) ^ x.e ≤ v
  upper : v < (x.m + 1) * (2 : ℚ) ^ x.e
  exact : x.sticky = false → v = x.m * (2 : ℚ) ^ x.e
  above : x.sticky = true → x.m * (2 : ℚ) ^ x.e < v

/-- Whether the upper one of the neighbours lo ≤ v < hi is taken, odd telling which of them the tie goes to. -/
def roundsUp (r : Rounding) (neg : Bool) (lo hi v : ℚ) (odd : Bool) : Bool :=
  match r with
  | .rne => decide (lo + hi < 2 * v) || (decide (lo + hi = 2 * v) && odd)
  | .rtz => false
  | .rup => decide (v ≠ lo) && !neg
  | .rdn => decide (v ≠ lo) && neg

theorem roundsUp_scale {u : ℚ} (hu : 0 < u) (r : Rounding) (neg : Bool) (lo hi v : ℚ) (odd : Bool) :
    roundsUp r neg (lo * u) (hi * u) (v * u) odd = roundsUp r neg lo hi v odd := by
  have h1 : lo * u + hi * u < 2 * (v * u) ↔ lo + hi < 2 * v := by
    rw [← add_mul, ← mul_assoc, mul_lt_mul_iff_left₀ hu]
  have h2 : lo * u + hi * u = 2 * (v * u) ↔ lo + hi = 2 * v := by
    rw [← add_mul, ← mul_assoc, mul_left_inj' hu.ne']
  have h3 : v * u = lo * u ↔ v = lo := mul_left_inj' hu.ne'
  cases r <;> simp [roundsUp, h1, h2, h3]

theorem roundsUp_of_eq {lo hi : ℚ} (h : lo < hi) (r : Rounding) (neg odd : Bool) : roundsUp r neg lo hi lo odd = false := by
  have h1 : ¬ lo + hi < 2 * lo := by linarith
  have h2 : ¬ lo + hi = 2 * lo := by intro; linarith
  cases r <;> simp [roundsUp, h1, h2]

theorem two_zpow_pos (q : Int) : (0 : ℚ) < 2 ^ q := zpow_pos (by norm_num) q

theorem two_zpow_le {q r : Int} : (2 : ℚ) ^ q ≤ 2 ^ r ↔ q ≤ r := zpow_le_zpow_iff_right₀ (by norm_num)

theorem two_zpow_lt {q r : Int} : (2 : ℚ) ^ q < 2 ^ r ↔ q < r := zpow_lt_zpow_iff_right₀ (by norm_num)

/-- A power of two that is shifted by a natural number. -/
theorem two_zpow_shift {q e : Int} (h : e ≤ q) : (2 : ℚ) ^ q = ((2 ^ (q - e).toNat : Nat) : ℚ) * 2 ^ e := by
  push_cast
  rw [← zpow_natCast, ← zpow_add₀ (by norm_num)]
  congr 1
  omega

/-- The whole multiples of 2^q in a held magnitude. -/
def Mag.floorAt (x : Mag) (q : Int) : Nat :=
  if q ≤ x.e then x.m <<< (x.e - q).toNat else x.m >>> (q - x.e).toNat

section
variable {x : Mag} {v : ℚ}

/-- n and a remainder in units of which 2 half make one, rounded to an integer in a mode. -/
def roundParts (r : Rounding) (neg : Bool) (n rem half : Nat) (sticky : Bool) : Nat × Bool :=
  let inexact := rem != 0 || sticky
  let up := match r with
    | .rne => decide (rem > half) || (rem == half && (sticky || n % 2 == 1))
    | .rtz => false
    | .rup => inexact && !neg
    | .rdn => inexact && neg
  (if up then n + 1 else n, inexact)

theorem roundShift_right {k : Nat} (hk : 0 < k) (r : Rounding) (neg : Bool) (m : Nat) (sticky : Bool) :
    roundShift r neg m k sticky = roundParts r neg (m >>> k) (m % 2 ^ k) (2 ^ (k - 1)) sticky := by
  have hk' : ¬ (k : Int) ≤ 0 := by omega
  simp only [roundShift, hk', if_false, Int.toNat_natCast]
  rfl

/-- A number w, cut into n whole units and a remainder, is rounded as the mode asks. -/
theorem roundParts_eq {n rem half m : Nat} {w : ℚ} {sticky : Bool} (hm : n * (2 * half) + rem = m) (hrem : rem < 2 * half)
    (h2 : w < m + 1) (h3 : sticky = false → w = m) (h4 : sticky = true → (m : ℚ) < w) (r : Rounding) (neg : Bool) :
    n * (2 * half : ℚ) ≤ w ∧ w < (n + 1) * (2 * half : ℚ) ∧
    roundParts r neg n rem half sticky =
      (if roundsUp r neg (n * (2 * half : ℚ)) ((n + 1) * (2 * half : ℚ)) w (n % 2 == 1) then n + 1 else n,
        decide (w ≠ n * (2 * half : ℚ))) := by
  have hm : n * (2 * half : ℚ) + rem = m := by exact_mod_cast hm
  have hrem' : (rem : ℚ) + 1 ≤ 2 * half := by exact_mod_cast hrem
  have hr : (0 : ℚ) ≤ rem := Nat.cast_nonneg _
  have hge : (m : ℚ) ≤ w := by
    cases sticky
    · exact (h3 rfl).ge
    · exact (h4 rfl).le
  have hin : (rem != 0 || sticky) = decide (w ≠ n * (2 * half : ℚ)) := by
    cases sticky
    · rw [h3 rfl, ← hm]
      by_cases h : rem = 0 <;> simp [h]
    · have := h4 rfl
      have hne : w ≠ n * (2 * half : ℚ) := by intro h; linarith
      simp only [Bool.or_true, ne_eq, hne, not_false_eq_true, decide_true]
  refine ⟨by linarith, by linarith, Prod.ext ?_ hin⟩
  simp only [roundParts]
  congr 1
  cases r with
  | rtz => rfl
  | rup => simp only [roundsUp, hin]
  | rdn => simp only [roundsUp, hin]
  | rne =>
    simp only [roundsUp]
    rcases Nat.lt_trichotomy rem half with h | h | h
    · have h' : (rem : ℚ) + 1 ≤ half := by exact_mod_cast h
      have g1 : ¬ (n * (2 * half) + (n + 1) * (2 * half) : ℚ) < 2 * w := by intro; linarith
      have g2 : ¬ (n * (2 * half) + (n + 1) * (2 * half) : ℚ) = 2 * w := by intro; linarith
      simp [h.ne, Nat.le_of_lt h, g1, g2]
    · subst h
      cases sticky
      · have g : (n * (2 * rem) + (n + 1) * (2 * rem) : ℚ) = 2 * w := by rw [h3 rfl]; linarith
        simp [g]
      · have := h4 rfl
        have g : (n * (2 * rem) + (n + 1) * (2 * rem) : ℚ) < 2 * w := by linarith
        simp [g]
    · have h' : (half : ℚ) + 1 ≤ rem := by exact_mod_cast h
      have g1 : (n * (2 * half) + (n + 1) * (2 * half) : ℚ) < 2 * w := by linarith
      simp [h, g1]

/-- Rounding to a multiple of 2^q of a number that is held exactly enough. -/
theorem Mag.Stands.roundShift (h : x.Stands v) {q : Int} (hq : x.sticky = true → x.e < q) :
    x.floorAt q * (2 : ℚ) ^ q ≤ v ∧ v < (x.floorAt q + 1) * (2 : ℚ) ^ q ∧ ∀ r neg,
    Machine.roundShift r neg x.m (q - x.e) x.sticky =
      (if roundsUp r neg (x.floorAt q * (2 : ℚ) ^ q) ((x.floorAt q + 1) * (2 : ℚ) ^ q) v (x.floorAt q % 2 == 1)
        then x.floorAt q + 1 else x.floorAt q, decide (v ≠ x.floorAt q * (2 : ℚ) ^ q)) := by
  have hu := two_zpow_pos x.e
  by_cases hle : q ≤ x.e
  · have hst : x.sticky = false := by
      cases hs : x.sticky
      · rfl
      · exact absurd (hq hs) (by omega)
    have hv : v = x.floorAt q * (2 : ℚ) ^ q := by
      rw [h.exact hst, Mag.floorAt, if_pos hle, Nat.shiftLeft_eq, two_zpow_shift hle]
      push_cast
      ring
    have hq := two_zpow_pos q
    have hlt : x.floorAt q * (2 : ℚ) ^ q < (x.floorAt q + 1) * (2 : ℚ) ^ q := by linarith
    refine ⟨hv.ge, by rw [hv]; exact hlt, fun r neg => ?_⟩
    rw [hv, roundsUp_of_eq hlt]
    have hs : q - x.e ≤ 0 := by omega
    simp [Machine.roundShift, hs, hst, Mag.floorAt, hle]
  · have hk : 0 < (q - x.e).toNat := by omega
    have hq2 := two_zpow_shift (q := q) (e := x.e) (by omega)
    obtain ⟨w, rfl⟩ : ∃ w, v = w * 2 ^ x.e := ⟨v / 2 ^ x.e, by field_simp⟩
    have hhalf : 2 ^ (q - x.e).toNat = 2 * 2 ^ ((q - x.e).toNat - 1) := by
      rw [← Nat.pow_succ', Nat.succ_eq_add_one, Nat.sub_add_cancel hk]
    have hkey := roundParts_eq (n := x.floorAt q) (rem := x.m % 2 ^ (q - x.e).toNat) (half := 2 ^ ((q - x.e).toNat - 1))
      (m := x.m) (sticky := x.sticky)
      (by rw [Mag.floorAt, if_neg hle, ← hhalf, Nat.shiftRight_eq_div_pow, Nat.div_add_mod'])
      (by rw [← hhalf]; exact Nat.mod_lt _ (Nat.two_pow_pos _))
      ((mul_lt_mul_iff_left₀ hu).mp h.upper) (fun hs => (mul_left_inj' hu.ne').mp (h.exact hs))
      (fun hs => (mul_lt_mul_iff_left₀ hu).mp (h.above hs))
    have hs : q - x.e = ((q - x.e).toNat : Int) := by omega
    have hsplit : (2 : ℚ) ^ q = 2 * (2 ^ ((q - x.e).toNat - 1) : Nat) * 2 ^ x.e := by rw [hq2, hhalf]; push_cast; rfl
    rw [hsplit, ← mul_assoc (x.floorAt q : ℚ), ← mul_assoc (x.floorAt q + 1 : ℚ)]
    refine ⟨(mul_le_mul_iff_left₀ hu).mpr (hkey .rne true).1, (mul_lt_mul_iff_left₀ hu).mpr (hkey .rne true).2.1,
      fun r neg => ?_⟩
    rw [roundsUp_scale hu]
    conv_lhs => rw [hs]
    rw [roundShift_right hk, ← show x.floorAt q = x.m >>> (q - x.e).toNat by rw [Mag.floorAt, if_neg hle]]
    simpa only [ne_eq, mul_left_inj' hu.ne'] using (hkey r neg).2.2

/-- The exponent of a number that is held with its leading bit. -/
theorem Mag.Stands.log2 (h : x.Stands v) (h0 : x.m ≠ 0) :
    (2 : ℚ) ^ ((Nat.log2 x.m : Int) + x.e) ≤ v ∧ v < (2 : ℚ) ^ ((Nat.log2 x.m : Int) + x.e + 1) := by
  have hu := two_zpow_pos x.e
  have h1 : ((2 ^ Nat.log2 x.m : Nat) : ℚ) ≤ x.m := by exact_mod_cast Nat.log2_self_le h0
  have h2 : (x.m + 1 : ℚ) ≤ (2 ^ (Nat.log2 x.m + 1) : Nat) := by
    have : x.m + 1 ≤ 2 ^ (Nat.log2 x.m + 1) := Nat.lt_log2_self
    exact_mod_cast this
  push_cast at h1 h2
  rw [add_right_comm, zpow_add₀ (by norm_num) (_ + 1), zpow_add₀ (by norm_num) _ x.e]
  refine ⟨le_trans ?_ h.lower, lt_of_lt_of_le h.upper ?_⟩
  · exact mul_le_mul_of_nonneg_right (by exact_mod_cast h1) hu.le
  · exact mul_le_mul_of_nonneg_right (by exact_mod_cast h2) hu.le

end

/-! ### Encodings of n 2^q -/

section
variable {f : Fmt} {n : Nat} {q : Int}

theorem Fmt.encodeMag_succ (hn : n < 2 ^ f.mbits → q = f.qmin) : f.encodeMag (n + 1) q = f.encodeMag n q + 1 := by
  have hp : 0 < 2 ^ f.mbits := Nat.two_pow_pos _
  unfold Fmt.encodeMag
  by_cases h : n < 2 ^ f.mbits
  · rw [if_pos h, hn h]
    split
    · rfl
    · simp; omega
  · rw [if_neg h, if_neg (by omega)]
    omega

theorem Fmt.encodeMag_mod (hf : f.Proper) : f.encodeMag n q % 2 = n % 2 := by
  have hp : 2 ^ f.mbits = 2 * 2 ^ (f.mbits - 1) := by
    rw [← Nat.pow_succ', Nat.succ_eq_add_one, Nat.sub_add_cancel hf.mantissa]
  unfold Fmt.encodeMag
  split
  · rfl
  · rw [hp] at *
    rw [Nat.mul_left_comm, Nat.mul_add_mod]
    omega

theorem Fmt.magVal_encodeMag (hn : n < 2 ^ f.mbits → q = f.qmin) (hq : f.qmin ≤ q) (hlt : n < 2 * 2 ^ f.mbits) :
    f.magVal (f.encodeMag n q) = n * (2 : ℚ) ^ q := by
  unfold Fmt.encodeMag
  by_cases h : n < 2 ^ f.mbits
  · rw [if_pos h, Fmt.magVal_subnormal h, hn h]
  · rw [if_neg h, Fmt.magVal_normal _ _ (by omega), Nat.add_sub_cancel' (by omega)]
    congr 2
    omega

theorem Fmt.magVal_encodeMag_succ (hn : n < 2 ^ f.mbits → q = f.qmin) (hq : f.qmin ≤ q) (hlt : n < 2 * 2 ^ f.mbits) :
    f.magVal (f.encodeMag n q + 1) = (n + 1) * (2 : ℚ) ^ q := by
  by_cases h : n + 1 < 2 * 2 ^ f.mbits
  · rw [← Fmt.encodeMag_succ hn, Fmt.magVal_encodeMag (fun h' => hn (by omega)) hq h]
    push_cast; rfl
  · have hp : 0 < 2 ^ f.mbits := Nat.two_pow_pos _
    have hn' : n + 1 = 2 * 2 ^ f.mbits := by omega
    have henc : f.encodeMag n q + 1 = ((q - f.qmin).toNat + 1 + 1) * 2 ^ f.mbits + 0 := by
      rw [← Fmt.encodeMag_succ hn, Fmt.encodeMag, if_neg (by omega), hn', Nat.succ_mul ((q - f.qmin).toNat + 1)]
      omega
    have hq' : f.qmin + ((q - f.qmin).toNat + 1 : Nat) = q + 1 := by omega
    rw [henc, Fmt.magVal_normal _ _ hp, hq', zpow_add₀ (by norm_num)]
    have : (n + 1 : ℚ) = 2 * 2 ^ f.mbits := by exact_mod_cast hn'
    rw [this]
    push_cast
    ring

end

/-! ### Delivery -/

section
variable {f : Fmt} {x : Mag} {v : ℚ}

/-- The unit in which a magnitude is delivered. -/
def Fmt.unitOf (f : Fmt) (x : Mag) : Int :=
  let qU := (Nat.log2 x.m : Int) + x.e - f.mbits
  if qU < f.qmin then f.qmin else qU

/-- The encoding next below a held magnitude. -/
def Fmt.below (f : Fmt) (x : Mag) : Nat := f.encodeMag (x.floorAt (f.unitOf x)) (f.unitOf x)

/-- Whether the number, rounded with the exponent unbounded, is below the least normal one. -/
def Fmt.tiny (f : Fmt) (r : Rounding) (neg : Bool) (x : Mag) : Bool :=
  let qU := (Nat.log2 x.m : Int) + x.e - f.mbits
  belowPow (roundShift r neg x.m (qU - x.e) x.sticky).1 qU f.emin

/-- What is delivered of a number v, where a is the encoding next below it. -/
def Fmt.delivered (f : Fmt) (r : Rounding) (sat neg : Bool) (a : Nat) (v : ℚ) (tiny : Bool) : Nat × Flags :=
  let enc := if roundsUp r neg (f.magVal a) (f.magVal (a + 1)) v (a % 2 == 1) then a + 1 else a
  if enc > f.maxFinite then f.deliverOverflow r sat neg
  else (f.signed neg enc, (if v ≠ f.magVal a then fIX else 0#5) ||| (if v ≠ f.magVal a ∧ tiny then fUF else 0#5))

/-- A magnitude is held with more bits than the mantissa has, where it is not exact. -/
def Mag.Precise (x : Mag) (f : Fmt) : Prop := x.sticky = true → f.mbits < Nat.log2 x.m

theorem Mag.Stands.m_ne_zero (h : x.Stands v) (hp : x.Precise f) (h0 : v ≠ 0) : x.m ≠ 0 := by
  intro hm
  cases hs : x.sticky
  · exact h0 (by rw [h.exact hs, hm]; simp)
  · have := hp hs
    rw [hm] at this
    simp [Nat.log2_zero] at this

/-- The unit of delivery is a grid on which the format's numbers next to v lie. -/
theorem Mag.Stands.floorAt_unitOf (h : x.Stands v) (hp : x.Precise f) (h0 : v ≠ 0) :
    x.floorAt (f.unitOf x) < 2 * 2 ^ f.mbits ∧ (x.floorAt (f.unitOf x) < 2 ^ f.mbits → f.unitOf x = f.qmin) ∧
      f.qmin ≤ f.unitOf x ∧ (x.sticky = true → x.e < f.unitOf x) := by
  have hm := h.m_ne_zero hp h0
  obtain ⟨hge, hlt⟩ := h.log2 hm
  have hq : x.sticky = true → x.e < f.unitOf x := fun hs => by
    have := hp hs
    unfold Fmt.unitOf
    simp only
    split <;> omega
  have hqU : (Nat.log2 x.m : Int) + x.e - f.mbits ≤ f.unitOf x ∧ f.qmin ≤ f.unitOf x ∧
      (f.unitOf x ≠ f.qmin → f.unitOf x = (Nat.log2 x.m : Int) + x.e - f.mbits) := by
    unfold Fmt.unitOf
    simp only
    split <;> omega
  obtain ⟨hqU, hqmin, hqeq⟩ := hqU
  obtain ⟨hlo, hhi, -⟩ := h.roundShift hq
  generalize f.unitOf x = q at *
  have hu := two_zpow_pos q
  refine ⟨?_, fun hsub => ?_, hqmin, hq⟩
  · by_contra hge'
    have h1 : (2 * 2 ^ f.mbits : ℚ) ≤ x.floorAt q := by exact_mod_cast Nat.le_of_not_lt hge'
    have h2 : (2 : ℚ) ^ ((Nat.log2 x.m : Int) + x.e + 1) ≤ 2 * 2 ^ f.mbits * 2 ^ q := by
      have : (2 : ℚ) * 2 ^ f.mbits * 2 ^ q = 2 ^ (1 + (f.mbits : Int) + q) := by
        rw [zpow_add₀ (by norm_num), zpow_add₀ (by norm_num), zpow_natCast, zpow_one]
      rw [this, two_zpow_le]
      omega
    have h3 := mul_le_mul_of_nonneg_right h1 hu.le
    linarith
  · by_contra hne
    have h1 : (x.floorAt q + 1 : ℚ) ≤ 2 ^ f.mbits := by exact_mod_cast hsub
    have h2 : (2 : ℚ) ^ f.mbits * 2 ^ q = 2 ^ ((Nat.log2 x.m : Int) + x.e) := by
      rw [← zpow_natCast, ← zpow_add₀ (by norm_num), hqeq hne]
      congr 1
      omega
    have h3 := mul_le_mul_of_nonneg_right h1 hu.le
    linarith

/-- The encodings below and above a number bracket it. -/
theorem Mag.Stands.bracket (h : x.Stands v) (hp : x.Precise f) (h0 : v ≠ 0) :
    f.magVal (f.below x) ≤ v ∧ v < f.magVal (f.below x + 1) := by
  obtain ⟨hlt, hsub, hqmin, hq⟩ := h.floorAt_unitOf hp h0
  obtain ⟨hlo, hhi, -⟩ := h.roundShift hq
  rw [Fmt.below, Fmt.magVal_encodeMag hsub hqmin hlt, Fmt.magVal_encodeMag_succ hsub hqmin hlt]
  exact ⟨hlo, hhi⟩

/-- Delivery takes one of the two encodings that bracket the number, as the mode asks. -/
theorem Fmt.deliver_eq (hf : f.Proper) (h : x.Stands v) (hp : x.Precise f) (h0 : v ≠ 0) (r : Rounding) (sat neg : Bool) :
    f.deliver r sat neg x = f.delivered r sat neg (f.below x) v (f.tiny r neg x) := by
  obtain ⟨hlt, hsub, hqmin, hq⟩ := h.floorAt_unitOf hp h0
  obtain ⟨-, -, hround⟩ := h.roundShift hq
  have hm := h.m_ne_zero hp h0
  have henc : ∀ b : Bool, f.encodeMag (if b then x.floorAt (f.unitOf x) + 1 else x.floorAt (f.unitOf x)) (f.unitOf x) =
      if b then f.below x + 1 else f.below x := by
    intro b
    cases b
    · rfl
    · exact Fmt.encodeMag_succ hsub
  have hpar : f.below x % 2 = x.floorAt (f.unitOf x) % 2 := Fmt.encodeMag_mod hf
  have hunfold : f.deliver r sat neg x =
      (let p := roundShift r neg x.m (f.unitOf x - x.e) x.sticky
       let enc := f.encodeMag p.1 (f.unitOf x)
       if enc > f.maxFinite then f.deliverOverflow r sat neg
       else (f.signed neg enc, (if p.2 then fIX else 0#5) ||| (if p.2 && f.tiny r neg x then fUF else 0#5))) := by
    rw [Fmt.deliver, if_neg (fun hz => hm hz.1)]
    rfl
  have hlo : f.magVal (f.below x) = _ := Fmt.magVal_encodeMag hsub hqmin hlt
  have hhi : f.magVal (f.below x + 1) = _ := Fmt.magVal_encodeMag_succ hsub hqmin hlt
  rw [hunfold, hround]
  simp only [Fmt.delivered, henc, hpar, hlo, hhi, Bool.and_eq_true, decide_eq_true_eq]

theorem Fmt.deliver_zero (r : Rounding) (sat neg : Bool) (h : x.Stands 0) (hp : x.Precise f) :
    f.deliver r sat neg x = (f.signed neg 0, 0#5) := by
  have hu := two_zpow_pos x.e
  have hm : (x.m : ℚ) = 0 := by
    have h1 : (0 : ℚ) ≤ x.m := Nat.cast_nonneg _
    have h2 := h.lower
    nlinarith
  have hm : x.m = 0 := by exact_mod_cast hm
  have hs : x.sticky = false := by
    cases hs : x.sticky
    · rfl
    · have := hp hs
      rw [hm] at this
      simp [Nat.log2_zero] at this
  simp [Fmt.deliver, hm, hs]

end

end Sys2Proof.Machine
end

section
/-! SUPPORT. What is delivered is the number rounded once in the mode (R72, R75). -/

namespace Sys2Proof.Machine

/-- Of the numbers y the one asked for is z: the clause of Fmt.rounds for one y. -/
def asked (r : Rounding) (v z y : ℚ) (even : Prop) : Prop :=
  match r with
  | .rne => |z - v| < |y - v| ∨ (|z - v| = |y - v| ∧ (y = z ∨ even))
  | .rtz => |z| ≤ |v| ∧ 0 ≤ z * v ∧ (|y| ≤ |v| → 0 ≤ y * v → |y| ≤ |z|)
  | .rup => v ≤ z ∧ (v ≤ y → z ≤ y)
  | .rdn => z ≤ v ∧ (y ≤ v → y ≤ z)

/-- The mode that rounds a number as r rounds its negative. -/
def Rounding.mirror (neg : Bool) (r : Rounding) : Rounding :=
  if neg then (match r with | .rup => .rdn | .rdn => .rup | m => m) else r

theorem asked_signOf (neg : Bool) (r : Rounding) (v z y : ℚ) (even : Prop) :
    asked r (signOf neg * v) (signOf neg * z) (signOf neg * y) even ↔ asked (r.mirror neg) v z y even := by
  cases neg
  · simp [Rounding.mirror]
  · have h1 : ∀ a b : ℚ, |-a + b| = |a - b| := fun a b => by rw [← abs_neg]; congr 1; ring
    cases r <;> simp [asked, Rounding.mirror, h1]

theorem roundsUp_mirror (r : Rounding) (neg : Bool) (lo hi v : ℚ) (odd : Bool) :
    roundsUp r neg lo hi v odd = roundsUp (r.mirror neg) false lo hi v odd := by
  cases neg <;> cases r <;> rfl

/-- Of two numbers next to each other that bracket v, the one that the mode takes is the one asked for. -/
theorem asked_of_bracket {lo hi v y : ℚ} (h0 : 0 ≤ lo) (hlo : lo ≤ v) (hhi : v < hi) (hy : y ≤ lo ∨ hi ≤ y) (r : Rounding)
    (a enc : Nat)
    (henc : enc = if roundsUp r false lo hi v (a % 2 == 1) then a + 1 else a) :
    asked r v (if roundsUp r false lo hi v (a % 2 == 1) then hi else lo) y (enc % 2 = 0) := by
  cases r with
  | rtz =>
    simp only [roundsUp, Bool.false_eq_true, if_false, asked, abs_of_nonneg h0, abs_of_nonneg (h0.trans hlo)]
    refine ⟨hlo, mul_nonneg h0 (h0.trans hlo), fun h1 h2 => ?_⟩
    have hv : y ≤ v := (le_abs_self y).trans h1
    have hle : y ≤ lo := hy.resolve_right (by linarith)
    rcases le_or_gt 0 y with h | h
    · rwa [abs_of_nonneg h]
    · have : v = 0 := by nlinarith
      rw [this] at h1
      exact h1.trans h0
  | rup =>
    by_cases h : v = lo
    · subst h
      have : roundsUp .rup false v hi v (a % 2 == 1) = false := roundsUp_of_eq hhi _ _ _
      simp only [this, Bool.false_eq_true, if_false, asked]
      exact ⟨le_rfl, id⟩
    · have : roundsUp .rup false lo hi v (a % 2 == 1) = true := by simp [roundsUp, h]
      simp only [this, if_true, asked]
      have hlt := lt_of_le_of_ne hlo (Ne.symm h)
      exact ⟨hhi.le, fun h1 => hy.resolve_left (by linarith)⟩
  | rdn =>
    simp only [roundsUp, Bool.and_false, Bool.false_eq_true, if_false, asked]
    exact ⟨hlo, fun h1 => hy.resolve_right (by linarith)⟩
  | rne =>
    have hlov : |lo - v| = v - lo := by rw [abs_sub_comm, abs_of_nonneg (by linarith)]
    have hhiv : |hi - v| = hi - v := abs_of_nonneg (by linarith)
    have hyv : (y ≤ lo ∧ |y - v| = v - y) ∨ (hi ≤ y ∧ |y - v| = y - v) := by
      rcases hy with h | h
      · exact .inl ⟨h, by rw [abs_sub_comm, abs_of_nonneg (by linarith)]⟩
      · exact .inr ⟨h, abs_of_nonneg (by linarith)⟩
    have hcmp : ∀ z d : ℚ, ∀ p : Prop, (d < |y - v| ∨ d = |y - v| ∧ (y = z ∨ p)) ↔
        (d ≤ |y - v| ∧ (d = |y - v| → y = z ∨ p)) := fun z d p => by
      rw [le_iff_lt_or_eq]
      constructor
      · rintro (h | ⟨h, hp⟩)
        · exact ⟨.inl h, fun he => absurd he h.ne⟩
        · exact ⟨.inr h, fun _ => hp⟩
      · rintro ⟨h | h, hp⟩
        · exact .inl h
        · exact .inr ⟨h, hp h⟩
    rcases lt_trichotomy (lo + hi) (2 * v) with h | h | h
    · have hup : roundsUp .rne false lo hi v (a % 2 == 1) = true := by simp [roundsUp, h]
      simp only [hup, if_true, asked, hhiv, hcmp]
      rcases hyv with ⟨hy, hd⟩ | ⟨hy, hd⟩
      · exact ⟨by linarith, fun he => absurd he (by linarith)⟩
      · exact ⟨by linarith, fun he => .inl (by linarith)⟩
    · by_cases hodd : a % 2 = 1
      · have hup : roundsUp .rne false lo hi v (a % 2 == 1) = true := by simp [roundsUp, h, hodd]
        rw [hup, if_pos rfl] at henc
        have heven : enc % 2 = 0 := by omega
        simp only [hup, if_true, asked, hhiv, hcmp]
        refine ⟨?_, fun _ => .inr heven⟩
        rcases hyv with ⟨hy, hd⟩ | ⟨hy, hd⟩ <;> linarith
      · have hup : roundsUp .rne false lo hi v (a % 2 == 1) = false := by simp [roundsUp, h, hodd]
        rw [hup, if_neg (by decide)] at henc
        have heven : enc % 2 = 0 := by omega
        simp only [hup, Bool.false_eq_true, if_false, asked, hlov, hcmp]
        refine ⟨?_, fun _ => .inr heven⟩
        rcases hyv with ⟨hy, hd⟩ | ⟨hy, hd⟩ <;> linarith
    · have hup : roundsUp .rne false lo hi v (a % 2 == 1) = false := by simp [roundsUp, h.le, h.ne']
      simp only [hup, Bool.false_eq_true, if_false, asked, hlov, hcmp]
      rcases hyv with ⟨hy, hd⟩ | ⟨hy, hd⟩
      · exact ⟨by linarith, fun he => .inl (by linarith)⟩
      · exact ⟨by linarith, fun he => absurd he (by linarith)⟩

section
variable {f : Fmt} {v : ℚ} {r : Rounding}

/-- Fmt.rounds for a number that is delivered as a finite one. -/
theorem Fmt.rounds_of_finite {p : Nat × Flags} (hfin : (f.value p.1).isFin = true)
    (hflag : p.2.getLsbD 0 = true ↔ (f.value p.1).rat ≠ v)
    (h : ∀ y, (f.value y).isFin = true → asked r v (f.value p.1).rat (f.value y).rat (p.1 % 2 = 0)) :
    f.rounds r v p := by
  refine ⟨fun _ => ⟨hflag, fun y hy => ?_⟩, fun g hg => ?_, fun _ => ?_⟩
  · have := h y hy
    cases r <;> exact this
  · rw [hg] at hfin
    cases hfin
  · generalize f.value p.1 = z at hfin
    cases z with
    | fin => rfl
    | inf => rfl
    | nan => cases hfin


theorem Fmt.signed_even (hf : f.Proper) (neg : Bool) (n : Nat) : f.signed neg n % 2 = n % 2 := by
  have : f.signBit = 2 * 2 ^ (f.ebits + f.mbits - 1) := by
    rw [Fmt.signBit, ← Nat.pow_succ', Nat.succ_eq_add_one, Nat.sub_add_cancel (by have := hf.mantissa; omega)]
  cases neg
  · rfl
  · simp only [Fmt.signed, if_true]
    omega

/-- Every number of a format has the magnitude of an encoding that is not beyond the greatest. -/
theorem Fmt.rat_of_isFin (hf : f.Proper) {y : Nat} (hy : (f.value y).isFin = true) (neg : Bool) :
    ∃ w b, b ≤ f.maxFinite ∧ (f.value y).rat = signOf neg * w ∧ (w = f.magVal b ∨ w = -f.magVal b) := by
  have hb := (Fmt.isFin_iff hf y).mp hy
  obtain ⟨-, -, hval⟩ := Fmt.value_fin hf hb
  refine ⟨signOf neg * (f.value y).rat, y % f.signBit, hb, ?_, ?_⟩
  · rw [← mul_assoc, signOf_mul_self, one_mul]
  · rw [hval]
    cases neg <;> cases (y / f.signBit % 2 == 1) <;> simp

/-- No number of the format lies between neighbouring encodings. -/
theorem Fmt.outside_bracket {w : ℚ} {b : Nat} (a : Nat) (hw : w = f.magVal b ∨ w = -f.magVal b) :
    w ≤ f.magVal a ∨ f.magVal (a + 1) ≤ w := by
  have h1 := f.magVal_nonneg a
  have h2 := f.magVal_nonneg b
  rcases hw with rfl | rfl
  · rcases Nat.lt_or_ge a b with h | h
    · exact .inr (Fmt.magVal_strictMono.monotone h)
    · exact .inl (Fmt.magVal_strictMono.monotone h)
  · exact .inl (by linarith)

/-- Whether an overflow gives an infinity (Table 4-5). -/
def overflowsToInf (r : Rounding) (neg : Bool) : Bool :=
  match r with | .rne => true | .rtz => false | .rup => !neg | .rdn => neg

theorem Fmt.deliverOverflow_inf (hi : f.hasInf = true) {neg : Bool} (h : overflowsToInf r neg = true) :
    f.deliverOverflow r false neg = (f.signed neg f.inf, fOF ||| fIX) := by
  cases r <;> simp_all [Fmt.deliverOverflow, overflowsToInf]

theorem Fmt.deliverOverflow_max (hi : f.hasInf = true) {neg : Bool} (h : ¬ overflowsToInf r neg = true) :
    f.deliverOverflow r false neg = (f.signed neg f.maxFinite, fOF ||| fIX) := by
  cases r <;> simp_all [Fmt.deliverOverflow, overflowsToInf]

theorem Fmt.deliverOverflow_saturated (neg : Bool) :
    f.deliverOverflow r true neg = (f.signed neg f.maxFinite, fOF ||| fIX) := rfl

/-- An overflow: the number lies beyond every finite one. -/
theorem Fmt.rounds_overflow (hf : f.Proper) (hmax : f.magVal f.maxFinite < v) (neg : Bool) :
    f.rounds r (signOf neg * v) (f.deliverOverflow r false neg) := by
  have hbeyond : ∀ y, (f.value y).isFin = true → ∃ w, (f.value y).rat = signOf neg * w ∧ |w| ≤ f.magVal f.maxFinite := by
    intro y hy
    obtain ⟨w, b, hb, hw, hwb⟩ := Fmt.rat_of_isFin hf hy neg
    refine ⟨w, hw, ?_⟩
    have hle := (Fmt.magVal_strictMono (f := f)).monotone hb
    have h0 := f.magVal_nonneg b
    rcases hwb with rfl | rfl
    · rwa [abs_of_nonneg h0]
    · rwa [abs_neg, abs_of_nonneg h0]
  have hmax0 := f.magVal_nonneg f.maxFinite
  cases hi : f.hasInf
  · have hnan := Fmt.value_nan hf
    simp only [Fmt.deliverOverflow, hi, Bool.false_eq_true, if_false, Bool.not_false, if_true]
    refine ⟨fun h => ?_, fun g hg => ?_, fun h => ?_⟩
    · generalize f.value f.nan = z at hnan h
      cases z with
      | nan => cases h
      | inf => cases h
      | fin => cases hnan
    · rw [hg] at hnan
      cases hnan
    · rw [hi] at h
      cases h
  · by_cases hto : overflowsToInf r neg = true
    · rw [Fmt.deliverOverflow_inf hi hto]
      have hval := Fmt.value_signed_inf hi neg
      refine ⟨fun h => ?_, fun g hg => ⟨rfl, fun y hy => ?_⟩, fun _ => ?_⟩
      · rw [hval] at h
        cases h
      · rw [hval, FVal.inf.injEq] at hg
        subst hg
        obtain ⟨w, hw, hle⟩ := hbeyond y hy
        obtain ⟨h1, h2⟩ := abs_le.mp hle
        rw [hw]
        cases neg <;> simp <;> linarith
      · rw [hval]
        rfl
    · obtain ⟨hfin, -, hrat⟩ := Fmt.value_signed hf (le_refl f.maxFinite) neg
      rw [Fmt.deliverOverflow_max hi hto]
      refine Fmt.rounds_of_finite hfin ?_ fun y hy => ?_
      · rw [hrat]
        refine iff_of_true (show (fOF ||| fIX).getLsbD 0 = true by decide) fun h => ?_
        cases neg <;> simp at h <;> linarith
      · obtain ⟨w, hw, hle⟩ := hbeyond y hy
        obtain ⟨h1, h2⟩ := abs_le.mp hle
        rw [hrat, hw, asked_signOf]
        have hmode : r.mirror neg = .rtz ∨ r.mirror neg = .rdn := by
          cases r <;> cases neg <;> simp_all [Rounding.mirror, overflowsToInf]
        rcases hmode with h | h <;> rw [h]
        · simp only [asked, abs_of_nonneg hmax0, abs_of_nonneg (hmax0.trans hmax.le)]
          exact ⟨hmax.le, mul_nonneg hmax0 (hmax0.trans hmax.le), fun _ _ => hle⟩
        · exact ⟨hmax.le, fun _ => h2⟩

/-- What is delivered of a number between neighbouring encodings is that number rounded. -/
theorem Fmt.rounds_delivered (hf : f.Proper) {a : Nat} (hlo : f.magVal a ≤ v) (hhi : v < f.magVal (a + 1))
    (neg tiny : Bool) :
    f.rounds r (signOf neg * v) (f.delivered r false neg a v tiny) := by
  have hlt := f.magVal_lt_succ a
  have h0 := f.magVal_nonneg a
  simp only [Fmt.delivered]
  by_cases hover : (if roundsUp r neg (f.magVal a) (f.magVal (a + 1)) v (a % 2 == 1) then a + 1 else a) > f.maxFinite
  · rw [if_pos hover]
    refine Fmt.rounds_overflow hf ?_ neg
    split at hover
    · next hup =>
      rcases Nat.lt_or_eq_of_le (Nat.le_of_lt_succ hover) with h | h
      · exact (Fmt.magVal_strictMono h).trans_le hlo
      · rw [h]
        refine lt_of_le_of_ne hlo fun he => ?_
        rw [← he, roundsUp_of_eq hlt] at hup
        cases hup
    · exact (Fmt.magVal_strictMono hover).trans_le hlo
  · rw [if_neg hover]
    obtain ⟨hfin, -, hrat⟩ := Fmt.value_signed hf (Nat.le_of_not_lt hover) neg
    have hnear : f.magVal (if roundsUp r neg (f.magVal a) (f.magVal (a + 1)) v (a % 2 == 1) then a + 1 else a) =
        if roundsUp r neg (f.magVal a) (f.magVal (a + 1)) v (a % 2 == 1) then f.magVal (a + 1) else f.magVal a := by
      split <;> rfl
    refine Fmt.rounds_of_finite hfin ?_ fun y hy => ?_
    · have hbit : ((if v ≠ f.magVal a then fIX else 0#5) ||| (if v ≠ f.magVal a ∧ tiny then fUF else 0#5)).getLsbD 0 = true ↔
          v ≠ f.magVal a := by
        by_cases hv : v = f.magVal a <;> cases tiny <;> simp [hv, fIX, fUF]
      rw [hbit, hrat, hnear]
      by_cases hv : v = f.magVal a
      · rw [hv, roundsUp_of_eq hlt]
        simp
      · refine iff_of_true hv fun h => ?_
        have hne : signOf neg ≠ 0 := by cases neg <;> norm_num
        have := mul_left_cancel₀ hne h
        split at this
        · linarith
        · exact hv this.symm
    · obtain ⟨w, b, -, hw, hwb⟩ := Fmt.rat_of_isFin hf hy neg
      rw [hrat, hw, asked_signOf, hnear, Fmt.signed_even hf, roundsUp_mirror]
      exact asked_of_bracket h0 hlo hhi (Fmt.outside_bracket a hwb) _ a _ rfl

/-- A held number that is delivered is rounded. -/
theorem Fmt.rounds_deliver (hf : f.Proper) {x : Mag} (h : x.Stands v) (hp : x.Precise f) (neg : Bool) :
    f.rounds r (signOf neg * v) (f.deliver r false neg x) := by
  by_cases h0 : v = 0
  · subst h0
    rw [Fmt.deliver_zero r false neg h hp]
    obtain ⟨hfin, -, hrat⟩ := Fmt.value_signed hf (Nat.zero_le f.maxFinite) neg
    rw [Fmt.magVal_zero, mul_zero] at hrat
    rw [mul_zero]
    refine Fmt.rounds_of_finite hfin ?_ fun y hy => ?_
    · rw [hrat]; simp
    · rw [hrat]
      cases r with
      | rne =>
        by_cases hy : (f.value y).rat = 0
        · simp [asked, hy]
        · exact .inl (by simpa using hy)
      | rtz => simp [asked]
      | rup => exact ⟨le_rfl, id⟩
      | rdn => exact ⟨le_rfl, id⟩
  · rw [Fmt.deliver_eq hf h hp h0]
    obtain ⟨hlo, hhi⟩ := h.bracket hp h0
    exact Fmt.rounds_delivered hf hlo hhi neg _

/-- With saturate set an overflow gives the greatest number (R75). -/
theorem Fmt.deliver_saturated (hf : f.Proper) (hi : f.hasInf = true) {x : Mag} (h : x.Stands v) (hp : x.Precise f)
    (neg : Bool) :
    f.deliver r true neg x =
      match f.value (f.deliver r false neg x).1 with
      | .inf g => (f.signed g f.maxFinite, fOF ||| fIX)
      | _ => f.deliver r false neg x := by
  have hfinite : ∀ n, n ≤ f.maxFinite → ∀ p q : Nat × Flags, p.1 = f.signed neg n → q = p →
      q = match f.value p.1 with
        | .inf g => (f.signed g f.maxFinite, fOF ||| fIX)
        | _ => p := by
    rintro n hn p q hp rfl
    obtain ⟨hfin, -⟩ := Fmt.value_signed hf hn neg
    rw [hp]
    generalize f.value (f.signed neg n) = z at hfin
    cases z with
    | fin => rfl
    | inf => cases hfin
    | nan => rfl
  by_cases h0 : v = 0
  · subst h0
    rw [Fmt.deliver_zero r false neg h hp, Fmt.deliver_zero r true neg h hp]
    exact hfinite 0 (Nat.zero_le _) _ _ rfl rfl
  · rw [Fmt.deliver_eq hf h hp h0, Fmt.deliver_eq hf h hp h0]
    simp only [Fmt.delivered]
    generalize (if roundsUp r neg (f.magVal (f.below x)) (f.magVal (f.below x + 1)) v (f.below x % 2 == 1) then
      f.below x + 1 else f.below x) = enc
    by_cases hover : enc > f.maxFinite
    · rw [if_pos hover, if_pos hover]
      by_cases hto : overflowsToInf r neg = true
      · rw [Fmt.deliverOverflow_inf hi hto, Fmt.value_signed_inf hi, Fmt.deliverOverflow_saturated]
      · rw [Fmt.deliverOverflow_max hi hto]
        exact hfinite _ le_rfl _ _ rfl (Fmt.deliverOverflow_saturated neg)
    · rw [if_neg hover, if_neg hover]
      exact hfinite enc (Nat.le_of_not_lt hover) _ _ rfl rfl

end
end Sys2Proof.Machine
end

section
/-! SUPPORT. Sums, products, quotients and relations of floating-point numbers, and what NaNs and infinities give
(R72-R75, R79, R131-R133, R141). -/

namespace Sys2Proof.Machine

/-- An operation delivers a number: with either value of saturate it rounds what stands for that number. -/
def Fmt.Delivers (f : Fmt) (r : Rounding) (g : Bool → Nat × Flags) (v : ℚ) : Prop :=
  ∃ n x u, Mag.Stands x u ∧ x.Precise f ∧ signOf n * u = v ∧ ∀ sat, g sat = f.deliver r sat n x

section
variable {f : Fmt} {r : Rounding} {g : Bool → Nat × Flags} {v : ℚ}

theorem Fmt.Delivers.rounds (hf : f.Proper) (h : f.Delivers r g v) : f.rounds r v (g false) := by
  obtain ⟨n, x, u, hx, hp, rfl, hg⟩ := h
  rw [hg]
  exact Fmt.rounds_deliver hf hx hp n

theorem Fmt.Delivers.saturated (hf : f.Proper) (hi : f.hasInf = true) (h : f.Delivers r g v) :
    g true = match f.value (g false).1 with
      | .inf s => (f.signed s f.maxFinite, fOF ||| fIX)
      | _ => g false := by
  obtain ⟨n, x, u, hx, hp, -, hg⟩ := h
  rw [hg, hg]
  exact Fmt.deliver_saturated hf hi hx hp n

theorem Mag.stands_exact (m : Nat) (e : Int) : Mag.Stands ⟨m, e, false⟩ (m * (2 : ℚ) ^ e) where
  lower := le_rfl
  upper := by have := two_zpow_pos e; simp only; linarith
  exact := fun _ => rfl
  above := fun h => by cases h

theorem Mag.precise_exact (m : Nat) (e : Int) (f : Fmt) : Mag.Precise ⟨m, e, false⟩ f := by simp [Mag.Precise]

theorem Fmt.delivers_exact {n : Bool} {m : Nat} {e : Int} (hv : signOf n * (m * (2 : ℚ) ^ e) = v)
    (hg : ∀ sat, g sat = f.deliver r sat n ⟨m, e, false⟩) : f.Delivers r g v :=
  ⟨n, _, _, Mag.stands_exact m e, Mag.precise_exact m e f, hv, hg⟩

theorem FVal.exists_of_isFin {x : FVal} (h : x.isFin = true) : ∃ n m e, x = .fin n m e := by
  cases x with
  | fin n m e => exact ⟨n, m, e, rfl⟩
  | nan => cases h
  | inf => cases h

theorem FVal.isFin_negate (x : FVal) : x.negate.isFin = x.isFin := by cases x <;> rfl

theorem FVal.rat_negate (x : FVal) : x.negate.rat = -x.rat := by
  cases x with
  | fin n m e => rw [FVal.negate, FVal.rat_fin, FVal.rat_fin, signOf_not]; ring
  | nan => simp [FVal.negate, FVal.rat]
  | inf => simp [FVal.negate, FVal.rat]

/-! ### Sums and products -/

theorem cast_scaled (n : Bool) (m : Nat) {e q : Int} (h : q ≤ e) :
    ((scaled n m e q : Int) : ℚ) * (2 : ℚ) ^ q = signOf n * (m * 2 ^ e) := by
  rw [scaled, two_zpow_shift h]
  cases n
  · simp [Nat.shiftLeft_eq]; ring
  · simp [Nat.shiftLeft_eq]; ring

/-- The exact sum of two numbers. -/
theorem sumFin_spec (r : Rounding) (n1 : Bool) (m1 : Nat) (e1 : Int) (n2 : Bool) (m2 : Nat) (e2 : Int) :
    ∃ n m e, sumFin r n1 m1 e1 n2 m2 e2 = (n, ⟨m, e, false⟩) ∧
      signOf n * (m * (2 : ℚ) ^ e) = signOf n1 * (m1 * 2 ^ e1) + signOf n2 * (m2 * 2 ^ e2) := by
  have hq1 : (if e1 < e2 then e1 else e2) ≤ e1 := by split <;> omega
  have hq2 : (if e1 < e2 then e1 else e2) ≤ e2 := by split <;> omega
  have h1 := cast_scaled n1 m1 hq1
  have h2 := cast_scaled n2 m2 hq2
  simp only [sumFin]
  generalize (if e1 < e2 then e1 else e2) = q at h1 h2 ⊢
  rw [← h1, ← h2, ← add_mul, ← Int.cast_add]
  generalize scaled n1 m1 e1 q + scaled n2 m2 e2 q = t
  split
  · next ht => exact ⟨_, 0, q, rfl, by simp [ht]⟩
  · refine ⟨_, t.natAbs, q, rfl, ?_⟩
    rw [← mul_assoc]
    congr 1
    by_cases hneg : t < 0
    · rw [decide_eq_true hneg, signOf_true, Nat.cast_natAbs, abs_of_neg hneg]
      simp
    · rw [decide_eq_false hneg, signOf_false, Nat.cast_natAbs, abs_of_nonneg (by omega)]
      simp

theorem Fmt.add_delivers {x y : FVal} (hx : x.isFin = true) (hy : y.isFin = true) :
    f.Delivers r (fun sat => f.add r sat x y) (x.rat + y.rat) := by
  obtain ⟨n1, m1, e1, rfl⟩ := FVal.exists_of_isFin hx
  obtain ⟨n2, m2, e2, rfl⟩ := FVal.exists_of_isFin hy
  obtain ⟨n, m, e, hsum, hval⟩ := sumFin_spec r n1 m1 e1 n2 m2 e2
  refine Fmt.delivers_exact (n := n) (m := m) (e := e) (by rw [hval, FVal.rat_fin, FVal.rat_fin]) fun sat => ?_
  simp only [Fmt.add, FVal.isNan, Bool.or_self, Bool.false_eq_true, if_false, hsum]

theorem Fmt.mul_delivers {x y : FVal} (hx : x.isFin = true) (hy : y.isFin = true) :
    f.Delivers r (fun sat => f.mul r sat x y) (x.rat * y.rat) := by
  obtain ⟨n1, m1, e1, rfl⟩ := FVal.exists_of_isFin hx
  obtain ⟨n2, m2, e2, rfl⟩ := FVal.exists_of_isFin hy
  refine Fmt.delivers_exact (n := n1 != n2) (m := m1 * m2) (e := e1 + e2) ?_ fun sat => ?_
  · rw [FVal.rat_fin, FVal.rat_fin, signOf_bne, zpow_add₀ (by norm_num)]
    push_cast
    ring
  · simp only [Fmt.mul, FVal.isNan, Bool.or_self, Bool.false_eq_true, if_false]

theorem Fmt.fma_delivers {x y z : FVal} (hx : x.isFin = true) (hy : y.isFin = true) (hz : z.isFin = true) :
    f.Delivers r (fun sat => f.fma r sat x y z) (z.rat + x.rat * y.rat) := by
  obtain ⟨n1, m1, e1, rfl⟩ := FVal.exists_of_isFin hx
  obtain ⟨n2, m2, e2, rfl⟩ := FVal.exists_of_isFin hy
  obtain ⟨n3, m3, e3, rfl⟩ := FVal.exists_of_isFin hz
  obtain ⟨n, m, e, hsum, hval⟩ := sumFin_spec r (n1 != n2) (m1 * m2) (e1 + e2) n3 m3 e3
  refine Fmt.delivers_exact (n := n) (m := m) (e := e) ?_ fun sat => ?_
  · rw [hval, FVal.rat_fin, FVal.rat_fin, FVal.rat_fin, signOf_bne, zpow_add₀ (by norm_num)]
    push_cast
    ring
  · simp only [Fmt.fma, FVal.isNan, Bool.or_self, Bool.false_eq_true, if_false, hsum]

/-! ### Quotients -/

theorem quotient_stands {m1 m2 : Nat} (e1 e2 : Int) (p : Nat) (h2 : m2 ≠ 0) :
    (quotient p m1 e1 m2 e2).Stands (m1 * (2 : ℚ) ^ e1 / (m2 * 2 ^ e2)) := by
  have hm2 : (0 : ℚ) < m2 := by exact_mod_cast Nat.pos_of_ne_zero h2
  simp only [quotient]
  generalize p + 3 + Nat.log2 m2 = k
  have hdiv : ((m1 <<< k / m2 : Nat) : ℚ) * m2 + (m1 <<< k % m2 : Nat) = m1 * 2 ^ k := by
    have := Nat.div_add_mod' (m1 <<< k) m2
    rw [Nat.shiftLeft_eq] at this ⊢
    exact_mod_cast this
  have hmod : ((m1 <<< k % m2 : Nat) : ℚ) < m2 := by exact_mod_cast Nat.mod_lt _ (Nat.pos_of_ne_zero h2)
  have hv : (m1 : ℚ) * 2 ^ e1 / (m2 * 2 ^ e2) = (m1 * 2 ^ k / m2) * 2 ^ (e1 - e2 - k) := by
    rw [zpow_sub₀ (by norm_num), zpow_sub₀ (by norm_num), zpow_natCast]
    field_simp
  rw [hv]
  have hu := two_zpow_pos (e1 - e2 - k)
  have hr : (0 : ℚ) ≤ (m1 <<< k % m2 : Nat) := Nat.cast_nonneg _
  refine ⟨?_, ?_, fun h => ?_, fun h => ?_⟩
  · refine mul_le_mul_of_nonneg_right ?_ hu.le
    rw [le_div_iff₀ hm2]
    linarith
  · refine mul_lt_mul_of_pos_right ?_ hu
    rw [div_lt_iff₀ hm2]
    linarith
  · have h0 : m1 <<< k % m2 = 0 := by simpa using h
    rw [h0] at hdiv
    congr 1
    rw [div_eq_iff hm2.ne', ← hdiv]
    simp
  · have h0 : (0 : ℚ) < (m1 <<< k % m2 : Nat) := by
      exact_mod_cast Nat.pos_of_ne_zero (by simpa using h)
    refine mul_lt_mul_of_pos_right ?_ hu
    rw [lt_div_iff₀ hm2]
    linarith

theorem quotient_precise {m1 m2 : Nat} (e1 e2 : Int) (h2 : m2 ≠ 0) :
    (quotient (f.mbits + 1) m1 e1 m2 e2).Precise f := by
  intro h
  have h1 : m1 ≠ 0 := by
    rintro rfl
    simp [quotient] at h
  have hlog : m2 < 2 ^ (Nat.log2 m2 + 1) := Nat.lt_log2_self
  have hge : 2 ^ (f.mbits + 3) ≤ m1 <<< (f.mbits + 1 + 3 + Nat.log2 m2) / m2 := by
    rw [Nat.le_div_iff_mul_le (Nat.pos_of_ne_zero h2), Nat.shiftLeft_eq]
    calc 2 ^ (f.mbits + 3) * m2 ≤ 2 ^ (f.mbits + 3) * 2 ^ (Nat.log2 m2 + 1) := Nat.mul_le_mul_left _ hlog.le
      _ = 1 * 2 ^ (f.mbits + 1 + 3 + Nat.log2 m2) := by rw [← Nat.pow_add, one_mul]; congr 1; omega
      _ ≤ _ := Nat.mul_le_mul_right _ (Nat.pos_of_ne_zero h1)
  have hne : m1 <<< (f.mbits + 1 + 3 + Nat.log2 m2) / m2 ≠ 0 := by
    have := Nat.two_pow_pos (f.mbits + 3)
    omega
  have := (Nat.le_log2 hne).mpr hge
  simp only [quotient]
  omega

theorem Fmt.div_delivers {x y : FVal} (hx : x.isFin = true) (hy : y.isFin = true) (h0 : y.rat ≠ 0) :
    f.Delivers r (fun sat => f.div r sat x y) (x.rat / y.rat) := by
  obtain ⟨n1, m1, e1, rfl⟩ := FVal.exists_of_isFin hx
  obtain ⟨n2, m2, e2, rfl⟩ := FVal.exists_of_isFin hy
  have h2 : m2 ≠ 0 := by
    rintro rfl
    exact h0 (by simp [FVal.rat])
  refine ⟨n1 != n2, _, _, quotient_stands (m1 := m1) e1 e2 (f.mbits + 1) h2, quotient_precise e1 e2 h2, ?_, fun sat => ?_⟩
  · rw [FVal.rat_fin, FVal.rat_fin, signOf_bne]
    have hs : signOf n1 / signOf n2 = signOf n1 * signOf n2 := by cases n1 <;> cases n2 <;> norm_num
    rw [mul_div_mul_comm (signOf n1), hs]
  · simp only [Fmt.div, FVal.isNan, Bool.or_self, Bool.false_eq_true, if_false, h2, FVal.neg]

theorem Fmt.rcp_delivers {x : FVal} (hx : x.isFin = true) (h0 : x.rat ≠ 0) :
    f.Delivers r (fun sat => f.rcp r sat x) (1 / x.rat) := by
  have := Fmt.div_delivers (f := f) (r := r) (x := .fin false 1 0) rfl hx h0
  simpa [Fmt.rcp, FVal.rat] using this

/-! ### Relations -/

theorem FVal.cmp_fin {x y : FVal} (hx : x.isFin = true) (hy : y.isFin = true) : x.cmp y = compare x.rat y.rat := by
  obtain ⟨n1, m1, e1, rfl⟩ := FVal.exists_of_isFin hx
  obtain ⟨n2, m2, e2, rfl⟩ := FVal.exists_of_isFin hy
  have hq1 : (if e1 < e2 then e1 else e2) ≤ e1 := by split <;> omega
  have hq2 : (if e1 < e2 then e1 else e2) ≤ e2 := by split <;> omega
  have h1 := cast_scaled n1 m1 hq1
  have h2 := cast_scaled n2 m2 hq2
  simp only [FVal.cmp]
  rw [FVal.rat_fin, FVal.rat_fin, ← h1, ← h2]
  generalize (if e1 < e2 then e1 else e2) = q
  have hu := two_zpow_pos q
  rcases lt_trichotomy (scaled n1 m1 e1 q) (scaled n2 m2 e2 q) with h | h | h
  · rw [compare_lt_iff_lt.mpr h, compare_lt_iff_lt.mpr (mul_lt_mul_of_pos_right (by exact_mod_cast h) hu)]
  · rw [h, compare_eq_iff_eq.mpr rfl, compare_eq_iff_eq.mpr rfl]
  · rw [compare_gt_iff_gt.mpr h, compare_gt_iff_gt.mpr (mul_lt_mul_of_pos_right (by exact_mod_cast h) hu)]

/-- The relations of two numbers. -/
theorem compareElem_fin {t : ElemType} (ht : t.fmt = some f) {x y : Nat} (hx : (f.value x).isFin = true)
    (hy : (f.value y).isFin = true) (rel : Rel) :
    compareElem rel t x y = ((match rel with
      | .eq => decide ((f.value x).rat = (f.value y).rat)
      | .ne => decide ((f.value x).rat ≠ (f.value y).rat)
      | .lt => decide ((f.value x).rat < (f.value y).rat)
      | .le => decide ((f.value x).rat ≤ (f.value y).rat)
      | .un => false), 0#5) := by
  have hcmp := FVal.cmp_fin hx hy
  have hnum : ∀ v : FVal, v.isFin = true → v.isNan = false ∧ v.snan = 0#5 := fun v hv => by
    obtain ⟨n, m, e, rfl⟩ := FVal.exists_of_isFin hv
    exact ⟨rfl, rfl⟩
  simp only [compareElem, ht, hcmp, hnum _ hx, hnum _ hy]
  generalize (f.value x).rat = a
  generalize (f.value y).rat = b
  rcases lt_trichotomy a b with h | h | h
  · rw [compare_lt_iff_lt.mpr h]
    cases rel <;> simp [h, h.ne, h.le]
  · rw [compare_eq_iff_eq.mpr h]
    cases rel <;> simp [h]
  · rw [compare_gt_iff_gt.mpr h]
    cases rel <;> simp [h.ne', h.le, h]

/-! ### NaNs and infinities -/

/-- A NaN operand gives the NaN of the format, and IV where it signals. -/
theorem Fmt.ops_nan {x y : FVal} (h : x.isNan = true ∨ y.isNan = true) (sat : Bool) :
    f.add r sat x y = (f.nan, x.snan ||| y.snan) ∧ f.mul r sat x y = (f.nan, x.snan ||| y.snan) ∧
      f.div r sat x y = (f.nan, x.snan ||| y.snan) := by
  have h : (x.isNan || y.isNan) = true := by simpa using h
  simp only [Fmt.add, Fmt.mul, Fmt.div, h, if_true, and_self]

theorem FVal.isNan_negate (x : FVal) : x.negate.isNan = x.isNan := by cases x <;> rfl

theorem FVal.snan_negate (x : FVal) : x.negate.snan = x.snan := by
  cases x with
  | nan s => cases s <;> rfl
  | inf => rfl
  | fin => rfl

theorem compareElem_nan {t : ElemType} (ht : t.fmt = some f) {x y : Nat}
    (h : (f.value x).isNan = true ∨ (f.value y).isNan = true) :
    compareElem .eq t x y = (false, (f.value x).snan ||| (f.value y).snan) ∧
      compareElem .ne t x y = (true, (f.value x).snan ||| (f.value y).snan) ∧
      compareElem .un t x y = (true, (f.value x).snan ||| (f.value y).snan) ∧
      compareElem .lt t x y = (false, fIV) ∧ compareElem .le t x y = (false, fIV) := by
  have h : ((f.value x).isNan || (f.value y).isNan) = true := by simpa using h
  have hsn : ∀ v : FVal, v.snan = 0#5 ∨ v.snan = fIV := fun v => by
    cases v with
    | nan s => cases s <;> simp [FVal.snan]
    | inf => exact .inl rfl
    | fin => exact .inl rfl
  have hiv : (f.value x).snan ||| (f.value y).snan ||| fIV = fIV := by
    rcases hsn (f.value x) with h1 | h1 <;> rcases hsn (f.value y) with h2 | h2 <;> rw [h1, h2] <;> rfl
  simp [compareElem, ht, h, hiv]

theorem Fmt.deliverInf_eq (hi : f.hasInf = true) (sat neg : Bool) (fl : Flags) :
    f.deliverInf sat neg fl = (f.signed neg f.inf, fl) := by
  simp [Fmt.deliverInf, hi]

end

end Sys2Proof.Machine
end

section
/-! SUPPORT. Conversions: to an integer, from an integer or a Q4N level, and between formats (R139, R140, Table 6-6). -/

namespace Sys2Proof.Machine

section
variable {r : Rounding}

/-- A rounding to an integer mirrors as the sign does. -/
theorem intRounds_mirror (neg : Bool) (r : Rounding) (u : ℚ) (k : Nat) :
    intRounds r (signOf neg * u) (if neg then -(k : Int) else k) ↔ intRounds (r.mirror neg) u k := by
  cases neg
  · simp [Rounding.mirror]
  · have h1 : |-(k : ℚ) + u| = |(k : ℚ) - u| := by rw [← abs_neg]; congr 1; ring
    cases r with
    | rne => simp [intRounds, Rounding.mirror, h1]
    | rtz => simp [intRounds, Rounding.mirror]
    | rup =>
      simp only [intRounds, Rounding.mirror, if_true, signOf_true, Int.cast_neg, Int.cast_natCast]
      constructor <;> rintro ⟨h1, h2⟩ <;> constructor <;> linarith
    | rdn =>
      simp only [intRounds, Rounding.mirror, if_true, signOf_true, Int.cast_neg, Int.cast_natCast]
      constructor <;> rintro ⟨h1, h2⟩ <;> constructor <;> linarith

/-- The integer that a mode takes of the two next to a number is the number rounded. -/
theorem intRounds_of_bracket {n : Nat} {u : ℚ} (h1 : (n : ℚ) ≤ u) (h2 : u < n + 1) (r : Rounding) :
    intRounds r u ((if roundsUp r false n (n + 1) u (n % 2 == 1) then n + 1 else n : Nat) : Int) := by
  have hn : (0 : ℚ) ≤ n := Nat.cast_nonneg n
  cases r with
  | rtz =>
    simp only [roundsUp, Bool.false_eq_true, if_false, intRounds, Int.cast_natCast, abs_of_nonneg hn,
      abs_of_nonneg (hn.trans h1)]
    exact ⟨h1, h2, mul_nonneg hn (hn.trans h1)⟩
  | rup =>
    by_cases h : u = n
    · simp [roundsUp, intRounds, h]
    · have hlt := lt_of_le_of_ne h1 (Ne.symm h)
      simp only [roundsUp, ne_eq, h, not_false_eq_true, decide_true, Bool.not_false, Bool.and_self, if_true, intRounds]
      push_cast
      exact ⟨h2.le, by linarith⟩
  | rdn =>
    simp only [roundsUp, Bool.and_false, Bool.false_eq_true, if_false, intRounds, Int.cast_natCast]
    exact ⟨h1, h2⟩
  | rne =>
    have hlo : |(n : ℚ) - u| = u - n := by rw [abs_sub_comm, abs_of_nonneg (by linarith)]
    have hhi : |(n + 1 : ℚ) - u| = n + 1 - u := abs_of_nonneg (by linarith)
    rcases lt_trichotomy ((n : ℚ) + (n + 1)) (2 * u) with h | h | h
    · simp only [roundsUp, h, decide_true, Bool.true_or, if_true, intRounds]
      push_cast
      rw [hhi]
      exact .inl (by linarith)
    · by_cases hodd : n % 2 = 1
      · simp only [roundsUp, h, lt_self_iff_false, decide_false, decide_true, hodd, beq_self_eq_true, Bool.and_self,
          Bool.false_or, if_true, intRounds]
        push_cast
        rw [hhi]
        exact .inr ⟨by linarith, by omega⟩
      · simp only [roundsUp, h, lt_self_iff_false, decide_false, decide_true, beq_eq_false_iff_ne.mpr hodd, Bool.and_false,
          Bool.false_or, Bool.false_eq_true, if_false, intRounds, Int.cast_natCast]
        rw [hlo]
        exact .inr ⟨by linarith, by omega⟩
    · simp only [roundsUp, h.le.not_gt, h.ne', decide_false, Bool.false_and, Bool.false_or, Bool.false_eq_true, if_false,
        intRounds, Int.cast_natCast]
      rw [hlo]
      exact .inl (by linarith)

theorem cast_signed (n : Bool) (k : Nat) : ((if n then -(k : Int) else k : Int) : ℚ) = signOf n * k := by
  cases n <;> simp

/-- A number rounded to an integer, and whether that was inexact. -/
theorem roundInt_spec (r : Rounding) (n : Bool) (m : Nat) (e : Int) :
    ∃ k : Nat, roundInt r n ⟨m, e, false⟩ =
        (if n then -(k : Int) else k, decide (((if n then -(k : Int) else k : Int) : ℚ) ≠ signOf n * (m * 2 ^ e))) ∧
      intRounds r (signOf n * (m * 2 ^ e)) (if n then -(k : Int) else k) ∧ (m * (2 : ℚ) ^ e < k + 1) := by
  have hst := Mag.stands_exact m e
  obtain ⟨h1, h2, h3⟩ := hst.roundShift (q := 0) (fun h => by cases h)
  generalize Mag.floorAt ⟨m, e, false⟩ 0 = a at h1 h2 h3
  simp only [zpow_zero, mul_one, zero_sub] at h1 h2 h3
  refine ⟨if roundsUp r n a (a + 1) (m * 2 ^ e) (a % 2 == 1) then a + 1 else a, ?_, ?_, ?_⟩
  · rw [roundInt, h3]
    refine Prod.ext rfl ?_
    have hs : signOf n ≠ 0 := by cases n <;> norm_num
    rw [cast_signed]
    refine decide_eq_decide.mpr (not_congr ?_)
    rw [mul_right_inj' hs]
    by_cases hv : (m : ℚ) * 2 ^ e = a
    · rw [hv, roundsUp_of_eq (by linarith)]
      simp
    · refine iff_of_false hv fun h => ?_
      split at h
      · push_cast at h
        linarith
      · exact hv h.symm
  · rw [intRounds_mirror, roundsUp_mirror]
    exact intRounds_of_bracket h1 h2 _
  · split
    · push_cast
      linarith
    · exact h2

/-- The integers of a type, and those beyond them. -/
theorem ElemType.clamp_far {t : ElemType} {k : Nat} (h : 2 ^ 64 ≤ k) (neg : Bool) :
    t.clamp (if neg then -(k : Int) else k) = (if neg then t.least else t.greatest) ∧
      t.clamp (if neg then -(k : Int) else k) ≠ (if neg then -(k : Int) else k) := by
  have hr : -2 ^ 63 ≤ t.least ∧ t.least ≤ 0 ∧ 0 ≤ t.greatest ∧ t.greatest < 2 ^ 64 := by
    cases t <;> decide
  obtain ⟨h1, h2, h3, h4⟩ := hr
  simp only [ElemType.clamp]
  cases neg
  · simp only [Bool.false_eq_true, if_false]
    rw [if_neg (by omega), if_pos (by omega)]
    exact ⟨rfl, by omega⟩
  · simp only [if_true]
    rw [if_pos (by omega)]
    exact ⟨rfl, by omega⟩

/-- A number is converted to the integer that the mode asks for, clamped. -/
theorem toInt_fin (t : ElemType) (n : Bool) (m : Nat) (e : Int) :
    ∃ k : Int, intRounds r (FVal.fin n m e).rat k ∧
      toInt r t (.fin n m e) = (t.wrap (t.clamp k),
        if t.clamp k ≠ k then fIV else if (k : ℚ) = (FVal.fin n m e).rat then 0#5 else fIX) := by
  obtain ⟨k, hround, hint, hlt⟩ := roundInt_spec r n m e
  rw [FVal.rat_fin]
  refine ⟨_, hint, ?_⟩
  simp only [toInt]
  split
  · next hbig =>
    obtain ⟨hm, hbig⟩ := hbig
    have hlog := ((Mag.stands_exact m e).log2 hm).1
    have hk : 2 ^ 64 ≤ k := by
      have h1 : (2 : ℚ) ^ (70 : Int) ≤ 2 ^ ((Nat.log2 m : Int) + e) := two_zpow_le.mpr hbig
      have h2 : (2 : ℚ) ^ (70 : Int) < k + 1 := (h1.trans hlog).trans_lt hlt
      have h3 : (2 ^ 70 : ℚ) < k + 1 := by exact_mod_cast h2
      have h4 : 2 ^ 70 < k + 1 := by exact_mod_cast h3
      omega
    obtain ⟨hc, hne⟩ := ElemType.clamp_far (t := t) hk n
    rw [if_pos hne, hc]
  · rw [hround]
    by_cases hc : t.clamp (if n then -(k : Int) else k) = (if n then -(k : Int) else k)
    · simp [hc]
    · simp [hc]

end

/-! ### The value that is converted -/

section
variable {s t : ElemType} {r : Rounding} {sat : Bool} {x : Nat}

theorem ElemType.fmt_of_isInt (h : t.isInt = true) : t.fmt = none ∧ t ≠ .q4nx8 := by
  cases t <;> simp [ElemType.isInt, ElemType.fmt] at h ⊢

theorem ElemType.ne_q4_of_fmt {g : Fmt} (h : t.fmt = some g) : t ≠ .q4nx8 := by
  rintro rfl
  cases h

theorem convertElem_fmt {g : Fmt} (h : t.fmt = some g) (hne : s ≠ t) :
    convertElem ⟨s, r, sat⟩ t x = g.deliverVal r sat (s.value x) := by
  simp only [convertElem, hne, if_false, ElemType.ne_q4_of_fmt h, h]

theorem convertElem_int (h : t.isInt = true) (hne : s ≠ t) :
    convertElem ⟨s, r, sat⟩ t x =
      if s.isInt then (t.wrap (if sat then t.clamp (s.int x) else s.int x), 0#5) else toInt r t (s.value x) := by
  obtain ⟨hf, hq⟩ := ElemType.fmt_of_isInt h
  simp only [convertElem, hne, if_false, hq, hf]

theorem ElemType.value_of_fmt {f : Fmt} (h : s.fmt = some f) (x : Nat) : s.value x = f.value x ∧ s.isInt = false := by
  refine ⟨by simp only [ElemType.value, h], ?_⟩
  cases s <;> simp [ElemType.isInt, ElemType.fmt] at h ⊢

/-- The number that an integer, with a unit, is. -/
theorem FVal.rat_ofInt (k e : Int) : (FVal.fin (decide (k < 0)) k.natAbs e).rat = k * (2 : ℚ) ^ e := by
  rw [FVal.rat_fin, ← mul_assoc]
  congr 1
  by_cases h : k < 0
  · rw [decide_eq_true h, signOf_true, Nat.cast_natAbs, abs_of_neg h]
    simp
  · rw [decide_eq_false h, signOf_false, Nat.cast_natAbs, abs_of_nonneg (by omega)]
    simp

theorem ElemType.value_of_isInt (h : s.isInt = true) (x : Nat) :
    s.value x = .fin (decide (s.int x < 0)) (s.int x).natAbs 0 := by
  obtain ⟨hf, hq⟩ := ElemType.fmt_of_isInt h
  simp only [ElemType.value, hf, hq, if_false]

theorem Fmt.deliverVal_fin {g : Fmt} (hg : g.Proper) {v : FVal} (h : v.isFin = true) :
    g.rounds r v.rat (g.deliverVal r false v) := by
  obtain ⟨n, m, e, rfl⟩ := FVal.exists_of_isFin h
  rw [FVal.rat_fin]
  exact Fmt.rounds_deliver hg (Mag.stands_exact m e) (Mag.precise_exact m e g) n

/-- Conversions to a floating-point type and to an integer (the last clause of what elements become). -/
theorem convertElem_values (s t : ElemType) (r : Rounding) (sat : Bool) (x : Nat) (hne : s ≠ t) :
    (∀ g, t.fmt = some g → sat = false →
      (∀ f, s.fmt = some f → (f.value x).isFin = true → g.rounds r (f.value x).rat (convertElem ⟨s, r, sat⟩ t x)) ∧
      (∀ f, s.fmt = some f → (f.value x).isNan = true → convertElem ⟨s, r, sat⟩ t x = (g.nan, (f.value x).snan)) ∧
      (s.isInt = true → g.rounds r (s.int x) (convertElem ⟨s, r, sat⟩ t x)) ∧
      (s = .q4nx8 → g.rounds r ((q4Level x : Rat) / 128) (convertElem ⟨s, r, sat⟩ t x))) ∧
    (t.isInt = true →
      (∀ f, s.fmt = some f → (f.value x).isFin = true → ∃ k, intRounds r (f.value x).rat k ∧
        convertElem ⟨s, r, sat⟩ t x =
          (t.wrap (t.clamp k), if t.clamp k ≠ k then fIV else if (k : Rat) = (f.value x).rat then 0#5 else fIX)) ∧
      (∀ f, s.fmt = some f → (f.value x).isNan = true → convertElem ⟨s, r, sat⟩ t x = (0, fIV)) ∧
      (s.isInt = true →
        convertElem ⟨s, r, sat⟩ t x = (t.wrap (if sat then t.clamp (s.int x) else s.int x), 0#5))) := by
  refine ⟨fun g hg hsat => ?_, fun ht => ?_⟩
  · subst hsat
    have hgp := ElemType.fmt_proper hg
    rw [convertElem_fmt hg hne]
    refine ⟨fun f hf hfin => ?_, fun f hf hnan => ?_, fun hs => ?_, fun hs => ?_⟩
    · rw [(ElemType.value_of_fmt hf x).1]
      exact Fmt.deliverVal_fin hgp hfin
    · rw [(ElemType.value_of_fmt hf x).1]
      generalize f.value x = v at hnan
      cases v with
      | nan sg => cases sg <;> rfl
      | inf => cases hnan
      | fin => cases hnan
    · rw [ElemType.value_of_isInt hs]
      have hr := FVal.rat_ofInt (s.int x) 0
      rw [zpow_zero, mul_one] at hr
      rw [← hr]
      exact Fmt.deliverVal_fin hgp rfl
    · subst hs
      have hv : ElemType.value .q4nx8 x = .fin (decide (q4Level x < 0)) (q4Level x).natAbs (-7) := rfl
      have hr := FVal.rat_ofInt (q4Level x) (-7)
      have h128 : (q4Level x : ℚ) / 128 = q4Level x * 2 ^ (-7 : Int) := by norm_num [zpow_neg]; ring
      rw [hv, h128, ← hr]
      exact Fmt.deliverVal_fin hgp rfl
  · rw [convertElem_int ht hne]
    refine ⟨fun f hf hfin => ?_, fun f hf hnan => ?_, fun hs => ?_⟩
    · obtain ⟨hv, hi⟩ := ElemType.value_of_fmt hf x
      obtain ⟨n, m, e, hfe⟩ := FVal.exists_of_isFin hfin
      rw [hv, hi, if_neg (by decide), hfe]
      exact toInt_fin t n m e
    · obtain ⟨hv, hi⟩ := ElemType.value_of_fmt hf x
      rw [hv, hi, if_neg (by decide)]
      generalize f.value x = v at hnan
      cases v with
      | nan => rfl
      | inf => cases hnan
      | fin => cases hnan
    · rw [if_pos hs]

end

end Sys2Proof.Machine
end

section
/-! SUPPORT. Integer elements of 32 bits, and the sign operations of f32 (R74, R76, R131-R137, Tables 6-4, 6-5). -/

namespace Sys2Proof.Machine

theorem Word.ofInt_sub (a b : Int) : BitVec.ofInt 32 (a - b) = BitVec.ofInt 32 a - BitVec.ofInt 32 b := by
  rw [sub_eq_add_neg, BitVec.ofInt_add, BitVec.ofInt_neg, BitVec.sub_eq_add_neg]

section
variable {t : ElemType} {r : Rounding}

theorem width_word (ht : t = .i32 ∨ t = .n32) : t.width = 32 := by
  obtain rfl | rfl := ht <;> rfl

theorem mapElems_i32 (f : ElemOp) (x y z : Word) : mapElems .i32 f x.toNat y.toNat z.toNat =
    ((f x.toNat y.toNat z.toNat).1 % 2 ^ 32, (f x.toNat y.toNat z.toNat).2) := mapElems_word (.inl rfl) f x y z

theorem mapElems_n32 (f : ElemOp) (x y z : Word) : mapElems .n32 f x.toNat y.toNat z.toNat =
    ((f x.toNat y.toNat z.toNat).1 % 2 ^ 32, (f x.toNat y.toNat z.toNat).2) := mapElems_word (.inr rfl) f x y z

theorem ElemType.int_i32 (x : Word) : ElemType.int .i32 x.toNat = x.toInt := by
  have hx := x.isLt
  have hint : ElemType.int .i32 x.toNat =
      if decide (2 ^ 31 ≤ x.toNat) = true then (x.toNat : Int) - 2 ^ 32 else (x.toNat : Int) := rfl
  rw [BitVec.toInt_eq_toNat_cond, hint]
  by_cases h : 2 ^ 31 ≤ x.toNat
  · rw [if_pos (decide_eq_true h), if_neg (by omega)]
    rfl
  · rw [if_neg fun hc => h (of_decide_eq_true hc), if_pos (by omega)]

theorem ElemType.int_n32 (x : Nat) : ElemType.int .n32 x = x := rfl

/-- A word is delivered of an integer. -/
theorem ElemType.wrap_word (hw : t.width = 32) (v : Int) : t.wrap v % 2 ^ 32 = (BitVec.ofInt 32 v).toNat := by
  rw [ElemType.wrap, hw, BitVec.toNat_ofInt]
  omega

theorem deliverInt_word (hw : t.width = 32) (sat : Bool) (v : Int) :
    Arith.deliverInt ⟨t, r, sat⟩ v % 2 ^ 32 = (BitVec.ofInt 32 (if sat then t.clamp v else v)).toNat :=
  ElemType.wrap_word hw _

theorem clamp_i32 (v : Int) : ElemType.clamp .i32 v = max (-2 ^ 31) (min (2 ^ 31 - 1) v) := by
  simp only [ElemType.clamp, ElemType.least, ElemType.greatest, ElemType.signed, ElemType.width, if_true]
  split
  · omega
  · split <;> omega

theorem clamp_n32 (v : Int) : ElemType.clamp .n32 v = max 0 (min (2 ^ 32 - 1) v) := by
  simp only [ElemType.clamp, ElemType.least, ElemType.greatest, ElemType.signed, ElemType.width, Bool.false_eq_true,
    if_false]
  split
  · omega
  · split <;> omega

/-- Without saturate the arithmetic of words is that modulo 2^32. -/
theorem int32_wrapping (h : t = .i32 ∨ t = .n32) (x y z : Word) :
    (mapElems t (elAdd ⟨t, r, false⟩) x.toNat y.toNat z.toNat).1 = (x + y).toNat ∧
    (mapElems t (elSub ⟨t, r, false⟩) x.toNat y.toNat z.toNat).1 = (x - y).toNat ∧
    (mapElems t (elMul ⟨t, r, false⟩) x.toNat y.toNat z.toNat).1 = (x * y).toNat ∧
    (mapElems t (elMad ⟨t, r, false⟩) x.toNat y.toNat z.toNat).1 = (z + x * y).toNat ∧
    (mapElems t (elMsb ⟨t, r, false⟩) x.toNat y.toNat z.toNat).1 = (z - x * y).toNat ∧
    (mapElems t (elNeg ⟨t, r, false⟩) x.toNat y.toNat z.toNat).1 = (-x).toNat := by
  simp only [mapElems_word h, elAdd, elSub, elMul, elMad, elMsb, elNeg, fmt_word h, deliverInt_word (width_word h),
    Bool.false_eq_true, if_false, Int.zero_sub, BitVec.ofInt_add, Word.ofInt_sub, BitVec.ofInt_mul, BitVec.ofInt_neg,
    ofInt_int h, and_self]

theorem popBelow_eq {w : Nat} (x : BitVec w) (n : Nat) :
    ((List.range n).filter x.toNat.testBit).length = popBelow x n := by
  induction n with
  | zero => rfl
  | succ n ih =>
    rw [List.range_succ, List.filter_append, List.length_append, ih, popBelow, ← BitVec.testBit_toNat]
    cases h : x.toNat.testBit n <;> simp [h]

/-- A rotation's two parts meet in no bit. -/
theorem rotate_parts (x : Word) {n : Nat} (hn : n < 32) :
    (x.toNat <<< n) % 2 ^ 32 + x.toNat >>> (32 - n) = (x.rotateLeft n).toNat := by
  have hhigh : (x.toNat <<< n) % 2 ^ 32 = (x.toNat % 2 ^ (32 - n)) <<< n := by
    have hp : 2 ^ 32 = 2 ^ (32 - n) * 2 ^ n := by rw [← Nat.pow_add]; congr 1; omega
    rw [Nat.shiftLeft_eq, Nat.shiftLeft_eq, hp, Nat.mul_mod_mul_right]
  have hlow : x.toNat >>> (32 - n) < 2 ^ n := by
    have hp : 2 ^ 32 = 2 ^ n * 2 ^ (32 - n) := by rw [← Nat.pow_add]; congr 1; omega
    rw [Nat.shiftRight_eq_div_pow, Nat.div_lt_iff_lt_mul (Nat.two_pow_pos _), ← hp]
    exact x.isLt
  rw [BitVec.toNat_rotateLeft, Nat.mod_eq_of_lt hn, hhigh]
  exact Nat.shiftLeft_add_eq_or_of_lt hlow _

theorem Word.sar_value (x : Word) :
    (if 2 ^ (32 - 1) ≤ x.toNat then (x.toNat : Int) - 2 ^ 32 else (x.toNat : Int)) = x.toInt := by
  have hx := x.isLt
  rw [BitVec.toInt_eq_toNat_cond]
  split <;> split <;> omega

/-- The bitwise operations and shifts of words. -/
theorem int32_bits (h : t = .i32 ∨ t = .n32) (x y z : Word) :
    (mapElems t (elAnd ⟨t, r, false⟩) x.toNat y.toNat z.toNat).1 = (x &&& y).toNat ∧
    (mapElems t (elOr ⟨t, r, false⟩) x.toNat y.toNat z.toNat).1 = (x ||| y).toNat ∧
    (mapElems t (elXor ⟨t, r, false⟩) x.toNat y.toNat z.toNat).1 = (x ^^^ y).toNat ∧
    (mapElems t (elNot ⟨t, r, false⟩) x.toNat y.toNat z.toNat).1 = (~~~ x).toNat ∧
    (mapElems t (elShl ⟨t, r, false⟩) x.toNat y.toNat z.toNat).1 = (x <<< (y.toNat % 32)).toNat ∧
    (mapElems t (elShr ⟨t, r, false⟩) x.toNat y.toNat z.toNat).1 = (x >>> (y.toNat % 32)).toNat ∧
    (mapElems t (elSar ⟨t, r, false⟩) x.toNat y.toNat z.toNat).1 = (x.sshiftRight (y.toNat % 32)).toNat ∧
    (mapElems t (elRol ⟨t, r, false⟩) x.toNat y.toNat z.toNat).1 = (x.rotateLeft (y.toNat % 32)).toNat ∧
    (mapElems t (elPop ⟨t, r, false⟩) x.toNat y.toNat z.toNat).1 = popCount x := by
  have hw := width_word h
  have hlt : ∀ w : Word, w.toNat % 2 ^ 32 = w.toNat := fun w => Nat.mod_eq_of_lt w.isLt
  simp only [mapElems_word h]
  refine ⟨?_, ?_, ?_, ?_, ?_, ?_, ?_, ?_, ?_⟩
  · rw [← hlt (x &&& y), BitVec.toNat_and]; rfl
  · rw [← hlt (x ||| y), BitVec.toNat_or]; rfl
  · rw [← hlt (x ^^^ y), BitVec.toNat_xor]; rfl
  · simp only [elNot, hw]
    rw [← hlt (~~~ x), BitVec.toNat_not]
  · simp only [elShl, hw]
    rw [BitVec.toNat_shiftLeft, Nat.mod_mod]
  · simp only [elShr, hw]
    rw [← hlt (x >>> _), BitVec.toNat_ushiftRight]
  · simp only [elSar, hw, Word.sar_value]
    rw [BitVec.sshiftRight_eq, BitVec.toNat_ofInt, Int.shiftRight_eq_div_pow]
    push_cast
    omega
  · simp only [elRol, hw]
    rw [rotate_parts x (Nat.mod_lt _ (by omega)), hlt]
  · simp only [elPop, hw]
    have hle : popBelow x 32 ≤ 32 := by
      rw [← popBelow_eq]
      exact (List.length_filter_le _ _).trans (by simp)
    rw [popBelow_eq, Nat.mod_eq_of_lt (by omega)]
    rfl

/-- High products, and the arithmetic of words with saturate set. -/
theorem int32_saturating (x y z : Word) :
    (mapElems .n32 (elMulh ⟨.n32, r, false⟩) x.toNat y.toNat z.toNat).1 = x.toNat * y.toNat / 2 ^ 32 ∧
    (mapElems .i32 (elMulh ⟨.i32, r, false⟩) x.toNat y.toNat z.toNat).1 =
      (BitVec.ofInt 32 (x.toInt * y.toInt / 2 ^ 32)).toNat ∧
    (mapElems .n32 (elAdd ⟨.n32, r, true⟩) x.toNat y.toNat z.toNat).1 = min (x.toNat + y.toNat) (2 ^ 32 - 1) ∧
    (mapElems .n32 (elSub ⟨.n32, r, true⟩) x.toNat y.toNat z.toNat).1 = x.toNat - y.toNat ∧
    (mapElems .n32 (elMul ⟨.n32, r, true⟩) x.toNat y.toNat z.toNat).1 = min (x.toNat * y.toNat) (2 ^ 32 - 1) := by
  have hx := x.isLt
  have hy := y.isLt
  have hp : (x.toNat : Int) * y.toNat = (x.toNat * y.toNat : Nat) := by push_cast; rfl
  have hmul : x.toNat * y.toNat < 2 ^ 32 * 2 ^ 32 := Nat.mul_lt_mul'' hx hy
  simp only [mapElems_n32, mapElems_i32, elMulh, elAdd, elSub, elMul,
    ElemType.fmt, deliverInt_word (t := .n32) rfl, ElemType.wrap_word (t := .n32) rfl, ElemType.wrap_word (t := .i32) rfl,
    if_true, clamp_n32, ElemType.int_n32, ElemType.int_i32, BitVec.toNat_ofInt, ElemType.width, hp]
  generalize x.toNat * y.toNat = p at hmul
  refine ⟨?_, trivial, ?_, ?_, ?_⟩ <;> omega

/-- Signed arithmetic with saturate set is clamped. -/
theorem int32_signed_saturating (x y z : Word) :
    let clamp (v : Int) : Nat := (BitVec.ofInt 32 (max (-2 ^ 31) (min (2 ^ 31 - 1) v))).toNat
    (mapElems .i32 (elAdd ⟨.i32, r, true⟩) x.toNat y.toNat z.toNat).1 = clamp (x.toInt + y.toInt) ∧
    (mapElems .i32 (elSub ⟨.i32, r, true⟩) x.toNat y.toNat z.toNat).1 = clamp (x.toInt - y.toInt) ∧
    (mapElems .i32 (elMul ⟨.i32, r, true⟩) x.toNat y.toNat z.toNat).1 = clamp (x.toInt * y.toInt) ∧
    (mapElems .i32 (elMad ⟨.i32, r, true⟩) x.toNat y.toNat z.toNat).1 = clamp (z.toInt + x.toInt * y.toInt) ∧
    (mapElems .i32 (elNeg ⟨.i32, r, true⟩) x.toNat y.toNat z.toNat).1 = clamp (-x.toInt) := by
  simp only [mapElems_i32, elAdd, elSub, elMul, elMad, elNeg, ElemType.fmt,
    deliverInt_word (t := .i32) rfl, if_true, clamp_i32, ElemType.int_i32, Int.zero_sub, and_self]

/-- The lesser and the greater of words. -/
theorem int32_minMax (x y z : Word) :
    (mapElems .n32 (elMinMax false ⟨.n32, r, false⟩) x.toNat y.toNat z.toNat).1 = min x.toNat y.toNat ∧
    (mapElems .n32 (elMinMax true ⟨.n32, r, false⟩) x.toNat y.toNat z.toNat).1 = max x.toNat y.toNat ∧
    (mapElems .i32 (elMinMax false ⟨.i32, r, false⟩) x.toNat y.toNat z.toNat).1 =
      (if x.toInt ≤ y.toInt then x else y).toNat ∧
    (mapElems .i32 (elMinMax true ⟨.i32, r, false⟩) x.toNat y.toNat z.toNat).1 =
      (if x.toInt < y.toInt then y else x).toNat := by
  have hx := x.isLt
  have hy := y.isLt
  simp only [mapElems_n32, mapElems_i32, elMinMax, ElemType.fmt,
    ElemType.int_n32, ElemType.int_i32, Bool.false_eq_true, if_false, if_true, decide_eq_true_eq, Nat.cast_lt]
  refine ⟨?_, ?_, ?_, ?_⟩
  · split <;> omega
  · split <;> omega
  · split <;> split <;> omega
  · split <;> omega

/-- Quotients and remainders of words. -/
theorem int32_div (x y z : Word) :
    (y ≠ 0#32 → (mapElems .n32 (elDiv ⟨.n32, r, false⟩) x.toNat y.toNat z.toNat).1 = x.toNat / y.toNat ∧
      (mapElems .n32 (elRem ⟨.n32, r, false⟩) x.toNat y.toNat z.toNat).1 = x.toNat % y.toNat ∧
      (mapElems .i32 (elDiv ⟨.i32, r, false⟩) x.toNat y.toNat z.toNat).1 =
        (BitVec.ofInt 32 (x.toInt.tdiv y.toInt)).toNat ∧
      (mapElems .i32 (elRem ⟨.i32, r, false⟩) x.toNat y.toNat z.toNat).1 =
        (BitVec.ofInt 32 (x.toInt.tmod y.toInt)).toNat) ∧
    (y = 0#32 → (mapElems .n32 (elDiv ⟨.n32, r, false⟩) x.toNat y.toNat z.toNat).1 = 2 ^ 32 - 1 ∧
      (mapElems .n32 (elRem ⟨.n32, r, false⟩) x.toNat y.toNat z.toNat).1 = x.toNat ∧
      (mapElems .i32 (elDiv ⟨.i32, r, false⟩) x.toNat y.toNat z.toNat).1 = 2 ^ 32 - 1 ∧
      (mapElems .i32 (elRem ⟨.i32, r, false⟩) x.toNat y.toNat z.toNat).1 = x.toNat) := by
  have hx := x.isLt
  simp only [mapElems_n32, mapElems_i32, elDiv, elRem, ElemType.fmt]
  refine ⟨fun hy => ?_, fun hy => ?_⟩
  · have hy0 : y.toNat ≠ 0 := fun h => hy (BitVec.eq_of_toNat_eq h)
    have h1 : x.toNat / y.toNat ≤ x.toNat := Nat.div_le_self _ _
    have h2 : x.toNat % y.toNat ≤ x.toNat := Nat.mod_le _ _
    simp only [hy0, if_false, deliverInt_word (t := .n32) rfl, deliverInt_word (t := .i32) rfl,
      ElemType.wrap_word (t := .n32) rfl, ElemType.wrap_word (t := .i32) rfl, Bool.false_eq_true, ElemType.int_n32,
      ElemType.int_i32, ← Int.ofNat_tdiv, ← Int.ofNat_tmod, BitVec.ofInt_natCast, BitVec.toNat_ofNat]
    exact ⟨Nat.mod_eq_of_lt (by omega), Nat.mod_eq_of_lt (by omega), trivial, trivial⟩
  · subst hy
    simp [ElemType.width, Nat.mod_eq_of_lt hx]

/-! ### Signs of f32 -/

/-- Which words are NaNs of f32, and which of these signal. -/
theorem f32_nan (x : Word) :
    ((Fmt.f32.value x.toNat).isNan = decide (2139095040 < x.toNat % 2 ^ 31)) ∧
      (2139095040 < x.toNat % 2 ^ 31 → (Fmt.f32.value x.toNat).snan = if x.getLsbD 22 then 0#5 else fIV) := by
  have hbit : x.getLsbD 22 = decide (x.toNat / 2 ^ 22 % 2 = 1) := by
    rw [← BitVec.testBit_toNat, Nat.testBit_eq_decide_div_mod_eq]
  have hv : Fmt.f32.value x.toNat =
      if x.toNat % 2 ^ 31 / 2 ^ 23 = 255 then
        (if x.toNat % 2 ^ 31 % 2 ^ 23 = 0 then .inf (x.toNat / 2 ^ 31 % 2 == 1)
          else .nan (decide (x.toNat % 2 ^ 31 % 2 ^ 23 < 2 ^ 22)))
      else if x.toNat % 2 ^ 31 / 2 ^ 23 = 0 then .fin (x.toNat / 2 ^ 31 % 2 == 1) (x.toNat % 2 ^ 31 % 2 ^ 23) Fmt.f32.qmin
      else .fin (x.toNat / 2 ^ 31 % 2 == 1) (2 ^ 23 + x.toNat % 2 ^ 31 % 2 ^ 23)
        (Fmt.f32.qmin + (x.toNat % 2 ^ 31 / 2 ^ 23 - 1 : Nat)) := by
    have hs : Fmt.f32.signBit = 2 ^ 31 := rfl
    have he : Fmt.f32.eones = 255 := rfl
    have hi : Fmt.f32.hasInf = true := rfl
    have hm : Fmt.f32.mbits = 23 := rfl
    simp only [Fmt.value_eq, hs, he, hi, hm, and_true, not_true_eq_false, and_false, if_false]
  rw [hv, hbit]
  by_cases hex : x.toNat % 2 ^ 31 / 2 ^ 23 = 255
  · rw [if_pos hex]
    by_cases hm : x.toNat % 2 ^ 31 % 2 ^ 23 = 0
    · rw [if_pos hm]
      have hle : ¬ 2139095040 < x.toNat % 2 ^ 31 := by omega
      exact ⟨(decide_eq_false hle).symm, fun h => absurd h hle⟩
    · rw [if_neg hm]
      have hlt : 2139095040 < x.toNat % 2 ^ 31 := by omega
      refine ⟨(decide_eq_true hlt).symm, fun _ => ?_⟩
      by_cases hq : x.toNat % 2 ^ 31 % 2 ^ 23 < 2 ^ 22
      · rw [decide_eq_true hq, decide_eq_false (by omega)]
        rfl
      · rw [decide_eq_false hq, decide_eq_true (by omega)]
        rfl
  · rw [if_neg hex]
    have hle : ¬ 2139095040 < x.toNat % 2 ^ 31 := by omega
    refine ⟨?_, fun h => absurd h hle⟩
    rw [decide_eq_false hle]
    split <;> rfl

/-- Inverting bit 31 of a word. -/
theorem Word.add_signBit (x : Word) : (x.toNat + 2 ^ 31) % 2 ^ 32 = (x ^^^ 0x80000000#32).toNat := by
  have hx := x.isLt
  have hd : (x.toNat ^^^ 2 ^ 31) / 2 ^ 31 = x.toNat / 2 ^ 31 ^^^ 1 := by
    rw [Nat.xor_div_two_pow, Nat.div_self (Nat.two_pow_pos 31)]
  have hm : (x.toNat ^^^ 2 ^ 31) % 2 ^ 31 = x.toNat % 2 ^ 31 := by
    rw [Nat.xor_mod_two_pow, Nat.mod_self, Nat.xor_zero]
  rw [BitVec.toNat_xor]
  have h31 : (0x80000000#32 : BitVec 32).toNat = 2 ^ 31 := rfl
  rw [h31]
  have hh : x.toNat / 2 ^ 31 = 0 ∨ x.toNat / 2 ^ 31 = 1 := by omega
  rcases hh with h | h
  · rw [h] at hd
    have : (0 ^^^ 1 : Nat) = 1 := rfl
    omega
  · rw [h] at hd
    have : (1 ^^^ 1 : Nat) = 0 := rfl
    omega

/-- Clearing bit 31 of a word. -/
theorem Word.mod_signBit (x : Word) : x.toNat % 2 ^ 31 = (x &&& 0x7FFFFFFF#32).toNat := by
  rw [BitVec.toNat_and, ← Nat.and_two_pow_sub_one_eq_mod]
  rfl

/-- NEG and ABS under f32. -/
theorem f32_signs (sat : Bool) (x : Word) :
    (¬ (2139095040 < x.toNat % 2 ^ 31) →
      mapElems .f32 (elNeg ⟨.f32, r, sat⟩) x.toNat 0 0 = ((x ^^^ 0x80000000#32).toNat, 0#5) ∧
      mapElems .f32 (elAbs ⟨.f32, r, sat⟩) x.toNat 0 0 = ((x &&& 0x7FFFFFFF#32).toNat, 0#5)) ∧
    (2139095040 < x.toNat % 2 ^ 31 →
      (mapElems .f32 (elNeg ⟨.f32, r, sat⟩) x.toNat 0 0).1 = 0x7FC00000 ∧
      (mapElems .f32 (elAbs ⟨.f32, r, sat⟩) x.toNat 0 0).1 = 0x7FC00000 ∧
      ((mapElems .f32 (elNeg ⟨.f32, r, sat⟩) x.toNat 0 0).2 = if x.getLsbD 22 then 0#5 else fIV) ∧
      ((mapElems .f32 (elAbs ⟨.f32, r, sat⟩) x.toNat 0 0).2 = if x.getLsbD 22 then 0#5 else fIV)) := by
  obtain ⟨hnan, hsnan⟩ := f32_nan x
  have hx := Nat.mod_eq_of_lt x.isLt
  have hmap : ∀ f : ElemOp, mapElems .f32 f x.toNat 0 0 = ((f x.toNat 0 0).1 % 2 ^ 32, (f x.toNat 0 0).2) := fun f => by
    simp [mapElems, ElemType.count, ElemType.width, elemAt, packElems, hx]
  have hs : Fmt.f32.signBit = 2 ^ 31 := rfl
  have hs2 : 2 * 2 ^ 31 = 2 ^ 32 := rfl
  simp only [hmap, elNeg, elAbs, ElemType.fmt, hnan, decide_eq_true_eq, hs, hs2]
  refine ⟨fun h => ?_, fun h => ?_⟩
  · simp only [h, if_false]
    have hlt : ∀ w : Word, w.toNat % 2 ^ 32 = w.toNat := fun w => Nat.mod_eq_of_lt w.isLt
    rw [Word.add_signBit, Word.mod_signBit, hlt, hlt]
    exact ⟨rfl, rfl⟩
  · simp only [h, if_true]
    exact ⟨rfl, rfl, hsnan h, hsnan h⟩

end

end Sys2Proof.Machine
end

section
/-! SUPPORT. Elements of floating-point types: numbers, NaNs and infinities under the element operations (R72-R75, R131-R133,
R141). -/

namespace Sys2Proof.Machine

section
variable {t : ElemType} {f : Fmt} {r : Rounding} {x y z : Nat}

/-- The element operations of a floating-point type are those of its format. -/
theorem elFloat_ops (ht : t.fmt = some f) (sat : Bool) :
    elAdd ⟨t, r, sat⟩ x y z = f.add r sat (f.value x) (f.value y) ∧
    elSub ⟨t, r, sat⟩ x y z = f.add r sat (f.value x) (f.value y).negate ∧
    elMul ⟨t, r, sat⟩ x y z = f.mul r sat (f.value x) (f.value y) ∧
    elMad ⟨t, r, sat⟩ x y z = f.fma r sat (f.value x) (f.value y) (f.value z) ∧
    elMsb ⟨t, r, sat⟩ x y z = f.fma r sat (f.value x).negate (f.value y) (f.value z) ∧
    elDiv ⟨t, r, sat⟩ x y z = f.div r sat (f.value x) (f.value y) ∧
    elFloat Fmt.rcp ⟨t, r, sat⟩ x y z = f.rcp r sat (f.value x) := by
  simp only [elAdd, elSub, elMul, elMad, elMsb, elDiv, elFloat, ht, and_self]

/-- What an element operation delivers, of numbers. -/
def ElemDelivers (t : ElemType) (f : Fmt) (r : Rounding) (x y z : Nat) (el : Arith → ElemOp) (v : ℚ) : Prop :=
  f.Delivers r (fun sat => el ⟨t, r, sat⟩ x y z) v

section
variable (ht : t.fmt = some f) (hx : (f.value x).isFin = true) (hy : (f.value y).isFin = true)
include ht hx

theorem elRcp_delivers (h0 : (f.value x).rat ≠ 0) :
    ElemDelivers t f r x y z (elFloat Fmt.rcp) (1 / (f.value x).rat) := by
  simp only [ElemDelivers, elFloat_ops ht]
  exact Fmt.rcp_delivers hx h0

include hy

theorem elAdd_delivers : ElemDelivers t f r x y z elAdd ((f.value x).rat + (f.value y).rat) := by
  simp only [ElemDelivers, elFloat_ops ht]
  exact Fmt.add_delivers hx hy

theorem elSub_delivers : ElemDelivers t f r x y z elSub ((f.value x).rat - (f.value y).rat) := by
  simp only [ElemDelivers, elFloat_ops ht]
  rw [sub_eq_add_neg, ← FVal.rat_negate]
  exact Fmt.add_delivers hx (by rw [FVal.isFin_negate, hy])

theorem elMul_delivers : ElemDelivers t f r x y z elMul ((f.value x).rat * (f.value y).rat) := by
  simp only [ElemDelivers, elFloat_ops ht]
  exact Fmt.mul_delivers hx hy

theorem elDiv_delivers (h0 : (f.value y).rat ≠ 0) :
    ElemDelivers t f r x y z elDiv ((f.value x).rat / (f.value y).rat) := by
  simp only [ElemDelivers, elFloat_ops ht]
  exact Fmt.div_delivers hx hy h0

variable (hz : (f.value z).isFin = true)
include hz

theorem elMad_delivers : ElemDelivers t f r x y z elMad ((f.value z).rat + (f.value x).rat * (f.value y).rat) := by
  simp only [ElemDelivers, elFloat_ops ht]
  exact Fmt.fma_delivers hx hy hz

theorem elMsb_delivers : ElemDelivers t f r x y z elMsb ((f.value z).rat - (f.value x).rat * (f.value y).rat) := by
  simp only [ElemDelivers, elFloat_ops ht]
  rw [sub_eq_add_neg, ← neg_mul, ← FVal.rat_negate]
  exact Fmt.fma_delivers (by rw [FVal.isFin_negate, hx]) hy hz

/-- Each of the operations that saturate delivers a number. -/
theorem elArith_delivers : ∀ el ∈ [elAdd, elSub, elMul, elMad, elMsb], ∃ v, ElemDelivers t f r x y z el v := by
  intro el hel
  simp only [List.mem_cons, List.not_mem_nil, or_false] at hel
  rcases hel with rfl | rfl | rfl | rfl | rfl
  · exact ⟨_, elAdd_delivers ht hx hy⟩
  · exact ⟨_, elSub_delivers ht hx hy⟩
  · exact ⟨_, elMul_delivers ht hx hy⟩
  · exact ⟨_, elMad_delivers ht hx hy hz⟩
  · exact ⟨_, elMsb_delivers ht hx hy hz⟩

end

/-- A NaN operand. -/
theorem elFloat_nan (ht : t.fmt = some f) (h : (f.value x).isNan = true ∨ (f.value y).isNan = true) :
    ∀ el ∈ [elAdd, elSub, elMul, elDiv], el ⟨t, r, false⟩ x y z = (f.nan, (f.value x).snan ||| (f.value y).snan) := by
  intro el hel
  have hneg : (f.value x).isNan = true ∨ (f.value y).negate.isNan = true := by rwa [FVal.isNan_negate]
  have hops := Fmt.ops_nan (f := f) (r := r) h false
  simp only [List.mem_cons, List.not_mem_nil, or_false] at hel
  rcases hel with rfl | rfl | rfl | rfl
  · rw [(elFloat_ops ht false).1, hops.1]
  · rw [(elFloat_ops ht false).2.1, (Fmt.ops_nan hneg false).1, FVal.snan_negate]
  · rw [(elFloat_ops ht false).2.2.1, hops.2.1]
  · rw [(elFloat_ops ht false).2.2.2.2.2.1, hops.2.2]

/-- Infinities stand only in formats that have them. -/
theorem Fmt.hasInf_of_inf {g : Bool} (h : f.value x = .inf g) : f.hasInf = true := by
  cases hi : f.hasInf
  · rw [Fmt.value] at h
    simp only [hi, Bool.false_eq_true, and_false, if_false] at h
    split at h
    · cases h
    · split at h <;> cases h
  · rfl

/-- Two infinities. -/
theorem elFloat_inf_inf (ht : t.fmt = some f) {g h : Bool} (hx : f.value x = .inf g) (hy : f.value y = .inf h) :
    elAdd ⟨t, r, false⟩ x y z = (if g = h then (f.signed g f.inf, 0#5) else (f.nan, fIV)) ∧
    elSub ⟨t, r, false⟩ x y z = (if g = h then (f.nan, fIV) else (f.signed g f.inf, 0#5)) ∧
    elMul ⟨t, r, false⟩ x y z = (f.signed (g != h) f.inf, 0#5) := by
  have hi := Fmt.hasInf_of_inf hx
  simp only [elFloat_ops ht, hx, hy, FVal.negate, Fmt.add, Fmt.mul, FVal.isNan, Bool.or_self, Bool.false_eq_true, if_false,
    FVal.isZero, FVal.neg, Fmt.deliverInf_eq hi]
  cases g <;> cases h <;> simp

/-- An infinity and a number. -/
theorem elFloat_inf_fin (ht : t.fmt = some f) {g h : Bool} {m : Nat} {e : Int} (hx : f.value x = .inf g)
    (hy : f.value y = .fin h m e) :
    elAdd ⟨t, r, false⟩ x y z = (f.signed g f.inf, 0#5) ∧
    elMul ⟨t, r, false⟩ x y z = if m = 0 then (f.nan, fIV) else (f.signed (g != h) f.inf, 0#5) := by
  have hi := Fmt.hasInf_of_inf hx
  simp only [elFloat_ops ht, hx, hy, Fmt.add, Fmt.mul, FVal.isNan, Bool.or_self, Bool.false_eq_true, if_false, FVal.neg,
    Fmt.deliverInf_eq hi, true_and]
  cases m with
  | zero => rfl
  | succ m => rfl

end

end Sys2Proof.Machine

section
open Sys2Proof Sys2Proof.Machine

/-- Settles O17: integers by residues, floating-point results through the two encodings that bracket the exact number. -/
theorem elementValues : Obligations.ElementValues := by
  unfold Obligations.ElementValues
  refine ⟨fun r x y z => ?_, fun r sat x => f32_signs sat x, fun t f r x y z ht => ?_, convertElem_values⟩
  · refine ⟨fun t ht => ?_, ?_⟩
    · obtain ⟨hadd, hsub, hmul, hmad, hmsb, hneg⟩ := int32_wrapping (r := r) ht x y z
      exact ⟨hadd, hsub, hmul, hmad, hmsb, hneg, int32_bits ht x y z⟩
    · obtain ⟨hn, hi, hadd, hsub, hmul⟩ := int32_saturating (r := r) x y z
      obtain ⟨sadd, ssub, smul, smad, sneg⟩ := int32_signed_saturating (r := r) x y z
      obtain ⟨nmin, nmax, imin, imax⟩ := int32_minMax (r := r) x y z
      exact ⟨hn, hi, hadd, hsub, hmul, sadd, ssub, smul, smad, sneg, nmin, nmax, imin, imax, int32_div x y z⟩
  · have hf := ElemType.fmt_proper ht
    refine ⟨fun hx hy hz => ?_, fun hnan => ⟨elFloat_nan ht hnan, compareElem_nan ht hnan⟩,
      fun g h hx hy => elFloat_inf_inf ht hx hy, fun g h m e hx hy => elFloat_inf_fin ht hx hy⟩
    refine ⟨(elAdd_delivers ht hx hy).rounds hf, (elSub_delivers ht hx hy).rounds hf, (elMul_delivers ht hx hy).rounds hf,
      (elMad_delivers ht hx hy hz).rounds hf, (elMsb_delivers ht hx hy hz).rounds hf,
      fun h0 => (elDiv_delivers ht hx hy h0).rounds hf, fun h0 => (elRcp_delivers ht hx h0).rounds hf,
      fun hi el hel => ?_, compareElem_fin ht hx hy .eq, compareElem_fin ht hx hy .ne, compareElem_fin ht hx hy .lt,
      compareElem_fin ht hx hy .le, compareElem_fin ht hx hy .un⟩
    obtain ⟨v, hv⟩ := elArith_delivers (r := r) ht hx hy hz el hel
    exact hv.saturated hf hi

end
end

section
/-! SUPPORT. Bounds of cosines and sines by halved angles and sums (R81): the bounds hold, and they stay narrow. -/

namespace Sys2Proof.Machine

/-! ### The integer square root -/

theorem isqrtBits_spec {n : Nat} (k acc : Nat) (h1 : acc * acc ≤ n) (h2 : n < (acc + 2 ^ k) * (acc + 2 ^ k)) :
    isqrtBits n k acc * isqrtBits n k acc ≤ n ∧ n < (isqrtBits n k acc + 1) * (isqrtBits n k acc + 1) := by
  induction k generalizing acc with
  | zero => exact ⟨h1, h2⟩
  | succ k ih =>
    rw [isqrtBits]
    split
    · next hle =>
      refine ih _ hle ?_
      have : acc + 2 ^ k + 2 ^ k = acc + 2 ^ (k + 1) := by rw [Nat.pow_succ]; omega
      rwa [this]
    · next hgt => exact ih _ h1 (Nat.lt_of_not_le hgt)

theorem isqrt_spec (n : Nat) : isqrt n * isqrt n ≤ n ∧ n < (isqrt n + 1) * (isqrt n + 1) := by
  refine isqrtBits_spec _ 0 (Nat.zero_le _) ?_
  have h1 : n < 2 ^ (Nat.log2 n + 1) := Nat.lt_log2_self
  have h2 : 2 ^ (Nat.log2 n + 1) ≤ 2 ^ (Nat.log2 n / 2 + 1 + (Nat.log2 n / 2 + 1)) :=
    Nat.pow_le_pow_right (by omega) (by omega)
  rw [Nat.zero_add, ← Nat.pow_add]
  exact h1.trans_le h2

/-! ### What bounds hold -/

/-- The bounds are those of an angle in units of 1/S. -/
structure CosSin.Holds (x : CosSin) (S : Nat) (θ : ℝ) : Prop where
  clo : (x.clo : ℝ) ≤ S * Real.cos θ
  chi : S * Real.cos θ ≤ x.chi
  slo : (x.slo : ℝ) ≤ S * Real.sin θ
  shi : S * Real.sin θ ≤ x.shi

/-- The bounds are at most so far apart. -/
structure CosSin.Within (x : CosSin) (wc ws : Nat) : Prop where
  cos : x.chi ≤ x.clo + wc
  sin : x.shi ≤ x.slo + ws

section
variable {x a b : CosSin} {S : Nat} {θ α β : ℝ}

theorem CosSin.Holds.lo_le (h : x.Holds S θ) : x.clo ≤ S ∧ x.slo ≤ S := by
  have hS : (0 : ℝ) ≤ S := Nat.cast_nonneg S
  have h1 : (x.clo : ℝ) ≤ S := h.clo.trans (by nlinarith [Real.cos_le_one θ])
  have h2 : (x.slo : ℝ) ≤ S := h.slo.trans (by nlinarith [Real.sin_le_one θ])
  exact ⟨by exact_mod_cast h1, by exact_mod_cast h2⟩

/-- A product of bounds. -/
theorem mul_le_scaled {p q : ℕ} {c d : ℝ} (hp : (p : ℝ) ≤ S * c) (hq : (q : ℝ) ≤ S * d) :
    ((p * q : ℕ) : ℝ) ≤ S * (S * (c * d)) := by
  push_cast
  have hp0 : (0 : ℝ) ≤ p := Nat.cast_nonneg p
  have hq0 : (0 : ℝ) ≤ q := Nat.cast_nonneg q
  calc (p : ℝ) * q ≤ (S * c) * (S * d) := mul_le_mul hp hq hq0 (hp0.trans hp)
    _ = _ := by ring

theorem scaled_le_mul {p q : ℕ} {c d : ℝ} (hc : 0 ≤ S * c) (hd : 0 ≤ S * d) (hp : S * c ≤ (p : ℝ)) (hq : S * d ≤ (q : ℝ)) :
    S * (S * (c * d)) ≤ ((p * q : ℕ) : ℝ) := by
  push_cast
  calc (S : ℝ) * (S * (c * d)) = (S * c) * (S * d) := by ring
    _ ≤ p * q := mul_le_mul hp hq hd (hc.trans hp)

/-! ### Sums of angles -/

/-- A quotient by S, rounded down or up, of a bound of S v. -/
theorem div_le_of_le_mul {n : ℕ} {v : ℝ} (hS : 0 < S) (h : (n : ℝ) ≤ S * v) : ((n / S : ℕ) : ℝ) ≤ v := by
  have hS' : (0 : ℝ) < S := by exact_mod_cast hS
  have h1 : ((n / S * S : ℕ) : ℝ) ≤ n := by exact_mod_cast Nat.div_mul_le_self n S
  push_cast at h1
  nlinarith

theorem le_div_succ_of_mul_le {n : ℕ} {v : ℝ} (hS : 0 < S) (h : S * v ≤ (n : ℝ)) : v ≤ ((n / S + 1 : ℕ) : ℝ) := by
  have hS' : (0 : ℝ) < S := by exact_mod_cast hS
  have h1 : (n : ℝ) < ((n / S + 1) * S : ℕ) := by
    exact_mod_cast (Nat.div_lt_iff_lt_mul hS).mp (Nat.lt_succ_self (n / S))
  push_cast at h1 ⊢
  nlinarith

theorem addAngle_holds {s : Nat} (hS : S = 2 ^ s) (ha : a.Holds S α) (hb : b.Holds S β) (hα : 0 ≤ α) (hβ : 0 ≤ β)
    (hsum : α + β ≤ Real.pi / 2) : (addAngle s a b).Holds S (α + β) := by
  have hpos : 0 < S := by rw [hS]; exact Nat.two_pow_pos s
  have hS0 : (0 : ℝ) ≤ S := Nat.cast_nonneg S
  have hpi := Real.pi_pos
  have cα : 0 ≤ S * Real.cos α := mul_nonneg hS0 (Real.cos_nonneg_of_neg_pi_div_two_le_of_le (by linarith) (by linarith))
  have cβ : 0 ≤ S * Real.cos β := mul_nonneg hS0 (Real.cos_nonneg_of_neg_pi_div_two_le_of_le (by linarith) (by linarith))
  have sα : 0 ≤ S * Real.sin α := mul_nonneg hS0 (Real.sin_nonneg_of_nonneg_of_le_pi hα (by linarith))
  have sβ : 0 ≤ S * Real.sin β := mul_nonneg hS0 (Real.sin_nonneg_of_nonneg_of_le_pi hβ (by linarith))
  have csum : 0 ≤ Real.cos (α + β) := Real.cos_nonneg_of_neg_pi_div_two_le_of_le (by linarith) hsum
  have hcc := mul_le_scaled ha.clo hb.clo
  have hss := scaled_le_mul sα sβ ha.shi hb.shi
  have hcc' := scaled_le_mul cα cβ ha.chi hb.chi
  have hss' := mul_le_scaled ha.slo hb.slo
  refine ⟨?_, ?_, ?_, ?_⟩
  · simp only [addAngle, Nat.shiftRight_eq_div_pow, ← hS]
    refine div_le_of_le_mul hpos ?_
    rcases Nat.le_total (a.shi * b.shi) (a.clo * b.clo) with h | h
    · rw [Nat.cast_sub h, Real.cos_add]
      linarith
    · rw [Nat.sub_eq_zero_of_le h, Nat.cast_zero]
      exact mul_nonneg hS0 (mul_nonneg hS0 csum)
  · simp only [addAngle, Nat.shiftRight_eq_div_pow, ← hS]
    refine le_div_succ_of_mul_le hpos ?_
    have h : ((a.chi * b.chi : ℕ) : ℝ) - (a.slo * b.slo : ℕ) ≤ ((a.chi * b.chi - a.slo * b.slo : ℕ) : ℝ) := by
      have : a.chi * b.chi ≤ (a.chi * b.chi - a.slo * b.slo) + a.slo * b.slo := by omega
      have : ((a.chi * b.chi : ℕ) : ℝ) ≤ (a.chi * b.chi - a.slo * b.slo : ℕ) + (a.slo * b.slo : ℕ) := by exact_mod_cast this
      linarith
    rw [Real.cos_add]
    linarith
  · simp only [addAngle, Nat.shiftRight_eq_div_pow, ← hS]
    refine div_le_of_le_mul hpos ?_
    have h1 := mul_le_scaled ha.slo hb.clo
    have h2 := mul_le_scaled ha.clo hb.slo
    rw [Nat.cast_add, Real.sin_add]
    linarith
  · simp only [addAngle, Nat.shiftRight_eq_div_pow, ← hS]
    refine le_div_succ_of_mul_le hpos ?_
    have h1 := scaled_le_mul sα cβ ha.shi hb.chi
    have h2 := scaled_le_mul cα sβ ha.chi hb.shi
    rw [Nat.cast_add, Real.sin_add]
    linarith

/-- A product of upper bounds is little above that of the lower ones. -/
theorem upper_mul_le {p p' q q' w : Nat} (hp : p' ≤ p + w) (hq : q' ≤ q + 30) (hpS : p ≤ S) (hqS : q ≤ S) (hw : w ≤ S) :
    p' * q' ≤ p * q + (60 + w) * S := by
  have h1 : p' * q' ≤ (p + w) * (q + 30) := Nat.mul_le_mul hp hq
  have h2 : w * q ≤ w * S := Nat.mul_le_mul_left w hqS
  nlinarith

theorem div_sub_div_le {m n w : Nat} (hS : 0 < S) (h : n ≤ m + (120 + 2 * w) * S) : n / S + 1 ≤ m / S + (2 * w + 122) := by
  have h1 : n / S ≤ (m + (120 + 2 * w) * S) / S := Nat.div_le_div_right h
  rw [Nat.add_mul_div_right _ _ hS] at h1
  omega

theorem addAngle_within {s w : Nat} (hS : S = 2 ^ s) (ha : a.Holds S α) (hb : b.Holds S β) (hwa : a.Within w w)
    (hwb : b.Within 30 30) (hw : w ≤ S) : (addAngle s a b).Within (2 * w + 122) (2 * w + 122) := by
  have hpos : 0 < S := by rw [hS]; exact Nat.two_pow_pos s
  obtain ⟨hac, has⟩ := ha.lo_le
  obtain ⟨hbc, hbs⟩ := hb.lo_le
  have h1 := upper_mul_le hwa.cos hwb.cos hac hbc hw
  have h2 := upper_mul_le hwa.sin hwb.sin has hbs hw
  have h3 := upper_mul_le hwa.sin hwb.cos has hbc hw
  have h4 := upper_mul_le hwa.cos hwb.sin hac hbs hw
  have hsplit : (120 + 2 * w) * S = (60 + w) * S + (60 + w) * S := by ring
  constructor
  · simp only [addAngle, Nat.shiftRight_eq_div_pow, ← hS]
    exact div_sub_div_le hpos (by omega)
  · simp only [addAngle, Nat.shiftRight_eq_div_pow, ← hS]
    exact div_sub_div_le hpos (by omega)

/-! ### Halved angles -/

/-- The lower bound of the halved angle's cosine, and the upper one but for one unit. -/
def halfLo (s : Nat) (x : CosSin) : Nat := isqrt ((2 ^ s + x.clo) <<< (s - 1))

def halfHi (s : Nat) (x : CosSin) : Nat := isqrt ((2 ^ s + x.chi) <<< (s - 1))

theorem halfAngle_eq (s : Nat) (x : CosSin) : halfAngle s x =
    ⟨halfLo s x, halfHi s x + 1, x.slo * 2 ^ s / (2 * (halfHi s x + 1)), x.shi * 2 ^ s / (2 * halfLo s x) + 1⟩ := by
  simp only [halfAngle, halfLo, halfHi, Nat.shiftLeft_eq]

section
variable {s : Nat} (hS : S = 2 ^ s) (hs : 5 ≤ s)
include hS hs

theorem halfLo_spec : 2 * (halfLo s x * halfLo s x) ≤ (S + x.clo) * S ∧
    (S + x.clo) * S < 2 * ((halfLo s x + 1) * (halfLo s x + 1)) := by
  have h := isqrt_spec ((2 ^ s + x.clo) <<< (s - 1))
  have hp : 2 ^ s = 2 * 2 ^ (s - 1) := by rw [← Nat.pow_succ']; congr 1; omega
  have hm : (S + x.clo) * S = 2 * ((2 ^ s + x.clo) <<< (s - 1)) := by
    rw [Nat.shiftLeft_eq, hS]
    conv_lhs => rw [hp]
    conv_rhs => rw [hp]
    ring
  rw [← halfLo] at h
  omega

theorem halfHi_spec : 2 * (halfHi s x * halfHi s x) ≤ (S + x.chi) * S ∧
    (S + x.chi) * S < 2 * ((halfHi s x + 1) * (halfHi s x + 1)) := by
  have h := halfLo_spec (x := ⟨x.chi, 0, 0, 0⟩) hS hs
  exact h

theorem thirtyTwo_le : 32 ≤ S := by
  rw [hS]
  exact (Nat.pow_le_pow_right (by omega) hs : 2 ^ 5 ≤ 2 ^ s)

theorem halfLo_ge : 5 * S ≤ 8 * halfLo s x := by
  obtain ⟨-, h⟩ := halfLo_spec (x := x) hS hs
  have h32 := thirtyTwo_le hS hs
  by_contra hlt
  have h1 : 8 * (halfLo s x + 1) ≤ 5 * S + 7 := by omega
  have h2 := Nat.mul_le_mul h1 h1
  have h3 : S * S ≤ (S + x.clo) * S := Nat.mul_le_mul_right S (Nat.le_add_right S _)
  nlinarith

theorem halfAngle_holds (hx : x.Holds S θ) (h0 : 0 ≤ θ) (hθ : θ ≤ Real.pi / 2) : (halfAngle s x).Holds S (θ / 2) := by
  obtain ⟨hl1, -⟩ := halfLo_spec (x := x) hS hs
  obtain ⟨-, hh2⟩ := halfHi_spec (x := x) hS hs
  have hge := halfLo_ge (x := x) hS hs
  have h32 := thirtyTwo_le hS hs
  have hpi := Real.pi_pos
  have hS0 : (0 : ℝ) < S := by exact_mod_cast (by omega : 0 < S)
  have hc : 0 < Real.cos (θ / 2) := Real.cos_pos_of_mem_Ioo ⟨by linarith, by linarith⟩
  have hsin : 0 ≤ Real.sin (θ / 2) := Real.sin_nonneg_of_nonneg_of_le_pi (by linarith) (by linarith)
  have hcos2 : Real.cos θ = 2 * Real.cos (θ / 2) ^ 2 - 1 := by rw [← Real.cos_two_mul]; congr 1; ring
  have hsin2 : Real.sin θ = 2 * Real.sin (θ / 2) * Real.cos (θ / 2) := by rw [← Real.sin_two_mul]; congr 1; ring
  have hP : 0 < halfLo s x := by omega
  rw [halfAngle_eq, ← hS]
  generalize halfLo s x = P at *
  generalize halfHi s x = Q at *
  have hl1' : 2 * ((P : ℝ) * P) ≤ (S + x.clo) * S := by exact_mod_cast hl1
  have hh2' : ((S : ℝ) + x.chi) * S < 2 * ((Q + 1) * (Q + 1)) := by exact_mod_cast hh2
  have hclo := hx.clo
  have hchi := hx.chi
  rw [hcos2] at hclo hchi
  have hPc : (P : ℝ) ≤ S * Real.cos (θ / 2) := by
    refine abs_le_of_sq_le_sq' ?_ (by positivity) |>.2
    nlinarith
  have hQc : S * Real.cos (θ / 2) ≤ (Q : ℝ) + 1 := by
    refine abs_le_of_sq_le_sq' ?_ (by positivity) |>.2
    nlinarith
  refine ⟨hPc, by push_cast; exact hQc, ?_, ?_⟩
  · have hdiv : ((x.slo * S / (2 * (Q + 1)) * (2 * (Q + 1)) : ℕ) : ℝ) ≤ (x.slo * S : ℕ) := by
      exact_mod_cast Nat.div_mul_le_self _ _
    have hslo := hx.slo
    rw [hsin2] at hslo
    push_cast at hdiv ⊢
    generalize ((x.slo * S / (2 * (Q + 1)) : ℕ) : ℝ) = l at *
    have h1 : (x.slo : ℝ) * S ≤ S * (2 * Real.sin (θ / 2) * Real.cos (θ / 2)) * S := mul_le_mul_of_nonneg_right hslo hS0.le
    have h2 : S * Real.sin (θ / 2) * (S * Real.cos (θ / 2)) ≤ S * Real.sin (θ / 2) * (Q + 1) :=
      mul_le_mul_of_nonneg_left hQc (mul_nonneg hS0.le hsin)
    have hQ : (0 : ℝ) < Q + 1 := by positivity
    by_contra hlt
    have h3 := mul_lt_mul_of_pos_right (not_le.mp hlt) hQ
    nlinarith
  · have hdiv : ((x.shi * S : ℕ) : ℝ) < ((x.shi * S / (2 * P) + 1) * (2 * P) : ℕ) := by
      exact_mod_cast (Nat.div_lt_iff_lt_mul (by omega)).mp (Nat.lt_succ_self (x.shi * S / (2 * P)))
    have hshi := hx.shi
    rw [hsin2] at hshi
    push_cast at hdiv ⊢
    generalize ((x.shi * S / (2 * P) : ℕ) : ℝ) = l at *
    have h1 : S * (2 * Real.sin (θ / 2) * Real.cos (θ / 2)) * S ≤ (x.shi : ℝ) * S := mul_le_mul_of_nonneg_right hshi hS0.le
    by_contra hlt
    have hlt := not_le.mp hlt
    have hP' : (0 : ℝ) < P := by exact_mod_cast hP
    have h2 := mul_lt_mul_of_pos_right hlt hP'
    have h3 : S * Real.sin (θ / 2) * P ≤ S * Real.sin (θ / 2) * (S * Real.cos (θ / 2)) :=
      mul_le_mul_of_nonneg_left hPc (mul_nonneg hS0.le hsin)
    nlinarith

theorem halfAngle_within (hx : x.Holds S θ) (hw : x.Within 3 30) : (halfAngle s x).Within 3 30 := by
  obtain ⟨hl1, hl2⟩ := halfLo_spec (x := x) hS hs
  obtain ⟨hh1, hh2⟩ := halfHi_spec (x := x) hS hs
  have hge := halfLo_ge (x := x) hS hs
  have h32 := thirtyTwo_le hS hs
  obtain ⟨-, hslo⟩ := hx.lo_le
  rw [halfAngle_eq, ← hS]
  generalize halfLo s x = P at *
  generalize halfHi s x = Q at *
  have hPQ : Q ≤ P + 2 := by
    by_contra hgt
    have h1 : P + 3 ≤ Q := by omega
    have h2 := Nat.mul_le_mul h1 h1
    have h3 := Nat.mul_le_mul_right S (Nat.add_le_add_left hw.cos S)
    nlinarith
  refine ⟨by simp only; omega, ?_⟩
  simp only
  have hu : x.shi * S / (2 * P) * (2 * P) ≤ x.shi * S := Nat.div_mul_le_self _ _
  have hl : x.slo * S < (x.slo * S / (2 * (Q + 1)) + 1) * (2 * (Q + 1)) :=
    (Nat.div_lt_iff_lt_mul (by omega)).mp (Nat.lt_succ_self _)
  have hlS : x.slo * S / (2 * (Q + 1)) ≤ S := by
    refine Nat.div_le_of_le_mul ?_
    have hQ : S ≤ 2 * (Q + 1) := by
      by_contra hlt
      have h1 : 2 * (Q + 1) ≤ S := by omega
      have h2 := Nat.mul_le_mul h1 h1
      have h3 : S * S ≤ (S + x.chi) * S := Nat.mul_le_mul_right S (Nat.le_add_right S _)
      nlinarith
    calc x.slo * S ≤ S * S := Nat.mul_le_mul_right S hslo
      _ ≤ 2 * (Q + 1) * S := Nat.mul_le_mul_right S hQ
  have hshi := Nat.mul_le_mul_right S hw.sin
  generalize x.shi * S / (2 * P) = u at *
  generalize x.slo * S / (2 * (Q + 1)) = l at *
  by_contra hgt
  have h1 : l + 30 ≤ u := by omega
  have h2 : (l + 30) * (2 * P) ≤ u * (2 * P) := Nat.mul_le_mul_right _ h1
  have h3 : (l + 1) * (2 * (Q + 1)) ≤ (l + 1) * (2 * (P + 3)) := Nat.mul_le_mul_left _ (by omega)
  nlinarith

end

end

end Sys2Proof.Machine
end

section
/-! SUPPORT. The bounds of cosSin (R81), and what is delivered of a number that is known between bounds (log 9). -/

namespace Sys2Proof.Machine

/-! ### Bounds for pi F 2^-k -/

/-- The angle pi n 2^-k. -/
noncomputable def angle (k n : Nat) : ℝ := Real.pi * n / 2 ^ k

theorem angle_nonneg (k n : Nat) : 0 ≤ angle k n := by
  have := Real.pi_pos
  unfold angle
  positivity

theorem angle_add (k m n : Nat) : angle k (m + n) = angle k m + angle k n := by
  unfold angle
  push_cast
  ring

theorem angle_half (k b : Nat) : angle k (2 ^ (b + 1)) / 2 = angle k (2 ^ b) := by
  unfold angle
  push_cast
  rw [pow_succ]
  ring

section
variable {s k F : Nat} {S : Nat} (hS : S = 2 ^ s) (hs : 5 ≤ s)
include hS hs

/-- The bits of F from bit b - 1 down, each with the angle halved before it. -/
theorem cosSinBits_spec (b : Nat) {ang acc : CosSin} {φ : ℝ} {w : Nat} (hang : ang.Holds S (angle k (2 ^ b)))
    (hangw : ang.Within 3 30) (hacc : acc.Holds S φ) (haccw : acc.Within w w) (h0 : 0 ≤ φ)
    (hsum : φ + angle k (2 ^ b) ≤ Real.pi / 2) (hw : 2 ^ b * (w + 122) ≤ S) :
    (cosSinBits s F b ang acc).Holds S (φ + angle k (F % 2 ^ b)) ∧
      (cosSinBits s F b ang acc).Within (2 ^ b * (w + 122)) (2 ^ b * (w + 122)) := by
  induction b generalizing ang acc φ w with
  | zero =>
    have hz : angle k (F % 2 ^ 0) = 0 := by simp [angle, Nat.mod_one]
    rw [hz, add_zero, cosSinBits]
    exact ⟨hacc, ⟨haccw.cos.trans (by omega), haccw.sin.trans (by omega)⟩⟩
  | succ b ih =>
    have hpos := angle_nonneg k (2 ^ b)
    have htwice := angle_half k b
    have hang' : (halfAngle s ang).Holds S (angle k (2 ^ b)) := by
      rw [← htwice]
      exact halfAngle_holds hS hs hang (angle_nonneg _ _) (by linarith)
    have hangw' := halfAngle_within hS hs hang hangw
    have hpow : 2 ^ (b + 1) * (w + 122) = 2 ^ b * (2 * w + 122 + 122) := by rw [Nat.pow_succ]; ring
    have hmod : F % 2 ^ (b + 1) = F % 2 ^ b + 2 ^ b * (F.testBit b).toNat := by rw [Nat.mod_pow_succ, Nat.toNat_testBit]
    rw [cosSinBits]
    cases hbit : F.testBit b
    · rw [hbit] at hmod
      rw [hmod, if_neg (by decide)]
      have hle : 2 ^ b * (w + 122) ≤ 2 ^ (b + 1) * (w + 122) :=
        Nat.mul_le_mul_right _ (Nat.pow_le_pow_right (by omega) (by omega))
      obtain ⟨h1, h2⟩ := ih hang' hangw' hacc haccw h0 (by linarith) (hle.trans hw)
      refine ⟨by simpa using h1, ⟨h2.cos.trans (by omega), h2.sin.trans (by omega)⟩⟩
    · rw [hbit] at hmod
      rw [hmod, if_pos rfl, hpow]
      have hwS : w ≤ S := by
        have h1 : 1 * (w + 122) ≤ 2 ^ (b + 1) * (w + 122) := Nat.mul_le_mul_right _ (Nat.two_pow_pos _)
        omega
      have hadd := addAngle_holds hS hacc hang' h0 hpos (by linarith)
      have haddw := addAngle_within hS hacc hang' haccw ⟨hangw'.cos.trans (by omega), hangw'.sin⟩ hwS
      obtain ⟨h1, h2⟩ := ih hang' hangw' hadd haddw (by linarith) (by linarith) (by rw [← hpow]; exact hw)
      refine ⟨?_, h2⟩
      rw [Bool.toNat_true, Nat.mul_one, angle_add, ← add_assoc, add_right_comm]
      exact h1

/-- The bounds of cos and sin of pi F 2^-k. -/
theorem cosSin_spec (hk : 1 ≤ k) (hF : F < 2 ^ (k - 1)) (hks : k + 6 ≤ s) :
    (cosSin s k F).Holds S (angle k F) ∧ (cosSin s k F).Within (2 ^ (k + 6)) (2 ^ (k + 6)) := by
  have hright : angle k (2 ^ (k - 1)) = Real.pi / 2 := by
    obtain ⟨j, rfl⟩ : ∃ j, k = j + 1 := ⟨k - 1, by omega⟩
    unfold angle
    push_cast
    rw [pow_succ]
    field_simp
  have hang : CosSin.Holds ⟨0, 0, 2 ^ s, 2 ^ s⟩ S (angle k (2 ^ (k - 1))) := by
    rw [hright]
    constructor <;> simp [hS]
  have hacc : CosSin.Holds ⟨2 ^ s, 2 ^ s, 0, 0⟩ S 0 := by constructor <;> simp [hS]
  have hpow : 2 ^ (k - 1) * (0 + 122) ≤ 2 ^ (k + 6) := by
    have : 2 ^ (k + 6) = 2 ^ (k - 1) * 128 := by
      rw [show (128 : Nat) = 2 ^ 7 from rfl, ← Nat.pow_add]
      congr 1
      omega
    omega
  have hle : 2 ^ (k + 6) ≤ S := by rw [hS]; exact Nat.pow_le_pow_right (by omega) hks
  obtain ⟨h1, h2⟩ := cosSinBits_spec (F := F) hS hs (k - 1) hang ⟨by simp, by simp⟩ hacc (w := 0) ⟨by simp, by simp⟩ le_rfl
    (by rw [hright]; simp) (hpow.trans hle)
  rw [zero_add, Nat.mod_eq_of_lt hF] at h1
  exact ⟨h1, ⟨h2.cos.trans (Nat.add_le_add_left hpow _), h2.sin.trans (Nat.add_le_add_left hpow _)⟩⟩

end

/-! ### Delivery of a number beyond an exact one -/

section
variable {f : Fmt} {m : Nat} {e : Int} {v : ℚ}

theorem Mag.stands_sticky (h1 : m * (2 : ℚ) ^ e < v) (h2 : v < (m + 1) * (2 : ℚ) ^ e) : Mag.Stands ⟨m, e, true⟩ v :=
  ⟨h1.le, h2, fun h => (by simp at h), fun _ => h1⟩

theorem Mag.exists_stands (m : Nat) (e : Int) : ∃ v, m * (2 : ℚ) ^ e < v ∧ v < (m + 1) * (2 : ℚ) ^ e := by
  have := two_zpow_pos e
  exact exists_between (by linarith)

theorem Mag.stands_ne_zero (h1 : m * (2 : ℚ) ^ e < v) : v ≠ 0 := by
  have h0 : (0 : ℚ) ≤ m * (2 : ℚ) ^ e := mul_nonneg (Nat.cast_nonneg _) (two_zpow_pos e).le
  exact (h0.trans_lt h1).ne'

variable (hp : f.mbits < Nat.log2 m)
include hp

theorem Mag.precise_sticky : Mag.Precise ⟨m, e, true⟩ f := fun _ => hp

/-- The encodings next to m 2^e, in units of which no encoding lies within the next one. -/
theorem Fmt.below_bounds : f.magVal (f.below ⟨m, e, true⟩) ≤ m * (2 : ℚ) ^ e ∧
    (m + 1) * (2 : ℚ) ^ e ≤ f.magVal (f.below ⟨m, e, true⟩ + 1) := by
  have hu := two_zpow_pos e
  have hb : ∀ v, m * (2 : ℚ) ^ e < v → v < (m + 1) * (2 : ℚ) ^ e →
      f.magVal (f.below ⟨m, e, true⟩) ≤ v ∧ v < f.magVal (f.below ⟨m, e, true⟩ + 1) := fun v h1 h2 =>
    (Mag.stands_sticky h1 h2).bracket (Mag.precise_sticky hp) (Mag.stands_ne_zero h1)
  constructor
  · by_contra hlt
    obtain ⟨v, h1, h2⟩ := exists_between (lt_min (not_le.mp hlt) (by linarith : m * (2 : ℚ) ^ e < (m + 1) * (2 : ℚ) ^ e))
    obtain ⟨h3, h4⟩ := lt_min_iff.mp h2
    exact absurd (hb v h1 h4).1 (not_le.mpr h3)
  · by_contra hlt
    obtain ⟨v, h1, h2⟩ := exists_between (max_lt (not_le.mp hlt) (by linarith : m * (2 : ℚ) ^ e < (m + 1) * (2 : ℚ) ^ e))
    obtain ⟨h3, h4⟩ := max_lt_iff.mp h1
    exact absurd (hb v h4 h2).2 (not_lt.mpr h3.le)

/-- The flags of an inexact result that does not overflow. -/
def inexactFlags (tiny : Bool) : Flags := fIX ||| (if tiny then fUF else 0#5)

/-- The direction away from zero. -/
def awayMode (neg : Bool) : Rounding := if neg then .rdn else .rup

theorem Fmt.deliver_down (hf : f.Proper) (hmax : f.below ⟨m, e, true⟩ ≤ f.maxFinite) (neg : Bool) :
    f.deliver .rtz false neg ⟨m, e, true⟩ =
      (f.signed neg (f.below ⟨m, e, true⟩), inexactFlags (f.tiny .rtz neg ⟨m, e, true⟩)) := by
  obtain ⟨v, h1, h2⟩ := Mag.exists_stands m e
  have hne : v ≠ f.magVal (f.below ⟨m, e, true⟩) := ((Fmt.below_bounds hp).1.trans_lt h1).ne'
  rw [Fmt.deliver_eq hf (Mag.stands_sticky h1 h2) (Mag.precise_sticky hp) (Mag.stands_ne_zero h1)]
  simp [Fmt.delivered, roundsUp, not_lt.mpr hmax, hne, inexactFlags]

theorem Fmt.deliver_away (hf : f.Proper) (hmax : f.below ⟨m, e, true⟩ + 1 ≤ f.maxFinite) (neg : Bool) :
    f.deliver (awayMode neg) false neg ⟨m, e, true⟩ =
      (f.signed neg (f.below ⟨m, e, true⟩ + 1), inexactFlags (f.tiny (awayMode neg) neg ⟨m, e, true⟩)) := by
  obtain ⟨v, h1, h2⟩ := Mag.exists_stands m e
  have hne : v ≠ f.magVal (f.below ⟨m, e, true⟩) := ((Fmt.below_bounds hp).1.trans_lt h1).ne'
  have hup : roundsUp (awayMode neg) neg (f.magVal (f.below ⟨m, e, true⟩)) (f.magVal (f.below ⟨m, e, true⟩ + 1)) v
      (f.below ⟨m, e, true⟩ % 2 == 1) = true := by
    cases neg <;> simp [roundsUp, awayMode, hne]
  rw [Fmt.deliver_eq hf (Mag.stands_sticky h1 h2) (Mag.precise_sticky hp) (Mag.stands_ne_zero h1)]
  simp only [Fmt.delivered, hup, if_true]
  rw [if_neg (not_lt.mpr hmax)]
  simp [hne, inexactFlags]

/-- The number rounded with the exponent unbounded, to within the bits of a mantissa. -/
theorem Fmt.tiny_iff (h : Mag.Stands ⟨m, e, true⟩ v) (r : Rounding) (neg : Bool) :
    ∃ n, 2 ^ f.mbits ≤ n ∧ n ≤ 2 * 2 ^ f.mbits ∧ (r = .rtz → n < 2 * 2 ^ f.mbits) ∧
      (f.tiny r neg ⟨m, e, true⟩ = true ↔ ((Nat.log2 m : Int) + e - f.mbits ≤ f.emin ∧
        n < 2 ^ (f.emin - ((Nat.log2 m : Int) + e - f.mbits)).toNat)) := by
  have hm : m ≠ 0 := by rintro rfl; simp [Nat.log2_zero] at hp
  obtain ⟨hge, hlt⟩ := h.log2 hm
  have hq : (Mag.mk m e true).sticky = true → (Mag.mk m e true).e < (Nat.log2 m : Int) + e - f.mbits := fun _ => by
    simp only
    omega
  obtain ⟨h1, h2, h3⟩ := h.roundShift hq
  simp only [Fmt.tiny, h3]
  simp only at hge hlt
  have hsplit : (2 : ℚ) ^ ((Nat.log2 m : Int) + e) = 2 ^ f.mbits * 2 ^ ((Nat.log2 m : Int) + e - f.mbits) := by
    rw [← zpow_natCast, ← zpow_add₀ (by norm_num)]
    congr 1
    omega
  have hsplit' : (2 : ℚ) ^ ((Nat.log2 m : Int) + e + 1) = 2 * 2 ^ f.mbits * 2 ^ ((Nat.log2 m : Int) + e - f.mbits) := by
    rw [zpow_add₀ (by norm_num), hsplit, zpow_one]
    ring
  rw [hsplit] at hge
  rw [hsplit'] at hlt
  have hu := two_zpow_pos ((Nat.log2 m : Int) + e - f.mbits)
  generalize (Nat.log2 m : Int) + e - f.mbits = q at *
  generalize Mag.floorAt ⟨m, e, true⟩ q = a at *
  have ha1 : 2 ^ f.mbits ≤ a := by
    have h4 := lt_of_mul_lt_mul_right (hge.trans_lt h2) hu.le
    have h5 : 2 ^ f.mbits < a + 1 := by exact_mod_cast h4
    omega
  have ha2 : a < 2 * 2 ^ f.mbits := by
    have h4 := lt_of_mul_lt_mul_right (h1.trans_lt hlt) hu.le
    exact_mod_cast h4
  generalize hb : roundsUp r neg (a * (2 : ℚ) ^ q) ((a + 1) * (2 : ℚ) ^ q) v (a % 2 == 1) = b
  refine ⟨if b then a + 1 else a, by split <;> omega, by split <;> omega, ?_, ?_⟩
  · rintro rfl
    have : b = false := by rw [← hb]; rfl
    rw [this]
    exact ha2
  · have hp := Nat.two_pow_pos f.mbits
    rw [belowPow]
    split
    · next hle => simp [hle]
    · next hgt =>
      refine iff_of_false ?_ (fun h => hgt h.1)
      simp only [beq_iff_eq]
      split <;> omega

theorem Fmt.lt_of_tiny (h : Mag.Stands ⟨m, e, true⟩ v) {r : Rounding} {neg : Bool}
    (ht : f.tiny r neg ⟨m, e, true⟩ = true) : v < (2 : ℚ) ^ f.emin := by
  obtain ⟨n, hn1, -, -, hiff⟩ := Fmt.tiny_iff hp h r neg
  obtain ⟨hle, hlt⟩ := hiff.mp ht
  have hm : m ≠ 0 := by rintro rfl; simp [Nat.log2_zero] at hp
  have hpow := (Nat.pow_lt_pow_iff_right (by omega)).mp (hn1.trans_lt hlt)
  exact (h.log2 hm).2.trans_le (two_zpow_le.mpr (by simp only; omega))

theorem Fmt.tiny_of_lt (h : Mag.Stands ⟨m, e, true⟩ v) {r : Rounding} {neg : Bool}
    (hv : v < (2 : ℚ) ^ (f.emin - 1)) : f.tiny r neg ⟨m, e, true⟩ = true := by
  obtain ⟨n, -, hn2, -, hiff⟩ := Fmt.tiny_iff hp h r neg
  have hm : m ≠ 0 := by rintro rfl; simp [Nat.log2_zero] at hp
  have hlog := two_zpow_lt.mp ((h.log2 hm).1.trans_lt hv)
  simp only at hlog
  refine hiff.mpr ⟨by omega, hn2.trans_lt ?_⟩
  rw [← Nat.pow_succ']
  exact Nat.pow_lt_pow_right (by omega) (by omega)

theorem Fmt.tiny_rtz_of_lt (h : Mag.Stands ⟨m, e, true⟩ v) {neg : Bool} (hv : v < (2 : ℚ) ^ f.emin) :
    f.tiny .rtz neg ⟨m, e, true⟩ = true := by
  obtain ⟨n, -, -, hn3, hiff⟩ := Fmt.tiny_iff hp h .rtz neg
  have hm : m ≠ 0 := by rintro rfl; simp [Nat.log2_zero] at hp
  have hlog := two_zpow_lt.mp ((h.log2 hm).1.trans_lt hv)
  simp only at hlog
  refine hiff.mpr ⟨by omega, (hn3 rfl).trans_le ?_⟩
  rw [← Nat.pow_succ']
  exact Nat.pow_le_pow_right (by omega) (by omega)

end

end Sys2Proof.Machine
end

section
/-! SUPPORT. SINPI and COSPI: the quadrant, the bounds, and one of the two values that bracket (R81, R143, Table 4-6). -/

namespace Sys2Proof.Machine

section
variable {f : Fmt}

/-- A magnitude as a real number. -/
noncomputable def Fmt.magReal (f : Fmt) (n : Nat) : ℝ := ((f.magVal n : ℚ) : ℝ)

theorem Fmt.magReal_mono {a b : Nat} (h : a ≤ b) : f.magReal a ≤ f.magReal b := by
  unfold Fmt.magReal
  exact_mod_cast Fmt.magVal_strictMono.monotone h

theorem Fmt.magReal_lt_iff {a b : Nat} : f.magReal a < f.magReal b ↔ a < b := by
  unfold Fmt.magReal
  rw [Rat.cast_lt]
  exact Fmt.magVal_strictMono.lt_iff_lt

theorem Fmt.magReal_nonneg (n : Nat) : 0 ≤ f.magReal n := by
  unfold Fmt.magReal
  exact_mod_cast f.magVal_nonneg n

theorem Fmt.signed_inj {neg : Bool} {a b : Nat} (h : f.signed neg a = f.signed neg b) : a = b := by
  cases neg
  · exact h
  · exact Nat.add_left_cancel h

/-- No magnitude lies strictly between the one delivered and the exact number; the flag of an underflow is raised only below
the least normal number, and always below half of it. -/
structure Fmt.Adjacent (f : Fmt) (E : ℝ) (n : Nat) (tiny : Bool) : Prop where
  above : ∀ b, ¬ (f.magReal n < f.magReal b ∧ f.magReal b < E)
  below : ∀ b, ¬ (E < f.magReal b ∧ f.magReal b < f.magReal n)
  only  : tiny = true → E < (2 : ℝ) ^ f.emin
  always : E < (2 : ℝ) ^ (f.emin - 1) → tiny = true

section
variable {lo hi : Nat} {e : Int} {E : ℝ}

theorem cast_scaled_real (m : Nat) (e : Int) : ((m * (2 : ℚ) ^ e : ℚ) : ℝ) = m * (2 : ℝ) ^ e := by push_cast; rfl

theorem cast_succ_scaled_real (m : Nat) (e : Int) : (((m + 1) * (2 : ℚ) ^ e : ℚ) : ℝ) = (m + 1) * (2 : ℝ) ^ e := by
  push_cast; rfl

theorem cast_two_zpow (e : Int) : (((2 : ℚ) ^ e : ℚ) : ℝ) = (2 : ℝ) ^ e := by push_cast; rfl

theorem Fmt.below_bounds_real {m : Nat} (hp : f.mbits < Nat.log2 m) :
    f.magReal (f.below ⟨m, e, true⟩) ≤ m * (2 : ℝ) ^ e ∧ (m + 1) * (2 : ℝ) ^ e ≤ f.magReal (f.below ⟨m, e, true⟩ + 1) := by
  obtain ⟨h1, h2⟩ := Fmt.below_bounds (e := e) hp
  rw [← cast_scaled_real, ← cast_succ_scaled_real]
  exact ⟨Rat.cast_le.mpr h1, Rat.cast_le.mpr h2⟩

theorem Mag.stands_sticky_real {m : Nat} {v : ℚ} (h1 : m * (2 : ℝ) ^ e < v) (h2 : (v : ℝ) < (m + 1) * (2 : ℝ) ^ e) :
    Mag.Stands ⟨m, e, true⟩ v := by
  rw [← cast_scaled_real, Rat.cast_lt] at h1
  rw [← cast_succ_scaled_real, Rat.cast_lt] at h2
  exact Mag.stands_sticky h1 h2

/-- A number above which a magnitude is delivered is not tiny where that magnitude is not. -/
theorem Fmt.lt_of_tiny_real {m : Nat} (hp : f.mbits < Nat.log2 m) {r : Rounding} {neg : Bool}
    (ht : f.tiny r neg ⟨m, e, true⟩ = true) : m * (2 : ℝ) ^ e < (2 : ℝ) ^ f.emin := by
  obtain ⟨v, h1, h2⟩ := Mag.exists_stands m e
  rw [← cast_scaled_real, ← cast_two_zpow]
  exact Rat.cast_lt.mpr (h1.trans (Fmt.lt_of_tiny hp (Mag.stands_sticky h1 h2) ht))

/-- A rational number just above a held one and below a bound. -/
theorem Mag.exists_stands_lt {m : Nat} {c : ℝ} (h : m * (2 : ℝ) ^ e < c) :
    ∃ v : ℚ, Mag.Stands ⟨m, e, true⟩ v ∧ (v : ℝ) < c := by
  have hu : (0 : ℝ) < 2 ^ e := zpow_pos (by norm_num) e
  obtain ⟨v, h1, h2⟩ := exists_rat_btwn (lt_min h (by linarith : m * (2 : ℝ) ^ e < (m + 1) * (2 : ℝ) ^ e))
  obtain ⟨h3, h4⟩ := lt_min_iff.mp h2
  exact ⟨v, Mag.stands_sticky_real h1 h4, h3⟩

/-- The number lies between the lower bound's neighbours: either of them is adjacent to it. -/
theorem Fmt.adjacent_same (hp : f.mbits < Nat.log2 lo) (hlo : lo * (2 : ℝ) ^ e ≤ E) {r : Rounding} {neg : Bool}
    (hhi : E < f.magReal (f.below ⟨lo, e, true⟩ + 1)) {n : Nat}
    (hn : n = f.below ⟨lo, e, true⟩ ∨ n = f.below ⟨lo, e, true⟩ + 1) (hmin : f.magReal (2 ^ f.mbits) = 2 ^ f.emin) :
    f.Adjacent E n (f.tiny r neg ⟨lo, e, true⟩) := by
  obtain ⟨h1, h2⟩ := Fmt.below_bounds_real (e := e) hp
  refine ⟨fun b hb => ?_, fun b hb => ?_, fun ht => ?_, fun hE => ?_⟩
  · have hlt := Fmt.magReal_lt_iff.mp (hb.2.trans hhi)
    have hgt := Fmt.magReal_lt_iff.mp hb.1
    omega
  · have hgt := Fmt.magReal_lt_iff.mp ((h1.trans hlo).trans_lt hb.1)
    have hlt := Fmt.magReal_lt_iff.mp hb.2
    omega
  · have h3 := Fmt.lt_of_tiny_real hp ht
    have h4 := h1.trans_lt h3
    rw [← hmin, Fmt.magReal_lt_iff] at h4
    rw [← hmin]
    exact hhi.trans_le (Fmt.magReal_mono h4)
  · obtain ⟨v, hst, hv⟩ := Mag.exists_stands_lt (hlo.trans_lt hE)
    exact Fmt.tiny_of_lt hp hst (by rwa [← cast_two_zpow, Rat.cast_lt] at hv)

/-- A magnitude lies between the bounds: it is adjacent to the number. -/
theorem Fmt.adjacent_next (hplo : f.mbits < Nat.log2 lo) (hphi : f.mbits < Nat.log2 hi) (hlo : lo * (2 : ℝ) ^ e ≤ E)
    (hhi : E ≤ hi * (2 : ℝ) ^ e) (hnext : f.below ⟨hi, e, true⟩ = f.below ⟨lo, e, true⟩ + 1) (htwice : hi ≤ 2 * lo)
    (neg : Bool) : f.Adjacent E (f.below ⟨hi, e, true⟩) (f.tiny .rtz neg ⟨hi, e, true⟩) := by
  obtain ⟨h1, -⟩ := Fmt.below_bounds_real (e := e) hplo
  obtain ⟨h3, h4⟩ := Fmt.below_bounds_real (e := e) hphi
  have hu : (0 : ℝ) < 2 ^ e := zpow_pos (by norm_num) e
  refine ⟨fun b hb => ?_, fun b hb => ?_, fun ht => hhi.trans_lt (Fmt.lt_of_tiny_real hphi ht), fun hE => ?_⟩
  · have hlt := Fmt.magReal_lt_iff.mp (((hb.2.trans_le hhi).trans (by linarith)).trans_le h4)
    have hgt := Fmt.magReal_lt_iff.mp hb.1
    omega
  · have hgt := Fmt.magReal_lt_iff.mp ((h1.trans hlo).trans_lt hb.1)
    have hlt := Fmt.magReal_lt_iff.mp hb.2
    omega
  · have h2 : (hi : ℝ) ≤ 2 * lo := by exact_mod_cast htwice
    have h5 : hi * (2 : ℝ) ^ e ≤ 2 * lo * 2 ^ e := mul_le_mul_of_nonneg_right h2 hu.le
    have h6 : (2 : ℝ) ^ f.emin = 2 * 2 ^ (f.emin - 1) := by
      rw [← zpow_one_add₀ (by norm_num)]
      congr 1
      omega
    obtain ⟨v, hst, hv⟩ := Mag.exists_stands_lt (m := hi) (e := e) (c := 2 ^ f.emin) (by rw [h6]; linarith)
    exact Fmt.tiny_rtz_of_lt hphi hst (by rwa [← cast_two_zpow, Rat.cast_lt] at hv)

/-- The bounds are so narrow that no two magnitudes lie between them. -/
theorem Fmt.below_hi_le (hplo : f.mbits < Nat.log2 lo) (hphi : f.mbits < Nat.log2 hi) {w : Nat} (hw : hi ≤ lo + w)
    (hwide : w * (2 * 2 ^ f.mbits) < lo) : f.below ⟨hi, e, true⟩ ≤ f.below ⟨lo, e, true⟩ + 1 := by
  obtain ⟨-, h2⟩ := Fmt.below_bounds (e := e) hplo
  obtain ⟨h3, -⟩ := Fmt.below_bounds (e := e) hphi
  have hu := two_zpow_pos e
  by_contra hgt
  have hstep : f.magVal (f.below ⟨lo, e, true⟩ + 1 + 1) ≤ hi * (2 : ℚ) ^ e :=
    (Fmt.magVal_strictMono.monotone (by omega)).trans h3
  have hgap := f.magVal_gap (f.below ⟨lo, e, true⟩ + 1)
  have hlt := f.magVal_lt_succ (f.below ⟨lo, e, true⟩ + 1)
  generalize f.magVal (f.below ⟨lo, e, true⟩ + 1) = A at *
  generalize f.magVal (f.below ⟨lo, e, true⟩ + 1 + 1) = B at *
  have hw' : (hi : ℚ) ≤ lo + w := by exact_mod_cast hw
  have hwide' : (w : ℚ) * (2 * 2 ^ f.mbits) < lo := by exact_mod_cast hwide
  have hdiff : B - A ≤ w * (2 : ℚ) ^ e := by nlinarith
  have h5 : (B - A) * (2 * 2 ^ f.mbits) ≤ w * (2 : ℚ) ^ e * (2 * 2 ^ f.mbits) :=
    mul_le_mul_of_nonneg_right hdiff (by positivity)
  have h6 : w * (2 * 2 ^ f.mbits) * (2 : ℚ) ^ e < lo * (2 : ℚ) ^ e := mul_lt_mul_of_pos_right hwide' hu
  nlinarith

/-- A number between narrow bounds is delivered as a magnitude next to it. -/
theorem Fmt.faithful_spec (hf : f.Proper) {two w : Nat} (htwo : 2 ≤ f.magReal two) (hmax : two + 1 ≤ f.maxFinite)
    (hmin : f.magReal (2 ^ f.mbits) = 2 ^ f.emin) (hlo : lo * (2 : ℝ) ^ e ≤ E) (hhi : E ≤ hi * (2 : ℝ) ^ e) (h1 : E ≤ 1)
    (hw : hi ≤ lo + w) (hwide : w * (2 * 2 ^ f.mbits) < lo) (hbits : 2 * 2 ^ f.mbits ≤ lo) (pick neg : Bool) :
    ∃ n tiny, n ≤ f.maxFinite ∧ f.faithful pick neg lo hi e = (f.signed neg n, inexactFlags tiny) ∧ f.Adjacent E n tiny := by
  have hu : (0 : ℝ) < 2 ^ e := zpow_pos (by norm_num) e
  have hle : lo ≤ hi := by
    have := le_of_mul_le_mul_right (hlo.trans hhi) hu
    exact_mod_cast this
  have hlog : ∀ m, lo ≤ m → f.mbits < Nat.log2 m := fun m hm => by
    rw [← Nat.pow_succ'] at hbits
    have hp := Nat.two_pow_pos (f.mbits + 1)
    have := (Nat.le_log2 (by omega)).mpr (hbits.trans hm)
    omega
  have hplo := hlog lo le_rfl
  have hphi := hlog hi hle
  have hpw : w ≤ lo := by
    have hp := Nat.two_pow_pos f.mbits
    have : w * 1 ≤ w * (2 * 2 ^ f.mbits) := Nat.mul_le_mul_left w (by omega)
    omega
  obtain ⟨hb1, -⟩ := Fmt.below_bounds_real (e := e) hplo
  obtain ⟨hb3, hb4⟩ := Fmt.below_bounds_real (e := e) hphi
  have htwice : (hi : ℝ) ≤ 2 * lo := by exact_mod_cast (by omega : hi ≤ 2 * lo)
  have hhi2 : hi * (2 : ℝ) ^ e ≤ 2 := by
    have := mul_le_mul_of_nonneg_right htwice hu.le
    linarith
  have hfit : ∀ n, f.magReal n ≤ 2 → n + 1 ≤ f.maxFinite := fun n hn => by
    have := Fmt.magReal_lt_iff.not.mp (not_lt.mpr (hn.trans htwo))
    omega
  have hfitlo := hfit _ (hb1.trans (hlo.trans (h1.trans (by norm_num))))
  have hfithi := hfit _ (hb3.trans hhi2)
  have hdown := Fmt.deliver_down (e := e) hplo hf (by omega) neg
  have hdown' := Fmt.deliver_down (e := e) hphi hf (by omega) neg
  have haway := Fmt.deliver_away (e := e) hplo hf hfitlo neg
  rw [awayMode] at haway
  simp only [Fmt.faithful, hdown, hdown', haway]
  by_cases hsame : f.below ⟨lo, e, true⟩ = f.below ⟨hi, e, true⟩
  · rw [if_pos (by rw [hsame])]
    have hE : E < f.magReal (f.below ⟨lo, e, true⟩ + 1) := by
      rw [hsame]
      linarith
    cases pick
    · exact ⟨_, _, by omega, rfl, Fmt.adjacent_same hplo hlo hE (.inl rfl) hmin⟩
    · exact ⟨_, _, hfitlo, rfl, Fmt.adjacent_same hplo hlo hE (.inr rfl) hmin⟩
  · rw [if_neg fun h => hsame (Fmt.signed_inj h)]
    have hge : f.below ⟨lo, e, true⟩ ≤ f.below ⟨hi, e, true⟩ := by
      by_contra hgt
      have h5 : f.magReal (f.below ⟨hi, e, true⟩ + 1) ≤ f.magReal (f.below ⟨lo, e, true⟩) := Fmt.magReal_mono (by omega)
      linarith
    have hnext := Fmt.below_hi_le (e := e) hplo hphi hw hwide
    exact ⟨_, _, by omega, rfl, Fmt.adjacent_next hplo hphi hlo hhi (by omega) (by omega) neg⟩

end

end

end Sys2Proof.Machine
end

section
/-! SUPPORT. The quadrant of an angle, and the values of SINPI and COSPI (R81, R143, Table 4-6). -/

namespace Sys2Proof.Machine

/-! ### The quadrant -/

/-- A sign as a real factor. -/
noncomputable def signReal (neg : Bool) : ℝ := ((signOf neg : ℚ) : ℝ)

@[simp] theorem signReal_true : signReal true = -1 := by simp [signReal]
@[simp] theorem signReal_false : signReal false = 1 := by simp [signReal]

theorem signReal_bne (a b : Bool) : signReal (a != b) = signReal a * signReal b := by cases a <;> cases b <;> simp

/-- Whether the cosine of the angle within its quadrant is what the quadrant q takes, and with which sign. -/
def quadrantCos (cos : Bool) (q : Nat) : Bool := if cos then q % 2 == 0 else q % 2 == 1

def quadrantNeg (cos : Bool) (q : Nat) : Bool := if cos then q == 1 || q == 2 else q == 2 || q == 3

/-- The cosine or sine of an angle that lies q quarter turns further. -/
theorem trig_quarter (cos : Bool) (Q : Nat) (θ : ℝ) :
    (if cos then Real.cos (Q * (Real.pi / 2) + θ) else Real.sin (Q * (Real.pi / 2) + θ)) =
      signReal (quadrantNeg cos (Q % 4)) * (if quadrantCos cos (Q % 4) then Real.cos θ else Real.sin θ) := by
  have hturn : (Q : ℝ) * (Real.pi / 2) + θ = ((Q % 4 : Nat) * (Real.pi / 2) + θ) + (Q / 4 : Nat) * (2 * Real.pi) := by
    have : (Q : ℝ) = (4 * (Q / 4) + Q % 4 : Nat) := by exact_mod_cast (Nat.div_add_mod Q 4).symm
    rw [this]
    push_cast
    ring
  rw [hturn, Real.cos_add_nat_mul_two_pi, Real.sin_add_nat_mul_two_pi]
  have hlt := Nat.mod_lt Q (show 0 < 4 by omega)
  generalize Q % 4 = q at hlt
  have h1 : ((1 : Nat) : ℝ) * (Real.pi / 2) + θ = θ + Real.pi / 2 := by push_cast; ring
  have h2 : ((2 : Nat) : ℝ) * (Real.pi / 2) + θ = θ + Real.pi := by push_cast; ring
  have h3 : ((3 : Nat) : ℝ) * (Real.pi / 2) + θ = θ + Real.pi / 2 + Real.pi := by push_cast; ring
  interval_cases q
  · cases cos <;> simp [quadrantNeg, quadrantCos]
  · rw [h1]
    cases cos <;> simp [quadrantNeg, quadrantCos, Real.cos_add_pi_div_two, Real.sin_add_pi_div_two]
  · rw [h2]
    cases cos <;> simp [quadrantNeg, quadrantCos, Real.cos_add_pi, Real.sin_add_pi]
  · rw [h3]
    cases cos <;> simp [quadrantNeg, quadrantCos, Real.cos_add_pi, Real.sin_add_pi, Real.cos_add_pi_div_two,
      Real.sin_add_pi_div_two]

/-! ### The operand in units of 2^-k -/

/-- The bits below the binary point, and one. -/
def sineBits (e : Int) : Nat := (-e).toNat + 1

/-- The magnitude of the operand in these units. -/
def sineUnits (m : Nat) (e : Int) : Nat := m <<< (e + sineBits e).toNat

section
variable (n : Bool) (m : Nat) (e : Int)

theorem sineUnits_eq : (m : ℝ) * 2 ^ e = sineUnits m e / 2 ^ sineBits e := by
  rw [eq_div_iff (by positivity), sineUnits, Nat.shiftLeft_eq]
  push_cast
  rw [← zpow_natCast, ← zpow_natCast, mul_assoc, ← zpow_add₀ (by norm_num)]
  congr 2
  unfold sineBits
  omega

theorem rat_real : ((FVal.fin n m e).rat : ℝ) = signReal n * (sineUnits m e / 2 ^ sineBits e) := by
  rw [FVal.rat_fin, ← sineUnits_eq, signReal]
  push_cast
  rfl

/-- The quarter turns of the operand, and what is beyond them. -/
theorem pi_mul_rat : Real.pi * ((FVal.fin n m e).rat : ℝ) = signReal n *
    ((sineUnits m e / 2 ^ (sineBits e - 1) : Nat) * (Real.pi / 2) +
      angle (sineBits e) (sineUnits m e % 2 ^ (sineBits e - 1))) := by
  have hpow : (2 : ℝ) ^ sineBits e = 2 * 2 ^ (sineBits e - 1) := by
    rw [← pow_succ']
    congr 1
  have hdiv : (sineUnits m e : ℝ) = ((2 : ℝ) ^ (sineBits e - 1)) * (sineUnits m e / 2 ^ (sineBits e - 1) : Nat) +
      (sineUnits m e % 2 ^ (sineBits e - 1) : Nat) := by
    exact_mod_cast (Nat.div_add_mod (sineUnits m e) (2 ^ (sineBits e - 1))).symm
  rw [rat_real, angle, hpow]
  conv_lhs => rw [hdiv]
  have hp : (0 : ℝ) < 2 ^ (sineBits e - 1) := by positivity
  generalize ((sineUnits m e / 2 ^ (sineBits e - 1) : Nat) : ℝ) = Q
  generalize ((sineUnits m e % 2 ^ (sineBits e - 1) : Nat) : ℝ) = F
  field_simp

/-- The cosine or sine of pi times the operand. -/
theorem trig_rat (cos : Bool) :
    (if cos then Real.cos (Real.pi * ((FVal.fin n m e).rat : ℝ)) else Real.sin (Real.pi * ((FVal.fin n m e).rat : ℝ))) =
      signReal (if cos then quadrantNeg cos (sineUnits m e / 2 ^ (sineBits e - 1) % 4)
        else n != quadrantNeg cos (sineUnits m e / 2 ^ (sineBits e - 1) % 4)) *
      (if quadrantCos cos (sineUnits m e / 2 ^ (sineBits e - 1) % 4)
        then Real.cos (angle (sineBits e) (sineUnits m e % 2 ^ (sineBits e - 1)))
        else Real.sin (angle (sineBits e) (sineUnits m e % 2 ^ (sineBits e - 1)))) := by
  rw [pi_mul_rat]
  generalize angle (sineBits e) (sineUnits m e % 2 ^ (sineBits e - 1)) = θ
  have h := trig_quarter cos (sineUnits m e / 2 ^ (sineBits e - 1)) θ
  generalize ((sineUnits m e / 2 ^ (sineBits e - 1) : Nat) : ℝ) * (Real.pi / 2) + θ = α at h ⊢
  cases cos
  · simp only [Bool.false_eq_true, if_false] at h ⊢
    rw [signReal_bne, mul_assoc, ← h]
    cases n <;> simp
  · simp only [if_true] at h ⊢
    rw [← h]
    cases n <;> simp

/-- Twice the operand is an integer exactly where nothing is beyond the quarter turns. -/
theorem twice_rat_int_iff : (∃ j : ℤ, 2 * ((FVal.fin n m e).rat : ℝ) = j) ↔
    sineUnits m e % 2 ^ (sineBits e - 1) = 0 := by
  have hpow : (2 : ℝ) ^ sineBits e = 2 * 2 ^ (sineBits e - 1) := by
    rw [← pow_succ']
    congr 1
  have hp : (0 : ℝ) < 2 ^ (sineBits e - 1) := by positivity
  have htwice : 2 * ((FVal.fin n m e).rat : ℝ) = signReal n * (sineUnits m e / 2 ^ (sineBits e - 1)) := by
    rw [rat_real, hpow]
    field_simp
  rw [htwice]
  constructor
  · rintro ⟨j, hj⟩
    have habs : (sineUnits m e : ℝ) / 2 ^ (sineBits e - 1) = j.natAbs := by
      have hs : |signReal n| = 1 := by cases n <;> simp
      rw [Nat.cast_natAbs, Int.cast_abs, ← hj, abs_mul, hs, one_mul, abs_of_nonneg (by positivity)]
    rw [div_eq_iff hp.ne'] at habs
    have : sineUnits m e = j.natAbs * 2 ^ (sineBits e - 1) := by exact_mod_cast habs
    rw [this, Nat.mul_mod_left]
  · intro h0
    obtain ⟨q, hq⟩ := Nat.dvd_of_mod_eq_zero h0
    refine ⟨if n then -(q : ℤ) else q, ?_⟩
    rw [hq]
    push_cast
    rw [mul_div_cancel_left₀ _ hp.ne']
    cases n <;> simp

end

/-! ### Bounds of the quadrant's function -/

section
variable {k F : Nat} (hk : 1 ≤ k) (h0 : F ≠ 0) (hF : F < 2 ^ (k - 1))
include hk hF

theorem angle_complement : Real.pi / 2 - angle k F = angle k (2 ^ (k - 1) - F) := by
  obtain ⟨j, rfl⟩ : ∃ j, k = j + 1 := ⟨k - 1, by omega⟩
  rw [Nat.add_sub_cancel] at *
  unfold angle
  rw [Nat.cast_sub hF.le, pow_succ]
  push_cast
  field_simp

include h0

/-- Away from the axes a sine and a cosine are not less than the angle's distance says (Jordan). -/
theorem trig_ge (useCos : Bool) : 2 / 2 ^ k ≤ (if useCos then Real.cos (angle k F) else Real.sin (angle k F)) := by
  have hpi := Real.pi_pos
  have hjordan : ∀ a : Nat, 1 ≤ a → angle k a ≤ Real.pi / 2 → 2 / 2 ^ k ≤ Real.sin (angle k a) := fun a ha hle => by
    refine le_trans ?_ (Real.mul_le_sin (angle_nonneg k a) hle)
    have ha' : (1 : ℝ) ≤ a := by exact_mod_cast ha
    unfold angle
    rw [show 2 / Real.pi * (Real.pi * a / 2 ^ k) = 2 * a / 2 ^ k by field_simp]
    gcongr
    linarith
  have hcomp := angle_complement hk hF
  have hF0 := angle_nonneg k F
  have hC0 := angle_nonneg k (2 ^ (k - 1) - F)
  cases useCos
  · exact hjordan F (by omega) (by linarith)
  · simp only [if_true]
    rw [← Real.sin_pi_div_two_sub, hcomp]
    exact hjordan _ (by omega) (by linarith)

theorem trig_range (useCos : Bool) : 0 ≤ (if useCos then Real.cos (angle k F) else Real.sin (angle k F)) ∧
    (if useCos then Real.cos (angle k F) else Real.sin (angle k F)) ≤ 1 := by
  refine ⟨le_trans (by positivity) (trig_ge hk h0 hF useCos), ?_⟩
  cases useCos
  · exact Real.sin_le_one _
  · exact Real.cos_le_one _

end

/-- The bounds that are delivered, of the cosine or of the sine. -/
def CosSin.lo (x : CosSin) (useCos : Bool) : Nat := if useCos then x.clo else x.slo

def CosSin.hi (x : CosSin) (useCos : Bool) : Nat := if useCos then x.chi else x.shi

/-- The fractional bits of the bounds. -/
def sineScale (f : Fmt) (k : Nat) : Nat := 4 * k + f.mbits + 64

/-- The bounds are narrow enough for the mantissa. -/
theorem cosSin_narrow {f : Fmt} {k F : Nat} (hk : 1 ≤ k) (h0 : F ≠ 0) (hF : F < 2 ^ (k - 1)) (useCos : Bool) :
    let x := cosSin (sineScale f k) k F
    let E := if useCos then Real.cos (angle k F) else Real.sin (angle k F)
    x.lo useCos * (2 : ℝ) ^ (-(sineScale f k : Int)) ≤ E ∧ E ≤ x.hi useCos * (2 : ℝ) ^ (-(sineScale f k : Int)) ∧
      x.hi useCos ≤ x.lo useCos + 2 ^ (k + 6) ∧ 2 ^ (k + 6) * (2 * 2 ^ f.mbits) < x.lo useCos ∧
      2 * 2 ^ f.mbits ≤ x.lo useCos := by
  obtain ⟨hholds, hwithin⟩ := cosSin_spec (S := 2 ^ sineScale f k) rfl (by unfold sineScale; omega) hk hF
    (by unfold sineScale; omega)
  have hge := trig_ge hk h0 hF useCos
  have hbounds : ((cosSin (sineScale f k) k F).lo useCos : ℝ) ≤
        (2 ^ sineScale f k : Nat) * (if useCos then Real.cos (angle k F) else Real.sin (angle k F)) ∧
      (2 ^ sineScale f k : Nat) * (if useCos then Real.cos (angle k F) else Real.sin (angle k F)) ≤
        (cosSin (sineScale f k) k F).hi useCos := by
    cases useCos
    · exact ⟨hholds.slo, hholds.shi⟩
    · exact ⟨hholds.clo, hholds.chi⟩
  have hw : (cosSin (sineScale f k) k F).hi useCos ≤ (cosSin (sineScale f k) k F).lo useCos + 2 ^ (k + 6) := by
    cases useCos
    · exact hwithin.sin
    · exact hwithin.cos
  simp only
  generalize (if useCos then Real.cos (angle k F) else Real.sin (angle k F)) = E at *
  generalize (cosSin (sineScale f k) k F).lo useCos = lo at *
  generalize (cosSin (sineScale f k) k F).hi useCos = hi at *
  obtain ⟨hlo, hhi⟩ := hbounds
  push_cast at hlo hhi
  have hS : (0 : ℝ) < 2 ^ sineScale f k := by positivity
  have hhi_ge : 4 * (2 ^ (k + 6) * 2 ^ f.mbits) ≤ hi := by
    have h1 : (2 : ℝ) ^ sineScale f k * (2 / 2 ^ k) ≤ hi := (mul_le_mul_of_nonneg_left hge hS.le).trans hhi
    have h2 : (2 : ℝ) ^ sineScale f k * (2 / 2 ^ k) = 2 ^ (3 * k + f.mbits + 65) := by
      have : sineScale f k + 1 = (3 * k + f.mbits + 65) + k := by unfold sineScale; omega
      rw [mul_div_assoc', ← pow_succ, this, pow_add, mul_div_assoc, div_self (by positivity), mul_one]
    rw [h2] at h1
    have h3 : 2 ^ (3 * k + f.mbits + 65) ≤ hi := by exact_mod_cast h1
    refine le_trans ?_ h3
    rw [show (4 : Nat) = 2 ^ 2 from rfl, ← Nat.pow_add, ← Nat.pow_add]
    exact Nat.pow_le_pow_right (by omega) (by omega)
  have hW : 0 < 2 ^ (k + 6) := Nat.two_pow_pos _
  have hP : 0 < 2 ^ f.mbits := Nat.two_pow_pos _
  have hWP : 2 ^ (k + 6) ≤ 2 ^ (k + 6) * 2 ^ f.mbits := Nat.le_mul_of_pos_right _ hP
  have hPW : 2 ^ f.mbits ≤ 2 ^ (k + 6) * 2 ^ f.mbits := Nat.le_mul_of_pos_left _ hW
  have hcomm : 2 ^ (k + 6) * (2 * 2 ^ f.mbits) = 2 * (2 ^ (k + 6) * 2 ^ f.mbits) := by ring
  rw [zpow_neg, zpow_natCast, ← div_eq_mul_inv, ← div_eq_mul_inv, div_le_iff₀ hS, le_div_iff₀ hS, mul_comm E]
  exact ⟨hlo, hhi, hw, by omega, by omega⟩

end Sys2Proof.Machine
end

section
/-! SUPPORT. What SINPI and COSPI deliver, case by case (R81, R143, Table 4-6). -/

namespace Sys2Proof.Machine

/-- A format in which 1 and 2 are numbers, and not the greatest. -/
structure Fmt.HasOne (f : Fmt) : Prop where
  proper : f.Proper
  bias : 1 ≤ f.bias
  two : (f.bias + 1) * 2 ^ f.mbits + 1 ≤ f.maxFinite

theorem Fmt.hasOne_of_flt {f : Fmt} (h : f = Fmt.f32 ∨ f = Fmt.f16 ∨ f = Fmt.bf16) : f.HasOne := by
  obtain rfl | rfl | rfl := h <;> exact ⟨⟨by decide, by decide⟩, by decide, by decide⟩

section
variable {f : Fmt} (hf : f.HasOne)
include hf

theorem Fmt.HasOne.one_le : f.bias * 2 ^ f.mbits ≤ f.maxFinite := by
  have := hf.two
  have := Nat.mul_le_mul_right (2 ^ f.mbits) (Nat.le_add_right f.bias 1)
  omega

theorem Fmt.HasOne.magVal_one : f.magVal (f.bias * 2 ^ f.mbits) = 1 := by
  obtain ⟨d, hd⟩ : ∃ d, f.bias = d + 1 := ⟨f.bias - 1, by have := hf.bias; omega⟩
  have h := f.magVal_normal d 0 (Nat.two_pow_pos _)
  simp only [Nat.add_zero, ← hd] at h
  rw [h]
  push_cast
  rw [← zpow_natCast, ← zpow_add₀ (by norm_num)]
  have : (f.mbits : Int) + (f.qmin + d) = 0 := by unfold Fmt.qmin Fmt.emin; omega
  rw [this, zpow_zero]

omit hf in
theorem Fmt.magReal_two (f : Fmt) : 2 ≤ f.magReal ((f.bias + 1) * 2 ^ f.mbits) := by
  have h := f.magVal_normal f.bias 0 (Nat.two_pow_pos _)
  simp only [Nat.add_zero] at h
  have h2 : f.magVal ((f.bias + 1) * 2 ^ f.mbits) = 2 := by
    rw [h]
    push_cast
    rw [← zpow_natCast, ← zpow_add₀ (by norm_num)]
    have : (f.mbits : Int) + (f.qmin + f.bias) = 1 := by unfold Fmt.qmin Fmt.emin; omega
    rw [this, zpow_one]
  unfold Fmt.magReal
  rw [h2]
  norm_num

omit hf in
theorem Fmt.magReal_leastNormal (f : Fmt) : f.magReal (2 ^ f.mbits) = 2 ^ f.emin := by
  have h := f.magVal_normal 0 0 (Nat.two_pow_pos _)
  simp only [Nat.zero_add, Nat.one_mul, Nat.add_zero] at h
  unfold Fmt.magReal
  rw [h, ← cast_two_zpow]
  push_cast
  rw [← zpow_natCast, ← zpow_add₀ (by norm_num)]
  congr 1
  unfold Fmt.qmin
  omega

/-- SINPI or COSPI beyond the axes. -/
theorem Fmt.sinCosPi_inexact (pick cos n : Bool) (m : Nat) (e : Int)
    (hF : sineUnits m e % 2 ^ (sineBits e - 1) ≠ 0) :
    ∃ neg a tiny E, f.sinCosPi pick cos (.fin n m e) = (f.signed neg a, inexactFlags tiny) ∧ a ≤ f.maxFinite ∧ 0 ≤ E ∧
      f.Adjacent E a tiny ∧
      (if cos then Real.cos (Real.pi * ((FVal.fin n m e).rat : ℝ)) else Real.sin (Real.pi * ((FVal.fin n m e).rat : ℝ))) =
        signReal neg * E := by
  have hk : 1 ≤ sineBits e := by unfold sineBits; omega
  have hlt : sineUnits m e % 2 ^ (sineBits e - 1) < 2 ^ (sineBits e - 1) := Nat.mod_lt _ (Nat.two_pow_pos _)
  have hrun : f.sinCosPi pick cos (.fin n m e) = f.faithful pick
      (if cos then quadrantNeg cos (sineUnits m e / 2 ^ (sineBits e - 1) % 4)
        else n != quadrantNeg cos (sineUnits m e / 2 ^ (sineBits e - 1) % 4))
      ((cosSin (sineScale f (sineBits e)) (sineBits e) (sineUnits m e % 2 ^ (sineBits e - 1))).lo
        (quadrantCos cos (sineUnits m e / 2 ^ (sineBits e - 1) % 4)))
      ((cosSin (sineScale f (sineBits e)) (sineBits e) (sineUnits m e % 2 ^ (sineBits e - 1))).hi
        (quadrantCos cos (sineUnits m e / 2 ^ (sineBits e - 1) % 4))) (-(sineScale f (sineBits e) : Int)) := by
    unfold sineBits sineUnits sineBits at hF
    simp only [Fmt.sinCosPi]
    unfold sineBits sineUnits sineBits sineScale CosSin.lo CosSin.hi
    rw [if_neg hF]
    cases cos
    · generalize m <<< (e + (((-e).toNat + 1 : Nat) : Int)).toNat / 2 ^ ((-e).toNat + 1 - 1) % 4 = q
      simp only [quadrantCos, quadrantNeg, Bool.false_eq_true, if_false]
      cases q % 2 == 1 <;> rfl
    · generalize m <<< (e + (((-e).toNat + 1 : Nat) : Int)).toNat / 2 ^ ((-e).toNat + 1 - 1) % 4 = q
      simp only [quadrantCos, quadrantNeg, if_true]
      cases q % 2 == 0 <;> rfl
  rw [hrun, trig_rat]
  generalize quadrantCos cos (sineUnits m e / 2 ^ (sineBits e - 1) % 4) = useCos
  generalize (if cos then quadrantNeg cos (sineUnits m e / 2 ^ (sineBits e - 1) % 4)
    else n != quadrantNeg cos (sineUnits m e / 2 ^ (sineBits e - 1) % 4)) = neg
  obtain ⟨hlo, hhi, hw, hwide, hbits⟩ := cosSin_narrow (f := f) hk hF hlt useCos
  obtain ⟨h0, h1⟩ := trig_range hk hF hlt useCos
  obtain ⟨a, tiny, ha, hrun, hadj⟩ := Fmt.faithful_spec hf.proper f.magReal_two hf.two f.magReal_leastNormal hlo hhi h1 hw
    hwide hbits pick neg
  exact ⟨neg, a, tiny, _, hrun, ha, h0, hadj, rfl⟩

/-- SINPI or COSPI where twice the operand is an integer. -/
theorem Fmt.sinCosPi_exact (pick cos n : Bool) (m : Nat) (e : Int)
    (hF : sineUnits m e % 2 ^ (sineBits e - 1) = 0) :
    ∃ neg a, f.sinCosPi pick cos (.fin n m e) = (f.signed neg a, 0#5) ∧ a ≤ f.maxFinite ∧
      (if cos then Real.cos (Real.pi * ((FVal.fin n m e).rat : ℝ)) else Real.sin (Real.pi * ((FVal.fin n m e).rat : ℝ))) =
        signReal neg * f.magReal a ∧ (f.magReal a = 0 → neg = (!cos && n)) := by
  have hone : f.magReal (f.bias * 2 ^ f.mbits) = 1 := by unfold Fmt.magReal; rw [hf.magVal_one]; norm_num
  have hzero : f.magReal 0 = 0 := by unfold Fmt.magReal; rw [f.magVal_zero]; norm_num
  have h1 := hf.one_le
  have hangle : angle (sineBits e) 0 = 0 := by simp [angle]
  rw [trig_rat, hF, hangle, Real.cos_zero, Real.sin_zero]
  unfold sineBits sineUnits sineBits at hF
  simp only [Fmt.sinCosPi]
  unfold sineBits sineUnits sineBits
  rw [if_pos hF]
  generalize hq : m <<< (e + (((-e).toNat + 1 : Nat) : Int)).toNat / 2 ^ ((-e).toNat + 1 - 1) % 4 = q
  have hlt : q < 4 := by rw [← hq]; exact Nat.mod_lt _ (by omega)
  have hz := Nat.zero_le f.maxFinite
  cases cos
  · interval_cases q
    · exact ⟨n, 0, rfl, hz, by simp [quadrantNeg, quadrantCos, hzero], fun _ => rfl⟩
    · exact ⟨n, _, rfl, h1, by simp [quadrantNeg, quadrantCos, hone], fun h => by rw [hone] at h; norm_num at h⟩
    · exact ⟨n, 0, rfl, hz, by simp [quadrantNeg, quadrantCos, hzero], fun _ => rfl⟩
    · exact ⟨!n, _, rfl, h1, by simp [quadrantNeg, quadrantCos, hone], fun h => by rw [hone] at h; norm_num at h⟩
  · interval_cases q
    · exact ⟨false, _, rfl, h1, by simp [quadrantNeg, quadrantCos, hone], fun h => by rw [hone] at h; norm_num at h⟩
    · exact ⟨false, 0, rfl, hz, by simp [quadrantNeg, quadrantCos, hzero], fun _ => rfl⟩
    · exact ⟨true, _, rfl, h1, by simp [quadrantNeg, quadrantCos, hone], fun h => by rw [hone] at h; norm_num at h⟩
    · exact ⟨false, 0, rfl, hz, by simp [quadrantNeg, quadrantCos, hzero], fun _ => rfl⟩

/-! ### The delivered number among those of the format -/

/-- The number that a magnitude with a sign is. -/
theorem Fmt.HasOne.value_signed {a : Nat} (ha : a ≤ f.maxFinite) (neg : Bool) :
    (f.value (f.signed neg a)).isFin = true ∧ (f.value (f.signed neg a)).neg = neg ∧
      ((f.value (f.signed neg a)).rat : ℝ) = signReal neg * f.magReal a := by
  obtain ⟨h1, h2, h3⟩ := Fmt.value_signed hf.proper ha neg
  refine ⟨h1, h2, ?_⟩
  rw [h3]
  push_cast
  rfl

/-- No number of the format lies strictly between the one delivered and the exact one. -/
theorem Fmt.Adjacent.not_between {E : ℝ} {a : Nat} {tiny : Bool} (h : f.Adjacent E a tiny) (h0 : 0 ≤ E) (neg : Bool)
    {y : Nat}
    (hy : (f.value y).isFin = true) :
    ¬ (signReal neg * f.magReal a < ((f.value y).rat : ℝ) ∧ ((f.value y).rat : ℝ) < signReal neg * E) ∧
      ¬ (signReal neg * E < ((f.value y).rat : ℝ) ∧ ((f.value y).rat : ℝ) < signReal neg * f.magReal a) := by
  obtain ⟨w, b, -, hw, hwb⟩ := Fmt.rat_of_isFin hf.proper hy neg
  have hreal : ((f.value y).rat : ℝ) = signReal neg * (w : ℝ) := by rw [hw]; push_cast; rfl
  have ha := f.magReal_nonneg a
  have hb := f.magReal_nonneg b
  have hkey : ¬ (f.magReal a < (w : ℝ) ∧ (w : ℝ) < E) ∧ ¬ (E < (w : ℝ) ∧ (w : ℝ) < f.magReal a) := by
    rcases hwb with rfl | rfl
    · exact ⟨h.above b, h.below b⟩
    · have hcast : ((-f.magVal b : ℚ) : ℝ) = -f.magReal b := by unfold Fmt.magReal; push_cast; rfl
      rw [hcast]
      constructor
      · rintro ⟨h1, -⟩
        linarith
      · rintro ⟨h1, -⟩
        linarith
  rw [hreal]
  cases neg
  · simpa using hkey
  · simp only [signReal_true, neg_one_mul, neg_lt_neg_iff]
    exact ⟨fun h1 => hkey.2 h1.symm, fun h1 => hkey.1 h1.symm⟩

omit hf in
theorem inexactFlags_cases (tiny : Bool) : (inexactFlags tiny = fIX ∨ inexactFlags tiny = fIX ||| fUF) ∧
    (inexactFlags tiny = fIX ||| fUF ↔ tiny = true) := by
  cases tiny <;> decide

end

theorem abs_signReal_mul (neg : Bool) {E : ℝ} (h : 0 ≤ E) : |signReal neg * E| = E := by
  cases neg <;> simp [abs_of_nonneg h]

end Sys2Proof.Machine

section
open Sys2Proof Sys2Proof.Machine

/-- Settles O23: the halved angles and their sums bound the exact value more closely than the mantissa's last bit. -/
theorem sineBounds : Obligations.SineBounds := by
  unfold Obligations.SineBounds
  intro f pick cos hf
  have hf := Fmt.hasOne_of_flt hf
  refine ⟨fun g => ⟨rfl, rfl⟩, fun n m e => ?_⟩
  by_cases hF : sineUnits m e % 2 ^ (sineBits e - 1) = 0
  · obtain ⟨neg, a, hrun, ha, hexact, hneg⟩ := Fmt.sinCosPi_exact hf pick cos n m e hF
    obtain ⟨hfin, hsign, hreal⟩ := hf.value_signed ha neg
    simp only [hrun, hexact]
    refine ⟨hfin, fun _ => ⟨hreal, trivial, fun hz => ?_⟩,
      fun hno => absurd ((twice_rat_int_iff n m e).mpr hF) (not_exists.mpr hno)⟩
    rw [hsign]
    refine hneg ?_
    rw [hreal] at hz
    cases neg <;> simpa using hz
  · obtain ⟨neg, a, tiny, E, hrun, ha, h0, hadj, hexact⟩ := Fmt.sinCosPi_inexact hf pick cos n m e hF
    obtain ⟨hfin, -, hreal⟩ := hf.value_signed ha neg
    obtain ⟨hflags, htiny⟩ := inexactFlags_cases tiny
    simp only [hrun, hexact, hreal, abs_signReal_mul neg h0]
    refine ⟨hfin, fun hint => absurd ((twice_rat_int_iff n m e).mp hint) hF, fun _ => ?_⟩
    exact ⟨fun y hy => hadj.not_between hf h0 neg hy, hflags, fun h => hadj.only (htiny.mp h),
      fun h => htiny.mpr (hadj.always h)⟩

end
end

section
/-! SUPPORT. SINPI and COSPI as words (R143, log 9). -/

namespace Sys2Proof.Machine

/-- Either word runs the one meaning. -/
theorem exec_sinCos {d a : BitVec 8} {i : Instr} {cos : Bool}
    (hi : (i = .sinpi d a ∧ cos = false) ∨ (i = .cospi d a ∧ cos = true))
    (s : State) : exec i s = sinCosWord i cos d a s := by
  rcases hi with ⟨rfl, rfl⟩ | ⟨rfl, rfl⟩
  · rfl
  · rfl

end Sys2Proof.Machine

section
open Sys2Proof Sys2Proof.Machine

/-- Settles O22: the free choices are `sinCosPick`; without an enabled flag the word is `sinCosWord_runs`, its elements
`elemAt_sinCosLane`, and with one `sinCosWord_traps`. -/
theorem sinesAndCosines : Obligations.SinesAndCosines := by
  unfold Obligations.SinesAndCosines
  intro s st d a i cos f hi
  have hexec := exec_sinCos hi s
  intro t u hf r hact
  refine ⟨sinCosPick s.fresh a.toNat st, ?_⟩
  have hflags : ∀ l, (sinCosLane cos s.fresh a.toNat st l).2 =
      orFlags ((List.range (arithOf st.group.mode).t.count).map fun j => (sinCosElem f cos s.fresh a.toNat st l j).2) :=
    fun l => by rw [sinCosLane_eq hf]
  refine ⟨fun hquiet => ?runs, fun hflag => ?traps⟩
  case runs =>
    obtain ⟨x, hrun, hlanes, hother, hgroup, hframe⟩ := sinCosWord_runs hexec hf r fun l hl => by
      rw [hflags]
      exact hquiet l hl
    refine ⟨x, hrun, fun l hl j hj => ?_, hother, ?_, hframe⟩
    · rw [hlanes l hl]
      exact elemAt_sinCosLane hf cos s.fresh a.toNat l hj
    · simp only [hflags] at hgroup
      exact hgroup
  case traps =>
    have htrap := sinCosWord_traps hexec r (by simp only [hflags]; exact hflag)
    simp only [hflags] at htrap
    exact htrap

end
end
